-- ==== Sys2Proof/Word.lean ====
section
/-! DEFINITION. The word types of the module: registers and descriptor quadwords are 64 bits (R8, R98). -/

namespace Sys2Proof

/-- A 64-bit quadword. -/
abbrev Word := BitVec 64

/-- A byte of memory. -/
abbrev Byte := BitVec 8

end Sys2Proof
end

