-- ==== Sys2Proof/Machine/Bits.lean ====
section
/-! DEFINITION. Bit fields, byte order and saturation (bit ranges are written high to low, chapter
"Scope and the WY-1 at a glance"; all multi-byte layouts are little-endian, R98). -/

namespace Sys2Proof.Machine

/-- Bits hi down to lo of a number. -/
def bitsOf (w hi lo : Nat) : Nat := (w >>> lo) % 2 ^ (hi + 1 - lo)

/-- One bit of a number. -/
def bitOf (w i : Nat) : Bool := (w >>> i) % 2 == 1

/-- Bits hi down to lo of a word. -/
def fieldOf (w : Word) (hi lo : Nat) : Nat := bitsOf w.toNat hi lo

/-- The word with bits hi down to lo replaced by the low bits of v. -/
def withField (w : Word) (hi lo v : Nat) : Word :=
  BitVec.ofNat 64 (w.toNat - (bitsOf w.toNat hi lo) <<< lo + (v % 2 ^ (hi + 1 - lo)) <<< lo)

/-- A number as a word. -/
def wordOf (n : Nat) : Word := BitVec.ofNat 64 n

/-- One where the condition holds, else zero. -/
def ofBool (b : Bool) : Nat := if b then 1 else 0

/-- The low n bytes of v, lowest first. -/
def leBytes : Nat → Nat → List Byte
  | 0, _ => []
  | n + 1, v => BitVec.ofNat 8 v :: leBytes n (v / 256)

/-- The number a list of bytes spells, lowest byte first. -/
def ofLeBytes : List Byte → Nat
  | [] => 0
  | b :: bs => b.toNat + 256 * ofLeBytes bs

/-- a + b, saturating at the greatest number of w bits. -/
def satAdd (w a b : Nat) : Nat := min (a + b) (2 ^ w - 1)

/-- v limited to lo .. hi. -/
def clampTo (lo hi v : Nat) : Nat := max lo (min hi v)

/-- The numbers 0 .. n-1 for which bit i of m is set. -/
def bitList (n m : Nat) : List Nat := (List.range n).filter (bitOf m)

/-- The mask with the bits of a list set. -/
def maskOf (l : List Nat) : Nat := l.foldl (fun m i => m ||| (1 <<< i)) 0

/-- The number with bit i set or cleared. -/
def putBit (m i : Nat) (b : Bool) : Nat :=
  if bitOf m i then (if b then m else m - 1 <<< i) else (if b then m + 1 <<< i else m)

/-- Number of set bits among the low n. -/
def popCount (n m : Nat) : Nat := (bitList n m).length

/-- The 64-bit two's complement reading of a word. -/
def signedOf (w : Word) : Int := w.toInt

/-- Sign extension of the low n bits of v to 64 bits. -/
def signExt (n v : Nat) : Word :=
  let x := v % 2 ^ n
  if x < 2 ^ (n - 1) then wordOf x else wordOf (2 ^ 64 + x - 2 ^ n)

end Sys2Proof.Machine
end

