-- ==== Sys2Proof/Machine/SMap.lean ====
section
/-! DEFINITION. Sparse maps in one canonical form: a list of (key, value) pairs whose keys strictly rise and in
which no entry equals what an unlisted key reads as. Equal maps are equal lists. Memory, the register file and
every numbered table of the module use it. -/

namespace Sys2Proof.Machine

/-- A sparse map from numbers. -/
abbrev SMap (α : Type) := List (Nat × α)

/-- What key k reads as; dflt says what an unlisted key reads as. -/
def SMap.get {α : Type} (dflt : Nat → α) (m : SMap α) (k : Nat) : α :=
  match m with
  | [] => dflt k
  | (j, v) :: rest => if j = k then v else SMap.get dflt rest k

/-- The map with key k reading v. Writing what an unlisted key reads as removes the entry. -/
def SMap.set {α : Type} [DecidableEq α] (dflt : Nat → α) (m : SMap α) (k : Nat) (v : α) : SMap α :=
  match m with
  | [] => if v = dflt k then [] else [(k, v)]
  | (j, w) :: rest =>
    if k ≤ j then
      let above := ((j, w) :: rest).filter fun e => e.1 != k
      if v = dflt k then above else (k, v) :: above
    else (j, w) :: SMap.set dflt rest k v

/-- All keys lie above b and strictly rise, and no entry is a default. -/
def SMap.wfAbove {α : Type} [DecidableEq α] (dflt : Nat → α) : Option Nat → SMap α → Bool
  | _, [] => true
  | b, (j, v) :: rest =>
    (match b with
      | none => true
      | some i => decide (i < j)) && decide (v ≠ dflt j) && SMap.wfAbove dflt (some j) rest

/-- The canonical form. -/
def SMap.wf {α : Type} [DecidableEq α] (dflt : Nat → α) (m : SMap α) : Bool := SMap.wfAbove dflt none m

/-- The entries of a list laid at consecutive keys from k, those equal to a default left out. -/
def SMap.entries {α : Type} [DecidableEq α] (dflt : Nat → α) (k : Nat) : List α → SMap α
  | [] => []
  | v :: vs => if v = dflt k then SMap.entries dflt (k + 1) vs else (k, v) :: SMap.entries dflt (k + 1) vs

/-- Consecutive keys from k read the elements of a list; all others read as before. -/
def SMap.setList {α : Type} [DecidableEq α] (dflt : Nat → α) (m : SMap α) (k : Nat) (vs : List α) : SMap α :=
  m.filter (fun e => decide (e.1 < k)) ++ SMap.entries dflt k vs ++
    m.filter (fun e => decide (k + vs.length ≤ e.1))

/-- What n consecutive keys from k read as. -/
def SMap.getList {α : Type} (dflt : Nat → α) (m : SMap α) (k n : Nat) : List α :=
  (List.range n).map fun i => SMap.get dflt m (k + i)

/-- The entries for which p holds stay; the others read their default again. -/
def SMap.keep {α : Type} (p : Nat → Bool) (m : SMap α) : SMap α := m.filter fun e => p e.1

/-- Every listed value changed by f; entries that come to equal a default are dropped. -/
def SMap.mapAll {α : Type} [DecidableEq α] (dflt : Nat → α) (f : α → α) (m : SMap α) : SMap α :=
  (m.map fun e => (e.1, f e.2)).filter fun e => decide (e.2 ≠ dflt e.1)

/-- The keys that are listed. -/
def SMap.keys {α : Type} (m : SMap α) : List Nat := m.map Prod.fst

end Sys2Proof.Machine
end

