-- ==== Sys2Proof/Types.lean ====
section
/-! DEFINITION. The plain data that arrives with commands from outside. -/

namespace Sys2Proof

/-- R60, R61: what the boot ROM finds of one firmware image: whether its signature and the digest of its body
verify, and its header's fields, the digest that the header states among them (R439); and the feature levels the image advertises
(R401). -/
structure Image where
  sigOk : Bool
  digestOk : Bool
  stepping : Nat
  version : BitVec 32
  length : Nat
  featBase : Nat
  featAdvertised : Nat
  featTable : List Word
  digest : BitVec 512 := 0
  deriving DecidableEq, Repr, Inhabited

/-- R65, R67: a memory repair entry, or in the field repair record a lane entry (interface 0xFF). -/
structure Repair where
  interface : Nat
  channel : Nat
  bank : Nat
  row : Nat
  deriving DecidableEq, Repr

/-- R65: what the bytes of a defect map record say. known: they begin with WYDM and record format 1, and every reserved byte is zero;
whole: all the entries and the signature that it counts are there. -/
structure DefectMap where
  known : Bool
  whole : Bool
  version : BitVec 32
  stepping : Nat
  serial : Nat
  coreMap : List Nat
  unassigned : List Nat
  laneMap : List Nat
  count : Nat
  repairs : List Repair
  deriving DecidableEq, Repr, Inhabited

/-- R67: what the bytes of a field repair record say. -/
structure FieldRecord where
  known : Bool
  whole : Bool
  serial : Nat
  count : Nat
  repairs : List Repair
  deriving DecidableEq, Repr, Inhabited

/-- R98: one command descriptor. -/
structure Desc where
  q0 : Word := 0
  q1 : Word := 0
  q2 : Word := 0
  q3 : Word := 0
  q4 : Word := 0
  q5 : Word := 0
  q6 : Word := 0
  q7 : Word := 0
  deriving DecidableEq, Repr

/-- R76, R78: what a PCI Express configuration request does that the spec gives the module: a read, enabling a
number of virtual functions, moving its function to D0 or D3hot, masking or unmasking one of its MSI-X vectors, or enabling PTM. -/
inductive ConfigAccess where
  | read
  | enableVfs (n : Nat)
  | powerState (d3hot : Bool)
  | maskVector (vec : Nat) (masked : Bool)
  | enablePtm (on : Bool)
  deriving DecidableEq, Repr

/-- R349, R350: a flit as a port receives it: its 256 bytes, and the bits corrected in the codeword that begins in it, none where that
codeword could not be corrected. -/
structure RxFlit where
  bytes : List Byte
  word : Option Nat := some 0
  deriving DecidableEq, Repr

/-- R348: the place of the other end of a port: its port number and its plane. -/
structure PeerPort where
  port : Nat
  plane : Nat
  deriving DecidableEq, Repr

/-- R222: a remote tag: the die that holds it and its number. -/
structure RemoteTag where
  die : Nat
  tag : Nat
  deriving DecidableEq, Repr

/-- R439: the part of a certificate chain that a request asks for: its first byte and its length. -/
structure ChainPart where
  off : Nat
  len : Nat
  deriving DecidableEq, Repr

/-- R441: what the bus owner gives an MCTP endpoint: its EID, and the transmission unit it negotiates. -/
structure EndpointIds where
  eid : Nat
  unit : Nat := 64
  deriving DecidableEq, Repr

/-- R386: the tiles that a record of an image gives one unit of a table. -/
structure UnitRecord where
  unit : Nat
  tiles : List (List Byte)
  deriving DecidableEq, Repr

/-- R386, R387: what another member of a table's group tells of a binding or a publish: the epoch that it makes, whether its part failed
(1 a record, 2 a pool, 3 a member that has not confirmed), whether it has placed its units and where they lie (unit, offset, tiles), and
its image's records of units of this chip; of a publish also whether it has offered places for its units, and whether it has taken the
places that others offered for their copies on it. -/
structure MemberBind where
  epoch : Nat := 1
  fail : Nat := 0
  offered : Bool := false
  agreed : Bool := false
  placed : Bool := false
  units : List (Nat × Nat × Nat) := []
  records : List UnitRecord := []
  deriving DecidableEq, Repr

/-- R307, R335: an exact sum in units of 2^-149, with its NaN and infinity flags. -/
structure ExactSum where
  sum : Int := 0
  nan : Bool := false
  inf : Bool := false
  deriving DecidableEq, Repr

/-- R391: a new map entry that an owner announces: the unit's new owner, offset and copies. -/
structure UnitChange where
  handle : Nat
  unit : Nat
  owner : Nat
  offset : Nat
  copies : List Nat
  deriving DecidableEq, Repr

/-- R305, R335, R388, R391: what a member contributes to the exchange of the close of a step: its layer slots' audited and missed counts,
its saturations, its norm accumulators, its column accumulators with their row counts (by binding slot), the tables whose
pending publish it has built, and the map entries it announces with the version of its map; its ADVERTISED level (R404); and where
PLC_CFG.MB_MOVE is 1 the time, from the opening, at which its engines were last busy, with its first and last micro-batch (R394); the
epochs of tables that it still binds (R389); and the reads it has served in the step, the units it owns and the bytes it has served and
received (R390). -/
structure StepTotals where
  step : Nat := 0
  layers : List (Nat × Nat × Nat) := []
  sat : Nat := 0
  norms : List (Nat × ExactSum) := []
  cols : List (Nat × Nat × List (Nat × ExactSum)) := []
  built : List Nat := []
  changes : List UnitChange := []
  version : Word := 0
  advertised : Nat := 65535
  busy : Option (Nat × Nat × Nat) := none
  binds : List (Nat × Nat) := []
  served : Nat := 0
  units : Nat := 0
  load : Nat := 0
  deriving DecidableEq, Repr

/-- R431: where a word of an SRAM array lies, by its outcome: a logical core; the buffers of an engine (die, its number there) at work on a command (partition, queue, ring
index), or of a stream's pump (partition, stream); a directory entry (slice, set, way) or cached translation (die, position); a table
of a partition; any other array (die). -/
inductive SramPlace where
  | core (c : Nat)
  | engine (die unit part queue idx : Nat)
  | pump (part stream : Nat)
  | directory (slice set way : Nat)
  | translation (die pos : Nat)
  | table (part die : Nat)
  | other (die : Nat)
  deriving DecidableEq, Repr

/-- R431: one read of a word of an array: its array class, and how many of its bits are wrong (2 stands for more than one). -/
structure SramRead where
  place : SramPlace
  cls : Nat
  bits : Nat
  deriving DecidableEq, Repr

/-- R390: what a move does: it moves a unit, adds a copy of it, or drops the copy of dst. -/
inductive MoveKind where
  | move | addCopy | dropCopy
  deriving DecidableEq, Repr

/-- R390: a move that firmware decides. -/
structure MoveChoice where
  handle : Nat
  unit : Nat
  src : Nat
  dst : Nat
  offset : Nat
  kind : MoveKind
  deriving DecidableEq, Repr

/-- R371: what a member tells of the collective it begins: its OP, DTYPE, ROP, count and root, which must agree. -/
structure CollWhat where
  op : Nat
  dtype : Nat
  rop : Nat
  count : Nat
  root : Nat
  deriving DecidableEq, Repr

/-- R371, R375, R386, R304: what a GROUP packet says, whose layout the spec does not give: a member has issued FORM with a list
and level, and its own levels; begins a collective; has been reset; tells of a binding or a publish of a table; contributes its
totals; or says whether it makes its end of a move of a unit (R393). -/
inductive GroupMsg where
  | form (part group : Nat) (members : List Nat) (level advertised enabled : Nat)
  | coll (part group seq : Nat) (what : CollWhat)
  | gone (part group : Nat)
  | bind (part handle : Nat) (info : MemberBind)
  | totals (part : Nat) (t : StepTotals)
  | move (part handle unit : Nat) (makes : Bool)
  | restored (ctx : Nat)
  deriving DecidableEq, Repr

end Sys2Proof
end

