-- ==== Sys2Proof/Machine/Parts.lean ====
section
/-! DEFINITION. The kinds of state the module holds, as plain data: pins, boot records, rings, commands, objects, cores,
tables, links and partitions. -/

namespace Sys2Proof.Machine

/-! ### Electrical (chapter 20) and the boot records (chapter 03) -/

/-- The pins and rails of R449 to R459, and the two holds in device reset. -/
structure Pins where
  /-- the board has raised its rails (R451) -/
  powered : Bool := false
  /-- PERST# is asserted (R451) -/
  perst : Bool := true
  /-- THERMTRIP_N is driven low; stays low until VDD_AON falls (R457) -/
  thermtrip : Bool := false
  /-- held in device reset without bring-up until PERST# is asserted and released (R454, R455) -/
  railHold : Bool := false
  /-- held in Snowdrop by R457 until power-off (R459) -/
  thermHold : Bool := false
  deriving DecidableEq, Repr

/-- R60: the regions of the flash, in the order of their offsets. -/
inductive FlashRegion where
  | directory | certificate | defectMap | fieldRecord | boardRecord | policyRecord | reservedLow | imageRegion | reservedHigh
  deriving DecidableEq, Repr

/-- R60: where a region begins, and its length, in bytes. -/
def FlashRegion.span : FlashRegion → Nat × Nat
  | .directory => (0x00000000, 0x10000)
  | .certificate => (0x00010000, 0x30000)
  | .defectMap => (0x00040000, 0x40000)
  | .fieldRecord => (0x00080000, 0x40000)
  | .boardRecord => (0x000C0000, 0x10000)
  | .policyRecord => (0x000D0000, 0x10000)
  | .reservedLow => (0x000E0000, 0x20000)
  | .imageRegion => (0x00100000, 0x4000000)
  | .reservedHigh => (0x04100000, 0xBF00000)

/-- R60: the regions the device writes. -/
def FlashRegion.written : FlashRegion → Bool
  | .fieldRecord | .boardRecord | .policyRecord | .imageRegion => true
  | _ => false

/-- The contents of the 256 MiB flash, region by region (R60). Records that the spec lays out are kept as their bytes, each with the
verdict on its signature; the directory, the image's header and the certificates, which it does not lay out, by what they say. -/
structure Flash where
  /-- the flash directory can be read and is well formed (0x0121) -/
  dirOk : Bool := true
  /-- the certificates of the Rehal root, the product authority and the device identity (R437), and the serial number the last names
  (R66) -/
  certs : List (List Byte) := []
  /-- the helper data of the device identity key (R437) -/
  helper : List Byte := []
  idSerial : Nat := 0
  image : Image
  /-- an erase and program of the image region is under way (R64) -/
  writing : Bool := false
  /-- the defect map record, and whether its signature verifies over bytes 0 to 607 + 8 × m (R65) -/
  map : List Byte
  mapSig : Bool := true
  /-- the field repair record, and whether its signature verifies over bytes 0 to 31 + 8 × m (R67) -/
  field : List Byte
  fieldSig : Bool := true
  /-- the board configuration record, its 56 bytes (R444) -/
  board : List Byte
  /-- the boot policy record: COLD_TEST in bits 1:0, WARM_TEST in bits 3:2 (R70, R75) -/
  policy : Nat := 4
  /-- a BOOT_POLICY value that waits for the image write to end (R64) -/
  policyWaiting : Option Nat := none
  deriving DecidableEq, Repr

/-- What bring-up keeps between its stages (chapter 03). -/
structure Boot where
  /-- this start follows power-on (R70) -/
  cold : Bool := true
  /-- the image in control memory (R61) -/
  running : Option Image := none
  /-- the pushed image that runs and that flash does not yet hold (R64) -/
  pushed : Bool := false
  /-- a staged push of R443 is under way -/
  stagedPush : Bool := false
  /-- the defect map in force (R66) and the board record this start read -/
  map : Option DefectMap := none
  board : List Byte := []
  /-- memory interfaces trained, a mask of 32 bits (R68) -/
  memTrained : Nat := 0
  /-- ports repaired at this start, a mask of 28 bits (BOOT_REPORT_D of Yarrow) -/
  portsRepaired : Nat := 0
  /-- repair entries made at this start and not yet written (R71, R72) -/
  newRepairs : List Repair := []
  /-- the test policy this start read: COLD_TEST bits 1:0, WARM_TEST bits 3:2 (R70: a write applies from the
  next start) -/
  policy : Nat := 4
  /-- NEXT_PUSH or VALID as it stood at the reset (R63, R443) -/
  pushFirst : Bool := false
  /-- a value of BOOT_POLICY written before Celandine has read the flash: firmware writes it to flash then (R75) -/
  policyWritten : Option Nat := none
  /-- connected ports that were still training when Yarrow started, a mask (0x0162) -/
  latePorts : Nat := 0
  /-- the machine counter at the start of the current stage (R56) -/
  started : Word := 0
  /-- the field repair entries in force (R67) -/
  field : List Repair := []
  /-- a host push is under way, and the pushes made so far (R62) -/
  pushing : Bool := false
  pushes : Nat := 0
  deriving DecidableEq, Repr

/-! ### Records and rings (chapters 04 and 19) -/

/-- R427: one 64-byte record. body holds bytes 32 to 63 as four quadwords. -/
structure LogRec where
  code : Nat
  cls : Nat
  flags : Nat := 0
  seq : Nat := 0
  time : Word := 0
  chip : Nat := 0
  part : Nat := 0xFF
  die : Nat := 0xFF
  suppressed : Nat := 0
  body : List Word := []
  deriving DecidableEq, Repr

/-- R430: the storm window of one code on one ring. -/
structure Storm where
  written : Nat := 0
  suppressed : Nat := 0
  last : Option LogRec := none
  deriving DecidableEq, Repr

/-- R95: an error ring beyond its registers; ring p is partition p's, ring 8 the module's. -/
structure ErrRing where
  tail : Nat := 0
  head : Nat := 0
  storms : SMap Storm := []
  deriving DecidableEq, Repr

/-- R429: one record of the history buffer; waiting: bound for the module ring and not yet written there. -/
structure HistRec where
  record : LogRec
  waiting : Bool
  deriving DecidableEq, Repr

/-- R89: one completion record's fields before it is written. -/
structure CplRec where
  typ : Nat
  status : Nat
  queue : Nat
  index : Nat
  value : Word
  low3 : Nat := 0
  /-- the step number of a command of an interval that has ended (R320) -/
  step : Option Nat := none
  deriving DecidableEq, Repr

/-- R85: a submission ring beyond its registers. -/
structure SqState where
  /-- the last PRODUCER seen -/
  seen : Nat := 0
  /-- SLEEP = 1 has been written and the producer read is under way -/
  checking : Bool := false
  deriving DecidableEq, Repr

/-- R91, R92: a completion ring beyond its registers. -/
structure CqState where
  head : Nat := 0
  /-- ARM_SEQ last read and last served -/
  armRead : Nat := 0
  armServed : Nat := 0
  /-- records that wait for room or for the ring to be enabled -/
  waiting : List CplRec := []
  /-- once-per-episode flags of 0x0403, 0x0409 and 0x0407 -/
  fullLogged : Bool := false
  headLogged : Bool := false
  deriving DecidableEq, Repr

/-! ### Commands (chapter 05) -/

/-- R100: the states of a command. -/
inductive CmdState where
  | fetched | waiting | running | done | retired
  deriving DecidableEq, Repr

/-- R264, R265, R266: one keyed contribution to a row: its key, and the parts of its gradient row that have landed, widened to
binary32. -/
structure Contribution where
  row : Nat
  chip : Nat := 0
  seq : Nat := 0
  parts : SMap (List (BitVec 32)) := []
  deriving DecidableEq, Repr

/-- One outstanding command of a queue (R100, R102). -/
structure Cmd where
  idx : Nat
  desc : Desc
  st : CmdState := .fetched
  status : Nat := 0
  value : Word := 0
  /-- the credit it waits for has been counted (R135): 1 a window slot, 2 ready-list entries -/
  stall : Nat := 0
  /-- found illegal by decode, but its flow item is held: reason and detail (R131) -/
  skip : Option (Nat × Nat) := none
  /-- its flow item has been admitted (R132) -/
  item : Bool := false
  /-- the engine's work of the command has begun -/
  begun : Bool := false
  /-- the engine's work of the command has ended -/
  worked : Bool := false
  /-- next unit of work, and the unit it is parked at (R217) -/
  unit : Nat := 0
  parked : Option Nat := none
  /-- the resume handle of the parked unit, and the kind and address of its translation fault (R217) -/
  handle : Nat := 0
  fault : Nat × Nat := (0, 0)
  /-- further data the command's family keeps between its steps -/
  aux : List Nat := []
  /-- the table binding and the step number in force when it started (R252, R320) -/
  gen : Nat := 0
  stepNo : Nat := 0
  /-- a fault has been logged: the command ends with STATUS 0x04; the codes logged so far (R247, R270) -/
  bad : Bool := false
  logged : List Nat := []
  /-- rows or data an engine has in hand, by position (R257) -/
  got : SMap (List Byte) := []
  /-- packets of its delivery flow sent so far, by chip (R364) -/
  sent : SMap Nat := []
  /-- its delivery flow (R364) -/
  flow : Option Nat := none
  /-- contributions of its own chip that wait for log room (R268) -/
  held : List Contribution := []
  /-- positions whose contribution has been lost and counted (R265) -/
  lost : List Nat := []
  deriving DecidableEq, Repr

/-- R129: one entry of a die's ready list. -/
structure ReadyEntry where
  part : Nat
  queue : Nat
  idx : Nat
  cls : Nat
  level : Nat
  /-- order of ready times -/
  since : Nat
  granted : Bool := false
  deriving DecidableEq, Repr

/-- R115: the states of a sequencer. -/
inductive SeqState where
  | idle | running | waiting | stopping | faulted
  deriving DecidableEq, Repr

/-- R111, R112: an active hardware loop: its body's first and last word and the runs left. -/
structure LoopFrame where
  first : Nat
  last : Nat
  left : Nat
  deriving DecidableEq, Repr

/-- R109: a part of a program write that waits on a lease; origin names queue and index, none for a register write. -/
structure PmemPart where
  word : Nat
  data : List Word
  origin : Option (Nat × Nat)
  deriving DecidableEq, Repr

/-! ### Synchronisation (chapter 06) -/

/-- One waiter of a sync object, in the terms of SYN_DBG_WAITER (R140). -/
structure Waiter where
  isCore : Bool
  part : Nat
  who : Nat
  index : Nat
  op : Nat
  value : Word
  polling : Bool := false
  deriving DecidableEq, Repr

/-- R117: one sync object; the bound is in SYN_OBJ_CFG. -/
structure SyncObj where
  value : Word := 0
  waiters : List Waiter := []
  lastSrc : Word := 0
  lastIndex : Nat := 0
  underflowed : Bool := false
  overflowed : Bool := false
  deriving DecidableEq, Repr

/-- R132: an item in a flow's window. -/
structure FlowItem where
  seq : Nat
  completed : Bool := false
  deriving DecidableEq, Repr

/-- R131: one ordered flow; its state and NEXT_RELEASE are in SYN_FLOW_STATUS. -/
structure Flow where
  items : List FlowItem := []
  /-- 0x0607 has been logged for this flow (R133) -/
  noSignalLogged : Bool := false
  deriving DecidableEq, Repr

/-! ### What the last command sent outside -/

/-- What a management packet between the ends of a port, or about one, says. -/
inductive MgmtMsg where
  /-- PARAM: chip, port and plane, advertised feature level, the lane that the repair lane serves, receive credits of each channel, replay
  depth -/
  | param (chip port plane level lane : Nat) (credits : List Nat) (depth : Nat)
  /-- QUAL: errors after FEC and corrected bits of each lane in a window -/
  | qual (port errors : Nat) (lanes : List Nat)
  /-- SEQ_QUERY for a port, and its answer -/
  | seqQuery (port : Nat)
  | seqReply (port seq : Nat)
  deriving DecidableEq, Repr

/-- What the module sends: host writes, interrupts, answers, records for the board, packets and pins. -/
inductive Out where
  /-- a write of bytes to host memory -/
  | hostWrite (addr : Nat) (data : List Byte)
  /-- a read of host memory, by address and length -/
  | hostRead (addr : Nat) (len : Nat)
  /-- an MSI-X vector of a function (0 physical) -/
  | msix (fn vec : Nat)
  /-- a correctable AER error (R77) -/
  | aerCorrectable
  /-- an uncorrectable AER error (R76) -/
  | aerUncorrectable
  /-- a read completion with its data -/
  | readData (data : List Byte)
  /-- Unsupported Request (R80) -/
  | unsupported
  /-- a configuration completion (R59, R76) -/
  | configReply (data : Word)
  /-- a PLDM platform event message with its record (R433, R441) -/
  | platformEvent (r : LogRec)
  /-- an answer on the management interface: its MCTP message type, the request's name, its completion code and its payload as the
  transmission unit cuts it (R441) -/
  | mgmtReply (typ : Nat) (name : String) (code : Nat) (data : List (List Byte))
  /-- an I3C in-band interrupt with its mandatory data byte (R441) -/
  | inBand (byte : Nat)
  /-- a read of another chip's memory: global address and length -/
  | remoteRead (addr len : Nat)
  /-- a write to another chip's memory, in WRITE packets (R363) -/
  | remoteWrite (addr : Nat) (data : List Byte)
  /-- a flit on a port: its 256 bytes -/
  | flit (port : Nat) (data : List Byte)
  /-- idle flits on a port, so many in succession (R350) -/
  | idle (port count : Nat)
  /-- what a management packet to the switch of a plane says, whose layout the spec does not give (R348, R354, R72) -/
  | mgmt (plane : Nat) (msg : MgmtMsg)
  /-- a GROUP packet to a member, whose layout the spec does not give: the chip and what it says (R371, R386, R304) -/
  | group (chip : Nat) (msg : GroupMsg)
  /-- FINAL for a moved unit: the chip, handle and unit (R391) -/
  | final (chip handle unit : Nat)
  /-- the advertised feature level, told on a port in a packet whose layout the spec does not give (R73) -/
  | advertise (port level : Nat)
  /-- a command to a rail group: address, command code, value (R453) -/
  | railCommand (addr code value : Nat)
  deriving DecidableEq, Repr

/-! ### Array and vector engine (chapters 08 and 09) -/

/-- One cell of an accumulator slot: the running value of its part. A float slot uses f; an integer slot the running
values for shifts 0, 8 and 16, whether each of the first two has left the range, and for shift 16 the group at which
it left and whether below (R171). -/
structure Cell where
  f : BitVec 32 := 0
  i0 : Int := 0
  i8 : Int := 0
  i16 : Int := 0
  left0 : Bool := false
  left8 : Bool := false
  left16 : Option (Nat × Bool) := none
  deriving DecidableEq, Repr

/-- R169, MXA_SLOT_STATE: the states of a slot. -/
inductive SlotMode where
  | empty | float | integer | shadow
  deriving DecidableEq, Repr

/-- R169, R185: an accumulator slot. cells lists the cells (r, c) at 64 r + c; empty where the slot holds no chain. -/
structure Slot where
  mode : SlotMode := .empty
  /-- FOLD field: 0, 1, 2 for f = 1, 2, 4 -/
  fold : Nat := 0
  round : Nat := 0
  /-- position n of the next MMA of the chain -/
  n : Nat := 0
  tensor : Nat := 0
  row : Nat := 0
  col : Nat := 0
  sA : BitVec 32 := 0
  sB : BitVec 32 := 0
  /-- a float accumulation of the chain has overflowed (R151) -/
  overflowed : Bool := false
  cells : List Cell := []
  deriving DecidableEq, Repr

/-- R179: one tile-queue entry: the drained tile's element codes, row by row, and for MX formats the block scales,
row by row. -/
structure TqEntry where
  fmt : Nat
  scale : BitVec 32
  flags : Nat
  tensor : Nat
  row : Nat
  col : Nat
  cols : Nat
  codes : List (BitVec 32)
  scales : List Byte
  deriving DecidableEq, Repr

/-- R172, R188: an issued array or vector instruction, with its word address and the scalar registers as they were
read at issue; flow is the flow word of the item it was admitted with. -/
structure QItem where
  word : Word
  pc : Nat
  sregs : SMap Word
  flow : Option Word := none
  deriving DecidableEq, Repr

/-- The engines of a core that write local scratch. -/
inductive UnitId where
  | array | vector
  | copy (group : Nat)
  | stream (n : Nat)
  deriving DecidableEq, Repr

/-- R227: what a core waits for in SWAIT or CSYNC. -/
inductive PumpWait where
  | tile (stream sreg : Nat)
  | groups (mask : Nat)
  deriving DecidableEq, Repr

/-- R227: one copy of a core that has not completed: its tiles, the next one and, where it is parked, the handle. -/
structure CoreCopy where
  group : Nat
  inward : Bool
  /-- RAW of COPY_IN, COMPRESS of COPY_OUT -/
  flag : Bool
  fmt : Nat
  frame : Nat
  dva : Nat
  count : Nat
  unit : Nat := 0
  parked : Option Nat := none
  /-- the kind and address of the fault it is parked for -/
  fault : Nat × Nat := (0, 0)
  /-- the ring index of the core's command -/
  idx : Nat := 0
  deriving DecidableEq, Repr

/-- R225: a tile that a pump has landed and the core has not taken: its number, where its source lies on this chip, the
granules that a local write has made stale, and how often each has been read again. -/
structure PumpTile where
  t : Nat
  source : Option Nat
  stale : List Nat := []
  rereads : SMap Nat := []
  deriving DecidableEq, Repr

/-- R224: an armed stream: its descriptor, the next tile to fetch, the tiles landed and not yet visible, and the frames
the core holds, oldest first. -/
structure Stream where
  armed : Bool := false
  placed : Bool := false
  watch : Bool := false
  raw : Bool := false
  fmt : Nat := 0
  source : Nat := 0
  count0 : Nat := 0
  stride0 : Int := 0
  count1 : Nat := 0
  stride1 : Int := 0
  core : Nat := 0
  base : Nat := 0
  ringLog2 : Nat := 0
  next : Nat := 0
  landed : List PumpTile := []
  visible : List Nat := []
  parked : Option Nat := none
  /-- the kind and address of the fault it is parked for; where that is the re-read of a granule, its tile and granule -/
  fault : Nat × Nat := (0, 0)
  again : Option (Nat × Nat) := none
  /-- a tile failed its checksum or was unreachable: the pump has stopped (R220) -/
  broken : Bool := false
  /-- the ring index of its ARM, and the DVA of its descriptor (R224, R412) -/
  idx : Nat := 0
  desc : Nat := 0
  deriving DecidableEq, Repr

/-- R216: one cached translation: its partition, its first DVA, the logarithm of its size, its leaf entry. -/
structure TlbEntry where
  part : Nat
  base : Nat
  size : Nat
  leaf : Word
  deriving DecidableEq, Repr

/-- R436: an injector beyond its register: eligible events since its last injection; its count has run out. -/
structure Injector where
  seen : Nat := 0
  spent : Bool := false
  deriving DecidableEq, Repr

/-- A write to local scratch that the other engines of the core may not see yet (R173, R204, R227). -/
structure Unsynced where
  who : UnitId
  addr : Nat
  len : Nat
  deriving DecidableEq, Repr

/-! ### Steps, the Cistern and tables (chapters 11 to 15 and 17) -/

/-- R307, R335: an exact sum in units of 2^-149, with its NaN and infinity flags. -/
structure Acc where
  sum : Int := 0
  nan : Bool := false
  inf : Bool := false
  deriving DecidableEq, Repr

/-- R312, R314: one entry of a Cistern segment: where it lies in the segment and how long it is, in pieces; its die; and the
chip offset of each of its pieces. -/
structure CisEntry where
  off : Nat
  len : Nat
  die : Nat
  pieces : List Nat
  deriving DecidableEq, Repr

/-- R311: one Cistern segment: whether it is open, its micro-batch, dies and reservation; its entries, entry 0 first; 0x0E01
has been logged for it; and the binding it was opened under. -/
structure Segment where
  isOpen : Bool := false
  mb : Nat := 0
  dies : Nat := 0
  reserve : Nat := 0
  entries : List CisEntry := []
  overLogged : Bool := false
  gen : Nat := 0
  deriving DecidableEq, Repr

/-- R300: what the step descriptor says, and the machine counter at opening. -/
structure StepRec where
  mbFirst : Nat := 0
  mbCount : Nat := 0
  group : Nat := 0
  initExp : Nat := 0
  growInterval : Nat := 0
  skipOnSat : Bool := false
  evalOnly : Bool := false
  notSealed : Bool := false
  opened : Word := 0
  openNs : Word := 0
  deriving DecidableEq, Repr

/-- R286: a layer slot beyond SPR_LAYER_STATE and SPR_LAYER_COUNT. -/
structure Layer where
  n : Nat := 0
  missLimit : Nat := 0
  denseHold : Nat := 0
  /-- the mode that takes effect at the next opening (R291) -/
  nextMode : Option Nat := none
  deriving DecidableEq, Repr

/-- R382: a map entry: the unit's owner, the copies this chip reads first and second, every chip that holds a copy, and
the chip offset of every copy; tiles counts the unit's tiles. -/
structure UnitMap where
  valid : Bool := false
  owner : Nat := 0
  read : Nat := 0
  alt : Nat := 0
  copies : List Nat := []
  offset : Nat := 0
  tiles : Nat := 0
  deriving DecidableEq, Repr

/-- R387: the next version of a table, as it is built: when it may become current, the units it carries forward, whether this
chip has built it and whether every member has; and whether 0x1104 has been logged. -/
structure Publish where
  switchNs : Word
  carried : List Nat := []
  built : Bool := false
  all : Bool := false
  deferred : Bool := false
  deriving DecidableEq, Repr

/-- R267, R270: where arrival contributions to a table come from: a chip, and for its own the queue, index and first position of the
command. -/
structure Arrived where
  chip : Nat
  cmd : Option (Nat × Nat) := none
  pos : Nat := 0
  row : Nat := 0
  deriving DecidableEq, Repr

/-- R232, R251, R385: a bound table: its units by epoch, its current (0 while it is being bound) and previous epochs, where
the maps of its epochs lie in far memory (R380), its pending publish, and the contribution log of its owned rows (R266, R267). -/
structure Table where
  graph : Bool
  rowLog2 : Nat
  fmt : Nat
  group : Nat
  n : Nat
  scale : Nat
  contribMax : Nat
  /-- R232, R242: the fields its row-blocks carry: bit 0 times, bit 1 weights -/
  fields : Nat := 3
  current : Nat := 1
  previous : Option Nat := none
  versions : SMap (SMap UnitMap) := []
  maps : SMap Nat := []
  publish : Option Publish := none
  unbinding : Bool := false
  log : List Contribution := []
  /-- R267: sums formed in arrival order, by row, with the number of contributions of each -/
  arrivals : SMap (Nat × List (BitVec 32)) := []
  /-- where arrival contributions have come from since the log was emptied -/
  arrived : List Arrived := []
  deriving DecidableEq, Repr

/-- R330, R335: a bound update rule: its 44 quadwords, its column statistic, and the column accumulators with the count of
rows that ran COLACC. -/
structure Rule where
  handle : Nat
  words : List Word
  col : List (BitVec 32) := []
  colAcc : SMap Acc := []
  colRows : Nat := 0
  deriving DecidableEq, Repr

/-- R391: a move of a unit, or the copying of it, under way: agreed says that the chip at its other end makes it too, and entry is the
entry of its DMA in the ready list. -/
structure Move where
  handle : Nat
  unit : Nat
  src : Nat
  dst : Nat
  offset : Nat
  kind : MoveKind
  copied : Bool := false
  agreed : Bool := false
  entry : Option Nat := none
  deriving DecidableEq, Repr

/-- R394: a micro-batch whose engine work one member of a step's group does for another. -/
structure MbMove where
  src : Nat
  dst : Nat
  mb : Nat
  deriving DecidableEq, Repr

/-- R383: one directory entry. -/
structure DirEntry where
  handle : Nat
  epoch : Nat
  part : Nat
  unit : Nat
  map : UnitMap
  deriving DecidableEq, Repr

/-- R339: a checkpoint that runs: its table and snapshot epoch, and for each unit not yet written its tiles as the snapshot
has them where an update has changed them since (R341). -/
structure Snapshot where
  handle : Nat
  epoch : Nat
  step : Nat
  units : List Nat
  tiles : SMap (List Byte) := []
  col : List (BitVec 32) := []
  /-- how many of its records are written -/
  done : Nat := 0
  deriving DecidableEq, Repr

/-! ### Links (chapter 16) -/

/-- R358: a packet: its slots of 16 bytes, the header slot first. -/
abbrev Packet := List (BitVec 128)

/-- R350, R351: a data flit in the replay buffer. -/
structure TxFlit where
  seq : Nat
  vc : Nat
  sop : Nat
  slots : Packet
  deriving DecidableEq, Repr

/-- R351 to R356: one port beyond its registers: the sender's replay buffer, next SEQ, credits and last counts received by
channel; the receiver's expected SEQ, NAK, slots freed, partial packet and whole packets by channel; replays from one SEQ
without progress; and the times of its retrains (R353). -/
structure Port where
  replay : List TxFlit := []
  nextSeq : Nat := 0
  credit : SMap Nat := []
  counted : SMap Nat := []
  expSeq : Nat := 0
  nak : Bool := false
  freed : SMap Nat := []
  part : SMap Packet := []
  rx : List (Nat × Packet) := []
  replays : Nat := 0
  retrains : List Word := []
  /-- the SEQ of the first flit after the last packet accepted whole (R354) -/
  wholeSeq : Nat := 0
  /-- data flits sent and accepted; LNK_PORT_TRAFFIC shows them in units of 65,536 (R377) -/
  txFlits : Nat := 0
  rxFlits : Nat := 0
  /-- qualification (R69, R72): windows failed, a retrain between windows runs, and the counts of the window that has ended, here
  and at the switch: errors after FEC, and corrected bits of each lane -/
  window : Nat := 0
  between : Bool := false
  own : Option (Nat × List Nat) := none
  peer : Option (Nat × List Nat) := none
  /-- what PARAM told of the other end: its plane, the lane its repair lane serves, and its replay depth (R348) -/
  peerPlane : Nat := 0
  peerLane : Nat := 15
  peerDepth : Nat := 0
  /-- flits of packets not acknowledged whole when the port FAILED, until the switch's answer (R354) -/
  unsent : List TxFlit := []
  /-- flits acknowledged of the packet whose later flits are not (R354) -/
  kept : List TxFlit := []
  /-- frames (R350): data flits sent since the last control flit, and those that wait for a frame with room -/
  frame : Nat := 0
  later : List TxFlit := []
  /-- codewords (R349): the place of the next received flit in the 1,285 of 512 codewords, whether the codeword that reaches into it could
  not be corrected, and when the last such codewords came (R352) -/
  cwFlit : Nat := 0
  cwBad : Bool := false
  badWords : List Word := []
  /-- management packets that wait for credit (R356) -/
  mgmt : List Packet := []
  deriving DecidableEq, Repr

/-- R222, R368: a request to another chip: its owner's command, its packet, the die and tag it holds (none while it waits for
one), what has come back by offset, how it ended, whether it was answered HELD or RETRY, and the row or packet it stands for. -/
structure Request where
  part : Nat
  q : Nat
  idx : Nat
  die : Nat
  tag : Option Nat := none
  pkt : Packet
  got : SMap (Option (BitVec 128)) := []
  status : Option Nat := none
  held : Bool := false
  retry : Bool := false
  item : Nat := 0
  /-- R259: the positions of a GATHER whose rows a READ brings -/
  rows : List Nat := []
  /-- R360: the plane of a CONTRIB, the die that holds the row's range -/
  plane : Nat := 0
  deriving DecidableEq, Repr

/-- R365, R366: a landing entry: its flow, the packets that have landed and the signal it holds. An entry whose signal has been
discarded (R367) is free, and lost counts the packets of its flow that still land without counting. -/
structure LandEntry where
  src : Nat
  srcDie : Nat
  flow : Nat
  count : Nat := 0
  signal : Option Packet := none
  lost : Nat := 0
  deriving DecidableEq, Repr

/-- R371: what a member has issued as FORM: its chip, list, level and its own advertised and enabled levels. -/
structure FormVote where
  chip : Nat
  members : List Nat
  level : Nat
  advertised : Nat
  enabled : Nat
  deriving DecidableEq, Repr

/-- R371: a collective group beyond LNK_GROUP: its members, what members have issued for its formation, how many
collectives this chip has begun on it, and which collectives members have told of: chip, number and what it is. -/
structure Group where
  members : List Nat := []
  votes : List FormVote := []
  seq : Nat := 0
  told : List (Nat × Nat × CollWhat) := []
  deriving DecidableEq, Repr

/-- R372: data that a member has sent for a collective: the group, the collective's number on it, chunk, source rank, place in
the chunk. -/
structure CollPart where
  part : Nat
  group : Nat
  seq : Nat
  chunk : Nat
  rank : Nat
  off : Nat
  data : List Byte
  deriving DecidableEq, Repr

/-- R419: a remote signal held for a partition whose context is being switched: the partition, the CTX_ID saved, the home die, the
relative object, operation and amount, and the source chip. -/
structure HeldSignal where
  part : Nat
  ctx : Nat
  die : Nat
  rel : Nat
  op : Nat
  amount : Nat
  src : Nat
  deriving DecidableEq, Repr

/-- R422: a reset that runs: its scope (1 core, 2 cluster, 3 partition, 4 compute), its target, whether CTX_RESET requested it,
whether the commands it absorbs get records, whether it is a reset of the physical function, the partitions whose blocks a function
reset of their virtual functions returns to reset values (R96), and the commands it has absorbed so far. -/
structure ResetRun where
  scope : Nat
  target : Nat
  byReg : Bool
  pf : Bool := false
  flr : List Nat := []
  absorbed : Nat := 0
  /-- the partitions whose save or restore it has ended (R423) -/
  ended : List Nat := []
  deriving DecidableEq, Repr

/-- R397: the stamps T1 to T4 of each request of an exchange that a reply has come to. -/
abbrev Exchange := List (Word × Word × Word × Word)

/-- R397, R399, R402: alignment of the counter and the census: what the running exchange has brought, the number of the next request,
the requests still to leave and when the next is due, the part of an increment that the slew has gathered, in 10^-9, and what chips of the
subtree have reported: chips, highest BASE, lowest ADVERTISED. -/
structure TimeSync where
  samples : Exchange := []
  seq : Nat := 0
  toSend : Nat := 0
  nextAt : Word := 0
  phase : Int := 0
  census : SMap (Nat × Nat × Nat) := []
  deriving DecidableEq, Repr

/-! ### The device -/

/-- One core: its sequencer (R105 to R115) and the memories it owns. Its registers CMD_CORE_STATUS are a view. -/
structure Core where
  st : SeqState := .idle
  pc : Nat := 0
  /-- S0 to S15 (R106) -/
  sregs : SMap Word := []
  /-- active loops, innermost first (R112) -/
  loops : List LoopFrame := []
  /-- the region of the fetch lease held (R108) -/
  lease : Option Nat := none
  /-- program-write parts that wait, in order of arrival (R109) -/
  parts : List PmemPart := []
  /-- the pending program buffer (R110) -/
  lapsed : Option PmemPart := none
  pmem : SMap Word := []
  /-- the PROG_START it runs: partition, queue, ring index; and its rank there (R114) -/
  job : Option (Nat × Nat × Nat) := none
  rank : Nat := 0
  /-- local scratch: tile data from 0, tile headers from 2^22 (64 bytes a frame), scale records from 2^23 (256 bytes
  a frame) -/
  scratch : SMap Byte := []
  unsynced : List Unsynced := []
  /-- accumulator slots (R168) -/
  slots : SMap Slot := []
  /-- the array queue: issued instructions that wait, the first of them a DRAIN for a tile-queue credit (R179) -/
  aq : List QItem := []
  /-- the tile queue, oldest first (R179) -/
  tq : List TqEntry := []
  /-- the vector queue: issued instructions that wait, the first of them a VCHAIN for a tile-queue entry (R203) -/
  vq : List QItem := []
  /-- V0 to V31, 256 lanes each (R188) -/
  vregs : SMap (List (BitVec 32)) := []
  /-- M1 to M7 (R188) -/
  masks : SMap (BitVec 256) := []
  /-- the chain table: the stage words of each loaded entry (R198) -/
  chains : SMap (List Word) := []
  /-- copies that have not completed, in order of issue (R227) -/
  copies : List CoreCopy := []
  /-- what the core waits for in SWAIT or CSYNC -/
  pumpWait : Option PumpWait := none
  /-- the step frame, and its norm accumulators by entry (R307) -/
  stepFrame : Option Nat := none
  norms : SMap Acc := []
  /-- the held flow item at its pc has been counted as a credit stall (R135) -/
  stalled : Bool := false
  /-- R48, R181: beats done of an activity ramp that runs; the next work begins a ramp because the core has reached ON; and when the
  last MMA ended -/
  ramp : Option Nat := none
  rampDue : Bool := true
  lastMma : Option Word := none
  deriving DecidableEq, Repr

/-- The power manager beyond its registers (chapter 02). -/
structure Power where
  /-- the granted setting of each core's rail, in units of 10 mV (R47); the rail itself is RAIL_SET -/
  grants : SMap Nat := []
  /-- cores whose switch to the retention rail is under way: 1, and 2 where the wait has ended meanwhile (R45) -/
  entering : SMap Nat := []
  /-- raises are withheld after an emergency drop (R51) -/
  hold : Bool := false
  /-- dies whose rails are being lowered for heat, a mask (R51) -/
  throttle : Nat := 0
  /-- the last estimate of each domain's draw, mW (R50) -/
  estimates : SMap Nat := []
  /-- the die fabric rail of each die, in units of 10 mV: 80 to 95 once the power manager runs (R29) -/
  fabric : SMap Nat := []
  /-- READ_POUT of each rail group as last read, W (R50, R453) -/
  pout : SMap Nat := []
  /-- the hottest junction of each die, °C, as last read (R54) -/
  hottest : SMap Nat := []
  /-- failed reads in succession of each rail group (R454) -/
  missed : SMap Nat := []
  deriving DecidableEq, Repr

/-- R408, R410, R417: a save or a restore that runs: the command that requested it (partition, queue, index) or none for a
register write, its CTX_ID, frames, clusters declared and area; the rings it disabled, with the STATE of each; the state it began in; and once the area
is written, the checksums its header will carry and what its engine records say. -/
structure SwitchRun where
  save : Bool
  origin : Option (Nat × Nat × Nat) := none
  ctx : Nat := 0
  frames : Nat := 0
  declared : Nat := 0
  area : Nat := 0
  rings : List (Nat × Nat) := []
  prev : Nat := 1
  crcs : Option (List Word) := none
  deriving DecidableEq, Repr

/-- What a partition holds beyond its registers. -/
structure Part where
  /-- the run seed (R159) -/
  seed : Word := 0
  /-- program-defined purposes whose keys are in the key table, at most 9 (R160) -/
  purposes : List Nat := []
  /-- segments 0 to 7 of the Cistern (R310), and the order in which OPENs wait (R313): queue and ring index -/
  segs : SMap Segment := []
  openOrder : List (Nat × Nat) := []
  step : StepRec := {}
  /-- a step has opened, and E has been set, since the last reset (R297, R308) -/
  stepped : Bool := false
  /-- the scale exponent in force: E as it was at the last opening (R309) -/
  scaleExp : Nat := 0
  /-- the current binding of tables to epochs, and the bindings that commands or segments still hold (R252, R320) -/
  gen : Nat := 0
  binds : SMap (SMap Nat) := []
  tables : SMap (Option Table) := []
  layers : SMap Layer := []
  rules : SMap (Option Rule) := []
  /-- R337: schedule descriptors; those that wait for the next opening; R338: F0 to F3 of the current step -/
  schedules : SMap (List Word) := []
  nextSchedules : SMap (List Word) := []
  factors : SMap (List (BitVec 32)) := []
  /-- R334: the carried norm store, by norm entry -/
  normStore : SMap Acc := []
  normIncomplete : Bool := false
  /-- what other members have contributed to the exchange of a close, and told of bindings: chip, handle (R304, R386) -/
  totals : List (Nat × StepTotals) := []
  confirms : List (Nat × Nat × MemberBind) := []
  /-- storage of moved units that is freed at phase 4 of the next close, and units whose reads are held until FINAL (R391) -/
  leaving : List (Nat × Nat) := []
  holding : List (Nat × Nat) := []
  /-- units for which FINAL has come before this chip's map changed (R391) -/
  finals : List (Nat × Nat) := []
  /-- the last step closed (R339) -/
  lastClosed : Nat := 0
  snapshots : SMap (Option Snapshot) := []
  moves : List Move := []
  /-- tiles a replica has stood in for, to be rewritten at the next close: handle, unit, tile (R392) -/
  mend : List (Nat × Nat × Nat) := []
  /-- R390: reads served and contributions received in the step, by die, handle and unit; steps without a read of a copy -/
  unitReads : SMap Nat := []
  unitContribs : SMap Nat := []
  idleSteps : SMap Nat := []
  /-- R390: the reads of a unit that this chip has served in the step, by the chip that read -/
  unitReaders : SMap Nat := []
  /-- what chips have said of moves that this chip has not yet decided: chip, handle, unit, whether they make their end (R393) -/
  said : List (Nat × Nat × Nat × Bool) := []
  /-- R394: when the partition's engines were last busy; the micro-batches that its group has moved for the next step, and those of
  the step it is in: from a chip, to a chip -/
  busy : Word := 0
  nextMoves : List MbMove := []
  mbMoves : List MbMove := []
  /-- the CTX_ID of a save or restore under way, or of the suspended memory (R410, R414) -/
  ctxId : Nat := 0
  /-- the save or restore under way -/
  switch : Option SwitchRun := none
  /-- the sequence number of the placement map (R404) -/
  mapSeq : Nat := 0
  /-- the enabled feature level taken at the last opening (R401) -/
  level : Option Nat := none
  deriving DecidableEq, Repr

/-! ### Contexts (chapter 18) -/

/-- R412, R417: what a restart needs of an outstanding command besides its restart record: the command as it stood. -/
structure CmdKeep where
  queue : Nat
  cmd : Cmd
  deriving DecidableEq, Repr

/-- R376, R412 type 9: what a context holds of a formed group. -/
structure GroupKeep where
  group : Nat
  members : List Nat
  rank : Nat
  level : Nat
  seq : Nat
  deriving DecidableEq, Repr

/-- R410, R412: what a save area holds whose encoding the spec does not give: the engine records (the partition's own state, its
registers, its formed groups, its streams by number) and their length, and for each relative core its accumulator slots, vector state,
VEC_FLAGS and norm accumulators; what it says of the outstanding commands beyond their records, and how many sync objects it holds. -/
structure EngineCtx where
  part : Part := {}
  regs : List Word := []
  groups : List GroupKeep := []
  streams : SMap Stream := []
  cores : List Core := []
  vecFlags : List Word := []
  cmds : List CmdKeep := []
  syncs : Nat := 0
  length : Nat := 0
  deriving DecidableEq, Repr

/-- R410, R412: a save area that a chip has written: the machine counter and the checksums in its header, and what its engine records and
core sections say. -/
structure SavedCtx where
  stamp : Word
  crcs : List Word
  engine : EngineCtx
  deriving DecidableEq, Repr

/-! ### Management (chapter 19) -/

/-- R443, R444: a PLDM update under way: its component (1 image, 2 board record), the bytes transferred, whether it has been
verified and whether applied; the board record it brings. -/
structure UpdateRun where
  component : Nat
  length : Nat := 0
  verified : Bool := false
  applied : Bool := false
  board : List Byte := []
  deriving DecidableEq, Repr

/-- Chapter 19 beyond its registers. -/
structure Mgmt where
  update : Option UpdateRun := none
  /-- when a token was last submitted (R440) -/
  token : Option Word := none
  /-- how far the SPDM connection has come: 1 version, 2 capabilities, 3 algorithms (R439) -/
  spdm : Nat := 0
  /-- the MCTP transmission unit in use, bytes (R441) -/
  unit : Nat := 64
  /-- R437: the device identity key, the alias key and the alias certificate, once they are there -/
  identity : Option (BitVec 521) := none
  aliasKey : Option (BitVec 521) := none
  aliasCert : List Byte := []
  /-- R442: the sensors as last refreshed, and the counts of corrected words and re-reads at that time -/
  sensors : SMap Nat := []
  lastSram : Nat := 0
  lastReads : Nat := 0
  /-- R431: when 0x1301 was last logged for a unit -/
  corrected : SMap (Option Word) := []
  /-- R432: a control restart runs; when the last one ended or began -/
  restarting : Bool := false
  restarted : Option Word := none
  /-- R433: a FATAL event holds the partitions until a device reset -/
  held : Bool := false
  deriving DecidableEq, Repr

end Sys2Proof.Machine

namespace Sys2Proof

/-- What memory outside the chip answers while an engine works: bytes that host software or other chips have stored
since (addresses of host memory; global addresses of other chips, and their tile headers at 64 × slot number), host
pages whose access fails (R215 kind 6), slots whose read fails at the link: how many reads in succession (R220), and
slots of other chips to which a request ends with a STATUS, 15 for a timeout (R368); and what
save areas that other chips have written say (R415). -/
structure MemIo where
  host : List (Nat × Byte) := []
  remote : List (Nat × Byte) := []
  remoteSide : List (Nat × Byte) := []
  hostBad : List Nat := []
  badReads : List (Nat × Nat) := []
  remoteBad : List (Nat × Nat) := []
  areas : List Machine.SavedCtx := []
  deriving DecidableEq, Repr

end Sys2Proof
end

