-- ==== Sys2Proof/Syntax.lean ====
section
/-! DEFINITION. The commands of the module: one constructor for each row of the opcode table, in its order, with the operands that arrive
with it. Throughout p is a partition, q a submission ring or queue, c a core (or a completion ring), idx a ring index, die a die, fn a
function (0 physical), w a value written, n a port, domain or stream; io and cells are what memory outside the chip holds and answers
meanwhile. -/

namespace Sys2Proof

/-- The commands. -/
inductive Instr where
  /-- POWER_ON (R451) -/
  | powerOn
  /-- PERST_RELEASE (R59) -/
  | perstRelease
  /-- PERST_ASSERT (R96) -/
  | perstAssert
  /-- SNOWDROP (R59): power stages that report power good, a mask of 15; whether the reference holds -/
  | snowdrop (good : Nat) (refOk : Bool)
  /-- PRIMROSE (R61) -/
  | primrose
  /-- CELANDINE (R66): whether the self-tests passed; whether a junction lies below 10 °C -/
  | celandine (selfTest cold : Bool)
  /-- COWSLIP (R68, R212): what the local state machines of the 16 LPDDR6 devices report, two bits a device from device 0 in the lowest:
  the highest grade at which it trained, 0 for 10,667, 1 for 12,800 and 2 for 14,400 MT/s -/
  | cowslip (grades : Nat)
  /-- MEM_INTERFACE_TRAINED (R68): interface i -/
  | memInterfaceTrained (i : Nat)
  /-- PORT_LANES_LOCKED (R69): lanes of a port that lock, a mask of nine -/
  | portLanesLocked (n mask : Nat)
  /-- LANE_LOCK_TIMEOUT (R348) -/
  | laneLockTimeout (n : Nat)
  /-- CAMPION (R70): the failing rows it found; whether the repair resources suffice -/
  | campion (rows : List Repair) (repairable : Bool)
  /-- QUALIFICATION_WINDOW_END (R72): errors after FEC and corrected bits of each lane in the window -/
  | qualificationWindowEnd (n errors : Nat) (lanes : List Nat)
  /-- QUALIFICATION_RETRAIN_END (R69) -/
  | qualificationRetrainEnd (n : Nat)
  /-- YARROW (R72) -/
  | yarrow
  /-- TEASEL (R73): the replies of each time exchange with the parent, oldest first; the level its FEATURE packet tells; the READY
  chips heard -/
  | teasel (exchanges : List Machine.Exchange) (level : Option Nat) (ready : List Nat)
  /-- STAGE_TIMEOUT (R55) -/
  | stageTimeout
  /-- BOOT_HOLD_RELEASE (R75): the value written to BOOT_CTRL -/
  | bootHoldRelease (w : Word)
  /-- BOOT_PUSH_GO (R62): the value written to BOOT_PUSH_CTRL -/
  | bootPushGo (w : Word)
  /-- BOOT_PUSH_COMPLETE (R62): the image that the pages hold, and whether a read of them failed -/
  | bootPushComplete (i : Image) (readError : Bool)
  /-- IMAGE_FLASH_WRITE (R64) -/
  | imageFlashWrite
  /-- IMAGE_FLASH_WRITE_COMPLETE (R64) -/
  | imageFlashWriteComplete
  /-- BOOT_POLICY_WRITE (R70): the value written -/
  | bootPolicyWrite (w : Word)
  /-- CONFIG_REQUEST (R76): what it asks -/
  | configRequest (fn : Nat) (a : ConfigAccess)
  /-- PCIE_LINK_TRAINED (R77): GT/s, lanes and whether FLIT mode runs -/
  | pcieLinkTrained (rate width : Nat) (flit : Bool)
  /-- BAR4_READ (R80): n bytes from an offset of BAR4 -/
  | bar4Read (fn off n : Nat) (io : MemIo)
  /-- BAR4_WRITE (R80): bytes at an offset of BAR4 -/
  | bar4Write (fn off : Nat) (bytes : List Byte) (io : MemIo)
  /-- REGISTER_WRITE (R8): a function writes a value at an offset of BAR0, 64 bits and aligned (R8) -/
  | registerWrite (fn off : Nat) (w : Word) (io : MemIo)
  /-- OWNER_WRITE (R81): the physical function writes OWNER -/
  | ownerWrite (p owner : Nat)
  /-- PRODUCER_POLL (R84): a line of eight producer words -/
  | producerPoll (p line : Nat) (cells : List Host.Cell)
  /-- DESCRIPTOR_FETCH (R84): the status with which the read completes, 0 for success -/
  | descriptorFetch (p q status : Nat) (cells : List Host.Cell)
  /-- RING_IDLE_TIMEOUT (R85) -/
  | ringIdleTimeout (p q : Nat)
  /-- SLEEP_CHECK_COMPLETE (R85) -/
  | sleepCheckComplete (p q : Nat) (cells : List Host.Cell)
  /-- WAKE_DOORBELL (R87): a write at an offset of BAR2 -/
  | wakeDoorbell (fn off : Nat) (cells : List Host.Cell)
  /-- SQ_ENABLE (R88): a function writes HIF_SQ_CFG with ENABLE = 1; cells: what host memory holds by then -/
  | sqEnable (fn p q : Nat) (w : Word) (cells : List Host.Cell)
  /-- SQ_DISABLE (R88): a function writes HIF_SQ_CFG with ENABLE = 0 -/
  | sqDisable (fn p q : Nat) (w : Word)
  /-- CQ_ENABLE (R91): a function writes HIF_CQ_CFG with ENABLE = 1 -/
  | cqEnable (fn p c : Nat) (w : Word)
  /-- CQ_DISABLE (R91): a function writes HIF_CQ_CFG with ENABLE = 0 -/
  | cqDisable (fn p c : Nat) (w : Word)
  /-- ERR_RING_ENABLE (R460): a function writes the configuration of error ring k with ENABLE = 1; 8 is the module's, which only the
  physical function reaches -/
  | errRingEnable (fn k : Nat) (w : Word) (cells : List Host.Cell)
  /-- HEAD_WORD_READ (R91): completion ring c -/
  | headWordRead (p c : Nat) (cells : List Host.Cell)
  /-- CQ_FULL_TIMEOUT (R91): completion ring c -/
  | cqFullTimeout (p c : Nat)
  /-- COALESCE_TIMEOUT (R92): completion ring c -/
  | coalesceTimeout (p c : Nat)
  /-- HEARTBEAT (R93) -/
  | heartbeat (p : Nat)
  /-- PARTITION_RESET_REQUEST (R96): a write of HIF_PART_CTRL.RESET -/
  | partitionResetRequest (p : Nat)
  /-- VF_FLR (R96): virtual function n -/
  | vfFlr (n : Nat)
  /-- PF_RESET (R96): hot reset, link disable or FLR of the physical function -/
  | pfReset
  /-- NOP (R99): it only waits and signals -/
  | nop (p q idx : Nat)
  /-- SYNC (R118): it only waits and signals -/
  | sync (p q idx : Nat)
  /-- HOST_SIGNAL (R126) -/
  | hostSignal (p q idx : Nat)
  /-- PROG_LOAD (R114) -/
  | progLoad (p q idx : Nat) (io : MemIo)
  /-- PROG_START (R114) -/
  | progStart (p q idx : Nat)
  /-- PROG_STOP (R114) -/
  | progStop (p q idx : Nat)
  /-- COPY (R228) -/
  | copy (p q idx : Nat) (io : MemIo)
  /-- FILL (R228) -/
  | fill (p q idx : Nat) (io : MemIo)
  /-- COMPRESS (R228) -/
  | compress (p q idx : Nat) (io : MemIo)
  /-- EXPAND (R228) -/
  | expand (p q idx : Nat) (io : MemIo)
  /-- ARM (R224) -/
  | arm (p q idx : Nat) (io : MemIo)
  /-- REARM (R226) -/
  | rearm (p q idx : Nat)
  /-- RELEASE (R226) -/
  | release (p q idx : Nat)
  /-- SAMPLE (R242) -/
  | sample (p q idx : Nat) (io : MemIo)
  /-- TRACE_RESERVATION_GRANT (R242): the segment of a waiting SAMPLE is open -/
  | traceReservationGrant (p q idx : Nat) (io : MemIo)
  /-- GATHER (R257) -/
  | gather (p q idx : Nat) (io : MemIo)
  /-- GATHER_DELIVERY (R258) -/
  | gatherDelivery (p q idx : Nat)
  /-- ROW_ARRIVE (R259): the row of a position -/
  | rowArrive (p q idx pos : Nat) (io : MemIo)
  /-- SCATTER (R264) -/
  | scatter (p q idx : Nat) (io : MemIo)
  /-- CONTRIB_LOG_WAIT_TIMEOUT (R268) -/
  | contribLogWaitTimeout (p q idx : Nat)
  /-- MERGE (R283) -/
  | merge (p q idx : Nat) (io : MemIo)
  /-- MERGE_PAIR_DELIVERY (R283) -/
  | mergePairDelivery (p q idx : Nat) (io : MemIo)
  /-- PREDICT_BIND (R286) -/
  | predictBind (p q idx : Nat)
  /-- PREDICT_REPORT (R290) -/
  | predictReport (p q idx : Nat) (io : MemIo)
  /-- PREDICT_UNBIND (R286) -/
  | predictUnbind (p q idx : Nat)
  /-- STEP_OPEN (R299) -/
  | stepOpen (p q idx : Nat) (io : MemIo)
  /-- STEP_CLOSE (R304) -/
  | stepClose (p q idx : Nat) (io : MemIo)
  /-- STEP_EXCHANGE_COMPLETE (R305): the moves firmware decides at phase 7 -/
  | stepExchangeComplete (p q idx : Nat) (moves : List MoveChoice) (io : MemIo)
  /-- STEP_EXCHANGE_TIMEOUT (R304) -/
  | stepExchangeTimeout (p q idx : Nat) (io : MemIo)
  /-- CISTERN_SETUP (R310) -/
  | cisternSetup (p q idx : Nat)
  /-- CISTERN_OPEN (R313) -/
  | cisternOpen (p q idx : Nat)
  /-- CISTERN_PUSH (R314) -/
  | cisternPush (p q idx : Nat)
  /-- CISTERN_POP (R312) -/
  | cisternPop (p q idx : Nat)
  /-- CISTERN_CLOSE (R312) -/
  | cisternClose (p q idx : Nat)
  /-- EVAL_SLOT_OPEN (R319) -/
  | evalSlotOpen (p q idx : Nat)
  /-- EVAL_SLOT_CLOSE (R320) -/
  | evalSlotClose (p q idx : Nat)
  /-- UPDATE_BIND (R330) -/
  | updateBind (p q idx : Nat) (io : MemIo)
  /-- UPDATE_UNBIND (R329) -/
  | updateUnbind (p q idx : Nat)
  /-- UPDATE_SCHEDULE (R337) -/
  | updateSchedule (p q idx : Nat) (io : MemIo)
  /-- CHECKPOINT (R339) -/
  | checkpoint (p q idx : Nat) (io : MemIo)
  /-- TABLE_BIND (R386) -/
  | tableBind (p q idx : Nat) (io : MemIo)
  /-- TABLE_UNBIND (R386) -/
  | tableUnbind (p q idx : Nat)
  /-- EPOCH_PUBLISH (R387) -/
  | epochPublish (p q idx : Nat) (io : MemIo)
  /-- CTX_SAVE (R410) -/
  | ctxSave (p q idx : Nat)
  /-- CTX_RESTORE (R417): areas: what save areas that other chips have written say -/
  | ctxRestore (p q idx : Nat) (io : MemIo) (areas : List Machine.SavedCtx)
  /-- COLL_FORM (R371) -/
  | collForm (p q idx : Nat) (io : MemIo)
  /-- COLL_DISBAND (R370) -/
  | collDisband (p q idx : Nat)
  /-- ALLREDUCE (R372) -/
  | allreduce (p q idx : Nat) (io : MemIo)
  /-- BROADCAST (R370) -/
  | broadcast (p q idx : Nat) (io : MemIo)
  /-- ALLGATHER (R370) -/
  | allgather (p q idx : Nat) (io : MemIo)
  /-- PUT (R373) -/
  | put (p q idx : Nat) (io : MemIo)
  /-- COMMAND_START (R100): the WAITING command of a queue leaves WAITING if it can -/
  | commandStart (p q : Nat)
  /-- COMMAND_TIMEOUT (R123) -/
  | commandTimeout (p q : Nat)
  /-- COMMAND_COMPLETE (R100) -/
  | commandComplete (p q idx : Nat)
  /-- COMMAND_RETIRE (R101) -/
  | commandRetire (p q : Nat)
  /-- LEASE_LAPSE (R110) -/
  | leaseLapse (c : Nat)
  /-- PROGRAM_WRITE_LAND (R109) -/
  | programWriteLand (c : Nat)
  /-- CMD_PMEM_DATA (R109): a write of a program word at CMD_PMEM_ADDR by the physical function -/
  | cmdPmemData (w : Word)
  /-- WAIT (R106) -/
  | wait (c : Nat)
  /-- SIGNAL (R106) -/
  | signal (c : Nat)
  /-- LOOP (R112) -/
  | loop (c : Nat)
  /-- BRANCH (R106) -/
  | branch (c : Nat)
  /-- SET (R106) -/
  | set (c : Nat)
  /-- ADD (R106) -/
  | add (c : Nat)
  /-- HALT (R173) -/
  | halt (c : Nat)
  /-- POLLING_WAITER_RETEST (R122): the polling waiters of a device object -/
  | pollingWaiterRetest (n : Nat)
  /-- CORE_WAIT_TIMEOUT (R124) -/
  | coreWaitTimeout (c : Nat)
  /-- READY_GRANT (R129): an engine of class k is free -/
  | readyGrant (die k : Nat)
  /-- READY_AGE (R129) -/
  | readyAge (die p q idx : Nat)
  /-- FLOW_OPEN (R134): a write of SYN_FLOW_CFG with OPEN = 1 -/
  | flowOpen (p f : Nat) (w : Word)
  /-- FLOW_CLOSE (R134): a write of SYN_FLOW_CFG with OPEN = 0 -/
  | flowClose (p f : Nat) (w : Word)
  /-- FLOW_STALL (R134) -/
  | flowStall (p f : Nat)
  /-- SYN_DBG_SEL (R140): the value written -/
  | synDbgSel (w : Word)
  /-- MMA (R167) -/
  | mma (c : Nat)
  /-- DRAIN (R174) -/
  | drain (c : Nat)
  /-- DRAIN_CREDIT_GRANT (R179) -/
  | drainCreditGrant (c : Nat)
  /-- SLOT_CLEAR (R169) -/
  | slotClear (c : Nat)
  /-- ARRAY_SYNC (R172) -/
  | arraySync (c : Nat)
  /-- MXA_CLEAR_COUNTS (R186) -/
  | mxaClearCounts (c : Nat)
  /-- VLOAD (R196) -/
  | vload (c : Nat)
  /-- VSTORE (R196) -/
  | vstore (c : Nat)
  /-- VOP (R192) -/
  | vop (c : Nat)
  /-- VMASK (R197) -/
  | vmask (c : Nat)
  /-- VCHAIN_LOAD (R198) -/
  | vchainLoad (c : Nat)
  /-- VCHAIN (R201) -/
  | vchain (c : Nat)
  /-- VSYNC (R204) -/
  | vsync (c : Nat)
  /-- VGEN (R197) -/
  | vgen (c : Nat)
  /-- VREDUCE (R197) -/
  | vreduce (c : Nat)
  /-- VMOVS (R197) -/
  | vmovs (c : Nat)
  /-- VEC_CLEAR_COUNTS (R210) -/
  | vecClearCounts (c : Nat)
  /-- SWAIT (R225) -/
  | swait (c : Nat)
  /-- SFREE (R227) -/
  | sfree (c : Nat)
  /-- COPY_IN (R227) -/
  | copyIn (c : Nat) (io : MemIo)
  /-- COPY_OUT (R227) -/
  | copyOut (c : Nat) (io : MemIo)
  /-- CSYNC (R227) -/
  | csync (c : Nat)
  /-- STREAM_WAIT_TIMEOUT (R227) -/
  | streamWaitTimeout (c : Nat)
  /-- STREAM_TILE_ARRIVE (R225) -/
  | streamTileArrive (p n : Nat) (io : MemIo)
  /-- WATCH_REREAD (R225): a stale granule of the first landed tile of stream n that has it -/
  | watchReread (p n granule : Nat) (io : MemIo)
  /-- PAGE_FILL_COMPLETE (R217): firmware has completed the page that the work parked under a handle waits for -/
  | pageFillComplete (p handle : Nat) (io : MemIo)
  /-- FAULT_RESUME_RETRY (R217) -/
  | faultResumeRetry (p handle : Nat) (io : MemIo)
  /-- FAULT_RESUME_ABANDON (R217) -/
  | faultResumeAbandon (p handle : Nat)
  /-- PARK_TIMEOUT (R217): work has been parked under a handle for PARK_US -/
  | parkTimeout (p handle : Nat)
  /-- TLB_INVAL (R216): a write of MEM_TLB_INVAL by the physical function -/
  | tlbInval (w : Word)
  /-- TLB_INVAL_COMPLETE (R216): BUSY clears -/
  | tlbInvalComplete
  /-- TAG_FREE (R223): requests that wait for tags of a die take those that are free (R222, R223) -/
  | tagFree (die : Nat)
  /-- LPDDR6_RECALIBRATE (R212): run without stopping traffic; no state of the module changes (R212) -/
  | lpddr6Recalibrate
  /-- SRAM_SCRUB (R431): what the scrub and the reads of the other arrays found, word by word -/
  | sramScrub (reads : List SramRead)
  /-- SMP_CLEAR_COUNTS (R250): SMP_CTRL.CLEAR_COUNTS of a die -/
  | smpClearCounts (die : Nat)
  /-- GTH_CLEAR_COUNTS (R273): GTH_CTRL.CLEAR_COUNTS of a die -/
  | gthClearCounts (die : Nat)
  /-- SPR_CLEAR_COUNTS (R296): SPR_CTRL.CLEAR_COUNTS of a die -/
  | sprClearCounts (die : Nat)
  /-- CIS_CLEAR_COUNTS (R326): CIS_CTRL.CLEAR_COUNTS of a die -/
  | cisClearCounts (die : Nat)
  /-- UPD_CLEAR_COUNTS (R346): UPD_CTRL.CLEAR_COUNTS of a die -/
  | updClearCounts (die : Nat)
  /-- LNK_CLEAR_COUNTS (R377): LNK_CTRL.CLEAR_COUNTS -/
  | lnkClearCounts
  /-- DOMAIN_ENABLE_REQUEST (R42) -/
  | domainEnableRequest (n : Nat)
  /-- DOMAIN_DISABLE_REQUEST (R42) -/
  | domainDisableRequest (n : Nat)
  /-- POWER_UP_COMPLETE (R40) -/
  | powerUpComplete (n : Nat)
  /-- DOMAIN_DRAIN_COMPLETE (R40) -/
  | domainDrainComplete (n : Nat)
  /-- RETENTION_SAVE_COMPLETE (R40) -/
  | retentionSaveComplete (n : Nat)
  /-- ISOLATION_COMPLETE (R40) -/
  | isolationComplete (n : Nat)
  /-- RAIL_DOWN_COMPLETE (R42) -/
  | railDownComplete (n : Nat)
  /-- PWR_DOM_CTRL_WRITE (R44): the value written to PWR_DOM_CTRL of a domain -/
  | pwrDomCtrlWrite (n : Nat) (w : Word)
  /-- LEND_ENTRY (R45) -/
  | lendEntry (c : Nat)
  /-- LEND_EXIT (R45) -/
  | lendExit (c : Nat)
  /-- RAIL_GRANT (R47): the setting granted, in units of 10 mV -/
  | railGrant (c v : Nat)
  /-- RAIL_SLEW_COMPLETE (R35) -/
  | railSlewComplete (c : Nat)
  /-- POWER_ESTIMATE (R50): the estimate of one domain's draw, mW -/
  | powerEstimate (n mw : Nat)
  /-- RAIL_MEASURE (R51): READ_POUT of the 15 rail groups, W; none where one does not answer -/
  | railMeasure (powers : List (Option Nat))
  /-- EMERGENCY_HOLD_END (R51) -/
  | emergencyHoldEnd
  /-- RAIL_SLOW_POLL (R453): which rail groups answer -/
  | railSlowPoll (answered : List Bool)
  /-- RAIL_ALERT (R454): the alerting stage; of each group whether it reports power good, none where it does not answer -/
  | railAlert (stage : Nat) (status : List (Option Bool))
  /-- THERMAL_LIMIT (R51): a junction sensor of a die and its temperature, °C -/
  | thermalLimit (die sensor temp : Nat)
  /-- THERMAL_STEP (R51): the temperature of the die, °C -/
  | thermalStep (die temp : Nat)
  /-- THERMAL_CRIT (R457): a junction sensor of a die and its temperature, °C -/
  | thermalCrit (die sensor temp : Nat)
  /-- THERMTRIP_ANALOG (R457) -/
  | thermtripAnalog
  /-- FABRIC_STALL (R38): domain n, and the class of the stall -/
  | fabricStall (n cls : Nat)
  /-- REF25_LOSS (R455) -/
  | ref25Loss
  /-- CONTROL_FLIT_SEND (R350) -/
  | controlFlitSend (n : Nat)
  /-- CONTROL_FLIT_RECEIVE (R350): a flit of 256 bytes, with the outcome of the codeword that begins in it (R349) -/
  | controlFlitReceive (n : Nat) (flit : RxFlit)
  /-- DATA_FLIT_RECEIVE (R351): a flit of 256 bytes, whether the codeword that begins in it could not be corrected, and the bits corrected
  in it (R349) -/
  | dataFlitReceive (n : Nat) (flit : List Byte) (uncorrectable : Bool) (corrected : Nat)
  /-- CONTROL_SILENCE_TIMEOUT (R352) -/
  | controlSilenceTimeout (n : Nat)
  /-- PORT_RETRAIN (R352): trigger 1 loss of lock on the lanes of a mask, 2 replays, 3 uncorrectable codewords -/
  | portRetrain (n trigger lost : Nat)
  /-- RETRAIN_CHECK_WINDOW_END (R353): errors after FEC in the window -/
  | retrainCheckWindowEnd (n errors : Nat)
  /-- RETRAIN_TIMEOUT (R353) -/
  | retrainTimeout (n : Nat)
  /-- PORT_RETRAIN_NOW (R353) -/
  | portRetrainNow (n : Nat)
  /-- PORT_RESTART (R353) -/
  | portRestart (n : Nat)
  /-- READ (R359) -/
  | read
  /-- WRITE (R363) -/
  | write
  /-- CONTRIB (R266) -/
  | contrib (fmt : Nat)
  /-- SIGNAL_PACKET (R365) -/
  | signalPacket
  /-- COLL (R372) -/
  | coll (p g seq chunk rank off : Nat)
  /-- READ_RESP (R359) -/
  | readResp
  /-- ACK (R363) -/
  | ack
  /-- PARAM (R348): of port n: what the peer tells: its identity, port and plane, level, lane, credits and replay depth -/
  | param (n peer : Nat) (peerPort : PeerPort) (level lane : Nat) (credits : List Nat) (depth : Nat)
  /-- QUAL (R72) -/
  | qual (n errors : Nat) (lanes : List Nat)
  /-- SEQ_QUERY (R354) -/
  | seqQuery (n : Nat)
  /-- SEQ_REPLY (R354) -/
  | seqReply (n seq : Nat)
  /-- FEATURE (R402) -/
  | feature
  /-- TIME (R397) -/
  | time
  /-- GROUP (R371) -/
  | group (m : GroupMsg)
  /-- FINAL (R391): FINAL, which a GROUP packet brings, for unit u of table h -/
  | final (p h u : Nat)
  /-- MISROUTED_PACKET (R358) -/
  | misroutedPacket
  /-- RETRY_RESEND (R366): a request by its tag -/
  | retryResend (tag : RemoteTag) (io : MemIo)
  /-- LAND_TIMEOUT (R367): a landing entry by source chip, source die and flow -/
  | landTimeout (die src srcDie flow : Nat)
  /-- REMOTE_TIMEOUT (R368): a request by its tag -/
  | remoteTimeout (die tag : Nat)
  /-- HELD_TIMEOUT (R368): a request by its tag -/
  | heldTimeout (die tag : Nat)
  /-- COLL_FORM_TIMEOUT (R371) -/
  | collFormTimeout (p q idx : Nat)
  /-- DIRECTORY_FILL (R384): a look-up of unit u of table h at an epoch -/
  | directoryFill (p idx h epoch u : Nat)
  /-- MOVE_COPY_COMPLETE (R391): the copy of unit u of table h to chip dst -/
  | moveCopyComplete (p h u dst : Nat) (io : MemIo)
  /-- TIME_EXCHANGE (R397): ready lists the READY chips the chip hears -/
  | timeExchange (ready : List Nat)
  /-- TIME_HOLDOVER (R399) -/
  | timeHoldover
  /-- FEATURE_ENABLE_GO (R402): the level -/
  | featureEnableGo (level : Nat)
  /-- CTX_SAVE_REQUEST (R410): a write of CTX_PART_CTRL with ACTION 1 -/
  | ctxSaveRequest (p : Nat) (w : Word)
  /-- CTX_RESTORE_REQUEST (R415): a write of CTX_PART_CTRL with ACTION 2; areas as for CTX_RESTORE -/
  | ctxRestoreRequest (p : Nat) (w : Word) (io : MemIo) (areas : List Machine.SavedCtx)
  /-- CTX_DISCARD (R420): a write of CTX_PART_CTRL with ACTION 3 -/
  | ctxDiscard (p : Nat) (w : Word)
  /-- SWITCH_POINT_REACHED (R409) -/
  | switchPointReached (p : Nat) (io : MemIo)
  /-- SAVE_AREA_WRITTEN (R410) -/
  | saveAreaWritten (p : Nat) (io : MemIo)
  /-- SAVE_WAIT_TIMEOUT (R411) -/
  | saveWaitTimeout (p : Nat)
  /-- RESTORE_COMPLETE (R417): areas as for CTX_RESTORE -/
  | restoreComplete (p : Nat) (io : MemIo) (areas : List Machine.SavedCtx)
  /-- CORE_RESET (R422) -/
  | coreReset (c : Nat)
  /-- CLUSTER_RESET (R422): cluster c -/
  | clusterReset (c : Nat)
  /-- PARTITION_RESET (R422) -/
  | partitionReset (p : Nat)
  /-- COMPUTE_RESET (R422) -/
  | computeReset
  /-- DEVICE_RESET (R421) -/
  | deviceReset
  /-- RESET_DRAIN_END (R422): the window of a reset of a scope and target ends -/
  | resetDrainEnd (scope target : Nat)
  /-- CONTROL_FAULT (R432): a core of a die's complex -/
  | controlFault (die core : Nat)
  /-- CONTROL_RESTART (R432) -/
  | controlRestart
  /-- CONTROL_RESTART_COMPLETE (R432) -/
  | controlRestartComplete
  /-- STORM_WINDOW_END (R430): the window of a code on a ring, 8 for the module's -/
  | stormWindowEnd (ring code : Nat)
  /-- TST_SETTINGS_WRITE (R434): a write of a TST_ register, by its offset -/
  | tstSettingsWrite (off : Nat) (w : Word)
  /-- TOKEN_SUBMIT (R440): whether the signature verifies; the token itself, where it comes by the debug path and not by SEC_TOKEN
  -/
  | tokenSubmit (sigOk : Bool) (byDebug : Option (List Byte))
  /-- RELOCK (R434): a write of SEC_CTRL.RELOCK -/
  | relock
  /-- GET_VERSION (R439) -/
  | getVersion
  /-- GET_CAPABILITIES (R439) -/
  | getCapabilities
  /-- NEGOTIATE_ALGORITHMS (R439): whether the request offers ECDSA P-521 and SHA-512 -/
  | negotiateAlgorithms (offered : Bool)
  /-- GET_DIGESTS (R439) -/
  | getDigests
  /-- GET_CERTIFICATE (R439): a slot, and how many bytes of its chain are asked for -/
  | getCertificate (slot : Nat) (part : ChainPart)
  /-- CHALLENGE (R439) -/
  | challenge (slot : Nat)
  /-- GET_MEASUREMENTS (R439): measurements 6 and 7, then digests 1 to 5 and the signature -/
  | getMeasurements (slot : Nat)
  /-- I3C_DYNAMIC_ADDRESS (R441): by SETDASA from a static address, or by ENTDAA -/
  | i3cDynamicAddress (static : Option Nat) (addr : Nat)
  /-- MCTP_SET_ENDPOINT_ID (R441) -/
  | mctpSetEndpointId (ids : EndpointIds)
  /-- PLDM_DISCOVERY (R441): a PLDM type 0 command; the types supported are 0, 2, 4 and 5 of the standards R441 lists -/
  | pldmDiscovery
  /-- PLDM_GET_FRU (R441) -/
  | pldmGetFru
  /-- GET_SENSOR_READING (R442) -/
  | getSensorReading (n : Nat)
  /-- POLL_FOR_PLATFORM_EVENT (R441) -/
  | pollForPlatformEvent
  /-- SENSOR_REFRESH (R442): a sensor, and what a junction sensor measures -/
  | sensorRefresh (n reading : Nat)
  /-- REQUEST_UPDATE (R443) -/
  | requestUpdate (component : Nat)
  /-- VERIFY_COMPLETE (R443): what the checks of R61 find of the staged image -/
  | verifyComplete (image : Image)
  /-- APPLY_COMPLETE (R444) -/
  | applyComplete
  /-- ACTIVATE_FIRMWARE (R443) -/
  | activateFirmware
  /-- DEBUG_READ64 (R441): an offset of BAR0, as the physical function sees it, once DEBUG_READ is unlocked -/
  | debugRead64 (off : Nat)
  /-- DEBUG_WRITE64 (R441) -/
  | debugWrite64 (off : Nat) (w : Word) (io : MemIo)
  /-- POWER_OFF (R452) -/
  | powerOff
  /-- LEND_ENTRY_COMPLETE (R45) -/
  | lendEntryComplete (c : Nat)
  /-- PCIE_COMPLETION_TIMEOUT (R95): of the descriptor read of a ring, or of a running command’s access (ring index, address) to a
  host page -/
  | pcieCompletionTimeout (p q : Nat) (access : Option (Nat × Nat))
  /-- PTM_EXCHANGE (R89): the host time of the exchange -/
  | ptmExchange (hostTime : Word)
  /-- FIRMWARE_IMAGE_TRANSFER (R443): bytes from an offset -/
  | firmwareImageTransfer (off : Nat) (bytes : List Byte)
  /-- TABLE_BIND_TIMEOUT (R386) -/
  | tableBindTimeout (p q idx : Nat)
  /-- ILLEGAL_WORD (R105) -/
  | illegalWord (c : Nat)
  deriving DecidableEq, Repr

end Sys2Proof
end

