-- ==== Sys2Proof/Decode.lean ====
section
/-! DEFINITION. Decoding. The rows of the opcode table give no bits: a command arrives as itself, and no word spells one. -/

namespace Sys2Proof

/-- The command that a word spells by the bits the opcode table gives its rows: it gives none. -/
def decodeTableWord (_nbits _w : Nat) : Option Instr := none

end Sys2Proof
end

