-- ==== Sys2Proof/Config.lean ====
section
/-! DEFINITION. What the spec leaves to the implementation, and the free values: constants with no body, so
that nothing in Lean can evaluate them and no proof can rest on a number for them. -/

namespace Sys2Proof

/-- R75: BOOT_IMAGE.ROM_FLOOR is a value of the boot ROM; the spec gives no number. -/
opaque Config.romFloor : BitVec 16

/-- R97: HIF_CAP.RING_MAX_LOG2 is given as 16 in a field of four bits, which cannot hold it. -/
opaque Config.hifCapRingMaxLog2 : BitVec 4

/-- A free 64-bit value: applied to the state's counter of free values, which the step advances. -/
opaque Config.freeWord : Nat → BitVec 64

/-- A free byte, by the state's counter of free values and the local-scratch address that was read too soon (R173,
R204, R227). -/
opaque Config.freeByte : Nat → Nat → BitVec 8

/-- R192: the correctly rounded result of function op at a binary32 code, where bounds of 1,024 bits do not decide the
rounding. -/
opaque Config.roundedReal : Nat → Nat → BitVec 32

/-- R213: an order of the channels of a stack, by slot: the 8 granules of a slot lie on the first 8 of it. The spec says that they
differ, not which they are. -/
opaque Config.channelOrder : Nat → BitVec 64

/-- R211, R222: the bank of its channel, one of 16, in which a chip offset lies; the spec does not say which. -/
opaque Config.bankOf : Nat → BitVec 4

/-- R437: the hashes of the Rehal firmware, manufacturing and debug keys in the boot ROM. -/
opaque Config.rehalKeyHash : Fin 3 → BitVec 512

/-- R437: the device identity key that the physically unclonable function of die 0 gives with helper data. -/
opaque Config.identityKey : List (BitVec 8) → BitVec 521

/-- R437: the alias key that the device secret and the digest of the running image give. -/
opaque Config.aliasKey : BitVec 512 → BitVec 521

/-- R437: the certificate of the alias key, the second, by the device identity key, the first, in the DER form of X.509; the number tells
one start from another. -/
opaque Config.aliasCert : BitVec 521 → BitVec 521 → Nat → List (BitVec 8)

/-- R439, R440: an ECDSA P-521 signature of bytes by a key, r and s of 66 bytes each; the number tells one signature from another. -/
opaque Config.signature : BitVec 521 → List (BitVec 8) → Nat → BitVec 1056

/-- R439: the boot ROM, which the spec does not give. -/
opaque Config.bootRom : Unit → List (BitVec 8)

/-- R366: which of the 2,048 sets of a landing table an entry of a source chip, source die and flow falls into. -/
opaque Config.landSet : Nat → Nat → Nat → BitVec 11

end Sys2Proof
end

