-- ==== Sys2Proof/Machine/RegMap.lean ====
section
/-! DEFINITION. The BAR0 register map: every register the spec's tables name (the rule is at each block),
its offset, its fields with their access code (R9) and their value after reset.
Offsets and fields are the spec's own tables, row by row. A reserved field has no row here: it reads zero
and a write to it has no effect (R8). -/

namespace Sys2Proof.Machine

/-- R9: what each access code allows. -/
inductive Access where
  | ro | rw | w1c | w1s | wo
  deriving DecidableEq, Repr

/-- One field of a register: its name, its bit range and its access code. -/
structure RegField where
  name : String
  hi : Nat
  lo : Nat
  acc : Access
  /-- value after reset, where the table gives a number (R8's "After reset" column) -/
  reset : Nat
  deriving DecidableEq, Repr

/-- Width of a field in bits. -/
def RegField.width (f : RegField) : Nat := f.hi - f.lo + 1

/-- Every register of BAR0, by the name the spec gives it; the indices are those of its offset table. -/
inductive Reg where
  -- GLB_ block, R19
  | glbId
  | glbSerialLo
  | glbSerialHi
  | glbCap
  | glbChip
  | glbScratch
  -- PWR_ block, R54
  | pwrCap
  | pwrBudget
  | pwrLend
  | pwrThermal
  | pwrMeasure
  | pwrEvent
  | pwrDomCtrl (n : Nat)
  | pwrDomStatus (n : Nat)
  | pwrCoreBeats (c : Nat)
  | pwrCoreActiveNs (c : Nat)
  -- BOOT_ block, R75
  | bootStatus
  | bootCtrl
  | bootPolicy
  | bootPushList
  | bootPushCtrl
  | bootImage
  | bootDefect
  | bootBoard
  | bootReportA (s : Nat)
  | bootReportB (s : Nat)
  | bootReportC (s : Nat)
  | bootReportD (s : Nat)
  -- HIF_ block, R97
  | hifCap
  | hifLink
  | hifPoll
  | hifWinBase
  | hifModErrBase
  | hifModErrCfg
  | hifPartCtrl (p : Nat)
  | hifPartStatus (p : Nat)
  | hifPartWords (p : Nat)
  | hifPartWin (p : Nat)
  | hifErrBase (p : Nat)
  | hifErrCfg (p : Nat)
  | hifSqBase (p : Nat) (q : Nat)
  | hifSqCfg (p : Nat) (q : Nat)
  | hifCqBase (p : Nat) (q : Nat)
  | hifCqCfg (p : Nat) (q : Nat)
  | hifSqStatus (p : Nat) (q : Nat)
  | hifCqStatus (p : Nat) (q : Nat)
  -- CMD_ block, R116
  | cmdCap
  | cmdPmemAddr
  | cmdPmemData
  | cmdPartCtrl (p : Nat)
  | cmdPartStatus (p : Nat)
  | cmdQCfg (p : Nat) (q : Nat)
  | cmdQStatus (p : Nat) (q : Nat)
  | cmdCoreStatus (c : Nat)
  -- SYN_ block, R139, R140
  | synCap
  | synDbgSel
  | synDbgValue
  | synDbgState
  | synDbgLastSrc
  | synDbgLastIndex
  | synDbgWaiter
  | synDbgWaiterValue
  | synPartCfg (p : Nat)
  | synPartStatus (p : Nat)
  | synDieCfg (d : Nat)
  | synShare (d : Nat) (p : Nat)
  | synDieStatus (d : Nat)
  | synFlowCfg (p : Nat) (f : Nat)
  | synFlowStatus (p : Nat) (f : Nat)
  | synObjCfg (n : Nat)
  -- MXA_ block, R186
  | mxaCfg (c : Nat)
  | mxaStatus (c : Nat)
  | mxaFlags (c : Nat)
  | mxaSatCount (c : Nat)
  | mxaRepeats (c : Nat)
  | mxaCtrl (c : Nat)
  | mxaLastFault (c : Nat)
  | mxaSlotState (c : Nat) (i : Nat)
  -- VEC_ block, R210
  | vecStatus (c : Nat)
  | vecFlags (c : Nat)
  | vecSatCount (c : Nat)
  | vecPasses (c : Nat)
  | vecCtrl (c : Nat)
  | vecLastFault (c : Nat)
  | vecChainTable (c : Nat)
  -- MEM_ block, R231
  | memCap
  | memQuota
  | memTlbInval
  | memFaultResume
  | memCksumStats
  | memDieTags (d : Nat)
  | memPartPtBase (p : Nat)
  | memPartFaultCfg (p : Nat)
  | memPartStreams (p : Nat)
  | memPartStatus (p : Nat)
  -- SMP_ block, R250
  | smpCap (d : Nat)
  | smpStatus (d : Nat)
  | smpDraws (d : Nat)
  | smpSlots (d : Nat)
  | smpErrors (d : Nat)
  | smpCtrl (d : Nat)
  | smpLastFault (d : Nat)
  | smpPartCfg (d : Nat) (p : Nat)
  | smpPartStatus (d : Nat) (p : Nat)
  -- GTH_ block, R273
  | gthCap (d : Nat)
  | gthCfg (d : Nat)
  | gthStatus (d : Nat)
  | gthRows (d : Nat)
  | gthServed (d : Nat)
  | gthContrib (d : Nat)
  | gthErrors (d : Nat)
  | gthCtrl (d : Nat)
  | gthLastFault (d : Nat)
  | gthPartCfg (d : Nat) (p : Nat)
  | gthPartLog (d : Nat) (p : Nat)
  | gthPartStatus (d : Nat) (p : Nat)
  -- SPR_ block, R296
  | sprCap (d : Nat)
  | sprDenseThreshold
  | sprMissLimit
  | sprDenseHold
  | sprStatus (d : Nat)
  | sprGroups (d : Nat)
  | sprCtrl (d : Nat)
  | sprLastFault (d : Nat)
  | sprLayerState (p : Nat) (l : Nat)
  | sprLayerCount (p : Nat) (l : Nat)
  -- CIS_ block, R326
  | cisCap (d : Nat)
  | cisSpilled (d : Nat)
  | cisCtrl (d : Nat)
  | cisLastFault (d : Nat)
  | cisPartCfg (d : Nat) (p : Nat)
  | cisPartUse (d : Nat) (p : Nat)
  | cisPartTop (p : Nat)
  | cisPartWindow (p : Nat)
  | cisPartStep (p : Nat)
  | cisPartSat (p : Nat)
  -- UPD_ block, R346
  | updCap (d : Nat)
  | updStatus (d : Nat)
  | updRows (d : Nat)
  | updCtrl (d : Nat)
  | updLastFault (d : Nat)
  | updBind (p : Nat) (b : Nat)
  | updFactor (p : Nat) (k : Nat)
  -- LNK_ block, R377
  | lnkCap
  | lnkCfg
  | lnkIdent
  | lnkCtrl
  | lnkPortStatus (n : Nat)
  | lnkPortCtrl (n : Nat)
  | lnkPortFec (n : Nat)
  | lnkPortRetry (n : Nat)
  | lnkPortTraffic (n : Nat)
  | lnkLand (d : Nat)
  | lnkGroup (p : Nat) (g : Nat)
  -- PLC_ block, R407
  | plcCap
  | plcCfg
  | plcFeature
  | plcFeatureCtrl
  | plcCensus
  | plcStats
  | plcFeatureTab (i : Nat)
  | plcPoolNear (p : Nat) (d : Nat)
  | plcPoolFar (p : Nat) (d : Nat)
  -- TIM_ block, R407
  | timCounter
  | timStatus
  | timOffset
  -- CTX_ block, R425
  | ctxCap
  | ctxReset
  | ctxPartCtrl (p : Nat)
  | ctxPartArea (p : Nat)
  | ctxPartCfg (p : Nat)
  | ctxPartStatus (p : Nat)
  -- RAS_ block, R446
  | rasCfg
  | rasStatus
  | rasClassCount (c : Nat)
  | rasSram
  | rasHist (i : Nat) (q : Nat)
  -- TST_ block, R446
  | tstStatus
  | tstSeed
  | tstTiming
  | tstCredit
  | tstDelay
  | tstInject (k : Nat)
  -- SEC_ block, R446
  | secStatus
  | secCtrl
  | secNonce (q : Nat)
  | secToken (q : Nat)
  -- MGT_ block, R446
  | mgtStatus
  | mgtStageList
  | mgtStageCtrl
  deriving DecidableEq, Repr

namespace Fd

/-! The fields, one constant each, named REGISTER then FIELD as the tables spell them. -/

def glbIdPartCode : RegField := ⟨"PART_CODE", 63, 32, .ro, 0x57590001⟩
def glbIdStepping : RegField := ⟨"STEPPING", 31, 24, .ro, 0xa1⟩
def glbIdRegFormat : RegField := ⟨"REG_FORMAT", 23, 16, .ro, 1⟩
def glbSerialLoSerial : RegField := ⟨"SERIAL", 63, 0, .ro, 0⟩
def glbSerialHiSerial : RegField := ⟨"SERIAL", 63, 0, .ro, 0⟩
def glbCapDies : RegField := ⟨"DIES", 63, 60, .ro, 4⟩
def glbCapClusters : RegField := ⟨"CLUSTERS", 59, 52, .ro, 0x20⟩
def glbCapCores : RegField := ⟨"CORES", 51, 40, .ro, 0x100⟩
def glbCapPorts : RegField := ⟨"PORTS", 39, 32, .ro, 0x1c⟩
def glbCapNearGib : RegField := ⟨"NEAR_GIB", 31, 20, .ro, 0x80⟩
def glbCapFarGib : RegField := ⟨"FAR_GIB", 19, 8, .ro, 0x400⟩
def glbCapPartitions : RegField := ⟨"PARTITIONS", 7, 0, .ro, 8⟩
def glbChipValid : RegField := ⟨"VALID", 63, 63, .ro, 0⟩
def glbChipChip : RegField := ⟨"CHIP", 13, 0, .ro, 0⟩
def glbScratchValue : RegField := ⟨"VALUE", 63, 0, .rw, 0⟩
def pwrCapDomains : RegField := ⟨"DOMAINS", 47, 32, .ro, 0x193⟩
def pwrCapRailMaxMv : RegField := ⟨"RAIL_MAX_MV", 31, 20, .ro, 0x3b6⟩
def pwrCapRailMinMv : RegField := ⟨"RAIL_MIN_MV", 19, 8, .ro, 0x258⟩
def pwrCapRailStepMv : RegField := ⟨"RAIL_STEP_MV", 7, 0, .ro, 0xa⟩
def pwrBudgetModuleW : RegField := ⟨"MODULE_W", 15, 0, .rw, 0xc80⟩
def pwrLendLendEn : RegField := ⟨"LEND_EN", 16, 16, .rw, 1⟩
def pwrLendThreshold : RegField := ⟨"THRESHOLD", 15, 0, .rw, 0x14⟩
def pwrThermalTjLimitC : RegField := ⟨"TJ_LIMIT_C", 15, 8, .rw, 0x5f⟩
def pwrThermalTjCritC : RegField := ⟨"TJ_CRIT_C", 7, 0, .ro, 0x69⟩
def pwrMeasureTjMaxC : RegField := ⟨"TJ_MAX_C", 63, 56, .ro, 0⟩
def pwrMeasureModuleW : RegField := ⟨"MODULE_W", 47, 32, .ro, 0⟩
def pwrMeasureGrantedW : RegField := ⟨"GRANTED_W", 31, 16, .ro, 0⟩
def pwrMeasureLentW : RegField := ⟨"LENT_W", 15, 0, .ro, 0⟩
def pwrEventFabricStall : RegField := ⟨"FABRIC_STALL", 5, 5, .w1c, 0⟩
def pwrEventCtrlReject : RegField := ⟨"CTRL_REJECT", 4, 4, .w1c, 0⟩
def pwrEventThermalCrit : RegField := ⟨"THERMAL_CRIT", 3, 3, .w1c, 0⟩
def pwrEventThermalLimit : RegField := ⟨"THERMAL_LIMIT", 2, 2, .w1c, 0⟩
def pwrEventEmergency : RegField := ⟨"EMERGENCY", 1, 1, .w1c, 0⟩
def pwrEventBudgetExceed : RegField := ⟨"BUDGET_EXCEED", 0, 0, .w1c, 0⟩
def pwrDomCtrlPolicy : RegField := ⟨"POLICY", 1, 0, .rw, 0⟩
def pwrDomStatusRailSet : RegField := ⟨"RAIL_SET", 39, 32, .ro, 0⟩
def pwrDomStatusPendingEnable : RegField := ⟨"PENDING_ENABLE", 7, 7, .ro, 0⟩
def pwrDomStatusPendingDisable : RegField := ⟨"PENDING_DISABLE", 6, 6, .ro, 0⟩
def pwrDomStatusLending : RegField := ⟨"LENDING", 5, 5, .ro, 0⟩
def pwrDomStatusAssigned : RegField := ⟨"ASSIGNED", 4, 4, .ro, 0⟩
def pwrDomStatusState : RegField := ⟨"STATE", 3, 0, .ro, 0⟩
def pwrCoreBeatsArrayBeats : RegField := ⟨"ARRAY_BEATS", 63, 0, .ro, 0⟩
def pwrCoreActiveNsActiveNs : RegField := ⟨"ACTIVE_NS", 63, 0, .ro, 0⟩
def bootStatusFailCode : RegField := ⟨"FAIL_CODE", 31, 16, .ro, 0⟩
def bootStatusState : RegField := ⟨"STATE", 7, 4, .ro, 0⟩
def bootStatusStage : RegField := ⟨"STAGE", 3, 0, .ro, 1⟩
def bootCtrlNextPush : RegField := ⟨"NEXT_PUSH", 8, 8, .rw, 0⟩
def bootCtrlHoldBefore : RegField := ⟨"HOLD_BEFORE", 3, 0, .rw, 0⟩
def bootPolicyWarmTest : RegField := ⟨"WARM_TEST", 3, 2, .rw, 1⟩
def bootPolicyColdTest : RegField := ⟨"COLD_TEST", 1, 0, .rw, 0⟩
def bootPushListAddr : RegField := ⟨"ADDR", 63, 16, .rw, 0⟩
def bootPushListEntries : RegField := ⟨"ENTRIES", 10, 0, .rw, 0⟩
def bootPushCtrlLength : RegField := ⟨"LENGTH", 63, 32, .rw, 0⟩
def bootPushCtrlResult : RegField := ⟨"RESULT", 7, 4, .ro, 0⟩
def bootPushCtrlGo : RegField := ⟨"GO", 0, 0, .wo, 0⟩
def bootImageRunningVersion : RegField := ⟨"RUNNING_VERSION", 63, 32, .ro, 0⟩
def bootImageRomFloor : RegField := ⟨"ROM_FLOOR", 31, 16, .ro, 0⟩
def bootImageSource : RegField := ⟨"SOURCE", 3, 2, .ro, 0⟩
def bootImageFlashWriteBusy : RegField := ⟨"FLASH_WRITE_BUSY", 1, 1, .ro, 0⟩
def bootImageFlashSynced : RegField := ⟨"FLASH_SYNCED", 0, 0, .ro, 0⟩
def bootDefectMapVersion : RegField := ⟨"MAP_VERSION", 63, 32, .ro, 0⟩
def bootDefectFieldRepairs : RegField := ⟨"FIELD_REPAIRS", 31, 24, .ro, 0⟩
def bootDefectSparesD3 : RegField := ⟨"SPARES_D3", 23, 20, .ro, 0⟩
def bootDefectSparesD2 : RegField := ⟨"SPARES_D2", 19, 16, .ro, 0⟩
def bootDefectSparesD1 : RegField := ⟨"SPARES_D1", 15, 12, .ro, 0⟩
def bootDefectSparesD0 : RegField := ⟨"SPARES_D0", 11, 8, .ro, 0⟩
def bootDefectLanesRepaired : RegField := ⟨"LANES_REPAIRED", 7, 0, .ro, 0⟩
def bootBoardPortConnected : RegField := ⟨"PORT_CONNECTED", 27, 0, .ro, 0⟩
def bootReportAFailCode : RegField := ⟨"FAIL_CODE", 63, 48, .ro, 0⟩
def bootReportAAttempts : RegField := ⟨"ATTEMPTS", 47, 40, .ro, 0⟩
def bootReportAResult : RegField := ⟨"RESULT", 7, 4, .ro, 0⟩
def bootReportAStage : RegField := ⟨"STAGE", 3, 0, .ro, 0⟩
def bootReportBStartNs : RegField := ⟨"START_NS", 63, 0, .ro, 0⟩
def bootReportCDurationUs : RegField := ⟨"DURATION_US", 31, 0, .ro, 0⟩
def bootReportDDetail : RegField := ⟨"DETAIL", 63, 0, .ro, 0⟩
def hifCapPartitions : RegField := ⟨"PARTITIONS", 47, 40, .ro, 8⟩
def hifCapQueues : RegField := ⟨"QUEUES", 39, 32, .ro, 0x40⟩
def hifCapMsixVectors : RegField := ⟨"MSIX_VECTORS", 31, 20, .ro, 0x800⟩
def hifCapRingMaxLog2 : RegField := ⟨"RING_MAX_LOG2", 19, 16, .ro, 0⟩
def hifLinkUnsupported : RegField := ⟨"UNSUPPORTED", 15, 15, .ro, 0⟩
def hifLinkFlit : RegField := ⟨"FLIT", 14, 14, .ro, 0⟩
def hifLinkWidth : RegField := ⟨"WIDTH", 13, 8, .ro, 0⟩
def hifLinkRateGt : RegField := ⟨"RATE_GT", 7, 0, .ro, 0⟩
def hifPollSleepUs : RegField := ⟨"SLEEP_US", 31, 16, .ro, 0x14⟩
def hifPollIntervalNs : RegField := ⟨"INTERVAL_NS", 15, 0, .rw, 0x3e8⟩
def hifWinBaseBase : RegField := ⟨"BASE", 49, 36, .rw, 0⟩
def hifModErrBaseAddr : RegField := ⟨"ADDR", 63, 12, .rw, 0⟩
def hifModErrCfgVector : RegField := ⟨"VECTOR", 31, 24, .rw, 0⟩
def hifModErrCfgEnable : RegField := ⟨"ENABLE", 16, 16, .rw, 0⟩
def hifModErrCfgSizeLog2 : RegField := ⟨"SIZE_LOG2", 3, 0, .rw, 6⟩
def hifPartCtrlOwner : RegField := ⟨"OWNER", 16, 16, .rw, 0⟩
def hifPartCtrlHbCq : RegField := ⟨"HB_CQ", 13, 8, .rw, 0⟩
def hifPartCtrlReset : RegField := ⟨"RESET", 1, 1, .wo, 0⟩
def hifPartCtrlEnable : RegField := ⟨"ENABLE", 0, 0, .rw, 0⟩
def hifPartStatusErrDropped : RegField := ⟨"ERR_DROPPED", 47, 32, .ro, 0⟩
def hifPartStatusWakeIgnored : RegField := ⟨"WAKE_IGNORED", 31, 16, .ro, 0⟩
def hifPartStatusHbBlocked : RegField := ⟨"HB_BLOCKED", 3, 3, .ro, 0⟩
def hifPartStatusFormed : RegField := ⟨"FORMED", 2, 2, .ro, 0⟩
def hifPartStatusActive : RegField := ⟨"ACTIVE", 1, 1, .ro, 0⟩
def hifPartStatusResetting : RegField := ⟨"RESETTING", 0, 0, .ro, 0⟩
def hifPartWordsAddr : RegField := ⟨"ADDR", 63, 12, .rw, 0⟩
def hifPartWinBase : RegField := ⟨"BASE", 63, 33, .rw, 0⟩
def hifErrBaseAddr : RegField := ⟨"ADDR", 63, 12, .rw, 0⟩
def hifErrCfgVector : RegField := ⟨"VECTOR", 31, 24, .rw, 0⟩
def hifErrCfgEnable : RegField := ⟨"ENABLE", 16, 16, .rw, 0⟩
def hifErrCfgSizeLog2 : RegField := ⟨"SIZE_LOG2", 3, 0, .rw, 6⟩
def hifSqBaseAddr : RegField := ⟨"ADDR", 63, 12, .rw, 0⟩
def hifSqCfgCq : RegField := ⟨"CQ", 21, 16, .rw, 0⟩
def hifSqCfgEnable : RegField := ⟨"ENABLE", 8, 8, .rw, 0⟩
def hifSqCfgSizeLog2 : RegField := ⟨"SIZE_LOG2", 4, 0, .rw, 6⟩
def hifCqBaseAddr : RegField := ⟨"ADDR", 63, 12, .rw, 0⟩
def hifCqCfgCoalCount : RegField := ⟨"COAL_COUNT", 47, 40, .rw, 1⟩
def hifCqCfgCoalTimeUs : RegField := ⟨"COAL_TIME_US", 39, 30, .rw, 0⟩
def hifCqCfgVector : RegField := ⟨"VECTOR", 23, 16, .rw, 0⟩
def hifCqCfgEnable : RegField := ⟨"ENABLE", 8, 8, .rw, 0⟩
def hifCqCfgSizeLog2 : RegField := ⟨"SIZE_LOG2", 4, 0, .rw, 6⟩
def hifSqStatusState : RegField := ⟨"STATE", 35, 32, .ro, 0⟩
def hifSqStatusConsumed : RegField := ⟨"CONSUMED", 31, 0, .ro, 0⟩
def hifCqStatusState : RegField := ⟨"STATE", 35, 32, .ro, 0⟩
def hifCqStatusTail : RegField := ⟨"TAIL", 31, 0, .ro, 0⟩
def cmdCapRunAhead : RegField := ⟨"RUN_AHEAD", 63, 48, .ro, 0x200⟩
def cmdCapRegions : RegField := ⟨"REGIONS", 47, 40, .ro, 0x10⟩
def cmdCapPmemWords : RegField := ⟨"PMEM_WORDS", 39, 24, .ro, 0x2000⟩
def cmdCapLoopDepth : RegField := ⟨"LOOP_DEPTH", 23, 16, .ro, 4⟩
def cmdCapLeaseLapseUs : RegField := ⟨"LEASE_LAPSE_US", 15, 8, .ro, 0xa⟩
def cmdCapDescBytes : RegField := ⟨"DESC_BYTES", 7, 0, .ro, 0x40⟩
def cmdPmemAddrCore : RegField := ⟨"CORE", 23, 16, .rw, 0⟩
def cmdPmemAddrWord : RegField := ⟨"WORD", 12, 0, .rw, 0⟩
def cmdPmemDataWordData : RegField := ⟨"WORD_DATA", 63, 0, .wo, 0⟩
def cmdPartCtrlDefaultTimeoutUs : RegField := ⟨"DEFAULT_TIMEOUT_US", 27, 0, .rw, 0xf4240⟩
def cmdPartStatusSkipped : RegField := ⟨"SKIPPED", 63, 32, .ro, 0⟩
def cmdPartStatusStaleFaults : RegField := ⟨"STALE_FAULTS", 31, 16, .ro, 0⟩
def cmdPartStatusTimeouts : RegField := ⟨"TIMEOUTS", 15, 0, .ro, 0⟩
def cmdQCfgStopOnTimeout : RegField := ⟨"STOP_ON_TIMEOUT", 4, 4, .rw, 0⟩
def cmdQCfgPriority : RegField := ⟨"PRIORITY", 3, 0, .rw, 8⟩
def cmdQStatusOutstanding : RegField := ⟨"OUTSTANDING", 41, 32, .ro, 0⟩
def cmdQStatusRetireIndex : RegField := ⟨"RETIRE_INDEX", 31, 0, .ro, 0⟩
def cmdCoreStatusLoopLevel : RegField := ⟨"LOOP_LEVEL", 35, 32, .ro, 0⟩
def cmdCoreStatusPendingWrite : RegField := ⟨"PENDING_WRITE", 28, 28, .ro, 0⟩
def cmdCoreStatusLeaseHeld : RegField := ⟨"LEASE_HELD", 27, 27, .ro, 0⟩
def cmdCoreStatusLeaseRegion : RegField := ⟨"LEASE_REGION", 26, 23, .ro, 0⟩
def cmdCoreStatusState : RegField := ⟨"STATE", 22, 20, .ro, 0⟩
def cmdCoreStatusPc : RegField := ⟨"PC", 12, 0, .ro, 0⟩
def synCapObjects : RegField := ⟨"OBJECTS", 47, 30, .ro, 0x20000⟩
def synCapReadyEntries : RegField := ⟨"READY_ENTRIES", 29, 16, .ro, 0x1000⟩
def synCapLevelsM1 : RegField := ⟨"LEVELS_M1", 15, 12, .ro, 0xf⟩
def synCapFlows : RegField := ⟨"FLOWS", 11, 0, .ro, 0x400⟩
def synDbgSelWaiterIdx : RegField := ⟨"WAITER_IDX", 31, 17, .rw, 0⟩
def synDbgSelObject : RegField := ⟨"OBJECT", 16, 0, .rw, 0⟩
def synDbgValueValue : RegField := ⟨"VALUE", 63, 0, .ro, 0⟩
def synDbgStateOverflowed : RegField := ⟨"OVERFLOWED", 33, 33, .ro, 0⟩
def synDbgStateUnderflowed : RegField := ⟨"UNDERFLOWED", 32, 32, .ro, 0⟩
def synDbgStateWaiters : RegField := ⟨"WAITERS", 15, 0, .ro, 0⟩
def synDbgLastSrcChip : RegField := ⟨"CHIP", 63, 50, .ro, 0⟩
def synDbgLastSrcPartition : RegField := ⟨"PARTITION", 49, 47, .ro, 0⟩
def synDbgLastSrcClass : RegField := ⟨"CLASS", 46, 43, .ro, 0⟩
def synDbgLastSrcEngine : RegField := ⟨"ENGINE", 42, 32, .ro, 0⟩
def synDbgLastIndexIndex : RegField := ⟨"INDEX", 31, 0, .ro, 0⟩
def synDbgWaiterValid : RegField := ⟨"VALID", 63, 63, .ro, 0⟩
def synDbgWaiterPolling : RegField := ⟨"POLLING", 62, 62, .ro, 0⟩
def synDbgWaiterKind : RegField := ⟨"KIND", 61, 60, .ro, 0⟩
def synDbgWaiterOp : RegField := ⟨"OP", 59, 57, .ro, 0⟩
def synDbgWaiterPartition : RegField := ⟨"PARTITION", 56, 54, .ro, 0⟩
def synDbgWaiterWho : RegField := ⟨"WHO", 53, 46, .ro, 0⟩
def synDbgWaiterIndex : RegField := ⟨"INDEX", 31, 0, .ro, 0⟩
def synDbgWaiterValueWaitValue : RegField := ⟨"WAIT_VALUE", 63, 0, .ro, 0⟩
def synPartCfgSyncBase : RegField := ⟨"SYNC_BASE", 63, 56, .rw, 0⟩
def synPartCfgSyncCount : RegField := ⟨"SYNC_COUNT", 55, 48, .rw, 0x10⟩
def synPartCfgCoreWaitUs : RegField := ⟨"CORE_WAIT_US", 25, 0, .rw, 0xf4240⟩
def synPartStatusUnderflows : RegField := ⟨"UNDERFLOWS", 63, 48, .ro, 0⟩
def synPartStatusOverflows : RegField := ⟨"OVERFLOWS", 47, 32, .ro, 0⟩
def synPartStatusFlowFaults : RegField := ⟨"FLOW_FAULTS", 31, 16, .ro, 0⟩
def synPartStatusCoreWaitTimeouts : RegField := ⟨"CORE_WAIT_TIMEOUTS", 15, 0, .ro, 0⟩
def synDieCfgAgeUs : RegField := ⟨"AGE_US", 15, 0, .rw, 0x64⟩
def synShareWeight : RegField := ⟨"WEIGHT", 6, 0, .rw, 8⟩
def synDieStatusPendingSignals : RegField := ⟨"PENDING_SIGNALS", 63, 48, .ro, 0⟩
def synDieStatusWaitersUsed : RegField := ⟨"WAITERS_USED", 47, 32, .ro, 0⟩
def synDieStatusReadyUsed : RegField := ⟨"READY_USED", 31, 16, .ro, 0⟩
def synDieStatusCreditStalls : RegField := ⟨"CREDIT_STALLS", 15, 0, .ro, 0⟩
def synFlowCfgOpen : RegField := ⟨"OPEN", 63, 63, .rw, 0⟩
def synFlowCfgWindowLog2 : RegField := ⟨"WINDOW_LOG2", 51, 48, .rw, 8⟩
def synFlowCfgStallUs : RegField := ⟨"STALL_US", 47, 24, .rw, 0x2710⟩
def synFlowCfgReleaseSync : RegField := ⟨"RELEASE_SYNC", 16, 0, .rw, 0⟩
def synFlowStatusState : RegField := ⟨"STATE", 63, 62, .ro, 0⟩
def synFlowStatusInWindow : RegField := ⟨"IN_WINDOW", 40, 32, .ro, 0⟩
def synFlowStatusNextRelease : RegField := ⟨"NEXT_RELEASE", 31, 0, .ro, 0⟩
def synObjCfgPrewake : RegField := ⟨"PREWAKE", 63, 48, .rw, 0⟩
def synObjCfgBound : RegField := ⟨"BOUND", 47, 0, .rw, 0⟩
def mxaCfgRampIdleUs : RegField := ⟨"RAMP_IDLE_US", 7, 0, .rw, 2⟩
def mxaStatusTqDiscards : RegField := ⟨"TQ_DISCARDS", 63, 48, .ro, 0⟩
def mxaStatusSlotsLive : RegField := ⟨"SLOTS_LIVE", 47, 40, .ro, 0⟩
def mxaStatusRampStep : RegField := ⟨"RAMP_STEP", 39, 36, .ro, 0⟩
def mxaStatusTqUsed : RegField := ⟨"TQ_USED", 35, 32, .ro, 0⟩
def mxaStatusAqDepth : RegField := ⟨"AQ_DEPTH", 4, 0, .ro, 0⟩
def mxaFlagsOverflow : RegField := ⟨"OVERFLOW", 3, 3, .w1c, 0⟩
def mxaFlagsSaturate : RegField := ⟨"SATURATE", 2, 2, .w1c, 0⟩
def mxaFlagsInvalid : RegField := ⟨"INVALID", 1, 1, .w1c, 0⟩
def mxaFlagsInexact : RegField := ⟨"INEXACT", 0, 0, .w1c, 0⟩
def mxaSatCountSaturated : RegField := ⟨"SATURATED", 63, 0, .ro, 0⟩
def mxaRepeatsShift16 : RegField := ⟨"SHIFT16", 63, 32, .ro, 0⟩
def mxaRepeatsShift8 : RegField := ⟨"SHIFT8", 31, 0, .ro, 0⟩
def mxaCtrlClearCounts : RegField := ⟨"CLEAR_COUNTS", 0, 0, .wo, 0⟩
def mxaLastFaultKind : RegField := ⟨"KIND", 31, 28, .ro, 0⟩
def mxaLastFaultSlot : RegField := ⟨"SLOT", 19, 13, .ro, 0⟩
def mxaLastFaultPc : RegField := ⟨"PC", 12, 0, .ro, 0⟩
def mxaSlotStateState : RegField := ⟨"STATE", 63, 0, .ro, 0⟩
def vecStatusTqWait : RegField := ⟨"TQ_WAIT", 8, 8, .ro, 0⟩
def vecStatusVqDepth : RegField := ⟨"VQ_DEPTH", 4, 0, .ro, 0⟩
def vecFlagsSaturate : RegField := ⟨"SATURATE", 5, 5, .w1c, 0⟩
def vecFlagsInexact : RegField := ⟨"INEXACT", 4, 4, .w1c, 0⟩
def vecFlagsUnderflow : RegField := ⟨"UNDERFLOW", 3, 3, .w1c, 0⟩
def vecFlagsOverflow : RegField := ⟨"OVERFLOW", 2, 2, .w1c, 0⟩
def vecFlagsDivZero : RegField := ⟨"DIV_ZERO", 1, 1, .w1c, 0⟩
def vecFlagsInvalid : RegField := ⟨"INVALID", 0, 0, .w1c, 0⟩
def vecSatCountSaturated : RegField := ⟨"SATURATED", 63, 0, .ro, 0⟩
def vecPassesPasses : RegField := ⟨"PASSES", 63, 0, .ro, 0⟩
def vecCtrlClearCounts : RegField := ⟨"CLEAR_COUNTS", 0, 0, .wo, 0⟩
def vecLastFaultKind : RegField := ⟨"KIND", 31, 28, .ro, 0⟩
def vecLastFaultStage : RegField := ⟨"STAGE", 15, 13, .ro, 0⟩
def vecLastFaultPc : RegField := ⟨"PC", 12, 0, .ro, 0⟩
def vecChainTableStages : RegField := ⟨"STAGES", 63, 0, .ro, 0⟩
def memCapFarMts : RegField := ⟨"FAR_MTS", 63, 48, .ro, 0⟩
def memCapNearGib : RegField := ⟨"NEAR_GIB", 47, 32, .ro, 0x80⟩
def memCapFarGib : RegField := ⟨"FAR_GIB", 31, 16, .ro, 0x400⟩
def memCapStreamsPerDie : RegField := ⟨"STREAMS_PER_DIE", 15, 0, .ro, 0x1000⟩
def memQuotaRemoteShift : RegField := ⟨"REMOTE_SHIFT", 11, 8, .rw, 3⟩
def memQuotaFarShift : RegField := ⟨"FAR_SHIFT", 7, 4, .rw, 3⟩
def memQuotaNearShift : RegField := ⟨"NEAR_SHIFT", 3, 0, .rw, 3⟩
def memTlbInvalBusy : RegField := ⟨"BUSY", 63, 63, .ro, 0⟩
def memTlbInvalPartition : RegField := ⟨"PARTITION", 62, 60, .wo, 0⟩
def memTlbInvalAll : RegField := ⟨"ALL", 59, 59, .wo, 0⟩
def memTlbInvalPage : RegField := ⟨"PAGE", 47, 16, .wo, 0⟩
def memTlbInvalCount : RegField := ⟨"COUNT", 15, 0, .wo, 0⟩
def memFaultResumeAction : RegField := ⟨"ACTION", 63, 62, .wo, 0⟩
def memFaultResumePartition : RegField := ⟨"PARTITION", 61, 59, .wo, 0⟩
def memFaultResumeHandle : RegField := ⟨"HANDLE", 31, 0, .wo, 0⟩
def memCksumStatsRefetchOk : RegField := ⟨"REFETCH_OK", 63, 48, .ro, 0⟩
def memCksumStatsReplicaOk : RegField := ⟨"REPLICA_OK", 47, 32, .ro, 0⟩
def memCksumStatsFaults : RegField := ⟨"FAULTS", 31, 16, .ro, 0⟩
def memCksumStatsMergeRefused : RegField := ⟨"MERGE_REFUSED", 15, 0, .ro, 0⟩
def memDieTagsNearUsed : RegField := ⟨"NEAR_USED", 63, 48, .ro, 0⟩
def memDieTagsFarUsed : RegField := ⟨"FAR_USED", 47, 32, .ro, 0⟩
def memDieTagsRemoteUsed : RegField := ⟨"REMOTE_USED", 31, 16, .ro, 0⟩
def memDieTagsWaiting : RegField := ⟨"WAITING", 15, 0, .ro, 0⟩
def memPartPtBaseOffset : RegField := ⟨"OFFSET", 49, 12, .rw, 0⟩
def memPartPtBaseEnable : RegField := ⟨"ENABLE", 0, 0, .rw, 0⟩
def memPartFaultCfgParkUs : RegField := ⟨"PARK_US", 25, 0, .rw, 0x2710⟩
def memPartStreamsPerDie : RegField := ⟨"PER_DIE", 12, 0, .rw, 0x200⟩
def memPartStatusParked : RegField := ⟨"PARKED", 63, 48, .ro, 0⟩
def memPartStatusStreams : RegField := ⟨"STREAMS", 47, 32, .ro, 0⟩
def memPartStatusWatchRereads : RegField := ⟨"WATCH_REREADS", 31, 16, .ro, 0⟩
def memPartStatusBlockedReads : RegField := ⟨"BLOCKED_READS", 15, 0, .ro, 0⟩
def smpCapSamplers : RegField := ⟨"SAMPLERS", 47, 40, .ro, 8⟩
def smpCapContexts : RegField := ⟨"CONTEXTS", 39, 28, .ro, 0x100⟩
def smpCapMaxHops : RegField := ⟨"MAX_HOPS", 27, 24, .ro, 4⟩
def smpCapMaxFanout : RegField := ⟨"MAX_FANOUT", 23, 16, .ro, 0xff⟩
def smpCapMaxSlotsLog2 : RegField := ⟨"MAX_SLOTS_LOG2", 15, 8, .ro, 0x16⟩
def smpCapNodesPerBlockLog2 : RegField := ⟨"NODES_PER_BLOCK_LOG2", 7, 0, .ro, 0xe⟩
def smpStatusCommands : RegField := ⟨"COMMANDS", 43, 32, .ro, 0⟩
def smpStatusContextsUsed : RegField := ⟨"CONTEXTS_USED", 11, 0, .ro, 0⟩
def smpDrawsDraws : RegField := ⟨"DRAWS", 63, 0, .ro, 0⟩
def smpSlotsSlots : RegField := ⟨"SLOTS", 63, 0, .ro, 0⟩
def smpErrorsErrSlots : RegField := ⟨"ERR_SLOTS", 63, 32, .ro, 0⟩
def smpErrorsFailed : RegField := ⟨"FAILED", 31, 16, .ro, 0⟩
def smpErrorsBadDesc : RegField := ⟨"BAD_DESC", 15, 0, .ro, 0⟩
def smpCtrlClearCounts : RegField := ⟨"CLEAR_COUNTS", 0, 0, .wo, 0⟩
def smpLastFaultCode : RegField := ⟨"CODE", 63, 48, .ro, 0⟩
def smpLastFaultPartition : RegField := ⟨"PARTITION", 47, 45, .ro, 0⟩
def smpLastFaultHop : RegField := ⟨"HOP", 44, 42, .ro, 0⟩
def smpLastFaultIndex : RegField := ⟨"INDEX", 31, 0, .ro, 0⟩
def smpPartCfgContextLimit : RegField := ⟨"CONTEXT_LIMIT", 11, 0, .rw, 0x800⟩
def smpPartStatusContextsHeld : RegField := ⟨"CONTEXTS_HELD", 43, 32, .ro, 0⟩
def smpPartStatusTraces : RegField := ⟨"TRACES", 31, 0, .ro, 0⟩
def gthCapEngines : RegField := ⟨"ENGINES", 63, 56, .ro, 0x10⟩
def gthCapScatterUnits : RegField := ⟨"SCATTER_UNITS", 55, 48, .ro, 8⟩
def gthCapThreads : RegField := ⟨"THREADS", 47, 36, .ro, 0x100⟩
def gthCapRowsPerThread : RegField := ⟨"ROWS_PER_THREAD", 35, 32, .ro, 8⟩
def gthCapMaxRowBytes : RegField := ⟨"MAX_ROW_BYTES", 31, 16, .ro, 0x1000⟩
def gthCfgRemoteCap : RegField := ⟨"REMOTE_CAP", 43, 32, .rw, 0x800⟩
def gthCfgFarCap : RegField := ⟨"FAR_CAP", 21, 11, .rw, 0x100⟩
def gthCfgNearCap : RegField := ⟨"NEAR_CAP", 10, 0, .rw, 0x100⟩
def gthStatusThreadsUsed : RegField := ⟨"THREADS_USED", 44, 32, .ro, 0⟩
def gthStatusGathers : RegField := ⟨"GATHERS", 31, 16, .ro, 0⟩
def gthStatusScatters : RegField := ⟨"SCATTERS", 15, 0, .ro, 0⟩
def gthRowsRows : RegField := ⟨"ROWS", 63, 0, .ro, 0⟩
def gthServedServed : RegField := ⟨"SERVED", 63, 0, .ro, 0⟩
def gthContribReceived : RegField := ⟨"RECEIVED", 63, 32, .ro, 0⟩
def gthContribDuplicateKeys : RegField := ⟨"DUPLICATE_KEYS", 31, 16, .ro, 0⟩
def gthContribDropped : RegField := ⟨"DROPPED", 15, 0, .ro, 0⟩
def gthErrorsZeroRows : RegField := ⟨"ZERO_ROWS", 63, 32, .ro, 0⟩
def gthErrorsEpochMismatch : RegField := ⟨"EPOCH_MISMATCH", 31, 16, .ro, 0⟩
def gthErrorsLogFull : RegField := ⟨"LOG_FULL", 15, 0, .ro, 0⟩
def gthCtrlClearCounts : RegField := ⟨"CLEAR_COUNTS", 0, 0, .wo, 0⟩
def gthLastFaultCode : RegField := ⟨"CODE", 63, 48, .ro, 0⟩
def gthLastFaultPartition : RegField := ⟨"PARTITION", 47, 45, .ro, 0⟩
def gthLastFaultClass : RegField := ⟨"CLASS", 44, 44, .ro, 0⟩
def gthLastFaultIndex : RegField := ⟨"INDEX", 31, 0, .ro, 0⟩
def gthPartCfgLogWaitUs : RegField := ⟨"LOG_WAIT_US", 63, 48, .rw, 0x2710⟩
def gthPartCfgThreadLimit : RegField := ⟨"THREAD_LIMIT", 12, 0, .rw, 0x1000⟩
def gthPartLogBase : RegField := ⟨"BASE", 49, 24, .ro, 0⟩
def gthPartLogSize : RegField := ⟨"SIZE", 11, 0, .ro, 0⟩
def gthPartStatusLogUsed : RegField := ⟨"LOG_USED", 63, 32, .ro, 0⟩
def gthPartStatusRowsSummed : RegField := ⟨"ROWS_SUMMED", 31, 0, .ro, 0⟩
def sprCapEngines : RegField := ⟨"ENGINES", 63, 56, .ro, 4⟩
def sprCapLayerSlots : RegField := ⟨"LAYER_SLOTS", 55, 48, .ro, 0x40⟩
def sprCapMaxKt : RegField := ⟨"MAX_KT", 47, 36, .ro, 0x100⟩
def sprDenseThresholdThreshold : RegField := ⟨"THRESHOLD", 6, 0, .rw, 0x38⟩
def sprMissLimitLimit : RegField := ⟨"LIMIT", 15, 0, .rw, 0x800⟩
def sprDenseHoldHold : RegField := ⟨"HOLD", 15, 0, .rw, 0x40⟩
def sprStatusMerges : RegField := ⟨"MERGES", 63, 48, .ro, 0⟩
def sprStatusPairs : RegField := ⟨"PAIRS", 47, 0, .ro, 0⟩
def sprGroupsKept : RegField := ⟨"KEPT", 63, 32, .ro, 0⟩
def sprGroupsDropped : RegField := ⟨"DROPPED", 31, 0, .ro, 0⟩
def sprCtrlClearCounts : RegField := ⟨"CLEAR_COUNTS", 0, 0, .wo, 0⟩
def sprLastFaultCode : RegField := ⟨"CODE", 63, 48, .ro, 0⟩
def sprLastFaultPartition : RegField := ⟨"PARTITION", 47, 45, .ro, 0⟩
def sprLastFaultSlot : RegField := ⟨"SLOT", 44, 39, .ro, 0⟩
def sprLastFaultIndex : RegField := ⟨"INDEX", 31, 0, .ro, 0⟩
def sprLayerStateLayerId : RegField := ⟨"LAYER_ID", 63, 32, .ro, 0⟩
def sprLayerStateHoldLeft : RegField := ⟨"HOLD_LEFT", 31, 16, .ro, 0⟩
def sprLayerStateStreak : RegField := ⟨"STREAK", 3, 2, .ro, 0⟩
def sprLayerStateMode : RegField := ⟨"MODE", 1, 0, .ro, 0⟩
def sprLayerCountAudited : RegField := ⟨"AUDITED", 63, 32, .ro, 0⟩
def sprLayerCountMissed : RegField := ⟨"MISSED", 31, 0, .ro, 0⟩
def cisCapPieceKib : RegField := ⟨"PIECE_KIB", 63, 48, .ro, 0x40⟩
def cisCapMaxDepth : RegField := ⟨"MAX_DEPTH", 47, 40, .ro, 8⟩
def cisCapNormEntries : RegField := ⟨"NORM_ENTRIES", 39, 28, .ro, 0x300⟩
def cisCapMaxEntries : RegField := ⟨"MAX_ENTRIES", 27, 16, .ro, 0xff⟩
def cisSpilledSpilled : RegField := ⟨"SPILLED", 63, 0, .ro, 0⟩
def cisCtrlClearCounts : RegField := ⟨"CLEAR_COUNTS", 0, 0, .wo, 0⟩
def cisLastFaultCode : RegField := ⟨"CODE", 63, 48, .ro, 0⟩
def cisLastFaultPartition : RegField := ⟨"PARTITION", 47, 45, .ro, 0⟩
def cisLastFaultIndex : RegField := ⟨"INDEX", 31, 0, .ro, 0⟩
def cisPartCfgFarCap : RegField := ⟨"FAR_CAP", 44, 32, .rw, 0⟩
def cisPartCfgNearCap : RegField := ⟨"NEAR_CAP", 9, 0, .rw, 0⟩
def cisPartUseNearMib : RegField := ⟨"NEAR_MIB", 63, 48, .ro, 0⟩
def cisPartUseFarMib : RegField := ⟨"FAR_MIB", 47, 29, .ro, 0⟩
def cisPartUseReservedMib : RegField := ⟨"RESERVED_MIB", 28, 10, .ro, 0⟩
def cisPartTopTop : RegField := ⟨"TOP", 63, 0, .ro, 0xffffffffffffffff⟩
def cisPartWindowConfigured : RegField := ⟨"CONFIGURED", 63, 63, .ro, 0⟩
def cisPartWindowBase : RegField := ⟨"BASE", 47, 26, .ro, 0⟩
def cisPartWindowSegLog2 : RegField := ⟨"SEG_LOG2", 19, 14, .ro, 0⟩
def cisPartWindowDepth : RegField := ⟨"DEPTH", 13, 10, .ro, 0⟩
def cisPartWindowStepFrame : RegField := ⟨"STEP_FRAME", 9, 0, .ro, 0⟩
def cisPartStepState : RegField := ⟨"STATE", 63, 60, .ro, 0⟩
def cisPartStepGscaleExp : RegField := ⟨"GSCALE_EXP", 44, 40, .ro, 0⟩
def cisPartStepCleanSteps : RegField := ⟨"CLEAN_STEPS", 39, 32, .ro, 0⟩
def cisPartStepStep : RegField := ⟨"STEP", 31, 0, .ro, 0⟩
def cisPartSatGradSat : RegField := ⟨"GRAD_SAT", 63, 0, .ro, 0⟩
def updCapBindings : RegField := ⟨"BINDINGS", 63, 56, .ro, 0x20⟩
def updCapSchedules : RegField := ⟨"SCHEDULES", 55, 48, .ro, 0x10⟩
def updCapMaxWords : RegField := ⟨"MAX_WORDS", 47, 40, .ro, 0x20⟩
def updCapFactored : RegField := ⟨"FACTORED", 39, 32, .ro, 4⟩
def updCapMaxElements : RegField := ⟨"MAX_ELEMENTS", 31, 16, .ro, 0x800⟩
def updStatusCheckpoints : RegField := ⟨"CHECKPOINTS", 63, 48, .ro, 0⟩
def updStatusCopyFirst : RegField := ⟨"COPY_FIRST", 47, 32, .ro, 0⟩
def updStatusActive : RegField := ⟨"ACTIVE", 0, 0, .ro, 0⟩
def updRowsRows : RegField := ⟨"ROWS", 63, 0, .ro, 0⟩
def updCtrlClearCounts : RegField := ⟨"CLEAR_COUNTS", 0, 0, .wo, 0⟩
def updLastFaultCode : RegField := ⟨"CODE", 63, 48, .ro, 0⟩
def updLastFaultPartition : RegField := ⟨"PARTITION", 47, 45, .ro, 0⟩
def updLastFaultSlot : RegField := ⟨"SLOT", 44, 40, .ro, 0⟩
def updLastFaultIndex : RegField := ⟨"INDEX", 31, 0, .ro, 0⟩
def updBindHandle : RegField := ⟨"HANDLE", 63, 32, .ro, 0⟩
def updBindTableId : RegField := ⟨"TABLE_ID", 31, 16, .ro, 0⟩
def updBindFactored : RegField := ⟨"FACTORED", 3, 3, .ro, 0⟩
def updBindGuard : RegField := ⟨"GUARD", 2, 2, .ro, 0⟩
def updBindNorm : RegField := ⟨"NORM", 1, 1, .ro, 0⟩
def updBindBound : RegField := ⟨"BOUND", 0, 0, .ro, 0⟩
def updFactorF0 : RegField := ⟨"F0", 63, 32, .ro, 0⟩
def updFactorTStep : RegField := ⟨"T_STEP", 31, 0, .ro, 0⟩
def lnkCapPorts : RegField := ⟨"PORTS", 63, 56, .ro, 0x1c⟩
def lnkCapLanes : RegField := ⟨"LANES", 55, 52, .ro, 9⟩
def lnkCapVcs : RegField := ⟨"VCS", 51, 48, .ro, 4⟩
def lnkCapLaneGbps : RegField := ⟨"LANE_GBPS", 47, 32, .ro, 0x190⟩
def lnkCapReplayFlits : RegField := ⟨"REPLAY_FLITS", 31, 20, .ro, 0x400⟩
def lnkCapLandEntries : RegField := ⟨"LAND_ENTRIES", 19, 0, .ro, 0x4000⟩
def lnkCfgHeldTimeoutMs : RegField := ⟨"HELD_TIMEOUT_MS", 63, 48, .rw, 0x3e8⟩
def lnkCfgLandTimeoutUs : RegField := ⟨"LAND_TIMEOUT_US", 47, 32, .rw, 0x2710⟩
def lnkCfgRemoteTimeoutUs : RegField := ⟨"REMOTE_TIMEOUT_US", 31, 16, .rw, 0x64⟩
def lnkCfgCollTimeoutMs : RegField := ⟨"COLL_TIMEOUT_MS", 15, 0, .rw, 0x64⟩
def lnkIdentChip : RegField := ⟨"CHIP", 63, 50, .ro, 0⟩
def lnkIdentFeature : RegField := ⟨"FEATURE", 49, 34, .ro, 0⟩
def lnkCtrlClearCounts : RegField := ⟨"CLEAR_COUNTS", 0, 0, .wo, 0⟩
def lnkPortStatusPeerId : RegField := ⟨"PEER_ID", 63, 48, .ro, 0⟩
def lnkPortStatusPeerPort : RegField := ⟨"PEER_PORT", 47, 40, .ro, 0⟩
def lnkPortStatusLevel : RegField := ⟨"LEVEL", 39, 24, .ro, 0⟩
def lnkPortStatusRepaired : RegField := ⟨"REPAIRED", 19, 16, .ro, 0xf⟩
def lnkPortStatusLocked : RegField := ⟨"LOCKED", 15, 7, .ro, 0⟩
def lnkPortStatusState : RegField := ⟨"STATE", 3, 0, .ro, 0⟩
def lnkPortCtrlAction : RegField := ⟨"ACTION", 1, 0, .wo, 0⟩
def lnkPortFecCorrectedBits : RegField := ⟨"CORRECTED_BITS", 63, 32, .ro, 0⟩
def lnkPortFecUncorrectable : RegField := ⟨"UNCORRECTABLE", 31, 0, .ro, 0⟩
def lnkPortRetryReplays : RegField := ⟨"REPLAYS", 63, 32, .ro, 0⟩
def lnkPortRetryRetrains : RegField := ⟨"RETRAINS", 31, 16, .ro, 0⟩
def lnkPortRetryFailovers : RegField := ⟨"FAILOVERS", 15, 0, .ro, 0⟩
def lnkPortTrafficTxFlits : RegField := ⟨"TX_FLITS", 63, 32, .ro, 0⟩
def lnkPortTrafficRxFlits : RegField := ⟨"RX_FLITS", 31, 0, .ro, 0⟩
def lnkLandEntriesUsed : RegField := ⟨"ENTRIES_USED", 63, 48, .ro, 0⟩
def lnkLandSignalsHeld : RegField := ⟨"SIGNALS_HELD", 47, 32, .ro, 0⟩
def lnkLandRefused : RegField := ⟨"REFUSED", 31, 0, .ro, 0⟩
def lnkGroupFormed : RegField := ⟨"FORMED", 63, 63, .ro, 0⟩
def lnkGroupLevel : RegField := ⟨"LEVEL", 47, 32, .ro, 0⟩
def lnkGroupMembersM1 : RegField := ⟨"MEMBERS_M1", 31, 18, .ro, 0⟩
def lnkGroupRank : RegField := ⟨"RANK", 17, 4, .ro, 0⟩
def plcCapDirEntries : RegField := ⟨"DIR_ENTRIES", 63, 44, .ro, 0x40000⟩
def plcCapMaxCopiesM1 : RegField := ⟨"MAX_COPIES_M1", 43, 40, .ro, 0xf⟩
def plcCapLiveEpochs : RegField := ⟨"LIVE_EPOCHS", 39, 36, .ro, 4⟩
def plcCapTables : RegField := ⟨"TABLES", 35, 24, .ro, 0x400⟩
def plcCfgMachineChipsM1 : RegField := ⟨"MACHINE_CHIPS_M1", 63, 50, .rw, 0⟩
def plcCfgLeadMs : RegField := ⟨"LEAD_MS", 49, 34, .rw, 0x3e8⟩
def plcCfgMovesPerStep : RegField := ⟨"MOVES_PER_STEP", 33, 26, .rw, 0x10⟩
def plcCfgMbMove : RegField := ⟨"MB_MOVE", 25, 25, .rw, 0⟩
def plcCfgMigrateEn : RegField := ⟨"MIGRATE_EN", 24, 24, .rw, 1⟩
def plcFeatureAdvertised : RegField := ⟨"ADVERTISED", 63, 48, .ro, 0⟩
def plcFeatureBase : RegField := ⟨"BASE", 47, 32, .ro, 0⟩
def plcFeatureEnabled : RegField := ⟨"ENABLED", 31, 16, .ro, 0⟩
def plcFeaturePending : RegField := ⟨"PENDING", 15, 0, .ro, 0⟩
def plcFeatureCtrlResult : RegField := ⟨"RESULT", 23, 20, .ro, 0⟩
def plcFeatureCtrlGo : RegField := ⟨"GO", 16, 16, .wo, 0⟩
def plcFeatureCtrlLevel : RegField := ⟨"LEVEL", 15, 0, .wo, 0⟩
def plcCensusCount : RegField := ⟨"COUNT", 48, 34, .ro, 0⟩
def plcCensusMaxBase : RegField := ⟨"MAX_BASE", 31, 16, .ro, 0⟩
def plcCensusMinAdvertised : RegField := ⟨"MIN_ADVERTISED", 15, 0, .ro, 0⟩
def plcStatsMisses : RegField := ⟨"MISSES", 63, 32, .ro, 0⟩
def plcStatsMoves : RegField := ⟨"MOVES", 31, 16, .ro, 0⟩
def plcStatsAborted : RegField := ⟨"ABORTED", 15, 0, .ro, 0⟩
def plcFeatureTabLevel : RegField := ⟨"LEVEL", 63, 48, .ro, 0⟩
def plcFeatureTabOpcode : RegField := ⟨"OPCODE", 47, 40, .ro, 0⟩
def plcFeatureTabQw : RegField := ⟨"QW", 39, 38, .ro, 0⟩
def plcFeatureTabLsb : RegField := ⟨"LSB", 37, 32, .ro, 0⟩
def plcFeatureTabWidthM1 : RegField := ⟨"WIDTH_M1", 31, 27, .ro, 0⟩
def plcFeatureTabWhole : RegField := ⟨"WHOLE", 26, 26, .ro, 0⟩
def plcFeatureTabValue : RegField := ⟨"VALUE", 24, 0, .ro, 0⟩
def plcPoolNearBase : RegField := ⟨"BASE", 49, 26, .rw, 0⟩
def plcPoolNearSize : RegField := ⟨"SIZE", 12, 0, .rw, 0⟩
def plcPoolFarBase : RegField := ⟨"BASE", 49, 26, .rw, 0⟩
def plcPoolFarSize : RegField := ⟨"SIZE", 12, 0, .rw, 0⟩
def timCounterCount : RegField := ⟨"COUNT", 63, 0, .ro, 0⟩
def timStatusParent : RegField := ⟨"PARENT", 63, 50, .ro, 0⟩
def timStatusMaster : RegField := ⟨"MASTER", 49, 36, .ro, 0⟩
def timStatusHops : RegField := ⟨"HOPS", 19, 16, .ro, 0⟩
def timStatusState : RegField := ⟨"STATE", 3, 0, .ro, 0⟩
def timOffsetOffsetNs : RegField := ⟨"OFFSET_NS", 63, 32, .ro, 0⟩
def timOffsetFreqPpb : RegField := ⟨"FREQ_PPB", 31, 0, .ro, 0⟩
def ctxCapFormat : RegField := ⟨"FORMAT", 63, 48, .ro, 1⟩
def ctxCapBaseMib : RegField := ⟨"BASE_MIB", 47, 32, .ro, 0x10⟩
def ctxCapClusterMib : RegField := ⟨"CLUSTER_MIB", 31, 16, .ro, 0x40⟩
def ctxCapHeldPerDie : RegField := ⟨"HELD_PER_DIE", 15, 7, .ro, 0x100⟩
def ctxCapDrainUs : RegField := ⟨"DRAIN_US", 6, 0, .ro, 0x32⟩
def ctxResetBusy : RegField := ⟨"BUSY", 63, 63, .ro, 0⟩
def ctxResetScope : RegField := ⟨"SCOPE", 58, 56, .wo, 0⟩
def ctxResetResult : RegField := ⟨"RESULT", 51, 48, .ro, 0⟩
def ctxResetTarget : RegField := ⟨"TARGET", 7, 0, .wo, 0⟩
def ctxPartCtrlCtxId : RegField := ⟨"CTX_ID", 63, 32, .rw, 0⟩
def ctxPartCtrlScratchFrames : RegField := ⟨"SCRATCH_FRAMES", 20, 10, .rw, 0x400⟩
def ctxPartCtrlDeclared : RegField := ⟨"DECLARED", 9, 4, .rw, 0⟩
def ctxPartCtrlAction : RegField := ⟨"ACTION", 1, 0, .wo, 0⟩
def ctxPartAreaAddr : RegField := ⟨"ADDR", 47, 16, .rw, 0⟩
def ctxPartCfgSaveWaitUs : RegField := ⟨"SAVE_WAIT_US", 25, 0, .rw, 0x186a0⟩
def ctxPartStatusSuspendedId : RegField := ⟨"SUSPENDED_ID", 63, 32, .ro, 0⟩
def ctxPartStatusState : RegField := ⟨"STATE", 31, 28, .ro, 0⟩
def ctxPartStatusResult : RegField := ⟨"RESULT", 27, 24, .ro, 0⟩
def ctxPartStatusSuspended : RegField := ⟨"SUSPENDED", 23, 23, .ro, 0⟩
def ctxPartStatusHeldSignals : RegField := ⟨"HELD_SIGNALS", 22, 12, .ro, 0⟩
def ctxPartStatusSwitches : RegField := ⟨"SWITCHES", 11, 0, .ro, 0⟩
def rasCfgFatalAction : RegField := ⟨"FATAL_ACTION", 16, 16, .rw, 1⟩
def rasCfgCtrlGraceMs : RegField := ⟨"CTRL_GRACE_MS", 15, 8, .rw, 2⟩
def rasCfgStormLimit : RegField := ⟨"STORM_LIMIT", 7, 0, .rw, 0x10⟩
def rasStatusHistLost : RegField := ⟨"HIST_LOST", 63, 48, .ro, 0⟩
def rasStatusHistWaiting : RegField := ⟨"HIST_WAITING", 47, 32, .ro, 0⟩
def rasStatusFatal : RegField := ⟨"FATAL", 5, 5, .ro, 0⟩
def rasStatusCtrlFault : RegField := ⟨"CTRL_FAULT", 3, 0, .ro, 0⟩
def rasClassCountCount : RegField := ⟨"COUNT", 63, 0, .ro, 0⟩
def rasSramCorrected : RegField := ⟨"CORRECTED", 63, 32, .ro, 0⟩
def rasSramUncorrectable : RegField := ⟨"UNCORRECTABLE", 31, 0, .ro, 0⟩
def rasHistRecord : RegField := ⟨"RECORD", 63, 0, .ro, 0⟩
def tstStatusPartMask : RegField := ⟨"PART_MASK", 15, 8, .ro, 0⟩
def tstStatusUnlocked : RegField := ⟨"UNLOCKED", 2, 0, .ro, 0⟩
def tstSeedSeed : RegField := ⟨"SEED", 63, 0, .rw, 0⟩
def tstTimingArbRandom : RegField := ⟨"ARB_RANDOM", 16, 16, .rw, 0⟩
def tstTimingClasses : RegField := ⟨"CLASSES", 15, 8, .rw, 0⟩
def tstTimingJitterBeats : RegField := ⟨"JITTER_BEATS", 7, 0, .rw, 0⟩
def tstCreditHoldNs : RegField := ⟨"HOLD_NS", 39, 24, .rw, 0⟩
def tstCreditHoldP : RegField := ⟨"HOLD_P", 23, 16, .rw, 0⟩
def tstCreditPaths : RegField := ⟨"PATHS", 4, 0, .rw, 0⟩
def tstDelayHostNs : RegField := ⟨"HOST_NS", 63, 48, .rw, 0⟩
def tstDelayRemoteNs : RegField := ⟨"REMOTE_NS", 47, 32, .rw, 0⟩
def tstDelayFarNs : RegField := ⟨"FAR_NS", 31, 16, .rw, 0⟩
def tstDelayNearNs : RegField := ⟨"NEAR_NS", 15, 0, .rw, 0⟩
def tstInjectKind : RegField := ⟨"KIND", 63, 60, .rw, 0⟩
def tstInjectDepth : RegField := ⟨"DEPTH", 59, 56, .rw, 0⟩
def tstInjectTarget : RegField := ⟨"TARGET", 55, 48, .rw, 0⟩
def tstInjectInterval : RegField := ⟨"INTERVAL", 47, 24, .rw, 1⟩
def tstInjectCount : RegField := ⟨"COUNT", 23, 0, .rw, 0⟩
def secStatusResult : RegField := ⟨"RESULT", 7, 4, .ro, 0⟩
def secStatusAliasValid : RegField := ⟨"ALIAS_VALID", 2, 2, .ro, 0⟩
def secStatusIdValid : RegField := ⟨"ID_VALID", 1, 1, .ro, 0⟩
def secStatusDrbgOk : RegField := ⟨"DRBG_OK", 0, 0, .ro, 0⟩
def secCtrlRelock : RegField := ⟨"RELOCK", 1, 1, .wo, 0⟩
def secCtrlSubmit : RegField := ⟨"SUBMIT", 0, 0, .wo, 0⟩
def secNonceNonce : RegField := ⟨"NONCE", 63, 0, .ro, 0⟩
def secTokenToken : RegField := ⟨"TOKEN", 63, 0, .wo, 0⟩
def mgtStatusEid : RegField := ⟨"EID", 23, 16, .ro, 0⟩
def mgtStatusI3cAddr : RegField := ⟨"I3C_ADDR", 14, 8, .ro, 0⟩
def mgtStatusUpdateBusy : RegField := ⟨"UPDATE_BUSY", 1, 1, .ro, 0⟩
def mgtStatusSpdmDone : RegField := ⟨"SPDM_DONE", 0, 0, .ro, 0⟩
def mgtStageListAddr : RegField := ⟨"ADDR", 63, 16, .rw, 0⟩
def mgtStageListEntries : RegField := ⟨"ENTRIES", 10, 0, .rw, 0⟩
def mgtStageCtrlLength : RegField := ⟨"LENGTH", 63, 32, .ro, 0⟩
def mgtStageCtrlValid : RegField := ⟨"VALID", 0, 0, .ro, 0⟩

end Fd

/-- The named fields of a register, from the high bits to the low. -/
def Reg.fields : Reg → List RegField
  | .glbId => [Fd.glbIdPartCode, Fd.glbIdStepping, Fd.glbIdRegFormat]
  | .glbSerialLo => [Fd.glbSerialLoSerial]
  | .glbSerialHi => [Fd.glbSerialHiSerial]
  | .glbCap => [Fd.glbCapDies, Fd.glbCapClusters, Fd.glbCapCores, Fd.glbCapPorts, Fd.glbCapNearGib, Fd.glbCapFarGib, Fd.glbCapPartitions]
  | .glbChip => [Fd.glbChipValid, Fd.glbChipChip]
  | .glbScratch => [Fd.glbScratchValue]
  | .pwrCap => [Fd.pwrCapDomains, Fd.pwrCapRailMaxMv, Fd.pwrCapRailMinMv, Fd.pwrCapRailStepMv]
  | .pwrBudget => [Fd.pwrBudgetModuleW]
  | .pwrLend => [Fd.pwrLendLendEn, Fd.pwrLendThreshold]
  | .pwrThermal => [Fd.pwrThermalTjLimitC, Fd.pwrThermalTjCritC]
  | .pwrMeasure => [Fd.pwrMeasureTjMaxC, Fd.pwrMeasureModuleW, Fd.pwrMeasureGrantedW, Fd.pwrMeasureLentW]
  | .pwrEvent => [Fd.pwrEventFabricStall, Fd.pwrEventCtrlReject, Fd.pwrEventThermalCrit, Fd.pwrEventThermalLimit, Fd.pwrEventEmergency, Fd.pwrEventBudgetExceed]
  | .pwrDomCtrl _ => [Fd.pwrDomCtrlPolicy]
  | .pwrDomStatus _ => [Fd.pwrDomStatusRailSet, Fd.pwrDomStatusPendingEnable, Fd.pwrDomStatusPendingDisable, Fd.pwrDomStatusLending, Fd.pwrDomStatusAssigned, Fd.pwrDomStatusState]
  | .pwrCoreBeats _ => [Fd.pwrCoreBeatsArrayBeats]
  | .pwrCoreActiveNs _ => [Fd.pwrCoreActiveNsActiveNs]
  | .bootStatus => [Fd.bootStatusFailCode, Fd.bootStatusState, Fd.bootStatusStage]
  | .bootCtrl => [Fd.bootCtrlNextPush, Fd.bootCtrlHoldBefore]
  | .bootPolicy => [Fd.bootPolicyWarmTest, Fd.bootPolicyColdTest]
  | .bootPushList => [Fd.bootPushListAddr, Fd.bootPushListEntries]
  | .bootPushCtrl => [Fd.bootPushCtrlLength, Fd.bootPushCtrlResult, Fd.bootPushCtrlGo]
  | .bootImage => [Fd.bootImageRunningVersion, Fd.bootImageRomFloor, Fd.bootImageSource, Fd.bootImageFlashWriteBusy, Fd.bootImageFlashSynced]
  | .bootDefect => [Fd.bootDefectMapVersion, Fd.bootDefectFieldRepairs, Fd.bootDefectSparesD3, Fd.bootDefectSparesD2, Fd.bootDefectSparesD1, Fd.bootDefectSparesD0, Fd.bootDefectLanesRepaired]
  | .bootBoard => [Fd.bootBoardPortConnected]
  | .bootReportA _ => [Fd.bootReportAFailCode, Fd.bootReportAAttempts, Fd.bootReportAResult, Fd.bootReportAStage]
  | .bootReportB _ => [Fd.bootReportBStartNs]
  | .bootReportC _ => [Fd.bootReportCDurationUs]
  | .bootReportD _ => [Fd.bootReportDDetail]
  | .hifCap => [Fd.hifCapPartitions, Fd.hifCapQueues, Fd.hifCapMsixVectors, Fd.hifCapRingMaxLog2]
  | .hifLink => [Fd.hifLinkUnsupported, Fd.hifLinkFlit, Fd.hifLinkWidth, Fd.hifLinkRateGt]
  | .hifPoll => [Fd.hifPollSleepUs, Fd.hifPollIntervalNs]
  | .hifWinBase => [Fd.hifWinBaseBase]
  | .hifModErrBase => [Fd.hifModErrBaseAddr]
  | .hifModErrCfg => [Fd.hifModErrCfgVector, Fd.hifModErrCfgEnable, Fd.hifModErrCfgSizeLog2]
  | .hifPartCtrl _ => [Fd.hifPartCtrlOwner, Fd.hifPartCtrlHbCq, Fd.hifPartCtrlReset, Fd.hifPartCtrlEnable]
  | .hifPartStatus _ => [Fd.hifPartStatusErrDropped, Fd.hifPartStatusWakeIgnored, Fd.hifPartStatusHbBlocked, Fd.hifPartStatusFormed, Fd.hifPartStatusActive, Fd.hifPartStatusResetting]
  | .hifPartWords _ => [Fd.hifPartWordsAddr]
  | .hifPartWin _ => [Fd.hifPartWinBase]
  | .hifErrBase _ => [Fd.hifErrBaseAddr]
  | .hifErrCfg _ => [Fd.hifErrCfgVector, Fd.hifErrCfgEnable, Fd.hifErrCfgSizeLog2]
  | .hifSqBase _ _ => [Fd.hifSqBaseAddr]
  | .hifSqCfg _ _ => [Fd.hifSqCfgCq, Fd.hifSqCfgEnable, Fd.hifSqCfgSizeLog2]
  | .hifCqBase _ _ => [Fd.hifCqBaseAddr]
  | .hifCqCfg _ _ => [Fd.hifCqCfgCoalCount, Fd.hifCqCfgCoalTimeUs, Fd.hifCqCfgVector, Fd.hifCqCfgEnable, Fd.hifCqCfgSizeLog2]
  | .hifSqStatus _ _ => [Fd.hifSqStatusState, Fd.hifSqStatusConsumed]
  | .hifCqStatus _ _ => [Fd.hifCqStatusState, Fd.hifCqStatusTail]
  | .cmdCap => [Fd.cmdCapRunAhead, Fd.cmdCapRegions, Fd.cmdCapPmemWords, Fd.cmdCapLoopDepth, Fd.cmdCapLeaseLapseUs, Fd.cmdCapDescBytes]
  | .cmdPmemAddr => [Fd.cmdPmemAddrCore, Fd.cmdPmemAddrWord]
  | .cmdPmemData => [Fd.cmdPmemDataWordData]
  | .cmdPartCtrl _ => [Fd.cmdPartCtrlDefaultTimeoutUs]
  | .cmdPartStatus _ => [Fd.cmdPartStatusSkipped, Fd.cmdPartStatusStaleFaults, Fd.cmdPartStatusTimeouts]
  | .cmdQCfg _ _ => [Fd.cmdQCfgStopOnTimeout, Fd.cmdQCfgPriority]
  | .cmdQStatus _ _ => [Fd.cmdQStatusOutstanding, Fd.cmdQStatusRetireIndex]
  | .cmdCoreStatus _ => [Fd.cmdCoreStatusLoopLevel, Fd.cmdCoreStatusPendingWrite, Fd.cmdCoreStatusLeaseHeld, Fd.cmdCoreStatusLeaseRegion, Fd.cmdCoreStatusState, Fd.cmdCoreStatusPc]
  | .synCap => [Fd.synCapObjects, Fd.synCapReadyEntries, Fd.synCapLevelsM1, Fd.synCapFlows]
  | .synDbgSel => [Fd.synDbgSelWaiterIdx, Fd.synDbgSelObject]
  | .synDbgValue => [Fd.synDbgValueValue]
  | .synDbgState => [Fd.synDbgStateOverflowed, Fd.synDbgStateUnderflowed, Fd.synDbgStateWaiters]
  | .synDbgLastSrc => [Fd.synDbgLastSrcChip, Fd.synDbgLastSrcPartition, Fd.synDbgLastSrcClass, Fd.synDbgLastSrcEngine]
  | .synDbgLastIndex => [Fd.synDbgLastIndexIndex]
  | .synDbgWaiter => [Fd.synDbgWaiterValid, Fd.synDbgWaiterPolling, Fd.synDbgWaiterKind, Fd.synDbgWaiterOp, Fd.synDbgWaiterPartition, Fd.synDbgWaiterWho, Fd.synDbgWaiterIndex]
  | .synDbgWaiterValue => [Fd.synDbgWaiterValueWaitValue]
  | .synPartCfg _ => [Fd.synPartCfgSyncBase, Fd.synPartCfgSyncCount, Fd.synPartCfgCoreWaitUs]
  | .synPartStatus _ => [Fd.synPartStatusUnderflows, Fd.synPartStatusOverflows, Fd.synPartStatusFlowFaults, Fd.synPartStatusCoreWaitTimeouts]
  | .synDieCfg _ => [Fd.synDieCfgAgeUs]
  | .synShare _ _ => [Fd.synShareWeight]
  | .synDieStatus _ => [Fd.synDieStatusPendingSignals, Fd.synDieStatusWaitersUsed, Fd.synDieStatusReadyUsed, Fd.synDieStatusCreditStalls]
  | .synFlowCfg _ _ => [Fd.synFlowCfgOpen, Fd.synFlowCfgWindowLog2, Fd.synFlowCfgStallUs, Fd.synFlowCfgReleaseSync]
  | .synFlowStatus _ _ => [Fd.synFlowStatusState, Fd.synFlowStatusInWindow, Fd.synFlowStatusNextRelease]
  | .synObjCfg _ => [Fd.synObjCfgPrewake, Fd.synObjCfgBound]
  | .mxaCfg _ => [Fd.mxaCfgRampIdleUs]
  | .mxaStatus _ => [Fd.mxaStatusTqDiscards, Fd.mxaStatusSlotsLive, Fd.mxaStatusRampStep, Fd.mxaStatusTqUsed, Fd.mxaStatusAqDepth]
  | .mxaFlags _ => [Fd.mxaFlagsOverflow, Fd.mxaFlagsSaturate, Fd.mxaFlagsInvalid, Fd.mxaFlagsInexact]
  | .mxaSatCount _ => [Fd.mxaSatCountSaturated]
  | .mxaRepeats _ => [Fd.mxaRepeatsShift16, Fd.mxaRepeatsShift8]
  | .mxaCtrl _ => [Fd.mxaCtrlClearCounts]
  | .mxaLastFault _ => [Fd.mxaLastFaultKind, Fd.mxaLastFaultSlot, Fd.mxaLastFaultPc]
  | .mxaSlotState _ _ => [Fd.mxaSlotStateState]
  | .vecStatus _ => [Fd.vecStatusTqWait, Fd.vecStatusVqDepth]
  | .vecFlags _ => [Fd.vecFlagsSaturate, Fd.vecFlagsInexact, Fd.vecFlagsUnderflow, Fd.vecFlagsOverflow, Fd.vecFlagsDivZero, Fd.vecFlagsInvalid]
  | .vecSatCount _ => [Fd.vecSatCountSaturated]
  | .vecPasses _ => [Fd.vecPassesPasses]
  | .vecCtrl _ => [Fd.vecCtrlClearCounts]
  | .vecLastFault _ => [Fd.vecLastFaultKind, Fd.vecLastFaultStage, Fd.vecLastFaultPc]
  | .vecChainTable _ => [Fd.vecChainTableStages]
  | .memCap => [Fd.memCapFarMts, Fd.memCapNearGib, Fd.memCapFarGib, Fd.memCapStreamsPerDie]
  | .memQuota => [Fd.memQuotaRemoteShift, Fd.memQuotaFarShift, Fd.memQuotaNearShift]
  | .memTlbInval => [Fd.memTlbInvalBusy, Fd.memTlbInvalPartition, Fd.memTlbInvalAll, Fd.memTlbInvalPage, Fd.memTlbInvalCount]
  | .memFaultResume => [Fd.memFaultResumeAction, Fd.memFaultResumePartition, Fd.memFaultResumeHandle]
  | .memCksumStats => [Fd.memCksumStatsRefetchOk, Fd.memCksumStatsReplicaOk, Fd.memCksumStatsFaults, Fd.memCksumStatsMergeRefused]
  | .memDieTags _ => [Fd.memDieTagsNearUsed, Fd.memDieTagsFarUsed, Fd.memDieTagsRemoteUsed, Fd.memDieTagsWaiting]
  | .memPartPtBase _ => [Fd.memPartPtBaseOffset, Fd.memPartPtBaseEnable]
  | .memPartFaultCfg _ => [Fd.memPartFaultCfgParkUs]
  | .memPartStreams _ => [Fd.memPartStreamsPerDie]
  | .memPartStatus _ => [Fd.memPartStatusParked, Fd.memPartStatusStreams, Fd.memPartStatusWatchRereads, Fd.memPartStatusBlockedReads]
  | .smpCap _ => [Fd.smpCapSamplers, Fd.smpCapContexts, Fd.smpCapMaxHops, Fd.smpCapMaxFanout, Fd.smpCapMaxSlotsLog2, Fd.smpCapNodesPerBlockLog2]
  | .smpStatus _ => [Fd.smpStatusCommands, Fd.smpStatusContextsUsed]
  | .smpDraws _ => [Fd.smpDrawsDraws]
  | .smpSlots _ => [Fd.smpSlotsSlots]
  | .smpErrors _ => [Fd.smpErrorsErrSlots, Fd.smpErrorsFailed, Fd.smpErrorsBadDesc]
  | .smpCtrl _ => [Fd.smpCtrlClearCounts]
  | .smpLastFault _ => [Fd.smpLastFaultCode, Fd.smpLastFaultPartition, Fd.smpLastFaultHop, Fd.smpLastFaultIndex]
  | .smpPartCfg _ _ => [Fd.smpPartCfgContextLimit]
  | .smpPartStatus _ _ => [Fd.smpPartStatusContextsHeld, Fd.smpPartStatusTraces]
  | .gthCap _ => [Fd.gthCapEngines, Fd.gthCapScatterUnits, Fd.gthCapThreads, Fd.gthCapRowsPerThread, Fd.gthCapMaxRowBytes]
  | .gthCfg _ => [Fd.gthCfgRemoteCap, Fd.gthCfgFarCap, Fd.gthCfgNearCap]
  | .gthStatus _ => [Fd.gthStatusThreadsUsed, Fd.gthStatusGathers, Fd.gthStatusScatters]
  | .gthRows _ => [Fd.gthRowsRows]
  | .gthServed _ => [Fd.gthServedServed]
  | .gthContrib _ => [Fd.gthContribReceived, Fd.gthContribDuplicateKeys, Fd.gthContribDropped]
  | .gthErrors _ => [Fd.gthErrorsZeroRows, Fd.gthErrorsEpochMismatch, Fd.gthErrorsLogFull]
  | .gthCtrl _ => [Fd.gthCtrlClearCounts]
  | .gthLastFault _ => [Fd.gthLastFaultCode, Fd.gthLastFaultPartition, Fd.gthLastFaultClass, Fd.gthLastFaultIndex]
  | .gthPartCfg _ _ => [Fd.gthPartCfgLogWaitUs, Fd.gthPartCfgThreadLimit]
  | .gthPartLog _ _ => [Fd.gthPartLogBase, Fd.gthPartLogSize]
  | .gthPartStatus _ _ => [Fd.gthPartStatusLogUsed, Fd.gthPartStatusRowsSummed]
  | .sprCap _ => [Fd.sprCapEngines, Fd.sprCapLayerSlots, Fd.sprCapMaxKt]
  | .sprDenseThreshold => [Fd.sprDenseThresholdThreshold]
  | .sprMissLimit => [Fd.sprMissLimitLimit]
  | .sprDenseHold => [Fd.sprDenseHoldHold]
  | .sprStatus _ => [Fd.sprStatusMerges, Fd.sprStatusPairs]
  | .sprGroups _ => [Fd.sprGroupsKept, Fd.sprGroupsDropped]
  | .sprCtrl _ => [Fd.sprCtrlClearCounts]
  | .sprLastFault _ => [Fd.sprLastFaultCode, Fd.sprLastFaultPartition, Fd.sprLastFaultSlot, Fd.sprLastFaultIndex]
  | .sprLayerState _ _ => [Fd.sprLayerStateLayerId, Fd.sprLayerStateHoldLeft, Fd.sprLayerStateStreak, Fd.sprLayerStateMode]
  | .sprLayerCount _ _ => [Fd.sprLayerCountAudited, Fd.sprLayerCountMissed]
  | .cisCap _ => [Fd.cisCapPieceKib, Fd.cisCapMaxDepth, Fd.cisCapNormEntries, Fd.cisCapMaxEntries]
  | .cisSpilled _ => [Fd.cisSpilledSpilled]
  | .cisCtrl _ => [Fd.cisCtrlClearCounts]
  | .cisLastFault _ => [Fd.cisLastFaultCode, Fd.cisLastFaultPartition, Fd.cisLastFaultIndex]
  | .cisPartCfg _ _ => [Fd.cisPartCfgFarCap, Fd.cisPartCfgNearCap]
  | .cisPartUse _ _ => [Fd.cisPartUseNearMib, Fd.cisPartUseFarMib, Fd.cisPartUseReservedMib]
  | .cisPartTop _ => [Fd.cisPartTopTop]
  | .cisPartWindow _ => [Fd.cisPartWindowConfigured, Fd.cisPartWindowBase, Fd.cisPartWindowSegLog2, Fd.cisPartWindowDepth, Fd.cisPartWindowStepFrame]
  | .cisPartStep _ => [Fd.cisPartStepState, Fd.cisPartStepGscaleExp, Fd.cisPartStepCleanSteps, Fd.cisPartStepStep]
  | .cisPartSat _ => [Fd.cisPartSatGradSat]
  | .updCap _ => [Fd.updCapBindings, Fd.updCapSchedules, Fd.updCapMaxWords, Fd.updCapFactored, Fd.updCapMaxElements]
  | .updStatus _ => [Fd.updStatusCheckpoints, Fd.updStatusCopyFirst, Fd.updStatusActive]
  | .updRows _ => [Fd.updRowsRows]
  | .updCtrl _ => [Fd.updCtrlClearCounts]
  | .updLastFault _ => [Fd.updLastFaultCode, Fd.updLastFaultPartition, Fd.updLastFaultSlot, Fd.updLastFaultIndex]
  | .updBind _ _ => [Fd.updBindHandle, Fd.updBindTableId, Fd.updBindFactored, Fd.updBindGuard, Fd.updBindNorm, Fd.updBindBound]
  | .updFactor _ _ => [Fd.updFactorF0, Fd.updFactorTStep]
  | .lnkCap => [Fd.lnkCapPorts, Fd.lnkCapLanes, Fd.lnkCapVcs, Fd.lnkCapLaneGbps, Fd.lnkCapReplayFlits, Fd.lnkCapLandEntries]
  | .lnkCfg => [Fd.lnkCfgHeldTimeoutMs, Fd.lnkCfgLandTimeoutUs, Fd.lnkCfgRemoteTimeoutUs, Fd.lnkCfgCollTimeoutMs]
  | .lnkIdent => [Fd.lnkIdentChip, Fd.lnkIdentFeature]
  | .lnkCtrl => [Fd.lnkCtrlClearCounts]
  | .lnkPortStatus _ => [Fd.lnkPortStatusPeerId, Fd.lnkPortStatusPeerPort, Fd.lnkPortStatusLevel, Fd.lnkPortStatusRepaired, Fd.lnkPortStatusLocked, Fd.lnkPortStatusState]
  | .lnkPortCtrl _ => [Fd.lnkPortCtrlAction]
  | .lnkPortFec _ => [Fd.lnkPortFecCorrectedBits, Fd.lnkPortFecUncorrectable]
  | .lnkPortRetry _ => [Fd.lnkPortRetryReplays, Fd.lnkPortRetryRetrains, Fd.lnkPortRetryFailovers]
  | .lnkPortTraffic _ => [Fd.lnkPortTrafficTxFlits, Fd.lnkPortTrafficRxFlits]
  | .lnkLand _ => [Fd.lnkLandEntriesUsed, Fd.lnkLandSignalsHeld, Fd.lnkLandRefused]
  | .lnkGroup _ _ => [Fd.lnkGroupFormed, Fd.lnkGroupLevel, Fd.lnkGroupMembersM1, Fd.lnkGroupRank]
  | .plcCap => [Fd.plcCapDirEntries, Fd.plcCapMaxCopiesM1, Fd.plcCapLiveEpochs, Fd.plcCapTables]
  | .plcCfg => [Fd.plcCfgMachineChipsM1, Fd.plcCfgLeadMs, Fd.plcCfgMovesPerStep, Fd.plcCfgMbMove, Fd.plcCfgMigrateEn]
  | .plcFeature => [Fd.plcFeatureAdvertised, Fd.plcFeatureBase, Fd.plcFeatureEnabled, Fd.plcFeaturePending]
  | .plcFeatureCtrl => [Fd.plcFeatureCtrlResult, Fd.plcFeatureCtrlGo, Fd.plcFeatureCtrlLevel]
  | .plcCensus => [Fd.plcCensusCount, Fd.plcCensusMaxBase, Fd.plcCensusMinAdvertised]
  | .plcStats => [Fd.plcStatsMisses, Fd.plcStatsMoves, Fd.plcStatsAborted]
  | .plcFeatureTab _ => [Fd.plcFeatureTabLevel, Fd.plcFeatureTabOpcode, Fd.plcFeatureTabQw, Fd.plcFeatureTabLsb, Fd.plcFeatureTabWidthM1, Fd.plcFeatureTabWhole, Fd.plcFeatureTabValue]
  | .plcPoolNear _ _ => [Fd.plcPoolNearBase, Fd.plcPoolNearSize]
  | .plcPoolFar _ _ => [Fd.plcPoolFarBase, Fd.plcPoolFarSize]
  | .timCounter => [Fd.timCounterCount]
  | .timStatus => [Fd.timStatusParent, Fd.timStatusMaster, Fd.timStatusHops, Fd.timStatusState]
  | .timOffset => [Fd.timOffsetOffsetNs, Fd.timOffsetFreqPpb]
  | .ctxCap => [Fd.ctxCapFormat, Fd.ctxCapBaseMib, Fd.ctxCapClusterMib, Fd.ctxCapHeldPerDie, Fd.ctxCapDrainUs]
  | .ctxReset => [Fd.ctxResetBusy, Fd.ctxResetScope, Fd.ctxResetResult, Fd.ctxResetTarget]
  | .ctxPartCtrl _ => [Fd.ctxPartCtrlCtxId, Fd.ctxPartCtrlScratchFrames, Fd.ctxPartCtrlDeclared, Fd.ctxPartCtrlAction]
  | .ctxPartArea _ => [Fd.ctxPartAreaAddr]
  | .ctxPartCfg _ => [Fd.ctxPartCfgSaveWaitUs]
  | .ctxPartStatus _ => [Fd.ctxPartStatusSuspendedId, Fd.ctxPartStatusState, Fd.ctxPartStatusResult, Fd.ctxPartStatusSuspended, Fd.ctxPartStatusHeldSignals, Fd.ctxPartStatusSwitches]
  | .rasCfg => [Fd.rasCfgFatalAction, Fd.rasCfgCtrlGraceMs, Fd.rasCfgStormLimit]
  | .rasStatus => [Fd.rasStatusHistLost, Fd.rasStatusHistWaiting, Fd.rasStatusFatal, Fd.rasStatusCtrlFault]
  | .rasClassCount _ => [Fd.rasClassCountCount]
  | .rasSram => [Fd.rasSramCorrected, Fd.rasSramUncorrectable]
  | .rasHist _ _ => [Fd.rasHistRecord]
  | .tstStatus => [Fd.tstStatusPartMask, Fd.tstStatusUnlocked]
  | .tstSeed => [Fd.tstSeedSeed]
  | .tstTiming => [Fd.tstTimingArbRandom, Fd.tstTimingClasses, Fd.tstTimingJitterBeats]
  | .tstCredit => [Fd.tstCreditHoldNs, Fd.tstCreditHoldP, Fd.tstCreditPaths]
  | .tstDelay => [Fd.tstDelayHostNs, Fd.tstDelayRemoteNs, Fd.tstDelayFarNs, Fd.tstDelayNearNs]
  | .tstInject _ => [Fd.tstInjectKind, Fd.tstInjectDepth, Fd.tstInjectTarget, Fd.tstInjectInterval, Fd.tstInjectCount]
  | .secStatus => [Fd.secStatusResult, Fd.secStatusAliasValid, Fd.secStatusIdValid, Fd.secStatusDrbgOk]
  | .secCtrl => [Fd.secCtrlRelock, Fd.secCtrlSubmit]
  | .secNonce _ => [Fd.secNonceNonce]
  | .secToken _ => [Fd.secTokenToken]
  | .mgtStatus => [Fd.mgtStatusEid, Fd.mgtStatusI3cAddr, Fd.mgtStatusUpdateBusy, Fd.mgtStatusSpdmDone]
  | .mgtStageList => [Fd.mgtStageListAddr, Fd.mgtStageListEntries]
  | .mgtStageCtrl => [Fd.mgtStageCtrlLength, Fd.mgtStageCtrlValid]

/-- The BAR0 offset of a register (for one that reads alike in every die's block, its offset in die 0's). -/
def Reg.offset : Reg → Nat
  | .glbId => 0x0
  | .glbSerialLo => 0x8
  | .glbSerialHi => 0x10
  | .glbCap => 0x18
  | .glbChip => 0x20
  | .glbScratch => 0x28
  | .pwrCap => 0x200000
  | .pwrBudget => 0x200008
  | .pwrLend => 0x200010
  | .pwrThermal => 0x200018
  | .pwrMeasure => 0x200020
  | .pwrEvent => 0x200028
  | .pwrDomCtrl n => 0x201000 + 0x8 * n
  | .pwrDomStatus n => 0x202000 + 0x8 * n
  | .pwrCoreBeats c => 0x203000 + 0x8 * c
  | .pwrCoreActiveNs c => 0x204000 + 0x8 * c
  | .bootStatus => 0x100000
  | .bootCtrl => 0x100008
  | .bootPolicy => 0x100010
  | .bootPushList => 0x100018
  | .bootPushCtrl => 0x100020
  | .bootImage => 0x100028
  | .bootDefect => 0x100030
  | .bootBoard => 0x100038
  | .bootReportA s => 0x100100 + 0x20 * s
  | .bootReportB s => 0x100108 + 0x20 * s
  | .bootReportC s => 0x100110 + 0x20 * s
  | .bootReportD s => 0x100118 + 0x20 * s
  | .hifCap => 0x400000
  | .hifLink => 0x400008
  | .hifPoll => 0x400010
  | .hifWinBase => 0x400018
  | .hifModErrBase => 0x400020
  | .hifModErrCfg => 0x400028
  | .hifPartCtrl p => 0x410000 + 0x10000 * p
  | .hifPartStatus p => 0x410008 + 0x10000 * p
  | .hifPartWords p => 0x410010 + 0x10000 * p
  | .hifPartWin p => 0x410018 + 0x10000 * p
  | .hifErrBase p => 0x410020 + 0x10000 * p
  | .hifErrCfg p => 0x410028 + 0x10000 * p
  | .hifSqBase p q => 0x411000 + 0x10000 * p + 0x10 * q
  | .hifSqCfg p q => 0x411008 + 0x10000 * p + 0x10 * q
  | .hifCqBase p q => 0x412000 + 0x10000 * p + 0x10 * q
  | .hifCqCfg p q => 0x412008 + 0x10000 * p + 0x10 * q
  | .hifSqStatus p q => 0x413000 + 0x10000 * p + 0x8 * q
  | .hifCqStatus p q => 0x413200 + 0x10000 * p + 0x8 * q
  | .cmdCap => 0x800000
  | .cmdPmemAddr => 0x800008
  | .cmdPmemData => 0x800010
  | .cmdPartCtrl p => 0x810000 + 0x10000 * p
  | .cmdPartStatus p => 0x810008 + 0x10000 * p
  | .cmdQCfg p q => 0x811000 + 0x10000 * p + 0x8 * q
  | .cmdQStatus p q => 0x811200 + 0x10000 * p + 0x8 * q
  | .cmdCoreStatus c => 0x900000 + 0x8 * c
  | .synCap => 0xc00000
  | .synDbgSel => 0xc00008
  | .synDbgValue => 0xc00010
  | .synDbgState => 0xc00018
  | .synDbgLastSrc => 0xc00020
  | .synDbgLastIndex => 0xc00028
  | .synDbgWaiter => 0xc00030
  | .synDbgWaiterValue => 0xc00038
  | .synPartCfg p => 0xc10000 + 0x1000 * p
  | .synPartStatus p => 0xc10008 + 0x1000 * p
  | .synDieCfg d => 0xc20000 + 0x100 * d
  | .synShare d p => 0xc20008 + 0x100 * d + 0x8 * p
  | .synDieStatus d => 0xc20048 + 0x100 * d
  | .synFlowCfg p f => 0xc40000 + 0x2000 * p + 0x8 * f
  | .synFlowStatus p f => 0xc60000 + 0x2000 * p + 0x8 * f
  | .synObjCfg n => 0xd00000 + 0x8 * n
  | .mxaCfg c => 0x3280000 + 0x400000 * (c / 64) + 0x2000 * (c % 64)
  | .mxaStatus c => 0x3280008 + 0x400000 * (c / 64) + 0x2000 * (c % 64)
  | .mxaFlags c => 0x3280010 + 0x400000 * (c / 64) + 0x2000 * (c % 64)
  | .mxaSatCount c => 0x3280018 + 0x400000 * (c / 64) + 0x2000 * (c % 64)
  | .mxaRepeats c => 0x3280020 + 0x400000 * (c / 64) + 0x2000 * (c % 64)
  | .mxaCtrl c => 0x3280028 + 0x400000 * (c / 64) + 0x2000 * (c % 64)
  | .mxaLastFault c => 0x3280030 + 0x400000 * (c / 64) + 0x2000 * (c % 64)
  | .mxaSlotState c i => 0x3280100 + 0x400000 * (c / 64) + 0x2000 * (c % 64) + 0x8 * i
  | .vecStatus c => 0x3300000 + 0x400000 * (c / 64) + 0x2000 * (c % 64)
  | .vecFlags c => 0x3300008 + 0x400000 * (c / 64) + 0x2000 * (c % 64)
  | .vecSatCount c => 0x3300010 + 0x400000 * (c / 64) + 0x2000 * (c % 64)
  | .vecPasses c => 0x3300018 + 0x400000 * (c / 64) + 0x2000 * (c % 64)
  | .vecCtrl c => 0x3300020 + 0x400000 * (c / 64) + 0x2000 * (c % 64)
  | .vecLastFault c => 0x3300028 + 0x400000 * (c / 64) + 0x2000 * (c % 64)
  | .vecChainTable c => 0x3300030 + 0x400000 * (c / 64) + 0x2000 * (c % 64)
  | .memCap => 0x1000000
  | .memQuota => 0x1000008
  | .memTlbInval => 0x1000010
  | .memFaultResume => 0x1000018
  | .memCksumStats => 0x1000020
  | .memDieTags d => 0x1000100 + 0x20 * d
  | .memPartPtBase p => 0x1010000 + 0x1000 * p
  | .memPartFaultCfg p => 0x1010008 + 0x1000 * p
  | .memPartStreams p => 0x1010010 + 0x1000 * p
  | .memPartStatus p => 0x1010018 + 0x1000 * p
  | .smpCap d => 0x3000000 + 0x400000 * d
  | .smpStatus d => 0x3000008 + 0x400000 * d
  | .smpDraws d => 0x3000010 + 0x400000 * d
  | .smpSlots d => 0x3000018 + 0x400000 * d
  | .smpErrors d => 0x3000020 + 0x400000 * d
  | .smpCtrl d => 0x3000028 + 0x400000 * d
  | .smpLastFault d => 0x3000030 + 0x400000 * d
  | .smpPartCfg d p => 0x3000100 + 0x400000 * d + 0x10 * p
  | .smpPartStatus d p => 0x3000108 + 0x400000 * d + 0x10 * p
  | .gthCap d => 0x3080000 + 0x400000 * d
  | .gthCfg d => 0x3080008 + 0x400000 * d
  | .gthStatus d => 0x3080010 + 0x400000 * d
  | .gthRows d => 0x3080018 + 0x400000 * d
  | .gthServed d => 0x3080020 + 0x400000 * d
  | .gthContrib d => 0x3080028 + 0x400000 * d
  | .gthErrors d => 0x3080030 + 0x400000 * d
  | .gthCtrl d => 0x3080038 + 0x400000 * d
  | .gthLastFault d => 0x3080040 + 0x400000 * d
  | .gthPartCfg d p => 0x3080100 + 0x400000 * d + 0x20 * p
  | .gthPartLog d p => 0x3080108 + 0x400000 * d + 0x20 * p
  | .gthPartStatus d p => 0x3080110 + 0x400000 * d + 0x20 * p
  | .sprCap d => 0x3100000 + 0x400000 * d
  | .sprDenseThreshold => 0x3100008
  | .sprMissLimit => 0x3100010
  | .sprDenseHold => 0x3100018
  | .sprStatus d => 0x3100020 + 0x400000 * d
  | .sprGroups d => 0x3100028 + 0x400000 * d
  | .sprCtrl d => 0x3100030 + 0x400000 * d
  | .sprLastFault d => 0x3100038 + 0x400000 * d
  | .sprLayerState p l => 0x3101000 + 0x400 * p + 0x8 * l
  | .sprLayerCount p l => 0x3101200 + 0x400 * p + 0x8 * l
  | .cisCap d => 0x3180000 + 0x400000 * d
  | .cisSpilled d => 0x3180008 + 0x400000 * d
  | .cisCtrl d => 0x3180010 + 0x400000 * d
  | .cisLastFault d => 0x3180018 + 0x400000 * d
  | .cisPartCfg d p => 0x3180100 + 0x400000 * d + 0x40 * p
  | .cisPartUse d p => 0x3180108 + 0x400000 * d + 0x40 * p
  | .cisPartTop p => 0x3180110 + 0x40 * p
  | .cisPartWindow p => 0x3180118 + 0x40 * p
  | .cisPartStep p => 0x3180120 + 0x40 * p
  | .cisPartSat p => 0x3180128 + 0x40 * p
  | .updCap d => 0x3200000 + 0x400000 * d
  | .updStatus d => 0x3200008 + 0x400000 * d
  | .updRows d => 0x3200010 + 0x400000 * d
  | .updCtrl d => 0x3200018 + 0x400000 * d
  | .updLastFault d => 0x3200020 + 0x400000 * d
  | .updBind p b => 0x3201000 + 0x100 * p + 0x8 * b
  | .updFactor p k => 0x3202000 + 0x100 * p + 0x8 * k
  | .lnkCap => 0x1400000
  | .lnkCfg => 0x1400008
  | .lnkIdent => 0x1400010
  | .lnkCtrl => 0x1400018
  | .lnkPortStatus n => 0x1400100 + 0x40 * n
  | .lnkPortCtrl n => 0x1400108 + 0x40 * n
  | .lnkPortFec n => 0x1400110 + 0x40 * n
  | .lnkPortRetry n => 0x1400118 + 0x40 * n
  | .lnkPortTraffic n => 0x1400120 + 0x40 * n
  | .lnkLand d => 0x1401000 + 0x10 * d
  | .lnkGroup p g => 0x1410000 + 0x200 * p + 0x8 * g
  | .plcCap => 0x1800000
  | .plcCfg => 0x1800008
  | .plcFeature => 0x1800010
  | .plcFeatureCtrl => 0x1800018
  | .plcCensus => 0x1800020
  | .plcStats => 0x1800028
  | .plcFeatureTab i => 0x1800100 + 0x8 * i
  | .plcPoolNear p d => 0x1801000 + 0x40 * p + 0x10 * d
  | .plcPoolFar p d => 0x1801008 + 0x40 * p + 0x10 * d
  | .timCounter => 0x1810000
  | .timStatus => 0x1810008
  | .timOffset => 0x1810010
  | .ctxCap => 0x1c00000
  | .ctxReset => 0x1c00008
  | .ctxPartCtrl p => 0x1c10000 + 0x100 * p
  | .ctxPartArea p => 0x1c10008 + 0x100 * p
  | .ctxPartCfg p => 0x1c10010 + 0x100 * p
  | .ctxPartStatus p => 0x1c10018 + 0x100 * p
  | .rasCfg => 0x2000000
  | .rasStatus => 0x2000008
  | .rasClassCount c => 0x2000010 + 0x8 * c
  | .rasSram => 0x2000048
  | .rasHist i q => 0x2001000 + 0x40 * i + 0x8 * q
  | .tstStatus => 0x2400000
  | .tstSeed => 0x2400008
  | .tstTiming => 0x2400010
  | .tstCredit => 0x2400018
  | .tstDelay => 0x2400020
  | .tstInject k => 0x2400100 + 0x8 * k
  | .secStatus => 0x2800000
  | .secCtrl => 0x2800008
  | .secNonce q => 0x2800010 + 0x8 * q
  | .secToken q => 0x2801000 + 0x8 * q
  | .mgtStatus => 0x2808000
  | .mgtStageList => 0x2808008
  | .mgtStageCtrl => 0x2808010

/-- Whether the indices of a register are within the ranges its offset table gives. -/
def Reg.inRange : Reg → Bool
  | .glbId => true
  | .glbSerialLo => true
  | .glbSerialHi => true
  | .glbCap => true
  | .glbChip => true
  | .glbScratch => true
  | .pwrCap => true
  | .pwrBudget => true
  | .pwrLend => true
  | .pwrThermal => true
  | .pwrMeasure => true
  | .pwrEvent => true
  | .pwrDomCtrl n => decide (n < 403)
  | .pwrDomStatus n => decide (n < 403)
  | .pwrCoreBeats c => decide (c < 256)
  | .pwrCoreActiveNs c => decide (c < 256)
  | .bootStatus => true
  | .bootCtrl => true
  | .bootPolicy => true
  | .bootPushList => true
  | .bootPushCtrl => true
  | .bootImage => true
  | .bootDefect => true
  | .bootBoard => true
  | .bootReportA s => decide (s < 7)
  | .bootReportB s => decide (s < 7)
  | .bootReportC s => decide (s < 7)
  | .bootReportD s => decide (s < 7)
  | .hifCap => true
  | .hifLink => true
  | .hifPoll => true
  | .hifWinBase => true
  | .hifModErrBase => true
  | .hifModErrCfg => true
  | .hifPartCtrl p => decide (p < 8)
  | .hifPartStatus p => decide (p < 8)
  | .hifPartWords p => decide (p < 8)
  | .hifPartWin p => decide (p < 8)
  | .hifErrBase p => decide (p < 8)
  | .hifErrCfg p => decide (p < 8)
  | .hifSqBase p q => decide (p < 8) && decide (q < 64)
  | .hifSqCfg p q => decide (p < 8) && decide (q < 64)
  | .hifCqBase p q => decide (p < 8) && decide (q < 64)
  | .hifCqCfg p q => decide (p < 8) && decide (q < 64)
  | .hifSqStatus p q => decide (p < 8) && decide (q < 64)
  | .hifCqStatus p q => decide (p < 8) && decide (q < 64)
  | .cmdCap => true
  | .cmdPmemAddr => true
  | .cmdPmemData => true
  | .cmdPartCtrl p => decide (p < 8)
  | .cmdPartStatus p => decide (p < 8)
  | .cmdQCfg p q => decide (p < 8) && decide (q < 64)
  | .cmdQStatus p q => decide (p < 8) && decide (q < 64)
  | .cmdCoreStatus c => decide (c < 256)
  | .synCap => true
  | .synDbgSel => true
  | .synDbgValue => true
  | .synDbgState => true
  | .synDbgLastSrc => true
  | .synDbgLastIndex => true
  | .synDbgWaiter => true
  | .synDbgWaiterValue => true
  | .synPartCfg p => decide (p < 8)
  | .synPartStatus p => decide (p < 8)
  | .synDieCfg d => decide (d < 4)
  | .synShare d p => decide (d < 4) && decide (p < 8)
  | .synDieStatus d => decide (d < 4)
  | .synFlowCfg p f => decide (p < 8) && decide (f < 1024)
  | .synFlowStatus p f => decide (p < 8) && decide (f < 1024)
  | .synObjCfg n => decide (n < 131072)
  | .mxaCfg c => decide (c < 256)
  | .mxaStatus c => decide (c < 256)
  | .mxaFlags c => decide (c < 256)
  | .mxaSatCount c => decide (c < 256)
  | .mxaRepeats c => decide (c < 256)
  | .mxaCtrl c => decide (c < 256)
  | .mxaLastFault c => decide (c < 256)
  | .mxaSlotState c i => decide (c < 256) && decide (i < 4)
  | .vecStatus c => decide (c < 256)
  | .vecFlags c => decide (c < 256)
  | .vecSatCount c => decide (c < 256)
  | .vecPasses c => decide (c < 256)
  | .vecCtrl c => decide (c < 256)
  | .vecLastFault c => decide (c < 256)
  | .vecChainTable c => decide (c < 256)
  | .memCap => true
  | .memQuota => true
  | .memTlbInval => true
  | .memFaultResume => true
  | .memCksumStats => true
  | .memDieTags d => decide (d < 4)
  | .memPartPtBase p => decide (p < 8)
  | .memPartFaultCfg p => decide (p < 8)
  | .memPartStreams p => decide (p < 8)
  | .memPartStatus p => decide (p < 8)
  | .smpCap d => decide (d < 4)
  | .smpStatus d => decide (d < 4)
  | .smpDraws d => decide (d < 4)
  | .smpSlots d => decide (d < 4)
  | .smpErrors d => decide (d < 4)
  | .smpCtrl d => decide (d < 4)
  | .smpLastFault d => decide (d < 4)
  | .smpPartCfg d p => decide (d < 4) && decide (p < 8)
  | .smpPartStatus d p => decide (d < 4) && decide (p < 8)
  | .gthCap d => decide (d < 4)
  | .gthCfg d => decide (d < 4)
  | .gthStatus d => decide (d < 4)
  | .gthRows d => decide (d < 4)
  | .gthServed d => decide (d < 4)
  | .gthContrib d => decide (d < 4)
  | .gthErrors d => decide (d < 4)
  | .gthCtrl d => decide (d < 4)
  | .gthLastFault d => decide (d < 4)
  | .gthPartCfg d p => decide (d < 4) && decide (p < 8)
  | .gthPartLog d p => decide (d < 4) && decide (p < 8)
  | .gthPartStatus d p => decide (d < 4) && decide (p < 8)
  | .sprCap d => decide (d < 4)
  | .sprDenseThreshold => true
  | .sprMissLimit => true
  | .sprDenseHold => true
  | .sprStatus d => decide (d < 4)
  | .sprGroups d => decide (d < 4)
  | .sprCtrl d => decide (d < 4)
  | .sprLastFault d => decide (d < 4)
  | .sprLayerState p l => decide (p < 8) && decide (l < 64)
  | .sprLayerCount p l => decide (p < 8) && decide (l < 64)
  | .cisCap d => decide (d < 4)
  | .cisSpilled d => decide (d < 4)
  | .cisCtrl d => decide (d < 4)
  | .cisLastFault d => decide (d < 4)
  | .cisPartCfg d p => decide (d < 4) && decide (p < 8)
  | .cisPartUse d p => decide (d < 4) && decide (p < 8)
  | .cisPartTop p => decide (p < 8)
  | .cisPartWindow p => decide (p < 8)
  | .cisPartStep p => decide (p < 8)
  | .cisPartSat p => decide (p < 8)
  | .updCap d => decide (d < 4)
  | .updStatus d => decide (d < 4)
  | .updRows d => decide (d < 4)
  | .updCtrl d => decide (d < 4)
  | .updLastFault d => decide (d < 4)
  | .updBind p b => decide (p < 8) && decide (b < 32)
  | .updFactor p k => decide (p < 8) && decide (k < 16)
  | .lnkCap => true
  | .lnkCfg => true
  | .lnkIdent => true
  | .lnkCtrl => true
  | .lnkPortStatus n => decide (n < 28)
  | .lnkPortCtrl n => decide (n < 28)
  | .lnkPortFec n => decide (n < 28)
  | .lnkPortRetry n => decide (n < 28)
  | .lnkPortTraffic n => decide (n < 28)
  | .lnkLand d => decide (d < 4)
  | .lnkGroup p g => decide (p < 8) && decide (g < 64)
  | .plcCap => true
  | .plcCfg => true
  | .plcFeature => true
  | .plcFeatureCtrl => true
  | .plcCensus => true
  | .plcStats => true
  | .plcFeatureTab i => decide (i < 64)
  | .plcPoolNear p d => decide (p < 8) && decide (d < 4)
  | .plcPoolFar p d => decide (p < 8) && decide (d < 4)
  | .timCounter => true
  | .timStatus => true
  | .timOffset => true
  | .ctxCap => true
  | .ctxReset => true
  | .ctxPartCtrl p => decide (p < 8)
  | .ctxPartArea p => decide (p < 8)
  | .ctxPartCfg p => decide (p < 8)
  | .ctxPartStatus p => decide (p < 8)
  | .rasCfg => true
  | .rasStatus => true
  | .rasClassCount c => decide (c < 7)
  | .rasSram => true
  | .rasHist i q => decide (i < 256) && decide (q < 8)
  | .tstStatus => true
  | .tstSeed => true
  | .tstTiming => true
  | .tstCredit => true
  | .tstDelay => true
  | .tstInject k => decide (k < 4)
  | .secStatus => true
  | .secCtrl => true
  | .secNonce q => decide (q < 4)
  | .secToken q => decide (q < 25)
  | .mgtStatus => true
  | .mgtStageList => true
  | .mgtStageCtrl => true

/-- A family of registers: the offset of its first, the stride and count of each index, and the register
that a list of indices names. -/
structure RegFamily where
  base : Nat
  dims : List (Nat × Nat)
  build : List Nat → Reg

/-- The indices that a distance from a family's base spells, strides in falling order. -/
def matchDims : List (Nat × Nat) → Nat → Option (List Nat)
  | [], r => if r = 0 then some [] else none
  | (s, n) :: ds, r => if r / s < n then (matchDims ds (r % s)).map (r / s :: ·) else none

/-- The register of a family at an offset. -/
def RegFamily.at? (f : RegFamily) (off : Nat) : Option Reg :=
  if off < f.base then none else (matchDims f.dims (off - f.base)).map f.build

/-- R19: the GLB_ registers. -/
def regsGlb : List RegFamily := [
  ⟨0x0, [], fun _ => .glbId⟩,
  ⟨0x8, [], fun _ => .glbSerialLo⟩,
  ⟨0x10, [], fun _ => .glbSerialHi⟩,
  ⟨0x18, [], fun _ => .glbCap⟩,
  ⟨0x20, [], fun _ => .glbChip⟩,
  ⟨0x28, [], fun _ => .glbScratch⟩]

/-- R54: the PWR_ registers. -/
def regsPwr : List RegFamily := [
  ⟨0x200000, [], fun _ => .pwrCap⟩,
  ⟨0x200008, [], fun _ => .pwrBudget⟩,
  ⟨0x200010, [], fun _ => .pwrLend⟩,
  ⟨0x200018, [], fun _ => .pwrThermal⟩,
  ⟨0x200020, [], fun _ => .pwrMeasure⟩,
  ⟨0x200028, [], fun _ => .pwrEvent⟩,
  ⟨0x201000, [(0x8, 403)], fun l => .pwrDomCtrl (l.getD 0 0)⟩,
  ⟨0x202000, [(0x8, 403)], fun l => .pwrDomStatus (l.getD 0 0)⟩,
  ⟨0x203000, [(0x8, 256)], fun l => .pwrCoreBeats (l.getD 0 0)⟩,
  ⟨0x204000, [(0x8, 256)], fun l => .pwrCoreActiveNs (l.getD 0 0)⟩]

/-- R75: the BOOT_ registers. -/
def regsBoot : List RegFamily := [
  ⟨0x100000, [], fun _ => .bootStatus⟩,
  ⟨0x100008, [], fun _ => .bootCtrl⟩,
  ⟨0x100010, [], fun _ => .bootPolicy⟩,
  ⟨0x100018, [], fun _ => .bootPushList⟩,
  ⟨0x100020, [], fun _ => .bootPushCtrl⟩,
  ⟨0x100028, [], fun _ => .bootImage⟩,
  ⟨0x100030, [], fun _ => .bootDefect⟩,
  ⟨0x100038, [], fun _ => .bootBoard⟩,
  ⟨0x100100, [(0x20, 7)], fun l => .bootReportA (l.getD 0 0)⟩,
  ⟨0x100108, [(0x20, 7)], fun l => .bootReportB (l.getD 0 0)⟩,
  ⟨0x100110, [(0x20, 7)], fun l => .bootReportC (l.getD 0 0)⟩,
  ⟨0x100118, [(0x20, 7)], fun l => .bootReportD (l.getD 0 0)⟩]

/-- R97: the HIF_ registers. -/
def regsHif : List RegFamily := [
  ⟨0x400000, [], fun _ => .hifCap⟩,
  ⟨0x400008, [], fun _ => .hifLink⟩,
  ⟨0x400010, [], fun _ => .hifPoll⟩,
  ⟨0x400018, [], fun _ => .hifWinBase⟩,
  ⟨0x400020, [], fun _ => .hifModErrBase⟩,
  ⟨0x400028, [], fun _ => .hifModErrCfg⟩,
  ⟨0x410000, [(0x10000, 8)], fun l => .hifPartCtrl (l.getD 0 0)⟩,
  ⟨0x410008, [(0x10000, 8)], fun l => .hifPartStatus (l.getD 0 0)⟩,
  ⟨0x410010, [(0x10000, 8)], fun l => .hifPartWords (l.getD 0 0)⟩,
  ⟨0x410018, [(0x10000, 8)], fun l => .hifPartWin (l.getD 0 0)⟩,
  ⟨0x410020, [(0x10000, 8)], fun l => .hifErrBase (l.getD 0 0)⟩,
  ⟨0x410028, [(0x10000, 8)], fun l => .hifErrCfg (l.getD 0 0)⟩,
  ⟨0x411000, [(0x10000, 8), (0x10, 64)], fun l => .hifSqBase (l.getD 0 0) (l.getD 1 0)⟩,
  ⟨0x411008, [(0x10000, 8), (0x10, 64)], fun l => .hifSqCfg (l.getD 0 0) (l.getD 1 0)⟩,
  ⟨0x412000, [(0x10000, 8), (0x10, 64)], fun l => .hifCqBase (l.getD 0 0) (l.getD 1 0)⟩,
  ⟨0x412008, [(0x10000, 8), (0x10, 64)], fun l => .hifCqCfg (l.getD 0 0) (l.getD 1 0)⟩,
  ⟨0x413000, [(0x10000, 8), (0x8, 64)], fun l => .hifSqStatus (l.getD 0 0) (l.getD 1 0)⟩,
  ⟨0x413200, [(0x10000, 8), (0x8, 64)], fun l => .hifCqStatus (l.getD 0 0) (l.getD 1 0)⟩]

/-- R116: the CMD_ registers. -/
def regsCmd : List RegFamily := [
  ⟨0x800000, [], fun _ => .cmdCap⟩,
  ⟨0x800008, [], fun _ => .cmdPmemAddr⟩,
  ⟨0x800010, [], fun _ => .cmdPmemData⟩,
  ⟨0x810000, [(0x10000, 8)], fun l => .cmdPartCtrl (l.getD 0 0)⟩,
  ⟨0x810008, [(0x10000, 8)], fun l => .cmdPartStatus (l.getD 0 0)⟩,
  ⟨0x811000, [(0x10000, 8), (0x8, 64)], fun l => .cmdQCfg (l.getD 0 0) (l.getD 1 0)⟩,
  ⟨0x811200, [(0x10000, 8), (0x8, 64)], fun l => .cmdQStatus (l.getD 0 0) (l.getD 1 0)⟩,
  ⟨0x900000, [(0x8, 256)], fun l => .cmdCoreStatus (l.getD 0 0)⟩]

/-- R139, R140: the SYN_ registers. -/
def regsSyn : List RegFamily := [
  ⟨0xc00000, [], fun _ => .synCap⟩,
  ⟨0xc00008, [], fun _ => .synDbgSel⟩,
  ⟨0xc00010, [], fun _ => .synDbgValue⟩,
  ⟨0xc00018, [], fun _ => .synDbgState⟩,
  ⟨0xc00020, [], fun _ => .synDbgLastSrc⟩,
  ⟨0xc00028, [], fun _ => .synDbgLastIndex⟩,
  ⟨0xc00030, [], fun _ => .synDbgWaiter⟩,
  ⟨0xc00038, [], fun _ => .synDbgWaiterValue⟩,
  ⟨0xc10000, [(0x1000, 8)], fun l => .synPartCfg (l.getD 0 0)⟩,
  ⟨0xc10008, [(0x1000, 8)], fun l => .synPartStatus (l.getD 0 0)⟩,
  ⟨0xc20000, [(0x100, 4)], fun l => .synDieCfg (l.getD 0 0)⟩,
  ⟨0xc20008, [(0x100, 4), (0x8, 8)], fun l => .synShare (l.getD 0 0) (l.getD 1 0)⟩,
  ⟨0xc20048, [(0x100, 4)], fun l => .synDieStatus (l.getD 0 0)⟩,
  ⟨0xc40000, [(0x2000, 8), (0x8, 1024)], fun l => .synFlowCfg (l.getD 0 0) (l.getD 1 0)⟩,
  ⟨0xc60000, [(0x2000, 8), (0x8, 1024)], fun l => .synFlowStatus (l.getD 0 0) (l.getD 1 0)⟩,
  ⟨0xd00000, [(0x8, 131072)], fun l => .synObjCfg (l.getD 0 0)⟩]

/-- R186: the MXA_ registers. -/
def regsMxa : List RegFamily := [
  ⟨0x3280000, [(0x400000, 4), (0x2000, 64)], fun l => .mxaCfg (64 * l.getD 0 0 + l.getD 1 0)⟩,
  ⟨0x3280008, [(0x400000, 4), (0x2000, 64)], fun l => .mxaStatus (64 * l.getD 0 0 + l.getD 1 0)⟩,
  ⟨0x3280010, [(0x400000, 4), (0x2000, 64)], fun l => .mxaFlags (64 * l.getD 0 0 + l.getD 1 0)⟩,
  ⟨0x3280018, [(0x400000, 4), (0x2000, 64)], fun l => .mxaSatCount (64 * l.getD 0 0 + l.getD 1 0)⟩,
  ⟨0x3280020, [(0x400000, 4), (0x2000, 64)], fun l => .mxaRepeats (64 * l.getD 0 0 + l.getD 1 0)⟩,
  ⟨0x3280028, [(0x400000, 4), (0x2000, 64)], fun l => .mxaCtrl (64 * l.getD 0 0 + l.getD 1 0)⟩,
  ⟨0x3280030, [(0x400000, 4), (0x2000, 64)], fun l => .mxaLastFault (64 * l.getD 0 0 + l.getD 1 0)⟩,
  ⟨0x3280100, [(0x400000, 4), (0x2000, 64), (0x8, 4)], fun l => .mxaSlotState (64 * l.getD 0 0 + l.getD 1 0) (l.getD 2 0)⟩]

/-- R210: the VEC_ registers. -/
def regsVec : List RegFamily := [
  ⟨0x3300000, [(0x400000, 4), (0x2000, 64)], fun l => .vecStatus (64 * l.getD 0 0 + l.getD 1 0)⟩,
  ⟨0x3300008, [(0x400000, 4), (0x2000, 64)], fun l => .vecFlags (64 * l.getD 0 0 + l.getD 1 0)⟩,
  ⟨0x3300010, [(0x400000, 4), (0x2000, 64)], fun l => .vecSatCount (64 * l.getD 0 0 + l.getD 1 0)⟩,
  ⟨0x3300018, [(0x400000, 4), (0x2000, 64)], fun l => .vecPasses (64 * l.getD 0 0 + l.getD 1 0)⟩,
  ⟨0x3300020, [(0x400000, 4), (0x2000, 64)], fun l => .vecCtrl (64 * l.getD 0 0 + l.getD 1 0)⟩,
  ⟨0x3300028, [(0x400000, 4), (0x2000, 64)], fun l => .vecLastFault (64 * l.getD 0 0 + l.getD 1 0)⟩,
  ⟨0x3300030, [(0x400000, 4), (0x2000, 64)], fun l => .vecChainTable (64 * l.getD 0 0 + l.getD 1 0)⟩]

/-- R231: the MEM_ registers. -/
def regsMem : List RegFamily := [
  ⟨0x1000000, [], fun _ => .memCap⟩,
  ⟨0x1000008, [], fun _ => .memQuota⟩,
  ⟨0x1000010, [], fun _ => .memTlbInval⟩,
  ⟨0x1000018, [], fun _ => .memFaultResume⟩,
  ⟨0x1000020, [], fun _ => .memCksumStats⟩,
  ⟨0x1000100, [(0x20, 4)], fun l => .memDieTags (l.getD 0 0)⟩,
  ⟨0x1010000, [(0x1000, 8)], fun l => .memPartPtBase (l.getD 0 0)⟩,
  ⟨0x1010008, [(0x1000, 8)], fun l => .memPartFaultCfg (l.getD 0 0)⟩,
  ⟨0x1010010, [(0x1000, 8)], fun l => .memPartStreams (l.getD 0 0)⟩,
  ⟨0x1010018, [(0x1000, 8)], fun l => .memPartStatus (l.getD 0 0)⟩]

/-- R250: the SMP_ registers. -/
def regsSmp : List RegFamily := [
  ⟨0x3000000, [(0x400000, 4)], fun l => .smpCap (l.getD 0 0)⟩,
  ⟨0x3000008, [(0x400000, 4)], fun l => .smpStatus (l.getD 0 0)⟩,
  ⟨0x3000010, [(0x400000, 4)], fun l => .smpDraws (l.getD 0 0)⟩,
  ⟨0x3000018, [(0x400000, 4)], fun l => .smpSlots (l.getD 0 0)⟩,
  ⟨0x3000020, [(0x400000, 4)], fun l => .smpErrors (l.getD 0 0)⟩,
  ⟨0x3000028, [(0x400000, 4)], fun l => .smpCtrl (l.getD 0 0)⟩,
  ⟨0x3000030, [(0x400000, 4)], fun l => .smpLastFault (l.getD 0 0)⟩,
  ⟨0x3000100, [(0x400000, 4), (0x10, 8)], fun l => .smpPartCfg (l.getD 0 0) (l.getD 1 0)⟩,
  ⟨0x3000108, [(0x400000, 4), (0x10, 8)], fun l => .smpPartStatus (l.getD 0 0) (l.getD 1 0)⟩]

/-- R273: the GTH_ registers. -/
def regsGth : List RegFamily := [
  ⟨0x3080000, [(0x400000, 4)], fun l => .gthCap (l.getD 0 0)⟩,
  ⟨0x3080008, [(0x400000, 4)], fun l => .gthCfg (l.getD 0 0)⟩,
  ⟨0x3080010, [(0x400000, 4)], fun l => .gthStatus (l.getD 0 0)⟩,
  ⟨0x3080018, [(0x400000, 4)], fun l => .gthRows (l.getD 0 0)⟩,
  ⟨0x3080020, [(0x400000, 4)], fun l => .gthServed (l.getD 0 0)⟩,
  ⟨0x3080028, [(0x400000, 4)], fun l => .gthContrib (l.getD 0 0)⟩,
  ⟨0x3080030, [(0x400000, 4)], fun l => .gthErrors (l.getD 0 0)⟩,
  ⟨0x3080038, [(0x400000, 4)], fun l => .gthCtrl (l.getD 0 0)⟩,
  ⟨0x3080040, [(0x400000, 4)], fun l => .gthLastFault (l.getD 0 0)⟩,
  ⟨0x3080100, [(0x400000, 4), (0x20, 8)], fun l => .gthPartCfg (l.getD 0 0) (l.getD 1 0)⟩,
  ⟨0x3080108, [(0x400000, 4), (0x20, 8)], fun l => .gthPartLog (l.getD 0 0) (l.getD 1 0)⟩,
  ⟨0x3080110, [(0x400000, 4), (0x20, 8)], fun l => .gthPartStatus (l.getD 0 0) (l.getD 1 0)⟩]

/-- R296: the SPR_ registers. -/
def regsSpr : List RegFamily := [
  ⟨0x3100000, [(0x400000, 4)], fun l => .sprCap (l.getD 0 0)⟩,
  ⟨0x3100008, [(0x400000, 4)], fun _ => .sprDenseThreshold⟩,
  ⟨0x3100010, [(0x400000, 4)], fun _ => .sprMissLimit⟩,
  ⟨0x3100018, [(0x400000, 4)], fun _ => .sprDenseHold⟩,
  ⟨0x3100020, [(0x400000, 4)], fun l => .sprStatus (l.getD 0 0)⟩,
  ⟨0x3100028, [(0x400000, 4)], fun l => .sprGroups (l.getD 0 0)⟩,
  ⟨0x3100030, [(0x400000, 4)], fun l => .sprCtrl (l.getD 0 0)⟩,
  ⟨0x3100038, [(0x400000, 4)], fun l => .sprLastFault (l.getD 0 0)⟩,
  ⟨0x3101000, [(0x400000, 4), (0x400, 8), (0x8, 64)], fun l => .sprLayerState (l.getD 1 0) (l.getD 2 0)⟩,
  ⟨0x3101200, [(0x400000, 4), (0x400, 8), (0x8, 64)], fun l => .sprLayerCount (l.getD 1 0) (l.getD 2 0)⟩]

/-- R326: the CIS_ registers. -/
def regsCis : List RegFamily := [
  ⟨0x3180000, [(0x400000, 4)], fun l => .cisCap (l.getD 0 0)⟩,
  ⟨0x3180008, [(0x400000, 4)], fun l => .cisSpilled (l.getD 0 0)⟩,
  ⟨0x3180010, [(0x400000, 4)], fun l => .cisCtrl (l.getD 0 0)⟩,
  ⟨0x3180018, [(0x400000, 4)], fun l => .cisLastFault (l.getD 0 0)⟩,
  ⟨0x3180100, [(0x400000, 4), (0x40, 8)], fun l => .cisPartCfg (l.getD 0 0) (l.getD 1 0)⟩,
  ⟨0x3180108, [(0x400000, 4), (0x40, 8)], fun l => .cisPartUse (l.getD 0 0) (l.getD 1 0)⟩,
  ⟨0x3180110, [(0x400000, 4), (0x40, 8)], fun l => .cisPartTop (l.getD 1 0)⟩,
  ⟨0x3180118, [(0x400000, 4), (0x40, 8)], fun l => .cisPartWindow (l.getD 1 0)⟩,
  ⟨0x3180120, [(0x400000, 4), (0x40, 8)], fun l => .cisPartStep (l.getD 1 0)⟩,
  ⟨0x3180128, [(0x400000, 4), (0x40, 8)], fun l => .cisPartSat (l.getD 1 0)⟩]

/-- R346: the UPD_ registers. -/
def regsUpd : List RegFamily := [
  ⟨0x3200000, [(0x400000, 4)], fun l => .updCap (l.getD 0 0)⟩,
  ⟨0x3200008, [(0x400000, 4)], fun l => .updStatus (l.getD 0 0)⟩,
  ⟨0x3200010, [(0x400000, 4)], fun l => .updRows (l.getD 0 0)⟩,
  ⟨0x3200018, [(0x400000, 4)], fun l => .updCtrl (l.getD 0 0)⟩,
  ⟨0x3200020, [(0x400000, 4)], fun l => .updLastFault (l.getD 0 0)⟩,
  ⟨0x3201000, [(0x400000, 4), (0x100, 8), (0x8, 32)], fun l => .updBind (l.getD 1 0) (l.getD 2 0)⟩,
  ⟨0x3202000, [(0x400000, 4), (0x100, 8), (0x8, 16)], fun l => .updFactor (l.getD 1 0) (l.getD 2 0)⟩]

/-- R377: the LNK_ registers. -/
def regsLnk : List RegFamily := [
  ⟨0x1400000, [], fun _ => .lnkCap⟩,
  ⟨0x1400008, [], fun _ => .lnkCfg⟩,
  ⟨0x1400010, [], fun _ => .lnkIdent⟩,
  ⟨0x1400018, [], fun _ => .lnkCtrl⟩,
  ⟨0x1400100, [(0x40, 28)], fun l => .lnkPortStatus (l.getD 0 0)⟩,
  ⟨0x1400108, [(0x40, 28)], fun l => .lnkPortCtrl (l.getD 0 0)⟩,
  ⟨0x1400110, [(0x40, 28)], fun l => .lnkPortFec (l.getD 0 0)⟩,
  ⟨0x1400118, [(0x40, 28)], fun l => .lnkPortRetry (l.getD 0 0)⟩,
  ⟨0x1400120, [(0x40, 28)], fun l => .lnkPortTraffic (l.getD 0 0)⟩,
  ⟨0x1401000, [(0x10, 4)], fun l => .lnkLand (l.getD 0 0)⟩,
  ⟨0x1410000, [(0x200, 8), (0x8, 64)], fun l => .lnkGroup (l.getD 0 0) (l.getD 1 0)⟩]

/-- R407: the PLC_ registers. -/
def regsPlc : List RegFamily := [
  ⟨0x1800000, [], fun _ => .plcCap⟩,
  ⟨0x1800008, [], fun _ => .plcCfg⟩,
  ⟨0x1800010, [], fun _ => .plcFeature⟩,
  ⟨0x1800018, [], fun _ => .plcFeatureCtrl⟩,
  ⟨0x1800020, [], fun _ => .plcCensus⟩,
  ⟨0x1800028, [], fun _ => .plcStats⟩,
  ⟨0x1800100, [(0x8, 64)], fun l => .plcFeatureTab (l.getD 0 0)⟩,
  ⟨0x1801000, [(0x40, 8), (0x10, 4)], fun l => .plcPoolNear (l.getD 0 0) (l.getD 1 0)⟩,
  ⟨0x1801008, [(0x40, 8), (0x10, 4)], fun l => .plcPoolFar (l.getD 0 0) (l.getD 1 0)⟩]

/-- R407: the TIM_ registers. -/
def regsTim : List RegFamily := [
  ⟨0x1810000, [], fun _ => .timCounter⟩,
  ⟨0x1810008, [], fun _ => .timStatus⟩,
  ⟨0x1810010, [], fun _ => .timOffset⟩]

/-- R425: the CTX_ registers. -/
def regsCtx : List RegFamily := [
  ⟨0x1c00000, [], fun _ => .ctxCap⟩,
  ⟨0x1c00008, [], fun _ => .ctxReset⟩,
  ⟨0x1c10000, [(0x100, 8)], fun l => .ctxPartCtrl (l.getD 0 0)⟩,
  ⟨0x1c10008, [(0x100, 8)], fun l => .ctxPartArea (l.getD 0 0)⟩,
  ⟨0x1c10010, [(0x100, 8)], fun l => .ctxPartCfg (l.getD 0 0)⟩,
  ⟨0x1c10018, [(0x100, 8)], fun l => .ctxPartStatus (l.getD 0 0)⟩]

/-- R446: the RAS_ registers. -/
def regsRas : List RegFamily := [
  ⟨0x2000000, [], fun _ => .rasCfg⟩,
  ⟨0x2000008, [], fun _ => .rasStatus⟩,
  ⟨0x2000010, [(0x8, 7)], fun l => .rasClassCount (l.getD 0 0)⟩,
  ⟨0x2000048, [], fun _ => .rasSram⟩,
  ⟨0x2001000, [(0x40, 256), (0x8, 8)], fun l => .rasHist (l.getD 0 0) (l.getD 1 0)⟩]

/-- R446: the TST_ registers. -/
def regsTst : List RegFamily := [
  ⟨0x2400000, [], fun _ => .tstStatus⟩,
  ⟨0x2400008, [], fun _ => .tstSeed⟩,
  ⟨0x2400010, [], fun _ => .tstTiming⟩,
  ⟨0x2400018, [], fun _ => .tstCredit⟩,
  ⟨0x2400020, [], fun _ => .tstDelay⟩,
  ⟨0x2400100, [(0x8, 4)], fun l => .tstInject (l.getD 0 0)⟩]

/-- R446: the SEC_ registers. -/
def regsSec : List RegFamily := [
  ⟨0x2800000, [], fun _ => .secStatus⟩,
  ⟨0x2800008, [], fun _ => .secCtrl⟩,
  ⟨0x2800010, [(0x8, 4)], fun l => .secNonce (l.getD 0 0)⟩,
  ⟨0x2801000, [(0x8, 25)], fun l => .secToken (l.getD 0 0)⟩]

/-- R446: the MGT_ registers. -/
def regsMgt : List RegFamily := [
  ⟨0x2808000, [], fun _ => .mgtStatus⟩,
  ⟨0x2808008, [], fun _ => .mgtStageList⟩,
  ⟨0x2808010, [], fun _ => .mgtStageCtrl⟩]

/-- Every register family of BAR0. -/
def regFamilies : List RegFamily :=
  regsGlb ++ regsPwr ++ regsBoot ++ regsHif ++ regsCmd ++ regsSyn ++ regsMxa ++ regsVec ++ regsMem ++ regsSmp ++ regsGth ++ regsSpr ++ regsCis ++ regsUpd ++ regsLnk ++ regsPlc ++ regsTim ++ regsCtx ++ regsRas ++ regsTst ++ regsSec ++ regsMgt

/-- The register at a BAR0 offset; none where the tables put nothing (R8: reserved, reads zero). -/
def Reg.ofOffset (off : Nat) : Option Reg := regFamilies.findSome? (·.at? off)

/-- The sum of the reset values of a register's fields, each in its place. -/
def fieldsReset (fs : List RegField) : Nat := fs.foldl (fun a f => a + f.reset * 2 ^ f.lo) 0

/-- A register's value after reset: its fields' values, and for the few that depend on the index or on what
an implementation fixes, that value (R139, R56, R75 ROM_FLOOR, R97 RING_MAX_LOG2). -/
def Reg.resetValue : Reg → BitVec 64
  | .synPartCfg p => BitVec.ofNat 64 (fieldsReset (Reg.fields (.synPartCfg p)) + (16 * p) * 2 ^ 56)
  | .bootReportA i => BitVec.ofNat 64 (i + 1)
  | .bootImage => BitVec.ofNat 64 (Config.romFloor.toNat * 2 ^ 16)
  | .hifCap => BitVec.ofNat 64 (fieldsReset (Reg.fields .hifCap) + Config.hifCapRingMaxLog2.toNat * 2 ^ 16)
  | r => BitVec.ofNat 64 (fieldsReset r.fields)

end Sys2Proof.Machine
end

