-- ==== Sys2Proof/Machine/State.lean ====
section
/-! DEFINITION. The state of the module: every register, buffer, queue, counter, mode and pin the spec names, as
plain data, and the queue of commands that wait. State.reset is the module before its first POWER_ON. -/

namespace Sys2Proof.Machine

/-- Everything the module holds but the queue of commands. -/
structure Device where
  regs : SMap Word := []
  pins : Pins := {}
  flash : Flash
  boot : Boot := {}
  /-- the machine counter of die 0 (R395) -/
  now : Word := 0
  hostMem : SMap Byte := []
  /-- near and far memory, by chip offset (R213): the stored bytes of every slot -/
  mem : SMap Byte := []
  /-- the sideband of near and far memory: 64 header bytes for each 4 KiB slot, from 64 × slot number (R211) -/
  side : SMap Byte := []
  /-- what other chips' memory and tile headers last answered, by global address (the model's own record) -/
  far : SMap Byte := []
  farSide : SMap Byte := []
  /-- host pages that fail, slots whose reads fail, and slots of other chips whose requests fail, during the current
  command (the model's own) -/
  hostBad : List Nat := []
  badReads : List (Nat × Nat) := []
  remoteBad : List (Nat × Nat) := []
  /-- translation caches, by die (R216) -/
  tlb : SMap (List TlbEntry) := []
  /-- resume handles given so far (R217) -/
  handles : Nat := 0
  /-- streams, by 4096 × partition + stream number (R224) -/
  streams : SMap Stream := []
  injectors : SMap Injector := []
  errs : SMap ErrRing := []
  hist : List HistRec := []
  /-- platform events the board has not polled (R441) -/
  events : List LogRec := []
  sqs : SMap SqState := []
  cqs : SMap CqState := []
  queues : SMap (List Cmd) := []
  objs : SMap SyncObj := []
  flows : SMap Flow := []
  /-- the partition of each logical cluster; 0xFF for none (R73) -/
  layout : SMap Nat := []
  cores : SMap Core := []
  /-- writes of CMD_PMEM_DATA held behind an earlier one that waits: core, word, data, in order (R116) -/
  pmemHeld : List (Nat × Nat × Word) := []
  /-- ready lists, by die (R127) -/
  readyLists : SMap (List ReadyEntry) := []
  /-- R129's rr and left, by 16 × die + class; 0 before the first grant, so partition 1 is asked first (DESIGN CHOICE, log entry 132) -/
  rr : SMap Nat := []
  left : SMap Nat := []
  /-- the order stamp of the next ready entry -/
  readyStamp : Nat := 0
  /-- 0x0606 has been logged in the running episode, by 8 × die + partition (R122) -/
  waiterEpisode : SMap Bool := []
  /-- virtual functions enabled (R78), and functions in D3hot, a mask (R76) -/
  vfs : Nat := 0
  d3 : Nat := 0
  /-- PTM is enabled, and the host time of the last PTM exchange (R76, R89) -/
  ptmOn : Bool := false
  ptm : Word := 0
  /-- the rate in GT/s and the lanes at which the host link has settled (R77) -/
  link : Nat × Nat := (0, 0)
  /-- MSI-X vectors that are not masked, and masked ones whose interrupt is pending, by 256 × function + vector (R76) -/
  unmasked : SMap Bool := []
  msixPending : SMap Bool := []
  power : Power := {}
  parts : SMap Part := []
  /-- flow items that have completed and are to be released before the command ends, by partition (the model's own:
  empty between commands) -/
  flowDone : List (Nat × Word) := []
  /-- placement directory, by 4096 × slice + set, most recently used first (R383) -/
  directory : SMap (List DirEntry) := []
  /-- R402: the level that is pending and its ENABLE_NS; and the levels that have taken effect, each from its ENABLE_NS, newest first -/
  enable : Option (Nat × Word) := none
  enabled : List (Nat × Word) := []
  time : TimeSync := {}
  /-- R401: the chip's range does not hold the machine's level: it joins no group and accepts no remote signal -/
  levelOut : Bool := false
  ports : SMap Port := []
  /-- packets that wait for a port or for credit: plane and channel -/
  txWait : List (Nat × Nat × Packet) := []
  /-- requests to other chips by serial number, and the number of the next -/
  reqs : SMap (Option Request) := []
  nextReq : Nat := 0
  /-- delivery flows allocated, by 4096 × die + flow: partition, queue, ring index (R364) -/
  outFlows : SMap (Option (Nat × Nat × Nat)) := []
  /-- landing tables, by die (R366) -/
  landing : SMap (List LandEntry) := []
  /-- READs answered HELD that wait (R368) -/
  heldReads : List Packet := []
  /-- a CONTRIB at the head of the receive buffers waits for log room, and its stall has been counted (R268) -/
  contribStalled : Bool := false
  /-- groups, by 64 × partition + group -/
  groups : SMap Group := []
  collData : List CollPart := []
  /-- signals held for partitions whose contexts are switched (R419), and the resets that run (R422) -/
  heldSignals : List HeldSignal := []
  resets : List ResetRun := []
  /-- groups kept and dropped by merges, by die; SPR_GROUPS shows them in units of 1,024 (R296) -/
  groupsKept : SMap Nat := []
  groupsDropped : SMap Nat := []
  /-- saves this chip has made whose areas may be restored (R412), and those whose headers are still to be written, by partition -/
  saves : List SavedCtx := []
  saving : SMap (Option EngineCtx) := []
  mgmt : Mgmt := {}
  /-- what the last command sent outside (the model's own) -/
  out : List Out := []
  /-- how many free values have been used (the model's own) -/
  free : Nat := 0
  deriving DecidableEq, Repr

/-- Why a command may stop the machine: none does. The spec gives every command an effect, so there is no constructor. -/
inductive Fault where
  deriving DecidableEq, Repr

/-- Why a command has no meaning here. -/
inductive Refusal where
  /-- The command has no meaning in this model yet: raised by an arm of exec. Safe. -/
  | notModelled (mnemonic : String)
  deriving DecidableEq, Repr

/-- The state: the device and the commands that wait, first in, first out. -/
structure State where
  dev : Device
  pending : List Instr
  deriving DecidableEq, Repr

/-! ### After reset -/

/-- DESIGN CHOICE: the image in flash: it verifies, is for this stepping, and its version passes every floor. -/
def resetImage : Image :=
  { sigOk := true, digestOk := true, stepping := 0xA1, version := 0xFFFF0000, length := 4096
    featBase := 1, featAdvertised := 1, featTable := [] }

/-- DESIGN CHOICE: the defect map: every primary core serves its own logical core, and no lane or row is repaired. -/
def resetMap : List Byte :=
  [0x57, 0x59, 0x44, 0x4D, 1, 0, 0, 0, 1, 0, 0, 0, 0xA1, 0, 0, 0] ++ List.replicate 16 0 ++
  ((List.range 256).flatMap fun c => leBytes 2 (68 * (c / 64) + c % 64)) ++
  ((List.range 16).flatMap fun i => leBytes 2 (68 * (i / 4) + 64 + i % 4)) ++ List.replicate 28 0xFF ++ List.replicate 136 0

/-- DESIGN CHOICE: the field repair record: no entries, of the module of serial 0. -/
def resetField : List Byte := [0x57, 0x59, 0x46, 0x52, 1, 0, 0, 0] ++ List.replicate 156 0

/-- DESIGN CHOICE: the board record: 28 ports connected, chip 0, one partition of all clusters, with the CRC of R219 over it. -/
def resetBoard : List Byte :=
  [0x57, 0x59, 0x42, 0x43, 1, 0, 1, 0, 0xFF, 0xFF, 0xFF, 0x0F, 0, 0, 1, 0] ++ List.replicate 32 0 ++
  [0xC2, 0xD4, 0x1A, 0x28, 0x06, 0xAB, 0x2C, 0x1A]

/-- DESIGN CHOICE: what the factory left in flash. -/
def resetFlash : Flash := { image := resetImage, map := resetMap, field := resetField, board := resetBoard }

/-- The module before its rails are raised: every register at its value after reset, nothing listed in any memory, no command
waiting. -/
def State.reset : State := { dev := { flash := resetFlash }, pending := [] }

end Sys2Proof.Machine
end

