-- ==== Sys2Proof/Machine/Ops.lean ====
section
/-! DEFINITION. The named operations over registers, memories and what is sent outside. -/

namespace Sys2Proof.Machine

/-! ### Registers -/

/-- A register's value; a name outside the map names no register and reads zero (R8). -/
def Device.reg (d : Device) (r : Reg) : Word :=
  if r.inRange then SMap.get (fun _ => r.resetValue) d.regs r.offset else 0

/-- The device with a register holding a value; a name outside the map names no register. -/
def Device.setReg (d : Device) (r : Reg) (w : Word) : Device :=
  if r.inRange then { d with regs := SMap.set (fun _ => r.resetValue) d.regs r.offset w } else d

/-- R8: the bits of a register that belong to fields; the others are reserved, and read zero. -/
def Reg.readMask (r : Reg) : Word := r.fields.foldl (fun (a : Word) f => withField a f.hi f.lo (2 ^ f.width - 1)) 0

/-- The device with the fields of a register set from a word; its reserved bits stay zero (R8). -/
def Device.setFields (d : Device) (r : Reg) (w : Word) : Device := d.setReg r (w &&& r.readMask)

/-- A field of a register. -/
def Device.fld (d : Device) (r : Reg) (f : RegField) : Nat := fieldOf (d.reg r) f.hi f.lo

/-- A one-bit field of a register. -/
def Device.flag (d : Device) (r : Reg) (f : RegField) : Bool := d.fld r f == 1

/-- The device with a field of a register set. -/
def Device.setFld (d : Device) (r : Reg) (f : RegField) (v : Nat) : Device :=
  d.setReg r (withField (d.reg r) f.hi f.lo v)

/-- A counting field raised by n, stopping at its greatest value. -/
def Device.bump (d : Device) (r : Reg) (f : RegField) (n : Nat := 1) : Device :=
  d.setFld r f (satAdd f.width (d.fld r f) n)

/-- A register returned to its value after reset. -/
def Device.resetReg (d : Device) (r : Reg) : Device := d.setReg r r.resetValue

/-- Registers returned to their values after reset. -/
def Device.resetRegs (d : Device) (rs : List Reg) : Device := rs.foldl Device.resetReg d

/-! ### Outside -/

/-- One more thing sent outside. -/
def Device.emit (d : Device) (o : Out) : Device := { d with out := d.out ++ [o] }

/-- The key of a vector of a function (0 physical). -/
def vecKey (fn vec : Nat) : Nat := 256 * fn + vec

/-- R76, R92: a vector of a function is raised: its interrupt is sent, or pends while the vector is masked. -/
def Device.raise (d : Device) (fn vec : Nat) : Device :=
  if SMap.get (fun _ => false) d.unmasked (vecKey fn vec) then d.emit (.msix fn vec)
  else { d with msixPending := SMap.set (fun _ => false) d.msixPending (vecKey fn vec) true }

/-- R76: a vector is masked or unmasked; unmasking sends an interrupt that pends. -/
def Device.maskVector (d : Device) (fn vec : Nat) (masked : Bool) : Device :=
  let d : Device := { d with unmasked := SMap.set (fun _ => false) d.unmasked (vecKey fn vec) (!masked) }
  if !masked && SMap.get (fun _ => false) d.msixPending (vecKey fn vec) then
    ({ d with msixPending := SMap.set (fun _ => false) d.msixPending (vecKey fn vec) false } : Device).emit (.msix fn vec)
  else d

/-- What a byte of memory that nothing has written reads as (R71 for module memory; DESIGN CHOICE for host memory). -/
def zeroByte : Nat → Byte := fun _ => 0

/-- A write by the device to host memory. -/
def Device.hostWrite (d : Device) (addr : Nat) (bytes : List Byte) : Device :=
  { d with hostMem := SMap.setList zeroByte d.hostMem addr bytes }.emit (.hostWrite addr bytes)

/-- A 64-bit write by the device to host memory. -/
def Device.hostWriteWord (d : Device) (addr : Nat) (w : Word) : Device := d.hostWrite addr (leBytes 8 w.toNat)

/-- n bytes of host memory. -/
def Device.hostBytes (d : Device) (addr n : Nat) : List Byte := SMap.getList zeroByte d.hostMem addr n

/-- A 64-bit word of host memory. -/
def Device.hostWord (d : Device) (addr : Nat) : Word := wordOf (ofLeBytes (d.hostBytes addr 8))

/-- What host software has stored in its own memory since, byte by byte. -/
def Device.hostStores (d : Device) (cells : List (Nat × Byte)) : Device :=
  { d with hostMem := cells.foldl (fun m c => SMap.set zeroByte m c.1 c.2) d.hostMem }

/-! ### Module memory -/

/-- n bytes of module memory from an offset. -/
def Device.memBytes (d : Device) (off n : Nat) : List Byte := SMap.getList zeroByte d.mem off n

/-- Module memory with bytes written from an offset. -/
def Device.memWrite (d : Device) (off : Nat) (bytes : List Byte) : Device :=
  { d with mem := SMap.setList zeroByte d.mem off bytes }

/-! ### Free values -/

/-- A value the spec leaves open, and the device with it used up. -/
def Device.freeValue (d : Device) : Word × Device := (Config.freeWord d.free, { d with free := d.free + 1 })

/-! ### Who and where -/

/-- The chip's own number (R19, R73). -/
def Device.chip (d : Device) : Nat := d.fld .glbChip Fd.glbChipChip

/-- Bring-up has reached READY (R75 STATE 1). -/
def Device.ready (d : Device) : Bool := d.fld .bootStatus Fd.bootStatusState == 1

/-- R57: bring-up has HALTED: the device does nothing further until a device reset. -/
def Device.halted (d : Device) : Bool := d.fld .bootStatus Fd.bootStatusState == 2

/-- R24, R432: the control complex of a die has stopped; what needs it waits for the control restart, which absorbs it. -/
def Device.stopped (d : Device) (die : Nat) : Bool := bitOf (d.fld .rasStatus Fd.rasStatusCtrlFault) die

/-- R77: rings run on a link at 32 GT/s or more, at x4 or wider. -/
def Device.linkOk (d : Device) : Bool := decide (32 ≤ d.link.1) && decide (4 ≤ d.link.2)

/-- R73: partition p is formed: the layout gives it clusters. -/
def Device.formed (d : Device) (p : Nat) : Bool :=
  decide (p < 8) && (List.range 32).any fun c => SMap.get (fun _ => 0xFF) d.layout c == p

/-- The formed partitions, in order. -/
def Device.formedParts (d : Device) : List Nat := (List.range 8).filter d.formed

/-- R81: the function that owns partition p's rings, 0 physical, p + 1 virtual. -/
def Device.ownerOf (d : Device) (p : Nat) : Nat := if d.flag (.hifPartCtrl p) Fd.hifPartCtrlOwner then p + 1 else 0

/-- A record of the device in map m changed by f. -/
def SMap.upd {α : Type} [DecidableEq α] (dflt : α) (m : SMap α) (k : Nat) (f : α → α) : SMap α :=
  SMap.set (fun _ => dflt) m k (f (SMap.get (fun _ => dflt) m k))

/-- The value at k of a map whose unlisted entries are all one value. -/
def SMap.at' {α : Type} (dflt : α) (m : SMap α) (k : Nat) : α := SMap.get (fun _ => dflt) m k

end Sys2Proof.Machine
end

