-- ==== Sys2Proof/Machine/Log.lean ====
section
/-! DEFINITION. Event records: the common header (R427), error rings (R95), storm limits (R430), the history
buffer (R429) and platform events (R441). -/

namespace Sys2Proof.Machine

/-- R427: the 64 bytes of a record. -/
def LogRec.bytes (r : LogRec) : List Byte :=
  leBytes 2 r.code ++ leBytes 1 r.cls ++ leBytes 1 r.flags ++ leBytes 4 r.seq ++ leBytes 8 r.time.toNat ++
  leBytes 2 r.chip ++ leBytes 1 r.part ++ leBytes 1 r.die ++ leBytes 4 r.suppressed ++ leBytes 2 1 ++ leBytes 6 0 ++
  ((List.range 4).flatMap fun i => leBytes 8 (r.body.getD i 0).toNat)

/-- The number of the module error ring among the rings. -/
def moduleRing : Nat := 8

/-- Ring k's error ring beyond its registers. -/
def Device.errRing (d : Device) (k : Nat) : ErrRing := SMap.at' {} d.errs k

/-- The device with error ring k changed. -/
def Device.setErrRing (d : Device) (k : Nat) (e : ErrRing) : Device :=
  { d with errs := SMap.set (fun _ => {}) d.errs k e }

/-- The configuration register of error ring k. -/
def errCfgReg (k : Nat) : Reg := if k < 8 then .hifErrCfg k else .hifModErrCfg

/-- The base register of error ring k. -/
def errBaseReg (k : Nat) : Reg := if k < 8 then .hifErrBase k else .hifModErrBase

/-- Error ring k is enabled (HIF_ERR_CFG.ENABLE, HIF_MOD_ERR_CFG.ENABLE). -/
def Device.errEnabled (d : Device) (k : Nat) : Bool := d.flag (errCfgReg k) Fd.hifErrCfgEnable

/-- R77: error ring k takes records: it is enabled and the link runs rings. -/
def Device.errRuns (d : Device) (k : Nat) : Bool := d.errEnabled k && d.linkOk

/-- R95: the base address of error ring k. -/
def Device.errBase (d : Device) (k : Nat) : Nat := d.fld (errBaseReg k) Fd.hifErrBaseAddr * 4096

/-- R95: how many records a ring of N slots holds, N - 1 (slot 0 is the control slot). -/
def Device.errRoom (d : Device) (k : Nat) : Nat := 2 ^ d.fld (errCfgReg k) Fd.hifErrCfgSizeLog2 - 1

/-- R95: when the last reading of the head showed the ring full, the head index is read again; one above the
tail is ignored. -/
def Device.errRefreshHead (d : Device) (k : Nat) : Device :=
  let e := d.errRing k
  if e.tail - e.head < d.errRoom k then d
  else
    let h := (d.hostWord (d.errBase k)).toNat
    if h ≤ e.tail then d.setErrRing k { e with head := h } else d

/-- R95: a record written to an enabled error ring, or dropped and counted where the ring is full. Gives back
whether it was written. -/
def Device.errWrite (d0 : Device) (k : Nat) (r : LogRec) : Device :=
  let d := d0.errRefreshHead k
  let e := d.errRing k
  if e.tail - e.head < d.errRoom k then
    let slot := 1 + e.tail % d.errRoom k
    let d := d.hostWrite (d.errBase k + 64 * slot) { r with seq := (e.tail + 1) % 2 ^ 32, chip := d.chip }.bytes
    let d := d.hostWriteWord (d.errBase k + 8) (wordOf (e.tail + 1))
    let d := d.setErrRing k { e with tail := e.tail + 1 }
    d.raise (if k < 8 then d.ownerOf k else 0) (d.fld (errCfgReg k) Fd.hifErrCfgVector)
  else if k < 8 then d.bump (.hifPartStatus k) Fd.hifPartStatusErrDropped else d

/-- R429, RAS_STATUS.HIST_WAITING: how many records wait for the module ring. -/
def Device.countWaiting (d : Device) : Device :=
  d.setFld .rasStatus Fd.rasStatusHistWaiting (d.hist.filter (·.waiting)).length

/-- R429: a record put into the history buffer of 256; gives back the record that was overwritten before it was
delivered, if one was. -/
def Device.histPush (d : Device) (r : LogRec) (waiting : Bool) : Device × Option LogRec :=
  let all := (HistRec.mk r waiting) :: d.hist
  let lost := (all.drop 256).find? (·.waiting)
  let d := ({ d with hist := all.take 256 }).countWaiting
  match lost with
  | none => (d, none)
  | some l => (d.bump .rasStatus Fd.rasStatusHistLost, some l.record)

/-- R441: a PLDM event goes to the board for every CONTROL and FATAL record and for thermal events, once an in-band interrupt has asked
for the bus; its mandatory data byte, 0xAE, is that of DSP0233 (PRESUMED, log entry 149). -/
def Device.platformEvent (d : Device) (r : LogRec) : Device :=
  if r.cls ≥ 5 || r.code == 0x0303 || r.code == 0x0304 then
    let asks := if d.fld .mgtStatus Fd.mgtStatusI3cAddr = 0 then [] else [Out.inBand 0xAE]
    { d with events := d.events ++ [r], out := d.out ++ asks ++ [.platformEvent r] }
  else d

/-- R427, R429: the SEQ that a record took in its ring when it was written there; none, 0, where the ring was full. -/
def Device.seqSince (d before : Device) (k : Nat) : Nat :=
  if (d.errRing k).tail = (before.errRing k).tail then 0 else (d.errRing k).tail % 2 ^ 32

/-- R429: where a record that is not suppressed goes. -/
def Device.deliver (d : Device) (k : Nat) (r : LogRec) : Device × Option LogRec :=
  if d.errRuns k then
    let e := d.errWrite k r
    if k = moduleRing ∨ 3 ≤ r.cls then e.histPush { r with seq := e.seqSince d k } false else (e, none)
  else if k = moduleRing then d.histPush r true
  else if 3 ≤ r.cls then d.histPush r false
  else (d, none)

/-- R429: the record of a lost history record: its CODE in DETAIL bits 15:0 and bits 47:0 of its TIME above. -/
def lostDetail (r : LogRec) : Word := wordOf (r.code % 2 ^ 16 + (r.time.toNat % 2 ^ 48) * 2 ^ 16)

/-- The storm window of a code on ring k set. -/
def Device.setStorm (d : Device) (k code : Nat) (st : Storm) : Device :=
  d.setErrRing k { d.errRing k with storms := SMap.set (fun _ => ({} : Storm)) (d.errRing k).storms code st }

/-- R430: a record that its storm window s does not hold back is delivered, and counted in the window where its ring took it. -/
def Device.delivered (d : Device) (k : Nat) (r : LogRec) (s : Storm) : Device × Option LogRec :=
  let a := d.deliver k r
  if (a.1.errRing k).tail = (d.errRing k).tail then a
  else (a.1.setStorm k r.code { s with written := s.written + 1 }, a.2)

/-- R430: the storm limit in force; 0 is taken as 1. -/
def Device.stormLimit (d : Device) : Nat := max 1 (d.fld .rasCfg Fd.rasCfgStormLimit)

/-- R426, R430: a record counted in its class, held back by its storm window or delivered. A history record that
this pushes out logs 0x1309 (R429); fuel bounds that chain, which ends at the latest once the 256 waiting records are all 0x1309. -/
def Device.logFuel : Nat → Nat → LogRec → Device → Device
  | 0, _, _, d => d
  | fuel + 1, k, r, d =>
    let d := d.setReg (.rasClassCount r.cls) (d.reg (.rasClassCount r.cls) + 1)
    let d := d.platformEvent r
    let e := d.errRing k
    let s := SMap.at' ({} : Storm) e.storms r.code
    if s.written < d.stormLimit then
      match d.delivered k r s with
      | (d, none) => d
      | (d, some lost) =>
        if lost.code = 0x1309 then d
        else Device.logFuel fuel moduleRing { code := 0x1309, cls := 0, time := d.now, body := [lostDetail lost] } d
    else
      d.setStorm k r.code { s with suppressed := s.suppressed + 1, last := some r }

/-- A record logged on ring k. -/
def Device.log (d : Device) (k : Nat) (r : LogRec) : Device :=
  Device.logFuel 300 k { r with time := d.now, chip := d.chip } d

/-- A record logged on the module error ring. -/
def Device.logModule (d : Device) (code cls : Nat) (body : List Word) (die : Nat := 0xFF) (part : Nat := 0xFF) : Device :=
  d.log moduleRing { code := code, cls := cls, body := body, die := die, part := part }

/-- A record logged on a partition's error ring. -/
def Device.logPart (d : Device) (p code cls : Nat) (body : List Word) (die : Nat := 0xFF) : Device :=
  d.log p { code := code, cls := cls, body := body, die := die, part := p }

/-- R428: bytes 32 to 63 of a host interface record: ring, ring index, address, DETAIL. -/
def hostBody (ring index addr detail : Nat) : List Word :=
  [wordOf (ring % 256 + (index % 2 ^ 32) * 2 ^ 32), wordOf addr, wordOf detail, 0]

/-- R430: the end of a 1 ms storm window: one record for the last event it suppressed, whose SUPPRESSED counts
the window's other events that were not written. -/
def Device.stormEnd (d : Device) (k code : Nat) : Device :=
  let e := d.errRing k
  let s := SMap.at' ({} : Storm) e.storms code
  let d := d.setStorm k code {}
  match s.last with
  | none => d
  | some r =>
    match d.deliver k { r with suppressed := s.suppressed - 1 } with
    | (d, none) => d
    | (d, some lost) =>
      if lost.code = 0x1309 then d
      else d.logModule 0x1309 0 [lostDetail lost]

/-- R429: when the module error ring becomes enabled, the waiting records are written, oldest first, REPLAYED, take their SEQ, and count
among the records of their codes that the ring has taken (R430). -/
def Device.histReplay (d : Device) : Device :=
  let a := d.hist.reverse.foldl (fun (a : Device × List HistRec) (h : HistRec) =>
    if h.waiting then
      let e := a.1.errWrite moduleRing { h.record with flags := h.record.flags ||| 2 }
      let s := SMap.at' ({} : Storm) (e.errRing moduleRing).storms h.record.code
      let e := if e.seqSince a.1 moduleRing = 0 then e else e.setStorm moduleRing h.record.code { s with written := s.written + 1 }
      (e, HistRec.mk { h.record with seq := e.seqSince a.1 moduleRing } false :: a.2)
    else (a.1, h :: a.2)) (d, [])
  ({ a.1 with hist := a.2 } : Device).countWaiting

end Sys2Proof.Machine
end

