-- ==== Sys2Proof/Machine/Rings.lean ====
section
/-! DEFINITION. Completion rings and interrupts (R89 to R92), and the outstanding commands of a queue (R102). -/

namespace Sys2Proof.Machine

/-- The key of queue or ring q of partition p. -/
def qkey (p q : Nat) : Nat := 64 * p + q

/-- The outstanding commands of a queue, in ring order. -/
def Device.queue (d : Device) (p q : Nat) : List Cmd := SMap.at' [] d.queues (qkey p q)

/-- The device with a queue's commands set, and CMD_Q_STATUS.OUTSTANDING with them (R116). -/
def Device.setQueue (d : Device) (p q : Nat) (cs : List Cmd) : Device :=
  ({ d with queues := SMap.set (fun _ => []) d.queues (qkey p q) cs }).setFld (.cmdQStatus p q) Fd.cmdQStatusOutstanding cs.length

/-- The outstanding command of a queue with a ring index. -/
def Device.cmd? (d : Device) (p q idx : Nat) : Option Cmd := (d.queue p q).find? (·.idx == idx)

/-- The device with one command of a queue changed. -/
def Device.updCmd (d : Device) (p q idx : Nat) (f : Cmd → Cmd) : Device :=
  d.setQueue p q ((d.queue p q).map fun c => if c.idx = idx then f c else c)

/-- A completion ring beyond its registers. -/
def Device.cq (d : Device) (p c : Nat) : CqState := SMap.at' {} d.cqs (qkey p c)

/-- The device with a completion ring changed. -/
def Device.setCq (d : Device) (p c : Nat) (x : CqState) : Device :=
  { d with cqs := SMap.set (fun _ => {}) d.cqs (qkey p c) x }

/-- R89: the number of records a completion ring holds. -/
def Device.cqSize (d : Device) (p c : Nat) : Nat := 2 ^ d.fld (.hifCqCfg p c) Fd.hifCqCfgSizeLog2

/-- TAIL of a completion ring. -/
def Device.cqTail (d : Device) (p c : Nat) : Nat := d.fld (.hifCqStatus p c) Fd.hifCqStatusTail

/-- Records written and not yet consumed, (TAIL − H) mod 2^32 (R91). -/
def Device.cqUsed (d : Device) (p c : Nat) : Nat := (d.cqTail p c + 2 ^ 32 - (d.cq p c).head) % 2 ^ 32

/-- R91: the ring shows FULL while its records fill it. -/
def Device.cqShowState (d : Device) (p c : Nat) : Device :=
  let full := decide (d.cqSize p c ≤ d.cqUsed p c)
  let d := d.setFld (.hifCqStatus p c) Fd.hifCqStatusState (if full then 2 else 1)
  if full then d else d.setCq p c { d.cq p c with fullLogged := false }

/-- R92: an armed ring holds enough records beyond HEAD, or waits for none, and raises its interrupt once. -/
def Device.cqInterrupt (d : Device) (p c : Nat) : Device :=
  let x := d.cq p c
  let n := d.cqUsed p c
  let want := max 1 (d.fld (.hifCqCfg p c) Fd.hifCqCfgCoalCount)
  if x.armRead ≠ x.armServed ∧ 1 ≤ n ∧ (want ≤ n ∨ d.fld (.hifCqCfg p c) Fd.hifCqCfgCoalTimeUs = 0) then
    (d.setCq p c { x with armServed := x.armRead }).raise (d.ownerOf p) (d.fld (.hifCqCfg p c) Fd.hifCqCfgVector)
  else d

/-- The current step number of a partition (R89 quadword 3, R319). -/
def Device.curStep (d : Device) (p : Nat) : Nat :=
  d.fld (.cisPartStep p) Fd.cisPartStepStep + (if d.fld (.cisPartStep p) Fd.cisPartStepState = 4 then 2 ^ 31 else 0)

/-- R89: the 32 bytes of a completion record written at TAIL. PHASE is 1 on the first pass through the ring and
inverted on each later pass. -/
def Device.cplBytes (d : Device) (p c : Nat) (r : CplRec) : List Byte :=
  let phase := 1 - (d.cqTail p c / d.cqSize p c) % 2
  leBytes 8 (phase * 2 ^ 63 + r.typ * 2 ^ 60 + r.status * 2 ^ 48 + r.queue * 2 ^ 32 + r.index % 2 ^ 32) ++
  leBytes 8 d.now.toNat ++ leBytes 8 r.value.toNat ++ leBytes 8 ((r.step.getD (d.curStep p)) * 2 ^ 32 + r.low3)

/-- R90, R102: one record written; a command whose record has reached host memory is no longer outstanding. -/
def Device.cplWrite (d : Device) (p c : Nat) (r : CplRec) : Device :=
  let base := d.fld (.hifCqBase p c) Fd.hifCqBaseAddr * 4096
  let tail := d.cqTail p c
  let d := d.hostWrite (base + 32 * (tail % d.cqSize p c)) (d.cplBytes p c r)
  let d := d.setFld (.hifCqStatus p c) Fd.hifCqStatusTail (tail + 1)
  if r.typ = 0 then d.setQueue p r.queue ((d.queue p r.queue).filter fun x => x.idx != r.index) else d

/-- R91: records are written while the ring is enabled and not full; the rest wait in order. -/
def Device.cqDrain (p c : Nat) : List CplRec → Device → Device
  | [], d => d.setCq p c { d.cq p c with waiting := [] }
  | r :: rs, d =>
    if d.cqUsed p c < d.cqSize p c then Device.cqDrain p c rs (d.cplWrite p c r)
    else d.setCq p c { d.cq p c with waiting := r :: rs }

/-- R77, R91: a completion ring that runs writes what it can, shows its state and raises its interrupt. -/
def Device.cqFlush (d : Device) (p c : Nat) : Device :=
  if d.flag (.hifCqCfg p c) Fd.hifCqCfgEnable && d.linkOk then
    ((Device.cqDrain p c (d.cq p c).waiting d).cqShowState p c).cqInterrupt p c
  else d

/-- A record given to a completion ring: written, or kept waiting where the ring is full or DISABLED (R91), or the link runs no ring (R77). -/
def Device.cqPost (d : Device) (p c : Nat) (r : CplRec) : Device :=
  (d.setCq p c { d.cq p c with waiting := (d.cq p c).waiting ++ [r] }).cqFlush p c

end Sys2Proof.Machine
end

