-- ==== Sys2Proof/Machine/Desc.lean ====
section
/-! DEFINITION. The fields of a command descriptor (R98) and the records of command processing (R104). -/

namespace Sys2Proof.Machine

/-- QW0.OPCODE. -/
def opcodeOf (x : Desc) : Nat := fieldOf x.q0 63 56
/-- QW0.COMPLETE. -/
def completeOf (x : Desc) : Bool := bitOf x.q0.toNat 55
/-- QW0.FENCE. -/
def fenceOf (x : Desc) : Bool := bitOf x.q0.toNat 54
/-- QW0.CLUSTER_FIRST. -/
def clusterFirstOf (x : Desc) : Nat := fieldOf x.q0 31 24
/-- QW0.CLUSTER_COUNT. -/
def clusterCountOf (x : Desc) : Nat := fieldOf x.q0 23 16
/-- QW0.CORE_MASK. -/
def coreMaskOf (x : Desc) : Nat := fieldOf x.q0 15 8
/-- QW1.TIMEOUT_US. -/
def timeoutUsOf (x : Desc) : Nat := fieldOf x.q1 47 20
/-- QW1.WAIT_OP. -/
def waitOpOf (x : Desc) : Nat := fieldOf x.q1 19 17
/-- QW1.WAIT_SYNC. -/
def waitSyncOf (x : Desc) : Nat := fieldOf x.q1 16 0
/-- QW2.WAIT_VALUE. -/
def waitValueOf (x : Desc) : Word := x.q2
/-- QW3.SIGNAL_AMOUNT. -/
def signalAmountOf (x : Desc) : Nat := fieldOf x.q3 63 32
/-- QW3.SIGNAL_OP. -/
def signalOpOf (x : Desc) : Nat := fieldOf x.q3 19 17
/-- QW3.SIGNAL_SYNC. -/
def signalSyncOf (x : Desc) : Nat := fieldOf x.q3 16 0

/-- The clusters of a partition, in ascending order (R98). -/
def Device.partClusters (d : Device) (p : Nat) : List Nat :=
  (List.range 32).filter fun c => SMap.at' 0xFF d.layout c == p

/-- The partition a core belongs to; 0xFF for none. -/
def Device.corePart (d : Device) (c : Nat) : Nat := SMap.at' 0xFF d.layout (c / 8)

/-- R98, R114: the target cores of a command, ordered by target cluster and core within it: the list gives each
core's rank. -/
def Device.targets (d : Device) (p : Nat) (x : Desc) : List Nat :=
  (((d.partClusters p).drop (clusterFirstOf x)).take (clusterCountOf x)).flatMap fun cl =>
    (bitList 8 (coreMaskOf x)).map fun k => 8 * cl + k

/-- R104: bytes 32 to 63 of a command-processing record. -/
def cmdBody (queue idx opcode reason : Nat) (detail qw0 : Word) : List Word :=
  [wordOf (queue % 256 + (idx % 2 ^ 32) * 2 ^ 32), wordOf (opcode + reason * 256), detail, qw0]

/-- R117: the device object that relative object r of a partition names, if it is allocated. -/
def Device.syncOf (d : Device) (p r : Nat) : Option Nat :=
  if r < 1024 * d.fld (.synPartCfg p) Fd.synPartCfgSyncCount then
    some (1024 * d.fld (.synPartCfg p) Fd.synPartCfgSyncBase + r)
  else none

/-- R131: a flow word is VALID. -/
def flowValid (w : Word) : Bool := bitOf w.toNat 63
/-- R131: FLOW. -/
def flowNum (w : Word) : Nat := fieldOf w 57 48
/-- R131: SEQ. -/
def flowSeq (w : Word) : Nat := fieldOf w 31 0

/-- R16, R127: the class of shared die engine an opcode needs: 0 Windlass, 1 gather, 2 scatter, 3 gather-and-merge,
4 DMA, 5 update program; none for commands that need no shared engine. DESIGN CHOICE (log entry 130): R127 names the update program as a
class and lists no commands of it; a CHECKPOINT needs an entry, an UPDATE and a STEP_CLOSE do not. -/
def engineClass (op : Nat) : Option Nat :=
  if 0x20 ≤ op ∧ op ≤ 0x23 then some 4
  else if op = 0x40 then some 0
  else if op = 0x50 then some 1
  else if op = 0x51 then some 2
  else if op = 0x60 then some 3
  else if op = 0x81 then some 5
  else none

/-- R16: how many engines of a class a die holds. DESIGN CHOICE (log entry 130): its update program serves one command at a time. -/
def engineCount (k : Nat) : Nat :=
  match k with
  | 0 => 8
  | 1 => 16
  | 2 => 8
  | 3 => 4
  | 4 => 24
  | _ => 1

/-- R17: the dies on which a partition has clusters. -/
def Device.partDies (d : Device) (p : Nat) : List Nat :=
  (List.range 4).filter fun die => (d.partClusters p).any fun c => c / 8 == die

/-- R394: the micro-batch of a command whose engine work may move: a SAMPLE, a GATHER with DEST 0 or a SCATTER. -/
def movableBatch (x : Desc) : Option Nat :=
  match opcodeOf x with
  | 0x40 => some (fieldOf x.q6 15 0)
  | 0x50 => if bitOf x.q4.toNat 8 || bitOf x.q4.toNat 9 then none else some (fieldOf x.q4 31 16)
  | 0x51 => some (fieldOf x.q4 31 16)
  | _ => none

/-- R394: the engines of another member do a command's work in this step (log entry 106). -/
def Device.helped (d : Device) (p : Nat) (x : Desc) : Bool :=
  (movableBatch x).any fun b => (SMap.at' ({} : Part) d.parts p).mbMoves.any fun m => m.src == d.chip && m.mb == b

/-- R127: the ready-list entries a command needs: one on each die whose engines it uses, with their class. -/
def Device.engineNeeds (d : Device) (p : Nat) (x : Desc) : List (Nat × Nat) :=
  match engineClass (opcodeOf x) with
  | none => []
  | some k => if d.helped p x then [] else (if opcodeOf x = 0x40 then bitList 4 (fieldOf x.q6 43 40) else d.partDies p).map fun die => (die, k)

end Sys2Proof.Machine
end

