-- ==== Sys2Proof/Machine/Numeric.lean ====
section
/-! DEFINITION. Numeric formats, rounding and the generator (chapter 07). Arithmetic is exact: a number is a NaN, an
infinity, or a sign, a magnitude and a power of two; it is rounded once, where the spec rounds. -/

namespace Sys2Proof.Machine

/-- A number of a float or integer format: finite numbers are ±m × 2^e, with a sign on zero too. -/
inductive Num where
  | nan
  | inf (neg : Bool)
  | fin (neg : Bool) (m : Nat) (e : Int)
  deriving DecidableEq, Repr

/-- Zero. -/
def Num.zero : Num := .fin false 0 0

/-- An integer as a number. -/
def Num.ofInt (i : Int) : Num := .fin (decide (i < 0)) i.natAbs 0

/-- The sign of a number; a NaN has none. -/
def Num.isNeg : Num → Bool
  | .nan => false
  | .inf n => n
  | .fin n _ _ => n

/-- A number is a zero. -/
def Num.isZero : Num → Bool
  | .fin _ 0 _ => true
  | _ => false

/-- The opposite number. -/
def Num.neg : Num → Num
  | .nan => .nan
  | .inf n => .inf (!n)
  | .fin n m e => .fin (!n) m e

/-- The magnitude. -/
def Num.abs : Num → Num
  | .nan => .nan
  | .inf _ => .inf false
  | .fin _ m e => .fin false m e

/-- The signed magnitude of a finite number at a power of two no greater than its own. -/
def scaledInt (neg : Bool) (m : Nat) (e base : Int) : Int :=
  let v : Int := (m : Int) * 2 ^ (e - base).toNat
  if neg then -v else v

/-- The exact sum; the sign of an exact zero is negative only where both are negative zeros (IEEE 754-2019). -/
def Num.add : Num → Num → Num
  | .nan, _ => .nan
  | _, .nan => .nan
  | .inf a, .inf b => if a = b then .inf a else .nan
  | .inf a, _ => .inf a
  | _, .inf b => .inf b
  | .fin a m e, .fin b n f =>
    let base := min e f
    let s := scaledInt a m e base + scaledInt b n f base
    if s = 0 then .fin (a && b) 0 0 else .fin (decide (s < 0)) s.natAbs base

/-- The exact product. -/
def Num.mul : Num → Num → Num
  | .nan, _ => .nan
  | _, .nan => .nan
  | .inf a, .inf b => .inf (a != b)
  | .inf a, .fin b n _ => if n = 0 then .nan else .inf (a != b)
  | .fin a m _, .inf b => if m = 0 then .nan else .inf (a != b)
  | .fin a m e, .fin b n f => .fin (a != b) (m * n) (e + f)

/-- A number times 2^k. -/
def Num.scale (k : Int) : Num → Num
  | .fin n m e => .fin n m (e + k)
  | x => x

/-- The value comparison of two numbers that are not NaN: less, equal, greater; zeros are equal. -/
def Num.cmp : Num → Num → Ordering
  | .inf a, .inf b => if a = b then .eq else if a then .lt else .gt
  | .inf a, _ => if a then .lt else .gt
  | _, .inf b => if b then .gt else .lt
  | .fin a m e, .fin b n f =>
    let base := min e f
    compare (scaledInt a m e base) (scaledInt b n f base)
  | _, _ => .eq

/-! ### Rounding (R146, R147) -/

/-- Flags that operations and conversions collect (R148; DIV_ZERO is the vector engine's, R205). -/
structure NFlags where
  invalid : Bool := false
  divZero : Bool := false
  overflow : Bool := false
  underflow : Bool := false
  inexact : Bool := false
  saturate : Bool := false
  deriving DecidableEq, Repr

/-- Flags of two operations together. -/
def NFlags.or (a b : NFlags) : NFlags :=
  ⟨a.invalid || b.invalid, a.divZero || b.divZero, a.overflow || b.overflow, a.underflow || b.underflow,
   a.inexact || b.inexact, a.saturate || b.saturate⟩

/-- A rounding: its mode code (R146: 0 RNE, 1 RTZ, 2 SR) and the generator word SR uses. -/
structure Rnd where
  mode : Nat := 0
  word : Nat := 0
  deriving DecidableEq, Repr

/-- R146, R147: m × 2^e, or with more a magnitude strictly between m and m + 1 units of it, rounded to a multiple of
2^lsb: the multiple, and whether it is inexact. -/
def roundMag (r : Rnd) (m : Nat) (e : Int) (more : Bool) (lsb : Int) : Nat × Bool :=
  if lsb ≤ e then (m * 2 ^ (e - lsb).toNat, more)
  else
    let s := (lsb - e).toNat
    let q := m >>> s
    let rest := m % 2 ^ s
    let inexact := rest != 0 || more
    let up := match r.mode with
      | 0 => decide (2 ^ (s - 1) < rest) || (rest == 2 ^ (s - 1) && (more || q % 2 == 1))
      | 2 => decide (r.word < rest * 2 ^ 32 / 2 ^ s)
      | _ => false
    (if up then q + 1 else q, inexact)

/-- The place of the highest set bit of m × 2^e. -/
def topExp (m : Nat) (e : Int) : Int := (Nat.log2 m : Int) + e

/-! ### Float formats (R142) -/

/-- A float format: mantissa bits, the power of two of its smallest subnormal, its largest finite magnitude as a
multiple of a power of two, its total width, and the code of its infinity where it has one. -/
structure Fmt where
  man : Nat
  minExp : Int
  maxM : Nat
  maxE : Int
  width : Nat
  infCode : Option Nat
  nanCode : Nat
  deriving DecidableEq, Repr

/-- binary32. -/
def fmtF32 : Fmt := ⟨23, -149, 2 ^ 24 - 1, 104, 32, some 0x7F800000, 0x7FC00000⟩
/-- bf16. -/
def fmtBf16 : Fmt := ⟨7, -133, 255, 120, 16, some 0x7F80, 0x7FC0⟩
/-- binary16. -/
def fmtF16 : Fmt := ⟨10, -24, 2047, 5, 16, some 0x7C00, 0x7E00⟩
/-- E4M3: no infinity; S.1111.111 is its NaN. -/
def fmtE4M3 : Fmt := ⟨3, -9, 14, 5, 8, none, 0x7F⟩
/-- E5M2. -/
def fmtE5M2 : Fmt := ⟨2, -16, 7, 13, 8, some 0x7C, 0x7E⟩
/-- E2M1: neither infinity nor NaN. -/
def fmtE2M1 : Fmt := ⟨1, -1, 3, 1, 4, none, 0⟩

/-- The sign bit of a format set. -/
def signed (f : Fmt) (neg : Bool) (code : Nat) : Nat := code + ofBool neg * 2 ^ (f.width - 1)

/-- The number a float code stands for (R142); for E2M1 every code is finite. -/
def decodeFloat (f : Fmt) (code : Nat) : Num :=
  let neg := bitOf code (f.width - 1)
  let mag := code % 2 ^ (f.width - 1)
  let ex := mag / 2 ^ f.man
  let mn := mag % 2 ^ f.man
  let isNan := match f.infCode with
    | some i => decide (i < mag)
    | none => f.nanCode != 0 && mag == f.nanCode
  if isNan then .nan
  else if f.infCode = some mag then .inf neg
  else if ex = 0 then .fin neg mn f.minExp
  else .fin neg (mn + 2 ^ f.man) (f.minExp + (ex : Int) - 1)

/-- A magnitude rounded to a format's precision, the exponent range taken as having no upper end (R148): a multiple
and its power of two, and whether it is inexact. -/
def roundFloat (f : Fmt) (r : Rnd) (m : Nat) (e : Int) (more : Bool) : Nat × Int × Bool :=
  let lsb := max (topExp m e - f.man) f.minExp
  let q := roundMag r m e more lsb
  (q.1, lsb, q.2)

/-- A multiple of a power of two lies beyond a format's largest finite magnitude. -/
def beyond (f : Fmt) (q : Nat) (lsb : Int) : Bool :=
  let base := min lsb f.maxE
  decide (f.maxM * 2 ^ (f.maxE - base).toNat < q * 2 ^ (lsb - base).toNat)

/-- R193: tiny after rounding (IEEE 754-2019): rounded with no lower end of the exponent range, the magnitude lies
below the format's smallest normal number. -/
def tinyAfter (f : Fmt) (r : Rnd) (m : Nat) (e : Int) (more : Bool) : Bool :=
  let lsb := topExp m e - f.man
  let q := roundMag r m e more lsb
  decide (q.1 = 0 ∨ topExp q.1 lsb < f.minExp + f.man)

/-- The code of a format's largest finite magnitude. -/
def maxCode (f : Fmt) : Nat := (f.maxE - f.minExp).toNat * 2 ^ f.man + f.maxM

/-- R148: a number converted to a float format. more says that the magnitude lies strictly above m units and below
m + 1. An MX element (mx) always clamps. UNDERFLOW is raised for a tiny inexact result. -/
def toFloat (f : Fmt) (sat mx : Bool) (r : Rnd) (x : Num) (more : Bool := false) : Nat × NFlags :=
  match x with
  | .nan => (f.nanCode, {})
  | .inf neg =>
    match f.infCode with
    | some i =>
      if f.width = 8 ∧ sat = true then (signed f neg (maxCode f), { saturate := true, inexact := true })
      else (signed f neg i, {})
    | none =>
      if sat then (signed f neg (maxCode f), { saturate := true, inexact := true })
      else (f.nanCode, { invalid := true, inexact := true })
  | .fin neg m e =>
    if m = 0 ∧ more = false then (signed f neg 0, {})
    else
      let q := roundFloat f r m e more
      if beyond f q.1 q.2.1 then
        if sat || mx then (signed f neg (maxCode f), { saturate := true, inexact := true })
        else
          match f.infCode with
          | some i =>
            if r.mode = 1 then (signed f neg (maxCode f), { overflow := true, inexact := true })
            else (signed f neg i, { overflow := true, inexact := true })
          | none => (f.nanCode, { invalid := true, inexact := true })
      else
        let code := (q.2.1 - f.minExp).toNat * 2 ^ f.man + q.1
        (signed f neg code, { inexact := q.2.2, underflow := q.2.2 && tinyAfter f r m e more })

/-- A number as a canonical binary32 code. -/
def toF32 (r : Rnd) (x : Num) : Nat × NFlags := toFloat fmtF32 false false r x

/-- R148: a number rounded to an integer and clamped to lo .. hi. -/
def toIntClamp (lo hi : Int) (r : Rnd) (x : Num) : Int × NFlags :=
  match x with
  | .nan => (0, { invalid := true, inexact := true })
  | .inf neg => (if neg then lo else hi, { saturate := true, inexact := true })
  | .fin neg m e =>
    let q := roundMag r m e false 0
    let v : Int := if neg then -(q.1 : Int) else q.1
    if v < lo then (lo, { saturate := true, inexact := true })
    else if hi < v then (hi, { saturate := true, inexact := true })
    else (v, { inexact := q.2 })

/-! ### Element formats by code (R141, R144) -/

/-- R141: the element width of a format code, in bits; 0 for a reserved code. -/
def elemBits (code : Nat) : Nat :=
  match code with
  | 0x0 | 0xA => 32
  | 0x1 | 0x2 => 16
  | 0x3 | 0x4 | 0x5 | 0x6 | 0x8 => 8
  | 0x7 | 0x9 => 4
  | _ => 0

/-- R141: a format code with E8M0 block scales. -/
def isMx (code : Nat) : Bool := code == 0x5 || code == 0x6 || code == 0x7

/-- The float format of a code; none for the integer formats and reserved codes. -/
def floatFmt (code : Nat) : Option Fmt :=
  match code with
  | 0x0 => some fmtF32
  | 0x1 => some fmtBf16
  | 0x2 => some fmtF16
  | 0x3 | 0x5 => some fmtE4M3
  | 0x4 | 0x6 => some fmtE5M2
  | 0x7 => some fmtE2M1
  | _ => none

/-- The two's complement reading of the low w bits. -/
def intOf (w v : Nat) : Int := if v % 2 ^ w < 2 ^ (w - 1) then (v % 2 ^ w : Nat) else ((v % 2 ^ w : Nat) : Int) - 2 ^ w

/-- The low w bits of an integer. -/
def natOfInt (w : Nat) (i : Int) : Nat := (i % (2 ^ w : Int)).toNat

/-- The number an element's code stands for, without block and tile scale. -/
def elemNum (code v : Nat) : Num :=
  match floatFmt code with
  | some f => decodeFloat f v
  | none => .ofInt (intOf (elemBits code) v)

/-- R142, R144: an E8M0 scale: 2^(e − 127), and NaN for 0xFF. -/
def e8m0 (s : Nat) : Num := if s = 0xFF then .nan else .fin false 1 ((s : Int) - 127)

/-- R146 to R148: a number converted to an element of a format that has no block scale. -/
def convert (code : Nat) (sat : Bool) (r : Rnd) (x : Num) : Nat × NFlags :=
  match floatFmt code with
  | some f => toFloat f sat (isMx code) r x
  | none =>
    let w := elemBits code
    let q := toIntClamp (-(2 ^ (w - 1) : Int)) (2 ^ (w - 1) - 1) r x
    (natOfInt w q.1, q.2)

/-- R149: emax of the MX element formats. -/
def emaxOf (code : Nat) : Int := if code = 0x7 then 2 else if code = 0x5 then 8 else 15

/-- R149: the greatest exponent, floor(log2 m), over the non-zero numbers of a block. -/
def blockTop : List Num → Option Int
  | [] => none
  | .fin _ m e :: xs =>
    if m = 0 then blockTop xs
    else
      match blockTop xs with
      | none => some (topExp m e)
      | some t => some (max t (topExp m e))
  | _ :: xs => blockTop xs

/-- A number is finite. -/
def Num.isFin : Num → Bool
  | .fin _ _ _ => true
  | _ => false

/-- R149, R148: a block of 32 numbers quantised to an MX format: its scale byte, and each element's code and flags; rs gives
each element's rounding. Every element of a block that holds a NaN or an infinity reads as a NaN, which differs from its input
unless that is a NaN itself. -/
def quantBlock (code : Nat) (rs : List Rnd) (xs : List Num) : Nat × List (Nat × NFlags) :=
  if xs.any fun x => !x.isFin then (0xFF, xs.map fun x => (0, { invalid := true, inexact := x != .nan }))
  else
    match blockTop xs with
    | none => (0, xs.map fun x => convert code true {} x)
    | some t =>
      let ex := max (-127) (min 127 (t - emaxOf code))
      ((ex + 127).toNat, (xs.zip rs).map fun x => convert code true x.2 (x.1.scale (-ex)))

/-- Flags of several results together. -/
def NFlags.all (l : List NFlags) : NFlags := l.foldl NFlags.or {}

/-! ### The generator (R154, R155) -/

/-- Four 32-bit words. -/
structure Words4 where
  w0 : Nat
  w1 : Nat
  w2 : Nat
  w3 : Nat
  deriving DecidableEq, Repr

/-- Word j of four. -/
def Words4.get (w : Words4) (j : Nat) : Nat :=
  match j % 4 with
  | 0 => w.w0
  | 1 => w.w1
  | 2 => w.w2
  | _ => w.w3

/-- R154: one round of gen under a key. -/
def genRound (k0 k1 : Nat) (c : Words4) : Words4 :=
  let p0 := 0xD2511F53 * c.w0
  let p1 := 0xCD9E8D57 * c.w2
  ⟨((p1 >>> 32) ^^^ c.w1) ^^^ k0, p1 % 2 ^ 32, ((p0 >>> 32) ^^^ c.w3) ^^^ k1, p0 % 2 ^ 32⟩

/-- R154: n rounds, the key bumped between them. -/
def genRounds : Nat → Nat → Nat → Words4 → Words4
  | 0, _, _, c => c
  | n + 1, k0, k1, c => genRounds n ((k0 + 0x9E3779B9) % 2 ^ 32) ((k1 + 0xBB67AE85) % 2 ^ 32) (genRound k0 k1 c)

/-- R154: gen(key, counter), Philox4x32-10. -/
def gen (k0 k1 : Nat) (c : Words4) : Words4 := genRounds 10 k0 k1 c

/-- R155: the key of a purpose under a run seed. -/
def purposeKey (seed : Word) (p : Nat) : Nat × Nat :=
  let w := gen (fieldOf seed 31 0) (fieldOf seed 63 32) ⟨p, 0x57590001, 0, 0⟩
  (w.w0, w.w1)

/-- R155: the word of draw j of an identity: counter words c0 to c2, and in c3 the draw block above its base. -/
def drawWord (seed : Word) (purpose c0 c1 c2 c3base j : Nat) : Nat :=
  let k := purposeKey seed purpose
  (gen k.1 k.2 ⟨c0 % 2 ^ 32, c1 % 2 ^ 32, c2 % 2 ^ 32, (c3base + j / 4) % 2 ^ 32⟩).get j

/-! ### CRCs (R219, R444) -/

/-- Bitwise division of a polynomial register by n further bits of a byte, most significant first. -/
def crcBits (width poly : Nat) : Nat → Nat → Nat
  | 0, c => c
  | n + 1, c =>
    let shifted := (c * 2) % 2 ^ width
    crcBits width poly n (if bitOf c (width - 1) then shifted ^^^ poly else shifted)

/-- CRC-64/ECMA-182: polynomial 0x42F0E1EBA9EA3693, initial value and final xor zero, not reflected. -/
def crc64 (bs : List Byte) : Nat :=
  bs.foldl (fun c b => crcBits 64 0x42F0E1EBA9EA3693 8 (c ^^^ (b.toNat * 2 ^ 56))) 0

end Sys2Proof.Machine
end

