-- ==== Sys2Proof/Machine/Real.lean ====
section
/-! DEFINITION. The correctly rounded functions of R192: exact bounds in fixed point of p fraction bits, tightened
until both bounds round to the same binary32 number. -/

namespace Sys2Proof.Machine

/-! ### Bounds -/

/-- A real between lo and hi, both in units of 2^−p. -/
structure Ivl where
  lo : Int
  hi : Int
  deriving DecidableEq, Repr

/-- Division rounded down. -/
def floorDiv (a : Int) (b : Nat) : Int := a / (b : Int)

/-- Division rounded up. -/
def ceilDiv (a : Int) (b : Nat) : Int := -((-a) / (b : Int))

/-- An integer. -/
def Ivl.ofInt (p : Nat) (i : Int) : Ivl := ⟨i * 2 ^ p, i * 2 ^ p⟩

/-- Sum. -/
def Ivl.add (a b : Ivl) : Ivl := ⟨a.lo + b.lo, a.hi + b.hi⟩

/-- Opposite. -/
def Ivl.neg (a : Ivl) : Ivl := ⟨-a.hi, -a.lo⟩

/-- Difference. -/
def Ivl.sub (a b : Ivl) : Ivl := a.add b.neg

/-- Product. -/
def Ivl.mul (p : Nat) (a b : Ivl) : Ivl :=
  let x := [a.lo * b.lo, a.lo * b.hi, a.hi * b.lo, a.hi * b.hi]
  ⟨floorDiv (x.foldl min (a.lo * b.lo)) (2 ^ p), ceilDiv (x.foldl max (a.lo * b.lo)) (2 ^ p)⟩

/-- Division by a positive integer. -/
def Ivl.divNat (a : Ivl) (n : Nat) : Ivl := ⟨floorDiv a.lo n, ceilDiv a.hi n⟩

/-- 1 / a for a positive a. -/
def Ivl.recip (p : Nat) (a : Ivl) : Ivl := ⟨floorDiv (2 ^ (2 * p)) a.hi.toNat, ceilDiv (2 ^ (2 * p)) a.lo.toNat⟩

/-- A number as bounds. -/
def Ivl.ofNum (p : Nat) : Num → Ivl
  | .fin neg m e =>
    let q : Int := (p : Int) + e
    let v : Ivl := if 0 ≤ q then ⟨(m : Int) * 2 ^ q.toNat, (m : Int) * 2 ^ q.toNat⟩
      else ⟨floorDiv m (2 ^ (-q).toNat), ceilDiv m (2 ^ (-q).toNat)⟩
    if neg then v.neg else v
  | _ => ⟨0, 0⟩

/-- Integer square root, by its binary digits from the highest. -/
def isqrtBits : Nat → Nat → Nat → Nat
  | 0, _, r => r
  | k + 1, n, r =>
    let r' := r + 2 ^ k
    isqrtBits k n (if r' * r' ≤ n then r' else r)

/-- Integer square root, rounded down. -/
def isqrt (n : Nat) : Nat := isqrtBits (Nat.log2 n / 2 + 1) n 0

/-- Square root of positive bounds. -/
def Ivl.sqrt (p : Nat) (a : Ivl) : Ivl := ⟨isqrt (a.lo.toNat * 2 ^ p), isqrt (a.hi.toNat * 2 ^ p) + 1⟩

/-- The sum of n terms of a series: each next term is the last one changed by step, which is told its place; the
last term widens the bounds by itself on both sides, which covers the rest of a series whose terms at least halve. -/
def seriesSum (step : Nat → Ivl → Ivl) : Nat → Nat → Ivl → Ivl → Ivl
  | 0, _, t, acc =>
    let w := max t.hi (-t.lo) + 1
    ⟨acc.lo - 2 * w, acc.hi + 2 * w⟩
  | n + 1, k, t, acc => seriesSum step n (k + 1) (step k t) (acc.add t)

/-- a squared n times. -/
def Ivl.squares (p : Nat) : Nat → Ivl → Ivl
  | 0, a => a
  | n + 1, a => Ivl.squares p n (a.mul p a)

/-- e^x for x of 0 to 2^10: the series at x / 2^20, squared 20 times. -/
def expPos (p : Nat) (x : Ivl) : Ivl :=
  let y : Ivl := x.divNat (2 ^ 20)
  (seriesSum (fun k t => (t.mul p y).divNat (k + 1)) (p / 8 + 4) 0 (.ofInt p 1) (.ofInt p 0)).squares p 20

/-- e^x. -/
def expIvl (p : Nat) (x : Ivl) : Ivl := if 0 ≤ x.lo then expPos p x else (expPos p x.neg).recip p

/-- 2·atanh z for z within ±1/2. -/
def atanh2 (p : Nat) (z : Ivl) : Ivl :=
  let zz := z.mul p z
  let rec go : Nat → Nat → Ivl → Ivl → Ivl
    | 0, _, t, acc =>
      let w := max t.hi (-t.lo) + 1
      ⟨acc.lo - 2 * w, acc.hi + 2 * w⟩
    | n + 1, k, t, acc => go n (k + 1) (t.mul p zz) (acc.add (t.divNat (2 * k + 1)))
  let s := go p 0 z (.ofInt p 0)
  s.add s

/-- ln 2. -/
def ln2 (p : Nat) : Ivl := atanh2 p ((Ivl.ofInt p 1).divNat 3)

/-- ln of the positive number v × 2^−p: v is brought to 3/4 .. 3/2 by a power of two. -/
def lnPoint (p : Nat) (v : Nat) : Ivl :=
  let top : Int := (Nat.log2 v : Int) - p
  let k : Int := if 3 * 2 ^ (Nat.log2 v) ≤ 2 * v then top + 1 else top
  let f : Ivl := .ofNum p (.fin false v (-(p : Int) - k))
  let num := f.sub (.ofInt p 1)
  let den := f.add (.ofInt p 1)
  let s := atanh2 p (num.mul p (den.recip p))
  let l := ln2 p
  let kl : Ivl := if 0 ≤ k then ⟨k * l.lo, k * l.hi⟩ else ⟨k * l.hi, k * l.lo⟩
  s.add kl

/-- ln of positive bounds. -/
def lnIvl (p : Nat) (a : Ivl) : Ivl := ⟨(lnPoint p a.lo.toNat).lo, (lnPoint p a.hi.toNat).hi⟩

/-- arctan(1/n), by its alternating series. -/
def atanInv (p n : Nat) : Ivl :=
  let rec go : Nat → Nat → Ivl → Ivl → Ivl
    | 0, _, t, acc => ⟨acc.lo - t.hi - 1, acc.hi + t.hi + 1⟩
    | m + 1, k, t, acc =>
      let u := t.divNat (2 * k + 1)
      go m (k + 1) (t.divNat (n * n)) (if k % 2 = 0 then acc.add u else acc.sub u)
  go (p / 2) 0 ((Ivl.ofInt p 1).divNat n) (.ofInt p 0)

/-- π, by Machin's formula. -/
def piIvl (p : Nat) : Ivl :=
  let a := atanInv p 5
  let b := atanInv p 239
  ⟨16 * a.lo - 4 * b.hi, 16 * a.hi - 4 * b.lo⟩

/-- φ(x), the standard normal density. -/
def phiIvl (p : Nat) (x : Ivl) : Ivl :=
  let e := expIvl p ((x.mul p x).divNat 2).neg
  e.mul p (((piIvl p).add (piIvl p)).sqrt p |>.recip p)

/-- Φ(x) for x of 0 to 16: 1/2 + φ(x) × (x + x³/3 + x⁵/(3·5) + …). -/
def bigPhiPos (p : Nat) (x : Ivl) : Ivl :=
  let xx := x.mul p x
  let s := seriesSum (fun k t => (t.mul p xx).divNat (2 * k + 3)) (2 * p + 600) 0 x (.ofInt p 0)
  ((Ivl.ofInt p 1).divNat 2).add ((phiIvl p x).mul p s)

/-- Φ(x), the standard normal distribution function. -/
def bigPhi (p : Nat) (x : Ivl) : Ivl :=
  if 0 ≤ x.lo then bigPhiPos p x else (Ivl.ofInt p 1).sub (bigPhiPos p x.neg)

/-- σ(x) = 1 / (1 + e^−x). -/
def sigmaIvl (p : Nat) (x : Ivl) : Ivl := ((Ivl.ofInt p 1).add (expIvl p x.neg)).recip p

/-- 1 − σ(x) = σ(−x). -/
def sigmaBar (p : Nat) (x : Ivl) : Ivl := sigmaIvl p x.neg

/-- tanh x = 2 σ(2x) − 1. -/
def tanhIvl (p : Nat) (x : Ivl) : Ivl :=
  let s := sigmaIvl p (x.add x)
  (s.add s).sub (.ofInt p 1)

/-! ### The functions -/

/-- The functions that R192 rounds correctly and no exact quotient or root gives. -/
inductive RealFn where
  | exp | log | gelu | silu | sigmoid | tanh | softplus | dgelu | dsilu | dsigmoid | dtanh
  deriving DecidableEq, Repr

/-- The number of a function, for Config.roundedReal. -/
def RealFn.num : RealFn → Nat
  | .exp => 0 | .log => 1 | .gelu => 2 | .silu => 3 | .sigmoid => 4 | .tanh => 5 | .softplus => 6
  | .dgelu => 7 | .dsilu => 8 | .dsigmoid => 9 | .dtanh => 10

/-- Bounds of a function at a finite number of magnitude below 128, with p fraction bits. -/
def RealFn.bounds (f : RealFn) (p : Nat) (n : Num) : Ivl :=
  let x := Ivl.ofNum p n
  let one := Ivl.ofInt p 1
  match f with
  | .exp => expIvl p x
  | .log => lnIvl p x
  | .gelu => x.mul p (bigPhi p x)
  | .silu => x.mul p (sigmaIvl p x)
  | .sigmoid => sigmaIvl p x
  | .tanh => tanhIvl p x
  | .softplus => lnIvl p (one.add (expIvl p x))
  | .dgelu => (bigPhi p x).add (x.mul p (phiIvl p x))
  | .dsilu => (sigmaIvl p x).mul p (one.add (x.mul p (sigmaBar p x)))
  | .dsigmoid => (sigmaIvl p x).mul p (sigmaBar p x)
  | .dtanh =>
    let t := tanhIvl p x
    one.sub (t.mul p t)

/-- A bound, and a little more of magnitude, rounded to binary32. -/
def roundBound (p : Nat) (v : Int) : Nat × NFlags := toFloat fmtF32 false false {} (.fin (decide (v < 0)) v.natAbs (-(p : Int))) true

/-- The first of a list of precisions at which both bounds round alike; none is exact, so INEXACT is raised. -/
def RealFn.refine (f : RealFn) (code : Nat) (n : Num) : List Nat → Nat × NFlags
  | [] => ((Config.roundedReal f.num code).toNat, { inexact := true })
  | p :: ps =>
    let b := f.bounds p n
    if b.lo < 0 ∧ 0 < b.hi then RealFn.refine f code n ps
    else if roundBound p b.lo = roundBound p b.hi then roundBound p b.lo
    else RealFn.refine f code n ps

/-- binary32 codes of ±0, ±1, 1/2, 1/4, ±∞ and the canonical NaN. -/
def f32One : Nat := 0x3F800000
/-- 1/2. -/
def f32Half : Nat := 0x3F000000
/-- 1/4. -/
def f32Quarter : Nat := 0x3E800000
/-- +∞. -/
def f32Inf : Nat := 0x7F800000
/-- −0. -/
def f32NegZero : Nat := 0x80000000
/-- The canonical NaN (R142). -/
def f32NaN : Nat := 0x7FC00000

/-- A function where its value is exact: at zero, and ln at 1. -/
def RealFn.exactAt (f : RealFn) (code : Nat) : Option Nat :=
  if code % 2 ^ 31 = 0 then
    match f with
    | .exp | .dtanh => some f32One
    | .gelu | .silu | .tanh => some code
    | .sigmoid | .dgelu | .dsilu => some f32Half
    | .dsigmoid => some f32Quarter
    | .log | .softplus => none
  else if f = .log ∧ code = f32One then some 0
  else none

/-- R193: a function's limit at an infinity. -/
def RealFn.atInf (f : RealFn) (neg : Bool) : Nat :=
  match f with
  | .exp | .softplus => if neg then 0 else f32Inf
  | .log => f32Inf
  | .gelu | .silu => if neg then f32NegZero else f32Inf
  | .sigmoid => if neg then 0 else f32One
  | .tanh => if neg then f32One + 2 ^ 31 else f32One
  | .dgelu | .dsilu => if neg then f32NegZero else f32One
  | .dsigmoid | .dtanh => 0

/-- A function at a finite number of magnitude 128 or more, where its value lies within half a unit of its limit or
of the argument: the result and its flags. -/
def RealFn.atLarge (f : RealFn) (neg : Bool) (code : Nat) : Nat × NFlags :=
  let near : NFlags := { inexact := true }
  let tiny : NFlags := { inexact := true, underflow := true }
  match f with
  | .exp => if neg then (0, tiny) else (f32Inf, { inexact := true, overflow := true })
  | .softplus => if neg then (0, tiny) else (code, near)
  | .gelu | .silu => if neg then (f32NegZero, tiny) else (code, near)
  | .sigmoid => if neg then (0, tiny) else (f32One, near)
  | .tanh => (if neg then f32One + 2 ^ 31 else f32One, near)
  | .dgelu | .dsilu => if neg then (f32NegZero, tiny) else (f32One, near)
  | .dsigmoid | .dtanh => (0, tiny)
  | .log => (0, {})

/-- A number's magnitude is 2^k or more. -/
def Num.atLeastPow (k : Int) : Num → Bool
  | .fin _ m e => m != 0 && decide (k ≤ topExp m e)
  | _ => true

/-- R192, R193: a function at a binary32 code. -/
def RealFn.eval (f : RealFn) (code : Nat) : Nat × NFlags :=
  match decodeFloat fmtF32 code with
  | .nan => (f32NaN, {})
  | .inf neg => if f = .log ∧ neg = true then (f32NaN, { invalid := true }) else (f.atInf neg, {})
  | .fin neg m e =>
    if f = .log then
      if m = 0 then (f32Inf + 2 ^ 31, { divZero := true })
      else if neg then (f32NaN, { invalid := true })
      else if code = f32One then (0, {})
      else f.refine code (.fin neg m e) [256, 512, 1024]
    else
      match f.exactAt code with
      | some r => (r, {})
      | none =>
        if Num.atLeastPow (if f = .gelu ∨ f = .dgelu then 4 else 7) (.fin neg m e) then f.atLarge neg code
        else f.refine code (.fin neg m e) [256, 512, 1024]

/-! ### Quotients and roots -/

/-- A positive quotient a / b × 2^e rounded to binary32. -/
def roundQuot (neg : Bool) (a b : Nat) (e : Int) : Nat × NFlags :=
  let k := Nat.log2 b + 64
  toFloat fmtF32 false false {} (.fin neg (a * 2 ^ k / b) (e - k)) (a * 2 ^ k % b != 0)

/-- A / B (IEEE 754-2019). -/
def divF32 (x y : Num) : Nat × NFlags :=
  match x, y with
  | .nan, _ => (f32NaN, {})
  | _, .nan => (f32NaN, {})
  | .inf _, .inf _ => (f32NaN, { invalid := true })
  | .inf a, .fin b _ _ => (signed fmtF32 (a != b) f32Inf, {})
  | .fin a _ _, .inf b => (signed fmtF32 (a != b) 0, {})
  | .fin a m e, .fin b n g =>
    if n = 0 then
      if m = 0 then (f32NaN, { invalid := true }) else (signed fmtF32 (a != b) f32Inf, { divZero := true })
    else if m = 0 then (signed fmtF32 (a != b) 0, {})
    else roundQuot (a != b) m n (e - g)

/-- sqrt(A). -/
def sqrtF32 : Num → Nat × NFlags
  | .nan => (f32NaN, {})
  | .inf neg => if neg then (f32NaN, { invalid := true }) else (f32Inf, {})
  | .fin neg m e =>
    if m = 0 then (signed fmtF32 neg 0, {})
    else if neg then (f32NaN, { invalid := true })
    else
      let m' := if e % 2 = 0 then m * 2 ^ 64 else m * 2 ^ 65
      let e' := if e % 2 = 0 then e - 64 else e - 65
      let r := isqrt m'
      toFloat fmtF32 false false {} (.fin false r (e' / 2)) (r * r != m')

/-- 1 / sqrt(A). -/
def rsqrtF32 : Num → Nat × NFlags
  | .nan => (f32NaN, {})
  | .inf neg => if neg then (f32NaN, { invalid := true }) else (0, {})
  | .fin neg m e =>
    if m = 0 then (signed fmtF32 neg f32Inf, { divZero := true })
    else if neg then (f32NaN, { invalid := true })
    else
      let m' := if e % 2 = 0 then m else m * 2
      let e' := if e % 2 = 0 then e else e - 1
      let k := 2 * (Nat.log2 m' / 2 + 64)
      let r := isqrt (2 ^ k / m')
      toFloat fmtF32 false false {} (.fin false r (-(e' / 2) - (k / 2 : Nat))) (r * r * m' != 2 ^ k)

end Sys2Proof.Machine
end

