-- ==== Sys2Proof/Machine/Local.lean ====
section
/-! DEFINITION. A core and its local scratch: tiles (R143, R144, R176), their headers (R218) and what the engines of
the core see of each other's writes (R173, R204, R227). -/

namespace Sys2Proof.Machine

/-! ### Cores and partitions -/

/-- A core. -/
def Device.core (d : Device) (c : Nat) : Core := SMap.at' {} d.cores c

/-- The device with a core set. -/
def Device.setCore (d : Device) (c : Nat) (k : Core) : Device :=
  { d with cores := SMap.set (fun _ => {}) d.cores c k }

/-- The device with a core changed. -/
def Device.updCore (d : Device) (c : Nat) (f : Core → Core) : Device := d.setCore c (f (d.core c))

/-- A scalar register (R106). -/
def Core.sreg (k : Core) (i : Nat) : Word := SMap.at' 0 k.sregs i

/-- The core with a scalar register written. -/
def Core.setSreg (k : Core) (i : Nat) (w : Word) : Core := { k with sregs := SMap.set (fun _ => 0) k.sregs i w }

/-- A scalar register as an issued instruction latched it; there is none above S15. -/
def QItem.s (it : QItem) (i : Nat) : Word := if i < 16 then SMap.at' 0 it.sregs i else 0

/-- What a partition holds beyond its registers. -/
def Device.part (d : Device) (p : Nat) : Part := SMap.at' {} d.parts p

/-- The device with a partition changed. -/
def Device.updPart (d : Device) (p : Nat) (f : Part → Part) : Device :=
  { d with parts := SMap.set (fun _ => {}) d.parts p (f (d.part p)) }

/-! ### Scratch -/

/-- The bytes of local scratch (R25). -/
def scratchSize : Nat := 2 ^ 22

/-- Where the header of a scratch frame lies (R218). -/
def hdrAt (frame : Nat) : Nat := 2 ^ 22 + 64 * frame

/-- Where the scale record of a scratch frame lies (R144). -/
def sclAt (frame : Nat) : Nat := 2 ^ 23 + 256 * frame

/-- Bytes of a map of local scratch. -/
def scrBytes (m : SMap Byte) (a n : Nat) : List Byte := SMap.getList zeroByte m a n

/-- A number of n bytes in a map of local scratch. -/
def scrNat (m : SMap Byte) (a n : Nat) : Nat := ofLeBytes (scrBytes m a n)

/-- R173, R204, R227: local scratch as one engine of the core sees it: a byte that another engine has written and not
yet synchronised is open. -/
def Core.view (k : Core) (u : UnitId) (free : Nat) : SMap Byte :=
  k.unsynced.foldl (fun (m : SMap Byte) (x : Unsynced) =>
    if x.who = u then m
    else SMap.setList zeroByte m x.addr ((List.range x.len).map fun i => Config.freeByte free (x.addr + i))) k.scratch

/-- One more write that the other engines may not see yet; a write that goes on where the last one ended joins it. -/
def addUnsynced (l : List Unsynced) (u : UnitId) (a n : Nat) : List Unsynced :=
  match l with
  | [] => [{ who := u, addr := a, len := n }]
  | x :: rest => if x.who = u ∧ x.addr + x.len = a then { x with len := x.len + n } :: rest
    else { who := u, addr := a, len := n } :: x :: rest

/-- R307: the runs, as address and length, of a write of n bytes that lie outside the step frame: a write into that frame has no effect. -/
def Core.outside (k : Core) (a n : Nat) : List (Nat × Nat) :=
  match k.stepFrame with
  | none => [(a, n)]
  | some f =>
    let lo := 4096 * f
    let hi := lo + 4096
    if hi ≤ a ∨ a + n ≤ lo then [(a, n)]
    else [(a, lo - a), (hi, a + n - hi)].filter fun r => decide (0 < r.2)

/-- Bytes put into a map of local scratch; those that fall into the step frame have no effect (R307). -/
def Core.put (k : Core) (a : Nat) (bs : List Byte) : SMap Byte :=
  (k.outside a bs.length).foldl (fun m r => SMap.setList zeroByte m r.1 ((bs.drop (r.1 - a)).take r.2)) k.scratch

/-- An engine of the core writes local scratch. -/
def Core.scrWrite (k : Core) (u : UnitId) (a : Nat) (bs : List Byte) : Core :=
  { k with
    scratch := k.put a bs
    unsynced := (k.outside a bs.length).foldl (fun l r => addUnsynced l u r.1 r.2) k.unsynced }

/-- The writes of an engine are visible to the others. -/
def Core.sync (k : Core) (u : UnitId) : Core := { k with unsynced := k.unsynced.filter fun x => x.who != u }

/-! ### Headers -/

/-- R218: FORMAT of a tile header. -/
def hdrFmt (m : SMap Byte) (frame : Nat) : Nat := scrNat m (hdrAt frame + 8) 1 % 16

/-- R218: the dense flag of a tile header. -/
def hdrDense (m : SMap Byte) (frame : Nat) : Bool := bitOf (scrNat m (hdrAt frame + 8) 1) 4

/-- R145, R218: the tile scale of a header; zero reads as 1.0. -/
def hdrScale (m : SMap Byte) (frame : Nat) : Nat :=
  let s := scrNat m (hdrAt frame + 24) 4
  if s = 0 then f32One else s

/-- R176: a drain's output sets format, dense flag, a mask of ones and the tile scale of a frame's header. -/
def Core.setHdr (k : Core) (u : UnitId) (frame fmt scale : Nat) : Core :=
  ((k.scrWrite u (hdrAt frame + 8) (leBytes 1 (fmt + 16))).scrWrite u (hdrAt frame + 16) (leBytes 8 (2 ^ 64 - 1))).scrWrite u
    (hdrAt frame + 24) (leBytes 4 scale)

/-! ### Elements -/

/-- R144: scale bytes of a row of a frame's scale record. -/
def mxRowScales (fmt : Nat) : Nat := if fmt = 0x7 then 4 else 2

/-- R143: element n of a run of elements of w bits whose first byte is at a. -/
def elemIn (m : SMap Byte) (a w n : Nat) : Nat :=
  if w = 4 then
    let b := scrNat m (a + n / 2) 1
    if n % 2 = 0 then b % 16 else b / 16
  else scrNat m (a + n * w / 8) (w / 8)

/-- R143: the bytes of a run of elements of w bits. -/
def packElems (w : Nat) (codes : List Nat) : List Byte :=
  if w = 4 then
    let rec pairs : List Nat → List Byte
      | [] => []
      | [a] => [BitVec.ofNat 8 (a % 16)]
      | a :: b :: r => BitVec.ofNat 8 (a % 16 + 16 * (b % 16)) :: pairs r
    pairs codes
  else codes.flatMap fun v => leBytes (w / 8) v

/-- R176: the byte of element (r, n) of a drained output at dest. -/
def tileByte (dest w r n : Nat) : Nat := dest + 4096 * (n * w / 512) + 64 * r + n * w / 8 % 64

/-- R176, R144: where the block scale of the element at scratch byte a lies. -/
def tileScaleAt (fmt a : Nat) : Nat :=
  sclAt (a / 4096) + (a % 4096 / 64) * mxRowScales fmt + (a % 64) * mxRowScales fmt / 64

/-- The code of element (r, n) of a drained output at dest. -/
def tileElem (m : SMap Byte) (dest w r n : Nat) : Nat :=
  if w = 4 then
    let b := scrNat m (tileByte dest w r n) 1
    if n % 2 = 0 then b % 16 else b / 16
  else scrNat m (tileByte dest w r n) (w / 8)

/-- R174 step 6: the number of element (r, n) of a drained output at dest whose rows are laid out by fmt, with the block scale and
the tile scale that the header of its own frame gives. -/
def tileNum (m : SMap Byte) (fmt dest r n : Nat) : Num :=
  let w := elemBits fmt
  let a := tileByte dest w r n
  let f := hdrFmt m (a / 4096)
  let x := elemNum f (tileElem m dest w r n)
  (if isMx f then x.mul (e8m0 (scrNat m (tileScaleAt f a) 1)) else x).mul (decodeFloat fmtF32 (hdrScale m (a / 4096)))

/-- A drained output of 64 rows of element codes written to scratch, with its block scales: rows holds each row's
codes, scales each row's block scales in blocks of 32 columns. -/
def Core.writeTile (k : Core) (u : UnitId) (dest fmt cols : Nat) (rows : List (List Nat)) (scales : List (List Nat)) : Core :=
  let w := elemBits fmt
  let per := 512 / w
  let k := rows.zipIdx.foldl (fun (k : Core) (x : List Nat × Nat) =>
    (List.range ((cols + per - 1) / per)).foldl (fun (k : Core) i =>
      k.scrWrite u (tileByte dest w x.2 (i * per)) (packElems w ((x.1.drop (i * per)).take per))) k) k
  if isMx fmt then
    scales.zipIdx.foldl (fun (k : Core) (x : List Nat × Nat) =>
      x.1.zipIdx.foldl (fun (k : Core) (y : Nat × Nat) =>
        k.scrWrite u (tileScaleAt fmt (tileByte dest w x.2 (32 * y.2))) (leBytes 1 y.1)) k) k
  else k

/-- R176: a scratch destination for rows of so many columns of a format: 32-byte aligned, at the start of a tile or, for rows of
at most 32 bytes, at its second half. -/
def destAligned (fmt cols dest : Nat) : Bool :=
  dest % 4096 == 0 || (dest % 4096 == 32 && decide (cols * elemBits fmt ≤ 256))

/-- R176: how many frames an output row of so many columns spreads over. -/
def tileFrames (fmt cols : Nat) : Nat := max 1 ((cols * elemBits fmt + 511) / 512)

/-! ### binary32 operations -/

/-- A binary32 code as a number. -/
def f32Num (v : Nat) : Num := decodeFloat fmtF32 v

/-- INVALID of an operation: a NaN result from operands none of which is a NaN (R193). -/
def withInvalid (ops : List Num) (r : Nat × NFlags) : Nat × NFlags :=
  if r.1 = f32NaN ∧ ops.all (fun x => x != .nan) then (r.1, { r.2 with invalid := true }) else r

/-- R142: a lane that an operation reads as a number: a NaN leaves it as the canonical NaN. -/
def canonF32 (v : Nat) : Nat := if f32Num v = .nan then f32NaN else v

/-- A × B, rounded once. -/
def mulF32 (a b : Nat) : Nat × NFlags := withInvalid [f32Num a, f32Num b] (toF32 {} ((f32Num a).mul (f32Num b)))

/-- A + B, rounded once. -/
def addF32 (a b : Nat) : Nat × NFlags := withInvalid [f32Num a, f32Num b] (toF32 {} ((f32Num a).add (f32Num b)))

/-- R193: RELU. -/
def reluF32 (a : Nat) : Nat :=
  match f32Num a with
  | .nan => f32NaN
  | x => if x.isNeg || x.isZero then 0 else a

/-- R172, R192: the activation a code names, with its flags. -/
def actF32 (act a : Nat) : Nat × NFlags :=
  match act with
  | 1 => (reluF32 a, {})
  | 2 => RealFn.gelu.eval a
  | 3 => RealFn.silu.eval a
  | 4 => RealFn.sigmoid.eval a
  | 5 => RealFn.tanh.eval a
  | 6 => RealFn.softplus.eval a
  | _ => (a, {})

/-- R192, R193: the correctly rounded derivative of the activation a code names. -/
def derivF32 (act x : Nat) : Nat :=
  match act with
  | 1 =>
    match f32Num x with
    | .nan => f32NaN
    | n => if n.isNeg || n.isZero then 0 else f32One
  | 2 => (RealFn.dgelu.eval x).1
  | 3 => (RealFn.dsilu.eval x).1
  | 4 => (RealFn.dsigmoid.eval x).1
  | 5 => (RealFn.dtanh.eval x).1
  | _ => (RealFn.sigmoid.eval x).1

/-! ### Exact sums (R307) -/

/-- A binary32 code added exactly. -/
def Acc.add (x : Acc) (v : Nat) : Acc :=
  match f32Num v with
  | .nan => { x with nan := true }
  | .inf _ => { x with inf := true }
  | .fin neg m e => { x with sum := x.sum + scaledInt neg m e (-149) }

/-- Two exact sums added. -/
def Acc.plus (x y : Acc) : Acc := { sum := x.sum + y.sum, nan := x.nan || y.nan, inf := x.inf || y.inf }

/-- The number an exact sum stands for. -/
def Acc.num (x : Acc) : Num :=
  if x.nan then .nan else if x.inf then .inf false else .fin (decide (x.sum < 0)) x.sum.natAbs (-149)

/-- An exact sum rounded to binary32. -/
def Acc.f32 (x : Acc) : Nat := (toF32 {} x.num).1

/-- R307, R177: a NORM write: a deposit where its address lies in the accumulators of the step frame, which is discarded
while the partition is not OPEN; otherwise a write like any other. -/
def Core.normWrite (k : Core) (isOpen : Bool) (a v : Nat) : Core :=
  match k.stepFrame with
  | some f =>
    if 4096 * f ≤ a ∧ a < 4096 * f + 3072 then
      if isOpen then
        let i := (a - 4096 * f) / 4
        let x := (SMap.at' ({} : Acc) k.norms i).add v
        { k with
          norms := SMap.set (fun _ => {}) k.norms i x
          scratch := SMap.setList zeroByte k.scratch (4096 * f + 4 * i) (leBytes 4 x.f32) }
      else k
    else k.scrWrite .array a (leBytes 4 v)
  | none => k.scrWrite .array a (leBytes 4 v)

/-! ### Faults of the engines of a core -/

/-- R183, R207: an array or vector fault: its record's code, kind, slot or stage, DETAIL. -/
structure UnitFault where
  code : Nat
  kind : Nat
  place : Nat
  detail : Word
  deriving DecidableEq, Repr

/-- R183, R207: the record of an array or vector fault, and MXA_LAST_FAULT or VEC_LAST_FAULT. -/
def Device.logUnit (d : Device) (c : Nat) (it : QItem) (f : UnitFault) : Device :=
  let d := d.logPart (d.corePart c) f.code 3
    [wordOf (c % 256 + f.kind * 2 ^ 8 + (f.place % 256) * 2 ^ 16 + it.pc * 2 ^ 32), 0, f.detail, it.word] (c / 64)
  if f.code = 0x0801 then d.setReg (.mxaLastFault c) (wordOf (f.kind * 2 ^ 28 + f.place * 2 ^ 13 + it.pc))
  else d.setReg (.vecLastFault c) (wordOf (f.kind * 2 ^ 28 + (if f.place = 0xFF then 0 else f.place) * 2 ^ 13 + it.pc))

/-- R204, R173: an instruction ends: the item it was admitted with completes. -/
def Device.itemDone (d : Device) (c : Nat) (it : QItem) : Device :=
  match it.flow with
  | none => d
  | some w => { d with flowDone := d.flowDone ++ [(d.corePart c, w)] }

/-- The lowest set bit of a mask, below n. -/
def lowBit : Nat → Nat → Nat
  | 0, _ => 0
  | n + 1, m => if m % 2 = 1 then 0 else 1 + lowBit n (m / 2)

end Sys2Proof.Machine
end

