-- ==== Sys2Proof/Machine/Array.lean ====
section
/-! DEFINITION. The matrix array (chapter 08): what MMA, DRAIN and SLOT_CLEAR do, the array queue and the tile queue.
The instructions of one core take effect in program order (R170). -/

namespace Sys2Proof.Machine

/-- A core's accumulator slot (R168). -/
def Core.slot (k : Core) (s : Nat) : Slot := SMap.at' {} k.slots s

/-- The core with a slot set. -/
def Core.setSlot (k : Core) (s : Nat) (x : Slot) : Core := { k with slots := SMap.set (fun _ => {}) k.slots s x }

/-- R169: a slot becomes EMPTY, and an integer chain's shadows with it. -/
def Core.freeSlot (k : Core) (s : Nat) : Core :=
  let k' := if (k.slot s).mode = .integer then (k.setSlot (s + 1) {}).setSlot (s + 2) {} else k
  k'.setSlot s {}

/-- MXA_SLOT_STATE: the code of a slot's state. -/
def SlotMode.code : SlotMode → Nat
  | .empty => 0 | .float => 1 | .integer => 2 | .shadow => 3

/-- R168: the slot an array instruction names. -/
def slotNamed (it : QItem) : Nat :=
  let w := it.word
  let s := fieldOf w 37 31
  if bitOf w.toNat 42 then (fieldOf (it.s (fieldOf w 41 38)) 6 0 + s) % 128 else s

/-- An array fault of a kind. -/
def arrayFault (kind slot : Nat) (detail : Nat) : UnitFault := ⟨0x0801, kind, slot, wordOf detail⟩

/-! ### Products (R150, R152, R162, R164) -/

/-- R163: whether a pair of formats multiplies, and whether as integers. -/
def pairMode (a b : Nat) : Option Bool :=
  let f16 := fun (x : Nat) => x == 1 || x == 2
  let f8 := fun (x : Nat) => x == 3 || x == 4 || x == 5 || x == 6
  if (f16 a && f16 b) || (f8 a && f8 b) || (a == 7 && b == 7) then some false
  else if (a == 8 && b == 8) || (a == 9 && b == 9) then some true
  else none

/-- R141: the group size of a format. -/
def groupSize (fmt : Nat) : Nat := 64 / elemBits fmt

/-- A list cut into pieces of n. -/
def chunksOf {α : Type} (n : Nat) : Nat → List α → List (List α)
  | 0, _ => []
  | k + 1, l => l.take n :: chunksOf n k (l.drop n)

/-- One group of a row: its elements, and the block scale that it shares (1 where the format has none). -/
structure OpGroup where
  elems : List Num
  scale : Num
  deriving DecidableEq, Repr

/-- R162: the eight groups of a row of an operand tile at scratch byte a. -/
def rowGroups (m : SMap Byte) (fmt a r : Nat) : List OpGroup :=
  let w := elemBits fmt
  let g := groupSize fmt
  let bytes := scrBytes m (a + 64 * r) 64
  let codes := if w = 4 then bytes.flatMap fun b => [b.toNat % 16, b.toNat / 16]
    else (chunksOf (w / 8) (512 / w) bytes).map ofLeBytes
  ((chunksOf g 8 (codes.map (elemNum fmt))).zipIdx).map fun x =>
    { elems := x.1
      scale := if isMx fmt then e8m0 (scrNat m (sclAt (a / 4096) + r * mxRowScales fmt + x.2 * g / 32) 1)
        else .ofInt 1 }

/-- R150: a group sum of floats: the exact products added exactly, times the block scales, rounded once under RNE. -/
def groupSum (a b : OpGroup) : Nat × NFlags :=
  let total := (List.zipWith Num.mul a.elems b.elems).foldl Num.add .zero
  toF32 {} ((total.mul a.scale).mul b.scale)

/-- The integer a finite number without fraction stands for. -/
def Num.toInt : Num → Int
  | .fin neg m e => scaledInt neg m e 0
  | _ => 0

/-- R152: a group sum of integers. -/
def groupSumInt (a b : OpGroup) : Int :=
  (List.zipWith (fun (x y : Num) => x.toInt * y.toInt) a.elems b.elems).foldl (· + ·) 0

/-- R152: v shifted right arithmetically by k, with RNE on the bits shifted out. -/
def shiftRne (k : Nat) (v : Int) : Int :=
  if k = 0 then v
  else
    let q := v / 2 ^ k
    let rest := v % 2 ^ k
    let half : Int := 2 ^ (k - 1)
    if half < rest ∨ (rest = half ∧ q % 2 = 1) then q + 1 else q

/-- The least and the greatest value of a 32-bit accumulator. -/
def accMin : Int := -(2 ^ 31)
/-- The greatest value of a 32-bit accumulator. -/
def accMax : Int := 2 ^ 31 - 1

/-- A running value lies in the accumulator's range. -/
def inAcc (v : Int) : Bool := decide (accMin ≤ v) && decide (v ≤ accMax)

/-- R171: one group sum added to an integer cell, at group index g. -/
def Cell.addInt (x : Cell) (g : Nat) (v : Int) : Cell :=
  let v0 := x.i0 + v
  let v8 := x.i8 + shiftRne 8 v
  let v16 := x.i16 + shiftRne 16 v
  { x with
    i0 := v0
    i8 := v8
    left0 := x.left0 || !inAcc v0
    left8 := x.left8 || !inAcc v8
    i16 := if x.left16.isSome then x.i16 else max accMin (min accMax v16)
    left16 := if x.left16.isSome || inAcc v16 then x.left16 else some (g, decide (v16 < 0)) }

/-- R151: one group sum added to a float cell: the new value, and whether it overflowed. Overflow gives infinity. -/
def Cell.addFloat (x : Cell) (rnd : Rnd) (s : Nat × NFlags) : Cell × Bool :=
  let sum := (f32Num x.f.toNat).add (f32Num s.1)
  let r := toF32 rnd sum
  let r := if r.2.overflow then (signed fmtF32 sum.isNeg f32Inf, r.2) else r
  ({ x with f := BitVec.ofNat 32 r.1 }, s.2.overflow || r.2.overflow)

/-- R156, R320: what every draw of a core rests on: its partition's seed, and the step number of its program. -/
structure DrawKey where
  seed : Word
  step : Nat
  deriving DecidableEq, Repr

/-- R320: the step number that a core's program draws with: a program that started in an evaluation interval keeps the interval's. -/
def Device.coreStep (d : Device) (c : Nat) : Nat :=
  let now := d.curStep (d.corePart c)
  match (d.core c).job with
  | none => now
  | some (p, q, idx) =>
    match d.cmd? p q idx with
    | some x => if 2 ^ 31 ≤ x.stepNo then x.stepNo else now
    | none => now

/-- What the draws of a core rest on. -/
def Device.drawKey (d : Device) (c : Nat) : DrawKey := { seed := (d.part (d.corePart c)).seed, step := d.coreStep c }

/-- R165: the word a group draws for an output element. -/
def accWord (k : DrawKey) (x : Slot) (r n g : Nat) : Nat :=
  drawWord k.seed 3 x.tensor k.step (x.row + r) ((x.col + n) % 2 ^ 16 * 2 ^ 16) g

/-- R164, R167: what one MMA adds to a cell: the eight groups of its part, in ascending index. -/
def cellMma (k : DrawKey) (x : Slot) (integer : Bool) (r c : Nat) (as bs : List OpGroup) (cell : Cell) : Cell × Bool :=
  let f := 2 ^ x.fold
  let j := c / (64 / f)
  let n := c % (64 / f)
  ((as.zip bs).zipIdx).foldl (fun (acc : Cell × Bool) (y : (OpGroup × OpGroup) × Nat) =>
    let g := 8 * (f * x.n + j) + y.2
    if integer then (acc.1.addInt g (groupSumInt y.1.1 y.1.2), acc.2)
    else
      let rnd : Rnd := ⟨x.round, if x.round = 2 then accWord k x r n g else 0⟩
      let z := acc.1.addFloat rnd (groupSum y.1.1 y.1.2)
      (z.1, acc.2 || z.2)) (cell, false)

/-- R162, R164, R167: a slot after one MMA from the operand tiles at a and b, in formats fa and fb. -/
def Slot.accumulate (k : DrawKey) (m : SMap Byte) (x : Slot) (fas : List Nat) (fb a b : Nat) : Slot :=
  let f := 2 ^ x.fold
  let integer := x.mode == .integer
  let aRows := (List.range f).map fun j => (List.range 64).map fun r => rowGroups m (fas.getD j 0) (a + 4096 * j) r
  let bRows := (List.range 64).map fun c => rowGroups m fb b c
  let cells := if x.cells = [] then List.replicate 4096 ({} : Cell) else x.cells
  let out := (List.range 64).flatMap fun r =>
    (bRows.zipIdx).map fun y =>
      cellMma k x integer r y.2 (((aRows.getD (y.2 / (64 / f)) []).getD r [])) y.1 (cells.getD (64 * r + y.2) {})
  { x with cells := out.map Prod.fst, overflowed := x.overflowed || out.any Prod.snd, n := x.n + 1 }

/-! ### MMA (R162 to R172) -/

/-- R169: a slot state in a fault's DETAIL. -/
def slotFault (k : Core) (s : Nat) : UnitFault := arrayFault 2 s (k.slot s).mode.code

/-- R172: the lowest bit of the first field of an MMA, in the order of its encoding, that is not among those given; ROUND where its
operands make a float chain. -/
def mmaField (w : Word) (float : Bool) : Option Nat :=
  if fieldOf w 47 46 = 3 then some 46
  else if float = true ∧ fieldOf w 44 43 = 3 then some 43
  else if fieldOf w 26 0 ≠ 0 then some (lowBit 27 (fieldOf w 26 0))
  else none

/-- R163, R172, R183: what is wrong with the operands of an MMA before its chain is looked at. -/
def mmaOperands (m : SMap Byte) (f a b : Nat) (s : Nat) : Option UnitFault :=
  if a % 4096 ≠ 0 ∨ scratchSize < a + 4096 * f then some (arrayFault 5 s a)
  else if b % 4096 ≠ 0 ∨ scratchSize < b + 4096 then some (arrayFault 5 s b)
  else
    let fb := hdrFmt m (b / 4096)
    let pairs := (List.range f).map fun j => (hdrFmt m (a / 4096 + j), hdrDense m (a / 4096 + j))
    match pairs.find? fun x => (pairMode x.1 fb).isNone || pairMode x.1 fb != pairMode (pairs.headD (0, false)).1 fb with
    | some x => some (arrayFault 1 s (x.1 + 16 * fb))
    | none =>
      match pairs.find? fun x => !x.2 with
      | some x => some (arrayFault 1 s (x.1 + 16 * fb))
      | none => if hdrDense m (b / 4096) then none else some (arrayFault 1 s ((pairs.headD (0, false)).1 + 16 * fb + 256))

/-- R168, R169: the chain an MMA runs into: the core with it opened where START is set, or the fault. -/
def mmaChain (k : Core) (it : QItem) (integer : Bool) (m : SMap Byte) (a b : Nat) : Except UnitFault Core :=
  let w := it.word
  let s := slotNamed it
  let x := k.slot s
  let start := bitOf w.toNat 45
  let fold := fieldOf w 47 46
  if x.mode = .shadow ∨ (x.mode = .empty ∧ start = false) then .error (slotFault k s)
  else if start then
    let k' := k.freeSlot s
    if integer = true ∧ ¬(s % 4 = 0 ∧ (k'.slot (s + 1)).mode = .empty ∧ (k'.slot (s + 2)).mode = .empty) then
      .error (slotFault k s)
    else
      let ids := fieldOf w 30 27
      let y : Slot :=
        { mode := if integer then .integer else .float
          fold := fold
          round := fieldOf w 44 43
          tensor := fieldOf (it.s ids) 31 0
          row := fieldOf (it.s (ids + 1)) 63 32
          col := fieldOf (it.s (ids + 1)) 31 0
          sA := BitVec.ofNat 32 (hdrScale m (a / 4096))
          sB := BitVec.ofNat 32 (hdrScale m (b / 4096)) }
      let k'' := k'.setSlot s y
      .ok (if integer then (k''.setSlot (s + 1) { mode := .shadow }).setSlot (s + 2) { mode := .shadow } else k'')
  else if x.fold ≠ fold ∨ (x.mode = .integer) ≠ (integer = true) ∨ (integer = false ∧ x.round ≠ fieldOf w 44 43) then
    .error (slotFault k s)
  else .ok k

/-- R145, R183: an operand tile's scale differs from the chain's. -/
def mmaScales (m : SMap Byte) (x : Slot) (f a b s : Nat) : Option UnitFault :=
  let bad := fun (want found : Nat) => if want = found then none else some (arrayFault 3 s (want + found * 2 ^ 32))
  match (List.range f).findSome? fun j => bad x.sA.toNat (hdrScale m (a / 4096 + j)) with
  | some e => some e
  | none => bad x.sB.toNat (hdrScale m (b / 4096))

/-- R165: the logical index limits of a float chain under SR. -/
def mmaLimits (x : Slot) (s : Nat) : Option UnitFault :=
  let f := 2 ^ x.fold
  if x.mode = .float ∧ x.round = 2 then
    if 262143 < 8 * (f * x.n + f - 1) + 7 then some (arrayFault 4 s (max 262144 (8 * f * x.n)))
    else if 65536 ≤ x.col + 64 / f - 1 then some (arrayFault 4 s (8 * f * x.n))
    else none
  else none

/-- R181: how long without an MMA a core's array is before its next one begins a ramp, in ns. -/
def Device.rampIdle (d : Device) (c : Nat) : Nat := 1000 * clampTo 1 100 (d.fld (.mxaCfg c) Fd.mxaCfgRampIdleUs)

/-- R48, R181: an MMA's 8 beats in the activity ramp of its core's array, which its first work after the core reaches ON begins, and its
first MMA after RAMP_IDLE_US without one (by the machine counter: DESIGN CHOICE, log entry 16). -/
def Core.rampMma (k : Core) (now : Word) (idle : Nat) : Core :=
  let done := if k.rampDue || k.lastMma.any (fun t => decide (idle ≤ (now - t).toNat)) then some 0 else k.ramp
  { k with ramp := done.bind fun b => if b + 8 < 32 then some (b + 8) else none, rampDue := false, lastMma := some now }

/-- R186: RAMP_STEP of a core: which of the 8 steps of 4 beats its ramp is in, 0 where none runs. -/
def Core.rampStep (k : Core) : Nat := (k.ramp.map fun b => b / 4 + 1).getD 0

/-- R162 to R172: one MMA, or its fault. -/
def Device.mma (d : Device) (c : Nat) (it : QItem) : Device × Option UnitFault :=
  let k := d.core c
  let m := k.view .array d.free
  let w := it.word
  let s := slotNamed it
  let a := (it.s (fieldOf w 55 52)).toNat
  let b := (it.s (fieldOf w 51 48)).toNat
  let f := 2 ^ fieldOf w 47 46
  match mmaField w (pairMode (hdrFmt m (a / 4096)) (hdrFmt m (b / 4096)) == some false) with
  | some bit => (d, some (arrayFault 7 s bit))
  | none =>
    if bitOf w.toNat 45 = true ∧ fieldOf w 30 27 = 15 then (d, some (arrayFault 4 s 0))
    else
      match mmaOperands m f a b s with
      | some e => (d, some e)
      | none =>
        let fb := hdrFmt m (b / 4096)
        let fas := (List.range f).map fun j => hdrFmt m (a / 4096 + j)
        let integer := pairMode (fas.headD 0) fb == some true
        match mmaChain k it integer m a b with
        | .error e => (d, some e)
        | .ok k =>
          match mmaScales m (k.slot s) f a b s, mmaLimits (k.slot s) s with
          | some e, _ => (d, some e)
          | none, some e => (d, some e)
          | none, none =>
            let x := (k.slot s).accumulate (d.drawKey c) m fas fb a b
            ((({ d with free := d.free + 1 }).setCore c ((k.setSlot s x).rampMma d.now (d.rampIdle c))).bump (.pwrCoreBeats c) Fd.pwrCoreBeatsArrayBeats 8,
              none)

/-! ### DRAIN (R174 to R178) -/

/-- What a drain's fields say. -/
structure DrainOp where
  dest : Nat
  fmt : Nat
  round : Nat
  sat : Bool
  slot : Nat
  act : Nat
  deriv : Bool
  bias : Bool
  colScale : Bool
  aux : Nat
  oscale : Bool
  norm : Bool
  keep : Bool
  deriving DecidableEq, Repr

/-- R172: the fields of a DRAIN. -/
def drainOp (it : QItem) : DrainOp :=
  let w := it.word
  let b := fun (i : Nat) => bitOf w.toNat i
  { dest := fieldOf w 51 50, fmt := fieldOf w 49 46, round := fieldOf w 45 44, sat := b 43, slot := slotNamed it,
    act := fieldOf w 30 27, deriv := b 26, bias := b 25, colScale := b 24, aux := fieldOf w 23 20, oscale := b 15,
    norm := b 14, keep := b 4 }

/-- R172, R174, R175: the lowest bit of the first field of a DRAIN that its slot does not permit. -/
def drainField (w : Word) (o : DrainOp) (x : Slot) : Option Nat :=
  if o.dest = 3 then some 50
  else if 0xA < o.fmt ∨ (o.fmt = 0xA ∧ (x.mode ≠ .integer ∨ o.colScale ∨ o.bias ∨ o.act ≠ 0 ∨ o.deriv ∨ o.oscale)) ∨
      (isMx o.fmt = true ∧ x.fold = 2) then some 46
  else if o.round = 3 then some 44
  else if 7 ≤ o.act then some 27
  else if o.deriv = true ∧ o.act = 0 then some 26
  else if (o.bias || o.colScale || o.deriv) = true ∧ o.aux = 15 then some 20
  else if fieldOf w 3 0 ≠ 0 then some (lowBit 4 (fieldOf w 3 0))
  else none

/-- R176: a scratch destination for rows of so many columns of a format. -/
def destOk (fmt cols dest : Nat) : Bool :=
  destAligned fmt cols dest && decide (dest / 4096 * 4096 + 4096 * tileFrames fmt cols ≤ scratchSize)

/-- R172, R174, R176, R177: the scratch addresses a DRAIN uses, and the headers of the derivative input's frames, the first of
which gives its layout (DEDUCED, log entry 110). -/
def drainAddr (m : SMap Byte) (it : QItem) (o : DrainOp) (cols : Nat) : Option UnitFault :=
  let w := it.word
  let dest := (it.s (fieldOf w 55 52)).toNat
  let base := (it.s o.aux).toNat
  let dbase := (it.s (o.aux + 1)).toNat
  let na := (it.s (fieldOf w 13 10)).toNat
  if 1 ≤ o.dest ∧ destOk o.fmt cols dest = false then some (arrayFault 5 o.slot dest)
  else if (o.bias ∨ o.colScale) ∧ (base % 256 ≠ 0 ∨ scratchSize < base + (if o.colScale then 256 else 0) + 4 * cols) then
    some (arrayFault 5 o.slot base)
  else if o.norm = true ∧ (na % 4 ≠ 0 ∨ scratchSize < na + 4) then some (arrayFault 5 o.slot na)
  else if o.deriv then
    if dbase % 32 ≠ 0 ∨ scratchSize ≤ dbase then some (arrayFault 5 o.slot dbase)
    else
      let f := hdrFmt m (dbase / 4096)
      let bad := fun (i : Nat) => decide (7 < hdrFmt m i) || !hdrDense m i
      if bad (dbase / 4096) then some (arrayFault 1 o.slot (f + 512))
      else if destOk f cols dbase = false then some (arrayFault 5 o.slot dbase)
      else
        (((List.range (tileFrames f cols)).map fun i => dbase / 4096 + i).find? bad).map fun i =>
          arrayFault 1 o.slot (hdrFmt m i + 512)
  else none

/-- R172, R183: what stops a DRAIN before it takes a credit. -/
def drainFault (k : Core) (m : SMap Byte) (it : QItem) : Option UnitFault :=
  let o := drainOp it
  let x := k.slot o.slot
  if x.mode = .shadow then some (slotFault k o.slot)
  else
    match drainField it.word o x with
    | some bit => some (arrayFault 7 o.slot bit)
    | none =>
      if x.mode = .empty then some (arrayFault 6 o.slot 0)
      else drainAddr m it o (64 / 2 ^ x.fold)

/-- R164, R171: the combination of an integer element's parts at a shift, its parts in ascending order. -/
def combineInt (cells : List Cell) (val : Cell → Int) : Int := (cells.map val).foldl (· + ·) 0

/-- The cells of output element (r, n) of a slot, by part. -/
def Slot.partsOf (x : Slot) (r n : Nat) : List Cell :=
  (List.range (2 ^ x.fold)).map fun j => x.cells.getD (64 * r + j * (64 / 2 ^ x.fold) + n) {}

/-- R171 step 4: the element's first limit left at shift 16, by ascending group index; whether it is the lower. -/
def firstLeft (cells : List Cell) : Option (Nat × Bool) :=
  cells.foldl (fun (best : Option (Nat × Bool)) (c : Cell) =>
    match best, c.left16 with
    | none, y => y
    | some b, some y => if y.1 < b.1 then some y else some b
    | some b, none => some b) none

/-- R171: an integer slot drained: the shift, each element, and which elements count as saturated. -/
def Slot.drainInts (x : Slot) : Nat × List (Int × Bool) :=
  let cols := 64 / 2 ^ x.fold
  let elems := (List.range 64).flatMap fun r => (List.range cols).map fun n => x.partsOf r n
  let at0 := elems.map fun cs => combineInt cs (·.i0)
  let at8 := elems.map fun cs => combineInt cs (·.i8)
  if !(elems.any fun cs => cs.any (·.left0)) && at0.all inAcc then (0, at0.map fun v => (v, false))
  else if !(elems.any fun cs => cs.any (·.left8)) && at8.all inAcc then (8, at8.map fun v => (v, false))
  else
    (16, elems.map fun cs =>
      match firstLeft cs with
      | some (_, low) => (if low then accMin else accMax, true)
      | none =>
        let v := combineInt cs (·.i16)
        if inAcc v then (v, false) else (if v < 0 then accMin else accMax, true))

/-- R164: a float element of a slot drained: part 0, then each further part added with one RNE rounding. -/
def combineFloat (cells : List Cell) : Nat :=
  match cells with
  | [] => 0
  | c :: cs => cs.foldl (fun v x => (addF32 v x.f.toNat).1) c.f.toNat

/-- R174 steps 2 to 7 on one element; x is the derivative input's element. -/
def drainSteps (o : DrainOp) (t : Nat) (cs bias x : Option Nat) (oscale : Nat) (v : Nat) : Nat :=
  let v := (mulF32 v t).1
  let v := match cs with
    | some y => (mulF32 v y).1
    | none => v
  let v := match bias with
    | some y => (addF32 v y).1
    | none => v
  let v := match x with
    | some y => (mulF32 v (derivF32 o.act y)).1
    | none => (actF32 o.act v).1
  if o.oscale then (mulF32 v oscale).1 else v

/-- R165, R174 step 8: the word a conversion draws for a logical element. -/
def convWord (k : DrawKey) (tensor row col : Nat) : Nat :=
  drawWord k.seed 4 tensor k.step row (col / 4) (col % 4)

/-- The rounding of one converted element (R146, R147). -/
def convRnd (k : DrawKey) (round tensor row col : Nat) : Rnd :=
  ⟨round, if round = 2 then convWord k tensor row col else 0⟩

/-- R146 to R149: one row of numbers converted to a format: its block scales, and each element's code and flags. rs
gives each element's rounding. -/
def convertRow (fmt : Nat) (sat : Bool) (rs : List Rnd) (xs : List Num) : List Nat × List (Nat × NFlags) :=
  if isMx fmt then
    let n := xs.length / 32
    let blocks := (chunksOf 32 n xs).zip (chunksOf 32 n rs)
    let qs := blocks.map fun b => quantBlock fmt b.2 b.1
    (qs.map Prod.fst, qs.flatMap Prod.snd)
  else ([], (xs.zip rs).map fun x => convert fmt sat x.2 x.1)

/-- The number an output value stands for once it is in its format, with its block scale (R177). -/
def rowNums (fmt : Nat) (scales : List Nat) (codes : List Nat) : List Num :=
  codes.zipIdx.map fun x =>
    let v := elemNum fmt x.1
    if isMx fmt then v.mul (e8m0 (scales.getD (x.2 / 32) 0)) else v

/-- R177: the sum of squares of an output: each square rounded, added along each row and then row by row. -/
def normSum (rows : List (List Nat)) : Nat :=
  let rowSums := rows.map fun r => (r.map fun v => (mulF32 v v).1).foldl (fun a v => (addF32 a v).1) 0
  rowSums.foldl (fun a v => (addF32 a v).1) 0

/-- A drained tile: its header scale, its rows of codes, its block scales, its flags of R178 and how many elements
saturated. -/
structure Drained where
  scale : Nat
  rows : List (List Nat)
  scales : List (List Nat)
  flags : NFlags
  saturated : Nat
  shift : Nat
  norm : Nat
  deriving DecidableEq, Repr

/-- R174 to R178: what a drain makes of its slot. -/
def drainTile (k : DrawKey) (m : SMap Byte) (it : QItem) (x : Slot) : Drained :=
  let o := drainOp it
  let w := it.word
  let cols := 64 / 2 ^ x.fold
  let ints := x.drainInts
  let integer := x.mode == .integer
  let shift := if integer then ints.1 else 0
  let satInts := if integer then ints.2 else []
  let allLeft := satInts.any Prod.snd
  let t := (toF32 {} ((f32Num (mulF32 x.sA.toNat x.sB.toNat).1).scale shift)).1
  let chain : NFlags :=
    if integer then { saturate := allLeft, overflow := allLeft } else { overflow := x.overflowed }
  if o.fmt = 0xA then
    let rows := chunksOf cols 64 (satInts.map fun v => natOfInt 32 v.1)
    { scale := t, rows := rows, scales := [], flags := chain, saturated := (satInts.filter Prod.snd).length, shift := shift
      norm := normSum (rows.map fun r => r.map fun v => (toF32 {} (.ofInt (intOf 32 v))).1) }
  else
    let base := (it.s o.aux).toNat
    let dbase := (it.s (o.aux + 1)).toNat
    let dfmt := hdrFmt m (dbase / 4096)
    let sc := it.s (fieldOf w 19 16)
    let conv := (List.range 64).map fun r =>
      let vs := (List.range cols).map fun n =>
        let v := if integer then (toF32 {} (.ofInt (ints.2.getD (r * cols + n) (0, false)).1)).1
          else combineFloat (x.partsOf r n)
        let din := if o.deriv then
            some (toF32 {} (tileNum m dfmt dbase r n)).1
          else none
        drainSteps o t (if o.colScale then some (scrNat m (base + 256 + 4 * n) 4) else none)
          (if o.bias then some (scrNat m (base + 4 * n) 4) else none) din (fieldOf sc 31 0) v
      convertRow o.fmt o.sat ((List.range cols).map fun n => convRnd k o.round x.tensor (x.row + r) (x.col + n))
        (vs.map f32Num)
    let fl := NFlags.all (conv.flatMap fun r => r.2.map Prod.snd)
    let sats := (conv.flatMap fun r => r.2.map fun (e : Nat × NFlags) => e.2.saturate).zipIdx.filter fun e =>
      e.1 || (satInts.getD e.2 (0, false)).2
    let hs := fieldOf sc 63 32
    { scale := if o.oscale ∧ hs ≠ 0 then hs else f32One
      rows := conv.map fun r => r.2.map Prod.fst
      scales := conv.map Prod.fst
      flags := chain.or fl
      saturated := sats.length
      shift := shift
      norm := normSum (conv.map fun r => (rowNums o.fmt r.1 (r.2.map Prod.fst)).map fun n => (toF32 {} n).1) }

/-- R178: the bits a drain's flags set in MXA_FLAGS. -/
def NFlags.arrayBits (f : NFlags) : Nat := ofBool f.inexact + 2 * ofBool f.invalid + 4 * ofBool f.saturate + 8 * ofBool f.overflow

/-- R172 to R179: one DRAIN that has its credit. -/
def Device.drain (d : Device) (c : Nat) (it : QItem) : Device :=
  let k := d.core c
  let m := k.view .array d.free
  let o := drainOp it
  let x := k.slot o.slot
  let cols := 64 / 2 ^ x.fold
  let y := drainTile (d.drawKey c) m it x
  let dest := (it.s (fieldOf it.word 55 52)).toNat
  let k := if 1 ≤ o.dest then
      (List.range (tileFrames o.fmt cols)).foldl (fun (k : Core) i => k.setHdr .array (dest / 4096 + i) o.fmt y.scale)
        (k.writeTile .array dest o.fmt cols y.rows y.scales)
    else k
  let isOpen := d.fld (.cisPartStep (d.corePart c)) Fd.cisPartStepState == 2
  let k := if o.norm then k.normWrite isOpen (it.s (fieldOf it.word 13 10)).toNat y.norm else k
  let k := if o.dest ≠ 1 then
      { k with tq := k.tq ++ [{ fmt := o.fmt, scale := BitVec.ofNat 32 y.scale, flags := y.flags.arrayBits
                                tensor := x.tensor, row := x.row, col := x.col, cols := cols
                                codes := (y.rows.flatMap id).map (BitVec.ofNat 32)
                                scales := (y.scales.flatMap id).map (BitVec.ofNat 8) }] }
    else k
  let k := if o.keep then k else k.freeSlot o.slot
  let d := ({ d with free := d.free + 1 }).setCore c k
  let d := d.setReg (.mxaFlags c) (d.reg (.mxaFlags c) ||| wordOf y.flags.arrayBits)
  let d := d.bump (.mxaSatCount c) Fd.mxaSatCountSaturated y.saturated
  let p := d.corePart c
  let d := if o.fmt = 0x2 ∧ o.oscale = true ∧ fieldOf (it.s (fieldOf it.word 19 16)) 31 0 =
        (127 + (d.part p).scaleExp) * 2 ^ 23 then
      d.bump (.cisPartSat p) Fd.cisPartSatGradSat y.saturated
    else d
  let d := if y.shift = 8 then d.bump (.mxaRepeats c) Fd.mxaRepeatsShift8
    else if y.shift = 16 then d.bump (.mxaRepeats c) Fd.mxaRepeatsShift16 else d
  d.itemDone c it

/-! ### SLOT_CLEAR and the queue -/

/-- R169, R172: SLOT_CLEAR. -/
def Device.slotClear (d : Device) (c : Nat) (it : QItem) : Device × Option UnitFault :=
  let k := d.core c
  let s := slotNamed it
  let others := it.word.toNat &&& (2 ^ 56 - 1 - (2 ^ 43 - 2 ^ 31))
  if others ≠ 0 then (d, some (arrayFault 7 s (lowBit 56 others)))
  else if (k.slot s).mode = .shadow then (d, some (slotFault k s))
  else (d.setCore c (k.freeSlot s), none)

/-- R179: an issued array instruction needs a tile-queue credit that is not free. -/
def Device.lacksCredit (d : Device) (c : Nat) (it : QItem) : Bool :=
  let k := d.core c
  fieldOf it.word 63 56 == 0x11 && fieldOf it.word 51 50 != 1 && decide (8 ≤ k.tq.length) &&
  (drainFault k (k.view .array d.free) it).isNone

/-- One issued array instruction takes effect. -/
def Device.arrayRun (d : Device) (c : Nat) (it : QItem) : Device × Option UnitFault :=
  match fieldOf it.word 63 56 with
  | 0x10 => d.mma c it
  | 0x11 =>
    match drainFault (d.core c) ((d.core c).view .array d.free) it with
    | some e => (d.itemDone c it, some e)
    | none => (d.drain c it, none)
  | _ => d.slotClear c it

/-- R170, R179: the array queue goes on until it is empty, a DRAIN waits for a credit, or an instruction faults. Gives
back the fault with its instruction. -/
def Device.arrayPump (c : Nat) : Nat → Device → Device × Option (QItem × UnitFault)
  | 0, d => (d, none)
  | fuel + 1, d =>
    match (d.core c).aq with
    | [] => (d, none)
    | it :: rest =>
      if d.lacksCredit c it then (d, none)
      else
        match (d.updCore c fun k => { k with aq := rest }).arrayRun c it with
        | (d, none) => Device.arrayPump c fuel d
        | (d, some e) => (d, some (it, e))

/-- R172: opcode 0x13's bits below 56 are zero. -/
def arraySyncField (w : Word) : Option Nat := if fieldOf w 55 0 = 0 then none else some (lowBit 56 (fieldOf w 55 0))

end Sys2Proof.Machine
end

