-- ==== Sys2Proof/Machine/Pools.lean ====
section
/-! DEFINITION. The Cistern's map and capacity (R310 to R314), the pools firmware places objects in (R379), bound tables
and the epochs a step binds (R252, R320). -/

namespace Sys2Proof.Machine

/-! ### Tables and bindings -/

/-- A bound table of a partition (R385). -/
def Device.table (d : Device) (p h : Nat) : Option Table := SMap.at' none (d.part p).tables h

/-- The device with a table set, or unbound. -/
def Device.setTable (d : Device) (p h : Nat) (t : Option Table) : Device :=
  d.updPart p fun x => { x with tables := SMap.set (fun _ => none) x.tables h t }

/-- The handles of a partition's bound tables. -/
def Part.handles (x : Part) : List Nat := SMap.keys x.tables

/-- R252: the epoch of a table under a binding; 0 for none. -/
def Part.epochOf (x : Part) (gen h : Nat) : Nat := SMap.at' 0 (SMap.at' [] x.binds gen) h

/-- R251: ROW_BYTES. -/
def Table.rowBytes (t : Table) : Nat := 64 * 2 ^ t.rowLog2

/-- R251: rows in a tile. -/
def Table.rowsPerTile (t : Table) : Nat := 4096 / t.rowBytes

/-- R251: rows in a range. -/
def Table.rowsPerUnit (t : Table) : Nat := 512 * t.rowsPerTile

/-- R378: how many units a table has. -/
def Table.unitCount (t : Table) : Nat :=
  let per := if t.graph then 16384 else t.rowsPerUnit
  (t.n + per - 1) / per

/-- R268: the bytes of the log entries of a table: a 16-byte key and the row widened to binary32. -/
def Table.entryBytes (t : Table) : Nat := 16 + 4 * (t.rowBytes * 8 / elemBits t.fmt)

/-- R251: how many tiles a range has. -/
def Table.rangeTiles (t : Table) (u : Nat) : Nat :=
  let rows := min t.rowsPerUnit (t.n - u * t.rowsPerUnit)
  (rows + t.rowsPerTile - 1) / t.rowsPerTile

/-- The map entry of a unit at an epoch. -/
def Table.unitAt (t : Table) (epoch u : Nat) : UnitMap := SMap.at' {} (SMap.at' [] t.versions epoch) u

/-- The table with the map entry of a unit at an epoch set. -/
def Table.setUnit (t : Table) (epoch u : Nat) (m : UnitMap) : Table :=
  { t with versions := SMap.upd [] t.versions epoch fun v => SMap.set (fun _ => {}) v u m }

/-- R341: the units of a checkpoint that it has not yet written out. -/
def Snapshot.unwritten (s : Snapshot) : List Nat := s.units.drop s.done

/-! ### Segments of the Cistern -/

/-- Segment i of a partition. -/
def Part.seg (x : Part) (i : Nat) : Segment := SMap.at' {} x.segs i

/-- The partition with a segment changed. -/
def Part.setSeg (x : Part) (i : Nat) (s : Segment) : Part := { x with segs := SMap.set (fun _ => {}) x.segs i s }

/-- Pieces a segment holds on a die. -/
def Segment.held (s : Segment) (die : Nat) : Nat :=
  ((s.entries.filter fun e => e.die == die).map (·.len)).foldl (· + ·) 0

/-- The end of a segment's top entry, in pieces. -/
def Segment.top (s : Segment) : Nat :=
  match s.entries.getLast? with
  | none => 0
  | some e => e.off + e.len

/-- R313: what the open segments of a partition cover on a die: the greater of reservation and pieces held, for each. -/
def Part.covered (x : Part) (die : Nat) : Nat :=
  ((x.segs.filter fun s => s.2.isOpen).map fun s => max (if bitOf s.2.dies die then s.2.reserve else 0) (s.2.held die)).foldl (· + ·) 0

/-- CIS_PART_CFG.NEAR_CAP in pieces (R313). -/
def Device.nearCap (d : Device) (die p : Nat) : Nat := 1024 * min 512 (d.fld (.cisPartCfg die p) Fd.cisPartCfgNearCap)

/-- CIS_PART_CFG.FAR_CAP in pieces (R313). -/
def Device.farCap (d : Device) (die p : Nat) : Nat := 1024 * min 4096 (d.fld (.cisPartCfg die p) Fd.cisPartCfgFarCap)

/-- R313: a die's capacity in pieces. -/
def Device.pieceCap (d : Device) (die p : Nat) : Nat := d.nearCap die p + d.farCap die p

/-- The Cistern window of a partition is configured. -/
def Device.cisOn (d : Device) (p : Nat) : Bool := d.flag (.cisPartWindow p) Fd.cisPartWindowConfigured

/-- SEG_LOG2 of a partition's window. -/
def Device.segLog2 (d : Device) (p : Nat) : Nat := d.fld (.cisPartWindow p) Fd.cisPartWindowSegLog2

/-- DEPTH of a partition's window. -/
def Device.cisDepth (d : Device) (p : Nat) : Nat := d.fld (.cisPartWindow p) Fd.cisPartWindowDepth

/-- The first DVA of a partition's window. -/
def Device.cisBase (d : Device) (p : Nat) : Nat := d.fld (.cisPartWindow p) Fd.cisPartWindowBase * 2 ^ 26

/-- R310: the segment of a micro-batch. -/
def Device.segOf (d : Device) (p mb : Nat) : Nat := mb % max 1 (d.cisDepth p)

/-- R310: the first DVA of a segment. -/
def Device.segBase (d : Device) (p i : Nat) : Nat := d.cisBase p + i * 2 ^ d.segLog2 p

/-- R310: the chip offset of a DVA inside the Cistern window, where its piece is backed; none for a DVA outside it. -/
def Device.cisternAt (d : Device) (p dva : Nat) : Option (Option Nat) :=
  if d.cisOn p = true ∧ d.cisBase p ≤ dva ∧ dva < d.cisBase p + d.cisDepth p * 2 ^ d.segLog2 p then
    let r := dva - d.cisBase p
    let s := (d.part p).seg (r / 2 ^ d.segLog2 p)
    let k := r % 2 ^ d.segLog2 p / 65536
    some (match s.entries.find? fun e => decide (e.off ≤ k) && decide (k < e.off + e.len) with
      | none => none
      | some e => (e.pieces[k - e.off]?).map fun o => o + dva % 65536)
  else none

/-- A number of pieces of 64 KiB in MiB, rounded up. -/
def piecesMib (n : Nat) : Nat := (n + 15) / 16

/-- The pieces a partition holds on a die, in near memory or in far memory. -/
def Part.piecesOn (x : Part) (die : Nat) (far : Bool) : List Nat :=
  x.segs.flatMap fun s => s.2.entries.flatMap fun e =>
    if e.die = die then e.pieces.filter fun o => far == decide (2 ^ 40 ≤ o) else []

/-- CIS_PART_USE and CIS_PART_TOP show what the segments hold (R326). -/
def Device.showCistern (d : Device) (p : Nat) : Device :=
  let x := d.part p
  let tops := (List.range 8).map fun i =>
    let s := x.seg i
    if s.isOpen && !s.entries.isEmpty then s.entries.length - 1 else 0xFF
  let d := d.setReg (.cisPartTop p) (wordOf (ofLeBytes (tops.map (BitVec.ofNat 8))))
  (List.range 4).foldl (fun (d : Device) die =>
    ((d.setFld (.cisPartUse die p) Fd.cisPartUseNearMib (piecesMib (x.piecesOn die false).length)).setFld (.cisPartUse die p)
      Fd.cisPartUseFarMib (piecesMib (x.piecesOn die true).length)).setFld (.cisPartUse die p) Fd.cisPartUseReservedMib
        (piecesMib (x.covered die))) d

/-! ### Pools (R379) -/

/-- The range of offsets of a partition's near or far pool on a die: first offset and length. -/
def Device.pool (d : Device) (p die : Nat) (far : Bool) : Nat × Nat :=
  if far then (d.fld (.plcPoolFar p die) Fd.plcPoolFarBase * 2 ^ 26, d.fld (.plcPoolFar p die) Fd.plcPoolFarSize * 2 ^ 26)
  else (d.fld (.plcPoolNear p die) Fd.plcPoolNearBase * 2 ^ 26, d.fld (.plcPoolNear p die) Fd.plcPoolNearSize * 2 ^ 26)

/-- R251, R218: the storage of a unit of so many tiles; an MX unit's scale records follow its tiles. -/
def Table.unitSize (t : Table) (tiles : Nat) : Nat := 4096 * tiles + (if isMx t.fmt then 256 * tiles else 0)

/-- The storage of a partition's table units on this chip: offset and length. -/
def Device.unitRanges (d : Device) (p : Nat) : List (Nat × Nat) :=
  let c := d.chip
  let x := d.part p
  (x.tables.flatMap fun t =>
    match t.2 with
    | none => []
    | some t => t.versions.flatMap fun v => (v.2.filter fun u => u.2.valid && u.2.copies.contains c).map fun u =>
        (u.2.offset, t.unitSize u.2.tiles)) ++
  (x.tables.flatMap fun t =>
    match t.2 with
    | none => []
    | some t => t.maps.map fun m => (m.2, (32 * t.unitCount + 4095) / 4096 * 4096)) ++
  ((x.moves.filter fun m => m.dst == c).map fun m =>
    (m.offset, ((d.table p m.handle).map fun t => t.unitSize (t.unitAt t.current m.unit).tiles).getD 0)) ++ x.leaving

/-- R387: the storage that other members have offered, in a publish, for the copies of their units on this chip. -/
def Device.offerRanges (d : Device) (p : Nat) : List (Nat × Nat) :=
  (d.part p).confirms.flatMap fun e =>
    match d.table p e.2.1 with
    | none => []
    | some t =>
      if e.2.2.epoch = t.current + 1 ∧ t.publish.isSome = true ∧ e.2.2.offered = true then
        (e.2.2.units.filter fun x => (t.unitAt t.current x.1).copies.contains d.chip).map fun x => (x.2.1, t.unitSize x.2.2)
      else []

/-- R268: the range of a partition's contribution log on a die. -/
def Device.logRange (d : Device) (p die : Nat) : Nat × Nat :=
  (d.fld (.gthPartLog die p) Fd.gthPartLogBase * 2 ^ 24, d.fld (.gthPartLog die p) Fd.gthPartLogSize * 2 ^ 24)

/-- R268: the size of a partition's contribution log on a die, in units of 16 MiB, from the contributions declared for its
tables. -/
def Device.logSize (d : Device) (p : Nat) : Nat :=
  let bytes := ((d.part p).tables.map fun t =>
    match t.2 with
    | none => 0
    | some t => if t.graph then 0 else 4096 * t.contribMax * t.entryBytes).foldl (· + ·) 0
  (bytes + 2 ^ 24 - 1) / 2 ^ 24

/-- What a partition holds of pools on this chip. -/
def Device.takenBy (d : Device) (p : Nat) : List (Nat × Nat) :=
  let x := d.part p
  (x.segs.flatMap fun s => s.2.entries.flatMap fun e => e.pieces.map fun o => (o, 65536)) ++ d.unitRanges p ++ d.offerRanges p ++
  (List.range 4).map fun die => d.logRange p die

/-- What is held of the chip's pools. A partition may hold storage of another's pool: suspended memory that has passed to it keeps
its pool space (R406). -/
def Device.taken (d : Device) : List (Nat × Nat) := (List.range 8).flatMap d.takenBy

/-- A range put into a list sorted by first offset. -/
def insertRange (r : Nat × Nat) : List (Nat × Nat) → List (Nat × Nat)
  | [] => [r]
  | s :: rest => if r.1 ≤ s.1 then r :: s :: rest else s :: insertRange r rest

/-- The gaps that sorted ranges leave between lo and hi: first offset and end. -/
def gapsOf (hi : Nat) : Nat → List (Nat × Nat) → List (Nat × Nat)
  | lo, [] => if lo < hi then [(lo, hi)] else []
  | lo, r :: rest => (if lo < min hi r.1 then [(lo, min hi r.1)] else []) ++ gapsOf hi (max lo (r.1 + r.2)) rest

/-- How many places a gap has for a length at an alignment, and the first. -/
def gapSlots (len align : Nat) (g : Nat × Nat) : Nat × Nat :=
  let a := (g.1 + align - 1) / align * align
  (a, if a + len ≤ g.2 then (g.2 - len - a) / align + 1 else 0)

/-- Place k of the places of several gaps. -/
def nthSlot (align : Nat) : Nat → List (Nat × Nat) → Option Nat
  | _, [] => none
  | k, (a, n) :: rest => if k < n then some (a + k * align) else nthSlot align (k - n) rest

/-- R379: storage taken from a pool. Which free place firmware takes is open: a free value chooses. -/
def Device.allot (d : Device) (p die : Nat) (far : Bool) (len align : Nat) (besides : List (Nat × Nat) := []) :
    Device × Option Nat :=
  let r := d.pool p die far
  let used := (d.taken ++ besides).foldl (fun l x => if x.2 = 0 then l else insertRange x l) []
  let slots := (gapsOf (r.1 + r.2) r.1 used).map (gapSlots len align)
  let total := (slots.map Prod.snd).foldl (· + ·) 0
  if total = 0 then (d, none)
  else
    let f := d.freeValue
    (f.2, nthSlot align (f.1.toNat % total) slots)

/-! ### Steps -/

/-- CIS_PART_STEP.STATE (R297). -/
def Device.stepState (d : Device) (p : Nat) : Nat := d.fld (.cisPartStep p) Fd.cisPartStepState

/-- The device with the step state set. -/
def Device.setStepState (d : Device) (p v : Nat) : Device := d.setFld (.cisPartStep p) Fd.cisPartStepState v

/-- R297, R319: a step or an evaluation interval is open. -/
def Device.stepLive (d : Device) (p : Nat) : Bool := d.stepState p == 2 || d.stepState p == 4

/-- R308: the gradient scale exponent E. -/
def Device.gradExp (d : Device) (p : Nat) : Nat := d.fld (.cisPartStep p) Fd.cisPartStepGscaleExp

/-- R252, R386: the epoch that a look-up of the partition is made at: while a step or an evaluation interval is open that which it binds, 0 for
none; otherwise the table's current epoch. -/
def Device.epochFor (d : Device) (p h : Nat) : Nat :=
  if d.stepState p = 0 then ((d.table p h).map (·.current)).getD 0 else (d.part p).epochOf (d.part p).gen h

/-- R252, R321: every table of a partition bound: f names the epoch of each table, 0 for none. -/
def Device.bindTables (d : Device) (p : Nat) (f : Table → Nat) : Device :=
  d.updPart p fun x =>
    let m := x.tables.foldl (fun (m : SMap Nat) t =>
      match t.2 with
      | none => m
      | some t' => SMap.set (fun _ => 0) m t.1 (if t'.unbinding then 0 else f t')) []
    { x with gen := x.gen + 1, binds := SMap.set (fun _ => []) x.binds (x.gen + 1) m }

end Sys2Proof.Machine
end

