-- ==== Sys2Proof/Machine/Wire.lean ====
section
/-! DEFINITION. What leaves the chip by a port (R21, R213, R350, R355 to R361): the offset space, packets and their flits, planes
and ports, and the tags of the remote pool (R222, R223). -/

namespace Sys2Proof.Machine

/-! ### The offset space (R211, R213) -/

/-- R213: the offsets of a chip that map to memory. -/
def offsetMapped (off : Nat) : Bool := decide (off < 2 ^ 37) || (decide (2 ^ 40 ≤ off) && decide (off < 2 ^ 41))

/-- R213: the die of a near or far offset. -/
def dieOfOffset (off : Nat) : Nat := if off < 2 ^ 37 then off / 2 ^ 35 else (off - 2 ^ 40) / 2 ^ 38

/-- R211: the two tiers of a die's memory. -/
inductive Tier where
  | near
  | far
  deriving DecidableEq, Repr

/-- R213: the tier of a mapped offset. -/
def tierOf (off : Nat) : Tier := if off < 2 ^ 37 then .near else .far

/-- R211: bytes of a request of a tier: a granule of 512 B of near memory, 64 B of far memory. -/
def Tier.request : Tier → Nat
  | .near => 512
  | .far => 64

/-- R211: the whole requests of a tier that n bytes from an offset take. -/
def Tier.requests (t : Tier) (off n : Nat) : List Nat :=
  (List.range ((off % t.request + n + t.request - 1) / t.request)).map fun i => off / t.request * t.request + i * t.request

/-- R222: the tags of a tier's pool on a die. -/
def Tier.pool : Tier → Nat := fun _ => 4096

/-- n different elements of a list, as a number chooses them. -/
def chooseFrom : Nat → Nat → List Nat → List Nat
  | 0, _, _ => []
  | n + 1, w, l =>
    let x := l.getD (w % l.length) 0
    x :: chooseFrom n (w / l.length) (l.erase x)

/-- R213: the stack of a near offset: consecutive 4 KiB slots rotate over the die's 4 stacks. -/
def nearStack (off : Nat) : Nat := off / 4096 % 4

/-- R211, R213: the channel of its stack, of 32, that the granule of a near offset lies on: the 8 granules of a slot lie on
8 different ones. -/
def nearChannel (off : Nat) : Nat :=
  (chooseFrom 8 (Config.channelOrder (off / 4096)).toNat (List.range 32)).getD (off / 512 % 8) 0

/-- R211, R213: the channel of its die, of 16, of a far offset: consecutive granules rotate over them. -/
def farChannel (off : Nat) : Nat := off / 512 % 16

/-- R222: what a quota limits: a bank of a stack's channel, a bank of an LPDDR6 channel, such a channel. -/
inductive QuotaTarget where
  | stackBank (die stack channel bank : Nat)
  | farBank (die channel bank : Nat)
  | farChannel (die channel : Nat)
  deriving DecidableEq, Repr

/-- R211, R213, R222: the quota targets of a request to a chip offset. -/
def quotaTargets (off : Nat) : List QuotaTarget :=
  let bank := (Config.bankOf off).toNat
  match tierOf off with
  | .near => [.stackBank (dieOfOffset off) (nearStack off) (nearChannel off) bank]
  | .far => [.farBank (dieOfOffset off) (farChannel off) bank, .farChannel (dieOfOffset off) (farChannel off)]

/-! ### CRC-32C (R350) -/

/-- n more bits of a reflected CRC register. -/
def crcDown : Nat → Nat → Nat
  | 0, r => r
  | n + 1, r => crcDown n (if r % 2 = 1 then (r / 2) ^^^ 0x82F63B78 else r / 2)

/-- CRC-32C. -/
def crc32c (bs : List Byte) : Nat :=
  (bs.foldl (fun r (b : Byte) => crcDown 8 (r ^^^ b.toNat)) 0xFFFFFFFF) ^^^ 0xFFFFFFFF

/-! ### Packets (R358) -/

/-- Bits of a packet's header slot. -/
def hbits (k : Packet) (hi lo : Nat) : Nat := bitsOf (k.headD 0).toNat hi lo

/-- TYPE. -/
def pktType (k : Packet) : Nat := hbits k 127 124
/-- DEST_CHIP. -/
def pktDest (k : Packet) : Nat := hbits k 123 110
/-- SRC_CHIP. -/
def pktSrc (k : Packet) : Nat := hbits k 109 96
/-- SRC_DIE. -/
def pktDie (k : Packet) : Nat := hbits k 95 94
/-- LEN. -/
def pktLen (k : Packet) : Nat := hbits k 93 89
/-- TAG. -/
def pktTag (k : Packet) : Nat := hbits k 88 72
/-- STATUS. -/
def pktStatus (k : Packet) : Nat := hbits k 71 68
/-- PARTITION. -/
def pktPart (k : Packet) : Nat := hbits k 67 65
/-- FLOW, where FLOW_VALID is set. -/
def pktFlow (k : Packet) : Option Nat := if hbits k 64 64 = 1 then some (hbits k 63 52) else none
/-- RDLEN. -/
def pktRdlen (k : Packet) : Nat := hbits k 51 46
/-- ADDR. -/
def pktAddr (k : Packet) : Nat := hbits k 45 0

/-- R358: a header slot. -/
def pktHeader (typ dest src die len tag status part : Nat) (flow : Option Nat) (rdlen addr : Nat) : BitVec 128 :=
  BitVec.ofNat 128 (typ * 2 ^ 124 + dest % 2 ^ 14 * 2 ^ 110 + src % 2 ^ 14 * 2 ^ 96 + die % 4 * 2 ^ 94 + len % 32 * 2 ^ 89 +
    tag % 2 ^ 17 * 2 ^ 72 + status % 16 * 2 ^ 68 + part % 8 * 2 ^ 65 + (match flow with
      | some f => 2 ^ 64 + f % 2 ^ 12 * 2 ^ 52
      | none => 0) + rdlen % 64 * 2 ^ 46 + addr % 2 ^ 46)

/-- A packet with its TAG and FLOW set. -/
def withTag (k : Packet) (tag : Nat) : Packet :=
  match k with
  | [] => []
  | h :: rest => BitVec.ofNat 128 (h.toNat - bitsOf h.toNat 88 72 * 2 ^ 72 + tag % 2 ^ 17 * 2 ^ 72) :: rest

/-- R355: the channel of a packet type. -/
def vcOf (typ : Nat) : Nat :=
  if typ = 0x8 ∨ typ = 0x9 then 1 else if typ = 0x4 then 2 else if typ = 0xE then 3 else 0

/-- Whole slots of 16 bytes. -/
def slotsOf (bs : List Byte) : Packet :=
  (List.range ((bs.length + 15) / 16)).map fun i => BitVec.ofNat 128 (ofLeBytes ((bs.drop (16 * i)).take 16))

/-- The bytes of slots. -/
def slotBytes (l : Packet) : List Byte := l.flatMap fun s => leBytes 16 s.toNat

/-! ### Ports -/

/-- Port n. -/
def Device.port (d : Device) (n : Nat) : Port := SMap.at' {} d.ports n

/-- The device with a port set. -/
def Device.setPort (d : Device) (n : Nat) (x : Port) : Device := { d with ports := SMap.set (fun _ => {}) d.ports n x }

/-- LNK_PORT_STATUS.STATE. -/
def Device.portState (d : Device) (n : Nat) : Nat := d.fld (.lnkPortStatus n) Fd.lnkPortStatusState

/-- The device with a port's state set. -/
def Device.setPortState (d : Device) (n v : Nat) : Device := d.setFld (.lnkPortStatus n) Fd.lnkPortStatusState v

/-- R21: the ports of plane p. -/
def planePorts (p : Nat) : List Nat := (List.range 7).map (7 * p + ·)

/-- R360: the plane that carries a plane's traffic: the first from it on that has a READY port. -/
def Device.livePlane (d : Device) (p : Nat) : Option Nat :=
  ((List.range 4).map fun i => (p + i) % 4).find? fun x => (planePorts x).any fun n => d.portState n == 4

/-- R374: a link record: on the module ring, or on partition p's. -/
def Device.logLink (d : Device) (ring code cls port die chip idx status typ : Nat) (detail addr : Word) (injected : Bool := false) : Device :=
  d.log ring
    { code := code, cls := cls, part := if ring < 8 then ring else 0xFF, die := die, flags := ofBool injected
      body := [wordOf (port % 256 + die % 256 * 2 ^ 8 + chip % 2 ^ 16 * 2 ^ 16 + (idx % 2 ^ 32) * 2 ^ 32),
        wordOf (status % 256 + typ % 256 * 2 ^ 8), detail, addr] }

/-- R350: the 256 bytes of a flit with a header above its CRC and a body. -/
def flitBytes (hi96 : Nat) (body : List Byte) : List Byte :=
  let rest := leBytes 12 hi96 ++ body ++ List.replicate (240 - body.length) 0
  leBytes 4 (crc32c rest) ++ rest

/-- R350: the 256 bytes of a data flit. -/
def TxFlit.bytes (f : TxFlit) : List Byte :=
  flitBytes (2 ^ 92 + f.seq % 4096 * 2 ^ 80 + f.vc * 2 ^ 78 + f.sop % 2 ^ 15 * 2 ^ 63 + f.slots.length % 16 * 2 ^ 59) (slotBytes f.slots)

/-- A packet's flits: it starts a flit, and goes on through as many as it needs. -/
def flitsOf (vc : Nat) : Nat → Nat → Bool → Packet → List TxFlit
  | 0, _, _, _ => []
  | fuel + 1, seq, first, k =>
    if k.isEmpty then []
    else { seq := seq % 4096, vc := vc, sop := ofBool first, slots := k.take 15 } :: flitsOf vc fuel (seq + 1) false (k.drop 15)

/-- Credit of a port on a channel (R356). -/
def Port.creditOf (x : Port) (vc : Nat) : Nat := SMap.at' 0 x.credit vc

/-- R355: the slots of the device's receive buffer of a channel. -/
def rxSlots (vc : Nat) : Nat := [16384, 16384, 1024, 256].getD vc 0

/-- R356: the slots of a channel's receive buffer that hold packets, whole or in part. -/
def Port.rxUsed (x : Port) (vc : Nat) : Nat :=
  (((x.rx.filter fun r => r.1 == vc).map fun r => r.2.length).foldl (· + ·) 0) + (SMap.at' [] x.part vc).length

/-- R356: the credit of each channel that this end advertises: what its buffers have free. -/
def Port.advertised (x : Port) : List Nat := (List.range 4).map fun vc => rxSlots vc - x.rxUsed vc

/-- A port can take a packet now: it is READY, holds credit for all its slots, and its replay buffer has room (R351, R356). -/
def Device.portTakes (d : Device) (n vc : Nat) (k : Packet) : Bool :=
  d.portState n == 4 && decide (k.length ≤ (d.port n).creditOf vc) &&
    decide ((d.port n).replay.length + (k.length + 14) / 15 ≤ 1024)

/-- R361: the READY port of a plane with the most free credit on a channel, the lower number first. -/
def Device.bestPort (d : Device) (plane vc : Nat) : Option Nat :=
  ((planePorts plane).filter fun n => d.portState n == 4).foldl (fun (best : Option Nat) n =>
    match best with
    | none => some n
    | some b => if (d.port b).creditOf vc < (d.port n).creditOf vc then some n else some b) none

/-- R377: data flits sent and accepted on a port. -/
def Device.countFlits (d : Device) (n tx rx : Nat) : Device :=
  let x := d.port n
  let d := d.setPort n { x with txFlits := x.txFlits + tx, rxFlits := x.rxFlits + rx }
  (d.setFld (.lnkPortTraffic n) Fd.lnkPortTrafficTxFlits ((x.txFlits + tx) / 65536)).setFld (.lnkPortTraffic n)
    Fd.lnkPortTrafficRxFlits ((x.rxFlits + rx) / 65536)

/-- R350: the data flits of a frame, which follow its control flit. -/
def frameFlits : Nat := 104

/-- R350: data flits that wait on a port leave as far as its frame has room. -/
def Device.pumpFlits (d : Device) (n : Nat) : Device :=
  let x := d.port n
  let go := x.later.take (frameFlits - x.frame)
  go.foldl (fun (d : Device) f => d.emit (.flit n f.bytes))
    (d.setPort n { x with later := x.later.drop (frameFlits - x.frame), frame := x.frame + go.length })

/-- A packet sent on a port: its credit is used and its flits leave, in this frame or the next, and stay in the replay buffer. -/
def Device.sendOn (d : Device) (n vc : Nat) (k : Packet) : Device :=
  let x := d.port n
  let fs := flitsOf vc 3 x.nextSeq true k
  let d := d.setPort n { x with
    replay := x.replay ++ fs, later := x.later ++ fs, nextSeq := (x.nextSeq + fs.length) % 4096
    credit := SMap.set (fun _ => 0) x.credit vc (x.creditOf vc - k.length) }
  (d.pumpFlits n).countFlits n fs.length 0

/-- R360, R361: a packet sent towards a plane by the port that is due, or kept waiting for a port, for that port's credit, or for its
replay buffer. -/
def Device.sendPacket (d : Device) (plane : Nat) (k : Packet) : Device :=
  let vc := vcOf (pktType k)
  match ((d.livePlane plane).bind fun x => d.bestPort x vc).filter fun n => d.portTakes n vc k with
  | some n => d.sendOn n vc k
  | none => { d with txWait := d.txWait ++ [(plane, vc, k)] }

/-- Packets that wait are tried again, in order. -/
def Device.drainTx (d : Device) : Device :=
  d.txWait.foldl (fun (d : Device) w => d.sendPacket w.1 w.2.2) { d with txWait := [] }

/-! ### Tags of the remote pool (R222, R223) -/

/-- MEM_QUOTA.SHIFT of the remote pool, 3 to 5 (R223). -/
def Device.remoteQuota (d : Device) : Nat := 32768 / 2 ^ clampTo 3 5 (d.fld .memQuota Fd.memQuotaRemoteShift)

/-- R222, R223: the tags of one die's pool of a tier that a quota target may hold. A request to this chip's own memory takes its tag and
gives it back within the command that makes it (DESIGN CHOICE, log entry 111). -/
def Device.tierQuota (d : Device) (t : Tier) : Nat :=
  t.pool / 2 ^ clampTo 3 5 (match t with
    | .near => d.fld .memQuota Fd.memQuotaNearShift
    | .far => d.fld .memQuota Fd.memQuotaFarShift)

/-- R260: the tags of a tier, NEAR_CAP or FAR_CAP, that a gather engine of a die may hold. -/
def Device.tierCap (d : Device) (die : Nat) (t : Tier) : Nat :=
  clampTo 16 2047 (match t with
    | .near => d.fld (.gthCfg die) Fd.gthCfgNearCap
    | .far => d.fld (.gthCfg die) Fd.gthCfgFarCap)

/-- R222: the remote tags of a die that are held, each with the chip it is held for. -/
def Device.remoteTags (d : Device) (die : Nat) : List (Nat × Nat) :=
  d.reqs.filterMap fun e => e.2.bind fun x => if x.die = die then x.tag.map fun t => (t, pktDest x.pkt) else none

/-- R222, R223: the lowest tag of a die's remote pool that is free for a request to a chip; none where the pool is used up or the
chip holds its quota. -/
def Device.freeTag (d : Device) (die chip : Nat) : Option Nat :=
  let held := d.remoteTags die
  if 32768 ≤ held.length ∨ d.remoteQuota ≤ (held.filter fun x => x.2 == chip).length then none
  else (List.range (held.length + 1)).find? fun t => !held.any fun x => x.1 == t

/-- R222, R223: up to n free tags of a die's remote pool for requests to a chip. -/
def Device.freeTags (d : Device) (die chip n : Nat) : List Nat :=
  let held := d.remoteTags die
  let room := min (32768 - held.length) (d.remoteQuota - (held.filter fun x => x.2 == chip).length)
  ((List.range (held.length + n)).filter fun t => !held.any fun x => x.1 == t).take (min n room)

end Sys2Proof.Machine
end

