-- ==== Sys2Proof/Machine/Memory.lean ====
section
/-! DEFINITION. Near and far memory (chapter 10): tile records and their checksums (R218 to R220), partial writes (R221),
translation (R215, R216) and the records of memory faults (R229). A global address is 2^50 × chip + offset (R20). -/

namespace Sys2Proof.Machine

/-! ### Who works, and what can go wrong -/

/-- R229: the engine a memory event belongs to: its partition (8 for the physical function and firmware), class, number (none
where which of its die's engines takes the work is the arbiter's choice, R17), ring index and unit. -/
structure MemUser where
  part : Nat
  cls : Nat
  engine : Option Nat := none
  idx : Nat := 0
  unit : Nat := 0
  /-- the die whose translation cache it uses (R216) -/
  die : Nat := 0
  deriving DecidableEq, Repr

/-- Why a unit of memory work ends: a translation fault with its kind and address; a checksum fault; a refused merge;
a remote request that failed with a STATUS; or no tag is free for it, and it waits (R223). -/
inductive MemErr where
  | xlate (kind addr : Nat) (injected : Bool := false)
  | cksum (addr : Nat)
  | merge (addr : Nat)
  | remote (addr status : Nat)
  | waits
  deriving DecidableEq, Repr

/-- R16, R17: which engine of a die takes a unit: as its arbiter grants, a free value below the number of its engines. -/
def anEngine (free cls : Nat) : Nat :=
  let w := (Config.freeWord free).toNat
  match cls with
  | 1 => w % 24
  | 4 => w % 16
  | 5 | 6 => w % 8
  | 7 => w % 4
  | _ => w % 65536

/-- R229: a memory record on the partition's error ring, or on the module's. -/
def Device.logMem (d : Device) (u : MemUser) (code cls kind handle addr crc : Nat) (injected : Bool := false) : Device :=
  let engine := u.engine.getD (anEngine d.free u.cls)
  let r : LogRec :=
    { code := code, cls := cls, flags := ofBool injected, part := if u.part < 8 then u.part else 0xFF, die := u.die
      body := [wordOf (u.cls + kind * 2 ^ 8 + (engine % 2 ^ 16) * 2 ^ 16 + (u.idx % 2 ^ 32) * 2 ^ 32),
        wordOf (u.unit % 2 ^ 32 + (handle % 2 ^ 32) * 2 ^ 32), wordOf addr, wordOf crc] }
  { d with free := d.free + 1 }.log (if u.part < 8 then u.part else moduleRing) r

/-- What memory outside the chip answers during a command. -/
def Device.withIo (d : Device) (io : MemIo) : Device :=
  let put := fun (m : SMap Byte) (l : List (Nat × Byte)) => l.foldl (fun m c => SMap.set zeroByte m c.1 c.2) m
  { d with
    hostMem := put d.hostMem io.host, far := put d.far io.remote, farSide := put d.farSide io.remoteSide
    hostBad := io.hostBad, badReads := io.badReads, remoteBad := io.remoteBad, saves := d.saves ++ io.areas }

/-- What failed during the command is forgotten at its end. -/
def Device.endIo (d : Device) : Device := { d with hostBad := [], badReads := [], remoteBad := [] }

/-! ### Injection (R436) -/

/-- R434, R436: one eligible event of a kind on a target, of a partition (none for the module): the DEPTH of an injector
that acts on it. -/
def Device.inject (d : Device) (kind : Nat) (target : Option Nat) (part : Option Nat) : Device × Option Nat :=
  let mask := d.fld .tstStatus Fd.tstStatusPartMask
  let allowed := match part with
    | some p => bitOf mask p
    | none => mask == 0xFF
  (List.range 4).foldl (fun (acc : Device × Option Nat) k =>
    let d := acc.1
    let r := Reg.tstInject k
    if d.fld r Fd.tstInjectKind = kind ∧ kind ≠ 0 ∧ allowed = true ∧ (SMap.at' {} d.injectors k).spent = false ∧
        target.all (fun t => d.fld r Fd.tstInjectTarget == t) = true then
      let x := SMap.at' ({} : Injector) d.injectors k
      if x.seen + 1 < max 1 (d.fld r Fd.tstInjectInterval) then
        ({ d with injectors := SMap.set (fun _ => {}) d.injectors k { x with seen := x.seen + 1 } }, acc.2)
      else
        let n := d.fld r Fd.tstInjectCount
        let d := { d with injectors := SMap.set (fun _ => {}) d.injectors k { seen := 0, spent := n == 1 } }
        let d := if n = 0 then d else d.setFld r Fd.tstInjectCount (n - 1)
        (d, some (max (acc.2.getD 0) (d.fld r Fd.tstInjectDepth)))
    else acc) (d, none)

/-- The partition a memory user's work belongs to, for R434. -/
def MemUser.tstPart (u : MemUser) : Option Nat := if u.part < 8 then some u.part else none

/-! ### The offset space (R213) -/

/-- The chip of a global address is this one. -/
def Device.own (d : Device) (g : Nat) : Bool := g / 2 ^ 50 == d.chip

/-- The global address of an offset of this chip. -/
def Device.ownAt (d : Device) (off : Nat) : Nat := d.chip * 2 ^ 50 + off

/-- The chip offset of a global address. -/
def offOf (g : Nat) : Nat := g % 2 ^ 50

/-- A stored byte. -/
def Device.cell (d : Device) (g : Nat) : Byte :=
  if d.own g then SMap.get zeroByte d.mem (offOf g) else SMap.get zeroByte d.far g

/-- Stored bytes. -/
def Device.cells (d : Device) (g n : Nat) : List Byte := (List.range n).map fun i => d.cell (g + i)

/-- The 64 header bytes of the slot of an address. -/
def Device.hdrOf (d : Device) (g : Nat) : List Byte :=
  if d.own g then SMap.getList zeroByte d.side (offOf g / 4096 * 64) 64
  else SMap.getList zeroByte d.farSide (g / 4096 * 64) 64

/-! ### Tile records (R218) -/

/-- A tile record as stored: its header and its 4,096 data bytes. -/
structure TileRec where
  hdr : List Byte
  data : List Byte
  deriving DecidableEq, Repr

/-- A field of a header: n bytes from byte i. -/
def hdrField (h : List Byte) (i n : Nat) : Nat := ofLeBytes ((h.drop i).take n)

/-- FORMAT of a record. -/
def TileRec.fmt (t : TileRec) : Nat := hdrField t.hdr 8 1 % 16
/-- DENSE of a record. -/
def TileRec.dense (t : TileRec) : Bool := bitOf (hdrField t.hdr 8 1) 4
/-- MASK of a record. -/
def TileRec.mask (t : TileRec) : Nat := hdrField t.hdr 16 8
/-- SCALE of a record; zero reads as 1.0. -/
def TileRec.scale (t : TileRec) : Nat :=
  let s := hdrField t.hdr 24 4
  if s = 0 then f32One else s
/-- RUN_INDEX of a record. -/
def TileRec.runIndex (t : TileRec) : Nat := hdrField t.hdr 28 2
/-- RUN_LEN of a record. -/
def TileRec.runLen (t : TileRec) : Nat := hdrField t.hdr 30 2
/-- EPOCH of a record. -/
def TileRec.epoch (t : TileRec) : Nat := hdrField t.hdr 32 8
/-- CRC of a record. -/
def TileRec.crc (t : TileRec) : Nat := hdrField t.hdr 0 8

/-- R218: header bytes 8 to 63 of a tile. -/
def hdrBody (fmt : Nat) (dense : Bool) (mask scale runIndex runLen epoch : Nat) : List Byte :=
  leBytes 1 (fmt + 16 * ofBool dense) ++ leBytes 7 0 ++ leBytes 8 mask ++ leBytes 4 scale ++ leBytes 2 runIndex ++
  leBytes 2 runLen ++ leBytes 8 epoch ++ leBytes 24 0

/-- R218: the block of byte x of row r. -/
def blockOf (r x : Nat) : Nat := 8 * (r / 8) + x / 8

/-- R218: where byte i of the dense view of a record is stored; none for a byte of an absent block. -/
def storedAt (dense : Bool) (mask i : Nat) : Option Nat :=
  if dense then some i
  else
    let r := i / 64
    let x := i % 64
    let b := blockOf r x
    if bitOf mask b then some (64 * popCount b mask + 8 * (r % 8) + x % 8) else none

/-- R218: the dense view of a record. -/
def TileRec.view (t : TileRec) : List Byte :=
  if t.dense then t.data
  else
    let m := t.mask
    (List.range 4096).map fun i =>
      match storedAt false m i with
      | some j => t.data.getD j 0
      | none => 0

/-- R228: the blocks of a dense tile that hold a byte that is not zero. -/
def blocksPresent (data : List Byte) : Nat :=
  maskOf ((List.range 64).filter fun b =>
    (List.range 8).any fun i => ((data.drop (64 * (8 * (b / 8) + i) + 8 * (b % 8))).take 8).any fun x => x != 0)

/-- R218: the stored bytes of a compressed tile with a mask, padded to its slot. -/
def squeeze (mask : Nat) (data : List Byte) : List Byte :=
  let blocks := (bitList 64 mask).flatMap fun b =>
    (List.range 8).flatMap fun i => (data.drop (64 * (8 * (b / 8) + i) + 8 * (b % 8))).take 8
  blocks ++ List.replicate (4096 - blocks.length) 0

/-- R144, R219: how many bytes of a scale record the checksum covers. -/
def scaleBytes (fmt : Nat) : Nat := if fmt = 0x7 then 256 else 128

/-- R219: the checksum of a record: header bytes 8 to 63, the stored payload, the scale record of an MX tile. -/
def crcOf (hdr8 : List Byte) (dense : Bool) (mask : Nat) (data scl : List Byte) (fmt : Nat) : Nat :=
  crc64 (hdr8 ++ (if dense then data else data.take (64 * popCount 64 mask)) ++ (if isMx fmt then scl.take (scaleBytes fmt) else []))

/-- R218: the run fields of an MX header are valid. -/
def TileRec.runOk (t : TileRec) : Bool := !isMx t.fmt || decide (t.runIndex < t.runLen)

/-- R220: a record verifies. -/
def TileRec.ok (t : TileRec) (scl : List Byte) : Bool :=
  decide (t.fmt ≤ 0xA) && t.runOk && t.crc == crcOf (t.hdr.drop 8) t.dense t.mask t.data scl t.fmt

/-- The record of the slot of an address. -/
def Device.recOf (d : Device) (g : Nat) : TileRec := { hdr := d.hdrOf g, data := d.cells (g / 4096 * 4096) 4096 }

/-- R218: byte i of the dense view of the slot of an address, without verification. -/
def Device.denseByte (d : Device) (g : Nat) : Byte :=
  let h := d.hdrOf g
  match storedAt (bitOf (hdrField h 8 1) 4) (hdrField h 16 8) (g % 4096) with
  | some j => d.cell (g / 4096 * 4096 + j)
  | none => 0

/-- n bytes of dense view. -/
def Device.denseBytes (d : Device) (g n : Nat) : List Byte := (List.range n).map fun i => d.denseByte (g + i)

/-- R218: where the scale record of an MX tile at an address lies: after the tiles of its run. -/
def scaleRecAt (t : TileRec) (g : Nat) : Nat := g - 4096 * t.runIndex + 4096 * t.runLen + 256 * t.runIndex

/-- The 256 bytes of the slot of a tile's scale record, in the dense view of the slot they lie in. -/
def Device.sclOf (d : Device) (t : TileRec) (g : Nat) : List Byte :=
  if isMx t.fmt && t.runOk then d.denseBytes (scaleRecAt t (g / 4096 * 4096)) 256 else []

/-! ### Requests to other chips (R20, R21, R222, R359, R368) -/

/-- R374: the record 0x1004 of a remote request that ended with a STATUS, 15 for a timeout. -/
def Device.logRemote (d : Device) (u : MemUser) (typ status g : Nat) (injected : Bool := false) : Device :=
  d.log (if u.part < 8 then u.part else moduleRing)
    { code := 0x1004, cls := 2, flags := ofBool injected, part := if u.part < 8 then u.part else 0xFF, die := u.die
      body := [wordOf (0xFF + u.die * 2 ^ 8 + g / 2 ^ 50 * 2 ^ 16 + (u.idx % 2 ^ 32) * 2 ^ 32), wordOf (status % 16 + typ * 2 ^ 8),
        wordOf status, wordOf g] }

/-- R366, R368, R436: what a response with a STATUS other than OK makes of a request to another chip: 5 and 10 are not final, and the
request waits; any other ends it. -/
def Device.remoteFault (d : Device) (u : MemUser) (typ g : Nat) : Device × Option MemErr :=
  let (d, inj) := d.inject 5 (some u.die) u.tstPart
  match (inj.map fun s => clampTo 1 9 s).orElse fun _ => (d.remoteBad.find? fun x => x.1 == g / 4096).map Prod.snd with
  | none => (d, none)
  | some s => if s = 5 ∨ s = 10 then (d, some .waits) else (if s = 8 then d else d.logRemote u typ s g inj.isSome, some (.remote g s))

/-- R363: the 512-byte granules of a chip's offsets that n bytes from a global address lie in, first and last. -/
def granulesOf (g n : Nat) : Nat × Nat := (offOf g / 512, (offOf g + n - 1) / 512)

/-- R363: a WRITE of this die to a granule that n bytes at a global address lie in still awaits its ACK. -/
def Device.granuleBusy (d : Device) (die g n : Nat) : Bool :=
  d.reqs.any fun e => (e.2.map fun x =>
    x.die == die && x.tag.isSome && pktType x.pkt == 2 && pktDest x.pkt == g / 2 ^ 50 && x.status.isNone &&
      decide (pktAddr x.pkt / 32 ≤ (granulesOf g n).2) && decide ((granulesOf g n).1 ≤ (pktAddr x.pkt + pktLen x.pkt - 2) / 32)).getD false

/-- R359: the 16-byte slots a request covers, cut into requests of at most k slots: first slot and how many. -/
def slotCuts (off n k : Nat) : List (Nat × Nat) :=
  let first := off / 16
  let slots := (off + n + 15) / 16 - first
  (List.range ((slots + k - 1) / k)).map fun j => (first + k * j, min k (slots - k * j))

/-- R359: the READs of n bytes: of up to 64 slots by a DMA channel or a stream pump, of up to 16 by other engines. -/
def Device.readPackets (d : Device) (u : MemUser) (g n : Nat) : List Packet :=
  (slotCuts (offOf g) n (if u.cls = 1 ∨ u.cls = 2 then 64 else 16)).map fun c =>
    [pktHeader 1 (g / 2 ^ 50) d.chip u.die 1 0 0 0 none (c.2 - 1) c.1]

/-- R221, R358: the WRITEs of bytes, of up to 16 slots each. Bytes of a slot beside those written are as the other chip last
answered them. -/
def Device.writePackets (d : Device) (u : MemUser) (g : Nat) (bytes : List Byte) : List Packet :=
  let lo := g / 16 * 16
  let hi := (g + bytes.length + 15) / 16 * 16
  let all := d.denseBytes lo (g - lo) ++ bytes ++ d.denseBytes (g + bytes.length) (hi - g - bytes.length)
  (slotCuts (offOf g) bytes.length 16).map fun c =>
    pktHeader 2 (g / 2 ^ 50) d.chip u.die (1 + c.2) 0 0 0 none 0 c.1 ::
      slotsOf ((all.drop (16 * (c.1 - offOf g / 16))).take (16 * c.2))

/-- R20, R21, R222, R360: request packets to another chip leave, each with a remote tag of the die that issues it, by a port of the
plane of the die they go to, and their responses come with the command (DESIGN CHOICE, log entry 102). With no READY port
on any plane no response ever comes, and they end with STATUS 15; they wait while too few tags are free, while a WRITE to a
granule of the n bytes at g awaits its ACK (R363), and where the packets cannot all leave for want of credit (R356). -/
def Device.roundTrip (d : Device) (u : MemUser) (typ g n : Nat) (ks : List Packet) : Device × Option MemErr :=
  if (d.livePlane (dieOfOffset (offOf g))).isNone then (d.logRemote u typ 15 g, some (.remote g 15))
  else
    let ts := d.freeTags u.die (g / 2 ^ 50) ks.length
    if ts.length < ks.length ∨ d.granuleBusy u.die g n = true then (d, some .waits)
    else
      let e := (ks.zip ts).foldl (fun (d : Device) k => d.sendPacket (dieOfOffset (offOf g)) (withTag k.1 k.2)) d
      if e.txWait.length ≠ d.txWait.length then (d, some .waits) else e.remoteFault u typ g

/-! ### Verification (R220) -/

/-- R275: the bytes of a record that move over a link: its header and its present blocks. -/
def TileRec.linkBytes (t : TileRec) : Nat := 64 + 64 * (if t.dense then 64 else popCount 64 t.mask)

/-- A read of n bytes reaches memory: another chip's is a round trip over the link (R20). -/
def Device.reach (d : Device) (u : MemUser) (g n : Nat) : Device × Option MemErr :=
  if d.own g then (d, none)
  else (d.emit (.remoteRead g (if n = 4096 then (d.recOf g).linkBytes else n))).roundTrip u 1 g n (d.readPackets u g n)

/-- R220: the copy of a record at a replica's address, with its scale record. -/
def Device.fetchCopy (d : Device) (u : MemUser) (g : Nat) : Device × Except MemErr (TileRec × List Byte) :=
  match d.reach u g 4096 with
  | (d, some e) => (d, .error e)
  | (d, none) => (d, .ok (d.recOf g, d.sclOf (d.recOf g) g))

/-- R220: a record taken in: verified, read again, taken from a replica where placement records one, or a checksum fault. Gives
back the record and scales used. The fault stops the unit, class 3, or refuses a merge, class 2 (R221, R426). -/
def Device.takeIn (d : Device) (u : MemUser) (g : Nat) (t : TileRec) (scl : List Byte) (replica : Option Nat) (cls : Nat := 3) :
    Device × Except MemErr (TileRec × List Byte) :=
  let (d, inj) := d.inject 1 none u.tstPart
  let link := ((d.badReads.find? fun x => x.1 == g / 4096).map Prod.snd).getD 0
  let depth := max (inj.getD 0) link
  let hit := inj.isSome
  let good := t.ok scl
  let lost := fun (d : Device) =>
    ((d.bump .memCksumStats Fd.memCksumStatsFaults).logMem u 0x0A05 cls 0 0 g t.crc hit, Except.error (MemErr.cksum g))
  if good = true ∧ depth = 0 then (d, .ok (t, scl))
  else if good = true ∧ depth = 1 then
    ((d.bump .memCksumStats Fd.memCksumStatsRefetchOk).logMem u 0x0A03 1 0 0 g t.crc hit, .ok (t, scl))
  else
    match replica with
    | none => lost d
    | some r =>
      match d.fetchCopy u r with
      | (d, .error .waits) => (d, .error .waits)
      | (d, .error _) => lost d
      | (d, .ok c) =>
        if c.1.ok c.2 = true ∧ depth ≤ 2 then
          ((d.bump .memCksumStats Fd.memCksumStatsReplicaOk).logMem u 0x0A04 1 0 0 g t.crc hit, .ok c)
        else lost d

/-- R220: the part read of a record of this chip, verified as every read is. -/
def Device.takeHere (d : Device) (u : MemUser) (g : Nat) (cls : Nat := 3) : Device × Except MemErr (TileRec × List Byte) :=
  d.takeIn u g (d.recOf g) (d.sclOf (d.recOf g) g) none cls

/-- R220: a read of n bytes of one slot, whose record the memory interface that owns it verifies; replica gives the address of
another copy of the slot. -/
def Device.readRec (d : Device) (u : MemUser) (g n : Nat) (replica : Option Nat) : Device × Except MemErr TileRec :=
  match d.reach u g n with
  | (d, some e) => (d, .error e)
  | (d, none) =>
    let r := d.takeIn u g (d.recOf g) (d.sclOf (d.recOf g) g) replica
    (r.1, r.2.map Prod.fst)

/-- R220: n bytes of the dense view of one slot. -/
def Device.readPart (d : Device) (u : MemUser) (g n : Nat) (replica : Option Nat := none) : Device × Except MemErr (List Byte) :=
  let r := d.readRec u g n replica
  (r.1, r.2.map fun t => (t.view.drop (g % 4096)).take n)

/-- R144, R220: the scale record of an MX tile, a part read of the slot it lies in, of which the replica of the tile's run holds another copy; none to read for other tiles. -/
def Device.readScl (d : Device) (u : MemUser) (t : TileRec) (g : Nat) (replica : Option Nat := none) : Device × Except MemErr (List Byte) :=
  if isMx t.fmt && t.runOk then
    d.readPart u (scaleRecAt t (g / 4096 * 4096)) 256 (replica.map fun r => scaleRecAt t (r / 4096 * 4096))
  else (d, .ok [])

/-- R220: the whole tile at a global address, verified; replica gives the address of another copy. -/
def Device.readTile (d : Device) (u : MemUser) (g : Nat) (replica : Option Nat := none) :
    Device × Except MemErr (TileRec × List Byte) :=
  match d.reach u g 4096 with
  | (d, some e) => (d, .error e)
  | (d, none) =>
    let t := d.recOf g
    match d.readScl u t g replica with
    | (d, .ok scl) => d.takeIn u g t scl replica
    | (d, .error e) => (d, .error e)

/-! ### Writes (R220, R221, R225) -/

/-- R225: the granules of a landed tile that a local write of n bytes has made stale. -/
def PumpTile.staleAfter (t : PumpTile) (off n : Nat) : List Nat :=
  match t.source with
  | none => t.stale
  | some a => (List.range 8).filter fun k =>
      t.stale.contains k || (decide (off < a + 512 * (k + 1)) && decide (a + 512 * k < off + n))

/-- R225: a local write marks the granules of watched tiles that it lands in. -/
def Stream.touch (s : Stream) (off n : Nat) : Stream :=
  if s.armed && s.watch then { s with landed := s.landed.map fun t => { t with stale := t.staleAfter off n } } else s

/-- R225: a local write landed in n bytes of this chip's memory. -/
def Device.touched (d : Device) (off n : Nat) : Device :=
  { d with streams := SMap.mapAll (fun _ => {}) (fun s => s.touch off n) d.streams }

/-- Stored bytes written on this chip, and its header bytes 8 to 63 with their checksum. -/
def Device.putRec (d : Device) (off : Nat) (hdr8 data scl : List Byte) (fmt : Nat) (dense : Bool) (mask : Nat) : Device :=
  let slot := off / 4096
  let crc := crcOf hdr8 dense mask data scl fmt
  { d with
    mem := SMap.setList zeroByte d.mem (slot * 4096) data
    side := SMap.setList zeroByte d.side (slot * 64) (leBytes 8 crc ++ hdr8) }

/-- R221: bytes written into one slot on this chip, merged by its memory interface: the result is dense, with FORMAT, SCALE
and EPOCH unchanged. A write from another chip, through BAR4 or by the host is no local write (R226). -/
def Device.mergeWrite (d : Device) (u : MemUser) (off : Nat) (bytes : List Byte) (localWrite : Bool) : Device × Except MemErr Unit :=
  let g := d.ownAt off
  match d.takeHere u g 2 with
  | (d, .error e) => (d.bump .memCksumStats Fd.memCksumStatsMergeRefused, .error e)
  | (d, .ok (t, _)) =>
    if isMx t.fmt then
      ((d.bump .memCksumStats Fd.memCksumStatsMergeRefused).logMem u 0x0A06 2 0 0 g t.crc, .error (.merge g))
    else
      let v := t.view
      let at' := off % 4096
      let data := v.take at' ++ bytes ++ v.drop (at' + bytes.length)
      let d := d.putRec off (hdrBody t.fmt true (2 ^ 64 - 1) (hdrField t.hdr 24 4) 0 0 t.epoch) data [] t.fmt true (2 ^ 64 - 1)
      (if localWrite then d.touched off bytes.length else d, .ok ())

/-- Bytes written into one slot of any chip: merged here, or sent in WRITE packets, whose ACKs end it (R363). -/
def Device.writePart (d : Device) (u : MemUser) (g : Nat) (bytes : List Byte) : Device × Except MemErr Unit :=
  if d.own g then d.mergeWrite u (offOf g) bytes true
  else
    match (d.emit (.remoteWrite g bytes)).roundTrip u 2 g bytes.length (d.writePackets u g bytes) with
    | (d, some e) => (d, .error e)
    | (d, none) => (d, .ok ())

/-- A tile written whole: on this chip with its header, checksum and, for an MX tile, its scale record (R218, R220);
on another chip its bytes go in WRITE packets, which are merges there (R221). stored is the payload as stored. -/
def Device.writeTile (d : Device) (u : MemUser) (g : Nat) (hdr8 stored scl : List Byte) : Device × Except MemErr Unit :=
  let t : TileRec := { hdr := leBytes 8 0 ++ hdr8, data := stored }
  if d.own g then
    let d := (d.putRec (offOf g) hdr8 stored scl t.fmt t.dense t.mask).touched (offOf g) 4096
    if isMx t.fmt && t.runOk then d.writePart u (scaleRecAt t g) (scl.take 256) else (d, .ok ())
  else
    match d.writePart u g t.view with
    | (d, .error e) => (d, .error e)
    | (d, .ok ()) => if isMx t.fmt && t.runOk then d.writePart u (scaleRecAt t g) (scl.take 256) else (d, .ok ())

/-! ### Translation (R215, R216) -/

/-- Where a DVA leads: a global address, or a host bus address. -/
inductive Place where
  | device (g : Nat)
  | host (a : Nat)
  deriving DecidableEq, Repr

/-- R215: the reserved bits of an entry are clear: bits 11:6 always, SIZE64K, HOST, WRITE and READ outside a leaf, SIZE64K
in a level-2 leaf, the chip in a non-leaf. -/
def entryClean (level : Nat) (leaf : Bool) (e : Word) : Bool :=
  fieldOf e 11 6 == 0 &&
  (if leaf then level != 2 || !bitOf e.toNat 5 else fieldOf e 5 2 == 0 && fieldOf e 63 50 == 0) &&
  (decide (2 ≤ level) || !bitOf e.toNat 1)

/-- R215: the leaf of a page: its size (the logarithm) and whether its address is aligned and its kind of page exists. -/
def leafSize (level : Nat) (e : Word) : Nat := if level = 2 then 21 else if bitOf e.toNat 5 then 16 else 12

/-- R215: a leaf's page is one that exists, aligned to its size. -/
def leafGood (level : Nat) (e : Word) : Bool :=
  let s := leafSize level e
  (fieldOf e 63 12 * 4096) % 2 ^ s == 0 && (bitOf e.toNat 4 || s != 12)

/-- R215: one level of the walk at a table: the leaf and the logarithm of its page's size, or the next table. -/
def Device.walkLevel (d : Device) (dva level table : Nat) : Except MemErr ((Word × Nat) ⊕ Nat) :=
  let i := bitsOf dva (47 - 9 * level) (39 - 9 * level)
  let word := fun (j : Nat) => wordOf (ofLeBytes (d.denseBytes (d.ownAt table + 8 * j) 8))
  let e := word i
  let leaf := level = 3 ∨ (level = 2 ∧ bitOf e.toNat 1 = true)
  if !bitOf e.toNat 0 then .error (.xlate 2 dva)
  else if !entryClean level leaf e then .error (.xlate 3 dva)
  else if leaf then
    if !leafGood level e then .error (.xlate 3 dva)
    else if level = 3 ∧ bitOf e.toNat 5 = true ∧ !((List.range 16).all fun j => word (i / 16 * 16 + j) == e) then .error (.xlate 3 dva)
    else .ok (.inl (e, leafSize level e))
  else .ok (.inr (fieldOf e 49 12 * 4096))

/-- R215, R220: one level of the walk, where a table is to be read: its read, verified, and the entry found. -/
def walkStep (u : MemUser) (dva : Nat) (s : Device × Except MemErr ((Word × Nat) ⊕ Nat)) (level : Nat) :
    Device × Except MemErr ((Word × Nat) ⊕ Nat) :=
  match s with
  | (d, .ok (.inr table)) =>
    if !offsetMapped table then (d, .error (.xlate 5 dva))
    else
      match d.takeHere u (d.ownAt table) with
      | (d, .error e) => (d, .error e)
      | (d, .ok _) => (d, d.walkLevel dva level table)
  | s => s

/-- R215, R220: the walk of the four levels from a table: the leaf and the logarithm of its page's size, a translation fault with its
kind, or a checksum fault. At level 3 every entry is a leaf. -/
def Device.walk (d : Device) (u : MemUser) (dva table : Nat) : Device × Except MemErr (Word × Nat) :=
  match (List.range 4).foldl (walkStep u dva) (d, .ok (.inr table)) with
  | (d, .error e) => (d, .error e)
  | (d, .ok (.inl r)) => (d, .ok r)
  | (d, .ok (.inr _)) => (d, .error (.xlate 3 dva))

/-- R215, R216: a cached leaf for a DVA of a partition. -/
def Device.cached (d : Device) (die p dva : Nat) : Option TlbEntry :=
  (SMap.at' [] d.tlb die).find? fun e => e.part == p && e.base == dva / 2 ^ e.size * 2 ^ e.size

/-- R216: a leaf cached on a die, which holds 8,192; which one it replaces is open. -/
def Device.cacheLeaf (d : Device) (die : Nat) (e : TlbEntry) : Device :=
  let l := SMap.at' [] d.tlb die
  if l.length < 8192 then { d with tlb := SMap.set (fun _ => []) d.tlb die (l ++ [e]) }
  else
    let (w, d) := d.freeValue
    { d with tlb := SMap.set (fun _ => []) d.tlb die (l.set (w.toNat % 8192) e) }

/-- R215: the place a leaf gives for a DVA. -/
def leafPlace (leaf : Word) (size dva : Nat) : Place :=
  let a := fieldOf leaf 63 12 * 4096 / 2 ^ size * 2 ^ size + dva % 2 ^ size
  if bitOf leaf.toNat 4 then .host a else .device a

/-- R215: what a leaf gives an access: a permission fault, kind 5 or 6 of the place found, or the place. -/
def Device.leafReach (d : Device) (dva : Nat) (write : Bool) (leaf : Word) (size : Nat) : Except MemErr Place :=
  if bitOf leaf.toNat (if write then 3 else 2) = false then .error (.xlate 4 dva)
  else
    match leafPlace leaf size dva with
    | .device g => if offsetMapped (offOf g) then .ok (.device g) else .error (.xlate 5 dva)
    | .host a => if d.hostBad.contains (a / 4096) then .error (.xlate 6 dva) else .ok (.host a)

/-- R215, R216: the leaf of a DVA of a partition: of the die's cache, or walked to and cached. -/
def Device.leafOf (d : Device) (u : MemUser) (dva : Nat) : Device × Except MemErr (Word × Nat) :=
  match d.cached u.die u.part dva with
  | some e => (d, .ok (e.leaf, e.size))
  | none =>
    match d.walk u dva (d.fld (.memPartPtBase u.part) Fd.memPartPtBaseOffset * 4096) with
    | (d, .error e) => (d, .error e)
    | (d, .ok (leaf, size)) =>
      (d.cacheLeaf u.die { part := u.part, base := dva / 2 ^ size * 2 ^ size, size := size, leaf := leaf }, .ok (leaf, size))

/-- R215: the translation of a DVA for an access. -/
def Device.dvaPlace (d : Device) (u : MemUser) (dva : Nat) (write : Bool) : Device × Except MemErr Place :=
  if 2 ^ 48 ≤ dva then (d, .error (.xlate 1 dva))
  else
    match d.cisternAt u.part dva with
    | some none => (d, .error (.xlate 2 dva))
    | some (some off) => (d, .ok (.device (d.ownAt off)))
    | none =>
      if !d.flag (.memPartPtBase u.part) Fd.memPartPtBaseEnable then (d, .error (.xlate 2 dva))
      else
        match d.leafOf u dva with
        | (d, .error e) => (d, .error e)
        | (d, .ok (leaf, size)) => (d, d.leafReach dva write leaf size)

/-- R215, R441: one translation for an access, with the translation fault an injector makes of it. -/
def Device.translate (d : Device) (u : MemUser) (dva : Nat) (write : Bool) : Device × Except MemErr Place :=
  match d.inject 6 none u.tstPart with
  | (d, some _) => (d, .error (.xlate 2 dva true))
  | (d, none) => d.dvaPlace u dva write

/-- R216: the translations of a partition in a range of DVAs are dropped on every die. -/
def Device.tlbDrop (d : Device) (p : Nat) (inRange : Nat → Nat → Bool) : Device :=
  { d with tlb := SMap.mapAll (fun _ => []) (fun l => l.filter fun e => !(e.part == p && inRange e.base (2 ^ e.size))) d.tlb }

/-! ### Reads and writes by DVA -/

/-- R215: kind 5 as the chip named reports it: STATUS 3 of an access that a DVA led to. -/
def MemErr.atDva (dva : Nat) : MemErr → MemErr
  | .remote _ 3 => .xlate 5 dva
  | e => e

/-- What an access by DVA gives, where its error is one of the DVA. -/
def byDva {α : Type} (dva : Nat) (r : Device × Except MemErr α) : Device × Except MemErr α := (r.1, r.2.mapError (MemErr.atDva dva))

/-- Bytes of one 4 KiB slot's span read at a place. -/
def Device.readPlace (d : Device) (u : MemUser) (x : Place) (n : Nat) : Device × Except MemErr (List Byte) :=
  match x with
  | .device g => d.readPart u g n
  | .host a => (d.emit (.hostRead a n), .ok (d.hostBytes a n))

/-- A span of bytes cut at 4 KiB boundaries: address and length of each piece. -/
def spans : Nat → Nat → Nat → List (Nat × Nat)
  | 0, _, _ => []
  | fuel + 1, a, n =>
    if n = 0 then []
    else
      let k := min n (4096 - a % 4096)
      (a, k) :: spans fuel (a + k) (n - k)

/-- Bytes read by DVA, span by span. -/
def Device.readDva (d : Device) (u : MemUser) (dva n : Nat) : Device × Except MemErr (List Byte) :=
  (spans (n / 4096 + 2) dva n).foldl (fun (acc : Device × Except MemErr (List Byte)) s =>
    match acc with
    | (d, .error e) => (d, .error e)
    | (d, .ok bs) =>
      match d.translate u s.1 false with
      | (d, .error e) => (d, .error e)
      | (d, .ok x) =>
        match byDva s.1 (d.readPlace u x s.2) with
        | (d, .error e) => (d, .error e)
        | (d, .ok b) => (d, .ok (bs ++ b))) (d, .ok [])

/-- Bytes written at a place within one slot: a whole device tile gets a dense header of fmt, a part merges (R228). -/
def Device.writePlace (d : Device) (u : MemUser) (x : Place) (bytes : List Byte) (fmt : Nat) : Device × Except MemErr Unit :=
  match x with
  | .host a => (d.hostWrite a bytes, .ok ())
  | .device g =>
    if bytes.length = 4096 then d.writeTile u g (hdrBody fmt true (2 ^ 64 - 1) f32One 0 0 0) bytes []
    else d.writePart u g bytes

/-- R220: a whole tile taken in at a place. Host memory holds no headers: a tile from it is dense, of format fmt. -/
def Device.readTileAt (d : Device) (u : MemUser) (x : Place) (fmt : Nat) : Device × Except MemErr (TileRec × List Byte) :=
  match x with
  | .device g => d.readTile u g
  | .host a =>
    (d.emit (.hostRead a 4096), .ok ({ hdr := leBytes 8 0 ++ hdrBody fmt true (2 ^ 64 - 1) f32One 0 0 0, data := d.hostBytes a 4096 }, []))

/-- A tile written whole at a place; host memory takes its 4,096 bytes of dense view. -/
def Device.writeTileAt (d : Device) (u : MemUser) (x : Place) (hdr8 stored scl : List Byte) : Device × Except MemErr Unit :=
  match x with
  | .device g => d.writeTile u g hdr8 stored scl
  | .host a => (d.hostWrite a (TileRec.view { hdr := leBytes 8 0 ++ hdr8, data := stored }), .ok ())

end Sys2Proof.Machine
end

