-- ==== Sys2Proof/Machine/Lanes.lean ====
section
/-! DEFINITION. One lane of the vector operations (R192 to R194). Update programs use the same operations (R332). -/

namespace Sys2Proof.Machine

/-- R192, R194: the operation codes that exist. -/
def opKnown (op : Nat) : Bool := decide (op ≤ 0x15) || (decide (0x18 ≤ op) && decide (op ≤ 0x26)) ||
  (decide (0x40 ≤ op) && decide (op ≤ 0x5B))

/-- R190: compare and generator operations write a mask only. -/
def opCompares (op : Nat) : Bool := (decide (0x20 ≤ op) && decide (op ≤ 0x23)) || op == 0x26 ||
  (decide (0x58 ≤ op) && decide (op ≤ 0x5A))

/-- R193: MIN of two codes; −0 lies below +0. -/
def minF32 (a b : Nat) : Nat :=
  match f32Num a, f32Num b with
  | .nan, _ => f32NaN
  | _, .nan => f32NaN
  | x, y =>
    match x.cmp y with
    | .lt => a
    | .gt => b
    | .eq => if x.isNeg then a else b

/-- R193: MAX of two codes. -/
def maxF32 (a b : Nat) : Nat :=
  match f32Num a, f32Num b with
  | .nan, _ => f32NaN
  | _, .nan => f32NaN
  | x, y =>
    match x.cmp y with
    | .lt => b
    | .gt => a
    | .eq => if x.isNeg then b else a

/-- A + B × sign, rounded once. -/
def subF32 (a b : Nat) : Nat × NFlags := withInvalid [f32Num a, f32Num b] (toF32 {} ((f32Num a).add (f32Num b).neg))

/-- R192: A × B + C, rounded once. -/
def fmaF32 (a b c : Nat) : Nat × NFlags :=
  withInvalid [f32Num a, f32Num b, f32Num c] (toF32 {} (((f32Num a).mul (f32Num b)).add (f32Num c)))

/-- R193: a compare; a NaN operand gives 0. -/
def cmpF32 (a b : Nat) (want : Ordering → Bool) : Bool :=
  match f32Num a, f32Num b with
  | .nan, _ => false
  | _, .nan => false
  | x, y => want (x.cmp y)

/-- R192, R193: a derivative operation: round32(X × d). -/
def derivOp (act x b : Nat) : Nat × NFlags := mulF32 x (derivF32 act b)

/-- R194: a result clamped to 32 bits, with SATURATE. -/
def satInt (v : Int) : Nat × NFlags :=
  if v < -(2 ^ 31) then (2 ^ 31, { saturate := true })
  else if 2 ^ 31 - 1 < v then (2 ^ 31 - 1, { saturate := true })
  else (natOfInt 32 v, {})

/-- R194: leading zeros of a 32-bit number. -/
def clz32 (a : Nat) : Nat := if a = 0 then 32 else 31 - Nat.log2 a

/-- R194: a rotated left by n. -/
def rotl32 (a n : Nat) : Nat := (a * 2 ^ (n % 32) + a / 2 ^ ((32 - n % 32) % 32) * ofBool (n % 32 != 0)) % 2 ^ 32

/-- R194: the smaller or greater, signed. -/
def minS (a b : Nat) : Nat := if intOf 32 a ≤ intOf 32 b then a else b
/-- The greater, signed. -/
def maxS (a b : Nat) : Nat := if intOf 32 a ≤ intOf 32 b then b else a

/-- R194: MULSHR_SAT: the exact product, a rounding term, an arithmetic shift, clamped. -/
def mulShr (a b c : Nat) : Nat × NFlags :=
  let n := c % 32
  let p := intOf 32 a * intOf 32 b
  satInt ((if n = 0 then p else p + 2 ^ (n - 1)) / 2 ^ n)

/-- R194: bytes in reverse order. -/
def bswap32 (a : Nat) : Nat := a % 256 * 2 ^ 24 + a / 2 ^ 8 % 256 * 2 ^ 16 + a / 2 ^ 16 % 256 * 2 ^ 8 + a / 2 ^ 24 % 256

/-- R194: the legacy integer operations. -/
def legacyOp (op a b c : Nat) : Nat × NFlags :=
  let sa := intOf 32 a
  let sb := intOf 32 b
  let sh := b % 32
  match op with
  | 0x40 => ((a + b) % 2 ^ 32, {})
  | 0x41 => ((a + 2 ^ 32 - b) % 2 ^ 32, {})
  | 0x42 => (a * b % 2 ^ 32, {})
  | 0x43 => (natOfInt 32 (sa * sb / 2 ^ 32), {})
  | 0x44 => (a * b / 2 ^ 32, {})
  | 0x45 => (a &&& b, {})
  | 0x46 => (a ||| b, {})
  | 0x47 => (a ^^^ b, {})
  | 0x48 => (a * 2 ^ sh % 2 ^ 32, {})
  | 0x49 => (a / 2 ^ sh, {})
  | 0x4A => (natOfInt 32 (sa / 2 ^ sh), {})
  | 0x4B => (rotl32 a sh, {})
  | 0x4C => (rotl32 a ((32 - sh) % 32), {})
  | 0x4D => (minS a b, {})
  | 0x4E => (maxS a b, {})
  | 0x4F => (min a b, {})
  | 0x50 => (max a b, {})
  | 0x51 => satInt (sa + sb)
  | 0x52 => satInt (sa - sb)
  | 0x53 => satInt sa.natAbs
  | 0x54 => (minS (maxS a b) c, {})
  | 0x55 => mulShr a b c
  | 0x56 => (clz32 a, {})
  | 0x57 => (popCount 32 a, {})
  | _ => (bswap32 a, {})

/-- R192, R194: one lane of an operation that gives a value. -/
def laneOp (op a b c : Nat) : Nat × NFlags :=
  match op with
  | 0x00 => (a, {})
  | 0x01 => addF32 a b
  | 0x02 => subF32 a b
  | 0x03 => subF32 b a
  | 0x04 => mulF32 a b
  | 0x05 => fmaF32 a b c
  | 0x06 => divF32 (f32Num a) (f32Num b)
  | 0x07 => (minF32 a b, {})
  | 0x08 => (maxF32 a b, {})
  | 0x09 => (if f32Num a = .nan then f32NaN else a % 2 ^ 31, {})
  | 0x0A => (if f32Num a = .nan then f32NaN else a ^^^ 2 ^ 31, {})
  | 0x0B => sqrtF32 (f32Num a)
  | 0x0C => rsqrtF32 (f32Num a)
  | 0x0D => divF32 (.ofInt 1) (f32Num a)
  | 0x0E => RealFn.exp.eval a
  | 0x0F => RealFn.log.eval a
  | 0x10 => (reluF32 a, {})
  | 0x11 => RealFn.gelu.eval a
  | 0x12 => RealFn.silu.eval a
  | 0x13 => RealFn.sigmoid.eval a
  | 0x14 => RealFn.tanh.eval a
  | 0x15 => RealFn.softplus.eval a
  | 0x18 => derivOp 1 a b
  | 0x19 => derivOp 2 a b
  | 0x1A => derivOp 3 a b
  | 0x1B => derivOp 4 a b
  | 0x1C => derivOp 5 a b
  | 0x1D => derivOp 6 a b
  | 0x1E => (minF32 (maxF32 a b) c, {})
  | 0x1F => (b, {})
  | 0x24 =>
    let r := toIntClamp (-(2 ^ 31)) (2 ^ 31 - 1) {} (f32Num a)
    (natOfInt 32 r.1, r.2)
  | 0x25 => toF32 {} (.ofInt (intOf 32 a))
  | _ => legacyOp op a b c

/-- R192, R194: one lane of a compare or of RNG_KEEP, whose drawn word is w. -/
def laneTest (op a b w : Nat) : Bool :=
  match op with
  | 0x20 => cmpF32 a b (· == .lt)
  | 0x21 => cmpF32 a b (· != .gt)
  | 0x22 => cmpF32 a b (· == .eq)
  | 0x23 => !cmpF32 a b (· == .eq)
  | 0x26 => decide (b ≤ w)
  | 0x58 => a == b
  | 0x59 => decide (intOf 32 a < intOf 32 b)
  | _ => decide (a < b)

/-- R205: a flag set as bits of VEC_FLAGS. -/
def NFlags.vecBits (f : NFlags) : Nat :=
  ofBool f.invalid + 2 * ofBool f.divZero + 4 * ofBool f.overflow + 8 * ofBool f.underflow + 16 * ofBool f.inexact +
  32 * ofBool f.saturate

end Sys2Proof.Machine
end

