-- ==== Sys2Proof/Machine/Vector.lean ====
section
/-! DEFINITION. The vector engine (chapter 09): its registers, loads and stores, single instructions, chains, and the
vector queue. -/

namespace Sys2Proof.Machine

/-! ### Registers -/

/-- V0 to V31: the 256 lanes of a register. -/
def Core.lanes (k : Core) (v : Nat) : List Nat := (SMap.at' (List.replicate 256 0) k.vregs v).map BitVec.toNat

/-- The core with a vector register written. -/
def Core.setLanes (k : Core) (v : Nat) (l : List Nat) : Core :=
  { k with vregs := SMap.set (fun _ => List.replicate 256 0) k.vregs v (l.map (BitVec.ofNat 32)) }

/-- R188: a mask register; M0 reads as all ones. -/
def Core.mask (k : Core) (i : Nat) : BitVec 256 := if i = 0 then BitVec.allOnes 256 else SMap.at' 0 k.masks i

/-- The core with a mask register written. -/
def Core.setMask (k : Core) (i : Nat) (m : BitVec 256) : Core := { k with masks := SMap.set (fun _ => 0) k.masks i m }

/-- A mask whose bits are a list. -/
def maskOfBits (l : List Bool) : BitVec 256 := BitVec.ofNat 256 (ofLeBits l)
where
  /-- The number a list of bits spells, lowest first. -/
  ofLeBits : List Bool → Nat
    | [] => 0
    | b :: bs => ofBool b + 2 * ofLeBits bs

/-- A vector fault of a kind outside a chain. -/
def vecFault (kind detail : Nat) (stage : Nat := 0xFF) : UnitFault := ⟨0x0901, kind, stage, wordOf detail⟩

/-- R196: an aligned run of scratch bytes, or the fault. -/
def vecSpan (a n align : Nat) : Option UnitFault :=
  if a % align ≠ 0 ∨ scratchSize < a + n then some (vecFault 2 a) else none

/-- R214: a run of the scale store, or the fault. -/
def vecScales (fmt a n : Nat) : Option UnitFault := if isMx fmt && decide (2 ^ 18 < a + n) then some (vecFault 2 a) else none

/-- R205: flags, saturations and passes of an instruction. -/
def Device.vecCount (d : Device) (c : Nat) (f : NFlags) (sat passes : Nat) : Device :=
  let d := d.setReg (.vecFlags c) (d.reg (.vecFlags c) ||| wordOf f.vecBits)
  (d.bump (.vecSatCount c) Fd.vecSatCountSaturated sat).bump (.vecPasses c) Fd.vecPassesPasses passes

/-! ### Conversions of loads and stores (R196) -/

/-- The flags of R148 that a conversion raises. -/
def NFlags.ofConversion (f : NFlags) : NFlags := { f with underflow := false }

/-- R196: one element loaded: floats to binary32 exactly, integers sign-extended, binary32 and INT32 unchanged. s is the
block scale of an MX format. -/
def loadElem (fmt code : Nat) (s : Nat) : Nat × NFlags :=
  if fmt = 0 ∨ fmt = 0xA then (code, {})
  else if fmt = 8 ∨ fmt = 9 then (natOfInt 32 (intOf (elemBits fmt) code), {})
  else
    let x := elemNum fmt code
    let r := toF32 {} (if isMx fmt then x.mul (e8m0 s) else x)
    (r.1, r.2.ofConversion)

/-- R196, R148: one lane stored to a format without block scale: INT8 and INT4 take the lane as a 32-bit integer,
INT32 takes it unchanged. -/
def storeElem (fmt : Nat) (sat : Bool) (r : Rnd) (lane : Nat) : Nat × NFlags :=
  if fmt = 0xA then (lane, {})
  else if fmt = 8 ∨ fmt = 9 then convert fmt sat r (.ofInt (intOf 32 lane))
  else
    let x := convert fmt sat r (f32Num lane)
    (x.1, x.2.ofConversion)

/-- R196, R149: lanes stored: each block's scale byte for an MX format, and each lane's code and flags. -/
def storeElems (fmt : Nat) (sat : Bool) (rs : List Rnd) (lanes : List Nat) : List Nat × List (Nat × NFlags) :=
  if isMx fmt then
    let n := (lanes.length + 31) / 32
    let qs := ((chunksOf 32 n (lanes.map f32Num)).zip (chunksOf 32 n rs)).map fun b => quantBlock fmt b.2 b.1
    (qs.map Prod.fst, (qs.flatMap Prod.snd).map fun e => (e.1, e.2.ofConversion))
  else ([], (lanes.zip rs).map fun x => storeElem fmt sat x.2 x.1)

/-- Scratch with one element of w bits written at byte a; hi takes the upper half of the byte in a 4-bit format. -/
def putElem (m : SMap Byte) (a w : Nat) (hi : Bool) (code : Nat) : List Byte :=
  if w = 4 then
    let old := scrNat m a 1
    [BitVec.ofNat 8 (if hi then old % 16 + 16 * (code % 16) else old / 16 * 16 + code % 16)]
  else leBytes (w / 8) code

/-! ### Single instructions -/

/-- R196: VLOAD. -/
def Device.vload (d : Device) (c : Nat) (it : QItem) : Device × Option UnitFault :=
  let k := d.core c
  let w := it.word
  let fmt := fieldOf w 46 43
  let a := (it.s (fieldOf w 50 47)).toNat
  let sa := (it.s (fieldOf w 42 39)).toNat
  if 0xA < fmt then (d, some (vecFault 1 43))
  else if fieldOf w 28 0 ≠ 0 then (d, some (vecFault 1 (lowBit 29 (fieldOf w 28 0))))
  else
    match vecSpan a (32 * elemBits fmt) 32, vecScales fmt sa 8 with
    | some e, _ => (d, some e)
    | none, some e => (d, some e)
    | none, none =>
      let m := k.view .vector d.free
      let gov := k.mask (fieldOf w 31 29)
      let old := k.lanes (fieldOf w 55 51)
      let out := (List.range 256).map fun i =>
        if gov.getLsbD i then loadElem fmt (elemIn m a (elemBits fmt) i) (scrNat m (sclAt 0 + sa + i / 32) 1)
        else (old.getD i 0, {})
      ((({ d with free := d.free + 1 }).setCore c (k.setLanes (fieldOf w 55 51) (out.map Prod.fst))).vecCount c
        (NFlags.all (out.map Prod.snd)) 0 1, none)

/-- S[i] of an issued instruction; what ID_REG + 1 = 16 names is open. -/
def QItem.sOpen (it : QItem) (free i : Nat) : Word := if i < 16 then it.s i else Config.freeWord free

/-- R196: VSTORE. -/
def Device.vstore (d : Device) (c : Nat) (it : QItem) : Device × Option UnitFault :=
  let k := d.core c
  let w := it.word
  let fmt := fieldOf w 46 43
  let bits := elemBits fmt
  let a := (it.s (fieldOf w 50 47)).toNat
  let sa := (it.s (fieldOf w 42 39)).toNat
  let round := fieldOf w 38 37
  if 0xA < fmt then (d, some (vecFault 1 43))
  else if round = 3 then (d, some (vecFault 1 37))
  else if isMx fmt = true ∧ fieldOf w 31 29 ≠ 0 then (d, some (vecFault 1 29))
  else if fieldOf w 28 0 ≠ 0 then (d, some (vecFault 1 (lowBit 29 (fieldOf w 28 0))))
  else
    match vecSpan a (32 * bits) 32, vecScales fmt sa 8 with
    | some e, _ => (d, some e)
    | none, some e => (d, some e)
    | none, none =>
      let ids := fieldOf w 35 32
      let tensor := fieldOf (it.s ids) 31 0
      let place := it.sOpen d.free (ids + 1)
      let rs := (List.range 256).map fun i => convRnd (d.drawKey c) round tensor (fieldOf place 63 32) (fieldOf place 31 0 + i)
      let q := storeElems fmt (bitOf w.toNat 36) rs (k.lanes (fieldOf w 55 51))
      let gov := k.mask (fieldOf w 31 29)
      let k := q.2.zipIdx.foldl (fun (k : Core) (x : (Nat × NFlags) × Nat) =>
        if gov.getLsbD x.2 then
          k.scrWrite .vector (a + x.2 * bits / 8) (putElem k.scratch (a + x.2 * bits / 8) bits (x.2 % 2 == 1) x.1.1)
        else k) k
      let k := k.scrWrite .vector (sclAt 0 + sa) (q.1.map (BitVec.ofNat 8))
      let done := (q.2.zipIdx.filter fun x => gov.getLsbD x.2).map fun x => x.1.2
      ((({ d with free := d.free + 1 }).setCore c k).vecCount c (NFlags.all done) (done.filter NFlags.saturate).length 1, none)

/-- R190, R207: the lowest bit of the first field of an operation that is not permitted. -/
def opField (w : Word) (chain : Bool) : Option Nat :=
  let op := fieldOf w 55 49
  let kind := fieldOf w 48 46
  if !opKnown op then some 49
  else if 5 ≤ kind ∨ (3 ≤ kind ∧ chain = false) then some 46
  else if kind = 2 ∧ 16 ≤ fieldOf w 45 41 then some 41
  else if bitOf w.toNat 35 = true ∧ 16 ≤ fieldOf w 40 36 then some 36
  else if opCompares op = true ∧ fieldOf w 30 28 = 0 then some 28
  else none

/-- R191: one operation over 256 lanes under the mask that the valid lanes leave it: the result lanes, the masks after
it, its flags and how many elements saturated. draw gives RNG_KEEP's words. -/
def opLanes (w : Word) (masks : Nat → BitVec 256) (valid : BitVec 256) (old a b cs : List Nat) (draw : Nat → Nat) :
    List Nat × (Nat → BitVec 256) × NFlags × Nat :=
  let op := fieldOf w 55 49
  let gov := masks (fieldOf w 34 32) &&& valid
  let mz := bitOf w.toNat 31
  if opCompares op then
    let md := fieldOf w 30 28
    let bits := (List.range 256).map fun i =>
      if gov.getLsbD i then laneTest op (a.getD i 0) (b.getD i 0) (draw i) else !mz && (masks md).getLsbD i
    (old, fun i => if i = md then maskOfBits bits else masks i, {}, 0)
  else
    let out := (List.range 256).map fun i =>
      if gov.getLsbD i then laneOp op (a.getD i 0) (b.getD i 0) (cs.getD i 0) else (if mz then 0 else old.getD i 0, {})
    (out.map Prod.fst, masks, NFlags.all (out.map Prod.snd), (out.filter fun x => x.2.saturate).length)

/-- Operand B of an operation from a vector or scalar register, and operand C. -/
def opB (k : Core) (it : QItem) (w : Word) : List Nat :=
  match fieldOf w 48 46 with
  | 1 => k.lanes (fieldOf w 45 41)
  | 2 => List.replicate 256 (fieldOf (it.s (fieldOf w 45 41)) 31 0)
  | _ => List.replicate 256 0

/-- Operand C of an operation. -/
def opC (k : Core) (it : QItem) (w : Word) : List Nat :=
  if bitOf w.toNat 35 then List.replicate 256 (fieldOf (it.s (fieldOf w 40 36)) 31 0) else k.lanes (fieldOf w 40 36)

/-- R190 to R193: VOP. RNG_KEEP outside a chain draws words that the spec does not state. -/
def Device.vop (d : Device) (c : Nat) (it : QItem) : Device × Option UnitFault :=
  let k := d.core c
  let w := it.word
  match opField w false with
  | some bit => (d, some (vecFault 1 bit))
  | none =>
    if fieldOf w 17 0 ≠ 0 then (d, some (vecFault 1 (lowBit 18 (fieldOf w 17 0))))
    else
      let vd := fieldOf w 27 23
      let r := opLanes w k.mask (BitVec.allOnes 256) (k.lanes vd) (k.lanes (fieldOf w 22 18)) (opB k it w) (opC k it w)
        (fun i => fieldOf (Config.freeWord (d.free + i)) 31 0)
      let k := if opCompares (fieldOf w 55 49) then k.setMask (fieldOf w 30 28) (r.2.1 (fieldOf w 30 28)) else k.setLanes vd r.1
      ((({ d with free := d.free + 256 }).setCore c k).vecCount c r.2.2.1 r.2.2.2 1, none)

/-- R197: VMASK. -/
def Device.vmask (d : Device) (c : Nat) (it : QItem) : Device × Option UnitFault :=
  let k := d.core c
  let w := it.word
  let md := fieldOf w 55 53
  let a := k.mask (fieldOf w 52 50)
  let b := k.mask (fieldOf w 49 47)
  let n := (it.s (fieldOf w 43 40)).toNat
  if md = 0 then (d, some (vecFault 1 53))
  else if 5 ≤ fieldOf w 46 44 then (d, some (vecFault 1 44))
  else if fieldOf w 39 0 ≠ 0 then (d, some (vecFault 1 (lowBit 40 (fieldOf w 39 0))))
  else
    let m := match fieldOf w 46 44 with
      | 0 => a &&& b
      | 1 => a ||| b
      | 2 => a ^^^ b
      | 3 => a &&& ~~~b
      | _ => BitVec.ofNat 256 (2 ^ (min n 256) - 1)
    (d.setCore c (k.setMask md m), none)

/-- R197: the identity of a reduction, as a lane. -/
def reduceUnit (op : Nat) : Nat :=
  match op with
  | 1 => f32Inf + 2 ^ 31
  | 2 => f32Inf
  | 4 => 2 ^ 31
  | 5 => 2 ^ 31 - 1
  | _ => 0

/-- R197: two lanes of a level combined. -/
def reduceTwo (op a b : Nat) : Nat × NFlags :=
  match op with
  | 0 => addF32 a b
  | 1 => (maxF32 a b, {})
  | 2 => (minF32 a b, {})
  | 3 => ((a + b) % 2 ^ 32, {})
  | 4 => (maxS a b, {})
  | _ => (minS a b, {})

/-- R197: the levels of a reduction tree. -/
def reduceLevels (op : Nat) : Nat → List Nat → NFlags → List Nat × NFlags
  | 0, l, f => (l, f)
  | n + 1, l, f =>
    let r := (chunksOf 2 (l.length / 2) l).map fun p => reduceTwo op (p.getD 0 0) (p.getD 1 0)
    reduceLevels op n (r.map Prod.fst) (f.or (NFlags.all (r.map Prod.snd)))

/-- R197, R142: VREDUCE. -/
def Device.vreduce (d : Device) (c : Nat) (it : QItem) : Device × Option UnitFault :=
  let k := d.core c
  let w := it.word
  let op := fieldOf w 45 43
  let seg := fieldOf w 42 39
  if 6 ≤ op then (d, some (vecFault 1 43))
  else if 8 < seg then (d, some (vecFault 1 39))
  else if fieldOf w 35 0 ≠ 0 then (d, some (vecFault 1 (lowBit 36 (fieldOf w 35 0))))
  else
    let gov := k.mask (fieldOf w 38 36)
    let ls := (k.lanes (fieldOf w 50 46)).zipIdx.map fun x =>
      if gov.getLsbD x.2 then (if op ≤ 2 then canonF32 x.1 else x.1) else reduceUnit op
    let r := reduceLevels op seg ls {}
    ((d.setCore c (k.setLanes (fieldOf w 55 51) (r.1 ++ List.replicate (256 - r.1.length) 0))).vecCount c r.2 0 1, none)

/-- R160: a program-defined purpose is registered in the partition's key table, which holds nine. -/
def Part.register (x : Part) (purpose : Nat) : Part :=
  if x.purposes.contains purpose || decide (9 ≤ x.purposes.length) then x else { x with purposes := x.purposes ++ [purpose] }

/-- R197: VGEN. -/
def Device.vgen (d : Device) (c : Nat) (it : QItem) : Device × Option UnitFault :=
  let k := d.core c
  let p := d.corePart c
  let w := it.word
  let va := fieldOf w 50 46
  let purpose := fieldOf (it.s (fieldOf w 45 42)) 15 0
  if va % 4 ≠ 0 then (d, some (vecFault 1 46))
  else if fieldOf w 35 0 ≠ 0 then (d, some (vecFault 1 (lowBit 36 (fieldOf w 35 0))))
  else if purpose < 0x8000 then (d, some (vecFault 4 purpose))
  else
    let gov := k.mask (fieldOf w 39 37)
    let old := k.lanes (fieldOf w 55 51)
    let key := purposeKey (d.part p).seed purpose
    let v := fun (j i : Nat) => (k.lanes (va + j)).getD i 0
    let out := (List.range 256).map fun i =>
      if gov.getLsbD i then (gen key.1 key.2 ⟨v 0 i, v 1 i, v 2 i, v 3 i⟩).get (fieldOf w 41 40)
      else if bitOf w.toNat 36 then 0 else old.getD i 0
    (((d.updPart p fun x => x.register purpose).setCore c (k.setLanes (fieldOf w 55 51) out)).vecCount c {} 0 1, none)

/-- R197: VMOVS of mode 1, which the vector engine runs. -/
def Device.vspread (d : Device) (c : Nat) (it : QItem) : Device × Option UnitFault :=
  let w := it.word
  if fieldOf w 33 0 ≠ 0 then (d, some (vecFault 1 (lowBit 34 (fieldOf w 33 0))))
  else (d.updCore c fun k => k.setLanes (fieldOf w 53 49) (List.replicate 256 (fieldOf (it.s (fieldOf w 48 45)) 31 0)), none)

/-- R198: a core after a VCHAIN_LOAD whose fields and address are as they must be, by the scratch it sees. -/
def Core.chainLoaded (k : Core) (m : SMap Byte) (it : QItem) : Core :=
  let a := (it.s (fieldOf it.word 51 48)).toNat
  let n := fieldOf it.word 47 45 + 1
  if fieldOf it.word 44 0 ≠ 0 ∨ (vecSpan a (8 * n) 64).isSome then k
  else { k with chains := SMap.set (fun _ => []) k.chains (fieldOf it.word 55 52)
                  ((List.range n).map fun i => wordOf (scrNat m (a + 8 * i) 8)) }

/-- R198: VCHAIN_LOAD. -/
def Device.vchainLoad (d : Device) (c : Nat) (it : QItem) : Device × Option UnitFault :=
  let k := d.core c
  let w := it.word
  let a := (it.s (fieldOf w 51 48)).toNat
  let n := fieldOf w 47 45 + 1
  if fieldOf w 44 0 ≠ 0 then (d, some (vecFault 1 (lowBit 45 (fieldOf w 44 0))))
  else
    match vecSpan a (8 * n) 64 with
    | some e => (d, some e)
    | none => (({ d with free := d.free + 1 }).setCore c (k.chainLoaded (k.view .vector d.free) it), none)

/-! ### Chains (R198 to R203) -/

/-- R199: quadword i of the parameter block of a VCHAIN. -/
def blockWord (m : SMap Byte) (it : QItem) (i : Nat) : Word :=
  wordOf (scrNat m ((it.s (fieldOf it.word 51 48)).toNat + 8 * i) 8)

/-- R199: the stream of a chain: where its elements lie, how many there are and who they are. -/
structure ChainOp where
  count : Nat
  cols : Nat
  inFmt : Nat
  outFmt : Nat
  round : Nat
  sat : Bool
  tileIn : Bool
  tileOut : Bool
  fromScratch : Bool
  noDest : Bool
  applyScale : Bool
  inAt : Nat
  inScl : Nat
  outAt : Nat
  outScl : Nat
  scale : Nat
  fmt2 : Nat
  at2 : Nat
  stride : Nat
  base : Nat
  tensor : Nat
  row : Nat
  col : Nat
  deriving DecidableEq, Repr

/-- R199: the fields of a parameter block; a tile-queue entry gives the format, count, width and scale of its stream,
and its ids where USE_TQ_IDS is set. -/
def chainOp (m : SMap Byte) (it : QItem) (entry : Option TqEntry) : ChainOp :=
  let q := blockWord m it
  let b := fun (i : Nat) => bitOf (q 0).toNat i
  let ids := bitOf (q 5).toNat 63
  { count := match entry with
      | some e => 64 * e.cols
      | none => fieldOf (q 0) 63 32
    cols := match entry with
      | some e => e.cols
      | none => fieldOf (q 0) 31 16
    inFmt := match entry with
      | some e => e.fmt
      | none => fieldOf (q 0) 15 12
    outFmt := fieldOf (q 0) 11 8, round := fieldOf (q 0) 7 6, sat := b 5, tileIn := b 4, tileOut := b 3
    fromScratch := b 2, noDest := b 1, applyScale := b 0
    inAt := fieldOf (q 1) 21 0, inScl := fieldOf (q 1) 53 32, outAt := fieldOf (q 2) 21 0, outScl := fieldOf (q 2) 53 32
    scale := match entry with
      | some e => e.scale.toNat
      | none => fieldOf (q 3) 63 32
    fmt2 := fieldOf (q 3) 27 24, at2 := fieldOf (q 3) 21 0, stride := fieldOf (q 4) 63 32, base := fieldOf (q 4) 21 0
    tensor := match entry with
      | some e => if ids then e.tensor else fieldOf (q 5) 31 0
      | none => fieldOf (q 5) 31 0
    row := match entry with
      | some e => if ids then e.row else fieldOf (q 6) 63 32
      | none => fieldOf (q 6) 63 32
    col := match entry with
      | some e => if ids then e.col else fieldOf (q 6) 31 0
      | none => fieldOf (q 6) 31 0 }

/-- The stage words of a chain table entry. -/
def Core.stages (k : Core) (t : Nat) : List Word := SMap.at' [] k.chains t

/-- R190, R198, R207: the first stage word that is not permitted: its stage and the bit. -/
def stageFault (stages : List Word) : Option UnitFault :=
  stages.zipIdx.findSome? fun x =>
    if fieldOf x.1 63 56 ≠ 0 then some (vecFault 1 (56 + lowBit 8 (fieldOf x.1 63 56)) x.2)
    else
      match opField x.1 true with
      | some bit => some (vecFault 1 bit x.2)
      | none => if fieldOf x.1 27 0 ≠ 0 then some (vecFault 1 (lowBit 28 (fieldOf x.1 27 0)) x.2) else none

/-- R199, R200: the byte of stream element e, and whether it is the upper half of it in a 4-bit format. -/
def streamAt (tile : Bool) (base w cols e : Nat) : Nat × Bool :=
  if tile then (tileByte base w (e / cols) (e % cols), e % cols % 2 == 1) else (base + e * w / 8, e % 2 == 1)

/-- R200: where the block scale of stream element e lies in the scale store's map. -/
def streamScaleAt (tile : Bool) (fmt base scl w cols e : Nat) : Nat :=
  if tile then tileScaleAt fmt (tileByte base w (e / cols) (e % cols / 32 * 32)) else sclAt 0 + scl + e / 32

/-- The code of stream element e in scratch. -/
def streamElem (m : SMap Byte) (tile : Bool) (base w cols e : Nat) : Nat :=
  let a := streamAt tile base w cols e
  if w = 4 then
    let b := scrNat m a.1 1
    if a.2 then b / 16 else b % 16
  else scrNat m a.1 (w / 8)

/-- The greatest byte address a stream of count elements reaches, plus one. -/
def streamEnd (tile : Bool) (base w cols count : Nat) : Nat :=
  let e := fun (i : Nat) => (streamAt tile base w cols i).1 + max 1 (w / 8)
  if tile then max (e (count - 1)) (if cols ≤ count then e ((count / cols) * cols - 1) else 0) else e (count - 1)

/-- R200: the columns of a row that a chain's stream uses. -/
def ChainOp.width (o : ChainOp) : Nat := min o.cols o.count

/-- R176, R200: the frames of a tile-layout output that hold an element of the stream: for each column group of a frame's width,
those its rows reach. -/
def ChainOp.outFrames (o : ChainOp) : List Nat :=
  let per := 512 / elemBits o.outFmt
  (List.range (tileFrames o.outFmt o.width)).flatMap fun g =>
    let rows := o.count / o.cols + ofBool (g * per < o.count % o.cols)
    (List.range ((rows + 63) / 64)).map fun i => o.outAt / 4096 + g + i

/-- R196, R199, R200, R214: the first address of a chain's streams that is misaligned or lies beyond scratch or the scale store,
with the stage that takes the second stream or the column vector (R207). -/
def chainAddr (o : ChainOp) (stages : List Word) (entry : Bool) : Option UnitFault :=
  let beyond := fun (tile : Bool) (fmt base stage : Nat) =>
    let e := streamEnd tile base (elemBits fmt) o.cols o.count
    if tile = true ∧ destAligned fmt o.width base = false then some (vecFault 2 base stage)
    else if scratchSize < e then some (vecFault 2 (e - 1) stage) else none
  let scl := fun (fmt : Nat) (tile : Bool) (s : Nat) =>
    if isMx fmt && !tile && decide (2 ^ 18 < s + (o.count + 31) / 32) then some (vecFault 2 s) else none
  let operand := stages.zipIdx.findSome? fun x =>
    let a := o.base + o.stride * fieldOf x.1 45 41
    match fieldOf x.1 48 46 with
    | 3 => if scratchSize < a + 4 * o.width then some (vecFault 2 a x.2) else none
    | 4 => beyond o.tileIn o.fmt2 o.at2 x.2
    | _ => none
  let input := if entry then none else (beyond o.tileIn o.inFmt o.inAt 0xFF).or (scl o.inFmt o.tileIn o.inScl)
  let output := if o.noDest then none
    else (beyond o.tileOut o.outFmt o.outAt 0xFF).or (scl o.outFmt o.tileOut o.outScl)
  (input.or operand).or output

/-- R199: the quadword of a parameter block that breaks a limit. A block of 32 elements leaves its row where the stream has a
further row and N is no multiple of 32. -/
def blockFault (o : ChainOp) (entry : Bool) : Option Nat :=
  if entry = false ∧ (o.count = 0 ∨ 2 ^ 24 < o.count ∨ o.cols = 0 ∨ 0xA < o.inFmt) then some 0
  else if 0xA < o.outFmt ∨ o.round = 3 then some 0
  else if (isMx o.inFmt = true ∨ (isMx o.outFmt = true ∧ o.noDest = false)) ∧ o.cols % 32 ≠ 0 ∧ o.cols < o.count then some 0
  else if 0xA < o.fmt2 ∨ isMx o.fmt2 = true then some 3
  else if o.base % 4 ≠ 0 then some 4
  else none

/-- What a chain has done so far: the core and scratch as the engine sees it, the masks of the last pass, flags and
saturations. -/
structure ChainRun where
  k : Core
  m : SMap Byte
  masks : Nat → BitVec 256
  flags : NFlags := {}
  sats : Nat := 0

/-- R201, R145: a converted input element times the tile scale, with one rounding; an integer element's lane is the integer. -/
def scaledLane (fmt lane scale : Nat) : Nat × NFlags :=
  if (floatFmt fmt).isSome then mulF32 lane scale
  else
    let x := Num.ofInt (intOf 32 lane)
    withInvalid [x, f32Num scale] (toF32 {} (x.mul (f32Num scale)))

/-- R201: one pass of a chain, elements 256 q to 256 q + 255. -/
def chainPass (key : DrawKey) (it : QItem) (o : ChainOp) (stages : List Word) (entry : Option TqEntry)
    (start : Nat → BitVec 256) (x : ChainRun) (q : Nat) : ChainRun :=
  let lo := 256 * q
  let n := min 256 (o.count - lo)
  let lanesOf := fun (f : Nat → Nat) => (List.range 256).map fun i => if i < n then f (lo + i) else 0
  let wi := elemBits o.inFmt
  let inputs := (List.range 256).map fun i =>
    let e := lo + i
    if i < n then
      let r := match entry with
        | some t => loadElem o.inFmt (t.codes.getD e 0).toNat ((t.scales.getD (e / o.cols * (o.cols / 32) + e % o.cols / 32) 0)).toNat
        | none => loadElem o.inFmt (streamElem x.m o.tileIn o.inAt wi o.cols e)
            (scrNat x.m (streamScaleAt o.tileIn o.inFmt o.inAt o.inScl wi o.cols e) 1)
      if o.applyScale then
        let s := scaledLane o.inFmt r.1 o.scale
        (s.1, r.2.or s.2)
      else r
    else (0, {})
  let rowOf := fun (e : Nat) => (o.row + e / o.cols) % 2 ^ 32
  let colOf := fun (e : Nat) => o.col + e % o.cols
  let draw := fun (i : Nat) =>
    drawWord key.seed 2 o.tensor key.step (rowOf (lo + i)) (colOf (lo + i) / 4) (colOf (lo + i) % 4)
  let valid := BitVec.ofNat 256 (2 ^ n - 1)
  let run := stages.foldl (fun (s : List Nat × (Nat → BitVec 256) × NFlags × Nat) w =>
    let b := match fieldOf w 48 46 with
      | 3 => lanesOf fun e => scrNat x.m (o.base + o.stride * fieldOf w 45 41 + 4 * (e % o.cols)) 4
      | 4 => lanesOf fun e => (loadElem o.fmt2 (streamElem x.m o.tileIn o.at2 (elemBits o.fmt2) o.cols e) 0).1
      | _ => opB x.k it w
    let r := opLanes w s.2.1 valid s.1 s.1 b (opC x.k it w) draw
    (r.1, r.2.1, s.2.2.1.or r.2.2.1, s.2.2.2 + r.2.2.2)) (inputs.map Prod.fst, start, NFlags.all (inputs.map Prod.snd), 0)
  let x := { x with masks := run.2.1, flags := x.flags.or run.2.2.1, sats := x.sats + run.2.2.2 }
  if o.noDest then x
  else
    let wo := elemBits o.outFmt
    let rs := (List.range n).map fun i => convRnd key o.round o.tensor (rowOf (lo + i)) (colOf (lo + i))
    let st := storeElems o.outFmt o.sat rs (run.1.take n)
    let put := fun (x : ChainRun) (a : Nat) (bs : List Byte) =>
      { x with m := SMap.setList zeroByte x.m a bs, k := x.k.scrWrite .vector a bs }
    let x := st.2.zipIdx.foldl (fun (x : ChainRun) (y : (Nat × NFlags) × Nat) =>
      let a := streamAt o.tileOut o.outAt wo o.cols (lo + y.2)
      put x a.1 (putElem x.k.scratch a.1 wo a.2 y.1.1)) x
    let x := st.1.zipIdx.foldl (fun (x : ChainRun) (y : Nat × Nat) =>
      put x (streamScaleAt o.tileOut o.outFmt o.outAt o.outScl wo o.cols (lo + 32 * y.2)) (leBytes 1 y.1)) x
    { x with flags := x.flags.or (NFlags.all (st.2.map Prod.snd))
             sats := x.sats + (st.2.filter fun (e : Nat × NFlags) => e.2.saturate).length }

/-- The masks a chain writes. -/
def chainWrites (stages : List Word) : List Nat :=
  (stages.filter fun w => opCompares (fieldOf w 55 49)).map fun w => fieldOf w 30 28

/-- R198 to R203: one VCHAIN; entry is the tile-queue entry it takes. -/
def Device.vchain (d : Device) (c : Nat) (it : QItem) : Device × Option UnitFault :=
  let k := d.core c
  let w := it.word
  let t := fieldOf w 55 52
  let stages := k.stages t
  let pb := (it.s (fieldOf w 51 48)).toNat
  if fieldOf w 47 0 ≠ 0 then (d, some (vecFault 1 (lowBit 48 (fieldOf w 47 0))))
  else if stages = [] then (d, some (vecFault 3 t))
  else
    match stageFault stages, vecSpan pb 64 64 with
    | some e, _ => (d, some e)
    | none, some e => (d, some e)
    | none, none =>
      let m := k.view .vector d.free
      let fromScratch := bitOf (blockWord m it 0).toNat 2
      let entry := if fromScratch then none else k.tq.head?
      let o := chainOp m it entry
      match blockFault o entry.isSome, chainAddr o stages entry.isSome with
      | some q, _ => (d, some (vecFault 5 q))
      | none, some e => (d, some e)
      | none, none =>
        let k := if fromScratch then k else { k with tq := k.tq.drop 1 }
        let passes := (o.count + 255) / 256
        let r := (List.range passes).foldl (chainPass (d.drawKey c) it o stages entry k.mask) { k := k, m := m, masks := k.mask }
        let k := if o.tileOut && !o.noDest then
            ((List.range 1024).filter fun f => o.outFrames.contains f).foldl (fun (k : Core) f => k.setHdr .vector f o.outFmt f32One) r.k
          else r.k
        let k := (chainWrites stages).foldl (fun (k : Core) i => k.setMask i (r.masks i)) k
        ((({ d with free := d.free + 1 }).setCore c k).vecCount c r.flags r.sats passes, none)

/-! ### The vector queue -/

/-- R203: an issued VCHAIN waits for a complete tile-queue entry. -/
def Device.lacksEntry (d : Device) (c : Nat) (it : QItem) : Bool :=
  let k := d.core c
  let w := it.word
  fieldOf w 63 56 == 0x45 && k.tq.isEmpty && fieldOf w 47 0 == 0 && !(k.stages (fieldOf w 55 52)).isEmpty &&
  (stageFault (k.stages (fieldOf w 55 52))).isNone && (vecSpan (it.s (fieldOf w 51 48)).toNat 64 64).isNone &&
  !bitOf (blockWord (k.view .vector d.free) it 0).toNat 2

/-- One issued vector instruction takes effect. -/
def Device.vectorRun (d : Device) (c : Nat) (it : QItem) : Device × Option UnitFault :=
  match fieldOf it.word 63 56 with
  | 0x40 => d.vload c it
  | 0x41 => d.vstore c it
  | 0x42 => d.vop c it
  | 0x43 => d.vmask c it
  | 0x44 => d.vchainLoad c it
  | 0x45 =>
    let r := d.vchain c it
    (r.1.itemDone c it, r.2)
  | 0x47 => d.vgen c it
  | 0x48 => d.vreduce c it
  | _ => d.vspread c it

/-- R203, R204: the vector queue goes on until it is empty, a VCHAIN waits for an entry, or an instruction faults; where
skip is set, a VCHAIN that waits is discarded (R203). Gives back the fault with its instruction. -/
def Device.vectorPump (c : Nat) (skip : Bool) : Nat → Device → Device × Option (QItem × UnitFault)
  | 0, d => (d, none)
  | fuel + 1, d =>
    match (d.core c).vq with
    | [] => (d, none)
    | it :: rest =>
      let d' := d.updCore c fun k => { k with vq := rest }
      if d.lacksEntry c it then
        if skip then Device.vectorPump c skip fuel (d'.itemDone c it) else (d, none)
      else
        match d'.vectorRun c it with
        | (d, none) => Device.vectorPump c skip fuel d
        | (d, some e) => (d, some (it, e))

/-- R173, R183, R203, R207: what a core's engines still hold ends with its program: a DRAIN that waits for a credit and
what follows it is discarded, a VCHAIN that waits is discarded, the other vector instructions complete, the tile-queue
entries not taken are counted in TQ_DISCARDS. Gives back a vector fault met on the way. -/
def Device.endUnits (d : Device) (c : Nat) : Device × Option (QItem × UnitFault) :=
  let waiting := (d.core c).aq
  let d := waiting.foldl (fun (d : Device) it => d.itemDone c it) (d.updCore c fun k => { k with aq := [] })
  let (d, fault) := Device.vectorPump c true 17 d
  let d := (d.core c).vq.foldl (fun (d : Device) it => d.itemDone c it) d
  let d := d.bump (.mxaStatus c) Fd.mxaStatusTqDiscards (d.core c).tq.length
  (d.updCore c fun k => { k with vq := [], tq := [] }, fault)

end Sys2Proof.Machine
end

