-- ==== Sys2Proof/Machine/Cores.lean ====
section
/-! DEFINITION. A core's sequencer: blocks and fetch leases (R107 to R110), how it advances through loops (R112),
how it faults (R113) and how it stops (R114, R115). -/

namespace Sys2Proof.Machine

/-- The region of a program word (R105). -/
def regionOf (w : Nat) : Nat := w / 512

/-- A word of a core's program memory; it reads zero until it is written (R105). -/
def Core.word (k : Core) (a : Nat) : Word := SMap.at' 0 k.pmem a

/-- A part of a program write lands whole (R109). -/
def Core.land (k : Core) (x : PmemPart) : Core := { k with pmem := SMap.setList (fun _ => 0) k.pmem x.word x.data }

/-- R110: a part in the pending buffer lands when the core stops for any reason. -/
def Core.landLapsed (k : Core) : Core :=
  match k.lapsed with
  | none => k
  | some x => { k.land x with lapsed := none }

/-- How a core left its program. -/
inductive CoreEnd where
  | halted | faulted | timedOut
  deriving DecidableEq, Repr

/-- R114: a target core has left its PROG_START: fewer remain (aux 0), whether one faulted (aux 1) or timed out
(aux 2), and the final S1 of rank 0. -/
def Cmd.coreEnded (x : Cmd) (rank : Nat) (e : CoreEnd) (s1 : Word) : Cmd :=
  { x with
    aux := [x.aux.getD 0 0 - 1, x.aux.getD 1 0 + ofBool (e == .faulted), x.aux.getD 2 0 + ofBool (e == .timedOut)]
    value := if rank = 0 then s1 else x.value }

/-- R118, R124: a core no longer waits on any object. -/
def Device.dropCoreWaiter (d : Device) (c : Nat) : Device :=
  let drop := fun (o : SyncObj) => { o with waiters := o.waiters.filter fun w => !(w.isCore && w.who == c) }
  { d with objs := SMap.mapAll (fun _ => {}) drop d.objs }

/-- R115: the core leaves its program: what its engines hold ends (R173, R203), a lapsed part lands, loops and lease
end, and its command is told. A vector fault met on the way leaves it FAULTED. -/
def Device.coreStop (d : Device) (c : Nat) (st : SeqState) (e : CoreEnd) : Device :=
  let (d, fault) := d.endUnits c
  let (d, st, e) := match fault with
    | none => (d, st, e)
    | some f => (d.logUnit c f.1 f.2, .faulted, .faulted)
  let k := d.core c
  let d := (d.dropCoreWaiter c).setCore c { k.landLapsed with
    st := st, loops := [], lease := none, job := none, pumpWait := none, stalled := false }
  match k.job with
  | none => d
  | some (p, q, idx) => d.updCmd p q idx fun x => x.coreEnded k.rank e (k.sreg 1)

/-- R183, R207: an array or vector fault stops the core: what was issued before the faulting instruction completes,
what was issued after it to the same engine is discarded. -/
def Device.unitStop (d : Device) (c : Nat) (it : QItem) (f : UnitFault) : Device :=
  let d := d.logUnit c it f
  let d := if f.code = 0x0901 then
      ((d.core c).vq.foldl (fun (d : Device) x => d.itemDone c x) d).updCore c fun k => { k with vq := [] }
    else d
  d.coreStop c .faulted .faulted

/-- R104: DETAIL of 0x0503 and 0x0504: core, region and kind. -/
def coreDetail (c word kind : Nat) (obj : Nat := 0) : Word :=
  wordOf (c + (regionOf word % 16) * 2 ^ 8 + kind * 2 ^ 12 + obj * 2 ^ 32)

/-- The queue, ring index and QW0 of a core's command, for its records. -/
def Device.jobOf (d : Device) (c : Nat) : Nat × Nat × Word :=
  match (d.core c).job with
  | none => (0xFF, 0, 0)
  | some (p, q, idx) => (q, idx, ((d.cmd? p q idx).map (·.desc.q0)).getD 0)

/-- A command-processing record about a core. -/
def Device.logCore (d : Device) (c code : Nat) (detail : Word) : Device :=
  let j := d.jobOf c
  d.logPart (d.corePart c) code 3 (cmdBody j.1 j.2.1 (fieldOf j.2.2 63 56) 0 detail j.2.2) (c / 64)

/-- R113: a program fault: 0x0504 with its kind, and the core FAULTED. -/
def Device.progFault (d : Device) (c kind : Nat) (obj : Nat := 0) : Device :=
  (d.logCore c 0x0504 (coreDetail c (d.core c).pc kind obj)).coreStop c .faulted .faulted

/-- R107, R108, R110, R115: a block ends: the lease is released; a lapsed part lands and faults the core as stale;
a STOPPING core becomes IDLE. -/
def Device.blockEnd (d : Device) (c : Nat) : Device :=
  let k := d.core c
  match k.lapsed with
  | some x =>
    ((d.bump (.cmdPartStatus (d.corePart c)) Fd.cmdPartStatusStaleFaults).logCore c 0x0503
      (coreDetail c x.word 0)).coreStop c .faulted .faulted
  | none =>
    if k.st = .stopping then d.coreStop c .idle .halted
    else d.setCore c { k with lease := none }

/-- R112: where word w's successor lies: the next pc, the loops that remain, and whether a loop body ended. -/
def loopNext (w : Nat) : List LoopFrame → Nat × List LoopFrame × Bool
  | [] => (w + 1, [], false)
  | f :: fs =>
    if w = f.last then
      if 1 < f.left then (f.first, { f with left := f.left - 1 } :: fs, true)
      else
        let r := loopNext w fs
        (r.1, r.2.1, true)
    else (w + 1, f :: fs, false)

/-- The sequencer goes on from word w, which it has run or skipped: through its loops, past the end of a block
where one ends; a core that still runs past word 8,191 has a fault of kind 5 (R107, R112, R113). DESIGN CHOICE (log entry 128): the word
that its record concerns is word 8,191, where the core stays, so its region is 15. -/
def Device.advanceFrom (d : Device) (c w : Nat) (ends : Bool := false) : Device :=
  let k := d.core c
  let r := loopNext w k.loops
  let past := decide (r.1 = 8192)
  let d := d.setCore c { k with pc := if past then w else r.1, loops := r.2.1 }
  let d := if ends || r.2.2 || w % 512 == 511 then d.blockEnd c else d
  if past ∧ (d.core c).st = .running then d.progFault c 5 else d

/-- The sequencer goes on from the word it stands at. -/
def Device.advance (d : Device) (c : Nat) (ends : Bool := false) : Device := d.advanceFrom c (d.core c).pc ends

/-- R42: the power state of a domain. -/
def Device.domState (d : Device) (n : Nat) : Nat := d.fld (.pwrDomStatus n) Fd.pwrDomStatusState

/-- R108, R115: the core can run the word at its pc: it is RUNNING or STOPPING, powered, and holds its lease, or
may take it because no write waits on the region. -/
def Device.canRun (d : Device) (c : Nat) : Bool :=
  let k := d.core c
  c < 256 && d.domState c == 2 && (k.st == .running || k.st == .stopping) &&
  (k.lease.isSome || !(k.parts.any fun x => regionOf x.word == regionOf k.pc))

/-- R108: entering a block takes the lease on its region. -/
def Device.takeLease (d : Device) (c : Nat) : Device :=
  let k := d.core c
  if k.lease.isSome then d else d.setCore c { k with lease := some (regionOf k.pc) }

/-- The word the core stands at. -/
def Device.coreWord (d : Device) (c : Nat) : Word := (d.core c).word (d.core c).pc

end Sys2Proof.Machine
end

