-- ==== Sys2Proof/Machine/Sync.lean ====
section
/-! DEFINITION. Sync objects (R117 to R122), ordered flows (R131 to R134) and the ready-list entries a start
needs (R127, R128). Start.lean applies the signals. -/

namespace Sys2Proof.Machine

/-! ### Objects -/

/-- A sync object, by device number. -/
def Device.obj (d : Device) (n : Nat) : SyncObj := SMap.at' {} d.objs n

/-- The device with an object set. -/
def Device.setObj (d : Device) (n : Nat) (o : SyncObj) : Device := { d with objs := SMap.set (fun _ => {}) d.objs n o }

/-- R117: the home die of an object. -/
def objDie (n : Nat) : Nat := n / 32768

/-- R119: an object's bound; 0 means 2^64 − 1. -/
def Device.objBound (d : Device) (n : Nat) : Nat :=
  let b := d.fld (.synObjCfg n) Fd.synObjCfgBound
  if b = 0 then 2 ^ 64 - 1 else b

/-- R118: a wait condition: 0 is met at once, 1 and 3 at least, 2 equal. -/
def waitHolds (op : Nat) (v want : Word) : Bool :=
  match op with
  | 0 => true
  | 2 => v == want
  | _ => decide (want.toNat ≤ v.toNat)

/-- R118, R119: the value after a signal of 1 add, 2 subtract or 3 set; none where it would under- or overflow. -/
def signalValue (op : Nat) (v : Word) (amount bound : Nat) : Option Word :=
  match op with
  | 1 => if v.toNat + amount ≤ bound then some (wordOf (v.toNat + amount)) else none
  | 2 => if amount ≤ v.toNat then some (wordOf (v.toNat - amount)) else none
  | _ => if amount ≤ bound then some (wordOf amount) else none

/-- SYN_DBG_LAST_SRC: chip, partition, class and engine of a signaller (R140). -/
def sourceWord (chip part cls engine : Nat) : Word :=
  wordOf (chip * 2 ^ 50 + (part % 8) * 2 ^ 47 + cls * 2 ^ 43 + (engine % 2048) * 2 ^ 32)

/-- R136: bytes 32 to 63 of a record about a sync object. -/
def syncBody (rel part op : Nat) (amount before source : Word) : List Word :=
  [wordOf (rel + part * 2 ^ 32 + op * 2 ^ 40), amount, before, source]

/-- The relative number of a device object in a partition's range (R117). -/
def Device.relOf (d : Device) (p n : Nat) : Nat := n - 1024 * d.fld (.synPartCfg p) Fd.synPartCfgSyncBase

/-! ### Ready-list entries -/

/-- A die's ready list. -/
def Device.readyOf (d : Device) (die : Nat) : List ReadyEntry := SMap.at' [] d.readyLists die

/-- The device with a die's ready list set. -/
def Device.setReady (d : Device) (die : Nat) (l : List ReadyEntry) : Device :=
  { d with readyLists := SMap.set (fun _ => []) d.readyLists die l }

/-- Entries that each formed partition holds beyond its reservation, summed (R128, R122). -/
def sharedUse (reserved : Nat) (held : List Nat) : Nat := (held.map fun h => h - reserved).foldl (· + ·) 0

/-- R128: a partition can obtain one more entry of a die's ready list. -/
def Device.entryFree (d : Device) (p die : Nat) : Bool :=
  let held := fun q => ((d.readyOf die).filter fun e => e.part == q).length
  decide (held p < 128) ||
  decide (sharedUse 128 (d.formedParts.map held) < 4096 - 128 * d.formedParts.length)

/-! ### Ordered flows -/

/-- The key of flow f of partition p. -/
def fkey (p f : Nat) : Nat := 1024 * p + f

/-- A flow's window. -/
def Device.flow (d : Device) (p f : Nat) : Flow := SMap.at' {} d.flows (fkey p f)

/-- A flow's state: 0 CLOSED, 1 OPEN, 2 STALLED, 3 DRAINING (R134). -/
def Device.flowState (d : Device) (p f : Nat) : Nat := d.fld (.synFlowStatus p f) Fd.synFlowStatusState

/-- NEXT_RELEASE of a flow. -/
def Device.flowNext (d : Device) (p f : Nat) : Nat := d.fld (.synFlowStatus p f) Fd.synFlowStatusNextRelease

/-- R132: W, from WINDOW_LOG2; values other than 4 to 8 are taken as 8. -/
def Device.flowWindow (d : Device) (p f : Nat) : Nat :=
  let w := d.fld (.synFlowCfg p f) Fd.synFlowCfgWindowLog2
  if 4 ≤ w ∧ w ≤ 8 then 2 ^ w else 256

/-- R132: what becomes of an item. -/
inductive ItemFate where
  | accept | hold | refuse
  deriving DecidableEq, Repr

/-- R132: the test of an item with a sequence number. -/
def Device.itemFate (d : Device) (p : Nat) (w : Word) : ItemFate :=
  let f := flowNum w
  let dist := (flowSeq w + 2 ^ 32 - d.flowNext p f) % 2 ^ 32
  if d.flowState p f ≠ 1 ∧ d.flowState p f ≠ 2 then .refuse
  else if dist < d.flowWindow p f then
    (if (d.flow p f).items.any (fun i => i.seq == flowSeq w) then .refuse else .accept)
  else if dist < 2 ^ 31 then .hold
  else .refuse

/-- The device with a flow's window set, and IN_WINDOW with it. -/
def Device.setFlow (d : Device) (p f : Nat) (x : Flow) : Device :=
  ({ d with flows := SMap.set (fun _ => {}) d.flows (fkey p f) x }).setFld (.synFlowStatus p f) Fd.synFlowStatusInWindow
    x.items.length

/-- R132: an item takes its slot. -/
def Device.itemAdmit (d : Device) (p : Nat) (w : Word) : Device :=
  let x := d.flow p (flowNum w)
  d.setFlow p (flowNum w) { x with items := x.items ++ [{ seq := flowSeq w }] }

/-- R136: a record about a flow, counted in FLOW_FAULTS. -/
def Device.logFlow (d : Device) (p code cls f seq rsync : Nat) : Device :=
  (d.logPart p code cls [wordOf (f + p * 2 ^ 32), wordOf (seq % 2 ^ 32),
    wordOf (d.flowNext p f + rsync * 2 ^ 32), 0]).bump (.synPartStatus p) Fd.synPartStatusFlowFaults

/-! ### Starting conditions of a command -/

/-- The flow word a command carries in its operands, if its family has one and it is VALID (R131). -/
def cmdFlow (x : Desc) : Option Word :=
  let w := if opcodeOf x ∈ [0x20, 0x21, 0x22, 0x23, 0x40, 0x50, 0x51, 0x60, 0x81] ∨
      (opcodeOf x = 0xB0 ∧ 2 ≤ fieldOf x.q4 63 60 ∧ fieldOf x.q4 63 60 ≤ 4) then x.q7 else 0
  if flowValid w then some w else none

/-- R100, R101: the earlier commands of the queue. -/
def Device.earlier (d : Device) (p q idx : Nat) : List Cmd := (d.queue p q).takeWhile fun c => c.idx != idx

/-- R101: a command has left WAITING. -/
def Cmd.left (c : Cmd) : Bool := c.st == .running || c.st == .done || c.st == .retired

/-! ### Registration of waiters -/

/-- R118: a waiter leaves its object. -/
def Device.dropWaiter (d : Device) (n : Nat) (w : Waiter) : Device :=
  d.setObj n { d.obj n with waiters := (d.obj n).waiters.erase w }

/-- R118: WAIT_OP 3 subtracts at the instant its waiter is released. -/
def Device.takeWait (d : Device) (n op : Nat) (v : Word) : Device :=
  if op = 3 then d.setObj n { d.obj n with value := (d.obj n).value - v } else d

/-- R122: a waiter entry of the die is free to the partition: 1,024 reserved to each formed partition, the rest
shared. -/
def Device.waiterFree (d : Device) (p die : Nat) : Bool :=
  let held := fun q => ((d.objs.filter fun e => objDie e.1 == die).map fun e =>
    (e.2.waiters.filter fun w => w.part == q && !w.polling).length).foldl (· + ·) 0
  decide (held p < 1024) || decide (sharedUse 1024 (d.formedParts.map held) < 32768 - 1024 * d.formedParts.length)

/-- The number of a wait operation in a record (R136): 4 wait-subtract, 5 at least, 6 equal. -/
def waitOpCode (op : Nat) : Nat := if op = 3 then 4 else if op = 1 then 5 else 6

/-- R122: a waiter registers on an object, with an entry or, where none is free, as one that polls; 0x0606 is
logged once per episode, and the missing entry is a credit stall of the die (R135). -/
def Device.register (d : Device) (n : Nat) (w : Waiter) : Device :=
  let die := objDie n
  let key := 8 * die + w.part
  if d.waiterFree w.part die then
    ({ d with waiterEpisode := SMap.set (fun _ => false) d.waiterEpisode key false }).setObj n
      { d.obj n with waiters := (d.obj n).waiters ++ [{ w with polling := false }] }
  else
    let d := if SMap.at' false d.waiterEpisode key then d
      else ({ d with waiterEpisode := SMap.set (fun _ => false) d.waiterEpisode key true }).logPart w.part 0x0606 0
        (syncBody (d.relOf w.part n) w.part (waitOpCode w.op) w.value (d.obj n).value
          (sourceWord d.chip w.part (if w.isCore then 2 else 1) w.who)) die
    (d.setObj n { d.obj n with waiters := (d.obj n).waiters ++ [{ w with polling := true }] }).bump (.synDieStatus die)
      Fd.synDieStatusCreditStalls

end Sys2Proof.Machine
end

