-- ==== Sys2Proof/Machine/CmdChecks.lean ====
section
/-! DEFINITION. What decode finds of a descriptor (R103 reasons 0x01 to 0x08, 0x0B), and what its start checks
find (reasons 0x09, 0x0A). -/

namespace Sys2Proof.Machine

/-- R99: the opcodes that exist. -/
def opcodeKnown (op : Nat) : Bool :=
  op ∈ [0x00, 0x01, 0x02, 0x10, 0x11, 0x12, 0x20, 0x21, 0x22, 0x23, 0x30, 0x31, 0x32, 0x40, 0x50, 0x51, 0x60, 0x61,
    0x70, 0x71, 0x72, 0x73, 0x80, 0x81, 0x90, 0x91, 0xA0, 0xA1, 0xB0]

/-- R98: no reserved bit of the common quadwords is set. -/
def commonReservedOk (x : Desc) : Bool :=
  fieldOf x.q0 53 32 == 0 && fieldOf x.q0 7 0 == 0 && fieldOf x.q1 63 48 == 0 && fieldOf x.q3 31 20 == 0

/-- Bits of a quadword under a mask are all zero. -/
def maskClear (w : Word) (mask : Nat) : Bool := w.toNat &&& mask == 0

/-- Every bit of a quadword. -/
def allBits : Nat := 2 ^ 64 - 1

/-- R131: the reserved bits of a flow word. -/
def flowReserved : Nat := (2 ^ 5 - 1) * 2 ^ 58 + (2 ^ 16 - 1) * 2 ^ 32

/-- Bits hi down to lo of a quadword, as a mask. -/
def bitsMask (hi lo : Nat) : Nat := (2 ^ (hi + 1 - lo) - 1) * 2 ^ lo

/-- The reserved bits of quadwords 4 to 7, by opcode: those marked reserved and those that no row of the family's operand
table names (R126, R114, R224, R228, R236, R256, R263, R278, R286, R298, R303, R311, R319, R329, R339, R385, R387, R410,
R370). -/
def operandReserved (x : Desc) : Nat × Nat × Nat × Nat :=
  let op2 := fieldOf x.q4 63 62
  match opcodeOf x with
  | 0x00 => (allBits, allBits, allBits, allBits)
  | 0x01 => (allBits, allBits, allBits, allBits)
  | 0x02 => (7, 0, bitsMask 61 40 + bitsMask 31 17, allBits)
  | 0x10 => (0, bitsMask 63 32, allBits, allBits)
  | 0x11 => (allBits - 0x1FFF, 0, 0, 0)
  | 0x12 => (allBits, allBits, allBits, allBits)
  | 0x20 => (0, 0, bitsMask 30 20 + bitsMask 15 0, flowReserved)
  | 0x21 | 0x22 | 0x23 => (0, 0, bitsMask 31 0, flowReserved)
  | 0x30 => (allBits - 0xFFF, 0, allBits, allBits)
  | 0x31 => (allBits - 0xFFF, bitsMask 63 32, allBits, allBits)
  | 0x32 => (allBits - 0xFFF, allBits, allBits, allBits)
  | 0xA0 | 0xA1 => (bitsMask 31 27 + bitsMask 15 14 + bitsMask 7 3, 0, allBits, allBits)
  | 0x40 => (0, 0, bitsMask 63 44 + bitsMask 39 32, flowReserved)
  | 0x50 => (0, 0, 0, flowReserved)
  | 0x51 => (0, 0, bitsMask 55 48, flowReserved)
  | 0x60 => (0, 0, bitsMask 23 17, flowReserved)
  | 0x61 => (bitsMask 55 32, 0, 0, 0)
  | 0x70 => (bitsMask 63 35, 0, 0, 0)
  | 0x71 => (0, bitsMask 63 32, allBits, allBits)
  | 0x72 =>
    match fieldOf x.q4 63 61 with
    | 0 => (bitsMask 60 0, 0, bitsMask 63 38 + bitsMask 31 28 + bitsMask 23 10, allBits)
    | 1 => (bitsMask 60 28 + bitsMask 23 16, bitsMask 63 32, allBits, allBits)
    | 2 => (bitsMask 60 26, 0, allBits, allBits)
    | 3 => (bitsMask 60 24, allBits, allBits, allBits)
    | 4 => (bitsMask 60 16, allBits, allBits, allBits)
    | _ => (0, 0, 0, 0)
  | 0x73 => (allBits - 1, allBits, allBits, allBits)
  | 0x80 =>
    if op2 = 0 then (bitsMask 56 32, 0, allBits, allBits)
    else if op2 = 1 then (bitsMask 56 0, allBits, allBits, allBits)
    else if op2 = 2 then (bitsMask 61 60 + bitsMask 55 0, 0, allBits, allBits)
    else (0, 0, 0, 0)
  | 0x81 => (bitsMask 31 0, 0, bitsMask 63 48, flowReserved)
  | 0x91 => (bitsMask 31 0, 0, 0, 0)
  | 0xB0 => if 2 ≤ fieldOf x.q4 63 60 ∧ fieldOf x.q4 63 60 ≤ 4 then (0, 0, 0, flowReserved) else (0, 0, 0, 0)
  | _ => (0, 0, 0, 0)

/-- R103 reason 0x02: a reserved bit is set in any quadword. -/
def reservedOk (x : Desc) : Bool :=
  let m := operandReserved x
  commonReservedOk x && maskClear x.q4 m.1 && maskClear x.q5 m.2.1 && maskClear x.q6 m.2.2.1 && maskClear x.q7 m.2.2.2

/-- R103 reason 0x03: the opcodes that need cores. -/
def needsCores (x : Desc) : Bool :=
  opcodeOf x ∈ [0x10, 0x11, 0x12, 0x60] || (opcodeOf x == 0x50 && bitOf x.q4.toNat 8)

/-- R103 reason 0x03: the opcodes that may name cores. -/
def takesCores (x : Desc) : Bool := needsCores x

/-- R103 reason 0x03: the command's targets lie in its partition and fit its opcode; an opcode that takes no cores has
CLUSTER_COUNT and CORE_MASK 0 (R236). -/
def Device.targetOk (d : Device) (p : Nat) (x : Desc) : Bool :=
  decide (clusterFirstOf x + clusterCountOf x ≤ (d.partClusters p).length) &&
  !(clusterCountOf x > 0 && coreMaskOf x == 0) &&
  !((clusterCountOf x > 0 || coreMaskOf x != 0) && !takesCores x) &&
  !(clusterCountOf x == 0 && needsCores x)

/-- How many target cores a command names, where its clusters lie in its partition (R98). -/
def targetCount (x : Desc) : Nat := clusterCountOf x * popCount 8 (coreMaskOf x)

/-- R258, R283: the first pacing object of a GATHER to scratch or a MERGE. -/
def pacingBase (x : Desc) : Nat := fieldOf x.q6 16 0

/-- The relative sync objects a command uses (R103 reason 0x04). -/
def syncsUsed (x : Desc) : List Nat :=
  (if waitOpOf x = 0 then [] else [waitSyncOf x]) ++ (if signalOpOf x = 0 then [] else [signalSyncOf x]) ++
  (if opcodeOf x = 0x02 ∧ bitOf x.q6.toNat 63 = true then [fieldOf x.q6 16 0] else []) ++
  (if opcodeOf x = 0x60 ∨ (opcodeOf x = 0x50 ∧ bitOf x.q4.toNat 8 = true) then
    (List.range (2 * targetCount x)).map fun i => pacingBase x + i
  else [])

/-- The greatest vector of a function (R92). -/
def vectorOk (fn v : Nat) : Bool := if fn = 0 then decide (v < 256) else decide (v < 224)

/-- R228: COPY moves tile records, as COMPRESS and EXPAND do. -/
def dmaTiles (x : Desc) : Bool := opcodeOf x == 0x22 || opcodeOf x == 0x23 || (opcodeOf x == 0x20 && bitOf x.q6.toNat 31)

/-- R228: an operand fault of the DMA family: addresses aligned to what is moved, a format that raw data can have, and for
COMPRESS and EXPAND ranges that are equal or apart. -/
def dmaFault (x : Desc) : Option (Nat × Nat) :=
  let align := if dmaTiles x then 4096 else 64
  let count := fieldOf x.q6 63 32
  let fmt := fieldOf x.q6 19 16
  let a := x.q4.toNat
  let b := x.q5.toNat
  if a % align ≠ 0 ∨ (opcodeOf x ≠ 0x21 ∧ b % align ≠ 0) then some (0x07, 0)
  else if opcodeOf x = 0x20 ∧ 0xA < fmt then some (0x08, 0)
  else if (opcodeOf x = 0x22 ∨ opcodeOf x = 0x23) ∧ a ≠ b ∧ a < b + 4096 * count ∧ b < a + 4096 * count then some (0x08, 0)
  else none

/-- An operand fault of reason 0x07, where no rule of the family gives misalignment reason 0x08 (log entry 109); no family gives a
sub-reason. -/
def misaligned : Option (Nat × Nat) := some (0x07, 0)
/-- An operand fault of reason 0x08. -/
def invalid : Option (Nat × Nat) := some (0x08, 0)

/-- R255, R256, R263: faults of the position operands that GATHER and SCATTER share. -/
def positionFault (x : Desc) : Option (Nat × Nat) :=
  if bitOf x.q4.toNat 9 then (if x.q5.toNat % 8 ≠ 0 then invalid else none)
  else if fieldOf x.q4 15 11 = 0 ∨ x.q5 ≠ 0 then invalid
  else none

/-- R256: the ring of a GATHER to scratch is narrower than a row of its table. -/
def Device.ringNarrow (d : Device) (p : Nat) (x : Desc) : Bool :=
  bitOf x.q4.toNat 8 &&
    match d.table p (fieldOf x.q4 63 32) with
    | some t => !t.graph && decide (2 ^ fieldOf x.q4 7 4 < t.rowBytes / 64)
    | none => false

/-- R256: an operand fault of a GATHER. -/
def Device.gatherFault (d : Device) (p : Nat) (x : Desc) : Option (Nat × Nat) :=
  let ring := fieldOf x.q4 7 4
  if fieldOf x.q4 3 0 ≠ 0 then invalid
  else
    match positionFault x with
    | some f => some f
    | none =>
      if bitOf x.q4.toNat 8 then
        if ring = 0 ∨ 8 < ring ∨ d.ringNarrow p x = true ∨ fieldOf x.q6 63 50 ≠ 0 ∨ fieldOf x.q6 39 17 ≠ 0 ∨
            1024 < fieldOf x.q6 49 40 + 2 ^ ring then invalid
        else none
      else if x.q6.toNat % 4096 ≠ 0 then invalid
      else none

/-- R278: an operand fault of a MERGE. -/
def mergeFault (x : Desc) : Option (Nat × Nat) :=
  let ring := fieldOf x.q6 53 50
  let base := fieldOf x.q6 63 54
  let rec' := fieldOf x.q6 49 40
  if x.q4.toNat % 64 ≠ 0 ∨ x.q5.toNat % 8 ≠ 0 ∨ ring = 0 ∨ 8 < ring ∨ 1024 < base + 2 ^ (ring + 1) ∨ (base ≤ rec' ∧ rec' < base + 2 ^ (ring + 1)) then invalid
  else none

/-- R286: an operand fault of a PREDICT_CFG. -/
def predictFault (x : Desc) : Option (Nat × Nat) :=
  match fieldOf x.q4 63 62 with
  | 0 =>
    let n := fieldOf x.q5 31 0
    if n < 64 ∨ 2 ^ 24 < n ∨ n % 64 ≠ 0 ∨ x.q6 ≠ 0 ∨ x.q7 ≠ 0 then invalid else none
  | 1 =>
    if fieldOf x.q4 31 0 ≠ 0 ∨ x.q7 ≠ 0 ∨ fieldOf x.q6 63 32 % 64 ≠ 0 then invalid
    else if x.q5.toNat % 8 ≠ 0 then misaligned
    else none
  | 2 => if fieldOf x.q4 31 0 ≠ 0 ∨ x.q5 ≠ 0 ∨ x.q6 ≠ 0 ∨ x.q7 ≠ 0 then invalid else none
  | _ => invalid

/-- R310, R311: an operand fault of a CISTERN_CFG. -/
def cisternFault (x : Desc) : Option (Nat × Nat) :=
  match fieldOf x.q4 63 61 with
  | 0 =>
    let log := fieldOf x.q6 37 32
    let depth := fieldOf x.q6 27 24
    if log < 26 ∨ 36 < log ∨ depth = 0 ∨ 8 < depth then invalid
    else if x.q5.toNat % 2 ^ (log + 3) ≠ 0 then misaligned
    else if 2 ^ 48 < x.q5.toNat + depth * 2 ^ log then invalid
    else none
  | 1 | 2 | 3 | 4 => none
  | _ => invalid

/-- R385: an operand fault of a TABLE_BIND. -/
def tableFault (x : Desc) : Option (Nat × Nat) :=
  if bitOf x.q4.toNat 31 then
    if fieldOf x.q4 30 0 ≠ 0 ∨ x.q5 ≠ 0 ∨ x.q6 ≠ 0 ∨ x.q7 ≠ 0 then invalid else none
  else
    let graph := bitOf x.q4.toNat 30
    let fmt := fieldOf x.q4 26 23
    let n := x.q5.toNat
    if x.q7.toNat % 4096 ≠ 0 ∨ fieldOf x.q4 16 0 ≠ 0 ∨ n = 0 ∨ 2 ^ 48 < n ∨ 0xA < fmt ∨
        (graph = true ∧ (fmt ≠ 0xA ∨ fieldOf x.q6 63 32 ≠ f32One)) ∨ (graph = false ∧ 6 < fieldOf x.q4 29 27) then invalid
    else none

/-- R370: an operand fault of a COLLECTIVE. -/
def collFault (x : Desc) : Option (Nat × Nat) :=
  let q4 := fun hi lo => fieldOf x.q4 hi lo
  match q4 63 60 with
  | 0 =>
    if x.q5.toNat % 2 ≠ 0 ∨ q4 53 48 ≠ 0 ∨ q4 31 14 ≠ 0 ∨ x.q6 ≠ 0 ∨ x.q7 ≠ 0 then invalid
    else none
  | 1 => if q4 53 0 ≠ 0 ∨ x.q5 ≠ 0 ∨ x.q6 ≠ 0 ∨ x.q7 ≠ 0 then invalid else none
  | 2 =>
    let n := q4 31 0
    let w := if q4 53 50 = 1 then 2 else 4
    if !(q4 53 50 == 0 || q4 53 50 == 1 || q4 53 50 == 0xA) || n == 0 || decide (2 ^ 28 < n) || q4 47 32 != 0 ||
        (q4 53 50 == 0xA && q4 49 48 == 1) || x.q5.toNat % w != 0 || x.q6.toNat % w != 0 then invalid
    else none
  | 3 => if q4 53 48 ≠ 0 ∨ q4 33 32 ≠ 0 ∨ q4 31 0 % 16 ≠ 0 then invalid else none
  | 4 => if q4 53 32 ≠ 0 ∨ q4 31 0 % 16 ≠ 0 then invalid else none
  | 5 =>
    if q4 59 32 ≠ 0 ∨ q4 31 0 % 16 ≠ 0 ∨ fieldOf x.q7 31 23 ≠ 0 ∨ 4 ≤ fieldOf x.q7 22 20 ∨ x.q6.toNat % 16 ≠ 0 then invalid
    else none
  | _ => invalid

/-- R103 reasons 0x07 and 0x08 with their DETAIL, by family. -/
def Device.operandFault (d : Device) (p : Nat) (x : Desc) : Option (Nat × Nat) :=
  match opcodeOf x with
  | 0x02 => if !vectorOk (d.ownerOf p) (fieldOf x.q6 39 32) then invalid else none
  | 0x10 =>
    if x.q4.toNat % 8 ≠ 0 then misaligned
    else
      let n := fieldOf x.q5 31 16
      if n = 0 ∨ 8192 < n ∨ 8192 < fieldOf x.q5 15 0 + n then invalid else none
  | 0x20 | 0x21 | 0x22 | 0x23 => dmaFault x
  | 0x30 => if x.q5.toNat % 64 ≠ 0 then misaligned else none
  | 0xA0 =>
    if x.q5.toNat % 65536 ≠ 0 then misaligned else if 1024 < fieldOf x.q4 26 16 then invalid else none
  | 0xA1 =>
    if x.q5.toNat % 65536 ≠ 0 then misaligned
    else if fieldOf x.q4 26 16 ≠ 0 ∨ fieldOf x.q4 13 8 ≠ 0 then invalid else none
  | 0x40 =>
    let m := fieldOf x.q6 43 40
    if x.q4.toNat % 64 ≠ 0 ∨ x.q5.toNat % 8 ≠ 0 ∨ m = 0 ∨ !((bitList 4 m).all fun die => (d.partDies p).contains die) then invalid
    else none
  | 0x50 => d.gatherFault p x
  | 0x51 =>
    let g := fieldOf x.q4 7 4
    if fieldOf x.q4 3 0 ≠ 0 ∨ g = 0 ∨ 2 < g then invalid
    else if fieldOf x.q6 47 0 % 4096 ≠ 0 then misaligned
    else positionFault x
  | 0x60 => mergeFault x
  | 0x61 => predictFault x
  | 0x70 =>
    if 2 ^ 31 ≤ fieldOf x.q4 31 0 ∨ x.q7.toNat % 64 ≠ 0 then invalid else none
  | 0x71 =>
    if x.q4.toNat % 4096 ≠ 0 then misaligned else if 60000000 < fieldOf x.q5 31 0 then invalid else none
  | 0x72 => cisternFault x
  | 0x80 =>
    if fieldOf x.q4 63 62 = 3 then invalid
    else if fieldOf x.q4 63 62 ≠ 1 ∧ x.q5.toNat % 64 ≠ 0 then misaligned
    else none
  | 0x81 => if x.q5.toNat % 4096 ≠ 0 then misaligned else none
  | 0x90 => tableFault x
  | 0x91 => if x.q6 ≠ 0 then invalid else if x.q5.toNat % 4096 ≠ 0 then misaligned else none
  | 0xB0 => collFault x
  | _ => none

/-- R403: entry i of the feature table names the command: its opcode, or a value of one of its operand fields. -/
def Device.featureMatch (d : Device) (x : Desc) (i : Nat) : Bool :=
  let f := fun (a : RegField) => d.fld (.plcFeatureTab i) a
  let q := (fun (n : Nat) => match n with
    | 0 => x.q4
    | 1 => x.q5
    | 2 => x.q6
    | _ => x.q7) (f Fd.plcFeatureTabQw)
  let lsb := f Fd.plcFeatureTabLsb
  f Fd.plcFeatureTabLevel != 0 && f Fd.plcFeatureTabOpcode == opcodeOf x &&
    (f Fd.plcFeatureTabWhole == 1 || fieldOf q (lsb + f Fd.plcFeatureTabWidthM1) lsb == f Fd.plcFeatureTabValue)

/-- R403: the feature level a command needs. -/
def Device.levelNeeded (d : Device) (x : Desc) : Nat :=
  ((List.range 64).filter (d.featureMatch x)).foldl (fun m i => max m (d.fld (.plcFeatureTab i) Fd.plcFeatureTabLevel))
    (d.fld .plcFeature Fd.plcFeatureBase)

/-- R401: a partition's enabled level. -/
def Device.levelOf (d : Device) (p : Nat) : Nat :=
  match (d.part p).level, d.enabled.getLast? with
  | some v, _ => v
  | none, some e => e.1
  | none, none => d.fld .plcFeature Fd.plcFeatureEnabled

/-- R103: the reason, and its DETAIL, for which decode finds a command illegal. -/
def Device.decodeFault (d : Device) (p : Nat) (x : Desc) : Option (Nat × Nat) :=
  if !opcodeKnown (opcodeOf x) then some (0x01, 0)
  else if !reservedOk x then some (0x02, 0)
  else if !d.targetOk p x then some (0x03, 0)
  else if (syncsUsed x).any fun r => (d.syncOf p r).isNone then some (0x04, 0)
  else if 4 ≤ waitOpOf x || 4 ≤ signalOpOf x then some (0x05, 0)
  else if 60000000 < timeoutUsOf x then some (0x06, 0)
  else
    match d.operandFault p x with
    | some f => some f
    | none => if d.levelOf p < d.levelNeeded x then some (0x0B, 0) else none

/-- R114, R115: a core is free for a PROG_START: IDLE and not claimed. -/
def Device.coreFree (d : Device) (c : Nat) : Bool := (d.core c).st == .idle && (d.core c).job.isNone

/-- R255: STATUS of the trace of a micro-batch, byte 48 of its header, as it is stored. -/
def Device.traceByte (d : Device) (p mb i : Nat) : Option Nat :=
  match d.cisternAt p (d.segBase p (d.segOf p mb)) with
  | some (some off) => some (d.denseByte (d.ownAt (off + i))).toNat
  | _ => none

/-- R255: a trace that a command may read: its segment is open for the micro-batch, and its STATUS is 1. -/
def Device.traceOk (d : Device) (p mb : Nat) : Bool :=
  let s := (d.part p).seg (d.segOf p mb)
  s.isOpen && s.mb == mb && d.traceByte p mb 48 == some 1

/-- R256: a command with a trace source names a hop that the trace lacks. -/
def Device.hopMissing (d : Device) (p : Nat) (x : Desc) : Bool :=
  !bitOf x.q4.toNat 9 && decide (2 ^ ((d.traceByte p (fieldOf x.q4 31 16) 18).getD 0 + 1) ≤ fieldOf x.q4 15 11)

/-- R252, R255, R263, R319, R321: why a GATHER or a SCATTER may not start. -/
def Device.positionsHeld (d : Device) (p : Nat) (x : Desc) : Bool :=
  let h := fieldOf x.q4 63 32
  let bad := match d.table p h with
    | some t => t.graph || (opcodeOf x == 0x51 &&
        (decide (2 < t.fmt) || t.rowBytes * 8 / elemBits t.fmt % 32 != 0))
    | none => false
  !d.stepLive p || bad || (!bitOf x.q4.toNat 9 && !d.traceOk p (fieldOf x.q4 31 16)) ||
  (opcodeOf x == 0x51 && (d.stepState p == 4 || (d.part p).step.evalOnly))

/-- R312, R313: the OPENs of a partition that have been granted and are not applied yet. -/
def Device.openGrants (d : Device) (p : Nat) : List Desc :=
  (List.range 64).flatMap fun q => ((d.queue p q).filter fun c =>
    c.st == .running && !c.worked && opcodeOf c.desc == 0x72 && fieldOf c.desc.q4 63 61 == 1).map (·.desc)

/-- R313: the pieces of a die that OPENs granted and not applied yet reserve. -/
def Device.promised (d : Device) (p die : Nat) : Nat :=
  (d.openGrants p).foldl (fun n x => if bitOf (fieldOf x.q4 27 24) die then n + fieldOf x.q5 31 0 else n) 0

/-- R311: DIE_MASK of the segment that is open for a micro-batch, or that an OPEN granted before opens for it. -/
def Device.segMask (d : Device) (p mb : Nat) : Option Nat :=
  let s := (d.part p).seg (d.segOf p mb)
  if s.isOpen && s.mb == mb then some s.dies
  else ((d.openGrants p).find? fun x => fieldOf x.q4 15 0 == mb).map fun x => fieldOf x.q4 27 24

/-- R311: a CISTERN_CFG whose start checks fail. The stack rule, which entries of operations granted before can change, is checked as the
operation is applied (R312). -/
def Device.cisternBlocked (d : Device) (p : Nat) (x : Desc) : Bool :=
  let live := d.stepLive p && d.cisOn p
  let mask := d.segMask p (fieldOf x.q4 15 0)
  match fieldOf x.q4 63 61 with
  | 0 => d.stepState p != 0 || (d.part p).segs.any fun s => s.2.isOpen
  | 1 =>
    !(live && (bitList 4 (fieldOf x.q4 27 24)).all fun die =>
      (d.partDies p).contains die && decide (fieldOf x.q5 31 0 ≤ d.pieceCap die p))
  | 2 =>
    let len := fieldOf x.q5 31 0
    !(live && (mask.map fun m => bitOf m (fieldOf x.q4 25 24)).getD false && decide (fieldOf x.q4 23 16 ≤ 254) &&
      decide (65536 * (fieldOf x.q5 63 32 + len) ≤ 2 ^ d.segLog2 p) && len != 0)
  | _ => !(live && mask.isSome)

/-- R311, R312: the stack rule: what must hold of its segment where a PUSH, a POP or a CLOSE is applied. -/
def Device.stackHolds (d : Device) (p : Nat) (x : Desc) : Bool :=
  let mb := fieldOf x.q4 15 0
  let s := (d.part p).seg (d.segOf p mb)
  let opened := s.isOpen && s.mb == mb
  let next := s.entries.length
  let entry := fieldOf x.q4 23 16
  match fieldOf x.q4 63 61 with
  | 0 | 1 => true
  | 2 => opened && entry == next && decide (s.top ≤ fieldOf x.q5 63 32)
  | 3 => opened && decide (entry < next)
  | _ => opened

/-- R286: a PREDICT_CFG that its slot does not permit. -/
def Device.predictBlocked (d : Device) (p : Nat) (x : Desc) : Bool :=
  let l := fieldOf x.q4 61 56
  let bound := d.fld (.sprLayerState p l) Fd.sprLayerStateMode != 0
  match fieldOf x.q4 63 62 with
  | 0 => bound
  | 1 => !bound || decide ((SMap.at' {} (d.part p).layers l).n < fieldOf x.q6 63 32 + fieldOf x.q6 31 0)
  | _ => !bound

/-- R329: an UPDATE that its binding slot or its table does not permit. -/
def Device.slotBlocked (d : Device) (p : Nat) (x : Desc) : Bool :=
  let x' := d.part p
  let slot := fieldOf x.q4 61 57
  let rule := SMap.at' none x'.rules slot
  match fieldOf x.q4 63 62 with
  | 0 =>
    let h := fieldOf x.q4 31 0
    rule.isSome || (x'.rules.any fun r => (r.2.map (·.handle)) == some h) ||
    (match d.table p h with
      | some t => t.graph || t.scale != f32One || decide (2 < t.fmt)
      | none => true)
  | 1 => rule.isNone
  | _ => false

/-- R319, R329: an UPDATE that may not start. -/
def Device.updateBlocked (d : Device) (p : Nat) (x : Desc) : Bool := d.stepState p == 4 || d.slotBlocked p x

/-- R386, R387: a TABLE_BIND or an EPOCH_PUBLISH that may not start. -/
def Device.tableBlocked (d : Device) (p : Nat) (x : Desc) : Bool :=
  let t := d.table p (fieldOf x.q4 63 32)
  if opcodeOf x = 0x91 then
    match t with
    | none => true
    | some t => t.current == 0 || t.unbinding || t.publish.isSome || decide (4 ≤ t.versions.length)
  else if bitOf x.q4.toNat 31 then t.all fun t => t.current == 0 || t.unbinding
  else t.isSome || !d.flag (.lnkGroup p (fieldOf x.q4 22 17)) Fd.lnkGroupFormed ||
    decide (1024 ≤ (d.part p).tables.length)

/-- R370: a COLLECTIVE that names a group that is not formed. -/
def Device.collBlocked (d : Device) (p : Nat) (x : Desc) : Bool :=
  let op := fieldOf x.q4 63 60
  op != 0 && op != 5 && !d.flag (.lnkGroup p (fieldOf x.q4 59 54)) Fd.lnkGroupFormed

/-- R408: CTX_PART_STATUS.STATE: 0 UNFORMED, 1 ACTIVE, 2 SAVING, 3 EMPTY, 4 RESTORING, 5 RESETTING. -/
def Device.ctxState (d : Device) (p : Nat) : Nat := d.fld (.ctxPartStatus p) Fd.ctxPartStatusState

/-- R422: core c lies in the scope of a core or cluster reset. -/
def ResetRun.covers (r : ResetRun) (c : Nat) : Bool := (r.scope == 1 && r.target == c) || (r.scope == 2 && r.target == c / 8)

/-- R422: a core or cluster reset that covers core c runs. -/
def Device.coreResetting (d : Device) (c : Nat) : Bool := d.resets.any fun r => r.covers c

/-- R408, R410, R422: no command of the partition starts now: its context is being switched or it is being reset, or a core that
the command names is. -/
def Device.startsHeld (d : Device) (p : Nat) (x : Desc) : Bool :=
  d.ctxState p != 1 || (takesCores x && (d.targets p x).any d.coreResetting)

/-- R422: engines take no new unit of a command's work: its partition is being reset, or a core that it names is. -/
def Device.drains (d : Device) (p : Nat) (x : Desc) : Bool := d.ctxState p == 5 || (takesCores x && (d.targets p x).any d.coreResetting)

/-- R410: the save area of the partition has been written and the partition is not yet cleared: nothing of it moves. -/
def Device.frozen (d : Device) (p : Nat) : Bool := d.ctxState p == 2 && (d.part p).switch.any fun w => w.crcs.isSome

/-- R410, R417: a CTX_SAVE or CTX_RESTORE that may not start: its target is its own partition, not formed, or not in a state that
R408 allows, or its ring belongs to a virtual function. -/
def Device.ctxBlocked (d : Device) (p : Nat) (x : Desc) : Bool :=
  let t := fieldOf x.q4 2 0
  t == p || d.flag (.hifPartCtrl p) Fd.hifPartCtrlOwner || !d.formed t ||
    !(if opcodeOf x = 0xA0 then d.ctxState t == 1 else d.ctxState t == 1 || d.ctxState t == 3)

/-! ### Streams (R224) -/

/-- The little-endian words a list of bytes spells. -/
def wordsOf (n : Nat) (bs : List Byte) : List Word :=
  (List.range n).map fun i => wordOf (ofLeBytes ((bs.drop (8 * i)).take 8))

/-- Stream n of a partition. -/
def Device.stream (d : Device) (p n : Nat) : Stream := SMap.at' {} d.streams (4096 * p + n)

/-- The device with a stream set. -/
def Device.setStream (d : Device) (p n : Nat) (x : Stream) : Device :=
  { d with streams := SMap.set (fun _ => {}) d.streams (4096 * p + n) x }

/-- R224: the stream a descriptor describes, for a partition; none where it breaks a limit of the table. -/
def Device.streamOf (d : Device) (p : Nat) (ws : List Word) : Option Stream :=
  let w := fun i => ws.getD i 0
  let kind := fieldOf (w 1) 63 62
  let raw := bitOf (w 1).toNat 60
  let fmt := fieldOf (w 1) 59 56
  let stride := fun i => (signExt 32 (fieldOf (w i) 31 0)).toInt
  let ring := fieldOf (w 5) 3 0
  let base := fieldOf (w 4) 9 0
  match (d.partClusters p)[fieldOf (w 4) 31 24]? with
  | none => none
  | some cl =>
    if 2 ≤ kind ∨ fieldOf (w 1) 55 0 ≠ 0 ∨ (raw = true ∧ (0xA < fmt ∨ isMx fmt = true)) ∨ fieldOf (w 2) 63 48 = 0 ∨
        fieldOf (w 3) 63 48 = 0 ∨ ring = 0 ∨ 8 < ring ∨ 1024 < base + 2 ^ ring ∨ w 6 ≠ 0 ∨ w 7 ≠ 0 ∨
        (kind = 0 ∧ ((w 0).toNat % 4096 ≠ 0 ∨ stride 2 % 4096 ≠ 0 ∨ stride 3 % 4096 ≠ 0)) then none
    else some
      { armed := true, placed := kind == 1, watch := bitOf (w 1).toNat 61, raw := raw, fmt := fmt, source := (w 0).toNat
        count0 := fieldOf (w 2) 63 48, stride0 := stride 2, count1 := fieldOf (w 3) 63 48, stride1 := stride 3
        core := 8 * cl + fieldOf (w 4) 18 16, base := base, ringLog2 := ring }

/-- R224: a descriptor slot is free to a partition on the die of a core. -/
def Device.slotFree (d : Device) (p core : Nat) : Bool :=
  let armed := d.streams.filter fun e => e.2.armed && e.2.core / 64 == core / 64
  decide ((armed.filter fun e => e.1 / 4096 == p).length < min 4096 (d.fld (.memPartStreams p) Fd.memPartStreamsPerDie)) &&
    decide (armed.length < 4096)

/-- What a start check reads by DVA, of this chip's own memory; none where only the command's own work will tell. -/
def Device.peekDva (d : Device) (p dva n : Nat) : Option (List Byte) :=
  let u : MemUser := { part := p, cls := 2, die := (d.partDies p).headD 0 }
  let here := (spans (n / 4096 + 2) dva n).all fun s => match (d.translate u s.1 false).2 with
    | .ok (.device g) => d.own g
    | _ => false
  if here then (d.readDva u dva n).2.toOption else none

/-- R370: a list of 16-bit chip numbers. -/
def chipList (bs : List Byte) : List Nat := (List.range (bs.length / 2)).map fun i => ofLeBytes ((bs.drop (2 * i)).take 2)

/-- R370: a member list ascends without repeats and includes this chip. -/
def Device.listOk (d : Device) (l : List Nat) : Bool :=
  l.contains d.chip && ((l.zip (l.drop 1)).all fun x => decide (x.1 < x.2)) && l.all fun c => decide (c < 16384)

/-- R370, R103: why a COLLECTIVE may not start: its group is not formed, or the list of its FORM breaks the operand table. -/
def Device.collFault (d : Device) (p : Nat) (x : Desc) : Option (Nat × Nat) :=
  if d.collBlocked p x then some (0x09, fieldOf x.q4 59 54)
  else if fieldOf x.q4 63 60 = 0 ∧ (d.peekDva p x.q5.toNat (2 * (fieldOf x.q4 13 0 + 1))).any (fun bs => !d.listOk (chipList bs)) = true then
    some (0x08, 0)
  else none

/-- R103, R224: why an ARM may not start: its stream is armed, no slot is free, or its descriptor, where it can be read, breaks a limit of
the table. -/
def Device.armFault (d : Device) (p : Nat) (x : Desc) : Option (Nat × Nat) :=
  let n := fieldOf x.q4 11 0
  if (d.stream p n).armed then some (0x09, n)
  else
    match d.peekDva p x.q5.toNat 64 with
    | none => none
    | some bs =>
      match d.streamOf p (wordsOf 8 bs) with
      | none => some (0x08, 0)
      | some s => if d.slotFree p s.core then none else some (0x09, n)

/-- R224, R226: the stream a STREAM command names is armed. -/
def Device.streamArmed (d : Device) (p : Nat) (x : Desc) : Bool :=
  (SMap.at' ({} : Stream) d.streams (4096 * p + fieldOf x.q4 11 0)).armed

/-- R103 reasons 0x09 and 0x0A with their DETAIL, found by the start checks of each family, and 0x08 where the operand table names what
a trace, a table or a member list holds (R256, R370). DETAIL of 0x09 is the number of the
object that the operands name: a stream, table handle, layer or binding slot, micro-batch, group, partition or step. -/
def Device.startFault (d : Device) (p : Nat) (x : Desc) : Option (Nat × Nat) :=
  let when := fun (b : Bool) (object : Nat) => if b then some (0x09, object) else none
  let handle := fieldOf x.q4 63 32
  match opcodeOf x with
  | 0x11 => ((d.targets p x).find? fun c => !d.coreFree c).map fun c => (0x0A, c)
  | 0x30 => d.armFault p x
  | 0x31 | 0x32 => when (!d.streamArmed p x) (fieldOf x.q4 11 0)
  | 0x40 => when (!d.stepLive p) 0
  | 0x50 | 0x51 =>
    if d.positionsHeld p x then some (0x09, handle)
    else if d.hopMissing p x || (opcodeOf x == 0x50 && d.ringNarrow p x) then some (0x08, 0) else none
  | 0x61 => when (d.predictBlocked p x) (fieldOf x.q4 61 56)
  | 0x70 =>
    when ((d.part p).stepped && decide (fieldOf x.q4 31 0 ≤ d.fld (.cisPartStep p) Fd.cisPartStepStep)) (fieldOf x.q4 31 0)
  | 0x71 => when (d.stepState p != 2) 0
  | 0x72 => when (d.cisternBlocked p x) (fieldOf x.q4 15 0)
  | 0x73 => when (d.stepState p != (if bitOf x.q4.toNat 0 then 4 else 0)) 0
  | 0x80 => when (d.updateBlocked p x) (fieldOf x.q4 61 57)
  | 0x81 => when ((d.table p handle).all fun t => t.current == 0) handle
  | 0x90 | 0x91 => when (d.tableBlocked p x) handle
  | 0xA0 | 0xA1 => when (d.ctxBlocked p x) (fieldOf x.q4 2 0)
  | 0xB0 => d.collFault p x
  | _ => none

/-- R313: the OPEN of a partition that is granted next: the first to have reached its wait that still waits. -/
def Device.openTurn (d : Device) (p : Nat) : Option (Nat × Nat) :=
  (d.part p).openOrder.find? fun o => (d.queue p o.1).any fun c => c.idx == o.2 && c.st == .waiting

/-- R313: an OPEN can be granted: its segment is closed and no OPEN of it is granted, and its reservation fits beside those of the
segments open and granted. -/
def Device.openFits (d : Device) (p : Nat) (x : Desc) : Bool :=
  let i := d.segOf p (fieldOf x.q4 15 0)
  !((d.part p).seg i).isOpen && !((d.openGrants p).any fun y => d.segOf p (fieldOf y.q4 15 0) == i) &&
    (bitList 4 (fieldOf x.q4 27 24)).all fun die =>
      decide (fieldOf x.q5 31 0 + (d.part p).covered die + d.promised p die ≤ d.pieceCap die p)

/-- R123, R299, R313, R329, R339: a start condition that a command's family sets holds the command in WAITING. -/
def Device.startHeld (d : Device) (p q : Nat) (c : Cmd) : Bool :=
  let x := c.desc
  match opcodeOf x with
  | 0x70 => !((d.stepState p == 0 || d.stepState p == 4) && decide (x.q6.toNat ≤ d.now.toNat))
  | 0x72 =>
    fieldOf x.q4 63 61 == 1 && (d.startFault p x).isNone &&
      !(d.openFits p x && ((d.openTurn p).isNone || d.openTurn p == some (q, c.idx)))
  | 0x80 => d.stepState p == 3 && fieldOf x.q4 63 62 != 1
  | 0x81 => d.stepState p == 3
  | _ => false

/-- R313: an OPEN whose own wait is met takes its place in the order of OPENs. -/
def Device.joinOpens (d : Device) (p q : Nat) (c : Cmd) : Device :=
  if opcodeOf c.desc = 0x72 ∧ fieldOf c.desc.q4 63 61 = 1 then
    d.updPart p fun x =>
      let live := x.openOrder.filter fun o => (d.queue p o.1).any fun c => c.idx == o.2 && c.st == .waiting
      { x with openOrder := if live.contains (q, c.idx) then live else live ++ [(q, c.idx)] }
  else d

/-! ### The record of a step or Cistern event (R322) -/

/-- R322: a step or Cistern record with its step number, and CIS_LAST_FAULT of its die. -/
def Device.logStep (d : Device) (p code cls die op idx mb entry : Nat) (detail : Word) (step : Nat := d.curStep p) : Device :=
  let d := d.log p
    { code := code, cls := cls, part := p, die := die
      body := [wordOf (die + op * 2 ^ 8 + (idx % 2 ^ 32) * 2 ^ 32), wordOf (mb % 2 ^ 16 + (entry % 2 ^ 8) * 2 ^ 16), detail,
        wordOf step] }
  d.setReg (.cisLastFault die) (wordOf (code * 2 ^ 48 + p * 2 ^ 45 + idx % 2 ^ 32))

/-- R343: an update record, and UPD_LAST_FAULT of its die. -/
def Device.logUpd (d : Device) (p code die slot idx row : Nat) (detail : Word) (step : Nat) : Device :=
  (d.log p
    { code := code, cls := 2, part := p, die := die
      body := [wordOf (die + slot * 2 ^ 8 + (idx % 2 ^ 32) * 2 ^ 32), wordOf row, detail, wordOf step] }).setReg (.updLastFault die)
    (wordOf (code * 2 ^ 48 + p * 2 ^ 45 + slot % 32 * 2 ^ 40 + idx % 2 ^ 32))

/-- Where a checkpoint's snapshot is kept. -/
def snapKey (q idx : Nat) : Nat := q * 2 ^ 32 + idx

/-- R339: the snapshot a CHECKPOINT binds when it starts: the last step closed, the current epoch, the units this chip owns, and
the column statistic of a FACTORED binding. -/
def Device.snapshotOf (d : Device) (p : Nat) (x : Desc) : Option Snapshot :=
  let h := fieldOf x.q4 63 32
  (d.table p h).map fun t =>
    { handle := h, epoch := t.current, step := (d.part p).lastClosed
      units := (List.range t.unitCount).filter fun u => (t.unitAt t.current u).valid && (t.unitAt t.current u).owner == d.chip
      col := (((d.part p).rules.findSome? fun r => r.2.bind fun r => if r.handle = h then some r.col else none)).getD [] }

/-- R320: a segment opened in an interval that has ended closes once the last command that started in the interval has
retired. -/
def Device.sweepSegments (d : Device) (p : Nat) : Device :=
  let x := d.part p
  let busy := fun (gen : Nat) => (List.range 64).any fun q =>
    (d.queue p q).any fun c => (c.st == .running || c.st == .done) && c.gen == gen
  let keep := fun (s : Segment) => !s.isOpen || s.gen == x.gen || busy s.gen
  if x.segs.all fun s => keep s.2 then d
  else (d.updPart p fun x => { x with segs := x.segs.filter fun s => keep s.2 }).showCistern p

/-- R252, R320: bindings that neither the partition nor a command or segment of it holds any more are dropped. -/
def Device.sweepBinds (d : Device) (p : Nat) : Device :=
  let x := d.part p
  let busy := fun (gen : Nat) => gen == x.gen || (List.range 64).any fun q =>
    (d.queue p q).any fun c => (c.st == .running || c.st == .done) && c.gen == gen
  d.updPart p fun x => { x with binds := SMap.keep busy x.binds }

/-- R386, R389: something still binds an epoch of a table: the partition's binding, a command's, or a running checkpoint. -/
def Device.bound (d : Device) (p h epoch : Nat) : Bool :=
  (d.part p).binds.any (fun b => SMap.at' 0 b.2 h == epoch && epoch != 0) ||
  (d.part p).snapshots.any fun s => (s.2.map fun s => s.handle == h && s.epoch == epoch).getD false

/-- Directory entries invalidated. -/
def Device.dirDrop (d : Device) (q : DirEntry → Bool) : Device :=
  { d with directory := SMap.mapAll (fun _ => []) (fun l => l.filter fun e => !q e) d.directory }

/-- R384, R386: tables that have been unbound are freed, with their directory entries and their log space, once nothing binds them. -/
def Device.sweepTables (d : Device) (p : Nat) : Device :=
  (d.part p).handles.foldl (fun (d : Device) h =>
    match d.table p h with
    | none => d
    | some t => if t.unbinding && !(SMap.keys t.versions).any (d.bound p h) then
        let d := (d.setTable p h none).dirDrop fun e => e.part == p && e.handle == h
        (d.partDies p).foldl (fun (d : Device) die =>
          d.setFld (.gthPartLog die p) Fd.gthPartLogSize (min (d.fld (.gthPartLog die p) Fd.gthPartLogSize) (d.logSize p))) d
      else d) d

/-- What the start of a command changes at once: the binding and step number it keeps (R252, R320); STEP_OPEN makes the
partition OPENING and ends an evaluation interval (R297), late by more than 10 µs with 0x0E06 (R299), and keeps the number of the step
that it opens; STEP_CLOSE makes it CLOSING and takes the commands it must drain (R304); CHECKPOINT binds its snapshot (R339). -/
def Device.onStart (d : Device) (p q : Nat) (c : Cmd) : Device :=
  let opens := opcodeOf c.desc == 0x70
  let d := if opens && d.stepState p == 4 then d.bindTables p fun _ => 0 else d
  let d := d.updCmd p q c.idx fun x =>
    { x with gen := (d.part p).gen, stepNo := if opens then fieldOf c.desc.q4 31 0 else d.curStep p }
  match opcodeOf c.desc with
  | 0x70 =>
    let late := d.now.toNat - c.desc.q6.toNat
    let d := if 10000 < late then d.logStep p 0x0E06 0 0 0 c.idx 0 0 (wordOf late) (fieldOf c.desc.q4 31 0) else d
    d.setStepState p 1
  | 0x71 =>
    let drain := (List.range 64).flatMap fun r => ((d.queue p r).filter fun x =>
      (x.st == .running || x.st == .done) && x.gen == (d.part p).gen && !(r == q && x.idx == c.idx)).map fun x => snapKey r x.idx
    (d.updCmd p q c.idx fun x => { x with aux := drain }).setStepState p 3
  | 0x81 =>
    let s := d.snapshotOf p c.desc
    d.updPart p fun x => { x with snapshots := SMap.set (fun _ => none) x.snapshots (snapKey q c.idx) s }
  | _ => d

end Sys2Proof.Machine
end

