-- ==== Sys2Proof/Machine/Start.lean ====
section
/-! DEFINITION. How a command leaves WAITING (R100, R103, R127), and the signals that let it (R118 to R122, R133).
DEDUCED (log entry 100): R118 releases a waiter when it tests it, and R127 lets a command leave WAITING, and take its
subtraction, only when all its conditions hold: so a command is released by starting at that test, whole; where another
condition holds it back it stays registered and is tested again. -/

namespace Sys2Proof.Machine

/-- The waiter a command registers (R140). -/
def cmdWaiter (p q : Nat) (c : Cmd) : Waiter :=
  { isCore := false, part := p, who := q, index := c.idx, op := waitOpOf c.desc, value := waitValueOf c.desc }

/-- The device object a command waits on. -/
def Device.cmdWaitObj (d : Device) (p : Nat) (c : Cmd) : Option Nat :=
  if waitOpOf c.desc = 0 then none else d.syncOf p (waitSyncOf c.desc)

/-- R118: a command no longer waits on its object. -/
def Device.dropCmdWaiter (d : Device) (p q : Nat) (c : Cmd) : Device :=
  match d.cmdWaitObj p c with
  | none => d
  | some n =>
    d.setObj n { d.obj n with waiters := (d.obj n).waiters.filter fun w => !(!w.isCore && w.part == p && w.who == q && w.index == c.idx) }

/-- R100: the first FETCHED command whose earlier commands have all left WAITING enters WAITING: its wait and its
timeout start. -/
def Device.advanceQueue (d : Device) (p q : Nat) : Device :=
  let cs := d.queue p q
  if cs.any fun c => c.st == .waiting then d
  else
    match cs.find? fun c => c.st == .fetched with
    | none => d
    | some c =>
      let d := d.updCmd p q c.idx fun c => { c with st := .waiting }
      match d.cmdWaitObj p c with
      | none => d
      | some n => if c.skip.isSome then d else d.register n (cmdWaiter p q c)

/-- R135: a credit stall on a die. -/
def Device.creditStall (d : Device) (die : Nat) : Device := d.bump (.synDieStatus die) Fd.synDieStatusCreditStalls

/-- R131: a flow item completes; its flow releases what it can before the machine's step ends. -/
def Device.itemEnds (d : Device) (p : Nat) (w : Word) : Device := { d with flowDone := d.flowDone ++ [(p, w)] }

/-- R103: a command is skipped: DONE with STATUS 0x01, counted and logged with 0x0501. Its wait has no effect. -/
def Device.skipCmd (d : Device) (p q : Nat) (c : Cmd) (reason detail : Nat) : Device :=
  let d := d.dropCmdWaiter p q c
  let d := d.updCmd p q c.idx fun c => { c with st := .done, status := 1, skip := none }
  let d := d.bump (.cmdPartStatus p) Fd.cmdPartStatusSkipped
  let d := d.logPart p 0x0501 2 (cmdBody q c.idx (opcodeOf c.desc) reason (wordOf detail) c.desc.q0)
  d.advanceQueue p q

/-- R135: a stall of a command is counted once, on each die that withholds its credit; kind 1 waits for a window slot, also one that is
skipped and held with its item, counted on the partition's first die (DESIGN CHOICE, log entry 101), 2 for ready-list entries. -/
def Device.cmdStall (d : Device) (p q : Nat) (c : Cmd) (kind : Nat) : Device :=
  if c.stall = kind then d
  else
    let dies := if kind = 1 then (d.partDies p).take 1
      else ((d.engineNeeds p c.desc).filter fun n => !d.entryFree p n.1).map Prod.fst
    (dies.foldl Device.creditStall d).updCmd p q c.idx fun x => { x with stall := kind }

/-- R131: a skip for a reason other than the refusal of the command's own item also completes that item where it
would be admitted, is held with it where it would be held, and logs 0x0604 where it would be refused. -/
def Device.skipWithItem (d : Device) (p q : Nat) (c : Cmd) (reason detail : Nat) : Device :=
  match cmdFlow c.desc with
  | none => d.skipCmd p q c reason detail
  | some w =>
    match d.itemFate p w with
    | .accept => ((d.itemAdmit p w).itemEnds p w).skipCmd p q c reason detail
    | .hold => ((d.updCmd p q c.idx fun c => { c with skip := some (reason, detail) }).cmdStall p q c 1).advanceQueue p q
    | .refuse => (d.logFlow p 0x0604 2 (flowNum w) (flowSeq w) 0).skipCmd p q c reason detail

/-- R122: a WAIT_OP 3 waiter without an entry is served after every registered waiter whose condition holds. -/
def SyncObj.servedLater (o : SyncObj) (w : Waiter) : Bool :=
  w.op == 3 && (o.waiters.any fun x => x == { w with polling := true }) &&
    o.waiters.any fun x => !x.polling && waitHolds x.op o.value x.value

/-- R118, R122: the wait of a command is met. DESIGN CHOICE (log entry 129): also at its timeout a polling wait-subtract is not met while a
registered waiter's condition holds, which R122 serves first. -/
def Device.waitMet (d : Device) (p q : Nat) (c : Cmd) : Bool :=
  match d.cmdWaitObj p c with
  | none => waitOpOf c.desc == 0
  | some n =>
    waitHolds (waitOpOf c.desc) (d.obj n).value (waitValueOf c.desc) && !(d.obj n).servedLater (cmdWaiter p q c)

/-- R127, R116: one ready-list entry on each die whose engines the command needs, at its queue's PRIORITY. -/
def Device.takeEntries (d : Device) (p q idx : Nat) (needs : List (Nat × Nat)) : Device :=
  needs.foldl (fun (d : Device) n =>
    ({ d with readyStamp := d.readyStamp + 1 }).setReady n.1 (d.readyOf n.1 ++
      [ReadyEntry.mk p q idx n.2 (d.fld (.cmdQCfg p q) Fd.cmdQCfgPriority) d.readyStamp false])) d

/-- R114: the claim of a PROG_START's target cores, one atomic act with its start check. -/
def Device.claimCores (d : Device) (p q : Nat) (c : Cmd) : Device :=
  let ts := d.targets p c.desc
  (ts.zipIdx.foldl (fun (d : Device) (t : Nat × Nat) =>
    d.updCore t.1 fun k => { k with job := some (p, q, c.idx), rank := t.2 }) d).updCmd p q c.idx
      fun c => { c with aux := [ts.length, 0, 0] }

/-- R100: a command enters RUNNING at one instant: WAIT_OP 3 subtracts, its item is admitted, its entries obtained. -/
def Device.enterRunning (d : Device) (p q : Nat) (c : Cmd) : Device :=
  let d := d.dropCmdWaiter p q c
  let d := match d.cmdWaitObj p c with
    | some n => d.takeWait n (waitOpOf c.desc) (waitValueOf c.desc)
    | none => d
  let d := match cmdFlow c.desc with
    | none => d
    | some w => d.itemAdmit p w
  let d := d.takeEntries p q c.idx (d.engineNeeds p c.desc)
  let d := d.updCmd p q c.idx fun c => { c with st := .running, item := (cmdFlow c.desc).isSome, stall := 0 }
  let d := (if opcodeOf c.desc = 0x11 then d.claimCores p q c else d).onStart p q c
  d.advanceQueue p q

/-- What becomes of a WAITING command when its conditions are tested (R100, R127, R131, R132): it stays; it takes its place
among the OPENs; it is skipped, for a reason and with its DETAIL; it waits for a window slot (R132) or for ready-list entries;
its item is refused; or it starts. -/
inductive StartFate where
  | stays | joins | skip (reason detail : Nat) | window | entries | refused (item : Word) | starts
  deriving DecidableEq, Repr

/-- R100, R101, R123, R127, R132: the test of every condition that holds a WAITING command. -/
def Device.startFate (d : Device) (p q : Nat) (c : Cmd) : StartFate :=
  match c.skip with
  | some (reason, detail) => .skip reason detail
  | none =>
    let before := d.earlier p q c.idx
    if d.startsHeld p c.desc then .stays
    else if !(before.all Cmd.left) || (fenceOf c.desc && !before.all fun b => b.st == .retired) then .stays
    else if !d.waitMet p q c then .stays
    else if d.startHeld p q c then .joins
    else
      match d.startFault p c.desc, cmdFlow c.desc with
      | some (reason, detail), _ => .skip reason detail
      | none, some w =>
        match d.itemFate p w with
        | .hold => .window
        | .refuse => .refused w
        | .accept => if (d.engineNeeds p c.desc).all fun n => d.entryFree p n.1 then .starts else .entries
      | none, none => if (d.engineNeeds p c.desc).all fun n => d.entryFree p n.1 then .starts else .entries

/-- R100: a WAITING command meets its fate. -/
def Device.leaveWaiting (d : Device) (p q : Nat) (c : Cmd) : Device :=
  match d.startFate p q c with
  | .stays => d
  | .joins => d.joinOpens p q c
  | .skip reason detail => d.skipWithItem p q c reason detail
  | .window => d.cmdStall p q c 1
  | .entries => d.cmdStall p q c 2
  | .refused w => (d.logFlow p 0x0604 2 (flowNum w) (flowSeq w) 0).skipCmd p q c 0x09 (flowNum w)
  | .starts => d.enterRunning p q c

/-- The command of a queue that is WAITING; R101 allows one. -/
def Device.waitingCmd (d : Device) (p q : Nat) : Option Cmd := (d.queue p q).find? fun c => c.st == .waiting

/-! ### Signals -/

/-- R115: the wait of a core is met: it leaves its object and runs on. -/
def Device.releaseCore (d : Device) (n : Nat) (w : Waiter) : Device :=
  let d := (d.dropWaiter n w).takeWait n w.op w.value
  (d.updCore w.who fun k => { k with st := .running }).advance w.who

/-- R118, R127: a waiter whose condition holds is released: a core runs on; a command starts where nothing else holds it. -/
def Device.release (d : Device) (n : Nat) (w : Waiter) : Device :=
  if w.isCore then d.releaseCore n w
  else
    match d.cmd? w.part w.who w.index with
    | none => d
    | some c => if c.st = .waiting then d.leaveWaiting w.part w.who c else d

/-- R118, R120, R122: waiters are tested one at a time in the order in which they registered, the registered ones or those that
poll; each whose condition holds when it is tested is released. -/
def Device.testWaiters (n : Nat) (polling : Bool) : List Waiter → Device → Device
  | [], d => d
  | w :: ws, d =>
    if w.polling = polling ∧ waitHolds w.op (d.obj n).value w.value = true ∧ (d.obj n).servedLater w = false then
      Device.testWaiters n polling ws (d.release n w)
    else Device.testWaiters n polling ws d

/-- R118: the waiters are tested again after each operation that changed the value; a pass that subtracts is such
an operation. -/
def Device.settleObj (n : Nat) : Nat → Device → Device
  | 0, d => d
  | fuel + 1, d =>
    let d' := Device.testWaiters n false (d.obj n).waiters d
    if (d'.obj n).value = (d.obj n).value then d' else Device.settleObj n fuel d'

/-- R118: the test of an object's waiters after an operation on it. -/
def Device.testObj (d : Device) (n : Nat) : Device := Device.settleObj n ((d.obj n).waiters.length + 1) d

/-- R100, R123, R127: one test of a WAITING command; a subtraction it makes is an operation after which the waiters of its object
are tested. -/
def Device.tryStart (d : Device) (p q : Nat) (c : Cmd) : Device :=
  let d' := d.leaveWaiting p q c
  match d.cmdWaitObj p c with
  | none => d'
  | some n => if (d'.obj n).value = (d.obj n).value then d' else d'.testObj n

/-- R118, R119: a signal on a device object that belongs to partition p. Gives back whether it was applied. -/
def Device.signal (d : Device) (p n op amount : Nat) (src : Word) (index : Nat) : Device × Bool :=
  let o := d.obj n
  match signalValue op o.value amount (d.objBound n) with
  | some v =>
    let d := d.setObj n { o with value := v, lastSrc := src, lastIndex := index }
    (d.testObj n, true)
  | none =>
    let under := op == 2
    let d := d.setObj n { o with underflowed := o.underflowed || under, overflowed := o.overflowed || !under }
    let d := d.bump (.synPartStatus p) (if under then Fd.synPartStatusUnderflows else Fd.synPartStatusOverflows)
    (d.logPart p (if under then 0x0601 else 0x0602) 2
      (syncBody (d.relOf p n) p op (wordOf amount) o.value src) (objDie n), false)

/-! ### Flow release -/

/-- R133: while the item at NEXT_RELEASE has completed, it is released: its slot is freed, RELEASE_SYNC rises by 1
and NEXT_RELEASE advances. -/
def Device.flowRelease (p f : Nat) : Nat → Device → Device
  | 0, d => d
  | fuel + 1, d =>
    let x := d.flow p f
    let s := d.flowNext p f
    if x.items.any (fun i => i.seq == s && i.completed) then
      let d := d.setFlow p f { x with items := x.items.filter fun i => i.seq != s }
      let d := d.setFld (.synFlowStatus p f) Fd.synFlowStatusNextRelease (s + 1)
      let rel := d.fld (.synFlowCfg p f) Fd.synFlowCfgReleaseSync
      let d := match d.syncOf p rel with
        | some n => (d.signal p n 1 1 (sourceWord d.chip p 3 f) s).1
        | none =>
          if (d.flow p f).noSignalLogged then d
          else (d.logFlow p 0x0607 2 f s rel).setFlow p f { d.flow p f with noSignalLogged := true }
      Device.flowRelease p f fuel d
    else d

/-- R134: a drained flow with an empty window is CLOSED; a STALLED flow whose head completes is OPEN. -/
def Device.flowSettle (d : Device) (p f : Nat) : Device :=
  if d.flowState p f = 3 ∧ (d.flow p f).items = [] then d.setFld (.synFlowStatus p f) Fd.synFlowStatusState 0 else d

/-- R131, R133: an item completes: its flow releases what it can. -/
def Device.itemComplete (d : Device) (p : Nat) (w : Word) : Device :=
  let f := flowNum w
  let x := d.flow p f
  let d := d.setFlow p f { x with items := x.items.map fun i => if i.seq = flowSeq w then { i with completed := true } else i }
  let d := if d.flowState p f = 2 ∧ flowSeq w = d.flowNext p f then d.setFld (.synFlowStatus p f) Fd.synFlowStatusState 1 else d
  (Device.flowRelease p f x.items.length d).flowSettle p f

/-- R122: the polling waiters of an object are tested in order, after the registered ones. -/
def Device.pollWaiters (d : Device) (n : Nat) : Device :=
  (Device.testWaiters n true (d.obj n).waiters (d.testObj n)).testObj n

end Sys2Proof.Machine
end

