-- ==== Sys2Proof/Machine/Commands.lean ====
section
/-! DEFINITION. The life of a command (R98 to R103), ready lists (R127 to R130) and what a submission ring shows
(R82, R88). -/

namespace Sys2Proof.Machine

/-- STATE of a submission ring (R88). -/
def Device.sqState (d : Device) (p q : Nat) : Nat := d.fld (.hifSqStatus p q) Fd.hifSqStatusState

/-- The address of the partition word page (R82). -/
def Device.wordPage (d : Device) (p : Nat) : Nat := d.fld (.hifPartWords p) Fd.hifPartWordsAddr * 4096

/-- R82, R88: the status word of a submission ring is written: SLEEP, STOPPED, CONSUMED. -/
def Device.writeStatusWord (d : Device) (p q : Nat) (sleep : Bool) : Device :=
  d.hostWriteWord (d.wordPage p + 0x200 + 8 * q)
    (wordOf (ofBool sleep * 2 ^ 63 + ofBool (d.sqState p q == 3) * 2 ^ 62 + d.fld (.hifSqStatus p q) Fd.hifSqStatusConsumed))

/-- R88: a submission ring stops: STOPPED = 1 is written. -/
def Device.ringStop (d : Device) (p q : Nat) : Device :=
  (d.setFld (.hifSqStatus p q) Fd.hifSqStatusState 3).writeStatusWord p q false

/-- R102: with STOP_ON_TIMEOUT, a command that ends with STATUS 0x03 or 0x05 stops its ring, and 0x0505 is logged. -/
def Device.stopOnTimeout (d : Device) (p q : Nat) (c : Cmd) (status : Nat) : Device :=
  if (status = 3 ∨ status = 5) ∧ d.flag (.cmdQCfg p q) Fd.cmdQCfgStopOnTimeout then
    (if d.sqState p q = 1 ∨ d.sqState p q = 2 then d.ringStop p q else d).logPart p 0x0505 3
      (cmdBody q c.idx (opcodeOf c.desc) 0 0 c.desc.q0)
  else d

/-- R100, R123: a wait timeout: every condition is tested once more; a command that still cannot start ends with
STATUS 0x03 and no signal. -/
def Device.cmdTimeout (d : Device) (p q : Nat) : Device :=
  match if d.frozen p then none else d.waitingCmd p q with
  | none => d
  | some c =>
    let d := d.tryStart p q c
    match d.cmd? p q c.idx with
    | none => d
    | some c' =>
      if c'.st = .waiting then
        let d := d.dropCmdWaiter p q c'
        let d := d.updCmd p q c'.idx fun c => { c with st := .done, status := 3, skip := none }
        let d := d.bump (.cmdPartStatus p) Fd.cmdPartStatusTimeouts
        (d.stopOnTimeout p q c' 3).advanceQueue p q
      else d

/-- A command's ready-list entries on every die are granted. -/
def Device.entriesGranted (d : Device) (p q : Nat) (c : Cmd) : Bool :=
  (d.engineNeeds p c.desc).all fun n => (d.readyOf n.1).any fun e => e.part == p && e.queue == q && e.idx == c.idx && e.granted

/-- R394: the engines that a command has been granted are busy until now. -/
def Device.noteBusy (d : Device) (p q idx : Nat) : Device :=
  if (List.range 4).any fun die => (d.readyOf die).any fun e => e.part == p && e.queue == q && e.idx == idx && e.granted then
    d.updPart p fun x => { x with busy := d.now }
  else d

/-- R135: the entries of a command are returned when the engines finish its work. -/
def Device.dropEntries (d : Device) (p q idx : Nat) : Device :=
  let d := d.noteBusy p q idx
  (List.range 4).foldl (fun (d : Device) die =>
    d.setReady die ((d.readyOf die).filter fun e => !(e.part == p && e.queue == q && e.idx == idx))) d

/-- R100: the engines report completion: the command is DONE with a status, its entries are returned and its flow
item completes. -/
def Device.cmdDone (d : Device) (p q : Nat) (c : Cmd) (status : Nat) : Device :=
  let d := d.updCmd p q c.idx fun c => { c with st := .done, status := status, parked := none }
  let d := d.dropEntries p q c.idx
  let d := match c.item, cmdFlow c.desc with
    | true, some w => d.itemComplete p w
    | _, _ => d
  d.stopOnTimeout p q c status

/-- R103, R312: a CISTERN_CFG that breaks the stack rule as it is applied is skipped then: its entries and its flow item are returned, and the subtraction it made is given back, an operation after which the
waiters of its object are tested. -/
def Device.skipLate (d : Device) (p q : Nat) (c : Cmd) (reason detail : Nat) : Device :=
  let d := d.dropEntries p q c.idx
  let d := match c.item, cmdFlow c.desc with
    | true, some w => d.itemEnds p w
    | _, _ => d
  let d := d.skipCmd p q c reason detail
  match d.cmdWaitObj p c with
  | none => d
  | some n => if waitOpOf c.desc = 3 then (d.setObj n { d.obj n with value := (d.obj n).value + waitValueOf c.desc }).testObj n else d

/-- R101, R119: the signal of a retiring command; gives back whether it faulted. Skipped, timed-out and absorbed commands give
none (R100, R103, R138). -/
def Device.retireSignal (d : Device) (p q : Nat) (c : Cmd) : Device × Bool :=
  if signalOpOf c.desc = 0 ∨ c.status = 1 ∨ c.status = 2 ∨ c.status = 3 then (d, false)
  else
    match d.syncOf p (signalSyncOf c.desc) with
    | none => (d, false)
    | some n =>
      let r := d.signal p n (signalOpOf c.desc) (signalAmountOf c.desc) (sourceWord d.chip p 1 q) c.idx
      (r.1, !r.2)

/-- R101, R103: a DONE command whose predecessors have retired: its signal, then its record, then it is RETIRED. -/
def Device.cmdRetire (d : Device) (p q : Nat) (c : Cmd) : Device :=
  let d := (d.updCmd p q c.idx fun c => { c with st := .retired }).setFld (.cmdQStatus p q) Fd.cmdQStatusRetireIndex (c.idx + 1)
  let (d, faulted) := d.retireSignal p q c
  let status := if faulted then 4 else c.status
  if completeOf c.desc || c.status == 1 then
    d.cqPost p (d.fld (.hifSqCfg p q) Fd.hifSqCfgCq)
      { typ := 0, status := status, queue := q, index := c.idx, value := c.value
        step := if 2 ^ 31 ≤ c.stepNo then some c.stepNo else none }
  else d.setQueue p q ((d.queue p q).filter fun x => x.idx != c.idx)

/-- R101: the command that may retire next: the first that has not retired, if it is DONE. -/
def Device.retirable (d : Device) (p q : Nat) : Option Cmd :=
  match (d.queue p q).find? fun c => c.st != .retired with
  | some c => if c.st = .done ∧ d.frozen p = false then some c else none
  | none => none

/-! ### Ready lists -/

/-- SYN_SHARE: 1 to 64; 0 taken as 1, above 64 as 64 (R129). -/
def Device.share (d : Device) (die p : Nat) : Nat := clampTo 1 64 (d.fld (.synShare die p) Fd.synShareWeight)

/-- R129: the oldest entry, by ready time, of a list. -/
def oldest : List ReadyEntry → Option ReadyEntry
  | [] => none
  | e :: es =>
    match oldest es with
    | none => some e
    | some f => if e.since ≤ f.since then some e else some f

/-- R129: the round-robin search for the partition whose entry is granted; after nine turns every partition has
been asked with its share. -/
def Device.grantLoop (die k lvl : Nat) : Nat → Device → Device
  | 0, d => d
  | fuel + 1, d =>
    let key := 16 * die + k
    let p := SMap.at' 0 d.rr key
    let mine := (d.readyOf die).filter fun e => e.part == p && e.cls == k && e.level == lvl && !e.granted
    match decide (0 < SMap.at' 0 d.left key), oldest mine with
    | true, some e =>
      ({ d with left := SMap.upd 0 d.left key (· - 1) }).setReady die
        ((d.readyOf die).map fun x => if x = e then { x with granted := true } else x)
    | _, _ =>
      let p' := (p + 1) % 8
      Device.grantLoop die k lvl fuel
        { d with rr := SMap.set (fun _ => 0) d.rr key p', left := SMap.set (fun _ => 0) d.left key (d.share die p') }

/-- The entries of a class that wait on a die. -/
def Device.waitingEntries (d : Device) (die k : Nat) : List ReadyEntry :=
  (d.readyOf die).filter fun e => e.cls == k && !e.granted

/-- R129: an engine of class k is free on a die. -/
def Device.engineFree (d : Device) (die k : Nat) : Bool :=
  decide (((d.readyOf die).filter fun e => e.cls == k && e.granted).length < engineCount k)

/-- R129: one grant, at the highest level (lowest number) that holds an entry of the class. -/
def Device.readyGrant (d : Device) (die k : Nat) : Device :=
  match d.waitingEntries die k with
  | [] => d
  | e :: es =>
    if d.engineFree die k then
      Device.grantLoop die k (es.foldl (fun m x => min m x.level) e.level) 10 d
    else d

end Sys2Proof.Machine
end

