-- ==== Sys2Proof/Machine/Exec.lean ====
section
/-! DEFINITION. How a command reaches the device: what it needs of the module before it can come about. An event
that is not enabled leaves the device as it is (DESIGN CHOICE, log entry 1). -/

namespace Sys2Proof.Machine

/-- The outcome of a command. -/
abbrev Result := Host.Outcome State Fault Refusal

/-- A command always goes on to a next state: f changes the device, which starts with nothing sent outside. -/
def act (f : Device → Device) (s : State) : Result :=
  .next { s with dev := f { s.dev with out := [] } }

/-- R451, R454: the rails are up, PERST# is released and no rail loss holds the device in reset. -/
def Device.awake (d : Device) : Bool := d.pins.powered && !d.pins.perst && !d.pins.railHold

/-- R132, R133: the flow items that completed during the command release what they can. Each release may stop a core
whose engines hold further items; fuel bounds that chain. -/
def Device.flowsGo : Nat → Device → Device
  | 0, d => d
  | fuel + 1, d =>
    match d.flowDone with
    | [] => d
    | (p, w) :: rest => Device.flowsGo fuel ({ d with flowDone := rest }.itemComplete p w)

/-- Flow items released, at most 64 for each core. -/
def Device.settleFlows (d : Device) : Device := Device.flowsGo 16384 d

/-- A command of the running module: without power, or in reset, it leaves the device as it is. -/
def live (f : Device → Device) (s : State) : Result :=
  act (fun d => if d.awake then (f d).settleFlows else d) s

/-- A command of the running module that nothing comes of once bring-up has HALTED (R57). -/
def going (f : Device → Device) (s : State) : Result := live (fun d => if d.halted then d else f d) s

/-- A command of the module in service, after READY (R58, R73). -/
def run (f : Device → Device) (s : State) : Result :=
  live (fun d => if d.ready then f d else d) s

end Sys2Proof.Machine
end

