-- ==== Sys2Proof/Machine/HostPort.lean ====
section
/-! DEFINITION. The host port (chapter 04): the link, submission and completion rings, sleep and wake, heartbeats
and the enabling of rings. -/

namespace Sys2Proof.Machine

/-! ### The link and configuration -/

/-- R77, R91, R429: the rings that stayed enabled run again: the completion records that waited are written, and so are the history
records that wait for the module error ring. -/
def Device.ringsRun (d : Device) : Device :=
  let all := (List.range 8).flatMap fun p => (List.range 64).map fun c => (p, c)
  let d := all.foldl (fun (d : Device) x => d.cqFlush x.1 x.2) d
  if d.errEnabled moduleRing then d.histReplay else d

/-- R77: the link settles, and HIF_LINK shows it; below 32 GT/s or x4 it is UNSUPPORTED, no ring runs, and a correctable AER error is
raised. What R77 does not say (log entry 124): rings that were enabled stay so, and run again when the link settles better. -/
def Device.linkTrained (d : Device) (rate width : Nat) (flit : Bool) : Device :=
  let d := ({ d with link := (rate, width) } : Device).setFld .hifLink Fd.hifLinkRateGt rate
  let d := d.setFld .hifLink Fd.hifLinkWidth width
  let d := d.setFld .hifLink Fd.hifLinkFlit (ofBool flit)
  let bad := !d.linkOk
  let d := d.setFld .hifLink Fd.hifLinkUnsupported (ofBool bad)
  if bad then d.emit .aerCorrectable else d.ringsRun

/-- R76, R78: a configuration request is answered; the contents of configuration space are the PCI Express
specification's, which the spec does not repeat: a free value. -/
def Device.configRequest (d : Device) (fn : Nat) (a : ConfigAccess) : Device :=
  let d := match a with
    | .read => d
    | .enableVfs n => if fn = 0 ∧ n ≤ 8 then { d with vfs := n } else d
    | .powerState hot => { d with d3 := putBit d.d3 fn hot }
    | .maskVector vec masked => if fn ≤ d.vfs ∧ vectorOk fn vec then d.maskVector fn vec masked else d
    | .enablePtm on => if fn = 0 then { d with ptmOn := on } else d
  let (w, d) := d.freeValue
  d.emit (.configReply w)

/-- R76, R77: the submission rings of partition p are served: the link allows it, and D3hot does not stop the function that owns them.
DESIGN CHOICE (log entry 125): D3hot stops the polling, fetching and sleep of submission rings; completion records, head words,
heartbeats and interrupts of the function go on, of which R76 says nothing. -/
def Device.served (d : Device) (p : Nat) : Bool := d.linkOk && !bitOf d.d3 (d.ownerOf p)

/-! ### Enabling rings (R460) -/

/-- The bytes of an enabled ring of a partition: base and length. -/
def Device.enabledRings (d : Device) (p : Nat) : List (Nat × Nat) :=
  ((List.range 64).filter (fun q => d.sqState p q != 0)).map (fun q =>
      (d.fld (.hifSqBase p q) Fd.hifSqBaseAddr * 4096, 64 * 2 ^ d.fld (.hifSqCfg p q) Fd.hifSqCfgSizeLog2)) ++
  ((List.range 64).filter (fun c => d.flag (.hifCqCfg p c) Fd.hifCqCfgEnable)).map (fun c =>
      (d.fld (.hifCqBase p c) Fd.hifCqBaseAddr * 4096, 32 * d.cqSize p c)) ++
  (if d.errEnabled p then [(d.errBase p, 64 * (d.errRoom p + 1))] else [])

/-- Two ranges, each a first element and a length, have an element in common; an empty one has none. -/
def overlaps (a b : Nat × Nat) : Bool :=
  decide (0 < a.2) && decide (0 < b.2) && decide (a.1 < b.1 + b.2) && decide (b.1 < a.1 + a.2)

/-- R117: a partition's sync range lies within the objects and overlaps no other formed partition's. -/
def Device.syncRangeOk (d : Device) (p : Nat) : Bool :=
  let base := fun r => 1024 * d.fld (.synPartCfg r) Fd.synPartCfgSyncBase
  let len := fun r => 1024 * d.fld (.synPartCfg r) Fd.synPartCfgSyncCount
  decide (d.fld (.synPartCfg p) Fd.synPartCfgSyncBase ≤ 127) && decide (base p + len p ≤ 131072) &&
  d.formedParts.all fun r => r == p || !overlaps (base p, len p) (base r, len r)

/-- R379: the pool of a partition on a die and tier (0 near, 1 far): first offset and length. -/
def Device.poolRange (d : Device) (p die tier : Nat) : Nat × Nat :=
  let r : Reg := if tier = 0 then .plcPoolNear p die else .plcPoolFar p die
  (fieldOf (d.reg r) 49 26 * 2 ^ 26, fieldOf (d.reg r) 12 0 * 2 ^ 26)

/-- R214: the range of a die's near or far memory. -/
def tierRange (die tier : Nat) : Nat × Nat :=
  if tier = 0 then (2 ^ 35 * die, 2 ^ 35) else (2 ^ 40 + 2 ^ 38 * die, 2 ^ 38)

/-- R379: every pool of the partition lies within its tier of its die, and overlaps no other partition's. -/
def Device.poolsOk (d : Device) (p : Nat) : Bool :=
  let all := (List.range 4).flatMap fun die => [(die, 0), (die, 1)]
  all.all fun x =>
    let a := d.poolRange p x.1 x.2
    let t := tierRange x.1 x.2
    a.2 == 0 || (decide (t.1 ≤ a.1) && decide (a.1 + a.2 ≤ t.1 + t.2) &&
      (List.range 8).all fun r => r == p || all.all fun y => !overlaps a (d.poolRange r y.1 y.2))

/-- R408: the partition's context state allows ring enables. -/
def Device.ctxAllows (d : Device) (p : Nat) : Bool :=
  d.ctxState p != 2 && d.ctxState p != 3 && d.ctxState p != 4

/-- R460: the DETAIL with which an enable of a ring is rejected, or none; the tests in the order R460 lists them.
part: none for the module error ring. vec: the vector the ring names, if its kind names one. DETAIL 2 stands also for an enable that a
FATAL event rejects (R433), for which R428 lists none (DESIGN CHOICE, log entry 98). -/
def Device.enableFault (d : Device) (part : Option Nat) (sizeOk : Bool) (base bytes : Nat) (vec : Option Nat) : Option Nat :=
  if !d.linkOk then some 1
  else if (part.any fun p => !d.formed p || !d.flag (.hifPartCtrl p) Fd.hifPartCtrlEnable) ||
      d.flag .rasStatus Fd.rasStatusFatal then some 2
  else if !sizeOk then some 3
  else if 2 ^ 64 < base + bytes || (part.any fun p =>
      overlaps (base, bytes) (d.wordPage p, 4096) || (d.enabledRings p).any (overlaps (base, bytes))) then some 4
  else if !(match part, vec with
      | some p, some v => vectorOk (d.ownerOf p) v
      | _, _ => true) then some 7
  else if part.any fun p => !d.syncRangeOk p || !d.poolsOk p then some 5
  else if part.any fun p => !d.ctxAllows p then some 6
  else none

/-- R460: a rejected enable: 0x0406 with its DETAIL. DESIGN CHOICE (log entry 126): it, and 0x0403, 0x0405 and 0x0407 to 0x0409, are
EVENT records, class 0: no outcome of R426's table is a rejected enable, an ignored write or word, an Unsupported Request, waiting
records or a withheld heartbeat. -/
def Device.rejectEnable (d : Device) (part : Option Nat) (ring detail : Nat) : Device :=
  match part with
  | some p => d.logPart p 0x0406 0 (hostBody ring 0 0 detail)
  | none => d.logModule 0x0406 0 (hostBody ring 0 0 detail)

/-- R88: ENABLE = 1 of a submission ring: CONSUMED is taken from the status word and polling starts. -/
def Device.sqEnable (d : Device) (p q : Nat) : Device :=
  let size := d.fld (.hifSqCfg p q) Fd.hifSqCfgSizeLog2
  let base := d.fld (.hifSqBase p q) Fd.hifSqBaseAddr * 4096
  match d.enableFault (some p) (decide (6 ≤ size ∧ size ≤ 16)) base (64 * 2 ^ size) none with
  | some det => (d.setFld (.hifSqCfg p q) Fd.hifSqCfgEnable 0).rejectEnable (some p) q det
  | none =>
    let consumed := fieldOf (d.hostWord (d.wordPage p + 0x200 + 8 * q)) 31 0
    let d := d.setFld (.hifSqCfg p q) Fd.hifSqCfgEnable 1
    let d := d.setFld (.hifSqStatus p q) Fd.hifSqStatusState 1
    let d := d.setFld (.hifSqStatus p q) Fd.hifSqStatusConsumed consumed
    let d := if d.queue p q = [] then d.setFld (.cmdQStatus p q) Fd.cmdQStatusRetireIndex consumed else d
    let d : Device := { d with sqs := SMap.set (fun _ => {}) d.sqs (qkey p q) { seen := consumed } }
    if bitOf (d.hostWord (d.wordPage p + 0x200 + 8 * q)).toNat 62 then d.writeStatusWord p q false else d

/-- R88: ENABLE = 0: fetch stops; commands already fetched run to completion. The STOPPED bit in host memory is 1 in STOPPED alone, so it
is written 0 where the ring leaves that state. -/
def Device.sqDisable (d : Device) (p q : Nat) : Device :=
  let stopped := d.sqState p q == 3
  let d := d.setFld (.hifSqCfg p q) Fd.hifSqCfgEnable 0
  let d := d.setFld (.hifSqStatus p q) Fd.hifSqStatusState 0
  let d := if stopped then d.writeStatusWord p q false else d
  { d with sqs := SMap.set (fun _ => {}) d.sqs (qkey p q) {} }

/-- R91, R460: ENABLE = 1 of a completion ring: the records that wait are written from TAIL 0. -/
def Device.cqEnable (d : Device) (p c : Nat) : Device :=
  let size := d.fld (.hifCqCfg p c) Fd.hifCqCfgSizeLog2
  let base := d.fld (.hifCqBase p c) Fd.hifCqBaseAddr * 4096
  match d.enableFault (some p) (decide (6 ≤ size ∧ size ≤ 16)) base (32 * 2 ^ size)
      (some (d.fld (.hifCqCfg p c) Fd.hifCqCfgVector)) with
  | some det => (d.setFld (.hifCqCfg p c) Fd.hifCqCfgEnable 0).rejectEnable (some p) c det
  | none =>
    let d := d.setFld (.hifCqCfg p c) Fd.hifCqCfgEnable 1
    let d := d.setFld (.hifCqStatus p c) Fd.hifCqStatusState 1
    let d := d.setFld (.hifCqStatus p c) Fd.hifCqStatusTail 0
    (d.setCq p c { waiting := (d.cq p c).waiting }).cqFlush p c

/-- R91: ENABLE = 0 of a completion ring clears the tail; later records wait. -/
def Device.cqDisable (d : Device) (p c : Nat) : Device :=
  let d := d.setFld (.hifCqCfg p c) Fd.hifCqCfgEnable 0
  let d := d.setFld (.hifCqStatus p c) Fd.hifCqStatusState 0
  let d := d.setFld (.hifCqStatus p c) Fd.hifCqStatusTail 0
  d.setCq p c { waiting := (d.cq p c).waiting }

/-- R460, R95, R429: ENABLE = 1 of error ring k (8 the module's): its counts start at 0; the module's then takes the
history records that wait. -/
def Device.errEnable (d : Device) (k : Nat) : Device :=
  let size := d.fld (errCfgReg k) Fd.hifErrCfgSizeLog2
  let part := if k < 8 then some k else none
  match d.enableFault part (decide (6 ≤ size ∧ size ≤ 12)) (d.errBase k) (64 * 2 ^ size)
      (part.map fun _ => d.fld (errCfgReg k) Fd.hifErrCfgVector) with
  | some det => (d.setFld (errCfgReg k) Fd.hifErrCfgEnable 0).rejectEnable part 0 det
  | none =>
    let d := (d.setFld (errCfgReg k) Fd.hifErrCfgEnable 1).setErrRing k { d.errRing k with tail := 0, head := 0 }
    if k < 8 then d else d.histReplay

/-! ### Producer words, sleep and wake (R82 to R87) -/

/-- A submission ring beyond its registers. -/
def Device.sq (d : Device) (p q : Nat) : SqState := SMap.at' {} d.sqs (qkey p q)

/-- The device with a submission ring changed. -/
def Device.setSq (d : Device) (p q : Nat) (x : SqState) : Device :=
  { d with sqs := SMap.set (fun _ => {}) d.sqs (qkey p q) x }

/-- CONSUMED of a submission ring. -/
def Device.consumed (d : Device) (p q : Nat) : Nat := d.fld (.hifSqStatus p q) Fd.hifSqStatusConsumed

/-- The PRODUCER that host memory holds for a ring (R82). -/
def Device.producer (d : Device) (p q : Nat) : Nat := fieldOf (d.hostWord (d.wordPage p + 8 * q)) 31 0

/-- R83: a PRODUCER read for a ring: beyond the ring's size it stops the ring with 0x0402. -/
def Device.seeProducer (d : Device) (p q : Nat) : Device :=
  let v := d.producer p q
  if 2 ^ d.fld (.hifSqCfg p q) Fd.hifSqCfgSizeLog2 < (v + 2 ^ 32 - d.consumed p q) % 2 ^ 32 then
    (d.ringStop p q).logPart p 0x0402 3 (hostBody q (d.consumed p q) 0 v)
  else d.setSq p q { d.sq p q with seen := v }

/-- R84: a line of eight producer words is read while at least one of its rings is awake. -/
def Device.pollLine (d : Device) (p line : Nat) : Device :=
  let qs := ((List.range 8).map fun i => 8 * line + i).filter fun q => d.sqState p q == 1
  if qs = [] ∨ 8 ≤ line ∨ d.served p = false then d
  else (qs.foldl (fun (d : Device) q => d.seeProducer p q) d).emit (.hostRead (d.wordPage p + 64 * line) 64)

/-- R98: a descriptor as it lies in host memory. -/
def Device.descAt (d : Device) (addr : Nat) : Desc :=
  ⟨d.hostWord addr, d.hostWord (addr + 8), d.hostWord (addr + 16), d.hostWord (addr + 24),
   d.hostWord (addr + 32), d.hostWord (addr + 40), d.hostWord (addr + 48), d.hostWord (addr + 56)⟩

/-- R100, R103: one descriptor is fetched and decoded: it enters FETCHED, or is skipped. -/
def Device.fetchOne (d : Device) (p q : Nat) : Device :=
  let i := d.consumed p q
  let size := 2 ^ d.fld (.hifSqCfg p q) Fd.hifSqCfgSizeLog2
  let x := d.descAt (d.fld (.hifSqBase p q) Fd.hifSqBaseAddr * 4096 + 64 * (i % size))
  let c : Cmd := { idx := i, desc := x }
  let d := (d.setQueue p q (d.queue p q ++ [c])).setFld (.hifSqStatus p q) Fd.hifSqStatusConsumed (i + 1)
  match d.decodeFault p x with
  | some (reason, detail) => d.skipWithItem p q c reason detail
  | none => d.advanceQueue p q

/-- n descriptors in order. -/
def Device.fetchMany (p q : Nat) : Nat → Device → Device
  | 0, d => d
  | n + 1, d => Device.fetchMany p q n (d.fetchOne p q)

/-- R84, R102: a run takes at most 64 descriptors, what PRODUCER publishes, and what the run-ahead limit leaves. -/
def Device.runLength (d : Device) (p q : Nat) : Nat :=
  min 64 (min (((d.sq p q).seen + 2 ^ 32 - d.consumed p q) % 2 ^ 32) (512 - (d.queue p q).length))

/-- R84, R85, R95: a run of descriptors arrives, and CONSUMED is written; a read that failed with a status stops the
ring with 0x0401. A ring that is going to sleep takes none before its producer word has been read again. -/
def Device.fetchRun (d : Device) (p q status : Nat) : Device :=
  let n := d.runLength p q
  if d.sqState p q ≠ 1 ∨ n = 0 ∨ d.served p = false ∨ d.ctxState p = 5 ∨ (d.sq p q).checking = true then d
  else if status ≠ 0 then
    (d.ringStop p q).logPart p 0x0401 3 (hostBody q (d.consumed p q)
      (d.fld (.hifSqBase p q) Fd.hifSqBaseAddr * 4096 +
        64 * (d.consumed p q % 2 ^ d.fld (.hifSqCfg p q) Fd.hifSqCfgSizeLog2)) status)
  else (Device.fetchMany p q n d).writeStatusWord p q false

/-- R85 steps 1 and 2: a ring that has seen no new PRODUCER for 20 µs writes SLEEP = 1 and reads its producer word. -/
def Device.idleTimeout (d : Device) (p q : Nat) : Device :=
  if d.sqState p q = 1 ∧ d.served p = true ∧ (d.sq p q).checking = false then
    ((d.writeStatusWord p q true).setSq p q { d.sq p q with checking := true }).emit (.hostRead (d.wordPage p + 8 * q) 8)
  else d

/-- R85 step 3: the ring sleeps if PRODUCER equals CONSUMED; otherwise SLEEP = 0 is written and it stays ACTIVE. -/
def Device.sleepCheck (d : Device) (p q : Nat) : Device :=
  if d.sqState p q = 1 ∧ d.linkOk = true ∧ (d.sq p q).checking = true then
    let d := d.setSq p q { d.sq p q with checking := false }
    if d.producer p q = d.consumed p q then d.setFld (.hifSqStatus p q) Fd.hifSqStatusState 2
    else (d.writeStatusWord p q false).seeProducer p q
  else d

/-- R87: a wake write: it wakes a SLEEPING ring and is counted on any other. -/
def Device.wake (d : Device) (p q : Nat) : Device :=
  if d.linkOk = false then d
  else if d.sqState p q = 2 then
    let d := (d.setFld (.hifSqStatus p q) Fd.hifSqStatusState 1).writeStatusWord p q false
    if d.served p then d.seeProducer p q else d
  else d.bump (.hifPartStatus p) Fd.hifPartStatusWakeIgnored

/-- R79, R87: the ring that a BAR2 offset of a function names; only offset 0 of its page wakes. -/
def bar2Ring (fn off : Nat) : Option (Nat × Nat) :=
  if off % 0x1000 ≠ 0 then none
  else
    let n := off / 0x1000
    if fn = 0 then (if n < 512 then some (n / 64, n % 64) else none)
    else if fn ≤ 8 ∧ n < 64 then some (fn - 1, n) else none

/-! ### Head words and interrupts (R91, R92) -/

/-- R91, R92: a completion ring's head word is read: accepted when HEAD lies within the records written, else
ignored whole and logged once per episode. -/
def Device.readHead (d : Device) (p c : Nat) : Device :=
  if d.flag (.hifCqCfg p c) Fd.hifCqCfgEnable && d.linkOk then
    let w := d.hostWord (d.wordPage p + 0x400 + 8 * c)
    let x := d.cq p c
    if (fieldOf w 31 0 + 2 ^ 32 - x.head) % 2 ^ 32 ≤ d.cqUsed p c then
      (d.setCq p c { x with head := fieldOf w 31 0, armRead := fieldOf w 47 32, headLogged := false }).cqFlush p c
    else if x.headLogged then d
    else (d.setCq p c { x with headLogged := true }).logPart p 0x0409 0 (hostBody c 0 0 (fieldOf w 31 0 + c * 2 ^ 32))
  else d

/-- R91: 1 ms in FULL: 0x0403, once per episode. -/
def Device.cqFullTimeout (d : Device) (p c : Nat) : Device :=
  if d.fld (.hifCqStatus p c) Fd.hifCqStatusState = 2 ∧ (d.cq p c).fullLogged = false then
    (d.setCq p c { d.cq p c with fullLogged := true }).logPart p 0x0403 0 (hostBody c 0 0 0)
  else d

/-- R92: COAL_TIME_US has passed since the first record beyond HEAD of an armed ring. -/
def Device.coalesceTimeout (d : Device) (p c : Nat) : Device :=
  let x := d.cq p c
  if d.flag (.hifCqCfg p c) Fd.hifCqCfgEnable ∧ d.linkOk = true ∧ x.armRead ≠ x.armServed ∧ 1 ≤ d.cqUsed p c then
    (d.setCq p c { x with armServed := x.armRead }).raise (d.ownerOf p) (d.fld (.hifCqCfg p c) Fd.hifCqCfgVector)
  else d

/-! ### Heartbeats (R93) -/

/-- R408: a save or restore of the partition runs. -/
def Device.switching (d : Device) (p : Nat) : Bool :=
  d.ctxState p == 2 || d.ctxState p == 4

/-- R93: a partition is active. -/
def Device.partActive (d : Device) (p : Nat) : Bool :=
  (d.flag (.hifPartCtrl p) Fd.hifPartCtrlEnable && (List.range 64).any fun q => d.sqState p q != 0) || d.switching p

/-- R93: the firmware state of a heartbeat, the first that holds. -/
def Device.firmwareState (d : Device) (p : Nat) : Nat :=
  if d.switching p then 3
  else if (List.range 64).any fun q => (d.queue p q).any fun c => c.parked.isSome then 2
  else if d.fld (.cisPartStep p) Fd.cisPartStepState == 0 then 1
  else 0

/-- R93: a heartbeat is written into HB_CQ, or withheld where that ring is FULL or DISABLED. No ring runs while the link does not
allow it (R77). -/
def Device.heartbeat (d : Device) (p : Nat) : Device :=
  if d.partActive p && d.linkOk then
    let c := d.fld (.hifPartCtrl p) Fd.hifPartCtrlHbCq
    if d.fld (.hifCqStatus p c) Fd.hifCqStatusState = 1 then
      (d.setFld (.hifPartStatus p) Fd.hifPartStatusHbBlocked 0).cqPost p c
        { typ := 1, status := 0, queue := 0, index := 0, value := if d.ptmOn then d.ptm else 0, low3 := d.firmwareState p }
    else if d.flag (.hifPartStatus p) Fd.hifPartStatusHbBlocked then d
    else (d.setFld (.hifPartStatus p) Fd.hifPartStatusHbBlocked 1).logPart p 0x0407 0 (hostBody c 0 0 c)
  else d

/-! ### The meanings -/

/-- CONFIG_REQUEST. -/
def execConfigRequest (fn : Nat) (a : ConfigAccess) (s : State) : Result := live (·.configRequest fn a) s

/-- PCIE_LINK_TRAINED. -/
def execPcieLinkTrained (rate width : Nat) (flit : Bool) (s : State) : Result := live (·.linkTrained rate width flit) s

/-- PRODUCER_POLL. -/
def execProducerPoll (p line : Nat) (cells : List Host.Cell) (s : State) : Result :=
  run (fun d => (d.hostStores cells).pollLine p line) s

/-- DESCRIPTOR_FETCH. -/
def execDescriptorFetch (p q status : Nat) (cells : List Host.Cell) (s : State) : Result :=
  run (fun d => (d.hostStores cells).fetchRun p q status) s

/-- RING_IDLE_TIMEOUT. -/
def execRingIdleTimeout (p q : Nat) (s : State) : Result := run (·.idleTimeout p q) s

/-- SLEEP_CHECK_COMPLETE. -/
def execSleepCheckComplete (p q : Nat) (cells : List Host.Cell) (s : State) : Result :=
  run (fun d => (d.hostStores cells).sleepCheck p q) s

/-- WAKE_DOORBELL: a write of BAR2 by a function. -/
def execWakeDoorbell (fn off : Nat) (cells : List Host.Cell) (s : State) : Result :=
  run (fun d =>
    match bar2Ring fn off with
    | none => d
    | some (p, q) => if fn ≤ d.vfs then (d.hostStores cells).wake p q else d) s

/-- HEAD_WORD_READ. -/
def execHeadWordRead (p c : Nat) (cells : List Host.Cell) (s : State) : Result :=
  run (fun d => (d.hostStores cells).readHead p c) s

/-- CQ_FULL_TIMEOUT. -/
def execCqFullTimeout (p c : Nat) (s : State) : Result := run (·.cqFullTimeout p c) s

/-- COALESCE_TIMEOUT. -/
def execCoalesceTimeout (p c : Nat) (s : State) : Result := run (·.coalesceTimeout p c) s

/-- HEARTBEAT. -/
def execHeartbeat (p : Nat) (s : State) : Result := run (·.heartbeat p) s

/-- PTM_EXCHANGE: an exchange of the requester, where PTM is enabled. -/
def execPtmExchange (hostTime : Word) (s : State) : Result :=
  live (fun d => if d.ptmOn then { d with ptm := hostTime } else d) s

end Sys2Proof.Machine
end

