-- ==== Sys2Proof/Machine/CommandRows.lean ====
section
/-! DEFINITION. The rows of a command's life (R100 to R102, R109, R110, R123), of ready lists (R129) and of the
CONTROL family (R99, R118, R126). -/

namespace Sys2Proof.Machine

/-- A RUNNING command whose entries are granted, with an opcode, whose engine work has not ended. While its partition is being
reset engines take up no command's work (R422), and once a save area is written nothing moves (R410). -/
def Device.runningCmd (d : Device) (p q idx op : Nat) : Option Cmd :=
  match d.cmd? p q idx with
  | none => none
  | some c => if d.frozen p = false ∧ (d.drains p c.desc = true → c.begun = true) ∧
      c.st = .running ∧ opcodeOf c.desc = op ∧ c.worked = false ∧ c.parked = none ∧ d.entriesGranted p q c = true then some c else none

/-- The engine's work of a command has ended with a status and a VALUE. -/
def Device.workEnds (d : Device) (p q idx status : Nat) (value : Word := 0) : Device :=
  d.updCmd p q idx fun c => { c with begun := true, worked := true, status := status, value := value, parked := none }

/-- One row of an engine's work: f works on the command where it is at that point. -/
def Device.work (d : Device) (p q idx op : Nat) (f : Cmd → Device → Device) : Device :=
  match d.runningCmd p q idx op with
  | none => d
  | some c => f c d

/-- R126: HOST_SIGNAL writes its word, then raises its vector. -/
def Device.hostSignal (d : Device) (p : Nat) (x : Desc) : Device :=
  let v := if bitOf x.q6.toNat 63 then
      (match d.syncOf p (fieldOf x.q6 16 0) with
        | some n => (d.obj n).value
        | none => 0)
    else x.q5
  let d := d.hostWriteWord (fieldOf x.q4 63 3 * 8) v
  if bitOf x.q6.toNat 62 then d.raise (d.ownerOf p) (fieldOf x.q6 39 32) else d

/-- R100, R109, R114: all engines of a RUNNING command report completion: the status it ends with. -/
def Device.workDone (d : Device) (p q : Nat) (c : Cmd) : Option Nat :=
  if opcodeOf c.desc = 0x11 then
    (if c.begun ∧ c.aux.getD 0 0 = 0 then
      some (if c.aux.getD 1 0 ≠ 0 then 4 else if c.aux.getD 2 0 ≠ 0 then 5 else 0)
    else none)
  else if opcodeOf c.desc = 0x12 then
    (if c.begun ∧ (d.targets p c.desc).all (fun k => (d.core k).st == .idle) then some 0 else none)
  else if opcodeOf c.desc = 0x10 then
    (if c.worked ∧ !((d.targets p c.desc).any fun k => (d.core k).parts.any fun x => x.origin == some (q, c.idx)) then
      some c.status
    else none)
  else if c.worked then some c.status else none

/-- COMMAND_COMPLETE on one command. -/
def Device.cmdComplete (d : Device) (p q idx : Nat) : Device :=
  match d.cmd? p q idx with
  | none => d
  | some c =>
    if c.st = .running ∧ d.frozen p = false then
      match d.workDone p q c with
      | some status => d.cmdDone p q c status
      | none => d
    else d

/-- R108 to R110: a part of a program write reaches a core: it lands, or waits on a lease, on an earlier part of its region, or on a
lapsed part of it. -/
def Device.partArrives (d : Device) (c : Nat) (x : PmemPart) : Device :=
  let k := d.core c
  let r := regionOf x.word
  if k.lease == some r || (k.parts.any fun y => regionOf y.word == r) || (k.lapsed.any fun y => regionOf y.word == r) then
    d.setCore c { k with parts := k.parts ++ [x] }
  else d.setCore c (k.land x)

/-- R116: a write of CMD_PMEM_DATA waits at a core. -/
def Device.pmemWaits (d : Device) : Bool := d.cores.any fun e => e.2.parts.any fun x => x.origin.isNone

/-- R116: writes of CMD_PMEM_DATA that were held behind one that waited go on, in order, until one of them waits. -/
def Device.pmemGo : List (Nat × Nat × Word) → Device → Device
  | [], d => { d with pmemHeld := [] }
  | (c, a, w) :: rest, d =>
    if d.pmemWaits then { d with pmemHeld := (c, a, w) :: rest }
    else Device.pmemGo rest (d.partArrives c { word := a, data := [w], origin := none })

/-- R116: the writes of CMD_PMEM_DATA that are held go on where they can. -/
def Device.pmemNext (d : Device) : Device := Device.pmemGo d.pmemHeld d

/-- R110: a part that has waited 10 µs on a lease is accepted into the pending program buffer. -/
def Device.leaseLapse (d : Device) (c : Nat) : Device :=
  let k := d.core c
  match k.lease, k.lapsed with
  | some r, none =>
    match k.parts.find? fun x => regionOf x.word == r with
    | none => d
    | some x =>
      let d := d.setCore c { k with lapsed := some x, parts := k.parts.erase x }
      let o := x.origin.getD (0xFF, 0)
      let qw0 := ((x.origin.bind fun o => d.cmd? (d.corePart c) o.1 o.2).map (·.desc.q0)).getD 0
      (d.logPart (d.corePart c) 0x0502 0 (cmdBody o.1 o.2 (fieldOf qw0 63 56) 0 (coreDetail c x.word 0) qw0) (c / 64)).pmemNext
  | _, _ => d

/-- R109, R110: a waiting part lands whole once its region is not leased and no lapsed part of it is pending. -/
def Device.partLand (d : Device) (c : Nat) : Device :=
  let k := d.core c
  match k.parts.find? fun x => k.lease != some (regionOf x.word) && !(k.lapsed.any fun y => regionOf y.word == regionOf x.word) with
  | none => d
  | some x => (d.setCore c ({ k with parts := k.parts.erase x }.land x)).pmemNext

/-- R109, R116: CMD_PMEM_DATA writes one program word at CMD_PMEM_ADDR and advances it; behind an earlier one that waits, it is
held. -/
def Device.pmemData (d : Device) (w : Word) : Device :=
  let c := d.fld .cmdPmemAddr Fd.cmdPmemAddrCore
  let a := d.fld .cmdPmemAddr Fd.cmdPmemAddrWord
  let d := Device.pmemGo (d.pmemHeld ++ [(c, a, w)]) d
  d.setFld .cmdPmemAddr Fd.cmdPmemAddrWord ((a + 1) % 8192)

/-- R129: an entry that has waited AGE_US moves up one level. -/
def Device.readyAge (d : Device) (die p q idx : Nat) : Device :=
  d.setReady die ((d.readyOf die).map fun e =>
    if e.part = p ∧ e.queue = q ∧ e.idx = idx ∧ e.granted = false then { e with level := e.level - 1 } else e)

/-- R100: the WAITING command of a queue leaves WAITING if it can. -/
def Device.startWaiting (d : Device) (p q : Nat) : Device :=
  match d.waitingCmd p q with
  | none => d
  | some c => d.tryStart p q c

/-- R101: the next command of a queue retires if it is DONE; what only it still held is let go (R252, R320, R386). -/
def Device.retireNext (d : Device) (p q : Nat) : Device :=
  match d.retirable p q with
  | none => d
  | some c => (((d.cmdRetire p q c).sweepSegments p).sweepBinds p).sweepTables p

/-! ### The meanings -/

/-- NOP: it only waits and signals. -/
def execNop (p q idx : Nat) (s : State) : Result := run (fun d => d.work p q idx 0x00 fun _ d => d.workEnds p q idx 0) s

/-- SYNC: it only waits and signals. -/
def execSync (p q idx : Nat) (s : State) : Result := run (fun d => d.work p q idx 0x01 fun _ d => d.workEnds p q idx 0) s

/-- HOST_SIGNAL. -/
def execHostSignal (p q idx : Nat) (s : State) : Result :=
  run (fun d => d.work p q idx 0x02 fun c d => (d.hostSignal p c.desc).workEnds p q idx 0) s

/-- COMMAND_START: the WAITING command of a queue leaves WAITING if it can. -/
def execCommandStart (p q : Nat) (s : State) : Result :=
  run (·.startWaiting p q) s

/-- COMMAND_TIMEOUT. -/
def execCommandTimeout (p q : Nat) (s : State) : Result := run (·.cmdTimeout p q) s

/-- COMMAND_COMPLETE. -/
def execCommandComplete (p q idx : Nat) (s : State) : Result := run (·.cmdComplete p q idx) s

/-- COMMAND_RETIRE. -/
def execCommandRetire (p q : Nat) (s : State) : Result :=
  run (·.retireNext p q) s

/-- LEASE_LAPSE. -/
def execLeaseLapse (c : Nat) (s : State) : Result := run (·.leaseLapse c) s

/-- PROGRAM_WRITE_LAND. -/
def execProgramWriteLand (c : Nat) (s : State) : Result := run (·.partLand c) s

/-- READY_GRANT: an engine of a class on a die is free. -/
def execReadyGrant (die k : Nat) (s : State) : Result := run (·.readyGrant die k) s

/-- READY_AGE. -/
def execReadyAge (die p q idx : Nat) (s : State) : Result := run (·.readyAge die p q idx) s

end Sys2Proof.Machine
end

