-- ==== Sys2Proof/Machine/Sequencer.lean ====
section
/-! DEFINITION. The control class of core instructions (R105 to R113) and the waits of cores (R122 to R124). -/

namespace Sys2Proof.Machine

/-- Bits 63:56 of an instruction word: its class. -/
def wordClass (w : Word) : Nat := fieldOf w 63 56

/-- R106, R111: a control-class word sets no bit its encoding does not name, and its condition, op and body are
among those given. -/
def controlLegal (w : Word) : Bool :=
  match wordClass w with
  | 0x01 => fieldOf w 51 20 == 0 && decide (fieldOf w 19 17 < 4)
  | 0x02 => fieldOf w 51 20 == 0 && decide (fieldOf w 19 17 < 4)
  | 0x03 => fieldOf w 51 42 == 0 && fieldOf w 31 0 == 0 && decide (1 ≤ fieldOf w 41 32) && decide (fieldOf w 41 32 ≤ 511)
  | 0x04 => fieldOf w 47 13 == 0 && decide (fieldOf w 51 48 < 4)
  | 0x05 => fieldOf w 51 32 == 0
  | 0x06 => fieldOf w 47 32 == 0
  | 0x07 => fieldOf w 55 0 == 0
  | _ => false

/-- A control instruction of a class at a core that can run it: entering its block takes the lease. -/
def Device.control (d : Device) (c cls : Nat) (f : Word → Device → Device) : Device :=
  let w := d.coreWord c
  if d.canRun c = true ∧ wordClass w = cls ∧ controlLegal w = true then f w (d.takeLease c) else d

/-- R106, R107, R118: WAIT ends its block; a wait that is met goes on, one that is not registers and the core
waits. -/
def Device.instrWait (d : Device) (c : Nat) (w : Word) : Device :=
  let op := fieldOf w 19 17
  let p := d.corePart c
  if op = 0 then d.advance c true
  else
    match d.syncOf p (fieldOf w 16 0) with
    | none => d.progFault c 6 (fieldOf w 16 0)
    | some n =>
      let v := (d.core c).sreg (fieldOf w 55 52)
      if waitHolds op (d.obj n).value v then ((d.takeWait n op v).testObj n).advance c true
      else
        let d := d.blockEnd c
        if (d.core c).st = .running then
          (d.updCore c fun k => { k with st := .waiting }).register n
            { isCore := true, part := p, who := c, index := (d.core c).pc, op := op, value := v }
        else d

/-- R106, R118: SIGNAL; a fault of the signal does not stop the core (R119). -/
def Device.instrSignal (d : Device) (c : Nat) (w : Word) : Device :=
  let op := fieldOf w 19 17
  let p := d.corePart c
  if op = 0 then d.advance c
  else
    match d.syncOf p (fieldOf w 16 0) with
    | none => d.progFault c 6 (fieldOf w 16 0)
    | some n =>
      ((d.signal p n op ((d.core c).sreg (fieldOf w 55 52)).toNat (sourceWord d.chip p 2 c) (d.core c).pc).1).advance c

/-- R111 to R113: LOOP reads its count once, at entry. -/
def Device.instrLoop (d : Device) (c : Nat) (w : Word) : Device :=
  let k := d.core c
  let count := k.sreg (fieldOf w 55 52)
  let last := k.pc + fieldOf w 41 32
  if 4 ≤ k.loops.length then d.progFault c 2
  else if fieldOf count 63 32 ≠ 0 then d.progFault c 3
  else if regionOf last ≠ regionOf k.pc ∨ k.loops.any (fun f => decide (f.last < last)) then d.progFault c 4
  else if count.toNat = 0 then d.advanceFrom c last
  else
    (d.setCore c { k with pc := k.pc + 1, loops := { first := k.pc + 1, last := last, left := count.toNat } :: k.loops }).blockEnd c

/-- R106: a BRANCH condition. -/
def branchTaken (cond : Nat) (v : Word) : Bool :=
  match cond with
  | 0 => true
  | 1 => v == 0
  | 2 => v != 0
  | _ => v.msb

/-- R106, R107, R112: BRANCH ends its block; a taken branch that leaves a loop's body ends that loop. -/
def Device.instrBranch (d : Device) (c : Nat) (w : Word) : Device :=
  let k := d.core c
  let t := fieldOf w 12 0
  if branchTaken (fieldOf w 51 48) (k.sreg (fieldOf w 55 52)) then
    (d.setCore c { k with pc := t, loops := k.loops.dropWhile fun f => !(decide (f.first ≤ t) && decide (t ≤ f.last)) }).blockEnd c
  else d.advance c true

/-- R106: SET writes a sign-extended value. -/
def Device.instrSet (d : Device) (c : Nat) (w : Word) : Device :=
  (d.updCore c fun k => k.setSreg (fieldOf w 55 52) (signExt 32 (fieldOf w 31 0))).advance c

/-- R106: ADD adds a sign-extended value to the source register. -/
def Device.instrAdd (d : Device) (c : Nat) (w : Word) : Device :=
  (d.updCore c fun k =>
    k.setSreg (fieldOf w 55 52) (k.sreg (fieldOf w 51 48) + signExt 32 (fieldOf w 31 0))).advance c

/-- The waiter of a core on an object, with the object. -/
def Device.coreWaiter (d : Device) (c : Nat) : Option (Nat × Waiter) :=
  d.objs.findSome? fun e => (e.2.waiters.find? fun w => w.isCore && w.who == c).map fun w => (e.1, w)

/-- R123, R124: a WAIT times out: released as met if its condition holds, else 0x0603 and the core goes IDLE. DESIGN CHOICE (log entry
129): a polling wait-subtract of a core is tested here by its condition alone, also while a registered waiter's condition holds. -/
def Device.coreWaitTimeout (d : Device) (c : Nat) : Device :=
  if (d.core c).st = .waiting then
    match d.coreWaiter c with
    | none => d
    | some (n, w) =>
      if waitHolds w.op (d.obj n).value w.value then (d.releaseCore n w).testObj n
      else
        let p := d.corePart c
        let d := d.bump (.synPartStatus p) Fd.synPartStatusCoreWaitTimeouts
        let d := d.logPart p 0x0603 2 (syncBody (d.relOf p n) p (waitOpCode w.op) w.value (d.obj n).value
          (sourceWord d.chip p 2 c)) (objDie n)
        d.coreStop c .idle .timedOut
  else d

/-- R134: the head item stays incomplete STALL_US after a later item completed. -/
def Device.flowStall (d : Device) (p f : Nat) : Device :=
  let x := d.flow p f
  let s := d.flowNext p f
  if d.flowState p f = 1 ∧ d.fld (.synFlowCfg p f) Fd.synFlowCfgStallUs ≠ 0 ∧
      x.items.any (fun i => i.completed && i.seq != s) = true ∧ x.items.any (fun i => i.completed && i.seq == s) = false then
    (d.setFld (.synFlowStatus p f) Fd.synFlowStatusState 2).logFlow p 0x0605 3 f s 0
  else d

/-- R140: a write of SYN_DBG_SEL latches one object and one of its waiters. -/
def Device.dbgSelect (d : Device) (w : Word) : Device :=
  let o := d.obj (fieldOf w 16 0)
  let d := d.setReg .synDbgSel (wordOf (fieldOf w 31 0))
  let d := d.setReg .synDbgValue o.value
  let d := d.setReg .synDbgState (wordOf (ofBool o.overflowed * 2 ^ 33 + ofBool o.underflowed * 2 ^ 32 +
    min 65535 o.waiters.length))
  let d := d.setReg .synDbgLastSrc o.lastSrc
  let d := d.setReg .synDbgLastIndex (wordOf (o.lastIndex % 2 ^ 32))
  match o.waiters[fieldOf w 31 17]? with
  | none => (d.setReg .synDbgWaiter 0).setReg .synDbgWaiterValue 0
  | some x =>
    (d.setReg .synDbgWaiter (wordOf (2 ^ 63 + ofBool x.polling * 2 ^ 62 + ofBool x.isCore * 2 ^ 60 + x.op * 2 ^ 57 +
      x.part * 2 ^ 54 + x.who * 2 ^ 46 + x.index % 2 ^ 32))).setReg .synDbgWaiterValue x.value

/-! ### The meanings -/

/-- WAIT. -/
def execWait (c : Nat) (s : State) : Result := run (fun d => d.control c 0x01 fun w d => d.instrWait c w) s

/-- SIGNAL. -/
def execSignal (c : Nat) (s : State) : Result := run (fun d => d.control c 0x02 fun w d => d.instrSignal c w) s

/-- LOOP. -/
def execLoop (c : Nat) (s : State) : Result := run (fun d => d.control c 0x03 fun w d => d.instrLoop c w) s

/-- BRANCH. -/
def execBranch (c : Nat) (s : State) : Result := run (fun d => d.control c 0x04 fun w d => d.instrBranch c w) s

/-- SET. -/
def execSet (c : Nat) (s : State) : Result := run (fun d => d.control c 0x05 fun w d => d.instrSet c w) s

/-- ADD. -/
def execAdd (c : Nat) (s : State) : Result := run (fun d => d.control c 0x06 fun w d => d.instrAdd c w) s

/-- POLLING_WAITER_RETEST: the polling waiters of a device object. -/
def execPollingWaiterRetest (n : Nat) (s : State) : Result :=
  run (·.pollWaiters n) s

/-- CORE_WAIT_TIMEOUT. -/
def execCoreWaitTimeout (c : Nat) (s : State) : Result := run (·.coreWaitTimeout c) s

/-- FLOW_STALL. -/
def execFlowStall (p f : Nat) (s : State) : Result := run (·.flowStall p f) s

end Sys2Proof.Machine
end

