-- ==== Sys2Proof/Machine/Power.lean ====
section
/-! DEFINITION. Power domains, lending, budget and heat (chapter 02); what ends in a device reset stands in
Electrical.lean. -/

namespace Sys2Proof.Machine

/-! ### Draw and settings -/

/-- R5, R34: an array's beat rate at a rail setting in units of 10 mV, at 65 °C, in units of 10^6 beats/s. -/
def beatRate (v : Nat) : Nat := if v ≤ 80 then 1400 + 40 * (v - 60) else 2200 + 400 * (v - 80) / 15

/-- R46: an array's draw at full activity in proportion to V² × rate, 5.8 W at NOP, in mW. -/
def arrayDraw (v : Nat) : Nat := 5800 * v * v * beatRate v / (80 * 80 * 2200)

/-- R46: the floor reserved for a lowered core, mW. -/
def floorDraw : Nat := 2100

/-- R49: the module budget in force, W. -/
def Device.moduleBudget (d : Device) : Nat := clampTo 1000 3200 (d.fld .pwrBudget Fd.pwrBudgetModuleW)

/-- R47: the granted setting of a core's rail. -/
def Device.grantOf (d : Device) (c : Nat) : Nat := SMap.at' 60 d.power.grants c

/-- R35: the rail setting of a domain, as RAIL_SET shows it. -/
def Device.railOf (d : Device) (n : Nat) : Nat := d.fld (.pwrDomStatus n) Fd.pwrDomStatusRailSet

/-- The state of a domain in which its rail supplies work at a setting: powering up, ON, or on its way down before the rail goes off. -/
def drawsByGrant (st : Nat) : Bool := st == 1 || st == 2 || st == 4 || st == 5 || st == 6

/-- R46: what a core's array counts for in the granted sum: its grant, or its floor while LOWERED. -/
def Device.coreGrant (d : Device) (c : Nat) : Nat :=
  let st := d.domState c
  if drawsByGrant st then arrayDraw (d.grantOf c) else if st = 3 then floorDraw else 0

/-- R47: what a core's array holds of the budget: its grant, or what its rail still stands at above it. -/
def Device.coreHolds (d : Device) (c : Nat) : Nat :=
  let st := d.domState c
  if drawsByGrant st then arrayDraw (max (d.grantOf c) (d.railOf c)) else if st = 3 then floorDraw else 0

/-- The cores of a die. -/
def dieCores (die : Nat) : List Nat := (List.range 64).map (64 * die + ·)

/-- R39, R449: the other domains that the VIN_D rail of a die feeds whole: its cluster fabrics and its engines. -/
def dieUnits (die : Nat) : List Nat := (List.range 8).map (272 + 8 * die + ·) ++ (List.range 9).map (366 + 9 * die + ·)

/-- A sum of draws. -/
def drawSum (ns : List Nat) (f : Nat → Nat) : Nat := ns.foldl (fun a n => a + f n) 0

/-- R50: the estimate of a domain that is powered, mW. For a core it is that of its SRAM, vector engine and sequencer: the array counts
by its grant (R46; DESIGN CHOICE, log entry 89). -/
def Device.estimateOf (d : Device) (n : Nat) : Nat :=
  if d.domState n = 0 ∨ d.domState n = 8 then 0 else SMap.at' 0 d.power.estimates n

/-- R46, R50: what a die's VIN_D rail feeds beside arrays, mW. A spare cluster fabric counts half on each of its dies. -/
def Device.dieOther (d : Device) (die : Nat) : Nat :=
  drawSum (dieCores die ++ dieUnits die) d.estimateOf + d.estimateOf (304 + die / 2) / 2

/-- What all domains draw beside arrays, mW. -/
def Device.allOther (d : Device) : Nat := drawSum (List.range 403) d.estimateOf

/-- R46, R49, R50: the budget of a die's arrays, mW: 64 cores at 5.8 W, where 700 W for the rail of the die and a fourth of the
module's budget leave that much beside the other loads (DESIGN CHOICE, log entry 89: the spec gives no split). -/
def Device.dieBudget (d : Device) (die : Nat) : Nat :=
  min 371200 (min (700000 - d.dieOther die) ((1000 * d.moduleBudget - d.allOther) / 4))

/-- The granted draw of a die's arrays, mW. -/
def Device.dieGrant (d : Device) (die : Nat) : Nat := drawSum (dieCores die) d.coreGrant

/-- R47: the granted draw of the module, mW: its arrays by their grants, its other loads by their estimates. -/
def Device.moduleGrant (d : Device) : Nat := drawSum (List.range 4) d.dieGrant + d.allOther

/-- R46: what lowered cores lend: the rest of their shares of their die's budget beyond the floor, mW. -/
def Device.lentDraw (d : Device) : Nat :=
  drawSum (List.range 4) fun die =>
    ((dieCores die).filter fun c => d.domState c == 3).length * (d.dieBudget die / 64 - floorDraw)

/-- R47, R50: what a die's arrays and the module hold lies within their budgets. -/
def Device.fits (d : Device) (die : Nat) : Bool :=
  decide (drawSum (dieCores die) d.coreHolds ≤ d.dieBudget die) &&
  decide (drawSum (List.range 256) d.coreHolds + d.allOther ≤ 1000 * d.moduleBudget)

/-- PWR_MEASURE.GRANTED_W and LENT_W follow the grants. -/
def Device.showGrants (d : Device) : Device :=
  (d.setFld .pwrMeasure Fd.pwrMeasureGrantedW (min 65535 (d.moduleGrant / 1000))).setFld .pwrMeasure Fd.pwrMeasureLentW (d.lentDraw / 1000)

/-- The device with the granted setting of a core. -/
def Device.setGrant (d : Device) (c v : Nat) : Device :=
  { d with power := { d.power with grants := SMap.set (fun _ => 60) d.power.grants c v } }

/-- Every ON core of a list with its grant set by a function of it. -/
def Device.mapGrants (d : Device) (cs : List Nat) (f : Nat → Nat) : Device :=
  cs.foldl (fun (d : Device) c => if d.domState c = 2 then d.setGrant c (f (d.grantOf c)) else d) d

/-- R46: the highest setting at which a die's ON cores, none of them above it, keep within the die's budget; 60 where none does. -/
def Device.dieCap (d : Device) (die : Nat) : Nat :=
  (((List.range 36).map (95 - ·)).find? fun u =>
    decide (drawSum (dieCores die) (fun c => if d.domState c = 2 then arrayDraw (min u (d.grantOf c)) else d.coreGrant c) ≤
      d.dieBudget die)).getD 60

/-- R46, R47: the cores of a die step down, as far as its budget asks, to the highest setting that fits. Their rails follow at
10 mV/µs (RAIL_SLEW_COMPLETE). -/
def Device.stepDown (d : Device) (die : Nat) : Device :=
  if d.dieGrant die ≤ d.dieBudget die then d
  else
    let u := d.dieCap die
    d.mapGrants (dieCores die) (min u)

/-- R47: grants are reclaimed on every die whose budget they exceed. -/
def Device.reclaim (d : Device) : Device := ((List.range 4).foldl Device.stepDown d).showGrants

/-- The device with a domain's STATE. -/
def Device.setDom (d : Device) (n st : Nat) : Device := d.setFld (.pwrDomStatus n) Fd.pwrDomStatusState st

/-- The device with a domain's rail setting shown. -/
def Device.setRail (d : Device) (n v : Nat) : Device := d.setFld (.pwrDomStatus n) Fd.pwrDomStatusRailSet v

/-- R41: the domains that are switched in service. -/
def switched (n : Nat) : Bool :=
  decide (n < 256) || (decide (272 ≤ n) && decide (n < 306)) ||
  (decide (366 ≤ n) && decide (n < 402) && decide ((n - 366) % 9 < 7))

/-- The ports the board connects (R68). -/
def Device.connected (d : Device) : List Nat := bitList 28 (d.fld .bootBoard Fd.bootBoardPortConnected)

/-- R41: a domain that is switched in service: of the link ports, those that the board marks unconnected. -/
def Device.switchedDom (d : Device) (n : Nat) : Bool :=
  switched n || (decide (306 ≤ n) && decide (n < 334) && !d.connected.contains (n - 306))

/-- R39: the die of a power domain; domains 256 to 271 are always off, and the fabric rail of die d goes by 256 + d here (R29). -/
def domDie (n : Nat) : Nat :=
  if n < 256 then n / 64
  else if n < 260 then n - 256
  else if n < 272 then 0
  else if n < 304 then (n - 272) / 8
  else if n < 306 then 2 * (n - 304)
  else if n < 334 then (n - 306) / 7
  else if n < 366 then (n - 334) / 8
  else if n < 402 then (n - 366) / 9
  else 0

/-- R40, R43: work of a core that its domain's drain waits for. -/
def Core.inFlight (k : Core) : Bool := !k.aq.isEmpty || !k.vq.isEmpty || !k.copies.isEmpty || !k.parts.isEmpty

/-- A program runs on a core, or is bound for it. -/
def Core.used (k : Core) : Bool := k.st != .idle || k.job.isSome

/-- R40: what is not retained across off, and holds something: local scratch, accumulator slots, program memory, the tile queue and the
vector engine's registers. -/
def Core.holds (k : Core) : Bool :=
  !k.scratch.isEmpty || k.slots.any (fun e => e.2.mode != .empty) || !k.pmem.isEmpty || !k.tq.isEmpty || !k.vregs.isEmpty ||
  !k.masks.isEmpty || !k.chains.isEmpty

/-- The logical cores of cluster domain n. -/
def clusterCores (n : Nat) : List Nat := (List.range 8).map (8 * (n - 272) + ·)

/-- The engine class that an engine domain of R39 serves, by k; the scatter units (2) run with the gather groups (DEDUCED). -/
def domClasses (k : Nat) : List Nat :=
  match k with
  | 0 => [0]
  | 1 | 2 => [1, 2]
  | 3 => [3]
  | 4 | 5 | 6 => [4]
  | _ => []

/-- R15, R39: the logical cores that the defect map puts on the spare fabric of domain n. -/
def Device.spareCores (d : Device) (n : Nat) : List Nat :=
  match d.boot.map with
  | none => []
  | some m => (List.range 256).filter fun c => c / 128 == n - 304 && decide (64 ≤ m.coreMap.getD c 0 % 68)

/-- R40: a context has live state in a domain: a program on a core, or what it has left in the memories of a core of its partition; a
stream of a cluster's pump; a command on an engine. A cluster fabric is in use while one of its cores is (DEDUCED, log entry 26). -/
def Device.domLive (d : Device) (n : Nat) : Bool :=
  if n < 256 then (d.core n).used || (d.formed (d.corePart n) && (d.core n).holds)
  else if 272 ≤ n ∧ n < 304 then
    (clusterCores n).any (fun c => (d.core c).used) || d.streams.any fun e => e.2.armed && e.2.core / 8 == n - 272
  else if 304 ≤ n ∧ n < 306 then (d.spareCores n).any fun c => (d.core c).used
  else if 366 ≤ n ∧ n < 402 then
    (d.readyOf ((n - 366) / 9)).any fun e => (domClasses ((n - 366) % 9)).contains e.cls
  else false

/-- R40, R43: in-flight work of a domain, which its drain completes first. -/
def Device.domBusy (d : Device) (n : Nat) : Bool :=
  d.domLive n ||
  (if n < 256 then (d.core n).inFlight
   else if 272 ≤ n ∧ n < 304 then (clusterCores n).any fun c => (d.core c).inFlight
   else if 304 ≤ n ∧ n < 306 then (d.spareCores n).any fun c => (d.core c).inFlight
   else false)

/-! ### The state machine of a switched domain (R42, R43) -/

/-- R42, R44, R52: a request that is ignored sets CTRL_REJECT and logs 0x0305 with the domain and the requested POLICY. The die of a
core's record is its own; that of another domain's is not named: 0xFF (DESIGN CHOICE, log entry 122). -/
def Device.rejectDom (d : Device) (n policy : Nat) : Device :=
  (d.setFld .pwrEvent Fd.pwrEventCtrlReject 1).logModule 0x0305 0 [wordOf n, wordOf policy] (if n < 256 then n / 64 else 0xFF)

/-- R42, R52: a request to an UNUSED domain is ignored. Firmware's request carries no POLICY, so its record's POLICY is a free
value. -/
def Device.rejectUnused (d : Device) (n : Nat) : Device :=
  let (w, d) := d.freeValue
  d.rejectDom n (fieldOf w 1 0)

/-- R42: a domain's rail goes on at 0.60 V, which is a core's grant. What RAIL_SET shows of a domain that is no core the spec does not
say: 60 (DESIGN CHOICE, log entry 90). -/
def Device.railOn (d : Device) (n : Nat) : Device :=
  let d := (d.setDom n 1).setRail n 60
  (if n < 256 then d.setGrant n 60 else d).showGrants

/-- R47, R50: with domain n on, its die and the module keep within their budgets. -/
def Device.roomFor (d : Device) (n : Nat) : Bool := (d.railOn n).fits (domDie n)

/-- R46, R47, R50: a domain is powered where the budgets have room for it; where they have none, the borrowers of its die step down, and
the request waits until they have (DEDUCED, log entry 121). -/
def Device.domPowerOn (d : Device) (n : Nat) : Device :=
  if d.roomFor n then d.railOn n
  else
    let e := (d.railOn n).stepDown (domDie n)
    ({ d with power := { d.power with grants := SMap.set (fun _ => 60) e.power.grants n (d.grantOf n) } } : Device).showGrants

/-- R44: host software holds a domain on. -/
def Device.holdOn (d : Device) (n : Nat) : Bool := d.fld (.pwrDomCtrl n) Fd.pwrDomCtrlPolicy == 1

/-- R44: host software holds a domain off. -/
def Device.holdOff (d : Device) (n : Nat) : Bool := d.fld (.pwrDomCtrl n) Fd.pwrDomCtrlPolicy == 2

/-- R42, R44: an enable request. A domain that is held off stays so, and the request is ignored. -/
def Device.domEnable (d : Device) (n : Nat) : Device :=
  match d.domState n with
  | 8 => d.rejectUnused n
  | 0 => if d.switchedDom n && !d.holdOff n then d.domPowerOn n else d
  | 1 => if d.holdOff n then d else d.setFld (.pwrDomStatus n) Fd.pwrDomStatusPendingDisable 0
  | 4 | 5 | 6 | 7 => if d.holdOff n then d else d.setFld (.pwrDomStatus n) Fd.pwrDomStatusPendingEnable 1
  | _ => d

/-- R42, R40, R44: a disable request. A domain that is held on stays ON, so the request is ignored; one with live state is not
switched off. -/
def Device.domDisable (d : Device) (n : Nat) : Device :=
  match d.domState n with
  | 8 => d.rejectUnused n
  | 1 => if d.holdOn n then d else d.setFld (.pwrDomStatus n) Fd.pwrDomStatusPendingDisable 1
  | 2 => if d.switchedDom n && !d.domLive n && !d.holdOn n then (d.setDom n 4).showGrants else d
  | 4 | 5 | 6 | 7 => if d.holdOn n then d else d.setFld (.pwrDomStatus n) Fd.pwrDomStatusPendingEnable 0
  | _ => d

/-- R40, R42, R48: power-up ends: local memories are cleared, and the next work of a core begins an activity ramp; the domain is ON, or
drains where a disable waits and no context has live state in it (R40; DEDUCED, log entry 91). -/
def Device.domUp (d : Device) (n : Nat) : Device :=
  if d.domState n = 1 then
    let d := if n < 256 ∧ (d.core n).used = false then d.setCore n {} else d
    let down := d.flag (.pwrDomStatus n) Fd.pwrDomStatusPendingDisable && !d.domLive n
    ((d.setFld (.pwrDomStatus n) Fd.pwrDomStatusPendingDisable 0).setDom n (if down then 4 else 2)).showGrants
  else d

/-- R42: one of the shut-down steps ends. -/
def Device.domStep (d : Device) (n src dst : Nat) : Device := if d.domState n = src then (d.setDom n dst).showGrants else d

/-- R40, R42, R43: a drain completes, once no work of the domain is in flight. -/
def Device.domDrained (d : Device) (n : Nat) : Device := if d.domBusy n then d else d.domStep n 4 5

/-- R40, R42: the outputs are clamped: the rail is set off, and what a core's local memories hold is lost. Engines hold nothing here:
their buffers belong to commands, and none is on them (R40). -/
def Device.domIsolated (d : Device) (n : Nat) : Device :=
  if d.domState n = 6 then
    let d := if n < 256 then (d.setCore n {}).setGrant n 60 else d
    ((d.setDom n 7).setRail n 0).showGrants
  else d

/-- R42, R47: the rail reaches zero: OFF, or powering up again where an enable waits, as soon as the budgets have room. -/
def Device.domDown (d : Device) (n : Nat) : Device :=
  if d.domState n = 7 then
    if d.flag (.pwrDomStatus n) Fd.pwrDomStatusPendingEnable then
      if d.roomFor n then (d.setFld (.pwrDomStatus n) Fd.pwrDomStatusPendingEnable 0).railOn n else d.domPowerOn n
    else (d.setDom n 0).showGrants
  else d

/-- R44, R54: a write of POLICY: 3 is taken as 0; a hold-off of a domain in use is not applied; a hold that is
applied makes firmware request the domain on or off, once the control complex of its die runs (R432). -/
def Device.policyWrite (d : Device) (n v : Nat) : Device :=
  if n < 403 then
    let v := if v % 4 = 3 then 0 else v % 4
    if d.domState n = 8 ∨ (v = 2 ∧ d.flag (.pwrDomStatus n) Fd.pwrDomStatusAssigned) then
      d.rejectDom n v
    else
      let d := d.setFld (.pwrDomCtrl n) Fd.pwrDomCtrlPolicy v
      if d.stopped (domDie n) then d
      else if v = 1 then d.domEnable n else if v = 2 then d.domDisable n else d
  else d

/-! ### Lending (R45, R46, R125) -/

/-- R45: an idle core waits for a command that names it and has not started: on a sync object or its ready list; or for a gather or a
merge that delivers to it (DEDUCED, log entry 92). -/
def Device.coreAwaited (d : Device) (c : Nat) : Bool :=
  (d.core c).st == .idle && (d.core c).job.isNone &&
  (List.range 64).any fun q => (d.queue (d.corePart c) q).any fun x =>
    (x.st == .waiting || (x.st == .running && (opcodeOf x.desc == 0x50 || opcodeOf x.desc == 0x60))) &&
    needsCores x.desc && (d.targets (d.corePart c) x.desc).contains c

/-- R45, R125: a core waits: it is WAITING and no pre-wake point has been reached, or it is idle and a command for it waits. -/
def Device.coreWaits (d : Device) (c : Nat) : Bool :=
  d.coreAwaited c || (d.core c).st == .waiting &&
  match d.coreWaiter c with
  | none => true
  | some (n, w) =>
    let margin := d.fld (.synObjCfg n) Fd.synObjCfgPrewake
    margin == 0 || w.op == 2 || decide ((d.obj n).value.toNat < w.value.toNat - margin)

/-- R45: lend entry of a core that waits: its rail drops to retention and its budget is lent. -/
def Device.lendEntry (d : Device) (c : Nat) : Device :=
  if c < 256 ∧ d.domState c = 2 ∧ d.flag .pwrLend Fd.pwrLendLendEn ∧ d.holdOn c = false ∧
      d.coreWaits c = true then
    let d := ((d.setDom c 3).setRail c 50).setFld (.pwrDomStatus c) Fd.pwrDomStatusLending 1
    ({ d with power := { d.power with entering := SMap.set (fun _ => 0) d.power.entering c 1 } }).showGrants
  else d

/-- R45, R48: exit to 0.60 V; its further rise waits for a grant, and its next work begins an activity ramp. -/
def Device.lendReturn (d : Device) (c : Nat) : Device :=
  let d := ((d.setDom c 2).setRail c 60).setFld (.pwrDomStatus c) Fd.pwrDomStatusLending 0
  let d := (d.setGrant c 60).updCore c fun k => { k with ramp := none, rampDue := true }
  ({ d with power := { d.power with entering := SMap.set (fun _ => 0) d.power.entering c 0 } }).showGrants

/-- R45: a wait that ends, or a pre-wake, starts the exit, as soon as an entry under way completes; so does a hold-on, which removes
the core from lending (R44). -/
def Device.lendExit (d : Device) (c : Nat) : Device :=
  if d.domState c = 3 ∧ (d.coreWaits c = false ∨ d.holdOn c = true) then
    if SMap.at' 0 d.power.entering c = 0 then d.lendReturn c
    else { d with power := { d.power with entering := SMap.set (fun _ => 0) d.power.entering c 2 } }
  else d

/-- R45: the switch to the retention rail ends. -/
def Device.lendEntered (d : Device) (c : Nat) : Device :=
  if d.domState c = 3 then
    if SMap.at' 0 d.power.entering c = 2 then d.lendReturn c
    else { d with power := { d.power with entering := SMap.set (fun _ => 0) d.power.entering c 0 } }
  else d

/-! ### Grants (R35, R47, R50) -/

/-- R50, R51: raises on a die are withheld: after an emergency drop, while the die throttles, or while its rail reads above 700 W. -/
def Device.raisesHeld (d : Device) (die : Nat) : Bool :=
  d.power.hold || bitOf d.power.throttle die || decide (700 < SMap.at' 0 d.power.pout die)

/-- R29: the die fabric rail of a die is set, between 0.80 V and 0.95 V. -/
def Device.setFabric (d : Device) (die v : Nat) : Device :=
  { d with power := { d.power with fabric := SMap.set (fun _ => 0) d.power.fabric die v } }

/-- R35, R46, R47, R50, R51: a grant of a whole 10 mV setting. For a core, from 0.60 V to 0.95 V: a lower one is taken at once; a raise
is granted where nothing withholds it and it fits. Where a raise within the core's own share, at most 0.80 V, does not fit, the die's
borrowers step down for it, and it is granted once they have. Core 256 + d stands for the fabric rail of die d (R29). -/
def Device.railGrant (d : Device) (c v : Nat) : Device :=
  if c < 256 ∧ d.domState c = 2 ∧ 60 ≤ v ∧ v ≤ 95 then
    if v ≤ d.grantOf c then (d.setGrant c v).showGrants
    else if d.raisesHeld (c / 64) then d
    else if (d.setGrant c v).fits (c / 64) then (d.setGrant c v).showGrants
    else if v ≤ 80 then (((d.setGrant c v).stepDown (c / 64)).setGrant c (d.grantOf c)).showGrants
    else d
  else if 256 ≤ c ∧ c < 260 ∧ 80 ≤ v ∧ v ≤ 95 then d.setFabric (c - 256) v
  else d

/-- R35, R54: a core's rail reaches its granted setting. RAIL_SET shows the setting that the rail has reached, so a new grant shows
when the slew ends (DESIGN CHOICE, log entry 90). -/
def Device.railSlewed (d : Device) (c : Nat) : Device :=
  if c < 256 ∧ d.domState c = 2 then d.setRail c (d.grantOf c) else d

/-- R51: every core of a list whose rail stands at a setting, ON or on its way up or down, with its grant and rail set by a function of
its grant. -/
def Device.mapRails (d : Device) (cs : List Nat) (f : Nat → Nat) : Device :=
  (cs.foldl (fun (d : Device) c =>
    if drawsByGrant (d.domState c) then (d.setGrant c (f (d.grantOf c))).setRail c (f (d.grantOf c)) else d) d).showGrants

/-- R51: the emergency drop: every core rail to 0.60 V, EMERGENCY set, raises withheld. -/
def Device.emergencyDrop (d : Device) (measured source : Nat) : Device :=
  let d := d.mapRails (List.range 256) fun _ => 60
  let d : Device := { d with power := { d.power with hold := true } }
  (d.setFld .pwrEvent Fd.pwrEventEmergency 1).logModule 0x0302 0 [wordOf measured, wordOf source]

/-- R51: the mean draw measured over 100 µs, W: above the budget the grant of every ON core falls by one setting (DESIGN CHOICE, log
entry 93: the spec does not say by how much), and its rail follows; above it by more than 10 % the emergency drop follows. -/
def Device.budgetCheck (d : Device) (w : Nat) : Device :=
  let d := d.setFld .pwrMeasure Fd.pwrMeasureModuleW w
  let b := d.moduleBudget
  let d := if b < w then
      ((d.mapGrants (List.range 256) fun v => max 60 (v - 1)).showGrants.setFld .pwrEvent Fd.pwrEventBudgetExceed 1).logModule 0x0301 0
        [wordOf b, wordOf w, d.now]
    else d
  if 11 * b < 10 * w then d.emergencyDrop w 0 else d

/-- R51: the throttling threshold in force, °C. -/
def Device.tjLimit (d : Device) : Nat := clampTo 70 100 (d.fld .pwrThermal Fd.pwrThermalTjLimitC)

/-- R54: the hottest junction of a die, as its sensors were last read; PWR_MEASURE.TJ_MAX_C shows the hottest of the module (DESIGN
CHOICE, log entry 123: the rows that bring a reading are the times at which the sensors are read). -/
def Device.junction (d : Device) (die temp : Nat) : Device :=
  let d := { d with power := { d.power with hottest := SMap.set (fun _ => 0) d.power.hottest die temp } }
  d.setFld .pwrMeasure Fd.pwrMeasureTjMaxC ((List.range 4).foldl (fun m k => max m (SMap.at' 0 d.power.hottest k)) 0)

/-- R51, R52: a junction sensor above the limit starts throttling its die. -/
def Device.thermalLimit (d : Device) (die sensor temp : Nat) : Device :=
  if die < 4 ∧ d.tjLimit < temp then
    let d : Device := { d with power := { d.power with throttle := d.power.throttle ||| 1 <<< die } }
    let d := d.junction die (max temp (SMap.at' 0 d.power.hottest die))
    (d.setFld .pwrEvent Fd.pwrEventThermalLimit 1).logModule 0x0303 0 [wordOf die, wordOf sensor, wordOf temp] die
  else d

/-- R51: every 10 µs while throttling, the die's rails fall by 10 mV, until its sensor lies 2 °C below the limit. -/
def Device.thermalStep (d : Device) (die temp : Nat) : Device :=
  if die < 4 ∧ bitOf d.power.throttle die then
    let d := d.junction die temp
    if temp + 2 ≤ d.tjLimit then { d with power := { d.power with throttle := putBit d.power.throttle die false } }
    else d.mapRails (dieCores die) fun v => max 60 (v - 1)
  else d

/-- R38, R52: a handshake has waited 100 µs. Its record is of class 3; the other records of R52 are of class 0, 0x0304 of class 6 (DESIGN
CHOICE, log entry 122: R52 gives them no class). -/
def Device.fabricStall (d : Device) (n cls : Nat) : Device :=
  (d.setFld .pwrEvent Fd.pwrEventFabricStall 1).logModule 0x0306 3 [wordOf n, wordOf cls]

/-! ### The meanings -/

/-- R29, R57: the power manager runs from the end of Celandine: bring-up has passed its third stage, and has not halted. -/
def Device.managed (d : Device) : Bool :=
  (decide (4 ≤ d.fld .bootStatus Fd.bootStatusStage) ||
    (d.fld .bootStatus Fd.bootStatusStage == 3 && d.fld .bootStatus Fd.bootStatusState == 4)) && !d.pins.thermHold && !d.halted

/-- A command of the power manager. -/
def manage (f : Device → Device) (s : State) : Result := live (fun d => if d.managed then f d else d) s

/-- R24, R39, R432: a power request for domain n, which waits while the control complex of its die is stopped. -/
def request (n : Nat) (f : Device → Device) (s : State) : Result := manage (fun d => if d.stopped (domDie n) then d else f d) s

/-- DOMAIN_ENABLE_REQUEST. -/
def execDomainEnableRequest (n : Nat) (s : State) : Result := request n (·.domEnable n) s

/-- DOMAIN_DISABLE_REQUEST. -/
def execDomainDisableRequest (n : Nat) (s : State) : Result := request n (·.domDisable n) s

/-- POWER_UP_COMPLETE. -/
def execPowerUpComplete (n : Nat) (s : State) : Result := manage (·.domUp n) s

/-- DOMAIN_DRAIN_COMPLETE. -/
def execDomainDrainComplete (n : Nat) (s : State) : Result := manage (·.domDrained n) s

/-- RETENTION_SAVE_COMPLETE. -/
def execRetentionSaveComplete (n : Nat) (s : State) : Result := manage (·.domStep n 5 6) s

/-- ISOLATION_COMPLETE. -/
def execIsolationComplete (n : Nat) (s : State) : Result := manage (·.domIsolated n) s

/-- RAIL_DOWN_COMPLETE. -/
def execRailDownComplete (n : Nat) (s : State) : Result := manage (·.domDown n) s

/-- LEND_ENTRY. -/
def execLendEntry (c : Nat) (s : State) : Result := request c (·.lendEntry c) s

/-- LEND_ENTRY_COMPLETE. -/
def execLendEntryComplete (c : Nat) (s : State) : Result := manage (·.lendEntered c) s

/-- LEND_EXIT. -/
def execLendExit (c : Nat) (s : State) : Result := request c (·.lendExit c) s

/-- RAIL_GRANT. -/
def execRailGrant (c v : Nat) (s : State) : Result := request c (·.railGrant c v) s

/-- RAIL_SLEW_COMPLETE. -/
def execRailSlewComplete (c : Nat) (s : State) : Result := manage (·.railSlewed c) s

/-- POWER_ESTIMATE: the estimate of one domain's draw, mW. Grants that no longer fit beside it are reclaimed. -/
def execPowerEstimate (n mw : Nat) (s : State) : Result :=
  manage (fun d =>
    let d : Device := { d with power := { d.power with estimates := SMap.set (fun _ => 0) d.power.estimates n mw } }
    if d.stopped 0 then d else d.reclaim) s

/-- R23, R24: a command of die 0's power manager, which holds the module budget and the rail interface; it waits while that die's complex
is stopped. -/
def manageModule (f : Device → Device) (s : State) : Result := manage (fun d => if d.stopped 0 then d else f d) s

/-- EMERGENCY_HOLD_END. -/
def execEmergencyHoldEnd (s : State) : Result :=
  manageModule (fun d => { d with power := { d.power with hold := false } }) s

/-- THERMAL_LIMIT. -/
def execThermalLimit (die sensor temp : Nat) (s : State) : Result :=
  manage (fun d => if d.stopped die then d else d.thermalLimit die sensor temp) s

/-- THERMAL_STEP. -/
def execThermalStep (die temp : Nat) (s : State) : Result :=
  manage (fun d => if d.stopped die then d else d.thermalStep die temp) s

/-- FABRIC_STALL. -/
def execFabricStall (n cls : Nat) (s : State) : Result := manage (·.fabricStall n cls) s

end Sys2Proof.Machine
end

