-- ==== Sys2Proof/Machine/Engines.lean ====
section
/-! DEFINITION. How the sequencer issues array and vector instructions (R115, R172, R188, R197, R203, R204) and the
rows of those instructions. -/

namespace Sys2Proof.Machine

/-- The instruction at a core's pc, with the scalar registers as they stand (R172). -/
def Device.itemAt (d : Device) (c : Nat) : QItem :=
  { word := d.coreWord c, pc := (d.core c).pc, sregs := (d.core c).sregs }

/-- The array queue, then the vector queue, go on; a fault stops the core. -/
def Device.unitsGo (d : Device) (c : Nat) : Device :=
  match Device.arrayPump c 17 d with
  | (d, some (it, e)) => d.unitStop c it e
  | (d, none) =>
    match Device.vectorPump c false 17 d with
    | (d, some (it, e)) => d.unitStop c it e
    | (d, none) => d

/-- The sequencer goes on past the word it has issued, unless the instruction's fault has stopped the core. -/
def Device.issued (d : Device) (c : Nat) : Device :=
  if (d.core c).st = .running ∨ (d.core c).st = .stopping then d.advance c else d

/-- R172: an array instruction is issued to the array queue, which runs unless it already waits; then the sequencer goes on. -/
def Device.issueArray (d : Device) (c : Nat) (it : QItem) : Device :=
  let waits := !(d.core c).aq.isEmpty
  let d := d.updCore c fun k => { k with aq := k.aq ++ [it] }
  (if waits then d else d.unitsGo c).issued c

/-- R188: a vector instruction is issued to the vector queue. -/
def Device.issueVector (d : Device) (c : Nat) (it : QItem) : Device :=
  let waits := !(d.core c).vq.isEmpty
  let d := d.updCore c fun k => { k with vq := k.vq ++ [it] }
  (if waits then d else d.unitsGo c).issued c

/-- R132, R173, R204: the flow word an instruction carries, if it is VALID. -/
def Device.itemFlow (d : Device) (c : Nat) (it : QItem) : Option Word :=
  let w := match fieldOf it.word 63 56 with
    | 0x11 => if bitOf it.word.toNat 9 then it.s (fieldOf it.word 8 5) else 0
    | 0x45 => blockWord ((d.core c).view .vector d.free) it 7
    | _ => 0
  if flowValid w then some w else none

/-- The vector register an issued instruction writes. -/
def vecWritesReg (it : QItem) : Option Nat :=
  match fieldOf it.word 63 56 with
  | 0x40 | 0x47 | 0x48 => some (fieldOf it.word 55 51)
  | 0x42 => if opCompares (fieldOf it.word 55 49) then none else some (fieldOf it.word 27 23)
  | 0x49 => some (fieldOf it.word 53 49)
  | _ => none

/-- R197, R204: an issued instruction writes mask m; a VCHAIN by the stages that stand in the chain table at its turn. -/
def vecWritesMask (k : Core) (m : Nat) (it : QItem) : Bool :=
  match fieldOf it.word 63 56 with
  | 0x43 => fieldOf it.word 55 53 == m
  | 0x42 => opCompares (fieldOf it.word 55 49) && fieldOf it.word 30 28 == m
  | 0x45 => (chainWrites (k.stages (fieldOf it.word 55 52))).contains m
  | _ => false

/-- R197, R199: the instructions of the vector queue, in order, from which the chain table that each finds is followed; one of them
writes mask m. What a queued VCHAIN_LOAD will load is what it reads of scratch at its turn (v: the scratch it sees). -/
def masksPending (m : Nat) (v : SMap Byte) : List QItem → Core → Bool
  | [], _ => false
  | it :: rest, k => vecWritesMask k m it || masksPending m v rest (if fieldOf it.word 63 56 = 0x44 then k.chainLoaded v it else k)

/-- R197: an earlier vector instruction has yet to write what a VMOVS of mode 0, 2 or 3 reads. -/
def movsWaits (k : Core) (w : Word) : Bool :=
  match fieldOf w 55 54 with
  | 0 => k.vq.any fun it => vecWritesReg it == some (fieldOf w 53 49)
  | 2 => !k.vq.isEmpty
  | 3 => masksPending (fieldOf w 36 34) (k.view .vector 0) k.vq k
  | _ => false

/-- R132: the flow item of the array or vector word a core stands at, where the flow holds it. -/
def Device.heldItem (d : Device) (c : Nat) : Option Word :=
  match d.itemFlow c (d.itemAt c) with
  | none => none
  | some w => if d.itemFate (d.corePart c) w = .hold then some w else none

/-- R115: the sequencer stalls on the word it stands at: a full queue, an instruction that waits for the engine, or an
item that is held. -/
def Device.stallsOn (d : Device) (c : Nat) : Bool :=
  let k := d.core c
  let it := d.itemAt c
  let cls := fieldOf it.word 63 56
  let held := (d.heldItem c).isSome
  if cls = 0x13 then !k.aq.isEmpty
  else if 0x10 ≤ cls ∧ cls ≤ 0x12 then decide (16 ≤ k.aq.length) || held
  else if cls = 0x46 then !k.vq.isEmpty
  else if cls = 0x49 ∧ fieldOf it.word 55 54 ≠ 1 then fieldOf it.word 33 0 == 0 && movsWaits k it.word
  else if 0x40 ≤ cls ∧ cls ≤ 0x49 then decide (16 ≤ k.vq.length) || held
  else if cls = 0x07 then !k.aq.isEmpty || !k.vq.isEmpty
  else false

/-- R132, R426: the flow item of the word a core stands at is refused: 0x0604, whose outcome is a program fault, and that fault, of kind
1. -/
def Device.refuseWord (d : Device) (c : Nat) : Device :=
  match d.itemFlow c (d.itemAt c) with
  | none => d
  | some w => (d.logFlow (d.corePart c) 0x0604 3 (flowNum w) (flowSeq w) 0).progFault c 1

/-- R135: a core stalls on a flow item that is held: a credit stall of its die, counted once. -/
def Device.coreStall (d : Device) (c : Nat) : Device :=
  if (d.heldItem c).isSome ∧ (d.core c).stalled = false then
    (d.creditStall (c / 64)).updCore c fun k => { k with stalled := true }
  else d

/-- R107, R108, R132: an array or vector instruction of a class at a core that can run it and is not stalled: its flow
item is admitted, or refused with a program fault of kind 1. A core that is STOPPING and stalls ends its block at that word (R115, R173). -/
def Device.issue (d : Device) (c cls : Nat) (f : QItem → Device → Device) : Device :=
  let it := d.itemAt c
  if d.canRun c = true ∧ wordClass it.word = cls then
    if d.stallsOn c then (if (d.core c).st = .stopping then d.blockEnd c else d.coreStall c)
    else
      let d := d.takeLease c
      let p := d.corePart c
      match d.itemFlow c it with
      | none => f it d
      | some w =>
        if d.itemFate p w = .refuse then d.refuseWord c
        else f { it with flow := some w } ((d.itemAdmit p w).updCore c fun k => { k with stalled := false })
  else d

/-- R172, R173: ARRAY_SYNC: the drains' writes are visible to the other engines. -/
def Device.arraySync (d : Device) (c : Nat) (it : QItem) : Device :=
  match arraySyncField it.word with
  | some bit => d.unitStop c it (arrayFault 7 0 bit)
  | none => (d.updCore c fun k => k.sync .array).advance c

/-- R204: VSYNC. -/
def Device.vectorSync (d : Device) (c : Nat) (it : QItem) : Device :=
  if fieldOf it.word 55 0 ≠ 0 then d.unitStop c it (vecFault 1 (lowBit 56 (fieldOf it.word 55 0)))
  else (d.updCore c fun k => k.sync .vector).advance c

/-- R197, R204: VMOVS. Every instruction in the vector queue was issued before it and completes where it faults (R183, R207). -/
def Device.vmovs (d : Device) (c : Nat) (it : QItem) : Device :=
  let k := d.core c
  let w := it.word
  let put := fun (d : Device) (v : Nat) => (d.updCore c fun k => k.setSreg (fieldOf w 48 45) (wordOf v)).advance c
  if fieldOf w 55 54 = 1 then d.issueVector c it
  else if fieldOf w 33 0 ≠ 0 then (d.logUnit c it (vecFault 1 (lowBit 34 (fieldOf w 33 0)))).coreStop c .faulted .faulted
  else
    match fieldOf w 55 54 with
    | 0 => put d ((k.lanes (fieldOf w 53 49)).getD (fieldOf w 44 37) 0)
    | 2 => put (d.setReg (.vecFlags c) 0) (fieldOf (d.reg (.vecFlags c)) 5 0)
    | _ => put d (popCount 256 (k.mask (fieldOf w 36 34)).toNat)

/-- R179: a credit of the tile queue is free for the DRAIN at the head of the array queue of a core that is ON (R35). -/
def Device.creditGrant (d : Device) (c : Nat) : Device :=
  if d.domState c ≠ 2 ∨ (d.core c).aq.isEmpty || decide (8 ≤ (d.core c).tq.length) then d else d.unitsGo c

/-- R134: a write of SYN_FLOW_CFG: what becomes of its fields and of OPEN; a write of OPEN 0 refuses at once every item that is
held, of a command or of an instruction. DESIGN CHOICE (log entry 131): the 0x0607 of an OPEN that is refused is of class 2, COMMAND,
as the refusal of what software asked for; no outcome of R426's table names it. -/
def Device.flowWrite (d : Device) (p f : Nat) (w : Word) : Device :=
  let st := d.flowState p f
  let wantOpen := bitOf w.toNat 63
  let win := if st = 0 then fieldOf w 51 48 else d.fld (.synFlowCfg p f) Fd.synFlowCfgWindowLog2
  let d := d.setFld (.synFlowCfg p f) Fd.synFlowCfgWindowLog2 win
  let d := d.setFld (.synFlowCfg p f) Fd.synFlowCfgStallUs (fieldOf w 47 24)
  let d := d.setFld (.synFlowCfg p f) Fd.synFlowCfgReleaseSync (fieldOf w 16 0)
  match st, wantOpen with
  | 0, true =>
    if (d.syncOf p (fieldOf w 16 0)).isSome then
      let d := (d.setFld (.synFlowCfg p f) Fd.synFlowCfgOpen 1).setFlow p f {}
      (d.setFld (.synFlowStatus p f) Fd.synFlowStatusNextRelease 0).setFld (.synFlowStatus p f) Fd.synFlowStatusState 1
    else d.logFlow p 0x0607 2 f 0 (fieldOf w 16 0)
  | 1, false | 2, false =>
    let held := (List.range 64).filterMap fun q => (d.waitingCmd p q).bind fun c =>
      (cmdFlow c.desc).bind fun x => if flowNum x = f ∧ d.itemFate p x = .hold then some (q, c) else none
    let cores := (List.range 256).filter fun c => d.corePart c == p && d.canRun c && ((d.heldItem c).map flowNum) == some f
    let d := (d.setFld (.synFlowCfg p f) Fd.synFlowCfgOpen 0).setFld (.synFlowStatus p f) Fd.synFlowStatusState 3
    let d := held.foldl (fun (d : Device) qc => d.tryStart p qc.1 qc.2) d
    (cores.foldl (fun (d : Device) c => d.refuseWord c) d).flowSettle p f
  | _, _ => d

/-! ### The meanings -/

/-- MMA. -/
def execMma (c : Nat) (s : State) : Result := run (fun d => d.issue c 0x10 fun it d => d.issueArray c it) s

/-- DRAIN. -/
def execDrain (c : Nat) (s : State) : Result := run (fun d => d.issue c 0x11 fun it d => d.issueArray c it) s

/-- DRAIN_CREDIT_GRANT. -/
def execDrainCreditGrant (c : Nat) (s : State) : Result := run (·.creditGrant c) s

/-- SLOT_CLEAR. -/
def execSlotClear (c : Nat) (s : State) : Result := run (fun d => d.issue c 0x12 fun it d => d.issueArray c it) s

/-- ARRAY_SYNC. -/
def execArraySync (c : Nat) (s : State) : Result := run (fun d => d.issue c 0x13 fun it d => d.arraySync c it) s

/-- VLOAD. -/
def execVload (c : Nat) (s : State) : Result := run (fun d => d.issue c 0x40 fun it d => d.issueVector c it) s

/-- VSTORE. -/
def execVstore (c : Nat) (s : State) : Result := run (fun d => d.issue c 0x41 fun it d => d.issueVector c it) s

/-- VOP. -/
def execVop (c : Nat) (s : State) : Result := run (fun d => d.issue c 0x42 fun it d => d.issueVector c it) s

/-- VMASK. -/
def execVmask (c : Nat) (s : State) : Result := run (fun d => d.issue c 0x43 fun it d => d.issueVector c it) s

/-- VCHAIN_LOAD. -/
def execVchainLoad (c : Nat) (s : State) : Result := run (fun d => d.issue c 0x44 fun it d => d.issueVector c it) s

/-- VCHAIN. -/
def execVchain (c : Nat) (s : State) : Result := run (fun d => d.issue c 0x45 fun it d => d.issueVector c it) s

/-- VSYNC. -/
def execVsync (c : Nat) (s : State) : Result := run (fun d => d.issue c 0x46 fun it d => d.vectorSync c it) s

/-- VGEN. -/
def execVgen (c : Nat) (s : State) : Result := run (fun d => d.issue c 0x47 fun it d => d.issueVector c it) s

/-- VREDUCE. -/
def execVreduce (c : Nat) (s : State) : Result := run (fun d => d.issue c 0x48 fun it d => d.issueVector c it) s

/-- VMOVS. -/
def execVmovs (c : Nat) (s : State) : Result := run (fun d => d.issue c 0x49 fun it d => d.vmovs c it) s

end Sys2Proof.Machine
end

