-- ==== Sys2Proof/Machine/Dma.lean ====
section
/-! DEFINITION. Parking on a translation fault (R217), the DMA family (R228), and the rows of translation and of the
memory interfaces. -/

namespace Sys2Proof.Machine

/-! ### Parking (R217) -/

/-- R229: the engine class of a command's opcode. -/
def memClass (op : Nat) : Nat :=
  if 0x20 ≤ op ∧ op ≤ 0x23 then 1
  else if 0x30 ≤ op ∧ op ≤ 0x32 then 2
  else if op = 0x50 then 4
  else if op = 0x51 then 5
  else if op = 0x40 then 6
  else if op = 0x60 then 7
  else if op = 0x10 then 9
  else 8

/-- The lowest die on which a partition has clusters: where the work of a command that is not divided into units is done, and
which its records and counts name (DESIGN CHOICE, log entry 53). -/
def Device.homeDie (d : Device) (p : Nat) : Nat := (d.partDies p).headD 0

/-- R17: the die whose engines take a unit of a command: the units fall to the dies on which the partition has clusters in
turn, from the lowest (DESIGN CHOICE, log entry 53). -/
def Device.workDie (d : Device) (p unit : Nat) : Nat :=
  let l := d.partDies p
  l.getD (unit % l.length) 0

/-- Who works on a command's unit. -/
def Device.userOf (d : Device) (p : Nat) (c : Cmd) (unit : Nat) : MemUser :=
  { part := p, cls := memClass (opcodeOf c.desc), idx := c.idx, unit := unit, die := d.workDie p unit }

/-- R231: MEM_PART_STATUS.PARKED shows the partition's parked commands. -/
def Device.countParked (d : Device) (p : Nat) : Device :=
  d.setFld (.memPartStatus p) Fd.memPartStatusParked
    ((((List.range 64).map fun q => ((d.queue p q).filter fun c => c.parked.isSome).length).foldl (· + ·) 0) % 65536)

/-- R217: a command parks at a unit: its entries go back and 0x0A01 gives its resume handle. Where the control complex of the unit's die
has stopped, the fault waits (R432). -/
def Device.park (d : Device) (p q : Nat) (c : Cmd) (unit kind addr : Nat) (injected : Bool := false) : Device :=
  if d.stopped (d.workDie p unit) then d.updCmd p q c.idx fun x => { x with unit := unit } else
  let handle := (d.handles + 1) % 2 ^ 32
  let d := { d with handles := d.handles + 1 }.updCmd p q c.idx fun x =>
    { x with parked := some unit, unit := unit, handle := handle, fault := (kind, addr) }
  ((d.dropEntries p q c.idx).logMem (d.userOf p c unit) 0x0A01 0 kind handle addr 0 injected).countParked p

/-- R217: a unit of a command ended with an error: it parks on a translation fault, stays to be done where it waits for a tag
(R223), and ends the command with STATUS 0x04 on any other. -/
def Device.unitError (d : Device) (p q : Nat) (c : Cmd) (unit : Nat) (e : MemErr) : Device :=
  match e with
  | .xlate kind addr inj => d.park p q c unit kind addr inj
  | .waits => d.updCmd p q c.idx fun x => { x with unit := unit }
  | _ => d.workEnds p q c.idx 4

/-- The command of a partition that is parked under a handle, with its queue. -/
def Device.parkedAs (d : Device) (p handle : Nat) : Option (Nat × Cmd) :=
  (List.range 64).findSome? fun q => ((d.queue p q).find? fun c => c.parked.isSome && c.handle == handle).map fun c => (q, c)

/-- R217: a parked command runs again from its unit and needs its engines again. -/
def Device.unpark (d : Device) (p q : Nat) (c : Cmd) : Device :=
  ((d.updCmd p q c.idx fun x => { x with parked := none }).takeEntries p q c.idx (d.engineNeeds p c.desc)).countParked p

/-- R339, R343: an abandoned CHECKPOINT: 0x0F05 names the range of its record, and its snapshot is dropped. -/
def Device.abandonSnapshot (d : Device) (p q : Nat) (c : Cmd) : Device :=
  let s := SMap.at' none (d.part p).snapshots (snapKey q c.idx)
  let unit := (s.bind fun s => s.units[c.unit]?).getD 0xFFFFFFFF
  (d.logUpd p 0x0F05 (d.homeDie p) 0 c.idx 0 (wordOf unit) (d.curStep p)).updPart p fun x =>
    { x with snapshots := SMap.set (fun _ => none) x.snapshots (snapKey q c.idx) none }

/-! ### Units of DMA (R217, R228) -/

/-- A span of DVAs within one 4 KiB slot, its length, and where it leads. -/
structure Span where
  dva : Nat
  len : Nat
  place : Place
  deriving DecidableEq, Repr

/-- Bytes translated as a unit's source or destination before any of its data moves. -/
def Device.translateAll (d : Device) (u : MemUser) (dva n : Nat) (write : Bool) : Device × Except MemErr (List Span) :=
  (spans (n / 4096 + 2) dva n).foldl (fun (acc : Device × Except MemErr (List Span)) s =>
    match acc with
    | (d, .error e) => (d, .error e)
    | (d, .ok l) =>
      match d.translate u s.1 write with
      | (d, .error e) => (d, .error e)
      | (d, .ok x) => (d, .ok (l ++ [{ dva := s.1, len := s.2, place := x }]))) (d, .ok [])

/-- Bytes read at places. -/
def Device.readPlaces (d : Device) (u : MemUser) (l : List Span) : Device × Except MemErr (List Byte) :=
  l.foldl (fun (acc : Device × Except MemErr (List Byte)) s =>
    match acc with
    | (d, .error e) => (d, .error e)
    | (d, .ok bs) =>
      match byDva s.dva (d.readPlace u s.place s.len) with
      | (d, .error e) => (d, .error e)
      | (d, .ok b) => (d, .ok (bs ++ b))) (d, .ok [])

/-- Bytes written at places. -/
def Device.writePlaces (d : Device) (u : MemUser) (l : List Span) (bytes : List Byte) (fmt : Nat) :
    Device × Except MemErr Unit :=
  (l.foldl (fun (acc : Device × Except MemErr Unit × List Byte) s =>
    match acc with
    | (d, .error e, bs) => (d, .error e, bs)
    | (d, .ok (), bs) =>
      let r := byDva s.dva (d.writePlace u s.place (bs.take s.len) fmt)
      (r.1, r.2, bs.drop s.len)) (d, .ok (), bytes)) |> fun r => (r.1, r.2.1)

/-- R218, R220: a tile record taken in by DVA: an MX tile's scale record lies after its run in the same address space. -/
def Device.takeTile (d : Device) (u : MemUser) (x : Place) (dva fmt : Nat) : Device × Except MemErr (TileRec × List Byte) :=
  match x with
  | .host _ => d.readTileAt u x fmt
  | .device g =>
    match d.reach u g 4096 with
    | (d, some e) => (d, .error (e.atDva dva))
    | (d, none) =>
      let t := d.recOf g
      if isMx t.fmt && t.runOk then
        let at' := scaleRecAt t dva
        match d.translate u at' false with
        | (d, .error e) => (d, .error e)
        | (d, .ok s) =>
          match byDva at' (d.readPlace u s 256) with
          | (d, .error e) => (d, .error e)
          | (d, .ok scl) => d.takeIn u g t scl none
      else d.takeIn u g t [] none

/-- R218, R220: a tile record written by DVA, with its scale record after its run. -/
def Device.putTile (d : Device) (u : MemUser) (x : Place) (dva : Nat) (hdr8 stored scl : List Byte) : Device × Except MemErr Unit :=
  let t : TileRec := { hdr := leBytes 8 0 ++ hdr8, data := stored }
  match x with
  | .host _ => d.writeTileAt u x hdr8 stored scl
  | .device g =>
    if isMx t.fmt && t.runOk then
      let at' := scaleRecAt t dva
      match d.translate u at' true with
      | (d, .error e) => (d, .error e)
      | (d, .ok s) =>
        match if d.own g then ((d.putRec (offOf g) hdr8 stored scl t.fmt t.dense t.mask).touched (offOf g) 4096, .ok ())
            else byDva dva (d.writePart u g t.view) with
        | (d, .error e) => (d, .error e)
        | (d, .ok ()) => byDva at' (d.writePlace u s (scl.take 256) 0)
    else byDva dva (d.writeTile u g hdr8 stored scl)

/-- R228, R277: the header bytes and payload of a record as COPY, COMPRESS or EXPAND store it: op says which. -/
def Device.restore (d : Device) (op : Nat) (t : TileRec) : List Byte × List Byte :=
  let ones := 2 ^ 64 - 1
  let hdr := fun (dense : Bool) (mask : Nat) =>
    hdrBody t.fmt dense mask (hdrField t.hdr 24 4) t.runIndex t.runLen t.epoch
  if op = 0x22 then
    let v := t.view
    let m := blocksPresent v
    let limit := clampTo 1 64 (d.fld .sprDenseThreshold Fd.sprDenseThresholdThreshold)
    if !isMx t.fmt && decide (popCount 64 m < limit) then (hdr false m, squeeze m v) else (hdr true ones, v)
  else if op = 0x23 then (hdr true ones, t.view)
  else (t.hdr.drop 8, t.data)

/-- R228: one unit of a tile transfer. -/
def Device.dmaTile (d : Device) (u : MemUser) (x : Desc) (i : Nat) : Device × Except MemErr Unit :=
  let src := x.q4.toNat + 4096 * i
  let dst := x.q5.toNat + 4096 * i
  match d.translate u src false with
  | (d, .error e) => (d, .error e)
  | (d, .ok s) =>
    match d.translate u dst true with
    | (d, .error e) => (d, .error e)
    | (d, .ok t) =>
      match d.takeTile u s src (fieldOf x.q6 19 16) with
      | (d, .error e) => (d, .error e)
      | (d, .ok r) =>
        let w := d.restore (opcodeOf x) r.1
        d.putTile u t dst w.1 w.2 r.2

/-- Where a raw transfer writes. -/
def rawDest (x : Desc) : Nat := (if opcodeOf x = 0x21 then x.q4 else x.q5).toNat

/-- R217, R228: unit i of a raw transfer, its first byte and its length: the span of the transfer in one 4 KiB slot of the
destination, so that a whole tile of it is written whole (DESIGN CHOICE, log entry 103). -/
def rawUnit (x : Desc) (i : Nat) : Nat × Nat :=
  let n := 64 * fieldOf x.q6 63 32
  let skew := rawDest x % 4096
  let first := 4096 * i - skew
  (first, min n (4096 * (i + 1) - skew) - first)

/-- R228: one unit of a raw transfer: up to 4 KiB of bytes, copied or filled. -/
def Device.dmaRaw (d : Device) (u : MemUser) (x : Desc) (i : Nat) : Device × Except MemErr Unit :=
  let n := (rawUnit x i).2
  let fill := opcodeOf x == 0x21
  match if fill then (d, Except.ok []) else d.translateAll u (x.q4.toNat + (rawUnit x i).1) n false with
  | (d, .error e) => (d, .error e)
  | (d, .ok from') =>
    match d.translateAll u (rawDest x + (rawUnit x i).1) n true with
    | (d, .error e) => (d, .error e)
    | (d, .ok dest) =>
      match if fill then (d, Except.ok ((List.range (n / 8)).flatMap fun _ => leBytes 8 x.q5.toNat)) else d.readPlaces u from' with
      | (d, .error e) => (d, .error e)
      | (d, .ok bytes) => d.writePlaces u dest bytes (if fill then 0 else fieldOf x.q6 19 16)

/-- How many units a DMA command has. -/
def dmaUnits (x : Desc) : Nat :=
  if dmaTiles x then fieldOf x.q6 63 32 else (rawDest x % 4096 + 64 * fieldOf x.q6 63 32 + 4095) / 4096

/-- R217, R228: a DMA command's units from the one it stands at; it parks or ends where one fails. -/
def Device.dmaGo (p q : Nat) (c : Cmd) : Nat → Nat → Device → Device
  | 0, _, d => d.workEnds p q c.idx 0
  | n + 1, i, d =>
    let u := d.userOf p c i
    match if dmaTiles c.desc then d.dmaTile u c.desc i else d.dmaRaw u c.desc i with
    | (d, .ok ()) => Device.dmaGo p q c n (i + 1) d
    | (d, .error e) => d.unitError p q c i e

/-- A row of the DMA family on its command. -/
def Device.dmaRow (d : Device) (p q idx op : Nat) (io : MemIo) : Device :=
  (((d.withIo io).work p q idx op fun c d => Device.dmaGo p q c (dmaUnits c.desc - c.unit) c.unit d)).endIo

/-! ### Translation rows -/

/-- R217: the translations of the unit a parked command stands at: the first that fails. -/
def Device.unitFault (d : Device) (p : Nat) (c : Cmd) : Device × Option MemErr :=
  let x := c.desc
  let u := d.userOf p c c.unit
  let one := fun (d : Device) (a n : Nat) (write : Bool) =>
    match d.translateAll u a n write with
    | (d, .error e) => (d, some e)
    | (d, .ok _) => (d, none)
  let op := opcodeOf x
  if 0x20 ≤ op ∧ op ≤ 0x23 then
    let unit := if dmaTiles x then (4096 * c.unit, 4096) else rawUnit x c.unit
    let src := if op = 0x21 then (d, none) else one d (x.q4.toNat + unit.1) unit.2 false
    match src with
    | (d, some e) => (d, some e)
    | (d, none) => one d (rawDest x + unit.1) unit.2 true
  else (d, none)

/-- R217: a parked command's unit is translated again: it runs on, or parks again. -/
def Device.retryUnit (d : Device) (p q : Nat) (c : Cmd) : Device :=
  match d.unitFault p c with
  | (d, some (.xlate kind addr inj)) => d.park p q c c.unit kind addr inj
  | (d, _) => d.unpark p q c

/-- R216: MEM_TLB_INVAL drops the translations it names and shows BUSY. -/
def Device.tlbInval (d : Device) (w : Word) (p : Nat) : Device :=
  let first := fieldOf w 47 16 * 65536
  let n := max 1 (fieldOf w 15 0) * 65536
  let all := bitOf w.toNat 59
  (d.tlbDrop p fun base size => all || (decide (base < first + n) && decide (first < base + size))).setFld .memTlbInval
    Fd.memTlbInvalBusy 1

/-! ### The meanings -/

/-- COPY. -/
def execCopy (p q idx : Nat) (io : MemIo) (s : State) : Result := run (·.dmaRow p q idx 0x20 io) s

/-- FILL. -/
def execFill (p q idx : Nat) (io : MemIo) (s : State) : Result := run (·.dmaRow p q idx 0x21 io) s

/-- COMPRESS. -/
def execCompress (p q idx : Nat) (io : MemIo) (s : State) : Result := run (·.dmaRow p q idx 0x22 io) s

/-- EXPAND. -/
def execExpand (p q idx : Nat) (io : MemIo) (s : State) : Result := run (·.dmaRow p q idx 0x23 io) s

/-- TLB_INVAL_COMPLETE: BUSY clears. -/
def execTlbInvalComplete (s : State) : Result := run (·.setFld .memTlbInval Fd.memTlbInvalBusy 0) s

/-- LPDDR6_RECALIBRATE: run without stopping traffic; no state of the module changes (R212). -/
def execLpddr6Recalibrate (s : State) : Result := run (fun d => d) s

end Sys2Proof.Machine
end

