-- ==== Sys2Proof/Machine/Schedule.lean ====
section
/-! DEFINITION. The schedule engine's factors (R337, R338): exact arithmetic, each factor rounded once to binary32. -/

namespace Sys2Proof.Machine

/-- A number raised to a power. -/
def Num.pow (x : Num) : Nat → Num
  | 0 => .ofInt 1
  | n + 1 => (Num.pow x n).mul x

/-- The greater of two numbers. -/
def Num.max (a b : Num) : Num := if a.cmp b == .lt then b else a

/-- A number divided by a positive integer, rounded to binary32. -/
def Num.roundDiv (x : Num) (n : Nat) : Nat :=
  match x with
  | .fin neg m e => if m = 0 then 0 else (roundQuot neg m n e).1
  | _ => f32NaN

/-- The greater of two binary32 codes, as numbers. -/
def greaterF32 (a b : Nat) : Nat := if (decodeFloat fmtF32 a).cmp (decodeFloat fmtF32 b) == .lt then b else a

/-- cos x for x of 0 to π. -/
def cosIvl (p : Nat) (x : Ivl) : Ivl :=
  let xx := x.mul p x
  seriesSum (fun k t => ((t.mul p xx).divNat ((2 * k + 1) * (2 * k + 2))).neg) (p + 8) 0 (.ofInt p 1) (.ofInt p 0)

/-- The first precision at which both bounds round alike. -/
def refineIvl (f : Nat → Ivl) (fallback : Nat) : List Nat → Nat
  | [] => fallback
  | p :: ps =>
    let b := f p
    if b.lo = b.hi then (toF32 {} (.fin (decide (b.lo < 0)) b.lo.natAbs (-(p : Int)))).1
    else if b.lo < 0 ∧ 0 < b.hi then refineIvl f fallback ps
    else if roundBound p b.lo = roundBound p b.hi then (roundBound p b.lo).1
    else refineIvl f fallback ps

/-- R338, shape 2: floor + (top − floor) × (1 + cos(π p / length)) / 2; the rational cosines are exact. -/
def cosineFactor (floor top : Num) (p length fallback : Nat) : Nat :=
  let diff := top.add floor.neg
  let exact := fun (k : Int) (den : Nat) => ((floor.mul (.ofInt den)).add (diff.mul (.ofInt k))).roundDiv den
  if p = 0 then exact 1 1
  else if 2 * p = length then exact 1 2
  else if 3 * p = length then exact 3 4
  else if 3 * p = 2 * length then exact 1 4
  else if diff.isZero then exact 0 1
  else
    refineIvl (fun q =>
      let c := cosIvl q (((piIvl q).mul q (.ofInt q p)).divNat length)
      (Ivl.ofNum q floor).add (((Ivl.ofNum q diff).mul q ((Ivl.ofInt q 1).add c)).divNat 2)) fallback [512, 1024, 2048]

/-- top × sqrt(a / b), rounded to binary32. -/
def sqrtFactor (top : Num) (a b : Nat) : Nat :=
  match top with
  | .fin neg m e =>
    if m = 0 then 0
    else
      let k := Nat.log2 b + 64
      let n := m * m * a * 2 ^ (2 * k)
      let r := isqrt (n / b)
      (toFloat fmtF32 false false {} (.fin neg r (e - (k : Int))) (r * r * b != n)).1
  | _ => f32NaN

/-- R338: how many restarts lie before position p, and where p and the period stand after them. -/
def restarts : Nat → Nat → Nat → Nat → Nat → Nat × Nat × Nat
  | 0, p, length, _, k => (k, p, length)
  | fuel + 1, p, length, mult, k =>
    if length ≤ p then restarts fuel (p - length) (length * mult) mult (k + 1) else (k, p, length)

/-- R337: a schedule descriptor's fields. -/
structure SchedDesc where
  start : Nat
  warmup : Nat
  period : Nat
  peak : Nat
  floor : Nat
  gamma : Nat
  beta1 : Nat
  beta2 : Nat
  shape : Nat
  mult : Nat
  decay : Nat
  deriving DecidableEq, Repr

/-- Half h (1 high, 0 low) of quadword i of a list. -/
def halfOf (ws : List Word) (i h : Nat) : Nat :=
  if h = 1 then fieldOf (ws.getD i 0) 63 32 else fieldOf (ws.getD i 0) 31 0

/-- R337: the fields of a descriptor's eight quadwords. -/
def schedDesc (ws : List Word) : SchedDesc :=
  { start := halfOf ws 0 1, warmup := halfOf ws 0 0, period := halfOf ws 1 1, peak := halfOf ws 1 0, floor := halfOf ws 2 1
    gamma := halfOf ws 2 0, beta1 := halfOf ws 3 1, beta2 := halfOf ws 3 0, shape := fieldOf (ws.getD 4 0) 63 56
    mult := max 1 (fieldOf (ws.getD 4 0) 55 48), decay := halfOf ws 4 0 }

/-- R337: the first quadword of a descriptor that breaks its table. -/
def schedFault (ws : List Word) : Option Nat :=
  let q := fun i => ws.getD i 0
  if 2 ^ 31 ≤ halfOf ws 0 0 then some 0
  else if 4 < fieldOf (q 4) 63 56 ∨ 8 < fieldOf (q 4) 55 48 ∨ fieldOf (q 4) 47 32 ≠ 0 then some 4
  else if q 5 ≠ 0 then some 5
  else if q 6 ≠ 0 then some 6
  else if q 7 ≠ 0 then some 7
  else none

/-- R338: F0 at u steps after START. fallback is the open value where a factor's rounding stays undecided. -/
def factor0 (x : SchedDesc) (u fallback : Nat) : Nat :=
  let n := fun c => decodeFloat fmtF32 c
  if u < x.warmup then ((n x.peak).mul (.ofInt (u + 1))).roundDiv x.warmup
  else
    let p := u - x.warmup
    let r : Nat × Nat × Nat :=
      if x.period = 0 then (0, p, 0)
      else if x.mult = 1 then (p / x.period, p % x.period, x.period)
      else restarts 64 p x.period x.mult 0
    let top := (n x.peak).mul ((n x.decay).pow r.1)
    let p := r.2.1
    let length := r.2.2
    if x.shape = 0 ∨ x.period = 0 then top.roundDiv 1
    else if x.shape = 1 then
      (((n x.floor).mul (.ofInt length)).add ((top.add (n x.floor).neg).mul (.ofInt (length - p)))).roundDiv length
    else if x.shape = 2 then cosineFactor (n x.floor) top p length fallback
    else if x.shape = 3 then greaterF32 x.floor ((top.mul ((n x.gamma).pow p)).roundDiv 1)
    else greaterF32 x.floor (sqrtFactor top (max x.warmup 1) (max x.warmup 1 + p))

/-- R338: every number that F0 at u steps after START is computed from is finite: PEAK in the warm-up, then what the shape reads, and
DECAY after a restart. -/
def factor0Finite (x : SchedDesc) (u : Nat) : Bool :=
  let finite := fun c => (decodeFloat fmtF32 c).isFin
  finite x.peak &&
    (decide (u < x.warmup) ||
      ((x.period == 0 || decide (u - x.warmup < x.period) || finite x.decay) && (x.shape == 0 || x.period == 0 || finite x.floor) &&
        (x.shape != 3 || x.period == 0 || finite x.gamma)))

/-- R338: F0 to F3 of a schedule at a step; a parameter that is not a finite number leaves the factors computed from it open. -/
def factorsAt (ws : List Word) (s fallback : Nat) : List (BitVec 32) :=
  let x := schedDesc ws
  if s < x.start then [0, 0, 0, 0]
  else
    let u := s - x.start
    let n := fun c => decodeFloat fmtF32 c
    let finite := fun c => (n c).isFin
    let f0 := if factor0Finite x u then factor0 x u fallback else fallback
    let decay := fun b => if finite b then ((Num.ofInt 1).add ((n b).pow (u + 1)).neg).roundDiv 1 else fallback
    [f0, (toF32 {} (.ofInt (u + 1))).1, decay x.beta1, decay x.beta2].map (BitVec.ofNat 32)

end Sys2Proof.Machine
end

