-- ==== Sys2Proof/Machine/Steps.lean ====
section
/-! DEFINITION. Opening a step and an evaluation interval (R297 to R302, R319 to R321), the step view (R307) and the
operations of the Cistern (R310 to R315). -/

namespace Sys2Proof.Machine

/-! ### Rows of commands whose start checks hold again when they are applied (R312) -/

/-- A row of a command whose start checks are made again as it is applied: a RUNNING command is not skipped (R100), so one that fails
them then ends with STATUS 4 (DEDUCED, log entry 100). -/
def Device.apply (d : Device) (p q idx op : Nat) (f : Cmd → Device → Device) : Device :=
  d.work p q idx op fun c d => if (d.startFault p c.desc).isSome then d.workEnds p q idx 4 else f c d

/-- Bytes written by DVA. -/
def Device.writeDva (d : Device) (u : MemUser) (dva : Nat) (bytes : List Byte) : Device × Except MemErr Unit :=
  match d.translateAll u dva bytes.length true with
  | (d, .error e) => (d, .error e)
  | (d, .ok l) => d.writePlaces u l bytes 0

/-! ### The Cistern -/

/-- R310, R307: SETUP reserves the window and names the step frame of every core of the partition, whose accumulators
start empty. -/
def Device.cisternSetup (d : Device) (p : Nat) (x : Desc) : Device :=
  let frame := fieldOf x.q6 9 0
  let d := d.setReg (.cisPartWindow p) (wordOf (2 ^ 63 + x.q5.toNat / 2 ^ 26 * 2 ^ 26 + fieldOf x.q6 37 32 * 2 ^ 14 +
    fieldOf x.q6 27 24 * 2 ^ 10 + frame))
  let d := (d.partClusters p).foldl (fun (d : Device) cl => (List.range 8).foldl (fun (d : Device) i =>
    d.updCore (8 * cl + i) fun k =>
      { k with stepFrame := some frame, norms := [], scratch := SMap.setList zeroByte k.scratch (4096 * frame) (List.replicate 4096 0) }) d) d
  d.showCistern p

/-- R311, R313, R320: OPEN opens a segment with its reservation, in the step or interval in which the command started. -/
def Device.cisternOpen (d : Device) (p : Nat) (c : Cmd) : Device :=
  let x := c.desc
  let mb := fieldOf x.q4 15 0
  (d.updPart p fun y => y.setSeg (d.segOf p mb)
    { isOpen := true, mb := mb, dies := fieldOf x.q4 27 24, reserve := fieldOf x.q5 31 0, gen := c.gen }).showCistern p

/-- R314: n pieces taken on a die, in near memory while the partition holds fewer than NEAR_CAP there, else in far memory:
their chip offsets, in order. -/
def Device.takePieces (p die : Nat) : Nat → List Nat → Device → Device × Option (List Nat)
  | 0, got, d => (d, some got)
  | n + 1, got, d =>
    let near := ((d.part p).piecesOn die false ++ got.filter fun o => decide (o < 2 ^ 40)).length
    let far := decide (d.nearCap die p ≤ near)
    match d.allot p die far 65536 65536 (got.map fun o => (o, 65536)) with
    | (d, none) => (d, none)
    | (d, some o) => Device.takePieces p die n (got ++ [o]) d

/-- R312: the tile headers of pieces written as zero. -/
def Device.clearPieces (d : Device) (pieces : List Nat) : Device :=
  { d with side := pieces.foldl (fun m o => SMap.setList zeroByte m (o / 4096 * 64) (List.replicate 1024 0)) d.side }

/-- R314: an entry of n pieces put on top of segment i on a die by a command of a step; false where it is refused. -/
def Device.pushEntry (d : Device) (p i die off n op idx step : Nat) : Device × Bool :=
  let s := (d.part p).seg i
  let entry := s.entries.length
  let held := s.held die
  let reserve := if bitOf s.dies die then s.reserve else 0
  let extra := held + n - max reserve held
  let spare := d.pieceCap die p - ((d.part p).covered die + d.promised p die)
  let refuse := fun (d : Device) => (d.logStep p 0x0E02 2 die op idx s.mb entry (wordOf n) step, false)
  if spare < extra then refuse d
  else
    match Device.takePieces p die n [] d with
    | (d, none) => refuse d
    | (d, some got) =>
      let past := decide (reserve < held + n)
      let d := if past && !s.overLogged then d.logStep p 0x0E01 0 die op idx s.mb entry (wordOf (held + n - reserve)) step else d
      let d := d.clearPieces got
      let d := d.bump (.cisSpilled die) Fd.cisSpilledSpilled (got.filter fun o => decide (2 ^ 40 ≤ o)).length
      ((d.updPart p fun y => y.setSeg i
        { s with entries := s.entries ++ [{ off := off, len := n, die := die, pieces := got }], overLogged := s.overLogged || past }).showCistern p,
        true)

/-- R311, R314: PUSH. -/
def Device.cisternPush (d : Device) (p q : Nat) (c : Cmd) : Device :=
  let x := c.desc
  match d.pushEntry p (d.segOf p (fieldOf x.q4 15 0)) (fieldOf x.q4 25 24) (fieldOf x.q5 63 32) (fieldOf x.q5 31 0) 2 c.idx c.stepNo with
  | (d, true) => d.workEnds p q c.idx 0
  | (d, false) => d.workEnds p q c.idx 4

/-- R312: POP frees an entry and every entry above it. -/
def Device.cisternPop (d : Device) (p : Nat) (x : Desc) : Device :=
  let i := d.segOf p (fieldOf x.q4 15 0)
  (d.updPart p fun y => y.setSeg i { y.seg i with entries := (y.seg i).entries.take (fieldOf x.q4 23 16) }).showCistern p

/-- R312: a segment is closed: its entries are freed and its reservation released. -/
def Device.closeSegment (d : Device) (p i : Nat) : Device := (d.updPart p fun y => y.setSeg i {}).showCistern p

/-- R312, R315: a SAMPLE still writes the trace of a micro-batch's segment, its entry 0. -/
def Device.traceBegun (d : Device) (p mb : Nat) : Bool :=
  (List.range 64).any fun q => (d.queue p q).any fun c =>
    c.st == .running && !c.worked && opcodeOf c.desc == 0x40 && !c.aux.isEmpty && d.segOf p (fieldOf c.desc.q6 15 0) == d.segOf p mb

/-- R312: a CISTERN_CFG comes to be applied: those of its queue that started before it have been applied, and where it frees entry 0,
the accesses in flight to that entry have completed. -/
def Device.cisternTurn (d : Device) (p q : Nat) (c : Cmd) : Bool :=
  let op := fieldOf c.desc.q4 63 61
  (d.earlier p q c.idx).all (fun b => !(b.st == .running && !b.worked && opcodeOf b.desc == 0x72)) &&
    !((op == 4 || (op == 3 && fieldOf c.desc.q4 23 16 == 0)) && d.traceBegun p (fieldOf c.desc.q4 15 0))

/-- A row of CISTERN_CFG on its command, where its OP is the row's and its turn has come. One that breaks the stack rule as it is applied is
skipped (R312). -/
def Device.cisternRow (d : Device) (p q idx op : Nat) (f : Cmd → Device → Device) : Device :=
  d.work p q idx 0x72 fun c d =>
    if fieldOf c.desc.q4 63 61 = op ∧ d.cisternTurn p q c = true then
      if d.stackHolds p c.desc then f c d else d.skipLate p q c 0x09 (fieldOf c.desc.q4 15 0)
    else d

/-! ### The step view and the factors -/

/-- R307: the 1,024 bytes of the step view. -/
def Device.stepView (d : Device) (p : Nat) : List Byte :=
  let e := (d.part p).scaleExp
  let s := (d.part p).step
  let interval := d.stepState p == 4
  let modes := (List.range 64).foldl (fun (m : Nat) l => m + d.fld (.sprLayerState p l) Fd.sprLayerStateMode * 4 ^ l) 0
  leBytes 8 (d.curStep p) ++ leBytes 4 ((127 + e) * 2 ^ 23) ++ leBytes 4 ((127 - e) * 2 ^ 23) ++ leBytes 2 s.mbFirst ++
  leBytes 2 s.mbCount ++ leBytes 4 (ofBool interval + 2 * ofBool (!interval && s.evalOnly)) ++ leBytes 16 modes ++
  leBytes 8 d.now.toNat ++ List.replicate 976 0

/-- The cores of a partition. -/
def Device.partCores (d : Device) (p : Nat) : List Nat :=
  (d.partClusters p).flatMap fun cl => (List.range 8).map fun i => 8 * cl + i

/-- R307: the step view written into every step frame of a partition. -/
def Device.writeView (d : Device) (p : Nat) : Device :=
  let v := d.stepView p
  (d.partCores p).foldl (fun (d : Device) c => d.updCore c fun k =>
    match k.stepFrame with
    | none => k
    | some f => { k with scratch := SMap.setList zeroByte k.scratch (4096 * f + 3072) v }) d

/-- R297: the step view of every step frame of a partition cleared of the step that closes. -/
def Device.clearView (d : Device) (p : Nat) : Device :=
  (d.partCores p).foldl (fun (d : Device) c => d.updCore c fun k =>
    match k.stepFrame with
    | none => k
    | some f => { k with scratch := SMap.setList zeroByte k.scratch (4096 * f + 3072) (List.replicate 1024 0) }) d

/-- R338: the factors of a step, and UPD_FACTOR with them. -/
def Device.computeFactors (d : Device) (p step : Nat) : Device :=
  (List.range 16).foldl (fun (d : Device) k =>
    match SMap.at' [] (d.part p).schedules k with
    | [] => (d.updPart p fun x => { x with factors := SMap.set (fun _ => []) x.factors k [] }).setReg (.updFactor p k) 0
    | ws =>
      let f := factorsAt ws step (Config.roundedReal 11 d.free).toNat
      let start := (schedDesc ws).start
      (({ d with free := d.free + 1 }).updPart p fun x => { x with factors := SMap.set (fun _ => []) x.factors k f }).setReg
        (.updFactor p k) (wordOf ((f.getD 0 0).toNat * 2 ^ 32 + (if step < start then 0 else step - start + 1) % 2 ^ 32))) d

/-! ### Opening a step -/

/-- R300: the first quadword of a step descriptor that breaks a limit. -/
def stepDescFault (ws : List Word) : Option Nat :=
  let q := fun i => ws.getD i 0
  if fieldOf (q 0) 47 32 = 0 ∨ 4096 < fieldOf (q 0) 47 32 ∨ 24 < fieldOf (q 0) 15 8 ∨ 63 < fieldOf (q 0) 31 16 then some 0
  else if fieldOf (q 1) 15 2 ≠ 0 then some 1
  else if (q 2).toNat % 8 ≠ 0 then some 2
  else if fieldOf (q 3) 63 32 ≠ 0 ∨ fieldOf (q 3) 31 0 = 0 then some 3
  else if (q 4).toNat % 8 ≠ 0 then some 4
  else if q 5 ≠ 0 then some 5
  else if q 6 ≠ 0 then some 6
  else if q 7 ≠ 0 then some 7
  else none

/-- R301: seeds j to the end of one micro-batch's list, read from the pool. -/
def Device.drawSeeds (u : MemUser) (seed : Word) (ws : List Word) (step b n : Nat) : Nat → List Byte → Device → Device × Except MemErr (List Byte)
  | 0, got, d => (d, .ok got)
  | k + 1, got, d =>
    let j := n - (k + 1)
    let w := drawWord seed 7 (halfOf ws 1 1) step b 0 j
    match d.readDva u ((ws.getD 2 0).toNat + 8 * (w * halfOf ws 3 0 / 2 ^ 32)) 8 with
    | (d, .error e) => (d, .error e)
    | (d, .ok bs) => Device.drawSeeds u seed ws step b n k (got ++ bs) d

/-- R301: the seed lists of micro-batches b to the last, written in order. -/
def Device.seedLists (u : MemUser) (seed : Word) (ws : List Word) (step : Nat) : Nat → Nat → Device → Device × Except MemErr Unit
  | 0, _, d => (d, .ok ())
  | k + 1, i, d =>
    let n := fieldOf (ws.getD 1 0) 31 16 + 1
    match Device.drawSeeds u seed ws step (fieldOf (ws.getD 0 0) 63 48 + i) n n [] d with
    | (d, .error e) => (d, .error e)
    | (d, .ok bs) =>
      match d.writeDva u ((ws.getD 4 0).toNat + 8 * n * i) bs with
      | (d, .error e) => (d, .error e)
      | (d, .ok ()) => Device.seedLists u seed ws step k (i + 1) d

/-- R388: the tables' pending versions that become current at this opening; 0x1104 once for one that is not complete on
every member. -/
def Device.switchEpochs (d : Device) (p : Nat) (c : Cmd) : Device :=
  (d.part p).handles.foldl (fun (d : Device) h =>
    match d.table p h with
    | none => d
    | some t =>
      match t.publish with
      | none => d
      | some b =>
        if c.desc.q6.toNat < b.switchNs.toNat then d
        else if b.all then
          d.setTable p h (some { t with current := t.current + 1, previous := some t.current, publish := none })
        else if b.deferred then d
        else
          (d.log moduleRing
            { code := 0x1104, cls := 0, part := p
              body := [wordOf (d.chip * 2 ^ 16 + (c.idx % 2 ^ 32) * 2 ^ 32), wordOf h, 0, b.switchNs] }).setTable p h
            (some { t with publish := some { b with deferred := true } })) d

/-- R401, R402: the level a partition takes at an opening: the newest whose ENABLE_NS is not after OPEN_NS. -/
def Device.takeLevel (d : Device) (p : Nat) (openNs : Word) : Device :=
  let level := match (d.enable.toList ++ d.enabled).find? fun e => decide (e.2.toNat ≤ openNs.toNat) with
    | some e => e.1
    | none => d.fld .plcFeature Fd.plcFeatureEnabled
  d.updPart p fun x => { x with level := some level }

/-- R291: the modes that the last close decided take effect. -/
def Device.takeModes (d : Device) (p : Nat) : Device :=
  let d := (d.part p).layers.foldl (fun (d : Device) l =>
    match l.2.nextMode with
    | none => d
    | some m => d.setFld (.sprLayerState p l.1) Fd.sprLayerStateMode m) d
  d.updPart p fun x => { x with layers := x.layers.map fun l => (l.1, { l.2 with nextMode := none }) }

/-- R286, R291: the counts of the bound layer slots start at zero. -/
def Device.clearLayerCounts (d : Device) (p : Nat) : Device :=
  (List.range 64).foldl (fun (d : Device) l => d.setReg (.sprLayerCount p l) 0) d

/-- R297 to R302, R307, R308, R321: the partition is OPENING with a descriptor that keeps its limits: tables bound, step view written. -/
def Device.commitStep (d : Device) (p : Nat) (c : Cmd) (ws : List Word) : Device :=
  let x := c.desc
  let step := fieldOf x.q4 31 0
  let evalOnly := bitOf x.q4.toNat 34
  let first := !(d.part p).stepped
  let d := d.switchEpochs p c
  let d := d.takeLevel p x.q6
  let lacking := (d.part p).tables.any fun t => (t.2.map fun t => t.previous.isNone).getD false
  let d := d.bindTables p fun t => if evalOnly then t.previous.getD t.current else t.current
  let q0 := ws.getD 0 0
  let restart := first || bitOf x.q4.toNat 33
  let d := d.updPart p fun y =>
    { y with
      seed := if bitOf x.q4.toNat 32 then x.q5 else y.seed
      stepped := true
      step := { mbFirst := fieldOf q0 63 48, mbCount := fieldOf q0 47 32, group := fieldOf q0 31 16, initExp := fieldOf q0 15 8
                growInterval := fieldOf q0 7 0, skipOnSat := bitOf (ws.getD 1 0).toNat 1, evalOnly := evalOnly
                notSealed := evalOnly && lacking, opened := d.now, openNs := x.q6 }
      schedules := y.nextSchedules.foldl (fun m s => SMap.set (fun _ => []) m s.1 s.2) y.schedules
      nextSchedules := []
      normIncomplete := false
      unitReads := []
      unitContribs := []
      unitReaders := []
      busy := d.now
      mbMoves := y.nextMoves
      nextMoves := [] }
  let e := if restart then fieldOf q0 15 8 else d.gradExp p
  let d := (d.updPart p fun y => { y with scaleExp := e }).setReg (.cisPartStep p) (wordOf (1 * 2 ^ 60 + e * 2 ^ 40 +
    (if restart then 0 else d.fld (.cisPartStep p) Fd.cisPartStepCleanSteps) * 2 ^ 32 + step))
  let d := ((d.setReg (.cisPartSat p) 0).takeModes p).clearLayerCounts p
  (d.computeFactors p step).writeView p

/-- R297, R300: an opening that does not complete leaves the partition CLOSED. -/
def Device.unopen (d : Device) (p : Nat) : Device :=
  ((((d.bindTables p fun _ => 0).updPart p fun x => { x with normIncomplete := false }).setStepState p 0).clearView p)

/-- R299, R301: STEP_OPEN writes its seed lists, and the partition is OPEN. -/
def Device.selectSeeds (d : Device) (p q : Nat) (c : Cmd) (ws : List Word) : Device :=
  let u := d.userOf p c 0
  match if bitOf (ws.getD 1 0).toNat 0 then
      Device.seedLists u (d.part p).seed ws (fieldOf c.desc.q4 31 0) (fieldOf (ws.getD 0 0) 47 32) 0 d
    else (d, .ok ()) with
  | (d, .ok ()) => ((d.setStepState p 2).sweepSegments p).workEnds p q c.idx 0
  | (d, .error (.xlate kind addr inj)) => d.park p q c 0 kind addr inj
  | (d, .error .waits) => d
  | (d, .error _) => (d.unopen p).workEnds p q c.idx 4

/-- R299 to R301: STEP_OPEN reads its descriptor once, opens the step and selects its seeds; resumed, it selects them again. -/
def Device.stepOpen (d : Device) (p q : Nat) (c : Cmd) : Device :=
  if c.begun then d.selectSeeds p q c (wordsOf 8 (SMap.at' [] c.got 0))
  else
    match d.readDva (d.userOf p c 0) c.desc.q7.toNat 64 with
    | (d, .error (.xlate kind addr inj)) => d.park p q c 0 kind addr inj
    | (d, .error .waits) => d
    | (d, .error _) => (d.setStepState p 0).workEnds p q c.idx 4
    | (d, .ok bs) =>
      match stepDescFault (wordsOf 8 bs) with
      | some i => ((d.logStep p 0x0E08 2 0 0 c.idx 0 0 (wordOf i) c.stepNo).setStepState p 0).workEnds p q c.idx 4
      | none =>
        let c' := { c with begun := true, got := [(0, bs)] }
        ((d.updCmd p q c.idx fun _ => c').commitStep p c' (wordsOf 8 bs)).selectSeeds p q c' (wordsOf 8 bs)

/-! ### Evaluation intervals -/

/-- R319: an interval opens: every table is bound to its current epoch and the step view is written. -/
def Device.evalOpen (d : Device) (p : Nat) : Device := ((d.bindTables p fun t => t.current).setStepState p 4).writeView p

/-- R320: the interval ends. -/
def Device.evalClose (d : Device) (p : Nat) : Device := ((d.bindTables p fun _ => 0).setStepState p 0).sweepSegments p

/-! ### The meanings -/

/-- STEP_OPEN. -/
def execStepOpen (p q idx : Nat) (io : MemIo) (s : State) : Result :=
  run (fun d => ((d.withIo io).work p q idx 0x70 fun c d => d.stepOpen p q c).endIo) s

/-- EVAL_SLOT with OP 0. -/
def execEvalSlotOpen (p q idx : Nat) (s : State) : Result :=
  run (fun d => d.apply p q idx 0x73 fun c d =>
    if bitOf c.desc.q4.toNat 0 then d else (d.evalOpen p).workEnds p q idx 0) s

/-- EVAL_SLOT with OP 1. -/
def execEvalSlotClose (p q idx : Nat) (s : State) : Result :=
  run (fun d => d.apply p q idx 0x73 fun c d =>
    if bitOf c.desc.q4.toNat 0 then (d.evalClose p).workEnds p q idx 0 else d) s

/-- CISTERN_CFG SETUP. -/
def execCisternSetup (p q idx : Nat) (s : State) : Result :=
  run (fun d => d.cisternRow p q idx 0 fun c d => (d.cisternSetup p c.desc).workEnds p q idx 0) s

/-- CISTERN_CFG OPEN. -/
def execCisternOpen (p q idx : Nat) (s : State) : Result :=
  run (fun d => d.cisternRow p q idx 1 fun c d => (d.cisternOpen p c).workEnds p q idx 0) s

/-- CISTERN_CFG PUSH. -/
def execCisternPush (p q idx : Nat) (s : State) : Result :=
  run (fun d => d.cisternRow p q idx 2 fun c d => d.cisternPush p q c) s

/-- CISTERN_CFG POP. -/
def execCisternPop (p q idx : Nat) (s : State) : Result :=
  run (fun d => d.cisternRow p q idx 3 fun c d => (d.cisternPop p c.desc).workEnds p q idx 0) s

/-- CISTERN_CFG CLOSE. -/
def execCisternClose (p q idx : Nat) (s : State) : Result :=
  run (fun d => d.cisternRow p q idx 4 fun c d => (d.closeSegment p (d.segOf p (fieldOf c.desc.q4 15 0))).workEnds p q idx 0) s

/-- CIS_CLEAR_COUNTS: CIS_CTRL.CLEAR_COUNTS of a die. -/
def execCisClearCounts (die : Nat) (s : State) : Result := run (·.resetReg (.cisSpilled die)) s

end Sys2Proof.Machine
end

