-- ==== Sys2Proof/Machine/Tables.lean ====
section
/-! DEFINITION. Placed tables: the directory (R382 to R384), the reading of placed tiles (R220, R235) and the records of
placement (R405). -/

namespace Sys2Proof.Machine

/-! ### Doing one thing after another -/

/-- What follows a step that may fail, if it did not. -/
def andThen {ε α β : Type} (r : Device × Except ε α) (f : α → Device → Device × Except ε β) : Device × Except ε β :=
  match r with
  | (d, .error e) => (d, .error e)
  | (d, .ok a) => f a d

/-- A list of results, each from one element, in order. -/
def forAll {ε α β : Type} (f : α → Device → Device × Except ε β) : List α → Device → Device × Except ε (List β)
  | [], d => (d, .ok [])
  | a :: l, d => andThen (f a d) fun b d => andThen (forAll f l d) fun bs d => (d, .ok (b :: bs))

/-! ### Records -/

/-- R405: a placement record on a partition's ring, or on the module's. -/
def Device.logPlace (d : Device) (ring code cls die idx handle unit : Nat) (detail : Word) : Device :=
  d.log ring
    { code := code, cls := cls, part := if ring < 8 then ring else 0xFF, die := die
      body := [wordOf (die + d.chip * 2 ^ 16 + (idx % 2 ^ 32) * 2 ^ 32), wordOf handle, wordOf unit, detail] }

/-! ### The directory -/

/-- R383: the set of the directory that holds a unit's entry. -/
def dirKey (h u : Nat) : Nat := 4096 * (u % 4) + (u / 4 + h) % 4096

/-- R383: a directory entry is that of a unit at an epoch. -/
def DirEntry.isFor (e : DirEntry) (p h epoch u : Nat) : Bool :=
  e.handle == h && e.epoch == epoch % 65536 && e.part == p && e.unit == u

/-- R24, R432: a look-up would miss in a slice whose control complex has stopped: it waits. -/
def Device.fillWaits (d : Device) (p h epoch u : Nat) : Bool :=
  d.stopped (u % 4) && !(SMap.at' [] d.directory (dirKey h u)).any fun e => e.isFor p h epoch u

/-- R383, R384: a unit looked up at an epoch: from the directory, or filled from the map; none is a placement fault,
which logs 0x1101, as it is where the table is not bound, whatever the directory still holds. -/
def Device.lookup (d : Device) (p idx h epoch u : Nat) : Device × Option UnitMap :=
  let key := dirKey h u
  let set := SMap.at' [] d.directory key
  let bound := epoch != 0 && (d.table p h).isSome
  let hit := fun (e : DirEntry) => bound && e.isFor p h epoch u
  match set.find? hit with
  | some e => ({ d with directory := SMap.set (fun _ => []) d.directory key (e :: set.filter fun x => !hit x) }, some e.map)
  | none =>
    let d := d.bump .plcStats Fd.plcStatsMisses
    let m : UnitMap := match d.table p h with
      | some t => if epoch = 0 then {} else t.unitAt epoch u
      | none => {}
    if m.valid then
      ({ d with directory := SMap.set (fun _ => []) d.directory key
                  (({ handle := h, epoch := epoch % 65536, part := p, unit := u, map := m } :: set).take 16) }, some m)
    else (d.logPlace p 0x1101 2 (u % 4) idx h u (wordOf epoch), none)

/-! ### Placed tiles -/

/-- The global address of tile i of a unit on a chip. -/
def UnitMap.tileOn (m : UnitMap) (chip i : Nat) : Nat := chip * 2 ^ 50 + m.offset + 4096 * i

/-- R390: where a die's counts of a unit stand, and the count that further units share. -/
def unitKey (die h u : Nat) : Nat := die * 2 ^ 80 + h * 2 ^ 40 + u
/-- The shared count of a die. -/
def overKey (die : Nat) : Nat := die * 2 ^ 80 + 2 ^ 79

/-- R390: the count in which a read or contribution of a unit falls: its own, for the first 4,096 units of a step on a die (DESIGN
CHOICE, log entry 107), else the shared one. -/
def Device.countedKey (d : Device) (p die h u : Nat) : Nat :=
  let x := d.part p
  let key := unitKey die h u
  let own := (x.unitReads ++ x.unitContribs.filter fun e => !x.unitReads.any fun r => r.1 == e.1).filter fun e => e.1 / 2 ^ 80 == die
  if own.any (fun e => e.1 == key) || decide ((own.filter fun e => e.1 != overKey die).length < 4096) then key else overKey die

/-- R390: where a chip's reads of a unit are counted. -/
def readerKey (h u chip : Nat) : Nat := (h * 2 ^ 40 + u) * 2 ^ 14 + chip

/-- R390: n reads of a unit by a chip that a die of this chip served. -/
def Device.countRead (d : Device) (p die h u n chip : Nat) : Device :=
  let key := d.countedKey p die h u
  d.updPart p fun x => { x with
    unitReads := SMap.upd 0 x.unitReads key (· + n)
    unitReaders := SMap.upd 0 x.unitReaders (readerKey h u chip) (· + n) }

/-- R390: reads of a unit that this chip has counted in the step. -/
def Part.readsOf (x : Part) (h u : Nat) : Nat :=
  ((List.range 4).map fun die => SMap.at' 0 x.unitReads (unitKey die h u)).foldl (· + ·) 0

/-- The die that holds a unit of a table at its current epoch. -/
def UnitMap.die (m : UnitMap) : Nat := dieOfOffset m.offset

/-- R390: a read of a unit by one of this chip's engines, where this chip serves it. -/
def Device.countOwn (d : Device) (p h u : Nat) (m : UnitMap) : Device := if m.read = d.chip then d.countRead p m.die h u 1 d.chip else d

/-- R391, R392: reads of a unit from this chip's copy are held: its map entry has come before its tiles, or its owner's phase 5 is not over. -/
def Device.unitHeld (d : Device) (p h u : Nat) : Bool := (d.part p).holding.contains (h, u)

/-- R391: a read of a unit by this chip's engines waits: the copy it would read is this chip's own and is held. -/
def Device.readHeld (d : Device) (p h u : Nat) (m : UnitMap) : Bool := m.read == d.chip && d.unitHeld p h u

/-- R220, R383: tile i of a unit, read from READ_CHIP, or from ALT_CHIP where that copy does not verify; the tile is then noted for repair
(R392). -/
def Device.readCopy (d : Device) (u : MemUser) (h unit : Nat) (m : UnitMap) (i : Nat) : Device × Except MemErr (TileRec × List Byte) :=
  let g := m.tileOn m.read i
  andThen (d.readTile u g (if m.alt = m.read then none else some (m.tileOn m.alt i))) fun r d =>
    let d := if r.1 = d.recOf g then d else d.updPart u.part fun x => { x with mend := x.mend ++ [(h, unit, i)] }
    (d, .ok r)

/-- R259, R390: a tile of a unit read by an engine that looks rows up: counted where this chip serves it, and held as R391 says. -/
def Device.readPlaced (d : Device) (u : MemUser) (h unit : Nat) (m : UnitMap) (i : Nat) :
    Device × Except MemErr (TileRec × List Byte) :=
  if d.readHeld u.part h unit m then (d, .error .waits) else (d.countOwn u.part h unit m).readCopy u h unit m i

/-- R220, R235, R383: the record of n bytes of a unit from a byte of it, which lie in one tile: read from READ_CHIP, or from
ALT_CHIP where that copy does not verify. -/
def Device.readPlacedPart (d : Device) (u : MemUser) (h unit : Nat) (m : UnitMap) (off n : Nat) : Device × Except MemErr TileRec :=
  let i := off / 4096
  let g := m.tileOn m.read i + off % 4096
  if d.readHeld u.part h unit m then (d, .error .waits) else
  let d := d.countOwn u.part h unit m
  andThen (d.readRec u g n (if m.alt = m.read then none else some (m.tileOn m.alt i))) fun t d =>
    let d := if t = d.recOf g then d else d.updPart u.part fun x => { x with mend := x.mend ++ [(h, unit, i)] }
    (d, .ok t)


/-! ### The contribution log (R268) -/

/-- The unit of a row. -/
def Table.unitOfRow (t : Table) (row : Nat) : Nat := row / t.rowsPerUnit

/-- R268: bytes of the contribution log of a partition in use on a die, at the epoch that owns the rows. -/
def Device.logUsed (d : Device) (p die : Nat) : Nat :=
  ((d.part p).tables.map fun e =>
    match e.2 with
    | none => 0
    | some t =>
      let here := fun row => (t.unitAt t.current (t.unitOfRow row)).die == die
      (t.log.filter fun c => here c.row).length * t.entryBytes +
        (t.arrivals.filter fun a => here a.1).length * (t.entryBytes - 16)).foldl (· + ·) 0

/-- GTH_PART_STATUS.LOG_USED and ROWS show the log. -/
def Device.showLog (d : Device) (p die : Nat) : Device :=
  d.setFld (.gthPartStatus die p) Fd.gthPartStatusLogUsed ((d.logUsed p die + 4095) / 4096)

end Sys2Proof.Machine
end

