-- ==== Sys2Proof/Machine/Sampling.lean ====
section
/-! DEFINITION. Graph storage and neighbourhood sampling (chapter 11): SAMPLE and the grant of its trace reservation. -/

namespace Sys2Proof.Machine

/-! ### The sampling descriptor (R237) -/

/-- R237: the fields of a sampling descriptor; fanout and types by hop, from hop 1. -/
structure SmpDesc where
  handle : Nat
  hops : Nat
  causal : Bool
  temporal : Bool
  mode : Nat
  tLo : Nat
  tHi : Nat
  fanout : List Nat
  types : List Nat
  fanWord : Nat
  deriving DecidableEq, Repr

/-- The fields of a descriptor's eight quadwords. -/
def smpDesc (ws : List Word) : SmpDesc :=
  let q := fun i => (ws.getD i 0).toNat
  { handle := bitsOf (q 0) 63 32, hops := bitsOf (q 0) 9 8 + 1, causal := bitOf (q 0) 3, temporal := bitOf (q 0) 2
    mode := bitsOf (q 0) 1 0, tLo := bitsOf (q 1) 63 32, tHi := bitsOf (q 1) 31 0
    fanout := (List.range 4).map fun i => bitsOf (q 2) (8 * i + 7) (8 * i)
    types := (List.range 4).map fun i => bitsOf (q 3) (16 * i + 15) (16 * i), fanWord := bitsOf (q 2) 31 0 }

/-- R241: the slots of each hop, hop 0 first. -/
def hopSizes (seeds : Nat) (x : SmpDesc) : List Nat :=
  (List.range (x.hops + 1)).map fun h => (x.fanout.take h).foldl (· * ·) seeds

/-- R242, R246: the DETAIL of 0x0B06: the quadword of a descriptor that breaks a rule, or 8 for the table. -/
def smpFault (ws : List Word) (seeds : Nat) (t : Option Table) : Option Nat :=
  let x := smpDesc ws
  let q := fun i => (ws.getD i 0).toNat
  let zeroFrom := fun (l : List Nat) => (l.drop x.hops).all (· == 0)
  if bitsOf (q 0) 31 10 ≠ 0 ∨ bitsOf (q 0) 7 4 ≠ 0 then some 0
  else if q 2 ≥ 2 ^ 32 ∨ (x.fanout.take x.hops).any (· == 0) ∨ zeroFrom x.fanout = false ∨
      4194304 < (hopSizes seeds x).foldl (· + ·) 0 then some 2
  else if zeroFrom x.types = false then some 3
  else if q 4 ≠ 0 then some 4
  else if q 5 ≠ 0 then some 5
  else if q 6 ≠ 0 then some 6
  else if q 7 ≠ 0 then some 7
  else
    match t with
    | none => some 8
    | some t =>
      if t.graph = false ∨ ((x.temporal ∨ x.causal ∨ x.mode = 3) ∧ bitOf t.fields 0 = false) ∨
          (x.mode = 2 ∧ bitOf t.fields 1 = false) then some 8
      else none

/-! ### Trace slots (R241) -/

/-- R241: a trace slot. -/
structure SmpSlot where
  valid : Bool := false
  err : Bool := false
  typ : Nat := 0
  node : Nat := 0
  time : Nat := 0
  edge : Nat := 0
  deriving DecidableEq, Repr

/-- The 16 bytes of a slot; both quadwords are zero but for ERR where it holds no node. -/
def SmpSlot.bytes (s : SmpSlot) : List Byte :=
  if s.valid then leBytes 8 (2 ^ 63 + s.typ * 2 ^ 48 + s.node) ++ leBytes 8 (s.time * 2 ^ 32 + s.edge)
  else leBytes 8 (ofBool s.err * 2 ^ 62) ++ leBytes 8 0

/-- The command under way: its table as bound, its run seed and step, and the dies of DIE_MASK in ascending order. -/
structure Smp where
  u : MemUser
  x : SmpDesc
  t : Table
  epoch : Nat
  seed : Word
  step : Nat
  dies : List Nat

/-- R244: the die that takes slot s of a hop and expands it as a parent: the slots fall to the dies of DIE_MASK in turn (DESIGN
CHOICE, log entry 53). -/
def Smp.die (m : Smp) (s : Nat) : Nat := m.dies.getD (s % m.dies.length) 0

/-- R247: a sampling fault logged once per command and code, with the sampler its die's arbiter gave the work to (R17), and
SMP_LAST_FAULT of its die. -/
def Device.logSmp (d : Device) (p die idx code hop slot detail node : Nat) : Device :=
  ({ d with free := d.free + 1 }.log p
    { code := code, cls := 2, part := p, die := die
      body := [wordOf (die + anEngine d.free 6 * 2 ^ 8 + hop * 2 ^ 16 + (idx % 2 ^ 32) * 2 ^ 32), wordOf slot, wordOf detail,
        wordOf node] }).setReg
    (.smpLastFault die) (wordOf (code * 2 ^ 48 + p * 2 ^ 45 + hop * 2 ^ 42 + idx % 2 ^ 32))

/-- What stops the expansion of one parent: a fault that marks its children (with its code and DETAIL), a fault that stops the
walk, or the lack of a free tag, for which it waits (R223). -/
inductive SmpErr where
  | parent (code detail : Nat)
  | walk (block : Nat)
  | waits
  deriving DecidableEq, Repr

/-! ### Row-blocks (R233) -/

/-- R235: n bytes of a row-block from a byte of its tiles, which lie in one tile of format INT32. -/
def Device.readBlock (d : Device) (m : Smp) (b : Nat) (e : UnitMap) (off n : Nat) : Device × Except SmpErr Nat :=
  match d.readPlacedPart m.u m.x.handle b e off n with
  | (d, .error .waits) => (d, .error .waits)
  | (d, .error (.remote _ _)) => (d, .error (.parent 0x1101 b))
  | (d, .error _) => (d, .error (.walk b))
  | (d, .ok t) =>
    if t.fmt ≠ 0xA then (d, .error (.parent 0x0B01 b))
    else (d, .ok (ofLeBytes ((t.view.drop (off % 4096)).take n)))

/-- A row-block's header, as far as the walk uses it. -/
structure BlockHdr where
  nodes : Nat
  types : Nat
  hasTime : Bool
  hasWeight : Bool
  edges : Nat
  offs : Nat
  nbr : Nat
  time : Nat
  cumw : Nat
  deriving DecidableEq, Repr

/-- R233, R247: a header that is well formed for its block: its sections start on tiles of the row-block. -/
def blockHdr (m : Smp) (b tiles v : Nat) : Option BlockHdr :=
  let f := fun (lo n : Nat) => v / 2 ^ (8 * lo) % 2 ^ (8 * n)
  let h : BlockHdr :=
    { nodes := f 24 4, types := f 28 1, hasTime := bitOf (f 29 1) 0, hasWeight := bitOf (f 29 1) 1, edges := f 32 4
      offs := f 36 4, nbr := f 40 4, time := f 44 4, cumw := f 48 4 }
  let lies := fun (first bytes : Nat) => decide (1 ≤ first) && (tiles == 0 || decide (first + (bytes + 4095) / 4096 ≤ tiles))
  if f 0 4 = 0x42525957 ∧ f 4 4 = 1 ∧ f 8 4 = m.x.handle ∧ f 16 8 = b ∧ h.nodes = min 16384 (m.t.n - 16384 * b) ∧
      1 ≤ h.types ∧ h.types ≤ 16 ∧ f 29 1 < 4 ∧ lies h.offs (4 * (h.nodes * h.types + 1)) = true ∧
      lies h.nbr (8 * h.edges) = true ∧ (if h.hasTime then lies h.time (4 * h.edges) else h.time == 0) = true ∧
      (if h.hasWeight then lies h.cumw (8 * h.edges) else h.cumw == 0) = true then some h
  else none

/-- R238: the first index of [a, b) whose time is at least x. -/
def Device.firstAtLeast (m : Smp) (b : Nat) (e : UnitMap) (h : BlockHdr) (x : Nat) : Nat → Nat → Nat → Device → Device × Except SmpErr Nat
  | 0, lo, _, d => (d, .ok lo)
  | fuel + 1, lo, hi, d =>
    if lo < hi then
      let k := (lo + hi) / 2
      andThen (d.readBlock m b e (4096 * h.time + 4 * k) 4) fun t d =>
        if t < x then Device.firstAtLeast m b e h x fuel (k + 1) hi d else Device.firstAtLeast m b e h x fuel lo k d
    else (d, .ok lo)

/-- R234, R247: offset entries k and k + 1, which the device checks as it reads them. -/
def Device.readOffsets (d : Device) (m : Smp) (b : Nat) (e : UnitMap) (h : BlockHdr) (k : Nat) : Device × Except SmpErr (Nat × Nat) :=
  andThen (d.readBlock m b e (4096 * h.offs + 4 * k) 4) fun a d =>
    andThen (d.readBlock m b e (4096 * h.offs + 4 * (k + 1)) 4) fun z d =>
      if z < a ∨ h.edges < z then (d, .error (.parent 0x0B02 (k + 1))) else (d, .ok (a, z))

/-- R238: the eligible ranges of a node's edges, with their types, in ascending type. -/
def Device.eligible (d : Device) (m : Smp) (b : Nat) (e : UnitMap) (h : BlockHdr) (i hop : Nat) (parent : SmpSlot) :
    Device × Except SmpErr (List (Nat × Nat × Nat)) :=
  let types := (List.range h.types).filter fun t => bitOf (m.x.types.getD (hop - 1) 0) t
  let hi := if hop = 1 ∨ m.x.causal = false then m.x.tHi else min m.x.tHi (parent.time + 1)
  forAll (fun t d =>
    andThen (d.readOffsets m b e h (h.types * i + t)) fun r d =>
      if m.x.temporal = true ∧ r.1 < r.2 then
        if h.hasTime then
          andThen (Device.firstAtLeast m b e h m.x.tLo 33 r.1 r.2 d) fun lo d =>
            andThen (Device.firstAtLeast m b e h hi 33 r.1 r.2 d) fun up d => (d, .ok (t, lo, max lo up))
        else (d, .error (.parent 0x0B01 b))
      else (d, .ok (t, r.1, r.2))) types d

/-- The edge at an eligible position, with its type. -/
def edgeAt : Nat → List (Nat × Nat × Nat) → Option (Nat × Nat)
  | _, [] => none
  | p, (t, a, z) :: rest => if p < z - a then some (t, a + p) else edgeAt (p - (z - a)) rest

/-- R239: draw j of a parent. -/
def Smp.draw (m : Smp) (node hop j : Nat) : Nat :=
  drawWord m.seed 1 (node % 2 ^ 32) (hop * 2 ^ 16 + node / 2 ^ 32 % 2 ^ 16) (m.step % 2 ^ 32) 0 j

/-- R240, mode 1: Floyd's selection of F of n positions, in selection order. -/
def floyd (draw : Nat → Nat) (n f : Nat) : List Nat :=
  (List.range f).foldl (fun chosen j =>
    let i := n - f + j
    let p := draw j * (i + 1) / 2 ^ 32
    chosen ++ [if chosen.contains p then i else p]) []

/-- R240, mode 3: an edge put into a list of latest edges, descending by time and then by index. -/
def insertLatest (x : Nat × Nat × Nat) : List (Nat × Nat × Nat) → List (Nat × Nat × Nat)
  | [] => [x]
  | y :: rest => if y.1 < x.1 ∨ (y.1 = x.1 ∧ y.2.2 ≤ x.2.2) then x :: y :: rest else y :: insertLatest x rest

/-- R240, mode 2: the edge that a remaining weight falls to, with its type. -/
def Device.weighted (m : Smp) (b : Nat) (e : UnitMap) (cum : Nat → Device → Device × Except SmpErr Int) :
    Int → List (Nat × Nat × Nat) → Device → Device × Except SmpErr (Option (Nat × Nat))
  | _, [], d => (d, .ok none)
  | r, (t, a, z) :: rest, d =>
    if z ≤ a then Device.weighted m b e cum r rest d
    else
      andThen (cum a d) fun before d => andThen (cum z d) fun upto d =>
        if r < upto - before then
          andThen (forAll (fun k d => andThen (cum (a + k + 1) d) fun v d => (d, .ok (decide (r < v - before)))) (List.range (z - a)) d)
            fun l d => (d, .ok (((l.zipIdx.find? Prod.fst).map fun k => (t, a + k.2))))
        else Device.weighted m b e cum (r - (upto - before)) rest d

/-- R240: the children a parent gets, as types and edges in child order, none for an invalid child; and the draws made. -/
def Device.chooseEdges (d : Device) (m : Smp) (b : Nat) (e : UnitMap) (h : BlockHdr) (i hop f : Nat) (node : Nat)
    (ranges : List (Nat × Nat × Nat)) : Device × Except SmpErr (List (Option (Nat × Nat)) × Nat) :=
  let n := (ranges.map fun r => r.2.2 - r.2.1).foldl (· + ·) 0
  let draw := m.draw node hop
  let pad := fun (l : List (Option (Nat × Nat))) => l ++ List.replicate (f - l.length) none
  if n = 0 then (d, .ok (pad [], 0))
  else
    match m.x.mode with
    | 0 => (d, .ok ((List.range f).map fun j => edgeAt (draw j * n / 2 ^ 32) ranges, f))
    | 1 =>
      if n ≤ f then (d, .ok (pad ((List.range n).map fun p => edgeAt p ranges), 0))
      else (d, .ok ((floyd draw n f).map fun p => edgeAt p ranges, f))
    | 2 =>
      if h.hasWeight then
        andThen (d.readOffsets m b e h (h.types * i)) fun first d =>
          let cum := fun (k : Nat) (d : Device) =>
            if k ≤ first.1 then (d, Except.ok (0 : Int))
            else andThen (d.readBlock m b e (4096 * h.cumw + 8 * (k - 1)) 8) fun v d => (d, .ok (v : Int))
          andThen (forAll (fun (r : Nat × Nat × Nat) d =>
              if r.2.2 ≤ r.2.1 then (d, Except.ok (0 : Int))
              else andThen (cum r.2.2 d) fun z d => andThen (cum r.2.1 d) fun a d => (d, .ok (z - a))) ranges d) fun ws d =>
            let total := ws.foldl (· + ·) 0
            if total = 0 then (d, .ok (pad [], 0))
            else
              andThen (forAll (fun j d => Device.weighted m b e cum ((draw j : Int) * total / 2 ^ 32) ranges d) (List.range f) d)
                fun l d => (d, .ok (l, f))
      else (d, .error (.parent 0x0B01 b))
    | _ =>
      if h.hasTime then
        andThen (forAll (fun p d =>
            match edgeAt p ranges with
            | none => (d, .ok (0, 0, 0))
            | some (t, k) => andThen (d.readBlock m b e (4096 * h.time + 4 * k) 4) fun w d => (d, .ok (w, t, k))) (List.range n) d)
          fun l d => (d, .ok (pad (((l.foldl (fun a x => insertLatest x a) []).take f).map fun x => some x.2), 0))
      else (d, .error (.parent 0x0B01 b))

/-- R241, R247: one child's slot: its neighbour word, and its time where the row-block has times. The DETAIL of 0x0B03
comes with an invalid one. -/
def Device.childSlot (d : Device) (m : Smp) (b : Nat) (e : UnitMap) (h : BlockHdr) (k : Option (Nat × Nat)) :
    Device × Except SmpErr (SmpSlot × Option Nat) :=
  match k with
  | none => (d, .ok ({}, none))
  | some (t, k) =>
    andThen (d.readBlock m b e (4096 * h.nbr + 8 * k) 8) fun w d =>
      if m.t.n ≤ w % 2 ^ 48 ∨ bitsOf w 63 52 ≠ 0 ∨ bitsOf w 51 48 ≠ t then (d, .ok ({ err := true }, some k))
      else if h.hasTime then
        andThen (d.readBlock m b e (4096 * h.time + 4 * k) 4) fun z d =>
          (d, .ok ({ valid := true, typ := t, node := w % 2 ^ 48, time := z, edge := k }, none))
      else (d, .ok ({ valid := true, typ := t, node := w % 2 ^ 48, edge := k }, none))

/-- R238 to R240: the children of a valid parent, each with the DETAIL of a fault of its own, and the draws made. -/
def Device.expand (d : Device) (m : Smp) (hop : Nat) (parent : SmpSlot) :
    Device × Except SmpErr (List (SmpSlot × Option Nat) × Nat) :=
  let b := parent.node / 16384
  let i := parent.node % 16384
  if d.fillWaits m.u.part m.x.handle m.epoch b then (d, .error .waits) else
  match d.lookup m.u.part m.u.idx m.x.handle m.epoch b with
  | (d, none) => (d, .error (.parent 0x1101 b))
  | (d, some e) =>
    andThen (d.readBlock m b e 0 64) fun v d =>
      match blockHdr m b e.tiles v with
      | none => (d, .error (.parent 0x0B01 b))
      | some h =>
        andThen (d.eligible m b e h i hop parent) fun ranges d =>
          andThen (d.chooseEdges m b e h i hop (m.x.fanout.getD (hop - 1) 0) parent.node ranges) fun r d =>
            andThen (forAll (fun k d => d.childSlot m b e h k) r.1 d) fun l d => (d, .ok (l, r.2))

/-! ### The walk -/

/-- What a walk has produced: its slots in trace order, each with the die that writes it; the codes logged; the draws by die; the
row-blocks found bad; whether a checksum fault has stopped it, and whether it waits for a tag. -/
structure Walk where
  slots : List SmpSlot := []
  writers : List Nat := []
  logged : List Nat := []
  draws : SMap Nat := []
  badBlocks : List Nat := []
  bad : Bool := false
  stopped : Bool := false
  waits : Bool := false
  deriving DecidableEq, Repr

/-- Slots put at the end of a trace by a die. -/
def Walk.put (w : Walk) (die : Nat) (l : List SmpSlot) : Walk :=
  { w with slots := w.slots ++ l, writers := w.writers ++ List.replicate l.length die }

/-- R250: the slots a die has written. -/
def Walk.slotsOn (w : Walk) (die : Nat) : List SmpSlot := ((w.slots.zip w.writers).filter fun x => x.2 == die).map Prod.fst

/-- R247: a fault of the walk, logged once per code. -/
def Walk.fault (w : Walk) (m : Smp) (code hop slot detail node : Nat) (d : Device) : Device × Walk :=
  if w.logged.contains code then (d, { w with bad := true })
  else (if code = 0x1101 then d else d.logSmp m.u.part m.u.die m.u.idx code hop slot detail node,
    { w with bad := true, logged := code :: w.logged })

/-- The walk as the die that takes slot s works on it. -/
def Smp.at (m : Smp) (s : Nat) : Smp := { m with u := { m.u with die := m.die s } }

/-- R247: the row-blocks of a hop's parents that are malformed or have a tile that is not INT32, whichever parent reads it: every
parent in them gets invalid children. -/
def Device.badBlocks (d : Device) (m : Smp) (hop : Nat) (parents : List SmpSlot) : List Nat :=
  parents.filterMap fun x =>
    match x.valid, (d.expand m hop x).2 with
    | true, .error (.parent 0x0B01 b) => some b
    | _, _ => none

/-- One parent's children put into the trace; s is the parent's slot number. -/
def Walk.parent (w : Walk) (m : Smp) (hop s : Nat) (x : SmpSlot) (d : Device) : Device × Walk :=
  let f := m.x.fanout.getD (hop - 1) 0
  let m := m.at s
  let block := x.node / 16384
  if w.stopped then (d, w)
  else if !x.valid then (d, w.put m.u.die (List.replicate f {}))
  else
    match if w.badBlocks.contains block then (d, .error (.parent 0x0B01 block)) else d.expand m hop x with
    | (d, .ok (l, draws)) =>
      let w := w.put m.u.die (l.map Prod.fst)
      let w := { w with draws := SMap.upd 0 w.draws m.u.die (· + draws) }
      l.zipIdx.foldl (fun (a : Device × Walk) c =>
        match c.1.2 with
        | none => a
        | some k => a.2.fault m 0x0B03 hop (f * s + c.2) k x.node a.1) (d, w)
    | (d, .error (.parent code detail)) =>
      (w.put m.u.die (List.replicate f { err := true })).fault m code hop (f * s) detail x.node d
    | (d, .error .waits) => (d, { w with stopped := true, waits := true })
    | (d, .error (.walk b)) =>
      let r := w.fault m 0x0B05 hop (f * s) b x.node d
      (r.1, { r.2 with stopped := true })

/-- R242: the walk, hop by hop. -/
def Walk.hops (m : Smp) : Nat → Nat → List SmpSlot → Walk → Device → Device × Walk
  | 0, _, _, w, d => (d, w)
  | n + 1, hop, parents, w, d =>
    let before := w.slots.length
    let w := { w with badBlocks := w.badBlocks ++ d.badBlocks m hop parents }
    let r := parents.zipIdx.foldl (fun (a : Device × Walk) x => a.2.parent m hop x.2 x.1 a.1) (d, w)
    if r.2.stopped then r else Walk.hops m n (hop + 1) (r.2.slots.drop before) r.2 r.1

/-- Hop 0 of a trace: the seeds. -/
def seedSlots (n : Nat) (bs : List Byte) (count : Nat) : List SmpSlot :=
  (List.range count).map fun i =>
    let w := ofLeBytes ((bs.drop (8 * i)).take 8)
    if w < n then { valid := true, node := w, edge := 2 ^ 32 - 1 } else { err := true }

/-- R241: the 64 header bytes of a trace. -/
def traceHeader (m : Smp) (mb seeds status : Nat) (slots : List SmpSlot) : List Byte :=
  leBytes 4 0x54535957 ++ leBytes 4 m.x.handle ++ leBytes 8 m.step ++ leBytes 2 mb ++ leBytes 1 m.x.hops ++
  leBytes 1 (m.x.mode + 4 * ofBool m.x.temporal + 8 * ofBool m.x.causal) ++ leBytes 4 m.x.fanWord ++ leBytes 4 seeds ++
  leBytes 4 ((hopSizes seeds m.x).foldl (· + ·) 0) ++ leBytes 8 m.epoch ++
  leBytes 4 (slots.filter (·.valid)).length ++ leBytes 4 (slots.filter (·.err)).length ++ leBytes 1 status ++ leBytes 15 0

/-- R242: the tiles of a trace written whole to its pieces, as dense INT32 records of EPOCH 0. -/
def Device.writeTrace (d : Device) (u : MemUser) (pieces : List Nat) (bytes : List Byte) : Device :=
  (List.range ((bytes.length + 4095) / 4096)).foldl (fun (d : Device) i =>
    match pieces[i / 16]? with
    | none => d
    | some o =>
      let data := (bytes.drop (4096 * i)).take 4096
      let ones := 2 ^ 64 - 1
      (d.writeTile u (d.ownAt (o + 4096 * (i % 16))) (hdrBody 0xA true ones f32One 0 0 0)
        (data ++ List.replicate (4096 - data.length) 0) []).1) d

/-- R250: the counts of a die after a walk. -/
def Device.countWalk (d : Device) (w : Walk) (die : Nat) : Device :=
  let d := d.setReg (.smpDraws die) (d.reg (.smpDraws die) + wordOf (SMap.at' 0 w.draws die))
  let d := d.setReg (.smpSlots die) (d.reg (.smpSlots die) + wordOf (w.slotsOn die).length)
  d.bump (.smpErrors die) Fd.smpErrorsErrSlots ((w.slotsOn die).filter (·.err)).length

/-- R242: a walk as it begins, with its seeds in hop 0. -/
def Smp.seeded (m : Smp) (hop0 : List SmpSlot) : Walk :=
  { slots := hop0, writers := (List.range hop0.length).map m.die }

/-- R242 steps 4 to 6: the walk of a SAMPLE whose trace is reserved; none while it waits for a tag. Its lowest die writes the
header, and counts the trace. -/
def Device.sampleWalk (d : Device) (p q : Nat) (c : Cmd) (m : Smp) (pieces : List Nat) (seedBytes : List Byte) : Option Device :=
  let mb := fieldOf c.desc.q6 15 0
  let count := fieldOf c.desc.q6 31 16 + 1
  let hop0 := seedSlots m.t.n seedBytes count
  let r := match hop0.zipIdx.find? fun s => s.1.err with
    | none => (d, m.seeded hop0)
    | some s => (m.seeded hop0).fault (m.at s.2) 0x0B04 0 s.2 s.2 (ofLeBytes ((seedBytes.drop (8 * s.2)).take 8)) d
  let r := Walk.hops m m.x.hops 1 hop0 r.2 r.1
  let d := r.1
  let w := r.2
  if w.waits then none
  else
    let header := traceHeader m mb count (if w.stopped then 2 else 1) w.slots
    let d := d.writeTrace m.u pieces (header ++ w.slots.flatMap SmpSlot.bytes)
    let d := m.dies.foldl (fun (d : Device) die => d.countWalk w die) d
    let d := if w.stopped then d.bump (.smpErrors m.u.die) Fd.smpErrorsFailed
      else d.bump (.smpPartStatus m.u.die p) Fd.smpPartStatusTraces
    some (d.workEnds p q c.idx (if w.bad then 4 else 0))

/-- The lowest die of a mask. -/
def lowestDie (mask : Nat) : Nat := (bitList 4 mask).headD 0

/-- What a SAMPLE works with, once its table is known. -/
def Device.smpOf (d : Device) (p : Nat) (c : Cmd) (ws : List Word) (t : Table) : Smp :=
  let mask := fieldOf c.desc.q6 43 40
  { u := { d.userOf p c 0 with die := lowestDie mask }, x := smpDesc ws, t := t, epoch := (d.part p).epochOf c.gen (smpDesc ws).handle
    seed := (d.part p).seed, step := c.stepNo, dies := bitList 4 mask }

/-- R242 step 3, R315: a SAMPLE takes its trace from its open segment and walks; it waits while the segment is not open. The pieces taken
stay reserved, kept in the command, while the walk waits. -/
def Device.sampleReserve (d : Device) (p q : Nat) (c : Cmd) : Device :=
  let mb := fieldOf c.desc.q6 15 0
  let i := d.segOf p mb
  let s := (d.part p).seg i
  let ws := wordsOf 8 (SMap.at' [] c.got 0)
  match d.table p (smpDesc ws).handle with
  | none => d.workEnds p q c.idx 4
  | some t =>
    let m := d.smpOf p c ws t
    let seeds := SMap.at' [] c.got 1
    if !c.aux.isEmpty then (d.sampleWalk p q c m c.aux seeds).getD d
    else if !(d.cisOn p && s.isOpen && s.mb == mb) then d
    else
      let die := lowestDie s.dies
      if !s.entries.isEmpty then (d.logStep p 0x0E05 2 die 0 c.idx mb 0 0 c.stepNo).workEnds p q c.idx 4
      else
        let bytes := 64 + 16 * (hopSizes (fieldOf c.desc.q6 31 16 + 1) m.x).foldl (· + ·) 0
        match d.pushEntry p i die 0 ((bytes + 65535) / 65536) 0 c.idx c.stepNo with
        | (d, false) => d.workEnds p q c.idx 4
        | (d, true) =>
          let pieces := (((d.part p).seg i).entries.headD { off := 0, len := 0, die := 0, pieces := [] }).pieces
          let d := d.updCmd p q c.idx fun x => { x with aux := pieces }
          (d.sampleWalk p q c m pieces seeds).getD d

/-- R242 steps 1 and 2: the descriptor and the seeds are read and checked. -/
def Device.sampleStart (d : Device) (p q : Nat) (c : Cmd) : Device :=
  let die := lowestDie (fieldOf c.desc.q6 43 40)
  let u := { d.userOf p c 0 with die := die }
  let count := fieldOf c.desc.q6 31 16 + 1
  match andThen (d.readDva u c.desc.q4.toNat 64) fun bs d => andThen (d.readDva u c.desc.q5.toNat (8 * count)) fun seeds d =>
      (d, Except.ok (bs, seeds)) with
  | (d, .error e) => d.unitError p q c 0 e
  | (d, .ok (bs, seeds)) =>
    let ws := wordsOf 8 bs
    let h := (smpDesc ws).handle
    let t := if (d.part p).epochOf c.gen h = 0 then none else d.table p h
    match smpFault ws count t with
    | some detail =>
      let d := d.bump (.smpErrors die) Fd.smpErrorsBadDesc
      (d.logSmp p die c.idx 0x0B06 0 0 detail 0).workEnds p q c.idx 4
    | none =>
      let got : SMap (List Byte) := [(0, bs), (1, seeds)]
      (d.updCmd p q c.idx fun x => { x with begun := true, got := got }).sampleReserve p q { c with begun := true, got := got }

/-- R250: SMP_CTRL.CLEAR_COUNTS of a die. -/
def Device.smpClear (d : Device) (die : Nat) : Device := d.resetRegs [.smpDraws die, .smpSlots die, .smpErrors die]

/-! ### The meanings -/

/-- SAMPLE. -/
def execSample (p q idx : Nat) (io : MemIo) (s : State) : Result :=
  run (fun d => ((d.withIo io).work p q idx 0x40 fun c d => if c.begun then d else d.sampleStart p q c).endIo) s

/-- TRACE_RESERVATION_GRANT: the segment of a waiting SAMPLE is open. -/
def execTraceReservationGrant (p q idx : Nat) (io : MemIo) (s : State) : Result :=
  run (fun d => ((d.withIo io).work p q idx 0x40 fun c d => if c.begun then d.sampleReserve p q c else d).endIo) s

/-- SMP_CLEAR_COUNTS: SMP_CTRL.CLEAR_COUNTS of a die. -/
def execSmpClearCounts (die : Nat) (s : State) : Result := run (·.smpClear die) s

end Sys2Proof.Machine
end

