-- ==== Sys2Proof/Machine/Links.lean ====
section
/-! DEFINITION. Wilat Link (R347 to R368): flits, link-level retry, credits, packets and their ports, requests to other
chips and their tags. -/

namespace Sys2Proof.Machine

/-! ### Flits (R350 to R352) -/

/-- R350: a received flit's CRC is good. -/
def flitGood (bs : List Byte) : Bool := bs.length == 256 && ofLeBytes (bs.take 4) == crc32c (bs.drop 4)

/-- Bits of a received flit's header. -/
def flitBits (bs : List Byte) (hi lo : Nat) : Nat := bitsOf (ofLeBytes (bs.take 16)) hi lo

/-- Body slots of a received data flit put into the receiver: whole packets go to its receive buffer (R358). -/
def Port.takeSlots (vc sop : Nat) : List (Nat × BitVec 128) → Port → Port
  | [], x => x
  | (i, s) :: rest, x =>
    let k := (if bitOf sop i then [] else SMap.at' [] x.part vc) ++ [s]
    let x := if k.length = max 1 (pktLen k) then
        { x with part := SMap.set (fun _ => []) x.part vc [], rx := x.rx ++ [(vc, k)] }
      else { x with part := SMap.set (fun _ => []) x.part vc k }
    Port.takeSlots vc sop rest x

/-- R349: flit i of the 1,285 that 512 codewords of 5,140 message bits carry is the first that a codeword reaches into. -/
def wordBegins (i : Nat) : Bool := i == 0 || (2048 * i + 2047) / 5140 != (2048 * i - 1) / 5140

/-- R349, R352: a flit arrives on a port, and with it the codeword that begins in it, if one does: the bits corrected in it, at most 15
symbols, or none where it could not be corrected. Gives whether a failed codeword overlaps the flit. -/
def Device.codeword (d : Device) (n : Nat) (word : Option Nat) : Device × Bool :=
  let x := d.port n
  let fresh := wordBegins x.cwFlit
  let r := if fresh then d.inject 4 (some n) none else (d, none)
  let bits := if r.2.isSome then none else word.filter fun b => decide (b ≤ 150)
  let lost := fresh && bits.isNone
  let d := if lost then r.1.bump (.lnkPortFec n) Fd.lnkPortFecUncorrectable
    else if fresh then r.1.bump (.lnkPortFec n) Fd.lnkPortFecCorrectedBits (bits.getD 0) else r.1
  (d.setPort n { x with
    cwFlit := (x.cwFlit + 1) % 1285, cwBad := if fresh then lost else x.cwBad
    badWords := if lost then d.now :: x.badWords.take 1000 else x.badWords }, lost || (x.cwFlit != 0 && x.cwBad))

/-- R352: more than 1,000 codewords of a port could not be corrected within the last 1 ms. -/
def Device.wordsLost (d : Device) (n : Nat) : Bool :=
  decide (1000 < ((d.port n).badWords.filter fun t => decide (d.now.toNat < t.toNat + 1000000)).length)

/-- R351: a data or idle flit that no failed codeword overlaps, or a failed one: it is accepted, or discarded and a resend asked for. A
flit for which its channel's receive buffer has no room breaks R356 and is discarded so too (DESIGN CHOICE, log entry 136). -/
def Device.takeFlit (d : Device) (n : Nat) (bs : List Byte) (failed : Bool) : Device :=
  let x := d.port n
  let typ := flitBits bs 127 124
  let vc := flitBits bs 111 110
  let used := flitBits bs 94 91
  let good := !failed && flitGood bs && decide (typ ≤ 1)
  if good && typ == 0 then d
  else if good && flitBits bs 123 112 == x.expSeq && decide (x.rxUsed vc + used ≤ rxSlots vc) then
    let slots := (slotsOf (bs.drop 16)).take used
    let x := Port.takeSlots vc (flitBits bs 109 95) (slots.zipIdx.map fun s => (s.2, s.1)) x
    let next := (x.expSeq + 1) % 4096
    let whole := decide ((d.port n).rx.length < x.rx.length)
    (d.setPort n { x with expSeq := next, nak := false, wholeSeq := if whole then next else x.wholeSeq }).countFlits n 0 1
  else d.setPort n { x with nak := true }

/-- R350: a frame begins: idle flits have filled the rest of the one before, the control flit leaves, and data flits that waited follow
it. -/
def Device.controlSend (d : Device) (n : Nat) : Device :=
  let x := d.port n
  let counts := (List.range 4).flatMap fun vc => leBytes 4 (SMap.at' 0 x.freed vc)
  let d := if x.frame < frameFlits then d.emit (.idle n (frameFlits - x.frame)) else d
  let d := (d.setPort n { x with frame := 0 }).emit
    (.flit n (flitBytes (2 * 2 ^ 92 + x.expSeq * 2 ^ 80 + ofBool x.nak * 2 ^ 79) (leBytes 8 d.now.toNat ++ counts)))
  if d.portState n = 5 then d else d.pumpFlits n

/-- The distance from one SEQ on to another. -/
def seqAfter (a b : Nat) : Nat := (b + 4096 - a) % 4096

/-! ### Retraining and failover (R352 to R354) -/

/-- R354: the packets that begin at or after a SEQ among a port's unacknowledged flits. -/
def packetsFrom : List TxFlit → Packet → List Packet
  | [], k => if k.isEmpty then [] else [k]
  | f :: rest, k =>
    if f.sop = 1 then (if k.isEmpty then [] else [k]) ++ packetsFrom rest f.slots
    else if k.isEmpty then packetsFrom rest []
    else packetsFrom rest (k ++ f.slots)

/-- R354: the flits of the packet that the last of a list of flits belongs to. -/
def lastPacket (l : List TxFlit) : List TxFlit := l.foldl (fun a f => if f.sop = 1 then [f] else a ++ [f]) []

/-- R354: the acknowledged flits that a packet whose later flits are not acknowledged still needs: had are those acknowledged last, left those
that are not. -/
def keptFlits (had left : List TxFlit) : List TxFlit :=
  match left with
  | [] => []
  | f :: _ => if f.sop = 1 then [] else lastPacket had

/-- A management packet to the switch of a plane: what it says, and the packet, of which the spec gives no more than its type and
subtype. -/
def Device.mgmtOpen (d : Device) (plane sub : Nat) (m : MgmtMsg) : Device :=
  let (w, d) := d.freeValue
  (d.emit (.mgmt plane m)).sendPacket plane [pktHeader 0xE (fieldOf w 13 0) d.chip plane 1 0 0 0 none 0 (sub + 256 * fieldOf w 51 14)]

/-- R371, R391: a GROUP message to another chip: what it tells it, and the packet that carries it, whose plane and further contents
the spec leaves open. -/
def Device.sendGroup (d : Device) (chip : Nat) (o : Out) : Device :=
  let (w, d) := d.freeValue
  (d.emit o).sendPacket (fieldOf w 1 0)
    [pktHeader 0xE chip d.chip (fieldOf w 3 2) 1 0 0 0 none 0 (7 + 256 * fieldOf w 41 4)]

/-- R353: retrains of a port in the last 60 s. -/
def Device.recentRetrains (d : Device) (n : Nat) : Nat :=
  ((d.port n).retrains.filter fun t => decide (d.now.toNat < t.toNat + 60000000000)).length

/-- R353, R354: a port FAILED: another READY port of its plane asks the switch what it has; without one, what the plane's ports
have not had acknowledged is lost, and 0x1003 says how many packets. -/
def Device.portFail (d : Device) (n : Nat) : Device :=
  let x := d.port n
  let d := d.setPortState n 6
  let d := d.logLink moduleRing 0x1002 3 n (n / 7) 0 0 0 0 (wordOf (d.recentRetrains n)) 0
  let d := d.bump (.lnkPortRetry n) Fd.lnkPortRetryFailovers
  if (planePorts (n / 7)).any fun m => d.portState m == 4 then
    (d.setPort n { x with replay := [], kept := [], later := [], mgmt := [], unsent := x.kept ++ x.replay }).mgmtOpen (n / 7) 3 (.seqQuery n)
  else
    let asked := (planePorts (n / 7)).flatMap fun m => packetsFrom (d.port m).unsent []
    let lost := (packetsFrom (x.kept ++ x.replay) []).length + asked.length
    let d := (planePorts (n / 7)).foldl (fun (d : Device) m => if (d.port m).unsent = [] then d else d.setPort m { d.port m with unsent := [] }) d
    let d := d.setPort n { d.port n with replay := [], kept := [], later := [], mgmt := [], part := [] }
    if lost = 0 then d else d.logLink moduleRing 0x1003 2 n (n / 7) 0 0 0 0 (wordOf lost) 0

/-- R354: the switch's answer for a FAILED port: packets that begin at or after its SEQ leave again, whole, on the plane's other
ports. -/
def Device.seqReply (d : Device) (n seq : Nat) : Device :=
  let x := d.port n
  let rest := x.unsent.drop (seqAfter ((x.unsent.map (·.seq)).headD seq) seq)
  (packetsFrom rest []).foldl (fun (d : Device) k => d.sendPacket (n / 7) k) (d.setPort n { x with unsent := [] })

/-- R352, R353: a READY port goes to RETRAINING for a trigger; no new data flit leaves. The third retrain within 60 s makes it FAILED. -/
def Device.portRetrain (d : Device) (n trigger : Nat) : Device :=
  if d.portState n = 4 then
    let x := d.port n
    let d := (d.setPort n { x with replays := 0, retrains := d.now :: x.retrains }).setPortState n 5
    let d := (d.bump (.lnkPortRetry n) Fd.lnkPortRetryRetrains).logLink moduleRing 0x1001 1 n (n / 7) 0 0 0 0 (wordOf trigger) 0
    if 3 ≤ d.recentRetrains n then d.portFail n else d
  else d

/-! ### Control flits (R351, R356) -/

/-- R356: management packets that wait on a port leave as far as its credit goes. -/
def Device.mgmtGo (n : Nat) : List Packet → Device → Device
  | [], d => d.setPort n { d.port n with mgmt := [] }
  | k :: ks, d =>
    if k.length ≤ (d.port n).creditOf 3 then Device.mgmtGo n ks (d.sendOn n 3 k)
    else d.setPort n { d.port n with mgmt := k :: ks }

/-- R351, R356: a control flit arrives, with the codewords that overlap it: flits it acknowledges leave the replay buffer, freed slots are
credit again, and a NAK resends the rest in order. The eighth replay from one SEQ retrains the port (R352). -/
def Device.takeControl (d : Device) (n : Nat) (bs : List Byte) (failed : Bool) : Device :=
  if failed = true ∨ flitGood bs = false ∨ flitBits bs 127 124 ≠ 2 then d
  else
    let x := d.port n
    let ack := flitBits bs 123 112
    let first := (x.replay.map (·.seq)).headD x.nextSeq
    let acked := seqAfter first ack
    let progress := decide (0 < acked) && decide (acked ≤ x.replay.length)
    let left := x.replay.drop acked
    let x := if progress then { x with replay := left, kept := keptFlits (x.kept ++ x.replay.take acked) left, replays := 0 } else x
    let x := (List.range 4).foldl (fun (x : Port) vc =>
      let c := ofLeBytes ((bs.drop (24 + 4 * vc)).take 4)
      let got := (c + 2 ^ 32 - SMap.at' 0 x.counted vc) % 2 ^ 32
      { x with
        credit := SMap.set (fun _ => 0) x.credit vc (x.creditOf vc + got), counted := SMap.set (fun _ => 0) x.counted vc c }) x
    let resend := flitBits bs 111 111 == 1 && !x.replay.isEmpty
    let x := if resend then { x with replays := x.replays + 1, later := x.replay } else x
    let d := Device.mgmtGo n x.mgmt (d.setPort n x)
    if resend then
      let d := (d.pumpFlits n).bump (.lnkPortRetry n) Fd.lnkPortRetryReplays
      if 8 ≤ x.replays then d.portRetrain n 2 else d.drainTx
    else d.drainTx

/-- R349, R352: f acts on a flit that arrives, by whether a failed codeword overlaps it; then the port retrains where too many codewords
could not be corrected. -/
def Device.onFlit (d : Device) (n : Nat) (word : Option Nat) (f : Device → Bool → Device) : Device :=
  let r := d.codeword n word
  let d := f r.1 r.2
  if d.wordsLost n then d.portRetrain n 3 else d

/-- R351: flits resent from the peer's ACK once a port is READY again (R352). -/
def Device.portReplay (d : Device) (n : Nat) : Device :=
  ((d.setPort n { d.port n with later := (d.port n).replay }).pumpFlits n).drainTx

/-! ### Receive buffers -/

/-- The first packet a port's receive buffer holds of a kind: its port and channel, and the packet. -/
def Device.nextPacket (d : Device) (want : Packet → Bool) : Option (Nat × Nat × Packet) :=
  (List.range 28).findSome? fun n => ((d.port n).rx.find? fun r => want r.2).map fun r => (n, r.1, r.2)

/-- R356: a packet is consumed: its slots are freed. -/
def Device.consume (d : Device) (n vc : Nat) (k : Packet) : Device :=
  let x := d.port n
  d.setPort n { x with
    rx := x.rx.erase (vc, k), freed := SMap.set (fun _ => 0) x.freed vc ((SMap.at' 0 x.freed vc + k.length) % 2 ^ 32) }

/-- R358: a packet is of no type that exists, or is for another chip. -/
def Device.misrouted (d : Device) (k : Packet) : Bool :=
  !(pktType k ∈ [1, 2, 3, 4, 5, 8, 9, 0xE]) || pktDest k != d.chip

/-- A row of one packet type: the first packet of that type for this chip is consumed and f acts on it. -/
def Device.onPacket (d : Device) (typ : Nat) (f : Packet → Device → Device) (sub : Nat := 0) : Device :=
  match d.nextPacket fun k => pktType k == typ && !d.misrouted k && (typ != 0xE || pktAddr k % 256 == sub) with
  | none => d
  | some (n, vc, k) => f k (d.consume n vc k)

/-- A response to a request packet, to the die that issued it. -/
def Device.respond (d : Device) (k : Packet) (typ status addr : Nat) (data : Packet) : Device :=
  d.sendPacket (pktDie k) (pktHeader typ (pktSrc k) d.chip (pktDie k) (1 + data.length) (pktTag k) status 0 none 0 addr :: data)

/-- R358: a packet carries a tag: a request does; of a reserved type, whose fields are not given, one whose TAG is not 0 (DESIGN CHOICE, log
entry 137). -/
def pktTagged (k : Packet) : Bool := pktType k ∈ [1, 2, 3, 4, 5] || (!(pktType k ∈ [8, 9, 0xE]) && pktTag k != 0)

/-- R358: a packet that may not come here is answered with STATUS 9 where it carries a tag, or dropped; 0x1007 either way. -/
def Device.misroute (d : Device) : Device :=
  match d.nextPacket d.misrouted with
  | none => d
  | some (n, vc, k) =>
    let d := d.consume n vc k
    let d := if pktTagged k then d.respond k (if pktType k = 1 then 8 else 9) 9 (pktAddr k) [] else d
    d.logLink moduleRing 0x1007 0 n (n / 7) (pktSrc k) 0 0 (pktType k) (wordOf ((k.headD 0).toNat / 2 ^ 64)) 0

/-! ### Requests to other chips (R222, R223, R368) -/

/-- R360: the plane of a request: the die of its offset, a signal's counting die, or the die that holds a contribution's row. -/
def Request.planeOf (r : Request) : Nat :=
  if pktType r.pkt = 4 then ((pktFlow r.pkt).getD 0) % 4
  else if pktType r.pkt = 3 then r.plane
  else dieOfOffset (pktAddr r.pkt * 16)

/-- R363: a WRITE or READ waits while its die still awaits the ACK of an earlier WRITE of another command to the same 512-byte
granule of the same chip. -/
def Device.granuleHeld (d : Device) (r : Request) : Bool :=
  let granules := fun (k : Packet) =>
    let first := pktAddr k / 32
    let n := if pktType k = 1 then pktRdlen k + 1 else pktLen k - 1
    (first, (pktAddr k + n - 1) / 32)
  (pktType r.pkt == 1 || pktType r.pkt == 2) && d.reqs.any fun e =>
    (e.2.map fun x =>
      x.die == r.die && x.tag.isSome && pktType x.pkt == 2 && pktDest x.pkt == pktDest r.pkt && x.status.isNone &&
        !(x.part == r.part && x.q == r.q && x.idx == r.idx) && decide ((granules x.pkt).1 ≤ (granules r.pkt).2) &&
        decide ((granules r.pkt).1 ≤ (granules x.pkt).2)).getD false

/-- R259: a READ for rows of a GATHER. -/
def Request.isRow (r : Request) : Bool := pktType r.pkt == 1 && !r.rows.isEmpty

/-- R259: the thread that a row read works for: the command and its row group. -/
def Request.thread (r : Request) : Nat × Nat × Nat := (r.q, r.idx, r.item / 4096)

/-- R422: a thread none of whose rows has arrived is not begun where the command takes no new unit. -/
def Device.newThreadHeld (d : Device) (r : Request) : Bool :=
  match d.cmd? r.part r.q r.idx with
  | none => false
  | some c => d.drains r.part c.desc && !(c.got.any fun e => e.1 / 64 == r.item / 4096)

/-- R259, R260: a row read of a GATHER waits for its thread. A partition's threads on a die are given to its row groups in the order of
their first reads, each until its last is used: THREAD_LIMIT of them to the partition and 256, one engine's, to the command, whose grant
is one engine on the die (R129). A thread keeps 8 rows in flight, and an engine holds REMOTE_CAP tags. -/
def Device.threadHeld (d : Device) (r : Request) : Bool :=
  r.isRow &&
    let all := d.reqs.filterMap fun e => e.2.bind fun x => if x.die = r.die ∧ x.part = r.part ∧ x.isRow = true then some x else none
    let threads := (all.map (·.thread)).eraseDups
    let mine := threads.filter fun t => t.1 == r.q && t.2.1 == r.idx
    let tagged := all.filter fun x => x.tag.isSome && x.q == r.q && x.idx == r.idx
    let rows := ((tagged.filter fun x => x.thread == r.thread).map (·.item)).eraseDups
    !((threads.take (clampTo 1 4096 (d.fld (.gthPartCfg r.die r.part) Fd.gthPartCfgThreadLimit))).contains r.thread &&
      (mine.take 256).contains r.thread) ||
    (!rows.contains r.item && decide (8 ≤ rows.length)) ||
    (rows.isEmpty && d.newThreadHeld r) ||
    decide (clampTo 16 4095 (d.fld (.gthCfg r.die) Fd.gthCfgRemoteCap) ≤ tagged.length)

/-- R223: a request that finds the wait store of its die full, 8,192 requests made before it and waiting without a tag, stays with its
engine, whose Sluice credit has stopped. -/
def Device.storeFull (d : Device) (id : Nat) (r : Request) : Bool :=
  decide (8192 ≤ d.reqs.length) &&
    decide (8192 ≤ (d.reqs.filter fun e => decide (e.1 < id) &&
      (e.2.map fun x => x.die == r.die && x.tag.isNone && x.status.isNone && !d.threadHeld x).getD false).length)

/-- R222, R223: a request takes the lowest free tag of its die and leaves, where the pool and its target's quota have one. -/
def Device.tryTag (d : Device) (id : Nat) : Device :=
  match SMap.at' none d.reqs id with
  | none => d
  | some r =>
    if r.tag.isSome ∨ d.granuleHeld r = true ∨ d.threadHeld r = true ∨ d.storeFull id r = true then d
    else
      match d.freeTag r.die (pktDest r.pkt) with
      | none => d
      | some t =>
        let k := withTag r.pkt t
        ({ d with reqs := SMap.set (fun _ => none) d.reqs id (some { r with tag := some t, pkt := k }) }).sendPacket r.planeOf k

/-- A request made: it takes a tag and leaves, or waits for one. Gives its serial number. -/
def Device.request (d : Device) (r : Request) : Device × Nat :=
  let id := d.nextReq
  (({ d with reqs := SMap.set (fun _ => none) d.reqs id (some r), nextReq := id + 1 }).tryTag id, id)

/-- The request that a response belongs to, by die and tag. -/
def Device.reqByTag (d : Device) (die tag : Nat) : Option (Nat × Request) :=
  d.reqs.findSome? fun e => e.2.bind fun r => if r.die = die ∧ r.tag = some tag then some (e.1, r) else none

/-- A request changed. -/
def Device.setReq (d : Device) (id : Nat) (r : Option Request) : Device :=
  { d with reqs := SMap.set (fun _ => none) d.reqs id r }

/-- R375, R217: a request is absorbed: its tag is free when its response returns, which is discarded; one that holds no tag, or was
answered RETRY, is gone. -/
def Device.dropReq (d : Device) (id : Nat) (r : Request) : Device :=
  d.setReq id (if r.tag.isSome ∧ r.status.isNone ∧ r.retry = false then some { r with part := 0xFF } else none)

/-- R374: the last quadword of a record of a request: the global address, or the flow of a packet that has none. -/
def Request.place (r : Request) : Word :=
  if pktType r.pkt = 3 ∨ pktType r.pkt = 4 then wordOf ((pktFlow r.pkt).getD 0) else wordOf (pktDest r.pkt * 2 ^ 50 + pktAddr r.pkt * 16)

/-- R368, R374: a request ends: its tag returns to its pool; a timeout (0xF) or a STATUS that the rule names logs 0x1004, marked INJECTED
where the test engine made it (R436). -/
def Device.endReq (d : Device) (id : Nat) (r : Request) (status : Nat) (injected : Bool := false) : Device :=
  let d := d.setReq id (if r.part = 0xFF then none else some { r with tag := none, status := some status, retry := false })
  if status ∉ [1, 2, 3, 4, 6, 7, 9, 15] ∨ r.part = 0xFF then d
  else
    d.logLink (if r.part < 8 then r.part else moduleRing) 0x1004 2 0xFF r.die (pktDest r.pkt) r.idx status (pktType r.pkt)
      (wordOf status) r.place injected

/-- R359, R368: a READ_RESP is placed by its ADDR; the tag is free when all have come, or when one ends the request. -/
def Device.readResp (d : Device) (k : Packet) : Device :=
  match d.reqByTag (pktDie k) (pktTag k) with
  | none => d
  | some (id, r) =>
    if pktType r.pkt ≠ 1 then d
    else
      let (d, inj) := d.inject 5 (some r.die) (if r.part < 8 then some r.part else none)
      let st := (inj.map (clampTo 1 9)).getD (pktStatus k)
      if st = 10 then d.setReq id (some { r with held := true })
      else if st ≠ 0 then d.endReq id r st inj.isSome
      else
        let got := (k.drop 1).zipIdx.foldl (fun (m : SMap (Option (BitVec 128))) s =>
          SMap.set (fun _ => none) m (pktAddr k + s.2) (some s.1)) r.got
        let r := { r with got := got }
        if pktRdlen r.pkt + 1 ≤ got.length then d.endReq id r 0 else d.setReq id (some r)

/-- R222, R223: tags are free: the oldest waiting request of a die that can take one takes it. -/
def Device.tagFree (d : Device) (die : Nat) : Device :=
  d.reqs.foldl (fun (d : Device) e =>
    match e.2 with
    | some r => if r.die = die ∧ r.tag.isNone ∧ r.status.isNone then d.tryTag e.1 else d
    | none => d) d

/-- R364: the lowest delivery flow of a die that is free, allocated to a command. -/
def Device.takeFlow (d : Device) (die p q idx : Nat) : Device × Option Nat :=
  match (List.range 4096).find? fun f => (SMap.at' none d.outFlows (4096 * die + f)).isNone with
  | none => (d, none)
  | some f => ({ d with outFlows := SMap.set (fun _ => none) d.outFlows (4096 * die + f) (some (p, q, idx)) }, some f)

/-- R364: a flow is freed. -/
def Device.freeFlow (d : Device) (die f : Nat) : Device :=
  { d with outFlows := SMap.set (fun _ => none) d.outFlows (4096 * die + f) none }

end Sys2Proof.Machine
end

