-- ==== Sys2Proof/Machine/Gather.lean ====
section
/-! DEFINITION. Gather and scatter (chapter 12): positions (R255), GATHER and its row reads and deliveries (R256 to R262),
SCATTER (R263 to R265) and the contribution log (R266 to R268). -/

namespace Sys2Proof.Machine

/-! ### Records (R270) -/

/-- R270: a gather (class 4) or scatter (class 5) record on partition p's ring, with the engine or unit its die's arbiter gave the
work to (R17), and GTH_LAST_FAULT of its die. -/
def Device.logGth (d : Device) (p code cls die idx pos handle row : Nat) (detail : Word) : Device :=
  ({ d with free := d.free + 1 }.log p
    { code := code, cls := 2, part := p, die := die
      body := [wordOf (die + anEngine d.free cls * 2 ^ 8 + cls * 2 ^ 16 + (idx % 2 ^ 32) * 2 ^ 32), wordOf (pos % 2 ^ 32 + handle * 2 ^ 32), wordOf row, detail] }).setReg
    (.gthLastFault die) (wordOf (code * 2 ^ 48 + p * 2 ^ 45 + (cls - 4) * 2 ^ 44 + idx % 2 ^ 32))

/-- R17, R259, R265: the die whose engines do a position's work: the row groups of a GATHER fall to the partition's dies in turn; a
SCATTER has one delivery flow, and so one die (DESIGN CHOICE, log entry 53). -/
def Device.posDie (d : Device) (p : Nat) (c : Cmd) (pos : Nat) : Nat :=
  if opcodeOf c.desc = 0x50 then d.workDie p (pos / 64) else d.homeDie p

/-- R270: a fault of a command: logged once per code, with its first position; the command ends with STATUS 0x04. -/
def Device.gthFault (d : Device) (p q idx code pos row : Nat) (detail : Word) : Device :=
  match d.cmd? p q idx with
  | none => d
  | some c =>
    let first := !c.logged.contains code
    let d := d.updCmd p q idx fun x => { x with bad := true, logged := if first then x.logged ++ [code] else x.logged }
    if first then
      d.logGth p code (if opcodeOf c.desc = 0x51 then 5 else 4) (d.posDie p c pos) idx pos (fieldOf c.desc.q4 63 32) row detail
    else d

/-! ### Positions (R255) -/

/-- The code of a row at a position: 0 for none, 1 + row for a row. -/
def rowCode (n w : Nat) : Nat := if w < 2 ^ 48 ∧ w < n then w + 1 else 0

/-- R255: the positions of an index list, as index words; none for an absent one. -/
def listPositions (ws : List Nat) : List (Option Nat) := ws.map fun w => if w = 2 ^ 64 - 1 then none else some w

/-- R255: the positions of the selected hops of a trace: its slots' first quadwords. -/
def tracePositions (compact : Bool) (ws : List Nat) : List (Option Nat) :=
  let l := ws.map fun w => if bitOf w 63 then some (w % 2 ^ 48) else none
  if compact then l.filter (·.isSome) else l

/-- R241: the slots of each hop of a trace, from its header. -/
def traceHops (hdr : List Byte) : List Nat :=
  let fan := hdrField hdr 20 4
  (List.range (hdrField hdr 18 1 + 1)).map fun h =>
    ((List.range h).map fun i => bitsOf fan (8 * i + 7) (8 * i)).foldl (· * ·) (hdrField hdr 24 4)

/-- R255: the positions of a command, read from its list or its trace. -/
def Device.positions (d : Device) (u : MemUser) (x : Desc) : Device × Except MemErr (List (Option Nat)) :=
  if bitOf x.q4.toNat 9 then
    andThen (d.readDva u x.q5.toNat 8) fun bs d =>
      let n := ofLeBytes bs
      if n = 0 ∨ 4194304 < n then (d, .ok [some (2 ^ 64 + n)])
      else
        andThen (d.readDva u (x.q5.toNat + 8) (8 * n)) fun bs d =>
          (d, .ok (listPositions ((wordsOf n bs).map (·.toNat))))
  else
    let base := d.segBase u.part (d.segOf u.part (fieldOf x.q4 31 16))
    andThen (d.readDva u base 64) fun hdr d =>
      let sizes := traceHops hdr
      andThen (forAll (fun h d =>
          if bitOf (fieldOf x.q4 15 11) h then
            let n := sizes.getD h 0
            andThen (d.readDva u (base + 64 + 16 * (sizes.take h).foldl (· + ·) 0) (16 * n)) fun bs d =>
              (d, .ok (tracePositions (bitOf x.q4.toNat 10) ((List.range n).map fun i => ofLeBytes ((bs.drop (16 * i)).take 8))))
          else (d, .ok [])) (List.range sizes.length) d)
        fun ls d => (d, .ok ls.flatten)

/-! ### GATHER -/

/-- What a GATHER or SCATTER works with: its table, bound epoch and who works. -/
structure Gth where
  p : Nat
  q : Nat
  c : Cmd
  h : Nat
  t : Table
  epoch : Nat
  u : MemUser

/-- R252: the table and epoch a command is bound to. A table that its step does not bind has epoch 0, at which no row is placed (R384);
a handle of no table, whose rows have no size, gives nothing (log entry 133). -/
def Device.gthOf (d : Device) (p q : Nat) (c : Cmd) : Option Gth :=
  let h := fieldOf c.desc.q4 63 32
  (d.table p h).map fun t =>
    { p := p, q := q, c := c, h := h, t := t, epoch := (d.part p).epochOf c.gen h
      u := { d.userOf p c c.unit with die := d.posDie p c (64 * c.unit) } }

/-- What works on a position of a command. -/
def Device.atPos (d : Device) (g : Gth) (pos : Nat) : Gth :=
  { g with u := { g.u with unit := pos / 64, die := d.posDie g.p g.c pos } }

/-- The requests to other chips that a command has made and not yet used. -/
def Device.cmdReqs (d : Device) (p q idx : Nat) : List (Nat × Request) :=
  d.reqs.filterMap fun e => e.2.bind fun r => if r.part = p ∧ r.q = q ∧ r.idx = idx then some (e.1, r) else none

/-- A command's requests are forgotten; responses that still come are discarded. -/
def Device.dropReqs (d : Device) (p q idx : Nat) : Device :=
  (d.cmdReqs p q idx).foldl (fun (d : Device) e => d.dropReq e.1 e.2) d

/-- R144: scale bytes of a tile row of a table's rows; 0 for a format without them. -/
def Table.rowScale (t : Table) : Nat := if isMx t.fmt then mxRowScales t.fmt else 0

/-- R251: the unit of a row, its tile there, and its first byte in the tile. -/
def Table.rowAt (t : Table) (row : Nat) : Nat × Nat × Nat :=
  (t.unitOfRow row, row / t.rowsPerTile % 512, row % t.rowsPerTile * t.rowBytes)

/-- R259: what a row read needs of another chip: its position, the die whose engine reads, the chip and tile, and the slots of its bytes
and scale bytes. -/
structure RowNeed where
  pos : Nat
  die : Nat
  chip : Nat
  tile : Nat
  slots : List Nat
  deriving DecidableEq, Repr

/-- The slots of n bytes from an offset. -/
def slotRange (off n : Nat) : List Nat := (List.range ((off + n + 15) / 16 - off / 16)).map (· + off / 16)

/-- A number put into a rising list. -/
def insertNat (x : Nat) : List Nat → List Nat
  | [] => [x]
  | y :: ys => if x < y then x :: y :: ys else if x = y then y :: ys else y :: insertNat x ys

/-- R359: a rising list of slots cut into runs of at most 16, as first slot and count. -/
def slotRuns : List Nat → List (Nat × Nat)
  | [] => []
  | s :: rest =>
    match slotRuns rest with
    | (a, n) :: more => if s + 1 = a ∧ n < 16 then (s, n + 1) :: more else (s, 1) :: (a, n) :: more
    | [] => [(s, 1)]

/-- R259, R359: the READs that bring what an engine needs of one tile, merged: each slot is asked for once (DESIGN CHOICE, log
entry 134). -/
def Device.readTileOf (d : Device) (g : Gth) (needs : List RowNeed) : Device :=
  match needs with
  | [] => d
  | n :: _ =>
    (slotRuns ((needs.flatMap (·.slots)).foldr insertNat [])).foldl (fun (d : Device) r =>
      let rows := (needs.filter fun x => x.slots.any fun s => decide (r.1 ≤ s) && decide (s < r.1 + r.2)).map (·.pos)
      (d.request
        { part := g.p, q := g.q, idx := g.c.idx, die := n.die, item := 64 * rows.headD n.pos, rows := rows
          pkt := [pktHeader 1 n.chip d.chip n.die 1 0 0 0 none (r.2 - 1) r.1] }).1) d

/-- R259: the row reads of a command leave, those of one tile together, in the order of their first positions. -/
def Device.readRows (d : Device) (g : Gth) (needs : List RowNeed) : Device :=
  ((needs.map fun n => (n.die, n.chip, n.tile)).eraseDups).foldl (fun (d : Device) k =>
    d.readTileOf g (needs.filter fun n => n.die == k.1 && n.chip == k.2.1 && n.tile == k.2.2)) d

/-- R384: a row of a unit that no map entry gives is undeliverable: a zero row, or a lost contribution. The owner chip that
0x0C04 would name is open. -/
def Device.gthUnplaced (d : Device) (g : Gth) (pos row : Nat) : Device :=
  let f := d.freeValue
  f.2.gthFault g.p g.q g.c.idx 0x0C04 pos row f.1

/-- A position of a command is given up: a zero row by a fault. -/
def Device.zeroRow (d : Device) (g : Gth) (pos : Nat) : Device :=
  (d.updCmd g.p g.q g.c.idx fun x => { x with aux := x.aux.set pos 0 }).bump (.gthErrors (d.posDie g.p g.c pos)) Fd.gthErrorsZeroRows

/-- R259: the row of a position, and its scale bytes, in a copy of its unit on another chip. -/
def Device.rowNeed (d : Device) (g : Gth) (m : UnitMap) (chip pos row : Nat) : RowNeed :=
  let at' := g.t.rowAt row
  let tile := m.offset + 4096 * at'.2.1
  { pos := pos, die := d.posDie g.p g.c pos, chip := chip, tile := tile
    slots := slotRange (tile + at'.2.2) g.t.rowBytes ++
      (if g.t.rowScale = 0 then []
       else slotRange (m.offset + 4096 * m.tiles + 256 * at'.2.1 + at'.2.2 / 64 * g.t.rowScale) (g.t.rowBytes / 64 * g.t.rowScale)) }

/-- R259: the row of a position resolved through the directory, and what it needs of another chip. -/
def Device.gatherRead (d : Device) (g : Gth) (pos code : Nat) : Device × Option RowNeed :=
  let g := d.atPos g pos
  if code = 0 then (d, none)
  else
    match d.lookup g.p g.c.idx g.h g.epoch (g.t.unitOfRow (code - 1)) with
    | (d, none) => ((d.gthUnplaced g pos (code - 1)).zeroRow g pos, none)
    | (d, some m) => (d, if m.read = d.chip then none else some (d.rowNeed g m m.read pos (code - 1)))

/-- R259: the rows of a command's positions, from its restart point on, are resolved and read. -/
def Device.gatherReads (d : Device) (g : Gth) (from' : Nat) (codes : List Nat) : Device :=
  let r := codes.zipIdx.foldl (fun (a : Device × List RowNeed) x =>
    if x.2 < from' then a
    else
      let r := a.1.gatherRead g x.2 x.1
      (r.1, a.2 ++ r.2.toList)) (d, [])
  r.1.readRows g r.2

/-- R384, R432: a fill that the row of one of a list of codes needs waits. -/
def Device.codesWait (d : Device) (g : Gth) (codes : List Nat) : Bool :=
  codes.any fun code => code != 0 && d.fillWaits g.p g.h g.epoch (g.t.unitOfRow (code - 1))

/-- R255: codes of the positions, with the faults of invalid indexes. -/
def Device.gthCodes (d : Device) (g : Gth) (ps : List (Option Nat)) : Device × List Nat :=
  let bad := fun (w : Nat) => rowCode g.t.n w == 0
  let d := ps.zipIdx.foldl (fun (d : Device) x =>
    match x.1 with
    | none => d
    | some w =>
      if bad w then
        let d := d.gthFault g.p g.q g.c.idx 0x0C01 x.2 w (wordOf w)
        if opcodeOf g.c.desc = 0x50 then d.bump (.gthErrors (d.posDie g.p g.c x.2)) Fd.gthErrorsZeroRows else d
      else d) d
  (d, ps.map fun x => (x.map (rowCode g.t.n)).getD 0)

/-- R257: G, the tiles of an output group. -/
def Table.groupTiles (t : Table) : Nat := t.rowBytes / 64

/-- R255: the row groups of a command. -/
def groupsOf (aux : List Nat) : Nat := (aux.length + 63) / 64

/-- R257: every row of group g is in, or is a zero row. -/
def Cmd.groupIn (c : Cmd) (g : Nat) : Bool :=
  (List.range 64).all fun r => c.aux.getD (64 * g + r) 0 == 0 || (c.got.any fun e => e.1 == 64 * g + r)

/-- R257: the header of an output tile, tile i of n. -/
def Table.outHdr (t : Table) (i n : Nat) : List Byte :=
  hdrBody t.fmt true (2 ^ 64 - 1) t.scale (if isMx t.fmt then i else 0) (if isMx t.fmt then n else 0) 0

/-- R257: the data of tile k of group g and its scale record. -/
def Gth.outTile (g : Gth) (c : Cmd) (grp k : Nat) : List Byte × List Byte :=
  let row := fun (r : Nat) => SMap.at' (List.replicate (g.t.rowBytes + g.t.groupTiles * g.t.rowScale) 0) c.got (64 * grp + r)
  let scl := (List.range 64).flatMap fun r => ((row r).drop (g.t.rowBytes + k * g.t.rowScale)).take g.t.rowScale
  ((List.range 64).flatMap fun r => ((row r).drop (64 * k)).take 64, scl ++ List.replicate (256 - scl.length) 0)

/-- R257, R262: group grp, a unit of R217, translated whole and then written to the output buffer. -/
def Device.writeGroup (d : Device) (g : Gth) (c : Cmd) (grp : Nat) : Device × Except MemErr Unit :=
  let n := g.t.groupTiles
  let u := (d.atPos g (64 * grp)).u
  let dva := fun (k : Nat) => c.desc.q6.toNat + 4096 * (n * grp + k)
  andThen (forAll (fun k d => d.translate u (dva k) true) (List.range n) d) fun places d =>
    andThen (forAll (fun (x : _ × Nat) d =>
      let t := g.outTile c grp x.2
      d.putTile u x.1 (dva x.2) (g.t.outHdr ((n * grp + x.2) % 65536) (n * groupsOf c.aux % 65536)) t.1 t.2) places.zipIdx d)
      fun _ d => (d, .ok ())

/-- R257, R259: groups are written in ascending order once all their rows have arrived; the command is DONE when all have. -/
def Device.gatherGo (g : Gth) : Nat → Device → Device
  | 0, d => d
  | fuel + 1, d =>
    match d.cmd? g.p g.q g.c.idx with
    | none => d
    | some c =>
      if c.worked = true ∨ c.parked.isSome = true then d
      else if groupsOf c.aux ≤ c.unit then d.workEnds g.p g.q c.idx (if c.bad then 4 else 0)
      else if bitOf c.desc.q4.toNat 8 = true ∨ c.groupIn c.unit = false then d
      else
        match d.writeGroup g c c.unit with
        | (d, .error e) => d.unitError g.p g.q c c.unit e
        | (d, .ok ()) =>
          Device.gatherGo g fuel (d.updCmd g.p g.q c.idx fun x =>
            { x with unit := x.unit + 1, got := x.got.filter fun e => decide (64 * (c.unit + 1) ≤ e.1) })

/-- The writing of a command's groups as far as its rows are in. -/
def Device.gatherOn (d : Device) (g : Gth) : Device :=
  match d.cmd? g.p g.q g.c.idx with
  | none => d
  | some c => Device.gatherGo g (groupsOf c.aux + 2) d

/-- R257, R259: a GATHER takes its positions and issues its row reads; resumed, it goes on at its restart point. -/
def Device.gather (d : Device) (p q : Nat) (c : Cmd) : Device :=
  match d.gthOf p q c with
  | none => (d.logPlace p 0x1101 2 (d.homeDie p) c.idx (fieldOf c.desc.q4 63 32) 0 0).workEnds p q c.idx 4
  | some g =>
    if c.begun then d.gatherOn g
    else
      match d.positions g.u c.desc with
      | (d, .error e) => d.unitError p q c c.unit e
      | (d, .ok ps) =>
        if d.codesWait g (d.gthCodes g ps).2 then d else
        let r := d.gthCodes g ps
        let d := r.1.updCmd p q c.idx fun x => { x with begun := true, aux := r.2 }
        (d.gatherReads g (64 * c.unit) r.2).gatherOn g

/-! ### Rows that arrive (R254, R259, R261) -/

/-- R254: the fault of a tile whose header does not agree with the binding, with its DETAIL. -/
def Gth.tileFault (g : Gth) (t : TileRec) : Option (Nat × Word) :=
  if t.epoch ≠ g.epoch then some (0x0C02, wordOf (t.epoch % 2 ^ 32 * 2 ^ 32 + g.epoch % 2 ^ 32))
  else if t.fmt ≠ g.t.fmt ∨ t.scale ≠ g.t.scale then some (0x0C03, wordOf (t.fmt * 2 ^ 32 + t.scale))
  else none

/-- A row placed in its group: its bytes and then its scale bytes. -/
def Device.placeRow (d : Device) (g : Gth) (pos : Nat) (bytes : List Byte) : Device :=
  let d := d.updCmd g.p g.q g.c.idx fun x => { x with got := SMap.set (fun _ => []) x.got pos bytes }
  let die := d.posDie g.p g.c pos
  d.setReg (.gthRows die) (d.reg (.gthRows die) + 1)

/-- R254, R270: a row whose tile does not agree with the binding is a zero row. -/
def Device.badTile (d : Device) (g : Gth) (pos row : Nat) (x : Nat × Word) : Device :=
  let d := if x.1 = 0x0C02 then d.bump (.gthErrors (d.posDie g.p g.c pos)) Fd.gthErrorsEpochMismatch else d
  (d.gthFault g.p g.q g.c.idx x.1 pos row x.2).zeroRow g pos

/-- R254, R261: a row of this chip: its tile is read, verified and checked against the binding. -/
def Device.rowHere (d : Device) (g : Gth) (pos row : Nat) (m : UnitMap) : Device :=
  let at' := g.t.rowAt row
  match d.readPlaced (d.atPos g pos).u g.h at'.1 m at'.2.1 with
  | (d, .error .waits) => d
  | (d, .error (.remote _ _)) => (d.gthFault g.p g.q g.c.idx 0x0C04 pos row (wordOf m.read)).zeroRow g pos
  | (d, .error e) => (d.dropReqs g.p g.q g.c.idx).unitError g.p g.q g.c (pos / 64) e
  | (d, .ok (t, scl)) =>
    match g.tileFault t with
    | some x => d.badTile g pos row x
    | none =>
      d.placeRow g pos ((t.view.drop at'.2.2).take g.t.rowBytes ++
        (scl.drop (at'.2.2 / 64 * g.t.rowScale)).take (g.t.groupTiles * g.t.rowScale))

/-- Bytes of another chip from a chip offset that responses have brought. -/
def gotBytes (rs : List Request) (off n : Nat) : List Byte :=
  let slot := fun (a : Nat) => (rs.findSome? fun r => SMap.at' none r.got a).getD 0
  (List.range n).map fun i => (leBytes 16 (slot ((off + i) / 16)).toNat).getD ((off + i) % 16) 0

/-- R220, R261: another chip's memory interface answers that a row does not verify: its other copy is read; without one, or where that
was it, the checksum fault stops the command. -/
def Device.rowLost (d : Device) (g : Gth) (pos row chip : Nat) (m : UnitMap) : Device :=
  let g := d.atPos g pos
  if m.alt ≠ m.read ∧ chip = m.read then
    if m.alt = d.chip then d.rowHere g pos row { m with read := m.alt } else d.readRows g [d.rowNeed g m m.alt pos row]
  else
    let at' := m.tileOn chip (g.t.rowAt row).2.1
    (((d.bump .memCksumStats Fd.memCksumStatsFaults).logMem g.u 0x0A05 3 0 0 at' (d.recOf at').crc).dropReqs g.p g.q g.c.idx).unitError
      g.p g.q g.c (pos / 64) (.cksum at')

/-- R259: a row has used what a READ brought; the READ ends with its last row, whose thread another group may take. -/
def Device.rowUsed (d : Device) (pos : Nat) (e : Nat × Request) : Device :=
  let rows := e.2.rows.filter (· != pos)
  d.setReq e.1 (if rows.isEmpty then none else some { e.2 with rows := rows })

/-- R254, R259, R261: a row of another chip, once every READ for it has ended. The header of its tile comes with the row (DESIGN
CHOICE, log entry 104). -/
def Device.rowThere (d : Device) (g : Gth) (pos row : Nat) (m : UnitMap) : Device :=
  let rs := (d.cmdReqs g.p g.q g.c.idx).filter fun e => e.2.rows.contains pos
  if rs.isEmpty || rs.any fun e => e.2.status.isNone then d
  else
    let die := d.posDie g.p g.c pos
    let d := (rs.foldl (fun (d : Device) e => d.rowUsed pos e) d).tagFree die
    let chip := ((rs.map fun e => pktDest e.2.pkt).headD m.read)
    let at' := g.t.rowAt row
    let l := rs.map Prod.snd
    let tile := m.tileOn chip at'.2.1
    if rs.any fun e => e.2.status == some 4 then d.rowLost g pos row chip m
    else if rs.any fun e => e.2.status != some 0 then (d.gthFault g.p g.q g.c.idx 0x0C04 pos row (wordOf chip)).zeroRow g pos
    else
      let d := if chip = m.read then d
        else (d.bump .memCksumStats Fd.memCksumStatsReplicaOk).logMem (d.atPos g pos).u 0x0A04 1 0 0 (m.tileOn m.read at'.2.1) 0
      match g.tileFault (d.recOf tile) with
      | some x => d.badTile g pos row x
      | none => d.placeRow g pos (gotBytes l (m.offset + 4096 * at'.2.1 + at'.2.2) g.t.rowBytes ++
        gotBytes l (m.offset + 4096 * m.tiles + 256 * at'.2.1 + at'.2.2 / 64 * g.t.rowScale) (g.t.groupTiles * g.t.rowScale))

/-- R259: the row of a position arrives and is placed in its group. -/
def Device.rowArrive (d : Device) (p q : Nat) (c : Cmd) (pos : Nat) : Device :=
  match d.gthOf p q c with
  | none => d
  | some g =>
    let code := c.aux.getD pos 0
    if c.begun = false ∨ code = 0 ∨ pos < 64 * c.unit ∨ (c.got.any fun e => e.1 == pos) = true then d
    else
      let row := code - 1
      if d.codesWait g [code] then d else
      match d.lookup p c.idx g.h g.epoch (g.t.unitOfRow row) with
      | (d, none) => ((d.gthUnplaced g pos row).zeroRow g pos).gatherOn g
      | (d, some m) => (if m.read = d.chip then d.rowHere g pos row m else d.rowThere g pos row m).gatherOn g

/-! ### Delivery to scratch (R257, R258) -/

/-- A signal of an engine on a relative object of its partition. The class and engine that SYN_DBG_LAST_SRC then shows are
open. -/
def Device.engineSignal (d : Device) (p q idx r : Nat) : Device :=
  match d.syncOf p r with
  | none => d
  | some n =>
    let f := d.freeValue
    (f.2.signal p n 1 1 (sourceWord d.chip p (fieldOf f.1 46 43) q) idx).1

/-- The value of a relative object of a partition. -/
def Device.relValue (d : Device) (p r : Nat) : Nat :=
  match d.syncOf p r with
  | none => 0
  | some n => (d.obj n).value.toNat

/-- A tile written into a frame of a core by an engine of its die, with its header slot. -/
def Device.frameWrite (d : Device) (core frame : Nat) (hdr8 data scl : List Byte) : Device :=
  d.updCore core fun k =>
    let k := { k with scratch := k.put (4096 * frame) data }
    let k := { k with scratch := SMap.setList zeroByte k.scratch (hdrAt frame + 8) hdr8 }
    if scl.isEmpty then k else { k with scratch := SMap.setList zeroByte k.scratch (sclAt frame) scl }

/-- R257: the rank and delivery number of the next group of a command with so many target cores. -/
def Cmd.nextTurn (c : Cmd) (cores : Nat) : Nat × Nat := (c.unit % max 1 cores, c.unit / max 1 cores)

/-- R258: the core of the next delivery has returned the frames it needs. -/
def Device.gatherMay (d : Device) (g : Gth) (c : Cmd) : Bool :=
  let n := c.nextTurn (d.targets g.p c.desc).length
  let ring := 2 ^ fieldOf c.desc.q4 7 4 / g.t.groupTiles
  decide (n.2 + 1 ≤ ring + d.relValue g.p (pacingBase c.desc + 2 * n.1 + 1))

/-- R257, R258: the next group of a GATHER to scratch is delivered once its rows are in and FREE allows. -/
def Device.gatherDeliver (d : Device) (p q : Nat) (c : Cmd) : Device :=
  match d.gthOf p q c with
  | none => d
  | some g =>
    let cores := d.targets p c.desc
    let n := c.nextTurn cores.length
    if c.begun = false ∨ bitOf c.desc.q4.toNat 8 = false ∨ groupsOf c.aux ≤ c.unit ∨ c.groupIn c.unit = false ∨
        d.gatherMay g c = false then d
    else
      let ring := 2 ^ fieldOf c.desc.q4 7 4
      let base := fieldOf c.desc.q6 49 40
      let d := (List.range g.t.groupTiles).foldl (fun (d : Device) k =>
        let t := g.outTile c c.unit k
        d.frameWrite (cores.getD n.1 0) (base + (n.2 * g.t.groupTiles % ring) + k) (g.t.outHdr 0 0) t.1
          (if isMx g.t.fmt then t.2 else [])) d
      let d := d.updCmd p q c.idx fun x =>
        { x with unit := x.unit + 1, got := x.got.filter fun e => decide (64 * (c.unit + 1) ≤ e.1) }
      (d.engineSignal p q c.idx (pacingBase c.desc + 2 * n.1)).gatherOn g

/-! ### The contribution log (R266 to R268) -/

/-- R263: E, the elements of a row. -/
def Table.elems (t : Table) : Nat := t.rowBytes * 8 / elemBits t.fmt

/-- R265: the parts of a contribution to the table. -/
def Table.parts (t : Table) : Nat := (2 * t.elems + 255) / 256

/-- R266: a gradient row of GRAD_FMT widened to binary32. -/
def widen (fmt : Nat) (bs : List Byte) : List (BitVec 32) :=
  (List.range (bs.length / 2)).map fun i => BitVec.ofNat 32 (toF32 {} (elemNum fmt (ofLeBytes ((bs.drop (2 * i)).take 2)))).1

/-- The die that holds a row of a table of this chip. -/
def Table.rowDie (t : Table) (row : Nat) : Nat := (t.unitAt t.current (t.unitOfRow row)).die

/-- R268: the log of a partition on a die has room for n more bytes. -/
def Device.logRoom (d : Device) (p die n : Nat) : Bool :=
  decide (d.logUsed p die + n ≤ d.fld (.gthPartLog die p) Fd.gthPartLogSize * 2 ^ 24)

/-- R267, R270: arrival contributions that meet keyed ones in a table are discarded: 0x0C06 names where they came from, once for a
command of this chip, which ends with STATUS 0x04, and once for another chip. -/
def Device.mixed (d : Device) (p h die : Nat) (x : Arrived) : Device :=
  match x.cmd.bind fun c => d.cmd? p c.1 c.2 with
  | some _ => d.gthFault p (x.cmd.getD (0, 0)).1 (x.cmd.getD (0, 0)).2 0x0C06 x.pos x.row (wordOf x.chip)
  | none => d.logGth p 0x0C06 5 die (x.cmd.getD (0, 0)).2 x.pos h x.row (wordOf x.chip)

/-- Contributions of a chip, or of a command of it, are among those that have arrived. -/
def Table.hasArrived (t : Table) (x : Arrived) : Bool := t.arrived.any fun y => y.chip == x.chip && y.cmd == x.cmd

/-- R390: a contribution received for a unit. -/
def Device.countContrib (d : Device) (p die h u : Nat) : Device :=
  let key := d.countedKey p die h u
  d.updPart p fun x => { x with unitContribs := SMap.upd 0 x.unitContribs key (· + 1) }

/-- R265, R266: part j of a keyed contribution to a row of this chip appended to the log; false where the log is full. -/
def Device.appendPart (d : Device) (p h : Nat) (t : Table) (row chip seq j : Nat) (vs : List (BitVec 32)) : Device × Bool :=
  let die := t.rowDie row
  match t.log.find? fun c => c.row == row && c.chip == chip && c.seq == seq with
  | some c =>
    if c.parts.any fun e => e.1 == j then
      (if j = 0 then d.bump (.gthContrib die) Fd.gthContribDuplicateKeys else d, true)
    else
      let c' := { c with parts := SMap.set (fun _ => []) c.parts j vs }
      let d := d.setTable p h (some { t with log := t.log.map fun x => if x = c then c' else x })
      (if c'.parts.length = t.parts then (d.bump (.gthContrib die) Fd.gthContribReceived).countContrib p die h (t.unitOfRow row) else d, true)
  | none =>
    if d.logRoom p die t.entryBytes then
      let d := if t.arrivals.isEmpty then d else t.arrived.foldl (fun (d : Device) x => d.mixed p h die x) d
      let d := d.setTable p h (some { t with
        log := t.log ++ [{ row := row, chip := chip, seq := seq, parts := [(j, vs)] }], arrivals := [] })
      let d := d.showLog p die
      (if t.parts = 1 then (d.bump (.gthContrib die) Fd.gthContribReceived).countContrib p die h (t.unitOfRow row) else d, true)
    else (d, false)

/-- R267: part j of an arrival contribution added to its row's sum; false where the log is full. A log that holds keyed
contributions discards it. -/
def Device.addArrival (d : Device) (p h : Nat) (t : Table) (x : Arrived) (j : Nat) (vs : List (BitVec 32)) : Device × Bool :=
  let row := x.row
  let die := t.rowDie row
  let seen := if t.hasArrived x then t.arrived else t.arrived ++ [x]
  if !t.log.isEmpty then
    (if t.hasArrived x then d else (d.setTable p h (some { t with arrived := seen })).mixed p h die x, true)
  else
    let known := t.arrivals.any fun e => e.1 == row
    if !known && !d.logRoom p die (t.entryBytes - 16) then (d, false)
    else
      let old := SMap.at' (0, List.replicate t.elems 0) t.arrivals row
      let sums := old.2.zipIdx.map fun x =>
        if 128 * j ≤ x.2 ∧ x.2 < 128 * j + vs.length then
          BitVec.ofNat 32 (addF32 x.1.toNat (vs.getD (x.2 - 128 * j) 0).toNat).1
        else x.1
      let new := (old.1 + ofBool (j == 0), sums)
      let d := d.setTable p h (some { t with arrivals := SMap.set (fun _ => (0, [])) t.arrivals row new, arrived := seen })
      let d := if j = 0 then (d.bump (.gthContrib die) Fd.gthContribReceived).countContrib p die h (t.unitOfRow row) else d
      (d.showLog p die, true)

/-- A whole contribution of a command of this chip to a row of its own: appended, or false where the log is full. -/
def Device.appendOwn (d : Device) (p q idx h : Nat) (arrival : Bool) (k : Contribution) : Device × Bool :=
  k.parts.foldl (fun (a : Device × Bool) e =>
    match a.2, a.1.table p h with
    | true, some t =>
      if arrival then a.1.addArrival p h t { chip := k.chip, cmd := some (q, idx), pos := k.seq % 2 ^ 40, row := k.row } e.1 e.2
      else a.1.appendPart p h t k.row k.chip k.seq e.1 e.2
    | _, _ => (a.1, false)) (d, true)

/-! ### SCATTER -/

/-- R257, R263: the gradient rows of a row group: 64 rows of 2 × E bytes. -/
def Device.gradRows (d : Device) (g : Gth) (grp : Nat) : Device × Except MemErr (List (List Byte)) :=
  let n := 2 * g.t.elems / 64
  let dva := fun (k : Nat) => fieldOf g.c.desc.q6 47 0 + 4096 * (n * grp + k)
  andThen (forAll (fun k d => d.readDva { g.u with unit := grp } (dva k) 4096) (List.range n) d) fun ts d =>
    (d, .ok ((List.range 64).map fun r => ts.flatMap fun t => (t.drop (64 * r)).take 64))

/-- R264: the source sequence number of a position. -/
def seqOf (x : Desc) (pos : Nat) : Nat := fieldOf x.q4 31 16 * 2 ^ 48 + fieldOf x.q6 63 56 * 2 ^ 40 + pos % 2 ^ 40

/-- R264, R265, R358: the CONTRIB packets of a contribution to another chip. -/
def Device.sendContrib (d : Device) (g : Gth) (chip plane pos row : Nat) (bytes : List Byte) : Device :=
  let arrival := bitOf g.c.desc.q4.toNat 8
  let key := BitVec.ofNat 128 (row + d.chip % 2 ^ 14 * 2 ^ 48 + seqOf g.c.desc pos * 2 ^ 64)
  let flow := ((d.cmd? g.p g.q g.c.idx).bind (·.flow)).getD 0
  (List.range g.t.parts).foldl (fun (d : Device) j =>
    let data := slotsOf ((bytes.drop (256 * j)).take 256)
    let k := pktHeader 3 chip d.chip g.u.die (2 + data.length) 0 0 g.p (some flow) 0 (g.h + ofBool arrival * 2 ^ 32 + j * 2 ^ 33) :: key :: data
    (d.request { part := g.p, q := g.q, idx := g.c.idx, die := g.u.die, item := pos, plane := plane, pkt := k }).1.updCmd g.p g.q g.c.idx
      fun x => { x with sent := SMap.upd 0 x.sent chip (· + 1) }) d

/-- R264: the contribution of one position. -/
def Device.scatterOne (d : Device) (g : Gth) (pos code : Nat) (bytes : List Byte) : Device :=
  if code = 0 then d
  else
    let row := code - 1
    match d.lookup g.p g.c.idx g.h g.epoch (g.t.unitOfRow row) with
    | (d, none) => (d.gthUnplaced g pos row).bump (.gthContrib g.u.die) Fd.gthContribDropped
    | (d, some m) =>
      if m.owner = d.chip then
        let vs := widen (fieldOf g.c.desc.q4 7 4) bytes
        let k : Contribution :=
          { row := row, chip := d.chip, seq := seqOf g.c.desc pos
            parts := (List.range g.t.parts).map fun j => (j, (vs.drop (128 * j)).take 128) }
        match d.appendOwn g.p g.q g.c.idx g.h (bitOf g.c.desc.q4.toNat 8) k with
        | (d, true) => d
        | (d, false) =>
          (d.bump (.gthErrors (g.t.rowDie row)) Fd.gthErrorsLogFull).updCmd g.p g.q g.c.idx fun x => { x with held := x.held ++ [k] }
      else d.sendContrib g m.owner (dieOfOffset m.offset) pos row bytes

/-- R264, R365: one SIGNAL for each chip that packets of the flow went to, with their COUNT and no operation of its own. -/
def Device.sendCounts (d : Device) (g : Gth) : Device :=
  match d.cmd? g.p g.q g.c.idx with
  | none => d
  | some c =>
    c.sent.foldl (fun (d : Device) e =>
      (d.request
        { part := g.p, q := g.q, idx := c.idx, die := g.u.die, item := 2 ^ 40
          pkt := [pktHeader 4 e.1 d.chip g.u.die 2 0 0 g.p (some (c.flow.getD 0)) 0 0, BitVec.ofNat 128 (e.2 * 2 ^ 64)] }).1) d

/-- R265: a SCATTER whose groups are all sent is DONE when nothing of it waits for log room or for an ACK; its flow is then
free. -/
def Device.scatterEnd (d : Device) (p q idx : Nat) : Device :=
  match d.cmd? p q idx with
  | none => d
  | some c =>
    if c.begun = false ∨ c.worked = true ∨ c.unit < groupsOf c.aux ∨ c.parked.isSome = true ∨ c.held ≠ [] ∨
        (d.cmdReqs p q idx) ≠ [] then d
    else
      let d := match c.flow with
        | none => d
        | some f => d.freeFlow (d.homeDie p) f
      d.workEnds p q idx (if c.bad then 4 else 0)

/-- R262, R264: row groups sent from the one the command stands at. -/
def Device.scatterGo (g : Gth) : Nat → Nat → Device → Device
  | 0, _, d => ((d.sendCounts g)).scatterEnd g.p g.q g.c.idx
  | n + 1, grp, d =>
    match d.gradRows g grp with
    | (d, .error e) => d.unitError g.p g.q g.c grp e
    | (d, .ok rows) =>
      let codes := ((d.cmd? g.p g.q g.c.idx).map (·.aux)).getD []
      if d.codesWait g ((codes.drop (64 * grp)).take 64) then d.updCmd g.p g.q g.c.idx fun x => { x with unit := grp } else
      let d := rows.zipIdx.foldl (fun (d : Device) x =>
        d.scatterOne g (64 * grp + x.2) (codes.getD (64 * grp + x.2) 0) x.1) d
      Device.scatterGo g n (grp + 1) (d.updCmd g.p g.q g.c.idx fun x => { x with unit := grp + 1 })

/-- R267: an ARRIVAL SCATTER translates every page of its gradient buffer before it sends anything. -/
def Device.gradTranslates (d : Device) (g : Gth) (groups : Nat) : Device × Except MemErr Unit :=
  if bitOf g.c.desc.q4.toNat 8 then
    andThen (d.translateAll g.u (fieldOf g.c.desc.q6 47 0) (4096 * (2 * g.t.elems / 64) * groups) false) fun _ d => (d, .ok ())
  else (d, .ok ())

/-- R264, R364: a SCATTER with its positions; it waits where its die has no delivery flow free. -/
def Device.scatter (d : Device) (p q : Nat) (c : Cmd) : Device :=
  match d.gthOf p q c with
  | none => (d.logPlace p 0x1101 2 (d.homeDie p) c.idx (fieldOf c.desc.q4 63 32) 0 0).workEnds p q c.idx 4
  | some g =>
    if c.begun then
      if c.unit < groupsOf c.aux ∧ d.drains p c.desc = false then Device.scatterGo g (groupsOf c.aux - c.unit) c.unit d else d
    else
      match andThen (d.positions g.u c.desc) fun ps d =>
          andThen (d.gradTranslates g ((ps.length + 63) / 64)) fun _ d => (d, Except.ok ps) with
      | (d, .error e) => d.unitError p q c c.unit e
      | (d, .ok ps) =>
        match d.takeFlow g.u.die p q c.idx with
        | (d, none) => d
        | (d, some f) =>
          let r := d.gthCodes g ps
          let d := r.1.updCmd p q c.idx fun x => { x with begun := true, aux := r.2, flow := some f }
          Device.scatterGo g (groupsOf r.2 - c.unit) c.unit d

/-- R268: contributions that wait for log room are tried again, in order. -/
def Device.heldAgain (p q idx h : Nat) (arrival : Bool) : List Contribution → Device → Device
  | [], d => d.updCmd p q idx fun x => { x with held := [] }
  | k :: ks, d =>
    match d.appendOwn p q idx h arrival k with
    | (d, true) => Device.heldAgain p q idx h arrival ks d
    | (d, false) => d.updCmd p q idx fun x => { x with held := k :: ks }

/-- R268: the log of a table's partition has been emptied: contributions of this chip that waited go in. -/
def Device.heldGo (d : Device) (p : Nat) : Device :=
  (List.range 64).foldl (fun (d : Device) q =>
    (d.queue p q).foldl (fun (d : Device) c =>
      if c.held.isEmpty then d
      else (Device.heldAgain p q c.idx (fieldOf c.desc.q4 63 32) (bitOf c.desc.q4.toNat 8) c.held d).scatterEnd p q c.idx) d) d

/-- R268: a contribution has waited LOG_WAIT_US at its source: it is dropped with 0x0C05. It is one of this chip's own, or the
first of the command's whose packets wait for credit. -/
def Device.contribDrop (d : Device) (p q : Nat) (c : Cmd) : Device :=
  let lost := fun (d : Device) (pos row chip : Nat) =>
    (d.gthFault p q c.idx 0x0C05 pos row (wordOf chip)).bump (.gthContrib (d.homeDie p)) Fd.gthContribDropped
  match c.held with
  | k :: ks =>
    ((lost d (k.seq % 2 ^ 40) k.row d.chip).updCmd p q c.idx fun x => { x with held := ks }).scatterEnd p q c.idx
  | [] =>
    let waits := (d.cmdReqs p q c.idx).find? fun e =>
      pktType e.2.pkt == 3 && (e.2.tag.isNone || d.txWait.any fun w => w.2.2 == e.2.pkt)
    match waits with
    | none => d
    | some e =>
      let d := (d.cmdReqs p q c.idx).foldl (fun (d : Device) x =>
        if x.2.item = e.2.item ∧ (x.2.tag.isNone ∨ d.txWait.any fun w => w.2.2 == x.2.pkt) then
          { d with txWait := d.txWait.filter fun w => w.2.2 != x.2.pkt }.setReq x.1 none
        else d) d
      let d := d.updCmd p q c.idx fun x => { x with lost := x.lost ++ [e.2.item] }
      (lost d e.2.item ((e.2.pkt.getD 1 0).toNat % 2 ^ 48) (pktDest e.2.pkt)).scatterEnd p q c.idx

/-- R273: GTH_CTRL.CLEAR_COUNTS of a die. -/
def Device.gthClear (d : Device) (die : Nat) : Device := d.resetRegs [.gthRows die, .gthServed die, .gthContrib die, .gthErrors die]

/-! ### The meanings -/

/-- GATHER. -/
def execGather (p q idx : Nat) (io : MemIo) (s : State) : Result :=
  run (fun d => ((d.withIo io).work p q idx 0x50 fun c d => d.gather p q c).endIo) s

/-- GATHER_DELIVERY. -/
def execGatherDelivery (p q idx : Nat) (s : State) : Result :=
  run (fun d => d.work p q idx 0x50 fun c d => d.gatherDeliver p q c) s

/-- ROW_ARRIVE: the row of a position. -/
def execRowArrive (p q idx pos : Nat) (io : MemIo) (s : State) : Result :=
  run (fun d => ((d.withIo io).work p q idx 0x50 fun c d => d.rowArrive p q c pos).endIo) s

/-- SCATTER. -/
def execScatter (p q idx : Nat) (io : MemIo) (s : State) : Result :=
  run (fun d => ((d.withIo io).work p q idx 0x51 fun c d => d.scatter p q c).endIo) s

/-- CONTRIB_LOG_WAIT_TIMEOUT. -/
def execContribLogWaitTimeout (p q idx : Nat) (s : State) : Result :=
  run (fun d => d.work p q idx 0x51 fun c d => d.contribDrop p q c) s

/-- GTH_CLEAR_COUNTS: GTH_CTRL.CLEAR_COUNTS of a die. -/
def execGthClearCounts (die : Nat) (s : State) : Result := run (·.gthClear die) s

end Sys2Proof.Machine
end

