-- ==== Sys2Proof/Machine/Sparse.lean ====
section
/-! DEFINITION. Sparsity (chapter 13): MERGE (R278 to R285) and the active-neuron predictor (R286 to R291). -/

namespace Sys2Proof.Machine

/-! ### Records (R293) -/

/-- R293: a sparsity record on partition p's ring, and SPR_LAST_FAULT of its die; which of the die's engines it names is as the arbiter
granted, a free value. -/
def Device.logSpr (d : Device) (p code cls die layer idx tile : Nat) (detail : Word) (step : Nat) : Device :=
  ({ d with free := d.free + 1 }.log p
    { code := code, cls := cls, part := p, die := die
      body := [wordOf (die + anEngine d.free 7 * 2 ^ 8 + 7 * 2 ^ 16 + layer * 2 ^ 24 + (idx % 2 ^ 32) * 2 ^ 32), wordOf (tile % 2 ^ 32), detail, wordOf step] }).setReg
    (.sprLastFault die) (wordOf (code * 2 ^ 48 + p * 2 ^ 45 + layer * 2 ^ 39 + idx % 2 ^ 32))

/-! ### The merge descriptor (R279) -/

/-- R279: the fields of a merge descriptor. -/
structure MergeDesc where
  a : Nat
  b : Nat
  kt : Nat
  mt : Nat
  nt : Nat
  base : Nat
  layer : Nat
  pred : Nat
  deriving DecidableEq, Repr

/-- The fields of a descriptor's eight quadwords. -/
def mergeDesc (ws : List Word) : MergeDesc :=
  let q := fun i => (ws.getD i 0).toNat
  { a := q 0, b := q 1, kt := bitsOf (q 2) 63 56 + 1, mt := bitsOf (q 2) 55 44 + 1, nt := bitsOf (q 2) 43 32 + 1
    base := bitsOf (q 2) 31 0, layer := bitsOf (q 3) 7 2, pred := bitsOf (q 3) 1 0 }

/-- R278, R279, R289: the quadword for which a merge descriptor, its slot or its map is invalid; bound: the slot is bound. A map beside PRED 0,
which the operand table forbids and only the descriptor shows, is told in the same way (DEDUCED, log entry 100). -/
def mergeDescFault (ws : List Word) (bound : Bool) (map : Word) : Option Nat :=
  let x := mergeDesc ws
  if x.a % 4096 ≠ 0 then some 0
  else if x.b % 4096 ≠ 0 then some 1
  else if x.base % 64 ≠ 0 then some 2
  else if fieldOf (ws.getD 3 0) 63 8 ≠ 0 then some 3
  else
    match (List.range 4).find? fun i => ws.getD (4 + i) 0 != 0 with
    | some i => some (4 + i)
    | none => if x.pred ≠ 0 ∧ bound = false then some 3 else if (x.pred = 0) = (map = 0) then none else some 5

/-! ### The neuron gate (R287 to R289) -/

/-- MODE of a layer slot (R296). -/
def Device.layerMode (d : Device) (p l : Nat) : Nat := d.fld (.sprLayerState p l) Fd.sprLayerStateMode

/-- R288: an unpredicted neuron is audited in a step and micro-batch. -/
def auditHit (seed : Word) (layerId step b i : Nat) : Bool := decide (drawWord seed 6 layerId (step % 2 ^ 32) b 0 i < 0x4000000)

/-- R288, R289: AUDITED word w of a layer's neurons, from its PREDICTED word. -/
def auditWord (seed : Word) (layerId step b w pred : Nat) : Nat :=
  maskOf ((List.range 64).filter fun i => !bitOf pred i && auditHit seed layerId step b (64 * w + i))

/-- How many neurons from NEURON_BASE a command's gate concerns: its B rows, or its reduction (R289). -/
def MergeDesc.neurons (x : MergeDesc) (w : Nat) : Nat := if x.pred = 3 then 512 / w * x.kt else 64 * x.nt

/-- R287, R289: COMPUTED words from the word of NEURON_BASE on, read for a gate, with AUDITED written where PRED is 1. For a
neuron at or above N the gate is open. -/
def Device.computedWords (d : Device) (u : MemUser) (c : Cmd) (x : MergeDesc) (n count : Nat) : Device × Except MemErr (List Nat) :=
  let map := c.desc.q5.toNat
  let total := n / 64
  forAll (fun i d =>
    let w := x.base / 64 + i
    if total ≤ w then
      let f := d.freeValue
      (f.2, .ok f.1.toNat)
    else
      andThen (d.readDva u (map + 8 * w) 8) fun bs d =>
        let pred := ofLeBytes bs
        if x.pred = 1 then
          let aud := auditWord (d.part u.part).seed (d.fld (.sprLayerState u.part x.layer) Fd.sprLayerStateLayerId) c.stepNo
            (fieldOf c.desc.q6 39 24) w pred
          andThen (d.writeDva u (map + 8 * total + 8 * w) (leBytes 8 aud)) fun _ d => (d, .ok (pred ||| aud))
        else
          andThen (d.readDva u (map + 8 * total + 8 * w) 8) fun bs d => (d, .ok (pred ||| ofLeBytes bs)))
    (List.range ((count + 63) / 64)) d

/-- R289: in DENSE, a forward gate writes AUDITED as zero. -/
def Device.clearAudited (d : Device) (u : MemUser) (c : Cmd) (x : MergeDesc) (n : Nat) : Device × Except MemErr Unit :=
  andThen (forAll (fun i d =>
    let w := x.base / 64 + i
    if n / 64 ≤ w then (d, .ok ()) else d.writeDva u (c.desc.q5.toNat + 8 * (n / 64) + 8 * w) (leBytes 8 0)) (List.range x.nt) d)
    fun _ d => (d, .ok ())

/-! ### Groups of an output tile (R274, R280, R281) -/

/-- An operand tile as a merge uses it: its format, scale, mask of blocks, dense data and scale bytes. -/
structure MergeTile where
  fmt : Nat := 0
  scale : Nat := 0
  mask : Nat := 0
  data : List Byte := []
  scl : List Byte := []
  deriving DecidableEq, Repr

/-- The merge's view of a record. -/
def TileRec.merge (t : TileRec) (scl : List Byte) : MergeTile :=
  { fmt := t.fmt, scale := t.scale, mask := if t.dense then 2 ^ 64 - 1 else t.mask, data := t.view, scl := scl }

/-- R289: a tile with the rows of gated-out neurons zero, and their block rows absent. -/
def MergeTile.gateRows (t : MergeTile) (keep : Nat → Bool) : MergeTile :=
  let b := mxRowScales t.fmt
  { t with
    mask := maskOf ((bitList 64 t.mask).filter fun i => (List.range 8).any fun r => keep (8 * (i / 8) + r))
    data := t.data.zipIdx.map fun x => if keep (x.2 / 64) then x.1 else 0
    scl := t.scl.zipIdx.map fun x => if keep (x.2 / b) then x.1 else 0 }

/-- R289: a tile with the elements of gated-out neurons of the reduction zero, and block columns with none left absent. -/
def MergeTile.gateElems (t : MergeTile) (keep : Nat → Bool) : MergeTile :=
  let w := elemBits t.fmt
  let byte := fun (x : Nat) (v : Byte) =>
    if w = 4 then BitVec.ofNat 8 ((if keep (2 * x) then v.toNat % 16 else 0) + (if keep (2 * x + 1) then v.toNat / 16 * 16 else 0))
    else if keep (8 * x / w) then v else 0
  { t with
    mask := maskOf ((bitList 64 t.mask).filter fun i => (List.range (64 / w)).any fun e => keep (64 / w * (i % 8) + e))
    data := t.data.zipIdx.map fun x => byte (x.2 % 64) x.1 }

/-- R280: block column j has a present block. -/
def MergeTile.hasColumn (t : MergeTile) (j : Nat) : Bool := (List.range 8).any fun i => bitOf t.mask (8 * i + j)

/-- R280: the groups that are kept or dropped together. -/
def unitGroups (fmt : Nat) : Nat := if fmt = 0x7 then 2 else if isMx fmt then 4 else 1

/-- R280, R281: the kept groups of an output tile, ascending: tile and group. -/
def keptGroups (as' bs : List MergeTile) : List (Nat × Nat) :=
  (as'.zip bs).zipIdx.flatMap fun x =>
    let n := max (unitGroups x.1.1.fmt) (unitGroups x.1.2.fmt)
    let can := fun j => x.1.1.hasColumn j && x.1.2.hasColumn j
    ((List.range 8).filter fun j => (List.range n).any fun i => can (j / n * n + i)).map fun j => (x.2, j)

/-- R281: one packed operand tile of a pair: its data and scale record. -/
def packTiles (ts : List MergeTile) (groups : List (Nat × Nat)) : List Byte × List Byte :=
  let fmt := (ts.headD {}).fmt
  let b := mxRowScales fmt
  let n := unitGroups fmt
  let tile := fun (k : Nat) => ts.getD k {}
  let data := (List.range 64).flatMap fun r => (List.range 8).flatMap fun i =>
    match groups[i]? with
    | none => List.replicate 8 0
    | some (k, j) => (((tile k).data.drop (64 * r + 8 * j)).take 8)
  let scl := (List.range 64).flatMap fun r => (List.range b).map fun s =>
    match groups[n * s]? with
    | none => (0 : Byte)
    | some (k, j) => (tile k).scl.getD (r * b + j / n) 0
  (data, if isMx fmt then scl ++ List.replicate (256 - scl.length) 0 else [])

/-! ### MERGE -/

/-- Where a MERGE keeps its descriptor, its COMPUTED words and the tiles of its A row among the data it has in hand. -/
def keyDesc : Nat := 2 ^ 40
/-- COMPUTED words. -/
def keyGate : Nat := 2 ^ 40 + 1
/-- The tiles of A row m. -/
def keyRow : Nat := 2 ^ 40 + 2

/-- The descriptor a running MERGE has read. -/
def Cmd.mergeDesc (c : Cmd) : MergeDesc := Machine.mergeDesc (wordsOf 8 (SMap.at' [] c.got keyDesc))

/-- R289: neuron i passes the gate of a running MERGE. -/
def Cmd.keeps (c : Cmd) (i : Nat) : Bool :=
  match SMap.at' [] c.got keyGate with
  | [] => true
  | bs => bitOf (bs.getD ((i - c.mergeDesc.base) / 8) 0).toNat (i % 8)

/-- R281: the first tile whose format or scale differs from the first of its row: its format. -/
def rowDiffers (l : List MergeTile) : Option Nat :=
  match l with
  | [] => none
  | t :: ts => (ts.find? fun x => x.fmt != t.fmt || x.scale != t.scale).map (·.fmt)

/-- R282: one operand tile read whole, by DVA. -/
def Device.mergeRead (d : Device) (u : MemUser) (dva : Nat) : Device × Except MemErr MergeTile :=
  andThen (d.translate u dva false) fun x d => andThen (d.takeTile u x dva 0) fun r d => (d, .ok (r.1.merge r.2))

/-- R280: a tile of A with the gate of PRED 3 applied. -/
def Cmd.gateA (c : Cmd) (k : Nat) (t : MergeTile) : MergeTile :=
  let x := c.mergeDesc
  if x.pred = 3 then t.gateElems fun e => c.keeps (x.base + 512 / elemBits t.fmt * k + e) else t

/-- R280, R282: tile (n, k) of B, not read where its 64 neurons are all gated out. -/
def Device.mergeB (d : Device) (u : MemUser) (c : Cmd) (n k : Nat) : Device × Except MemErr (Option MergeTile) :=
  let x := c.mergeDesc
  let keep := fun r => c.keeps (x.base + 64 * n + r)
  if x.pred ≠ 3 ∧ (List.range 64).any keep = false then (d, .ok none)
  else
    andThen (d.mergeRead u (x.b + 4096 * (n * x.kt + k))) fun t d =>
      (d, .ok (some (if x.pred = 3 then c.gateA k t else if x.pred = 0 then t else t.gateRows keep)))

/-- R281, R282: FORMAT and SCALE of a B row of which no tile is read: those of its source row, as they stand where its first tile lies;
open where the partition maps none (DEDUCED, log entry 105). -/
def Device.rowLike (d : Device) (u : MemUser) (dva : Nat) : MergeTile :=
  match (d.translate u dva false).2 with
  | .ok (.device g) => { fmt := (d.recOf g).fmt, scale := (d.recOf g).scale }
  | _ => { fmt := (Config.freeWord d.free).toNat % 11, scale := fieldOf (Config.freeWord (d.free + 1)) 31 0 }

/-- R281: the tiles of a row that were not read stand for absent blocks in the row's format and scale. -/
def fillRow (l : List (Option MergeTile)) (like : MergeTile) : List MergeTile :=
  let t := (l.findSome? id).getD like
  l.map fun x => x.getD { fmt := t.fmt, scale := t.scale, data := List.replicate 4096 0, scl := List.replicate 256 0 }

/-- R282: the tiles of A row m: those held, or read. -/
def Device.mergeRow (d : Device) (u : MemUser) (c : Cmd) (m : Nat) : Device × Except MemErr (List MergeTile) :=
  let x := c.mergeDesc
  let size := 4096 + 256 + 16
  let held := SMap.at' [] c.got keyRow
  if x.kt ≤ 128 ∧ held.length = size * x.kt + 8 ∧ ofLeBytes (held.take 8) = m then
    (d, .ok ((List.range x.kt).map fun k =>
      let l := (held.drop (8 + size * k)).take size
      { fmt := ofLeBytes (l.take 4), scale := ofLeBytes ((l.drop 4).take 4), mask := ofLeBytes ((l.drop 8).take 8)
        data := (l.drop 16).take 4096, scl := l.drop 4112 }))
  else
    andThen (forAll (fun k d => andThen (d.mergeRead u (x.a + 4096 * (m * x.kt + k))) fun t d => (d, .ok (c.gateA k t)))
      (List.range x.kt) d) fun l d =>
      let bytes := leBytes 8 m ++ l.flatMap fun t =>
        leBytes 4 t.fmt ++ leBytes 4 t.scale ++ leBytes 8 t.mask ++ t.data ++ t.scl ++ List.replicate (256 - t.scl.length) 0
      (if x.kt ≤ 128 then
        d.updCmd u.part ((c.aux.getD 6 0)) c.idx fun y => { y with got := SMap.set (fun _ => []) y.got keyRow bytes }
      else d, .ok l)

/-- SPR_GROUPS shows a die's counts. -/
def Device.showGroups (d : Device) (die : Nat) : Device :=
  (d.setFld (.sprGroups die) Fd.sprGroupsKept (min (2 ^ 32 - 1) (SMap.at' 0 d.groupsKept die / 1024))).setFld (.sprGroups die)
    Fd.sprGroupsDropped (min (2 ^ 32 - 1) (SMap.at' 0 d.groupsDropped die / 1024))

/-- R280, R281: output tile t of a MERGE is read and packed: its pairs stand ready for delivery. It parks at t, or ends, where
a tile fails. -/
def Device.mergeTile (d : Device) (p q idx : Nat) : Device :=
  match d.cmd? p q idx with
  | none => d
  | some c =>
    let x := c.mergeDesc
    let t := c.unit
    let u := d.userOf p c t
    match andThen (d.mergeRow u c (t / x.nt)) fun as' d =>
        andThen (forAll (fun k d => d.mergeB u c (t % x.nt) k) (List.range x.kt) d) fun bs d => (d, Except.ok (as', bs)) with
    | (d, .error e) => d.unitError p q c t e
    | (d, .ok (as', bs)) =>
      let b0 := bs.filterMap id
      let bad := fun (d : Device) (fmt : Nat) (isB : Bool) =>
        (d.logSpr p 0x0D02 2 u.die x.layer idx t (wordOf (fmt + 16 * ofBool isB)) c.stepNo).workEnds p q idx 4
      match rowDiffers as', rowDiffers b0 with
      | some f, _ => bad d f false
      | none, some f => bad d f true
      | none, none =>
        let like := d.rowLike u (x.b + 4096 * (t % x.nt * x.kt))
        let d : Device := { d with free := d.free + 2 }
        let bs := fillRow bs like
        let kept := keptGroups as' bs
        let n := max 1 ((kept.length + 7) / 8)
        let pairs := (List.range n).map fun i =>
          let g := (kept.drop (8 * i)).take 8
          let a := packTiles as' g
          let b := packTiles bs g
          let pad := fun (l : List Byte) => l ++ List.replicate (256 - l.length) 0
          (i, a.1 ++ pad a.2 ++ b.1 ++ pad b.2)
        let d := { d with groupsKept := SMap.upd 0 d.groupsKept u.die (· + kept.length)
                          groupsDropped := SMap.upd 0 d.groupsDropped u.die (· + (8 * x.kt - kept.length)) }.showGroups u.die
        let ta := as'.headD {}
        let tb := bs.headD {}
        d.updCmd p q idx fun y =>
          { y with
            got := pairs.foldl (fun m e => SMap.set (fun _ => []) m e.1 e.2) (y.got.filter fun e => decide (2 ^ 40 ≤ e.1))
            aux := [ta.fmt, ta.scale, tb.fmt, tb.scale, n, 0, q] ++ y.aux.drop 7 }

/-- R278, R279, R289: a MERGE reads its descriptor, and its maps and packs its first output tile; resumed, it packs the tile it stands
at. -/
def Device.merge (d : Device) (p q : Nat) (c : Cmd) : Device :=
  if c.begun then (if d.drains p c.desc || c.got.any fun e => decide (e.1 < 2 ^ 40) then d else d.mergeTile p q c.idx)
  else
    let u := d.userOf p c 0
    match d.readDva u c.desc.q4.toNat 64 with
    | (d, .error e) => d.unitError p q c c.unit e
    | (d, .ok bs) =>
      let ws := wordsOf 8 bs
      let x := mergeDesc ws
      let mode := d.layerMode p x.layer
      match mergeDescFault ws (mode != 0) c.desc.q5 with
      | some i => (d.logSpr p 0x0D01 2 u.die x.layer c.idx 0 (wordOf i) c.stepNo).workEnds p q c.idx 4
      | none =>
        let n := (SMap.at' {} (d.part p).layers x.layer).n
        let gate : Device × Except MemErr (List Byte) :=
          if x.pred = 0 then (d, .ok [])
          else if mode = 2 then
            (if x.pred = 1 then andThen (d.clearAudited u c x n) fun _ d => (d, .ok []) else (d, .ok []))
          else andThen (d.computedWords u c x n (x.neurons 4)) fun l d => (d, .ok (l.flatMap fun w => leBytes 8 w))
        match gate with
        | (d, .error e) => d.unitError p q c c.unit e
        | (d, .ok g) =>
          (d.updCmd p q c.idx fun y =>
            { y with
              begun := true, got := SMap.set (fun _ => []) (SMap.set (fun _ => []) [] keyDesc bs) keyGate g
              aux := [0, 0, 0, 0, 0, 0, q] ++
                (if y.aux.length = 7 + (d.targets p c.desc).length then y.aux.drop 7 else List.replicate (d.targets p c.desc).length 0) }).mergeTile p q c.idx

/-- R283: the core of the next pair of a MERGE has room for it: FREE allows it. -/
def Device.mergeMay (d : Device) (p : Nat) (c : Cmd) : Bool :=
  let k := c.unit % max 1 (d.targets p c.desc).length
  decide (c.aux.getD (7 + k) 0 + 1 ≤ 2 ^ fieldOf c.desc.q6 53 50 + d.relValue p (pacingBase c.desc + 2 * k + 1))

/-- R283: the next pair of a MERGE goes to its core once FREE allows. -/
def Device.mergeDeliver (d : Device) (p q : Nat) (c : Cmd) : Device :=
  let x := c.mergeDesc
  let cores := d.targets p c.desc
  let k := c.unit % max 1 cores.length
  let a := fun i => c.aux.getD i 0
  let ring := 2 ^ fieldOf c.desc.q6 53 50
  let sent := a (7 + k)
  let pair := SMap.at' [] c.got (a 5)
  if c.begun = false ∨ pair = [] ∨ d.mergeMay p c = false then d
  else
    let core := cores.getD k 0
    let frame := fieldOf c.desc.q6 63 54 + 2 * (sent % ring)
    let hdr := fun (fmt scale run : Nat) => hdrBody fmt true (2 ^ 64 - 1) scale 0 run 0
    let scl := fun (fmt : Nat) (l : List Byte) => if isMx fmt then l else []
    let d := d.frameWrite core frame (hdr (a 0) (a 1) 0) (pair.take 4096) (scl (a 0) ((pair.drop 4096).take 256))
    let d := d.frameWrite core (frame + 1) (hdr (a 2) (a 3) 0) ((pair.drop 4352).take 4096) (scl (a 2) (pair.drop 8448))
    let d := d.updCore core fun y =>
      { y with
        scratch := y.put (4096 * fieldOf c.desc.q6 49 40 + 8 * (sent % ring))
          (leBytes 8 (a 5 * 2 ^ 48 + a 4 % 2 ^ 16 * 2 ^ 32 + c.unit)) }
    let d := d.engineSignal p q c.idx (pacingBase c.desc + 2 * k)
    let d := d.bump (.sprStatus (d.userOf p c c.unit).die) Fd.sprStatusPairs
    let last := decide (a 4 ≤ a 5 + 1)
    let d := d.updCmd p q c.idx fun y =>
      { y with
        aux := (y.aux.set 5 (a 5 + 1)).set (7 + k) (sent + 1), unit := if last then c.unit + 1 else c.unit
        got := y.got.filter fun e => e.1 != a 5 }
    if !last then d
    else if x.mt * x.nt ≤ c.unit + 1 then d.workEnds p q c.idx 0
    else if d.drains p c.desc then d
    else d.mergeTile p q c.idx

/-! ### PREDICT_CFG -/

/-- A default of the predictor: the operand, or the register's value, zero taken as 1 (R286, R296). -/
def orDefault (v dflt : Nat) : Nat := if v = 0 then max 1 dflt else v

/-- R286: BIND. -/
def Device.predictBind (d : Device) (p : Nat) (x : Desc) : Device :=
  let l := fieldOf x.q4 61 56
  let d := (d.setReg (.sprLayerState p l) (wordOf (fieldOf x.q4 31 0 * 2 ^ 32 + 1))).setReg (.sprLayerCount p l) 0
  d.updPart p fun y => { y with
    layers := SMap.set (fun _ => {}) y.layers l
      { n := fieldOf x.q5 31 0, missLimit := orDefault (fieldOf x.q5 63 48) (d.fld .sprMissLimit Fd.sprMissLimitLimit)
        denseHold := orDefault (fieldOf x.q5 47 32) (d.fld .sprDenseHold Fd.sprDenseHoldHold) } }

/-- R286: UNBIND. -/
def Device.predictUnbind (d : Device) (p l : Nat) : Device :=
  ((d.setReg (.sprLayerState p l) 0).setReg (.sprLayerCount p l) 0).updPart p fun y =>
    { y with layers := SMap.set (fun _ => {}) y.layers l {} }

/-- R290: the neurons of a range whose bit is set in a bitmap that starts at a DVA. -/
def Device.bitsIn (d : Device) (u : MemUser) (dva first n : Nat) : Device × Except MemErr (List Nat) :=
  let w0 := first / 64
  let words := (first + n + 63) / 64 - w0
  andThen (d.readDva u (dva + 8 * w0) (8 * words)) fun bs d =>
    let m := ofLeBytes bs
    (d, .ok (((List.range n).map (first + ·)).filter fun i => bitOf m (i - 64 * w0)))

/-- R290: REPORT. -/
def Device.predictReport (d : Device) (p q : Nat) (c : Cmd) : Device :=
  let x := c.desc
  let l := fieldOf x.q4 61 56
  let w := (SMap.at' {} (d.part p).layers l).n / 64
  let u := d.userOf p c 0
  let first := fieldOf x.q6 63 32
  let n := fieldOf x.q6 31 0
  match andThen (d.bitsIn u (x.q5.toNat + 8 * w) first n) fun a d =>
      andThen (d.bitsIn u (x.q5.toNat + 16 * w) first n) fun m d => (d, Except.ok (a, m)) with
  | (d, .error e) => d.unitError p q c 0 e
  | (d, .ok (a, m)) =>
    let d := (d.bump (.sprLayerCount p l) Fd.sprLayerCountAudited a.length).bump (.sprLayerCount p l) Fd.sprLayerCountMissed
      (m.filter fun i => a.contains i).length
    let d := match m.find? fun i => !a.contains i with
      | none => d
      | some i => d.logSpr p 0x0D03 0 u.die l c.idx 0 (wordOf i) c.stepNo
    d.workEnds p q c.idx 0

/-- A row of PREDICT_CFG on its command, where its OP is the row's. -/
def Device.predictRow (d : Device) (p q idx op : Nat) (f : Cmd → Device → Device) : Device :=
  d.apply p q idx 0x61 fun c d => if fieldOf c.desc.q4 63 62 = op then f c d else d

/-! ### Falling back to dense (R291) -/

/-- R291: a layer slot at the close of a step, from the totals of every chip; its mode changes at the next opening. -/
def Device.layerClose (d : Device) (p idx l audited missed : Nat) : Device :=
  let st := Reg.sprLayerState p l
  let y := SMap.at' ({} : Layer) (d.part p).layers l
  let next := fun (d : Device) (m : Nat) =>
    d.updPart p fun x => { x with layers := SMap.set (fun _ => {}) x.layers l { y with nextMode := some m } }
  let streak := d.fld st Fd.sprLayerStateStreak
  let step := d.fld (.cisPartStep p) Fd.cisPartStepStep
  let die := d.homeDie p
  match d.layerMode p l with
  | 1 =>
    if audited = 0 ∨ missed * 65536 ≤ y.missLimit * audited then d.setFld st Fd.sprLayerStateStreak 0
    else if streak < 3 then d.setFld st Fd.sprLayerStateStreak (streak + 1)
    else
      let d := (next d 2).setFld st Fd.sprLayerStateHoldLeft y.denseHold
      d.logSpr p 0x0D04 0 die l idx 0 (wordOf (audited % 2 ^ 32 + missed * 2 ^ 32)) step
  | 2 =>
    let hold := d.fld st Fd.sprLayerStateHoldLeft
    if 1 < hold then d.setFld st Fd.sprLayerStateHoldLeft (hold - 1)
    else
      let d := ((next d 1).setFld st Fd.sprLayerStateHoldLeft 0).setFld st Fd.sprLayerStateStreak 0
      d.logSpr p 0x0D05 0 die l idx 0 0 step
  | _ => d

/-- R296: SPR_CTRL.CLEAR_COUNTS of a die. -/
def Device.sprClear (d : Device) (die : Nat) : Device :=
  ({ d with
    groupsKept := SMap.set (fun _ => 0) d.groupsKept die 0
    groupsDropped := SMap.set (fun _ => 0) d.groupsDropped die 0 }.setFld (.sprStatus die) Fd.sprStatusPairs 0).resetReg (.sprGroups die)

/-! ### The meanings -/

/-- MERGE. -/
def execMerge (p q idx : Nat) (io : MemIo) (s : State) : Result :=
  run (fun d => ((d.withIo io).work p q idx 0x60 fun c d => d.merge p q c).endIo) s

/-- MERGE_PAIR_DELIVERY. -/
def execMergePairDelivery (p q idx : Nat) (io : MemIo) (s : State) : Result :=
  run (fun d => ((d.withIo io).work p q idx 0x60 fun c d => d.mergeDeliver p q c).endIo) s

/-- PREDICT_CFG BIND. -/
def execPredictBind (p q idx : Nat) (s : State) : Result :=
  run (fun d => d.predictRow p q idx 0 fun c d => (d.predictBind p c.desc).workEnds p q idx 0) s

/-- PREDICT_CFG REPORT. -/
def execPredictReport (p q idx : Nat) (io : MemIo) (s : State) : Result :=
  run (fun d => ((d.withIo io).predictRow p q idx 1 fun c d => d.predictReport p q c).endIo) s

/-- PREDICT_CFG UNBIND. -/
def execPredictUnbind (p q idx : Nat) (s : State) : Result :=
  run (fun d => d.predictRow p q idx 2 fun c d => (d.predictUnbind p (fieldOf c.desc.q4 61 56)).workEnds p q idx 0) s

/-- SPR_CLEAR_COUNTS: SPR_CTRL.CLEAR_COUNTS of a die. -/
def execSprClearCounts (die : Nat) (s : State) : Result := run (·.sprClear die) s

end Sys2Proof.Machine
end

