-- ==== Sys2Proof/Machine/Update.lean ====
section
/-! DEFINITION. Parameter update (chapter 15): rule blocks and update programs (R330 to R335), schedules (R337), the update of
one row (R333, R334) and checkpoints (R339 to R341). -/

namespace Sys2Proof.Machine

/-! ### Rule blocks (R330) -/

/-- A quadword of a rule block. -/
def Rule.q (r : Rule) (i : Nat) : Word := r.words.getD i 0
/-- Bits of quadword 0. -/
def Rule.bits (r : Rule) (hi lo : Nat) : Nat := fieldOf (r.q 0) hi lo
/-- WORDS. -/
def Rule.count (r : Rule) : Nat := r.bits 63 56
/-- STATES. -/
def Rule.states (r : Rule) : Nat := r.bits 55 53
/-- FACTORED. -/
def Rule.factored (r : Rule) : Bool := r.bits 50 50 == 1
/-- GUARD. -/
def Rule.guard (r : Rule) : Bool := r.bits 49 49 == 1
/-- NORM. -/
def Rule.norm (r : Rule) : Bool := r.bits 39 39 == 1
/-- NORM_LAYER. -/
def Rule.normLayer (r : Rule) : Nat := r.bits 47 40
/-- The handle of state table j. -/
def Rule.state (r : Rule) (j : Nat) : Nat := halfOf r.words (1 + j / 2) (1 - j % 2)
/-- State j is a scalar state. -/
def Rule.scalar (r : Rule) (j : Nat) : Bool := bitOf (r.q 0).toNat (31 + j)
/-- Constant K(i). -/
def Rule.const (r : Rule) (i : Nat) : Nat := halfOf r.words (4 + i / 2) (i % 2)

/-- R332: the operations an update program may use. -/
def updateOp (op : Nat) : Bool :=
  decide (op ≤ 0x15) || (decide (0x18 ≤ op) && decide (op ≤ 0x25)) || (decide (0x30 ≤ op) && decide (op ≤ 0x32))

/-- R330, R332: the slots a program may write: all but the read-only G and the reserved one. -/
def writableSlot (i : Nat) : Bool := i != 0 && i != 15

/-- R330, R332: a program word passes the check. -/
def updateWordOk (w : Word) (factored : Bool) : Bool :=
  let op := fieldOf w 55 49
  let kind := fieldOf w 48 46
  let usesC := op == 0x05 || op == 0x1E
  fieldOf w 63 56 == 0x42 && fieldOf w 17 0 == 0 && updateOp op && decide (kind ≤ 2) &&
  !(kind == 1 && fieldOf w 45 41 == 15) && !(kind == 2 && decide (16 ≤ fieldOf w 45 41)) &&
  !(usesC && (if bitOf w.toNat 35 then decide (16 ≤ fieldOf w 40 36) else fieldOf w 40 36 == 15)) &&
  fieldOf w 22 18 != 15 &&
  (if opCompares op then fieldOf w 30 28 != 0
   else if op == 0x32 then factored
   else writableSlot (fieldOf w 27 23))

/-- R331: a state table fits the parameter table. -/
def stateFits (t : Table) (s : Option Table) (scalar : Bool) : Bool :=
  match s with
  | none => false
  | some s =>
    !s.graph && s.fmt == 0 &&
      (if scalar then s.rowBytes == 64 && s.n == (t.n + 15) / 16 else s.rowBytes == 4 * t.elems && s.n == t.n)

/-- R330: what is wrong with a rule block for a table: the quadword, or a program word in bits 12:8. -/
def Device.ruleFault (d : Device) (p : Nat) (t : Table) (r : Rule) : Option Nat :=
  let factoredNow := ((d.part p).rules.filter fun e => ((e.2.map Rule.factored).getD false)).length
  if r.count = 0 ∨ 32 < r.count ∨ 4 < r.states ∨ (r.bits 52 51 ≠ 0 ∧ r.bits 52 51 ≠ 2) ∨ r.bits 30 16 ≠ 0 ∨
      (r.factored = true ∧ 4 ≤ factoredNow) then some 0
  else
    match (List.range r.states).find? fun j => !stateFits t (d.table p (r.state j)) (r.scalar j) with
    | some j => some (1 + j / 2)
    | none =>
      if r.q 3 ≠ 0 then some 3
      else ((List.range r.count).find? fun i => !updateWordOk (r.q (12 + i)) r.factored).map fun i => i * 256

/-! ### Update programs (R332, R333) -/

/-- R332: the slots and masks of a row as its program runs, the exact sums COLACC has added by column, and whether it ran. -/
structure UpdRun where
  slots : List (List Nat)
  masks : List (List Bool)
  col : SMap Acc := []
  ranCol : Bool := false
  deriving DecidableEq, Repr

/-- R332: the sum of a row in the tree of FSUM, pass by pass. -/
def rowSum (l : List Nat) : Nat :=
  let sums := (chunksOf 256 ((l.length + 255) / 256) l).map fun x =>
    (reduceLevels 0 8 (x ++ List.replicate (256 - x.length) 0) {}).1.getD 0 0
  match sums with
  | [] => 0
  | s :: ss => ss.foldl (fun a b => (addF32 a b).1) s

/-- R332: SIGN. -/
def signF32 (a : Nat) : Nat :=
  match f32Num a with
  | .nan => f32NaN
  | x => if x.isZero then a else if x.isNeg then f32One + 2 ^ 31 else f32One

/-- R332, R333: one program word over the e elements of a row. -/
def UpdRun.word (s : UpdRun) (r : Rule) (e : Nat) (w : Word) : UpdRun :=
  let op := fieldOf w 55 49
  let slot := fun i => s.slots.getD i []
  let all := fun v => List.replicate e v
  let a := slot (fieldOf w 22 18)
  let b := match fieldOf w 48 46 with
    | 1 => slot (fieldOf w 45 41)
    | 2 => all (r.const (fieldOf w 45 41))
    | _ => all 0
  let c := if bitOf w.toNat 35 then all (r.const (fieldOf w 40 36)) else slot (fieldOf w 40 36)
  let gov := s.masks.getD (fieldOf w 34 32) []
  let mz := bitOf w.toNat 31
  let vd := fieldOf w 27 23
  let put := fun (f : Nat → Nat) =>
    let old := slot vd
    { s with slots := s.slots.set vd ((List.range e).map fun i => if gov.getD i false then f i else if mz then 0 else old.getD i 0) }
  if opCompares op then
    let md := fieldOf w 30 28
    let old := s.masks.getD md []
    { s with masks := s.masks.set md ((List.range e).map fun i =>
        if gov.getD i false then laneTest op (a.getD i 0) (b.getD i 0) 0 else !mz && old.getD i false) }
  else if op = 0x32 then
    { s with
      ranCol := true
      col := (List.range e).foldl (fun m i =>
        if gov.getD i false then SMap.upd {} m i fun x => x.add (a.getD i 0) else m) s.col }
  else if op = 0x31 then
    let v := rowSum ((List.range e).map fun i => if gov.getD i false then a.getD i 0 else 0)
    put fun _ => v
  else if op = 0x30 then put fun i => signF32 (a.getD i 0)
  else put fun i => (laneOp op (a.getD i 0) (b.getD i 0) (c.getD i 0)).1

/-! ### Where rows lie -/

/-- A row of a table on this chip at an epoch: its map entry, unit, tile there and first byte in it. -/
structure RowAt where
  h : Nat
  m : UnitMap
  unit : Nat
  tile : Nat
  byte : Nat
  epoch : Nat
  deriving DecidableEq, Repr

/-- R26, R331, R384: row x of table t, found through the directory; a placement fault leaves it undeliverable. -/
def Device.place (d : Device) (u : MemUser) (t : Table) (h epoch x : Nat) : Device × Except MemErr RowAt :=
  let a := t.rowAt x
  match d.lookup u.part u.idx h epoch a.1 with
  | (d, none) => (d, .error (.cksum 0))
  | (d, some m) => (d, .ok { h := h, m := m, unit := a.1, tile := a.2.1, byte := a.2.2, epoch := epoch })

/-- R387, R391, R392: every address that a write of a row goes to: each copy of its unit, the copy that a pending version has
carried forward, and the destination of a move whose tiles have been copied. -/
def Device.rowTargets (d : Device) (p : Nat) (a : RowAt) : List Nat :=
  let off := 4096 * a.tile + a.byte
  let base := a.m.copies.map fun c => c * 2 ^ 50 + a.m.offset + off
  let next := match d.table p a.h with
    | none => []
    | some t =>
      match t.publish with
      | none => []
      | some b =>
        let m := t.unitAt (a.epoch + 1) a.unit
        if a.epoch = t.current ∧ b.carried.contains a.unit = true ∧ m.valid = true then
          m.copies.map fun c => c * 2 ^ 50 + m.offset + off else []
  let moved := ((d.part p).moves.filter fun v => v.handle == a.h && v.unit == a.unit && v.copied && v.kind != .dropCopy).map fun v =>
    v.dst * 2 ^ 50 + v.offset + off
  base ++ next ++ moved

/-- R341: before a row of a tile is written, the tile's content goes to each running checkpoint of its table that has not yet
written it out. -/
def Device.copyFirst (d : Device) (p : Nat) (a : RowAt) (tile : List Byte) : Device :=
  let key := a.unit * 2 ^ 24 + a.tile
  (d.part p).snapshots.foldl (fun (d : Device) e =>
    match e.2 with
    | none => d
    | some s =>
      if s.handle = a.h ∧ s.epoch = a.epoch ∧ s.unwritten.contains a.unit = true ∧ (s.tiles.any fun x => x.1 == key) = false then
        (d.updPart p fun x => { x with
          snapshots := SMap.set (fun _ => none) x.snapshots e.1 (some { s with tiles := SMap.set (fun _ => []) s.tiles key tile }) }).bump
          (.updStatus a.m.die) Fd.updStatusCopyFirst
      else d) d

/-- R220, R383: the tile a row lies in, read and verified on its owner, or from another copy of the unit. -/
def Device.rowTile (d : Device) (u : MemUser) (a : RowAt) : Device × Except MemErr TileRec :=
  andThen (d.readCopy u a.h a.unit { a.m with read := a.m.owner } a.tile) fun r d => (d, .ok r.1)

/-- How a piece of an update point ends: well, with a fault that its STEP_CLOSE shows (R221, R343), or it waits for the link to take a
write of another chip's copy. -/
inductive RowEnd where
  | good | bad | waits
  deriving DecidableEq, Repr

/-- How two pieces of an update point end together. -/
def RowEnd.and : RowEnd → RowEnd → RowEnd
  | .waits, _ | _, .waits => .waits
  | .bad, _ | _, .bad => .bad
  | .good, .good => .good

/-- How a piece that meets an error ends. -/
def RowEnd.ofErr : MemErr → RowEnd
  | .waits => .waits
  | _ => .bad

/-- R221, R392: bytes of a row written to every copy; a merge that is refused leaves its tile unchanged. -/
def Device.rowWrite (d : Device) (u : MemUser) (a : RowAt) (tile : List Byte) (bytes : List Byte) : Device × RowEnd :=
  (d.rowTargets u.part a).foldl (fun (r : Device × RowEnd) g =>
    match r.1.writePart u g bytes with
    | (d, .ok ()) => (d, r.2)
    | (d, .error e) => (d, r.2.and (.ofErr e))) (d.copyFirst u.part a tile, .good)

/-! ### One row (R333, R334) -/

/-- What the update of a table at a step works with. -/
structure UpdTable where
  u : MemUser
  h : Nat
  t : Table
  epoch : Nat
  slot : Nat
  rule : Rule
  step : Nat
  seed : Word
  factors : List Nat
  gsi : Nat
  gn2 : Nat

/-- The binary32 codes of e elements of a table's format. -/
def codesOf (fmt e : Nat) (bs : List Byte) : List Nat :=
  let w := elemBits fmt / 8
  (List.range e).map fun i => ofLeBytes ((bs.drop (w * i)).take w)

/-- A row of an update that did not go well: 0x0F02 or 0x0F04. -/
def Device.rowFault (d : Device) (x : UpdTable) (code row : Nat) (detail : Word) : Device :=
  d.logUpd x.u.part code x.u.die x.slot x.u.idx row detail x.step

/-- The state rows of a row: their place, tile and old codes; for a scalar state the one element. -/
def Device.stateRows (d : Device) (x : UpdTable) (row : Nat) : Device × Except MemErr (List (RowAt × List Byte × List Nat)) :=
  forAll (fun j d =>
    let h := x.rule.state j
    match d.table x.u.part h with
    | none => (d, .error (.cksum 0))
    | some s =>
      let epoch := d.epochFor x.u.part h
      let scalar := x.rule.scalar j
      andThen (d.place x.u s h epoch (if scalar then row / 16 else row)) fun a d =>
        let a := if scalar then { a with byte := a.byte + 4 * (row % 16) } else a
        andThen (d.rowTile x.u a) fun t d =>
          let v := t.view
          (d, .ok (a, v, codesOf 0 (if scalar then 1 else x.t.elems) (v.drop a.byte)))) (List.range x.rule.states) d

/-- R332: the slots at the start of a row: what no rule gives a value to is open. -/
def UpdTable.slots (x : UpdTable) (e free ncon : Nat) (g pr : List Nat) (states : List (List Nat)) : List (List Nat) :=
  let all := fun v => List.replicate e v
  let opened := fun i => all (fieldOf (Config.freeWord (free + i)) 31 0)
  let state := fun j =>
    match states[j]? with
    | none => opened j
    | some l => if x.rule.scalar j then all (l.getD 0 0) else l
  let col := (x.rule.col.map BitVec.toNat)
  let cmean := if x.rule.factored then all (divF32 (f32Num (rowSum col)) (.ofInt e)).1 else opened 5
  [g, pr] ++ (List.range 4).map state ++ [if x.rule.factored then col else opened 4] ++
    (List.range 4).map (fun i => all (x.factors.getD i 0)) ++ [all x.gsi, all (toF32 {} (.ofInt ncon)).1, cmean, all x.gn2, all 0] ++
    List.replicate 16 (all 0)

/-- The first element of lists that is no finite number. -/
def firstWild (fmt : Nat) (codes : List Nat) (states : List (List Nat)) : Option Nat :=
  let bad := fun (f : Nat) (l : List Nat) => (l.zipIdx.find? fun x => !(elemNum f x.1).isFin).map Prod.snd
  (bad fmt codes).orElse fun _ => states.findSome? (bad 0)

/-- R334: the squares of a list deposited in the norm store of a partition. -/
def Device.deposit (d : Device) (p entry : Nat) (vs : List Nat) : Device :=
  d.updPart p fun y => { y with normStore := SMap.upd {} y.normStore entry fun a => vs.foldl (fun a v => a.add (mulF32 v v).1) a }

/-- R333: the update of one row from its sum; bad where 0x0F02 or 0x0F04 occurred or a write of it was refused. -/
def Device.updateRow (d : Device) (x : UpdTable) (row ncon : Nat) (g : List Nat) : Device × RowEnd :=
  let e := x.t.elems
  match andThen (d.place x.u x.t x.h x.epoch row) fun a d => andThen (d.rowTile x.u a) fun t d =>
      andThen (d.stateRows x row) fun ss d => (d, Except.ok (a, t.view, ss)) with
  | (d, .error .waits) => (d, .waits)
  | (d, .error _) => (d.rowFault x 0x0F02 row (wordOf x.h), .bad)
  | (d, .ok (a, tile, ss)) =>
    let old := (codesOf x.t.fmt e (tile.drop a.byte)).map fun v => (toF32 {} (elemNum x.t.fmt v)).1
    let free := d.free
    let bit := fun m i => bitOf (Config.freeWord (free + 8 + 32 * m + i / 64)).toNat (i % 64)
    let start : UpdRun :=
      { slots := x.slots e free ncon g old (ss.map fun s => s.2.2)
        masks := List.replicate e true :: (List.range 7).map fun m => (List.range e).map (bit m) }
    let run := ((List.range x.rule.count).map fun i => x.rule.q (12 + i)).foldl (fun s w => s.word x.rule e w) start
    let d := { d with free := free + 8 + 256 }
    let d := if run.ranCol then
        d.updPart x.u.part fun y => { y with
          rules := SMap.upd none y.rules x.slot fun r => r.map fun r => { r with
            colRows := r.colRows + 1
            colAcc := run.col.foldl (fun m s => SMap.upd {} m s.1 fun o => o.plus s.2) r.colAcc } }
      else d
    let rnd := fun n => (⟨x.rule.bits 52 51, if x.rule.bits 52 51 = 2 then
      drawWord x.seed 5 (row % 2 ^ 32) (x.rule.bits 15 0 * 2 ^ 16 + row / 2 ^ 32 % 2 ^ 16) (x.step % 2 ^ 32) 0 n else 0⟩ : Rnd)
    let new := ((run.slots.getD 1 []).zipIdx.map fun v => (convert x.t.fmt (x.rule.bits 48 48 == 1) (rnd v.2) (f32Num v.1)).1)
    let states := (List.range x.rule.states).map fun j =>
      (run.slots.getD (2 + j) []).take (if x.rule.scalar j then 1 else e)
    match if x.rule.guard then firstWild x.t.fmt new states else none with
    | some i => (d.rowFault x 0x0F04 row (wordOf i), .bad)
    | none =>
      let w := elemBits x.t.fmt / 8
      let r := (ss.zip states).foldl (fun (r : Device × RowEnd) s =>
        let n := r.1.rowWrite x.u s.1.1 s.1.2.1 (s.2.flatMap fun v => leBytes 4 v)
        (n.1, r.2.and n.2)) (d.rowWrite x.u a tile (new.flatMap fun v => leBytes w v))
      let d := r.1.setReg (.updRows a.m.die) (r.1.reg (.updRows a.m.die) + 1)
      if x.rule.norm then
        let vs := new.map fun v => (toF32 {} (elemNum x.t.fmt v)).1
        let diff := (vs.zip old).map fun v => (subF32 v.1 v.2).1
        ((d.deposit x.u.part (3 * x.rule.normLayer + 1) vs).deposit x.u.part (3 * x.rule.normLayer + 2) diff, r.2)
      else (d, r.2)

/-! ### The sums of a table (R266, R267) -/

/-- R266: keyed contributions in the order of their keys. -/
def insertKeyed (c : Contribution) : List Contribution → List Contribution
  | [] => [c]
  | x :: rest => if c.chip < x.chip ∨ (c.chip = x.chip ∧ c.seq ≤ x.seq) then c :: x :: rest else x :: insertKeyed c rest

/-- A number put into an ascending list without repeats. -/
def insertOnce (n : Nat) : List Nat → List Nat
  | [] => [n]
  | x :: rest => if n < x then n :: x :: rest else if n = x then x :: rest else x :: insertOnce n rest

/-- The rows of a table that hold whole contributions, ascending. -/
def Table.touchedRows (t : Table) : List Nat :=
  let l := (t.log.filter fun c => c.parts.length == t.parts).map (·.row)
  (l ++ t.arrivals.map Prod.fst).foldl (fun a r => insertOnce r a) []

/-- R266, R267: the sum of a row and the number of its contributions. -/
def Table.rowTotal (t : Table) (row : Nat) : Nat × List Nat :=
  match t.arrivals.find? fun e => e.1 == row with
  | some e => (e.2.1, e.2.2.map BitVec.toNat)
  | none =>
    let cs := (t.log.filter fun c => c.row == row && c.parts.length == t.parts).foldl (fun l c => insertKeyed c l) []
    let add := fun (acc : List Nat) (c : Contribution) =>
      let vs := c.parts.flatMap fun x => x.2.map BitVec.toNat
      acc.zipIdx.map fun x => (addF32 x.1 (vs.getD x.2 0)).1
    (cs.length, cs.foldl add (List.replicate t.elems 0))

/-- R268: the contribution log of a table is emptied. -/
def Device.emptyLog (d : Device) (p h : Nat) : Device :=
  match d.table p h with
  | none => d
  | some t => if t.log.isEmpty && t.arrivals.isEmpty then d else d.setTable p h (some { t with log := [], arrivals := [], arrived := [] })

/-- R268: every contribution log of a partition is emptied; contributions that waited go in. -/
def Device.emptyLogs (d : Device) (p : Nat) : Device :=
  let d := (d.part p).handles.foldl (fun (d : Device) h => d.emptyLog p h) d
  ((List.range 4).foldl (fun (d : Device) die => d.showLog p die) d).heldGo p

/-- R327, R336: the update point on this chip: each table's rows in ascending order; bad where one of 0x0F02 to 0x0F04
occurred. gn2 gives the machine-wide gradient sum of squares of a norm layer. -/
def Device.updatePoint (d : Device) (p : Nat) (c : Cmd) (gn2 : Nat → Nat) : Device × RowEnd :=
  let step := d.fld (.cisPartStep p) Fd.cisPartStepStep
  (d.part p).handles.foldl (fun (s : Device × RowEnd) h =>
    let d := s.1
    match d.table p h with
    | none => s
    | some t =>
      if t.log.isEmpty && t.arrivals.isEmpty then s
      else
        let u := d.userOf p c 0
        match (d.part p).rules.findSome? fun r => r.2.bind fun x => if x.handle = h then some (r.1, x) else none with
        | none => (d.logUpd p 0x0F03 u.die 0 c.idx 0 (wordOf h) step, s.2.and .bad)
        | some (slot, r) =>
          let epoch := d.epochFor p h
          t.touchedRows.foldl (fun (s : Device × RowEnd) row =>
            let d := s.1
            let die := (t.unitAt epoch (t.unitOfRow row)).die
            let sum := t.rowTotal row
            let d := d.bump (.gthPartStatus die p) Fd.gthPartStatusRowsSummed
            let y : UpdTable :=
              { u := { u with die := die }, h := h, t := t, epoch := epoch, slot := slot, rule := r, step := step
                seed := (d.part p).seed, factors := (SMap.at' [] (d.part p).factors (r.bits 38 35)).map BitVec.toNat
                gsi := (127 - d.gradExp p) * 2 ^ 23, gn2 := gn2 r.normLayer }
            let x := d.updateRow y row sum.1 sum.2
            (x.1, s.2.and x.2)) (d, s.2)) (d, .good)

/-- R335: the column statistics after a close, from the machine-wide sums and counts of each binding slot. -/
def Device.columnClose (d : Device) (p : Nat) (others : Nat → Option (SMap Acc × Nat)) : Device :=
  d.updPart p fun y =>
    { y with
      rules := SMap.mapAll (fun _ => none) (fun r => r) (y.rules.map fun e =>
        match e.2 with
        | none => e
        | some r =>
          if !r.factored then e
          else
            let more := (others e.1).getD ([], 0)
            let rows := r.colRows + more.2
            let sum := fun i => ((SMap.at' ({} : Acc) r.colAcc i).plus (SMap.at' {} more.1 i)).f32
            let b := r.const 15
            let one := (subF32 f32One b).1
            let col := if rows = 0 then r.col else r.col.zipIdx.map fun x =>
              BitVec.ofNat 32 (addF32 (mulF32 b x.1.toNat).1 (mulF32 one (divF32 (f32Num (sum x.2)) (.ofInt rows)).1).1).1
            (e.1, some { r with col := col, colAcc := [], colRows := 0 })) }

/-! ### UPDATE (R329, R330, R337) -/

/-- A row of UPDATE on its command, where its OP is the row's. One whose slot or table has changed since it started ends with STATUS 4
(DEDUCED, log entry 100). -/
def Device.updateRowOf (d : Device) (p q idx op : Nat) (f : Cmd → Device → Device) : Device :=
  d.work p q idx 0x80 fun c d =>
    if fieldOf c.desc.q4 63 62 ≠ op then d else if d.slotBlocked p c.desc then d.workEnds p q idx 4 else f c d

/-- R329, R330: BIND. -/
def Device.updateBind (d : Device) (p q : Nat) (c : Cmd) : Device :=
  let x := c.desc
  let u := d.userOf p c 0
  let slot := fieldOf x.q4 61 57
  let h := fieldOf x.q4 31 0
  match d.readDva u x.q5.toNat 352 with
  | (d, .error e) => d.unitError p q c 0 e
  | (d, .ok bs) =>
    match d.table p h with
    | none => d.workEnds p q c.idx 4
    | some t =>
      let r : Rule := { handle := h, words := wordsOf 44 bs }
      match d.ruleFault p t r with
      | some i => (d.logUpd p 0x0F01 u.die slot c.idx 0 (wordOf i) (d.curStep p)).workEnds p q c.idx 4
      | none =>
        let r := { r with col := if r.factored then List.replicate t.elems 0 else [] }
        ((d.updPart p fun y => { y with rules := SMap.set (fun _ => none) y.rules slot (some r) }).setReg (.updBind p slot)
          (wordOf (h * 2 ^ 32 + r.bits 15 0 * 2 ^ 16 + ofBool r.factored * 8 + ofBool r.guard * 4 + ofBool r.norm * 2 + 1))).workEnds
          p q c.idx 0

/-- R329: UNBIND. -/
def Device.updateUnbind (d : Device) (p slot : Nat) : Device :=
  (d.updPart p fun y => { y with rules := SMap.set (fun _ => none) y.rules slot none }).setReg (.updBind p slot) 0

/-- R337: SCHEDULE. -/
def Device.updateSchedule (d : Device) (p q : Nat) (c : Cmd) : Device :=
  let u := d.userOf p c 0
  let k := fieldOf c.desc.q4 59 56
  match d.readDva u c.desc.q5.toNat 64 with
  | (d, .error e) => d.unitError p q c 0 e
  | (d, .ok bs) =>
    let ws := wordsOf 8 bs
    match schedFault ws with
    | some i => (d.logUpd p 0x0F01 u.die k c.idx 0 (wordOf i) (d.curStep p)).workEnds p q c.idx 4
    | none => (d.updPart p fun y => { y with nextSchedules := SMap.set (fun _ => []) y.nextSchedules k ws }).workEnds p q c.idx 0

/-! ### Checkpoints (R339, R340) -/

/-- R340: the header page of a record. -/
def recordHeader (handle step epoch range n chip fmt scale : Nat) (crcs : List Nat) : List Byte :=
  let top := leBytes 4 0x4B435957 ++ leBytes 4 handle ++ leBytes 8 step ++ leBytes 8 epoch ++ leBytes 8 range ++ leBytes 4 n ++
    leBytes 2 chip ++ leBytes 2 0 ++ leBytes 1 fmt ++ leBytes 3 0 ++ leBytes 4 scale
  let sums := (crcs.take 512).flatMap fun x => leBytes 8 x
  top ++ List.replicate (4096 - top.length) 0 ++ sums ++ List.replicate (4096 - sums.length) 0

/-- R339: the bytes of a record of n tiles. -/
def recordSize (n : Nat) : Nat := 8192 + 4096 * n

/-- R340: the tiles of a unit as a snapshot has them. -/
def Device.snapTiles (d : Device) (u : MemUser) (s : Snapshot) (unit : Nat) (m : UnitMap) : Device × Except MemErr (List (List Byte)) :=
  forAll (fun i d =>
    match s.tiles.find? fun x => x.1 == unit * 2 ^ 24 + i with
    | some x => (d, .ok x.2)
    | none => andThen (d.readCopy u s.handle unit { m with read := m.owner } i) fun r d => (d, .ok r.1.view)) (List.range m.tiles) d

/-- R339: the records a checkpoint writes: unit and tiles of each, then the column statistic's. -/
def snapRecords (s : Snapshot) (t : Table) : List (Nat × Nat) :=
  s.units.map (fun u => (u, (t.unitAt s.epoch u).tiles)) ++
    (if s.col.isEmpty then [] else [(0xFFFFFFFF, (4 * s.col.length + 4095) / 4096)])

/-- The snapshot of a checkpoint is dropped: no copies are made for it any more. -/
def Device.dropSnapshot (d : Device) (p q idx : Nat) : Device :=
  d.updPart p fun x => { x with snapshots := SMap.set (fun _ => none) x.snapshots (snapKey q idx) none }

/-- R217, R339: a checkpoint meets an error at a record: it parks or waits there with its snapshot, or ends. -/
def Device.checkpointError (d : Device) (p q : Nat) (c : Cmd) (i : Nat) (e : MemErr) : Device :=
  let d := d.unitError p q c i e
  match e with
  | .xlate _ _ _ | .waits => d
  | _ => d.dropSnapshot p q c.idx

/-- R339, R340: records written from the one the command stands at. -/
def Device.checkpointGo (p q : Nat) (c : Cmd) (s : Snapshot) (t : Table) : List (Nat × Nat) → Nat → Nat → Device → Device
  | [], _, written, d =>
    (d.dropSnapshot p q c.idx).workEnds p q c.idx 0 (wordOf written)
  | (range, n) :: rest, i, at', d =>
    let u := d.userOf p c i
    let m := t.unitAt s.epoch range
    let colTiles := (List.range n).map fun k =>
      let bs := (s.col.flatMap fun v => leBytes 4 v.toNat).drop (4096 * k) |>.take 4096
      bs ++ List.replicate (4096 - bs.length) 0
    let isCol := range == 0xFFFFFFFF && !s.col.isEmpty && rest.isEmpty
    match if isCol then (d, Except.ok colTiles) else d.snapTiles u s range m with
    | (d, .error e) => d.checkpointError p q c i e
    | (d, .ok tiles) =>
      let hdr := recordHeader s.handle s.step s.epoch range n d.chip (if isCol then 0 else t.fmt) (if isCol then f32One else t.scale)
        (tiles.map crc64)
      match d.writeDva u (c.desc.q5.toNat + at') (hdr ++ tiles.flatten) with
      | (d, .error e) => d.checkpointError p q c i e
      | (d, .ok ()) =>
        let d := d.updPart p fun x => { x with
          snapshots := SMap.upd none x.snapshots (snapKey q c.idx) fun s => s.map fun s => { s with done := i + 1 } }
        Device.checkpointGo p q c s t rest (i + 1) (at' + recordSize n) d

/-- R339: a CHECKPOINT; resumed, it goes on at its restart record. -/
def Device.checkpoint (d : Device) (p q : Nat) (c : Cmd) : Device :=
  match SMap.at' none (d.part p).snapshots (snapKey q c.idx) with
  | none => d.workEnds p q c.idx 4
  | some s =>
    match d.table p s.handle with
    | none => d.workEnds p q c.idx 4
    | some t =>
      let rs := snapRecords s t
      let size := fun (l : List (Nat × Nat)) => (l.map fun r => recordSize r.2).foldl (· + ·) 0
      if fieldOf c.desc.q6 47 0 < size rs then
        ((d.logUpd p 0x0F05 (d.homeDie p) 0 c.idx 0 (wordOf (size rs)) (d.curStep p)).dropSnapshot p q c.idx).workEnds p q c.idx 4
      else Device.checkpointGo p q c s t (rs.drop c.unit) c.unit (size (rs.take c.unit)) d

/-- R346: UPD_CTRL.CLEAR_COUNTS of a die. -/
def Device.updClear (d : Device) (die : Nat) : Device := (d.resetReg (.updRows die)).setFld (.updStatus die) Fd.updStatusCopyFirst 0

/-! ### The meanings -/

/-- UPDATE BIND. -/
def execUpdateBind (p q idx : Nat) (io : MemIo) (s : State) : Result :=
  run (fun d => ((d.withIo io).updateRowOf p q idx 0 fun c d => d.updateBind p q c).endIo) s

/-- UPDATE UNBIND. -/
def execUpdateUnbind (p q idx : Nat) (s : State) : Result :=
  run (fun d => d.updateRowOf p q idx 1 fun c d => (d.updateUnbind p (fieldOf c.desc.q4 61 57)).workEnds p q idx 0) s

/-- UPDATE SCHEDULE. -/
def execUpdateSchedule (p q idx : Nat) (io : MemIo) (s : State) : Result :=
  run (fun d => ((d.withIo io).updateRowOf p q idx 2 fun c d => d.updateSchedule p q c).endIo) s

/-- CHECKPOINT. -/
def execCheckpoint (p q idx : Nat) (io : MemIo) (s : State) : Result :=
  run (fun d => ((d.withIo io).work p q idx 0x81 fun c d => d.checkpoint p q c).endIo) s

/-- UPD_CLEAR_COUNTS: UPD_CTRL.CLEAR_COUNTS of a die. -/
def execUpdClearCounts (die : Nat) (s : State) : Result := run (·.updClear die) s

end Sys2Proof.Machine
end

