-- ==== Sys2Proof/Machine/Placement.lean ====
section
/-! DEFINITION. Placement (chapter 17): binding tables (R385, R386), publishing epochs (R387), the copying of a moved unit
(R391), the machine counter's alignment (R396 to R399) and feature levels (R401, R402). -/

namespace Sys2Proof.Machine

/-! ### Members and copies -/

/-- R371: the members of group g of a partition, by rank. -/
def Device.groupMembers (d : Device) (p g : Nat) : List Nat := (SMap.at' {} d.groups (64 * p + g)).members

/-- R383: how far a copy is from a chip: itself, its board, its second-level group, elsewhere. -/
def copyDistance (chip c : Nat) : Nat :=
  if c = chip then 0 else if c / 8 = chip / 8 then 1 else if c / 128 = chip / 128 then 2 else 3

/-- R383: copies in the order in which a chip reads them: nearer first, a tie to the lower chip number. -/
def insertCopy (chip c : Nat) : List Nat → List Nat
  | [] => [c]
  | x :: rest =>
    if copyDistance chip c < copyDistance chip x ∨ (copyDistance chip c = copyDistance chip x ∧ c ≤ x) then c :: x :: rest
    else x :: insertCopy chip c rest

/-- R382, R383: a map entry of this chip for a unit with an owner, copies, offset and tiles. -/
def Device.mapEntry (d : Device) (owner : Nat) (copies : List Nat) (offset tiles : Nat) : UnitMap :=
  let order := copies.foldl (fun l c => insertCopy d.chip c l) []
  { valid := true, owner := owner, read := order.getD 0 owner, alt := order.getD 1 (order.getD 0 owner), copies := copies
    offset := offset, tiles := tiles }

/-- What members tell of a handle put together with what they told before. -/
def MemberBind.merge (a b : MemberBind) : MemberBind :=
  { epoch := b.epoch, fail := max a.fail b.fail, offered := a.offered || b.offered, agreed := a.agreed || b.agreed
    placed := a.placed || b.placed, units := a.units ++ b.units, records := a.records ++ b.records }

/-- A member has told something of a handle at an epoch. -/
def Part.heard (x : Part) (h epoch chip : Nat) : Bool := x.confirms.any fun e => e.1 == chip && e.2.1 == h && e.2.2.epoch == epoch

/-- What a member has told of a handle at an epoch. -/
def Part.told (x : Part) (h epoch chip : Nat) : MemberBind :=
  ((x.confirms.filter fun e => e.1 == chip && e.2.1 == h && e.2.2.epoch == epoch).map fun e => e.2.2).foldl MemberBind.merge {}

/-- What members have told of a handle is forgotten. -/
def Device.forget (d : Device) (p h : Nat) : Device :=
  d.updPart p fun x => { x with confirms := x.confirms.filter fun e => e.2.1 != h }

/-- A GROUP packet about a handle to every other member. -/
def Device.tell (d : Device) (p h : Nat) (others : List Nat) (info : Nat → MemberBind) : Device :=
  others.foldl (fun (d : Device) m => d.sendGroup m (.group m (.bind p h (info m)))) d

/-! ### Images (R386, R340) -/

/-- R386: nodes of a row-block. -/
def Table.blockNodes (t : Table) (u : Nat) : Nat := min 16384 (t.n - 16384 * u)

/-- R233: tiles of the offsets of a row-block with no edges and one type. -/
def Table.emptyOffsTiles (t : Table) (u : Nat) : Nat := (4 * (t.blockNodes u + 1) + 4095) / 4096

/-- R386: a unit's tiles where no image gives it any. -/
def Table.emptyTiles (t : Table) (u : Nat) : Nat := if t.graph then 1 + t.emptyOffsTiles u else t.rangeTiles u

/-- R233, R386: tile i of a row-block that has its nodes and no edges. -/
def Table.emptyBlockTile (t : Table) (h u i : Nat) : List Byte :=
  if i = 0 then
    let offs := t.emptyOffsTiles u
    let top := leBytes 4 0x42525957 ++ leBytes 4 1 ++ leBytes 4 h ++ leBytes 4 0 ++ leBytes 8 u ++ leBytes 4 (t.blockNodes u) ++
      leBytes 1 1 ++ leBytes 3 0 ++ leBytes 4 0 ++ leBytes 4 1 ++ leBytes 4 (1 + offs)
    top ++ List.replicate (4096 - top.length) 0
  else List.replicate 4096 0

/-- R386: a record's header names the table, a unit of it, and as many tiles as the unit may have. -/
def Table.recordOk (t : Table) (h : Nat) (hdr : List Byte) : Bool :=
  let f := fun i n => ofLeBytes ((hdr.drop i).take n)
  f 4 4 == h && f 40 1 == t.fmt && f 44 4 == t.scale && decide (f 24 8 < t.unitCount) &&
    (if t.graph then decide (1 ≤ f 32 4) && decide (f 32 4 ≤ 2 ^ 24) else f 32 4 == t.rangeTiles (f 24 8))

/-- R340, R386: the CRCs of a record's tiles agree; its header page holds those of the first 512. -/
def crcsOk (page : List Byte) (tiles : List (List Byte)) : Bool :=
  (tiles.take 512).zipIdx.all fun x => ofLeBytes ((page.drop (8 * x.2)).take 8) == crc64 x.1

/-- R386: the records of an image, up to the first header page with another magic; none for a record that fails. -/
def Device.readImage (u : MemUser) (t : Table) (h : Nat) : Nat → Nat → List UnitRecord → Device →
    Device × Except MemErr (Option (List UnitRecord))
  | 0, _, got, d => (d, .ok (some got))
  | fuel + 1, dva, got, d =>
    andThen (d.readDva u dva 8192) fun hdr d =>
      if ofLeBytes (hdr.take 4) ≠ 0x4B435957 then (d, .ok (some got))
      else if !t.recordOk h hdr then (d, .ok none)
      else
        let n := ofLeBytes ((hdr.drop 32).take 4)
        andThen (forAll (fun i d => d.readDva u (dva + 8192 + 4096 * i) 4096) (List.range n) d) fun tiles d =>
          if crcsOk (hdr.drop 4096) tiles then
            Device.readImage u t h fuel (dva + 8192 + 4096 * n) (got ++ [{ unit := ofLeBytes ((hdr.drop 24).take 8), tiles := tiles }]) d
          else (d, .ok none)

/-- The image that a command names; it has no records where QW is 0. -/
def Device.imageOf (d : Device) (u : MemUser) (t : Table) (h dva : Nat) : Device × Except MemErr (Option (List UnitRecord)) :=
  if dva = 0 then (d, .ok (some [])) else Device.readImage u t h ((2 ^ 48 - dva) / 12288 + 1) dva [] d

/-! ### Writing units -/

/-- R387: tile i of a unit written on every copy. -/
def Device.writeCopies (d : Device) (u : MemUser) (m : UnitMap) (i : Nat) (hdr8 data scl : List Byte) : Device × Except MemErr Unit :=
  andThen (forAll (fun c d => d.writeTile u (m.tileOn c i) hdr8 data scl) m.copies d) fun _ d => (d, .ok ())

/-- Tile i of n of a unit written on every copy at an epoch: a record's tile, or an empty one (R386). The scale bytes of an MX
tile, which no record carries, are open. -/
def Device.newTile (d : Device) (u : MemUser) (t : Table) (h unit epoch n : Nat) (m : UnitMap) (tiles : Option (List (List Byte)))
    (i : Nat) : Device × Except MemErr Unit :=
  let run := if isMx t.fmt then (i, n) else (0, 0)
  let f := d.free
  let scl := if isMx t.fmt then (List.range 256).map (Config.freeByte f) else []
  let d := { d with free := f + 1 }
  let x : List Byte × List Byte := match tiles with
    | some l => (hdrBody t.fmt true (2 ^ 64 - 1) t.scale run.1 run.2 epoch, l.getD i [])
    | none =>
      if t.graph then (hdrBody t.fmt true (2 ^ 64 - 1) t.scale run.1 run.2 epoch, t.emptyBlockTile h unit i)
      else (hdrBody t.fmt false 0 t.scale run.1 run.2 epoch, List.replicate 4096 0)
  d.writeCopies u m i x.1 x.2 scl

/-- R218: the slots that will hold scale records are made plain tiles before the records are merged into them. -/
def Device.clearScales (d : Device) (t : Table) (off n : Nat) : Device :=
  if isMx t.fmt then
    (List.range ((256 * n + 4095) / 4096)).foldl (fun (d : Device) i =>
      d.putRec (off + 4096 * (n + i)) (hdrBody 0xA true (2 ^ 64 - 1) f32One 0 0 0) (List.replicate 4096 0) [] 0xA true (2 ^ 64 - 1)) d
  else d

/-- A whole unit written at an epoch. -/
def Device.newUnit (d : Device) (u : MemUser) (t : Table) (h unit epoch : Nat) (m : UnitMap) (tiles : Option (List (List Byte))) :
    Device × Except MemErr Unit :=
  let d := d.clearScales t m.offset m.tiles
  andThen (forAll (fun i d => d.newTile u t h unit epoch m.tiles m tiles i) (List.range m.tiles) d) fun _ d => (d, .ok ())

/-- R386: the record of a unit: that of the lowest chip that supplies one. -/
def Part.recordOf (x : Part) (h epoch unit : Nat) (own : List UnitRecord) (chip : Nat) (members : List Nat) : Option (List (List Byte)) :=
  members.findSome? fun m =>
    ((if m = chip then own else (x.told h epoch m).records).find? fun r => r.unit == unit).map (·.tiles)

/-! ### Storage (R379, R381) -/

/-- R381: storage for a unit on a die: near memory where the near pool has room after NEAR_CAP, against which the near pieces of the Cistern
count (R379), else far memory. -/
def Device.allotUnit (d : Device) (p die size : Nat) : Device × Option Nat :=
  let near := d.pool p die false
  let used := ((d.taken.filter fun r => decide (near.1 ≤ r.1) && decide (r.1 < near.1 + near.2)).map Prod.snd).foldl (· + ·) 0
  let pieces := ((d.part p).piecesOn die false).length
  if used + size + 65536 * (d.nearCap die p - pieces) ≤ near.2 then
    match d.allot p die false size 65536 with
    | (d, some o) => (d, some o)
    | (d, none) => d.allot p die true size 65536
  else d.allot p die true size 65536

/-- R380: far storage for the map of an epoch of a table, on the lowest die of the partition. -/
def Device.allotMap (d : Device) (p h epoch : Nat) : Device × Bool :=
  match d.table p h with
  | none => (d, false)
  | some t =>
    match d.allot p (d.homeDie p) true ((32 * t.unitCount + 4095) / 4096 * 4096) 4096 with
    | (d, none) => (d, false)
    | (d, some o) => (d.setTable p h (some { t with maps := SMap.set (fun _ => 0) t.maps epoch o }), true)

/-- R382: the four quadwords of a map entry. -/
def UnitMap.words (m : UnitMap) (p h epoch unit : Nat) : List Word :=
  [wordOf (h % 2 ^ 32 * 2 ^ 32 + epoch % 2 ^ 16 * 2 ^ 16 + p % 8 * 2 ^ 13 + (m.copies.length - 1) % 16 * 2 ^ 9 + ofBool m.valid),
    wordOf (unit % 2 ^ 40 * 2 ^ 24), wordOf (m.owner % 2 ^ 14 * 2 ^ 50 + m.offset % 2 ^ 50 / 2 ^ 16 * 2 ^ 16),
    wordOf (m.read % 2 ^ 14 * 2 ^ 50 + m.alt % 2 ^ 14 * 2 ^ 36)]

/-- R380, R382: the map of an epoch of a table, written in its place in far memory: entries of 32 bytes in ascending unit index. A
look-up takes the entry the state holds, which is what this one says (DESIGN CHOICE, log entry 114). -/
def Device.writeMap (d : Device) (p h epoch : Nat) : Device :=
  match d.table p h with
  | none => d
  | some t =>
    let base := SMap.at' 0 t.maps epoch
    if base = 0 then d
    else
      (List.range ((32 * t.unitCount + 4095) / 4096)).foldl (fun (d : Device) i =>
        let bytes := (List.range 128).flatMap fun k =>
          let u := 128 * i + k
          if u < t.unitCount then ((t.unitAt epoch u).words p h epoch u).flatMap fun w => leBytes 8 w.toNat else List.replicate 32 0
        d.putRec (base + 4096 * i) (hdrBody 0xA true (2 ^ 64 - 1) f32One 0 0 0) bytes [] 0xA true (2 ^ 64 - 1)) d

/-- R268, R379: the contribution log of a partition on each die takes the room its tables need. -/
def Device.growLogs (d : Device) (p : Nat) : Device × Bool :=
  let size := d.logSize p
  (d.partDies p).foldl (fun (a : Device × Bool) die =>
    let d := a.1
    if size ≤ d.fld (.gthPartLog die p) Fd.gthPartLogSize then a
    else
      match (d.setFld (.gthPartLog die p) Fd.gthPartLogSize 0).allot p die true (size * 2 ^ 24) (2 ^ 24) with
      | (_, none) => (d, false)
      | (d, some o) =>
        ((d.setFld (.gthPartLog die p) Fd.gthPartLogBase (o / 2 ^ 24)).setFld (.gthPartLog die p) Fd.gthPartLogSize size, a.2)) (d, true)

/-! ### TABLE_BIND -/

/-- R405: the record 0x1102 of a command, which ends with STATUS 0x04. -/
def Device.placeFails (d : Device) (p q : Nat) (c : Cmd) (h detail : Nat) : Device :=
  (d.logPlace p 0x1102 2 (d.homeDie p) c.idx h 0 (wordOf detail)).workEnds p q c.idx 4

/-- R386: the binding fails: nothing is bound. -/
def Device.bindFails (d : Device) (p q : Nat) (c : Cmd) (h detail : Nat) : Device :=
  ((d.setTable p h none).forget p h).placeFails p q c h detail

/-- The table that a TABLE_BIND describes, not yet bound to any epoch. -/
def tableOf (x : Desc) : Table :=
  let graph := bitOf x.q4.toNat 30
  { graph := graph, rowLog2 := fieldOf x.q4 29 27, fmt := fieldOf x.q4 26 23, group := fieldOf x.q4 22 17, n := x.q5.toNat
    scale := fieldOf x.q6 63 32, contribMax := fieldOf x.q6 31 0, current := 0 }

/-- R386, R381: the units of this chip get storage and are written. -/
def Device.placeUnits (d : Device) (p : Nat) (u : MemUser) (h : Nat) (own : List UnitRecord) (members : List Nat) : Device × Bool :=
  match d.table p h with
  | none => (d, false)
  | some t =>
    let n := max 1 members.length
    let mine := (List.range t.unitCount).filter fun x => members.getD (x % n) 0 == d.chip
    mine.foldl (fun (a : Device × Bool) unit =>
      if !a.2 then a
      else
        let d := a.1
        let dies := d.partDies p
        let die := dies.getD (unit / n % max 1 dies.length) 0
        let rec' := (d.part p).recordOf h 1 unit own d.chip members
        let tiles := (rec'.map List.length).getD (t.emptyTiles unit)
        match d.allotUnit p die (t.unitSize tiles) with
        | (d, none) => (d, false)
        | (d, some o) =>
          let m := d.mapEntry d.chip [d.chip] o tiles
          let d := d.setTable p h ((d.table p h).map fun t => t.setUnit 1 unit m)
          ((d.newUnit u t h unit 1 m rec').1, true)) (d, true)

/-- The units of a table that a chip owns at an epoch: unit, offset, tiles. -/
def Table.ownedBy (t : Table) (epoch chip : Nat) : List (Nat × Nat × Nat) :=
  (SMap.at' [] t.versions epoch).filterMap fun e =>
    if e.2.valid && e.2.owner == chip then some (e.1, e.2.offset, e.2.tiles) else none

/-- R386, R387: a member's image has been read: its records go to the members that own their units. -/
def Device.sendRecords (d : Device) (p h epoch : Nat) (own : List UnitRecord) (others : List Nat) (owner : Nat → Nat) : Device :=
  d.tell p h others fun m => { epoch := epoch, records := own.filter fun r => owner r.unit == m }

/-- R386: units of other members, as they have told where they lie. -/
def Device.learnUnits (d : Device) (p h epoch : Nat) (others : List Nat) : Device :=
  others.foldl (fun (d : Device) m =>
    ((d.part p).told h epoch m).units.foldl (fun (d : Device) e =>
      let copies := match d.table p h with
        | some t => if 1 < epoch ∧ (t.unitAt (epoch - 1) e.1).valid = true then (t.unitAt (epoch - 1) e.1).copies else [m]
        | none => [m]
      d.setTable p h ((d.table p h).map fun t => t.setUnit epoch e.1 (d.mapEntry m copies e.2.1 e.2.2))) d) d

/-- The records a command keeps of its own image. -/
def Cmd.ownRecords (c : Cmd) : List UnitRecord := c.got.map fun e => { unit := e.1, tiles := chunksOf 4096 (e.2.length / 4096) e.2 }

/-- R386: a TABLE_BIND goes on as far as it can: its image; then, once every other member's records are in, its units; then, once
every other member has confirmed, the table is bound. -/
def Device.bindGo (p q idx : Nat) : Nat → Device → Device
  | 0, d => d
  | fuel + 1, d =>
    match d.cmd? p q idx with
    | none => d
    | some c =>
      let x := c.desc
      let h := fieldOf x.q4 63 32
      let members := d.groupMembers p (fieldOf x.q4 22 17)
      let others := members.filter (· != d.chip)
      let u := d.userOf p c 0
      let stage := if c.begun then c.aux.getD 0 0 else 0
      let next := fun (d : Device) (s : Nat) => Device.bindGo p q idx fuel (d.updCmd p q idx fun c => { c with begun := true, aux := [s] })
      match others.find? fun m => ((d.part p).told h 1 m).fail != 0 with
      | some m => d.bindFails p q c h ((d.part p).told h 1 m).fail
      | none =>
        if c.worked then d
        else if stage = 0 then
          match d.imageOf u (tableOf x) h x.q7.toNat with
          | (d, .error e) => d.unitError p q c 0 e
          | (d, .ok none) => (d.tell p h others fun _ => { fail := 1 }).bindFails p q c h 1
          | (d, .ok (some rs)) =>
            let d := (d.setTable p h (some (tableOf x))).sendRecords p h 1 rs others fun u => members.getD (u % max 1 members.length) 0
            let d := d.updCmd p q idx fun c => { c with got := rs.foldl (fun m r => SMap.set (fun _ => []) m r.unit r.tiles.flatten) [] }
            next d 1
        else if stage = 1 then
          if others.all ((d.part p).heard h 1) then
            match d.placeUnits p u h c.ownRecords members with
            | (d, false) => (d.tell p h others fun _ => { fail := 2 }).bindFails p q c h 2
            | (d, true) =>
              let a := d.allotMap p h 1
              let b := a.1.growLogs p
              if a.2 && b.2 then
                let units := ((b.1.table p h).map fun t => t.ownedBy 1 d.chip).getD []
                next (b.1.tell p h others fun _ => { placed := true, units := units }) 2
              else (b.1.tell p h others fun _ => { fail := 2 }).bindFails p q c h 2
          else d
        else if others.all fun m => ((d.part p).told h 1 m).placed then
          let d := ((d.learnUnits p h 1 others).writeMap p h 1).forget p h
          (d.setTable p h ((d.table p h).map fun t => { t with current := 1 })).workEnds p q idx 0 1
        else d

/-- A row of TABLE_BIND on its command; one that has not begun is checked again as it is applied, and ends with STATUS 4 where a check no
longer holds (DEDUCED, log entry 100). Placement is firmware's, and waits while a control complex is stopped (R24). -/
def Device.bindRow (d : Device) (p q idx op : Nat) (unbind : Bool) (f : Cmd → Device → Device) : Device :=
  d.work p q idx op fun c d =>
    if (List.range 4).any d.stopped then d
    else if op = 0x90 ∧ bitOf c.desc.q4.toNat 31 ≠ unbind then d
    else
      match if c.begun then none else d.startFault p c.desc with
      | some _ => d.workEnds p q idx 4
      | none => f c d

/-- R386: UNBIND; what binds the table keeps its storage. -/
def Device.unbind (d : Device) (p h : Nat) : Device :=
  (d.setTable p h ((d.table p h).map fun t => { t with unbinding := true })).sweepTables p

/-! ### EPOCH_PUBLISH (R387) -/

/-- R387: a pending publish is dropped with the version it was building. -/
def Device.dropPublish (d : Device) (p h : Nat) : Device :=
  (d.setTable p h ((d.table p h).map fun t =>
    { t with
      publish := none, maps := SMap.keep (· != t.current + 1) t.maps
      versions := SMap.keep (· != t.current + 1) t.versions })).forget p h

/-- R387: the units of this chip get their places in version e + 1, on the die and tier they have under e, with the same copies; false where
a pool lacks room. -/
def Device.publishPlaces (d : Device) (p h : Nat) (own : List UnitRecord) (members : List Nat) : Device × Bool :=
  match d.table p h with
  | none => (d, false)
  | some t =>
    (t.ownedBy t.current d.chip).foldl (fun (a : Device × Bool) x =>
      let d := a.1
      let m := t.unitAt t.current x.1
      let tiles := (((d.part p).recordOf h (t.current + 1) x.1 own d.chip members).map List.length).getD m.tiles
      match if a.2 then d.allot p (dieOfOffset m.offset) (decide (2 ^ 40 ≤ m.offset)) (t.unitSize tiles) 65536 else (d, none) with
      | (d, none) => (d, false)
      | (d, some o) =>
        (d.setTable p h ((d.table p h).map fun t => t.setUnit (t.current + 1) x.1 (d.mapEntry d.chip m.copies o tiles)), true)) (d, true)

/-- R379, R387: the places that other members have offered for copies of their units on this chip lie in the partition's pools, and nothing
else of the chip's pools takes them. DESIGN CHOICE (log entry 141): where one does not, the publish fails as for want of room. -/
def Device.offersFit (d : Device) (p : Nat) : Bool :=
  (d.offerRanges p).all fun r =>
    let pool := d.pool p (dieOfOffset r.1) (decide (2 ^ 40 ≤ r.1))
    decide (pool.1 ≤ r.1) && decide (r.1 + r.2 ≤ pool.1 + pool.2) &&
      (d.taken.erase r).all fun s => s.2 == 0 || decide (s.1 + s.2 ≤ r.1) || decide (r.1 + r.2 ≤ s.1)

/-- R387: one unit of this chip in version e + 1, in its place on every copy: its tiles, from its record or carried forward. A tile that
cannot be read ends it with a fault. -/
def Device.publishUnit (d : Device) (p : Nat) (u : MemUser) (h unit : Nat) (rec' : Option (List (List Byte))) : Device × Except MemErr Unit :=
  match d.table p h with
  | none => (d, .ok ())
  | some t =>
    let e := t.current
    let m := t.unitAt e unit
    let m' := t.unitAt (e + 1) unit
    match rec' with
    | some _ => d.newUnit u t h unit (e + 1) m' rec'
    | none =>
      andThen (forAll (fun i d =>
        andThen (d.readCopy u h unit { m with read := d.chip } i) fun r d =>
          d.writeCopies u m' i ((r.1.hdr.drop 8).take 24 ++ leBytes 8 (e + 1) ++ r.1.hdr.drop 40) r.1.data r.2) (List.range m.tiles)
        (d.clearScales t m'.offset m'.tiles)) fun _ d => (d, .ok ())

/-- R387: the units of this chip in version e + 1. -/
def Device.publishUnits (d : Device) (p : Nat) (u : MemUser) (h : Nat) (own : List UnitRecord) (members : List Nat) :
    Device × Except MemErr Unit :=
  match d.table p h with
  | none => (d, .ok ())
  | some t =>
    andThen (forAll (fun (x : Nat × Nat × Nat) d =>
      let rec' := (d.part p).recordOf h (t.current + 1) x.1 own d.chip members
      andThen (d.publishUnit p u h x.1 rec') fun _ d =>
        (if rec'.isSome then d
          else d.setTable p h ((d.table p h).map fun t =>
            { t with publish := t.publish.map fun b => { b with carried := b.carried ++ [x.1] } }), .ok ())) (t.ownedBy t.current d.chip) d)
      fun _ d => (d, .ok ())

/-- R387: an EPOCH_PUBLISH goes on as far as it can: its image; then, once every other member's records are in, places for its units; then,
once every place is offered, its agreement to those on this chip; then, once every member agrees, the tiles. -/
def Device.publishGo (p q idx : Nat) : Nat → Device → Device
  | 0, d => d
  | fuel + 1, d =>
    match d.cmd? p q idx with
    | none => d
    | some c =>
      let x := c.desc
      let h := fieldOf x.q4 63 32
      match d.table p h with
      | none => d.placeFails p q c h 1
      | some t =>
        let members := d.groupMembers p t.group
        let others := members.filter (· != d.chip)
        let u := d.userOf p c 0
        let e := t.current + 1
        let stage := if c.begun then c.aux.getD 0 0 else 0
        let next := fun (d : Device) (s : Nat) => Device.publishGo p q idx fuel (d.updCmd p q idx fun c => { c with begun := true, aux := [s] })
        let fails := fun (d : Device) (k : Nat) =>
          ((d.tell p h others fun _ => { epoch := e, fail := k }).dropPublish p h).placeFails p q c h k
        match others.find? fun m => ((d.part p).told h e m).fail != 0 with
        | some m => (d.dropPublish p h).placeFails p q c h ((d.part p).told h e m).fail
        | none =>
          if c.worked then d
          else if stage = 0 then
            match d.imageOf u t h x.q5.toNat with
            | (d, .error k) => d.unitError p q c 0 k
            | (d, .ok none) => fails d 1
            | (d, .ok (some rs)) =>
              let d := (d.setTable p h (some { t with publish := some { switchNs := x.q7 } })).sendRecords p h e rs others fun u =>
                (t.unitAt t.current u).owner
              next (d.updCmd p q idx fun c => { c with got := rs.foldl (fun m r => SMap.set (fun _ => []) m r.unit r.tiles.flatten) [] }) 1
          else if stage = 1 then
            if others.all ((d.part p).heard h e) then
              let a := d.publishPlaces p h c.ownRecords members
              let b := a.1.allotMap p h e
              if a.2 && b.2 then
                let units := ((b.1.table p h).map fun t => t.ownedBy e d.chip).getD []
                next (b.1.tell p h others fun _ => { epoch := e, offered := true, units := units }) 2
              else fails b.1 2
            else d
          else if stage = 2 then
            if others.all fun m => ((d.part p).told h e m).offered then
              if d.offersFit p then next (d.tell p h others fun _ => { epoch := e, agreed := true }) 3 else fails d 2
            else d
          else if others.all fun m => ((d.part p).told h e m).agreed then
            match d.publishUnits p u h c.ownRecords members with
            | (_, .error .waits) => d
            | (d, .error _) => fails d 1
            | (d, .ok ()) =>
              let d := d.tell p h others fun _ => { epoch := e, placed := true }
              (d.setTable p h ((d.table p h).map fun t =>
                { t with publish := t.publish.map fun b => { b with built := true } })).workEnds p q idx 0 (wordOf e)
          else d

/-- R386, R387: a member tells that the making of an epoch has failed which this chip has finished: it fails here too. -/
def Device.memberFailed (d : Device) (p h : Nat) (info : MemberBind) : Device :=
  match d.table p h with
  | none => d
  | some t =>
    let failed := fun (d : Device) => d.logPlace p 0x1102 2 (d.homeDie p) 0 h 0 (wordOf info.fail)
    if info.epoch = 1 ∧ t.current = 1 then
      failed (((d.setTable p h none).dirDrop fun e => e.part == p && e.handle == h).forget p h)
    else if info.epoch = t.current + 1 ∧ (t.publish.map (·.built)).getD false = true then failed (d.dropPublish p h)
    else d

/-- R386: members that have not confirmed in time make the binding, or the publish, fail on every member. -/
def Device.bindTimeout (d : Device) (p q idx : Nat) : Device :=
  match d.cmd? p q idx with
  | none => d
  | some c =>
    let h := fieldOf c.desc.q4 63 32
    if c.st = .running ∧ c.begun = true ∧ c.worked = false then
      match opcodeOf c.desc, d.table p h with
      | 0x90, _ =>
        ((d.tell p h ((d.groupMembers p (fieldOf c.desc.q4 22 17)).filter (· != d.chip)) fun _ => { fail := 3 })).bindFails p q c h 3
      | 0x91, some t =>
        ((d.tell p h ((d.groupMembers p t.group).filter (· != d.chip)) fun _ => { epoch := t.current + 1, fail := 3 }).dropPublish p
          h).placeFails p q c h 3
      | _, _ => d
    else d

/-! ### Moves (R391) -/

/-- The queue number of the ready-list entries that moves take, beside queues 0 to 63. -/
def moveQueue : Nat := 64

/-- The chip at the other end of a move. -/
def Move.other (v : Move) (chip : Nat) : Nat := if v.src = chip then v.dst else v.src

/-- A move changed. -/
def Device.setMove (d : Device) (p : Nat) (v w : Move) : Device :=
  d.updPart p fun x => { x with moves := x.moves.map fun y => if y = v then w else y }

/-- A move leaves the list, with its DMA entry. -/
def Device.dropMove (d : Device) (p : Nat) (v : Move) : Device :=
  let d := match v.entry with
    | none => d
    | some n => d.dropEntries p moveQueue n
  d.updPart p fun x => { x with moves := x.moves.filter (· != v) }

/-- R393: a move is abandoned: 0x1103, and the placement stays. -/
def Device.moveAbandoned (d : Device) (p h u dst : Nat) : Device :=
  (d.logPlace p 0x1103 0 (d.homeDie p) 0 h u (wordOf dst)).bump .plcStats Fd.plcStatsAborted

/-- R391: the copying of a move that both ends make takes a DMA entry at level 15 of the ready list of its unit's die, once it has room. -/
def Device.queueMove (d : Device) (p : Nat) (v : Move) : Device :=
  match d.table p v.handle with
  | none => d
  | some t =>
    let die := (t.unitAt t.current v.unit).die
    if v.src = d.chip ∧ v.agreed = true ∧ v.kind ≠ .dropCopy ∧ v.copied = false ∧ v.entry = none ∧ d.entryFree p die = true then
      let n := d.readyStamp
      (({ d with readyStamp := n + 1 } : Device).setReady die (d.readyOf die ++ [ReadyEntry.mk p moveQueue n 4 15 n false])).setMove p v
        { v with entry := some n }
    else d

/-- R393: a chip says whether it makes its end of a move: this chip's end goes on, or is abandoned; a move not yet decided here has the
answer when it is. -/
def Device.moveSaid (d : Device) (p h u chip : Nat) (makes : Bool) : Device :=
  match (d.part p).moves.find? fun v => v.handle == h && v.unit == u && v.other d.chip == chip with
  | none => d.updPart p fun x => { x with said := x.said ++ [(chip, h, u, makes)] }
  | some v =>
    if makes then
      let w := { v with agreed := true }
      (d.setMove p v w).queueMove p w
    else
      let d := d.dropMove p v
      if v.src = d.chip then d.moveAbandoned p h u v.dst else d

/-- R391: a moved unit's tiles are copied to the chip that is to have it by the DMA group that has been granted to the move, once the control
complex of its die runs (R432). -/
def Device.copyUnit (d : Device) (p h u dst : Nat) : Device :=
  let x := d.part p
  match x.moves.find? fun v => v.handle == h && v.unit == u && v.dst == dst && v.src == d.chip && !v.copied, d.table p h with
  | some v, some t =>
    let m := t.unitAt t.current u
    if d.stopped (dieOfOffset m.offset) then d else
    let granted := v.entry.any fun n => (d.readyOf m.die).any fun e => e.part == p && e.queue == moveQueue && e.idx == n && e.granted
    if !granted then d.queueMove p v else
    let user : MemUser := { part := p, cls := 1, die := dieOfOffset m.offset }
    let d := if dst = d.chip then d.clearScales t v.offset m.tiles else d
    let r := (List.range m.tiles).foldl (fun (a : Device × Bool) i =>
      if !a.2 then a
      else
        match a.1.readCopy user h u { m with read := a.1.chip } i with
        | (d, .error _) => (d, false)
        | (d, .ok (r, scl)) =>
          match d.writeTile user (dst * 2 ^ 50 + v.offset + 4096 * i) (r.hdr.drop 8) r.data scl with
          | (d, .error _) => (d, false)
          | (d, .ok ()) => (d, true)) (d, true)
    if r.2 then
      (match v.entry with
        | none => r.1
        | some n => r.1.dropEntries p moveQueue n).setMove p v { v with copied := true, entry := none }
    else r.1
  | _, _ => d

/-! ### The machine counter (R396 to R399) -/

/-- R396: the parent of a chip among the READY chips. -/
def parentOf (ready : List Nat) (c : Nat) : Option Nat :=
  [8, 128, 16384].findSome? fun n =>
    match ready.filter fun r => r / n == c / n && decide (r < c) with
    | [] => none
    | r :: rs => some (rs.foldl min r)

/-- R396: the chips from a chip up to its master. -/
def parentChain (ready : List Nat) : Nat → Nat → List Nat
  | 0, _ => []
  | fuel + 1, c =>
    match parentOf ready c with
    | none => []
    | some r => r :: parentChain ready fuel r

/-- R397: a TIME packet's slots. -/
def timePacket (dest src die : Nat) (t1 t2 t3 : Word) (seq : Nat) (reply : Bool) : Packet :=
  [pktHeader 0xE dest src die 3 0 0 0 none 0 6, BitVec.ofNat 128 (t1.toNat + t2.toNat * 2 ^ 64),
    BitVec.ofNat 128 (t3.toNat + seq % 65536 * 2 ^ 64 + ofBool reply * 2 ^ 80)]

/-- A signed number in 32 bits. -/
def int32 (v : Int) : Nat := (v % 2 ^ 32).toNat

/-- R397: of the samples, the one of the smallest round trip, and the offset it gives. -/
def thetaOf (samples : Exchange) : Option Int :=
  let trip := fun (s : Word × Word × Word × Word) => (s.2.2.2 - s.1).toInt - (s.2.2.1 - s.2.1).toInt
  let best := samples.foldl (fun (b : Option (Word × Word × Word × Word)) s =>
    match b with
    | none => some s
    | some x => if trip s < trip x then some s else some x) none
  best.map fun s => ((s.2.1 - s.1).toInt - (s.2.2.2 - s.2.2.1).toInt) / 2

/-- R399: |θ| ≤ 7 ns. -/
def nearTheta (θ : Int) : Bool := decide (-7 ≤ θ) && decide (θ ≤ 7)

/-- R399: three successive exchanges give |θ| ≤ 7 ns. -/
def alignedIn : List (Option Int) → Bool
  | a :: b :: c :: r => (a.any nearTheta && b.any nearTheta && c.any nearTheta) || alignedIn (b :: c :: r)
  | _ => false

/-- R397: the offset and the slew that TIM_OFFSET shows. -/
def Device.setSlew (d : Device) (θ ppb : Int) : Device :=
  (d.setFld .timOffset Fd.timOffsetOffsetNs (int32 θ)).setFld .timOffset Fd.timOffsetFreqPpb (int32 ppb)

/-- R399: TIM_STATUS.STATE changes; HOLDOVER and UNALIGNED are logged as they are entered. -/
def Device.setTimeState (d : Device) (st : Nat) (θ : Int) : Device :=
  let old := d.fld .timStatus Fd.timStatusState
  let d := d.setFld .timStatus Fd.timStatusState st
  if st ≠ old ∧ (st = 3 ∨ st = 4) then d.logPlace moduleRing 0x1105 0 0 0 0 0 (BitVec.ofInt 64 θ) else d

/-- R397, R399: an exchange has given θ: the slew that removes it over 10 ms, on top of the tracked frequency difference, which
is open (200 ppm where |θ| exceeds 1 µs); and the state of the counter: LOCKED to 7 ns, UNALIGNED beyond 1 µs, one of these two, left
open, between (log entry 75). -/
def Device.takeTheta (d : Device) (θ : Int) : Device :=
  let a := d.freeValue
  let b := a.2.freeValue
  let far := decide (1000 < θ) || decide (θ < -1000)
  let ppb := if 1000 < θ then 200000 else if θ < -1000 then -200000 else max (-200000) (min 200000 (100 * θ + a.1.toInt))
  let st := if nearTheta θ then 2 else if far || bitOf b.1.toNat 0 then 4 else 2
  (b.2.setSlew θ ppb).setTimeState st θ

/-- R397: what the replies of an exchange have brought is used. -/
def Device.settleTime (d : Device) : Device :=
  match thetaOf d.time.samples with
  | none => d
  | some θ => ({ d with time := { d.time with samples := [] } } : Device).takeTheta θ

/-- R396: TIM_STATUS names the parent, the master and the hops to it. -/
def Device.showParent (d : Device) (chain : List Nat) : Device :=
  ((d.setFld .timStatus Fd.timStatusParent (chain.headD d.chip)).setFld .timStatus Fd.timStatusMaster
    (chain.getLastD d.chip)).setFld .timStatus Fd.timStatusHops chain.length

/-- R397: the next of an exchange's requests, due 4 µs after the one before, leaves by the READY port whose turn it is, with the counter as
it leaves; it waits where that port has no credit for it. -/
def Device.timeSend (d : Device) : Device :=
  if d.time.toSend = 0 ∨ d.now.toNat < d.time.nextAt.toNat then d
  else
    let ports := (List.range 28).filter fun n => d.portState n == 4
    match ports[d.time.seq % ports.length]? with
    | none => d
    | some n =>
      let k := timePacket (d.fld .timStatus Fd.timStatusParent) d.chip (n / 7) d.now 0 0 d.time.seq false
      if d.portTakes n 3 k then
        let d := d.sendOn n 3 k
        { d with time := { d.time with
          toSend := d.time.toSend - 1, nextAt := d.time.nextAt + 4000, seq := (d.time.seq + 1) % 65536 } }
      else d

/-- R397: a TIME packet: a request is answered with the parent's stamps; a reply is a sample of the exchange. -/
def Device.timePkt (d : Device) (k : Packet) : Device :=
  let s1 := (k.getD 1 0).toNat
  let s2 := (k.getD 2 0).toNat
  let w := fun v => wordOf (v % 2 ^ 64)
  if bitOf s2 80 then
    let samples := d.time.samples ++ [(w s1, w (s1 / 2 ^ 64), w s2, d.now)]
    let d := { d with time := { d.time with samples := samples } }
    if samples.length = 16 then d.settleTime else d
  else d.sendPacket (pktDie k) (timePacket (pktSrc k) d.chip (pktDie k) (w s1) d.now d.now (bitsOf s2 79 64) true)

/-- R399: no exchange has succeeded for 10 ms. -/
def Device.timeHoldover (d : Device) : Device :=
  if d.fld .timStatus Fd.timStatusState = 5 then d
  else d.setTimeState 3 (BitVec.ofNat 32 (d.fld .timOffset Fd.timOffsetOffsetNs)).toInt

/-! ### Feature levels (R401, R402) -/

/-- R402: a FEATURE packet. -/
def featurePacket (dest src base adv enabled chip kind hi : Nat) : Packet :=
  [pktHeader 0xE dest src 0 2 0 0 0 none 0 5,
    BitVec.ofNat 128 (base % 65536 + adv % 65536 * 2 ^ 16 + enabled % 65536 * 2 ^ 32 + chip % 16384 * 2 ^ 48 + kind * 2 ^ 62 + hi * 2 ^ 64)]

/-- R402: what the chip's subtree reports: chips, highest BASE, lowest ADVERTISED. -/
def Device.census (d : Device) : Nat × Nat × Nat :=
  d.time.census.foldl (fun a e => (a.1 + e.2.1, max a.2.1 e.2.2.1, min a.2.2 e.2.2.2))
    (1, d.fld .plcFeature Fd.plcFeatureBase, d.fld .plcFeature Fd.plcFeatureAdvertised)

/-- R402: PLC_CENSUS shows the subtree, and the parent is told of it. -/
def Device.showCensus (d : Device) : Device :=
  let c := d.census
  let d := d.setReg .plcCensus (wordOf (c.1 % 2 ^ 15 * 2 ^ 34 + c.2.1 % 2 ^ 16 * 2 ^ 16 + c.2.2 % 2 ^ 16))
  if d.fld .timStatus Fd.timStatusHops = 0 then d
  else
    let f := featurePacket (d.fld .timStatus Fd.timStatusParent) d.chip
    let d := d.sendPacket 0 (f (d.fld .plcFeature Fd.plcFeatureBase) (d.fld .plcFeature Fd.plcFeatureAdvertised)
      (d.fld .plcFeature Fd.plcFeatureEnabled) d.chip 0 0)
    d.sendPacket 0 (f c.2.1 c.2.2 (d.fld .plcFeature Fd.plcFeatureEnabled) d.chip 1 (c.1 % 2 ^ 15))

/-- R402: the reports kept are those of the READY chips whose parent this chip is. -/
def Device.dropChildren (d : Device) (ready : List Nat) : Device :=
  let census := d.time.census.filter fun e => ready.contains e.1 && parentOf (d.chip :: ready) e.1 == some d.chip
  { d with time := { d.time with census := census } }

/-- R396, R397: an exchange begins: what the last one brought is used; the parent, the master and the hops to it follow from the
READY chips heard; sixteen requests are to leave. The master makes none; a chip that has a parent and was the master is no longer in
step with any counter (FREE) until the exchange ends. A parent or a subtree that changes is reported (R402). -/
def Device.timeExchange (d : Device) (ready : List Nat) : Device :=
  let d := d.settleTime
  let chain := parentChain ready 3 d.chip
  let parent := d.fld .timStatus Fd.timStatusParent
  let census := d.time.census
  let d := (d.showParent chain).dropChildren ready
  let d := if d.fld .timStatus Fd.timStatusParent ≠ parent ∨ d.time.census ≠ census then d.showCensus else d
  if chain = [] then
    ({ d with time := { d.time with toSend := 0 } } : Device).setFld .timStatus Fd.timStatusState 5
  else
    let st := d.fld .timStatus Fd.timStatusState
    (({ d with time := { d.time with toSend := 16, nextAt := d.now } } : Device).setFld .timStatus Fd.timStatusState
      (if st = 5 then 0 else st)).timeSend

/-- R401, R405: the chip's range does not hold a level: 0x1106 on each formed partition's error ring (log entry 144). -/
def Device.logLevelOut (d : Device) (level : Nat) : Device :=
  ((List.range 8).filter d.formed).foldl (fun (d : Device) p =>
    d.logPlace p 0x1106 2 0 0 0 0 (wordOf (level + d.fld .plcFeature Fd.plcFeatureAdvertised * 2 ^ 16)))
    { d with levelOut := true }

/-- R401, R402: an enable reaches the chip: pending until ENABLE_NS, or outside its range; it goes on down the tree. -/
def Device.takeEnable (d : Device) (level : Nat) (ns : Word) : Device :=
  let lo := d.fld .plcFeature Fd.plcFeatureBase
  let hi := d.fld .plcFeature Fd.plcFeatureAdvertised
  let d := if lo ≤ level ∧ level ≤ hi then
      { d with enable := some (level, ns), levelOut := false }.setFld .plcFeature Fd.plcFeaturePending level
    else d.logLevelOut level
  (SMap.keys d.time.census).foldl (fun (d : Device) c => d.sendPacket 0 (featurePacket c d.chip lo hi level d.chip 2 ns.toNat)) d

/-- R402: a FEATURE packet: a report or an aggregate of a child, or an enable. -/
def Device.featurePkt (d : Device) (k : Packet) : Device :=
  let s := (k.getD 1 0).toNat
  let kind := bitsOf s 63 62
  if kind = 2 then d.takeEnable (bitsOf s 47 32) (wordOf (bitsOf s 127 64))
  else if kind = 0 ∨ kind = 1 then
    let e := (if kind = 0 then 1 else bitsOf s 78 64, bitsOf s 15 0, bitsOf s 31 16)
    ({ d with time := { d.time with census := SMap.set (fun _ => (0, 0, 0)) d.time.census (pktSrc k) e } }).showCensus
  else d

/-- R402: a write of PLC_FEATURE_CTRL with GO. -/
def Device.featureGo (d : Device) (level : Nat) : Device :=
  let c := d.census
  let result :=
    if d.fld .timStatus Fd.timStatusState ≠ 5 then 2
    else if c.1 ≠ d.fld .plcCfg Fd.plcCfgMachineChipsM1 + 1 then 3
    else if level < c.2.1 ∨ c.2.2 < level then 4
    else 1
  let d := d.setFld .plcFeatureCtrl Fd.plcFeatureCtrlResult result
  if result = 1 then d.takeEnable level (d.now + wordOf (1000000 * max 1 (d.fld .plcCfg Fd.plcCfgLeadMs)))
  else d.logPlace moduleRing 0x1107 0 0 0 0 0 (wordOf result)

/-! ### The meanings -/

/-- TABLE_BIND. -/
def execTableBind (p q idx : Nat) (io : MemIo) (s : State) : Result :=
  run (fun d => ((d.withIo io).bindRow p q idx 0x90 false fun _ d => Device.bindGo p q idx 4 d).endIo) s

/-- TABLE_BIND with UNBIND. -/
def execTableUnbind (p q idx : Nat) (s : State) : Result :=
  run (fun d => d.bindRow p q idx 0x90 true fun c d => (d.unbind p (fieldOf c.desc.q4 63 32)).workEnds p q idx 0) s

/-- EPOCH_PUBLISH. -/
def execEpochPublish (p q idx : Nat) (io : MemIo) (s : State) : Result :=
  run (fun d => ((d.withIo io).bindRow p q idx 0x91 false fun _ d => Device.publishGo p q idx 5 d).endIo) s

/-- TABLE_BIND_TIMEOUT. -/
def execTableBindTimeout (p q idx : Nat) (s : State) : Result := run (·.bindTimeout p q idx) s

/-- DIRECTORY_FILL: a look-up of a unit at an epoch. -/
def execDirectoryFill (p idx h epoch u : Nat) (s : State) : Result := run (fun d => if d.fillWaits p h epoch u then d else (d.lookup p idx h epoch u).1) s

/-- MOVE_COPY_COMPLETE. -/
def execMoveCopyComplete (p h u dst : Nat) (io : MemIo) (s : State) : Result :=
  run (fun d => ((d.withIo io).copyUnit p h u dst).endIo) s

/-- TIME_EXCHANGE: ready lists the READY chips the chip hears. -/
def execTimeExchange (ready : List Nat) (s : State) : Result := run (·.timeExchange ready) s

/-- TIME_HOLDOVER. -/
def execTimeHoldover (s : State) : Result := run (·.timeHoldover) s

/-- TIME, a packet. -/
def execTime (s : State) : Result := run (fun d => d.onPacket 0xE (fun k d => d.timePkt k) 6) s

/-- FEATURE, a packet. -/
def execFeature (s : State) : Result := run (fun d => d.onPacket 0xE (fun k d => d.featurePkt k) 5) s

/-- FEATURE_ENABLE_GO. -/
def execFeatureEnableGo (level : Nat) (s : State) : Result := run (·.featureGo (level % 65536)) s

end Sys2Proof.Machine
end

