-- ==== Sys2Proof/Machine/HeldReads.lean ====
section
/-! DEFINITION. The members and totals of a closing step (R304), the update point that is due (R328), and the READs of other chips that are
served or held (R328, R359, R368, R391, R392). -/

namespace Sys2Proof.Machine

/-! ### The group of a step -/

/-- R300, R304: the chips that contribute to the exchange of a step. -/
def Device.stepMembers (d : Device) (p : Nat) : List Nat :=
  let g := (d.part p).step.group
  if d.flag (.lnkGroup p g) Fd.lnkGroupFormed then d.groupMembers p g else [d.chip]

/-- The number of the step that closes. -/
def Device.stepNum (d : Device) (p : Nat) : Nat := d.fld (.cisPartStep p) Fd.cisPartStepStep

/-- The totals of the closing step that have come, this chip's own among them. -/
def Device.stepTotals (d : Device) (p : Nat) : List (Nat × StepTotals) :=
  let ms := d.stepMembers p
  (d.part p).totals.filter fun t => t.2.step == d.stepNum p && ms.contains t.1

/-- R328: a STEP_CLOSE of the partition stands between phases 4 and 6: every chip of its group has contributed, and its update point has not
run. -/
def Device.updateDue (d : Device) (p : Nat) : Bool :=
  !(d.part p).step.evalOnly &&
    (List.range 64).any (fun q => (d.queue p q).any fun c =>
      opcodeOf c.desc == 0x71 && c.st == .running && c.begun && !c.worked && c.got.isEmpty) &&
    (d.stepMembers p).all fun m => (d.stepTotals p).any fun t => t.1 == m

/-- R327: a table has an update binding. -/
def Part.ruled (x : Part) (h : Nat) : Bool := x.rules.any fun r => (r.2.map fun r => r.handle == h).getD false

/-! ### Placed units by offset (R390, R391) -/

/-- The unit of a table of this chip that holds an offset: partition, handle, unit. -/
def Device.unitAtOffset (d : Device) (off : Nat) : Option (Nat × Nat × Nat) :=
  (List.range 8).findSome? fun p => (d.part p).tables.findSome? fun e => e.2.bind fun t =>
    (SMap.at' [] t.versions t.current).findSome? fun u =>
      if u.2.valid && u.2.copies.contains d.chip && decide (u.2.offset ≤ off) && decide (off < u.2.offset + t.unitSize u.2.tiles) then
        some (p, e.1, u.1) else none

/-- R328, R391, R392: reads of the unit that holds an offset are held: until FINAL, or while the partition's update point is due and the
table is bound to a rule. -/
def Device.heldAt (d : Device) (off : Nat) : Bool :=
  match d.unitAtOffset off with
  | none => false
  | some (p, h, u) => d.unitHeld p h u || (d.updateDue p && (d.part p).ruled h)

/-! ### READ (R359) -/

/-- Who serves a request of another chip: the memory interface of a die. R229 gives it no engine class, which is open. -/
def Device.serveUser (d : Device) (die : Nat) : MemUser := { part := 8, cls := fieldOf (Config.freeWord d.free) 7 0, die := die }

/-- R220, R383: the chip that holds another copy of the placed unit at an offset, where this chip's map names one. -/
def Device.otherCopy (d : Device) (off : Nat) : Option Nat :=
  (d.unitAtOffset off).bind fun x => (d.table x.1 x.2.1).bind fun t =>
    let m := t.unitAt t.current x.2.2
    if m.alt = d.chip then none else some m.alt

/-- R390, R273: a READ of a placed unit is counted where it is served; that of a row's first bytes counts one row. -/
def Device.countServed (d : Device) (off n chip : Nat) : Device :=
  match d.unitAtOffset off with
  | none => d
  | some (p, h, u) =>
    let d := d.countRead p (dieOfOffset off) h u 1 chip
    match d.table p h with
    | none => d
    | some t =>
      let m := t.unitAt t.current u
      let i := off - m.offset
      if t.graph = false ∧ i < 4096 * m.tiles ∧ i % t.rowBytes = 0 ∧ n = min 256 t.rowBytes then
        d.setReg (.gthServed (dieOfOffset off)) (d.reg (.gthServed (dieOfOffset off)) + 1)
      else d

/-- R220, R359: a READ served: its responses, or one with a STATUS; none while the reading of another copy waits for a tag. -/
def Device.serveRead (d : Device) (k : Packet) : Option Device :=
  let off := pktAddr k * 16
  let n := pktRdlen k + 1
  if !offsetMapped off then some (d.respond k 8 3 (pktAddr k) [])
  else
    let u := d.serveUser (dieOfOffset off)
    match forAll (fun (s : Nat × Nat) d =>
        d.readPart u (d.ownAt s.1) s.2 ((d.otherCopy off).map fun c => c * 2 ^ 50 + s.1)) (spans 2 off (16 * n)) d with
    | (_, .error .waits) => none
    | (d, .error _) => some (d.respond k 8 4 (pktAddr k) [])
    | (d, .ok bs) =>
      let slots := slotsOf bs.flatten
      some ((List.range ((n + 15) / 16)).foldl (fun (d : Device) j =>
        d.respond k 8 0 (pktAddr k + 16 * j) ((slots.drop (16 * j)).take 16)) (d.countServed off (16 * n) (pktSrc k)))

/-- R368: a READ answered HELD is kept until its hold ends. -/
def Device.keepRead (d : Device) (k : Packet) : Device :=
  { d with heldReads := d.heldReads ++ [k] }.respond k 8 10 (pktAddr k) []

/-- R368, R391: the held reads whose hold has ended are served. -/
def Device.serveHeld (d : Device) : Device :=
  d.heldReads.foldl (fun (d : Device) k =>
    if d.heldAt (pktAddr k * 16) then d else ({ d with heldReads := d.heldReads.erase k }.serveRead k).getD d) d

end Sys2Proof.Machine
end

