-- ==== Sys2Proof/Machine/Close.lean ====
section
/-! DEFINITION. Closing a step (R303 to R306), with what happens at it: the exchange of totals (R305), the gradient scale (R309),
the layer slots (R291), the update point (R327), epochs (R388, R389) and moves (R390 to R393). -/

namespace Sys2Proof.Machine

/-! ### Exact sums -/

/-- An exact sum as another chip tells it. -/
def accOf (x : ExactSum) : Acc := { sum := x.sum, nan := x.nan, inf := x.inf }

/-- An exact sum told to another chip. -/
def Acc.told (x : Acc) : ExactSum := { sum := x.sum, nan := x.nan, inf := x.inf }

/-- Two maps of exact sums added. -/
def plusAll (a b : SMap Acc) : SMap Acc := b.foldl (fun m e => SMap.upd {} m e.1 fun x => x.plus e.2) a

/-- binary64. -/
def fmtF64 : Fmt := ⟨52, -1074, 2 ^ 53 - 1, 971, 64, some 0x7FF0000000000000, 0x7FF8000000000000⟩

/-- R306, R307: a norm entry of the summary: a sum rounded once to binary64. -/
def Acc.f64 (x : Acc) : Nat := (toFloat fmtF64 false false {} x.num).1

/-! ### Phases 1 to 3 -/

/-- R304 phase 1, R315: a SAMPLE waits for its segment: it has begun, holds no trace, and no OPEN of its segment is granted. -/
def Device.awaitsSegment (d : Device) (p : Nat) (c : Cmd) : Bool :=
  opcodeOf c.desc == 0x40 && c.st == .running && c.begun && !c.worked && c.aux.isEmpty && (d.segMask p (fieldOf c.desc.q6 15 0)).isNone

/-- R304 phase 1: a SAMPLE that waits for its segment ends. -/
def Device.endSamples (d : Device) (p : Nat) : Device :=
  (List.range 64).foldl (fun (d : Device) q =>
    (d.queue p q).foldl (fun (d : Device) c =>
      if d.awaitsSegment p c then
        (d.logStep p 0x0E04 2 (d.homeDie p) 0 c.idx (fieldOf c.desc.q6 15 0) 0 0 c.stepNo).workEnds p q c.idx 4
      else d) d) d

/-- R304 phase 2: the commands that started while the step was OPEN have retired on this chip. -/
def Device.drained (d : Device) (p : Nat) (c : Cmd) : Bool :=
  !((List.range 64).any fun q => (d.queue p q).any fun x =>
    (x.st == .running || x.st == .done) && c.aux.contains (snapKey q x.idx))

/-- R304 phase 3: the segments still open are closed, each with 0x0E03; true where there was one. -/
def Device.forceSegments (d : Device) (p idx : Nat) : Device × Bool :=
  (List.range 8).foldl (fun (a : Device × Bool) i =>
    let s := (a.1.part p).seg i
    if s.isOpen && s.gen == (a.1.part p).gen then
      let pieces := (s.entries.map (·.len)).foldl (· + ·) 0
      ((a.1.logStep p 0x0E03 0 (a.1.homeDie p) 0 idx s.mb 0 (wordOf pieces)).closeSegment p i, true)
    else a) (d, false)

/-! ### Phase 4 -/

/-- R307, R334: the norm accumulators of a chip's cores and its carried norm store. -/
def Device.ownNorms (d : Device) (p : Nat) : SMap Acc :=
  (d.partCores p).foldl (fun m c => plusAll m (d.core c).norms) (d.part p).normStore

/-- R307: the norm accumulators are cleared. -/
def Device.clearNorms (d : Device) (p : Nat) : Device :=
  let d := (d.partCores p).foldl (fun (d : Device) c => d.updCore c fun k =>
    match k.stepFrame with
    | none => k
    | some f => { k with norms := [], scratch := SMap.setList zeroByte k.scratch (4096 * f) (List.replicate 3072 0) }) d
  d.updPart p fun x => { x with normStore := [] }

/-- R388: the tables whose pending publish this chip has built. -/
def Device.builtTables (d : Device) (p : Nat) : List Nat :=
  (d.part p).handles.filter fun h => (((d.table p h).bind (·.publish)).map (·.built)).getD false

/-- R391: the map entry that a move whose copying is complete leads to. -/
def Move.change (v : Move) (m : UnitMap) : UnitChange :=
  match v.kind with
  | .move => { handle := v.handle, unit := v.unit, owner := v.dst, offset := v.offset, copies := (m.copies.filter (· != v.src)) ++ [v.dst] }
  | .addCopy => { handle := v.handle, unit := v.unit, owner := m.owner, offset := m.offset, copies := m.copies ++ [v.dst] }
  | .dropCopy => { handle := v.handle, unit := v.unit, owner := m.owner, offset := m.offset, copies := m.copies.filter (· != v.dst) }

/-- R341: a running checkpoint has yet to write out a unit. -/
def Device.unwritten (d : Device) (p h u : Nat) : Bool :=
  (d.part p).snapshots.any fun s => (s.2.map fun s => s.handle == h && s.unwritten.contains u).getD false

/-- R391: the moves of this chip's units that are announced: those both ends make whose copying is complete. One of a unit that a
checkpoint begun meanwhile has not written out waits for it (R341). -/
def Device.announced (d : Device) (p : Nat) : List UnitChange :=
  (d.part p).moves.filterMap fun v =>
    if v.copied && v.agreed && v.src == d.chip && !d.unwritten p v.handle v.unit then (d.table p v.handle).map fun t => v.change (t.unitAt t.current v.unit) else none

/-- R404: the version of this chip's placement map. -/
def Device.mapVersion (d : Device) (p : Nat) : Word :=
  wordOf (d.fld .plcFeature Fd.plcFeatureEnabled * 2 ^ 48 + (d.part p).mapSeq % 2 ^ 48)

/-- R390: the units a chip owns of a partition's tables. -/
def Device.unitsOwned (d : Device) (p chip : Nat) : Nat :=
  ((d.part p).handles.map fun h => ((d.table p h).map fun t => (t.ownedBy t.current chip).length).getD 0).foldl (· + ·) 0

/-- R390: the reads this chip has served in the step. -/
def Part.served (x : Part) : Nat := (x.unitReads.map Prod.snd).foldl (· + ·) 0

/-- R390: the bytes this chip has served and received in the step: a read counts its tile, a contribution its log entry; one of the shared
count, whose table is not kept, the least entry (DESIGN CHOICE, log entry 142). -/
def Device.loadOf (d : Device) (p : Nat) : Nat :=
  let x := d.part p
  4096 * x.served + (x.unitContribs.map fun e =>
    e.2 * (if e.1 % 2 ^ 80 = 2 ^ 79 then 16 else ((d.table p (e.1 / 2 ^ 40 % 2 ^ 32)).map Table.entryBytes).getD 16)).foldl (· + ·) 0

/-- R305: this chip's totals. -/
def Device.ownTotals (d : Device) (p : Nat) : StepTotals :=
  { step := d.stepNum p
    layers := ((List.range 64).filter fun l => d.fld (.sprLayerState p l) Fd.sprLayerStateMode != 0).map fun l =>
      (l, d.fld (.sprLayerCount p l) Fd.sprLayerCountAudited, d.fld (.sprLayerCount p l) Fd.sprLayerCountMissed)
    sat := (d.reg (.cisPartSat p)).toNat
    norms := (d.ownNorms p).map fun e => (e.1, e.2.told)
    cols := (d.part p).rules.filterMap fun e => e.2.bind fun r =>
      if r.factored then some (e.1, r.colRows, r.colAcc.map fun x => (x.1, x.2.told)) else none
    built := d.builtTables p
    changes := d.announced p
    version := d.mapVersion p
    advertised := d.fld .plcFeature Fd.plcFeatureAdvertised
    busy :=
      let s := (d.part p).step
      if d.flag .plcCfg Fd.plcCfgMbMove then some ((d.part p).busy.toNat - s.opened.toNat, s.mbFirst, s.mbFirst + s.mbCount - 1)
      else none
    binds := (d.part p).handles.flatMap fun h => match d.table p h with
      | none => []
      | some t => ((SMap.keys t.versions).filter (d.bound p h)).map fun e => (h, e)
    served := (d.part p).served
    units := d.unitsOwned p d.chip
    load := d.loadOf p }

/-- R304, R389: the chips that this chip's totals go to: the group of the step, and the members that the partition's tables are placed over. -/
def Device.toldMembers (d : Device) (p : Nat) : List Nat :=
  ((d.stepMembers p ++ (d.part p).handles.flatMap fun h => ((d.table p h).map fun t => d.groupMembers p t.group).getD []).filter
    (· != d.chip)).eraseDups

/-- R304: a STEP_CLOSE reaches phase 4: the storage of units moved at the last close is freed (R391), and the chip contributes its
totals. -/
def Device.closeBegin (d : Device) (p q : Nat) (c : Cmd) : Device :=
  let r := d.forceSegments p c.idx
  let d := r.1.updPart p fun x => { x with leaving := [], said := [] }
  let t := d.ownTotals p
  let d := (d.updPart p fun x => { x with totals := x.totals ++ [(d.chip, t)] }).clearNorms p
  let d := (d.toldMembers p).foldl (fun (d : Device) m => d.sendGroup m (.group m (.totals p t))) d
  d.updCmd p q c.idx fun x => { x with begun := true, aux := [ofBool r.2] }

/-! ### Phase 5 -/

/-- R392: this chip's phase 5 of a training step is over: the chips that hold copies of its units of bound tables are told by FINAL, and
reads of the copies it holds of other owners' units are held until theirs (DESIGN CHOICE, log entry 143). -/
def Device.copiesHeld (d : Device) (p : Nat) : Device :=
  ((d.part p).handles.filter (d.part p).ruled).foldl (fun (d : Device) h =>
    match d.table p h with
    | none => d
    | some t =>
      (SMap.at' [] t.versions t.current).foldl (fun (d : Device) e =>
        let m := e.2
        let key := (h, e.1)
        if m.valid = false ∨ m.copies.length < 2 then d
        else if m.owner = d.chip then (m.copies.filter (· != d.chip)).foldl (fun (d : Device) c => d.sendGroup c (.final c h e.1)) d
        else if m.copies.contains d.chip then
          d.updPart p fun x =>
            if x.finals.contains key then { x with finals := x.finals.filter (· != key) }
            else { x with holding := x.holding.filter (· != key) ++ [key] }
        else d) d) d

/-! ### Phases 6 and 7 -/

/-- R389: epochs that are neither current, previous nor being built, and that nothing binds, here or on another member of the table's group,
are freed. What a member binds is what it has told at its close of the step, or of a later one; while it has not, none is freed. -/
def Device.freeEpochs (d : Device) (p step : Nat) (totals : List (Nat × StepTotals)) : Device :=
  (d.part p).handles.foldl (fun (d : Device) h =>
    match d.table p h with
    | none => d
    | some t =>
      let keep := fun (e : Nat) => e == t.current || some e == t.previous || (t.publish.isSome && e == t.current + 1) || d.bound p h e ||
        !(((d.groupMembers p t.group).filter (· != d.chip)).all fun m =>
          let told := totals.filter fun x => x.1 == m && decide (step ≤ x.2.step)
          !told.isEmpty && told.all fun x => !x.2.binds.contains (h, e))
      let gone := (SMap.keys t.versions).filter fun e => !keep e
      if gone.isEmpty then d
      else
        (d.setTable p h (some { t with
          versions := SMap.keep keep t.versions, maps := SMap.keep keep t.maps
          previous := t.previous.bind fun e => if keep e then some e else none })).dirDrop fun e =>
            e.part == p && e.handle == h && gone.any fun g => g % 65536 == e.epoch) d

/-- R390: a table's copies on this chip that served no read in the step: how many steps in succession. -/
def Device.countIdle (d : Device) (p : Nat) : Device :=
  (d.part p).handles.foldl (fun (d : Device) h =>
    match d.table p h with
    | none => d
    | some t =>
      (SMap.at' [] t.versions t.current).foldl (fun (d : Device) e =>
        let key := h * 2 ^ 40 + e.1
        if e.2.copies.contains d.chip && decide (1 < e.2.copies.length) then
          d.updPart p fun x => { x with idleSteps := SMap.upd 0 x.idleSteps key fun n => if x.readsOf h e.1 = 0 then n + 1 else 0 }
        else d) d) d

/-- R331, R381: the map entry of the parameter unit that a state table's unit belongs beside, that of the unit's first row. -/
def Device.besideOf (d : Device) (p h u : Nat) : Option UnitMap :=
  (d.part p).rules.findSome? fun e => e.2.bind fun r =>
    match (List.range r.states).find? (fun j => r.state j == h), d.table p r.handle, d.table p h with
    | some j, some t, some s =>
      some (t.unitAt t.current (t.unitOfRow (u * s.rowsPerUnit * (if r.scalar j then 16 else 1))))
    | _, _, _ => none

/-- A place lies in far memory (R213). -/
def farOffset (off : Nat) : Bool := decide (2 ^ 40 ≤ off)

/-- R390: the units that a partition's tables own on a die of this chip, in one tier: handle, unit, map entry. -/
def Device.unitsOn (d : Device) (p die : Nat) (far : Bool) : List (Nat × Nat × UnitMap) :=
  (d.part p).handles.flatMap fun h => match d.table p h with
    | none => []
    | some t => (SMap.at' [] t.versions t.current).filterMap fun e =>
        if e.2.valid && e.2.owner == d.chip && e.2.die == die && farOffset e.2.offset == far then some (h, e.1, e.2) else none

/-- R390: a unit has served more than 4,096 tile reads in the step. -/
def Device.hotUnit (d : Device) (p h u : Nat) : Bool := decide (4096 < (d.part p).readsOf h u)

/-- R390: the near pool of a die lacks room for a far unit that is to be promoted. -/
def Device.roomWanted (d : Device) (p die : Nat) : Bool :=
  (d.unitsOn p die true).any fun e =>
    d.hotUnit p e.1 e.2.1 && (d.allot p die false (((d.table p e.1).map fun t => t.unitSize e.2.2.tiles).getD 0) 65536).2.isNone

/-- R390 1: a change of tier on one die: a hot far unit to near memory, or the coldest near unit to far memory to make room for one. -/
def Device.tierMove (d : Device) (p : Nat) (v : MoveChoice) (m : UnitMap) : Bool :=
  m.die == dieOfOffset v.offset &&
    (if farOffset m.offset then !farOffset v.offset && d.hotUnit p v.handle v.unit
     else
      farOffset v.offset && d.roomWanted p m.die &&
        (d.unitsOn p m.die false).all fun e => decide ((d.part p).readsOf v.handle v.unit ≤ (d.part p).readsOf e.1 e.2.1))

/-- R390 2: the reads of a unit exceed twice the mean, over the members, of reads served per unit, and no member has read it more often
than the chip that is to have the copy. -/
def Device.copyWanted (d : Device) (p : Nat) (totals : List (Nat × StepTotals)) (v : MoveChoice) : Bool :=
  let served := (totals.map fun t => t.2.served).foldl (· + ·) 0
  let units := (totals.map fun t => t.2.units).foldl (· + ·) 0
  let by' := fun (c : Nat) => SMap.at' 0 (d.part p).unitReaders (readerKey v.handle v.unit c)
  decide (2 * served < (d.part p).readsOf v.handle v.unit * units) && totals.all fun t => decide (by' t.1 ≤ by' v.dst)

/-- R390 3: the owner's bytes exceed 1.5 times the mean of the members, and no member has fewer than the destination. -/
def offLoad (totals : List (Nat × StepTotals)) (src dst : Nat) : Bool :=
  let load := fun (c : Nat) => (totals.find? fun t => t.1 == c).map fun t => t.2.load
  match load src, load dst with
  | some a, some b =>
    decide (3 * (totals.map fun t => t.2.load).foldl (· + ·) 0 < 2 * totals.length * a) && totals.all fun t => decide (b ≤ t.2.load)
  | _, _ => false

/-- R390: the place of a move in the order in which firmware considers moves; those that bring a state unit beside its parameter unit (R381)
come first. -/
def Device.moveClass (d : Device) (p : Nat) (v : MoveChoice) : Nat :=
  match v.kind with
  | .move => if (d.besideOf p v.handle v.unit).isSome then 0 else if v.src = v.dst then 1 else 3
  | _ => 2

/-- R327, R390, R391, R393: what stands against a move that firmware chooses: nothing (0), no room at its destination (1), or that no rule
gives such a move (2). What only another chip knows (the reads of a unit it owns, the room of its pools, how long it has not read a copy)
that chip checks, and tells (R393). -/
def Device.moveCheck (d : Device) (p : Nat) (totals : List (Nat × StepTotals)) (v : MoveChoice) : Nat :=
  match d.table p v.handle with
  | none => 2
  | some t =>
    let m := t.unitAt t.current v.unit
    let x := d.part p
    let size := t.unitSize m.tiles
    let busy := t.publish.isSome || t.current == 0 || t.unbinding ||
      (x.moves.any fun w => w.handle == v.handle && w.unit == v.unit) || d.unwritten p v.handle v.unit
    let alone := m.copies.all fun c => c == v.src
    let moves := match d.besideOf p v.handle v.unit with
      | some b =>
        v.dst == b.owner && dieOfOffset v.offset == b.die && (v.src != v.dst || m.die != b.die || d.tierMove p v m)
      | none => if v.src = v.dst then d.tierMove p v m else offLoad totals v.src v.dst
    let shape := v.src == m.owner && match v.kind with
      | .move => (alone || v.offset == m.offset) && (v.src == v.dst || !m.copies.contains v.dst) && moves
      | .addCopy => v.offset == m.offset && !m.copies.contains v.dst && decide (m.copies.length < 16) &&
          (v.src != d.chip || d.copyWanted p totals v)
      | .dropCopy => m.copies.contains v.dst && v.dst != m.owner &&
          (v.dst != d.chip || decide (16 ≤ SMap.at' 0 x.idleSteps (v.handle * 2 ^ 40 + v.unit)))
    let home := v.dst != d.chip || v.kind == .dropCopy || !x.ruled v.handle || (d.partDies p).contains (dieOfOffset v.offset)
    if busy || !home || !m.valid || !shape || !(v.src == d.chip || v.dst == d.chip) || v.offset % 65536 != 0 || !offsetMapped v.offset then 2
    else if v.dst = d.chip ∧ v.kind ≠ .dropCopy then
      let pool := d.pool p (dieOfOffset v.offset) (decide (2 ^ 40 ≤ v.offset))
      if pool.1 ≤ v.offset ∧ v.offset + size ≤ pool.1 + pool.2 ∧
          d.taken.all (fun r => r.2 == 0 || decide (r.1 + r.2 ≤ v.offset) || decide (v.offset + size ≤ r.1)) = true then 0
      else 1
    else 0

/-- R390, R393: one move decided, of n that this chip may still make: a chip at its other end is told whether this chip makes it, and it goes
on once both do. -/
def Device.chooseMove (p : Nat) (totals : List (Nat × StepTotals)) (a : Device × Nat) (v : MoveChoice) : Device × Nat :=
  let d := a.1
  let other := if v.src = d.chip then v.dst else v.src
  let tell := fun (d : Device) (makes : Bool) =>
    if other = d.chip then d else d.sendGroup other (.group other (.move p v.handle v.unit makes))
  let mine := fun (e : Nat × Nat × Nat × Bool) => e.1 == other && e.2.1 == v.handle && e.2.2.1 == v.unit
  let said := ((d.part p).said.find? mine).map fun e => e.2.2.2
  if a.2 = 0 ∨ (v.src ≠ d.chip ∧ v.dst ≠ d.chip) then a
  else
    let d := d.updPart p fun x => { x with said := x.said.filter fun e => !mine e }
    match d.moveCheck p totals v, said with
    | 0, some false => (if v.src = d.chip then d.moveAbandoned p v.handle v.unit v.dst else d, a.2)
    | 0, s =>
      let w : Move :=
        { handle := v.handle, unit := v.unit, src := v.src, dst := v.dst, offset := v.offset, kind := v.kind
          copied := v.kind == .dropCopy, agreed := other == d.chip || s == some true }
      ((tell (d.updPart p fun x => { x with moves := x.moves ++ [w] }) true).queueMove p w, a.2 - 1)
    | 1, _ => (tell (d.moveAbandoned p v.handle v.unit v.dst) false, a.2)
    | _, _ => (if (d.groupMembers p (((d.table p v.handle).map (·.group)).getD 0)).contains other then tell d false else d, a.2)

/-- R381: the units of state tables that this chip owns on another die than the parameter units they belong beside, which it owns too, move
there. Where the parameter unit is another chip's, the move is one of firmware's choices, as its place is found with that chip. -/
def Device.chooseBeside (p : Nat) (totals : List (Nat × StepTotals)) (a : Device × Nat) : Device × Nat :=
  ((List.range 4).flatMap fun die => a.1.unitsOn p die false ++ a.1.unitsOn p die true).foldl (fun (a : Device × Nat) e =>
    match a.1.besideOf p e.1 e.2.1, a.1.table p e.1 with
    | some b, some t =>
      if a.2 = 0 ∨ b.valid = false ∨ b.owner ≠ a.1.chip ∨ b.die = e.2.2.die then a
      else
        match a.1.allotUnit p b.die (t.unitSize e.2.2.tiles) with
        | (d, none) => (d, a.2)
        | (d, some o) =>
          Device.chooseMove p totals (d, a.2) { handle := e.1, unit := e.2.1, src := d.chip, dst := d.chip, offset := o, kind := .move }
    | _, _ => a) a

/-- R390: the moves that firmware decides at a close, in their order, at most MOVES_PER_STEP. -/
def Device.chooseMoves (d : Device) (p : Nat) (totals : List (Nat × StepTotals)) (vs : List MoveChoice) : Device :=
  if d.flag .plcCfg Fd.plcCfgMigrateEn then
    (((List.range 4).flatMap fun k => vs.filter fun v => d.moveClass p v == k).foldl (Device.chooseMove p totals)
      (Device.chooseBeside p totals (d, d.fld .plcCfg Fd.plcCfgMovesPerStep))).1
  else d

/-- R391: one announced map entry takes the place of the old one on this chip: storage it leaves is freed at the next close; where it
comes to hold the unit, its reads are held until FINAL. -/
def Device.applyChange (d : Device) (p : Nat) (ch : UnitChange) : Device :=
  match d.table p ch.handle with
  | none => d
  | some t =>
    let m := t.unitAt t.current ch.unit
    let m' := d.mapEntry ch.owner ch.copies ch.offset m.tiles
    let here := m.copies.contains d.chip && (!ch.copies.contains d.chip || ch.offset != m.offset)
    let comes := ch.copies.contains d.chip && !m.copies.contains d.chip
    let key := (ch.handle, ch.unit)
    let d := (d.setTable p ch.handle (some (t.setUnit t.current ch.unit m'))).writeMap p ch.handle t.current
    let d := d.updPart p fun x =>
      { x with
        leaving := if here then x.leaving ++ [(m.offset, t.unitSize m.tiles)] else x.leaving
        holding := if comes && !x.finals.contains key then x.holding ++ [key] else x.holding
        finals := x.finals.filter (· != key)
        moves := x.moves.filter fun v => !(v.handle == ch.handle && v.unit == ch.unit)
        mapSeq := x.mapSeq + 1 }
    d.dirDrop fun e => e.part == p && e.handle == ch.handle && e.unit == ch.unit

/-- R391, R393, R404: what the members announced takes effect, where no member refuses it; this chip sends FINAL for what it moved. -/
def Device.applyMoves (d : Device) (p : Nat) (totals : List (Nat × StepTotals)) : Device :=
  totals.foldl (fun (d : Device) t =>
    let refused := totals.any fun o => decide (o.2.advertised < fieldOf t.2.version 63 48)
    if refused then
      if t.1 = d.chip then
        t.2.changes.foldl (fun (d : Device) ch =>
          let dst := (((d.part p).moves.find? fun v => v.handle == ch.handle && v.unit == ch.unit).map (·.dst)).getD 0
          (d.updPart p fun x => { x with moves := x.moves.filter fun v => !(v.handle == ch.handle && v.unit == ch.unit) }).moveAbandoned
            p ch.handle ch.unit dst) d
      else
        d.updPart p fun x => { x with moves := x.moves.filter fun v =>
          !(t.2.changes.any fun ch => v.handle == ch.handle && v.unit == ch.unit) }
    else
      t.2.changes.foldl (fun (d : Device) ch =>
        let dst := ((d.part p).moves.find? fun v => v.handle == ch.handle && v.unit == ch.unit).map fun v => (v.dst, v.kind)
        let d := d.applyChange p ch
        if t.1 = d.chip then
          let d := d.bump .plcStats Fd.plcStatsMoves
          match dst with
          | some (c, k) => if c = d.chip ∨ k = .dropCopy then d else d.sendGroup c (.final c ch.handle ch.unit)
          | none => d
        else d) d) d

/-- R392: tile i of a unit from the first of several copies that verifies. -/
def Device.firstGood (u : MemUser) (m : UnitMap) (i : Nat) : List Nat → Device → Device × Option (TileRec × List Byte)
  | [], d => (d, none)
  | c :: cs, d =>
    match d.readTile u (m.tileOn c i) with
    | (d, .ok r) => (d, some r)
    | (d, .error _) => Device.firstGood u m i cs d

/-- R392: tiles a replica stood in for are rewritten from a copy that verifies. -/
def Device.mendTiles (d : Device) (p : Nat) : Device :=
  let d := (d.part p).mend.foldl (fun (d : Device) x =>
    match d.table p x.1 with
    | none => d
    | some t =>
      let m := t.unitAt t.current x.2.1
      let u : MemUser := { part := p, cls := 8, die := d.homeDie p }
      match Device.firstGood u m x.2.2 (m.copies.filter (· != m.read)) d with
      | (d, none) => d
      | (d, some (r, scl)) => (d.writeTile u (m.tileOn m.read x.2.2) (r.hdr.drop 8) r.data scl).1) d
  d.updPart p fun x => { x with mend := [] }

/-- R388: the publishes that the exchange found complete on every member, this chip as it told at phase 4. -/
def Device.completePublishes (d : Device) (p : Nat) (totals : List (Nat × StepTotals)) : Device :=
  ((totals.filter fun x => x.1 == d.chip).flatMap fun x => x.2.built).foldl (fun (d : Device) h =>
    match d.table p h with
    | none => d
    | some t =>
      let others := (d.groupMembers p t.group).filter (· != d.chip)
      let all := t.publish.isSome && others.all fun m => totals.any (fun x => x.1 == m && x.2.built.contains h) && ((d.part p).told h (t.current + 1) m).placed
      if all then
        let d := ((d.learnUnits p h (t.current + 1) others).writeMap p h (t.current + 1)).forget p h
        d.setTable p h ((d.table p h).map fun t => { t with publish := t.publish.map fun b => { b with all := true } })
      else d) d

/-- R394: members by the time at which their engines finished, the last first; of equal times the lower chip number first. -/
def insertBusy (x : Nat × Nat × Nat) : List (Nat × Nat × Nat) → List (Nat × Nat × Nat)
  | [] => [x]
  | y :: ys => if y.2.1 < x.2.1 ∨ (y.2.1 = x.2.1 ∧ x.1 ≤ y.1) then x :: y :: ys else y :: insertBusy x ys

/-- R394: the moves of one close, from members as chip, time and highest micro-batch: the last to finish hands a micro-batch to the
first, the next to last to the next, while their times differ by more than 20 % of the earlier (DESIGN CHOICE, log entry 106). -/
def mbMoveList (l : List (Nat × Nat × Nat)) : List MbMove :=
  let s := l.foldr insertBusy []
  ((s.zip s.reverse).take (s.length / 2)).filterMap fun x =>
    if 120 * x.2.2.1 < 100 * x.1.2.1 then some { src := x.1.1, dst := x.2.1, mb := x.1.2.2 } else none

/-- R394: with MB_MOVE 1, every member computes the micro-batches that move in the next step. -/
def Device.moveBatches (d : Device) (p : Nat) (totals : List (Nat × StepTotals)) : Device :=
  if d.flag .plcCfg Fd.plcCfgMbMove then
    d.updPart p fun x => { x with nextMoves := mbMoveList (totals.filterMap fun t => t.2.busy.map fun b => (t.1, b.1, b.2.2)) }
  else d

/-- R297, R304 phase 7: the partition is CLOSED: its tables are bound to no step, and its step view is cleared. Totals that members have told
of a later step stay. -/
def Device.closeStep (d : Device) (p : Nat) : Device :=
  let step := d.stepNum p
  let later := fun (t : Nat × StepTotals) => decide (step < t.2.step)
  let told := (d.part p).totals
  let d := d.bindTables p fun _ => 0
  let d := (d.updPart p fun x => { x with lastClosed := step, totals := x.totals.filter later, normIncomplete := false, mbMoves := [] }).setStepState p 0
  (((d.freeEpochs p step told).sweepBinds p).sweepTables p).clearView p

/-- R304 phase 7: a STEP_CLOSE ends. -/
def Device.closeDone (d : Device) (p q : Nat) (c : Cmd) (status flags : Nat) : Device :=
  (d.closeStep p).workEnds p q c.idx status (wordOf flags)

/-- R304 phases 6 and 7, R306: the summary, kept in the command, is written by DVA with the counter as it is then; then the partition is
CLOSED. -/
def Device.closeSummary (d : Device) (p q idx : Nat) : Device :=
  match d.cmd? p q idx with
  | none => d
  | some c =>
    let kept := SMap.at' [] c.got 0
    let bytes := kept.take 16 ++ leBytes 8 d.now.toNat ++ kept.drop 24
    match d.writeDva (d.userOf p c 1) c.desc.q4.toNat bytes with
    | (d, .ok ()) => d.closeDone p q c (c.aux.getD 1 0) (c.aux.getD 2 0)
    | (d, .error (.xlate kind addr inj)) => d.park p q c 1 kind addr inj
    | (d, .error .waits) => d
    | (d, .error _) => d.closeDone p q c 4 (c.aux.getD 2 0)

/-- R306: the bytes of a summary, but for the counter at the end of phase 6. -/
def Device.summaryBytes (d : Device) (p flags scale chips sat : Nat) (layers : List (Nat × Nat)) (norms : SMap Acc) : List Byte :=
  leBytes 8 (d.stepNum p) ++ leBytes 8 (d.part p).step.opened.toNat ++ leBytes 8 0 ++ leBytes 8 flags ++ leBytes 4 scale ++
  leBytes 4 chips ++ leBytes 8 sat ++ leBytes 16 0 ++
  (layers.flatMap fun l => leBytes 4 l.1 ++ leBytes 4 l.2) ++
  ((List.range 768).flatMap fun i => leBytes 8 (SMap.at' ({} : Acc) norms i).f64) ++ List.replicate 1472 0

/-- R309: E and the clean count after a close with a saturation total. -/
def Device.scaleClose (d : Device) (p idx sat : Nat) : Device :=
  let r := Reg.cisPartStep p
  let e := d.gradExp p
  if 0 < sat then
    ((d.setFld r Fd.cisPartStepGscaleExp (e - 1)).setFld r Fd.cisPartStepCleanSteps 0).logStep p 0x0E07 0 (d.homeDie p) 0 idx 0 0 (wordOf sat)
  else
    let clean := d.fld r Fd.cisPartStepCleanSteps + 1
    let grow := (d.part p).step.growInterval
    if grow ≠ 0 ∧ clean = grow then (d.setFld r Fd.cisPartStepGscaleExp (min (e + 1) 24)).setFld r Fd.cisPartStepCleanSteps 0
    else d.setFld r Fd.cisPartStepCleanSteps (min clean 255)

/-- The sums of a list of totals: audited and missed of layer slot l. -/
def layerSum (ts : List (Nat × StepTotals)) (l : Nat) : Nat × Nat :=
  (ts.flatMap fun t => t.2.layers.filter fun x => x.1 == l).foldl (fun a x => (a.1 + x.2.1, a.2 + x.2.2)) (0, 0)

/-- The norm sums of a list of totals. -/
def normTotal (ts : List (Nat × StepTotals)) : SMap Acc :=
  ts.foldl (fun m t => plusAll m (t.2.norms.map fun e => (e.1, accOf e.2))) []

/-- The column sums and counts that other members contribute to a binding slot. -/
def colSum (ts : List (Nat × StepTotals)) (slot : Nat) : Option (SMap Acc × Nat) :=
  ts.foldl (fun a t =>
    match t.2.cols.find? fun x => x.1 == slot with
    | none => a
    | some x =>
      let old := a.getD ([], 0)
      some (plusAll old.1 (x.2.2.map fun e => (e.1, accOf e.2)), old.2 + x.2.1)) none

/-- The counts of every layer slot in a list of totals. -/
def layerSums (ts : List (Nat × StepTotals)) : List (Nat × Nat) := (List.range 64).map (layerSum ts)

/-- The saturations of a list of totals. -/
def satTotal (ts : List (Nat × StepTotals)) : Nat := (ts.map fun t => t.2.sat).foldl (· + ·) 0

/-- R304 phase 4: what the totals of every member decide: the layer slots of a training step, the column statistics and the publishes. -/
def Device.exchanged (d : Device) (p : Nat) (c : Cmd) (totals : List (Nat × StepTotals)) : Device :=
  let d := if (d.part p).step.evalOnly then d
    else (layerSums totals).zipIdx.foldl (fun (d : Device) l => d.layerClose p c.idx l.2 l.1.1 l.1.2) d
  (d.columnClose p (colSum (totals.filter fun t => t.1 != d.chip))).completePublishes p totals

/-- R304, R309: phase 5 updates parameters: the exchange is whole, the step trains, and no saturation skips the update. -/
def Device.updates (d : Device) (p : Nat) (totals : List (Nat × StepTotals)) (whole : Bool) : Bool :=
  let s := (d.part p).step
  whole && !s.evalOnly && !(s.skipOnSat && decide (0 < satTotal totals))

/-- R304 phases 4 and 5: what the exchange decides, and then the update point. -/
def Device.closeUpdates (d : Device) (p : Nat) (c : Cmd) (totals : List (Nat × StepTotals)) (whole : Bool) : Device × RowEnd :=
  let d' := if whole then d.exchanged p c totals else d
  if d.updates p totals whole then d'.updatePoint p c fun l => (SMap.at' ({} : Acc) (normTotal totals) (3 * l)).f32 else (d', .good)

/-- R304: what follows the exchange: totals gives what is summed, came how many members
contributed, and whole whether every one did. An update point that has to wait for the link, to write another chip's copy, has not begun: it
is never interrupted (R344). -/
def Device.closeRest (d : Device) (p q : Nat) (c : Cmd) (totals : List (Nat × StepTotals)) (came : Nat) (whole : Bool) (moves : List MoveChoice) : Device :=
  let s := (d.part p).step
  let eval := s.evalOnly
  let sat := satTotal totals
  let norms := normTotal totals
  let apply := d.updates p totals whole
  let bad := norms.any fun e => e.2.nan || e.2.inf
  let r := d.closeUpdates p c totals whole
  if r.2 = .waits then d else
  let d := if eval then r.1 else (r.1.emptyLogs p).copiesHeld p
  let d := if whole && !eval then d.scaleClose p c.idx sat else d
  let d := if whole then d else d.logStep p 0x0E08 2 (d.homeDie p) 0 c.idx 0 0 (wordOf came)
  let flags := ofBool whole + 2 * ofBool (whole && !eval && decide (0 < sat)) + 4 * ofBool apply + 8 * c.aux.getD 0 0 +
    16 * ofBool (d.part p).normIncomplete + 32 * ofBool s.notSealed + 64 * ofBool bad
  -- phase 7, but for the state itself
  let d := if whole then (d.applyMoves p totals).moveBatches p totals else d
  let d := ((d.countIdle p).mendTiles p).chooseMoves p totals moves
  let bytes := d.summaryBytes p flags ((127 + d.gradExp p) * 2 ^ 23) came sat (layerSums totals) norms
  let status := if !whole || r.2 = .bad then 4 else 0
  ((d.updCmd p q c.idx fun x =>
    { x with unit := 1, got := SMap.set (fun _ => []) x.got 0 bytes, aux := [x.aux.getD 0 0, status, flags] }).serveHeld).closeSummary p q c.idx

/-- R304: STEP_CLOSE goes on: through its drain to the exchange; or, resumed, its summary. -/
def Device.stepClose (d : Device) (p q : Nat) (c : Cmd) : Device :=
  if c.begun then (if c.got.isEmpty then d else d.closeSummary p q c.idx)
  else
    let d := d.endSamples p
    if d.drained p c then d.closeBegin p q c else d

/-- R305: the exchange is complete: every chip of the group has contributed. What follows needs the directory and firmware's placement
decisions, so it waits while a control complex is stopped (R24, R432). -/
def Device.exchangeDone (d : Device) (p q : Nat) (c : Cmd) (moves : List MoveChoice) : Device :=
  let ts := d.stepTotals p
  if c.begun = true ∧ c.got.isEmpty = true ∧ (d.stepMembers p).all (fun m => ts.any fun t => t.1 == m) = true ∧
      (List.range 4).any d.stopped = false then
    d.closeRest p q c ts ts.length true moves
  else d

/-- R304: EXCHANGE_US has passed since the chip reached phase 4. -/
def Device.exchangeTimeout (d : Device) (p q : Nat) (c : Cmd) : Device :=
  let ts := d.stepTotals p
  if c.begun = true ∧ c.got.isEmpty = true ∧ !((d.stepMembers p).all fun m => ts.any fun t => t.1 == m) then
    d.closeRest p q c (ts.filter fun t => t.1 == d.chip) ts.length false []
  else d

/-! ### The meanings -/

/-- STEP_CLOSE. -/
def execStepClose (p q idx : Nat) (io : MemIo) (s : State) : Result :=
  run (fun d => ((d.withIo io).work p q idx 0x71 fun c d => d.stepClose p q c).endIo) s

/-- STEP_EXCHANGE_COMPLETE, with the moves firmware decides at phase 7. -/
def execStepExchangeComplete (p q idx : Nat) (moves : List MoveChoice) (io : MemIo) (s : State) : Result :=
  run (fun d => ((d.withIo io).work p q idx 0x71 fun c d => d.exchangeDone p q c moves).endIo) s

/-- STEP_EXCHANGE_TIMEOUT. -/
def execStepExchangeTimeout (p q idx : Nat) (io : MemIo) (s : State) : Result :=
  run (fun d => ((d.withIo io).work p q idx 0x71 fun c d => d.exchangeTimeout p q c).endIo) s

end Sys2Proof.Machine
end

