-- ==== Sys2Proof/Machine/Collectives.lean ====
section
/-! DEFINITION. Collective groups and collectives (R370 to R373), and remote signals (R365, R404, R419). -/

namespace Sys2Proof.Machine

/-! ### Groups -/

/-- Group g of a partition. -/
def Device.group (d : Device) (p g : Nat) : Group := SMap.at' {} d.groups (64 * p + g)

/-- The device with a group set. -/
def Device.setGroup (d : Device) (p g : Nat) (x : Group) : Device :=
  { d with groups := SMap.set (fun _ => {}) d.groups (64 * p + g) x }

/-- R374: a collective that failed: 0x1006, with the group and the rank of the first member absent or at odds. -/
def Device.logColl (d : Device) (p idx g rank chip : Nat) : Device :=
  d.logLink p 0x1006 2 0xFF (d.homeDie p) chip idx 0 0 (wordOf (g + rank % 65536 * 2 ^ 16)) 0

/-- The members of a command's own FORM: the list it has read. -/
def Cmd.formList (c : Cmd) : List Nat := ((c.got.find? fun e => e.1 == 0).map fun e => chipList e.2).getD []

/-- R371: the votes for a group's formation that agree with a list and level, by member. -/
def Device.voteOf (d : Device) (p g chip : Nat) : Option FormVote := (d.group p g).votes.find? fun v => v.chip == chip

/-- R371: a FORM that has a member's vote. -/
def Device.addVote (d : Device) (p g : Nat) (v : FormVote) : Device :=
  let x := d.group p g
  d.setGroup p g { x with votes := (x.votes.filter fun w => w.chip != v.chip) ++ [v] }

/-- R371: the votes a FORM has used are gone; others wait for the next FORM of the group. -/
def Device.useVotes (d : Device) (p g : Nat) (used : List FormVote) : Device :=
  let x := d.group p g
  d.setGroup p g { x with votes := x.votes.filter fun v => !used.contains v }

/-- R371, R404: the group is formed once every member has issued FORM with the same list and level; a member below the level, or a
machine level outside this chip's range, makes it fail. -/
def Device.formGo (d : Device) (p q : Nat) (c : Cmd) : Device :=
  let x := c.desc
  let g := fieldOf x.q4 59 54
  let level := fieldOf x.q4 47 32
  let l := c.formList
  let votes := l.filterMap fun m => d.voteOf p g m
  let agree := fun (v : FormVote) => v.members == l && v.level == level
  if c.begun = false ∨ votes.length ≠ l.length ∨ !votes.all agree then d
  else
    match votes.find? fun v => decide (v.advertised < level) || decide (v.enabled < level) with
    | some v =>
      ((d.useVotes p g votes).logPlace p 0x1106 2 (d.homeDie p) c.idx 0 0
        (wordOf (level + min v.advertised v.enabled * 2 ^ 16))).workEnds p q c.idx 4
    | none =>
      if d.levelOut then
        ((d.useVotes p g votes).logPlace p 0x1106 2 (d.homeDie p) c.idx 0 0
          (wordOf (level + d.fld .plcFeature Fd.plcFeatureEnabled * 2 ^ 16))).workEnds p q c.idx 4
      else
        let rank := (l.idxOf d.chip)
        let d := d.useVotes p g votes
        ((d.setGroup p g { d.group p g with members := l, seq := 0 }).setReg (.lnkGroup p g)
          (wordOf (2 ^ 63 + level * 2 ^ 32 + (l.length - 1) * 2 ^ 18 + rank * 2 ^ 4))).workEnds p q c.idx 0

/-- R370, R371: FORM reads its list, votes and tells the other members. -/
def Device.formStart (d : Device) (p q : Nat) (c : Cmd) : Device :=
  let x := c.desc
  let g := fieldOf x.q4 59 54
  let level := fieldOf x.q4 47 32
  if c.begun then d.formGo p q c
  else
    match d.readDva (d.userOf p c 0) x.q5.toNat (2 * (fieldOf x.q4 13 0 + 1)) with
    | (d, .error e) => d.unitError p q c 0 e
    | (d, .ok bs) =>
      let c' := { c with begun := true, got := [(0, bs)] }
      let l := c'.formList
      if !d.listOk l then (d.logColl p c.idx g 0 d.chip).workEnds p q c.idx 4
      else
        let adv := d.fld .plcFeature Fd.plcFeatureAdvertised
        let en := d.fld .plcFeature Fd.plcFeatureEnabled
        let d := d.addVote p g { chip := d.chip, members := l, level := level, advertised := adv, enabled := en }
        let d := (l.filter (· != d.chip)).foldl (fun (d : Device) m => d.sendGroup m (.group m (.form p g l level adv en))) d
        (d.updCmd p q c.idx fun _ => c').formGo p q c'

/-- R371: a FORM, or a collective, whose members have not come in time. -/
def Device.collTimeout (d : Device) (p q idx : Nat) : Device :=
  match d.cmd? p q idx with
  | none => d
  | some c =>
    if opcodeOf c.desc = 0xB0 ∧ fieldOf c.desc.q4 63 60 = 0 ∧ c.st = .running ∧ c.begun = true ∧ c.worked = false then
      let g := fieldOf c.desc.q4 59 54
      let l := c.formList
      let odd := fun (m : Nat) => match d.voteOf p g m with
        | none => true
        | some v => v.members != l || v.level != fieldOf c.desc.q4 47 32
      let m := (l.find? odd).getD d.chip
      ((d.setGroup p g { d.group p g with votes := [] }).logColl p idx g (l.idxOf m) m).workEnds p q idx 4
    else d

/-- R393: the moves of units of the tables placed over a group are abandoned: each chip that has one of them to make logs it. -/
def Device.dropMoves (d : Device) (p g : Nat) : Device :=
  let mine := fun (v : Move) => ((d.table p v.handle).map (·.group)) == some g
  ((d.part p).moves.filter mine).foldl (fun (d : Device) v =>
    let d := d.dropMove p v
    if v.src = d.chip then d.moveAbandoned p v.handle v.unit v.dst else d) d

/-- R370: a group is disbanded on this chip; the votes of members for its next FORM stay (R371). -/
def Device.disband (d : Device) (p g : Nat) : Device :=
  let d := d.dropMoves p g
  ({ d with collData := d.collData.filter fun x => !(x.part == p && x.group == g) }.setGroup p g
    { votes := (d.group p g).votes.filter fun v => v.chip != d.chip }).setReg (.lnkGroup p g) 0

/-! ### ALLREDUCE, BROADCAST and ALLGATHER -/

/-- R371: what a COLLECTIVE is, for the matching of members. -/
def collWhat (x : Desc) : CollWhat :=
  match fieldOf x.q4 63 60 with
  | 2 => { op := 2, dtype := fieldOf x.q4 53 50, rop := fieldOf x.q4 49 48, count := fieldOf x.q4 31 0, root := 0 }
  | 3 => { op := 3, dtype := 0, rop := 0, count := fieldOf x.q4 31 0, root := fieldOf x.q4 47 34 }
  | o => { op := o, dtype := 0, rop := 0, count := fieldOf x.q4 31 0, root := 0 }

/-- R370: bytes of an element of a DTYPE. -/
def dtypeBytes (t : Nat) : Nat := if t = 1 then 2 else 4

/-- The bytes each member brings to a collective, and the bytes of a chunk. -/
def whatBytes (w : CollWhat) : Nat := if w.op = 2 then w.count * dtypeBytes w.dtype else w.count
def whatChunk (w : CollWhat) : Nat := if w.op = 2 then 4096 * dtypeBytes w.dtype else 16384

/-- R358: a member's data sent to the others in COLL packets. The layout of the slot that names group, sequence, chunk and source
rank is not given: its value is open. -/
def Device.sendColl (d : Device) (p : Nat) (w : CollWhat) (others : List Nat) (bytes : List Byte) : Device :=
  let f := d.free
  let d := { d with free := f + 1 }
  (List.range ((bytes.length + 255) / 256)).foldl (fun (d : Device) i =>
    let data := slotsOf ((bytes.drop (256 * i)).take 256)
    let chunk := 256 * i / whatChunk w
    others.foldl (fun (d : Device) m =>
      d.sendPacket (chunk % 4) (pktHeader 5 m d.chip (chunk % 4) (2 + data.length) 0 0 p none 0 0 ::
        BitVec.ofNat 128 (Config.freeWord f).toNat :: data)) d) d

/-- The bytes a rank has sent for a collective, in order of place. -/
def Device.collBytes (d : Device) (p g seq rank : Nat) (w : CollWhat) : List Byte :=
  ((d.collData.filter fun x => x.part == p && x.group == g && x.seq == seq && x.rank == rank).foldl
    (fun (m : SMap (List Byte)) x => SMap.set (fun _ => []) m (x.chunk * whatChunk w + x.off) x.data) []).flatMap Prod.snd

/-- R372: one operation of an ALLREDUCE on codes of binary32 or INT32. -/
def collOp (dtype rop a b : Nat) : Nat :=
  match dtype, rop with
  | 0xA, 2 => maxS a b
  | 0xA, 3 => minS a b
  | 0xA, _ => (a + b) % 2 ^ 32
  | _, 2 => maxF32 a b
  | _, 3 => minF32 a b
  | _, _ => (addF32 a b).1

/-- R372: one level of the tree. -/
def collLevel (op : Nat → Nat → Nat) : List Nat → List Nat
  | [] => []
  | [a] => [a]
  | a :: b :: rest => op a b :: collLevel op rest

/-- R372: the tree over values in rank order. -/
def collTree (op : Nat → Nat → Nat) : Nat → List Nat → Nat
  | 0, l => l.headD 0
  | fuel + 1, l => match l with
    | [a] => a
    | _ => collTree op fuel (collLevel op l)

/-- R372, R142: the result of one element from the values of all ranks. -/
def collElem (dtype rop c : Nat) (values : List Nat) : Nat :=
  let n := values.length
  if rop = 1 then (values.foldl (fun (a : Acc) v => a.add v) {}).f32
  else
    let r := collTree (collOp dtype rop) 15 ((List.range n).map fun j => values.getD ((c + j) % n) 0)
    if dtype = 0xA then r else canonF32 r

/-- R372: the bytes an ALLREDUCE writes. -/
def reduceBytes (w : CollWhat) (ranks : List (List Byte)) : List Byte :=
  let b := dtypeBytes w.dtype
  let code := fun (l : List Byte) (i : Nat) =>
    let v := ofLeBytes ((l.drop (b * i)).take b)
    if w.dtype = 1 then v * 65536 else v
  (List.range w.count).flatMap fun i =>
    let r := collElem w.dtype w.rop (i / 4096) (ranks.map fun l => code l i)
    leBytes b (if w.dtype = 1 then (convert 1 false {} (f32Num r)).1 else r)

/-- A collective of a command is over. -/
def Device.collEnds (d : Device) (p q idx g seq status : Nat) : Device :=
  let x := d.group p g
  ({ d with collData := d.collData.filter fun y => !(y.part == p && y.group == g && y.seq == seq) }.setGroup p g
    { x with told := x.told.filter fun t => t.2.1 != seq }).workEnds p q idx status

/-- R371, R372: a collective goes on: it fails where a member begins another one; it ends when all data has come. -/
def Device.collGo (d : Device) (p q : Nat) (c : Cmd) : Device :=
  let x := c.desc
  let g := fieldOf x.q4 59 54
  let w := collWhat x
  let seq := c.aux.getD 0 0
  let members := d.groupMembers p g
  let others := members.filter (· != d.chip)
  let told := fun m => (d.group p g).told.find? fun t => t.1 == m && t.2.1 == seq
  match others.find? fun m => (told m).any fun t => t.2.2 != w with
  | some m => (d.logColl p c.idx g (members.idxOf m) m).collEnds p q c.idx g seq 4
  | none =>
    let need := fun (rank : Nat) => if w.op = 3 ∧ rank ≠ w.root then 0 else whatBytes w
    let own := SMap.at' [] c.got 0
    let bytes := members.zipIdx.map fun m => if m.1 = d.chip then own else d.collBytes p g seq m.2 w
    if (others.all fun m => (told m).isSome) && bytes.zipIdx.all fun b => b.1.length == need b.2 then
      let out := match w.op with
        | 2 => reduceBytes w bytes
        | _ => bytes.flatten
      match d.writeDva (d.userOf p c 0) x.q6.toNat out with
      | (d, .error e) => d.unitError p q c 0 e
      | (d, .ok ()) => d.collEnds p q c.idx g seq 0
    else d

/-- R370, R371: a collective begins: it reads what this member brings, and tells and sends it to the others. -/
def Device.collStart (d : Device) (p q : Nat) (c : Cmd) : Device :=
  if c.begun then d.collGo p q c
  else
    let x := c.desc
    let g := fieldOf x.q4 59 54
    let w := collWhat x
    let members := d.groupMembers p g
    let brings := w.op ≠ 3 ∨ members.idxOf d.chip = w.root
    match if brings then d.readDva (d.userOf p c 0) x.q5.toNat (whatBytes w) else (d, .ok []) with
    | (d, .error e) => d.unitError p q c 0 e
    | (d, .ok bs) =>
      let y := d.group p g
      let others := members.filter (· != d.chip)
      let c' := { c with begun := true, got := if bs.isEmpty then [] else [(0, bs)], aux := [y.seq + 1] }
      let d := (d.setGroup p g { y with seq := y.seq + 1 }).updCmd p q c.idx fun _ => c'
      let d := others.foldl (fun (d : Device) m => d.sendGroup m (.group m (.coll p g (y.seq + 1) w))) d
      (d.sendColl p w others bs).collGo p q c'

/-- A row of COLLECTIVE on its command, where its OP is the row's; one that has not begun is checked again as it is applied, and ends with
STATUS 4 where a check no longer holds (DEDUCED, log entry 100). -/
def Device.collRow (d : Device) (p q idx op : Nat) (f : Cmd → Device → Device) : Device :=
  d.work p q idx 0xB0 fun c d =>
    if fieldOf c.desc.q4 63 60 ≠ op then d
    else
      match if c.begun then none else d.startFault p c.desc with
      | some _ => d.workEnds p q idx 4
      | none => f c d

/-- R406: the units that a chip owned of the tables that a group places are lost with its memory: their entries of the maps are no longer
VALID, and no directory entry answers for them. -/
def Device.unitsLost (d : Device) (p g chip : Nat) : Device :=
  (d.part p).handles.foldl (fun (d : Device) h =>
    match d.table p h with
    | none => d
    | some t =>
      let lost := fun (m : UnitMap) => m.valid && m.owner == chip
      if t.group ≠ g ∨ !(t.versions.any fun v => v.2.any fun e => lost e.2) then d
      else
        let gone := fun u => t.versions.any fun v => lost (SMap.at' {} v.2 u)
        let versions := t.versions.map fun v => (v.1, SMap.mapAll (fun _ => {}) (fun m => if lost m then { m with valid := false } else m) v.2)
        let d := d.setTable p h (some { t with versions := versions })
        let d := d.updPart p fun x => { x with holding := x.holding.filter fun k => !(k.1 == h && gone k.2) }
        let d := d.dirDrop fun e => e.part == p && e.handle == h && gone e.unit
        (SMap.keys t.versions).foldl (fun (d : Device) e => d.writeMap p h e) d) d

/-- R371, R375, R406: a member of a group has been reset: the group is disbanded and its collectives here fail; a vote of it is gone, and so
are the units that it owned. -/
def Device.memberGone (d : Device) (p g chip : Nat) : Device :=
  let d := (d.useVotes p g ((d.group p g).votes.filter fun v => v.chip == chip)).unitsLost p g chip
  if d.groupMembers p g ≠ [] then
    let rank := (d.groupMembers p g).idxOf chip
    let d := (List.range 64).foldl (fun (d : Device) q =>
      (d.queue p q).foldl (fun (d : Device) c =>
        if opcodeOf c.desc = 0xB0 ∧ c.st = .running ∧ c.begun = true ∧ c.worked = false ∧ fieldOf c.desc.q4 59 54 = g ∧
            fieldOf c.desc.q4 63 60 ≠ 5 then d.workEnds p q c.idx 4
        else d) d) d
    (d.logColl p 0 g rank chip).disband p g
  else d

/-! ### Remote signals (R365, R404, R419) -/

/-- R375: a partition under a partition or compute reset answers with STATUS 2. -/
def Device.resetting (d : Device) (p : Nat) : Bool := d.ctxState p == 5

/-- R375: a compute reset runs. -/
def Device.computeResetting (d : Device) : Bool := d.resets.any fun r => r.scope == 4

/-- R404: a chip is a member of a formed group of a partition. -/
def Device.groupedWith (d : Device) (p chip : Nat) : Bool :=
  (List.range 64).any fun g => d.flag (.lnkGroup p g) Fd.lnkGroupFormed && (d.groupMembers p g).contains chip

/-- R419: signals held for a partition, by die. -/
def Device.heldOn (d : Device) (p die : Nat) : Nat := (d.heldSignals.filter fun h => h.part == p && h.die == die).length

/-- R419, CTX_PART_STATUS.HELD_SIGNALS. -/
def Device.countHeld (d : Device) (p : Nat) : Device :=
  d.setFld (.ctxPartStatus p) Fd.ctxPartStatusHeldSignals (d.heldSignals.filter fun h => h.part == p).length

/-- R424: bytes 32 to 63 of a context or reset record, of a partition or none (0xFF); unused fields are zero. -/
def Device.logCtx (d : Device) (code cls part action ctx idx : Nat) (detail : Word) : Device :=
  let at' := if part < 8 then part else 0
  d.log moduleRing { code := code, cls := cls, part := part
                     body := [wordOf (at' + action % 256 * 2 ^ 8 + ctx % 2 ^ 32 * 2 ^ 32), wordOf (idx % 2 ^ 32), detail, d.now] }

/-- R419: signals that are discarded: 0x1203 once for each source chip. -/
def Device.logDiscarded (d : Device) (held : List HeldSignal) (p action idx : Nat) : Device :=
  let ctx := (held.head?.map (·.ctx)).getD 0
  ((held.map (·.src)).eraseDups).foldl (fun (d : Device) src => d.logCtx 0x1203 2 p action ctx idx (wordOf src)) d

/-- R419: the signals held for a partition are discarded: 0x1203 once for each source chip. -/
def Device.discardHeld (d : Device) (p action idx : Nat) : Device :=
  let d := d.logDiscarded (d.heldSignals.filter fun h => h.part == p) p action idx
  ({ d with heldSignals := d.heldSignals.filter fun h => h.part != p } : Device).countHeld p

/-- R365: a signal of a chip applied to a device object. What the object then shows of the signaller besides its chip is open. -/
def Device.applyRemote (d : Device) (p n op amount src : Nat) : Device :=
  let f := d.freeValue
  (f.2.signal p n op amount (wordOf (src * 2 ^ 50 + fieldOf f.1 49 32 * 2 ^ 32)) 0).1

/-- R121, R404: a chip is in the sync domain of a partition: this chip, or a member of one of its groups, at the machine's level. -/
def Device.inDomain (d : Device) (p src : Nat) : Bool := src == d.chip || (!d.levelOut && d.groupedWith p src)

/-- R365, R404, R419: a signal from a chip on a relative object of a partition; gives the STATUS of its ACK. -/
def Device.chipSignal (d : Device) (p rel op amount src : Nat) : Device × Nat :=
  let held := decide (2 ≤ d.ctxState p) && decide (d.ctxState p ≤ 4)
  if d.resetting p || d.computeResetting then (d, 2)
  else if !d.formed p then (d, 7)
  else if !held && !d.inDomain p src then (d, 6)
  else if op = 0 then (d, 0)
  else
    match d.syncOf p rel with
    | none => (d, 3)
    | some n =>
      if held then
        if 256 ≤ d.heldOn p (objDie n) then (d.creditStall (objDie n), 5)
        else
          let h : HeldSignal := { part := p, ctx := (d.part p).ctxId, die := objDie n, rel := rel, op := op, amount := amount, src := src }
          (({ d with heldSignals := d.heldSignals ++ [h] } : Device).countHeld p, 0)
      else (d.applyRemote p n op amount src, 0)

/-! ### PUT (R373) -/

/-- The pieces of a PUT: place in its data and length, each within one slot of memory and one packet. -/
def putPieces (addr n : Nat) : List (Nat × Nat) :=
  (spans (n / 4096 + 2) addr n).flatMap fun s => (List.range ((s.2 + 255) / 256)).map fun i =>
    (s.1 - addr + 256 * i, min 256 (s.2 - 256 * i))

/-- R364: a SIGNAL of a command has ended: its flow is free once every SIGNAL of it has been acknowledged. One that timed out was not, and
its flow stays taken until a reset. -/
def Device.signalEnds (d : Device) (r : Request) (status : Nat) : Device :=
  match (d.cmd? r.part r.q r.idx).bind (·.flow) with
  | none => d
  | some f =>
    let done := fun (d : Device) => d.updCmd r.part r.q r.idx fun x => { x with flow := none }
    if pktType r.pkt ≠ 4 then d
    else if status = 15 then done d
    else if (d.cmdReqs r.part r.q r.idx).any fun e => pktType e.2.pkt == 4 then d
    else done (d.freeFlow r.die f)

/-- R373: a PUT is over when every ACK has come; a flow that no SIGNAL announced is then free (DEDUCED, log entry 140). -/
def Device.putEnd (d : Device) (p q idx : Nat) : Device :=
  match d.cmd? p q idx with
  | none => d
  | some c =>
    if opcodeOf c.desc ≠ 0xB0 ∨ c.begun = false ∨ c.worked = true ∨ (d.cmdReqs p q idx) ≠ [] then d
    else
      let d := match c.flow with
        | none => d
        | some f => d.freeFlow (d.homeDie p) f
      d.workEnds p q idx (if c.bad then 4 else 0)

/-- R373: a PUT on this chip itself: its bytes are merged, and its signal is given. -/
def Device.putHere (d : Device) (p q : Nat) (c : Cmd) (u : MemUser) (bs : List Byte) : Device :=
  let x := c.desc
  let r := (putPieces x.q6.toNat bs.length).foldl (fun (a : Device × Bool) s =>
    let off := offOf x.q6.toNat + s.1
    if !offsetMapped off then (a.1, false)
    else
      match a.1.mergeWrite u off ((bs.drop s.1).take s.2) true with
      | (d, .ok ()) => (d, a.2)
      | (d, .error _) => (d, false)) (d, true)
  let op := fieldOf x.q7 22 20
  let t := if op = 0 then (r.1, 0) else r.1.chipSignal (fieldOf x.q7 19 17) (fieldOf x.q7 16 0) op (fieldOf x.q7 63 32) d.chip
  t.1.workEnds p q c.idx (if r.2 && t.2 == 0 then 0 else 4)

/-- R373: PUT sends its bytes in WRITE packets of one flow, and a SIGNAL with their COUNT where it has a SIGNAL_OP. -/
def Device.put (d : Device) (p q : Nat) (c : Cmd) : Device :=
  if c.begun then d
  else
    let x := c.desc
    let u := d.userOf p c 0
    let addr := x.q6.toNat
    match d.readDva u x.q5.toNat (fieldOf x.q4 31 0) with
    | (d, .error e) => d.unitError p q c 0 e
    | (d, .ok bs) =>
      if d.own addr then d.putHere p q c u bs
      else
        let op := fieldOf x.q7 22 20
        let chip := addr / 2 ^ 50
        match d.takeFlow u.die p q c.idx with
        | (d, none) => d
        | (d, some f) =>
          let d := d.updCmd p q c.idx fun x => { x with begun := true, flow := some f }
          let pieces := putPieces addr bs.length
          let d := pieces.foldl (fun (d : Device) s =>
            let data := slotsOf ((bs.drop s.1).take s.2)
            (d.request
              { part := p, q := q, idx := c.idx, die := u.die, item := s.1
                pkt := pktHeader 2 chip d.chip u.die (1 + data.length) 0 0 0 (some f) 0 ((offOf addr + s.1) / 16) :: data }).1) d
          let d := if op = 0 then d else
            (d.request
              { part := p, q := q, idx := c.idx, die := u.die, item := 2 ^ 40
                pkt := [pktHeader 4 chip d.chip u.die 2 0 0 (fieldOf x.q7 19 17) (some f) 0 0,
                  BitVec.ofNat 128 (fieldOf x.q7 16 0 + op * 2 ^ 17 + fieldOf x.q7 63 32 * 2 ^ 32 + pieces.length * 2 ^ 64)] }).1
          d.putEnd p q c.idx

/-! ### The meanings -/

/-- COLLECTIVE FORM. -/
def execCollForm (p q idx : Nat) (io : MemIo) (s : State) : Result :=
  run (fun d => ((d.withIo io).collRow p q idx 0 fun c d => d.formStart p q c).endIo) s

/-- COLLECTIVE DISBAND. -/
def execCollDisband (p q idx : Nat) (s : State) : Result :=
  run (fun d => d.collRow p q idx 1 fun c d => (d.disband p (fieldOf c.desc.q4 59 54)).workEnds p q idx 0) s

/-- COLLECTIVE ALLREDUCE. -/
def execAllreduce (p q idx : Nat) (io : MemIo) (s : State) : Result :=
  run (fun d => ((d.withIo io).collRow p q idx 2 fun c d => d.collStart p q c).endIo) s

/-- COLLECTIVE BROADCAST. -/
def execBroadcast (p q idx : Nat) (io : MemIo) (s : State) : Result :=
  run (fun d => ((d.withIo io).collRow p q idx 3 fun c d => d.collStart p q c).endIo) s

/-- COLLECTIVE ALLGATHER. -/
def execAllgather (p q idx : Nat) (io : MemIo) (s : State) : Result :=
  run (fun d => ((d.withIo io).collRow p q idx 4 fun c d => d.collStart p q c).endIo) s

/-- COLLECTIVE PUT. -/
def execPut (p q idx : Nat) (io : MemIo) (s : State) : Result :=
  run (fun d => ((d.withIo io).collRow p q idx 5 fun c d => d.put p q c).endIo) s

/-- COLL_FORM_TIMEOUT. -/
def execCollFormTimeout (p q idx : Nat) (s : State) : Result := run (·.collTimeout p q idx) s

end Sys2Proof.Machine
end

