-- ==== Sys2Proof/Machine/Packets.lean ====
section
/-! DEFINITION. What packets from other chips do (R358 to R368), and the requests of this chip that they end. -/

namespace Sys2Proof.Machine

/-! ### READ (R359) and FINAL (R391) -/

/-- R368, R375: a READ is answered, or held; one that waits for a tag is served as a held one is. -/
def Device.readPkt (d : Device) (k : Packet) : Device :=
  if d.computeResetting then d.respond k 8 2 (pktAddr k) []
  else if d.heldAt (pktAddr k * 16) then d.keepRead k
  else (d.serveRead k).getD (d.keepRead k)

/-- R391: FINAL for a unit: its held reads are served. -/
def Device.finalFor (d : Device) (p h u : Nat) : Device :=
  let x := d.part p
  if x.holding.contains (h, u) then
    (d.updPart p fun x => { x with holding := x.holding.filter (· != (h, u)) }).serveHeld
  else d.updPart p fun x => { x with finals := x.finals ++ [(h, u)] }

/-! ### Landing tables (R365 to R367) -/

/-- The landing table of a die. -/
def Device.land (d : Device) (die : Nat) : List LandEntry := SMap.at' [] d.landing die

/-- A landing table set; LNK_LAND shows it. -/
def Device.setLand (d : Device) (die : Nat) (l : List LandEntry) : Device :=
  let live := l.filter fun e => e.lost == 0
  ((({ d with landing := SMap.set (fun _ => []) d.landing die l } : Device).setFld (.lnkLand die) Fd.lnkLandEntriesUsed live.length).setFld
    (.lnkLand die) Fd.lnkLandSignalsHeld (live.filter fun e => e.signal.isSome).length)

/-- The entry of a flow is that of a source, its die and number. -/
def LandEntry.is (e : LandEntry) (src srcDie flow : Nat) : Bool := e.src == src && e.srcDie == srcDie && e.flow == flow

/-- R366: a landing table has an entry for a flow, or room for one in its set of 8. -/
def Device.landRoom (d : Device) (die src srcDie flow : Nat) : Bool :=
  let live := (d.land die).filter fun e => e.lost == 0
  (d.land die).any (fun e => e.is src srcDie flow) || decide (live.length < 8) ||
    decide ((live.filter fun e => Config.landSet e.src e.srcDie e.flow == Config.landSet src srcDie flow).length < 8)

/-- R365: the counting die of a flow. -/
def countingDie (flow : Nat) : Nat := flow % 4

/-- R377: LNK_LAND.REFUSED counts a packet answered with STATUS 5. -/
def Device.countRefused (d : Device) (die : Nat) : Device := d.bump (.lnkLand die) Fd.lnkLandRefused

/-- R366: a packet is refused with STATUS 5. -/
def Device.refusePkt (d : Device) (k : Packet) (die : Nat) : Device := (d.respond k 9 5 (pktAddr k) []).countRefused die

/-- A SIGNAL's body slot. -/
def sigBits (k : Packet) (hi lo : Nat) : Nat := bitsOf (k.getD 1 0).toNat hi lo

/-- R365: a SIGNAL is applied, and acknowledged with the STATUS that is given. -/
def Device.applySignal (d : Device) (k : Packet) : Device × Nat :=
  let r := d.chipSignal (pktPart k) (sigBits k 16 0) (sigBits k 19 17) (sigBits k 63 32) (pktSrc k)
  let d := r.1.respond k 9 r.2 (pktAddr k) []
  (if r.2 = 5 then d.countRefused (countingDie ((pktFlow k).getD 0)) else d, r.2)

/-- R365, R366: an entry whose signal has its count is freed, and the signal applied. Where the signal is answered with STATUS 5 its
count stays, for the signal that its source sends again. -/
def Device.settleLand (d : Device) (die : Nat) (e : LandEntry) : Device :=
  match e.signal with
  | none => d
  | some k =>
    if sigBits k 95 64 ≤ e.count then
      let r := d.applySignal k
      let l := r.1.land die
      r.1.setLand die (if r.2 = 5 then l.map fun x => if x = e then { e with signal := none } else x else l.filter (· != e))
    else d

/-- R365: one packet of a flow has landed. -/
def Device.landed (d : Device) (k : Packet) : Device :=
  match pktFlow k with
  | none => d
  | some f =>
    let die := countingDie f
    let l := d.land die
    match l.find? fun e => e.is (pktSrc k) (pktDie k) f with
    | none => (d.setLand die (l ++ [{ src := pktSrc k, srcDie := pktDie k, flow := f, count := 1 }]))
    | some e =>
      if e.lost = 0 then
        let e' := { e with count := e.count + 1 }
        (d.setLand die (l.map fun x => if x = e then e' else x)).settleLand die e'
      else if e.lost = 1 then d.setLand die (l.filter (· != e))
      else d.setLand die (l.map fun x => if x = e then { e with lost := e.lost - 1 } else x)

/-- R366: a packet of a flow that its landing table cannot take. -/
def Device.noLand (d : Device) (k : Packet) : Bool :=
  match pktFlow k with
  | none => false
  | some f => !d.landRoom (countingDie f) (pktSrc k) (pktDie k) f

/-- R365, R366, R375: a SIGNAL: applied at once, held for its count, or refused; one that comes during a reset of its partition or of the
compute state is answered at once. -/
def Device.signalPkt (d : Device) (k : Packet) : Device :=
  if d.resetting (pktPart k) || d.computeResetting then d.respond k 9 2 (pktAddr k) []
  else
  match pktFlow k with
  | none => (d.applySignal k).1
  | some f =>
    let die := countingDie f
    let l := d.land die
    if sigBits k 95 64 = 0 then (d.applySignal k).1
    else if d.noLand k then d.refusePkt k die
    else
      match l.find? fun e => e.is (pktSrc k) (pktDie k) f && e.lost == 0 with
      | none => d.setLand die (l ++ [{ src := pktSrc k, srcDie := pktDie k, flow := f, signal := some k }])
      | some e =>
        let e' := { e with signal := some k }
        (d.setLand die (l.map fun x => if x = e then e' else x)).settleLand die e'

/-- R367: a held signal is discarded; the rest of its flow lands without counting. -/
def Device.landTimeout (d : Device) (die src srcDie flow : Nat) : Device :=
  let l := d.land die
  match l.find? fun e => e.is src srcDie flow with
  | none => d
  | some e =>
    match e.signal with
    | none => d
    | some k =>
      let gone := sigBits k 95 64 - e.count
      let d := d.setLand die (if gone = 0 then l.filter (· != e) else l.map fun x => if x = e then { e with signal := none, lost := gone } else x)
      (d.respond k 9 8 (pktAddr k) []).logLink moduleRing 0x1005 2 0xFF die src 0 8 4 (wordOf e.count) (wordOf flow)

/-! ### WRITE and CONTRIB (R363, R221, R266) -/

/-- R414: an offset lies in a placed unit of a partition whose memory is suspended: an update point's write of it is refused (DEDUCED, log
entry 115). -/
def Device.suspendedAt (d : Device) (off : Nat) : Bool :=
  match d.unitAtOffset off with
  | none => false
  | some (p, _, _) => d.ctxState p == 3 || (d.ctxState p == 4 && d.flag (.ctxPartStatus p) Fd.ctxPartStatusSuspended)

/-- R221, R364, R414: a WRITE merged into this chip's memory. -/
def Device.writePkt (d : Device) (k : Packet) : Device :=
  let off := pktAddr k * 16
  let bs := slotBytes (k.drop 1)
  let ack := fun (d : Device) (s : Nat) => d.respond k 9 s (pktAddr k) []
  if d.computeResetting then ack d 2
  else if !offsetMapped off then ack d 3
  else if d.suspendedAt off then ack d 7
  else if d.noLand k then d.refusePkt k (countingDie ((pktFlow k).getD 0))
  else
    let r := (spans 2 off bs.length).foldl (fun (a : Device × Bool) s =>
      if !a.2 then a
      else
        match a.1.mergeWrite (a.1.serveUser (dieOfOffset off)) s.1 ((bs.drop (s.1 - off)).take s.2) false with
        | (d, .ok ()) => (d, true)
        | (d, .error _) => (d, false)) (d, true)
    if r.2 then ack (r.1.landed k) 0 else ack r.1 4

/-- R265 to R268: a CONTRIB: appended, or answered with a STATUS; none where the log is full, and the packet stays where it is.
The gradient's format, which no field of the packet names, comes with the command. -/
def Device.contribPkt (d : Device) (k : Packet) (fmt : Nat) : Option Device :=
  let p := pktPart k
  let h := pktAddr k % 2 ^ 32
  let key := (k.getD 1 0).toNat
  let row := bitsOf key 47 0
  let ack := fun (d : Device) (s : Nat) => d.respond k 9 s (pktAddr k) []
  if d.computeResetting || d.resetting p then some (ack d 2)
  else if !d.formed p || d.ctxState p == 3 || (d.ctxState p == 4 && d.flag (.ctxPartStatus p) Fd.ctxPartStatusSuspended) then some (ack d 7)
  else
    match d.table p h with
    | none => some (ack d 3)
    | some t =>
      let m := t.unitAt t.current (t.unitOfRow row)
      if t.graph || t.current == 0 || t.n ≤ row || !m.valid || m.owner != d.chip then some (ack d 3)
      else if d.noLand k then some (d.refusePkt k (countingDie ((pktFlow k).getD 0)))
      else
        let part := bitsOf (pktAddr k) 36 33
        let vs := (widen fmt (slotBytes (k.drop 2))).take (t.elems - 128 * part)
        let r := if bitOf (pktAddr k) 32 then d.addArrival p h t { chip := pktSrc k, row := row } part vs
          else d.appendPart p h t row (bitsOf key 61 48) (bitsOf key 127 64) part vs
        if r.2 then some (ack (r.1.landed k) 0) else none

/-- The CONTRIB packets that the receive buffers hold. -/
def Device.contribs (d : Device) : List (Nat × Nat × Packet) :=
  (List.range 28).flatMap fun n => (d.port n).rx.filterMap fun r =>
    if pktType r.2 = 3 ∧ d.misrouted r.2 = false then some (n, r.1, r.2) else none

/-- R266, R268: the CONTRIB row: the first CONTRIB packet that can be answered. One whose log is full stays in its buffer, which is a
credit stall of the die that holds the row, counted once; it does not hold back contributions to other logs. -/
def Device.contribRow (d : Device) (fmt : Nat) : Device :=
  match d.contribs.findSome? fun x => (d.contribPkt x.2.2 fmt).map fun e => (x, e) with
  | some (x, e) => { e with contribStalled := d.contribStalled && d.contribs.head? != some x }.consume x.1 x.2.1 x.2.2
  | none =>
    match d.contribs.head? with
    | none => d
    | some (_, _, k) =>
      if d.contribStalled then d
      else
        let p := pktPart k
        let die := ((d.table p (pktAddr k % 2 ^ 32)).map fun t => t.rowDie (bitsOf (k.getD 1 0).toNat 47 0)).getD 0
        { d with contribStalled := true }.bump (.gthErrors die) Fd.gthErrorsLogFull

/-- R372, R375: a COLL packet, whose naming slot says group, sequence, chunk, source rank and place. -/
def Device.collPkt (d : Device) (k : Packet) (x : CollPart) : Device :=
  if d.computeResetting || d.resetting x.part then d.respond k 9 2 (pktAddr k) []
  else { d with collData := d.collData ++ [{ x with data := slotBytes (k.drop 2) }] }

/-! ### Responses (R363, R366, R368) -/

/-- A request of a command that the link has ended with a STATUS: a lost contribution (R265), or a PUT that fails. -/
def Device.reqLost (d : Device) (r : Request) : Device :=
  match d.cmd? r.part r.q r.idx with
  | none => d
  | some c =>
    if opcodeOf c.desc = 0x51 then
      if pktType r.pkt = 3 then
        let d := d.gthFault r.part r.q r.idx 0x0C04 r.item ((r.pkt.getD 1 0).toNat % 2 ^ 48) (wordOf (pktDest r.pkt))
        if c.lost.contains r.item then d
        else
          (d.updCmd r.part r.q r.idx fun x => { x with lost := x.lost ++ [r.item] }).bump (.gthContrib (d.homeDie r.part))
            Fd.gthContribDropped
      else d.updCmd r.part r.q r.idx fun x => { x with bad := true }
    else d.updCmd r.part r.q r.idx fun x => { x with bad := true }

/-- R368: a WRITE, CONTRIB or SIGNAL has ended with a STATUS. -/
def Device.ackEnds (d : Device) (id : Nat) (r : Request) (status : Nat) (injected : Bool := false) : Device :=
  let d := ((d.endReq id r status injected).setReq id none).signalEnds r status
  let d := if status = 0 then d else d.reqLost r
  let d := d.tagFree r.die
  (d.scatterEnd r.part r.q r.idx).putEnd r.part r.q r.idx

/-- R363, R366: an ACK: STATUS 5 has the request sent again. -/
def Device.ackPkt (d : Device) (k : Packet) : Device :=
  match d.reqByTag (pktDie k) (pktTag k) with
  | none => d
  | some (id, r) =>
    if pktType r.pkt = 1 then d
    else
      let (d, inj) := d.inject 5 (some r.die) (if r.part < 8 then some r.part else none)
      let st := (inj.map (clampTo 1 9)).getD (pktStatus k)
      if st = 5 ∧ r.part ≠ 0xFF then d.setReq id (some { r with retry := true })
      else if st = 10 then d
      else d.ackEnds id r st inj.isSome

/-- R366: the packet of a request made again, its data read again from the source: that of a PUT, or the part of a contribution. -/
def Device.rereadPkt (d : Device) (r : Request) (c : Cmd) : Device × Except MemErr Packet :=
  match pktType r.pkt, d.gthOf r.part r.q c with
  | 2, _ =>
    andThen (d.readDva (d.userOf r.part c 0) (c.desc.q5.toNat + r.item) (16 * (pktLen r.pkt - 1))) fun bs d =>
      (d, .ok (r.pkt.take 1 ++ slotsOf bs))
  | 3, some g =>
    andThen (d.gradRows g (r.item / 64)) fun rows d =>
      (d, .ok (r.pkt.take 2 ++ slotsOf (((rows.getD (r.item % 64) []).drop (256 * bitsOf (pktAddr r.pkt) 36 33)).take 256)))
  | _, _ => (d, .ok r.pkt)

/-- R366: a request answered with STATUS 5 is sent again. Where its data can no longer be read, the error is its command's, which stands
at the unit it stood at; one that parks sends the request when it has resumed (DEDUCED, log entry 135). -/
def Device.retryResend (d : Device) (die tag : Nat) : Device :=
  match d.reqByTag die tag with
  | none => d
  | some (id, r) =>
    match d.cmd? r.part r.q r.idx with
    | none => d
    | some c =>
      if r.retry = false ∨ c.parked.isSome = true then d
      else
        match d.rereadPkt r c with
        | (d, .error e) => d.unitError r.part r.q c c.unit e
        | (d, .ok k) => (d.setReq id (some { r with retry := false, pkt := k })).sendPacket r.planeOf k

/-- R368: no response has come in time. held says whether the wait was for a READ answered HELD. -/
def Device.reqTimeout (d : Device) (die tag : Nat) (held : Bool) : Device :=
  match d.reqByTag die tag with
  | none => d
  | some (id, r) =>
    if r.held ≠ held then d
    else if pktType r.pkt = 1 then (d.endReq id r 15).tagFree die
    else d.ackEnds id r 15

/-- R359: a READ_RESP, after which its tag may serve another request. -/
def Device.readRespPkt (d : Device) (k : Packet) : Device := (d.readResp k).tagFree (pktDie k)

/-! ### GROUP (R371, R386, R304) -/

/-- What a GROUP packet of a chip says. -/
def Device.groupMsg (d : Device) (chip : Nat) (m : GroupMsg) : Device :=
  match m with
  | .form p g l level adv en => d.addVote p g { chip := chip, members := l, level := level, advertised := adv, enabled := en }
  | .coll p g seq what => d.setGroup p g { d.group p g with told := (d.group p g).told ++ [(chip, seq, what)] }
  | .gone p g => d.memberGone p g chip
  | .bind p h info =>
    let d := d.updPart p fun x => { x with confirms := x.confirms ++ [(chip, h, info)] }
    if info.fail = 0 then d else d.memberFailed p h info
  | .totals p t => d.updPart p fun x => { x with totals := x.totals ++ [(chip, t)] }
  | .move p h u makes => d.moveSaid p h u chip makes
  | .restored ctx =>
    let held := d.heldSignals.filter fun h => h.ctx == ctx
    ((held.map (·.part)).eraseDups).foldl (fun (d : Device) p => d.discardHeld p 2 0xFFFFFFFF) d

/-- R377: LNK_CTRL.CLEAR_COUNTS. -/
def Device.lnkClear (d : Device) : Device :=
  let d := (List.range 28).foldl (fun (d : Device) n =>
    (d.setPort n { d.port n with txFlits := 0, rxFlits := 0 }).resetRegs [.lnkPortFec n, .lnkPortRetry n, .lnkPortTraffic n]) d
  (List.range 4).foldl (fun (d : Device) i => d.setFld (.lnkLand i) Fd.lnkLandRefused 0) d

/-! ### The meanings -/

/-- READ, a packet. -/
def execRead (s : State) : Result := run (fun d => d.onPacket 1 fun k d => d.readPkt k) s

/-- WRITE, a packet. -/
def execWrite (s : State) : Result := run (fun d => d.onPacket 2 fun k d => d.writePkt k) s

/-- CONTRIB, a packet, and the format of its gradient. -/
def execContrib (fmt : Nat) (s : State) : Result := run (·.contribRow (1 + (fmt + 1) % 2)) s

/-- SIGNAL, a packet. -/
def execSignalPacket (s : State) : Result := run (fun d => d.onPacket 4 fun k d => d.signalPkt k) s

/-- COLL, a packet, and what its naming slot says. -/
def execColl (p g seq chunk rank off : Nat) (s : State) : Result :=
  run (fun d => d.onPacket 5 fun k d =>
    d.collPkt k { part := p % 8, group := g, seq := seq, chunk := chunk, rank := rank, off := off, data := [] }) s

/-- READ_RESP, a packet. -/
def execReadResp (s : State) : Result := run (fun d => d.onPacket 8 fun k d => d.readRespPkt k) s

/-- ACK, a packet. -/
def execAck (s : State) : Result := run (fun d => d.onPacket 9 fun k d => d.ackPkt k) s

/-- GROUP, a packet, and what it says. -/
def execGroup (m : GroupMsg) (s : State) : Result := run (fun d => d.onPacket 0xE (fun k d => d.groupMsg (pktSrc k) m) 7) s

/-- FINAL, which a GROUP packet brings, for a unit. -/
def execFinal (p h u : Nat) (s : State) : Result := run (fun d => d.onPacket 0xE (fun _ d => d.finalFor p h u) 7) s

/-- MISROUTED_PACKET. -/
def execMisroutedPacket (s : State) : Result := run (·.misroute) s

/-- RETRY_RESEND. -/
def execRetryResend (tag : RemoteTag) (io : MemIo) (s : State) : Result :=
  run (fun d => ((d.withIo io).retryResend tag.die tag.tag).endIo) s

/-- LAND_TIMEOUT. -/
def execLandTimeout (die src srcDie flow : Nat) (s : State) : Result := run (·.landTimeout die src srcDie flow) s

/-- REMOTE_TIMEOUT. -/
def execRemoteTimeout (die tag : Nat) (s : State) : Result := run (·.reqTimeout die tag false) s

/-- HELD_TIMEOUT. -/
def execHeldTimeout (die tag : Nat) (s : State) : Result := run (·.reqTimeout die tag true) s

/-- LNK_CLEAR_COUNTS: LNK_CTRL.CLEAR_COUNTS. -/
def execLnkClearCounts (s : State) : Result := run (·.lnkClear) s

end Sys2Proof.Machine
end

