-- ==== Sys2Proof/Machine/Ports.lean ====
section
/-! DEFINITION. The states of a port (R69, R348, R353) and the rows of its flits and of its management packets. -/

namespace Sys2Proof.Machine

/-- A record of chapter 03, whose bytes 32 to 63 the spec does not lay out: they are open. -/
def Device.logBoot (d : Device) (code cls : Nat) (die : Nat := 0xFF) : Device :=
  let (a, d) := d.freeValue
  let (b, d) := d.freeValue
  let (c, d) := d.freeValue
  let (e, d) := d.freeValue
  d.logModule code cls [a, b, c, e] die

/-- Bring-up has reached its stage s or gone past it. -/
def Device.stage (d : Device) : Nat := d.fld .bootStatus Fd.bootStatusStage

/-- The lane that the repair lane of a port serves; 15 none. -/
def Device.repaired (d : Device) (n : Nat) : Nat := d.fld (.lnkPortStatus n) Fd.lnkPortStatusRepaired

/-- The locked lanes of a port, a mask of nine. -/
def Device.locked (d : Device) (n : Nat) : Nat := d.fld (.lnkPortStatus n) Fd.lnkPortStatusLocked

/-- The data lanes of a port that neither are locked themselves nor are served by a locked repair lane. -/
def Device.openLanes (d : Device) (n : Nat) : List Nat :=
  (List.range 8).filter fun k => !bitOf (d.locked n) (if d.repaired n = k then 8 else k)

/-- BOOT_DEFECT.LANES_REPAIRED counts the ports whose repair lane is in use. -/
def Device.countLanes (d : Device) : Device :=
  d.setFld .bootDefect Fd.bootDefectLanesRepaired ((List.range 28).filter fun n => decide (d.repaired n < 8)).length

/-- R69, R353: the repair lane of a port takes a lane; at bring-up a field entry is recorded, in a retrain none is. -/
def Device.repairLane (d : Device) (n lane : Nat) : Device :=
  let d := (d.setFld (.lnkPortStatus n) Fd.lnkPortStatusRepaired lane).countLanes
  if d.ready || d.portState n == 5 then d
  else { d with boot := { d.boot with
           portsRepaired := putBit d.boot.portsRepaired n true
           newRepairs := d.boot.newRepairs ++ [{ interface := 0xFF, channel := n, bank := lane, row := 0 }] } }

/-- R348, R72: a management packet of a subtype to the other end of a port: what it says, and the packet, of which the spec gives no layout.
PARAM, which gives the credit, goes without any; the others wait for credit (R356). -/
def Device.mgmtOn (d : Device) (n sub : Nat) (m : MgmtMsg) : Device :=
  let (w, d) := d.freeValue
  let d := d.emit (.mgmt (n / 7) m)
  let k := [pktHeader 0xE (fieldOf w 13 0) d.chip (n / 7) 1 0 0 0 none 0 (sub + 256 * fieldOf w 51 14)]
  if sub = 1 then d.sendOn n 3 k else Device.mgmtGo n ((d.port n).mgmt ++ [k]) d

/-- R348: what this end's PARAM carries: its advertised level is that of the image that runs, its credits what its buffers have free. -/
def Device.ownParam (d : Device) (n : Nat) : MgmtMsg :=
  .param d.chip n (n / 7) ((d.boot.running.map (·.featAdvertised)).getD 0) (d.repaired n) (d.port n).advertised 1024

/-- R69, R348, R353: a port's lanes lock: all 8 make it TRAINED, and PARAM goes to the other end. -/
def Device.lanesLocked (d : Device) (n mask : Nat) : Device :=
  if n < 28 ∧ (d.portState n = 1 ∨ d.portState n = 5) then
    let d := d.setFld (.lnkPortStatus n) Fd.lnkPortStatusLocked (d.locked n ||| mask)
    if d.portState n = 1 ∧ d.openLanes n = [] then (d.setPortState n 2).mgmtOn n 1 (d.ownParam n) else d
  else d

/-- R69, R348, R353: lanes of a port not locked within 100 ms: the repair lane takes one; otherwise the port has FAILED. -/
def Device.laneTimeout (d : Device) (n : Nat) : Device :=
  let lanes := d.openLanes n
  let free := d.repaired n == 15
  if n < 28 ∧ (d.portState n = 1 ∨ d.portState n = 5) then
    match lanes, free with
    | [], _ => d
    | [k], true => d.repairLane n k
    | _, _ => if d.portState n = 5 then d.portFail n else (d.setPortState n 6).logBoot 0x0143 3 (n / 7)
  else d

/-- R72: the counts of a window pass. -/
def windowOk (x : Nat × List Nat) : Bool := x.1 == 0 && x.2.all fun b => decide (b < 1250000)

/-- The lane with the most corrected bits, the lowest first. -/
def worstLane (l : List Nat) : Option Nat :=
  (l.zipIdx.take 8).foldl (fun (best : Option (Nat × Nat)) x =>
    match best with
    | none => some x
    | some b => if b.1 < x.1 then some x else some b) none |>.map Prod.snd

/-- R69, R72: a window has ended at both ends of a port: it is READY, retrains for the next window, takes its repair lane, or
has FAILED. DESIGN CHOICE (log entry 138): where both directions fail, the worst lane is that of this end's counts. -/
def Device.windowEnd (d : Device) (n : Nat) : Device :=
  let x := d.port n
  match x.own, x.peer with
  | some a, some b =>
    let next := fun (d : Device) => d.setPort n { x with own := none, peer := none, window := x.window + 1, between := true }
    if windowOk a && windowOk b then (d.setPort n { x with own := none, peer := none }).setPortState n 4 |>.drainTx
    else if x.window = 0 then next d
    else
      match (if windowOk a then worstLane b.2 else worstLane a.2), decide (x.window = 1) && d.repaired n == 15 with
      | some k, true => next (d.repairLane n k)
      | _, _ => ((d.setPort n { x with own := none, peer := none }).setPortState n 6).logBoot 0x0161 3 (n / 7)
  | _, _ => d

/-- R72: the counts of a window at this end (true), of which QUAL tells the switch, or at the switch. -/
def Device.windowCounts (d : Device) (n : Nat) (here : Bool) (counts : Nat × List Nat) : Device :=
  let x := d.port n
  if n < 28 ∧ d.portState n = 3 ∧ x.between = false then
    let d := d.setPort n (if here then { x with own := some counts } else { x with peer := some counts })
    (if here then d.mgmtOn n 2 (.qual n counts.1 counts.2) else d).windowEnd n
  else d

/-- The first management packet of a subtype that a port has received. -/
def Device.mgmtAt (d : Device) (n sub : Nat) : Option (Nat × Packet) :=
  (d.port n).rx.find? fun r => pktType r.2 == 0xE && pktAddr r.2 % 256 == sub

/-- R348, R356: PARAM of the other end of a port in training: who it is, its plane, level, lane, credits, of which this end's own PARAM holds
one, and replay depth. In service the port's first window begins with it (R69, R353; DEDUCED, log entry 139). -/
def Device.param (d : Device) (n peer peerPort plane level lane : Nat) (credits : List Nat) (depth : Nat) : Device :=
  if 2 ≤ d.portState n ∧ d.portState n ≤ 3 then
    let own := (d.boot.running.map (·.featAdvertised)).getD 0
    let d := d.setFld (.lnkPortStatus n) Fd.lnkPortStatusPeerId peer
    let d := d.setFld (.lnkPortStatus n) Fd.lnkPortStatusPeerPort peerPort
    let d := d.setFld (.lnkPortStatus n) Fd.lnkPortStatusLevel (min own level)
    let d := d.setPort n { d.port n with
      credit := SMap.entries (fun _ => 0) 0 ((credits.take 4).zipIdx.map fun c => if c.2 = 3 then c.1 - 1 else c.1)
      peerPlane := plane, peerLane := lane, peerDepth := depth }
    if d.ready && d.portState n == 2 then d.setPortState n 3 else d
  else d

/-- R354: the switch asks what a FAILED port accepted whole: the SEQ after the last such packet; its partial packets are discarded. -/
def Device.seqQuery (d : Device) (n : Nat) : Device :=
  (d.setPort n { d.port n with part := [] }).mgmtOpen (n / 7) 4 (.seqReply n (d.port n).wholeSeq)

/-- A port is in a state in which flits pass: TRAINED to RETRAINING. -/
def Device.flitsPass (d : Device) (n : Nat) : Bool := decide (n < 28) && decide (2 ≤ d.portState n) && decide (d.portState n ≤ 5)

/-- R353: the check window of a retrain ends: without errors after FEC the port replays and is READY. -/
def Device.checkWindow (d : Device) (n errors : Nat) : Device :=
  if n < 28 ∧ d.portState n = 5 ∧ errors = 0 ∧ d.openLanes n = [] then
    (d.setPortState n 4).portReplay n
  else d

/-- R353: a write of LNK_PORT_CTRL.ACTION = 2: a FAILED port trains and qualifies again, as a new link. -/
def Device.portRestart (d : Device) (n : Nat) : Device :=
  if n < 28 ∧ d.portState n = 6 then
    let x := d.port n
    let d := d.setPort n { retrains := x.retrains, txFlits := x.txFlits, rxFlits := x.rxFlits, rx := x.rx, unsent := x.unsent }
    (d.setFld (.lnkPortStatus n) Fd.lnkPortStatusLocked 0).setPortState n 1
  else d

/-- R353: a write of LNK_PORT_CTRL.ACTION = 1; the spec gives this retrain no trigger number. -/
def Device.retrainNow (d : Device) (n : Nat) : Device :=
  if n < 28 ∧ d.portState n = 4 then
    let (w, d) := d.freeValue
    d.portRetrain n w.toNat
  else d

/-! ### The meanings -/

/-- PORT_LANES_LOCKED: lanes of a port that lock, a mask of nine. -/
def execPortLanesLocked (n mask : Nat) (s : State) : Result := going (·.lanesLocked n mask) s

/-- LANE_LOCK_TIMEOUT. -/
def execLaneLockTimeout (n : Nat) (s : State) : Result := going (·.laneTimeout n) s

/-- QUALIFICATION_WINDOW_END: errors after FEC and corrected bits of each lane in the window. -/
def execQualificationWindowEnd (n errors : Nat) (lanes : List Nat) (s : State) : Result :=
  going (·.windowCounts n true (errors, lanes)) s

/-- QUAL, a packet, and the counts of the switch's receive side. -/
def execQual (n errors : Nat) (lanes : List Nat) (s : State) : Result :=
  going (fun d =>
    match d.mgmtAt n 2 with
    | none => d
    | some (vc, k) => (d.consume n vc k).windowCounts n false (errors, lanes)) s

/-- QUALIFICATION_RETRAIN_END. -/
def execQualificationRetrainEnd (n : Nat) (s : State) : Result :=
  going (fun d => if n < 28 ∧ d.portState n = 3 then d.setPort n { d.port n with between := false } else d) s

/-- PARAM, a packet, and what it says. -/
def execParam (n peer : Nat) (peerPort : PeerPort) (level lane : Nat) (credits : List Nat) (depth : Nat) (s : State) : Result :=
  going (fun d =>
    match d.mgmtAt n 1 with
    | none => d
    | some (vc, k) => (d.consume n vc k).param n peer peerPort.port peerPort.plane level lane credits depth) s

/-- CONTROL_FLIT_SEND. -/
def execControlFlitSend (n : Nat) (s : State) : Result := going (fun d => if d.flitsPass n then d.controlSend n else d) s

/-- CONTROL_FLIT_RECEIVE: a flit of 256 bytes, and the bits corrected in the codeword that begins in it, none where it could not be. -/
def execControlFlitReceive (n : Nat) (flit : RxFlit) (s : State) : Result :=
  going (fun d => if d.flitsPass n then d.onFlit n flit.word fun d failed => d.takeControl n flit.bytes failed else d) s

/-- R349: the outcome of a codeword: the bits corrected in it, none where it could not be corrected. -/
def codewordEnd (uncorrectable : Bool) (corrected : Nat) : Option Nat := if uncorrectable then none else some corrected

/-- DATA_FLIT_RECEIVE: a flit of 256 bytes, and the outcome of the codeword that begins in it. -/
def execDataFlitReceive (n : Nat) (flit : List Byte) (uncorrectable : Bool) (corrected : Nat) (s : State) : Result :=
  going (fun d => if d.flitsPass n then d.onFlit n (codewordEnd uncorrectable corrected) fun d failed => d.takeFlit n flit failed else d) s

/-- CONTROL_SILENCE_TIMEOUT. -/
def execControlSilenceTimeout (n : Nat) (s : State) : Result := going (fun d => if n < 28 then d.portRetrain n 4 else d) s

/-- R352: a trigger of a READY port holds: 1 lock is lost, on the lanes of a mask, of a data lane or of the repair lane that serves one; 2 eight
replays from one SEQ; 3 more than 1,000 uncorrectable codewords within 1 ms. -/
def Device.retrainDue (d : Device) (n trigger lost : Nat) : Bool :=
  match trigger with
  | 1 => (List.range 8).any fun k =>
      let lane := if d.repaired n = k then 8 else k
      bitOf lost lane && bitOf (d.locked n) lane
  | 2 => decide (8 ≤ (d.port n).replays)
  | 3 => d.wordsLost n
  | _ => false

/-- PORT_RETRAIN: trigger 1 loss of lock on the lanes of a mask, 2 replays, 3 uncorrectable codewords. -/
def execPortRetrain (n trigger lost : Nat) (s : State) : Result :=
  going (fun d =>
    if n < 28 ∧ d.portState n = 4 ∧ d.retrainDue n trigger lost = true then
      let d := if trigger = 1 then d.setFld (.lnkPortStatus n) Fd.lnkPortStatusLocked (maskOf ((bitList 9 (d.locked n)).filter fun k => !bitOf lost k)) else d
      d.portRetrain n trigger
    else d) s

/-- RETRAIN_CHECK_WINDOW_END. -/
def execRetrainCheckWindowEnd (n errors : Nat) (s : State) : Result := going (·.checkWindow n errors) s

/-- RETRAIN_TIMEOUT. -/
def execRetrainTimeout (n : Nat) (s : State) : Result := going (fun d => if n < 28 ∧ d.portState n = 5 then d.portFail n else d) s

/-- PORT_RETRAIN_NOW. -/
def execPortRetrainNow (n : Nat) (s : State) : Result := run (·.retrainNow n) s

/-- PORT_RESTART. -/
def execPortRestart (n : Nat) (s : State) : Result := run (·.portRestart n) s

/-- SEQ_QUERY, a packet, and the port it asks for. -/
def execSeqQuery (n : Nat) (s : State) : Result := run (fun d => d.onPacket 0xE (fun _ d => if n < 28 then d.seqQuery n else d) 3) s

/-- SEQ_REPLY, a packet, and its port and SEQ. -/
def execSeqReply (n seq : Nat) (s : State) : Result := run (fun d => d.onPacket 0xE (fun _ d => if n < 28 then d.seqReply n seq else d) 4) s

end Sys2Proof.Machine
end

