-- ==== Sys2Proof/Machine/Programs.lean ====
section
/-! DEFINITION. The PROGRAM family (R109, R114, R115), HALT (R173, R204) and illegal words (R105, R106). -/

namespace Sys2Proof.Machine

/-! ### PROG_LOAD -/

/-- R109: the parts of a load of n words to word w: first word and count of each, cut at region boundaries. -/
def loadParts : Nat → Nat → Nat → List (Nat × Nat)
  | 0, _, _ => []
  | fuel + 1, w, n =>
    if n = 0 then []
    else
      let k := min n (512 - w % 512)
      (w, k) :: loadParts fuel (w + k) (n - k)

/-- R114, R217: the parts of a load from unit u on. -/
def Device.loadGo (p q : Nat) (c : Cmd) : List (Nat × Nat) → Nat → Device → Device
  | [], _, d => d.workEnds p q c.idx 0
  | (w, n) :: rest, u, d =>
    let first := fieldOf c.desc.q5 15 0
    match d.readDva (d.userOf p c u) (c.desc.q4.toNat + 8 * (w - first)) (8 * n) with
    | (d, .error e) => d.unitError p q c u e
    | (d, .ok bs) =>
      let x : PmemPart :=
        { word := w, data := (List.range n).map fun i => wordOf (ofLeBytes ((bs.drop (8 * i)).take 8)), origin := some (q, c.idx) }
      Device.loadGo p q c rest (u + 1) ((d.targets p c.desc).foldl (fun (d : Device) k => d.partArrives k x) d)

/-- R114: a PROG_LOAD; resumed, it goes on at the unit it was parked at. -/
def Device.progLoad (d : Device) (p q : Nat) (c : Cmd) : Device :=
  let parts := loadParts 17 (fieldOf c.desc.q5 15 0) (fieldOf c.desc.q5 31 16)
  Device.loadGo p q c (parts.drop c.unit) c.unit d

/-! ### PROG_START and PROG_STOP -/

/-- R114: a claimed core starts at the entry word with its rank in S0 and the operands in S1 to S3. -/
def Core.start (k : Core) (x : Desc) : Core :=
  { k with
    st := .running, pc := fieldOf x.q4 12 0, loops := [], lease := none, stalled := false
    sregs := SMap.entries (fun _ => 0) 0 [wordOf k.rank, x.q5, x.q6, x.q7] }

/-- R114: PROG_START starts the cores it has claimed. -/
def Device.progStart (d : Device) (p q : Nat) (c : Cmd) : Device :=
  if c.begun then d
  else
    let mine := (d.targets p c.desc).filter fun k => (d.core k).job == some (p, q, c.idx) && (d.core k).st == .idle
    (mine.foldl (fun (d : Device) k => d.updCore k (·.start c.desc)) d).updCmd p q c.idx fun x => { x with begun := true }

/-- R114, R115: a core stops at its next block end; WAITING and a stalled word end at once. -/
def Device.stopCore (d : Device) (k : Nat) : Device :=
  match (d.core k).st with
  | .waiting => d.coreStop k .idle .halted
  | .running =>
    let d := d.updCore k fun y => { y with st := .stopping }
    if d.stallsOn k then d.blockEnd k else d
  | _ => d

/-- R258, R283: a GATHER to scratch, or a MERGE, waits on FREE. -/
def Device.waitsFree (d : Device) (p q : Nat) (c : Cmd) : Bool :=
  if opcodeOf c.desc = 0x60 then (c.got.any fun e => decide (e.1 < 2 ^ 40)) && !d.mergeMay p c
  else if opcodeOf c.desc = 0x50 ∧ bitOf c.desc.q4.toNat 8 = true then
    match d.gthOf p q c with
    | none => false
    | some g => !d.gatherMay g c
  else false

/-- R270, R283: a GATHER to scratch, or a MERGE, that waits on FREE of a core that is stopped ends with STATUS 0x04. -/
def Device.stopGathers (d : Device) (p : Nat) (cores : List Nat) : Device :=
  (List.range 64).foldl (fun (d : Device) q =>
    (d.queue p q).foldl (fun (d : Device) c =>
      if c.st = .running ∧ c.begun = true ∧ c.worked = false ∧ d.waitsFree p q c = true ∧
          ((d.targets p c.desc).any fun k => cores.contains k) = true then
        (d.dropReqs p q c.idx).workEnds p q c.idx 4
      else d) d) d

/-- R114: PROG_STOP. -/
def Device.progStop (d : Device) (p q : Nat) (c : Cmd) : Device :=
  let cores := d.targets p c.desc
  let live := cores.filter fun k => (d.core k).st == .running || (d.core k).st == .waiting
  ((cores.foldl Device.stopCore d).stopGathers p live).updCmd p q c.idx fun x => { x with begun := true }

/-! ### HALT and illegal words -/

/-- R173, R204, R107: HALT ends its block and, with nothing left in the array and vector queues, the program; a core that is STOPPING
waits for neither. -/
def Device.instrHalt (d : Device) (c : Nat) : Device :=
  if d.stallsOn c then (if (d.core c).st = .stopping then d.blockEnd c else d)
  else
    let d := d.blockEnd c
    if (d.core c).st = .running then d.coreStop c .idle .halted else d

/-- R227: the fields of a stream or copy word that its encoding does not name are zero, and its opcode exists. -/
def pumpLegal (w : Word) : Bool :=
  match wordClass w with
  | 0x70 | 0x71 => fieldOf w 39 0 == 0
  | 0x72 => fieldOf w 35 0 == 0
  | 0x73 => fieldOf w 39 0 == 0
  | 0x74 => fieldOf w 47 0 == 0
  | _ => false

/-- R105, R106, R172, R189, R227: a word that the sequencer can run. -/
def wordLegal (w : Word) : Bool :=
  let k := wordClass w
  if k < 0x10 then controlLegal w
  else if k < 0x40 then decide (k ≤ 0x13)
  else if k < 0x70 then decide (k ≤ 0x49)
  else pumpLegal w

/-- R105, R113: the sequencer reaches an illegal word. -/
def Device.illegalWord (d : Device) (c : Nat) : Device :=
  if d.canRun c = true ∧ wordLegal (d.coreWord c) = false then (d.takeLease c).progFault c 1 else d

/-! ### The meanings -/

/-- PROG_LOAD. -/
def execProgLoad (p q idx : Nat) (io : MemIo) (s : State) : Result :=
  run (fun d => ((d.withIo io).work p q idx 0x10 fun c d => d.progLoad p q c).endIo) s

/-- PROG_START. -/
def execProgStart (p q idx : Nat) (s : State) : Result := run (fun d => d.work p q idx 0x11 fun c d => d.progStart p q c) s

/-- PROG_STOP. -/
def execProgStop (p q idx : Nat) (s : State) : Result := run (fun d => d.work p q idx 0x12 fun c d => d.progStop p q c) s

/-- CMD_PMEM_DATA: a write of a program word at CMD_PMEM_ADDR by the physical function. -/
def execCmdPmemData (w : Word) (s : State) : Result := run (·.pmemData w) s

/-- HALT. -/
def execHalt (c : Nat) (s : State) : Result := run (fun d => d.control c 0x07 fun _ d => d.instrHalt c) s

/-- ILLEGAL_WORD. -/
def execIllegalWord (c : Nat) (s : State) : Result := run (·.illegalWord c) s

end Sys2Proof.Machine
end

