-- ==== Sys2Proof/Machine/Streams.lean ====
section
/-! DEFINITION. Stream pumps (R224 to R226), core copies and the stream and copy class of core instructions (R227), the resuming of
parked work (R217), MEM_TLB_INVAL (R216) and the BAR4 windows (R79, R80). -/

namespace Sys2Proof.Machine

/-! ### Streams -/

/-- R224: an ARM reads its descriptor and takes a slot. It has started, so what no longer passes then ends it with STATUS 0x04 (R103). -/
def Device.arm (d : Device) (p q : Nat) (c : Cmd) : Device :=
  let n := fieldOf c.desc.q4 11 0
  match d.readDva (d.userOf p c 0) c.desc.q5.toNat 64 with
  | (d, .error e) => d.unitError p q c 0 e
  | (d, .ok bs) =>
    match d.streamOf p (wordsOf 8 bs) with
    | none => d.workEnds p q c.idx 4
    | some x =>
      if (d.stream p n).armed = true ∨ d.slotFree p x.core = false then d.workEnds p q c.idx 4
      else (d.setStream p n { x with idx := c.idx, desc := c.desc.q5.toNat }).workEnds p q c.idx 0

/-- The frame of tile t. -/
def Stream.frame (x : Stream) (t : Nat) : Nat := x.base + t % 2 ^ x.ringLog2

/-- A frame whose tile has been discarded: its bytes are open, those of a step frame excepted (R307). -/
def Core.voidFrame (k : Core) (frame free : Nat) : Core :=
  let bytes := fun (a n : Nat) => (List.range n).map fun i => Config.freeByte free (a + i)
  let open' := fun (m : SMap Byte) (a n : Nat) => SMap.setList zeroByte m a (bytes a n)
  { k with
    scratch := open' (open' (k.put (4096 * frame) (bytes (4096 * frame) 4096)) (hdrAt frame) 64) (sclAt frame) 256
    unsynced := k.unsynced.filter fun x => !(x.addr == 4096 * frame || x.addr == hdrAt frame + 8 || x.addr == sclAt frame) }

/-- R226: the prefetched tiles of a stream that are not visible are discarded. -/
def Device.discardLanded (d : Device) (p n : Nat) : Device :=
  let x := d.stream p n
  let d := x.landed.foldl (fun (d : Device) t =>
    ({ d with free := d.free + 1 }).updCore x.core fun k => k.voidFrame (x.frame t.t) d.free) d
  d.setStream p n { x with landed := [], parked := none, again := none, broken := false }

/-- R226: REARM: the stream goes on at a position. -/
def Device.rearm (d : Device) (p n pos : Nat) : Device :=
  let d := d.discardLanded p n
  d.setStream p n { d.stream p n with next := pos }

/-- R224: where tile t lies: a DVA, or the index of a tile of its table; the sum is taken modulo 2^64 (DEDUCED, log entry 108). -/
def Stream.tileAt (x : Stream) (t : Nat) : Nat :=
  let at' := (if x.placed then x.source % 2 ^ 32 else x.source : Nat) + x.stride0 * (t % x.count0 : Nat) + x.stride1 * (t / x.count0 : Nat)
  (at' % 2 ^ 64).toNat

/-- R225: granules that a die watches. -/
def Device.watched (d : Device) (die : Nat) : Nat :=
  ((d.streams.filter fun e => e.2.watch && e.2.core / 64 == die).map fun e => 8 * e.2.landed.length).foldl (· + ·) 0

/-- R224, R225: the pump may fetch the next tile: its frame is free, and watch entries are free. -/
def Device.mayFetch (d : Device) (x : Stream) : Bool :=
  x.armed && !x.broken && x.parked.isNone && decide (x.next < x.count0 * x.count1) &&
  (x.landed.map (·.t) ++ x.visible).all (fun t => x.frame t != x.frame x.next) &&
  (!x.watch || decide (d.watched (x.core / 64) + 8 ≤ 131072))

/-- A tile that enters scratch: its header bytes 8 to 63, its dense view and its scale record (R276). -/
structure FrameTile where
  hdr8 : List Byte
  data : List Byte
  scl : List Byte
  deriving DecidableEq, Repr

/-- R276: a record as it enters scratch. -/
def TileRec.entering (t : TileRec) (scl : List Byte) : FrameTile :=
  { hdr8 := hdrBody t.fmt true (2 ^ 64 - 1) (hdrField t.hdr 24 4) t.runIndex t.runLen t.epoch, data := t.view
    scl := if isMx t.fmt then scl.take 256 else [] }

/-- R224, R276: a record as it enters a frame of a stream; one that is RAW gets a dense header of its FMT. -/
def Stream.framed (x : Stream) (t : TileRec) (scl : List Byte) : FrameTile :=
  if x.raw then { hdr8 := hdrBody x.fmt true (2 ^ 64 - 1) f32One 0 0 0, data := t.view, scl := [] } else t.entering scl

/-- R220, R224: a tile fetched from a place for scratch: verified, or taken raw with a dense header. Gives where it lies on this
chip. -/
def Device.fetchFrom (d : Device) (u : MemUser) (x : Place) (dva : Nat) (raw : Bool) (fmt : Nat) :
    Device × Except MemErr (FrameTile × Option Nat) :=
  let here := match x with
    | .device g => if d.own g then some (offOf g) else none
    | .host _ => none
  if raw then
    andThen (byDva dva (d.readPlace u x 4096)) fun bs d =>
      (d, .ok ({ hdr8 := hdrBody fmt true (2 ^ 64 - 1) f32One 0 0 0, data := bs, scl := [] }, here))
  else andThen (d.takeTile u x dva fmt) fun r d => (d, .ok (r.1.entering r.2, here))

/-- R382: the unit and tile of a table's tile index, where units follow one another with the tiles each has. -/
def Table.tileUnit (t : Table) (epoch : Nat) : Nat → Nat → Nat → Option (Nat × Nat)
  | 0, _, _ => none
  | n + 1, u, i =>
    let k := (t.unitAt epoch u).tiles
    if i < k then some (u, i) else Table.tileUnit t epoch n (u + 1) (i - k)

/-- R229: who fetches tile t of a stream: the pump of its core's cluster. -/
def Stream.user (x : Stream) (p t : Nat) : MemUser :=
  { part := p, cls := 2, engine := some (x.core / 8), idx := x.idx, unit := t, die := x.core / 64 }

/-- The tile of a stream at position t. -/
def Device.fetchTile (d : Device) (p : Nat) (x : Stream) (t : Nat) : Device × Except MemErr (FrameTile × Option Nat) :=
  let u := x.user p t
  if x.placed then
    let h := x.source / 2 ^ 32
    let epoch := d.epochFor p h
    match (d.table p h).bind fun y => y.tileUnit epoch y.unitCount 0 (x.tileAt t) with
    | none =>
      let (d, _) := d.lookup p x.idx h epoch (x.tileAt t / 512)
      (d, .error (.cksum 0))
    | some (unit, i) =>
      if d.fillWaits p h epoch unit then (d, .error .waits) else
      match d.lookup p x.idx h epoch unit with
      | (d, none) => (d, .error (.cksum 0))
      | (d, some m) =>
        andThen (d.readPlaced u h unit m i) fun r d =>
          (d, .ok (x.framed r.1 r.2, if m.read = d.chip then some (m.offset + 4096 * i) else none))
  else
    match d.translate u (x.tileAt t) false with
    | (d, .error e) => (d, .error e)
    | (d, .ok y) => d.fetchFrom u y (x.tileAt t) x.raw x.fmt

/-- A tile put into a frame of a core by one of its engines. -/
def Core.putTile (k : Core) (who : UnitId) (frame : Nat) (x : FrameTile) : Core :=
  let k := (k.scrWrite who (4096 * frame) x.data).scrWrite who (hdrAt frame + 8) x.hdr8
  if x.scl.isEmpty then k else k.scrWrite who (sclAt frame) x.scl

/-- The writes of an engine into one frame are visible to the others. -/
def Core.syncFrame (k : Core) (who : UnitId) (frame : Nat) : Core :=
  { k with unsynced := k.unsynced.filter fun x =>
      !(x.who == who && (x.addr == 4096 * frame || x.addr == hdrAt frame + 8 || x.addr == sclAt frame)) }

/-- R225: an SWAIT that waits on a stream takes its next tile where that has landed and is not stale. -/
def Device.swaitGo (d : Device) (c n sreg : Nat) : Option Device :=
  let p := d.corePart c
  let x := d.stream p n
  match x.landed with
  | [] => none
  | t :: rest =>
    if x.armed = true ∧ x.core = c ∧ t.stale = [] then
      let d := d.setStream p n { x with landed := rest, visible := x.visible ++ [t.t] }
      some (d.updCore c fun k => (k.syncFrame (.stream n) (x.frame t.t)).setSreg sreg (wordOf (4096 * x.frame t.t)))
    else none

/-- R227: a core that waits in SWAIT or CSYNC runs on once what it waits for has come. -/
def Device.pumpMet (d : Device) (c : Nat) : Device :=
  let k := d.core c
  let go := fun (d : Device) => (d.updCore c fun k => { k with st := .running, pumpWait := none }).advance c
  match k.st, k.pumpWait with
  | .waiting, some (.tile n sreg) =>
    match d.swaitGo c n sreg with
    | none => d
    | some d => go d
  | .waiting, some (.groups mask) =>
    if k.copies.any fun x => bitOf mask x.group then d
    else go (d.updCore c fun k => (bitList 8 mask).foldl (fun k g => k.sync (.copy g)) k)
  | _, _ => d

/-- R217: a stream's pump parks at tile t, or at the re-read of a granule of it; where its die's control complex has stopped, the fault
waits (R432). -/
def Device.parkStream (d : Device) (p n t : Nat) (again : Option (Nat × Nat)) (kind addr : Nat) (injected : Bool := false) :
    Device :=
  if d.stopped ((d.stream p n).core / 64) then d else
  let handle := (d.handles + 1) % 2 ^ 32
  let x := d.stream p n
  (({ d with handles := d.handles + 1 }).setStream p n { x with parked := some handle, again := again, fault := (kind, addr) }).logMem
    (x.user p t) 0x0A01 0 kind handle addr 0 injected

/-- R225: the next tile of a stream lands in its frame; with no tag free it is fetched later (R223). -/
def Device.tileArrive (d : Device) (p n : Nat) : Device :=
  let x := d.stream p n
  if d.mayFetch x then
    match d.fetchTile p x x.next with
    | (d, .error (.xlate kind addr inj)) => d.parkStream p n x.next none kind addr inj
    | (d, .error .waits) => d
    | (d, .error _) => d.setStream p n { d.stream p n with broken := true }
    | (d, .ok (tile, here)) =>
      let y := d.stream p n
      let d := d.updCore x.core fun k => k.putTile (.stream n) (x.frame x.next) tile
      (d.setStream p n { y with next := x.next + 1, landed := y.landed ++ [{ t := x.next, source := here }] }).pumpMet x.core
  else d

/-- R225: the pump reads a stale granule of a landed tile again; on the fourth time with writes blocked. -/
def Device.reread (d : Device) (p n granule : Nat) : Device :=
  let x := d.stream p n
  match if x.parked.isSome then none else x.landed.find? fun t => t.stale.contains granule with
  | none => d
  | some t =>
    match d.fetchTile p x t.t with
    | (d, .error (.xlate kind addr inj)) => d.parkStream p n t.t (some (t.t, granule)) kind addr inj
    | (d, .error .waits) => d
    | (d, .error _) => d.setStream p n { d.stream p n with broken := true }
    | (d, .ok (tile, _)) =>
      let times := SMap.at' 0 t.rereads granule + 1
      let d := d.bump (.memPartStatus p) Fd.memPartStatusWatchRereads
      let d := if times = 4 then d.bump (.memPartStatus p) Fd.memPartStatusBlockedReads else d
      let d := d.updCore x.core fun k => k.putTile (.stream n) (x.frame t.t) tile
      let t' := { t with stale := t.stale.filter (· != granule), rereads := SMap.set (fun _ => 0) t.rereads granule times }
      (d.setStream p n { d.stream p n with landed := (d.stream p n).landed.map fun y => if y = t then t' else y }).pumpMet x.core

/-! ### Core copies (R227) -/

/-- Who makes a copy. -/
def Device.copyUser (d : Device) (c : Nat) (x : CoreCopy) : MemUser :=
  { part := d.corePart c, cls := 3, engine := some c, idx := x.idx, unit := x.unit, die := c / 64 }

/-- R218, R220, R227, R276: one tile of a copy; as an explicit buffer, what it writes carries EPOCH 0. -/
def Device.copyTile (d : Device) (c : Nat) (x : CoreCopy) : Device × Except MemErr Unit :=
  let u := d.copyUser c x
  let dva := x.dva + 4096 * x.unit
  let frame := x.frame + x.unit
  let who := UnitId.copy x.group
  if x.inward then
    match d.translate u dva false with
    | (d, .error e) => (d, .error e)
    | (d, .ok y) =>
      andThen (d.fetchFrom u y dva x.flag x.fmt) fun t d => (d.updCore c fun k => k.putTile who frame t.1, .ok ())
  else
    match d.translate u dva true with
    | (d, .error e) => (d, .error e)
    | (d, .ok y) =>
      let m := (d.core c).view who d.free
      let t : TileRec := { hdr := scrBytes m (hdrAt frame) 64, data := scrBytes m (4096 * frame) 4096 }
      let t : TileRec :=
        { hdr := leBytes 8 0 ++ hdrBody t.fmt true (2 ^ 64 - 1) (hdrField t.hdr 24 4) (if isMx t.fmt then t.runIndex else 0)
            (if isMx t.fmt then t.runLen else 0) 0
          data := t.data }
      let w := d.restore (if x.flag then 0x22 else 0x20) t
      { d with free := d.free + 1 }.putTile u y dva w.1 w.2 (scrBytes m (sclAt frame) 256)

/-- R103, R114: an error of a core's copy: its PROG_START ends with STATUS 0x04. -/
def Device.copyFails (d : Device) (c : Nat) : Device :=
  match (d.core c).job with
  | none => d
  | some (p, q, idx) => d.updCmd p q idx fun x => { x with aux := [x.aux.getD 0 0, x.aux.getD 1 0 + 1, x.aux.getD 2 0] }

/-- R217, R223, R227: a copy goes on from the tile it stands at; it parks on a translation fault, stays where it waits for a tag, and
stops on any other. -/
def Device.copyGo (c : Nat) : Nat → CoreCopy → Device → Device
  | 0, _, d => d
  | n + 1, x, d =>
    match d.copyTile c x with
    | (d, .ok ()) => Device.copyGo c n { x with unit := x.unit + 1 } d
    | (d, .error (.xlate kind addr inj)) =>
      if d.stopped (c / 64) then d.updCore c fun k => { k with copies := k.copies ++ [x] } else
      let handle := (d.handles + 1) % 2 ^ 32
      (({ d with handles := d.handles + 1 }).updCore c fun k =>
        { k with copies := k.copies ++ [{ x with parked := some handle, fault := (kind, addr) }] }).logMem (d.copyUser c x) 0x0A01 0 kind
        handle addr 0 inj
    | (d, .error .waits) => d.updCore c fun k => { k with copies := k.copies ++ [x] }
    | (d, .error _) => d.copyFails c

/-! ### Instructions -/

/-- A stream or copy instruction of a class at a core that can run it. -/
def Device.pump (d : Device) (c cls : Nat) (f : Word → Device → Device) : Device :=
  let w := d.coreWord c
  if d.canRun c = true ∧ wordClass w = cls ∧ pumpLegal w = true then f w (d.takeLease c) else d

/-- R227, R115: a core waits for its pump; one that is STOPPING stops there. -/
def Device.pumpWaits (d : Device) (c : Nat) (x : PumpWait) : Device :=
  if (d.core c).st = .stopping then d.blockEnd c
  else (d.updCore c fun k => { k with st := .waiting, pumpWait := some x }).pumpMet c

/-- R225, R227: SWAIT. -/
def Device.instrSwait (d : Device) (c : Nat) (w : Word) : Device :=
  let n := fieldOf w 55 44
  match d.swaitGo c n (fieldOf w 43 40) with
  | some d => d.advance c
  | none => d.pumpWaits c (.tile n (fieldOf w 43 40))

/-- R227: SFREE returns frames, oldest first. -/
def Device.instrSfree (d : Device) (c : Nat) (w : Word) : Device :=
  let n := ((d.core c).sreg (fieldOf w 43 40)).toNat
  let p := d.corePart c
  let x := d.stream p (fieldOf w 55 44)
  if n = 0 ∨ 256 < n then d.progFault c 1
  else
    (if x.armed = true ∧ x.core = c then d.setStream p (fieldOf w 55 44) { x with visible := x.visible.drop n } else d).advance c

/-- R227: COPY_IN and COPY_OUT are issued, and the pump copies what it can. -/
def Device.instrCopy (d : Device) (c : Nat) (w : Word) (inward : Bool) : Device :=
  let k := d.core c
  let scr := (k.sreg (fieldOf w 55 52)).toNat
  let dva := (k.sreg (fieldOf w 51 48)).toNat
  let n := (k.sreg (fieldOf w 47 44)).toNat
  let flag := bitOf w.toNat 40
  let fmt := fieldOf w 39 36
  if n = 0 ∨ 1024 < n ∨ scr % 4096 ≠ 0 ∨ dva % 4096 ≠ 0 ∨ 1024 < scr / 4096 + n ∨
      (inward = true ∧ flag = true ∧ (0xA < fmt ∨ isMx fmt = true)) then d.progFault c 1
  else
    let x : CoreCopy :=
      { group := fieldOf w 43 41, inward := inward, flag := flag, fmt := fmt, frame := scr / 4096, dva := dva, count := n
        idx := (d.jobOf c).2.1 }
    (Device.copyGo c n x d).advance c

/-- R227: CSYNC. -/
def Device.instrCsync (d : Device) (c : Nat) (w : Word) : Device :=
  let mask := fieldOf w 55 48
  if (d.core c).copies.any fun x => bitOf mask x.group then d.pumpWaits c (.groups mask)
  else (d.updCore c fun k => (bitList 8 mask).foldl (fun k g => k.sync (.copy g)) k).advance c

/-- R227: an SWAIT or CSYNC times out: 0x0A07, and the core stops as under PROG_STOP. -/
def Device.pumpTimeout (d : Device) (c : Nat) : Device :=
  let d := d.pumpMet c
  match (d.core c).st, (d.core c).pumpWait with
  | .waiting, some w =>
    let cls := match w with
      | .tile _ _ => 2
      | .groups _ => 3
    (d.logMem { part := d.corePart c, cls := cls, engine := some c, idx := (d.jobOf c).2.1, die := c / 64 } 0x0A07 2 0 0 0 0).coreStop c
      .idle .timedOut
  | _, _ => d

/-! ### Parked work (R217) -/

/-- The core and copy of a partition that is parked under a handle. -/
def Device.parkedCopy (d : Device) (p handle : Nat) : Option (Nat × CoreCopy) :=
  d.cores.findSome? fun e =>
    if d.corePart e.1 = p then (e.2.copies.find? fun x => x.parked == some handle).map fun x => (e.1, x) else none

/-- The stream of a partition that is parked under a handle. -/
def Device.parkedStream (d : Device) (p handle : Nat) : Option (Nat × Stream) :=
  (d.streams.find? fun e => e.1 / 4096 == p && e.2.armed && e.2.parked == some handle).map fun e => (e.1 % 4096, e.2)

/-- A copy leaves its core's list. -/
def Device.dropCopy (d : Device) (c : Nat) (x : CoreCopy) : Device := d.updCore c fun k => { k with copies := k.copies.erase x }

/-- A copy taken up again. -/
def Device.copyOn (d : Device) (c : Nat) (x : CoreCopy) : Device :=
  (Device.copyGo c (x.count - x.unit) { x with parked := none } (d.dropCopy c x)).pumpMet c

/-- R223: the copies of a die's cores that wait for a tag go on. -/
def Device.copiesGo (d : Device) (die : Nat) : Device :=
  d.cores.foldl (fun (d : Device) e =>
    if e.1 / 64 = die then (e.2.copies.filter fun x => x.parked.isNone).foldl (fun (d : Device) x => d.copyOn e.1 x) d else d) d

/-- R217: a parked unit is translated again. -/
def Device.resume (d : Device) (p handle : Nat) : Device :=
  match d.parkedAs p handle with
  | some (q, c) => d.retryUnit p q c
  | none =>
    match d.parkedCopy p handle with
    | some (c, x) => d.copyOn c x
    | none =>
      match d.parkedStream p handle with
      | some (n, x) =>
        let d := d.setStream p n { x with parked := none, again := none }
        match x.again with
        | some (_, granule) => d.reread p n granule
        | none => d.tileArrive p n
      | none => d

/-- The die whose control complex takes up the work that is parked under a handle. -/
def Device.handleDie (d : Device) (p handle : Nat) : Nat :=
  match d.parkedAs p handle, d.parkedCopy p handle, d.parkedStream p handle with
  | some (_, c), _, _ => d.workDie p c.unit
  | none, some (c, _), _ => c / 64
  | none, none, some (_, x) => x.core / 64
  | none, none, none => 0

/-- R217, R24: firmware of the die has completed the page; while its control complex is stopped it completes none. -/
def Device.pageFilled (d : Device) (p handle : Nat) : Device := if d.stopped (d.handleDie p handle) then d else d.resume p handle

/-- R217: a parked command is abandoned: 0x0A02, DONE with STATUS 0x04. An abandoned STEP_OPEN leaves its partition CLOSED (R300), and so
does an abandoned STEP_CLOSE, whose step has ended (R297). -/
def Device.abandon (d : Device) (p q : Nat) (c : Cmd) : Device :=
  let d := d.logMem (d.userOf p c c.unit) 0x0A02 2 c.fault.1 c.handle c.fault.2 0
  let d := match opcodeOf c.desc with
    | 0x70 => d.unopen p
    | 0x71 => d.closeStep p
    | 0x81 => d.abandonSnapshot p q c
    | _ => d
  (d.cmdDone p q { c with parked := none } 4).countParked p

/-- R217: parked work is abandoned. -/
def Device.abandonHandle (d : Device) (p handle : Nat) : Device :=
  match d.parkedAs p handle with
  | some (q, c) => d.abandon p q c
  | none =>
    match d.parkedCopy p handle with
    | some (c, x) => (((d.logMem (d.copyUser c x) 0x0A02 2 x.fault.1 handle x.fault.2 0).dropCopy c x).copyFails c).pumpMet c
    | none =>
      match d.parkedStream p handle with
      | some (n, x) =>
        (d.logMem (x.user p ((x.again.map Prod.fst).getD x.next)) 0x0A02 2 x.fault.1 handle x.fault.2 0).setStream p n
          { x with parked := none, again := none, broken := true }
      | none => d

/-! ### BAR4 (R79, R80) -/

/-- R80, R95: a BAR4 access that maps to no memory or faults: 0x0408, with the fault kind. -/
def Device.bar4Fault (d : Device) (fn off kind : Nat) : Device :=
  let body := hostBody 0 0 off (kind * 2 ^ 60)
  if fn = 0 then d.logModule 0x0408 0 body else d.logPart (fn - 1) 0x0408 0 body

/-- The user of a BAR4 access; R229 gives the host no engine class: it is open. -/
def Device.bar4User (d : Device) (fn : Nat) : Device × MemUser :=
  let (w, d) := d.freeValue
  (d, { part := if fn = 0 then 8 else fn - 1, cls := fieldOf w 7 0 })

/-- R79: where an offset of a function's BAR4 leads. -/
def Device.bar4Place (d : Device) (u : MemUser) (fn off : Nat) (write : Bool) : Device × Except Nat Place :=
  if fn = 0 then
    let a := d.fld .hifWinBase Fd.hifWinBaseBase * 2 ^ 36 + off
    if off < 2 ^ 36 ∧ offsetMapped a then (d, .ok (.device (d.ownAt a))) else (d, .error 5)
  else if 2 ^ 33 ≤ off then (d, .error 0)
  else
    match d.translate u (d.fld (.hifPartWin (fn - 1)) Fd.hifPartWinBase * 2 ^ 33 + off) write with
    | (d, .ok x) => (d, .ok x)
    | (d, .error (.xlate kind _ _)) => (d, .error kind)
    | (d, .error _) => (d, .error 0)

/-- R80, R215, R220, R275: n bytes read through BAR4 at one slot: the stored bytes of a tile, once its record verifies. Memory that the
chip named reports as unmapped is fault kind 5; a read that does not verify, or is not answered, completes with bytes that are open. -/
def Device.bar4Get (d : Device) (u : MemUser) (x : Place) (n : Nat) : Device × Except Nat (List Byte) :=
  match x with
  | .host a => (d.emit (.hostRead a n), .ok (d.hostBytes a n))
  | .device g =>
    match d.readTile u g with
    | (d, .ok (t, _)) => (d, .ok ((t.data.drop (g % 4096)).take n))
    | (d, .error (.remote _ 3)) => (d, .error 5)
    | (d, .error _) =>
      let f := d.free
      ({ d with free := f + 1 }, .ok ((List.range n).map fun i => Config.freeByte f i))

/-- BAR4_READ of n bytes at an offset of a function. -/
def Device.bar4Read (d : Device) (fn off n : Nat) : Device :=
  let (d, u) := d.bar4User fn
  let r := (spans (n / 4096 + 2) off n).foldl (fun (acc : Device × Except Nat (List Byte)) s =>
    match acc with
    | (d, .error e) => (d, .error e)
    | (d, .ok bs) =>
      match d.bar4Place u fn s.1 false with
      | (d, .error k) => (d, .error k)
      | (d, .ok x) => andThen (d.bar4Get u x s.2) fun b d => (d, .ok (bs ++ b))) (d, .ok [])
  match r with
  | (d, .ok bs) => d.emit (.readData bs)
  | (d, .error k) => (d.bar4Fault fn off k).emit .unsupported

/-- R76, R80: a posted write that maps to no memory or faults: 0x0408, and an uncorrectable AER error. -/
def Device.bar4Lost (d : Device) (fn off kind : Nat) : Device := (d.bar4Fault fn off kind).emit .aerUncorrectable

/-- R215, R221, R226: bytes written through BAR4 into one slot are merged there, and are no local write; the fault kind, where the chip
named reports that they lie in no memory. -/
def Device.bar4Put (d : Device) (u : MemUser) (x : Place) (bytes : List Byte) : Device × Option Nat :=
  match x with
  | .host a => (d.hostWrite a bytes, none)
  | .device g =>
    match if d.own g then d.mergeWrite u (offOf g) bytes false else d.writePart u g bytes with
    | (d, .error (.remote _ 3)) => (d, some 5)
    | (d, _) => (d, none)

/-- BAR4_WRITE of bytes at an offset of a function. -/
def Device.bar4Write (d : Device) (fn off : Nat) (bytes : List Byte) : Device :=
  let (d, u) := d.bar4User fn
  ((spans (bytes.length / 4096 + 2) off bytes.length).foldl (fun (acc : Device × List Byte) s =>
    let rest := acc.2.drop s.2
    match acc.1.bar4Place u fn s.1 true with
    | (d, .error k) => (d.bar4Lost fn s.1 k, rest)
    | (d, .ok x) =>
      match d.bar4Put u x (acc.2.take s.2) with
      | (d, none) => (d, rest)
      | (d, some k) => (d.bar4Lost fn s.1 k, rest)) (d, bytes)).1

/-- R76: a function exists: the physical one, or an enabled virtual one. -/
def Device.hasFn (d : Device) (fn : Nat) : Bool := decide (fn ≤ d.vfs)

/-! ### The meanings -/

/-- ARM. -/
def execArm (p q idx : Nat) (io : MemIo) (s : State) : Result :=
  run (fun d => ((d.withIo io).work p q idx 0x30 fun c d => d.arm p q c).endIo) s

/-- REARM. -/
def execRearm (p q idx : Nat) (s : State) : Result :=
  run (fun d => d.work p q idx 0x31 fun c d =>
    (d.rearm p (fieldOf c.desc.q4 11 0) (fieldOf c.desc.q5 31 0)).workEnds p q idx 0) s

/-- RELEASE. -/
def execRelease (p q idx : Nat) (s : State) : Result :=
  run (fun d => d.work p q idx 0x32 fun c d => ((d.discardLanded p (fieldOf c.desc.q4 11 0)).setStream p (fieldOf c.desc.q4 11 0) {}).workEnds p q idx 0) s

/-- SWAIT. -/
def execSwait (c : Nat) (s : State) : Result := run (fun d => d.pump c 0x70 fun w d => d.instrSwait c w) s

/-- SFREE. -/
def execSfree (c : Nat) (s : State) : Result := run (fun d => d.pump c 0x71 fun w d => d.instrSfree c w) s

/-- COPY_IN. -/
def execCopyIn (c : Nat) (io : MemIo) (s : State) : Result :=
  run (fun d => ((d.withIo io).pump c 0x72 fun w d => d.instrCopy c w true).endIo) s

/-- COPY_OUT. -/
def execCopyOut (c : Nat) (io : MemIo) (s : State) : Result :=
  run (fun d => ((d.withIo io).pump c 0x73 fun w d => d.instrCopy c w false).endIo) s

/-- CSYNC. -/
def execCsync (c : Nat) (s : State) : Result := run (fun d => d.pump c 0x74 fun w d => d.instrCsync c w) s

/-- TAG_FREE: requests that wait for tags of a die take those that are free, oldest first, and copies that wait go on (R222, R223). -/
def execTagFree (die : Nat) (s : State) : Result := run (fun d => ((d.tagFree die).serveHeld).copiesGo die) s

/-- STREAM_WAIT_TIMEOUT. -/
def execStreamWaitTimeout (c : Nat) (s : State) : Result := run (·.pumpTimeout c) s

/-- STREAM_TILE_ARRIVE. -/
def execStreamTileArrive (p n : Nat) (io : MemIo) (s : State) : Result :=
  run (fun d => ((d.withIo io).tileArrive p n).endIo) s

/-- WATCH_REREAD. -/
def execWatchReread (p n granule : Nat) (io : MemIo) (s : State) : Result :=
  run (fun d => ((d.withIo io).reread p n granule).endIo) s

/-- PAGE_FILL_COMPLETE: firmware has completed the page that the work parked under a handle waits for. -/
def execPageFillComplete (p handle : Nat) (io : MemIo) (s : State) : Result :=
  run (fun d => ((d.withIo io).pageFilled p handle).endIo) s

/-- FAULT_RESUME_RETRY. -/
def execFaultResumeRetry (p handle : Nat) (io : MemIo) (s : State) : Result :=
  run (fun d => ((d.withIo io).resume p handle).endIo) s

/-- FAULT_RESUME_ABANDON. -/
def execFaultResumeAbandon (p handle : Nat) (s : State) : Result := run (·.abandonHandle p handle) s

/-- PARK_TIMEOUT: work has been parked under a handle for PARK_US. -/
def execParkTimeout (p handle : Nat) (s : State) : Result := run (·.abandonHandle p handle) s

/-- TLB_INVAL: a write of MEM_TLB_INVAL by the physical function. -/
def execTlbInval (w : Word) (s : State) : Result := run (fun d => d.tlbInval w (fieldOf w 62 60)) s

/-- BAR4_READ. -/
def execBar4Read (fn off n : Nat) (io : MemIo) (s : State) : Result :=
  live (fun d =>
    if !d.hasFn fn then d
    else if d.ready then ((d.withIo io).bar4Read fn off n).endIo
    else d.emit (.readData (List.replicate n 0))) s

/-- BAR4_WRITE. -/
def execBar4Write (fn off : Nat) (bytes : List Byte) (io : MemIo) (s : State) : Result :=
  run (fun d => if d.hasFn fn then ((d.withIo io).bar4Write fn off bytes).endIo else d) s

end Sys2Proof.Machine
end

