-- ==== Sys2Proof/Machine/Boot.lean ====
section
/-! DEFINITION. Power, device reset and the frame of bring-up: its stages, their reports and its images (chapter 03, R421,
R445, R451). -/

namespace Sys2Proof.Machine

/-! ### Stages and reports (R55 to R57) -/

/-- Bring-up runs its stage s, and nothing holds it. -/
def Device.inStage (d : Device) (s : Nat) : Bool :=
  d.fld .bootStatus Fd.bootStatusState == 0 && d.stage == s && !d.pins.thermHold

/-- R62: bring-up waits for a host push. -/
def Device.waitsPush (d : Device) : Bool := d.fld .bootStatus Fd.bootStatusState == 3

/-- R56: a stage's four report registers: result, failure code, retries, start, duration and detail. -/
def Device.report (d : Device) (s result code attempts : Nat) (detail : Word) : Device :=
  let d := d.setReg (.bootReportA (s - 1)) (wordOf (code % 2 ^ 16 * 2 ^ 48 + min 255 attempts * 2 ^ 40 + result * 16 + s))
  let d := d.setReg (.bootReportB (s - 1)) d.boot.started
  let d := d.setReg (.bootReportC (s - 1)) (wordOf ((d.now - d.boot.started).toNat / 1000 % 2 ^ 32))
  d.setReg (.bootReportD (s - 1)) detail

/-- R57: a halting failure: its record, and HALTED until a device reset. -/
def Device.halt (d : Device) (s code : Nat) (detail : Word) : Device :=
  let d := (d.report s 4 code 0 detail).setFld .bootStatus Fd.bootStatusState 2
  (d.setFld .bootStatus Fd.bootStatusFailCode code).logBoot code 6

/-- R57, R62: bring-up enters WAIT_PUSH with a code, or with none where no failure led there (R63). Primrose has not ended, so its report
stays at running, and no record is written: whether a failure that waits writes one of its own the spec does not say (DESIGN CHOICE,
log entry 94). -/
def Device.waitPush (d : Device) (code : Nat) : Device :=
  (d.setFld .bootStatus Fd.bootStatusState 3).setFld .bootStatus Fd.bootStatusFailCode code

/-- R62: a push of an image of a length, by a page list's entry count, starts, or fails with RESULT 7. A length is invalid that is 0, or
more than the pages of the list hold (DESIGN CHOICE, log entry 95). -/
def Device.startPush (d : Device) (entries length : Nat) : Device :=
  if 1 ≤ entries ∧ entries ≤ 1024 ∧ 1 ≤ length ∧ length ≤ 65536 * entries then
    { d.setFld .bootPushCtrl Fd.bootPushCtrlResult 1 with boot := { d.boot with pushing := true, pushes := d.boot.pushes + 1 } }
  else d.setFld .bootPushCtrl Fd.bootPushCtrlResult 7

/-- R63, R443: Primrose after a reset made with NEXT_PUSH or with a staged image: it waits for a push; a staged push starts by
itself. -/
def Device.primroseWait (d : Device) : Device :=
  let d := d.waitPush 0
  if d.flag .mgtStageCtrl Fd.mgtStageCtrlValid then
    let d := d.startPush (d.fld .mgtStageList Fd.mgtStageListEntries) (d.fld .mgtStageCtrl Fd.mgtStageCtrlLength)
    if d.boot.pushing then { d with boot := { d.boot with stagedPush := true } }
    else d.setFld .mgtStageCtrl Fd.mgtStageCtrlValid 0
  else d

/-- R56, R75: a stage is entered: STATE and STAGE, RESULT of its report, and the time it starts. -/
def Device.enterStage (d : Device) (s : Nat) : Device :=
  let d := (d.setFld .bootStatus Fd.bootStatusState 0).setFld .bootStatus Fd.bootStatusStage s
  let d := d.setFld (.bootReportA (s - 1)) Fd.bootReportAResult 1
  { d with boot := { d.boot with started := d.now } }

/-- R68, R69, R72: a stage starts. -/
def Device.beginStage (d : Device) (s : Nat) : Device :=
  let d := d.enterStage s
  if s = 2 then (if d.boot.pushFirst then d.primroseWait else d)
  else if s = 4 then
    (List.range 28).foldl (fun (d : Device) n => d.setPortState n (if d.connected.contains n then 1 else 7)) d
  else if s = 6 then
    let late := maskOf (d.connected.filter fun n => d.portState n == 1)
    d.connected.foldl (fun (d : Device) n =>
      if d.portState n = 1 then d.logBoot 0x0162 0 (n / 7)
      else if d.portState n = 2 then d.setPortState n 3
      else d) { d with boot := { d.boot with latePorts := late } }
  else d

/-- R55, R56, R75: a stage passes, degraded where it has a code; the next starts, unless HOLD_BEFORE names it. -/
def Device.passStage (d : Device) (s code attempts : Nat) (detail : Word) : Device :=
  let d := d.report s (if code = 0 then 2 else 3) code attempts detail
  if d.fld .bootCtrl Fd.bootCtrlHoldBefore = s + 1 ∧ 2 ≤ s then d.setFld .bootStatus Fd.bootStatusState 4
  else d.beginStage (s + 1)

/-- R75: a write of BOOT_CTRL; HOLD_BEFORE = 0 releases bring-up from HELD. -/
def Device.bootCtrlWrite (d : Device) (w : Word) : Device :=
  let d := d.setFld .bootCtrl Fd.bootCtrlNextPush (fieldOf w 8 8)
  let d := d.setFld .bootCtrl Fd.bootCtrlHoldBefore (fieldOf w 3 0)
  if fieldOf w 3 0 = 0 ∧ d.fld .bootStatus Fd.bootStatusState = 4 ∧ d.pins.thermHold = false then d.beginStage (d.stage + 1)
  else d

/-! ### Device reset and power (R74, R421, R445, R451, R452) -/

/-- R64: the flash when a reset or a loss of power strikes: an image whose write it interrupts is broken. -/
def Flash.interrupted (f : Flash) : Flash :=
  if f.writing then { f with writing := false, policyWaiting := none, image := { f.image with digestOk := false } } else f

/-- R440, R445: SEC_NONCE takes a new value from the generator. -/
def Device.newNonce (d : Device) : Device :=
  (List.range 4).foldl (fun (d : Device) q =>
    let (w, d) := d.freeValue
    d.setReg (.secNonce q) w) d

/-- A register that keeps its value goes over from an earlier state. -/
def Device.keepReg (d old : Device) (r : Reg) : Device := d.setReg r (old.reg r)

/-- R434: the registers of the perturbation settings. -/
def tstRegs : List Reg :=
  [.tstSeed, .tstTiming, .tstCredit, .tstDelay, .tstInject 0, .tstInject 1, .tstInject 2, .tstInject 3]

/-- R434: the device logs 0x1306 on each change of settings. -/
def Device.logTst (d : Device) : Device := d.logModule 0x1306 0 [d.reg .tstStatus]

/-- R434: a perturbation setting differs from its reset value. -/
def Device.tstSet (d : Device) : Bool := tstRegs.any fun r => d.reg r != r.resetValue

/-- R419, R422, R434: what a device reset of a device leaves in the history buffer: the held signals it discards, the settings it clears,
and its end, with the commands it has absorbed. -/
def Device.logReset (n d : Device) : Device :=
  let n := ((d.heldSignals.map (·.part)).eraseDups).foldl (fun (n : Device) p =>
    n.logDiscarded (d.heldSignals.filter fun h => h.part == p) p 5 0xFFFFFFFF) n
  let n := if d.tstSet then n.logTst else n
  let absorbed := (d.queues.map fun e => (e.2.filter fun c => c.st != .retired).length).foldl (· + ·) 0
  n.logCtx 0x1205 0 0xFF 5 0 0xFFFFFFFF (wordOf (5 + absorbed % 2 ^ 32 * 2 ^ 16))

/-- R421, R445: the device after a device reset, before bring-up starts: everything at its reset value but what the chapters
keep: flash, pins, the history buffer and the events the board has not read, BOOT_CTRL, the staging registers and the
management addresses. -/
def Device.cleared (d : Device) : Device :=
  let n : Device := {
    flash := d.flash.interrupted, pins := d.pins, hist := d.hist, events := d.events, hostMem := d.hostMem, far := d.far
    farSide := d.farSide, saves := d.saves, out := d.out, free := d.free
    boot := { cold := false, pushFirst := d.flag .bootCtrl Fd.bootCtrlNextPush || d.flag .mgtStageCtrl Fd.mgtStageCtrlValid } }
  let n := ((n.keepReg d .bootCtrl).keepReg d .mgtStageList).keepReg d .mgtStageCtrl
  let n := n.setFld .mgtStatus Fd.mgtStatusEid (d.fld .mgtStatus Fd.mgtStatusEid)
  let n := n.setFld .mgtStatus Fd.mgtStatusI3cAddr (d.fld .mgtStatus Fd.mgtStatusI3cAddr)
  ({ ({ n with now := d.now } : Device).logReset d with now := 0 } : Device).countWaiting.newNonce

/-- R59: bring-up starts with the machine counter at zero; where heat or a lost rail holds the module it does not. -/
def Device.startUp (d : Device) : Device :=
  if d.awake ∧ d.pins.thermHold = false then ({ d with now := 0 } : Device).beginStage 1 else d

/-- R74, R421: a device reset: everything stops, and bring-up runs. -/
def Device.deviceReset (d : Device) : Device := d.cleared.startUp

/-- The module without power: flash stays, and what lies outside the module. -/
def Device.unpowered (d : Device) : Device :=
  { flash := d.flash.interrupted, hostMem := d.hostMem, far := d.far, farSide := d.farSide, saves := d.saves
    out := d.out, free := d.free }

/-- R451: the rails are raised; PERST# is still asserted. -/
def Device.powerOn (d : Device) : Device :=
  if d.pins.powered then d
  else { d.unpowered with pins := { powered := true }, boot := { cold := true } }.newNonce

/-- R451, R454, R457: PERST# is released: bring-up starts, ends a hold for a lost rail, and is held while THERMTRIP_N is low. -/
def Device.perstRelease (d : Device) : Device :=
  if d.pins.powered ∧ d.pins.perst then
    { d with pins := { d.pins with perst := false, railHold := false, thermHold := d.pins.thermtrip } }.startUp
  else d

/-- R421, R451, R459: PERST# is asserted: a device reset of the whole module. -/
def Device.perstAssert (d : Device) : Device :=
  if d.pins.powered ∧ d.pins.perst = false then
    ({ d with pins := { d.pins with perst := true } } : Device).deviceReset
  else d

/-- POWER_ON. -/
def execPowerOn (s : State) : Result := act (·.powerOn) s

/-- POWER_OFF. -/
def execPowerOff (s : State) : Result := act (·.unpowered) s

/-- PERST_RELEASE. -/
def execPerstRelease (s : State) : Result := act (·.perstRelease) s

/-- PERST_ASSERT. -/
def execPerstAssert (s : State) : Result := act (·.perstAssert) s

/-! ### Images (R60 to R64) -/

/-- R61: the major version of an image. -/
def imageMajor (i : Image) : Nat := fieldOf (i.version.setWidth 64) 31 16

/-- R57, R60, R61: the code with which the boot ROM turns away the image in flash; none where it accepts it. No code names an image
longer than 64 MiB: that code is open. -/
def Device.imageFault (d : Device) (i : Image) : Option Nat × Device :=
  if !d.flash.dirOk then (some 0x0121, d)
  else if !i.sigOk || !i.digestOk then (some 0x0122, d)
  else if i.stepping ≠ 0xA1 then (some 0x0123, d)
  else if 2 ^ 26 < i.length then
    let (w, d) := d.freeValue
    (some (w.toNat % 65536), d)
  else if imageMajor i < Config.romFloor.toNat then (some 0x0124, d)
  else (none, d)

/-- R61, R75: RESULT of a push of an image. -/
def pushResult (readError : Bool) (i : Image) : Nat :=
  if readError then 6
  else if !i.sigOk || !i.digestOk then 3
  else if i.stepping ≠ 0xA1 then 4
  else if 2 ^ 26 < i.length then 7
  else if imageMajor i < Config.romFloor.toNat then 5
  else 2

/-- R61, R62: an accepted image runs, from flash (0) or from a push (1), and Primrose passes. -/
def Device.runImage (d : Device) (i : Image) (source code attempts : Nat) : Device :=
  let d := d.setFld .bootImage Fd.bootImageRunningVersion i.version.toNat
  let d := d.setFld .bootImage Fd.bootImageSource source
  let d := d.setFld .bootImage Fd.bootImageFlashSynced (ofBool (decide (d.flash.image = i)))
  let d : Device := { d with boot := { d.boot with running := some i, pushed := source == 1 } }
  d.passStage 2 code attempts (wordOf (i.version.toNat * 2 ^ 32 + i.length % 2 ^ 26))

/-- R61: Primrose ends with the image in flash. -/
def Device.primrose (d : Device) : Device :=
  if d.inStage 2 then
    match d.imageFault d.flash.image with
    | (some code, d) => d.waitPush code
    | (none, d) => d.runImage d.flash.image 0 0 0
  else d

/-- R62, R75: a write of BOOT_PUSH_CTRL: LENGTH, and where GO is set a push, which only WAIT_PUSH accepts. -/
def Device.pushGo (d : Device) (w : Word) : Device :=
  let d := d.setFld .bootPushCtrl Fd.bootPushCtrlLength (fieldOf w 63 32)
  if bitOf w.toNat 0 then
    if d.waitsPush ∧ d.boot.pushing = false then
      d.startPush (d.fld .bootPushList Fd.bootPushListEntries) (fieldOf w 63 32)
    else d.setFld .bootPushCtrl Fd.bootPushCtrlResult 8
  else d

/-- R62, R63, R443: the boot ROM has read the pushed pages: the image runs, or bring-up waits for another push. RESULT keeps 8 of
a GO that was ignored meanwhile. Primrose then passes, degraded with the code that led to WAIT_PUSH where one did, and its ATTEMPTS count
the pushes (DESIGN CHOICE, log entry 94). -/
def Device.pushComplete (d : Device) (i : Image) (readError : Bool) : Device :=
  if d.waitsPush ∧ d.boot.pushing then
    let r := pushResult readError i
    let d := if d.fld .bootPushCtrl Fd.bootPushCtrlResult = 1 then d.setFld .bootPushCtrl Fd.bootPushCtrlResult r else d
    let d := if d.boot.stagedPush then d.setFld .mgtStageCtrl Fd.mgtStageCtrlValid 0 else d
    let d : Device := { d with boot := { d.boot with pushing := false, stagedPush := false } }
    if r = 2 then
      (d.setFld .bootCtrl Fd.bootCtrlNextPush 0).runImage i 1 (d.fld .bootStatus Fd.bootStatusFailCode) d.boot.pushes
    else d
  else d

/-- R64: after READY firmware erases and programs the image region with a pushed image. -/
def Device.flashWrite (d : Device) : Device :=
  if d.ready ∧ d.boot.pushed ∧ d.flash.writing = false then
    { d with flash := { d.flash with writing := true } }.setFld .bootImage Fd.bootImageFlashWriteBusy 1
  else d

/-- R64: the flash write ends; a boot policy that waited for it is written. -/
def Device.flashWritten (d : Device) : Device :=
  match d.flash.writing, d.boot.running with
  | true, some i =>
    let d : Device := { d with
      flash := { d.flash with
        writing := false, image := i, policy := d.flash.policyWaiting.getD d.flash.policy, policyWaiting := none }
      boot := { d.boot with pushed := false } }
    (d.setFld .bootImage Fd.bootImageFlashWriteBusy 0).setFld .bootImage Fd.bootImageFlashSynced 1
  | _, _ => d

/-- R60, R64, R70, R75: a write of BOOT_POLICY: firmware writes it to flash, after an image write that runs; it applies from the next
start. One made before Celandine has read the flash waits for that; after a halt firmware writes nothing (R57). -/
def Device.bootPolicyWrite (d : Device) (w : Word) : Device :=
  let d := d.setReg .bootPolicy (wordOf (fieldOf w 3 0))
  if d.halted then d
  else if d.boot.map.isNone then { d with boot := { d.boot with policyWritten := some (fieldOf w 3 0) } }
  else if d.flash.writing then { d with flash := { d.flash with policyWaiting := some (fieldOf w 3 0) } }
  else { d with flash := { d.flash with policy := fieldOf w 3 0 } }

/-- R58: from the end of Snowdrop until READY only the GLB_, BOOT_, SEC_ and MGT_ blocks answer. -/
def Device.answers (d : Device) : Bool := decide (2 ≤ d.stage)

/-- A command of a block that answers from the end of Snowdrop (R58). -/
def early (f : Device → Device) (s : State) : Result := live (fun d => if d.answers then f d else d) s

/-- A command that firmware of die 0 serves, the security engine and the management interface among them (R23): nothing comes of it once
bring-up has HALTED (R57), and it waits while that die's control complex is stopped (R24). -/
def serving (f : Device → Device) (s : State) : Result := early (fun d => if d.halted || d.stopped 0 then d else f d) s

/-- PRIMROSE. -/
def execPrimrose (s : State) : Result := live (·.primrose) s

/-- BOOT_PUSH_GO: the value written to BOOT_PUSH_CTRL. -/
def execBootPushGo (w : Word) (s : State) : Result := early (·.pushGo w) s

/-- BOOT_PUSH_COMPLETE: the image that the pages hold, and whether a read of them failed. -/
def execBootPushComplete (i : Image) (readError : Bool) (s : State) : Result := live (·.pushComplete i readError) s

/-- IMAGE_FLASH_WRITE. -/
def execImageFlashWrite (s : State) : Result := going (·.flashWrite) s

/-- IMAGE_FLASH_WRITE_COMPLETE. -/
def execImageFlashWriteComplete (s : State) : Result := going (·.flashWritten) s

/-- BOOT_POLICY_WRITE: the value written. -/
def execBootPolicyWrite (w : Word) (s : State) : Result := early (·.bootPolicyWrite w) s

/-- BOOT_HOLD_RELEASE: the value written to BOOT_CTRL. -/
def execBootHoldRelease (w : Word) (s : State) : Result := early (·.bootCtrlWrite w) s

end Sys2Proof.Machine
end

