-- ==== Sys2Proof/Machine/BringUp.lean ====
section
/-! DEFINITION. The stages of bring-up: Snowdrop, Celandine, Cowslip, Campion, Yarrow and Teasel (chapter 03). -/

namespace Sys2Proof.Machine

/-! ### Snowdrop (R59, R453) -/

/-- R449, R453: the maximum current of each rail group, A. -/
def railAmps : List Nat := [420, 420, 420, 420, 80, 80, 80, 80, 8, 50, 20, 480, 60, 2, 4]

/-- R453: a command to every rail group. -/
def Device.railAll (d : Device) (code : Nat) : Device :=
  (List.range 15).foldl (fun (d : Device) i => d.emit (.railCommand (0x10 + i) code 0)) d

/-- R437: the device identity key is regenerated from the helper data in flash. -/
def Device.identify (d : Device) : Device :=
  { d with mgmt := { d.mgmt with identity := some (Config.identityKey d.flash.helper) } }.setFld .secStatus Fd.secStatusIdValid 1

/-- R57, R59, R453: Snowdrop ends: the power stages that report power good, a mask of 15, and whether the 25 MHz reference holds. -/
def Device.snowdrop (d : Device) (good : Nat) (refOk : Bool) : Device :=
  if d.inStage 1 then
    let d := d.railAll 0x79
    let d := (railAmps.zipIdx).foldl (fun (d : Device) a => d.emit (.railCommand (0x10 + a.2) 0x4A a.1)) d
    let mask := wordOf (good % 2 ^ 15)
    if good % 2 ^ 15 ≠ 2 ^ 15 - 1 then d.halt 1 0x0111 mask
    else if !refOk then d.halt 1 0x0112 mask
    else
      let d := (d.setFld .secStatus Fd.secStatusDrbgOk 1).identify
      d.passStage 1 0 0 mask
  else d

/-! ### Celandine (R65 to R67, R437) -/

/-- R437: the alias key is derived from the device secret and the digest of the running image, and the device identity key certifies it. -/
def Device.deriveAlias (d : Device) : Device :=
  let key := Config.aliasKey ((d.boot.running.map (·.digest)).getD 0)
  { d with
    free := d.free + 1
    mgmt := { d.mgmt with aliasKey := some key, aliasCert := Config.aliasCert (d.mgmt.identity.getD 0) key d.free } }.setFld
    .secStatus Fd.secStatusAliasValid 1

/-- 16-bit numbers, low byte first. -/
def halfWords : List Byte → List Nat
  | a :: b :: r => (a.toNat + 256 * b.toNat) :: halfWords r
  | _ => []

/-- R65, R67: repair entries of 8 bytes each: interface, channel, bank, 32 bits of row, and a reserved byte. -/
def repairsOf : List Byte → List Repair
  | i :: c :: b :: r0 :: r1 :: r2 :: r3 :: _ :: rest =>
    { interface := i.toNat, channel := c.toNat, bank := b.toNat, row := ofLeBytes [r0, r1, r2, r3] } :: repairsOf rest
  | _ => []

/-- R67: the reserved byte of each repair entry is zero. -/
def reservedZero : List Byte → Bool
  | _ :: _ :: _ :: _ :: _ :: _ :: _ :: z :: rest => z == 0 && reservedZero rest
  | _ => true

/-- R67: a repair entry's bytes. -/
def Repair.bytes (r : Repair) : List Byte :=
  leBytes 1 r.interface ++ leBytes 1 r.channel ++ leBytes 1 r.bank ++ leBytes 4 r.row ++ [0]

/-- A number of n bytes at an offset of a record. -/
def recordNum (b : List Byte) (off n : Nat) : Nat := ofLeBytes ((b.drop off).take n)

/-- R65: what the bytes of the defect map record say. -/
def parseMap (b : List Byte) : DefectMap :=
  let m := recordNum b 604 4
  { known := b.take 4 == [0x57, 0x59, 0x44, 0x4D] && recordNum b 4 4 == 1
    whole := decide (608 + 8 * m + 132 ≤ b.length)
    version := BitVec.ofNat 32 (recordNum b 8 4)
    stepping := recordNum b 12 4
    serial := recordNum b 16 16
    coreMap := halfWords ((b.drop 32).take 512)
    unassigned := halfWords ((b.drop 544).take 32)
    laneMap := ((b.drop 576).take 28).map (·.toNat)
    count := m
    repairs := repairsOf ((b.drop 608).take (8 * min m 4096)) }

/-- R67: what the bytes of the field repair record say. -/
def parseField (b : List Byte) : FieldRecord :=
  let m := recordNum b 24 4
  let entries := (b.drop 32).take (8 * min m 1024)
  { known := b.take 4 == [0x57, 0x59, 0x46, 0x52] && recordNum b 4 4 == 1 && recordNum b 28 4 == 0 && reservedZero entries
    whole := decide (32 + 8 * m + 132 ≤ b.length)
    serial := recordNum b 8 16
    count := m
    repairs := repairsOf entries }

/-- R67: the bytes of a field repair record of a module with entries, before its signature. -/
def fieldBytes (serial : Nat) (rs : List Repair) : List Byte :=
  [0x57, 0x59, 0x46, 0x52, 1, 0, 0, 0] ++ leBytes 16 serial ++ leBytes 4 rs.length ++ leBytes 4 0 ++ rs.flatMap Repair.bytes

/-- R12, R65, R66: the defect map is consistent. A record of another magic or format is taken as one that is not (DESIGN CHOICE, log
entry 96). -/
def mapConsistent (m : DefectMap) : Bool :=
  m.known &&
  let all := m.coreMap ++ m.unassigned
  m.coreMap.length == 256 && m.unassigned.length == 16 && all.all (fun p => decide (p < 272)) && all.Nodup &&
  (m.coreMap.zipIdx.all fun x => x.1 / 68 == x.2 / 64) &&
  ((List.range 4).all fun die => decide ((m.coreMap.filter fun p => p / 68 == die && decide (64 ≤ p % 68)).length ≤ 4)) &&
  m.laneMap.length == 28 && (m.laneMap.all fun b => decide (b < 8) || b == 0xFF) && decide (m.count ≤ 4096)

/-- Spare cores that a map assigns on a die (R66). -/
def sparesOn (m : DefectMap) (die : Nat) : Nat := (m.coreMap.filter fun p => p / 68 == die && decide (64 ≤ p % 68)).length

/-- R67: an entry of the field repair record. -/
def fieldEntryOk (m : DefectMap) (r : Repair) : Bool :=
  decide (r.interface < 32) ||
  (r.interface == 0xFF && decide (r.channel < 28) && decide (r.bank < 8) && r.row == 0 && m.laneMap.getD r.channel 0 == 0xFF)

/-- R67: the field repair record passes its checks, on a module with a defect map. -/
def fieldValid (m : DefectMap) (sigOk : Bool) (r : FieldRecord) : Bool :=
  sigOk && r.known && r.whole && decide (r.count ≤ 1024) && r.serial == m.serial && r.repairs.all (fieldEntryOk m)

/-- R66: bytes a to a + 7 of the serial. -/
def serialWord (n a : Nat) : Word := wordOf (n / 2 ^ (8 * a) % 2 ^ 64)

/-- R39, R66, R67: the repair lane of each port, from the defect map and then the field record. -/
def Device.assignLanes (d : Device) (m : DefectMap) : Device :=
  ((List.range 28).foldl (fun (d : Device) n =>
    let own := m.laneMap.getD n 0xFF
    let field := (d.boot.field.find? fun r => r.interface == 0xFF && r.channel == n).map (·.bank)
    d.setFld (.lnkPortStatus n) Fd.lnkPortStatusRepaired (if own < 8 then own else field.getD 15)) d).countLanes

/-- R15, R39, R41: the state of each power domain when the power manager starts. cold: a junction lies below 10 °C, and the core
rails wait (R456). -/
def Device.domainAtStart (d : Device) (m : DefectMap) (cold : Bool) (n : Nat) : Nat :=
  if n < 256 then (if cold then 0 else 2)
  else if n < 272 then 8
  else if n < 304 then 2
  else if n = 304 then (if sparesOn m 0 + sparesOn m 1 = 0 then 8 else 2)
  else if n = 305 then (if sparesOn m 2 + sparesOn m 3 = 0 then 8 else 2)
  else if n < 334 then (if d.connected.contains (n - 306) then 2 else 0)
  else 2

/-- R29, R39, R54: the power manager starts, powers the domains in service and holds the die fabric rails, at 0.80 V until it grants
another setting. RAIL_SET of a switched domain that is no core shows 60, and of one that is not switched 0 (DESIGN CHOICE, log
entry 90). -/
def Device.powerDomains (d : Device) (m : DefectMap) (cold : Bool) : Device :=
  let d := (List.range 4).foldl (fun (d : Device) die => d.setFabric die 80) d
  ((List.range 403).foldl (fun (d : Device) n =>
    let st := d.domainAtStart m cold n
    let d := d.setDom n st
    let d := if st = 2 ∧ switched n then d.setRail n 60 else d
    if st = 2 ∧ 304 ≤ n ∧ switched n = false then d.setFld (.pwrDomStatus n) Fd.pwrDomStatusAssigned 1 else d) d).showGrants

/-- R75: Celandine reads the boot policy; a value written meanwhile is written to flash, for the next start. -/
def Device.takePolicy (d : Device) : Device :=
  let v := d.boot.policyWritten.getD (d.flash.policy % 16)
  ({ d with
    boot := { d.boot with policy := d.flash.policy, policyWritten := none }
    flash := { d.flash with policy := if d.boot.policyWritten.isSome then v else d.flash.policy } }).setReg .bootPolicy (wordOf v)

/-- R57, R66, R67: Celandine ends: whether the self-tests passed, and whether a junction is below 10 °C. -/
def Device.celandine (d : Device) (selfTest cold : Bool) : Device :=
  if d.inStage 3 then
    let m := parseMap d.flash.map
    let detail := fun (n : Nat) => wordOf (m.version.toNat * 2 ^ 32 + n)
    if !selfTest then d.halt 3 0x0134 (detail 0)
    else if !d.flash.mapSig || !m.whole || m.serial != d.flash.idSerial || m.stepping != 0xA1 then d.halt 3 0x0131 (detail 0)
    else if !mapConsistent m then d.halt 3 0x0132 (detail 0)
    else
      let record := parseField d.flash.field
      let good := fieldValid m d.flash.fieldSig record
      let field := if good then record.repairs else []
      let d := ({ d with boot := { d.boot with map := some m, field := field, board := d.flash.board } } : Device).takePolicy
      let d := if good then d else d.logBoot 0x0133 0
      let d := d.setFld .bootDefect Fd.bootDefectMapVersion m.version.toNat
      let d := d.setFld .bootDefect Fd.bootDefectFieldRepairs (min 255 field.length)
      let d := d.setFld .bootDefect Fd.bootDefectSparesD0 (sparesOn m 0)
      let d := d.setFld .bootDefect Fd.bootDefectSparesD1 (sparesOn m 1)
      let d := d.setFld .bootDefect Fd.bootDefectSparesD2 (sparesOn m 2)
      let d := d.setFld .bootDefect Fd.bootDefectSparesD3 (sparesOn m 3)
      let d := d.setFld .bootBoard Fd.bootBoardPortConnected (ofLeBytes ((d.flash.board.drop 8).take 4))
      let d := (d.setReg .glbSerialLo (serialWord m.serial 0)).setReg .glbSerialHi (serialWord m.serial 8)
      let d := (d.assignLanes m).powerDomains m cold
      d.deriveAlias.passStage 3 (if good then 0 else 0x0133) 0 (detail field.length)
  else d

/-! ### Cowslip (R68, R69) -/

/-- R212: the grades at which an LPDDR6 device trains, MT/s, from the lowest. -/
def farGrades : List Nat := [10667, 12800, 14400]

/-- R68: a memory interface ends its training. -/
def Device.memTrained (d : Device) (i : Nat) : Device :=
  if d.inStage 4 ∧ i < 32 then { d with boot := { d.boot with memTrained := d.boot.memTrained ||| 1 <<< i } } else d

/-- R212: the highest grade at which all 16 devices trained: the lowest of the highest grades that they report. -/
def farGrade (grades : Nat) : Nat :=
  farGrades.getD ((List.range 16).foldl (fun m k => min m (bitsOf grades (2 * k + 1) (2 * k))) 2) 0

/-- R55, R57, R68, R212: Cowslip ends, with the grades that the LPDDR6 devices' state machines report. -/
def Device.cowslip (d : Device) (grades : Nat) : Device :=
  if d.inStage 4 then
    let trained := d.connected.filter fun n => d.portState n == 2
    let detail := wordOf (d.boot.memTrained % 2 ^ 32 * 2 ^ 28 + maskOf trained)
    if d.boot.memTrained % 2 ^ 32 ≠ 2 ^ 32 - 1 then d.halt 4 0x0141 detail
    else
      let d := d.setFld .memCap Fd.memCapFarMts (farGrade grades)
      let late := d.connected.filter fun n => d.portState n == 1
      let d := late.foldl (fun (d : Device) n => d.logBoot 0x0142 0 (n / 7)) d
      let code := if late ≠ [] then 0x0142 else if d.connected.any (fun n => d.portState n == 6) then 0x0143 else 0
      d.passStage 4 code 0 detail
  else d

/-! ### Campion (R70, R71) -/

/-- R70, R75: the memory test that this start runs is the quick one. -/
def Device.quickTest (d : Device) : Bool :=
  (if d.boot.cold then bitsOf d.boot.policy 1 0 else bitsOf d.boot.policy 3 2) == 1

/-- R67, R71, R72: the field repair record is written with the repairs of this start, and signed; the bytes of its signature are free
values. It has room for 1,024 entries: those made later are applied, and not recorded (DESIGN CHOICE, log entry 96). -/
def Device.writeField (d : Device) : Device :=
  let all := d.boot.field ++ d.boot.newRepairs
  let record := fieldBytes ((d.boot.map.map (·.serial)).getD 0) (all.take 1024) ++ (List.range 132).map (Config.freeByte d.free)
  let d : Device := { d with
    flash := { d.flash with fieldSig := true, field := record }, boot := { d.boot with field := all, newRepairs := [] }, free := d.free + 1 }
  d.setFld .bootDefect Fd.bootDefectFieldRepairs (min 255 (all.take 1024).length)

/-- R70, R71: Campion ends: the failing rows it found, and whether the repair resources suffice. All memory reads zero. Its detail
counts the rows of this start and names their interfaces; where the resources do not suffice, those that failed are among them (DESIGN
CHOICE, log entry 94). -/
def Device.campion (d : Device) (rows : List Repair) (repairable : Bool) : Device :=
  if d.inStage 5 then
    let kind := ofBool d.quickTest
    let detail := wordOf (kind * 2 ^ 63 + rows.length % 65536 * 2 ^ 32 + maskOf (rows.map (·.interface % 32)).eraseDups)
    if !repairable then d.halt 5 0x0151 detail
    else
      let d : Device := { d with mem := [], side := [], boot := { d.boot with newRepairs := d.boot.newRepairs ++ rows } }
      d.writeField.passStage 5 0 0 detail
  else d

/-! ### Yarrow (R72) -/

/-- R57, R72: Yarrow ends, once no port is in a window or at its bound; a port that was still training when it started leaves 0x0162. -/
def Device.yarrow (d : Device) : Device :=
  if d.inStage 6 then
    let detail := wordOf (d.boot.portsRepaired % 2 ^ 28 * 2 ^ 28 + maskOf (d.connected.filter fun n => d.portState n == 4))
    let windows := d.connected.any fun n => decide (0 < (d.port n).window)
    let code := if d.connected.any fun n => d.portState n == 6 && decide (0 < (d.port n).window) then 0x0161
      else if d.boot.latePorts ≠ 0 then 0x0162 else 0
    let d := if d.boot.newRepairs = [] then d else d.writeField
    let (tries, d) := if windows then d.freeValue else (0, d)
    d.passStage 6 code (tries.toNat % 256) detail
  else d

/-! ### Teasel (R73, R399, R401, R403) -/

/-- R444: the board configuration record lays out its partitions as R444 gives. -/
def boardOk (b : List Byte) : Bool :=
  let n := (b.getD 14 0).toNat
  let part := fun c => (b.getD (16 + c) 0xFF).toNat
  b.length == 56 && b.take 4 == [0x57, 0x59, 0x42, 0x43] && ofLeBytes ((b.drop 4).take 2) == 1 &&
  decide (1 ≤ n) && decide (n ≤ 8) && ((List.range 32).all fun c => decide (part c < n) || part c == 0xFF) &&
  ((List.range n).all fun p => (List.range 32).any fun c => part c == p) && ofLeBytes (b.drop 48) == crc64 (b.take 48)

/-- R57, R73: the partition of each logical cluster: the board's layout, or one partition of all 32 clusters. -/
def boardLayout (b : List Byte) : SMap Nat :=
  SMap.entries (fun _ => 0xFF) 0 ((List.range 32).map fun c => if boardOk b then (b.getD (16 + c) 0xFF).toNat else 0)

/-- The number of partitions that the board record forms. -/
def boardParts (b : List Byte) : Nat := if boardOk b then (b.getD 14 0).toNat else 1

/-- R15, R54: a formed partition's cores, cluster fabrics, spare fabrics that serve its cores and die engines show ASSIGNED. -/
def Device.assignDomains (d : Device) : Device :=
  let used := (List.range 32).filter fun c => SMap.at' 0xFF d.layout c < 8
  let mark := fun (d : Device) n => d.setFld (.pwrDomStatus n) Fd.pwrDomStatusAssigned 1
  let d := used.foldl (fun (d : Device) c => mark ((List.range 8).foldl (fun (d : Device) i => mark d (8 * c + i)) d) (272 + c)) d
  let d := [304, 305].foldl (fun (d : Device) n => if (d.spareCores n).any fun c => used.contains (c / 8) then mark d n else d) d
  (used.map (· / 8)).eraseDups.foldl (fun (d : Device) die =>
    (List.range 7).foldl (fun (d : Device) k => mark d (366 + 9 * die + k)) d) d

/-- R73: partitions are formed. -/
def Device.formPartitions (d : Device) : Device :=
  let b := d.boot.board
  let d : Device := { d with layout := boardLayout b }
  let d := (List.range (boardParts b)).foldl (fun (d : Device) p =>
    d.setFld (.ctxPartStatus p) Fd.ctxPartStatusState 1) d
  let d := d.assignDomains
  if boardOk b then d else d.logBoot 0x0171 0

/-- R401, R403: the levels and the feature table of the running image; level is what the parent's FEATURE packet tells. -/
def Device.takeLevels (d : Device) (level : Option Nat) : Device :=
  match d.boot.running with
  | none => d
  | some i =>
    let v := level.getD i.featBase
    let fits := decide (i.featBase ≤ v) && decide (v ≤ i.featAdvertised)
    let d := d.setFld .plcFeature Fd.plcFeatureAdvertised i.featAdvertised
    let d := d.setFld .plcFeature Fd.plcFeatureBase i.featBase
    let d := { d with enabled := [(if fits then v else i.featBase, 0)] }.setFld .plcFeature Fd.plcFeatureEnabled (if fits then v else i.featBase)
    let d := d.setFld .lnkIdent Fd.lnkIdentFeature i.featAdvertised
    let d := ((i.featTable.take 64).zipIdx).foldl (fun (d : Device) e => d.setFields (.plcFeatureTab e.2) e.1) d
    if fits then d
    else d.logLevelOut v

/-- R428: the class of a copied report: that of its failure code. -/
def reportClass (code : Nat) : Nat :=
  if (0x0121 ≤ code ∧ code ≤ 0x0125) ∨ code = 0x0143 ∨ code = 0x0161 then 3 else 0

/-- R56, R428: the bring-up log is copied to the module error ring. -/
def Device.copyReports (d : Device) : Device :=
  (List.range 7).foldl (fun (d : Device) i =>
    d.logModule (0x0101 + i) (reportClass (d.fld (.bootReportA i) Fd.bootReportAFailCode))
      [d.reg (.bootReportA i), d.reg (.bootReportB i), d.reg (.bootReportC i), d.reg (.bootReportD i)]) d

/-- R73: the advertised level of the running image is told on every READY port. -/
def Device.advertiseLevel (d : Device) : Device :=
  ((List.range 28).filter fun n => d.portState n == 4).foldl (fun (d : Device) n =>
    d.emit (.advertise n (d.fld .plcFeature Fd.plcFeatureAdvertised))) d

/-- R69: at READY, the ports that trained too late for Yarrow qualify in service. -/
def Device.qualifyLate (d : Device) : Device :=
  d.connected.foldl (fun (d : Device) n => if d.portState n = 2 then d.setPortState n 3 else d) d

/-- R73, R396, R399: Teasel: exchanges holds the replies of each time exchange with the parent, one every 1 ms for at most 900 ms: the first
θ steps the counter, and three successive θ of at most 7 ns align it; a chip that does not align keeps its own counter. level is what
the parent's FEATURE packet tells; ready the READY chips heard. DETAIL names the partitions formed by a mask (DESIGN CHOICE, log entry 94). -/
def Device.teasel (d : Device) (exchanges : List Exchange) (level : Option Nat) (ready : List Nat) : Device :=
  if d.inStage 7 then
    let chip := ofLeBytes ((d.boot.board.drop 12).take 2) % 2 ^ 14
    let d := d.formPartitions
    let d := (d.setFld .glbChip Fd.glbChipChip chip).setFld .glbChip Fd.glbChipValid 1
    let d := d.setFld .lnkIdent Fd.lnkIdentChip chip
    let linked := (List.range 28).any fun n => d.portState n == 4
    let others := if linked then ready.filter (· != chip) else []
    let d := (d.takeLevels (if others = [] then none else level)).advertiseLevel
    let offsets := (exchanges.take 900).map thetaOf
    let aligned := alignedIn offsets
    let failed := !linked || (others != [] && !aligned)
    let d := if failed then d.logBoot 0x0172 0 else d
    let code := if !boardOk d.boot.board then 0x0171 else if failed then 0x0172 else 0
    let parts := maskOf d.formedParts
    let d := d.report 7 (if code = 0 then 2 else 3) code 0
      (wordOf (chip * 2 ^ 24 + d.fld .plcFeature Fd.plcFeatureAdvertised * 2 ^ 8 + parts))
    let d := if others != [] && aligned then { d with now := d.now + BitVec.ofInt 64 ((offsets.filterMap id).headD 0) } else d
    let chain := parentChain others 3 chip
    let d := (d.showParent chain).copyReports
    let d := if chain = [] then d.setFld .timStatus Fd.timStatusState 5 else
      match (offsets.filterMap id).getLast? with
      | some θ => d.takeTheta θ
      | none => d.setTimeState 3 0
    (d.setFld .bootStatus Fd.bootStatusState 1).qualifyLate.showCensus
  else d

/-- R55, R57: a stage exceeds its bound; Cowslip and Yarrow end at theirs in their own rows. What the stage has found so far, its
detail, the spec does not give. -/
def Device.stageTimeout (d : Device) : Device :=
  let go := fun (s code : Nat) =>
    let (w, d) := d.freeValue
    d.halt s code w
  if d.inStage 1 then go 1 0x0113
  else if d.inStage 2 then d.waitPush 0x0125
  else if d.inStage 3 then go 3 0x0135
  else if d.inStage 5 then go 5 0x0152
  else if d.inStage 7 then go 7 0x0173
  else d

/-! ### The meanings -/

/-- SNOWDROP. -/
def execSnowdrop (good : Nat) (refOk : Bool) (s : State) : Result := live (·.snowdrop good refOk) s

/-- CELANDINE. -/
def execCelandine (selfTest cold : Bool) (s : State) : Result := live (·.celandine selfTest cold) s

/-- MEM_INTERFACE_TRAINED. -/
def execMemInterfaceTrained (i : Nat) (s : State) : Result := live (·.memTrained i) s

/-- COWSLIP. -/
def execCowslip (grades : Nat) (s : State) : Result := live (·.cowslip grades) s

/-- CAMPION. -/
def execCampion (rows : List Repair) (repairable : Bool) (s : State) : Result := live (·.campion rows repairable) s

/-- YARROW. -/
def execYarrow (s : State) : Result := live (·.yarrow) s

/-- TEASEL. -/
def execTeasel (exchanges : List Exchange) (level : Option Nat) (ready : List Nat) (s : State) : Result :=
  live (·.teasel exchanges level ready) s

/-- STAGE_TIMEOUT. -/
def execStageTimeout (s : State) : Result := live (·.stageTimeout) s

end Sys2Proof.Machine
end

