-- ==== Sys2Proof/Machine/Clear.lean ====
section
/-! DEFINITION. What a reset of each scope clears in each chapter's state (R53, R116, R137, R138, R161, R184, R208, R230, R249,
R272, R295, R324, R325, R345, R375, R406), shared with context switches (R414). -/

namespace Sys2Proof.Machine

/-- Every register that p names returns to its value after reset. -/
def Device.resetWhere (d : Device) (p : Reg → Bool) : Device :=
  { d with regs := d.regs.filter fun e => !((Reg.ofOffset e.1).any p) }

/-! ### Synchronisation (R137, R138) -/

/-- The objects, flows, ready entries and waiters of a partition return to their state after reset. -/
def Device.clearSync (d : Device) (p : Nat) : Device :=
  let base := 1024 * d.fld (.synPartCfg p) Fd.synPartCfgSyncBase
  let len := 1024 * d.fld (.synPartCfg p) Fd.synPartCfgSyncCount
  let d : Device := { d with
    objs := SMap.keep (fun n => !(decide (base ≤ n) && decide (n < base + len))) d.objs
    flows := SMap.keep (fun k => k / 1024 != p) d.flows
    readyLists := SMap.mapAll (fun _ => []) (fun l => l.filter fun e => e.part != p) d.readyLists
    waiterEpisode := SMap.keep (fun k => k % 8 != p) d.waiterEpisode
    flowDone := d.flowDone.filter fun x => x.1 != p }
  d.resetWhere fun r => match r with
    | .synFlowCfg q _ => q == p
    | .synFlowStatus q _ => q == p
    | _ => false

/-! ### Cores (R53, R115, R184, R208, R230, R325) -/

/-- R230: the streams that a test names are released, their landed tiles discarded. -/
def Device.releaseStreams (d : Device) (p : Nat → Stream → Bool) : Device :=
  { d with streams := d.streams.filter fun e => !(p e.1 e.2) }

/-- R53: a lowered core is first brought to ON. -/
def Device.raiseCore (d : Device) (c : Nat) : Device := if d.domState c = 3 then d.lendReturn c else d

/-- R115, R184, R203, R208, R230, R325: what a core or cluster reset clears of a core; its scratch, program memory and counters stay.
A VCHAIN that waits is discarded, the other vector instructions already issued complete first, and the flow items of all of them
complete. -/
def Device.resetCore (d : Device) (c : Nat) : Device :=
  let p := d.corePart c
  let (d, fault) := d.endUnits c
  let d := match fault with
    | none => d
    | some f => d.logUnit c f.1 f.2
  let k := d.core c
  let d := if k.stepFrame.isSome ∧ p < 8 ∧ d.stepState p ∈ [1, 2, 3] then
      (d.updPart p fun x => { x with normIncomplete := true }).logStep p 0x0E09 0 (c / 64) 0 0 0 0 (wordOf c)
    else d
  let d := ((d.raiseCore c).dropCoreWaiter c).releaseStreams fun _ x => x.core == c
  let scratch := match k.stepFrame with
    | none => k.scratch
    | some f => SMap.setList zeroByte k.scratch (4096 * f) (List.replicate 4096 0)
  let d := d.updCore c fun k =>
    { k.landLapsed with
      st := .idle, loops := [], lease := none, job := none, pumpWait := none, stalled := false, scratch := scratch, norms := [], unsynced := []
      slots := [], aq := [], tq := [], vq := [], vregs := [], masks := [], chains := [], copies := [], ramp := none }
  d.resetWhere fun r => match r with
    | .mxaFlags i => i == c
    | .mxaStatus i => i == c
    | .mxaLastFault i => i == c
    | .vecFlags i => i == c
    | .vecStatus i => i == c
    | .vecLastFault i => i == c
    | _ => false

/-- R184: a core that a reset has emptied: all it holds is gone; when its array last worked is kept (R181). -/
def Core.emptied (k : Core) : Core := { rampDue := k.rampDue, lastMma := k.lastMma }

/-- R116, R184: the cores of a partition emptied; writes of CMD_PMEM_DATA held behind one that waited there go on. -/
def Device.emptyCores (d : Device) (p : Nat) : Device :=
  ((d.partCores p).foldl (fun (d : Device) c => d.updCore c Core.emptied) d).pmemNext

/-- R116, R184, R208, R414, R422: what a partition or compute reset clears of the partition's cores: all they hold. -/
def Device.clearCores (d : Device) (p : Nat) : Device :=
  let mine := fun c => d.corePart c == p
  let d := (d.partCores p).foldl Device.raiseCore d
  (d.emptyCores p).resetWhere fun r => match r with
    | .mxaCfg c | .mxaStatus c | .mxaFlags c | .mxaSatCount c | .mxaRepeats c | .mxaLastFault c => mine c
    | .vecStatus c | .vecFlags c | .vecSatCount c | .vecPasses c | .vecLastFault c => mine c
    | _ => false

/-! ### Queues and requests (R116, R230, R375) -/

/-- R375: the requests and delivery flows of a partition are absorbed: their tags free, late responses are discarded. -/
def Device.dropRemote (d : Device) (p : Nat) : Device :=
  let d := d.reqs.foldl (fun (d : Device) e =>
    match e.2 with
    | some r => if r.part = p then d.dropReq e.1 r else d
    | none => d) d
  { d with
    outFlows := d.outFlows.filter fun e => !(e.2.any fun x => x.1 == p) }

/-- R116, R230: the outstanding commands, streams and requests of a partition are gone. -/
def Device.clearWork (d : Device) (p : Nat) : Device :=
  let d : Device := { d with queues := SMap.keep (fun k => k / 64 != p) d.queues }
  let d := ((d.releaseStreams fun k _ => k / 4096 == p).dropRemote p).resetWhere fun r => match r with
    | .cmdQStatus q _ => q == p
    | _ => false
  d.countParked p

/-! ### Engines (R161, R249, R272, R295, R324, R345, R406) -/

/-- R161, R295, R324, R345: the partition's generator keys, step, layers, bindings and schedules. What stays is what it holds of
memory: its tables with their maps and logs, and its Cistern. -/
def Device.clearEngines (d : Device) (p : Nat) : Device :=
  let x := d.part p
  let d := d.updPart p fun _ =>
    { segs := x.segs, gen := x.gen, binds := x.binds, tables := x.tables, unitReads := x.unitReads, unitContribs := x.unitContribs
      idleSteps := x.idleSteps, moves := x.moves.map fun v => { v with entry := none }
      leaving := x.leaving, holding := x.holding, finals := x.finals, mend := x.mend, said := x.said, unitReaders := x.unitReaders
      ctxId := x.ctxId, mapSeq := x.mapSeq, level := x.level, switch := x.switch }
  d.resetWhere fun r => match r with
    | .sprLayerState q _ | .sprLayerCount q _ => q == p
    | .cisPartWindow q | .cisPartStep q | .cisPartSat q => q == p
    | .updBind q _ | .updFactor q _ => q == p
    | _ => false

/-- R324, R406: every table of the partition is unbound and every segment closed, and their storage is freed. -/
def Device.freeMemory (d : Device) (p : Nat) : Device :=
  let x := d.part p
  let d := d.updPart p fun _ =>
    { seed := x.seed, purposes := x.purposes, step := x.step, stepped := x.stepped, layers := x.layers, rules := x.rules
      schedules := x.schedules, nextSchedules := x.nextSchedules, factors := x.factors, normStore := x.normStore
      normIncomplete := x.normIncomplete, mapSeq := x.mapSeq, level := x.level, switch := x.switch }
  let d : Device := { d with
    directory := SMap.mapAll (fun _ => []) (fun l => l.filter fun e => e.part != p) d.directory }
  (d.resetWhere fun r => match r with
    | .gthPartLog _ q | .gthPartStatus _ q => q == p
    | _ => false).showCistern p

/-- R371, R375: every group of the partition is disbanded, and the other members are told. -/
def Device.leaveGroups (d : Device) (p : Nat) : Device :=
  (List.range 64).foldl (fun (d : Device) g =>
    if d.groupMembers p g = [] then d
    else
      let others := (d.groupMembers p g).filter (· != d.chip)
      (others.foldl (fun (d : Device) c => d.sendGroup c (.group c (.gone p g))) d).disband p g) d

/-- R366, R375: signals held in landing tables for the partitions that a test names are answered with STATUS 2, and their entries
are freed. -/
def Device.refuseHeld (d : Device) (hit : Nat → Bool) : Device :=
  (List.range 4).foldl (fun (d : Device) die =>
    let gone := (d.land die).filter fun e => e.signal.any fun k => hit (pktPart k)
    let d := d.setLand die ((d.land die).filter fun e => !gone.contains e)
    gone.foldl (fun (d : Device) e => match e.signal with
      | none => d
      | some k => d.respond k 9 2 (pktAddr k) []) d) d

/-- R423, R425: CTX_PART_STATUS after a reset: a compute reset leaves STATE, and RESULT where it has ended a save or a restore; a
partition reset also SWITCHES and what RESULT shows. -/
def Device.clearCtxStatus (d : Device) (p scope : Nat) : Device :=
  let keep := if scope ≠ 4 then 0xFF000FFF else if d.resets.any (·.ended.contains p) then 0xFF000000 else 0xF0000000
  d.setReg (.ctxPartStatus p) (d.reg (.ctxPartStatus p) &&& keep)

/-- R138, R230, R324, R375, R406, R422: everything of a partition that a partition or compute reset clears, but its rings. -/
def Device.clearPartition (d : Device) (p action : Nat) : Device :=
  let d := (((d.clearSync p).clearWork p).clearCores p).leaveGroups p
  let d := ((d.clearEngines p).freeMemory p).discardHeld p action 0xFFFFFFFF
  let d := d.tlbDrop p fun _ _ => true
  let d := (d.refuseHeld (· == p)).updPart p fun x => { x with switch := none, ctxId := 0 }
  ((d.resetWhere fun r => match r with
    | .cmdPartCtrl q | .cmdPartStatus q => q == p
    | .cmdQCfg q _ => q == p
    | _ => false).setFld .memTlbInval Fd.memTlbInvalBusy 0).clearCtxStatus p action

end Sys2Proof.Machine
end

