-- ==== Sys2Proof/Machine/Contexts.lean ====
section
/-! DEFINITION. Contexts (chapter 18): switch points (R409), saving (R410, R411), the save area (R412, R413), restoring (R415 to
R418), signals held meanwhile (R419) and DISCARD (R420). -/

namespace Sys2Proof.Machine

/-! ### Switch points (R409) -/

/-- R409: commands that stop at a boundary inside their work. -/
def stopsForSwitch (x : Desc) : Bool :=
  opcodeOf x ∈ [0x20, 0x21, 0x22, 0x23, 0x40, 0x50, 0x60, 0x81] || (opcodeOf x == 0x51 && !bitOf x.q4.toNat 8)

/-- R409: a command is where a switch finds it. A MERGE stands at an output-tile boundary when none of its tile's pairs has been
delivered (R294); a STEP_CLOSE that has started holds a switch back until it retires (R344). -/
def Cmd.atSwitch (c : Cmd) : Bool :=
  if opcodeOf c.desc = 0x71 then c.st == .fetched || c.st == .waiting || c.st == .retired
  else c.st != .running || c.parked.isSome ||
    (!c.worked && stopsForSwitch c.desc && (opcodeOf c.desc != 0x60 || c.aux.getD 5 0 == 0))

/-- R409: a partition is at a switch point. -/
def Device.switchPoint (d : Device) (p : Nat) : Bool :=
  (d.partCores p).all (fun c => (d.core c).st == .idle) && (List.range 64).all fun q => (d.queue p q).all Cmd.atSwitch

/-- R271: the lowest group of a keyed SCATTER that is not acknowledged; every other command restarts where it stands, a SAMPLE from
its start (R248). -/
def Device.restartUnit (d : Device) (p q : Nat) (c : Cmd) : Nat :=
  if opcodeOf c.desc = 0x40 then 0
  else if opcodeOf c.desc = 0x51 then
    let sent := ((d.cmdReqs p q c.idx).filter fun e => e.2.item != 2 ^ 40).map fun e => e.2.item / 64
    let held := c.held.map fun k => k.seq % 2 ^ 40 / 64
    (sent ++ held).foldl min c.unit
  else c.unit

/-! ### The save area (R412, R413) -/

/-- The quadwords of a descriptor. -/
def descWords (x : Desc) : List Word := [x.q0, x.q1, x.q2, x.q3, x.q4, x.q5, x.q6, x.q7]

/-- What the area holds of a partition's queue: its commands that have not retired. -/
def Device.outstanding (d : Device) (p q : Nat) : List Cmd := (d.queue p q).filter fun c => c.st != .retired

/-- R412: the offsets of the parts of queue q: its record, descriptors and restart records. -/
def queueAt (q : Nat) : Nat := 2 ^ 20 + 49152 * q

/-- R412: bytes written for a queue: its record, then, where commands are outstanding, their descriptors and restart records. -/
def Device.queueParts (d : Device) (p : Nat) (rings : List (Nat × Nat)) (q : Nat) : List (Nat × List Byte) :=
  let cs := d.outstanding p q
  let head := leBytes 4 (d.consumed p q) ++ leBytes 4 (d.fld (.cmdQStatus p q) Fd.cmdQStatusRetireIndex) ++ leBytes 4 cs.length ++
    leBytes 4 (ofBool (rings.any fun r => r.1 == q)) ++ leBytes 8 (d.reg (.cmdQCfg p q)).toNat ++ leBytes 40 0
  let restart := fun (c : Cmd) =>
    let kind := if c.st = .done then 2 else if c.st = .running then 1 else 0
    leBytes 1 kind ++ leBytes 1 (if kind = 2 then c.status else 0) ++ leBytes 6 0 ++
      leBytes 8 (if kind = 1 then d.restartUnit p q c else 0)
  (queueAt q, head) ::
    (if cs = [] then [] else
      [(queueAt q + 4096, cs.flatMap fun c => (descWords c.desc).flatMap fun w => leBytes 8 w.toNat),
       (queueAt q + 36864, cs.flatMap restart)])

/-- R412: the completed slots of a flow's window, by sequence number modulo 256. -/
def Flow.bitmap (x : Flow) : Nat := maskOf ((x.items.filter (·.completed)).map fun i => i.seq % 256)

/-- R412: bytes written for sync objects and flows. -/
def Device.syncParts (d : Device) (p : Nat) : List (Nat × List Byte) :=
  let base := 1024 * d.fld (.synPartCfg p) Fd.synPartCfgSyncBase
  let n := 1024 * d.fld (.synPartCfg p) Fd.synPartCfgSyncCount
  [(2 ^ 22, (List.range n).flatMap fun r => leBytes 8 (d.obj (base + r)).value.toNat ++ leBytes 8 (d.reg (.synObjCfg (base + r))).toNat),
   (6 * 2 ^ 20, (List.range 1024).flatMap fun f =>
      leBytes 8 (d.reg (.synFlowCfg p f)).toNat ++ leBytes 8 (d.flowNext p f) ++ leBytes 32 (d.flow p f).bitmap ++ leBytes 16 0)]

/-- R413: the slots of a core that are not EMPTY. -/
def Core.liveSlots (k : Core) : List Nat := (List.range 128).filter fun i => (SMap.at' {} k.slots i).mode != .empty

/-- R412: where core section k begins. -/
def coreAt (k : Nat) : Nat := 2 ^ 24 + 2 ^ 23 * k

/-- R413: offset and length of the parts of a core section whose bytes the spec does not lay out: vector state, step-frame
accumulators, slot metadata, and the running values of the slots that are not EMPTY. -/
def openParts (live : List Nat) : List (Nat × Nat) :=
  [(4587520, 65536), (4653056, 36864), (4718592, 8192)] ++ live.map fun s => (4734976 + 16384 * s, 16384)

/-- R413: offset and length of every part of a core section, in ascending order. -/
def coreSpans (frames : Nat) (live : List Nat) : List (Nat × Nat) :=
  [(0, 4096 * frames), (4194304, 64 * frames), (4259840, 256 * frames), (4521984, 65536)] ++ openParts live

/-- Bytes whose encoding the spec leaves open. -/
def openBytes (free off n : Nat) : List Byte := (List.range n).map fun i => Config.freeByte free (off + i)

/-- R413: bytes written for core section k. -/
def Core.parts' (k : Core) (frames free at' : Nat) : List (Nat × List Byte) :=
  [(at', scrBytes k.scratch 0 (4096 * frames)), (at' + 4194304, scrBytes k.scratch (hdrAt 0) (64 * frames)),
   (at' + 4259840, scrBytes k.scratch (sclAt 0) (256 * frames)),
   (at' + 4521984, (List.range 8192).flatMap fun i => leBytes 8 (k.word i).toNat)] ++
  (openParts k.liveSlots).map fun x => (at' + x.1, openBytes free (at' + x.1) x.2)

/-- The registers that hold step, layer and binding state of a partition (R410 types 1, 3, 4, 5). -/
def ctxRegs (p : Nat) : List Reg :=
  [.cisPartWindow p, .cisPartStep p, .cisPartSat p] ++ (List.range 64).flatMap (fun l => [.sprLayerState p l, .sprLayerCount p l]) ++
  (List.range 32).map (fun b => .updBind p b) ++ (List.range 16).map fun k => .updFactor p k

/-- R412 type 10: an armed stream as it is saved, its core by relative number: tiles that have landed and are not visible are
fetched again. -/
def Stream.saved (x : Stream) (rel : Nat → Nat) : Stream :=
  { x with core := rel x.core, next := (x.landed.map (·.t)).foldl min x.next, landed := [], parked := none, again := none }

/-- R410: what the area says beyond the bytes the spec lays out. -/
def Device.ctxOf (d : Device) (p declared : Nat) : EngineCtx :=
  let cores := d.partCores p
  let rel := fun c => cores.idxOf c
  { part := d.part p, regs := (ctxRegs p).map d.reg
    streams := (d.streams.filter fun e => e.1 / 4096 == p && e.2.armed).map fun e => (e.1 % 4096, e.2.saved rel)
    cores := (List.range (8 * declared)).map fun k => (cores[k]?.map d.core).getD {}
    vecFlags := (List.range (8 * declared)).map fun k => (cores[k]?.map fun c => d.reg (.vecFlags c)).getD 0
    groups := (List.range 64).filterMap fun g =>
      if d.flag (.lnkGroup p g) Fd.lnkGroupFormed then
        some { group := g, members := d.groupMembers p g, rank := (d.groupMembers p g).idxOf d.chip
               level := d.fld (.lnkGroup p g) Fd.lnkGroupLevel, seq := (d.group p g).seq }
      else none
    cmds := (List.range 64).flatMap fun q => (d.outstanding p q).map fun c => { queue := q, cmd := c }
    syncs := 1024 * d.fld (.synPartCfg p) Fd.synPartCfgSyncCount }

/-- R412: the engine records of a context, as type and content: a group (9), an armed stream (10) and a bound table (11) as the quadwords of
what the rule names, in its order (DESIGN CHOICE, log entry 145); the content of the others is open. -/
def EngineCtx.records (e : EngineCtx) : List (Nat × Option (List Byte)) :=
  let words := fun (l : List Nat) => some (l.flatMap fun w => leBytes 8 w)
  let x := e.part
  [(1, none), (2, none), (3, none)] ++ x.layers.map (fun _ => (4, none)) ++ x.rules.map (fun _ => (5, none)) ++
  x.schedules.map (fun _ => (6, none)) ++ (x.rules.filter fun r => r.2.any fun y => !y.col.isEmpty).map (fun _ => (7, none)) ++ [(8, none)] ++
  e.groups.map (fun g => (9, words (g.members ++ [g.rank, g.level, g.seq]))) ++
  e.streams.map (fun s => (10, words [s.2.desc, s.2.next, s.2.visible.length])) ++
  x.tables.filterMap fun t => t.2.map fun y => (11, words [t.1, y.current, y.previous.getD 0])

/-- R412: the bytes of engine records, each its type in 16 bits, the length of its content in 32 and its content; an open content has an
open length, up to room. -/
def recordBytes (room : Nat) : Nat → List (Nat × Option (List Byte)) → List Byte
  | _, [] => []
  | free, (t, some bs) :: rest => leBytes 2 t ++ leBytes 4 bs.length ++ bs ++ recordBytes room free rest
  | free, (t, none) :: rest =>
    let n := (Config.freeWord free).toNat % (room + 1)
    leBytes 2 t ++ leBytes 4 n ++ openBytes free 0 n ++ recordBytes room (free + 1) rest

/-- R412: the engine section of an area, from the first of the free values it takes: its open contents share what the others leave of its
8 MiB. -/
def EngineCtx.section (e : EngineCtx) (free : Nat) : List Byte :=
  let l := e.records
  let known := (l.map fun r => 6 + (r.2.getD []).length).foldl (· + ·) 0
  recordBytes ((2 ^ 23 - known) / max 1 (l.filter (·.2.isNone)).length) free l
/-- R412: the sections of the area: queues, sync objects and flows, engine records, then the core sections. -/
def Device.sections (d : Device) (p : Nat) (w : SwitchRun) (e : EngineCtx) (free : Nat) : List (List (Nat × List Byte)) :=
  [(List.range 64).flatMap (d.queueParts p w.rings), d.syncParts p, [(2 ^ 23, e.section (free + 1))]] ++
  e.cores.zipIdx.map fun k => k.1.parts' w.frames free (coreAt k.2)

/-- R412: the checksum of a section over its written bytes. -/
def sectionCrc (l : List (Nat × List Byte)) : Word := wordOf (crc64 (l.flatMap Prod.snd))

/-- R410: who writes and reads an area: firmware, in the partition's space. -/
def Device.ctxUser (d : Device) (p : Nat) : MemUser := { part := p, cls := 0, die := d.homeDie p }

/-- Bytes written at offsets of an area; a fault ends it. -/
def Device.writeArea (d : Device) (u : MemUser) (area : Nat) (l : List (Nat × List Byte)) : Device × Except MemErr Unit :=
  l.foldl (fun (a : Device × Except MemErr Unit) x =>
    match a with
    | (d, .error e) => (d, .error e)
    | (d, .ok ()) => d.writeDva u (area + x.1) x.2) (d, .ok ())

/-- Bytes read from offsets of an area. -/
def Device.readArea (d : Device) (u : MemUser) (area : Nat) (l : List (Nat × Nat)) : Device × Except MemErr (List (Nat × List Byte)) :=
  l.foldl (fun (a : Device × Except MemErr (List (Nat × List Byte))) x =>
    match a with
    | (d, .error e) => (d, .error e)
    | (d, .ok got) =>
      match d.readDva u (area + x.1) x.2 with
      | (d, .error e) => (d, .error e)
      | (d, .ok bs) => (d, .ok (got ++ [(x.1, bs)]))) (d, .ok [])

/-- R412: the header. -/
def Device.areaHeader (d : Device) (p : Nat) (w : SwitchRun) (crcs : List Word) : List Byte :=
  let x := d.part p
  let flags := ofBool (d.stepState p != 0) + 2 * ofBool (x.segs.any fun s => s.2.isOpen) + 4 * ofBool (!x.tables.isEmpty) +
    8 * ofBool ((List.range 64).any fun g => d.flag (.lnkGroup p g) Fd.lnkGroupFormed)
  let first := [0x57, 0x59, 0x43, 0x58] ++ leBytes 4 1 ++ leBytes 4 w.ctx ++ leBytes 2 d.chip ++ leBytes 1 p ++ leBytes 1 w.declared ++
    leBytes 2 w.frames ++ leBytes 2 (d.levelOf p) ++ leBytes 1 (maskOf (d.partDies p)) ++ leBytes 1 flags ++ leBytes 2 0 ++
    leBytes 8 d.now.toNat ++ (crcs.take 3).flatMap (fun c => leBytes 8 c.toNat) ++ leBytes 8 0
  let cores := (crcs.drop 3).flatMap fun c => leBytes 8 c.toNat
  first ++ List.replicate (4096 - first.length) 0 ++ cores ++ List.replicate (61440 - cores.length) 0

/-! ### Signals held (R419) -/

/-- R419: the held signals of a context are applied to a partition, in the order in which they entered the store. -/
def Device.applyHeld (d : Device) (p ctx : Nat) : Device :=
  let mine := d.heldSignals.filter fun h => h.ctx == ctx
  let from' := (mine.map (·.part)).eraseDups
  let d : Device := { d with heldSignals := d.heldSignals.filter fun h => h.ctx != ctx }
  let d := from'.foldl (fun (d : Device) s => d.countHeld s) d
  mine.foldl (fun (d : Device) h =>
    match d.syncOf p h.rel with
    | none => d
    | some n => if d.inDomain p h.src then d.applyRemote p n h.op h.amount h.src else d) d

/-! ### Saving (R410, R411) -/

/-- RESULT of CTX_PART_STATUS. -/
def Device.ctxResult (d : Device) (p v : Nat) : Device := d.setFld (.ctxPartStatus p) Fd.ctxPartStatusResult v

/-- STATE of CTX_PART_STATUS. -/
def Device.ctxSet (d : Device) (p v : Nat) : Device := d.setFld (.ctxPartStatus p) Fd.ctxPartStatusState v

/-- The command that requested a save or restore ends. -/
def Device.endOrigin (d : Device) (w : SwitchRun) (status : Nat) : Device :=
  match w.origin with
  | none => d
  | some o => d.workEnds o.1 o.2.1 o.2.2 status

/-- The requesting ring index in a record (R424). -/
def SwitchRun.idx (w : SwitchRun) : Nat := (w.origin.map fun o => o.2.2).getD 0xFFFFFFFF

/-- R423: a reset that covers a partition, or a core of it, runs. -/
def Device.resetCovers (d : Device) (p : Nat) : Bool :=
  d.resets.any fun r => r.scope == 4 || (r.scope == 3 && r.target == p) || (d.partCores p).any r.covers

/-- R410 step 1: a save begins; in a state that does not accept it, RESULT 6. -/
def Device.beginSave (d : Device) (p : Nat) (w : SwitchRun) : Device :=
  if d.ctxState p ≠ 1 ∨ d.resetCovers p = true then (d.ctxResult p 6).endOrigin w 4
  else
    let rings := ((List.range 64).filter fun q => d.sqState p q != 0).map fun q => (q, d.sqState p q)
    let declared := if w.declared = 0 then (d.partClusters p).length else w.declared
    let d := rings.foldl (fun (d : Device) r => d.sqDisable p r.1) d
    ((d.ctxSet p 2).ctxResult p 1).updPart p fun x =>
      { x with ctxId := w.ctx, switch := some { w with save := true, declared := declared, rings := rings, prev := 1, crcs := none } }

/-- R411: the rings that a save disabled are enabled again. -/
def Device.reenable (d : Device) (p : Nat) (rings : List (Nat × Nat)) : Device :=
  rings.foldl (fun (d : Device) r =>
    ((d.setFld (.hifSqCfg p r.1) Fd.hifSqCfgEnable 1).setFld (.hifSqStatus p r.1) Fd.hifSqStatusState r.2).setSq p r.1
      { seen := d.consumed p r.1 }) d

/-- R411: a save fails: the partition is ACTIVE again and nothing has been lost; signals held meanwhile are applied. -/
def Device.saveFails (d : Device) (p result code : Nat) (detail : Word) : Device :=
  match (d.part p).switch with
  | none => d
  | some w =>
    let d := d.logCtx code 2 p 1 w.ctx w.idx detail
    let d := { d with saving := SMap.set (fun _ => none) d.saving p none }.updPart p fun x => { x with switch := none, ctxId := 0 }
    ((((d.ctxSet p 1).ctxResult p result).reenable p w.rings).applyHeld p w.ctx).endOrigin w 4

/-- R411: a command, armed stream or live slot names a cluster at or above DECLARED. -/
def Device.beyond (d : Device) (p declared : Nat) : Bool :=
  let late := (d.partCores p).drop (8 * declared)
  ((List.range 64).any fun q => (d.outstanding p q).any fun c =>
      decide (0 < clusterCountOf c.desc) && decide (declared < clusterFirstOf c.desc + clusterCountOf c.desc)) ||
    (d.streams.any fun e => e.1 / 4096 == p && e.2.armed && late.contains e.2.core) ||
    late.any fun c => !(d.core c).liveSlots.isEmpty

/-- R410 step 3: at the switch point the area is written, all but its header. -/
def Device.writeContext (d : Device) (p : Nat) : Device :=
  match (d.part p).switch with
  | none => d
  | some w =>
    if d.ctxState p ≠ 2 ∨ w.crcs.isSome = true ∨ d.switchPoint p = false then d
    else if d.beyond p w.declared then d.saveFails p 4 0x1204 2
    else
      let e := d.ctxOf p w.declared
      let secs := d.sections p w e d.free
      let e := { e with length := (e.section (d.free + 1)).length }
      match ({ d with free := d.free + 1 + e.records.length }).writeArea (d.ctxUser p) w.area secs.flatten with
      | (d, .error _) => d.saveFails p 4 0x1204 1
      | (d, .ok ()) =>
        { d with saving := SMap.set (fun _ => none) d.saving p (some e) }.updPart p fun x =>
          { x with switch := some { w with crcs := some (secs.map sectionCrc) } }

/-- R414: formed groups are held as not formed. -/
def Device.holdGroups (d : Device) (p : Nat) : Device :=
  (List.range 64).foldl (fun (d : Device) g => d.setFld (.lnkGroup p g) Fd.lnkGroupFormed 0) d

/-- R414, R416: the cores of a partition IDLE and empty. -/
def Device.blankCores (d : Device) (p : Nat) : Device :=
  (d.emptyCores p).resetWhere fun r => match r with
    | .vecFlags c => d.corePart c == p
    | _ => false

/-- R414: the partition is cleared; its Cistern, tables and groups stay as its suspended memory. -/
def Device.clearContext (d : Device) (p : Nat) : Device :=
  ((((d.clearSync p).clearWork p).clearEngines p).holdGroups p).blankCores p

/-- R410 steps 4 and 5: the header is written and the partition is cleared: EMPTY. -/
def Device.saveEnds (d : Device) (p : Nat) : Device :=
  match (d.part p).switch with
  | none => d
  | some w =>
    match d.ctxState p, w.crcs, SMap.at' none d.saving p with
    | 2, some crcs, some e =>
      let stamp := d.now
      match d.writeArea (d.ctxUser p) w.area [(0, d.areaHeader p w crcs)] with
      | (d, .error _) => d.saveFails p 4 0x1204 1
      | (d, .ok ()) =>
        let d : Device := { d with
          saves := d.saves ++ [{ stamp := stamp, crcs := crcs, engine := e }]
          saving := SMap.set (fun _ => none) d.saving p none }
        let d := (d.clearContext p).updPart p fun x => { x with switch := none, ctxId := w.ctx }
        let d := ((d.ctxSet p 3).setFld (.ctxPartStatus p) Fd.ctxPartStatusSuspended 1).setFld (.ctxPartStatus p)
          Fd.ctxPartStatusSuspendedId w.ctx
        ((d.ctxResult p 2).bump (.ctxPartStatus p) Fd.ctxPartStatusSwitches).endOrigin w 0
    | _, _, _ => d

/-- R411: SAVE_WAIT_US passes without a switch point: 0x1201 names the first command of the lowest queue that is not at its own. -/
def Device.saveTimeout (d : Device) (p : Nat) : Device :=
  match (d.part p).switch with
  | none => d
  | some w =>
    if d.ctxState p ≠ 2 ∨ w.crcs.isSome = true ∨ d.switchPoint p = true then d
    else
      match (List.range 64).findSome? fun q => ((d.queue p q).find? fun c => !c.atSwitch).map fun c => (q, c.idx) with
      | some (q, i) => d.saveFails p 3 0x1201 (wordOf (q * 2 ^ 32 + i % 2 ^ 32))
      | none =>
        let f := d.freeValue
        f.2.saveFails p 3 0x1201 f.1

/-! ### Restoring (R415 to R418) -/

/-- R412: what a header says. -/
structure AreaHead where
  magic : Bool
  ctx : Nat
  chip : Nat
  declared : Nat
  frames : Nat
  level : Nat
  dies : Nat
  flags : Nat
  stamp : Word
  crcs : List Word

/-- A header read. -/
def areaHead (bs : List Byte) : AreaHead :=
  let f := hdrField bs
  let c := f 15 1
  { magic := bs.take 4 == [0x57, 0x59, 0x43, 0x58] && f 4 4 == 1
    ctx := f 8 4, chip := f 12 2, declared := c, frames := f 16 2, level := f 18 2, dies := f 20 1, flags := f 21 1
    stamp := wordOf (f 24 8)
    crcs := (List.range 3).map (fun i => wordOf (f (32 + 8 * i) 8)) ++ (List.range (8 * c)).map fun k => wordOf (f (4096 + 8 * k) 8) }

/-- What an area says beyond the bytes the spec lays out, as the chip that wrote it has: no area that a save has written has other
checksums. -/
def Device.savedAs (d : Device) (h : AreaHead) : Option EngineCtx :=
  (d.saves.find? fun s => s.stamp == h.stamp && s.crcs == h.crcs).map (·.engine)

/-- The bytes of an area from an offset. -/
def areaBytes (l : List (Nat × List Byte)) (off n : Nat) : List Byte :=
  match l.find? fun x => decide (x.1 ≤ off) && decide (off < x.1 + x.2.length) with
  | none => []
  | some x => (x.2.drop (off - x.1)).take n

/-- The number of outstanding commands that a queue record gives. -/
def queueCount (recs : List (Nat × List Byte)) (q : Nat) : Nat := min 512 (hdrField (areaBytes recs (queueAt q) 64) 8 4)

/-- R412: the written parts of each section, from the queue records, the header and what the records say. -/
def areaSpans (recs : List (Nat × List Byte)) (h : AreaHead) (e : EngineCtx) : List (List (Nat × Nat)) :=
  [(List.range 64).flatMap fun q =>
      (queueAt q, 64) :: (if queueCount recs q = 0 then [] else
        [(queueAt q + 4096, 64 * queueCount recs q), (queueAt q + 36864, 16 * queueCount recs q)]),
   [(2 ^ 22, 16 * e.syncs), (6 * 2 ^ 20, 65536)], [(2 ^ 23, e.length)]] ++
  (List.range (8 * h.declared)).map fun k =>
    (coreSpans h.frames ((e.cores.getD k {}).liveSlots)).map fun x => (coreAt k + x.1, x.2)

/-- R415 reason 6: the partition is EMPTY, or ACTIVE with nothing of its own. -/
def Device.restorable (d : Device) (p : Nat) : Bool :=
  let x := d.part p
  d.ctxState p == 3 || (d.ctxState p == 1 &&
    (List.range 64).all (fun q => d.sqState p q == 0 && (d.outstanding p q).isEmpty) && x.tables.isEmpty &&
    !(x.segs.any fun s => s.2.isOpen) && (List.range 64).all (fun g => d.groupMembers p g == []) && d.stepState p == 0)

/-- R415: an area read through the partition's translation and tested: its contents, or the reason why a restore is refused. first:
the restore has not begun. -/
def Device.readContext (d : Device) (p : Nat) (w : SwitchRun) (first : Bool) :
    Device × Except Nat (AreaHead × EngineCtx × List (Nat × List Byte)) :=
  let u := d.ctxUser p
  match d.readDva u w.area 65536 with
  | (d, .error _) => (d, .error 8)
  | (d, .ok bs) =>
    let h := areaHead bs
    if !h.magic then (d, .error 1)
    else
      match d.readArea u w.area ((List.range 64).map fun q => (queueAt q, 64)) with
      | (d, .error _) => (d, .error 8)
      | (d, .ok recs) =>
        match d.savedAs h with
        | none => (d, .error 2)
        | some e =>
          let spans := areaSpans recs h e
          match d.readArea u w.area spans.flatten with
          | (d, .error _) => (d, .error 8)
          | (d, .ok got) =>
            let crcs := (spans.map fun s => sectionCrc (s.map fun x => (x.1, areaBytes got x.1 x.2)))
            let suspended := d.flag (.ctxPartStatus p) Fd.ctxPartStatusSuspended
            if crcs ≠ h.crcs then (d, .error 2)
            else if (d.partClusters p).length < h.declared then (d, .error 3)
            else if d.levelOf p < h.level then (d, .error 4)
            else if h.chip ≠ d.chip ∧ h.flags % 4 ≠ 0 then (d, .error 5)
            else if first = true ∧ d.restorable p = false then (d, .error 6)
            else if (suspended = true ∧ d.fld (.ctxPartStatus p) Fd.ctxPartStatusSuspendedId ≠ h.ctx) ∨ w.ctx ≠ h.ctx then (d, .error 7)
            else (d, .ok (h, e, got))

/-- R415: a restore is refused: 0x1202. -/
def Device.refuseRestore (d : Device) (p : Nat) (w : SwitchRun) (reason : Nat) : Device :=
  ((d.logCtx 0x1202 2 p 2 w.ctx w.idx (wordOf reason)).ctxResult p 5).endOrigin w 4

/-- R408, R415: a restore begins, or is refused; in a state that does not accept it, RESULT 6. -/
def Device.beginRestore (d : Device) (p : Nat) (w : SwitchRun) : Device :=
  if !(d.ctxState p == 1 || d.ctxState p == 3) || d.resetCovers p then (d.ctxResult p 6).endOrigin w 4
  else
    match d.readContext p w true with
    | (d, .error reason) => d.refuseRestore p w reason
    | (d, .ok _) =>
      let prev := d.ctxState p
      ((d.ctxSet p 4).ctxResult p 1).updPart p fun x => { x with ctxId := w.ctx, switch := some { w with save := false, prev := prev } }

/-- R423: a restore fails: the partition is in its previous state, with its suspended memory; signals held for it stay held, or are
applied where it is ACTIVE. -/
def Device.restoreFails (d : Device) (p reason : Nat) : Device :=
  match (d.part p).switch with
  | none => d
  | some w =>
    let empty := decide (w.prev = 3)
    let d := (d.ctxSet p w.prev).updPart p fun x => { x with switch := none, ctxId := if empty then x.ctxId else 0 }
    (if empty then d else d.applyHeld p w.ctx).refuseRestore p w reason

/-- R416: die j of the context maps to die j modulo m of the partition; other dies stay. -/
def mapDie (src dst : List Nat) (x : Nat) : Nat := if src.contains x then dst.getD (src.idxOf x % max 1 dst.length) x else x

/-- R416: a mask of dies mapped. -/
def mapDies (src dst : List Nat) (m : Nat) : Nat := maskOf ((bitList 4 m).map (mapDie src dst))

/-- R416: the DIE and DIE_MASK fields of a descriptor mapped: SAMPLE, and OPEN and PUSH of CISTERN_CFG. -/
def onDies (x : Desc) (src dst : List Nat) : Desc :=
  if opcodeOf x = 0x40 then { x with q6 := withField x.q6 43 40 (mapDies src dst (fieldOf x.q6 43 40)) }
  else if opcodeOf x = 0x72 ∧ fieldOf x.q4 63 61 = 1 then { x with q4 := withField x.q4 27 24 (mapDies src dst (fieldOf x.q4 27 24)) }
  else if opcodeOf x = 0x72 ∧ fieldOf x.q4 63 61 = 2 then { x with q4 := withField x.q4 25 24 (mapDie src dst (fieldOf x.q4 25 24)) }
  else x

/-- R406, R417: suspended memory of partition s passes to partition p: its Cistern, tables, logs and groups; the maps name
its new partition. -/
def Device.passMemory (d : Device) (s p : Nat) : Device :=
  if s = p then d
  else
    let x := d.part s
    let d := d.updPart p fun y =>
      { y with
        segs := x.segs, gen := x.gen, binds := x.binds, tables := x.tables, unitReads := x.unitReads
        unitContribs := x.unitContribs, idleSteps := x.idleSteps, moves := x.moves, leaving := x.leaving
        holding := x.holding, finals := x.finals, mend := x.mend, said := x.said, unitReaders := x.unitReaders }
    let d := d.updPart s fun y =>
      { y with
        segs := [], gen := 0, binds := [], tables := [], unitReads := [], unitContribs := [], idleSteps := [], moves := []
        leaving := [], holding := [], finals := [], mend := [], said := [], unitReaders := [], ctxId := 0 }
    let d := (List.range 4).foldl (fun (d : Device) die =>
      ((((d.setReg (.gthPartLog die p) (d.reg (.gthPartLog die s))).setReg (.gthPartStatus die p) (d.reg (.gthPartStatus die s))).resetReg
        (.gthPartLog die s)).resetReg (.gthPartStatus die s))) d
    let d := (List.range 64).foldl (fun (d : Device) g =>
      (((d.setGroup p g (d.group s g)).setReg (.lnkGroup p g) (d.reg (.lnkGroup s g))).setGroup s g {}).resetReg (.lnkGroup s g)) d
    let d : Device := { d with
      directory := SMap.mapAll (fun _ => []) (fun l => l.map fun e => if e.part = s then { e with part := p } else e) d.directory }
    let d := (d.part p).handles.foldl (fun (d : Device) h =>
      (((d.table p h).map fun t => SMap.keys t.maps).getD []).foldl (fun (d : Device) e => d.writeMap p h e) d) d
    (d.setFld (.ctxPartStatus s) Fd.ctxPartStatusSuspended 0).setFld (.ctxPartStatus s) Fd.ctxPartStatusSuspendedId 0

/-- The partition that holds the suspended memory of a context on this chip: the target, else the lowest. -/
def Device.holderOf (d : Device) (p ctx : Nat) : Option Nat :=
  (p :: List.range 8).find? fun s =>
    d.flag (.ctxPartStatus s) Fd.ctxPartStatusSuspended && d.fld (.ctxPartStatus s) Fd.ctxPartStatusSuspendedId == ctx

/-- R417, R418: the engine records loaded: step, layers, bindings, schedules, keys and Cistern map beside the memory that is there.
Restored onto another chip, a context keeps no update binding and no group (R376). -/
def Device.loadEngines (d : Device) (p : Nat) (h : AreaHead) (e : EngineCtx) : Device :=
  let here := h.chip == d.chip
  let dst := d.partDies p
  let src := bitList 4 h.dies
  let d := d.updPart p fun x =>
    { e.part with
      segs := x.segs.map fun s => (s.1, { s.2 with dies := mapDies src dst s.2.dies })
      gen := x.gen, binds := x.binds, tables := x.tables, unitReads := x.unitReads, unitContribs := x.unitContribs
      idleSteps := x.idleSteps, moves := x.moves, leaving := x.leaving, holding := x.holding, finals := x.finals, mend := x.mend
      said := x.said, unitReaders := x.unitReaders
      rules := if here then e.part.rules else [], openOrder := [], totals := [], confirms := [], ctxId := x.ctxId, switch := x.switch
      mapSeq := x.mapSeq }
  let d := ((ctxRegs p).zip e.regs).foldl (fun (d : Device) r => d.setReg r.1 r.2) d
  let d := if here then d else (List.range 32).foldl (fun (d : Device) b => d.resetReg (.updBind p b)) d
  let d := (List.range 64).foldl (fun (d : Device) g =>
    d.setFld (.lnkGroup p g) Fd.lnkGroupFormed (ofBool (here && d.groupMembers p g != [] && e.groups.any fun k => k.group == g))) d
  d.showCistern p

/-- R323: the accumulators of all cores of a context added into one set. -/
def sumNorms (cores : List Core) : SMap Acc :=
  cores.foldl (fun m k => k.norms.foldl (fun m e => SMap.set (fun _ => {}) m e.1 ((SMap.at' {} m e.1).plus e.2)) m) []

/-- R413: a core section loaded: its frames, program memory, slots and vector state. -/
def Device.loadCore (d : Device) (h : AreaHead) (e : EngineCtx) (got : List (Nat × List Byte)) (k c : Nat) : Device :=
  let saved := e.cores.getD k {}
  let at' := coreAt k
  let m := SMap.setList zeroByte [] 0 (areaBytes got at' (4096 * h.frames))
  let m := SMap.setList zeroByte m (hdrAt 0) (areaBytes got (at' + 4194304) (64 * h.frames))
  let m := SMap.setList zeroByte m (sclAt 0) (areaBytes got (at' + 4259840) (256 * h.frames))
  (d.updCore c fun y =>
    { y.emptied with
      scratch := m, pmem := SMap.entries (fun _ => 0) 0 (wordsOf 8192 (areaBytes got (at' + 4521984) 65536))
      sregs := saved.sregs, slots := saved.slots, vregs := saved.vregs, masks := saved.masks, chains := saved.chains }).setReg
    (.vecFlags c) (e.vecFlags.getD k 0)

/-- R307, R323: the step frame of every core of the partition, with the context's accumulators in the core of rank 0. -/
def Device.loadStepFrame (d : Device) (p : Nat) (norms : SMap Acc) : Device :=
  if d.cisOn p then
    let frame := d.fld (.cisPartWindow p) Fd.cisPartWindowStepFrame
    (d.partCores p).zipIdx.foldl (fun (d : Device) c =>
      let mine := if c.2 = 0 then norms else []
      d.updCore c.1 fun k =>
        { k with
          stepFrame := some frame, norms := mine
          scratch := SMap.setList zeroByte k.scratch (4096 * frame)
            ((List.range 768).flatMap fun i => leBytes 4 ((SMap.at' {} mine i).f32)) }) d
  else d

/-- R412, R417: the sync objects and flows loaded. A flow whose OPEN is 0 and whose window holds items drains (R134). -/
def Device.loadSync (d : Device) (p : Nat) (e : EngineCtx) (got : List (Nat × List Byte)) : Device :=
  let word := fun off => wordOf (ofLeBytes (areaBytes got off 8))
  let d := (List.range e.syncs).foldl (fun (d : Device) r =>
    match d.syncOf p r with
    | none => d
    | some n => (d.setObj n { value := word (2 ^ 22 + 16 * r) }).setFields (.synObjCfg n) (word (2 ^ 22 + 16 * r + 8))) d
  (List.range 1024).foldl (fun (d : Device) f =>
    let at' := 6 * 2 ^ 20 + 64 * f
    let next := (word (at' + 8)).toNat % 2 ^ 32
    let done := bitList 256 (ofLeBytes (areaBytes got (at' + 16) 32))
    let items := done.map fun s => ({ seq := (next + (s + 256 - next % 256) % 256) % 2 ^ 32, completed := true } : FlowItem)
    let open' := bitOf (word at').toNat 63
    ((((d.setFields (.synFlowCfg p f) (word at')).setFlow p f { items := items }).setFld (.synFlowStatus p f) Fd.synFlowStatusNextRelease
      next).setFld (.synFlowStatus p f) Fd.synFlowStatusState (if open' then 1 else if items.isEmpty then 0 else 3))) d

/-- R417: the flow item of a command that had started is in its window again. -/
def Device.readmit (d : Device) (p : Nat) (x : Desc) : Device :=
  match cmdFlow x with
  | none => d
  | some w =>
    let d := if d.flowState p (flowNum w) = 0 then d.setFld (.synFlowStatus p (flowNum w)) Fd.synFlowStatusState 3 else d
    d.itemAdmit p w

/-- R217: what translating the unit of a command that was PARKED meets: all of it for DMA, else the address at which it faulted. -/
def Device.parkedFault (d : Device) (p : Nat) (c : Cmd) : Device × Option MemErr :=
  if opcodeOf c.desc ∈ [0x20, 0x21, 0x22, 0x23] then d.unitFault p c
  else
    match d.translate (d.userOf p c c.unit) c.fault.2 false with
    | (d, .error e) => (d, some e)
    | (d, .ok _) => (d, none)

/-- R217, R417: a command that was PARKED: its unit is translated in the target's tables. Where that faults it is PARKED again, under a
new resume handle; else it runs (DEDUCED, log entry 83). -/
def Device.parkAgain (d : Device) (p q : Nat) (c : Cmd) : Device :=
  match d.parkedFault p c with
  | (d, some (.xlate kind addr inj)) => d.park p q c c.unit kind addr inj
  | (d, _) => d.takeEntries p q c.idx (d.engineNeeds p c.desc)

/-- R217, R242, R248, R271, R294: a command as it resumes at its restart point. SAMPLE, GATHER, SCATTER and MERGE read again what they
began with, MERGE knowing the pairs delivered to each core; any other goes on with what it has. -/
def Cmd.resumed (c : Cmd) : Cmd :=
  let c := { c with st := .running, item := (cmdFlow c.desc).isSome, parked := none, handle := 0, flow := none, held := [], sent := [], lost := [] }
  if opcodeOf c.desc ∈ [0x40, 0x50, 0x51, 0x60] then
    { c with begun := false, got := [], aux := if opcodeOf c.desc = 0x60 then List.replicate 7 0 ++ c.aux.drop 7 else [] }
  else c

/-- R417: one outstanding command re-enters its queue, from its descriptor and restart record. -/
def Device.reenter (d : Device) (p q idx : Nat) (x : Desc) (restart : List Byte) (keep : Option CmdKeep) : Device :=
  let unit := hdrField restart 8 8
  let put := fun (d : Device) (c : Cmd) => d.setQueue p q (d.queue p q ++ [c])
  match hdrField restart 0 1 with
  | 1 =>
    let old : Cmd := (keep.map (·.cmd)).getD { idx := idx, desc := x, gen := (d.part p).gen, stepNo := d.curStep p }
    let c := { old.resumed with desc := x, unit := unit }
    let d := (put d c).readmit p x
    if old.parked.isSome then d.parkAgain p q c else d.takeEntries p q idx (d.engineNeeds p x)
  | 2 =>
    let f := d.freeValue
    put f.2 { idx := idx, desc := x, st := .done, status := hdrField restart 1 1, value := f.1, begun := true, worked := true
              stepNo := (keep.map (·.cmd.stepNo)).getD (d.curStep p), gen := (keep.map (·.cmd.gen)).getD (d.part p).gen }
  | _ => put d { idx := idx, desc := x, skip := d.decodeFault p x }

/-- R417: queue q loaded: its commands in index order, its positions and its status word. -/
def Device.loadQueue (d : Device) (p : Nat) (h : AreaHead) (e : EngineCtx) (got : List (Nat × List Byte)) (q : Nat) : Device :=
  let rec' := areaBytes got (queueAt q) 64
  let retire := hdrField rec' 4 4
  let n := queueCount got q
  let d := d.setFields (.cmdQCfg p q) (wordOf (hdrField rec' 16 8))
  let d := (List.range n).foldl (fun (d : Device) i =>
    let idx := (retire + i) % 2 ^ 32
    let ws := wordsOf 8 (areaBytes got (queueAt q + 4096 + 64 * i) 64)
    let w := fun j => ws.getD j 0
    let x : Desc := ⟨w 0, w 1, w 2, w 3, w 4, w 5, w 6, w 7⟩
    d.reenter p q idx (onDies x (bitList 4 h.dies) (d.partDies p)) (areaBytes got (queueAt q + 36864 + 16 * i) 16)
      (e.cmds.find? fun c => c.queue == q && c.cmd.idx == idx)) d
  let d := d.setFld (.cmdQStatus p q) Fd.cmdQStatusRetireIndex retire
  let d := d.setFld (.hifSqStatus p q) Fd.hifSqStatusConsumed (hdrField rec' 0 4)
  (d.writeStatusWord p q false).advanceQueue p q

/-- R416, R417: the armed streams loaded, in place of any of the target's own. -/
def Device.loadStreams (d : Device) (p : Nat) (e : EngineCtx) : Device :=
  e.streams.foldl (fun (d : Device) s => d.setStream p s.1 { s.2 with core := (d.partCores p).getD s.2.core 0 })
    (d.releaseStreams fun k _ => k / 4096 == p)

/-- R419: signals held here for a context that another chip has restored are discarded there (the message is a DESIGN CHOICE, log
entry 146). -/
def Device.tellRestored (d : Device) (chip ctx : Nat) : Device :=
  if chip = d.chip then d else d.sendGroup chip (.group chip (.restored ctx))

/-- R417 to R419: the area has been read: the context is loaded, its commands re-enter, and its held signals are applied. -/
def Device.restoreEnds (d : Device) (p : Nat) : Device :=
  match (d.part p).switch with
  | none => d
  | some w =>
    if d.ctxState p ≠ 4 then d
    else
      match d.readContext p w false with
      | (d, .error reason) => d.restoreFails p reason
      | (d, .ok (h, e, got)) =>
        let here := h.chip == d.chip
        let d := match if here then d.holderOf p h.ctx else none with
          | none => d
          | some s => d.passMemory s p
        let d := (d.loadEngines p h e).blankCores p
        let d := ((d.partCores p).take (8 * h.declared)).zipIdx.foldl (fun (d : Device) c => d.loadCore h e got c.2 c.1) d
        let d := (d.loadStepFrame p (sumNorms e.cores)).loadSync p e got
        let d := ((d.loadStreams p e).ctxSet p 1).updPart p fun x => { x with switch := none, ctxId := 0 }
        let d := (List.range 64).foldl (fun (d : Device) q => d.loadQueue p h e got q) d
        let d := (d.setFld (.ctxPartStatus p) Fd.ctxPartStatusSuspended 0).setFld (.ctxPartStatus p) Fd.ctxPartStatusSuspendedId 0
        let d := ((d.ctxResult p 2).bump (.ctxPartStatus p) Fd.ctxPartStatusSwitches).countParked p
        (((d.applyHeld p h.ctx).discardHeld p 2 w.idx).tellRestored h.chip h.ctx).endOrigin w 0

/-! ### DISCARD (R420) -/

/-- R420: an EMPTY partition's suspended memory is freed and its held signals are discarded. -/
def Device.discardContext (d : Device) (p : Nat) : Device :=
  if d.ctxState p ≠ 3 then d.ctxResult p 6
  else
    let d := ((d.leaveGroups p).freeMemory p).discardHeld p 3 0xFFFFFFFF
    let d := (d.setFld (.ctxPartStatus p) Fd.ctxPartStatusSuspended 0).setFld (.ctxPartStatus p) Fd.ctxPartStatusSuspendedId 0
    (d.ctxSet p 1).ctxResult p 2

/-! ### Requests -/

/-- R425: a write of CTX_PART_CTRL sets its RW fields. -/
def Device.ctxCtrl (d : Device) (p : Nat) (w : Word) : Device :=
  ((d.setFld (.ctxPartCtrl p) Fd.ctxPartCtrlCtxId (fieldOf w 63 32)).setFld (.ctxPartCtrl p) Fd.ctxPartCtrlScratchFrames
    (fieldOf w 20 10)).setFld (.ctxPartCtrl p) Fd.ctxPartCtrlDeclared (fieldOf w 9 4)

/-- R410: the fields of a register request. -/
def Device.ctxRequest (d : Device) (p : Nat) : SwitchRun :=
  { save := true, ctx := d.fld (.ctxPartCtrl p) Fd.ctxPartCtrlCtxId
    frames := min 1024 (d.fld (.ctxPartCtrl p) Fd.ctxPartCtrlScratchFrames)
    declared := d.fld (.ctxPartCtrl p) Fd.ctxPartCtrlDeclared, area := d.fld (.ctxPartArea p) Fd.ctxPartAreaAddr * 65536 }

/-- R410: the fields of a command. -/
def ctxCommand (p q : Nat) (c : Cmd) : SwitchRun :=
  { save := true, origin := some (p, q, c.idx), ctx := fieldOf c.desc.q4 63 32, frames := fieldOf c.desc.q4 26 16
    declared := fieldOf c.desc.q4 13 8, area := c.desc.q5.toNat }

/-- R410, R417: a row of CTX_SAVE or CTX_RESTORE on its command: it ends with STATUS 4 where its start checks no longer hold (DEDUCED, log
entry 100), else f begins the switch of its target. -/
def Device.ctxRow (d : Device) (p q idx op : Nat) (f : Nat → SwitchRun → Device → Device) : Device :=
  d.work p q idx op fun c d =>
    if c.begun then d
    else
      match d.startFault p c.desc with
      | some _ => d.workEnds p q idx 4
      | none => f (fieldOf c.desc.q4 2 0) (ctxCommand p q c) (d.updCmd p q idx fun x => { x with begun := true })

/-! ### The meanings -/

/-- CTX_SAVE. -/
def execCtxSave (p q idx : Nat) (s : State) : Result := run (fun d => d.ctxRow p q idx 0xA0 fun t w d => d.beginSave t w) s

/-- CTX_RESTORE. -/
def execCtxRestore (p q idx : Nat) (io : MemIo) (areas : List SavedCtx) (s : State) : Result :=
  run (fun d => ((d.withIo { io with areas := areas }).ctxRow p q idx 0xA1 fun t w d => d.beginRestore t w).endIo) s

/-- CTX_SAVE_REQUEST: a write of CTX_PART_CTRL with ACTION 1. -/
def execCtxSaveRequest (p : Nat) (w : Word) (s : State) : Result :=
  run (fun d =>
    let d := d.ctxCtrl p w
    d.beginSave p (d.ctxRequest p)) s

/-- CTX_RESTORE_REQUEST: a write of CTX_PART_CTRL with ACTION 2. -/
def execCtxRestoreRequest (p : Nat) (w : Word) (io : MemIo) (areas : List SavedCtx) (s : State) : Result :=
  run (fun d =>
    let d := (d.withIo { io with areas := areas }).ctxCtrl p w
    (d.beginRestore p (d.ctxRequest p)).endIo) s

/-- CTX_DISCARD: a write of CTX_PART_CTRL with ACTION 3. -/
def execCtxDiscard (p : Nat) (w : Word) (s : State) : Result := run (fun d => (d.ctxCtrl p w).discardContext p) s

/-- SWITCH_POINT_REACHED. -/
def execSwitchPointReached (p : Nat) (io : MemIo) (s : State) : Result := run (fun d => ((d.withIo io).writeContext p).endIo) s

/-- SAVE_AREA_WRITTEN. -/
def execSaveAreaWritten (p : Nat) (io : MemIo) (s : State) : Result := run (fun d => ((d.withIo io).saveEnds p).endIo) s

/-- SAVE_WAIT_TIMEOUT. -/
def execSaveWaitTimeout (p : Nat) (s : State) : Result := run (·.saveTimeout p) s

/-- RESTORE_COMPLETE. -/
def execRestoreComplete (p : Nat) (io : MemIo) (areas : List SavedCtx) (s : State) : Result :=
  run (fun d => ((d.withIo { io with areas := areas }).restoreEnds p).endIo) s

end Sys2Proof.Machine
end

