-- ==== Sys2Proof/Machine/Resets.lean ====
section
/-! DEFINITION. The reset scopes (R53, R96, R138, R375, R421 to R423): requests, the work they absorb, and what they leave. -/

namespace Sys2Proof.Machine

/-! ### Requests (R421, R423) -/

/-- The partition of the cores that a core or cluster reset names; 0xFF for none. -/
def Device.scopePart (d : Device) (scope target : Nat) : Nat :=
  if scope = 1 then d.corePart target else if scope = 2 then SMap.at' 0xFF d.layout target else target

/-- R422: the reset writes records for the absorbed commands of a partition: not where a reset of a function asked for it (R96). -/
def ResetRun.writes (r : ResetRun) (p : Nat) : Bool := !r.pf && !r.flr.contains p

/-- R421, R425: a target that exists: a core or cluster of a formed partition, or a formed partition. -/
def Device.targetValid (d : Device) (scope target : Nat) : Bool :=
  match scope with
  | 1 => decide (target < 256) && d.formed (d.scopePart 1 target)
  | 2 => decide (target < 32) && d.formed (d.scopePart 2 target)
  | 3 => decide (target < 8) && d.formed target
  | _ => true

/-- R423: a reset's scope lies within that of a running one. -/
def Device.withinRun (d : Device) (scope target : Nat) (r : ResetRun) : Bool :=
  r.scope == 4 || (r.scope == scope && r.target == target) ||
    (r.scope == 3 && decide (scope < 3) && d.scopePart scope target == r.target) || (r.scope == 2 && scope == 1 && target / 8 == r.target)

/-- The partitions that a partition or compute reset affects. -/
def Device.resetParts (d : Device) (scope target : Nat) : List Nat :=
  if scope = 4 then d.formedParts else if scope = 3 then [target] else []

/-- R423: a save or restore ended by a reset of its partition: RESULT 7, and its command ends with STATUS 0x02. -/
def Device.endSwitch (d : Device) (p : Nat) : Device :=
  match (d.part p).switch with
  | none => d
  | some w =>
    (({ d with saving := SMap.set (fun _ => none) d.saving p none }.updPart p fun x => { x with switch := none }).ctxResult p 7).endOrigin w 2

/-- R422 step 1, R423: a reset begins: its partitions are RESETTING; a core or cluster reset fails a save or restore of its
partition. -/
def Device.beginReset (d : Device) (r : ResetRun) : Device :=
  let r := { r with ended := (d.resetParts r.scope r.target).filter fun p => (d.part p).switch.isSome }
  let d := (d.resetParts r.scope r.target).foldl (fun (d : Device) p =>
    (d.endSwitch p).ctxSet p 5) d
  let p := d.scopePart r.scope r.target
  let d := if 3 ≤ r.scope then d
    else if d.ctxState p = 2 then d.saveFails p 4 0x1204 3
    else if d.ctxState p = 4 then d.restoreFails p 8
    else d
  { d with resets := d.resets ++ [r] }

/-- CTX_RESET shows a request. -/
def Device.showReset (d : Device) (byReg busy : Bool) (result : Nat) : Device :=
  if byReg then (d.setFld .ctxReset Fd.ctxResetBusy (ofBool busy)).setFld .ctxReset Fd.ctxResetResult result else d

/-- R96: a register of a partition's block of HIF_. -/
def hifBlock (p : Nat) : Reg → Bool
  | .hifPartCtrl q | .hifPartStatus q | .hifPartWords q | .hifPartWin q | .hifErrBase q | .hifErrCfg q => q == p
  | .hifSqBase q _ | .hifSqCfg q _ | .hifCqBase q _ | .hifCqCfg q _ | .hifSqStatus q _ | .hifCqStatus q _ => q == p
  | _ => false

/-- R76: a function's vectors are masked again, and nothing of it pends. -/
def Device.resetVectors (d : Device) (fn : Nat) : Device :=
  { d with
    unmasked := SMap.keep (fun k => k / 256 != fn) d.unmasked, msixPending := SMap.keep (fun k => k / 256 != fn) d.msixPending }

/-- R96: FLR: the registers of a partition's block return to their reset values, and with them its rings. -/
def Device.flrBlock (d : Device) (p : Nat) : Device :=
  let d := (d.resetWhere (hifBlock p)).resetVectors (p + 1)
  { d with
    sqs := SMap.keep (fun k => k / 64 != p) d.sqs, cqs := SMap.keep (fun k => k / 64 != p) d.cqs
    errs := SMap.keep (fun k => k != p) d.errs }

/-- R96: hot reset, link disable or FLR of the physical function: every HIF_ register returns to its reset value. HIF_LINK shows the
link again once it settles (PCIE_LINK_TRAINED). DESIGN CHOICE (log entry 125): a function stays in D3hot or D0 as it was. -/
def Device.pfBlock (d : Device) : Device :=
  let d := (List.range 8).foldl Device.flrBlock d
  let d := d.resetWhere fun r => match r with
    | .hifLink | .hifPoll | .hifWinBase | .hifModErrBase | .hifModErrCfg => true
    | _ => false
  { d.resetVectors 0 with errs := [], vfs := 0, ptmOn := false, ptm := 0 }

/-- R58, R421, R423: a reset of a scope is requested: ignored and logged before READY, refused for an invalid target, merged into a
running reset that covers it, or begun. byFn: a reset of a function requests it, and the registers of its blocks return to their reset
values (R96), also of a partition that is not formed. The record of an ignored request is open. -/
def Device.requestReset (d : Device) (scope target : Nat) (byReg byFn : Bool) : Device :=
  let flr := if byFn ∧ scope = 3 then [target] else []
  if !d.ready then
    let f := d.freeValue
    (f.2.showReset byReg false 3).logModule (fieldOf f.1 15 0) 0 []
  else if !d.targetValid scope target then
    flr.foldl Device.flrBlock (d.showReset byReg (d.flag .ctxReset Fd.ctxResetBusy) 4)
  else
    let d := d.showReset byReg true 1
    if d.resets.any (d.withinRun scope target) then
      { d with resets := d.resets.map fun r => if d.withinRun scope target r then
          { r with byReg := r.byReg || byReg, pf := r.pf || (byFn && scope == 4), flr := r.flr ++ flr } else r }
    else d.beginReset { scope := scope, target := target, byReg := byReg, pf := byFn && scope == 4, flr := flr }

/-- R421: a device reset requested by CTX_RESET. -/
def Device.requestDevice (d : Device) : Device := if d.ready then d.deviceReset else d.requestReset 5 0 true false

/-! ### What is absorbed (R422) -/

/-- R96, R422: the commands of a partition that have not retired are absorbed: a record with STATUS 0x02 for each where the reset
writes records. Gives how many. -/
def Device.absorbPart (d : Device) (p : Nat) (records : Bool) : Device × Nat :=
  let all := (List.range 64).flatMap fun q => (d.outstanding p q).map fun c => (q, c)
  let d := if records then
      all.foldl (fun (d : Device) e =>
        d.cqPost p (d.fld (.hifSqCfg p e.1) Fd.hifSqCfgCq) { typ := 0, status := 2, queue := e.1, index := e.2.idx, value := 0 }) d
    else d
  (d, all.length)

/-- R91, R96: the rings of a partition after a reset: submission rings DISABLED with STOPPED = 0; records that wait for a disabled
completion ring are discarded. -/
def Device.resetRings (d : Device) (p : Nat) : Device :=
  let d := (List.range 64).foldl (fun (d : Device) q =>
    if d.sqState p q = 0 then d else (d.sqDisable p q).writeStatusWord p q false) d
  (List.range 64).foldl (fun (d : Device) c =>
    if d.flag (.hifCqCfg p c) Fd.hifCqCfgEnable then d else d.setCq p c { d.cq p c with waiting := [] }) d

/-- R422: a command with work on cores under a core or cluster reset is absorbed as a whole: its other target cores stop at their
next block end. -/
def Device.absorbCmd (d : Device) (p q : Nat) (c : Cmd) (hit : Nat → Bool) : Device :=
  let ts := d.targets p c.desc
  let d := (d.dropCmdWaiter p q c).dropReqs p q c.idx
  let d := match c.flow with
    | none => d
    | some f => d.freeFlow (d.homeDie p) f
  let d := ts.foldl (fun (d : Device) k =>
    let d := d.updCore k fun y => { y with parts := y.parts.filter fun x => x.origin != some (q, c.idx) }
    if hit k ∨ (d.core k).job ≠ some (p, q, c.idx) then d
    else if (d.core k).st = .idle then d.updCore k fun y => { y with job := none }
    else d.stopCore k) d
  let d := if c.st = .done then d.updCmd p q c.idx fun x => { x with status := 2 } else d.cmdDone p q { c with parked := none } 2
  (d.advanceQueue p q).countParked p

/-- R422: every command that names a core under a core or cluster reset and has not retired is absorbed. Gives how many. -/
def Device.absorbCores (d : Device) (p : Nat) (hit : Nat → Bool) : Device × Nat :=
  let all := (List.range 64).flatMap fun q =>
    ((d.outstanding p q).filter fun c => takesCores c.desc && (d.targets p c.desc).any hit).map fun c => (q, c)
  (all.foldl (fun (d : Device) e => d.absorbCmd p e.1 e.2 hit) d, all.length)

/-! ### What a compute reset clears beyond its partitions (R53, R138, R230, R272, R295, R324, R375, R406, R425) -/

/-- Registers that a compute reset returns to their values after reset, beside those of its partitions. -/
def computeCleared : Reg → Bool
  | .cmdPmemAddr | .synDbgSel | .synDbgValue | .synDbgState | .synDbgLastSrc | .synDbgLastIndex | .synDbgWaiter
  | .synDbgWaiterValue => true
  | .synDieStatus _ | .smpStatus _ | .smpLastFault _ | .gthStatus _ | .gthRows _ | .gthServed _ | .gthContrib _ | .gthErrors _
  | .gthLastFault _ | .sprStatus _ | .sprGroups _ | .sprLastFault _ | .cisSpilled _ | .cisLastFault _ | .updStatus _
  | .updRows _ | .updLastFault _ => true
  | .gthPartLog _ _ | .gthPartStatus _ _ => true
  | .plcStats | .pwrMeasure | .ctxPartCfg _ => true
  | .cmdPartCtrl _ | .cmdPartStatus _ | .cmdQCfg _ _ | .cmdQStatus _ _ => true
  | .synPartStatus _ | .synFlowCfg _ _ | .synFlowStatus _ _ => true
  | .mxaCfg _ | .mxaStatus _ | .mxaFlags _ | .mxaSatCount _ | .mxaRepeats _ | .mxaLastFault _ => true
  | .vecStatus _ | .vecFlags _ | .vecSatCount _ | .vecPasses _ | .vecLastFault _ => true
  | _ => false

/-- R53: domains that a compute reset shuts down: cores, cluster fabrics, and the engine groups of each die but its schedule engine
and control complex. -/
def computeDomains : List Nat :=
  List.range 256 ++ (List.range 34).map (272 + ·) ++ (List.range 4).flatMap fun die => (List.range 7).map fun k => 366 + 9 * die + k

/-- R53: a domain is shut down by the sequence of R40. -/
def Device.shutDown (d : Device) (n : Nat) : Device :=
  match d.domState n with
  | 1 => d.setFld (.pwrDomStatus n) Fd.pwrDomStatusPendingDisable 1
  | 2 | 3 => d.setDom n 4
  | 4 | 5 | 6 | 7 => d.setFld (.pwrDomStatus n) Fd.pwrDomStatusPendingEnable 0
  | _ => d

/-- R375: READs that wait are answered with STATUS 2. -/
def Device.refuseReads (d : Device) : Device :=
  d.heldReads.foldl (fun (d : Device) k => d.respond k 8 2 (pktAddr k) []) { d with heldReads := [] }

/-- What a compute reset clears of the chip. -/
def Device.clearCompute (d : Device) : Device :=
  let crit := d.fld .pwrEvent Fd.pwrEventThermalCrit
  let d := ((d.resetWhere computeCleared).resetReg .pwrEvent).setFld .pwrEvent Fd.pwrEventThermalCrit crit
  let d := d.setFld .memTlbInval Fd.memTlbInvalBusy 0
  let d := (d.refuseHeld fun _ => true).refuseReads
  let d := (List.range 4).foldl (fun (d : Device) die => d.setLand die []) d
  let d := d.reqs.foldl (fun (d : Device) e =>
    match e.2 with
    | some r => d.dropReq e.1 r
    | none => d) d
  let d : Device := { d with
    directory := [], tlb := [], groupsKept := [], groupsDropped := [], collData := [], outFlows := [], readyLists := [], rr := [], left := []
    waiterEpisode := [], objs := [], flows := [], cores := [], pmemHeld := [] }
  (computeDomains.foldl Device.shutDown d).showGrants

/-! ### The end of a reset (R422) -/

/-- R422 steps 3 and 4: at the end of its window a reset absorbs what has not retired and clears its state. -/
def Device.drainReset (d : Device) (r : ResetRun) : Device × ResetRun :=
  if 3 ≤ r.scope then
    let parts := d.resetParts r.scope r.target
    let a := parts.foldl (fun (a : Device × Nat) p =>
      let b := a.1.absorbPart p (r.writes p)
      (((b.1.resetRings p).clearPartition p r.scope), a.2 + b.2)) (d, 0)
    let d := if r.scope = 4 then a.1.clearCompute else a.1
    let d := r.flr.foldl Device.flrBlock (if r.pf then d.pfBlock else d)
    (d, { r with absorbed := r.absorbed + a.2 })
  else
    let cores := (List.range 256).filter r.covers
    let a := d.absorbCores (d.scopePart r.scope r.target) r.covers
    (cores.foldl Device.resetCore a.1, { r with absorbed := r.absorbed + a.2 })

/-- R422 step 5: a reset is complete: 0x1205, BUSY clears, and its partitions are ACTIVE, unless another reset covers them or a FATAL
event holds them (R433). -/
def Device.finishReset (d : Device) (r : ResetRun) : Device :=
  let d : Device := { d with resets := d.resets.filter fun x => !(x.scope == r.scope && x.target == r.target) }
  let d := (d.resetParts r.scope r.target).foldl (fun (d : Device) p =>
    if d.mgmt.held || d.resets.any (fun x => x.scope == 4 || (x.scope == 3 && x.target == p)) then d
    else d.ctxSet p 1) d
  let d := d.logCtx 0x1205 0 (if r.scope = 4 then 0xFF else d.scopePart r.scope r.target) r.scope 0 0xFFFFFFFF
    (wordOf (r.scope + r.target * 2 ^ 8 + r.absorbed % 2 ^ 32 * 2 ^ 16))
  if r.byReg then d.showReset true (d.resets.any (·.byReg)) 2 else d

/-- The window of a reset ends; a control restart goes on until heartbeats resume (R432). -/
def Device.resetDrained (d : Device) (scope target : Nat) : Device :=
  match d.resets.find? fun r => r.scope == scope && r.target == target with
  | none => d
  | some r =>
    let a := d.drainReset r
    let d : Device := { a.1 with resets := a.1.resets.map fun x => if x = r then a.2 else x }
    if d.mgmt.restarting ∧ scope = 4 then d else d.finishReset a.2

/-! ### The meanings -/

/-- PARTITION_RESET_REQUEST: a write of HIF_PART_CTRL.RESET. -/
def execPartitionResetRequest (p : Nat) (s : State) : Result := early (·.requestReset 3 p false false) s

/-- VF_FLR. -/
def execVfFlr (n : Nat) (s : State) : Result :=
  live (fun d => if 1 ≤ n ∧ n ≤ d.vfs then d.requestReset 3 (n - 1) false true else d) s

/-- PF_RESET: hot reset, link disable or FLR of the physical function. -/
def execPfReset (s : State) : Result := live (fun d => { d.requestReset 4 0 false true with vfs := 0 }) s

/-- CORE_RESET. -/
def execCoreReset (c : Nat) (s : State) : Result := early (·.requestReset 1 c true false) s

/-- CLUSTER_RESET. -/
def execClusterReset (c : Nat) (s : State) : Result := early (·.requestReset 2 c true false) s

/-- PARTITION_RESET. -/
def execPartitionReset (p : Nat) (s : State) : Result := early (·.requestReset 3 p true false) s

/-- COMPUTE_RESET. -/
def execComputeReset (s : State) : Result := early (·.requestReset 4 0 true false) s

/-- DEVICE_RESET. -/
def execDeviceReset (s : State) : Result := early (·.requestDevice) s

/-- RESET_DRAIN_END: the window of a reset of a scope and target ends. -/
def execResetDrainEnd (scope target : Nat) (s : State) : Result := run (·.resetDrained scope target) s

end Sys2Proof.Machine
end

