-- ==== Sys2Proof/Machine/Electrical.lean ====
section
/-! DEFINITION. The rail interface, loss of a rail or reference, and over-temperature (chapter 20; R49, R51), and the write of
PWR_DOM_CTRL (R44). -/

namespace Sys2Proof.Machine

/-- Every switched domain is turned off at once (R454, R457). -/
def Device.domainsOff (d : Device) : Device :=
  ((List.range 403).foldl (fun (d : Device) n =>
    if d.switchedDom n && d.domState n != 8 then
      let d := if n < 256 then (d.setCore n {}).setGrant n 60 else d
      (d.setDom n 0).setRail n 0
    else d) d).showGrants

/-- R454, R455: power or the reference is lost in service: a FATAL record, every switched domain off, and device reset without
bring-up until PERST# is asserted and released. R433's action is not taken. -/
def Device.supplyLost (d : Device) (code : Nat) (detail : Word) : Device :=
  let d := (d.logModule code 6 [detail, 0, 0, 0]).domainsOff
  ({ d with pins := { d.pins with railHold := true } } : Device).deviceReset

/-- R454: reads of rail groups, some of which were not answered: a group that fails three reads in succession is lost. -/
def Device.railReads (d : Device) (answered : Nat → Bool) : Device :=
  let n := fun g => if answered g then 0 else SMap.at' 0 d.power.missed g + 1
  let d := { d with power := { d.power with missed := (List.range 15).foldl (fun m g => SMap.set (fun _ => 0) m g (n g)) d.power.missed } }
  match (List.range 15).find? fun g => decide (3 ≤ SMap.at' 0 d.power.missed g) with
  | none => d
  | some g => d.supplyLost 0x1401 (wordOf g)

/-- R50: READ_POUT of every rail group is kept; the cores of a die whose VIN_D rail reads above 700 W fall by one setting (DESIGN
CHOICE, log entry 93). -/
def Device.railOver (d : Device) (powers : List (Option Nat)) : Device :=
  let d := { d with power := { d.power with pout := (List.range 15).foldl (fun m g =>
    SMap.set (fun _ => 0) m g ((powers.getD g none).getD (SMap.at' 0 m g))) d.power.pout } }
  ((List.range 4).foldl (fun (d : Device) die =>
    if 700 < SMap.at' 0 d.power.pout die then d.mapGrants (dieCores die) fun v => max 60 (v - 1) else d) d).showGrants

/-- R49, R50, R51, R453: READ_POUT of every rail group, W; none where a group does not answer. The sum of what is read is the mean
measured draw. -/
def Device.railMeasure (d : Device) (powers : List (Option Nat)) : Device :=
  let d := (d.railAll 0x96).railReads fun g => (powers.getD g none).isSome
  if d.awake then (d.railOver powers).budgetCheck ((powers.take 15).foldl (fun n w => n + w.getD 0) 0) else d

/-- R453: the other values of every rail group are read. -/
def Device.railPoll (d : Device) (answered : List Bool) : Device :=
  (((d.railAll 0x8B).railAll 0x8C).railAll 0x8D).railReads fun g => answered.getD g false

/-- R454, R459: RAIL_ALERT_N of a stage: STATUS_WORD of every group is read, the emergency drop follows, and CLEAR_FAULTS is written.
status says of each group whether it reports power good, or none where it does not answer. During Snowdrop there is no drop. -/
def Device.railAlert (d : Device) (stage : Nat) (status : List (Option Bool)) : Device :=
  let d := d.railAll 0x79
  let clear := fun (d : Device) => d.emit (.railCommand (0x10 + stage) 0x03 0)
  let good := maskOf ((List.range 15).filter fun g => status.getD g none == some true)
  if d.inStage 1 then
    let d := clear d
    if good = 2 ^ 15 - 1 then d else d.halt 1 0x0111 (wordOf good)
  else
    let d := clear (d.emergencyDrop (d.fld .pwrMeasure Fd.pwrMeasureModuleW) 1)
    match (List.range 15).find? fun g => status.getD g none == some false with
    | some g => d.supplyLost 0x1401 (wordOf g)
    | none => d.railReads fun g => (status.getD g none).isSome

/-- R455: REF25 is lost: 0x0112 during Snowdrop, else as a lost rail. -/
def Device.refLost (d : Device) : Device :=
  if d.inStage 1 then d.halt 1 0x0112 (wordOf (2 ^ 15 - 1))
  else if 2 ≤ d.stage then d.supplyLost 0x1402 0
  else d

/-- R51, R457: TJ_CRIT_C: THERMTRIP_N is driven low, every switched domain goes off, and the module is reset and held. -/
def Device.thermalCrit (d : Device) (die sensor temp : Nat) : Device :=
  if die < 4 ∧ 105 ≤ temp then
    let d := (d.setFld .pwrEvent Fd.pwrEventThermalCrit 1).logModule 0x0304 6 [wordOf die, wordOf sensor, wordOf temp] die
    let d : Device := { d with pins := { d.pins with thermtrip := true, thermHold := true } }
    d.domainsOff.deviceReset
  else d

/-- R457: the analog sensor drives THERMTRIP_N low without firmware. -/
def Device.thermtrip (d : Device) : Device := if d.pins.powered then { d with pins := { d.pins with thermtrip := true } } else d

/-! ### The meanings -/

/-- PWR_DOM_CTRL_WRITE: the value written to PWR_DOM_CTRL of a domain. -/
def execPwrDomCtrlWrite (n : Nat) (w : Word) (s : State) : Result := run (·.policyWrite n (fieldOf w 1 0)) s

/-- RAIL_MEASURE. -/
def execRailMeasure (powers : List (Option Nat)) (s : State) : Result := manageModule (·.railMeasure powers) s

/-- RAIL_SLOW_POLL. -/
def execRailSlowPoll (answered : List Bool) (s : State) : Result := manageModule (·.railPoll answered) s

/-- RAIL_ALERT: firmware of die 0 takes it (R23, R24). -/
def execRailAlert (stage : Nat) (status : List (Option Bool)) (s : State) : Result :=
  live (fun d => if d.stopped 0 then d else d.railAlert stage status) s

/-- THERMAL_CRIT: firmware of die 0 takes it; while that is stopped the analog sensors are left (R24, R457). -/
def execThermalCrit (die sensor temp : Nat) (s : State) : Result := manageModule (·.thermalCrit die sensor temp) s

/-- THERMTRIP_ANALOG. -/
def execThermtripAnalog (s : State) : Result := act (·.thermtrip) s

/-- REF25_LOSS. -/
def execRef25Loss (s : State) : Result := live (·.refLost) s

end Sys2Proof.Machine
end

