-- ==== Sys2Proof/Machine/Reliability.lean ====
section
/-! DEFINITION. Reliability (chapter 19): protection of on-chip memories (R431), control faults (R432), FATAL events (R433), the end of
a storm window (R430) and the settings of the perturbation registers (R434). -/

namespace Sys2Proof.Machine

/-! ### FATAL events (R433) -/

/-- R433: a FATAL event: its record, and RAS_CFG.FATAL_ACTION: a compute reset that holds every partition RESETTING, or a device
reset. -/
def Device.fatal (d : Device) (die : Nat) (detail : Word) (injected : Bool) : Device :=
  let d := d.log moduleRing { code := 0x1305, cls := 6, flags := ofBool injected, die := die, body := [detail] }
  if d.flag .rasCfg Fd.rasCfgFatalAction then
    { d.setFld .rasStatus Fd.rasStatusFatal 1 with mgmt := { d.mgmt with held := true } }.requestReset 4 0 false false
  else d.deviceReset

/-! ### SRAM words (R431) -/

/-- A number for the unit whose array a word lies in. -/
def sramUnit : SramPlace → Nat
  | .core c => c
  | .engine die unit _ _ _ => 0x1000000 + die * 2 ^ 16 + unit
  | .pump p n => 0x2000000 + p * 4096 + n
  | .directory slice _ _ => 0x3000000 + slice
  | .translation die _ => 0x4000000 + die
  | .table p die => 0x5000000 + p * 4 + die
  | .other die => 0x6000000 + die

/-- The partition whose work meets a word (R434). -/
def Device.sramPart (d : Device) : SramPlace → Option Nat
  | .core c => if d.corePart c < 8 then some (d.corePart c) else none
  | .engine _ _ p _ _ | .pump p _ | .table p _ => if p < 8 then some p else none
  | _ => none

/-- The die of a word. -/
def Device.sramDie (d : Device) : SramPlace → Nat
  | .core c => c / 64
  | .engine die _ _ _ _ => die
  | .pump p n => (d.stream p n).core / 64
  | .directory slice _ _ => slice % 4
  | .translation die _ | .table _ die | .other die => die

/-- A record of R431, on the ring of the partition it belongs to. -/
def Device.logSram (d : Device) (x : SramRead) (code cls : Nat) (body : List Word) (injected : Bool) : Device :=
  let p := d.sramPart x.place
  d.log (p.getD moduleRing)
    { code := code, cls := cls, flags := ofBool injected, part := p.getD 0xFF, die := d.sramDie x.place, body := body }

/-- R431: a corrected word is counted, and logged once per unit per second. -/
def Device.sramCorrected (d : Device) (x : SramRead) (injected : Bool) : Device :=
  let d := d.bump .rasSram Fd.rasSramCorrected
  let recent := match SMap.at' none d.mgmt.corrected (sramUnit x.place) with
    | none => false
    | some t => decide ((d.now - t).toNat < 1000000000)
  if recent then d
  else { d with mgmt := { d.mgmt with corrected := SMap.set (fun _ => none) d.mgmt.corrected (sramUnit x.place) (some d.now) } }.logSram
    x 0x1301 1 [wordOf x.cls] injected

/-- R431: an uncorrectable word, by where it lies. -/
def Device.sramLost (d : Device) (x : SramRead) (injected : Bool) : Device :=
  let d := d.bump .rasSram Fd.rasSramUncorrectable
  match x.place with
  | .core c =>
    if c < 256 then
      (d.logSram x 0x1302 3 [wordOf (c + x.cls % 256 * 2 ^ 8)] injected).coreStop c .faulted .faulted
    else d
  | .engine _ _ p q idx =>
    let d := d.logSram x 0x1303 2 [wordOf x.cls, 0] injected
    if (d.cmd? p q idx).any fun c => c.st == .running && !c.worked then (d.dropReqs p q idx).workEnds p q idx 4 else d
  | .pump p n =>
    let d := d.logSram x 0x1303 2 [wordOf x.cls, 0] injected
    let d := d.setStream p n { d.stream p n with broken := true }
    (List.range 64).foldl (fun (d : Device) q => ((d.queue p q).filter fun c =>
      opcodeOf c.desc ∈ [0x30, 0x31] && fieldOf c.desc.q4 11 0 == n && c.st == .running && !c.worked).foldl (fun (d : Device) c =>
        d.workEnds p q c.idx 4) d) d
  | .directory slice set way =>
    ({ d with directory := SMap.upd [] d.directory (4096 * slice + set) (·.eraseIdx way) } : Device).logSram x 0x1301 1
      [wordOf x.cls] injected
  | .translation die pos =>
    ({ d with tlb := SMap.upd [] d.tlb die (·.eraseIdx pos) } : Device).logSram x 0x1301 1 [wordOf x.cls] injected
  | .table p _ => (d.logSram x 0x1303 4 [wordOf x.cls, 1] injected).requestReset 3 p false false
  | .other die => d.fatal die (wordOf x.cls) injected

/-- R431, R436: one read of an SRAM word: what it finds, or what an injector of kind 2 or 3 makes of it. -/
def Device.sramRead (d : Device) (x : SramRead) : Device :=
  let p := d.sramPart x.place
  let (d, one) := d.inject 2 (some x.cls) p
  let (d, two) := d.inject 3 (some x.cls) p
  if 2 ≤ x.bits ∨ two.isSome then d.sramLost x (decide (x.bits < 2))
  else if x.bits = 1 ∨ one.isSome then d.sramCorrected x (x.bits == 0)
  else d

/-! ### Control faults (R432) -/

/-- R432: the heartbeat of a die's control complex is missing: 0x1304 and CTRL_FAULT; within 10 s of a control restart it is FATAL. -/
def Device.controlFault (d : Device) (die core : Nat) (injected : Bool := false) : Device :=
  if die < 4 ∧ bitOf (d.fld .rasStatus Fd.rasStatusCtrlFault) die = false then
    let d := d.setFld .rasStatus Fd.rasStatusCtrlFault (putBit (d.fld .rasStatus Fd.rasStatusCtrlFault) die true)
    let d := d.log moduleRing
      { code := 0x1304, cls := 5, flags := ofBool injected, die := die, body := [wordOf (core % 4)] }
    let again := match d.mgmt.restarted with
      | none => false
      | some t => decide ((d.now - t).toNat < 10000000000)
    if again then d.fatal die 0x1304 injected else d
  else d

/-- R432, R436: the heartbeat of each running control complex is due once every 1 ms, the time within which its absence is a control fault
(DESIGN CHOICE, log entry 147): one that an injector of kind 7 suppresses is such a fault. -/
def Device.complexBeats (d : Device) : Device :=
  (List.range 4).foldl (fun (d : Device) die =>
    if d.stopped die then d
    else
      match d.inject 7 (some die) none with
      | (d, none) => d
      | (d, some _) =>
        let f := d.freeValue
        f.2.controlFault die f.1.toNat true) d

/-- R432: a control restart begins: a compute reset during which the control cores restart. -/
def Device.controlRestart (d : Device) : Device :=
  if d.fld .rasStatus Fd.rasStatusCtrlFault ≠ 0 ∧ d.mgmt.restarting = false then
    { d with mgmt := { d.mgmt with restarting := true } }.requestReset 4 0 false false
  else d

/-- R432, R445: heartbeats resume: the restart is complete and CTRL_FAULT clears. -/
def Device.controlRestarted (d : Device) : Device :=
  if d.mgmt.restarting then
    let d : Device := { d with mgmt := { d.mgmt with restarting := false, restarted := some d.now } }
    (d.resetDrained 4 0).setFld .rasStatus Fd.rasStatusCtrlFault 0
  else d

/-! ### Perturbation settings (R434) -/

/-- PERTURB is unlocked. -/
def Device.perturbs (d : Device) : Bool := bitOf (d.fld .tstStatus Fd.tstStatusUnlocked) 0

/-- The RW fields of a register as a value leaves them. -/
def writtenRw (r : Reg) (old w : Word) : Word :=
  r.fields.foldl (fun (a : Word) f => if f.acc = .rw then withField a f.hi f.lo (fieldOf w f.hi f.lo) else a) old

/-- R434: a write to a perturbation register, once PERTURB is unlocked; an injector starts its counts anew. -/
def Device.tstWrite (d : Device) (r : Reg) (w : Word) : Device :=
  let v := writtenRw r (d.reg r) w
  if d.perturbs ∧ tstRegs.contains r ∧ v ≠ d.reg r then
    let d := d.setReg r v
    let d : Device := match r with
      | .tstInject k => { d with injectors := SMap.set (fun _ => {}) d.injectors k {} }
      | _ => d
    d.logTst
  else d

/-- R434: RELOCK: every capability is cleared and every TST_ register returns to its reset value. -/
def Device.relock (d : Device) : Device :=
  let set := d.tstSet
  let d := ({ d.resetRegs tstRegs with injectors := [] } : Device).resetReg .tstStatus
  if set then d.logTst else d

/-! ### The meanings -/

/-- SRAM_SCRUB: what the scrub and the reads of the other arrays found, word by word. -/
def execSramScrub (reads : List SramRead) (s : State) : Result := run (fun d => reads.foldl Device.sramRead d) s

/-- CONTROL_FAULT: a core of a die's complex. -/
def execControlFault (die core : Nat) (s : State) : Result := run (·.controlFault die core) s

/-- CONTROL_RESTART. -/
def execControlRestart (s : State) : Result := run (·.controlRestart) s

/-- CONTROL_RESTART_COMPLETE. -/
def execControlRestartComplete (s : State) : Result := run (·.controlRestarted) s

/-- STORM_WINDOW_END: the window of a code on a ring, 8 for the module's. -/
def execStormWindowEnd (ring code : Nat) (s : State) : Result :=
  live (fun d => if ring ≤ moduleRing then d.stormEnd ring code else d) s

/-- TST_SETTINGS_WRITE: a write of a TST_ register, by its offset. -/
def execTstSettingsWrite (off : Nat) (w : Word) (s : State) : Result :=
  run (fun d => match Reg.ofOffset off with
    | some r => d.tstWrite r w
    | none => d) s

/-- RELOCK: a write of SEC_CTRL.RELOCK. -/
def execRelock (s : State) : Result := serving (·.relock) s

end Sys2Proof.Machine
end

