-- ==== Sys2Proof/Machine/Management.lean ====
section
/-! DEFINITION. Debug unlock (R440), attestation (R439) and management (R441 to R444). What an answer says is given as the spec lists
it; the layout of SPDM and PLDM messages is the named standards'. -/

namespace Sys2Proof.Machine

/-! ### Debug unlock (R440) -/

/-- R440: the token in the SEC_TOKEN window: quadword q carries bytes 8q to 8q + 7. -/
def Device.tokenWindow (d : Device) : List Byte := (List.range 25).flatMap fun q => leBytes 8 (d.reg (.secToken q)).toNat

/-- SEC_NONCE as its 32 bytes. -/
def Device.nonce (d : Device) : List Byte := (List.range 4).flatMap fun q => leBytes 8 (d.reg (.secNonce q)).toNat

/-- R440: RESULT of a submission. -/
def Device.tokenResult (d : Device) (t : List Byte) (sigOk : Bool) : Nat :=
  let soon := match d.mgmt.token with
    | none => false
    | some at' => decide ((d.now - at').toNat < 100000000)
  if soon then 4
  else if !sigOk then 2
  else if (t.drop 8).take 16 == leBytes 16 d.flash.idSerial && (t.drop 24).take 32 == d.nonce then 1
  else 3

/-- R440: an accepted token: its capabilities join the unlocked set; its PART_MASK is in force. Where another mask is in force
already, the spec does not say what the two give. -/
def Device.unlock (d : Device) (t : List Byte) : Device :=
  let caps := (t.getD 56 0).toNat % 8
  let mask := (t.getD 57 0).toNat
  let d := d.setFld .tstStatus Fd.tstStatusUnlocked (d.fld .tstStatus Fd.tstStatusUnlocked ||| caps)
  if d.fld .tstStatus Fd.tstStatusPartMask = 0 then d.setFld .tstStatus Fd.tstStatusPartMask mask
  else
    let (w, d) := d.freeValue
    d.setFld .tstStatus Fd.tstStatusPartMask (fieldOf w 7 0)

/-- R440: a token is submitted: RESULT, a new nonce and 0x1307, whatever comes of it. -/
def Device.tokenSubmit (d : Device) (t : List Byte) (sigOk : Bool) : Device :=
  let r := d.tokenResult t sigOk
  let d := if r = 1 then d.unlock t else d
  let d := ({ d with mgmt := { d.mgmt with token := some d.now } } : Device).newNonce
  (d.setFld .secStatus Fd.secStatusResult r).logModule 0x1307 0 [wordOf r]

/-! ### Answers -/

/-- R441: the payload of a message, cut into packets of the MCTP transmission unit. -/
def Mgmt.packets (m : Mgmt) (data : List Byte) : List (List Byte) := chunksOf m.unit ((data.length + m.unit - 1) / m.unit) data

/-- R441: an answer to a management request in an MCTP message of a type: 0 done, 1 an error. -/
def Device.answer (d : Device) (typ : Nat) (name : String) (code : Nat) (data : List Byte) : Device :=
  d.emit (.mgmtReply typ name code (d.mgmt.packets data))

/-- R441: an SPDM answer, of message type 5. -/
def Device.spdmAnswer (d : Device) (name : String) (code : Nat) (data : List Byte) : Device := d.answer 5 name code data

/-- R441: a PLDM answer, of message type 1. -/
def Device.pldmAnswer (d : Device) (name : String) (code : Nat) (data : List Byte) : Device := d.answer 1 name code data

/-- R441: an answer on the debug path, vendor-defined PCI, of message type 0x7E. -/
def Device.debugAnswer (d : Device) (name : String) (code : Nat) (data : List Byte) : Device := d.answer 0x7E name code data

/-! ### SPDM (R439) -/

/-- R439: the responder's connection has come to a state: 1 version, 2 capabilities, 3 algorithms. -/
def Device.spdmAt (d : Device) (n : Nat) : Device := { d with mgmt := { d.mgmt with spdm := n } }

/-- R439: versions 1.3 and 1.2; the connection starts anew. -/
def Device.getVersion (d : Device) : Device := (d.spdmAt 1).spdmAnswer "GET_VERSION" 0 [0x13, 0x12]

/-- R439: the capabilities follow the version. -/
def Device.getCapabilities (d : Device) : Device :=
  if d.mgmt.spdm = 1 then (d.spdmAt 2).spdmAnswer "GET_CAPABILITIES" 0 [] else d.spdmAnswer "GET_CAPABILITIES" 1 []

/-- R439: ECDSA P-521 and SHA-512 only; offered: the request offers them. -/
def Device.negotiate (d : Device) (offered : Bool) : Device :=
  if d.mgmt.spdm = 2 ∧ offered then (d.spdmAt 3).spdmAnswer "NEGOTIATE_ALGORITHMS" 0 [] else d.spdmAnswer "NEGOTIATE_ALGORITHMS" 1 []

/-- R437, R439: the certificate chain of slot 0, from the Rehal root to the alias certificate, as SPDM frames it: its length, the hash of its
root and the certificates (PRESUMED, log entry 148: the framing is that of DSP0274). -/
def Device.certChain (d : Device) : List Byte :=
  let certs := d.flash.certs.flatten ++ d.mgmt.aliasCert
  leBytes 2 (68 + certs.length) ++ [0, 0] ++ sha512 (d.flash.certs.headD []) ++ certs

/-- R439: an answer of the negotiated connection, for slot 0 where the request names one. -/
def Device.attest (d : Device) (name : String) (slot : Nat) (data : List Byte) : Device :=
  if d.mgmt.spdm = 3 ∧ slot = 0 then d.spdmAnswer name 0 data else d.spdmAnswer name 1 []

/-- R438, R439: an answer of the negotiated connection with a nonce of the generator, signed by the alias key. -/
def Device.attestSigned (d : Device) (name : String) (slot : Nat) (data : List Byte) : Device :=
  match d.mgmt.aliasKey with
  | none => d.spdmAnswer name 1 []
  | some key =>
    if d.mgmt.spdm = 3 ∧ slot = 0 then
      let data := data ++ openBytes d.free 0 32
      { d with free := d.free + 1 }.spdmAnswer name 0 (data ++ (leBytes 132 (Config.signature key data d.free).toNat))
    else d.spdmAnswer name 1 []

/-- R439: GET_DIGESTS: SHA-512 of the chain of slot 0. -/
def Device.digests (d : Device) : Device := d.attest "GET_DIGESTS" 0 (sha512 d.certChain)

/-- R439: GET_CERTIFICATE: n bytes of the chain of a slot from an offset. -/
def Device.certificate (d : Device) (slot off n : Nat) : Device := d.attest "GET_CERTIFICATE" slot ((d.certChain.drop off).take n)

/-- R439: the answer to CHALLENGE. -/
def Device.challenge (d : Device) (slot : Nat) : Device :=
  let d' := d.attestSigned "CHALLENGE" slot (sha512 d.certChain)
  if d.mgmt.spdm = 3 ∧ slot = 0 ∧ d.mgmt.aliasKey.isSome = true then d'.setFld .mgtStatus Fd.mgtStatusSpdmDone 1 else d'

/-- R439: measurements 1 to 7: digests of the boot ROM, the running image, the defect map record, the field repair record and the board
record this start read; the unlocked capabilities and PART_MASK; the enabled level and the image's source. -/
def Device.measured (d : Device) : List Byte :=
  sha512 (Config.bootRom ()) ++ leBytes 64 ((d.boot.running.map Image.digest).getD 0).toNat ++ sha512 d.flash.map ++ sha512 d.flash.field ++
  sha512 d.boot.board ++
  leBytes 1 (d.fld .tstStatus Fd.tstStatusUnlocked) ++ leBytes 1 (d.fld .tstStatus Fd.tstStatusPartMask) ++ List.replicate 6 0 ++
  leBytes 8 (d.fld .plcFeature Fd.plcFeatureEnabled + d.fld .bootImage Fd.bootImageSource * 2 ^ 16)

/-! ### The management bus (R441, R442) -/

/-- R441: ENTDAA, or SETDASA from a static address, gives the I3C dynamic address; the module's static address is 0x3A. -/
def Device.i3cAddress (d : Device) (static : Option Nat) (addr : Nat) : Device :=
  if static.all (· == 0x3A) then d.setFld .mgtStatus Fd.mgtStatusI3cAddr addr else d

/-- R441: the bus owner sets the endpoint ID; the transmission unit, which no command of its own sets, comes with it and is kept to 64 to
256 bytes (DESIGN CHOICE, log entry 149). -/
def Device.endpoint (d : Device) (eid unit : Nat) : Device :=
  { d with mgmt := { d.mgmt with unit := clampTo 64 256 unit } }.setFld .mgtStatus Fd.mgtStatusEid eid

/-- R441: part number, serial number and stepping. -/
def Device.fru (d : Device) : List Byte :=
  [0x57, 0x59, 0x2D, 0x31] ++ leBytes 16 d.flash.idSerial ++ [0x41, 0x31]

/-- R442: what sensor n shows; reading is a junction sensor's. -/
def Device.sensorValue (d : Device) (n reading : Nat) : Nat :=
  let ports := fun st => ((List.range 28).filter fun k => d.portState k == st).length
  match n with
  | 1 => d.fld .pwrMeasure Fd.pwrMeasureModuleW
  | 6 => d.fld .pwrBudget Fd.pwrBudgetModuleW
  | 7 => ports 4
  | 8 => ports 6
  | 9 => d.fld .rasSram Fd.rasSramCorrected - d.mgmt.lastSram
  | 10 => d.fld .memCksumStats Fd.memCksumStatsRefetchOk - d.mgmt.lastReads
  | 11 => d.fld .timStatus Fd.timStatusState
  | 12 => d.fld .bootStatus Fd.bootStatusState
  | _ => reading

/-- R442: sensor n is refreshed. -/
def Device.sensorRefresh (d : Device) (n reading : Nat) : Device :=
  if 1 ≤ n ∧ n ≤ 12 then
    let m := { d.mgmt with sensors := SMap.set (fun _ => 0) d.mgmt.sensors n (d.sensorValue n reading) }
    let m := if n = 9 then { m with lastSram := d.fld .rasSram Fd.rasSramCorrected } else m
    let m := if n = 10 then { m with lastReads := d.fld .memCksumStats Fd.memCksumStatsRefetchOk } else m
    let d := { d with mgmt := m }
    if 2 ≤ n ∧ n ≤ 5 then d.junction (n - 2) reading else d
  else d

/-- R442: a record of the PDR repository: a sensor, what it measures, how often it is refreshed, ms, and its thresholds of warning and
critical. -/
structure SensorPdr where
  sensor : Nat
  quantity : String
  refresh : Nat
  warning : Option Nat := none
  critical : Option Nat := none
  deriving DecidableEq, Repr

/-- R441, R442: the PDR repository. -/
def Device.pdrs (d : Device) : List SensorPdr :=
  let crit := d.fld .pwrThermal Fd.pwrThermalTjCritC
  let hot := fun (n : Nat) =>
    ({ sensor := n, quantity := "junction, degrees C", refresh := 100, warning := some d.tjLimit, critical := some crit } : SensorPdr)
  [{ sensor := 1, quantity := "module draw, W", refresh := 100 }, hot 2, hot 3, hot 4, hot 5,
   { sensor := 6, quantity := "module budget, W", refresh := 1000 }, { sensor := 7, quantity := "ports READY", refresh := 1000 },
   { sensor := 8, quantity := "ports FAILED", refresh := 1000 },
   { sensor := 9, quantity := "corrected memory words in the last second", refresh := 1000 },
   { sensor := 10, quantity := "checksum re-reads in the last second", refresh := 1000 },
   { sensor := 11, quantity := "counter state", refresh := 1000 }, { sensor := 12, quantity := "bring-up state", refresh := 1000 }]

/-- R442: the state of a sensor at a reading: 1 normal, 2 warning, 3 critical (the codes are PRESUMED, log entry 150). -/
def SensorPdr.state (x : SensorPdr) (v : Nat) : Nat :=
  if x.critical.any fun c => decide (c ≤ v) then 3 else if x.warning.any fun c => decide (c ≤ v) then 2 else 1

/-- R442: GetSensorReading: the state and the reading of a sensor that the repository names. -/
def Device.sensorReading (d : Device) (n : Nat) : Device :=
  let v := SMap.at' 0 d.mgmt.sensors n
  match d.pdrs.find? fun x => x.sensor == n with
  | some x => d.pldmAnswer "GET_SENSOR_READING" 0 (leBytes 1 (x.state v) ++ leBytes 4 v)
  | none => d.pldmAnswer "GET_SENSOR_READING" 1 []

/-- R441: PollForPlatformEventMessage gives the oldest record the board has not polled, or none. -/
def Device.pollEvent (d : Device) : Device :=
  match d.events with
  | [] => d.pldmAnswer "POLL_FOR_PLATFORM_EVENT" 0 []
  | r :: rest => { d with events := rest }.pldmAnswer "POLL_FOR_PLATFORM_EVENT" 0 r.bytes

/-! ### Firmware update (R443, R444) -/

/-- R443: the update in progress set; UPDATE_BUSY shows it. -/
def Device.setUpdate (d : Device) (u : Option UpdateRun) : Device :=
  { d with mgmt := { d.mgmt with update := u } }.setFld .mgtStatus Fd.mgtStatusUpdateBusy (ofBool u.isSome)

/-- R443: RequestUpdate for a component: refused without a staging list. -/
def Device.requestUpdate (d : Device) (component : Nat) : Device :=
  let entries := d.fld .mgtStageList Fd.mgtStageListEntries
  if entries = 0 ∨ 1024 < entries then d.pldmAnswer "REQUEST_UPDATE: UNABLE_TO_INITIATE_UPDATE" 1 []
  else if d.mgmt.update.isSome ∨ component = 0 ∨ 2 < component then d.pldmAnswer "REQUEST_UPDATE" 1 []
  else (d.setUpdate (some { component := component })).pldmAnswer "REQUEST_UPDATE" 0 []

/-- R62, R443: bytes from an offset of the staged data written into the staging pages, page by page. -/
def Device.stageBytes : Nat → Nat → List Byte → Device → Device
  | 0, _, _, d => d
  | fuel + 1, off, bs, d =>
    if bs = [] then d
    else
      let n := 65536 - off % 65536
      let list := d.fld .mgtStageList Fd.mgtStageListAddr * 65536
      let page := (d.hostWord (list + 8 * (off / 65536))).toNat / 65536 * 65536
      Device.stageBytes fuel (off + n) (bs.drop n) (d.hostWrite (page + off % 65536) (bs.take n))

/-- R443: a part of the transferred component arrives. -/
def Device.transfer (d : Device) (off : Nat) (bs : List Byte) : Device :=
  let room := d.fld .mgtStageList Fd.mgtStageListEntries * 65536
  match d.mgmt.update with
  | none => d.pldmAnswer "FIRMWARE_IMAGE_TRANSFER" 1 []
  | some u =>
    if u.verified = true ∨ room < off + bs.length ∨ (u.component = 2 ∧ 56 < off + bs.length) then d.pldmAnswer "FIRMWARE_IMAGE_TRANSFER" 1 []
    else
      let d := Device.stageBytes (bs.length / 65536 + 2) off bs d
      let board := (u.board ++ List.replicate (off + bs.length - u.board.length) 0)
      let board := board.take off ++ bs ++ board.drop (off + bs.length)
      (d.setUpdate (some { u with
        length := max u.length (off + bs.length), board := if u.component = 2 then board else [] })).pldmAnswer "FIRMWARE_IMAGE_TRANSFER" 0 []

/-- R443, R444: the checks before VerifyComplete is answered: those of R61 for an image, the layout for a board record. A component
that fails them is refused, and its update ends. -/
def Device.verify (d : Device) (image : Image) : Device :=
  match d.mgmt.update with
  | none => d.pldmAnswer "VERIFY_COMPLETE" 1 []
  | some u =>
    let ok := if u.component = 1 then pushResult false image == 2 else boardOk u.board
    if u.verified then d.pldmAnswer "VERIFY_COMPLETE" 1 []
    else if !ok then (d.setUpdate none).pldmAnswer "VERIFY_COMPLETE" 1 []
    else
      let d := if u.component = 1 then
          (d.setFld .mgtStageCtrl Fd.mgtStageCtrlLength u.length).setFld .mgtStageCtrl Fd.mgtStageCtrlValid 1
        else d
      (d.setUpdate (some { u with verified := true })).pldmAnswer "VERIFY_COMPLETE" 0 []

/-- R444: a verified board configuration record is written to flash: 0x1308 with its version. -/
def Device.applyUpdate (d : Device) : Device :=
  match d.mgmt.update with
  | none => d.pldmAnswer "APPLY_COMPLETE" 1 []
  | some u =>
    if u.verified = false ∨ u.applied = true then d.pldmAnswer "APPLY_COMPLETE" 1 []
    else
      let d := d.setUpdate (some { u with applied := true })
      let d := if u.component = 2 then
          ({ d with flash := { d.flash with board := u.board } } : Device).logModule 0x1308 0 [wordOf (ofLeBytes ((u.board.drop 6).take 2))]
        else d
      d.pldmAnswer "APPLY_COMPLETE" 0 []

/-- R443: ActivateFirmware reports activation at the next device reset, and the update ends. -/
def Device.activate (d : Device) : Device :=
  if d.mgmt.update.any (·.applied) then (d.setUpdate none).pldmAnswer "ACTIVATE_FIRMWARE" 0 [] else d.pldmAnswer "ACTIVATE_FIRMWARE" 1 []

/-! ### The meanings -/

/-- TOKEN_SUBMIT: whether the token's signature verifies; the token, where it comes by the debug path and not by SEC_TOKEN. -/
def execTokenSubmit (sigOk : Bool) (byDebug : Option (List Byte)) (s : State) : Result :=
  serving (fun d => d.tokenSubmit (byDebug.getD d.tokenWindow) sigOk) s

/-- GET_VERSION. -/
def execGetVersion (s : State) : Result := serving (·.getVersion) s

/-- GET_CAPABILITIES. -/
def execGetCapabilities (s : State) : Result := serving (·.getCapabilities) s

/-- NEGOTIATE_ALGORITHMS: whether the request offers ECDSA P-521 and SHA-512. -/
def execNegotiateAlgorithms (offered : Bool) (s : State) : Result := serving (·.negotiate offered) s

/-- GET_DIGESTS. -/
def execGetDigests (s : State) : Result := serving (·.digests) s

/-- GET_CERTIFICATE: a slot, and which bytes of its chain are asked for. -/
def execGetCertificate (slot : Nat) (part : ChainPart) (s : State) : Result := serving (·.certificate slot part.off (part.len % 65536)) s

/-- CHALLENGE, of a slot. -/
def execChallenge (slot : Nat) (s : State) : Result := serving (·.challenge slot) s

/-- GET_MEASUREMENTS: measurements 1 to 7 and the signature. -/
def execGetMeasurements (slot : Nat) (s : State) : Result :=
  serving (fun d => d.attestSigned "GET_MEASUREMENTS" slot d.measured) s

/-- I3C_DYNAMIC_ADDRESS: by SETDASA from a static address, or by ENTDAA. -/
def execI3cDynamicAddress (static : Option Nat) (addr : Nat) (s : State) : Result := serving (·.i3cAddress static addr) s

/-- MCTP_SET_ENDPOINT_ID: the endpoint ID, and the transmission unit that the bus owner uses. -/
def execMctpSetEndpointId (ids : EndpointIds) (s : State) : Result := serving (·.endpoint ids.eid ids.unit) s

/-- PLDM_DISCOVERY: a PLDM type 0 command; the types supported are 0, 2, 4 and 5 of the standards R441 lists. -/
def execPldmDiscovery (s : State) : Result := serving (·.pldmAnswer "PLDM_DISCOVERY" 0 [0, 2, 4, 5]) s

/-- PLDM_GET_FRU. -/
def execPldmGetFru (s : State) : Result := serving (fun d => d.pldmAnswer "PLDM_GET_FRU" 0 d.fru) s

/-- GET_SENSOR_READING. -/
def execGetSensorReading (n : Nat) (s : State) : Result := serving (·.sensorReading n) s

/-- POLL_FOR_PLATFORM_EVENT. -/
def execPollForPlatformEvent (s : State) : Result := serving (·.pollEvent) s

/-- SENSOR_REFRESH: a sensor, and what a junction sensor measures. -/
def execSensorRefresh (n reading : Nat) (s : State) : Result := serving (·.sensorRefresh n reading) s

/-- REQUEST_UPDATE, of component 1 or 2. -/
def execRequestUpdate (component : Nat) (s : State) : Result := serving (·.requestUpdate component) s

/-- FIRMWARE_IMAGE_TRANSFER: bytes from an offset. -/
def execFirmwareImageTransfer (off : Nat) (bytes : List Byte) (s : State) : Result := serving (·.transfer off bytes) s

/-- VERIFY_COMPLETE: what the checks of R61 find of the staged image. -/
def execVerifyComplete (image : Image) (s : State) : Result := serving (·.verify image) s

/-- APPLY_COMPLETE. -/
def execApplyComplete (s : State) : Result := serving (·.applyUpdate) s

/-- ACTIVATE_FIRMWARE. -/
def execActivateFirmware (s : State) : Result := serving (·.activate) s

end Sys2Proof.Machine
end

