-- ==== Sys2Proof/Machine/RegAccess.lean ====
section
/-! DEFINITION. BAR0: which register a function reaches (R58, R78, R79 and each chapter's register rule), what it reads and what a write
does (R8, R9), and the rows that write single registers. -/

namespace Sys2Proof.Machine

/-! ### Which register answers (R18, R58, R78, R79) -/

/-- R58: the blocks GLB_, BOOT_, SEC_ and MGT_ by their offsets. -/
def earlyBlock (off : Nat) : Bool := decide (off < 0x200000) || (decide (0x2800000 ≤ off) && decide (off < 0x2C00000))

/-- R19, R54, R75, R97, R116, R139, R186, R210, R231, R250, R273, R296, R326, R346, R377, R407, R425, R446: the register that
answers a virtual function of partition p, if it does. -/
def Device.vfReg (d : Device) (p : Nat) (r : Reg) : Option Reg :=
  let own := fun (q : Nat) => if q = p then some r else none
  let mine := fun (c : Nat) => if d.corePart c = p then some r else none
  match r with
  | .glbId | .glbSerialLo | .glbSerialHi | .glbCap | .glbChip => some r
  | .hifPartCtrl q | .hifPartStatus q | .hifPartWords q | .hifPartWin q | .hifErrBase q | .hifErrCfg q => own q
  | .hifSqBase q _ | .hifSqCfg q _ | .hifCqBase q _ | .hifCqCfg q _ | .hifSqStatus q _ | .hifCqStatus q _ => own q
  | .cmdPartCtrl q | .cmdPartStatus q | .cmdQCfg q _ | .cmdQStatus q _ => own q
  | .cmdCoreStatus c => mine c
  | .synPartStatus q | .synFlowCfg q _ | .synFlowStatus q _ => own q
  | .synObjCfg n => (d.syncOf p n).map Reg.synObjCfg
  | .mxaStatus c | .mxaFlags c | .mxaSatCount c | .mxaRepeats c | .mxaCtrl c | .mxaLastFault c | .mxaSlotState c _ => mine c
  | .vecStatus c | .vecFlags c | .vecSatCount c | .vecPasses c | .vecCtrl c | .vecLastFault c | .vecChainTable c => mine c
  | .memPartPtBase q | .memPartFaultCfg q | .memPartStatus q => own q
  | .memTlbInval | .memFaultResume => some r
  | .smpCap _ | .gthCap _ | .sprCap _ | .cisCap _ | .updCap _ | .lnkCap | .lnkIdent | .plcCap | .plcFeature | .timCounter | .timStatus =>
    some r
  | .plcFeatureTab _ => some r
  | .smpPartStatus _ q | .gthPartLog _ q | .gthPartStatus _ q | .sprLayerState q _ | .sprLayerCount q _ => own q
  | .cisPartCfg _ q | .cisPartUse _ q | .cisPartTop q | .cisPartWindow q | .cisPartStep q | .cisPartSat q => own q
  | .updBind q _ | .updFactor q _ | .lnkGroup q _ | .ctxPartStatus q => own q
  | _ => none

/-- The register that a function (0 physical) reaches at an offset of BAR0. -/
def Device.regAt (d : Device) (fn off : Nat) : Option Reg :=
  if !d.answers || !(d.ready || earlyBlock off) then none
  else
    match Reg.ofOffset off with
    | none => none
    | some r => if fn = 0 then some r else if fn ≤ d.vfs ∧ fn ≤ 8 then d.vfReg (fn - 1) r else none

/-! ### Reads -/

/-- R115: the STATE of a sequencer. -/
def seqCode : SeqState → Nat
  | .idle => 0
  | .running => 1
  | .waiting => 2
  | .stopping => 3
  | .faulted => 4

/-- R116: CMD_CORE_STATUS of a core. -/
def coreStatus (k : Core) : Nat :=
  k.loops.length * 2 ^ 32 + ofBool k.lapsed.isSome * 2 ^ 28 + ofBool k.lease.isSome * 2 ^ 27 + k.lease.getD 0 % 16 * 2 ^ 23 +
  seqCode k.st * 2 ^ 20 + k.pc % 8192

/-- R169, R186: the code of a slot's state. -/
def slotCode : SlotMode → Nat
  | .empty => 0
  | .float => 1
  | .integer => 2
  | .shadow => 3

/-- Commands of an opcode that run and use a die. -/
def Device.runningOn (d : Device) (die op : Nat) : Nat :=
  ((List.range 8).map fun p => ((List.range 64).map fun q =>
    ((d.queue p q).filter fun c => c.st == .running && opcodeOf c.desc == op && (d.engineNeeds p c.desc).any (·.1 == die)).length).foldl
      (· + ·) 0).foldl (· + ·) 0

/-- R429: quadword q of history record i. -/
def Device.histWord (d : Device) (i q : Nat) : Word :=
  match d.hist[i]? with
  | none => 0
  | some h => wordOf (ofLeBytes ((h.record.bytes.drop (8 * q)).take 8))

/-- R139: SYN_DIE_STATUS of a die. -/
def Device.dieStatus (d : Device) (die : Nat) : Word :=
  let waiters := ((d.objs.filter fun e => objDie e.1 == die).map fun e => (e.2.waiters.filter fun w => !w.polling).length).foldl (· + ·) 0
  wordOf ((d.heldSignals.filter fun h => h.die == die).length * 2 ^ 48 + waiters * 2 ^ 32 + (d.readyOf die).length * 2 ^ 16 +
    d.fld (.synDieStatus die) Fd.synDieStatusCreditStalls)

/-- R222, R231: a die's engines or cores may hold tags of memory: work of some partition runs on it. -/
def Device.dieAtWork (d : Device) (die : Nat) : Bool :=
  (d.readyOf die).any (·.granted) || d.cores.any (fun e => e.1 / 64 == die && e.2.st != .idle) ||
    d.streams.any fun e => e.2.armed && e.2.core / 64 == die

/-- R250: a SAMPLE of a partition runs on a die. -/
def Device.samplesOn (d : Device) (die p : Nat) : Bool :=
  (List.range 64).any fun q => (d.queue p q).any fun c => c.st == .running && opcodeOf c.desc == 0x40 &&
    (d.engineNeeds p c.desc).any (·.1 == die)

/-- R186: MXA_STATUS of a core. -/
def Device.arrayStatus (d : Device) (c : Nat) : Nat :=
  let k := d.core c
  d.fld (.mxaStatus c) Fd.mxaStatusTqDiscards * 2 ^ 48 + (k.slots.filter fun e => e.2.mode != .empty).length * 2 ^ 40 +
  k.rampStep * 2 ^ 36 + k.tq.length * 2 ^ 32 + k.aq.length

/-- What a register shows, and the device: for most what it holds, for some what other state says. How many tags, threads and walk
contexts are in use while work runs is a matter of timing: a free value within its range; while none runs it is zero (log entry 16). -/
def Device.regView (d : Device) (r : Reg) : Word × Device :=
  let k := fun c => d.core c
  let used := fun (on : Bool) (m : Nat) => if on then (d.freeValue.1.toNat % (m + 1), d.freeValue.2) else (0, d)
  match r with
  | .hifPartStatus p =>
    (withField (withField (withField (d.reg r) 2 2 (ofBool (d.formed p))) 1 1 (ofBool (d.partActive p))) 0 0
      (ofBool (d.ctxState p == 5)), d)
  | .cmdCoreStatus c => (wordOf (coreStatus (k c)), d)
  | .synDieStatus die => (d.dieStatus die, d)
  | .mxaStatus c => (wordOf (d.arrayStatus c), d)
  | .mxaSlotState c i =>
    (wordOf (((List.range 32).map fun m => slotCode ((k c).slot (32 * i + m)).mode * 2 ^ (2 * m)).foldl (· + ·) 0), d)
  | .vecStatus c =>
    (wordOf (ofBool (((k c).vq.headD { word := 0, pc := 0, sregs := [] }).word.toNat / 2 ^ 56 == 0x45) * 2 ^ 8 + (k c).vq.length), d)
  | .vecChainTable c => (wordOf (((List.range 16).map fun t => ((k c).stages t).length * 2 ^ (4 * t)).foldl (· + ·) 0), d)
  | .memDieTags die =>
    let rs := d.reqs.filterMap fun e => e.2.filter fun x => x.die == die && x.status.isNone
    let near := used (d.dieAtWork die) Tier.near.pool
    let far := if d.dieAtWork die then near.2.freeValue else (0, near.2)
    (wordOf (near.1 * 2 ^ 48 + far.1.toNat % (Tier.far.pool + 1) * 2 ^ 32 + (rs.filter (·.tag.isSome)).length % 2 ^ 16 * 2 ^ 16 +
      min 8192 (rs.filter (·.tag.isNone)).length), far.2)
  | .memPartStatus p =>
    (withField (d.reg r) 47 32 (d.streams.filter fun e => e.1 / 4096 == p && e.2.armed).length, d)
  | .smpStatus die =>
    let o := used (decide (0 < d.runningOn die 0x40)) (min 2048 (((List.range 8).map fun p =>
      if d.samplesOn die p then clampTo 1 2048 (d.fld (.smpPartCfg die p) Fd.smpPartCfgContextLimit) else 0).foldl (· + ·) 0))
    (wordOf (d.runningOn die 0x40 * 2 ^ 32 + o.1), o.2)
  | .smpPartStatus die p =>
    let o := used (d.samplesOn die p) (clampTo 1 2048 (d.fld (.smpPartCfg die p) Fd.smpPartCfgContextLimit))
    (withField (d.reg r) 43 32 o.1, o.2)
  | .gthStatus die =>
    let o := used (decide (0 < d.runningOn die 0x50)) 4096
    (wordOf (o.1 * 2 ^ 32 + d.runningOn die 0x50 * 2 ^ 16 + d.runningOn die 0x51), o.2)
  | .sprStatus die => (withField (d.reg r) 63 48 (d.runningOn die 0x60), d)
  | .updStatus die => (withField (d.reg r) 63 48 (d.runningOn die 0x81), d)
  | .timCounter => (d.now, d)
  | .rasHist i q => (d.histWord i q, d)
  | .tstSeed | .tstTiming | .tstCredit | .tstDelay | .tstInject _ => (if d.perturbs then d.reg r else 0, d)
  | .secToken _ => (0, d)
  | r => (d.reg r, d)

/-- R8, R58, R79: what a function reads at an offset of BAR0: zero where no register answers, and in reserved fields. -/
def Device.regRead (d : Device) (fn off : Nat) : Word × Device :=
  match d.regAt fn off with
  | none => (0, d)
  | some r => ((d.regView r).1 &&& r.readMask, (d.regView r).2)

/-! ### Writes -/

/-- R9: what a write leaves in a register by its access codes alone. -/
def writtenPlain (r : Reg) (old w : Word) : Word :=
  r.fields.foldl (fun (a : Word) f =>
    match f.acc with
    | .rw => withField a f.hi f.lo (fieldOf w f.hi f.lo)
    | .w1c => a &&& ~~~(withField 0 f.hi f.lo (fieldOf w f.hi f.lo))
    | .w1s => a ||| withField 0 f.hi f.lo (fieldOf w f.hi f.lo)
    | .ro | .wo => a) old

/-- R9: a write by the access codes alone. -/
def Device.writePlain (d : Device) (r : Reg) (w : Word) : Device := d.setReg r (writtenPlain r (d.reg r) w)

/-- A write that leaves one field as it is. -/
def Device.writeBut (d : Device) (r : Reg) (f : RegField) (w : Word) : Device :=
  d.setReg r (withField (writtenPlain r (d.reg r) w) f.hi f.lo (d.fld r f))

/-- The device after f where a condition holds. -/
def Device.when (d : Device) (c : Bool) (f : Device → Device) : Device := if c then f d else d

/-- R81: every ring of a partition is DISABLED. -/
def Device.ringsOff (d : Device) (p : Nat) : Bool :=
  !d.errEnabled p && (List.range 64).all fun q => d.sqState p q == 0 && !d.flag (.hifCqCfg p q) Fd.hifCqCfgEnable

/-- R81: a write of OWNER. -/
def Device.ownerWrite (d : Device) (p v : Nat) : Device :=
  d.when (d.ringsOff p) (·.setFld (.hifPartCtrl p) Fd.hifPartCtrlOwner v)

/-- R81, R97: a write of HIF_PART_CTRL; only the physical function writes OWNER. -/
def Device.partCtrlWrite (d : Device) (fn p : Nat) (w : Word) : Device :=
  let d := d.when (fn == 0 && fieldOf w 16 16 != d.fld (.hifPartCtrl p) Fd.hifPartCtrlOwner) (·.ownerWrite p (fieldOf w 16 16))
  let d := d.writeBut (.hifPartCtrl p) Fd.hifPartCtrlOwner w
  d.when (bitOf w.toNat 1) (·.requestReset 3 p false false)

/-- R81: a ring register is written by the function that owns the rings; another's write is ignored, with 0x0405. Ring registers are
HIF_ERR, HIF_SQ and HIF_CQ, BASE and CFG (DESIGN CHOICE, log entry 99: the spec lists none). -/
def Device.ringWrite (d : Device) (fn p ring : Nat) (f : Device → Device) : Device :=
  if fn = d.ownerOf p then f d else d.logPart p 0x0405 0 (hostBody ring 0 0 fn)

/-- R88, R97: a write of HIF_SQ_CFG. -/
def Device.sqCfgWrite (d : Device) (p q : Nat) (w : Word) : Device :=
  let d := d.writeBut (.hifSqCfg p q) Fd.hifSqCfgEnable w
  if bitOf w.toNat 8 then d.when (d.sqState p q == 0) (·.sqEnable p q)
  else d.when (d.sqState p q != 0) (·.sqDisable p q)

/-- R91, R97: a write of HIF_CQ_CFG. -/
def Device.cqCfgWrite (d : Device) (p c : Nat) (w : Word) : Device :=
  let on := d.flag (.hifCqCfg p c) Fd.hifCqCfgEnable
  let d := d.writeBut (.hifCqCfg p c) Fd.hifCqCfgEnable w
  if bitOf w.toNat 8 then d.when (!on) (·.cqEnable p c) else d.when on (·.cqDisable p c)

/-- R97, R460: a write of HIF_ERR_CFG or HIF_MOD_ERR_CFG, ring 8 the module's. -/
def Device.errCfgWrite (d : Device) (k : Nat) (w : Word) : Device :=
  let on := d.errEnabled k
  let d := d.writeBut (errCfgReg k) Fd.hifErrCfgEnable w
  if bitOf w.toNat 16 then d.when (!on) (·.errEnable k) else d.setFld (errCfgReg k) Fd.hifErrCfgEnable 0

/-- R421, R425: a write of CTX_RESET. -/
def Device.ctxResetWrite (d : Device) (w : Word) : Device :=
  match fieldOf w 58 56 with
  | 1 => d.requestReset 1 (fieldOf w 7 0) true false
  | 2 => d.requestReset 2 (fieldOf w 7 0) true false
  | 3 => d.requestReset 3 (fieldOf w 7 0) true false
  | 4 => d.requestReset 4 0 true false
  | 5 => d.requestDevice
  | _ => d

/-- R410, R415, R420, R425: a write of CTX_PART_CTRL. -/
def Device.ctxCtrlWrite (d : Device) (p : Nat) (w : Word) : Device :=
  let d := d.ctxCtrl p w
  match fieldOf w 1 0 with
  | 1 => d.beginSave p (d.ctxRequest p)
  | 2 => d.beginRestore p (d.ctxRequest p)
  | 3 => d.discardContext p
  | _ => d

/-- R217, R231: a write of MEM_FAULT_RESUME, for a partition. -/
def Device.faultResume (d : Device) (p : Nat) (w : Word) : Device :=
  match fieldOf w 63 62 with
  | 1 => d.resume p (fieldOf w 31 0)
  | 2 => d.abandonHandle p (fieldOf w 31 0)
  | _ => d

/-- R440, R446: a write of SEC_CTRL. Whether a submitted token's signature verifies is not in the window's bytes alone: a free
value. -/
def Device.secCtrlWrite (d : Device) (w : Word) : Device :=
  let d := d.when (bitOf w.toNat 0) fun d =>
    let (v, d) := d.freeValue
    d.tokenSubmit d.tokenWindow (bitOf v.toNat 0)
  d.when (bitOf w.toNat 1) Device.relock

/-- What a write of a register does, by a function; own: the partition a virtual function names. -/
def Device.regEffect (d : Device) (fn off : Nat) (w : Word) (r : Reg) : Device :=
  let named := fun hi lo => if fn = 0 then fieldOf w hi lo else fn - 1
  match r with
  | .pwrDomCtrl n => d.policyWrite n (fieldOf w 1 0)
  | .pwrBudget => (d.writePlain r w).reclaim
  | .bootCtrl => d.bootCtrlWrite w
  | .bootPolicy => d.bootPolicyWrite w
  | .bootPushCtrl => d.pushGo w
  | .hifModErrBase => d.when (!d.errEnabled moduleRing) (·.writePlain r w)
  | .hifModErrCfg => d.errCfgWrite moduleRing w
  | .hifPartCtrl p => d.partCtrlWrite fn p w
  | .hifPartWords p => d.when (!d.flag (.hifPartCtrl p) Fd.hifPartCtrlEnable) (·.writePlain r w)
  | .hifErrBase p => d.ringWrite fn p 0 fun d => d.when (!d.errEnabled p) (·.writePlain r w)
  | .hifErrCfg p => d.ringWrite fn p 0 (·.errCfgWrite p w)
  | .hifSqBase p q => d.ringWrite fn p q fun d => d.when (d.sqState p q == 0) (·.writePlain r w)
  | .hifSqCfg p q => d.ringWrite fn p q (·.sqCfgWrite p q w)
  | .hifCqBase p q => d.ringWrite fn p q fun d => d.when (!d.flag (.hifCqCfg p q) Fd.hifCqCfgEnable) (·.writePlain r w)
  | .hifCqCfg p q => d.ringWrite fn p q (·.cqCfgWrite p q w)
  | .cmdPmemData => d.pmemData w
  | .cmdQCfg p q => d.when (d.sqState p q == 0) (·.writePlain r w)
  | .synDbgSel => d.dbgSelect w
  | .synPartCfg p => d.when (!d.flag (.hifPartCtrl p) Fd.hifPartCtrlEnable) (·.writePlain r w)
  | .synFlowCfg p f => d.flowWrite p f w
  | .synObjCfg n => d.when ((d.obj n).waiters == []) (·.writePlain r w)
  | .mxaCtrl c => d.when (bitOf w.toNat 0) (·.resetRegs [.mxaSatCount c, .mxaRepeats c])
  | .vecCtrl c => d.when (bitOf w.toNat 0) (·.resetRegs [.vecSatCount c, .vecPasses c])
  | .memTlbInval => d.tlbInval w (named 62 60)
  | .memFaultResume => d.faultResume (named 61 59) w
  | .memPartPtBase p => d.when (!d.flag (.hifPartCtrl p) Fd.hifPartCtrlEnable) (·.writePlain r w)
  | .smpCtrl die => d.when (bitOf w.toNat 0) (·.smpClear die)
  | .gthCtrl die => d.when (bitOf w.toNat 0) (·.gthClear die)
  | .sprCtrl die => d.when (bitOf w.toNat 0) (·.sprClear die)
  | .sprDenseThreshold | .sprMissLimit | .sprDenseHold => d.when (off == r.offset) (·.writePlain r w)
  | .cisCtrl die => d.when (bitOf w.toNat 0) (·.resetReg (.cisSpilled die))
  | .plcPoolNear p _ | .plcPoolFar p _ | .cisPartCfg _ p => d.when (fn == 0 && !d.flag (.hifPartCtrl p) Fd.hifPartCtrlEnable) (·.writePlain r w)
  | .updCtrl die => d.when (bitOf w.toNat 0) (·.updClear die)
  | .lnkCtrl => d.when (bitOf w.toNat 0) Device.lnkClear
  | .lnkPortCtrl n =>
    match fieldOf w 1 0 with
    | 1 => d.retrainNow n
    | 2 => d.portRestart n
    | _ => d
  | .plcFeatureCtrl => d.when (bitOf w.toNat 16) (·.featureGo (fieldOf w 15 0))
  | .ctxReset => d.ctxResetWrite w
  | .ctxPartCtrl p => d.ctxCtrlWrite p w
  | .tstStatus => d
  | .tstSeed | .tstTiming | .tstCredit | .tstDelay | .tstInject _ => d.tstWrite r w
  | .secCtrl => d.secCtrlWrite w
  | .secToken _ => d.setReg r w
  | r => d.writePlain r w

/-- R58: a reset requested by a write of a register that does not answer yet is ignored and logged. A virtual function reaches
HIF_PART_CTRL of its own partition. -/
def Device.earlyReset (d : Device) (fn off : Nat) (w : Word) : Device :=
  match d.answers && !d.ready, Reg.ofOffset off with
  | true, some .ctxReset => d.when (decide (fn = 0)) (·.ctxResetWrite w)
  | true, some (.hifPartCtrl p) => d.when (decide (fn = 0 ∨ fn = p + 1) && bitOf w.toNat 1) (·.requestReset 3 p false false)
  | _, _ => d

/-- R8, R9, R79: a function writes at an offset of BAR0. -/
def Device.regWrite (d : Device) (fn off : Nat) (w : Word) : Device :=
  match d.regAt fn off with
  | none => d.earlyReset fn off w
  | some r => d.regEffect fn off w r

/-! ### The meanings -/

/-- REGISTER_WRITE: a function writes a value at an offset of BAR0, 64 bits and aligned (R8); a write that is not aligned reaches no
register (log entry 12). -/
def execRegisterWrite (fn off : Nat) (w : Word) (io : MemIo) (s : State) : Result :=
  early (fun d => d.when (off % 8 == 0) fun d => ((d.withIo io).regWrite fn off w).endIo) s

/-- OWNER_WRITE: the physical function writes HIF_PART_CTRL.OWNER. -/
def execOwnerWrite (p owner : Nat) (s : State) : Result := run (·.ownerWrite p owner) s

/-- SQ_ENABLE: a function writes HIF_SQ_CFG with ENABLE = 1; cells: what host memory holds by then. -/
def execSqEnable (fn p q : Nat) (w : Word) (cells : List Host.Cell) (s : State) : Result :=
  run (fun d => (d.hostStores cells).when (d.hasFn fn && decide (p < 8) && decide (q < 64) && (fn == 0 || fn == p + 1))
    fun d => d.ringWrite fn p q (·.sqCfgWrite p q (withField w 8 8 1))) s

/-- SQ_DISABLE: a function writes HIF_SQ_CFG with ENABLE = 0. -/
def execSqDisable (fn p q : Nat) (w : Word) (s : State) : Result :=
  run (fun d => d.when (d.hasFn fn && decide (p < 8) && decide (q < 64) && (fn == 0 || fn == p + 1))
    fun d => d.ringWrite fn p q (·.sqCfgWrite p q (withField w 8 8 0))) s

/-- CQ_ENABLE: a function writes HIF_CQ_CFG with ENABLE = 1. -/
def execCqEnable (fn p c : Nat) (w : Word) (s : State) : Result :=
  run (fun d => d.when (d.hasFn fn && decide (p < 8) && decide (c < 64) && (fn == 0 || fn == p + 1))
    fun d => d.ringWrite fn p c (·.cqCfgWrite p c (withField w 8 8 1))) s

/-- CQ_DISABLE: a function writes HIF_CQ_CFG with ENABLE = 0. -/
def execCqDisable (fn p c : Nat) (w : Word) (s : State) : Result :=
  run (fun d => d.when (d.hasFn fn && decide (p < 8) && decide (c < 64) && (fn == 0 || fn == p + 1))
    fun d => d.ringWrite fn p c (·.cqCfgWrite p c (withField w 8 8 0))) s

/-- ERR_RING_ENABLE: a function writes the configuration of error ring k with ENABLE = 1; 8 is the module's, which only the
physical function reaches. -/
def execErrRingEnable (fn k : Nat) (w : Word) (cells : List Host.Cell) (s : State) : Result :=
  run (fun d =>
    let d := d.hostStores cells
    if k = moduleRing then d.when (fn == 0) (·.errCfgWrite k (withField w 16 16 1))
    else d.when (d.hasFn fn && decide (k < 8) && (fn == 0 || fn == k + 1))
      fun d => d.ringWrite fn k 0 (·.errCfgWrite k (withField w 16 16 1))) s

/-- FLOW_OPEN: a write of SYN_FLOW_CFG with OPEN = 1. -/
def execFlowOpen (p f : Nat) (w : Word) (s : State) : Result :=
  run (fun d => d.when (decide (p < 8) && decide (f < 1024)) (·.flowWrite p f (withField w 63 63 1))) s

/-- FLOW_CLOSE: a write of SYN_FLOW_CFG with OPEN = 0. -/
def execFlowClose (p f : Nat) (w : Word) (s : State) : Result :=
  run (fun d => d.when (decide (p < 8) && decide (f < 1024)) (·.flowWrite p f (withField w 63 63 0))) s

/-- SYN_DBG_SEL: the value written. -/
def execSynDbgSel (w : Word) (s : State) : Result := run (·.dbgSelect w) s

/-- MXA_CLEAR_COUNTS of a core. -/
def execMxaClearCounts (c : Nat) (s : State) : Result := run (·.resetRegs [.mxaSatCount c, .mxaRepeats c]) s

/-- VEC_CLEAR_COUNTS of a core. -/
def execVecClearCounts (c : Nat) (s : State) : Result := run (·.resetRegs [.vecSatCount c, .vecPasses c]) s

/-- DEBUG_READ64 (R441): an aligned offset of BAR0, as the physical function sees it, once DEBUG_READ is unlocked; else an error. -/
def execDebugRead64 (off : Nat) (s : State) : Result :=
  serving (fun d =>
    if bitOf (d.fld .tstStatus Fd.tstStatusUnlocked) 1 ∧ off % 8 = 0 then
      let (w, d) := d.regRead 0 off
      d.debugAnswer "DEBUG_READ64" 0 (leBytes 8 w.toNat)
    else d.debugAnswer "DEBUG_READ64" 1 []) s

/-- DEBUG_WRITE64 (R441), at an aligned offset, once DEBUG_WRITE is unlocked; else an error. -/
def execDebugWrite64 (off : Nat) (w : Word) (io : MemIo) (s : State) : Result :=
  serving (fun d =>
    if bitOf (d.fld .tstStatus Fd.tstStatusUnlocked) 2 ∧ off % 8 = 0 then
      (((d.withIo io).regWrite 0 off w).endIo).debugAnswer "DEBUG_WRITE64" 0 []
    else d.debugAnswer "DEBUG_WRITE64" 1 []) s

/-- PCIE_COMPLETION_TIMEOUT (R95, R215): of the descriptor read of a ring, or of a running command's access to a host page. -/
def execPcieCompletionTimeout (p q : Nat) (access : Option (Nat × Nat)) (s : State) : Result :=
  run (fun d =>
    match access with
    | none => d.fetchRun p q 0xFE
    | some (idx, addr) =>
      match d.cmd? p q idx with
      | none => d
      | some c =>
        if c.st = .running ∧ c.begun = true ∧ c.worked = false ∧ c.parked = none then d.unitError p q c c.unit (.xlate 6 addr) else d) s

end Sys2Proof.Machine
end

