-- ==== Sys2Proof/Machine/Tick.lean ====
section
/-! DEFINITION. What one cycle of the counter clock does where no command waits (R37, R395, R402). -/

namespace Sys2Proof.Machine

/-- R397: the slew in force, in parts per 10^9. -/
def Device.slew (d : Device) : Int := (BitVec.ofNat 32 (d.fld .timOffset Fd.timOffsetFreqPpb)).toInt

/-- R395: one cycle of the counter clock: how far the machine counter goes, and the part of an increment that the slew has gathered. -/
def Device.counterStep (d : Device) : Nat × Int :=
  let g := d.time.phase + d.slew
  if 1000000000 ≤ g then (2, g - 1000000000)
  else if g ≤ -1000000000 then (0, g + 1000000000)
  else (1, g)

/-- R37: PWR_CORE_ACTIVE_NS of the cores that are ON. -/
def Device.countActive (d : Device) (n : Nat) : Device :=
  (List.range 256).foldl (fun (d : Device) c =>
    if d.domState c = 2 then d.setReg (.pwrCoreActiveNs c) (d.reg (.pwrCoreActiveNs c) + wordOf n) else d) d

/-- R402: the level enabled takes effect at its ENABLE_NS. -/
def Device.enableDue (d : Device) : Device :=
  match d.enable with
  | none => d
  | some (level, ns) =>
    if ns.toNat ≤ d.now.toNat then
      (({ d with enable := none, enabled := (level, ns) :: d.enabled }.setFld .plcFeature Fd.plcFeatureEnabled level).setFld .plcFeature Fd.plcFeaturePending 0).showCensus
    else d

/-- One cycle of the counter clock. DESIGN CHOICE (log entry 127): the follower counters of dies 1 to 3, which R23 holds within 4 ns of
die 0's, are equal to it, so one counter stands for all four. -/
def Device.tick (d : Device) : Device :=
  let d : Device := { d with out := [] }
  if d.awake then
    let n := d.counterStep
    let d : Device := { d with now := d.now + wordOf n.1, time := { d.time with phase := n.2 } }
    let d := (d.countActive n.1).enableDue.timeSend
    if d.ready ∧ d.now.toNat % 1000000 < n.1 then d.complexBeats else d
  else d

end Sys2Proof.Machine
end

