-- ==== Sys2Proof/Machine/Dispatch.lean ====
section
/-! DEFINITION. The meaning of each command, one arm for each row of the opcode table. -/

namespace Sys2Proof.Machine

/-- The effect of a command on everything but the queue. -/
def exec (i : Instr) (s : State) : Host.Outcome State Fault Refusal :=
  match i with
  | .powerOn => Sys2Proof.Machine.execPowerOn s
  | .perstRelease => Sys2Proof.Machine.execPerstRelease s
  | .perstAssert => Sys2Proof.Machine.execPerstAssert s
  | .snowdrop good refOk => Sys2Proof.Machine.execSnowdrop good refOk s
  | .primrose => Sys2Proof.Machine.execPrimrose s
  | .celandine selfTest cold => Sys2Proof.Machine.execCelandine selfTest cold s
  | .cowslip grades => Sys2Proof.Machine.execCowslip grades s
  | .memInterfaceTrained n => Sys2Proof.Machine.execMemInterfaceTrained n s
  | .portLanesLocked n mask => Sys2Proof.Machine.execPortLanesLocked n mask s
  | .laneLockTimeout n => Sys2Proof.Machine.execLaneLockTimeout n s
  | .campion rows repairable => Sys2Proof.Machine.execCampion rows repairable s
  | .qualificationWindowEnd n errors lanes => Sys2Proof.Machine.execQualificationWindowEnd n errors lanes s
  | .qualificationRetrainEnd n => Sys2Proof.Machine.execQualificationRetrainEnd n s
  | .yarrow => Sys2Proof.Machine.execYarrow s
  | .teasel exchanges level ready => Sys2Proof.Machine.execTeasel exchanges level ready s
  | .stageTimeout => Sys2Proof.Machine.execStageTimeout s
  | .bootHoldRelease w => Sys2Proof.Machine.execBootHoldRelease w s
  | .bootPushGo w => Sys2Proof.Machine.execBootPushGo w s
  | .bootPushComplete image readError => Sys2Proof.Machine.execBootPushComplete image readError s
  | .imageFlashWrite => Sys2Proof.Machine.execImageFlashWrite s
  | .imageFlashWriteComplete => Sys2Proof.Machine.execImageFlashWriteComplete s
  | .bootPolicyWrite w => Sys2Proof.Machine.execBootPolicyWrite w s
  | .configRequest fn a => Sys2Proof.Machine.execConfigRequest fn a s
  | .pcieLinkTrained rate width flit => Sys2Proof.Machine.execPcieLinkTrained rate width flit s
  | .bar4Read fn off n io => Sys2Proof.Machine.execBar4Read fn off n io s
  | .bar4Write fn off bytes io => Sys2Proof.Machine.execBar4Write fn off bytes io s
  | .registerWrite fn off w io => Sys2Proof.Machine.execRegisterWrite fn off w io s
  | .ownerWrite p owner => Sys2Proof.Machine.execOwnerWrite p owner s
  | .producerPoll p line cells => Sys2Proof.Machine.execProducerPoll p line cells s
  | .descriptorFetch p q status cells => Sys2Proof.Machine.execDescriptorFetch p q status cells s
  | .ringIdleTimeout p q => Sys2Proof.Machine.execRingIdleTimeout p q s
  | .sleepCheckComplete p q cells => Sys2Proof.Machine.execSleepCheckComplete p q cells s
  | .wakeDoorbell fn off cells => Sys2Proof.Machine.execWakeDoorbell fn off cells s
  | .sqEnable fn p q w cells => Sys2Proof.Machine.execSqEnable fn p q w cells s
  | .sqDisable fn p q w => Sys2Proof.Machine.execSqDisable fn p q w s
  | .cqEnable fn p c w => Sys2Proof.Machine.execCqEnable fn p c w s
  | .cqDisable fn p c w => Sys2Proof.Machine.execCqDisable fn p c w s
  | .errRingEnable fn k w cells => Sys2Proof.Machine.execErrRingEnable fn k w cells s
  | .headWordRead p c cells => Sys2Proof.Machine.execHeadWordRead p c cells s
  | .cqFullTimeout p c => Sys2Proof.Machine.execCqFullTimeout p c s
  | .coalesceTimeout p c => Sys2Proof.Machine.execCoalesceTimeout p c s
  | .heartbeat p => Sys2Proof.Machine.execHeartbeat p s
  | .partitionResetRequest p => Sys2Proof.Machine.execPartitionResetRequest p s
  | .vfFlr n => Sys2Proof.Machine.execVfFlr n s
  | .pfReset => Sys2Proof.Machine.execPfReset s
  | .nop p q idx => Sys2Proof.Machine.execNop p q idx s
  | .sync p q idx => Sys2Proof.Machine.execSync p q idx s
  | .hostSignal p q idx => Sys2Proof.Machine.execHostSignal p q idx s
  | .progLoad p q idx io => Sys2Proof.Machine.execProgLoad p q idx io s
  | .progStart p q idx => Sys2Proof.Machine.execProgStart p q idx s
  | .progStop p q idx => Sys2Proof.Machine.execProgStop p q idx s
  | .copy p q idx io => Sys2Proof.Machine.execCopy p q idx io s
  | .fill p q idx io => Sys2Proof.Machine.execFill p q idx io s
  | .compress p q idx io => Sys2Proof.Machine.execCompress p q idx io s
  | .expand p q idx io => Sys2Proof.Machine.execExpand p q idx io s
  | .arm p q idx io => Sys2Proof.Machine.execArm p q idx io s
  | .rearm p q idx => Sys2Proof.Machine.execRearm p q idx s
  | .release p q idx => Sys2Proof.Machine.execRelease p q idx s
  | .sample p q idx io => Sys2Proof.Machine.execSample p q idx io s
  | .traceReservationGrant p q idx io => Sys2Proof.Machine.execTraceReservationGrant p q idx io s
  | .gather p q idx io => Sys2Proof.Machine.execGather p q idx io s
  | .gatherDelivery p q idx => Sys2Proof.Machine.execGatherDelivery p q idx s
  | .rowArrive p q idx pos io => Sys2Proof.Machine.execRowArrive p q idx pos io s
  | .scatter p q idx io => Sys2Proof.Machine.execScatter p q idx io s
  | .contribLogWaitTimeout p q idx => Sys2Proof.Machine.execContribLogWaitTimeout p q idx s
  | .merge p q idx io => Sys2Proof.Machine.execMerge p q idx io s
  | .mergePairDelivery p q idx io => Sys2Proof.Machine.execMergePairDelivery p q idx io s
  | .predictBind p q idx => Sys2Proof.Machine.execPredictBind p q idx s
  | .predictReport p q idx io => Sys2Proof.Machine.execPredictReport p q idx io s
  | .predictUnbind p q idx => Sys2Proof.Machine.execPredictUnbind p q idx s
  | .stepOpen p q idx io => Sys2Proof.Machine.execStepOpen p q idx io s
  | .stepClose p q idx io => Sys2Proof.Machine.execStepClose p q idx io s
  | .stepExchangeComplete p q idx moves io => Sys2Proof.Machine.execStepExchangeComplete p q idx moves io s
  | .stepExchangeTimeout p q idx io => Sys2Proof.Machine.execStepExchangeTimeout p q idx io s
  | .cisternSetup p q idx => Sys2Proof.Machine.execCisternSetup p q idx s
  | .cisternOpen p q idx => Sys2Proof.Machine.execCisternOpen p q idx s
  | .cisternPush p q idx => Sys2Proof.Machine.execCisternPush p q idx s
  | .cisternPop p q idx => Sys2Proof.Machine.execCisternPop p q idx s
  | .cisternClose p q idx => Sys2Proof.Machine.execCisternClose p q idx s
  | .evalSlotOpen p q idx => Sys2Proof.Machine.execEvalSlotOpen p q idx s
  | .evalSlotClose p q idx => Sys2Proof.Machine.execEvalSlotClose p q idx s
  | .updateBind p q idx io => Sys2Proof.Machine.execUpdateBind p q idx io s
  | .updateUnbind p q idx => Sys2Proof.Machine.execUpdateUnbind p q idx s
  | .updateSchedule p q idx io => Sys2Proof.Machine.execUpdateSchedule p q idx io s
  | .checkpoint p q idx io => Sys2Proof.Machine.execCheckpoint p q idx io s
  | .tableBind p q idx io => Sys2Proof.Machine.execTableBind p q idx io s
  | .tableUnbind p q idx => Sys2Proof.Machine.execTableUnbind p q idx s
  | .epochPublish p q idx io => Sys2Proof.Machine.execEpochPublish p q idx io s
  | .ctxSave p q idx => Sys2Proof.Machine.execCtxSave p q idx s
  | .ctxRestore p q idx io areas => Sys2Proof.Machine.execCtxRestore p q idx io areas s
  | .collForm p q idx io => Sys2Proof.Machine.execCollForm p q idx io s
  | .collDisband p q idx => Sys2Proof.Machine.execCollDisband p q idx s
  | .allreduce p q idx io => Sys2Proof.Machine.execAllreduce p q idx io s
  | .broadcast p q idx io => Sys2Proof.Machine.execBroadcast p q idx io s
  | .allgather p q idx io => Sys2Proof.Machine.execAllgather p q idx io s
  | .put p q idx io => Sys2Proof.Machine.execPut p q idx io s
  | .commandStart p q => Sys2Proof.Machine.execCommandStart p q s
  | .commandTimeout p q => Sys2Proof.Machine.execCommandTimeout p q s
  | .commandComplete p q idx => Sys2Proof.Machine.execCommandComplete p q idx s
  | .commandRetire p q => Sys2Proof.Machine.execCommandRetire p q s
  | .leaseLapse c => Sys2Proof.Machine.execLeaseLapse c s
  | .programWriteLand c => Sys2Proof.Machine.execProgramWriteLand c s
  | .cmdPmemData w => Sys2Proof.Machine.execCmdPmemData w s
  | .wait c => Sys2Proof.Machine.execWait c s
  | .signal c => Sys2Proof.Machine.execSignal c s
  | .loop c => Sys2Proof.Machine.execLoop c s
  | .branch c => Sys2Proof.Machine.execBranch c s
  | .set c => Sys2Proof.Machine.execSet c s
  | .add c => Sys2Proof.Machine.execAdd c s
  | .halt c => Sys2Proof.Machine.execHalt c s
  | .pollingWaiterRetest n => Sys2Proof.Machine.execPollingWaiterRetest n s
  | .coreWaitTimeout c => Sys2Proof.Machine.execCoreWaitTimeout c s
  | .readyGrant die k => Sys2Proof.Machine.execReadyGrant die k s
  | .readyAge die p q idx => Sys2Proof.Machine.execReadyAge die p q idx s
  | .flowOpen p f w => Sys2Proof.Machine.execFlowOpen p f w s
  | .flowClose p f w => Sys2Proof.Machine.execFlowClose p f w s
  | .flowStall p f => Sys2Proof.Machine.execFlowStall p f s
  | .synDbgSel w => Sys2Proof.Machine.execSynDbgSel w s
  | .mma c => Sys2Proof.Machine.execMma c s
  | .drain c => Sys2Proof.Machine.execDrain c s
  | .drainCreditGrant c => Sys2Proof.Machine.execDrainCreditGrant c s
  | .slotClear c => Sys2Proof.Machine.execSlotClear c s
  | .arraySync c => Sys2Proof.Machine.execArraySync c s
  | .mxaClearCounts c => Sys2Proof.Machine.execMxaClearCounts c s
  | .vload c => Sys2Proof.Machine.execVload c s
  | .vstore c => Sys2Proof.Machine.execVstore c s
  | .vop c => Sys2Proof.Machine.execVop c s
  | .vmask c => Sys2Proof.Machine.execVmask c s
  | .vchainLoad c => Sys2Proof.Machine.execVchainLoad c s
  | .vchain c => Sys2Proof.Machine.execVchain c s
  | .vsync c => Sys2Proof.Machine.execVsync c s
  | .vgen c => Sys2Proof.Machine.execVgen c s
  | .vreduce c => Sys2Proof.Machine.execVreduce c s
  | .vmovs c => Sys2Proof.Machine.execVmovs c s
  | .vecClearCounts c => Sys2Proof.Machine.execVecClearCounts c s
  | .swait c => Sys2Proof.Machine.execSwait c s
  | .sfree c => Sys2Proof.Machine.execSfree c s
  | .copyIn c io => Sys2Proof.Machine.execCopyIn c io s
  | .copyOut c io => Sys2Proof.Machine.execCopyOut c io s
  | .csync c => Sys2Proof.Machine.execCsync c s
  | .streamWaitTimeout c => Sys2Proof.Machine.execStreamWaitTimeout c s
  | .streamTileArrive p n io => Sys2Proof.Machine.execStreamTileArrive p n io s
  | .watchReread p n granule io => Sys2Proof.Machine.execWatchReread p n granule io s
  | .pageFillComplete p handle io => Sys2Proof.Machine.execPageFillComplete p handle io s
  | .faultResumeRetry p handle io => Sys2Proof.Machine.execFaultResumeRetry p handle io s
  | .faultResumeAbandon p handle => Sys2Proof.Machine.execFaultResumeAbandon p handle s
  | .parkTimeout p handle => Sys2Proof.Machine.execParkTimeout p handle s
  | .tlbInval w => Sys2Proof.Machine.execTlbInval w s
  | .tlbInvalComplete => Sys2Proof.Machine.execTlbInvalComplete s
  | .tagFree die => Sys2Proof.Machine.execTagFree die s
  | .lpddr6Recalibrate => Sys2Proof.Machine.execLpddr6Recalibrate s
  | .sramScrub reads => Sys2Proof.Machine.execSramScrub reads s
  | .smpClearCounts die => Sys2Proof.Machine.execSmpClearCounts die s
  | .gthClearCounts die => Sys2Proof.Machine.execGthClearCounts die s
  | .sprClearCounts die => Sys2Proof.Machine.execSprClearCounts die s
  | .cisClearCounts die => Sys2Proof.Machine.execCisClearCounts die s
  | .updClearCounts die => Sys2Proof.Machine.execUpdClearCounts die s
  | .lnkClearCounts => Sys2Proof.Machine.execLnkClearCounts s
  | .domainEnableRequest n => Sys2Proof.Machine.execDomainEnableRequest n s
  | .domainDisableRequest n => Sys2Proof.Machine.execDomainDisableRequest n s
  | .powerUpComplete n => Sys2Proof.Machine.execPowerUpComplete n s
  | .domainDrainComplete n => Sys2Proof.Machine.execDomainDrainComplete n s
  | .retentionSaveComplete n => Sys2Proof.Machine.execRetentionSaveComplete n s
  | .isolationComplete n => Sys2Proof.Machine.execIsolationComplete n s
  | .railDownComplete n => Sys2Proof.Machine.execRailDownComplete n s
  | .pwrDomCtrlWrite n w => Sys2Proof.Machine.execPwrDomCtrlWrite n w s
  | .lendEntry c => Sys2Proof.Machine.execLendEntry c s
  | .lendExit c => Sys2Proof.Machine.execLendExit c s
  | .railGrant c v => Sys2Proof.Machine.execRailGrant c v s
  | .railSlewComplete c => Sys2Proof.Machine.execRailSlewComplete c s
  | .powerEstimate n mw => Sys2Proof.Machine.execPowerEstimate n mw s
  | .railMeasure powers => Sys2Proof.Machine.execRailMeasure powers s
  | .emergencyHoldEnd => Sys2Proof.Machine.execEmergencyHoldEnd s
  | .railSlowPoll answered => Sys2Proof.Machine.execRailSlowPoll answered s
  | .railAlert stage status => Sys2Proof.Machine.execRailAlert stage status s
  | .thermalLimit die sensor temp => Sys2Proof.Machine.execThermalLimit die sensor temp s
  | .thermalStep die temp => Sys2Proof.Machine.execThermalStep die temp s
  | .thermalCrit die sensor temp => Sys2Proof.Machine.execThermalCrit die sensor temp s
  | .thermtripAnalog => Sys2Proof.Machine.execThermtripAnalog s
  | .fabricStall n cls => Sys2Proof.Machine.execFabricStall n cls s
  | .ref25Loss => Sys2Proof.Machine.execRef25Loss s
  | .controlFlitSend n => Sys2Proof.Machine.execControlFlitSend n s
  | .controlFlitReceive n flit => Sys2Proof.Machine.execControlFlitReceive n flit s
  | .dataFlitReceive n flit uncorrectable corrected => Sys2Proof.Machine.execDataFlitReceive n flit uncorrectable corrected s
  | .controlSilenceTimeout n => Sys2Proof.Machine.execControlSilenceTimeout n s
  | .portRetrain n trigger lost => Sys2Proof.Machine.execPortRetrain n trigger lost s
  | .retrainCheckWindowEnd n errors => Sys2Proof.Machine.execRetrainCheckWindowEnd n errors s
  | .retrainTimeout n => Sys2Proof.Machine.execRetrainTimeout n s
  | .portRetrainNow n => Sys2Proof.Machine.execPortRetrainNow n s
  | .portRestart n => Sys2Proof.Machine.execPortRestart n s
  | .read => Sys2Proof.Machine.execRead s
  | .write => Sys2Proof.Machine.execWrite s
  | .contrib fmt => Sys2Proof.Machine.execContrib fmt s
  | .signalPacket => Sys2Proof.Machine.execSignalPacket s
  | .coll p g seq chunk rank off => Sys2Proof.Machine.execColl p g seq chunk rank off s
  | .readResp => Sys2Proof.Machine.execReadResp s
  | .ack => Sys2Proof.Machine.execAck s
  | .param n peer peerPort level lane credits depth => Sys2Proof.Machine.execParam n peer peerPort level lane credits depth s
  | .qual n errors lanes => Sys2Proof.Machine.execQual n errors lanes s
  | .seqQuery n => Sys2Proof.Machine.execSeqQuery n s
  | .seqReply n seq => Sys2Proof.Machine.execSeqReply n seq s
  | .feature => Sys2Proof.Machine.execFeature s
  | .time => Sys2Proof.Machine.execTime s
  | .group m => Sys2Proof.Machine.execGroup m s
  | .final p h u => Sys2Proof.Machine.execFinal p h u s
  | .misroutedPacket => Sys2Proof.Machine.execMisroutedPacket s
  | .retryResend tag io => Sys2Proof.Machine.execRetryResend tag io s
  | .landTimeout die src srcDie flow => Sys2Proof.Machine.execLandTimeout die src srcDie flow s
  | .remoteTimeout die tag => Sys2Proof.Machine.execRemoteTimeout die tag s
  | .heldTimeout die tag => Sys2Proof.Machine.execHeldTimeout die tag s
  | .collFormTimeout p q idx => Sys2Proof.Machine.execCollFormTimeout p q idx s
  | .directoryFill p idx h epoch u => Sys2Proof.Machine.execDirectoryFill p idx h epoch u s
  | .moveCopyComplete p h u dst io => Sys2Proof.Machine.execMoveCopyComplete p h u dst io s
  | .timeExchange ready => Sys2Proof.Machine.execTimeExchange ready s
  | .timeHoldover => Sys2Proof.Machine.execTimeHoldover s
  | .featureEnableGo level => Sys2Proof.Machine.execFeatureEnableGo level s
  | .ctxSaveRequest p w => Sys2Proof.Machine.execCtxSaveRequest p w s
  | .ctxRestoreRequest p w io areas => Sys2Proof.Machine.execCtxRestoreRequest p w io areas s
  | .ctxDiscard p w => Sys2Proof.Machine.execCtxDiscard p w s
  | .switchPointReached p io => Sys2Proof.Machine.execSwitchPointReached p io s
  | .saveAreaWritten p io => Sys2Proof.Machine.execSaveAreaWritten p io s
  | .saveWaitTimeout p => Sys2Proof.Machine.execSaveWaitTimeout p s
  | .restoreComplete p io areas => Sys2Proof.Machine.execRestoreComplete p io areas s
  | .coreReset c => Sys2Proof.Machine.execCoreReset c s
  | .clusterReset c => Sys2Proof.Machine.execClusterReset c s
  | .partitionReset p => Sys2Proof.Machine.execPartitionReset p s
  | .computeReset => Sys2Proof.Machine.execComputeReset s
  | .deviceReset => Sys2Proof.Machine.execDeviceReset s
  | .resetDrainEnd scope target => Sys2Proof.Machine.execResetDrainEnd scope target s
  | .controlFault die core => Sys2Proof.Machine.execControlFault die core s
  | .controlRestart => Sys2Proof.Machine.execControlRestart s
  | .controlRestartComplete => Sys2Proof.Machine.execControlRestartComplete s
  | .stormWindowEnd ring code => Sys2Proof.Machine.execStormWindowEnd ring code s
  | .tstSettingsWrite off w => Sys2Proof.Machine.execTstSettingsWrite off w s
  | .tokenSubmit sigOk byDebug => Sys2Proof.Machine.execTokenSubmit sigOk byDebug s
  | .relock => Sys2Proof.Machine.execRelock s
  | .getVersion => Sys2Proof.Machine.execGetVersion s
  | .getCapabilities => Sys2Proof.Machine.execGetCapabilities s
  | .negotiateAlgorithms offered => Sys2Proof.Machine.execNegotiateAlgorithms offered s
  | .getDigests => Sys2Proof.Machine.execGetDigests s
  | .getCertificate slot part => Sys2Proof.Machine.execGetCertificate slot part s
  | .challenge slot => Sys2Proof.Machine.execChallenge slot s
  | .getMeasurements slot => Sys2Proof.Machine.execGetMeasurements slot s
  | .i3cDynamicAddress static addr => Sys2Proof.Machine.execI3cDynamicAddress static addr s
  | .mctpSetEndpointId ids => Sys2Proof.Machine.execMctpSetEndpointId ids s
  | .pldmDiscovery => Sys2Proof.Machine.execPldmDiscovery s
  | .pldmGetFru => Sys2Proof.Machine.execPldmGetFru s
  | .getSensorReading n => Sys2Proof.Machine.execGetSensorReading n s
  | .pollForPlatformEvent => Sys2Proof.Machine.execPollForPlatformEvent s
  | .sensorRefresh n reading => Sys2Proof.Machine.execSensorRefresh n reading s
  | .requestUpdate component => Sys2Proof.Machine.execRequestUpdate component s
  | .verifyComplete image => Sys2Proof.Machine.execVerifyComplete image s
  | .applyComplete => Sys2Proof.Machine.execApplyComplete s
  | .activateFirmware => Sys2Proof.Machine.execActivateFirmware s
  | .debugRead64 off => Sys2Proof.Machine.execDebugRead64 off s
  | .debugWrite64 off w io => Sys2Proof.Machine.execDebugWrite64 off w io s
  | .powerOff => Sys2Proof.Machine.execPowerOff s
  | .lendEntryComplete c => Sys2Proof.Machine.execLendEntryComplete c s
  | .pcieCompletionTimeout p q access => Sys2Proof.Machine.execPcieCompletionTimeout p q access s
  | .ptmExchange hostTime => Sys2Proof.Machine.execPtmExchange hostTime s
  | .firmwareImageTransfer off bytes => Sys2Proof.Machine.execFirmwareImageTransfer off bytes s
  | .tableBindTimeout p q idx => Sys2Proof.Machine.execTableBindTimeout p q idx s
  | .illegalWord c => Sys2Proof.Machine.execIllegalWord c s

end Sys2Proof.Machine
end

