-- ==== Sys2Proof/Safety.lean ====
section
/-! DEFINITION. What counts as a safe outcome, and the words in which claims speak of states: the module running, in service,
managed or answering; frames; and runs of many commands. -/

namespace Sys2Proof.Machine

/-- A command that goes on. -/
def safe (r : Result) : Bool :=
  match r with
  | .next _ => true
  | _ => false

/-- The module runs: power is up, no reset holds it, and no flow item waits for its release. -/
def State.running (s : State) : Bool := s.dev.awake && s.dev.flowDone.isEmpty

/-- The module runs, and bring-up has not HALTED (R57). -/
def State.going (s : State) : Bool := s.running && !s.dev.halted

/-- The registers in which the ports count the flits they pass, LNK_PORT_TRAFFIC. -/
def trafficRegs : List Reg := (List.range 28).map Reg.lnkPortTraffic

/-- Registers whose write does no more than change their fields (R9): they stand in no arm of `Device.regEffect`. -/
def plainRegs : List Reg :=
  [.glbScratch, .pwrLend, .pwrThermal, .bootPushList, .hifPoll, .hifWinBase, .cmdPmemAddr, .memQuota, .lnkCfg, .plcCfg, .rasCfg,
    .mgtStageList] ++
  (List.range 8).flatMap (fun p => [.hifPartWin p, .cmdPartCtrl p, .memPartFaultCfg p, .memPartStreams p, .ctxPartArea p, .ctxPartCfg p]) ++
  (List.range 4).flatMap (fun d => [.synDieCfg d, .gthCfg d]) ++
  (List.range 4).flatMap (fun d => (List.range 8).flatMap fun p => [.synShare d p, .smpPartCfg d p, .gthPartCfg d p]) ++
  (List.range 256).map .mxaCfg

/-- R452: the module has no power, and holds no memory, register or work; nothing that waits would give it power or stop it. -/
def State.unpowered (s : State) : Prop :=
  s.dev.pins.powered = false ∧ s.dev.mem = [] ∧ s.dev.side = [] ∧ s.dev.regs = [] ∧ s.dev.queues = [] ∧ s.dev.cores = [] ∧
  s.dev.objs = [] ∧ ∀ c ∈ s.pending, c ≠ .powerOn

/-- The module is in service (R58). -/
def State.inService (s : State) : Bool := s.running && s.dev.ready

/-- The power manager runs (R39). -/
def State.managed (s : State) : Bool := s.running && s.dev.managed

/-- The blocks that answer from the end of Snowdrop answer (R58). -/
def State.answering (s : State) : Bool := s.running && s.dev.answers

/-- Firmware of die 0 serves the security engine and the management interface: those blocks answer, bring-up has not HALTED (R57), and
the control complex of die 0 runs (R24). -/
def State.serves (s : State) : Bool := s.answering && !s.dev.halted && !s.dev.stopped 0

/-- Bring-up runs its stage k (R55). -/
def State.bringUp (s : State) (k : Nat) : Bool := s.running && s.dev.inStage k

/-- R55, R75: bring-up has passed stage k: it runs the next, or is HELD before it where HOLD_BEFORE named it. -/
def State.passed (s t : State) (k : Nat) : Prop :=
  (s.dev.fld .bootCtrl Fd.bootCtrlHoldBefore ≠ k + 1 → t.bringUp (k + 1) = true) ∧
  (s.dev.fld .bootCtrl Fd.bootCtrlHoldBefore = k + 1 → t.running = true ∧ t.dev.stage = k ∧ t.dev.fld .bootStatus Fd.bootStatusState = 4)

/-- What the last command sent outside is the model's own: a command starts with nothing sent. -/
def State.quiet (s : State) : State := { s with dev := { s.dev with out := [] } }

/-- The state with its device changed by f, nothing sent outside before. -/
def State.after (s : State) (f : Device → Device) : State := { s with dev := f { s.dev with out := [] } }

/-- What an engine's last work leaves of a command: its status and VALUE, and that it is worked (R100). -/
def Cmd.ended (c : Cmd) (status : Nat) (value : Word) : Cmd :=
  { c with begun := true, worked := true, status := status, value := value, parked := none }

/-- Every register of e but those of a list reads as in d. -/
def Device.sameRegs (d e : Device) (rs : List Reg) : Prop := ∀ r : Reg, r.offset ∉ rs.map Reg.offset → e.reg r = d.reg r

/-- e is d but for its registers and what was sent outside. -/
def Device.sameButRegs (d e : Device) : Prop := { e with regs := d.regs, out := d.out } = d

/-- e is d but for its registers, its outstanding commands and what was sent outside. -/
def Device.sameButQueues (d e : Device) : Prop := { e with regs := d.regs, queues := d.queues, out := d.out } = d

/-- e is d but for what was sent outside. -/
def Device.sameButOut (d e : Device) : Prop := { e with out := d.out } = d

/-- e is d but for core c and what was sent outside. -/
def Device.onlyCore (d e : Device) (c : Nat) : Prop :=
  { e with cores := d.cores, out := d.out } = d ∧ ∀ x, x ≠ c → e.core x = d.core x

/-- R108: a core with the lease on the region it stands in. -/
def Core.entered (k : Core) : Core := { k with lease := some (k.lease.getD (regionOf k.pc)) }

/-- R105, R108: core c can run the word it stands at, which is a legal word of a control class. -/
def Device.atControl (d : Device) (c cls : Nat) : Bool :=
  d.canRun c && wordClass (d.coreWord c) == cls && controlLegal (d.coreWord c)

/-- R105, R108, R227: core c can run the word it stands at, which is a legal stream or copy word of a class. -/
def Device.atPump (d : Device) (c cls : Nat) : Bool :=
  d.canRun c && wordClass (d.coreWord c) == cls && pumpLegal (d.coreWord c)

/-- The first packet of a type, and of a management subtype, that has come for this chip: its port and channel, and the packet. -/
def Device.arrived (d : Device) (typ : Nat) (sub : Nat := 0) : Option (Nat × Nat × Packet) :=
  d.nextPacket fun k => pktType k == typ && !d.misrouted k && (typ != 0xE || pktAddr k % 256 == sub)

/-- The outcome of commands one after the other. -/
def runAll : List Instr → State → Result
  | [], s => .next s
  | c :: cs, s =>
    match exec c s with
    | .next t => runAll cs t
    | r => r

end Sys2Proof.Machine
end

