-- ==== Sys2Proof/Certificates/Slice0/Obligations.lean ====
section
/-! DEFINITION. The statements for the provers. -/

open Sys2Proof Sys2Proof.Machine

/-! ### The queue, the clock and the stops -/

/-- The command at the front of the queue is the one a step runs, with the rest of the queue waiting. -/
def Obligations.StepRunsFrontCommand : Prop :=
  ∀ (s : State) (c : Instr) (rest : List Instr), step { s with pending := c :: rest } = exec c { s with pending := rest }

/-- The model's choice (log entry 3): a step on an empty queue is one cycle of the counter clock. While the module runs the counter
goes on by 0, 1 or 2, and the phase of the slew with it (R395), and PWR_CORE_ACTIVE_NS of the cores that are ON (R37); without power
or in reset nothing changes. -/
def Obligations.EmptyQueueStepTicks : Prop :=
  ∀ s : State, s.pending = [] →
    (s.dev.awake = true → s.dev.enable = none → ∃ t : State, step s = .next t ∧ t.pending = [] ∧
      t.dev.now = s.dev.now + wordOf (s.dev.counterStep).1 ∧
      t.dev.time = { s.dev.time with phase := (s.dev.counterStep).2 } ∧
      { t.dev with now := s.dev.now, time := s.dev.time, regs := s.dev.regs, out := s.dev.out } = s.dev ∧
      ∀ r : Reg, (∀ c, c < 256 → r.offset ≠ (Reg.pwrCoreActiveNs c).offset) → t.dev.reg r = s.dev.reg r) ∧
    (s.dev.awake = false → step s = .next s.quiet)

/-- No command ends in a fault or a refusal: each goes on to a next state and leaves the queue alone, an event that is not enabled and an
access that R8 does not allow with no effect (the model's choices, log entries 1 and 12). What each command does is stated family by
family below. -/
def Obligations.EveryCommandGoesOn : Prop :=
  ∀ (c : Instr) (s : State), ∃ t : State, exec c s = .next t ∧ t.pending = s.pending

/-- Commands that wait are run first in, first out: as many steps as there are commands do to the device what the commands do one
after the other, and leave an empty queue. -/
def Obligations.QueueRunsInOrder : Prop :=
  ∀ (cs : List Instr) (s : State),
    ∃ t : State, runAll cs { s with pending := [] } = .next t ∧ t.pending = [] ∧
      Host.Core.run Sys2Proof.core cs.length { s with pending := cs } = .next t

/-- An invariant that every step keeps (R452; the model's reading, log entry 1): a module without power stays without power, memory,
registers and work, and never stops, whatever waits to be run but POWER_ON. -/
def Obligations.UnpoweredModuleStays : Prop :=
  ∀ s : State, s.unpowered → ∃ t : State, step s = .next t ∧ t.unpowered ∧ t.dev.hostMem = s.dev.hostMem ∧
    t.pending = s.pending.tail

/-- The module before power is applied, and the module after POWER_OFF, is such a module; so is none after POWER_ON (R451, R452). -/
def Obligations.PowerOffHoldsNothing : Prop :=
  State.reset.unpowered ∧
  (∀ s : State, (∀ c ∈ s.pending, c ≠ .powerOn) → ∃ t : State, exec .powerOff s = .next t ∧ t.unpowered) ∧
  (∀ (s t : State), exec .powerOn s = .next t → t.dev.pins.powered = true ∧ ¬ t.unpowered)

/-- The model's reading (log entry 1): while PERST# is asserted or a lost rail holds the module in reset, only power, PERST# and
the analog temperature sensor change anything. -/
def Obligations.HeldInResetNothingComes : Prop :=
  ∀ (c : Instr) (s : State), s.dev.awake = false → (c ∉ [.powerOn, .powerOff, .perstRelease, .perstAssert, .thermtripAnalog]) → exec c s = .next s.quiet

/-- R451, R421, R452, R457: power-on raises the rails with PERST# asserted and everything at its value after reset but SEC_NONCE; the
release of PERST# starts Snowdrop with the machine counter at zero; PERST# clears memory and registers in a device reset, whose records join
those that the history buffer keeps; power-off
loses memory; the analog sensor drives THERMTRIP_N low, and it stays low. -/
def Obligations.PowerAndResetPins : Prop :=
  (∀ s : State, s.dev.pins.powered = false → ∃ t : State, exec .powerOn s = .next t ∧ t.pending = s.pending ∧
    t.dev.pins = { powered := true } ∧ t.dev.boot.cold = true ∧ t.dev.mem = [] ∧ t.dev.side = [] ∧
    t.dev.flash = s.dev.flash.interrupted ∧
    (∀ r : Reg, r.inRange = true → r.offset ∉ (List.range 4).map (fun q => (Reg.secNonce q).offset) →
      t.dev.reg r = r.resetValue)) ∧
  (∀ s : State, s.dev.pins.powered = true → s.dev.pins.perst = true → s.dev.pins.thermtrip = false →
    s.dev.boot.pushFirst = false →
    ∃ t : State, exec .perstRelease s = .next t ∧ t.pending = s.pending ∧ t.dev.awake = true ∧ t.dev.inStage 1 = true ∧
      t.dev.now = 0 ∧ t.dev.fld (.bootReportA 0) Fd.bootReportAResult = 1 ∧ t.dev.mem = s.dev.mem) ∧
  (∀ s : State, s.dev.pins.powered = true → s.dev.pins.perst = false →
    ∃ t : State, exec .perstAssert s = .next t ∧ t.pending = s.pending ∧ t.dev.awake = false ∧ t.dev.mem = [] ∧ t.dev.side = [] ∧
      t.dev.queues = [] ∧ (∃ l : List HistRec, t.dev.hist = (l ++ s.dev.hist).take 256) ∧ t.dev.boot.cold = false ∧
      (∀ r : Reg, r.inRange = true →
        r.offset ∉ ([Reg.bootCtrl, .mgtStageList, .mgtStageCtrl, .mgtStatus, .rasStatus] ++ (List.range 7).map Reg.rasClassCount ++
          (List.range 4).map Reg.secNonce).map Reg.offset →
        t.dev.reg r = r.resetValue) ∧
      t.dev.fld .bootCtrl Fd.bootCtrlNextPush = s.dev.fld .bootCtrl Fd.bootCtrlNextPush) ∧
  (∀ s : State, ∃ t : State, exec .powerOff s = .next t ∧ t.pending = s.pending ∧ t.dev.pins = {} ∧ t.dev.mem = [] ∧ t.dev.regs = [] ∧
    t.dev.flash = s.dev.flash.interrupted) ∧
  (∀ s : State, s.dev.pins.powered = true →
    exec .thermtripAnalog s = .next { s with dev := { s.dev with pins := { s.dev.pins with thermtrip := true }, out := [] } })

/-! ### Bring-up -/

/-- R55, R59, R61, R64, R67, R68, R70, R72, R212: the stages of bring-up pass in order, each to the next or, where HOLD_BEFORE names it,
to HELD. Snowdrop with all 15 power stages good starts Primrose, which waits for a push where a reset was made for one; Primrose runs an
image of flash that verifies; a memory interface trains; Cowslip with all 32 trained shows the grade at which every LPDDR6 device
trained; Campion writes the rows it repaired to the field repair record and leaves memory reading zero. -/
def Obligations.BringUpStagesPass : Prop :=
  (∀ (s : State) (good : Nat), s.bringUp 1 = true → good % 32768 = 32767 →
    ∃ t : State, exec (.snowdrop good true) s = .next t ∧ t.pending = s.pending ∧ t.running = true ∧ t.dev.stage = 2 ∧
      (s.dev.boot.pushFirst = false → t.bringUp 2 = true) ∧ (s.dev.boot.pushFirst = true → t.dev.waitsPush = true) ∧
      t.dev.fld (.bootReportA 0) Fd.bootReportAResult = 2 ∧ t.dev.reg (.bootReportD 0) = wordOf 32767 ∧
      t.dev.flash = s.dev.flash ∧ t.dev.mem = s.dev.mem) ∧
  (∀ s : State, s.bringUp 2 = true → s.dev.flash.dirOk = true → s.dev.flash.image.sigOk = true → s.dev.flash.image.digestOk = true →
    s.dev.flash.image.stepping = 0xA1 → s.dev.flash.image.length ≤ 67108864 → Config.romFloor.toNat ≤ imageMajor s.dev.flash.image →
    ∃ t : State, exec .primrose s = .next t ∧ t.pending = s.pending ∧ s.passed t 2 ∧
      t.dev.boot.running = some s.dev.flash.image ∧ t.dev.boot.pushed = false ∧ t.dev.flash = s.dev.flash ∧ t.dev.mem = s.dev.mem) ∧
  (∀ (s : State) (i : Nat), s.bringUp 4 = true → i < 32 →
    exec (.memInterfaceTrained i) s = .next { s with dev := { s.dev with
      boot := { s.dev.boot with memTrained := s.dev.boot.memTrained ||| 1 <<< i }, out := [] } }) ∧
  (∀ (s : State) (grades : Nat), s.bringUp 4 = true → s.dev.boot.memTrained % 4294967296 = 4294967295 →
    ∃ t : State, exec (.cowslip grades) s = .next t ∧ t.pending = s.pending ∧ s.passed t 4 ∧ t.dev.mem = s.dev.mem ∧
      let shown := t.dev.fld .memCap Fd.memCapFarMts
      shown ∈ farGrades ∧ (∀ k, k < 16 → shown ≤ farGrades.getD (min 2 (bitsOf grades (2 * k + 1) (2 * k))) 0) ∧
      (shown = 14400 ∨ ∃ k, k < 16 ∧ shown = farGrades.getD (bitsOf grades (2 * k + 1) (2 * k)) 0)) ∧
  (∀ (s : State) (rows : List Repair), s.bringUp 5 = true →
    ∃ (t : State) (sig : List Byte), exec (.campion rows true) s = .next t ∧ t.pending = s.pending ∧ s.passed t 5 ∧
      t.dev.mem = [] ∧ t.dev.side = [] ∧ t.dev.boot.field = s.dev.boot.field ++ (s.dev.boot.newRepairs ++ rows) ∧
      t.dev.flash.field = fieldBytes ((s.dev.boot.map.map (·.serial)).getD 0) (t.dev.boot.field.take 1024) ++ sig ∧ sig.length = 132 ∧
      t.dev.flash.fieldSig = true) ∧
  (∀ s : State, s.bringUp 6 = true →
    ∃ t : State, exec .yarrow s = .next t ∧ t.pending = s.pending ∧ s.passed t 6 ∧ t.dev.mem = s.dev.mem ∧
      (s.dev.boot.newRepairs = [] → t.dev.flash = s.dev.flash))

/-- R57: halting failures leave bring-up HALTED with their code, and a fault of the image in flash leaves it in WAIT_PUSH: power
stages (0x0111), the reference (0x0112), the self-test (0x0134), the defect map (0x0131), memory training (0x0141), repair
(0x0151), the image's signature (0x0122), and a bound exceeded (0x0113 in Snowdrop, 0x0125 in Primrose). -/
def Obligations.BringUpFailures : Prop :=
  let halts := fun (c : Instr) (s : State) (k code : Nat) => ∃ t : State, exec c s = .next t ∧ t.pending = s.pending ∧
    t.dev.fld .bootStatus Fd.bootStatusState = 2 ∧ t.dev.fld .bootStatus Fd.bootStatusFailCode = code ∧ t.dev.stage = k ∧
    t.dev.mem = s.dev.mem ∧ t.dev.flash = s.dev.flash
  (∀ (s : State) (good : Nat) (refOk : Bool), s.bringUp 1 = true → good % 32768 ≠ 32767 → halts (.snowdrop good refOk) s 1 0x0111) ∧
  (∀ (s : State) (good : Nat), s.bringUp 1 = true → good % 32768 = 32767 → halts (.snowdrop good false) s 1 0x0112) ∧
  (∀ (s : State) (cold : Bool), s.bringUp 3 = true → halts (.celandine false cold) s 3 0x0134) ∧
  (∀ (s : State) (cold : Bool), s.bringUp 3 = true → s.dev.flash.mapSig = false → halts (.celandine true cold) s 3 0x0131) ∧
  (∀ (s : State) (grades : Nat), s.bringUp 4 = true → s.dev.boot.memTrained % 4294967296 ≠ 4294967295 → halts (.cowslip grades) s 4 0x0141) ∧
  (∀ (s : State) (rows : List Repair), s.bringUp 5 = true → halts (.campion rows false) s 5 0x0151) ∧
  (∀ s : State, s.bringUp 1 = true → halts .stageTimeout s 1 0x0113) ∧
  (∀ s : State, s.bringUp 2 = true → s.dev.flash.dirOk = true → s.dev.flash.image.sigOk = false →
    ∃ t : State, exec .primrose s = .next t ∧ t.pending = s.pending ∧ t.dev.waitsPush = true ∧
      t.dev.fld .bootStatus Fd.bootStatusFailCode = 0x0122 ∧ s.dev.sameButRegs t.dev) ∧
  (∀ s : State, s.bringUp 2 = true →
    ∃ t : State, exec .stageTimeout s = .next t ∧ t.pending = s.pending ∧ t.dev.waitsPush = true ∧
      t.dev.fld .bootStatus Fd.bootStatusFailCode = 0x0125 ∧ s.dev.sameButRegs t.dev)

/-- R65 to R67, R39, R75: Celandine with a defect map that is signed, whole, for this part and consistent passes, to Cowslip or to HELD
before it: the power manager runs, the map is in force, the alias key is valid and the serial number of the map is shown. With a field
repair record that passes its checks the report is passed and its entries are in force; with one that does not the report is degraded,
with 0x0133, and none is. -/
def Obligations.CelandinePasses : Prop :=
  ∀ (s : State) (cold : Bool), s.bringUp 3 = true →
    let m := parseMap s.dev.flash.map
    let r := parseField s.dev.flash.field
    s.dev.flash.mapSig = true → m.whole = true → m.serial = s.dev.flash.idSerial → m.stepping = 0xA1 → mapConsistent m = true →
    ∃ t : State, exec (.celandine true cold) s = .next t ∧ t.pending = s.pending ∧ s.passed t 3 ∧ t.dev.managed = true ∧
      t.dev.boot.map = some m ∧ t.dev.mem = s.dev.mem ∧ t.dev.fld .secStatus Fd.secStatusAliasValid = 1 ∧
      t.dev.reg .glbSerialLo = serialWord m.serial 0 ∧ t.dev.reg .glbSerialHi = serialWord m.serial 8 ∧
      (s.dev.boot.policyWritten = none → t.dev.flash = s.dev.flash) ∧
      (fieldValid m s.dev.flash.fieldSig r = true → t.dev.fld (.bootReportA 2) Fd.bootReportAResult = 2 ∧ t.dev.boot.field = r.repairs) ∧
      (fieldValid m s.dev.flash.fieldSig r = false → t.dev.fld (.bootReportA 2) Fd.bootReportAResult = 3 ∧
        t.dev.fld (.bootReportA 2) Fd.bootReportAFailCode = 0x0133 ∧ t.dev.boot.field = [])

/-- R73: Teasel brings the module to READY, whatever the time exchanges and the parent bring: the chip number of the board record is valid, the
partitions of the board's layout are formed and ACTIVE, and every logical cluster has its partition. -/
def Obligations.TeaselReachesReady : Prop :=
  ∀ (s : State) (exchanges : List Exchange) (level : Option Nat) (ready : List Nat), s.bringUp 7 = true →
    ∃ t : State, exec (.teasel exchanges level ready) s = .next t ∧ t.pending = s.pending ∧ t.dev.ready = true ∧
      t.dev.fld .glbChip Fd.glbChipValid = 1 ∧ t.dev.chip = ofLeBytes ((s.dev.boot.board.drop 12).take 2) % 16384 ∧
      t.dev.layout = boardLayout s.dev.boot.board ∧
      (∀ p, p < boardParts s.dev.boot.board → p < 8 → t.dev.formed p = true ∧ t.dev.ctxState p = 1) ∧
      t.dev.mem = s.dev.mem ∧ t.dev.flash = s.dev.flash

/-- R62 to R64, R70, R75: a write of BOOT_CTRL with HOLD_BEFORE 0 releases a held bring-up; GO starts a push that WAIT_PUSH accepts, and
any other GO is ignored with RESULT 8; the pushed image runs where it passes, and bring-up waits on where it does not; after READY it is
written to flash, and the write ends with flash holding it; BOOT_POLICY goes to flash, at once or once Celandine has read it. -/
def Obligations.PushAndPolicy : Prop :=
  (∀ (s : State) (w : Word), s.answering = true → s.dev.fld .bootStatus Fd.bootStatusState = 4 → s.dev.pins.thermHold = false →
    s.dev.stage ≤ 6 → fieldOf w 3 0 = 0 →
    ∃ t : State, exec (.bootHoldRelease w) s = .next t ∧ t.pending = s.pending ∧ t.bringUp (s.dev.stage + 1) = true ∧
      t.dev.fld .bootCtrl Fd.bootCtrlHoldBefore = 0 ∧ t.dev.fld .bootCtrl Fd.bootCtrlNextPush = fieldOf w 8 8 ∧ t.dev.mem = s.dev.mem) ∧
  (∀ (s : State) (w : Word), s.answering = true → bitOf w.toNat 0 = true →
    (s.dev.waitsPush = true → s.dev.boot.pushing = false →
      1 ≤ s.dev.fld .bootPushList Fd.bootPushListEntries → s.dev.fld .bootPushList Fd.bootPushListEntries ≤ 1024 →
      1 ≤ fieldOf w 63 32 → fieldOf w 63 32 ≤ 65536 * s.dev.fld .bootPushList Fd.bootPushListEntries →
      ∃ t : State, exec (.bootPushGo w) s = .next t ∧ t.pending = s.pending ∧ t.dev.boot.pushing = true ∧
        t.dev.boot.pushes = s.dev.boot.pushes + 1 ∧ t.dev.fld .bootPushCtrl Fd.bootPushCtrlResult = 1 ∧
        t.dev.fld .bootPushCtrl Fd.bootPushCtrlLength = fieldOf w 63 32 ∧ t.dev.flash = s.dev.flash ∧ t.dev.mem = s.dev.mem) ∧
    (s.dev.waitsPush = false ∨ s.dev.boot.pushing = true →
      ∃ t : State, exec (.bootPushGo w) s = .next t ∧ t.pending = s.pending ∧ t.dev.fld .bootPushCtrl Fd.bootPushCtrlResult = 8 ∧
        t.dev.boot = s.dev.boot ∧ t.dev.flash = s.dev.flash ∧ t.dev.mem = s.dev.mem ∧ s.dev.sameRegs t.dev [.bootPushCtrl])) ∧
  (∀ (s : State) (i : Image) (readError : Bool), s.running = true → s.dev.waitsPush = true → s.dev.boot.pushing = true → s.dev.stage = 2 →
    s.dev.pins.thermHold = false →
    (pushResult readError i = 2 → ∃ t : State, exec (.bootPushComplete i readError) s = .next t ∧ t.pending = s.pending ∧ s.passed t 2 ∧
      t.dev.boot.running = some i ∧ t.dev.boot.pushed = true ∧ t.dev.boot.pushing = false ∧ t.dev.flash = s.dev.flash) ∧
    (pushResult readError i ≠ 2 → ∃ t : State, exec (.bootPushComplete i readError) s = .next t ∧ t.pending = s.pending ∧
      t.dev.waitsPush = true ∧ t.dev.boot.pushing = false ∧ t.dev.boot.running = s.dev.boot.running ∧ t.dev.flash = s.dev.flash)) ∧
  (∀ s : State, s.inService = true → s.dev.boot.pushed = true → s.dev.flash.writing = false →
    ∃ t : State, exec .imageFlashWrite s = .next t ∧ t.pending = s.pending ∧ t.dev.flash = { s.dev.flash with writing := true } ∧
      t.dev.fld .bootImage Fd.bootImageFlashWriteBusy = 1 ∧ t.dev.boot = s.dev.boot ∧ t.dev.mem = s.dev.mem) ∧
  (∀ (s : State) (i : Image), s.running = true → s.dev.halted = false → s.dev.flash.writing = true → s.dev.boot.running = some i →
    ∃ t : State, exec .imageFlashWriteComplete s = .next t ∧ t.pending = s.pending ∧ t.dev.flash.image = i ∧
      t.dev.flash.writing = false ∧ t.dev.flash.policy = s.dev.flash.policyWaiting.getD s.dev.flash.policy ∧
      t.dev.flash.map = s.dev.flash.map ∧ t.dev.fld .bootImage Fd.bootImageFlashWriteBusy = 0 ∧
      t.dev.fld .bootImage Fd.bootImageFlashSynced = 1 ∧ t.dev.boot.pushed = false ∧ t.dev.mem = s.dev.mem) ∧
  (∀ (s : State) (w : Word), s.answering = true → s.dev.halted = false →
    ∃ t : State, exec (.bootPolicyWrite w) s = .next t ∧ t.pending = s.pending ∧ t.dev.reg .bootPolicy = wordOf (fieldOf w 3 0) ∧
      s.dev.sameRegs t.dev [.bootPolicy] ∧ t.dev.mem = s.dev.mem ∧
      (s.dev.boot.map = none → t.dev.flash = s.dev.flash ∧ t.dev.boot = { s.dev.boot with policyWritten := some (fieldOf w 3 0) }) ∧
      (s.dev.boot.map.isSome = true → t.dev.boot = s.dev.boot ∧ t.dev.flash = (if s.dev.flash.writing = true then
        { s.dev.flash with policyWaiting := some (fieldOf w 3 0) } else { s.dev.flash with policy := fieldOf w 3 0 })))

/-! ### The life of a command -/

/-- R99, R126, R100: NOP and SYNC only wait and signal: their work ends with STATUS 0 and changes nothing else. HOST_SIGNAL writes its
word, or with SRC_VALUE its object's value, to host memory, then raises its vector where RAISE is set. A command whose work has ended is
DONE with its STATUS at COMMAND_COMPLETE, and its ready-list entries are returned; one with a flow item is ruled out here, and one
whose STATUS stops its ring. -/
def Obligations.ControlCommandsComplete : Prop :=
  ∀ (s : State) (p q idx : Nat) (c : Cmd), s.inService = true →
    (s.dev.runningCmd p q idx 0x00 = some c → exec (.nop p q idx) s = .next (s.after fun d => d.updCmd p q idx fun x => x.ended 0 0)) ∧
    (s.dev.runningCmd p q idx 0x01 = some c → exec (.sync p q idx) s = .next (s.after fun d => d.updCmd p q idx fun x => x.ended 0 0)) ∧
    (∀ v : Word, s.dev.runningCmd p q idx 0x02 = some c →
      (v = c.desc.q5 ∧ bitOf c.desc.q6.toNat 63 = false ∨ bitOf c.desc.q6.toNat 63 = true ∧
        ∃ n, s.dev.syncOf p (fieldOf c.desc.q6 16 0) = some n ∧ v = (s.dev.obj n).value) →
      (bitOf c.desc.q6.toNat 62 = false → exec (.hostSignal p q idx) s = .next (s.after fun d =>
        (d.hostWriteWord (fieldOf c.desc.q4 63 3 * 8) v).updCmd p q idx fun x => x.ended 0 0)) ∧
      (bitOf c.desc.q6.toNat 62 = true → exec (.hostSignal p q idx) s = .next (s.after fun d =>
        ((d.hostWriteWord (fieldOf c.desc.q4 63 3 * 8) v).raise (s.dev.ownerOf p) (fieldOf c.desc.q6 39 32)).updCmd p q idx
          fun x => x.ended 0 0))) ∧
    (s.dev.cmd? p q idx = some c → c.st = .running → s.dev.frozen p = false → c.worked = true → c.item = false →
      opcodeOf c.desc ∉ [0x10, 0x11, 0x12] →
      (c.status ≠ 3 ∧ c.status ≠ 5 ∨ s.dev.flag (.cmdQCfg p q) Fd.cmdQCfgStopOnTimeout = false) →
      ∃ t : State, exec (.commandComplete p q idx) s = .next t ∧ t.pending = s.pending ∧
        t.dev.cmd? p q idx = some { c with st := .done, parked := none } ∧
        (∀ die, die < 4 → t.dev.readyOf die = (s.dev.readyOf die).filter fun e => !(e.part == p && e.queue == q && e.idx == idx)) ∧
        t.dev.mem = s.dev.mem ∧ t.dev.hostMem = s.dev.hostMem ∧ t.dev.cores = s.dev.cores ∧ t.dev.objs = s.dev.objs ∧
        s.dev.sameRegs t.dev [.cmdQStatus p q])

/-- R100, R101, R123, R129: a CONTROL command with no wait starts where the commands before it have left WAITING and, with FENCE, have
retired; one whose wait timeout expires while a condition still holds it is DONE with STATUS 0x03, counted in TIMEOUTS; a free engine is always
granted where an entry of its class waits: the oldest entry, for its partition, of the highest level; an entry that has waited AGE_US
moves up one level. -/
def Obligations.CommandsStartAndAge : Prop :=
  (∀ (s : State) (p q : Nat) (c : Cmd), p < 8 → q < 64 → s.inService = true → s.dev.waitingCmd p q = some c → c.skip = none → opcodeOf c.desc ≤ 2 →
    waitOpOf c.desc = 0 → s.dev.ctxState p = 1 → s.dev.cmd? p q c.idx = some c → ((s.dev.earlier p q c.idx).all Cmd.left) = true →
    (fenceOf c.desc = true → ((s.dev.earlier p q c.idx).all fun b => b.st == .retired) = true) →
    ∃ t : State, exec (.commandStart p q) s = .next t ∧ t.pending = s.pending ∧
      t.dev.cmd? p q c.idx = some { c with st := .running, item := false, stall := 0, gen := (s.dev.part p).gen, stepNo := s.dev.curStep p } ∧
      t.dev.mem = s.dev.mem ∧ t.dev.cores = s.dev.cores ∧ t.dev.readyLists = s.dev.readyLists) ∧
  (∀ (s : State) (p q : Nat) (c : Cmd), s.inService = true → s.dev.waitingCmd p q = some c → c.skip = none → s.dev.frozen p = false →
    s.dev.cmd? p q c.idx = some c → s.dev.startFate p q c = .stays → s.dev.flag (.cmdQCfg p q) Fd.cmdQCfgStopOnTimeout = false → p < 8 → q < 64 →
    ∃ t : State, exec (.commandTimeout p q) s = .next t ∧ t.pending = s.pending ∧
      t.dev.cmd? p q c.idx = some { c with st := .done, status := 3, skip := none } ∧
      t.dev.fld (.cmdPartStatus p) Fd.cmdPartStatusTimeouts =
        satAdd Fd.cmdPartStatusTimeouts.width (s.dev.fld (.cmdPartStatus p) Fd.cmdPartStatusTimeouts) 1 ∧
      t.dev.mem = s.dev.mem ∧ t.dev.cores = s.dev.cores ∧ t.dev.readyLists = s.dev.readyLists) ∧
  (∀ (s : State) (die k : Nat), s.inService = true → s.dev.engineFree die k = true → s.dev.waitingEntries die k ≠ [] →
    (∀ e ∈ s.dev.waitingEntries die k, e.part < 8) →
    ∃ (t : State) (e : ReadyEntry), exec (.readyGrant die k) s = .next t ∧ t.pending = s.pending ∧ e ∈ s.dev.waitingEntries die k ∧
      (∀ x ∈ s.dev.waitingEntries die k, e.level ≤ x.level) ∧
      (∀ x ∈ s.dev.waitingEntries die k, x.part = e.part → x.level = e.level → e.since ≤ x.since) ∧
      t.dev.readyOf die = (s.dev.readyOf die).map (fun x => if x = e then { x with granted := true } else x) ∧
      t.dev.mem = s.dev.mem ∧ t.dev.queues = s.dev.queues ∧ t.dev.cores = s.dev.cores ∧ t.dev.regs = s.dev.regs) ∧
  (∀ (s : State) (die p q idx : Nat), s.inService = true →
    exec (.readyAge die p q idx) s = .next (s.after fun d => d.setReady die ((s.dev.readyOf die).map fun e =>
      if e.part = p ∧ e.queue = q ∧ e.idx = idx ∧ e.granted = false then { e with level := e.level - 1 } else e)))

/-- R101, R119, R102: the first command of a queue that has not retired retires once it is DONE: RETIRE_INDEX goes past it; with
SIGNAL_OP 1 its object rises by SIGNAL_AMOUNT within its bound, where nothing waits on it, and SYN_DBG_LAST_SRC names the queue; without
COMPLETE it leaves no record and is no longer outstanding. -/
def Obligations.CommandsRetireInOrder : Prop :=
  ∀ (s : State) (p q : Nat) (c : Cmd), s.inService = true → s.dev.retirable p q = some c → p < 8 → q < 64 → c.status = 0 →
    completeOf c.desc = false →
    (signalOpOf c.desc = 0 → ∃ t : State, exec (.commandRetire p q) s = .next t ∧ t.pending = s.pending ∧
      t.dev.fld (.cmdQStatus p q) Fd.cmdQStatusRetireIndex = (c.idx + 1) % 4294967296 ∧ t.dev.cmd? p q c.idx = none ∧
      t.dev.hostMem = s.dev.hostMem ∧ t.dev.objs = s.dev.objs ∧ t.dev.mem = s.dev.mem ∧ t.dev.cores = s.dev.cores) ∧
    (∀ n, signalOpOf c.desc = 1 → s.dev.syncOf p (signalSyncOf c.desc) = some n → (s.dev.obj n).waiters = [] →
      (s.dev.obj n).value.toNat + signalAmountOf c.desc ≤ s.dev.objBound n →
      ∃ t : State, exec (.commandRetire p q) s = .next t ∧ t.pending = s.pending ∧
        t.dev.fld (.cmdQStatus p q) Fd.cmdQStatusRetireIndex = (c.idx + 1) % 4294967296 ∧ t.dev.cmd? p q c.idx = none ∧
        t.dev.obj n = { s.dev.obj n with
          value := wordOf ((s.dev.obj n).value.toNat + signalAmountOf c.desc), lastSrc := sourceWord s.dev.chip p 1 q, lastIndex := c.idx } ∧
        (∀ m, m ≠ n → t.dev.obj m = s.dev.obj m) ∧ t.dev.hostMem = s.dev.hostMem ∧ t.dev.mem = s.dev.mem)

/-! ### Cores and their programs -/

/-- R105 to R108, R111, R112: SET, ADD, LOOP and BRANCH at a core that can run them change that core alone. SET and ADD write a scalar
register and go on to the next word; at the last word of a loop that has iterations left they go on at its first word and end the
block. LOOP reads its count once and enters its body; with a count of zero it goes on past it. BRANCH ends its block: taken, it goes
to its target, and the loops whose bodies it leaves end. -/
def Obligations.SequencerMovesOn : Prop :=
  ∀ (s : State) (c : Nat) (k : Core) (w : Word), s.inService = true → k = s.dev.core c → w = s.dev.coreWord c →
    (s.dev.atControl c 0x05 = true → k.loops = [] → k.pc % 512 ≠ 511 →
      ∃ t : State, exec (.set c) s = .next t ∧ t.pending = s.pending ∧ s.dev.onlyCore t.dev c ∧
        t.dev.core c = { k.entered.setSreg (fieldOf w 55 52) (signExt 32 (fieldOf w 31 0)) with pc := k.pc + 1 }) ∧
    (s.dev.atControl c 0x06 = true → k.loops = [] → k.pc % 512 ≠ 511 →
      ∃ t : State, exec (.add c) s = .next t ∧ t.pending = s.pending ∧ s.dev.onlyCore t.dev c ∧
        t.dev.core c = { k.entered.setSreg (fieldOf w 55 52) (k.sreg (fieldOf w 51 48) + signExt 32 (fieldOf w 31 0)) with
          pc := k.pc + 1 }) ∧
    (∀ (f : LoopFrame) (fs : List LoopFrame), s.dev.atControl c 0x05 = true → k.loops = f :: fs → k.pc = f.last → 1 < f.left →
      f.first ≠ 8192 → k.lapsed = none → k.st = .running →
      ∃ t : State, exec (.set c) s = .next t ∧ t.pending = s.pending ∧ s.dev.onlyCore t.dev c ∧
        t.dev.core c = { k.setSreg (fieldOf w 55 52) (signExt 32 (fieldOf w 31 0)) with
          pc := f.first, loops := { f with left := f.left - 1 } :: fs, lease := none }) ∧
    (s.dev.atControl c 0x03 = true → k.loops.length < 4 → (∀ f ∈ k.loops, k.pc + fieldOf w 41 32 ≤ f.last) → k.lapsed = none → k.st = .running →
      fieldOf (k.sreg (fieldOf w 55 52)) 63 32 = 0 →
      regionOf (k.pc + fieldOf w 41 32) = regionOf k.pc → (k.sreg (fieldOf w 55 52)).toNat ≠ 0 →
      ∃ t : State, exec (.loop c) s = .next t ∧ t.pending = s.pending ∧ s.dev.onlyCore t.dev c ∧
        t.dev.core c = { k with pc := k.pc + 1, lease := none, loops :=
          { first := k.pc + 1, last := k.pc + fieldOf w 41 32, left := (k.sreg (fieldOf w 55 52)).toNat } :: k.loops }) ∧
    (s.dev.atControl c 0x03 = true → k.loops = [] → regionOf (k.pc + fieldOf w 41 32) = regionOf k.pc →
      k.sreg (fieldOf w 55 52) = 0 → (k.pc + fieldOf w 41 32) % 512 ≠ 511 →
      ∃ t : State, exec (.loop c) s = .next t ∧ t.pending = s.pending ∧ s.dev.onlyCore t.dev c ∧
        t.dev.core c = { k.entered with pc := k.pc + fieldOf w 41 32 + 1 }) ∧
    (s.dev.atControl c 0x04 = true → k.lapsed = none → k.st = .running → branchTaken (fieldOf w 51 48) (k.sreg (fieldOf w 55 52)) = true →
      ∃ t : State, exec (.branch c) s = .next t ∧ t.pending = s.pending ∧ s.dev.onlyCore t.dev c ∧
        t.dev.core c = { k with
          pc := fieldOf w 12 0, lease := none, loops := k.loops.dropWhile fun f => !(decide (f.first ≤ fieldOf w 12 0) && decide (fieldOf w 12 0 ≤ f.last)) }) ∧
    (s.dev.atControl c 0x04 = true → k.lapsed = none → k.st = .running → k.loops = [] → k.pc ≠ 8191 →
      branchTaken (fieldOf w 51 48) (k.sreg (fieldOf w 55 52)) = false →
      ∃ t : State, exec (.branch c) s = .next t ∧ t.pending = s.pending ∧ s.dev.onlyCore t.dev c ∧
        t.dev.core c = { k with pc := k.pc + 1, lease := none })

/-- R106, R107, R118, R119, R122, R124, R134: WAIT whose condition holds goes on and ends its block; one whose condition does not hold
makes the core WAITING, with a waiter on the object. SIGNAL adds to its object within the bound. A polling waiter whose condition holds is
released; a core whose WAIT times out with its condition unmet leaves its program; a flow whose head item stays incomplete is STALLED. -/
def Obligations.CoresWaitAndSignal : Prop :=
  ∀ s : State, s.inService = true →
    (∀ (c n : Nat) (k : Core) (w v : Word), k = s.dev.core c → w = s.dev.coreWord c → s.dev.atControl c 0x01 = true → k.loops = [] →
      k.pc ≠ 8191 → k.lapsed = none → k.st = .running → fieldOf w 19 17 = 1 → s.dev.syncOf (s.dev.corePart c) (fieldOf w 16 0) = some n →
      (s.dev.obj n).waiters = [] → v = k.sreg (fieldOf w 55 52) →
      (v.toNat ≤ (s.dev.obj n).value.toNat → ∃ t : State, exec (.wait c) s = .next t ∧ t.pending = s.pending ∧
        s.dev.onlyCore t.dev c ∧ t.dev.core c = { k with pc := k.pc + 1, lease := none }) ∧
      ((s.dev.obj n).value.toNat < v.toNat → ∃ (t : State) (polls : Bool), exec (.wait c) s = .next t ∧ t.pending = s.pending ∧
        t.dev.core c = { k with st := .waiting, lease := none } ∧ t.dev.obj n = { s.dev.obj n with waiters :=
          [{ isCore := true, part := s.dev.corePart c, who := c, index := k.pc, op := 1, value := v, polling := polls }] } ∧
        polls = !s.dev.waiterFree (s.dev.corePart c) (objDie n) ∧ t.dev.mem = s.dev.mem ∧ t.dev.queues = s.dev.queues)) ∧
    (∀ (c n : Nat) (k : Core) (w : Word), k = s.dev.core c → w = s.dev.coreWord c → s.dev.atControl c 0x02 = true → k.loops = [] →
      k.pc % 512 ≠ 511 → fieldOf w 19 17 = 1 → s.dev.syncOf (s.dev.corePart c) (fieldOf w 16 0) = some n → (s.dev.obj n).waiters = [] →
      (s.dev.obj n).value.toNat + (k.sreg (fieldOf w 55 52)).toNat ≤ s.dev.objBound n →
      ∃ t : State, exec (.signal c) s = .next t ∧ t.pending = s.pending ∧ t.dev.core c = { k.entered with pc := k.pc + 1 } ∧
        t.dev.obj n = { s.dev.obj n with
          value := wordOf ((s.dev.obj n).value.toNat + (k.sreg (fieldOf w 55 52)).toNat), lastSrc := sourceWord s.dev.chip (s.dev.corePart c) 2 c, lastIndex := k.pc } ∧
        t.dev.mem = s.dev.mem ∧ t.dev.queues = s.dev.queues ∧ t.dev.regs = s.dev.regs) ∧
    (∀ (n : Nat) (x : Waiter), (s.dev.obj n).waiters = [x] → x.polling = true → x.isCore = true → x.op = 1 →
      x.value.toNat ≤ (s.dev.obj n).value.toNat → (s.dev.core x.who).loops = [] → (s.dev.core x.who).pc % 512 ≠ 511 →
      ∃ t : State, exec (.pollingWaiterRetest n) s = .next t ∧ t.pending = s.pending ∧ (t.dev.obj n).waiters = [] ∧
        (t.dev.obj n).value = (s.dev.obj n).value ∧
        t.dev.core x.who = { s.dev.core x.who with st := .running, pc := (s.dev.core x.who).pc + 1 }) ∧
    (∀ (c n : Nat) (x : Waiter), c < 256 → s.dev.corePart c < 8 → (s.dev.core c).st = .waiting → s.dev.coreWaiter c = some (n, x) →
      waitHolds x.op (s.dev.obj n).value x.value = false → (s.dev.core c).aq = [] → (s.dev.core c).vq = [] → (s.dev.core c).lapsed = none →
      ∃ t : State, exec (.coreWaitTimeout c) s = .next t ∧ t.pending = s.pending ∧ (t.dev.core c).st = .idle ∧ (t.dev.core c).job = none ∧
        (t.dev.core c).loops = [] ∧ t.dev.mem = s.dev.mem ∧
        t.dev.fld (.synPartStatus (s.dev.corePart c)) Fd.synPartStatusCoreWaitTimeouts =
          satAdd Fd.synPartStatusCoreWaitTimeouts.width
            (s.dev.fld (.synPartStatus (s.dev.corePart c)) Fd.synPartStatusCoreWaitTimeouts) 1) ∧
    (∀ p f : Nat, p < 8 → f < 1024 → s.dev.flowState p f = 1 → s.dev.fld (.synFlowCfg p f) Fd.synFlowCfgStallUs ≠ 0 →
      ((s.dev.flow p f).items.any fun i => i.completed && i.seq != s.dev.flowNext p f) = true →
      ((s.dev.flow p f).items.any fun i => i.completed && i.seq == s.dev.flowNext p f) = false →
      ∃ t : State, exec (.flowStall p f) s = .next t ∧ t.pending = s.pending ∧ t.dev.flowState p f = 2 ∧ t.dev.flow p f = s.dev.flow p f ∧
        t.dev.fld (.synPartStatus p) Fd.synPartStatusFlowFaults =
          satAdd Fd.synPartStatusFlowFaults.width (s.dev.fld (.synPartStatus p) Fd.synPartStatusFlowFaults) 1 ∧ t.dev.mem = s.dev.mem)

/-- R109, R110, R114, R116: PROG_LOAD of words that lie in one region writes them into each target core where nothing stands in the way; a
part that has waited on a lease is accepted into the pending program buffer, and one that waits lands once it may. PROG_START starts
the idle cores it has claimed; PROG_STOP makes a RUNNING core STOPPING, to stop at its next block end. CMD_PMEM_DATA writes the word at
CMD_PMEM_ADDR and advances it; under a lease on its region the word waits, and behind one that waits it is held (R116). -/
def Obligations.ProgramsLoadStartStop : Prop :=
  ∀ s : State, s.inService = true →
    (∀ (p q idx : Nat) (c : Cmd) (io : MemIo) (e : Device) (bs : List Byte), s.dev.runningCmd p q idx 0x10 = some c → c.unit = 0 →
      1 ≤ fieldOf c.desc.q5 31 16 → fieldOf c.desc.q5 15 0 % 512 + fieldOf c.desc.q5 31 16 ≤ 512 →
      (s.quiet.dev.withIo io).readDva (s.dev.userOf p c 0) c.desc.q4.toNat (8 * fieldOf c.desc.q5 31 16) = (e, .ok bs) →
      (∀ k ∈ s.dev.targets p c.desc, (s.dev.core k).lease = none ∧ (s.dev.core k).parts = [] ∧ (s.dev.core k).lapsed = none) →
      ∃ t : State, exec (.progLoad p q idx io) s = .next t ∧ t.pending = s.pending ∧ t.dev.cmd? p q idx = some (c.ended 0 0) ∧
        (∀ k, t.dev.core k = if k ∈ s.dev.targets p c.desc then
          (s.dev.core k).land
            { word := fieldOf c.desc.q5 15 0, origin := some (q, idx), data := (List.range (fieldOf c.desc.q5 31 16)).map fun i =>
              wordOf (ofLeBytes ((bs.drop (8 * i)).take 8)) } else s.dev.core k) ∧ t.dev.mem = s.dev.mem) ∧
    (∀ (p q idx : Nat) (c : Cmd), s.dev.runningCmd p q idx 0x11 = some c → c.begun = false →
      ∃ t : State, exec (.progStart p q idx) s = .next t ∧ t.pending = s.pending ∧ t.dev.cmd? p q idx = some { c with begun := true } ∧
        (∀ k, t.dev.core k = if k ∈ s.dev.targets p c.desc ∧ (s.dev.core k).job = some (p, q, idx) ∧ (s.dev.core k).st = .idle then
          (s.dev.core k).start c.desc else s.dev.core k) ∧ t.dev.mem = s.dev.mem ∧ s.dev.sameRegs t.dev [.cmdQStatus p q]) ∧
    (∀ (p q idx : Nat) (c : Cmd), s.dev.runningCmd p q idx 0x12 = some c → (∀ i < 64, ∀ b ∈ s.dev.queue p i, s.dev.waitsFree p i b = false) →
      (∀ k ∈ s.dev.targets p c.desc, (s.dev.core k).st ≠ .waiting ∧ s.dev.stallsOn k = false) →
      ∃ t : State, exec (.progStop p q idx) s = .next t ∧ t.pending = s.pending ∧ t.dev.cmd? p q idx = some { c with begun := true } ∧
        (∀ k, t.dev.core k = if k ∈ s.dev.targets p c.desc ∧ (s.dev.core k).st = .running then
            { s.dev.core k with st := .stopping } else s.dev.core k) ∧ t.dev.mem = s.dev.mem ∧ s.dev.sameRegs t.dev [.cmdQStatus p q]) ∧
    (∀ (w : Word) (c a : Nat) (k : Core), c = s.dev.fld .cmdPmemAddr Fd.cmdPmemAddrCore → a = s.dev.fld .cmdPmemAddr Fd.cmdPmemAddrWord →
      k = s.dev.core c → s.dev.pmemHeld = [] →
      ∃ t : State, exec (.cmdPmemData w) s = .next t ∧ t.pending = s.pending ∧
        t.dev.fld .cmdPmemAddr Fd.cmdPmemAddrWord = (a + 1) % 8192 ∧
        t.dev.fld .cmdPmemAddr Fd.cmdPmemAddrCore = c ∧ s.dev.sameRegs t.dev [.cmdPmemAddr] ∧ t.dev.mem = s.dev.mem ∧
        (∀ x, x ≠ c → t.dev.core x = s.dev.core x) ∧
        (s.dev.pmemWaits = true → t.dev.pmemHeld = [(c, a, w)] ∧ t.dev.core c = k) ∧
        (s.dev.pmemWaits = false → k.lease ≠ some (regionOf a) → (∀ y ∈ k.parts, regionOf y.word ≠ regionOf a) →
          (∀ y, k.lapsed = some y → regionOf y.word ≠ regionOf a) →
          t.dev.core c = k.land { word := a, data := [w], origin := none } ∧ t.dev.pmemHeld = []) ∧
        (s.dev.pmemWaits = false → k.lease = some (regionOf a) →
          t.dev.core c = { k with parts := k.parts ++ [{ word := a, data := [w], origin := none }] } ∧ t.dev.pmemHeld = [])) ∧
    (∀ (c r : Nat) (x : PmemPart), s.dev.pmemHeld = [] → (s.dev.core c).lease = some r → (s.dev.core c).lapsed = none →
      ((s.dev.core c).parts.find? fun x => regionOf x.word == r) = some x →
      ∃ t : State, exec (.leaseLapse c) s = .next t ∧ t.pending = s.pending ∧
        t.dev.core c = { s.dev.core c with lapsed := some x, parts := (s.dev.core c).parts.erase x } ∧
        t.dev.mem = s.dev.mem ∧ t.dev.queues = s.dev.queues ∧ ∀ y, y ≠ c → t.dev.core y = s.dev.core y) ∧
    (∀ (c : Nat) (k : Core) (x : PmemPart), s.dev.pmemHeld = [] → k = s.dev.core c → k.parts = [x] → k.lease ≠ some (regionOf x.word) →
      k.lapsed = none →
      exec (.programWriteLand c) s = .next (s.after fun d => d.setCore c ({ k with parts := [] }.land x)))

/-- R105, R113, R115, R173, R204: HALT, with nothing left in the array and vector queues, ends the program: the core is IDLE and its
command is told. A word that is not legal stops its core in FAULTED, and the program of no other core is touched. -/
def Obligations.CoresHaltAndFault : Prop :=
  ∀ (s : State) (c : Nat) (k : Core), s.inService = true → k = s.dev.core c → k.aq = [] → k.vq = [] → k.lapsed = none → k.st = .running →
    (s.dev.atControl c 0x07 = true → ∃ t : State, exec (.halt c) s = .next t ∧ t.pending = s.pending ∧
      (t.dev.core c).st = .idle ∧ (t.dev.core c).job = none ∧ (t.dev.core c).loops = [] ∧ (t.dev.core c).lease = none ∧
      (t.dev.core c).sregs = k.sregs ∧ (t.dev.core c).pmem = k.pmem ∧ t.dev.mem = s.dev.mem ∧
      (∀ x, x ≠ c → t.dev.core x = s.dev.core x) ∧
      (∀ p q i, k.job = some (p, q, i) → t.dev.cmd? p q i = (s.dev.cmd? p q i).map fun x => x.coreEnded k.rank .halted (k.sreg 1))) ∧
    (s.dev.canRun c = true → wordLegal (s.dev.coreWord c) = false →
      ∃ t : State, exec (.illegalWord c) s = .next t ∧ t.pending = s.pending ∧
      (t.dev.core c).st = .faulted ∧ (t.dev.core c).job = none ∧ (t.dev.core c).pc = k.pc ∧ t.dev.mem = s.dev.mem ∧
      (∀ x, x ≠ c → t.dev.core x = s.dev.core x) ∧
      (∀ p q i, k.job = some (p, q, i) → t.dev.cmd? p q i = (s.dev.cmd? p q i).map fun x => x.coreEnded k.rank .faulted (k.sreg 1)))

/-! ### Ports and flits -/

/-- R69, R72, R348, R353: the lanes of a port in training lock; with all eight data lanes served it is TRAINED, and sends PARAM. Where one does not lock in time the repair lane takes it; where more do not, or the repair lane is taken, the port has
FAILED. The counts of a qualification window wait for those of the other end; two windows' counts that pass make the port READY, and a
first window that does not is followed by a retrain. A retraining port whose check window has no errors after FEC is READY and resends;
one that does not come back in time has FAILED.
R349 to R353: a control flit begins a frame: idle flits fill the one before, it tells the peer which flit is expected, whether one was lost,
and what was freed, and data flits that waited follow as far as the frame has room. One that arrives with a good CRC, and that no failed codeword
overlaps, gives back credit and takes the flits it acknowledges out of the replay buffer, and its NAK resends the others; any other is
ignored. A data flit with the expected SEQ puts its slots into the receive buffer that has room for them, and one that is not whole asks for a
resend. Triggers that hold, among them too many codewords that could not be corrected, send a READY port to RETRAINING, counted in RETRAINS, and
the third retrain within 60 s makes it FAILED; a trigger that does not hold does nothing. A FAILED port restarts as a new link in TRAINING. -/
def Obligations.PortsTrainAndPassFlits : Prop :=
  (∀ (s : State) (n : Nat), s.going = true → n < 28 →
      (∀ mask : Nat, mask < 512 → s.dev.portState n = 1 ∨ s.dev.portState n = 5 → ∃ t : State, exec (.portLanesLocked n mask) s = .next t ∧
        t.pending = s.pending ∧ t.dev.locked n = (s.dev.locked n ||| mask) ∧ s.dev.sameRegs t.dev [.lnkPortStatus n, .lnkPortTraffic n] ∧
        t.dev.portState n = (if s.dev.portState n = 1 ∧ t.dev.openLanes n = [] then 2 else s.dev.portState n) ∧
        (∀ m, m ≠ n → t.dev.port m = s.dev.port m) ∧ t.dev.mem = s.dev.mem) ∧
      (∀ k : Nat, s.dev.portState n = 1 ∨ s.dev.portState n = 5 → s.dev.repaired n = 15 → s.dev.openLanes n = [k] → ∃ t : State,
        exec (.laneLockTimeout n) s = .next t ∧ t.pending = s.pending ∧ t.dev.repaired n = k ∧ t.dev.portState n = s.dev.portState n ∧
        s.dev.sameRegs t.dev [.lnkPortStatus n, .bootDefect] ∧ t.dev.ports = s.dev.ports ∧ t.dev.mem = s.dev.mem) ∧
      (s.dev.portState n = 1 ∨ s.dev.portState n = 5 → s.dev.openLanes n ≠ [] → s.dev.repaired n ≠ 15 ∨ 2 ≤ (s.dev.openLanes n).length →
        ∃ t : State, exec (.laneLockTimeout n) s = .next t ∧ t.pending = s.pending ∧ t.dev.portState n = 6 ∧ t.dev.mem = s.dev.mem) ∧
      (∀ (errors : Nat) (lanes : List Nat), s.dev.portState n = 3 → (s.dev.port n).between = false →
        ((s.dev.port n).peer = none → ∃ t : State, exec (.qualificationWindowEnd n errors lanes) s = .next t ∧ t.pending = s.pending ∧
          (t.dev.port n).own = some (errors, lanes) ∧ (t.dev.port n).peer = none ∧ t.dev.portState n = 3 ∧
          s.dev.sameRegs t.dev [.lnkPortTraffic n] ∧ (∀ m, m ≠ n → t.dev.port m = s.dev.port m) ∧ t.dev.mem = s.dev.mem) ∧
        (∀ b : Nat × List Nat, (s.dev.port n).peer = some b → windowOk (errors, lanes) = true → windowOk b = true → s.dev.txWait = [] →
          ∃ t : State, exec (.qualificationWindowEnd n errors lanes) s = .next t ∧ t.pending = s.pending ∧ t.dev.portState n = 4 ∧
          (t.dev.port n).own = none ∧ (t.dev.port n).peer = none ∧ s.dev.sameRegs t.dev [.lnkPortStatus n, .lnkPortTraffic n] ∧
          t.dev.mem = s.dev.mem) ∧
        (∀ b : Nat × List Nat, (s.dev.port n).peer = some b → windowOk (errors, lanes) = false ∨ windowOk b = false →
          (s.dev.port n).window = 0 → ∃ t : State, exec (.qualificationWindowEnd n errors lanes) s = .next t ∧ t.pending = s.pending ∧
          t.dev.portState n = 3 ∧ (t.dev.port n).window = 1 ∧ (t.dev.port n).between = true ∧ t.dev.mem = s.dev.mem)) ∧
      (s.dev.portState n = 3 → exec (.qualificationRetrainEnd n) s = .next (s.after fun d =>
        d.setPort n { d.port n with between := false })) ∧
      (s.dev.portState n = 5 → s.dev.openLanes n = [] → s.dev.txWait = [] → ∃ t : State,
        exec (.retrainCheckWindowEnd n 0) s = .next t ∧ t.pending = s.pending ∧ t.dev.portState n = 4 ∧
        t.dev.out = ((s.dev.port n).replay.take (frameFlits - (s.dev.port n).frame)).map (fun f => Out.flit n f.bytes) ∧
        (t.dev.port n).replay = (s.dev.port n).replay ∧ (t.dev.port n).later = (s.dev.port n).replay.drop (frameFlits - (s.dev.port n).frame) ∧
        (∀ m, m ≠ n → t.dev.port m = s.dev.port m) ∧ s.dev.sameRegs t.dev [.lnkPortStatus n] ∧ t.dev.mem = s.dev.mem) ∧
      (s.dev.portState n = 5 → ∃ t : State, exec (.retrainTimeout n) s = .next t ∧ t.pending = s.pending ∧ t.dev.portState n = 6 ∧
        t.dev.fld (.lnkPortRetry n) Fd.lnkPortRetryFailovers =
          satAdd Fd.lnkPortRetryFailovers.width (s.dev.fld (.lnkPortRetry n) Fd.lnkPortRetryFailovers) 1 ∧
        (t.dev.port n).replay = [] ∧ t.dev.mem = s.dev.mem)) ∧
  ((∀ (s : State) (n : Nat), s.going = true → s.dev.flitsPass n = true →
      (let go := if s.dev.portState n = 5 then [] else (s.dev.port n).later.take frameFlits
       ∃ t : State, exec (.controlFlitSend n) s = .next t ∧ t.pending = s.pending ∧
        { t.dev with ports := s.dev.ports, out := s.dev.out } = s.dev ∧ (∀ m, m ≠ n → t.dev.port m = s.dev.port m) ∧
        t.dev.port n = { s.dev.port n with frame := go.length, later := (s.dev.port n).later.drop go.length } ∧
        t.dev.out = (if (s.dev.port n).frame < frameFlits then [Out.idle n (frameFlits - (s.dev.port n).frame)] else []) ++
          [.flit n (flitBytes (0x200000000000000000000000 + (s.dev.port n).expSeq * 0x100000000000000000000 +
            ofBool (s.dev.port n).nak * 0x80000000000000000000)
            (leBytes 8 s.dev.now.toNat ++ (List.range 4).flatMap fun vc => leBytes 4 (SMap.at' 0 (s.dev.port n).freed vc)))] ++
          go.map fun f => .flit n f.bytes) ∧
      (∀ (bs : List Byte) (word : Option Nat) (e : Device) (failed : Bool), s.quiet.dev.codeword n word = (e, failed) → e.wordsLost n = false →
        failed = true ∨ flitGood bs = false ∨ flitBits bs 127 124 ≠ 2 →
        exec (.controlFlitReceive n ⟨bs, word⟩) s = .next { s with dev := e }) ∧
      (∀ (bs : List Byte) (word : Option Nat) (e : Device), s.quiet.dev.codeword n word = (e, false) → e.wordsLost n = false →
        flitGood bs = true → flitBits bs 127 124 = 2 → s.dev.txWait = [] → (s.dev.port n).mgmt = [] →
        let x := s.dev.port n
        let acked := seqAfter ((x.replay.map (·.seq)).headD x.nextSeq) (flitBits bs 123 112)
        let told := decide (0 < acked) && decide (acked ≤ x.replay.length)
        let left := if told then x.replay.drop acked else x.replay
        (flitBits bs 111 111 = 0 ∨ left = [] →
          ∃ t : State, exec (.controlFlitReceive n ⟨bs, word⟩) s = .next t ∧ t.pending = s.pending ∧ t.dev.regs = e.regs ∧ t.dev.out = [] ∧
            (t.dev.port n).replay = left ∧ (∀ vc, vc < 4 → (t.dev.port n).creditOf vc = x.creditOf vc +
              (ofLeBytes ((bs.drop (24 + 4 * vc)).take 4) + 4294967296 - SMap.at' 0 x.counted vc) % 4294967296) ∧
            (∀ m, m ≠ n → t.dev.port m = s.dev.port m) ∧ t.dev.mem = s.dev.mem) ∧
        (flitBits bs 111 111 = 1 → left ≠ [] → (if told then 0 else x.replays) < 7 →
          ∃ t : State, exec (.controlFlitReceive n ⟨bs, word⟩) s = .next t ∧ t.pending = s.pending ∧ (t.dev.port n).replay = left ∧
            t.dev.out = (left.take (frameFlits - x.frame)).map (fun f => Out.flit n f.bytes) ∧ e.sameRegs t.dev [.lnkPortRetry n] ∧
            t.dev.fld (.lnkPortRetry n) Fd.lnkPortRetryReplays =
              satAdd Fd.lnkPortRetryReplays.width (s.dev.fld (.lnkPortRetry n) Fd.lnkPortRetryReplays) 1 ∧
            (∀ m, m ≠ n → t.dev.port m = s.dev.port m) ∧ t.dev.mem = s.dev.mem)) ∧
      (∀ (bs : List Byte) (u : Bool) (bits : Nat) (e : Device) (failed : Bool), s.quiet.dev.codeword n (codewordEnd u bits) = (e, failed) →
        (e.wordsLost n = false → failed = false → flitGood bs = true → flitBits bs 127 124 = 1 → flitBits bs 123 112 = (s.dev.port n).expSeq →
          (s.dev.port n).rxUsed (flitBits bs 111 110) + flitBits bs 94 91 ≤ rxSlots (flitBits bs 111 110) → ∃ t : State,
          exec (.dataFlitReceive n bs u bits) s = .next t ∧ t.pending = s.pending ∧
            (t.dev.port n).expSeq = ((s.dev.port n).expSeq + 1) % 4096 ∧ (t.dev.port n).nak = false ∧
            (t.dev.port n).rx = (Port.takeSlots (flitBits bs 111 110) (flitBits bs 109 95)
              ((((slotsOf (bs.drop 16)).take (flitBits bs 94 91)).zipIdx).map fun x => (x.2, x.1)) (e.port n)).rx ∧
            t.dev.mem = s.dev.mem) ∧
        (e.wordsLost n = false → failed = true ∨ flitGood bs = false ∨ 1 < flitBits bs 127 124 →
          exec (.dataFlitReceive n bs u bits) s = .next { s with dev := e.setPort n { e.port n with nak := true } }) ∧
        (e.wordsLost n = false → failed = false → flitGood bs = true → flitBits bs 127 124 = 0 →
          exec (.dataFlitReceive n bs u bits) s = .next { s with dev := e }) ∧
        (e.wordsLost n = true → s.dev.portState n = 4 → s.dev.recentRetrains n < 2 → ∃ t : State,
          exec (.dataFlitReceive n bs u bits) s = .next t ∧ t.pending = s.pending ∧ t.dev.portState n = 5 ∧ t.dev.mem = s.dev.mem))) ∧
    (∀ (s : State) (n : Nat), n < 28 → s.dev.portState n = 4 →
      let retrained := fun (c : Instr) =>
        (s.dev.recentRetrains n < 2 → ∃ t : State, exec c s = .next t ∧ t.pending = s.pending ∧ t.dev.portState n = 5 ∧
          t.dev.port n = { s.dev.port n with replays := 0, retrains := s.dev.now :: (s.dev.port n).retrains } ∧
          t.dev.fld (.lnkPortRetry n) Fd.lnkPortRetryRetrains =
            satAdd Fd.lnkPortRetryRetrains.width (s.dev.fld (.lnkPortRetry n) Fd.lnkPortRetryRetrains) 1 ∧ t.dev.mem = s.dev.mem) ∧
        (2 ≤ s.dev.recentRetrains n → ∃ t : State, exec c s = .next t ∧ t.pending = s.pending ∧ t.dev.portState n = 6 ∧
          t.dev.mem = s.dev.mem)
      (s.going = true → retrained (.controlSilenceTimeout n) ∧ ∀ trigger lost, (s.dev.retrainDue n trigger lost = true → retrained (.portRetrain n trigger lost)) ∧
        (s.dev.retrainDue n trigger lost = false → exec (.portRetrain n trigger lost) s = .next s.quiet)) ∧
      (s.inService = true → retrained (.portRetrainNow n))) ∧
    (∀ (s : State) (n : Nat), s.inService = true → n < 28 → s.dev.portState n = 6 → ∃ t : State, exec (.portRestart n) s = .next t ∧
      t.pending = s.pending ∧ t.dev.portState n = 1 ∧ t.dev.locked n = 0 ∧ (t.dev.port n).replay = [] ∧ (t.dev.port n).nextSeq = 0 ∧
      (t.dev.port n).expSeq = 0 ∧ s.dev.sameRegs t.dev [.lnkPortStatus n] ∧ t.dev.mem = s.dev.mem ∧ ∀ m, m ≠ n → t.dev.port m = s.dev.port m))

/-! ### Packets -/

/-- R348, R72, R354, R356, R371, R386, R391: management packets. PARAM tells who is at the other end of a port that is TRAINED or QUALIFYING,
its plane, lane and replay depth, and what credit it gives, of which this end's own PARAM holds a slot; the lower of the two levels is its
LEVEL, and in service the port's first window begins (the model's reading, log entry 139). QUAL brings the counts of the other end: the port is
READY where both ends' pass, and retrains after a first window that does not. SEQ_QUERY discards what a FAILED port took in part; SEQ_REPLY
has the packets that begin at or after its SEQ sent again. GROUP brings a notice, a confirmation or totals, and FINAL the end of a hold. Each
packet is taken from its receive buffer. -/
def Obligations.ManagementPacketsActs : Prop :=
  (∀ (s : State) (n peer peerPort plane level lane depth vc : Nat) (credits : List Nat) (k : Packet), s.going = true → n < 28 →
    2 ≤ s.dev.portState n → s.dev.portState n ≤ 3 → s.dev.mgmtAt n 1 = some (vc, k) → peer < 65536 → peerPort < 256 → level < 65536 → ∃ t : State,
    exec (.param n peer ⟨peerPort, plane⟩ level lane credits depth) s = .next t ∧ t.pending = s.pending ∧
      t.dev.fld (.lnkPortStatus n) Fd.lnkPortStatusPeerId = peer ∧ t.dev.fld (.lnkPortStatus n) Fd.lnkPortStatusPeerPort = peerPort ∧
      t.dev.fld (.lnkPortStatus n) Fd.lnkPortStatusLevel = min ((s.dev.boot.running.map (·.featAdvertised)).getD 0) level ∧
      t.dev.portState n = (if s.dev.ready = true then 3 else s.dev.portState n) ∧
      (∀ vc, vc < 4 → (t.dev.port n).creditOf vc = credits.getD vc 0 - if vc = 3 then 1 else 0) ∧
      { t.dev.port n with credit := (s.dev.port n).credit } = { (s.dev.consume n vc k).port n with
        peerPlane := plane, peerLane := lane, peerDepth := depth } ∧
      (∀ m, m ≠ n → t.dev.port m = s.dev.port m) ∧ s.dev.sameRegs t.dev [.lnkPortStatus n] ∧ t.dev.mem = s.dev.mem) ∧
  (∀ (s : State) (n errors vc : Nat) (lanes : List Nat) (k : Packet), s.going = true → n < 28 → s.dev.portState n = 3 →
    (s.dev.port n).between = false → s.dev.mgmtAt n 2 = some (vc, k) →
    ((s.dev.port n).own = none → exec (.qual n errors lanes) s = .next (s.after fun d =>
      (d.consume n vc k).setPort n { (d.consume n vc k).port n with peer := some (errors, lanes) })) ∧
    (∀ a : Nat × List Nat, (s.dev.port n).own = some a → windowOk a = true → windowOk (errors, lanes) = true → s.dev.txWait = [] →
      ∃ t : State, exec (.qual n errors lanes) s = .next t ∧ t.pending = s.pending ∧ t.dev.portState n = 4 ∧ (t.dev.port n).own = none ∧
      (t.dev.port n).peer = none ∧ s.dev.sameRegs t.dev [.lnkPortStatus n] ∧ t.dev.mem = s.dev.mem) ∧
    (∀ a : Nat × List Nat, (s.dev.port n).own = some a → windowOk a = false ∨ windowOk (errors, lanes) = false → (s.dev.port n).window = 0 →
      ∃ t : State, exec (.qual n errors lanes) s = .next t ∧ t.pending = s.pending ∧ t.dev.portState n = 3 ∧ (t.dev.port n).window = 1 ∧
      (t.dev.port n).between = true ∧ t.dev.mem = s.dev.mem)) ∧
  (∀ (s : State) (n m vc : Nat) (k : Packet), s.inService = true → n < 28 → s.dev.arrived 0xE 3 = some (m, vc, k) → ∃ t : State,
    exec (.seqQuery n) s = .next t ∧ t.pending = s.pending ∧ (t.dev.port n).part = [] ∧ t.dev.mem = s.dev.mem) ∧
  (∀ (s : State) (n seq m vc : Nat) (k : Packet), s.inService = true → n < 28 → s.dev.arrived 0xE 4 = some (m, vc, k) →
    let held := (s.dev.port n).unsent
    exec (.seqReply n seq) s = .next (s.after fun d =>
      (packetsFrom (held.drop (seqAfter ((held.map (·.seq)).headD seq) seq)) []).foldl (fun d k => d.sendPacket (n / 7) k)
        ((d.consume m vc k).setPort n { (d.consume m vc k).port n with unsent := [] }))) ∧
  (∀ (s : State) (m vc : Nat) (k : Packet), s.inService = true → s.dev.arrived 0xE 7 = some (m, vc, k) →
    (∀ p g seq what, exec (.group (.coll p g seq what)) s = .next (s.after fun d => let e := d.consume m vc k
      e.setGroup p g { e.group p g with told := (e.group p g).told ++ [(pktSrc k, seq, what)] })) ∧
    (∀ p tot, exec (.group (.totals p tot)) s = .next (s.after fun d =>
      (d.consume m vc k).updPart p fun x => { x with totals := x.totals ++ [(pktSrc k, tot)] })) ∧
    (∀ p h info, info.fail = 0 → exec (.group (.bind p h info)) s = .next (s.after fun d =>
      (d.consume m vc k).updPart p fun x => { x with confirms := x.confirms ++ [(pktSrc k, h, info)] })) ∧
    (∀ p h u, (s.dev.part p).holding.contains (h, u) = false → exec (.final p h u) s = .next (s.after fun d =>
      (d.consume m vc k).updPart p fun x => { x with finals := x.finals ++ [(h, u)] })) ∧
    (∀ p h u, (s.dev.part p).holding.contains (h, u) = true → s.dev.heldReads = [] → exec (.final p h u) s = .next (s.after fun d =>
      (d.consume m vc k).updPart p fun x => { x with holding := x.holding.filter (· != (h, u)) })))

/-- R358, R359, R363 to R366, R372, R375: packets of requests from other chips. A READ of memory that verifies is answered with its bytes,
and a WRITE merged and acknowledged; a CONTRIB to a row that this chip owns is taken into its log and acknowledged. During a compute reset any
of them, a COLL, or a SIGNAL is answered with STATUS 2 and changes nothing; an offset that maps to no memory with STATUS 3; a WRITE or SIGNAL that
finds no room in the landing table with STATUS 5; a READ of a unit on hold is answered HELD and kept. A SIGNAL without a count is applied and
acknowledged, to a partition that is not formed with STATUS 7; one whose count its flow has not reached is held in the landing table. COLL data
are kept for their collective, and a packet that may not come here is answered with STATUS 9, where it carries a tag, or dropped. -/
def Obligations.RequestPacketsServed : Prop :=
  ∀ (s : State) (m vc : Nat) (k : Packet), s.inService = true →
    let off := pktAddr k * 16
    let n := pktRdlen k + 1
    let c := s.quiet.dev.consume m vc k
    let x := s.dev.recOf (s.dev.ownAt off)
    let bs := slotBytes (k.drop 1)
    (s.dev.arrived 1 = some (m, vc, k) → s.dev.computeResetting = true → exec .read s = .next (s.after fun d =>
      (d.consume m vc k).respond k 8 2 (pktAddr k) [])) ∧
    (s.dev.arrived 1 = some (m, vc, k) → s.dev.computeResetting = false → s.dev.heldAt off = false →
      offsetMapped off = false → exec .read s = .next (s.after fun d => (d.consume m vc k).respond k 8 3 (pktAddr k) [])) ∧
    (s.dev.arrived 1 = some (m, vc, k) → s.dev.computeResetting = false → s.dev.heldAt off = true →
      exec .read s = .next (s.after fun d =>
        let e := d.consume m vc k
        { e with heldReads := e.heldReads ++ [k] }.respond k 8 10 (pktAddr k) [])) ∧
    (∀ e : Device, s.dev.arrived 1 = some (m, vc, k) → s.dev.computeResetting = false → s.dev.heldAt off = false → offsetMapped off = true →
      off % 4096 + 16 * n ≤ 4096 → n ≤ 16 → c.inject 1 none none = (e, none) → s.dev.badReads = [] →
      x.ok (s.dev.sclOf x (s.dev.ownAt off)) = true →
      exec .read s = .next { s with dev := ((e.countServed off (16 * n) (pktSrc k)).respond k 8 0 (pktAddr k)
        ((slotsOf ((x.view.drop (off % 4096)).take (16 * n))).take 16)).settleFlows }) ∧
    (s.dev.arrived 2 = some (m, vc, k) → s.dev.computeResetting = true → exec .write s = .next (s.after fun d =>
      (d.consume m vc k).respond k 9 2 (pktAddr k) [])) ∧
    (s.dev.arrived 2 = some (m, vc, k) → s.dev.computeResetting = false → offsetMapped off = false →
      exec .write s = .next (s.after fun d => (d.consume m vc k).respond k 9 3 (pktAddr k) [])) ∧
    (∀ e : Device, s.dev.arrived 2 = some (m, vc, k) → s.dev.computeResetting = false → offsetMapped off = true →
      s.dev.suspendedAt off = false → s.dev.noLand k = false → 2 ≤ k.length → off % 4096 + bs.length ≤ 4096 →
      c.inject 1 none none = (e, none) → s.dev.badReads = [] → x.ok (s.dev.sclOf x (s.dev.ownAt off)) = true → isMx x.fmt = false →
      exec .write s = .next { s with dev :=
        (((e.putRec off (hdrBody x.fmt true (2 ^ 64 - 1) (hdrField x.hdr 24 4) 0 0 x.epoch)
          (x.view.take (off % 4096) ++ bs ++ x.view.drop (off % 4096 + bs.length)) [] x.fmt true (2 ^ 64 - 1)).landed k).respond k 9 0
          (pktAddr k) []).settleFlows }) ∧
    (∀ fmt : Nat, s.dev.contribs.head? = some (m, vc, k) → s.dev.computeResetting = true →
      exec (.contrib fmt) s = .next (s.after fun d =>
        { d.respond k 9 2 (pktAddr k) [] with contribStalled := false }.consume m vc k)) ∧
    (∀ (fmt : Nat) (t : Table) (e : Device), s.dev.contribs.head? = some (m, vc, k) → s.dev.computeResetting = false →
      s.dev.resetting (pktPart k) = false → s.dev.formed (pktPart k) = true → s.dev.ctxState (pktPart k) = 1 → s.dev.table (pktPart k) (pktAddr k % 2 ^ 32) = some t →
      let row := bitsOf (k.getD 1 0).toNat 47 0
      let part := bitsOf (pktAddr k) 36 33
      let vs := (widen (1 + (fmt + 1) % 2) (slotBytes (k.drop 2))).take (t.elems - 128 * part)
      t.graph = false → t.current ≠ 0 → row < t.n → (t.unitAt t.current (t.unitOfRow row)).valid = true →
      (t.unitAt t.current (t.unitOfRow row)).owner = s.dev.chip → s.dev.noLand k = false →
      (if bitOf (pktAddr k) 32 then s.quiet.dev.addArrival (pktPart k) (pktAddr k % 2 ^ 32) t { chip := pktSrc k, row := row } part vs
       else s.quiet.dev.appendPart (pktPart k) (pktAddr k % 2 ^ 32) t row (bitsOf (k.getD 1 0).toNat 61 48) (bitsOf (k.getD 1 0).toNat 127 64) part vs) =
        (e, true) →
      exec (.contrib fmt) s = .next { s with
        dev := ({ (e.landed k).respond k 9 0 (pktAddr k) [] with contribStalled := false }.consume m vc k).settleFlows }) ∧
    (s.dev.arrived 4 = some (m, vc, k) → s.dev.resetting (pktPart k) = true ∨ s.dev.computeResetting = true →
      exec .signalPacket s = .next (s.after fun d => (d.consume m vc k).respond k 9 2 (pktAddr k) [])) ∧
    (s.dev.arrived 4 = some (m, vc, k) → s.dev.resetting (pktPart k) = false → s.dev.computeResetting = false →
      pktFlow k = none ∨ sigBits k 95 64 = 0 →
      let r := c.chipSignal (pktPart k) (sigBits k 16 0) (sigBits k 19 17) (sigBits k 63 32) (pktSrc k)
      exec .signalPacket s = .next { s with dev :=
        (if r.2 = 5 then (r.1.respond k 9 5 (pktAddr k) []).countRefused (countingDie ((pktFlow k).getD 0))
          else r.1.respond k 9 r.2 (pktAddr k) []).settleFlows }) ∧
    (s.dev.arrived 4 = some (m, vc, k) → s.dev.resetting (pktPart k) = false → s.dev.computeResetting = false →
      pktFlow k = none → s.dev.formed (pktPart k) = false →
      exec .signalPacket s = .next (s.after fun d => (d.consume m vc k).respond k 9 7 (pktAddr k) [])) ∧
    (∀ f : Nat, s.dev.arrived 4 = some (m, vc, k) → s.dev.resetting (pktPart k) = false → s.dev.computeResetting = false →
      pktFlow k = some f → sigBits k 95 64 ≠ 0 → s.dev.noLand k = false →
      ((s.dev.land (countingDie f)).find? fun e => e.is (pktSrc k) (pktDie k) f && e.lost == 0) = none →
      exec .signalPacket s = .next (s.after fun d => let e := d.consume m vc k
        e.setLand (countingDie f) (e.land (countingDie f) ++ [{ src := pktSrc k, srcDie := pktDie k, flow := f, signal := some k }]))) ∧
    (∀ (f : Nat) (x : LandEntry), s.dev.arrived 4 = some (m, vc, k) → s.dev.resetting (pktPart k) = false → s.dev.computeResetting = false →
      pktFlow k = some f → s.dev.noLand k = false →
      ((s.dev.land (countingDie f)).find? fun e => e.is (pktSrc k) (pktDie k) f && e.lost == 0) = some x → x.count < sigBits k 95 64 →
      exec .signalPacket s = .next (s.after fun d => let e := d.consume m vc k
        e.setLand (countingDie f) ((e.land (countingDie f)).map fun y => if y = x then { x with signal := some k } else y))) ∧
    (∀ f : Nat, pktFlow k = some f → s.dev.noLand k = true →
      (s.dev.arrived 4 = some (m, vc, k) → s.dev.resetting (pktPart k) = false → s.dev.computeResetting = false → sigBits k 95 64 ≠ 0 →
        exec .signalPacket s = .next (s.after fun d =>
        (d.consume m vc k).refusePkt k (countingDie f))) ∧
      (s.dev.arrived 2 = some (m, vc, k) → s.dev.computeResetting = false → offsetMapped off = true → s.dev.suspendedAt off = false →
        exec .write s = .next (s.after fun d => (d.consume m vc k).refusePkt k (countingDie f)))) ∧
    (∀ p g seq chunk rank off : Nat, s.dev.arrived 5 = some (m, vc, k) → s.dev.computeResetting = true →
      exec (.coll p g seq chunk rank off) s = .next (s.after fun d => (d.consume m vc k).respond k 9 2 (pktAddr k) [])) ∧
    (∀ p g seq chunk rank off : Nat, s.dev.arrived 5 = some (m, vc, k) → s.dev.computeResetting = false → s.dev.resetting (p % 8) = false →
      exec (.coll p g seq chunk rank off) s = .next (s.after fun d => let e := d.consume m vc k
        { e with
          collData := e.collData ++ [{ part := p % 8, group := g, seq := seq, chunk := chunk, rank := rank, off := off, data := slotBytes (k.drop 2) }] })) ∧
    (s.dev.nextPacket s.dev.misrouted = some (m, vc, k) → exec .misroutedPacket s = .next (s.after fun d =>
      let e := d.consume m vc k
      (if pktTagged k then e.respond k (if pktType k = 1 then 8 else 9) 9 (pktAddr k) [] else e).logLink moduleRing 0x1007 0 m
        (m / 7) (pktSrc k) 0 0 (pktType k) (wordOf ((k.headD 0).toNat / 2 ^ 64)) 0))

/-- R222, R223, R359, R363, R366 to R368: the end of this chip's requests. A READ_RESP that completes its READ frees the tag; one with HELD
keeps it. An ACK ends its request and frees the tag; with STATUS 5 the request is sent again, its data read anew, by RETRY_RESEND; a response that does not come
ends its request. A signal held too long is discarded. With no request waiting TAG_FREE does nothing, and a request that waits and may take
a tag takes the lowest free one and leaves; LNK_CLEAR_COUNTS clears the counts of every port. -/
def Obligations.RequestsEnd : Prop :=
  ∀ s : State, s.inService = true →
    let noneWaits := fun (die : Nat) => ∀ x ∈ s.dev.reqs, ∀ r, x.2 = some r → r.die = die → r.tag.isSome = true ∨ r.status.isSome = true
    (∀ (m vc : Nat) (k : Packet), s.dev.arrived 8 = some (m, vc, k) → s.dev.reqByTag (pktDie k) (pktTag k) = none → noneWaits (pktDie k) →
      exec .readResp s = .next (s.after fun d => d.consume m vc k)) ∧
    (∀ (m vc id : Nat) (k : Packet) (r : Request) (e : Device), s.dev.arrived 8 = some (m, vc, k) → s.dev.reqByTag (pktDie k) (pktTag k) = some (id, r) →
      pktType r.pkt = 1 → (s.quiet.dev.consume m vc k).inject 5 (some r.die) (if r.part < 8 then some r.part else none) = (e, none) →
      noneWaits (pktDie k) →
      (pktStatus k = 10 → ∃ t : State, exec .readResp s = .next t ∧ t.pending = s.pending ∧
        SMap.at' none t.dev.reqs id = some { r with held := true } ∧ t.dev.mem = s.dev.mem) ∧
      (pktStatus k = 0 → r.part ≠ 0xFF → r.got = [] → k.length = pktRdlen r.pkt + 2 → ∃ (t : State) (r' : Request),
        exec .readResp s = .next t ∧ t.pending = s.pending ∧ SMap.at' none t.dev.reqs id = some r' ∧ r'.tag = none ∧ r'.status = some 0 ∧
        (∀ j, j + 1 < k.length → SMap.at' none r'.got (pktAddr k + j) = k[j + 1]?) ∧ t.dev.mem = s.dev.mem)) ∧
    (∀ (m vc id : Nat) (k : Packet) (r : Request) (e : Device), s.dev.arrived 9 = some (m, vc, k) → s.dev.reqByTag (pktDie k) (pktTag k) = some (id, r) →
      pktType r.pkt ≠ 1 → r.part < 8 → (s.quiet.dev.consume m vc k).inject 5 (some r.die) (some r.part) = (e, none) →
      (pktStatus k = 5 → ∃ t : State, exec .ack s = .next t ∧ t.pending = s.pending ∧
        SMap.at' none t.dev.reqs id = some { r with retry := true } ∧ t.dev.queues = s.dev.queues ∧ t.dev.mem = s.dev.mem) ∧
      (pktStatus k = 0 → (∃ x ∈ s.dev.cmdReqs r.part r.q r.idx, x.1 ≠ id) → noneWaits r.die → ∃ t : State,
        exec .ack s = .next t ∧ t.pending = s.pending ∧ SMap.at' none t.dev.reqs id = none ∧
        (∀ i, i ≠ id → SMap.at' none t.dev.reqs i = SMap.at' none s.dev.reqs i) ∧ (pktType r.pkt ≠ 4 → t.dev.queues = s.dev.queues) ∧
        t.dev.mem = s.dev.mem)) ∧
    (∀ (die tag id : Nat) (r : Request) (c : Cmd) (io : MemIo) (e : Device) (k : Packet), s.dev.reqByTag die tag = some (id, r) → r.retry = true →
      s.dev.cmd? r.part r.q r.idx = some c → c.parked = none → (s.quiet.dev.withIo io).rereadPkt r c = (e, .ok k) →
      exec (.retryResend ⟨die, tag⟩ io) s = .next { s with
        dev := (((e.setReq id (some { r with retry := false, pkt := k })).sendPacket r.planeOf k).endIo).settleFlows }) ∧
    (∀ (die tag id : Nat) (r : Request) (held : Bool), s.dev.reqByTag die tag = some (id, r) → r.held = held → pktType r.pkt = 1 →
      r.part ≠ 0xFF → (∀ x ∈ s.dev.reqs, ∀ r, x.2 = some r → r.die = die → r.tag.isSome = true ∨ r.status.isSome = true) → ∃ t : State,
      exec (if held then .heldTimeout die tag else .remoteTimeout die tag) s = .next t ∧ t.pending = s.pending ∧
        SMap.at' none t.dev.reqs id = some { r with tag := none, status := some 15, retry := false } ∧ t.dev.mem = s.dev.mem) ∧
    (∀ (die src srcDie flow : Nat) (e : LandEntry) (k : Packet), die < 4 →
      ((s.dev.land die).find? fun e => e.is src srcDie flow) = some e → e.signal = some k →
      ∃ t : State, exec (.landTimeout die src srcDie flow) s = .next t ∧ t.pending = s.pending ∧
        t.dev.land die = (if sigBits k 95 64 ≤ e.count then (s.dev.land die).filter (· != e)
          else (s.dev.land die).map fun x => if x = e then { e with signal := none, lost := sigBits k 95 64 - e.count } else x) ∧
        t.dev.objs = s.dev.objs ∧ t.dev.mem = s.dev.mem) ∧
    let noCopyWaits := fun (die : Nat) => ∀ x ∈ s.dev.cores, x.1 / 64 = die → ∀ y ∈ x.2.copies, y.parked.isSome = true
    (∀ die : Nat, noneWaits die → s.dev.heldReads = [] → noCopyWaits die → exec (.tagFree die) s = .next s.quiet) ∧
    (∀ (id tag : Nat) (r : Request), s.dev.heldReads = [] → noCopyWaits r.die → s.dev.reqs = [(id, some r)] → r.tag = none → r.status = none → s.dev.threadHeld r = false →
      s.dev.freeTag r.die (pktDest r.pkt) = some tag → exec (.tagFree r.die) s = .next (s.after fun d =>
        (d.setReq id (some { r with tag := some tag, pkt := withTag r.pkt tag })).sendPacket r.planeOf (withTag r.pkt tag))) ∧
    (∃ t : State, exec .lnkClearCounts s = .next t ∧ t.pending = s.pending ∧ t.dev.mem = s.dev.mem ∧
      (∀ n, n < 28 → (t.dev.port n).txFlits = 0 ∧ (t.dev.port n).rxFlits = 0 ∧ t.dev.reg (.lnkPortFec n) = 0 ∧
        t.dev.reg (.lnkPortRetry n) = 0 ∧ t.dev.reg (.lnkPortTraffic n) = 0) ∧
      (∀ i, i < 4 → t.dev.fld (.lnkLand i) Fd.lnkLandRefused = 0))

/-! ### The host port -/

/-- R76 to R78, R89, R91 to R93: a configuration request is answered and may enable virtual functions or PTM, change a power state or mask
a vector, whose interrupts then pend; a trained link shows its rate and width, UNSUPPORTED below 32 GT/s or x4; PTM, where it is enabled,
brings the host's time. A head word within the records written is accepted; an armed ring's coalescing time raises its vector; 1 ms in FULL
is recorded once; a heartbeat goes into HB_CQ, with the time only where PTM is enabled, or is withheld and HB_BLOCKED set. -/
def Obligations.HostPortServes : Prop :=
  (∀ s : State, s.running = true →
    let answer := fun (d : Device) => { d with free := d.free + 1, out := d.out ++ [.configReply (Config.freeWord d.free)] }
    (∀ fn : Nat, exec (.configRequest fn .read) s = .next (s.after answer)) ∧
    (∀ n : Nat, n ≤ 8 → exec (.configRequest 0 (.enableVfs n)) s = .next (s.after fun d => answer { d with vfs := n })) ∧
    (∀ (fn : Nat) (hot : Bool), exec (.configRequest fn (.powerState hot)) s = .next (s.after fun d => answer { d with
      d3 := putBit d.d3 fn hot })) ∧
    (∀ on : Bool, exec (.configRequest 0 (.enablePtm on)) s = .next (s.after fun d => answer { d with ptmOn := on })) ∧
    (∀ (fn vec : Nat) (masked : Bool), fn ≤ s.dev.vfs → vectorOk fn vec = true → ∃ t : State,
      exec (.configRequest fn (.maskVector vec masked)) s = .next t ∧ t.pending = s.pending ∧
      SMap.get (fun _ => false) t.dev.unmasked (vecKey fn vec) = !masked ∧
      SMap.get (fun _ => false) t.dev.msixPending (vecKey fn vec) =
        (masked && SMap.get (fun _ => false) s.dev.msixPending (vecKey fn vec)) ∧
      t.dev.out = (if masked = false ∧ SMap.get (fun _ => false) s.dev.msixPending (vecKey fn vec) = true then [.msix fn vec] else []) ++
        [.configReply (Config.freeWord s.dev.free)] ∧ t.dev.regs = s.dev.regs ∧ t.dev.mem = s.dev.mem) ∧
    (∀ (rate width : Nat) (flit : Bool), rate < 256 → width < 64 → ∃ t : State, exec (.pcieLinkTrained rate width flit) s = .next t ∧
      t.pending = s.pending ∧ t.dev.fld .hifLink Fd.hifLinkRateGt = rate ∧ t.dev.fld .hifLink Fd.hifLinkWidth = width ∧
      t.dev.fld .hifLink Fd.hifLinkFlit = ofBool flit ∧
      t.dev.fld .hifLink Fd.hifLinkUnsupported = (if 32 ≤ rate ∧ 4 ≤ width then 0 else 1) ∧
      t.dev.link = (rate, width) ∧ t.dev.mem = s.dev.mem ∧
      (rate < 32 ∨ width < 4 ∨ (s.dev.errEnabled 8 = false ∧ ∀ p c, p < 8 → c < 64 → s.dev.flag (.hifCqCfg p c) Fd.hifCqCfgEnable = false) →
        t.dev.out = (if 32 ≤ rate ∧ 4 ≤ width then [] else [.aerCorrectable]) ∧ s.dev.sameRegs t.dev [.hifLink] ∧
        s.dev.sameButRegs { t.dev with link := s.dev.link })) ∧
    (∀ time : Word, s.dev.ptmOn = true → exec (.ptmExchange time) s = .next (s.after fun d => { d with ptm := time }))) ∧
  (∀ (s : State) (p c : Nat), s.inService = true → s.dev.linkOk = true → p < 8 → c < 64 →
    (∀ cells : List Host.Cell, s.dev.flag (.hifCqCfg p c) Fd.hifCqCfgEnable = true →
      let w := (s.quiet.dev.hostStores cells).hostWord (s.dev.wordPage p + 1024 + 8 * c)
      (fieldOf w 31 0 + 4294967296 - (s.dev.cq p c).head) % 4294967296 ≤ s.dev.cqUsed p c →
      exec (.headWordRead p c cells) s = .next (s.after fun d => ((d.hostStores cells).setCq p c { d.cq p c with
        head := fieldOf w 31 0, armRead := fieldOf w 47 32, headLogged := false }).cqFlush p c)) ∧
    (∀ cells : List Host.Cell, s.dev.flag (.hifCqCfg p c) Fd.hifCqCfgEnable = true → (s.dev.cq p c).headLogged = false →
      let w := (s.quiet.dev.hostStores cells).hostWord (s.dev.wordPage p + 1024 + 8 * c)
      s.dev.cqUsed p c < (fieldOf w 31 0 + 4294967296 - (s.dev.cq p c).head) % 4294967296 →
      ∃ t : State, exec (.headWordRead p c cells) s = .next t ∧ t.pending = s.pending ∧
        t.dev.cq p c = { s.dev.cq p c with headLogged := true } ∧ t.dev.mem = s.dev.mem) ∧
    (s.dev.fld (.hifCqStatus p c) Fd.hifCqStatusState = 2 → (s.dev.cq p c).fullLogged = false → ∃ t : State,
      exec (.cqFullTimeout p c) s = .next t ∧ t.pending = s.pending ∧ t.dev.cq p c = { s.dev.cq p c with fullLogged := true } ∧
      t.dev.fld (.hifCqStatus p c) Fd.hifCqStatusState = 2 ∧ t.dev.mem = s.dev.mem) ∧
    (s.dev.flag (.hifCqCfg p c) Fd.hifCqCfgEnable = true → (s.dev.cq p c).armRead ≠ (s.dev.cq p c).armServed → 1 ≤ s.dev.cqUsed p c →
      ∃ t : State, exec (.coalesceTimeout p c) s = .next t ∧ t.pending = s.pending ∧
        t.dev.cq p c = { s.dev.cq p c with armServed := (s.dev.cq p c).armRead } ∧ t.dev.regs = s.dev.regs ∧ t.dev.mem = s.dev.mem ∧
        let fn := s.dev.ownerOf p
        let vec := s.dev.fld (.hifCqCfg p c) Fd.hifCqCfgVector
        if SMap.get (fun _ => false) s.dev.unmasked (vecKey fn vec) = true then t.dev.out = [.msix fn vec]
        else t.dev.out = [] ∧ SMap.get (fun _ => false) t.dev.msixPending (vecKey fn vec) = true) ∧
    (s.dev.partActive p = true → c = s.dev.fld (.hifPartCtrl p) Fd.hifPartCtrlHbCq → s.dev.fld (.hifCqStatus p c) Fd.hifCqStatusState = 1 →
      exec (.heartbeat p) s = .next (s.after fun d => (d.setFld (.hifPartStatus p) Fd.hifPartStatusHbBlocked 0).cqPost p c
        { typ := 1, status := 0, queue := 0, index := 0, value := if s.dev.ptmOn then s.dev.ptm else 0, low3 := s.dev.firmwareState p })) ∧
    (s.dev.partActive p = true → s.dev.fld (.hifCqStatus p (s.dev.fld (.hifPartCtrl p) Fd.hifPartCtrlHbCq)) Fd.hifCqStatusState ≠ 1 →
      ∃ t : State, exec (.heartbeat p) s = .next t ∧ t.pending = s.pending ∧
        t.dev.flag (.hifPartStatus p) Fd.hifPartStatusHbBlocked = true ∧ t.dev.cqs = s.dev.cqs ∧ t.dev.mem = s.dev.mem))

/-- R82 to R88, R95, R100: while a ring of a line is awake its producer word is read; a PRODUCER beyond the ring's size stops the ring. A
run that arrives enters its descriptors and CONSUMED goes past them; a read that fails stops the ring. An idle ring writes SLEEP and looks
again, and sleeps where nothing came; a wake write wakes it, and is counted on a ring that does not sleep. A failed access of a running
command parks it. -/
def Obligations.RingsFetchAndSleep : Prop :=
  ∀ (s : State) (p q : Nat), s.inService = true → p < 8 → q < 64 →
    (∀ (line : Nat) (cells : List Host.Cell), ((List.range 8).map fun i => 8 * line + i).filter (fun r => s.dev.sqState p r == 1) = [q] →
      line < 8 → s.dev.served p = true →
      let e := s.quiet.dev.hostStores cells
      ((e.producer p q + 4294967296 - e.consumed p q) % 4294967296 ≤ 2 ^ e.fld (.hifSqCfg p q) Fd.hifSqCfgSizeLog2 →
        exec (.producerPoll p line cells) s = .next (s.after fun _ =>
          (e.setSq p q { e.sq p q with seen := e.producer p q }).emit (.hostRead (e.wordPage p + 64 * line) 64))) ∧
      (2 ^ e.fld (.hifSqCfg p q) Fd.hifSqCfgSizeLog2 < (e.producer p q + 4294967296 - e.consumed p q) % 4294967296 →
        ∃ t : State, exec (.producerPoll p line cells) s = .next t ∧ t.pending = s.pending ∧ t.dev.sqState p q = 3 ∧
          t.dev.sqs = s.dev.sqs ∧ t.dev.mem = s.dev.mem)) ∧
    (∀ cells : List Host.Cell, s.dev.sqState p q = 1 → s.dev.served p = true → s.dev.ctxState p ≠ 5 → (s.dev.sq p q).checking = false →
      s.dev.runLength p q ≠ 0 → exec (.descriptorFetch p q 0 cells) s = .next { s with
        dev := ((Device.fetchMany p q (s.dev.runLength p q) (s.quiet.dev.hostStores cells)).writeStatusWord p q false).settleFlows }) ∧
    (∀ cells : List Host.Cell, s.dev.sqState p q = 1 → s.dev.served p = true → s.dev.ctxState p ≠ 5 → (s.dev.sq p q).checking = false →
      s.dev.runLength p q = 1 → s.dev.queue p q = [] →
      let e := s.quiet.dev.hostStores cells
      let x := e.descAt (e.fld (.hifSqBase p q) Fd.hifSqBaseAddr * 4096 + 64 * (e.consumed p q % 2 ^ e.fld (.hifSqCfg p q) Fd.hifSqCfgSizeLog2))
      e.decodeFault p x = none → waitOpOf x = 0 → ∃ t : State, exec (.descriptorFetch p q 0 cells) s = .next t ∧
        t.pending = s.pending ∧ t.dev.queue p q = [{ idx := s.dev.consumed p q, desc := x, st := .waiting }] ∧
        t.dev.consumed p q = (s.dev.consumed p q + 1) % 4294967296 ∧ t.dev.sqState p q = 1 ∧ t.dev.mem = s.dev.mem) ∧
    (∀ (status : Nat) (cells : List Host.Cell), status ≠ 0 → s.dev.sqState p q = 1 → s.dev.served p = true → s.dev.ctxState p ≠ 5 →
      (s.dev.sq p q).checking = false → s.dev.runLength p q ≠ 0 → ∃ t : State, exec (.descriptorFetch p q status cells) s = .next t ∧ t.pending = s.pending ∧
      t.dev.sqState p q = 3 ∧ t.dev.queues = s.dev.queues ∧ t.dev.consumed p q = s.dev.consumed p q ∧ t.dev.mem = s.dev.mem) ∧
    (s.dev.sqState p q = 1 → s.dev.served p = true → (s.dev.sq p q).checking = false →
      exec (.ringIdleTimeout p q) s = .next (s.after fun d =>
        ((d.writeStatusWord p q true).setSq p q { d.sq p q with checking := true }).emit (.hostRead (d.wordPage p + 8 * q) 8))) ∧
    (∀ cells : List Host.Cell, s.dev.sqState p q = 1 → s.dev.linkOk = true → (s.dev.sq p q).checking = true →
      (s.quiet.dev.hostStores cells).producer p q = s.dev.consumed p q →
      exec (.sleepCheckComplete p q cells) s = .next (s.after fun d =>
        ((d.hostStores cells).setSq p q { d.sq p q with checking := false }).setFld (.hifSqStatus p q) Fd.hifSqStatusState 2)) ∧
    (∀ cells : List Host.Cell, s.dev.sqState p q = 1 → s.dev.linkOk = true → (s.dev.sq p q).checking = true →
      let e := s.quiet.dev.hostStores cells
      e.producer p q ≠ s.dev.consumed p q →
      (e.producer p q + 4294967296 - e.consumed p q) % 4294967296 ≤ 2 ^ e.fld (.hifSqCfg p q) Fd.hifSqCfgSizeLog2 → ∃ t : State,
      exec (.sleepCheckComplete p q cells) s = .next t ∧ t.pending = s.pending ∧ t.dev.regs = s.dev.regs ∧
        t.dev.sq p q = { s.dev.sq p q with checking := false, seen := e.producer p q } ∧ t.dev.queues = s.dev.queues ∧ t.dev.mem = s.dev.mem) ∧
    (∀ (fn off : Nat) (cells : List Host.Cell), bar2Ring fn off = some (p, q) → fn ≤ s.dev.vfs → s.dev.linkOk = true →
      let e := s.quiet.dev.hostStores cells
      (s.dev.sqState p q = 2 →
        (e.producer p q + 4294967296 - e.consumed p q) % 4294967296 ≤ 2 ^ e.fld (.hifSqCfg p q) Fd.hifSqCfgSizeLog2 → ∃ t : State,
        exec (.wakeDoorbell fn off cells) s = .next t ∧ t.pending = s.pending ∧ t.dev.sqState p q = 1 ∧ t.dev.consumed p q = s.dev.consumed p q ∧
          (s.dev.served p = true → t.dev.sq p q = { s.dev.sq p q with seen := e.producer p q }) ∧ t.dev.queues = s.dev.queues ∧ t.dev.mem = s.dev.mem) ∧
      (s.dev.sqState p q ≠ 2 → exec (.wakeDoorbell fn off cells) s = .next (s.after fun d =>
        (d.hostStores cells).bump (.hifPartStatus p) Fd.hifPartStatusWakeIgnored))) ∧
    (s.dev.sqState p q = 1 → s.dev.served p = true → s.dev.ctxState p ≠ 5 → (s.dev.sq p q).checking = false → s.dev.runLength p q ≠ 0 →
      ∃ t : State, exec (.pcieCompletionTimeout p q none) s = .next t ∧ t.pending = s.pending ∧ t.dev.sqState p q = 3 ∧
      t.dev.queues = s.dev.queues ∧ t.dev.mem = s.dev.mem) ∧
    (∀ (idx addr : Nat) (c : Cmd), s.dev.cmd? p q idx = some c → c.st = .running → c.begun = true → c.worked = false → c.parked = none →
      s.dev.stopped (s.dev.workDie p c.unit) = false → ∃ t : State, exec (.pcieCompletionTimeout p q (some (idx, addr))) s = .next t ∧ t.pending = s.pending ∧
        t.dev.cmd? p q idx = some { c with
          parked := some c.unit, handle := (s.dev.handles + 1) % 4294967296, fault := (6, addr) } ∧
        t.dev.handles = s.dev.handles + 1 ∧ t.dev.mem = s.dev.mem)

/-! ### Registers and rings -/

/-- R81, R88, R91, R97, R460: a ring is enabled by the function that owns it where no test of R460 rejects it: a submission ring is ACTIVE
and takes CONSUMED from its status word, a completion ring is empty at TAIL 0, an error ring starts at 0. A rejected enable leaves ENABLE 0;
another function's write changes no ring. A disabled submission ring keeps its commands, a disabled completion ring its waiting records.
OWNER changes while every ring is DISABLED. -/
def Obligations.RingsEnableAndDisable : Prop :=
  ∀ (s : State) (fn p q : Nat), s.inService = true → p < 8 → q < 64 →
    (∀ (w : Word) (cells : List Host.Cell), s.dev.hasFn fn = true → fn = s.dev.ownerOf p → s.dev.sqState p q = 0 →
      let e := (s.quiet.dev.hostStores cells).writeBut (.hifSqCfg p q) Fd.hifSqCfgEnable (withField w 8 8 1)
      let size := e.fld (.hifSqCfg p q) Fd.hifSqCfgSizeLog2
      let fault := e.enableFault (some p) (decide (6 ≤ size ∧ size ≤ 16)) (e.fld (.hifSqBase p q) Fd.hifSqBaseAddr * 4096) (64 * 2 ^ size) none
      (fault = none → ∃ t : State, exec (.sqEnable fn p q w cells) s = .next t ∧ t.pending = s.pending ∧ t.dev.sqState p q = 1 ∧
        t.dev.flag (.hifSqCfg p q) Fd.hifSqCfgEnable = true ∧
        t.dev.consumed p q = fieldOf (e.hostWord (e.wordPage p + 512 + 8 * q)) 31 0 ∧
        t.dev.sq p q = { seen := t.dev.consumed p q } ∧ t.dev.queues = s.dev.queues ∧ t.dev.mem = s.dev.mem) ∧
      (∀ det, fault = some det → ∃ t : State, exec (.sqEnable fn p q w cells) s = .next t ∧ t.pending = s.pending ∧
        t.dev.sqState p q = 0 ∧ t.dev.flag (.hifSqCfg p q) Fd.hifSqCfgEnable = false ∧ t.dev.mem = s.dev.mem)) ∧
    (∀ (w : Word) (cells : List Host.Cell), s.dev.hasFn fn = true → fn = 0 ∨ fn = p + 1 → fn ≠ s.dev.ownerOf p → ∃ t : State,
      exec (.sqEnable fn p q w cells) s = .next t ∧ t.pending = s.pending ∧ t.dev.reg (.hifSqCfg p q) = s.dev.reg (.hifSqCfg p q) ∧
      t.dev.sqState p q = s.dev.sqState p q ∧ t.dev.sqs = s.dev.sqs ∧ t.dev.mem = s.dev.mem) ∧
    (∀ w : Word, s.dev.hasFn fn = true → fn = s.dev.ownerOf p → s.dev.sqState p q ≠ 0 → ∃ t : State,
      exec (.sqDisable fn p q w) s = .next t ∧ t.pending = s.pending ∧ t.dev.sqState p q = 0 ∧
      t.dev.flag (.hifSqCfg p q) Fd.hifSqCfgEnable = false ∧ t.dev.queues = s.dev.queues ∧ t.dev.mem = s.dev.mem) ∧
    (∀ w : Word, s.dev.hasFn fn = true → fn = s.dev.ownerOf p → s.dev.flag (.hifCqCfg p q) Fd.hifCqCfgEnable = false → (s.dev.cq p q).waiting = [] →
      let e := s.quiet.dev.writeBut (.hifCqCfg p q) Fd.hifCqCfgEnable (withField w 8 8 1)
      let size := e.fld (.hifCqCfg p q) Fd.hifCqCfgSizeLog2
      e.enableFault (some p) (decide (6 ≤ size ∧ size ≤ 16)) (e.fld (.hifCqBase p q) Fd.hifCqBaseAddr * 4096) (32 * 2 ^ size)
        (some (e.fld (.hifCqCfg p q) Fd.hifCqCfgVector)) = none → ∃ t : State, exec (.cqEnable fn p q w) s = .next t ∧
        t.pending = s.pending ∧ t.dev.flag (.hifCqCfg p q) Fd.hifCqCfgEnable = true ∧ t.dev.cqTail p q = 0 ∧
        t.dev.fld (.hifCqStatus p q) Fd.hifCqStatusState = 1 ∧ t.dev.cq p q = {} ∧ t.dev.mem = s.dev.mem) ∧
    (∀ w : Word, s.dev.hasFn fn = true → fn = s.dev.ownerOf p → s.dev.flag (.hifCqCfg p q) Fd.hifCqCfgEnable = true → ∃ t : State,
      exec (.cqDisable fn p q w) s = .next t ∧ t.pending = s.pending ∧ t.dev.flag (.hifCqCfg p q) Fd.hifCqCfgEnable = false ∧
      t.dev.cqTail p q = 0 ∧ t.dev.cq p q = { waiting := (s.dev.cq p q).waiting } ∧ t.dev.mem = s.dev.mem) ∧
    (∀ (w : Word) (cells : List Host.Cell), s.dev.hasFn fn = true → fn = s.dev.ownerOf p → s.dev.errEnabled p = false →
      let e := (s.quiet.dev.hostStores cells).writeBut (errCfgReg p) Fd.hifErrCfgEnable (withField w 16 16 1)
      let size := e.fld (errCfgReg p) Fd.hifErrCfgSizeLog2
      e.enableFault (some p) (decide (6 ≤ size ∧ size ≤ 12)) (e.errBase p) (64 * 2 ^ size) (some (e.fld (errCfgReg p) Fd.hifErrCfgVector)) = none →
      ∃ t : State, exec (.errRingEnable fn p w cells) s = .next t ∧ t.pending = s.pending ∧ t.dev.errEnabled p = true ∧
        (t.dev.errRing p).tail = 0 ∧ (t.dev.errRing p).head = 0 ∧ t.dev.mem = s.dev.mem) ∧
    (∀ (w : Word) (cells : List Host.Cell), s.dev.errEnabled 8 = false → (∀ h ∈ s.dev.hist, h.waiting = false) →
      let e := (s.quiet.dev.hostStores cells).writeBut .hifModErrCfg Fd.hifErrCfgEnable (withField w 16 16 1)
      let size := e.fld .hifModErrCfg Fd.hifErrCfgSizeLog2
      e.enableFault none (decide (6 ≤ size ∧ size ≤ 12)) (e.errBase 8) (64 * 2 ^ size) none = none →
      ∃ t : State, exec (.errRingEnable 0 8 w cells) s = .next t ∧ t.pending = s.pending ∧ t.dev.errEnabled 8 = true ∧
        (t.dev.errRing 8).tail = 0 ∧ (t.dev.errRing 8).head = 0 ∧ t.dev.hist = s.dev.hist ∧ t.dev.mem = s.dev.mem) ∧
    (∀ owner : Nat, exec (.ownerWrite p owner) s = .next (if s.dev.ringsOff p = true then
      s.after fun d => d.setFld (.hifPartCtrl p) Fd.hifPartCtrlOwner owner else s.quiet))

/-- R8, R9, R58, R434, R441: a register write reaches the register at its offset and has its effect; where that is no more, its fields take
the value by their access codes; an offset where none
answers changes nothing, and one that is not aligned reaches no register (the model's choice, log entry 12). A reset that CTX_RESET
requests before READY is ignored. DEBUG_READ64 and DEBUG_WRITE64 are answered with the register, or refused while the token has not unlocked them; firmware of die 0 serves them and RELOCK
(R24, R57). The perturbation registers are written while PERTURB is unlocked; RELOCK returns them to their values after reset. -/
def Obligations.RegisterWritesAndDebug : Prop :=
  ∀ (s : State) (off : Nat), s.answering = true →
    (∀ (fn : Nat) (w : Word) (io : MemIo) (r : Reg), off % 8 = 0 → s.dev.regAt fn off = some r →
      exec (.registerWrite fn off w io) s = .next { s with dev := (((s.quiet.dev.withIo io).regEffect fn off w r).endIo).settleFlows } ∧
      (r ∈ plainRegs → ∃ t : State, exec (.registerWrite fn off w io) s = .next t ∧ t.pending = s.pending ∧
        t.dev.reg r = writtenPlain r (s.dev.reg r) w ∧ s.dev.sameRegs t.dev [r] ∧ t.dev.mem = s.dev.mem ∧ t.dev.queues = s.dev.queues)) ∧
    (∀ (fn : Nat) (w : Word) (io : MemIo), off % 8 ≠ 0 → exec (.registerWrite fn off w io) s = .next s.quiet) ∧
    (∀ w : Word, s.dev.ready = false → off = Reg.ctxReset.offset → 1 ≤ fieldOf w 58 56 → fieldOf w 58 56 ≤ 5 → ∃ t : State,
      exec (.registerWrite 0 off w {}) s = .next t ∧ t.pending = s.pending ∧ t.dev.resets = s.dev.resets ∧ t.dev.ready = false ∧
      t.dev.fld .ctxReset Fd.ctxResetResult = 3 ∧ t.dev.mem = s.dev.mem ∧ t.dev.queues = s.dev.queues) ∧
    (∀ (fn : Nat) (w : Word), off % 8 = 0 → s.dev.ready = true → s.dev.regAt fn off = none → ∃ t : State, exec (.registerWrite fn off w {}) s = .next t ∧
      t.pending = s.pending ∧ t.dev.regs = s.dev.regs ∧ t.dev.mem = s.dev.mem ∧ t.dev.queues = s.dev.queues ∧ t.dev.out = []) ∧
    (s.serves = true → off % 8 = 0 → bitOf (s.dev.fld .tstStatus Fd.tstStatusUnlocked) 1 = true →
      exec (.debugRead64 off) s = .next (s.after fun d =>
        (d.regRead 0 off).2.debugAnswer "DEBUG_READ64" 0 (leBytes 8 (d.regRead 0 off).1.toNat))) ∧
    (s.serves = true → off % 8 = 0 → bitOf (s.dev.fld .tstStatus Fd.tstStatusUnlocked) 1 = false →
      exec (.debugRead64 off) s = .next (s.after fun d => d.debugAnswer "DEBUG_READ64" 1 [])) ∧
    (∀ (w : Word) (io : MemIo), s.serves = true → off % 8 = 0 → bitOf (s.dev.fld .tstStatus Fd.tstStatusUnlocked) 2 = false →
      exec (.debugWrite64 off w io) s = .next (s.after fun d => d.debugAnswer "DEBUG_WRITE64" 1 [])) ∧
    (∀ (w : Word) (io : MemIo) (r : Reg), s.serves = true → off % 8 = 0 → bitOf (s.dev.fld .tstStatus Fd.tstStatusUnlocked) 2 = true →
      s.dev.regAt 0 off = some r →
      exec (.debugWrite64 off w io) s = .next { s with
        dev := ((((s.quiet.dev.withIo io).regEffect 0 off w r).endIo).debugAnswer "DEBUG_WRITE64" 0 []).settleFlows } ∧
      (r ∈ plainRegs → ∃ t : State, exec (.debugWrite64 off w io) s = .next t ∧ t.pending = s.pending ∧
        t.dev.out = [.mgmtReply 0x7E "DEBUG_WRITE64" 0 []] ∧ t.dev.reg r = writtenPlain r (s.dev.reg r) w ∧ s.dev.sameRegs t.dev [r] ∧
        t.dev.mem = s.dev.mem)) ∧
    (∀ (w : Word) (r : Reg), s.dev.ready = true → r ∈ tstRegs → off = r.offset → s.dev.perturbs = true → ∃ t : State,
      exec (.tstSettingsWrite off w) s = .next t ∧ t.pending = s.pending ∧ t.dev.reg r = writtenRw r (s.dev.reg r) w ∧
      (∀ x ∈ tstRegs, x ≠ r → t.dev.reg x = s.dev.reg x) ∧ t.dev.mem = s.dev.mem ∧
      ((∀ k, r ≠ .tstInject k) → t.dev.injectors = s.dev.injectors)) ∧
    (∀ w : Word, s.dev.ready = true → s.dev.perturbs = false → exec (.tstSettingsWrite off w) s = .next s.quiet) ∧
    (s.serves = true → ∃ t : State, exec .relock s = .next t ∧ t.pending = s.pending ∧ t.dev.perturbs = false ∧ t.dev.injectors = [] ∧
      (∀ r ∈ tstRegs, t.dev.reg r = r.resetValue) ∧ t.dev.mem = s.dev.mem) ∧
    (s.serves = false → ∀ (w : Word) (io : MemIo), ∀ i ∈ [Instr.debugRead64 off, .debugWrite64 off w io, .relock], exec i s = .next s.quiet)

/-- R134, R140, R186, R210, R250, R273, R296, R326, R346: opening a CLOSED flow with an allocated object makes it OPEN, empty, at
NEXT_RELEASE 0; closing one with an empty window makes it CLOSED, and DRAINING while items remain. SYN_DBG_SEL shows an object. The
CLEAR_COUNTS of a unit sets its counts to zero and changes no other register. -/
def Obligations.FlowsDebugAndClearCounts : Prop :=
  (∀ (s : State) (p f : Nat) (w : Word), s.inService = true → p < 8 → f < 1024 →
    (∀ n, s.dev.flowState p f = 0 → s.dev.syncOf p (fieldOf w 16 0) = some n → ∃ t : State, exec (.flowOpen p f w) s = .next t ∧
      t.pending = s.pending ∧ t.dev.flowState p f = 1 ∧ t.dev.flowNext p f = 0 ∧ t.dev.flow p f = {} ∧
      t.dev.flag (.synFlowCfg p f) Fd.synFlowCfgOpen = true ∧ t.dev.fld (.synFlowCfg p f) Fd.synFlowCfgReleaseSync = fieldOf w 16 0 ∧
      t.dev.mem = s.dev.mem ∧ t.dev.objs = s.dev.objs) ∧
    (s.dev.flowState p f = 1 ∨ s.dev.flowState p f = 2 → (∀ q, q < 64 → s.dev.waitingCmd p q = none) →
      (∀ c, c < 256 → s.dev.corePart c = p → s.dev.heldItem c = none) → ∃ t : State, exec (.flowClose p f w) s = .next t ∧
      t.pending = s.pending ∧ t.dev.flowState p f = (if (s.dev.flow p f).items = [] then 0 else 3) ∧ t.dev.flow p f = s.dev.flow p f ∧
      t.dev.flag (.synFlowCfg p f) Fd.synFlowCfgOpen = false ∧ t.dev.mem = s.dev.mem)) ∧
  (∀ (s : State) (w : Word), s.inService = true → ∃ t : State, exec (.synDbgSel w) s = .next t ∧ t.pending = s.pending ∧
    t.dev.reg .synDbgValue = (s.dev.obj (fieldOf w 16 0)).value ∧ t.dev.reg .synDbgLastSrc = (s.dev.obj (fieldOf w 16 0)).lastSrc ∧
    t.dev.reg .synDbgLastIndex = wordOf ((s.dev.obj (fieldOf w 16 0)).lastIndex % 4294967296) ∧
    t.dev.objs = s.dev.objs ∧ t.dev.mem = s.dev.mem ∧
    s.dev.sameRegs t.dev [.synDbgSel, .synDbgValue, .synDbgState, .synDbgLastSrc, .synDbgLastIndex, .synDbgWaiter, .synDbgWaiterValue]) ∧
  (∀ (s : State) (c : Nat), s.inService = true →
    let clears := fun (i : Instr) (rs : List Reg) => ∃ t : State, exec i s = .next t ∧ t.pending = s.pending ∧
      (∀ r ∈ rs, t.dev.reg r = 0) ∧ s.dev.sameRegs t.dev rs ∧ s.dev.sameButRegs t.dev
    (c < 256 → clears (.mxaClearCounts c) [.mxaSatCount c, .mxaRepeats c] ∧ clears (.vecClearCounts c) [.vecSatCount c, .vecPasses c]) ∧
    (c < 4 → clears (.smpClearCounts c) [.smpDraws c, .smpSlots c, .smpErrors c] ∧
      clears (.gthClearCounts c) [.gthRows c, .gthServed c, .gthContrib c, .gthErrors c] ∧
      clears (.cisClearCounts c) [.cisSpilled c] ∧
      (∃ t : State, exec (.sprClearCounts c) s = .next t ∧ t.pending = s.pending ∧ t.dev.reg (.sprGroups c) = 0 ∧
        t.dev.fld (.sprStatus c) Fd.sprStatusPairs = 0 ∧ s.dev.sameRegs t.dev [.sprGroups c, .sprStatus c] ∧ t.dev.mem = s.dev.mem) ∧
      (∃ t : State, exec (.updClearCounts c) s = .next t ∧ t.pending = s.pending ∧ t.dev.reg (.updRows c) = 0 ∧
        t.dev.fld (.updStatus c) Fd.updStatusCopyFirst = 0 ∧ s.dev.sameRegs t.dev [.updRows c, .updStatus c] ∧ t.dev.mem = s.dev.mem)))

/-! ### Resets -/

/-- R96, R421 to R423: in service, a reset of a valid scope with no reset of it running begins: its partitions are RESETTING, and a
request by CTX_RESET shows BUSY and RESULT 1. A target that does not exist is refused with RESULT 4. A reset of the physical function
disables the virtual functions; a device reset starts Snowdrop again, keeps flash and loses memory.
R422: at the end of its window a core reset of a core that no outstanding command names, and whose engines hold nothing, returns the core to
its state after reset, and the reset is over with RESULT 2. A partition reset leaves its partition ACTIVE with no command, its submission
rings DISABLED and its cores IDLE. -/
def Obligations.ResetsBeginAndEnd : Prop :=
  (∀ s : State, s.inService = true → s.answering = true → s.dev.resets = [] →
      (∀ p : Nat, p < 8 → s.dev.formed p = true → (s.dev.part p).switch = none →
        let begun := fun (i : Instr) (byReg byFn : Bool) => ∃ t : State, exec i s = .next t ∧ t.pending = s.pending ∧
          t.dev.ctxState p = 5 ∧ fieldOf (t.dev.regView (.hifPartStatus p)).1 0 0 = 1 ∧
          t.dev.resets = [{ scope := 3, target := p, byReg := byReg, flr := if byFn then [p] else [] }] ∧ t.dev.mem = s.dev.mem ∧ t.dev.queues = s.dev.queues ∧
          (byReg = true → t.dev.flag .ctxReset Fd.ctxResetBusy = true ∧ t.dev.fld .ctxReset Fd.ctxResetResult = 1)
        begun (.partitionResetRequest p) false false ∧ begun (.partitionReset p) true false ∧
          (p + 1 ≤ s.dev.vfs → begun (.vfFlr (p + 1)) false true)) ∧
      (s.dev.formedParts.all (fun p => (s.dev.part p).switch.isNone) = true →
        let begun := fun (i : Instr) (byReg byFn : Bool) (vfs : Nat) => ∃ t : State, exec i s = .next t ∧ t.pending = s.pending ∧
          (∀ p ∈ s.dev.formedParts, t.dev.ctxState p = 5) ∧ t.dev.resets = [{ scope := 4, target := 0, byReg := byReg, pf := byFn }] ∧
          t.dev.vfs = vfs ∧ t.dev.mem = s.dev.mem ∧ t.dev.queues = s.dev.queues
        begun .computeReset true false s.dev.vfs ∧ begun .pfReset false true 0) ∧
      (∀ c : Nat, c < 256 → s.dev.formed (s.dev.corePart c) = true → s.dev.ctxState (s.dev.corePart c) = 1 → ∃ t : State,
        exec (.coreReset c) s = .next t ∧ t.pending = s.pending ∧ t.dev.resets = [{ scope := 1, target := c, byReg := true }] ∧
        t.dev.flag .ctxReset Fd.ctxResetBusy = true ∧ t.dev.cores = s.dev.cores ∧ t.dev.mem = s.dev.mem) ∧
      (∀ c : Nat, c < 32 → s.dev.formed (SMap.at' 0xFF s.dev.layout c) = true → s.dev.ctxState (SMap.at' 0xFF s.dev.layout c) = 1 → ∃ t : State,
        exec (.clusterReset c) s = .next t ∧ t.pending = s.pending ∧ t.dev.resets = [{ scope := 2, target := c, byReg := true }] ∧
        t.dev.flag .ctxReset Fd.ctxResetBusy = true ∧ t.dev.cores = s.dev.cores ∧ t.dev.mem = s.dev.mem) ∧
      (∀ p : Nat, s.dev.formed p = false → ∃ t : State, exec (.partitionReset p) s = .next t ∧ t.pending = s.pending ∧
        t.dev.fld .ctxReset Fd.ctxResetResult = 4 ∧ t.dev.resets = [] ∧ s.dev.sameRegs t.dev [.ctxReset] ∧ s.dev.sameButRegs t.dev) ∧
      (∃ t : State, exec .deviceReset s = .next t ∧ t.pending = s.pending ∧ t.dev.ready = false ∧ t.dev.mem = [] ∧ t.dev.side = [] ∧
        t.dev.queues = [] ∧ t.dev.flash = s.dev.flash.interrupted)) ∧
  (∀ (s : State) (c : Nat), s.inService = true → c < 256 → s.dev.domState c = 2 → s.dev.resets = [{ scope := 1, target := c, byReg := true }] →
      (∀ q, q < 64 → s.dev.queue (s.dev.corePart c) q = []) → (s.dev.core c).aq = [] → (s.dev.core c).vq = [] → ∃ t : State,
      exec (.resetDrainEnd 1 c) s = .next t ∧ t.pending = s.pending ∧ t.dev.resets = [] ∧ t.dev.flag .ctxReset Fd.ctxResetBusy = false ∧
        t.dev.fld .ctxReset Fd.ctxResetResult = 2 ∧ (t.dev.core c).st = .idle ∧ (t.dev.core c).job = none ∧ (t.dev.core c).loops = [] ∧
        t.dev.mem = s.dev.mem ∧ ∀ x, x ≠ c → t.dev.core x = s.dev.core x) ∧
  (∀ (s : State) (p : Nat), s.inService = true → p < 8 → s.dev.resets = [{ scope := 3, target := p, byReg := true }] →
      s.dev.mgmt.held = false → ∃ t : State, exec (.resetDrainEnd 3 p) s = .next t ∧ t.pending = s.pending ∧ t.dev.resets = [] ∧
        t.dev.flag .ctxReset Fd.ctxResetBusy = false ∧ t.dev.fld .ctxReset Fd.ctxResetResult = 2 ∧ t.dev.ctxState p = 1 ∧
        (∀ q, q < 64 → t.dev.queue p q = [] ∧ t.dev.sqState p q = 0) ∧ (∀ c, c < 256 → s.dev.corePart c = p → (t.dev.core c).st = .idle) ∧
        t.dev.mem = s.dev.mem)

/-! ### Memory, translation and streams -/

/-- R228, R217, R223: a unit of a COPY, FILL, COMPRESS or EXPAND that moves is followed by the next; after the last the command ends with
STATUS 0, and memory holds what the unit wrote. One whose unit meets a translation fault parks there under a new handle; one that finds no tag
waits at its unit; any other error ends it with STATUS 0x04. -/
def Obligations.DmaMovesUnits : Prop :=
  ∀ (s : State) (p q idx op : Nat) (i : Instr) (io : MemIo) (c : Cmd) (e : Device), s.inService = true →
    (op, i) ∈ [(0x20, Instr.copy p q idx io), (0x21, Instr.fill p q idx io), (0x22, Instr.compress p q idx io), (0x23, Instr.expand p q idx io)] →
    s.dev.runningCmd p q idx op = some c → c.unit < dmaUnits c.desc →
    let d := s.quiet.dev.withIo io
    let moved := if dmaTiles c.desc = true then d.dmaTile (d.userOf p c c.unit) c.desc c.unit else d.dmaRaw (d.userOf p c c.unit) c.desc c.unit
    (moved = (e, .ok ()) → c.unit + 1 = dmaUnits c.desc → ∃ t : State, exec i s = .next t ∧ t.pending = s.pending ∧
      t.dev.cmd? p q idx = some (c.ended 0 0) ∧
      t.dev.mem = e.mem ∧ t.dev.side = e.side ∧ t.dev.hostMem = e.hostMem ∧ t.dev.cores = s.dev.cores ∧ t.dev.objs = s.dev.objs) ∧
    (moved = (e, .ok ()) → c.unit + 1 < dmaUnits c.desc → exec i s = .next { s with
      dev := ((Device.dmaGo p q c (dmaUnits c.desc - (c.unit + 1)) (c.unit + 1) e).endIo).settleFlows }) ∧
    (∀ kind addr inj, moved = (e, .error (.xlate kind addr inj)) → e.stopped (e.workDie p c.unit) = false → ∃ t : State, exec i s = .next t ∧
      t.pending = s.pending ∧ t.dev.cmd? p q idx = some { c with
        parked := some c.unit, handle := (s.dev.handles + 1) % 4294967296, fault := (kind, addr) } ∧
      t.dev.handles = s.dev.handles + 1 ∧ t.dev.mem = e.mem ∧ t.dev.cores = s.dev.cores ∧ t.dev.objs = s.dev.objs) ∧
    (moved = (e, .error .waits) → ∃ t : State, exec i s = .next t ∧ t.pending = s.pending ∧ t.dev.cmd? p q idx = some c ∧ t.dev.mem = e.mem ∧
      t.dev.cores = s.dev.cores ∧ t.dev.objs = s.dev.objs) ∧
    (∀ x : MemErr, moved = (e, .error x) → x ≠ .waits → (∀ kind addr inj, x ≠ .xlate kind addr inj) → ∃ t : State, exec i s = .next t ∧
      t.pending = s.pending ∧ t.dev.cmd? p q idx = some (c.ended 4 0) ∧ t.dev.mem = e.mem ∧ t.dev.cores = s.dev.cores ∧
      t.dev.objs = s.dev.objs)

/-- R79, R80, R212, R216, R217: BAR4 reads as zero before READY, and after it gives the bytes of the window's memory and merges bytes
written there; a read by a virtual function that translation faults is an Unsupported Request. MEM_TLB_INVAL shows BUSY until it is complete. A parked
command whose unit translates now runs on, once firmware of its die has completed the page, which it does while its control complex runs (R24), or
software resumes it; one that is abandoned,
or parked too long, is DONE with STATUS 0x04. A recalibration of far memory changes nothing. -/
def Obligations.WindowsAndTranslation : Prop :=
  (∀ (s : State) (fn off n : Nat) (io : MemIo), s.running = true → s.dev.hasFn fn = true → s.dev.ready = false →
    exec (.bar4Read fn off n io) s = .next (s.after fun d => d.emit (.readData (List.replicate n 0)))) ∧
  (∀ (s : State) (off n : Nat) (io : MemIo) (e : Device) (bs : List Byte), s.inService = true → off < 68719476736 →
    spans (n / 4096 + 2) off n = [(off, n)] → offsetMapped (s.dev.fld .hifWinBase Fd.hifWinBaseBase * 68719476736 + off) = true →
    let u : MemUser := { part := 8, cls := fieldOf (Config.freeWord s.dev.free) 7 0 }
    let g := s.dev.chip * 1125899906842624 + (s.dev.fld .hifWinBase Fd.hifWinBaseBase * 68719476736 + off)
    ({ s.quiet.dev.withIo io with free := s.dev.free + 1 } : Device).bar4Get u (.device g) n = (e, .ok bs) → ∃ t : State,
    exec (.bar4Read 0 off n io) s = .next t ∧ t.pending = s.pending ∧ t.dev.out = e.out ++ [.readData bs] ∧ t.dev.mem = e.mem) ∧
  (∀ (s : State) (fn off n : Nat) (io : MemIo), s.inService = true → s.dev.hasFn fn = true → 1 ≤ fn → off < 8589934592 →
    spans (n / 4096 + 2) off n = [(off, n)] →
    let a := (s.quiet.dev.withIo io).bar4User fn
    let dva := s.dev.fld (.hifPartWin (fn - 1)) Fd.hifPartWinBase * 8589934592 + off
    (∀ (e f : Device) (x : Place) (bs : List Byte), a.1.translate a.2 dva false = (e, .ok x) → e.bar4Get a.2 x n = (f, .ok bs) → ∃ t : State,
      exec (.bar4Read fn off n io) s = .next t ∧ t.pending = s.pending ∧ t.dev.out = f.out ++ [.readData bs] ∧ t.dev.mem = f.mem) ∧
    (∀ (e : Device) (kind addr : Nat) (inj : Bool), a.1.translate a.2 dva false = (e, .error (.xlate kind addr inj)) → ∃ t : State,
      exec (.bar4Read fn off n io) s = .next t ∧ t.pending = s.pending ∧ .unsupported ∈ t.dev.out ∧ t.dev.mem = e.mem)) ∧
  (∀ (s : State) (off : Nat) (bytes : List Byte) (io : MemIo), s.inService = true → off < 68719476736 →
    spans (bytes.length / 4096 + 2) off bytes.length = [(off, bytes.length)] →
    offsetMapped (s.dev.fld .hifWinBase Fd.hifWinBaseBase * 68719476736 + off) = true →
    let u : MemUser := { part := 8, cls := fieldOf (Config.freeWord s.dev.free) 7 0 }
    let a := s.dev.fld .hifWinBase Fd.hifWinBaseBase * 68719476736 + off
    ∃ t : State, exec (.bar4Write 0 off bytes io) s = .next t ∧ t.pending = s.pending ∧
      t.dev.mem = (({ s.quiet.dev.withIo io with free := s.dev.free + 1 } : Device).bar4Put u (.device (s.dev.chip * 1125899906842624 + a)) bytes).1.mem) ∧
  (∀ (s : State) (fn off : Nat) (bytes : List Byte) (io : MemIo) (e : Device) (x : Place), s.inService = true → s.dev.hasFn fn = true → 1 ≤ fn →
    off < 8589934592 → spans (bytes.length / 4096 + 2) off bytes.length = [(off, bytes.length)] →
    let a := (s.quiet.dev.withIo io).bar4User fn
    a.1.translate a.2 (s.dev.fld (.hifPartWin (fn - 1)) Fd.hifPartWinBase * 8589934592 + off) true = (e, .ok x) → ∃ t : State,
    exec (.bar4Write fn off bytes io) s = .next t ∧ t.pending = s.pending ∧ t.dev.mem = (e.bar4Put a.2 x bytes).1.mem) ∧
  (∀ (s : State) (w : Word), s.inService = true → ∃ t : State, exec (.tlbInval w) s = .next t ∧ t.pending = s.pending ∧
    t.dev.flag .memTlbInval Fd.memTlbInvalBusy = true ∧ s.dev.sameRegs t.dev [.memTlbInval] ∧ t.dev.mem = s.dev.mem ∧
    (bitOf w.toNat 59 = true → ∀ die, ∀ x ∈ SMap.at' [] t.dev.tlb die, x.part ≠ fieldOf w 62 60)) ∧
  (∀ s : State, s.inService = true →
    exec .tlbInvalComplete s = .next (s.after fun d => d.setFld .memTlbInval Fd.memTlbInvalBusy 0) ∧ exec .lpddr6Recalibrate s = .next s.quiet) ∧
  (∀ (s : State) (p q handle : Nat) (c : Cmd), s.inService = true → s.dev.parkedAs p handle = some (q, c) → s.dev.cmd? p q c.idx = some c →
    (∀ (io : MemIo) (e : Device), (s.quiet.dev.withIo io).unitFault p c = (e, none) →
      (s.dev.stopped (s.dev.workDie p c.unit) = false → ∃ t : State, exec (.pageFillComplete p handle io) s = .next t ∧ t.pending = s.pending ∧
        t.dev.cmd? p q c.idx = some { c with parked := none } ∧ t.dev.mem = s.dev.mem) ∧
      (s.dev.stopped (s.dev.workDie p c.unit) = true → ∃ t : State, exec (.pageFillComplete p handle io) s = .next t ∧ t.pending = s.pending ∧
        t.dev.queues = s.dev.queues ∧ t.dev.mem = s.dev.mem) ∧
      (∃ t : State, exec (.faultResumeRetry p handle io) s = .next t ∧ t.pending = s.pending ∧
        t.dev.cmd? p q c.idx = some { c with parked := none } ∧ t.dev.mem = s.dev.mem)) ∧
    (c.item = false → opcodeOf c.desc ∉ [0x70, 0x71, 0x81] →
      (∃ t : State, exec (.faultResumeAbandon p handle) s = .next t ∧ t.pending = s.pending ∧
        t.dev.cmd? p q c.idx = some { c with st := .done, status := 4, parked := none } ∧ t.dev.mem = s.dev.mem) ∧
      (∃ t : State, exec (.parkTimeout p handle) s = .next t ∧ t.pending = s.pending ∧
        t.dev.cmd? p q c.idx = some { c with st := .done, status := 4, parked := none } ∧ t.dev.mem = s.dev.mem)))

/-- R224 to R226: an ARM whose descriptor passes arms its stream; REARM moves a stream to a position, RELEASE lets it go; tiles that
had landed are discarded. The next
tile lands in its frame and waits there for SWAIT; a stale granule is read again, and counted. -/
def Obligations.StreamsArmAndLand : Prop :=
  (∀ (s : State) (p q idx : Nat) (c : Cmd), s.inService = true →
    (∀ (io : MemIo) (e : Device) (bs : List Byte) (x : Stream), s.dev.runningCmd p q idx 0x30 = some c →
      (s.quiet.dev.withIo io).readDva (s.dev.userOf p c 0) c.desc.q5.toNat 64 = (e, .ok bs) → s.dev.streamOf p (wordsOf 8 bs) = some x →
      (s.dev.stream p (fieldOf c.desc.q4 11 0)).armed = false → s.dev.slotFree p x.core = true → ∃ t : State,
      exec (.arm p q idx io) s = .next t ∧ t.pending = s.pending ∧
        t.dev.stream p (fieldOf c.desc.q4 11 0) = { x with idx := idx, desc := c.desc.q5.toNat } ∧
        t.dev.cmd? p q idx = some (c.ended 0 0) ∧ t.dev.mem = s.dev.mem) ∧
    (s.dev.runningCmd p q idx 0x31 = some c → ∃ t : State,
      exec (.rearm p q idx) s = .next t ∧ t.pending = s.pending ∧ t.dev.stream p (fieldOf c.desc.q4 11 0) =
        { s.dev.stream p (fieldOf c.desc.q4 11 0) with
          landed := [], parked := none, again := none, broken := false, next := fieldOf c.desc.q5 31 0 } ∧
      t.dev.cmd? p q idx = some (c.ended 0 0) ∧ t.dev.mem = s.dev.mem ∧
      ((s.dev.stream p (fieldOf c.desc.q4 11 0)).landed = [] → t.dev.cores = s.dev.cores)) ∧
    (s.dev.runningCmd p q idx 0x32 = some c → ∃ t : State,
      exec (.release p q idx) s = .next t ∧ t.pending = s.pending ∧ t.dev.stream p (fieldOf c.desc.q4 11 0) = {} ∧
      t.dev.cmd? p q idx = some (c.ended 0 0) ∧ t.dev.mem = s.dev.mem ∧
      ((s.dev.stream p (fieldOf c.desc.q4 11 0)).landed = [] → t.dev.cores = s.dev.cores))) ∧
  (∀ (s : State) (p n : Nat) (io : MemIo) (x : Stream) (e : Device) (tile : FrameTile) (here : Option Nat), s.inService = true →
    x = s.dev.stream p n → (s.dev.core x.core).st ≠ .waiting →
    (s.dev.mayFetch x = true → (s.quiet.dev.withIo io).fetchTile p x x.next = (e, .ok (tile, here)) → ∃ t : State,
      exec (.streamTileArrive p n io) s = .next t ∧ t.pending = s.pending ∧
      t.dev.stream p n = { x with next := x.next + 1, landed := x.landed ++ [{ t := x.next, source := here }] } ∧
      t.dev.core x.core = (s.dev.core x.core).putTile (.stream n) (x.frame x.next) tile ∧ t.dev.mem = s.dev.mem) ∧
    (∀ (granule : Nat) (y : PumpTile), (x.landed.find? fun t => t.stale.contains granule) = some y → x.parked = none →
      (s.quiet.dev.withIo io).fetchTile p x y.t = (e, .ok (tile, here)) → ∃ t : State,
      exec (.watchReread p n granule io) s = .next t ∧ t.pending = s.pending ∧
      t.dev.core x.core = (s.dev.core x.core).putTile (.stream n) (x.frame y.t) tile ∧
      t.dev.fld (.memPartStatus p) Fd.memPartStatusWatchRereads =
        (if p < 8 then satAdd Fd.memPartStatusWatchRereads.width (s.dev.fld (.memPartStatus p) Fd.memPartStatusWatchRereads) 1 else 0) ∧
      t.dev.mem = s.dev.mem))

/-- R225, R227: SWAIT takes the tile that has landed and gives its address; SFREE returns frames; COPY_IN and COPY_OUT copy
tile after tile; CSYNC goes on where no copy of its groups runs, and waits where one does. A wait that times out stops the core. -/
def Obligations.PumpInstructions : Prop :=
  ∀ (s : State) (c : Nat) (k : Core) (w : Word), s.inService = true → k = s.dev.core c → w = s.dev.coreWord c →
    (∀ (x : Stream) (y : PumpTile) (rest : List PumpTile), s.dev.atPump c 0x70 = true → x = s.dev.stream (s.dev.corePart c) (fieldOf w 55 44) →
      x.landed = y :: rest → x.armed = true → x.core = c → y.stale = [] → k.loops = [] → k.pc % 512 ≠ 511 → ∃ t : State,
      exec (.swait c) s = .next t ∧ t.pending = s.pending ∧
      t.dev.stream (s.dev.corePart c) (fieldOf w 55 44) = { x with landed := rest, visible := x.visible ++ [y.t] } ∧
      (t.dev.core c).sreg (fieldOf w 43 40) = wordOf (4096 * x.frame y.t) ∧ (t.dev.core c).pc = k.pc + 1 ∧ t.dev.mem = s.dev.mem) ∧
    (∀ (x : Stream), s.dev.atPump c 0x71 = true → x = s.dev.stream (s.dev.corePart c) (fieldOf w 55 44) → x.armed = true → x.core = c →
      1 ≤ (k.sreg (fieldOf w 43 40)).toNat → (k.sreg (fieldOf w 43 40)).toNat ≤ 256 → k.loops = [] → k.pc % 512 ≠ 511 → ∃ t : State,
      exec (.sfree c) s = .next t ∧ t.pending = s.pending ∧
      t.dev.stream (s.dev.corePart c) (fieldOf w 55 44) = { x with visible := x.visible.drop (k.sreg (fieldOf w 43 40)).toNat } ∧
      t.dev.core c = { k.entered with pc := k.pc + 1 } ∧ t.dev.mem = s.dev.mem) ∧
    (∀ (inward : Bool) (io : MemIo) (e : Device) (x : CoreCopy) (n : Nat), s.dev.atPump c (if inward then 0x72 else 0x73) = true →
      n = (k.sreg (fieldOf w 47 44)).toNat → 1 ≤ n → (k.sreg (fieldOf w 55 52)).toNat % 4096 = 0 → (k.sreg (fieldOf w 51 48)).toNat % 4096 = 0 →
      (k.sreg (fieldOf w 55 52)).toNat / 4096 + n ≤ 1024 →
      (inward = true → bitOf w.toNat 40 = true → fieldOf w 39 36 ≤ 10 ∧ isMx (fieldOf w 39 36) = false) →
      x = { group := fieldOf w 43 41, inward := inward, flag := bitOf w.toNat 40, fmt := fieldOf w 39 36,
            frame := (k.sreg (fieldOf w 55 52)).toNat / 4096, dva := (k.sreg (fieldOf w 51 48)).toNat, count := n, idx := (s.dev.jobOf c).2.1 } →
      ((s.quiet.dev.withIo io).takeLease c).copyTile c x = (e, .ok ()) →
      (n = 1 → (e.core c).loops = [] → (e.core c).pc % 512 ≠ 511 → ∃ t : State,
        exec (if inward then .copyIn c io else .copyOut c io) s = .next t ∧ t.pending = s.pending ∧
        t.dev.core c = { e.core c with pc := (e.core c).pc + 1 } ∧ t.dev.mem = e.mem ∧ t.dev.side = e.side) ∧
      (1 < n → exec (if inward then .copyIn c io else .copyOut c io) s = .next { s with
        dev := (((Device.copyGo c (n - 1) { x with unit := 1 } e).advance c).endIo).settleFlows })) ∧
    (s.dev.atPump c 0x74 = true → (k.copies.any fun x => bitOf (fieldOf w 55 48) x.group) = false → k.loops = [] → k.pc % 512 ≠ 511 →
      ∃ t : State, exec (.csync c) s = .next t ∧ t.pending = s.pending ∧ (t.dev.core c).pc = k.pc + 1 ∧ (t.dev.core c).st = k.st ∧
      (t.dev.core c).scratch = k.scratch ∧ t.dev.mem = s.dev.mem) ∧
    (s.dev.atPump c 0x74 = true → (k.copies.any fun x => bitOf (fieldOf w 55 48) x.group) = true → k.st = .running →
      ∃ t : State, exec (.csync c) s = .next t ∧ t.pending = s.pending ∧
      t.dev.core c = { k.entered with st := .waiting, pumpWait := some (.groups (fieldOf w 55 48)) } ∧ t.dev.mem = s.dev.mem) ∧
    (∀ n sreg : Nat, k.st = .waiting → k.pumpWait = some (.tile n sreg) → (s.dev.stream (s.dev.corePart c) n).landed = [] → k.aq = [] → k.vq = [] →
      k.lapsed = none → ∃ t : State, exec (.streamWaitTimeout c) s = .next t ∧ t.pending = s.pending ∧ (t.dev.core c).st = .idle ∧
      (t.dev.core c).pumpWait = none ∧ (t.dev.core c).job = none ∧ t.dev.mem = s.dev.mem)

/-- R219 to R221: the checksum over the ASCII bytes 123456789, and an empty slot is a good compressed tile. Bytes merged into a good
slot of this chip read back; the tile is dense with MASK all ones and verifies; its other bytes, FORMAT and EPOCH, and every other slot,
stay. A merge into an MX tile, or into a tile that does not verify, is refused and leaves memory as it was. -/
def Obligations.TilesVerifyAndMerge : Prop :=
  crc64 (leBytes 9 0x393837363534333231) = 0x6C40DF5F0B497347 ∧
  TileRec.ok { hdr := List.replicate 64 0, data := List.replicate 4096 0 } [] = true ∧
  ∀ (d e f : Device) (u : MemUser) (off : Nat) (bs scl : List Byte) (t : TileRec) (w : Bool) (r : Except MemErr Unit), off < 2 ^ 50 →
    off % 4096 + bs.length ≤ 4096 →
    let g := d.chip * 2 ^ 50 + off
    d.mergeWrite u off bs w = (f, r) →
    (d.takeHere u g 2 = (e, .ok (t, scl)) →
      (isMx t.fmt = false → r = .ok () ∧ f.denseBytes g bs.length = bs ∧ (f.recOf g).ok [] = true ∧ (f.recOf g).dense = true ∧
        (f.recOf g).mask = 2 ^ 64 - 1 ∧ (f.recOf g).fmt = t.fmt ∧ (f.recOf g).epoch = t.epoch ∧ (f.recOf g).scale = t.scale ∧
        (∀ i, i < 4096 → i < off % 4096 ∨ off % 4096 + bs.length ≤ i → (f.recOf g).view.getD i 0 = t.view.getD i 0) ∧
        (∀ a, a / 4096 ≠ off / 4096 → f.cell (d.chip * 2 ^ 50 + a) = d.cell (d.chip * 2 ^ 50 + a))) ∧
      (isMx t.fmt = true → r = .error (.merge g) ∧ f.mem = d.mem ∧ f.side = d.side)) ∧
    (∀ x : MemErr, d.takeHere u g 2 = (e, .error x) → r = .error x ∧ f.mem = d.mem ∧ f.side = d.side)

/-! ### Sampling, gather and scatter -/

/-- R242, R246: SAMPLE reads its descriptor and its seeds: a descriptor that breaks a rule ends it with STATUS 0x04, and BAD_DESC counts it;
a good one is kept, and the command waits while its segment is not open, or takes its trace from it at once. Its grant takes the trace from the
open segment, or keeps the one it has reserved, and walks hop by hop; while the walk waits the reservation is held. In the end the trace is in memory, SMP_SLOTS of each die of DIE_MASK counts the slots that die wrote, and STATUS is 0 or,
where a seed is no node or the walk met a fault, 0x04. -/
def Obligations.SamplesReadAndWalk : Prop :=
  ∀ (s : State) (p q idx : Nat) (io : MemIo) (c : Cmd), s.inService = true → p < 8 → s.dev.runningCmd p q idx 0x40 = some c →
    let die := lowestDie (fieldOf c.desc.q6 43 40)
    let u : MemUser := { s.dev.userOf p c 0 with die := die }
    let count := fieldOf c.desc.q6 31 16 + 1
    (∀ (e f : Device) (bs seeds : List Byte), c.begun = false → c.aux = [] →
      (s.quiet.dev.withIo io).readDva u c.desc.q4.toNat 64 = (e, .ok bs) → e.readDva u c.desc.q5.toNat (8 * count) = (f, .ok seeds) →
      let h := (smpDesc (wordsOf 8 bs)).handle
      let tab := if (f.part p).epochOf c.gen h = 0 then none else f.table p h
      let seg := (f.part p).seg (f.segOf p (fieldOf c.desc.q6 15 0))
      let kept : Cmd := { c with begun := true, got := [(0, bs), (1, seeds)] }
      (∀ detail, smpFault (wordsOf 8 bs) count tab = some detail → die < 4 → ∃ t : State, exec (.sample p q idx io) s = .next t ∧
        t.pending = s.pending ∧ t.dev.cmd? p q idx = some (c.ended 4 0) ∧
        t.dev.fld (.smpErrors die) Fd.smpErrorsBadDesc = satAdd Fd.smpErrorsBadDesc.width (s.dev.fld (.smpErrors die) Fd.smpErrorsBadDesc) 1 ∧
        t.dev.mem = f.mem ∧ t.dev.cores = s.dev.cores) ∧
      (smpFault (wordsOf 8 bs) count tab = none → seg.isOpen = false → ∃ t : State, exec (.sample p q idx io) s = .next t ∧
        t.pending = s.pending ∧ t.dev.cmd? p q idx = some kept ∧
        t.dev.mem = f.mem ∧ t.dev.cores = s.dev.cores ∧ t.dev.objs = s.dev.objs) ∧
      (smpFault (wordsOf 8 bs) count tab = none → exec (.sample p q idx io) s = .next { s with
        dev := (((f.updCmd p q c.idx fun x => { x with begun := true, got := kept.got }).sampleReserve p q kept).endIo).settleFlows })) ∧
    (∀ (e e' f : Device) (tab : Table) (w : Walk) (pieces : List Nat), c.begun = true →
      let mb := fieldOf c.desc.q6 15 0
      let seg := s.dev.segOf p mb
      let ws := wordsOf 8 (SMap.at' [] c.got 0)
      let segDie := lowestDie ((s.dev.part p).seg seg).dies
      let m := s.dev.smpOf p c ws tab
      let bytes := 64 + 16 * (hopSizes count m.x).foldl (· + ·) 0
      let hop0 := seedSlots m.t.n (SMap.at' [] c.got 1) count
      let held : Cmd := { c with aux := pieces }
      s.dev.table p (smpDesc ws).handle = some tab →
      (c.aux = pieces ∧ pieces ≠ [] ∧ e' = s.quiet.dev.withIo io) ∨
        (c.aux = [] ∧ s.dev.cisOn p = true ∧ ((s.dev.part p).seg seg).isOpen = true ∧ ((s.dev.part p).seg seg).mb = mb ∧
          ((s.dev.part p).seg seg).entries = [] ∧
          (s.quiet.dev.withIo io).pushEntry p seg segDie 0 ((bytes + 65535) / 65536) 0 idx c.stepNo = (e, true) ∧
          pieces = (((e.part p).seg seg).entries.headD { off := 0, len := 0, die := 0, pieces := [] }).pieces ∧
          e' = e.updCmd p q idx fun x => { x with aux := pieces }) →
      let start := match hop0.zipIdx.find? fun x => x.1.err with
        | none => (e', m.seeded hop0)
        | some x => (m.seeded hop0).fault (m.at x.2) 0x0B04 0 x.2 x.2 (ofLeBytes (((SMap.at' [] c.got 1).drop (8 * x.2)).take 8)) e'
      Walk.hops m m.x.hops 1 hop0 start.2 start.1 = (f, w) →
      (w.waits = false → ∃ t : State, exec (.traceReservationGrant p q idx io) s = .next t ∧ t.pending = s.pending ∧
        t.dev.cmd? p q idx = some (held.ended (if w.bad then 4 else 0) 0) ∧
        t.dev.mem = (f.writeTrace m.u pieces
          (traceHeader m mb count (if w.stopped then 2 else 1) w.slots ++ w.slots.flatMap SmpSlot.bytes)).mem ∧
        (∀ x ∈ m.dies, t.dev.reg (.smpSlots x) = s.dev.reg (.smpSlots x) + wordOf (w.slotsOn x).length) ∧ t.dev.cores = s.dev.cores) ∧
      (w.waits = true → ∃ t : State, exec (.traceReservationGrant p q idx io) s = .next t ∧ t.pending = s.pending ∧
        t.dev.cmd? p q idx = some held ∧ t.dev.part p = e'.part p ∧ t.dev.mem = e'.mem ∧ t.dev.cores = s.dev.cores))

/-- R255, R257, R259: a GATHER takes its positions; a row of this chip that arrives, of the epoch and format of the binding, is placed in its
group and counted on the die that works on it. Into scratch, the next group whose rows are in and for which its core has frames is delivered, and
its object signalled; into memory, the next group whose rows are in is written. After the last group the command ends. -/
def Obligations.GathersPlaceAndDeliver : Prop :=
  ∀ (s : State) (p q idx : Nat) (c : Cmd) (g : Gth), s.inService = true → p < 8 → s.dev.runningCmd p q idx 0x50 = some c →
    s.dev.gthOf p q c = some g →
    let toScratch := bitOf c.desc.q4.toNat 8
    let after : Cmd := { c with unit := c.unit + 1, got := c.got.filter fun x => decide (64 * (c.unit + 1) ≤ x.1) }
    (∀ (io : MemIo) (e : Device) (ps : List (Option Nat)), c.begun = false →
      (s.quiet.dev.withIo io).positions g.u c.desc = (e, .ok ps) → e.codesWait g (e.gthCodes g ps).2 = false →
      (ps.length + 63) / 64 > c.unit → ∃ (t : State) (c' : Cmd),
      exec (.gather p q idx io) s = .next t ∧ t.pending = s.pending ∧ t.dev.cmd? p q idx = some c' ∧ c'.begun = true ∧
      c'.aux.length = ps.length ∧ t.dev.cores = s.dev.cores ∧ t.dev.objs = s.dev.objs ∧
      (toScratch = true → c'.worked = false ∧ c'.unit = c.unit ∧ t.dev.mem = e.mem)) ∧
    (∀ (pos : Nat) (io : MemIo) (e f : Device) (m : UnitMap) (tile : TileRec) (scl : List Byte), c.begun = true →
      let d := s.quiet.dev.withIo io
      let die := s.dev.posDie p c pos
      let row := c.aux.getD pos 0 - 1
      let at' := g.t.rowAt row
      let placed : Cmd := { c with got := SMap.set (fun _ => []) c.got pos ((tile.view.drop at'.2.2).take g.t.rowBytes ++
        (scl.drop (at'.2.2 / 64 * g.t.rowScale)).take (g.t.groupTiles * g.t.rowScale)) }
      die < 4 → c.aux.getD pos 0 ≠ 0 → 64 * c.unit ≤ pos → (c.got.any fun x => x.1 == pos) = false →
      d.codesWait g [c.aux.getD pos 0] = false → d.lookup p idx g.h g.epoch (g.t.unitOfRow row) = (e, some m) → m.read = s.dev.chip →
      e.readPlaced { g.u with unit := pos / 64, die := die } g.h at'.1 m at'.2.1 = (f, .ok (tile, scl)) → g.tileFault tile = none →
      toScratch = true ∨ placed.groupIn c.unit = false → ∃ t : State,
      exec (.rowArrive p q idx pos io) s = .next t ∧ t.pending = s.pending ∧ t.dev.cmd? p q idx = some placed ∧
      t.dev.reg (.gthRows die) = s.dev.reg (.gthRows die) + 1 ∧ t.dev.mem = f.mem ∧ t.dev.cores = s.dev.cores) ∧
    (∀ n : Nat, toScratch = true → c.begun = true → c.unit < groupsOf c.aux → c.groupIn c.unit = true → s.dev.gatherMay g c = true →
      s.dev.syncOf p (pacingBase c.desc + 2 * (c.unit % max 1 (s.dev.targets p c.desc).length)) = some n →
      (s.dev.obj n).waiters = [] → (s.dev.obj n).value.toNat < s.dev.objBound n → ∃ t : State,
      exec (.gatherDelivery p q idx) s = .next t ∧ t.pending = s.pending ∧
      t.dev.cmd? p q idx = some (if c.unit + 1 < groupsOf c.aux then after else after.ended (if c.bad then 4 else 0) 0) ∧
      (t.dev.obj n).value = (s.dev.obj n).value + 1 ∧ t.dev.mem = s.dev.mem) ∧
    (∀ (io : MemIo) (e : Device), toScratch = false → c.begun = true → c.unit + 1 = groupsOf c.aux → c.groupIn c.unit = true →
      (s.quiet.dev.withIo io).writeGroup g c c.unit = (e, .ok ()) → ∃ t : State,
      exec (.gather p q idx io) s = .next t ∧ t.pending = s.pending ∧
      t.dev.cmd? p q idx = some (after.ended (if c.bad then 4 else 0) 0) ∧ t.dev.mem = e.mem ∧ t.dev.side = e.side ∧
      t.dev.cores = s.dev.cores ∧ t.dev.objs = s.dev.objs)

/-- R263 to R265, R268, R364: a SCATTER with its positions takes a delivery flow and goes to work; where its die has none free it waits. A
contribution that has waited LOG_WAIT_US is dropped and counted, and the command will end with STATUS 0x04. -/
def Obligations.ScattersAndDroppedContributions : Prop :=
  ∀ (s : State) (p q idx : Nat) (c : Cmd), s.inService = true → p < 8 → s.dev.runningCmd p q idx 0x51 = some c →
    (∀ (io : MemIo) (g : Gth) (e f e' : Device) (ps : List (Option Nat)), s.dev.gthOf p q c = some g → c.begun = false →
      (s.quiet.dev.withIo io).positions g.u c.desc = (e, .ok ps) → e.gradTranslates g ((ps.length + 63) / 64) = (f, .ok ()) →
      (∀ n, f.takeFlow g.u.die p q idx = (e', some n) → ∃ (t : State) (c' : Cmd), exec (.scatter p q idx io) s = .next t ∧
        t.pending = s.pending ∧ t.dev.cmd? p q idx = some c' ∧ c'.begun = true ∧ c'.flow = some n ∧
        c'.aux = ps.map (fun x => (x.map (rowCode g.t.n)).getD 0) ∧ t.dev.mem = f.mem) ∧
      (f.takeFlow g.u.die p q idx = (e', none) → ∃ t : State, exec (.scatter p q idx io) s = .next t ∧ t.pending = s.pending ∧
        t.dev.cmd? p q idx = some c ∧ t.dev.mem = f.mem ∧ t.dev.parts = f.parts)) ∧
    (∀ (k : Contribution) (ks : List Contribution), c.held = k :: ks → s.dev.homeDie p < 4 → ∃ (t : State) (c' : Cmd),
      exec (.contribLogWaitTimeout p q idx) s = .next t ∧ t.pending = s.pending ∧ t.dev.cmd? p q idx = some c' ∧ c'.held = ks ∧
      c'.bad = true ∧ (ks ≠ [] → c'.worked = false) ∧ (c'.worked = true → c'.status = 4) ∧
      t.dev.fld (.gthContrib (s.dev.homeDie p)) Fd.gthContribDropped =
        satAdd Fd.gthContribDropped.width (s.dev.fld (.gthContrib (s.dev.homeDie p)) Fd.gthContribDropped) 1 ∧
      t.dev.mem = s.dev.mem ∧ t.dev.cores = s.dev.cores ∧ t.dev.parts = s.dev.parts)

/-! ### Sparsity -/

/-- R278 to R283: a MERGE whose descriptor breaks a rule ends with STATUS 0x04; a good one is taken up. An output tile whose operands agree in
format and scale is packed into pairs, as many as its kept groups need and at least one; each pair goes to its core's frames once FREE
allows, signals the core's object and is counted. While its partition or a core of it is being reset no new tile is taken up (R422). -/
def Obligations.MergesPackAndDeliver : Prop :=
  ∀ (s : State) (p q idx : Nat) (io : MemIo) (c : Cmd), s.inService = true → p < 8 → s.dev.runningCmd p q idx 0x60 = some c →
    (∀ (e : Device) (bs : List Byte), c.begun = false →
      (s.quiet.dev.withIo io).readDva (s.dev.userOf p c 0) c.desc.q4.toNat 64 = (e, .ok bs) →
      let x := mergeDesc (wordsOf 8 bs)
      let fault := mergeDescFault (wordsOf 8 bs) (s.dev.layerMode p x.layer != 0) c.desc.q5
      (fault.isSome = true → ∃ t : State, exec (.merge p q idx io) s = .next t ∧ t.pending = s.pending ∧
        t.dev.cmd? p q idx = some (c.ended 4 0) ∧ t.dev.mem = e.mem ∧ t.dev.cores = s.dev.cores ∧ t.dev.objs = s.dev.objs) ∧
      (fault = none → x.pred = 0 → ∃ (t : State) (c' : Cmd), exec (.merge p q idx io) s = .next t ∧ t.pending = s.pending ∧
        t.dev.cmd? p q idx = some c' ∧ c'.begun = true ∧ SMap.at' [] c'.got keyDesc = bs ∧ c'.unit = c.unit ∧
        t.dev.cores = s.dev.cores ∧ t.dev.objs = s.dev.objs) ∧
      (∀ (f : Device) (l : List Nat), fault = none → x.pred ≠ 0 → e.layerMode p x.layer ≠ 2 →
        e.computedWords (s.dev.userOf p c 0) c x (SMap.at' {} (s.dev.part p).layers x.layer).n (x.neurons 4) = (f, .ok l) →
        ∃ (t : State) (c' : Cmd), exec (.merge p q idx io) s = .next t ∧ t.pending = s.pending ∧
        t.dev.cmd? p q idx = some c' ∧ c'.begun = true ∧ SMap.at' [] c'.got keyDesc = bs ∧
        SMap.at' [] c'.got keyGate = l.flatMap (fun w => leBytes 8 w) ∧ c'.unit = c.unit ∧
        t.dev.cores = s.dev.cores ∧ t.dev.objs = s.dev.objs)) ∧
    (∀ (e f : Device) (as' : List MergeTile) (bs : List (Option MergeTile)), c.begun = true → s.dev.drains p c.desc = false →
      (c.got.any fun x => decide (x.1 < 2 ^ 40)) = false →
      let x := c.mergeDesc
      let u := s.dev.userOf p c c.unit
      (s.quiet.dev.withIo io).mergeRow u c (c.unit / x.nt) = (e, .ok as') →
      forAll (fun k d => d.mergeB u c (c.unit % x.nt) k) (List.range x.kt) e = (f, .ok bs) →
      rowDiffers as' = none → rowDiffers (bs.filterMap id) = none → ∃ (t : State) (c' : Cmd),
      exec (.merge p q idx io) s = .next t ∧ t.pending = s.pending ∧ t.dev.cmd? p q idx = some c' ∧ c'.begun = true ∧ c'.unit = c.unit ∧
      c'.aux.getD 4 0 = max 1 (((keptGroups as' (fillRow bs (f.rowLike u (x.b + 4096 * (c.unit % x.nt * x.kt))))).length + 7) / 8) ∧ c'.aux.getD 5 0 = 0 ∧
      (∀ i, i < c'.aux.getD 4 0 → SMap.at' [] c'.got i ≠ []) ∧
      t.dev.mem = f.mem ∧ t.dev.cores = s.dev.cores ∧ t.dev.objs = s.dev.objs) ∧
    (∀ n : Nat, c.begun = true →
      let die := (s.dev.userOf p c c.unit).die
      let k := c.unit % max 1 (s.dev.targets p c.desc).length
      let sent := c.aux.getD (7 + k) 0
      let pair := c.aux.getD 5 0
      let after : Cmd := { c with aux := (c.aux.set 5 (pair + 1)).set (7 + k) (sent + 1), got := c.got.filter fun e => e.1 != pair }
      die < 4 → SMap.at' [] c.got pair ≠ [] → sent + 1 ≤ 2 ^ fieldOf c.desc.q6 53 50 + s.dev.relValue p (pacingBase c.desc + 2 * k + 1) →
      pair + 1 < c.aux.getD 4 0 ∨ c.mergeDesc.mt * c.mergeDesc.nt ≤ c.unit + 1 →
      s.dev.syncOf p (pacingBase c.desc + 2 * k) = some n → (s.dev.obj n).waiters = [] →
      (s.dev.obj n).value.toNat < s.dev.objBound n → ∃ t : State,
      exec (.mergePairDelivery p q idx io) s = .next t ∧ t.pending = s.pending ∧
      t.dev.cmd? p q idx = some (if pair + 1 < c.aux.getD 4 0 then after else { after with unit := c.unit + 1 }.ended 0 0) ∧
      (t.dev.obj n).value = (s.dev.obj n).value + 1 ∧
      t.dev.fld (.sprStatus die) Fd.sprStatusPairs =
        satAdd Fd.sprStatusPairs.width (s.dev.fld (.sprStatus die) Fd.sprStatusPairs) 1 ∧ t.dev.mem = s.dev.mem)

/-- R286, R290, R296: PREDICT_CFG BIND makes a layer slot SPARSE with its id, counts zero and the limits of its operands; REPORT counts the
audited neurons of its range and those of them that were missed; UNBIND returns the slot to UNBOUND. -/
def Obligations.PredictorLayersBindAndReport : Prop :=
  ∀ (s : State) (p q idx : Nat) (c : Cmd), s.inService = true → p < 8 → s.dev.runningCmd p q idx 0x61 = some c → s.dev.startFault p c.desc = none →
    let x := c.desc
    let l := fieldOf x.q4 61 56
    (fieldOf x.q4 63 62 = 0 → ∃ t : State, exec (.predictBind p q idx) s = .next t ∧ t.pending = s.pending ∧
      t.dev.cmd? p q idx = some (c.ended 0 0) ∧ t.dev.reg (.sprLayerState p l) = wordOf (fieldOf x.q4 31 0 * 2 ^ 32 + 1) ∧
      t.dev.reg (.sprLayerCount p l) = 0 ∧ SMap.at' {} (t.dev.part p).layers l =
        { n := fieldOf x.q5 31 0, missLimit := orDefault (fieldOf x.q5 63 48) (s.dev.fld .sprMissLimit Fd.sprMissLimitLimit)
          denseHold := orDefault (fieldOf x.q5 47 32) (s.dev.fld .sprDenseHold Fd.sprDenseHoldHold) } ∧
      s.dev.sameRegs t.dev [.sprLayerState p l, .sprLayerCount p l, .cmdQStatus p q] ∧ t.dev.mem = s.dev.mem ∧ t.dev.cores = s.dev.cores ∧ t.dev.objs = s.dev.objs) ∧
    (∀ (io : MemIo) (e f : Device) (a m : List Nat), fieldOf x.q4 63 62 = 1 →
      let w := (SMap.at' {} (s.dev.part p).layers l).n / 64
      let u := s.dev.userOf p c 0
      (s.quiet.dev.withIo io).bitsIn u (x.q5.toNat + 8 * w) (fieldOf x.q6 63 32) (fieldOf x.q6 31 0) = (e, .ok a) →
      e.bitsIn u (x.q5.toNat + 16 * w) (fieldOf x.q6 63 32) (fieldOf x.q6 31 0) = (f, .ok m) → ∃ t : State,
      exec (.predictReport p q idx io) s = .next t ∧ t.pending = s.pending ∧ t.dev.cmd? p q idx = some (c.ended 0 0) ∧
      t.dev.fld (.sprLayerCount p l) Fd.sprLayerCountAudited =
        satAdd Fd.sprLayerCountAudited.width (s.dev.fld (.sprLayerCount p l) Fd.sprLayerCountAudited) a.length ∧
      t.dev.fld (.sprLayerCount p l) Fd.sprLayerCountMissed =
        satAdd Fd.sprLayerCountMissed.width (s.dev.fld (.sprLayerCount p l) Fd.sprLayerCountMissed) (m.filter fun i => a.contains i).length ∧
      t.dev.reg (.sprLayerState p l) = s.dev.reg (.sprLayerState p l) ∧ t.dev.mem = f.mem ∧ t.dev.cores = s.dev.cores ∧ t.dev.objs = s.dev.objs) ∧
    (fieldOf x.q4 63 62 = 2 → ∃ t : State, exec (.predictUnbind p q idx) s = .next t ∧ t.pending = s.pending ∧
      t.dev.cmd? p q idx = some (c.ended 0 0) ∧ t.dev.reg (.sprLayerState p l) = 0 ∧ t.dev.reg (.sprLayerCount p l) = 0 ∧
      SMap.at' {} (t.dev.part p).layers l = {} ∧ s.dev.sameRegs t.dev [.sprLayerState p l, .sprLayerCount p l, .cmdQStatus p q] ∧ t.dev.mem = s.dev.mem ∧
      t.dev.cores = s.dev.cores ∧ t.dev.objs = s.dev.objs)

/-! ### Training steps and the Cistern -/

/-- R297, R299, R300, R301, R308, R319, R320: a STEP_OPEN whose descriptor keeps its limits opens the step it names: STATE OPEN, the seed it
gives, the scale exponent of a restart, no saturations, and with SELECT 1 its seed lists written; one that breaks a limit leaves the
partition CLOSED and ends with STATUS 0x04; resumed, it selects its seeds again. EVAL_SLOT opens and ends an evaluation interval.
R303 to R306, R309: STEP_CLOSE ends each SAMPLE that waits for its segment with STATUS 0x04 and, once the step's commands have retired,
contributes this chip's totals and waits for the exchange; the exchange complete, or given up, its summary is in hand, and written with the
counter as it is then it ends the command with the partition CLOSED; a summary that a translation fault stops parks the command, and is written again. The
gradient scale falls by one where the group saturated and grows after clean steps; an exchange given up ends with STATUS 0x04 and leaves it.
A close whose update point has to wait for another chip changes nothing yet. -/
def Obligations.StepsOpenAndClose : Prop :=
  (∀ (s : State) (p q idx : Nat) (io : MemIo) (c : Cmd), s.inService = true → p < 8 → s.dev.runningCmd p q idx 0x70 = some c →
      let d0 := s.quiet.dev.withIo io
      let opened := fun (t : State) (c' : Cmd) (e : Device) => exec (.stepOpen p q idx io) s = .next t ∧ t.pending = s.pending ∧
        t.dev.stepState p = 2 ∧ t.dev.cmd? p q idx = some (c'.ended 0 0) ∧ t.dev.mem = e.mem
      (∀ (e : Device) (bs : List Byte), c.begun = false → d0.readDva (s.dev.userOf p c 0) c.desc.q7.toNat 64 = (e, .ok bs) →
        let ws := wordsOf 8 bs
        let c' : Cmd := { c with begun := true, got := [(0, bs)] }
        let d' := (e.updCmd p q idx fun _ => c').commitStep p c' ws
        ((stepDescFault ws).isSome = true → ∃ t : State, exec (.stepOpen p q idx io) s = .next t ∧ t.pending = s.pending ∧
          t.dev.stepState p = 0 ∧ t.dev.cmd? p q idx = some (c.ended 4 0) ∧ t.dev.mem = e.mem ∧ t.dev.cores = s.dev.cores) ∧
        (stepDescFault ws = none → bitOf (ws.getD 1 0).toNat 0 = false → ∃ t : State, opened t c' e ∧
          t.dev.fld (.cisPartStep p) Fd.cisPartStepStep = fieldOf c.desc.q4 31 0 ∧
          (bitOf c.desc.q4.toNat 33 = true ∨ (s.dev.part p).stepped = false → t.dev.gradExp p = fieldOf (ws.getD 0 0) 15 8) ∧
          (bitOf c.desc.q4.toNat 33 = false → (s.dev.part p).stepped = true → t.dev.gradExp p = s.dev.gradExp p) ∧
          t.dev.reg (.cisPartSat p) = 0 ∧
          (t.dev.part p).seed = (if bitOf c.desc.q4.toNat 32 then c.desc.q5 else (s.dev.part p).seed) ∧
          (t.dev.part p).step.group = fieldOf (ws.getD 0 0) 31 16) ∧
        (∀ f : Device, stepDescFault ws = none → bitOf (ws.getD 1 0).toNat 0 = true →
          Device.seedLists (d'.userOf p c' 0) (d'.part p).seed ws (fieldOf c.desc.q4 31 0) (fieldOf (ws.getD 0 0) 47 32) 0 d' = (f, .ok ()) →
          ∃ t : State, opened t c' f)) ∧
      (∀ f : Device, c.begun = true → bitOf ((wordsOf 8 (SMap.at' [] c.got 0)).getD 1 0).toNat 0 = true →
        Device.seedLists (s.dev.userOf p c 0) (s.dev.part p).seed (wordsOf 8 (SMap.at' [] c.got 0)) (fieldOf c.desc.q4 31 0)
          (fieldOf ((wordsOf 8 (SMap.at' [] c.got 0)).getD 0 0) 47 32) 0 d0 = (f, .ok ()) → ∃ t : State, opened t c f)) ∧
  (∀ (s : State) (p q idx : Nat) (c : Cmd), s.inService = true → p < 8 → s.dev.runningCmd p q idx 0x73 = some c →
      s.dev.startFault p c.desc = none →
        (bitOf c.desc.q4.toNat 0 = false → ∃ t : State, exec (.evalSlotOpen p q idx) s = .next t ∧ t.pending = s.pending ∧ t.dev.stepState p = 4 ∧
          t.dev.cmd? p q idx = some (c.ended 0 0) ∧ (t.dev.part p).gen = (s.dev.part p).gen + 1 ∧
          s.dev.sameRegs t.dev [.cisPartStep p, .cmdQStatus p q] ∧ t.dev.mem = s.dev.mem) ∧
        (bitOf c.desc.q4.toNat 0 = true → ∃ t : State, exec (.evalSlotClose p q idx) s = .next t ∧ t.pending = s.pending ∧ t.dev.stepState p = 0 ∧
          t.dev.cmd? p q idx = some (c.ended 0 0) ∧ (∀ h, (t.dev.part p).epochOf ((s.dev.part p).gen + 1) h = 0) ∧ t.dev.mem = s.dev.mem)) ∧
  (∀ (s : State) (p q idx : Nat) (io : MemIo) (c : Cmd), s.inService = true → p < 8 → s.dev.runningCmd p q idx 0x71 = some c →
      let d0 := s.quiet.dev.withIo io
      let waiting := fun (x : Cmd) => s.dev.awaitsSegment p x = true
      let summary := (SMap.at' [] c.got 0).take 16 ++ leBytes 8 s.dev.now.toNat ++ (SMap.at' [] c.got 0).drop 24
      (∀ (q' i : Nat) (x : Cmd), c.begun = false → q' < 64 → s.dev.cmd? p q' i = some x → waiting x → ∃ t : State,
        exec (.stepClose p q idx io) s = .next t ∧ t.pending = s.pending ∧ t.dev.cmd? p q' i = some (x.ended 4 0) ∧ t.dev.mem = s.dev.mem) ∧
      (c.begun = false → (∀ q', q' < 64 → ∀ x ∈ s.dev.queue p q', ¬ waiting x) → s.dev.drained p c = true → ∃ (t : State) (forced : Nat),
        exec (.stepClose p q idx io) s = .next t ∧ t.pending = s.pending ∧ t.dev.cmd? p q idx = some { c with begun := true, aux := [forced] } ∧
        (t.dev.part p).totals.length = (s.dev.part p).totals.length + 1 ∧ (t.dev.part p).normStore = [] ∧ t.dev.stepState p = s.dev.stepState p ∧
        t.dev.objs = s.dev.objs ∧ t.dev.mem = s.dev.mem) ∧
      (∀ e : Device, c.begun = true → c.got ≠ [] →
        d0.writeDva (s.dev.userOf p c 1) c.desc.q4.toNat summary = (e, .ok ()) → ∃ t : State,
        exec (.stepClose p q idx io) s = .next t ∧ t.pending = s.pending ∧ t.dev.stepState p = 0 ∧
        t.dev.cmd? p q idx = some (c.ended (c.aux.getD 1 0) (wordOf (c.aux.getD 2 0))) ∧ (t.dev.part p).lastClosed = s.dev.stepNum p ∧
        t.dev.mem = e.mem ∧ t.dev.objs = s.dev.objs) ∧
      (∀ (e : Device) (kind addr : Nat) (inj : Bool), c.begun = true → c.got ≠ [] → s.dev.stopped (s.dev.workDie p 1) = false →
        d0.writeDva (s.dev.userOf p c 1) c.desc.q4.toNat summary = (e, .error (.xlate kind addr inj)) →
        ∃ (t : State) (c' : Cmd), exec (.stepClose p q idx io) s = .next t ∧ t.pending = s.pending ∧ t.dev.cmd? p q idx = some c' ∧
          c'.parked = some 1 ∧ c'.fault = (kind, addr) ∧ c'.got = c.got ∧ t.dev.stepState p = s.dev.stepState p) ∧
      (∀ moves : List MoveChoice, c.begun = true → c.got = [] → (∀ x ∈ s.dev.queue p q, x.idx = idx → x.held = []) →
        let all := (s.dev.stepMembers p).all fun m => (s.dev.stepTotals p).any fun x => x.1 == m
        let sat := satTotal (s.dev.stepTotals p)
        let clean := s.dev.fld (.cisPartStep p) Fd.cisPartStepCleanSteps + 1
        let grow := (s.dev.part p).step.growInterval
        let closes := fun (i : Instr) (status : Cmd → Prop) (exp : Nat) => ∃ (t : State) (c' : Cmd), exec i s = .next t ∧ t.pending = s.pending ∧
          t.dev.cmd? p q idx = some c' ∧ c'.begun = true ∧ c'.unit = 1 ∧ c'.got ≠ [] ∧ t.dev.gradExp p = exp ∧
          (c'.worked = true ∧ t.dev.stepState p = 0 ∧ status c' ∨ c'.worked = false ∧ t.dev.stepState p = s.dev.stepState p)
        (all = true → (List.range 4).any s.dev.stopped = false → (d0.closeUpdates p c (s.dev.stepTotals p) true).2 = .waits →
          exec (.stepExchangeComplete p q idx moves io) s = .next (s.after fun d => (d.withIo io).endIo)) ∧
        (all = true → (List.range 4).any s.dev.stopped = false → (d0.closeUpdates p c (s.dev.stepTotals p) true).2 ≠ .waits →
          closes (.stepExchangeComplete p q idx moves io) (fun c' => c'.status = 0 ∨ c'.status = 4)
            (if (s.dev.part p).step.evalOnly then s.dev.gradExp p else if 0 < sat then s.dev.gradExp p - 1
              else if grow ≠ 0 ∧ clean = grow then min (s.dev.gradExp p + 1) 24 else s.dev.gradExp p)) ∧
        (all = false → closes (.stepExchangeTimeout p q idx io) (fun c' => c'.status = 4) (s.dev.gradExp p))))

/-- R310 to R314: CISTERN_CFG SETUP configures the window and the step frame; OPEN opens a segment with its reservation; PUSH puts an entry on
top of it where the pool allows, and ends with STATUS 0x04 where it does not; POP frees an entry and all above it; CLOSE closes the segment.
One that breaks the stack rule as it is applied, in its turn, is skipped with reason 0x09. -/
def Obligations.CisternOperations : Prop :=
  ∀ (s : State) (p q idx : Nat) (c : Cmd), s.inService = true → p < 8 → s.dev.runningCmd p q idx 0x72 = some c → s.dev.cisternTurn p q c = true →
    let skipped := fun (row : Instr) => exec row s = .next (s.after fun d => (d.skipLate p q c 0x09 (fieldOf c.desc.q4 15 0)).settleFlows)
    (s.dev.stackHolds p c.desc = false → (fieldOf c.desc.q4 63 61 = 2 → skipped (.cisternPush p q idx)) ∧
      (fieldOf c.desc.q4 63 61 = 3 → skipped (.cisternPop p q idx)) ∧ (fieldOf c.desc.q4 63 61 = 4 → skipped (.cisternClose p q idx))) ∧
    (s.dev.stackHolds p c.desc = true →
    let x := c.desc
    let mb := fieldOf x.q4 15 0
    let i := s.dev.segOf p mb
    (fieldOf x.q4 63 61 = 0 → x.q5.toNat < 2 ^ 48 → ∃ t : State, exec (.cisternSetup p q idx) s = .next t ∧ t.pending = s.pending ∧
      t.dev.cmd? p q idx = some (c.ended 0 0) ∧ t.dev.cisOn p = true ∧ t.dev.cisBase p = x.q5.toNat / 2 ^ 26 * 2 ^ 26 ∧
      t.dev.cisDepth p = fieldOf x.q6 27 24 ∧ t.dev.segLog2 p = fieldOf x.q6 37 32 ∧
      (∀ core ∈ s.dev.partCores p, (t.dev.core core).stepFrame = some (fieldOf x.q6 9 0)) ∧ t.dev.mem = s.dev.mem ∧ t.dev.objs = s.dev.objs) ∧
    (fieldOf x.q4 63 61 = 1 → ∃ t : State, exec (.cisternOpen p q idx) s = .next t ∧ t.pending = s.pending ∧
      t.dev.cmd? p q idx = some (c.ended 0 0) ∧ (t.dev.part p).seg i =
        { isOpen := true, mb := mb, dies := fieldOf x.q4 27 24, reserve := fieldOf x.q5 31 0, gen := c.gen } ∧
      (∀ j, j ≠ i → (t.dev.part p).seg j = (s.dev.part p).seg j) ∧ t.dev.mem = s.dev.mem ∧ t.dev.cores = s.dev.cores) ∧
    (∀ (e : Device) (ok : Bool), fieldOf x.q4 63 61 = 2 →
      s.quiet.dev.pushEntry p i (fieldOf x.q4 25 24) (fieldOf x.q5 63 32) (fieldOf x.q5 31 0) 2 idx c.stepNo = (e, ok) → ∃ t : State,
      exec (.cisternPush p q idx) s = .next t ∧ t.pending = s.pending ∧
      t.dev.cmd? p q idx = some (c.ended (if ok then 0 else 4) 0) ∧
      (ok = true → ∃ pieces, ((t.dev.part p).seg i).entries = ((s.dev.part p).seg i).entries ++
        [{ off := fieldOf x.q5 63 32, len := fieldOf x.q5 31 0, die := fieldOf x.q4 25 24, pieces := pieces }] ∧
        pieces.length = fieldOf x.q5 31 0) ∧
      (ok = false → ((t.dev.part p).seg i).entries = ((s.dev.part p).seg i).entries) ∧ t.dev.mem = s.dev.mem ∧ t.dev.cores = s.dev.cores) ∧
    (fieldOf x.q4 63 61 = 3 → ∃ t : State, exec (.cisternPop p q idx) s = .next t ∧ t.pending = s.pending ∧
      t.dev.cmd? p q idx = some (c.ended 0 0) ∧
      ((t.dev.part p).seg i).entries = ((s.dev.part p).seg i).entries.take (fieldOf x.q4 23 16) ∧
      (∀ j, j ≠ i → (t.dev.part p).seg j = (s.dev.part p).seg j) ∧ t.dev.mem = s.dev.mem ∧ t.dev.cores = s.dev.cores) ∧
    (fieldOf x.q4 63 61 = 4 → ∃ t : State, exec (.cisternClose p q idx) s = .next t ∧ t.pending = s.pending ∧
      t.dev.cmd? p q idx = some (c.ended 0 0) ∧ (t.dev.part p).seg i = {} ∧
      (∀ j, j ≠ i → (t.dev.part p).seg j = (s.dev.part p).seg j) ∧ t.dev.mem = s.dev.mem ∧ t.dev.cores = s.dev.cores))

/-! ### Parameter updates and checkpoints -/

/-- R329, R330, R337, R339: UPDATE BIND binds its rule to a slot where the rule keeps its limits, else ends with STATUS 0x04 and binds nothing; UNBIND
frees the slot; SCHEDULE keeps its schedule for the next step. A CHECKPOINT writes its records in order, from the one it stands at, each a header
and the tiles of a unit or of the column statistic, and ends with the bytes of all in VALUE; one whose buffer is too small ends with STATUS 0x04
and writes nothing. -/
def Obligations.UpdatesBindAndCheckpoint : Prop :=
  ∀ (s : State) (p q idx : Nat) (c : Cmd), s.inService = true → p < 8 →
    (s.dev.runningCmd p q idx 0x80 = some c → s.dev.slotBlocked p c.desc = false →
      let x := c.desc
      let slot := fieldOf x.q4 61 57
      (∀ (io : MemIo) (e : Device) (bs : List Byte) (tab : Table), fieldOf x.q4 63 62 = 0 →
        (s.quiet.dev.withIo io).readDva (s.dev.userOf p c 0) x.q5.toNat 352 = (e, .ok bs) → e.table p (fieldOf x.q4 31 0) = some tab →
        let r : Rule := { handle := fieldOf x.q4 31 0, words := wordsOf 44 bs }
        (e.ruleFault p tab r = none → ∃ t : State, exec (.updateBind p q idx io) s = .next t ∧ t.pending = s.pending ∧
          t.dev.cmd? p q idx = some (c.ended 0 0) ∧ SMap.at' none (t.dev.part p).rules slot =
            some { r with col := if r.factored then List.replicate tab.elems 0 else [] } ∧
          bitOf (t.dev.reg (.updBind p slot)).toNat 0 = true ∧ t.dev.mem = e.mem ∧ t.dev.cores = s.dev.cores) ∧
        ((e.ruleFault p tab r).isSome = true → ∃ t : State, exec (.updateBind p q idx io) s = .next t ∧ t.pending = s.pending ∧
          t.dev.cmd? p q idx = some (c.ended 4 0) ∧ t.dev.parts = e.parts ∧ t.dev.reg (.updBind p slot) = s.dev.reg (.updBind p slot) ∧
          t.dev.mem = e.mem ∧ t.dev.cores = s.dev.cores)) ∧
      (fieldOf x.q4 63 62 = 1 → ∃ t : State, exec (.updateUnbind p q idx) s = .next t ∧ t.pending = s.pending ∧
        t.dev.cmd? p q idx = some (c.ended 0 0) ∧ SMap.at' none (t.dev.part p).rules slot = none ∧ t.dev.reg (.updBind p slot) = 0 ∧
        s.dev.sameRegs t.dev [.updBind p slot, .cmdQStatus p q] ∧ t.dev.mem = s.dev.mem ∧ t.dev.cores = s.dev.cores) ∧
      (∀ (io : MemIo) (e : Device) (bs : List Byte), fieldOf x.q4 63 62 = 2 →
        (s.quiet.dev.withIo io).readDva (s.dev.userOf p c 0) x.q5.toNat 64 = (e, .ok bs) →
        (schedFault (wordsOf 8 bs) = none → ∃ t : State, exec (.updateSchedule p q idx io) s = .next t ∧ t.pending = s.pending ∧
          t.dev.cmd? p q idx = some (c.ended 0 0) ∧
          SMap.at' [] (t.dev.part p).nextSchedules (fieldOf x.q4 59 56) = wordsOf 8 bs ∧ t.dev.mem = e.mem ∧ t.dev.cores = s.dev.cores) ∧
        ((schedFault (wordsOf 8 bs)).isSome = true → ∃ t : State, exec (.updateSchedule p q idx io) s = .next t ∧ t.pending = s.pending ∧
          t.dev.cmd? p q idx = some (c.ended 4 0) ∧ t.dev.parts = e.parts ∧ t.dev.mem = e.mem ∧ t.dev.cores = s.dev.cores))) ∧
    (∀ (io : MemIo) (n : Snapshot) (tab : Table), s.dev.runningCmd p q idx 0x81 = some c →
      SMap.at' none (s.dev.part p).snapshots (snapKey q idx) = some n → s.dev.table p n.handle = some tab →
      let rs := snapRecords n tab
      let size := fun (l : List (Nat × Nat)) => (l.map fun r => recordSize r.2).foldl (· + ·) 0
      (fieldOf c.desc.q6 47 0 < size rs → ∃ t : State, exec (.checkpoint p q idx io) s = .next t ∧ t.pending = s.pending ∧
        t.dev.cmd? p q idx = some (c.ended 4 0) ∧ SMap.at' none (t.dev.part p).snapshots (snapKey q idx) = none ∧ t.dev.mem = s.dev.mem ∧
        t.dev.cores = s.dev.cores) ∧
      (∀ ds : Nat → Device, size rs ≤ fieldOf c.desc.q6 47 0 → ds c.unit = s.quiet.dev.withIo io →
        (∀ i, c.unit ≤ i → i < rs.length → ∃ (e f : Device) (ts : List (List Byte)),
          let r := rs.getD i (0, 0)
          let isCol := n.col ≠ [] ∧ i + 1 = rs.length
          (isCol → e = ds i ∧ ts = (List.range r.2).map fun k =>
            let bs := (n.col.flatMap fun v => leBytes 4 v.toNat).drop (4096 * k) |>.take 4096
            bs ++ List.replicate (4096 - bs.length) 0) ∧
          (¬ isCol → (ds i).snapTiles ((ds i).userOf p c i) n r.1 (tab.unitAt n.epoch r.1) = (e, .ok ts)) ∧
          e.writeDva ((ds i).userOf p c i) (c.desc.q5.toNat + size (rs.take i))
            (recordHeader n.handle n.step n.epoch r.1 r.2 e.chip (if isCol then 0 else tab.fmt) (if isCol then f32One else tab.scale)
              (ts.map crc64) ++ ts.flatten) = (f, .ok ()) ∧
          ds (i + 1) = f.updPart p fun x => { x with
            snapshots := SMap.upd none x.snapshots (snapKey q idx) fun s => s.map fun s => { s with done := i + 1 } }) → ∃ t : State,
        exec (.checkpoint p q idx io) s = .next t ∧ t.pending = s.pending ∧ t.dev.cmd? p q idx = some (c.ended 0 (wordOf (size rs))) ∧
        SMap.at' none (t.dev.part p).snapshots (snapKey q idx) = none ∧ t.dev.mem = (ds (max c.unit rs.length)).mem ∧ t.dev.cores = s.dev.cores))

/-! ### Placement, machine time and feature levels -/

/-- R386, R387, R405: a TABLE_BIND reads its image, waits for the other members' records, places its units, waits until every member has placed
its own, and binds its table with the epoch 1 in VALUE and its map written; one whose image fails or whose units find no room, that another
member fails or that is not confirmed in time, binds nothing and ends with STATUS 0x04. UNBIND marks the table, or frees it. An EPOCH_PUBLISH
goes the same way, its units' places offered to the members that hold copies and agreed by each before any tile is written: complete on this
chip, the next epoch is built and its number is in VALUE; failed, the version it was building is dropped. While a control complex is stopped
neither goes on (R24). -/
def Obligations.TablesBindAndPublish : Prop :=
  ∀ (s : State) (p q idx : Nat) (io : MemIo) (c : Cmd), s.inService = true → p < 8 →
    let x := c.desc
    let h := fieldOf x.q4 63 32
    let members := s.dev.groupMembers p (fieldOf x.q4 22 17)
    let others := members.filter (· != s.dev.chip)
    let told := fun (epoch m : Nat) => (s.dev.part p).told h epoch m
    let heard := fun (epoch m : Nat) => (s.dev.part p).heard h epoch m
    let d0 := s.quiet.dev.withIo io
    (∀ i : Instr, i = .tableBind p q idx io ∨ i = .epochPublish p q idx io → (List.range 4).any s.dev.stopped = true →
      exec i s = .next (s.after fun d => (d.withIo io).endIo)) ∧
    ((List.range 4).any s.dev.stopped = false → s.dev.runningCmd p q idx 0x90 = some c → bitOf x.q4.toNat 31 = false →
      (c.begun = true ∨ d0.startFault p x = none) →
      let fails := fun (e : Device) => ∃ t : State, exec (.tableBind p q idx io) s = .next t ∧ t.pending = s.pending ∧
        t.dev.cmd? p q idx = some (c.ended 4 0) ∧ t.dev.table p h = none ∧ t.dev.mem = e.mem ∧ t.dev.cores = s.dev.cores ∧ t.dev.objs = s.dev.objs
      let stays := fun (e : Device) (stage : Nat) => ∃ (t : State) (c' : Cmd), exec (.tableBind p q idx io) s = .next t ∧ t.pending = s.pending ∧
        t.dev.cmd? p q idx = some c' ∧ c'.begun = true ∧ c'.aux = [stage] ∧ c'.worked = false ∧ (t.dev.table p h).isSome = true ∧
        t.dev.mem = e.mem ∧ t.dev.cores = s.dev.cores ∧ t.dev.objs = s.dev.objs
      ((others.any fun m => (told 1 m).fail != 0) = true → ∃ (t : State) (c' : Cmd), exec (.tableBind p q idx io) s = .next t ∧
        t.pending = s.pending ∧ t.dev.cmd? p q idx = some c' ∧ c'.worked = true ∧ c'.status = 4 ∧ t.dev.table p h = none ∧ t.dev.mem = s.dev.mem) ∧
      ((others.all fun m => (told 1 m).fail == 0) = true →
        (∀ e : Device, c.begun = false → d0.imageOf (s.dev.userOf p c 0) (tableOf x) h x.q7.toNat = (e, .ok none) → fails e) ∧
        (∀ (e : Device) (rs : List UnitRecord), c.begun = false →
          d0.imageOf (s.dev.userOf p c 0) (tableOf x) h x.q7.toNat = (e, .ok (some rs)) → others.all (heard 1) = false → stays e 1) ∧
        (∀ (tab : Table) (e : Device), c.begun = true → c.aux = [1] → others.all (heard 1) = true → s.dev.table p h = some tab →
          (d0.placeUnits p (s.dev.userOf p c 0) h c.ownRecords members = (e, false) → fails e) ∧
          (d0.placeUnits p (s.dev.userOf p c 0) h c.ownRecords members = (e, true) → ∀ f g : Device, e.allotMap p h 1 = (f, true) →
            f.growLogs p = (g, true) → (others.all fun m => (told 1 m).placed) = false → stays g 2)) ∧
        (∀ tab : Table, c.begun = true → c.aux = [2] → s.dev.table p h = some tab → (others.all fun m => (told 1 m).placed) = true →
          ∃ (t : State) (tab' : Table), exec (.tableBind p q idx io) s = .next t ∧ t.pending = s.pending ∧
          t.dev.cmd? p q idx = some (c.ended 0 1) ∧ t.dev.table p h = some tab' ∧ tab'.current = 1 ∧
          t.dev.mem = ((d0.learnUnits p h 1 others).writeMap p h 1).mem ∧ t.dev.cores = s.dev.cores ∧ t.dev.objs = s.dev.objs))) ∧
    (s.dev.runningCmd p q idx 0x90 = some c → c.begun = true → ∃ t : State, exec (.tableBindTimeout p q idx) s = .next t ∧
      t.pending = s.pending ∧ t.dev.cmd? p q idx = some (c.ended 4 0) ∧ t.dev.table p h = none ∧ t.dev.mem = s.dev.mem ∧
      t.dev.cores = s.dev.cores ∧ t.dev.objs = s.dev.objs) ∧
    (∀ tab : Table, s.dev.runningCmd p q idx 0x91 = some c → c.begun = true → s.dev.table p h = some tab → ∃ (t : State) (y : Table),
      exec (.tableBindTimeout p q idx) s = .next t ∧ t.pending = s.pending ∧ t.dev.cmd? p q idx = some (c.ended 4 0) ∧
      t.dev.table p h = some y ∧ y.publish = none ∧ y.current = tab.current ∧ t.dev.mem = s.dev.mem ∧ t.dev.cores = s.dev.cores ∧
      t.dev.objs = s.dev.objs) ∧
    ((List.range 4).any s.dev.stopped = false → s.dev.runningCmd p q idx 0x90 = some c → bitOf x.q4.toNat 31 = true → (c.begun = true ∨ s.dev.startFault p x = none) → ∃ t : State,
      exec (.tableUnbind p q idx) s = .next t ∧ t.pending = s.pending ∧ t.dev.cmd? p q idx = some (c.ended 0 0) ∧
      (∀ tab, t.dev.table p h = some tab → tab.unbinding = true) ∧ t.dev.mem = s.dev.mem ∧ t.dev.cores = s.dev.cores ∧ t.dev.objs = s.dev.objs) ∧
    (∀ tab : Table, (List.range 4).any s.dev.stopped = false → s.dev.runningCmd p q idx 0x91 = some c →
      (c.begun = true ∨ d0.startFault p x = none) → s.dev.table p h = some tab →
      let ms := s.dev.groupMembers p tab.group
      let us := ms.filter (· != s.dev.chip)
      let fails := fun (e : Device) => ∃ (t : State) (y : Table), exec (.epochPublish p q idx io) s = .next t ∧ t.pending = s.pending ∧
        t.dev.cmd? p q idx = some (c.ended 4 0) ∧ t.dev.table p h = some y ∧ y.publish = none ∧ t.dev.mem = e.mem ∧ t.dev.objs = s.dev.objs
      let stays := fun (e : Device) (stage : Nat) (pub : Option Publish) => ∃ (t : State) (c' : Cmd) (y : Table),
        exec (.epochPublish p q idx io) s = .next t ∧ t.pending = s.pending ∧ t.dev.cmd? p q idx = some c' ∧ c'.begun = true ∧
        c'.aux = [stage] ∧ c'.worked = false ∧ t.dev.table p h = some y ∧ y.publish = pub ∧ y.current = tab.current ∧
        t.dev.mem = e.mem ∧ t.dev.objs = s.dev.objs
      (us.all fun m => (told (tab.current + 1) m).fail == 0) = true →
      (∀ e : Device, c.begun = false → d0.imageOf (s.dev.userOf p c 0) tab h x.q5.toNat = (e, .ok none) → fails e) ∧
      (∀ (e : Device) (rs : List UnitRecord), c.begun = false → d0.imageOf (s.dev.userOf p c 0) tab h x.q5.toNat = (e, .ok (some rs)) →
        us.all (heard (tab.current + 1)) = false → stays e 1 (some { switchNs := x.q7 })) ∧
      (∀ (e f : Device) (placed mapped : Bool), c.begun = true → c.aux = [1] → us.all (heard (tab.current + 1)) = true →
        d0.publishPlaces p h c.ownRecords ms = (e, placed) → e.allotMap p h (tab.current + 1) = (f, mapped) →
        ((placed && mapped) = false → fails f) ∧
        ((placed && mapped) = true → (us.all fun m => (told (tab.current + 1) m).offered) = false → stays f 2 tab.publish)) ∧
      (c.begun = true → c.aux = [2] → (us.all fun m => (told (tab.current + 1) m).offered) = true →
        (s.dev.offersFit p = false → fails s.dev) ∧
        (s.dev.offersFit p = true → (us.all fun m => (told (tab.current + 1) m).agreed) = false → stays s.dev 3 tab.publish)) ∧
      (∀ e : Device, c.begun = true → c.aux = [3] → (us.all fun m => (told (tab.current + 1) m).agreed) = true →
        (d0.publishUnits p (s.dev.userOf p c 0) h c.ownRecords ms = (e, .error .waits) →
          exec (.epochPublish p q idx io) s = .next (s.after fun d => (d.withIo io).endIo)) ∧
        (∀ x : MemErr, x ≠ .waits → d0.publishUnits p (s.dev.userOf p c 0) h c.ownRecords ms = (e, .error x) → fails e) ∧
        (d0.publishUnits p (s.dev.userOf p c 0) h c.ownRecords ms = (e, .ok ()) → ∃ t : State,
          exec (.epochPublish p q idx io) s = .next t ∧ t.pending = s.pending ∧
          t.dev.cmd? p q idx = some (c.ended 0 (wordOf (tab.current + 1))) ∧
          (∀ y, t.dev.table p h = some y → ∀ b, y.publish = some b → b.built = true) ∧ t.dev.mem = e.mem ∧ t.dev.cores = s.dev.cores ∧
          t.dev.objs = s.dev.objs)))

/-- R383, R384, R391: a look-up that the directory misses fills it from the map and counts the miss, and one whose map has no such unit is a
placement fault and fills nothing, as it is where the table is not bound; one the directory holds is not counted. A moved unit is copied, by a
DMA group once one is granted, tile by tile to the chip that is to have it, and its copying is complete when every tile is written. -/
def Obligations.DirectoryAndMoves : Prop :=
  ∀ (s : State) (p h u : Nat), s.inService = true →
    (∀ idx epoch : Nat, s.dev.stopped (u % 4) = false →
      let set := SMap.at' [] s.dev.directory (dirKey h u)
      let missed := fun (t : State) => exec (.directoryFill p idx h epoch u) s = .next t ∧ t.pending = s.pending ∧
        t.dev.fld .plcStats Fd.plcStatsMisses = satAdd Fd.plcStatsMisses.width (s.dev.fld .plcStats Fd.plcStatsMisses) 1 ∧
        t.dev.mem = s.dev.mem ∧ t.dev.parts = s.dev.parts
      set.find? (fun e => e.isFor p h epoch u) = none →
      (∀ tab : Table, s.dev.table p h = some tab → epoch ≠ 0 → (tab.unitAt epoch u).valid = true → ∃ t : State, missed t ∧
        SMap.at' [] t.dev.directory (dirKey h u) =
          (({ handle := h, epoch := epoch % 65536, part := p, unit := u, map := tab.unitAt epoch u } :: set).take 16) ∧
        s.dev.sameRegs t.dev [.plcStats])) ∧
    (∀ idx epoch : Nat, s.dev.stopped (u % 4) = false →
      let set := SMap.at' [] s.dev.directory (dirKey h u)
      (epoch = 0 ∨ s.dev.table p h = none ∨ (set.find? (fun e => e.isFor p h epoch u) = none ∧
        ∀ tab : Table, s.dev.table p h = some tab → (tab.unitAt epoch u).valid = false)) → ∃ t : State,
        exec (.directoryFill p idx h epoch u) s = .next t ∧ t.pending = s.pending ∧ t.dev.directory = s.dev.directory ∧
        t.dev.fld .plcStats Fd.plcStatsMisses = satAdd Fd.plcStatsMisses.width (s.dev.fld .plcStats Fd.plcStatsMisses) 1 ∧
        t.dev.mem = s.dev.mem ∧ t.dev.parts = s.dev.parts) ∧
    (∀ (idx epoch : Nat) (e : DirEntry), epoch ≠ 0 → (s.dev.table p h).isSome = true →
      let set := SMap.at' [] s.dev.directory (dirKey h u)
      set.find? (fun e => e.isFor p h epoch u) = some e → ∃ t : State, exec (.directoryFill p idx h epoch u) s = .next t ∧ t.pending = s.pending ∧
      SMap.at' [] t.dev.directory (dirKey h u) = e :: set.filter (fun x => !x.isFor p h epoch u) ∧ t.dev.regs = s.dev.regs ∧
      t.dev.mem = s.dev.mem ∧ t.dev.parts = s.dev.parts) ∧
    (∀ (dst : Nat) (io : MemIo) (v : Move) (tab : Table) (ds : Nat → Device),
      ((s.dev.part p).moves.find? fun v => v.handle == h && v.unit == u && v.dst == dst && v.src == s.dev.chip && !v.copied) = some v →
      s.dev.table p h = some tab →
      let m := tab.unitAt tab.current u
      let user : MemUser := { part := p, cls := 1, die := dieOfOffset m.offset }
      let d0 := s.quiet.dev.withIo io
      s.dev.stopped (dieOfOffset m.offset) = false →
      let granted := v.entry.any fun n => (s.dev.readyOf m.die).any fun e => e.part == p && e.queue == moveQueue && e.idx == n && e.granted
      (granted = false → exec (.moveCopyComplete p h u dst io) s = .next (s.after fun d => ((d.withIo io).queueMove p v).endIo)) ∧
      (granted = true → ds 0 = (if dst = s.dev.chip then d0.clearScales tab v.offset m.tiles else d0) →
      (∀ i, i < m.tiles → ∃ (e : Device) (r : TileRec) (scl : List Byte), (ds i).readCopy user h u { m with read := (ds i).chip } i = (e, .ok (r, scl)) ∧
        e.writeTile user (dst * 2 ^ 50 + v.offset + 4096 * i) (r.hdr.drop 8) r.data scl = (ds (i + 1), .ok ())) → ∃ t : State,
      exec (.moveCopyComplete p h u dst io) s = .next t ∧ t.pending = s.pending ∧
      (t.dev.part p).moves = ((ds m.tiles).part p).moves.map (fun w => if w = v then { w with copied := true, entry := none } else w) ∧
      t.dev.mem = (ds m.tiles).mem ∧ t.dev.far = (ds m.tiles).far ∧ t.dev.cores = s.dev.cores ∧ t.dev.objs = s.dev.objs))

/-- R396, R397, R399, R401, R402: an exchange names the parent of the chip, or makes it the master, which sends no request; with a parent, sixteen
requests are to leave, the first at once where the port whose turn it is takes it, and a chip that was the master is FREE. What the last
exchange brought sets OFFSET_NS and the slew, and the state: LOCKED to 7 ns, UNALIGNED beyond 1 µs, one of these two between (log entry 75).
A TIME request is answered; a reply is kept. Ten milliseconds without an exchange are HOLDOVER, and the slew stays; a master has none. A
FEATURE packet enters the census, of a chip or of a subtree, or brings an enable, pending where it is in range; PLC_FEATURE_CTRL.GO gives the
RESULT of R402 and, accepted, the enable. -/
def Obligations.TimeAndFeatures : Prop :=
  ∀ s : State, s.inService = true →
    (∀ ready : List Nat, s.dev.time.samples = [] → s.dev.chip < 16384 → (∀ r ∈ ready, r < 16384) →
      (parentOf ready s.dev.chip = none → ∃ t : State, exec (.timeExchange ready) s = .next t ∧ t.pending = s.pending ∧
        t.dev.fld .timStatus Fd.timStatusState = 5 ∧ t.dev.fld .timStatus Fd.timStatusHops = 0 ∧
        t.dev.fld .timStatus Fd.timStatusMaster = s.dev.chip ∧ t.dev.time.toSend = 0 ∧ s.dev.sameRegs t.dev [.timStatus, .plcCensus] ∧
        t.dev.mem = s.dev.mem ∧ t.dev.now = s.dev.now ∧ t.dev.slew = s.dev.slew) ∧
      (∀ r, parentOf ready s.dev.chip = some r → ∃ t : State, exec (.timeExchange ready) s = .next t ∧ t.pending = s.pending ∧
        t.dev.fld .timStatus Fd.timStatusParent = r ∧ t.dev.fld .timStatus Fd.timStatusHops = (parentChain ready 3 s.dev.chip).length ∧
        t.dev.fld .timStatus Fd.timStatusState =
          (if s.dev.fld .timStatus Fd.timStatusState = 5 then 0 else s.dev.fld .timStatus Fd.timStatusState) ∧
        ((t.dev.time.toSend = 16 ∧ t.dev.time.seq = s.dev.time.seq ∧ t.dev.time.nextAt = s.dev.now) ∨
          (t.dev.time.toSend = 15 ∧ t.dev.time.seq = (s.dev.time.seq + 1) % 65536 ∧ t.dev.time.nextAt = s.dev.now + 4000)) ∧
        t.dev.mem = s.dev.mem ∧ t.dev.now = s.dev.now)) ∧
    (∀ (ready : List Nat) (θ : Int) (r : Nat), thetaOf s.dev.time.samples = some θ → parentOf ready s.dev.chip = some r → ∃ t : State,
      exec (.timeExchange ready) s = .next t ∧ t.pending = s.pending ∧ t.dev.time.samples = [] ∧
      t.dev.fld .timOffset Fd.timOffsetOffsetNs = int32 θ ∧
      (-7 ≤ θ → θ ≤ 7 → t.dev.fld .timStatus Fd.timStatusState = 2) ∧
      (-1000 ≤ θ → θ ≤ 1000 → t.dev.fld .timStatus Fd.timStatusState = 2 ∨ t.dev.fld .timStatus Fd.timStatusState = 4) ∧
      (1000 < θ → t.dev.fld .timStatus Fd.timStatusState = 4 ∧ t.dev.slew = 200000) ∧
      (θ < -1000 → t.dev.fld .timStatus Fd.timStatusState = 4 ∧ t.dev.slew = -200000) ∧
      -200000 ≤ t.dev.slew ∧ t.dev.slew ≤ 200000 ∧ t.dev.now = s.dev.now ∧ t.dev.mem = s.dev.mem) ∧
    (∀ (m vc : Nat) (k : Packet), s.dev.arrived 0xE 6 = some (m, vc, k) →
      let s1 := (k.getD 1 0).toNat
      let s2 := (k.getD 2 0).toNat
      let w := fun (v : Nat) => wordOf (v % 2 ^ 64)
      (bitOf s2 80 = false → exec .time s = .next (s.after fun d => (d.consume m vc k).sendPacket (pktDie k)
        (timePacket (pktSrc k) d.chip (pktDie k) (w s1) d.now d.now (bitsOf s2 79 64) true))) ∧
      (bitOf s2 80 = true → s.dev.time.samples.length + 1 ≠ 16 → exec .time s = .next (s.after fun d => let e := d.consume m vc k
        { e with time := { e.time with samples := e.time.samples ++ [(w s1, w (s1 / 2 ^ 64), w s2, d.now)] } })) ∧
      (∀ θ : Int, bitOf s2 80 = true → s.dev.time.samples.length + 1 = 16 →
        thetaOf (s.dev.time.samples ++ [(w s1, w (s1 / 2 ^ 64), w s2, s.dev.now)]) = some θ → ∃ t : State, exec .time s = .next t ∧
        t.pending = s.pending ∧ t.dev.time.samples = [] ∧ t.dev.fld .timOffset Fd.timOffsetOffsetNs = int32 θ ∧ t.dev.mem = s.dev.mem)) ∧
    (s.dev.fld .timStatus Fd.timStatusState = 5 → exec .timeHoldover s = .next s.quiet) ∧
    (s.dev.fld .timStatus Fd.timStatusState ≠ 5 → ∃ t : State,
      exec .timeHoldover s = .next t ∧ t.pending = s.pending ∧ t.dev.fld .timStatus Fd.timStatusState = 3 ∧ t.dev.slew = s.dev.slew ∧
      t.dev.now = s.dev.now ∧ t.dev.mem = s.dev.mem) ∧
    (∀ (m vc : Nat) (k : Packet), s.dev.arrived 0xE 5 = some (m, vc, k) →
      let b := (k.getD 1 0).toNat
      (bitsOf b 63 62 = 0 → ∃ t : State, exec .feature s = .next t ∧ t.pending = s.pending ∧
        SMap.at' (0, 0, 0) t.dev.time.census (pktSrc k) = (1, bitsOf b 15 0, bitsOf b 31 16) ∧ t.dev.enable = s.dev.enable ∧
        t.dev.mem = s.dev.mem) ∧
      (bitsOf b 63 62 = 1 → ∃ t : State, exec .feature s = .next t ∧ t.pending = s.pending ∧
        SMap.at' (0, 0, 0) t.dev.time.census (pktSrc k) = (bitsOf b 78 64, bitsOf b 15 0, bitsOf b 31 16) ∧ t.dev.enable = s.dev.enable ∧
        t.dev.mem = s.dev.mem) ∧
      (bitsOf b 63 62 = 2 → (bitsOf b 47 32 < s.dev.fld .plcFeature Fd.plcFeatureBase ∨
        s.dev.fld .plcFeature Fd.plcFeatureAdvertised < bitsOf b 47 32) → ∃ t : State, exec .feature s = .next t ∧ t.pending = s.pending ∧
        t.dev.enable = s.dev.enable ∧ t.dev.levelOut = true ∧ t.dev.mem = s.dev.mem) ∧
      (bitsOf b 63 62 = 3 → exec .feature s = .next (s.after fun d => d.consume m vc k)) ∧
      (bitsOf b 63 62 = 2 → s.dev.fld .plcFeature Fd.plcFeatureBase ≤ bitsOf b 47 32 →
        bitsOf b 47 32 ≤ s.dev.fld .plcFeature Fd.plcFeatureAdvertised → ∃ t : State, exec .feature s = .next t ∧ t.pending = s.pending ∧
        t.dev.enable = some (bitsOf b 47 32, wordOf (bitsOf b 127 64)) ∧ t.dev.levelOut = false ∧
        t.dev.fld .plcFeature Fd.plcFeaturePending = bitsOf b 47 32 ∧ t.dev.mem = s.dev.mem)) ∧
    (∀ lvl : Nat, ∃ t : State, let level := lvl % 65536
      exec (.featureEnableGo lvl) s = .next t ∧ t.pending = s.pending ∧
      t.dev.fld .plcFeatureCtrl Fd.plcFeatureCtrlResult =
        (if s.dev.fld .timStatus Fd.timStatusState ≠ 5 then 2
         else if s.dev.census.1 ≠ s.dev.fld .plcCfg Fd.plcCfgMachineChipsM1 + 1 then 3
         else if level < s.dev.census.2.1 ∨ s.dev.census.2.2 < level then 4 else 1) ∧
      t.dev.enable = (if t.dev.fld .plcFeatureCtrl Fd.plcFeatureCtrlResult = 1 then
          some (level, s.dev.now + wordOf (1000000 * max 1 (s.dev.fld .plcCfg Fd.plcCfgLeadMs))) else s.dev.enable) ∧
      t.dev.mem = s.dev.mem ∧ t.dev.queues = s.dev.queues)

/-! ### Contexts -/

/-- R408 to R414, R420: CTX_SAVE, as a command or a register request, sets the partition SAVING and disables its rings; at the switch point the area
is written; its header written, the partition is EMPTY with its memory suspended. A save without a switch point in time, one of a context
that goes beyond DECLARED and one that cannot write its area leave the partition ACTIVE, RESULT 3 or 4; one in a state that accepts none
RESULT 6. DISCARD frees an EMPTY partition; in any other state RESULT is 6 and nothing changes. -/
def Obligations.ContextsSaveAndDiscard : Prop :=
  ∀ (s : State) (p : Nat), s.inService = true → p < 8 →
    (∀ (q idx : Nat) (c : Cmd), s.dev.runningCmd p q idx 0xA0 = some c → c.begun = false → s.dev.startFault p c.desc = none →
      s.dev.resetCovers (fieldOf c.desc.q4 2 0) = false → ∃ t : State, exec (.ctxSave p q idx) s = .next t ∧ t.pending = s.pending ∧
      t.dev.ctxState (fieldOf c.desc.q4 2 0) = 2 ∧
      t.dev.fld (.ctxPartStatus (fieldOf c.desc.q4 2 0)) Fd.ctxPartStatusResult = 1 ∧
      (t.dev.part (fieldOf c.desc.q4 2 0)).ctxId = fieldOf c.desc.q4 63 32 ∧
      (∀ r, r < 64 → t.dev.sqState (fieldOf c.desc.q4 2 0) r = 0) ∧
      t.dev.cmd? p q idx = some { c with begun := true } ∧ t.dev.mem = s.dev.mem ∧ t.dev.cores = s.dev.cores ∧ t.dev.objs = s.dev.objs) ∧
    (∀ w : Word, s.dev.ctxState p = 1 → s.dev.resetCovers p = false → ∃ t : State, exec (.ctxSaveRequest p w) s = .next t ∧
      t.pending = s.pending ∧ t.dev.ctxState p = 2 ∧ t.dev.fld (.ctxPartStatus p) Fd.ctxPartStatusResult = 1 ∧
      (t.dev.part p).ctxId = fieldOf w 63 32 ∧ (∀ r, r < 64 → t.dev.sqState p r = 0) ∧ t.dev.queues = s.dev.queues ∧
      t.dev.mem = s.dev.mem ∧ t.dev.cores = s.dev.cores ∧ t.dev.objs = s.dev.objs) ∧
    (∀ w : Word, s.dev.ctxState p ≠ 1 ∨ s.dev.resetCovers p = true → ∃ t : State, exec (.ctxSaveRequest p w) s = .next t ∧
      t.pending = s.pending ∧ t.dev.ctxState p = s.dev.ctxState p ∧ t.dev.fld (.ctxPartStatus p) Fd.ctxPartStatusResult = 6 ∧
      s.dev.sameRegs t.dev [.ctxPartCtrl p, .ctxPartStatus p] ∧ s.dev.sameButRegs t.dev) ∧
    (∀ (io : MemIo) (w : SwitchRun), (s.dev.part p).switch = some w → s.dev.ctxState p = 2 → w.crcs = none →
      s.dev.switchPoint p = true → s.dev.beyond p w.declared = true → (∀ h ∈ s.dev.heldSignals, h.ctx ≠ w.ctx) → ∃ t : State,
      exec (.switchPointReached p io) s = .next t ∧ t.pending = s.pending ∧ t.dev.ctxState p = 1 ∧
      t.dev.fld (.ctxPartStatus p) Fd.ctxPartStatusResult = 4 ∧ (t.dev.part p).switch = none ∧ t.dev.mem = s.dev.mem ∧
      t.dev.cores = s.dev.cores ∧ t.dev.objs = s.dev.objs) ∧
    (∀ (io : MemIo) (w : SwitchRun), (s.dev.part p).switch = some w → s.dev.ctxState p = 2 → w.crcs = none →
      s.dev.switchPoint p = true → s.dev.beyond p w.declared = false →
      let d0 := s.quiet.dev.withIo io
      let e0 := d0.ctxOf p w.declared
      let secs := d0.sections p w e0 d0.free
      let e : EngineCtx := { e0 with length := (e0.section (d0.free + 1)).length }
      let r := ({ d0 with free := d0.free + 1 + e.records.length } : Device).writeArea (s.dev.ctxUser p) w.area secs.flatten
      ∃ t : State, exec (.switchPointReached p io) s = .next t ∧ t.pending = s.pending ∧
        (r.2 = .ok () → t.dev.mem = r.1.mem ∧ t.dev.ctxState p = 2 ∧ SMap.at' none t.dev.saving p = some e ∧
          (t.dev.part p).switch = some { w with crcs := some (secs.map sectionCrc) } ∧ t.dev.queues = s.dev.queues ∧
          t.dev.cores = s.dev.cores) ∧
        (r.2 ≠ .ok () → (∀ h ∈ s.dev.heldSignals, h.ctx ≠ w.ctx) → t.dev.mem = r.1.mem ∧ t.dev.ctxState p = 1 ∧
          t.dev.fld (.ctxPartStatus p) Fd.ctxPartStatusResult = 4 ∧ (t.dev.part p).switch = none)) ∧
    (∀ (io : MemIo) (w : SwitchRun) (crcs : List Word) (e : EngineCtx), (s.dev.part p).switch = some w → s.dev.ctxState p = 2 →
      w.crcs = some crcs → SMap.at' none s.dev.saving p = some e →
      let r := (s.quiet.dev.withIo io).writeArea (s.dev.ctxUser p) w.area [(0, s.dev.areaHeader p w crcs)]
      ∃ t : State, exec (.saveAreaWritten p io) s = .next t ∧ t.pending = s.pending ∧
        (r.2 = .ok () → t.dev.mem = r.1.mem ∧ t.dev.ctxState p = 3 ∧ t.dev.fld (.ctxPartStatus p) Fd.ctxPartStatusSuspended = 1 ∧
          t.dev.fld (.ctxPartStatus p) Fd.ctxPartStatusResult = 2 ∧ (t.dev.part p).switch = none ∧
          (t.dev.part p).tables = (s.dev.part p).tables ∧ (∀ q, q < 64 → t.dev.queue p q = []) ∧
          t.dev.saves = s.dev.saves ++ io.areas ++ [{ stamp := s.dev.now, crcs := crcs, engine := e }]) ∧
        (r.2 ≠ .ok () → (∀ h ∈ s.dev.heldSignals, h.ctx ≠ w.ctx) → t.dev.mem = r.1.mem ∧ t.dev.ctxState p = 1 ∧
          t.dev.fld (.ctxPartStatus p) Fd.ctxPartStatusResult = 4 ∧ (t.dev.part p).switch = none)) ∧
    (∀ w : SwitchRun, (s.dev.part p).switch = some w → s.dev.ctxState p = 2 → w.crcs = none → s.dev.switchPoint p = false →
      (∀ h ∈ s.dev.heldSignals, h.ctx ≠ w.ctx) → ∃ t : State, exec (.saveWaitTimeout p) s = .next t ∧ t.pending = s.pending ∧ t.dev.ctxState p = 1 ∧
      t.dev.fld (.ctxPartStatus p) Fd.ctxPartStatusResult = 3 ∧ (t.dev.part p).switch = none ∧ t.dev.mem = s.dev.mem ∧
      t.dev.cores = s.dev.cores ∧ t.dev.objs = s.dev.objs) ∧
    (∀ w : Word, (s.dev.ctxState p = 3 → ∃ t : State, exec (.ctxDiscard p w) s = .next t ∧ t.pending = s.pending ∧ t.dev.ctxState p = 1 ∧
        t.dev.fld (.ctxPartStatus p) Fd.ctxPartStatusResult = 2 ∧ t.dev.fld (.ctxPartStatus p) Fd.ctxPartStatusSuspended = 0 ∧
        (t.dev.part p).tables = [] ∧ (t.dev.part p).segs = [] ∧ (∀ x ∈ t.dev.heldSignals, x.part ≠ p) ∧ t.dev.mem = s.dev.mem) ∧
      (s.dev.ctxState p ≠ 3 → ∃ t : State, exec (.ctxDiscard p w) s = .next t ∧ t.pending = s.pending ∧
        t.dev.ctxState p = s.dev.ctxState p ∧ t.dev.fld (.ctxPartStatus p) Fd.ctxPartStatusResult = 6 ∧
        s.dev.sameRegs t.dev [.ctxPartCtrl p, .ctxPartStatus p] ∧ s.dev.sameButRegs t.dev))

/-- R415 to R419, R423: a restore whose area passes its tests is taken up: RESTORING; one that fails them is refused, RESULT 5, and the partition
keeps its state. Complete, the partition is ACTIVE, RESULT 2, with nothing suspended; one that fails then returns to the state before. -/
def Obligations.ContextsRestore : Prop :=
  ∀ (s : State) (p : Nat) (mio : MemIo) (areas : List SavedCtx), s.inService = true → p < 8 →
    let io : MemIo := { mio with areas := areas }
    (∀ (q idx : Nat) (c : Cmd), s.dev.runningCmd p q idx 0xA1 = some c → c.begun = false → (s.quiet.dev.withIo io).startFault p c.desc = none →
      let x := fieldOf c.desc.q4 2 0
      s.dev.resetCovers x = false →
      let r := ((s.quiet.dev.withIo io).updCmd p q idx fun y => { y with begun := true }).readContext x (ctxCommand p q c) true
      ∃ t : State, exec (.ctxRestore p q idx mio areas) s = .next t ∧ t.pending = s.pending ∧ t.dev.mem = r.1.mem ∧
        t.dev.cores = s.dev.cores ∧
        (∀ y, r.2 = .ok y → t.dev.ctxState x = 4 ∧ t.dev.fld (.ctxPartStatus x) Fd.ctxPartStatusResult = 1 ∧
          t.dev.cmd? p q idx = some { c with begun := true }) ∧
        (∀ reason, r.2 = .error reason → t.dev.ctxState x = s.dev.ctxState x ∧ t.dev.fld (.ctxPartStatus x) Fd.ctxPartStatusResult = 5 ∧
          t.dev.cmd? p q idx = some (c.ended 4 0))) ∧
    (∀ w : Word, s.dev.ctxState p = 1 ∨ s.dev.ctxState p = 3 → s.dev.resetCovers p = false →
      let d := (s.quiet.dev.withIo io).ctxCtrl p w
      let r := d.readContext p (d.ctxRequest p) true
      ∃ t : State, exec (.ctxRestoreRequest p w mio areas) s = .next t ∧ t.pending = s.pending ∧ t.dev.mem = r.1.mem ∧
        t.dev.cores = s.dev.cores ∧ t.dev.queues = s.dev.queues ∧
        (∀ y, r.2 = .ok y → t.dev.ctxState p = 4 ∧ t.dev.fld (.ctxPartStatus p) Fd.ctxPartStatusResult = 1) ∧
        (∀ reason, r.2 = .error reason → t.dev.ctxState p = s.dev.ctxState p ∧ t.dev.fld (.ctxPartStatus p) Fd.ctxPartStatusResult = 5 ∧
          t.dev.parts = s.dev.parts)) ∧
    (∀ w : SwitchRun, (s.dev.part p).switch = some w → s.dev.ctxState p = 4 → w.prev < 16 →
      (∀ h ∈ s.dev.heldSignals, h.ctx ≠ w.ctx ∧ h.part ≠ p) →
      let r := (s.quiet.dev.withIo io).readContext p w false
      ∃ t : State, exec (.restoreComplete p mio areas) s = .next t ∧ t.pending = s.pending ∧ (t.dev.part p).switch = none ∧
        (∀ y, r.2 = .ok y → t.dev.ctxState p = 1 ∧ t.dev.fld (.ctxPartStatus p) Fd.ctxPartStatusResult = 2 ∧
          t.dev.fld (.ctxPartStatus p) Fd.ctxPartStatusSuspended = 0) ∧
        (∀ reason, r.2 = .error reason → t.dev.ctxState p = w.prev ∧ t.dev.fld (.ctxPartStatus p) Fd.ctxPartStatusResult = 5 ∧
          t.dev.mem = r.1.mem ∧ t.dev.cores = s.dev.cores))

/-! ### Collectives -/

/-- R370, R371, R404: FORM with a list that is not one, or whose checks no longer hold, ends with STATUS 0x04; a chip that is a group by itself forms it at once; with other members it
waits for their votes, forms the group when all agree, and ends with STATUS 0x04 where a member is below its level or its time passes; votes for another FORM stay. DISBAND leaves nothing of the group here but the votes of
other members for its next FORM. -/
def Obligations.GroupsFormAndDisband : Prop :=
  ∀ (s : State) (p q idx : Nat) (c : Cmd), s.inService = true → p < 8 → s.dev.runningCmd p q idx 0xB0 = some c →
    let g := fieldOf c.desc.q4 59 54
    let level := fieldOf c.desc.q4 47 32
    (∀ (io : MemIo), fieldOf c.desc.q4 63 60 = 0 → c.begun = false → ((s.quiet.dev.withIo io).startFault p c.desc).isSome = true → ∃ t : State,
      exec (.collForm p q idx io) s = .next t ∧ t.pending = s.pending ∧ t.dev.cmd? p q idx = some (c.ended 4 0) ∧
      t.dev.groups = s.dev.groups ∧ t.dev.mem = s.dev.mem ∧ t.dev.cores = s.dev.cores) ∧
    (∀ (io : MemIo) (e : Device) (bs : List Byte), fieldOf c.desc.q4 63 60 = 0 → c.begun = false →
      (s.quiet.dev.withIo io).startFault p c.desc = none →
      (s.quiet.dev.withIo io).readDva (s.dev.userOf p c 0) c.desc.q5.toNat (2 * (fieldOf c.desc.q4 13 0 + 1)) = (e, .ok bs) →
      let l := ({ c with begun := true, got := [(0, bs)] } : Cmd).formList
      (s.dev.listOk l = false → ∃ t : State, exec (.collForm p q idx io) s = .next t ∧ t.pending = s.pending ∧
        t.dev.cmd? p q idx = some (c.ended 4 0) ∧ t.dev.groups = s.dev.groups ∧ t.dev.mem = e.mem ∧ t.dev.cores = s.dev.cores) ∧
      (l = [s.dev.chip] → s.dev.listOk l = true → level ≤ s.dev.fld .plcFeature Fd.plcFeatureAdvertised →
        level ≤ s.dev.fld .plcFeature Fd.plcFeatureEnabled → s.dev.levelOut = false → ∃ t : State, exec (.collForm p q idx io) s = .next t ∧
        t.pending = s.pending ∧ t.dev.cmd? p q idx = some ({ c with got := [(0, bs)] }.ended 0 0) ∧ t.dev.groupMembers p g = [s.dev.chip] ∧
        t.dev.reg (.lnkGroup p g) = wordOf (2 ^ 63 + level * 2 ^ 32) ∧ t.dev.mem = e.mem ∧ t.dev.cores = s.dev.cores) ∧
      (∀ m ∈ l, s.dev.listOk l = true → m ≠ s.dev.chip → s.dev.voteOf p g m = none → ∃ t : State,
        exec (.collForm p q idx io) s = .next t ∧ t.pending = s.pending ∧
        t.dev.cmd? p q idx = some { c with begun := true, got := [(0, bs)] } ∧ t.dev.groupMembers p g = s.dev.groupMembers p g ∧
        t.dev.reg (.lnkGroup p g) = s.dev.reg (.lnkGroup p g) ∧ t.dev.mem = e.mem ∧ t.dev.cores = s.dev.cores)) ∧
    (∀ io : MemIo, fieldOf c.desc.q4 63 60 = 0 → c.begun = true →
      let l := c.formList
      (∀ m ∈ l, ∃ v, s.dev.voteOf p g m = some v ∧ v.members = l ∧ v.level = level) →
      ((∀ m ∈ l, ∀ v, s.dev.voteOf p g m = some v → level ≤ v.advertised ∧ level ≤ v.enabled) → s.dev.levelOut = false → ∃ t : State,
        exec (.collForm p q idx io) s = .next t ∧ t.pending = s.pending ∧ t.dev.cmd? p q idx = some (c.ended 0 0) ∧ t.dev.groupMembers p g = l ∧
        t.dev.reg (.lnkGroup p g) = wordOf (2 ^ 63 + level * 2 ^ 32 + (l.length - 1) * 2 ^ 18 + l.idxOf s.dev.chip * 2 ^ 4) ∧
        t.dev.mem = s.dev.mem ∧ t.dev.cores = s.dev.cores) ∧
      ((∃ m ∈ l, ∃ v, s.dev.voteOf p g m = some v ∧ (v.advertised < level ∨ v.enabled < level)) → ∃ t : State,
        exec (.collForm p q idx io) s = .next t ∧ t.pending = s.pending ∧ t.dev.cmd? p q idx = some (c.ended 4 0) ∧
        (t.dev.group p g).votes = (s.dev.group p g).votes.filter (fun v => !(l.filterMap (s.dev.voteOf p g)).contains v) ∧
        t.dev.groupMembers p g = s.dev.groupMembers p g ∧ t.dev.mem = s.dev.mem)) ∧
    (fieldOf c.desc.q4 63 60 = 0 → c.begun = true → ∃ t : State, exec (.collFormTimeout p q idx) s = .next t ∧ t.pending = s.pending ∧
      t.dev.cmd? p q idx = some (c.ended 4 0) ∧ (t.dev.group p g).votes = [] ∧ t.dev.groupMembers p g = s.dev.groupMembers p g ∧
      t.dev.mem = s.dev.mem ∧ t.dev.cores = s.dev.cores) ∧
    (fieldOf c.desc.q4 63 60 = 1 → c.begun = false → s.dev.startFault p c.desc = none → ∃ t : State,
      exec (.collDisband p q idx) s = .next t ∧ t.pending = s.pending ∧ t.dev.cmd? p q idx = some (c.ended 0 0) ∧
      t.dev.group p g = { votes := (s.dev.group p g).votes.filter fun v => v.chip != s.dev.chip } ∧
      t.dev.reg (.lnkGroup p g) = 0 ∧ ((s.dev.part p).moves = [] → s.dev.sameRegs t.dev [.lnkGroup p g, .cmdQStatus p q]) ∧
      t.dev.mem = s.dev.mem ∧ t.dev.cores = s.dev.cores ∧ t.dev.objs = s.dev.objs)

/-- R370 to R373: ALLREDUCE, BROADCAST and ALLGATHER begin with the group's next sequence number; when every member has begun the same collective and
all its data has come, the result is written and the command ends with STATUS 0. A PUT to memory of this chip merges its bytes there, piece by
piece, and gives its signal; one to another chip takes a delivery flow, waiting where none is free, and leaves as one request for each piece,
and one for its signal. -/
def Obligations.CollectivesCombine : Prop :=
  ∀ (s : State) (p q idx op : Nat) (i : Instr) (io : MemIo) (c : Cmd), s.inService = true → p < 8 → s.dev.runningCmd p q idx 0xB0 = some c →
    fieldOf c.desc.q4 63 60 = op →
    let g := fieldOf c.desc.q4 59 54
    let w := collWhat c.desc
    let members := s.dev.groupMembers p g
    let others := members.filter (· != s.dev.chip)
    ((op, i) ∈ [(2, Instr.allreduce p q idx io), (3, Instr.broadcast p q idx io), (4, Instr.allgather p q idx io)] →
      (∀ (e : Device) (bs : List Byte), c.begun = false → s.dev.startFault p c.desc = none →
        (if w.op ≠ 3 ∨ members.idxOf s.dev.chip = w.root then
          (s.quiet.dev.withIo io).readDva (s.dev.userOf p c 0) c.desc.q5.toNat (whatBytes w) else (s.quiet.dev.withIo io, .ok [])) = (e, .ok bs) →
        ∃ (t : State) (c' : Cmd), exec i s = .next t ∧ t.pending = s.pending ∧ t.dev.cmd? p q idx = some c' ∧ c'.begun = true ∧
        c'.aux = [(s.dev.group p g).seq + 1] ∧ (t.dev.group p g).seq = (s.dev.group p g).seq + 1 ∧
        t.dev.groupMembers p g = members ∧ t.dev.cores = s.dev.cores ∧ t.dev.objs = s.dev.objs) ∧
      (∀ e : Device, c.begun = true →
        let seq := c.aux.getD 0 0
        let told := fun m => (s.dev.group p g).told.find? fun x => x.1 == m && x.2.1 == seq
        let bytes := members.zipIdx.map fun m => if m.1 = s.dev.chip then SMap.at' [] c.got 0 else s.dev.collBytes p g seq m.2 w
        (others.all fun m => (told m).any fun x => x.2.2 == w) = true →
        (bytes.zipIdx.all fun b => b.1.length == if w.op = 3 ∧ b.2 ≠ w.root then 0 else whatBytes w) = true →
        (s.quiet.dev.withIo io).writeDva (s.dev.userOf p c 0) c.desc.q6.toNat (if op = 2 then reduceBytes w bytes else bytes.flatten) =
          (e, .ok ()) → ∃ t : State, exec i s = .next t ∧ t.pending = s.pending ∧ t.dev.cmd? p q idx = some (c.ended 0 0) ∧
        t.dev.mem = e.mem ∧ t.dev.side = e.side ∧ t.dev.cores = s.dev.cores ∧ t.dev.objs = s.dev.objs)) ∧
    (∀ (e : Device) (bs : List Byte), op = 5 → c.begun = false → s.dev.startFault p c.desc = none →
      let addr := c.desc.q6.toNat
      let u := s.dev.userOf p c 0
      let pieces := putPieces addr bs.length
      let sig := fieldOf c.desc.q7 22 20
      (s.quiet.dev.withIo io).readDva u c.desc.q5.toNat (fieldOf c.desc.q4 31 0) = (e, .ok bs) →
      (∀ ds : Nat → Device, s.dev.own addr = true → ds 0 = e →
        (∀ i, i < pieces.length → offsetMapped (offOf addr + (pieces.getD i (0, 0)).1) = true ∧
          (ds i).mergeWrite u (offOf addr + (pieces.getD i (0, 0)).1)
            ((bs.drop (pieces.getD i (0, 0)).1).take (pieces.getD i (0, 0)).2) true = (ds (i + 1), .ok ())) →
        let f := ds pieces.length
        (sig = 0 → ∃ t : State, exec (.put p q idx io) s = .next t ∧ t.pending = s.pending ∧ t.dev.cmd? p q idx = some (c.ended 0 0) ∧
          t.dev.mem = f.mem ∧ t.dev.side = f.side ∧ t.dev.cores = s.dev.cores ∧ t.dev.objs = s.dev.objs) ∧
        (sig ≠ 0 → let g := f.chipSignal (fieldOf c.desc.q7 19 17) (fieldOf c.desc.q7 16 0) sig (fieldOf c.desc.q7 63 32) e.chip
          ∃ t : State, exec (.put p q idx io) s = .next t ∧ t.pending = s.pending ∧
          t.dev.cmd? p q idx = (g.1.cmd? p q idx).map (fun x => x.ended (if g.2 = 0 then 0 else 4) 0) ∧
          t.dev.mem = g.1.mem ∧ t.dev.side = g.1.side ∧ t.dev.objs = g.1.objs)) ∧
      (s.dev.own addr = false → bs ≠ [] →
        (∀ f : Device, e.takeFlow u.die p q idx = (f, none) → ∃ t : State, exec (.put p q idx io) s = .next t ∧ t.pending = s.pending ∧
          t.dev.cmd? p q idx = some c ∧ t.dev.nextReq = e.nextReq ∧ t.dev.mem = e.mem) ∧
        (∀ (f : Device) (flow : Nat), e.takeFlow u.die p q idx = (f, some flow) → ∃ t : State,
          exec (.put p q idx io) s = .next t ∧ t.pending = s.pending ∧ t.dev.cmd? p q idx = some { c with begun := true, flow := some flow } ∧
          t.dev.nextReq = e.nextReq + pieces.length + (if sig = 0 then 0 else 1) ∧ t.dev.mem = e.mem)))

/-! ### The matrix array and the vector engine -/

/-- R162, R167 to R169, R172, R174, R179, R183: at a core that can run and is not stalled, MMA, DRAIN, SLOT_CLEAR and ARRAY_SYNC are issued, on
their core alone. With nothing queued they take effect and the program goes on: an MMA adds one to its chain, a DRAIN that does not keep its
slot and SLOT_CLEAR leave it EMPTY, and ARRAY_SYNC makes the array's writes seen; an MMA that a rule stops leaves the core FAULTED. Behind a
DRAIN that waits they are queued; the waiting DRAIN takes effect once a credit is free. -/
def Obligations.ArrayInstructions : Prop :=
  ∀ (s : State) (c : Nat) (k : Core), s.inService = true → k = s.dev.core c → (∀ w ∈ k.aq ++ k.vq, w.flow = none) →
    let it := s.dev.itemAt c
    let d := s.quiet.dev.takeLease c
    let comes := fun (e : Device) (i : Instr) => ∃ t : State, exec i s = .next t ∧ t.pending = s.pending ∧ t.dev.core c = e.core c ∧
      (∀ x, x ≠ c → t.dev.core x = s.dev.core x) ∧ t.dev.mem = s.dev.mem
    let goes := fun (e : Device) (i : Instr) => ∃ t : State, exec i s = .next t ∧ t.pending = s.pending ∧
      t.dev.core c = (e.advance c).core c ∧ (∀ x, x ≠ c → t.dev.core x = s.dev.core x) ∧ t.dev.mem = s.dev.mem ∧
      (k.loops = [] → k.pc % 512 ≠ 511 → t.dev.core c = { e.core c with pc := k.pc + 1 } ∧ (∀ r : Reg, t.dev.reg r = e.reg r) ∧
        t.dev.objs = s.dev.objs ∧ t.dev.queues = s.dev.queues)
    (s.dev.canRun c = true → s.dev.itemFlow c it = none → s.dev.stallsOn c = false →
      (∀ (cls : Nat) (i : Instr), (cls, i) ∈ [(0x10, Instr.mma c), (0x11, Instr.drain c), (0x12, Instr.slotClear c)] → wordClass it.word = cls →
        comes (d.issueArray c it) i ∧
        (k.aq ≠ [] → k.loops = [] → k.pc % 512 ≠ 511 → goes (d.updCore c fun k => { k with aq := k.aq ++ [it] }) i)) ∧
      (wordClass it.word = 0x13 → fieldOf it.word 55 0 = 0 → goes (d.updCore c fun k => k.sync .array) (.arraySync c)) ∧
      (k.aq = [] → k.vq = [] →
        (∀ e : Device, wordClass it.word = 0x10 → d.mma c it = (e, none) → goes e (.mma c) ∧
          ((e.core c).slot (slotNamed it)).n = (if bitOf it.word.toNat 45 then 0 else (k.slot (slotNamed it)).n) + 1) ∧
        (∀ (e : Device) (f : UnitFault), wordClass it.word = 0x10 → d.mma c it = (e, some f) → ∃ t : State, exec (.mma c) s = .next t ∧
          t.pending = s.pending ∧ (t.dev.core c).st = .faulted ∧ (t.dev.core c).slots = k.slots ∧ t.dev.mem = s.dev.mem) ∧
        (wordClass it.word = 0x11 → drainFault k (k.view .array s.dev.free) it = none → fieldOf it.word 51 50 = 1 ∨ k.tq.length < 8 →
          goes (d.drain c it) (.drain c) ∧
          (bitOf it.word.toNat 4 = false → ((d.drain c it).core c).slot (slotNamed it) = {})) ∧
        (∀ e : Device, wordClass it.word = 0x12 → d.slotClear c it = (e, none) → goes e (.slotClear c) ∧
          (e.core c).slot (slotNamed it) = {}))) ∧
    (s.dev.domState c = 2 → k.aq ≠ [] → k.tq.length < 8 → comes (s.quiet.dev.unitsGo c) (.drainCreditGrant c)) ∧
    (∀ w : QItem, s.dev.domState c = 2 → k.aq = [w] → k.vq = [] → fieldOf w.word 63 56 = 0x11 → k.tq.length < 8 →
      drainFault k (k.view .array s.dev.free) w = none →
      comes ((s.quiet.dev.updCore c fun k => { k with aq := [] }).drain c w) (.drainCreditGrant c))

/-- R188 to R205: at a core that can run and is not stalled, the vector instructions are issued, on their core alone. With nothing queued one that no
rule stops takes effect and the program goes on; one that a rule stops leaves the core FAULTED; behind a VCHAIN that waits they are queued.
VMOVS moves between a scalar register and a lane, the sticky flags or a mask, VMASK combines masks, VSYNC makes the vector engine's writes
seen. -/
def Obligations.VectorInstructions : Prop :=
  ∀ (s : State) (c : Nat) (k : Core), s.inService = true → k = s.dev.core c → (∀ w ∈ k.aq ++ k.vq, w.flow = none) → s.dev.canRun c = true →
    s.dev.itemFlow c (s.dev.itemAt c) = none → s.dev.stallsOn c = false →
    let it := s.dev.itemAt c
    let w := it.word
    let d := s.quiet.dev.takeLease c
    let comes := fun (e : Device) (i : Instr) => ∃ t : State, exec i s = .next t ∧ t.pending = s.pending ∧ t.dev.core c = e.core c ∧
      (∀ x, x ≠ c → t.dev.core x = s.dev.core x) ∧ t.dev.mem = s.dev.mem
    let goes := fun (e : Device) (i : Instr) => ∃ t : State, exec i s = .next t ∧ t.pending = s.pending ∧
      t.dev.core c = (e.advance c).core c ∧ (∀ x, x ≠ c → t.dev.core x = s.dev.core x) ∧ t.dev.mem = s.dev.mem ∧
      (k.loops = [] → k.pc % 512 ≠ 511 → t.dev.core c = { e.core c with pc := k.pc + 1 } ∧ (∀ r : Reg, t.dev.reg r = e.reg r) ∧
        t.dev.objs = s.dev.objs ∧ t.dev.queues = s.dev.queues)
    let issued := [(0x40, Instr.vload c), (0x41, Instr.vstore c), (0x42, Instr.vop c), (0x43, Instr.vmask c), (0x44, Instr.vchainLoad c),
      (0x45, Instr.vchain c), (0x47, Instr.vgen c), (0x48, Instr.vreduce c)]
    (∀ (cls : Nat) (i : Instr), (cls, i) ∈ issued → wordClass w = cls →
      comes (d.issueVector c it) i ∧
      (k.vq ≠ [] → k.loops = [] → k.pc % 512 ≠ 511 → goes (d.updCore c fun k => { k with vq := k.vq ++ [it] }) i) ∧
      (∀ e : Device, k.aq = [] → k.vq = [] → d.lacksEntry c it = false → d.vectorRun c it = (e, none) → goes e i) ∧
      (∀ (e : Device) (f : UnitFault), k.aq = [] → k.vq = [] → d.lacksEntry c it = false → d.vectorRun c it = (e, some f) → ∃ t : State,
        exec i s = .next t ∧ t.pending = s.pending ∧ (t.dev.core c).st = .faulted ∧ t.dev.mem = s.dev.mem)) ∧
    (∀ e : Device, wordClass w = 0x43 → d.vmask c it = (e, none) → (e.core c).mask (fieldOf w 55 53) =
      (match fieldOf w 46 44 with
        | 0 => k.mask (fieldOf w 52 50) &&& k.mask (fieldOf w 49 47)
        | 1 => k.mask (fieldOf w 52 50) ||| k.mask (fieldOf w 49 47)
        | 2 => k.mask (fieldOf w 52 50) ^^^ k.mask (fieldOf w 49 47)
        | 3 => k.mask (fieldOf w 52 50) &&& ~~~k.mask (fieldOf w 49 47)
        | _ => BitVec.ofNat 256 (2 ^ min (it.s (fieldOf w 43 40)).toNat 256 - 1))) ∧
    (wordClass w = 0x49 → comes (d.vmovs c it) (.vmovs c)) ∧
    (wordClass w = 0x49 → fieldOf w 33 0 = 0 →
      let sets := fun (e : Device) (v : Nat) => goes (e.updCore c fun k => k.setSreg (fieldOf w 48 45) (wordOf v)) (.vmovs c)
      (fieldOf w 55 54 = 0 → sets d ((k.lanes (fieldOf w 53 49)).getD (fieldOf w 44 37) 0)) ∧
      (fieldOf w 55 54 = 1 → k.aq = [] → k.vq = [] →
        goes (d.updCore c fun k => k.setLanes (fieldOf w 53 49) (List.replicate 256 (fieldOf (it.s (fieldOf w 48 45)) 31 0))) (.vmovs c)) ∧
      (fieldOf w 55 54 = 2 → sets (d.setReg (.vecFlags c) 0) (fieldOf (s.dev.reg (.vecFlags c)) 5 0)) ∧
      (fieldOf w 55 54 = 3 → sets d (popCount 256 (k.mask (fieldOf w 36 34)).toNat))) ∧
    (wordClass w = 0x46 → fieldOf w 55 0 = 0 → goes (d.updCore c fun k => k.sync .vector) (.vsync c))

/-! ### Reliability -/

/-- R431, R436: SRAM words read in service come one after the other. A word read, where injectors i1 (kind 2) and i2 (kind 3) may flip a bit or two: a clean one changes
nothing more; a corrected one adds 1 to RAS_SRAM.CORRECTED; an uncorrectable one leaves its core FAULTED, ends its command with STATUS
0x04, stops its pump and ends the command it works for so, drops its directory or translation entry, or resets its partition, by where it lies. Memory is unchanged. -/
def Obligations.SramWords : Prop :=
  ∀ (s : State) (x : SramRead), s.inService = true →
    (∀ reads : List SramRead, exec (.sramScrub reads) s = .next (s.after fun d => (reads.foldl Device.sramRead d).settleFlows)) ∧
    let i1 := s.quiet.dev.inject 2 (some x.cls) (s.dev.sramPart x.place)
    let i2 := i1.1.inject 3 (some x.cls) (s.dev.sramPart x.place)
    (x.bits = 0 → i1.2 = none → i2.2 = none → exec (.sramScrub [x]) s = .next { s with dev := i2.1 }) ∧
    (x.bits < 2 → (x.bits = 1 ∨ i1.2.isSome = true) → i2.2 = none → ∃ t : State, exec (.sramScrub [x]) s = .next t ∧ t.pending = s.pending ∧
      t.dev.reg .rasSram = (i2.1.bump .rasSram Fd.rasSramCorrected).reg .rasSram ∧ t.dev.cores = s.dev.cores ∧ t.dev.mem = s.dev.mem ∧
      t.dev.side = s.dev.side ∧ t.dev.queues = s.dev.queues ∧ t.dev.objs = s.dev.objs) ∧
    ((2 ≤ x.bits ∨ i2.2.isSome = true) → ∃ t : State, exec (.sramScrub [x]) s = .next t ∧ t.pending = s.pending ∧
      (∀ c : Nat, x.place = .core c → c < 256 → (s.dev.core c).aq = [] → (s.dev.core c).vq = [] → (t.dev.core c).st = .faulted ∧
        (t.dev.core c).job = none ∧ (t.dev.core c).lease = none ∧ (t.dev.core c).loops = [] ∧
        (∀ y, y ≠ c → t.dev.core y = s.dev.core y) ∧ t.dev.mem = s.dev.mem) ∧
      (∀ (die unit p q idx : Nat) (c : Cmd), x.place = .engine die unit p q idx → s.dev.cmd? p q idx = some c → c.st = .running → c.worked = false →
        ∃ e : Cmd, t.dev.cmd? p q idx = some e ∧ e.worked = true ∧ e.status = 4 ∧ t.dev.mem = s.dev.mem ∧ t.dev.cores = s.dev.cores) ∧
      (∀ p n : Nat, x.place = .pump p n → t.dev.stream p n = { s.dev.stream p n with broken := true } ∧ t.dev.mem = s.dev.mem ∧
        t.dev.cores = s.dev.cores ∧
        ∀ (q idx : Nat) (c : Cmd), q < 64 → s.dev.cmd? p q idx = some c → opcodeOf c.desc = 0x30 ∨ opcodeOf c.desc = 0x31 →
          fieldOf c.desc.q4 11 0 = n → c.st = .running → c.worked = false →
          ∃ e : Cmd, t.dev.cmd? p q idx = some e ∧ e.worked = true ∧ e.status = 4) ∧
      (∀ slice set way : Nat, x.place = .directory slice set way →
        t.dev.directory = SMap.upd [] s.dev.directory (4096 * slice + set) (·.eraseIdx way) ∧ t.dev.mem = s.dev.mem ∧
        t.dev.cores = s.dev.cores ∧ t.dev.queues = s.dev.queues) ∧
      (∀ die pos : Nat, x.place = .translation die pos → t.dev.tlb = SMap.upd [] s.dev.tlb die (·.eraseIdx pos) ∧
        t.dev.mem = s.dev.mem ∧ t.dev.cores = s.dev.cores ∧ t.dev.queues = s.dev.queues) ∧
      (∀ p die : Nat, x.place = .table p die → p < 8 → s.dev.formed p = true → (s.dev.part p).switch = none → s.dev.resets = [] →
        t.dev.ctxState p = 5 ∧ t.dev.resets = [{ scope := 3, target := p, byReg := false }] ∧ t.dev.mem = s.dev.mem) ∧
      (∀ die : Nat, x.place = .other die → s.dev.flag .rasCfg Fd.rasCfgFatalAction = false → t.dev.ready = false ∧ t.dev.mem = [] ∧
        t.dev.flash = s.dev.flash.interrupted) ∧
      (∀ die : Nat, x.place = .other die → s.dev.flag .rasCfg Fd.rasCfgFatalAction = true → s.dev.resets = [] →
        s.dev.formedParts.all (fun p => (s.dev.part p).switch.isNone) = true →
        t.dev.flag .rasStatus Fd.rasStatusFatal = true ∧ t.dev.mgmt.held = true ∧ t.dev.mem = s.dev.mem ∧
        (∀ p ∈ s.dev.formedParts, t.dev.ctxState p = 5)))

/-- R432, R430, R433: a missing heartbeat sets its die's CTRL_FAULT bit, and within 10 s of a control restart it is FATAL; a control restart is a compute reset, and when it is complete CTRL_FAULT
clears. The end of a storm window starts a new one, and delivers the last record that it suppressed, with the count of the others. -/
def Obligations.ControlFaultsAndStorms : Prop :=
  ∀ s : State, s.running = true →
    (∀ die core : Nat, s.dev.ready = true → die < 4 → bitOf (s.dev.fld .rasStatus Fd.rasStatusCtrlFault) die = false →
      s.dev.mgmt.restarted = none → ∃ t : State, exec (.controlFault die core) s = .next t ∧ t.pending = s.pending ∧
        t.dev.fld .rasStatus Fd.rasStatusCtrlFault = putBit (s.dev.fld .rasStatus Fd.rasStatusCtrlFault) die true ∧
        t.dev.mem = s.dev.mem ∧ t.dev.cores = s.dev.cores ∧ t.dev.queues = s.dev.queues ∧ t.dev.resets = s.dev.resets ∧
        t.dev.mgmt = s.dev.mgmt) ∧
    (∀ (die core : Nat) (t0 : Word), s.dev.ready = true → die < 4 → bitOf (s.dev.fld .rasStatus Fd.rasStatusCtrlFault) die = false →
      s.dev.mgmt.restarted = some t0 → (s.dev.now - t0).toNat < 10000000000 → s.dev.flag .rasCfg Fd.rasCfgFatalAction = true → s.dev.resets = [] →
      s.dev.formedParts.all (fun p => (s.dev.part p).switch.isNone) = true → ∃ t : State, exec (.controlFault die core) s = .next t ∧
        t.pending = s.pending ∧ bitOf (t.dev.fld .rasStatus Fd.rasStatusCtrlFault) die = true ∧ t.dev.flag .rasStatus Fd.rasStatusFatal = true ∧
        t.dev.mgmt.held = true ∧ (∀ p ∈ s.dev.formedParts, t.dev.ctxState p = 5) ∧ t.dev.mem = s.dev.mem) ∧
    (s.dev.ready = true → s.dev.fld .rasStatus Fd.rasStatusCtrlFault ≠ 0 → s.dev.mgmt.restarting = false → s.dev.resets = [] →
      s.dev.formedParts.all (fun p => (s.dev.part p).switch.isNone) = true → ∃ t : State,
      exec .controlRestart s = .next t ∧ t.pending = s.pending ∧ t.dev.mgmt = { s.dev.mgmt with restarting := true } ∧
        t.dev.resets = [{ scope := 4, target := 0, byReg := false }] ∧ (∀ p ∈ s.dev.formedParts, t.dev.ctxState p = 5) ∧
        t.dev.mem = s.dev.mem ∧ t.dev.cores = s.dev.cores ∧ t.dev.queues = s.dev.queues) ∧
    (s.dev.ready = true → s.dev.mgmt.restarting = true → ∃ t : State, exec .controlRestartComplete s = .next t ∧ t.pending = s.pending ∧
      t.dev.mgmt.restarting = false ∧ t.dev.mgmt.restarted = some s.dev.now ∧ t.dev.fld .rasStatus Fd.rasStatusCtrlFault = 0 ∧
      t.dev.flash = s.dev.flash ∧ t.dev.pins = s.dev.pins) ∧
    (∀ ring code : Nat, ring ≤ 8 →
      let st := SMap.at' ({} : Storm) (s.dev.errRing ring).storms code
      (st.last = none → exec (.stormWindowEnd ring code) s = .next (s.after (·.setStorm ring code {}))) ∧
      (∀ r : LogRec, st.last = some r → ring < 8 → r.cls < 3 → s.dev.errRuns ring = true →
        exec (.stormWindowEnd ring code) s = .next (s.after fun d =>
          (d.setStorm ring code {}).errWrite ring { r with suppressed := st.suppressed - 1 })))

/-! ### Power -/

/-- R42: the state machine of a domain, row by row. A request moves the domain on, is queued by its pending flag, or takes a queued one
back; to an UNUSED domain it is ignored, and CTRL_REJECT set. An enable request is firmware's where no POLICY holds the domain off, a disable
request where none holds it on (R44), both where the control complex of the die runs; the rows from ON and OFF are those of a domain that is switched in service (R41), with no
live state in it where it goes down (R40), and with room in the budgets where it is powered (R47, R50); a core is lent while it waits (R45). What
comes of the other requests GrantsAndHeat says. -/
def Obligations.DomainStateMachine : Prop :=
  ∀ (s : State) (n : Nat), s.managed = true → n < 403 →
    let R := Reg.pwrDomStatus n
    let st := s.dev.domState n
    let pe := s.dev.flag R Fd.pwrDomStatusPendingEnable
    let pd := s.dev.flag R Fd.pwrDomStatusPendingDisable
    let rail := s.dev.fld R Fd.pwrDomStatusRailSet
    let held := s.dev.fld (.pwrDomCtrl n) Fd.pwrDomCtrlPolicy = 1
    let off := s.dev.fld (.pwrDomCtrl n) Fd.pwrDomCtrlPolicy = 2
    let lives := if n < 256 then (s.dev.core n).used = true else s.dev.domLive n = true
    let goes := fun (i : Instr) (st' : Nat) (pe' pd' : Bool) (rail' : Nat) => ∃ t : State, exec i s = .next t ∧ t.pending = s.pending ∧
      t.dev.domState n = st' ∧ t.dev.flag R Fd.pwrDomStatusPendingEnable = pe' ∧ t.dev.flag R Fd.pwrDomStatusPendingDisable = pd' ∧
      t.dev.fld R Fd.pwrDomStatusRailSet = rail' ∧ s.dev.sameRegs t.dev [R, .pwrMeasure] ∧
      (∀ c, c ≠ n → t.dev.core c = s.dev.core c) ∧ t.dev.mem = s.dev.mem ∧ t.dev.side = s.dev.side
    (s.dev.stopped (domDie n) = false →
      (s.dev.switchedDom n = true →
        (st = 0 → ¬ off → s.dev.roomFor n = true → goes (.domainEnableRequest n) 1 pe pd 60) ∧
        (st = 2 → s.dev.domLive n = false → ¬ held → goes (.domainDisableRequest n) 4 pe pd rail)) ∧
      (st = 1 → ¬ held → goes (.domainDisableRequest n) 1 pe true rail) ∧
      (4 ≤ st → st ≤ 7 → (¬ off → goes (.domainEnableRequest n) st true pd rail) ∧
        (¬ held → goes (.domainDisableRequest n) st false pd rail)) ∧
      (st = 8 → ∀ i ∈ [Instr.domainEnableRequest n, .domainDisableRequest n], ∃ t : State, exec i s = .next t ∧ t.pending = s.pending ∧
        t.dev.domState n = 8 ∧ t.dev.flag .pwrEvent Fd.pwrEventCtrlReject = true ∧ t.dev.cores = s.dev.cores ∧ t.dev.mem = s.dev.mem) ∧
      (n < 256 →
        (st = 2 → s.dev.flag .pwrLend Fd.pwrLendLendEn = true → ¬ held → s.dev.coreWaits n = true → goes (.lendEntry n) 3 pe pd 50) ∧
        (st = 3 → s.dev.coreWaits n = false → SMap.at' 0 s.dev.power.entering n = 0 → goes (.lendExit n) 2 pe pd 60))) ∧
    (st = 1 → (pd = false → goes (.powerUpComplete n) 2 pe false rail) ∧
      (pd = true → ¬ lives → goes (.powerUpComplete n) 4 pe false rail)) ∧
    (st = 4 → s.dev.domBusy n = false → goes (.domainDrainComplete n) 5 pe pd rail) ∧
    (st = 5 → goes (.retentionSaveComplete n) 6 pe pd rail) ∧ (st = 6 → goes (.isolationComplete n) 7 pe pd 0) ∧
    (st = 7 → (pe = false → goes (.railDownComplete n) 0 false pd rail) ∧
      (pe = true → s.dev.roomFor n = true → goes (.railDownComplete n) 1 false pd 60))

/-- R49: PWR_BUDGET.MODULE_W sets the budget in force, taken as 1,000 W below that and as 3,200 W above that; after reset it is 3,200 W. -/
def Obligations.ModuleBudget : Prop :=
  State.reset.dev.moduleBudget = 3200 ∧
  ∀ s : State, let w := s.dev.fld .pwrBudget Fd.pwrBudgetModuleW
    (w < 1000 → s.dev.moduleBudget = 1000) ∧ (3200 < w → s.dev.moduleBudget = 3200) ∧ (1000 ≤ w → w ≤ 3200 → s.dev.moduleBudget = w)

/-- R40 to R44, R47, R50: what comes of requests to domains beside the rows of R42 (the model's reading, log entries 26, 91 and 121). A domain with live
state, or held on, is not switched off, one that is held off is not switched on, and one that powers up while a context lives in it goes ON; where the budgets have no
room a domain waits to be powered; a request that finds nothing to do changes nothing; a drain goes on while work is in flight.
R35, R45 to R47, R50, R51: a wait that ends during lend entry starts the exit when the entry is complete, at 0.60 V. A grant that keeps the
die's arrays and the module within their budgets is given, one that lowers a rail always, and one outside 0.60 V to 0.95 V, or that
would raise a rail while raises are withheld on its die, never; a raise to 0.80 V or less that finds no room makes the die's borrowers step
down for it. The rail then reaches its grant. The fabric rail of a die is set between 0.80 V and 0.95 V (R29). An estimate is kept, and no
grant rises by it; a hold ends.
R38, R51, R52, R54: a junction sensor above the limit throttles its die and sets THERMAL_LIMIT, and TJ_MAX_C shows the hottest reading; each
thermal step lowers the die's rails by 10 mV, not below 0.60 V, until the sensor lies 2 °C below; a fabric stall sets FABRIC_STALL. A
command that firmware serves waits while the control complex of its die is stopped (R24). -/
def Obligations.GrantsAndHeat : Prop :=
  (∀ (s : State) (n : Nat), s.managed = true → n < 403 →
      let R := Reg.pwrDomStatus n
      let st := s.dev.domState n
      let pe := s.dev.flag R Fd.pwrDomStatusPendingEnable
      let pd := s.dev.flag R Fd.pwrDomStatusPendingDisable
      let rail := s.dev.fld R Fd.pwrDomStatusRailSet
      let held := s.dev.fld (.pwrDomCtrl n) Fd.pwrDomCtrlPolicy = 1
      let off := s.dev.fld (.pwrDomCtrl n) Fd.pwrDomCtrlPolicy = 2
      let lives := if n < 256 then (s.dev.core n).used = true else s.dev.domLive n = true
      let goes := fun (i : Instr) (st' : Nat) (pe' pd' : Bool) (rail' : Nat) => ∃ t : State, exec i s = .next t ∧ t.pending = s.pending ∧
        t.dev.domState n = st' ∧ t.dev.flag R Fd.pwrDomStatusPendingEnable = pe' ∧ t.dev.flag R Fd.pwrDomStatusPendingDisable = pd' ∧
        t.dev.fld R Fd.pwrDomStatusRailSet = rail' ∧ s.dev.sameRegs t.dev [R, .pwrMeasure] ∧
        (∀ c, c ≠ n → t.dev.core c = s.dev.core c) ∧ t.dev.mem = s.dev.mem ∧ t.dev.side = s.dev.side
      let stays := fun (i : Instr) => exec i s = .next s.quiet
      (s.dev.stopped (domDie n) = true →
        ∀ i ∈ [Instr.domainEnableRequest n, .domainDisableRequest n, .lendEntry n, .lendExit n], stays i) ∧
      (s.dev.stopped (domDie n) = false →
        (s.dev.switchedDom n = true → st = 0 → ¬ off → s.dev.roomFor n = false → goes (.domainEnableRequest n) 0 pe pd rail) ∧
        (s.dev.switchedDom n = false ∨ off → st = 0 → stays (.domainEnableRequest n)) ∧
        (st = 2 → s.dev.switchedDom n = false ∨ s.dev.domLive n = true ∨ held → stays (.domainDisableRequest n)) ∧
        (st = 0 → stays (.domainDisableRequest n)) ∧ (st = 2 → stays (.domainEnableRequest n)) ∧
        (st = 1 → (¬ off → goes (.domainEnableRequest n) 1 pe false rail) ∧ (off → stays (.domainEnableRequest n)) ∧
          (held → stays (.domainDisableRequest n))) ∧
        (st = 3 → stays (.domainEnableRequest n) ∧ stays (.domainDisableRequest n)) ∧
        (4 ≤ st → st ≤ 7 → (off → stays (.domainEnableRequest n)) ∧ (held → stays (.domainDisableRequest n))) ∧
        (n < 256 →
          (st ≠ 2 ∨ s.dev.flag .pwrLend Fd.pwrLendLendEn = false ∨ held ∨ s.dev.coreWaits n = false → stays (.lendEntry n)) ∧
          (st = 3 → held → SMap.at' 0 s.dev.power.entering n = 0 → goes (.lendExit n) 2 pe pd 60) ∧
          (st ≠ 3 ∨ (s.dev.coreWaits n = true ∧ ¬ held) → stays (.lendExit n)))) ∧
      (st = 1 → lives → goes (.powerUpComplete n) 2 pe false rail) ∧
      (st = 4 → s.dev.domBusy n = true → stays (.domainDrainComplete n)) ∧
      (st = 7 → pe = true → s.dev.roomFor n = false → goes (.railDownComplete n) 7 true pd rail)) ∧
  (∀ (s : State) (c : Nat), s.managed = true → c < 256 →
      (s.dev.stopped (c / 64) = false → s.dev.domState c = 3 →
        s.dev.coreWaits c = false ∨ s.dev.fld (.pwrDomCtrl c) Fd.pwrDomCtrlPolicy = 1 → SMap.at' 0 s.dev.power.entering c = 1 → ∃ t : State,
        exec (.lendExit c) s = .next t ∧ t.pending = s.pending ∧ t.dev.domState c = 3 ∧ SMap.at' 0 t.dev.power.entering c = 2 ∧ t.dev.regs = s.dev.regs ∧
        t.dev.cores = s.dev.cores ∧ t.dev.mem = s.dev.mem) ∧
      (s.dev.domState c = 3 → SMap.at' 0 s.dev.power.entering c = 2 → ∃ t : State, exec (.lendEntryComplete c) s = .next t ∧ t.pending = s.pending ∧
        t.dev.domState c = 2 ∧ t.dev.fld (.pwrDomStatus c) Fd.pwrDomStatusRailSet = 60 ∧
        t.dev.flag (.pwrDomStatus c) Fd.pwrDomStatusLending = false ∧ t.dev.grantOf c = 60 ∧ SMap.at' 0 t.dev.power.entering c = 0 ∧
        t.dev.core c = { s.dev.core c with ramp := none, rampDue := true } ∧ (∀ x, x ≠ c → t.dev.core x = s.dev.core x) ∧
        s.dev.sameRegs t.dev [.pwrDomStatus c, .pwrMeasure] ∧ t.dev.mem = s.dev.mem) ∧
      (s.dev.domState c = 3 → SMap.at' 0 s.dev.power.entering c = 1 → ∃ t : State, exec (.lendEntryComplete c) s = .next t ∧ t.pending = s.pending ∧
        t.dev.domState c = 3 ∧ SMap.at' 0 t.dev.power.entering c = 0 ∧ t.dev.regs = s.dev.regs ∧ t.dev.cores = s.dev.cores ∧ t.dev.mem = s.dev.mem) ∧
      (∀ v : Nat, s.dev.domState c = 2 → s.dev.stopped (c / 64) = false →
        let room := (s.dev.setGrant c v).fits (c / 64)
        let withheld := s.dev.raisesHeld (c / 64)
        (60 ≤ v → v ≤ 95 → v ≤ s.dev.grantOf c ∨ (withheld = false ∧ room = true) → ∃ t : State, exec (.railGrant c v) s = .next t ∧
          t.pending = s.pending ∧ t.dev.grantOf c = v ∧ (∀ x, x ≠ c → t.dev.grantOf x = s.dev.grantOf x) ∧ s.dev.sameRegs t.dev [.pwrMeasure] ∧
          t.dev.cores = s.dev.cores ∧ t.dev.mem = s.dev.mem) ∧
        (v < 60 ∨ 95 < v ∨ (s.dev.grantOf c < v ∧ (withheld = true ∨ (room = false ∧ 80 < v))) → exec (.railGrant c v) s = .next s.quiet) ∧
        (60 ≤ v → s.dev.grantOf c < v → v ≤ 80 → withheld = false → room = false → ∃ t : State, exec (.railGrant c v) s = .next t ∧
          t.pending = s.pending ∧ t.dev.grantOf c = s.dev.grantOf c ∧ (∀ x, t.dev.grantOf x ≤ s.dev.grantOf x) ∧
          (∀ x, x / 64 ≠ c / 64 → t.dev.grantOf x = s.dev.grantOf x) ∧ s.dev.sameRegs t.dev [.pwrMeasure] ∧ t.dev.cores = s.dev.cores ∧
          t.dev.mem = s.dev.mem) ∧
        exec (.railSlewComplete c) s = .next (s.after fun d => d.setFld (.pwrDomStatus c) Fd.pwrDomStatusRailSet (d.grantOf c))) ∧
      (s.dev.domState c ≠ 2 → exec (.railSlewComplete c) s = .next s.quiet ∧ ∀ v, exec (.railGrant c v) s = .next s.quiet)) ∧
  (∀ s : State, s.managed = true →
      (∀ die v : Nat, die < 4 → 80 ≤ v → v ≤ 95 → s.dev.stopped die = false → ∃ t : State, exec (.railGrant (256 + die) v) s = .next t ∧
        t.pending = s.pending ∧ SMap.at' 0 t.dev.power.fabric die = v ∧ t.dev.power.grants = s.dev.power.grants ∧ t.dev.regs = s.dev.regs ∧
        t.dev.cores = s.dev.cores ∧ t.dev.mem = s.dev.mem) ∧
      (∀ n mw : Nat, ∃ t : State, exec (.powerEstimate n mw) s = .next t ∧ t.pending = s.pending ∧ SMap.at' 0 t.dev.power.estimates n = mw ∧
        (∀ m, m ≠ n → SMap.at' 0 t.dev.power.estimates m = SMap.at' 0 s.dev.power.estimates m) ∧
        (∀ x, t.dev.grantOf x ≤ s.dev.grantOf x) ∧ s.dev.sameRegs t.dev [.pwrMeasure] ∧ t.dev.cores = s.dev.cores ∧ t.dev.mem = s.dev.mem) ∧
      (s.dev.stopped 0 = false → exec .emergencyHoldEnd s = .next (s.after fun d => { d with power := { d.power with hold := false } })) ∧
      (s.dev.stopped 0 = true → exec .emergencyHoldEnd s = .next s.quiet) ∧
      (∀ die sensor temp : Nat, s.dev.stopped die = true → exec (.thermalLimit die sensor temp) s = .next s.quiet ∧
        exec (.thermalStep die temp) s = .next s.quiet) ∧
      (∀ die sensor temp : Nat, die < 4 → s.dev.stopped die = false → s.dev.tjLimit < temp → temp < 256 →
        let h := fun (k : Nat) => if k = die then max temp (SMap.at' 0 s.dev.power.hottest k) else SMap.at' 0 s.dev.power.hottest k
        (∀ k, k < 4 → h k < 256) → ∃ t : State, exec (.thermalLimit die sensor temp) s = .next t ∧
        t.pending = s.pending ∧ bitOf t.dev.power.throttle die = true ∧ t.dev.flag .pwrEvent Fd.pwrEventThermalLimit = true ∧
        t.dev.fld .pwrMeasure Fd.pwrMeasureTjMaxC = max (max (h 0) (h 1)) (max (h 2) (h 3)) ∧
        t.dev.power.grants = s.dev.power.grants ∧ t.dev.cores = s.dev.cores ∧ t.dev.mem = s.dev.mem) ∧
      (∀ die sensor temp : Nat, temp ≤ s.dev.tjLimit → exec (.thermalLimit die sensor temp) s = .next s.quiet) ∧
      (∀ die temp : Nat, die < 4 → s.dev.stopped die = false → bitOf s.dev.power.throttle die = true →
        (s.dev.tjLimit < temp + 2 → ∃ t : State, exec (.thermalStep die temp) s = .next t ∧ t.pending = s.pending ∧
          (∀ c, c < 256 → t.dev.grantOf c = if c / 64 = die ∧ drawsByGrant (s.dev.domState c) = true then
            max 60 (s.dev.grantOf c - 1) else s.dev.grantOf c) ∧
          t.dev.power.throttle = s.dev.power.throttle ∧ t.dev.cores = s.dev.cores ∧ t.dev.mem = s.dev.mem) ∧
        (temp + 2 ≤ s.dev.tjLimit → ∃ t : State, exec (.thermalStep die temp) s = .next t ∧ t.pending = s.pending ∧
          bitOf t.dev.power.throttle die = false ∧ t.dev.power.grants = s.dev.power.grants ∧ s.dev.sameRegs t.dev [.pwrMeasure] ∧
          t.dev.cores = s.dev.cores ∧ t.dev.mem = s.dev.mem)) ∧
      (∀ n cls : Nat, ∃ t : State, exec (.fabricStall n cls) s = .next t ∧ t.pending = s.pending ∧
        t.dev.flag .pwrEvent Fd.pwrEventFabricStall = true ∧ t.dev.fld (.rasClassCount 3) Fd.rasClassCountCount =
          (s.dev.reg (.rasClassCount 3) + 1).toNat ∧ t.dev.power = s.dev.power ∧ t.dev.cores = s.dev.cores ∧ t.dev.mem = s.dev.mem))

/-! ### Rails, reference and over-temperature -/

/-- R44, R50, R51, R453 to R455, R457, R459: a POLICY that is written is in force, 3 taken as 0, and a hold-off of a domain in use, or any of an
UNUSED domain, is not applied and sets CTRL_REJECT. A measurement is kept; above 700 W of a die its grants fall by one setting, above the
module's budget all do, and above that by more than 10 % all fall to 0.60 V. Polls that are answered change nothing else; a group that fails a
third read in succession is lost. An alert of a stage with every group good drops the rails in service, and passes in Snowdrop; a lost rail
group or reference ends in a reset that only PERST# ends, or halts Snowdrop; TJ_CRIT_C drives THERMTRIP_N low and resets the module. What
firmware of die 0 takes of these waits while its control complex is stopped (R24). -/
def Obligations.RailsAndSupplies : Prop :=
  ∀ s : State, s.running = true →
    let up := s.dev.stopped 0 = false
    let lost := fun (i : Instr) => ∃ t : State, exec i s = .next t ∧ t.pending = s.pending ∧ t.dev.awake = false ∧ t.dev.pins.railHold = true ∧
      t.dev.mem = [] ∧ t.dev.queues = [] ∧ t.dev.flash = s.dev.flash.interrupted
    let halts := fun (i : Instr) (code : Nat) => ∃ t : State, exec i s = .next t ∧ t.pending = s.pending ∧
      t.dev.fld .bootStatus Fd.bootStatusState = 2 ∧ t.dev.fld .bootStatus Fd.bootStatusFailCode = code ∧ t.dev.stage = 1 ∧ t.dev.mem = s.dev.mem
    (∀ (n : Nat) (w : Word), s.dev.ready = true → n < 403 →
      (s.dev.domState n ≠ 8 → fieldOf w 1 0 ≠ 2 ∨ s.dev.flag (.pwrDomStatus n) Fd.pwrDomStatusAssigned = false → ∃ t : State,
        exec (.pwrDomCtrlWrite n w) s = .next t ∧ t.pending = s.pending ∧
        t.dev.fld (.pwrDomCtrl n) Fd.pwrDomCtrlPolicy = (if fieldOf w 1 0 = 3 then 0 else fieldOf w 1 0) ∧
        s.dev.sameRegs t.dev [.pwrDomCtrl n, .pwrDomStatus n, .pwrMeasure] ∧
        (fieldOf w 1 0 = 0 ∨ fieldOf w 1 0 = 3 → t.dev.reg (.pwrDomStatus n) = s.dev.reg (.pwrDomStatus n)) ∧
        t.dev.cores = s.dev.cores ∧ t.dev.mem = s.dev.mem ∧ t.dev.queues = s.dev.queues) ∧
      (s.dev.domState n = 8 ∨ (fieldOf w 1 0 = 2 ∧ s.dev.flag (.pwrDomStatus n) Fd.pwrDomStatusAssigned = true) → ∃ t : State,
        exec (.pwrDomCtrlWrite n w) s = .next t ∧ t.pending = s.pending ∧ t.dev.flag .pwrEvent Fd.pwrEventCtrlReject = true ∧
        t.dev.reg (.pwrDomCtrl n) = s.dev.reg (.pwrDomCtrl n) ∧ t.dev.domState n = s.dev.domState n ∧ t.dev.cores = s.dev.cores ∧
        t.dev.mem = s.dev.mem)) ∧
    (∀ powers : List (Option Nat), up → s.dev.managed = true → powers.length = 15 → powers.all (·.isSome) = true →
      let w := powers.foldl (fun n x => n + x.getD 0) 0
      let b := s.dev.moduleBudget
      let lower := fun (above : Bool) (v : Nat) => if above then max 60 (v - 1) else v
      w < 65536 → ∃ t : State, exec (.railMeasure powers) s = .next t ∧ t.pending = s.pending ∧
        t.dev.fld .pwrMeasure Fd.pwrMeasureModuleW = w ∧ (∀ g, g < 15 → SMap.at' 0 t.dev.power.missed g = 0) ∧
        (∀ g, g < 15 → SMap.at' 0 t.dev.power.pout g = (powers.getD g none).getD 0) ∧
        (∀ c, c < 256 → t.dev.grantOf c = if 11 * b < 10 * w ∧ drawsByGrant (s.dev.domState c) = true then 60
          else if s.dev.domState c ≠ 2 then s.dev.grantOf c else
          lower (decide (b < w)) (lower (decide (700 < (powers.getD (c / 64) none).getD 0)) (s.dev.grantOf c))) ∧
        (w ≤ b → s.dev.sameRegs t.dev [.pwrMeasure]) ∧ (b < w → t.dev.flag .pwrEvent Fd.pwrEventBudgetExceed = true) ∧
        (11 * b < 10 * w → t.dev.flag .pwrEvent Fd.pwrEventEmergency = true ∧ t.dev.power.hold = true) ∧
        t.dev.cores = s.dev.cores ∧ t.dev.mem = s.dev.mem) ∧
    (∀ answered : List Bool, up → s.dev.managed = true → answered.length = 15 → answered.all id = true → ∃ t : State,
      exec (.railSlowPoll answered) s = .next t ∧ t.pending = s.pending ∧ (∀ g, g < 15 → SMap.at' 0 t.dev.power.missed g = 0) ∧
      t.dev.regs = s.dev.regs ∧ t.dev.power.grants = s.dev.power.grants ∧ t.dev.cores = s.dev.cores ∧ t.dev.mem = s.dev.mem) ∧
    (∀ g : Nat, up → s.dev.managed = true → g < 15 → 2 ≤ SMap.at' 0 s.dev.power.missed g →
      (∀ powers : List (Option Nat), powers.getD g none = none → lost (.railMeasure powers)) ∧
      (∀ answered : List Bool, answered.getD g false = false → lost (.railSlowPoll answered))) ∧
    (∀ stage : Nat, up → s.dev.ready = true → ∃ t : State, exec (.railAlert stage (List.replicate 15 (some true))) s = .next t ∧
      t.pending = s.pending ∧ t.dev.flag .pwrEvent Fd.pwrEventEmergency = true ∧ t.dev.power.hold = true ∧
      (∀ c, c < 256 → t.dev.grantOf c = if drawsByGrant (s.dev.domState c) = true then 60 else s.dev.grantOf c) ∧ t.dev.cores = s.dev.cores ∧
      t.dev.mem = s.dev.mem) ∧
    (∀ (stage g : Nat) (status : List (Option Bool)), up → g < 15 → status.getD g none = some false →
      (s.dev.ready = true → lost (.railAlert stage status)) ∧ (s.bringUp 1 = true → halts (.railAlert stage status) 0x0111)) ∧
    (∀ stage : Nat, up → s.bringUp 1 = true → ∃ t : State, exec (.railAlert stage (List.replicate 15 (some true))) s = .next t ∧
      t.pending = s.pending ∧ s.dev.sameButOut t.dev) ∧
    (s.dev.ready = true → 2 ≤ s.dev.stage → lost .ref25Loss) ∧ (s.bringUp 1 = true → halts .ref25Loss 0x0112) ∧
    (s.dev.stopped 0 = true → ∀ (powers : List (Option Nat)) (answered : List Bool) (stage : Nat) (status : List (Option Bool)) (die sensor temp : Nat),
      ∀ i ∈ [Instr.railMeasure powers, .railSlowPoll answered, .railAlert stage status, .thermalCrit die sensor temp], exec i s = .next s.quiet) ∧
    (∀ die sensor temp : Nat, up → s.dev.managed = true → die < 4 →
      (105 ≤ temp → ∃ t : State, exec (.thermalCrit die sensor temp) s = .next t ∧
        t.pending = s.pending ∧ t.dev.pins = { s.dev.pins with thermtrip := true, thermHold := true } ∧ t.dev.ready = false ∧
        t.dev.mem = [] ∧ t.dev.queues = [] ∧ t.dev.flash = s.dev.flash.interrupted) ∧
      (temp < 105 → exec (.thermalCrit die sensor temp) s = .next s.quiet))

/-! ### Debug unlock, attestation and management -/

/-- R439, R440: a token is accepted when its signature verifies, its serial number and nonce are this module's and 100 ms have passed since
the last; its capabilities join the unlocked set. GET_VERSION, GET_CAPABILITIES and NEGOTIATE_ALGORITHMS pass in order, and then digests,
certificates of slot 0, CHALLENGE and measurements are answered, from the chain the module holds and signed by its alias key; whatever comes
out of order or names another slot is answered with an error. What the nonce and the signature hold is open.
R441, R442: the bus gives the module its addresses and the transmission unit into which every answer is cut (log entry 149); FRU data, the
PLDM types, sensors as they were last refreshed, with the state their thresholds give (log entry 150), and platform events, oldest first, are
answered, and a sensor that is not there with an error. Nothing is answered once bring-up has HALTED or while firmware of die 0 is stopped
(R24, R57). -/
def Obligations.ManagementAnswers : Prop :=
  (∀ s : State, s.serves = true →
      let packets := s.dev.mgmt.packets
      let tells := fun (i : Instr) (spdm : Nat) (name : String) (code : Nat) (data : List Byte) =>
        exec i s = .next (s.after fun d => { d with mgmt := { d.mgmt with spdm := spdm }, out := [.mgmtReply 5 name code (packets data)] })
      let same := s.dev.mgmt.spdm
      let signed := fun (key : BitVec 521) (data : List Byte) =>
        let m := data ++ openBytes s.dev.free 0 32
        m ++ leBytes 132 (Config.signature key m s.dev.free).toNat
      (∀ (sigOk : Bool) (by' : Option (List Byte)), let tok := by'.getD s.dev.tokenWindow
        let soon := s.dev.mgmt.token.any fun x => decide ((s.dev.now - x).toNat < 100000000)
        let mine := (tok.drop 8).take 16 == leBytes 16 s.dev.flash.idSerial && (tok.drop 24).take 32 == s.dev.nonce
        let r := if soon then 4 else if !sigOk then 2 else if mine then 1 else 3
        ∃ t : State, exec (.tokenSubmit sigOk by') s = .next t ∧ t.pending = s.pending ∧ t.dev.fld .secStatus Fd.secStatusResult = r ∧
          t.dev.fld .tstStatus Fd.tstStatusUnlocked = (if r = 1 then
            s.dev.fld .tstStatus Fd.tstStatusUnlocked ||| (tok.getD 56 0).toNat % 8 else s.dev.fld .tstStatus Fd.tstStatusUnlocked) ∧
          (r = 1 → s.dev.fld .tstStatus Fd.tstStatusPartMask = 0 → t.dev.fld .tstStatus Fd.tstStatusPartMask = (tok.getD 57 0).toNat) ∧
          t.dev.mgmt = { s.dev.mgmt with token := some s.dev.now } ∧ t.dev.mem = s.dev.mem ∧ t.dev.cores = s.dev.cores) ∧
      tells .getVersion 1 "GET_VERSION" 0 [0x13, 0x12] ∧
      (same = 1 → tells .getCapabilities 2 "GET_CAPABILITIES" 0 []) ∧ (same ≠ 1 → tells .getCapabilities same "GET_CAPABILITIES" 1 []) ∧
      (same = 2 → tells (.negotiateAlgorithms true) 3 "NEGOTIATE_ALGORITHMS" 0 []) ∧
      (∀ o : Bool, same ≠ 2 ∨ o = false → tells (.negotiateAlgorithms o) same "NEGOTIATE_ALGORITHMS" 1 []) ∧
      (same = 3 → tells .getDigests 3 "GET_DIGESTS" 0 (sha512 s.dev.certChain) ∧
        (∀ off n, tells (.getCertificate 0 ⟨off, n⟩) 3 "GET_CERTIFICATE" 0 ((s.dev.certChain.drop off).take (n % 65536))) ∧
        (s.dev.mgmt.aliasKey = none → tells (.challenge 0) 3 "CHALLENGE" 1 [] ∧ tells (.getMeasurements 0) 3 "GET_MEASUREMENTS" 1 []) ∧
        (∀ key : BitVec 521, s.dev.mgmt.aliasKey = some key →
          exec (.getMeasurements 0) s = .next (s.after fun d => { d with
            free := d.free + 1, out := [.mgmtReply 5 "GET_MEASUREMENTS" 0 (packets (signed key s.dev.measured))] }) ∧
          ∃ t : State, exec (.challenge 0) s = .next t ∧ t.pending = s.pending ∧
          t.dev.out = [.mgmtReply 5 "CHALLENGE" 0 (packets (signed key (sha512 s.dev.certChain)))] ∧
          t.dev.flag .mgtStatus Fd.mgtStatusSpdmDone = true ∧ s.dev.sameRegs t.dev [.mgtStatus] ∧ t.dev.mem = s.dev.mem)) ∧
      (same ≠ 3 → tells .getDigests same "GET_DIGESTS" 1 []) ∧
      (∀ slot off n : Nat, same ≠ 3 ∨ slot ≠ 0 → tells (.getCertificate slot ⟨off, n⟩) same "GET_CERTIFICATE" 1 [] ∧
        tells (.challenge slot) same "CHALLENGE" 1 [] ∧ tells (.getMeasurements slot) same "GET_MEASUREMENTS" 1 [])) ∧
  (∀ s : State, s.serves = true →
      let tells := fun (i : Instr) (name : String) (code : Nat) (data : List Byte) =>
        exec i s = .next (s.after fun d => { d with out := [.mgmtReply 1 name code (s.dev.mgmt.packets data)] })
      (∀ addr : Nat, (∀ st : Option Nat, st = none ∨ st = some 0x3A →
          exec (.i3cDynamicAddress st addr) s = .next (s.after (·.setFld .mgtStatus Fd.mgtStatusI3cAddr addr))) ∧
        (∀ st : Nat, st ≠ 0x3A → exec (.i3cDynamicAddress (some st) addr) s = .next s.quiet)) ∧
      (∀ eid unit : Nat, exec (.mctpSetEndpointId ⟨eid, unit⟩) s = .next (s.after fun d =>
        { d with mgmt := { d.mgmt with unit := max 64 (min 256 unit) } }.setFld .mgtStatus Fd.mgtStatusEid eid)) ∧
      tells .pldmDiscovery "PLDM_DISCOVERY" 0 [0, 2, 4, 5] ∧
      tells .pldmGetFru "PLDM_GET_FRU" 0 ([0x57, 0x59, 0x2D, 0x31] ++ leBytes 16 s.dev.flash.idSerial ++ [0x41, 0x31]) ∧
      (∀ n : Nat, let v := SMap.at' 0 s.dev.mgmt.sensors n
        let hot := if s.dev.fld .pwrThermal Fd.pwrThermalTjCritC ≤ v then 3 else if s.dev.tjLimit ≤ v then 2 else 1
        (1 ≤ n → n ≤ 12 → tells (.getSensorReading n) "GET_SENSOR_READING" 0
          (leBytes 1 (if 2 ≤ n ∧ n ≤ 5 then hot else 1) ++ leBytes 4 v)) ∧
        (n = 0 ∨ 12 < n → tells (.getSensorReading n) "GET_SENSOR_READING" 1 [])) ∧
      (s.dev.events = [] → tells .pollForPlatformEvent "POLL_FOR_PLATFORM_EVENT" 0 []) ∧
      (∀ (r : LogRec) (rest : List LogRec), s.dev.events = r :: rest → exec .pollForPlatformEvent s =
        .next (s.after fun d => { d with
          events := rest, out := [.mgmtReply 1 "POLL_FOR_PLATFORM_EVENT" 0 (s.dev.mgmt.packets r.bytes)] })) ∧
      (∀ n reading : Nat, (1 ≤ n → n ≤ 12 → ∃ t : State, exec (.sensorRefresh n reading) s = .next t ∧ t.pending = s.pending ∧
          SMap.at' 0 t.dev.mgmt.sensors n = s.dev.sensorValue n reading ∧
          (∀ m, m ≠ n → SMap.at' 0 t.dev.mgmt.sensors m = SMap.at' 0 s.dev.mgmt.sensors m) ∧
          (2 ≤ n → n ≤ 5 → SMap.at' 0 t.dev.power.hottest (n - 2) = reading ∧ s.dev.sameRegs t.dev [.pwrMeasure]) ∧
          (n < 2 ∨ 5 < n → t.dev.regs = s.dev.regs ∧ t.dev.power = s.dev.power) ∧
          { t.dev with mgmt := s.dev.mgmt, power := s.dev.power, regs := s.dev.regs, out := s.dev.out } = s.dev) ∧
        (n = 0 ∨ 12 < n → exec (.sensorRefresh n reading) s = .next s.quiet))) ∧
  (∀ s : State, s.answering = true → s.serves = false →
    ∀ (sigOk offered : Bool) (by' : Option (List Byte)) (slot off n : Nat) (st : Option Nat) (bs : List Byte) (im : Image),
    ∀ i ∈ [Instr.tokenSubmit sigOk by', .getVersion, .getCapabilities, .negotiateAlgorithms offered, .getDigests, .getCertificate slot ⟨off, n⟩,
      .challenge slot, .getMeasurements slot, .i3cDynamicAddress st n, .mctpSetEndpointId ⟨off, n⟩, .pldmDiscovery, .pldmGetFru,
      .getSensorReading n, .pollForPlatformEvent, .sensorRefresh off n, .requestUpdate n, .firmwareImageTransfer off bs, .verifyComplete im,
      .applyComplete, .activateFirmware], exec i s = .next s.quiet)

/-- R443, R444: a firmware update goes through RequestUpdate, transfer, verify, apply and activate. Without a staging list it is refused
as UNABLE_TO_INITIATE_UPDATE. A verified image is staged for the next device reset, a verified board record is written to flash when
it is applied; what fails its checks ends the update; a step out of its order is refused and changes nothing. Memory and the cores are unchanged throughout. -/
def Obligations.FirmwareUpdates : Prop :=
  ∀ s : State, s.serves = true →
    let ends := fun (i : Instr) (name : String) (code : Nat) (u : Option UpdateRun) (rs : List Reg) => ∃ t : State, exec i s = .next t ∧
      t.pending = s.pending ∧ t.dev.out = [.mgmtReply 1 name code []] ∧ t.dev.mgmt = { s.dev.mgmt with update := u } ∧
      t.dev.flag .mgtStatus Fd.mgtStatusUpdateBusy = u.isSome ∧ s.dev.sameRegs t.dev rs ∧ t.dev.flash = s.dev.flash ∧
      t.dev.mem = s.dev.mem ∧ t.dev.cores = s.dev.cores
    let refused := fun (i : Instr) (name : String) => exec i s = .next (s.after fun d => { d with out := [.mgmtReply 1 name 1 []] })
    let entries := s.dev.fld .mgtStageList Fd.mgtStageListEntries
    (∀ k : Nat, (1 ≤ entries → entries ≤ 1024 → s.dev.mgmt.update = none → k = 1 ∨ k = 2 →
        ends (.requestUpdate k) "REQUEST_UPDATE" 0 (some { component := k }) [.mgtStatus]) ∧
      (1 ≤ entries → entries ≤ 1024 → s.dev.mgmt.update.isSome = true ∨ k = 0 ∨ 2 < k → refused (.requestUpdate k) "REQUEST_UPDATE") ∧
      (entries = 0 ∨ 1024 < entries → refused (.requestUpdate k) "REQUEST_UPDATE: UNABLE_TO_INITIATE_UPDATE")) ∧
    (s.dev.mgmt.update = none → (∀ off bs, refused (.firmwareImageTransfer off bs) "FIRMWARE_IMAGE_TRANSFER") ∧
      (∀ im, refused (.verifyComplete im) "VERIFY_COMPLETE") ∧ refused .applyComplete "APPLY_COMPLETE" ∧
      refused .activateFirmware "ACTIVATE_FIRMWARE") ∧
    (∀ u : UpdateRun, s.dev.mgmt.update = some u →
      (∀ (off : Nat) (bs : List Byte), u.verified = false → u.component = 1 → off + bs.length ≤ entries * 65536 → ∃ t : State,
        exec (.firmwareImageTransfer off bs) s = .next t ∧ t.pending = s.pending ∧
        t.dev.mgmt = { s.dev.mgmt with update := some { u with length := max u.length (off + bs.length), board := [] } } ∧
        t.dev.hostMem = (Device.stageBytes (bs.length / 65536 + 2) off bs s.quiet.dev).hostMem ∧ t.dev.mem = s.dev.mem ∧
        t.dev.cores = s.dev.cores ∧ t.dev.flash = s.dev.flash) ∧
      (∀ (off : Nat) (bs : List Byte), u.verified = false → u.component = 2 → off + bs.length ≤ entries * 65536 → off + bs.length ≤ 56 →
        ∃ t : State, exec (.firmwareImageTransfer off bs) s = .next t ∧ t.pending = s.pending ∧
        t.dev.hostMem = (Device.stageBytes (bs.length / 65536 + 2) off bs s.quiet.dev).hostMem ∧ t.dev.mem = s.dev.mem ∧
        t.dev.cores = s.dev.cores ∧ t.dev.flash = s.dev.flash ∧ ∃ v : UpdateRun, t.dev.mgmt = { s.dev.mgmt with update := some v } ∧
          v.component = 2 ∧ v.verified = false ∧ v.length = max u.length (off + bs.length) ∧
          ∀ i, i < 56 → v.board.getD i 0 = if off ≤ i ∧ i < off + bs.length then bs.getD (i - off) 0 else u.board.getD i 0) ∧
      (∀ (off : Nat) (bs : List Byte), u.verified = true ∨ entries * 65536 < off + bs.length ∨ u.component = 2 ∧ 56 < off + bs.length →
        refused (.firmwareImageTransfer off bs) "FIRMWARE_IMAGE_TRANSFER") ∧
      (u.verified = true → ∀ im : Image, refused (.verifyComplete im) "VERIFY_COMPLETE") ∧
      (u.verified = false ∨ u.applied = true → refused .applyComplete "APPLY_COMPLETE") ∧
      (∀ im : Image, u.verified = false → u.component = 1 → pushResult false im = 2 → u.length < 2 ^ 32 →
        ends (.verifyComplete im) "VERIFY_COMPLETE" 0 (some { u with verified := true }) [.mgtStageCtrl, .mgtStatus] ∧
        ∀ t : State, exec (.verifyComplete im) s = .next t → t.dev.fld .mgtStageCtrl Fd.mgtStageCtrlLength = u.length ∧
          t.dev.flag .mgtStageCtrl Fd.mgtStageCtrlValid = true) ∧
      (∀ im : Image, u.verified = false → u.component = 2 → boardOk u.board = true →
        ends (.verifyComplete im) "VERIFY_COMPLETE" 0 (some { u with verified := true }) [.mgtStatus]) ∧
      (∀ im : Image, u.verified = false → (if u.component = 1 then pushResult false im ≠ 2 else boardOk u.board = false) →
        ends (.verifyComplete im) "VERIFY_COMPLETE" 1 none [.mgtStatus]) ∧
      (u.verified = true → u.applied = false → u.component = 1 →
        ends .applyComplete "APPLY_COMPLETE" 0 (some { u with applied := true }) [.mgtStatus]) ∧
      (u.verified = true → u.applied = false → u.component = 2 → ∃ t : State, exec .applyComplete s = .next t ∧ t.pending = s.pending ∧
        t.dev.flash = { s.dev.flash with board := u.board } ∧ t.dev.mgmt = { s.dev.mgmt with update := some { u with applied := true } } ∧
        t.dev.mem = s.dev.mem ∧ t.dev.cores = s.dev.cores) ∧
      (u.applied = true → ends .activateFirmware "ACTIVATE_FIRMWARE" 0 none [.mgtStatus]) ∧
      (u.applied = false → refused .activateFirmware "ACTIVATE_FIRMWARE"))
end

