-- ==== Sys2Proof/Laws/Bits.lean ====
section
/-! SUPPORT. What a bit field reads after a field of the word was replaced. -/

namespace Sys2Proof.Machine

/-- A number with n bits from lo replaced, split at lo and at lo + n. -/
theorem field_split (w lo n v : Nat) :
    w - (w / 2 ^ lo % 2 ^ n) * 2 ^ lo + (v % 2 ^ n) * 2 ^ lo =
      (w / 2 ^ lo / 2 ^ n * 2 ^ n + v % 2 ^ n) * 2 ^ lo + w % 2 ^ lo := by
  have h1 := Nat.div_add_mod w (2 ^ lo)
  have h2 := Nat.div_add_mod (w / 2 ^ lo) (2 ^ n)
  generalize w / 2 ^ lo = a at *
  generalize w % 2 ^ lo = c at *
  generalize a / 2 ^ n = q at *
  generalize hr : a % 2 ^ n = r at *
  generalize v % 2 ^ n = x at *
  subst h1
  rw [← h2]
  have : 2 ^ lo * (2 ^ n * q + r) = q * 2 ^ n * 2 ^ lo + r * 2 ^ lo := by ring
  rw [this, add_mul]
  omega

/-- The field replaced stays below 2 ^ 64. -/
theorem field_lt (w : Word) (hi lo v : Nat) (h : lo ≤ hi) (h2 : hi < 64) :
    w.toNat - (bitsOf w.toNat hi lo) <<< lo + (v % 2 ^ (hi + 1 - lo)) <<< lo < 2 ^ 64 := by
  simp only [bitsOf, Nat.shiftLeft_eq, Nat.shiftRight_eq_div_pow]
  rw [field_split]
  have hw := w.isLt
  have e1 : (2 : Nat) ^ 64 = 2 ^ (64 - (hi + 1)) * 2 ^ (hi + 1 - lo) * 2 ^ lo := by
    rw [← pow_add, ← pow_add]; congr 1; omega
  rw [e1] at hw ⊢
  have p1 : 0 < 2 ^ lo := by positivity
  have p2 : 0 < 2 ^ (hi + 1 - lo) := by positivity
  generalize 2 ^ lo = L at *
  generalize 2 ^ (hi + 1 - lo) = N at *
  generalize 2 ^ (64 - (hi + 1)) = T at *
  have a1 : w.toNat / L < T * N := Nat.div_lt_of_lt_mul (by rw [mul_comm]; exact hw)
  have a2 : w.toNat / L / N < T := Nat.div_lt_of_lt_mul (by rw [mul_comm]; exact a1)
  have a3 : w.toNat % L < L := Nat.mod_lt _ p1
  have a4 : v % N < N := Nat.mod_lt _ p2
  generalize w.toNat / L / N = q at *
  generalize w.toNat % L = c at *
  generalize v % N = x at *
  have b1 : q * N + x + 1 ≤ T * N := by nlinarith
  nlinarith

/-- The word after a field was replaced, as a number. -/
theorem toNat_withField (w : Word) (hi lo v : Nat) (h : lo ≤ hi) (h2 : hi < 64) :
    (withField w hi lo v).toNat =
      (w.toNat / 2 ^ lo / 2 ^ (hi + 1 - lo) * 2 ^ (hi + 1 - lo) + v % 2 ^ (hi + 1 - lo)) * 2 ^ lo + w.toNat % 2 ^ lo := by
  have hl := field_lt w hi lo v h h2
  rw [withField, BitVec.toNat_ofNat, Nat.mod_eq_of_lt hl]
  simp only [bitsOf, Nat.shiftLeft_eq, Nat.shiftRight_eq_div_pow]
  exact field_split _ _ _ _

/-- A field reads what was put there. -/
theorem fieldOf_withField_self (w : Word) (hi lo v : Nat) (h : lo ≤ hi) (h2 : hi < 64) :
    fieldOf (withField w hi lo v) hi lo = v % 2 ^ (hi + 1 - lo) := by
  rw [fieldOf, toNat_withField w hi lo v h h2, bitsOf, Nat.shiftRight_eq_div_pow]
  rw [mul_comm, Nat.mul_add_div (by positivity), Nat.div_eq_of_lt (Nat.mod_lt _ (by positivity)), add_zero,
    mul_comm, Nat.mul_add_mod, Nat.mod_mod]

/-- A field above the one replaced reads as before. -/
theorem fieldOf_withField_above (w : Word) (hi lo v hi' lo' : Nat) (h : lo ≤ hi) (h2 : hi < 64) (hd : hi < lo') :
    fieldOf (withField w hi lo v) hi' lo' = fieldOf w hi' lo' := by
  simp only [fieldOf, bitsOf, Nat.shiftRight_eq_div_pow]
  rw [toNat_withField w hi lo v h h2]
  congr 1
  have e : 2 ^ lo' = 2 ^ lo * 2 ^ (hi + 1 - lo) * 2 ^ (lo' - (hi + 1)) := by
    rw [← pow_add, ← pow_add]; congr 1; omega
  rw [e, ← Nat.div_div_eq_div_mul, ← Nat.div_div_eq_div_mul, ← Nat.div_div_eq_div_mul, ← Nat.div_div_eq_div_mul]
  congr 1
  rw [mul_comm, Nat.mul_add_div (by positivity), Nat.div_eq_of_lt (Nat.mod_lt _ (by positivity)), add_zero,
    mul_comm, Nat.mul_add_div (by positivity), Nat.div_eq_of_lt (Nat.mod_lt _ (by positivity)), add_zero]

/-- A field below the one replaced reads as before. -/
theorem fieldOf_withField_below (w : Word) (hi lo v hi' lo' : Nat) (h : lo ≤ hi) (h2 : hi < 64) (hl : lo' ≤ hi')
    (hd : hi' < lo) : fieldOf (withField w hi lo v) hi' lo' = fieldOf w hi' lo' := by
  simp only [fieldOf, bitsOf, Nat.shiftRight_eq_div_pow]
  rw [toNat_withField w hi lo v h h2]
  generalize w.toNat / 2 ^ lo / 2 ^ (hi + 1 - lo) * 2 ^ (hi + 1 - lo) + v % 2 ^ (hi + 1 - lo) = a
  have key : ∀ x : Nat, x / 2 ^ lo' % 2 ^ (hi' + 1 - lo') = x % 2 ^ lo / 2 ^ lo' % 2 ^ (hi' + 1 - lo') := by
    intro x
    have e : 2 ^ lo = 2 ^ lo' * (2 ^ (hi' + 1 - lo') * 2 ^ (lo - (hi' + 1))) := by
      rw [← pow_add, ← pow_add]; congr 1; omega
    rw [e, Nat.mod_mul_right_div_self, Nat.mod_mul_right_mod]
  rw [key, key w.toNat]
  simp

/-! ### Bytes -/

@[simp] theorem length_leBytes (n v : Nat) : (leBytes n v).length = n := by
  induction n generalizing v with
  | zero => rfl
  | succ n ih => simp [leBytes, ih]

/-- Bytes spell the number they were made of. -/
theorem ofLeBytes_leBytes (n v : Nat) : ofLeBytes (leBytes n v) = v % 256 ^ n := by
  induction n generalizing v with
  | zero => simp [leBytes, ofLeBytes, Nat.mod_one]
  | succ n ih =>
    simp only [leBytes, ofLeBytes, ih, BitVec.toNat_ofNat]
    have h : (256 : Nat) ^ (n + 1) = 256 * 256 ^ n := by rw [Nat.pow_succ, Nat.mul_comm]
    rw [h, Nat.mod_mul]

/-- The eight bytes of a word spell it. -/
theorem ofLeBytes_word (w : Word) : wordOf (ofLeBytes (leBytes 8 w.toNat)) = w := by
  rw [ofLeBytes_leBytes, wordOf]
  have := w.isLt
  apply BitVec.eq_of_toNat_eq
  simp only [BitVec.toNat_ofNat]
  omega

end Sys2Proof.Machine
end

