-- ==== Sys2Proof/Laws/SMap.lean ====
section
/-! SUPPORT. What sparse maps read after each operation, and that every operation keeps the canonical form. -/

namespace Sys2Proof.Machine

variable {α : Type}

/-- A read after entries of other keys were taken out. -/
theorem SMap.get_filter_ne (dflt : Nat → α) (m : SMap α) (k j : Nat) (h : j ≠ k) :
    SMap.get dflt (m.filter fun e => e.1 != k) j = SMap.get dflt m j := by
  induction m with
  | nil => rfl
  | cons e rest ih =>
    obtain ⟨a, v⟩ := e
    by_cases hk : a = k
    · subst hk
      simp [SMap.get, ih, Ne.symm h]
    · simp [SMap.get, hk, ih]

/-- A read at a key whose entries were taken out. -/
theorem SMap.get_filter_self (dflt : Nat → α) (m : SMap α) (k : Nat) :
    SMap.get dflt (m.filter fun e => e.1 != k) k = dflt k := by
  induction m with
  | nil => rfl
  | cons e rest ih =>
    obtain ⟨a, v⟩ := e
    by_cases hk : a = k
    · subst hk; simp [ih]
    · simp [SMap.get, hk, ih]

/-- A read after a write to the same key gives the value written. -/
@[simp] theorem SMap.get_set_self [DecidableEq α] (dflt : Nat → α) (m : SMap α) (k : Nat) (v : α) :
    SMap.get dflt (SMap.set dflt m k v) k = v := by
  induction m with
  | nil => by_cases h : v = dflt k <;> simp [SMap.set, SMap.get, h]
  | cons e rest ih =>
    obtain ⟨j, w⟩ := e
    simp only [SMap.set]
    split
    · split
      · rename_i h; rw [SMap.get_filter_self, h]
      · simp [SMap.get]
    · rename_i h
      have : j ≠ k := by omega
      simp [SMap.get, this, ih]

/-- A write leaves every other key alone. -/
theorem SMap.get_set_ne [DecidableEq α] (dflt : Nat → α) (m : SMap α) (k j : Nat) (v : α) (h : j ≠ k) :
    SMap.get dflt (SMap.set dflt m k v) j = SMap.get dflt m j := by
  induction m with
  | nil => by_cases hv : v = dflt k <;> simp [SMap.set, SMap.get, hv, Ne.symm h]
  | cons e rest ih =>
    obtain ⟨i, w⟩ := e
    simp only [SMap.set]
    split
    · split
      · rw [SMap.get_filter_ne _ _ _ _ h]
      · rw [SMap.get]; simp only [Ne.symm h, ↓reduceIte]; rw [SMap.get_filter_ne _ _ _ _ h]
    · by_cases hi : i = j <;> simp [SMap.get, hi, ih]

/-- What any key reads after a write. -/
theorem SMap.get_set [DecidableEq α] (dflt : Nat → α) (m : SMap α) (k j : Nat) (v : α) :
    SMap.get dflt (SMap.set dflt m k v) j = if j = k then v else SMap.get dflt m j := by
  by_cases h : j = k
  · subst h; simp
  · simp [h, SMap.get_set_ne]

/-- A weaker lower bound is a bound. -/
theorem SMap.wfAbove_weaken [DecidableEq α] (dflt : Nat → α) (m : SMap α) (a b : Nat) (hab : a ≤ b)
    (h : SMap.wfAbove dflt (some b) m = true) : SMap.wfAbove dflt (some a) m = true := by
  cases m with
  | nil => rfl
  | cons e rest =>
    obtain ⟨j, v⟩ := e
    simp only [SMap.wfAbove, Bool.and_eq_true, decide_eq_true_eq] at h ⊢
    exact ⟨⟨by omega, h.1.2⟩, h.2⟩

/-- A bound may be forgotten. -/
theorem SMap.wfAbove_none [DecidableEq α] (dflt : Nat → α) (m : SMap α) (a : Nat)
    (h : SMap.wfAbove dflt (some a) m = true) : SMap.wfAbove dflt none m = true := by
  cases m with
  | nil => rfl
  | cons e rest =>
    obtain ⟨j, v⟩ := e
    simp only [SMap.wfAbove, Bool.and_eq_true, decide_eq_true_eq] at h ⊢
    exact ⟨⟨trivial, h.1.2⟩, h.2⟩

/-- Every key of a canonical map above b lies above b. -/
theorem SMap.lt_of_wfAbove [DecidableEq α] (dflt : Nat → α) (m : SMap α) (b : Nat)
    (h : SMap.wfAbove dflt (some b) m = true) : ∀ e ∈ m, b < e.1 := by
  induction m generalizing b with
  | nil => simp
  | cons e rest ih =>
    obtain ⟨j, v⟩ := e
    simp only [SMap.wfAbove, Bool.and_eq_true, decide_eq_true_eq] at h
    intro x hx
    rcases List.mem_cons.1 hx with rfl | hx
    · exact h.1.1
    · exact Nat.lt_trans h.1.1 (ih j h.2 x hx)

/-- Taking entries out keeps the form. -/
theorem SMap.wfAbove_filter [DecidableEq α] (dflt : Nat → α) (p : Nat × α → Bool) (m : SMap α) (b : Option Nat)
    (h : SMap.wfAbove dflt b m = true) : SMap.wfAbove dflt b (m.filter p) = true := by
  induction m generalizing b with
  | nil => rfl
  | cons e rest ih =>
    obtain ⟨j, v⟩ := e
    simp only [SMap.wfAbove, Bool.and_eq_true, decide_eq_true_eq] at h
    by_cases hp : p (j, v) = true
    · simp only [List.filter_cons, hp, ↓reduceIte, SMap.wfAbove, Bool.and_eq_true, decide_eq_true_eq]
      exact ⟨h.1, ih _ h.2⟩
    · simp only [List.filter_cons, hp]
      have := ih _ h.2
      cases b with
      | none => exact SMap.wfAbove_none dflt _ j this
      | some i => exact SMap.wfAbove_weaken dflt _ i j (Nat.le_of_lt (by simpa using h.1.1)) this

/-- A filter keeps the canonical form. -/
theorem SMap.wf_filter [DecidableEq α] (dflt : Nat → α) (p : Nat × α → Bool) (m : SMap α)
    (h : SMap.wf dflt m = true) : SMap.wf dflt (m.filter p) = true := SMap.wfAbove_filter dflt p m none h

/-- SMap.keep keeps the canonical form. -/
theorem SMap.wf_keep [DecidableEq α] (dflt : Nat → α) (p : Nat → Bool) (m : SMap α)
    (h : SMap.wf dflt m = true) : SMap.wf dflt (SMap.keep p m) = true := SMap.wf_filter dflt _ m h

/-- A map without key k whose keys start at k or above lies above k. -/
theorem SMap.wfAbove_drop [DecidableEq α] (dflt : Nat → α) (m : SMap α) (k : Nat) (b : Option Nat)
    (h : SMap.wfAbove dflt b m = true) (hk : ∀ e ∈ m, k ≤ e.1) :
    SMap.wfAbove dflt (some k) (m.filter fun e => e.1 != k) = true := by
  induction m generalizing b with
  | nil => rfl
  | cons e rest ih =>
    obtain ⟨j, v⟩ := e
    have hj : k ≤ j := hk (j, v) (List.mem_cons_self ..)
    simp only [SMap.wfAbove, Bool.and_eq_true, decide_eq_true_eq] at h
    by_cases e : j = k
    · subst e
      simp only [bne_self_eq_false, List.filter_cons, Bool.false_eq_true, ↓reduceIte]
      exact ih _ h.2 fun x hx => hk x (List.mem_cons_of_mem _ hx)
    · have hne : (j != k) = true := by simpa using e
      simp only [List.filter_cons, hne, ↓reduceIte, SMap.wfAbove, Bool.and_eq_true, decide_eq_true_eq]
      exact ⟨⟨by omega, h.1.2⟩, SMap.wfAbove_filter dflt _ rest _ h.2⟩

/-- A write keeps the form, above any bound below its key. -/
theorem SMap.wfAbove_set [DecidableEq α] (dflt : Nat → α) (m : SMap α) (k : Nat) (v : α) (b : Option Nat)
    (h : SMap.wfAbove dflt b m = true) (hb : ∀ i, b = some i → i < k) : SMap.wfAbove dflt b (SMap.set dflt m k v) = true := by
  induction m generalizing b with
  | nil =>
    simp only [SMap.set]
    split
    · rfl
    · rename_i hv
      cases b with
      | none => simp [SMap.wfAbove, hv]
      | some i => simp [SMap.wfAbove, hv, hb i rfl]
  | cons e rest ih =>
    obtain ⟨j, w⟩ := e
    have h' := h
    simp only [SMap.wfAbove, Bool.and_eq_true, decide_eq_true_eq] at h'
    simp only [SMap.set]
    split
    · rename_i hk
      have hge : ∀ e ∈ (j, w) :: rest, k ≤ e.1 := by
        intro e he
        rcases List.mem_cons.1 he with rfl | he
        · exact hk
        · exact Nat.le_of_lt (Nat.lt_of_le_of_lt hk (SMap.lt_of_wfAbove dflt rest j h'.2 e he))
      have drop := SMap.wfAbove_drop dflt _ k b h hge
      split
      · cases b with
        | none => exact SMap.wfAbove_none dflt _ k drop
        | some i => exact SMap.wfAbove_weaken dflt _ i k (Nat.le_of_lt (hb i rfl)) drop
      · rename_i hv
        simp only [SMap.wfAbove]
        cases b with
        | none => simpa [hv] using drop
        | some i => simpa [hv, hb i rfl] using drop
    · rename_i hk
      simp only [SMap.wfAbove, Bool.and_eq_true, decide_eq_true_eq]
      exact ⟨h'.1, ih _ h'.2 fun i hi => by cases hi; omega⟩

/-- A write keeps the canonical form. -/
theorem SMap.wf_set [DecidableEq α] (dflt : Nat → α) (m : SMap α) (k : Nat) (v : α) (h : SMap.wf dflt m = true) :
    SMap.wf dflt (SMap.set dflt m k v) = true := SMap.wfAbove_set dflt m k v none h fun _ hi => by cases hi

/-- A write at another key, whatever defaults the write and the read are given. -/
theorem SMap.get_set_other [DecidableEq α] (dflt dflt' : Nat → α) (m : SMap α) (k j : Nat) (v : α) (h : j ≠ k) :
    SMap.get dflt' (SMap.set dflt m k v) j = SMap.get dflt' m j := by
  induction m with
  | nil => by_cases hv : v = dflt k <;> simp [SMap.set, SMap.get, hv, Ne.symm h]
  | cons e rest ih =>
    obtain ⟨i, w⟩ := e
    simp only [SMap.set]
    split
    · split
      · rw [SMap.get_filter_ne _ _ _ _ h]
      · rw [SMap.get]; simp only [Ne.symm h, ↓reduceIte]; rw [SMap.get_filter_ne _ _ _ _ h]
    · by_cases hi : i = j <;> simp [SMap.get, hi, ih]

/-! ### Bytes laid at consecutive keys -/

/-- A read in two maps laid one after the other, where the first lists the key or not. -/
theorem SMap.get_append (dflt : Nat → α) (m n : SMap α) (k : Nat) (h : ∀ e ∈ m, e.1 ≠ k) :
    SMap.get dflt (m ++ n) k = SMap.get dflt n k := by
  induction m with
  | nil => rfl
  | cons e rest ih =>
    obtain ⟨i, w⟩ := e
    have : i ≠ k := h _ (List.mem_cons_self ..)
    simp [SMap.get, this, ih fun x hx => h x (List.mem_cons_of_mem _ hx)]

/-- A map that lists no entry for a key reads its default. -/
theorem SMap.get_absent (dflt : Nat → α) (m : SMap α) (k : Nat) (h : ∀ e ∈ m, e.1 ≠ k) : SMap.get dflt m k = dflt k := by
  have := SMap.get_append dflt m [] k h
  simpa [SMap.get] using this

/-- Where the second of two maps does not list the key. -/
theorem SMap.get_append_left (dflt : Nat → α) (m n : SMap α) (k : Nat) (h : ∀ e ∈ n, e.1 ≠ k) :
    SMap.get dflt (m ++ n) k = SMap.get dflt m k := by
  induction m with
  | nil => exact SMap.get_absent dflt n k h
  | cons e rest ih =>
    obtain ⟨i, w⟩ := e
    by_cases hi : i = k <;> simp [SMap.get, hi, ih]

/-- The keys of a list's entries. -/
theorem SMap.mem_entries [DecidableEq α] (dflt : Nat → α) (k : Nat) (vs : List α) :
    ∀ e ∈ SMap.entries dflt k vs, k ≤ e.1 ∧ e.1 < k + vs.length := by
  induction vs generalizing k with
  | nil => simp [SMap.entries]
  | cons v vs ih =>
    intro e he
    simp only [SMap.entries] at he
    split at he
    · have := ih (k + 1) e he
      simp only [List.length_cons]; omega
    · rcases List.mem_cons.1 he with rfl | he
      · simp
      · have := ih (k + 1) e he
        simp only [List.length_cons]; omega

/-- What a list's entries read. -/
theorem SMap.get_entries [DecidableEq α] (dflt : Nat → α) (k : Nat) (vs : List α) (j : Nat) (x : α) (h : k ≤ j) (h2 : j < k + vs.length) :
    SMap.get dflt (SMap.entries dflt k vs) j = vs.getD (j - k) x := by
  induction vs generalizing k with
  | nil => simp at h2; omega
  | cons v vs ih =>
    simp only [List.length_cons] at h2
    simp only [SMap.entries]
    by_cases hj : j = k
    · subst hj
      split
      · rename_i hv
        rw [SMap.get_absent]
        · simp [hv]
        · intro e he
          have := SMap.mem_entries dflt (j + 1) vs e he
          omega
      · simp [SMap.get]
    · have e1 : j - k = (j - (k + 1)) + 1 := by omega
      split
      · rw [ih (k + 1) (by omega) (by omega), e1]; simp
      · have : k ≠ j := fun e => hj e.symm
        simp only [SMap.get, this, ↓reduceIte]
        rw [ih (k + 1) (by omega) (by omega), e1]; simp

/-- A filter by key leaves a key it keeps alone. -/
theorem SMap.get_filter (dflt : Nat → α) (p : Nat → Bool) (m : SMap α) (k : Nat) (h : p k = true) :
    SMap.get dflt (m.filter fun e => p e.1) k = SMap.get dflt m k := by
  induction m with
  | nil => rfl
  | cons e rest ih =>
    obtain ⟨i, w⟩ := e
    by_cases hp : p i = true
    · simp [hp, SMap.get, ih]
    · have : i ≠ k := fun e => hp (e ▸ h)
      simp [hp, SMap.get, this, ih]

/-- A filter by key hides a key it drops. -/
theorem SMap.get_filter_not (dflt : Nat → α) (p : Nat → Bool) (m : SMap α) (k : Nat) (h : p k = false) :
    SMap.get dflt (m.filter fun e => p e.1) k = dflt k := by
  apply SMap.get_absent
  intro e he hk
  have := (List.mem_filter.1 he).2
  rw [hk, h] at this
  cases this

/-- What any key reads after bytes were laid at consecutive keys. -/
theorem SMap.get_setList [DecidableEq α] (dflt : Nat → α) (m : SMap α) (k j : Nat) (vs : List α) (x : α) :
    SMap.get dflt (SMap.setList dflt m k vs) j =
      if k ≤ j ∧ j < k + vs.length then vs.getD (j - k) x else SMap.get dflt m j := by
  have nlow : ¬ j < k → ∀ e ∈ m.filter (fun e => decide (e.1 < k)), e.1 ≠ j := by
    intro hj e he hk
    have := of_decide_eq_true (List.mem_filter.1 he).2
    omega
  have nhigh : ¬ k + vs.length ≤ j → ∀ e ∈ m.filter (fun e => decide (k + vs.length ≤ e.1)), e.1 ≠ j := by
    intro hj e he hk
    have := of_decide_eq_true (List.mem_filter.1 he).2
    omega
  have nmid : ¬ (k ≤ j ∧ j < k + vs.length) → ∀ e ∈ SMap.entries dflt k vs, e.1 ≠ j := by
    intro hj e he hk
    have := SMap.mem_entries dflt k vs e he
    omega
  unfold SMap.setList
  split
  · rename_i h
    rw [SMap.get_append_left _ _ _ _ (nhigh (by omega)), SMap.get_append _ _ _ _ (nlow (by omega))]
    exact SMap.get_entries dflt k vs j x h.1 h.2
  · rename_i h
    by_cases hl : j < k
    · rw [SMap.get_append_left _ _ _ _ (nhigh (by omega)), SMap.get_append_left _ _ _ _ (nmid h)]
      exact SMap.get_filter dflt (fun a => decide (a < k)) m j (by simpa using hl)
    · rw [List.append_assoc, SMap.get_append _ _ _ _ (nlow hl), SMap.get_append _ _ _ _ (nmid h)]
      exact SMap.get_filter dflt (fun a => decide (k + vs.length ≤ a)) m j (by simp; omega)

/-- A bound below the first of two canonical stretches, the second above every key of the first. -/
theorem SMap.wfAbove_append [DecidableEq α] (dflt : Nat → α) (m n : SMap α) (b : Option Nat)
    (hm : SMap.wfAbove dflt b m = true) (hn : SMap.wfAbove dflt b n = true) (h : ∀ e ∈ m, ∀ f ∈ n, e.1 < f.1) :
    SMap.wfAbove dflt b (m ++ n) = true := by
  induction m generalizing b with
  | nil => exact hn
  | cons e rest ih =>
    obtain ⟨i, w⟩ := e
    simp only [SMap.wfAbove, Bool.and_eq_true, decide_eq_true_eq] at hm
    simp only [List.cons_append, SMap.wfAbove, Bool.and_eq_true, decide_eq_true_eq]
    refine ⟨hm.1, ih _ hm.2 ?_ fun e he f hf => h e (List.mem_cons_of_mem _ he) f hf⟩
    cases n with
    | nil => rfl
    | cons f fs =>
      obtain ⟨j, u⟩ := f
      have hij : i < j := h (i, w) (List.mem_cons_self ..) (j, u) (List.mem_cons_self ..)
      simp only [SMap.wfAbove, Bool.and_eq_true, decide_eq_true_eq] at hn ⊢
      exact ⟨⟨hij, hn.1.2⟩, hn.2⟩

/-- A list's entries are canonical. -/
theorem SMap.wf_entries [DecidableEq α] (dflt : Nat → α) (k : Nat) (vs : List α) (b : Option Nat) (hb : ∀ i, b = some i → i < k) :
    SMap.wfAbove dflt b (SMap.entries dflt k vs) = true := by
  induction vs generalizing k b with
  | nil => rfl
  | cons v vs ih =>
    simp only [SMap.entries]
    split
    · exact ih (k + 1) b fun i hi => Nat.lt_succ_of_lt (hb i hi)
    · rename_i hv
      simp only [SMap.wfAbove, Bool.and_eq_true, decide_eq_true_eq]
      refine ⟨⟨?_, hv⟩, ih (k + 1) (some k) fun i hi => by cases hi; omega⟩
      cases b with
      | none => trivial
      | some i => simpa using hb i rfl

/-- Bytes laid at consecutive keys keep the canonical form. -/
theorem SMap.wf_setList [DecidableEq α] (dflt : Nat → α) (m : SMap α) (k : Nat) (vs : List α) (h : SMap.wf dflt m = true) :
    SMap.wf dflt (SMap.setList dflt m k vs) = true := by
  unfold SMap.setList SMap.wf
  have low : ∀ e ∈ m.filter (fun e => decide (e.1 < k)), e.1 < k := fun e he => of_decide_eq_true (List.mem_filter.1 he).2
  have high : ∀ e ∈ m.filter (fun e => decide (k + vs.length ≤ e.1)), k + vs.length ≤ e.1 :=
    fun e he => of_decide_eq_true (List.mem_filter.1 he).2
  have mid := SMap.mem_entries dflt k vs
  apply SMap.wfAbove_append
  · apply SMap.wfAbove_append
    · exact SMap.wf_filter dflt _ m h
    · exact SMap.wf_entries dflt k vs none fun i hi => by cases hi
    · intro e he f hf
      have := low e he; have := mid f hf; omega
  · exact SMap.wf_filter dflt _ m h
  · intro e he f hf
    have hf' := high f hf
    rcases List.mem_append.1 he with he | he
    · have := low e he; omega
    · have := mid e he; omega

end Sys2Proof.Machine
end

