-- ==== Sys2Proof/Laws/State.lean ====
section
/-! SUPPORT. What each update of the device leaves alone: one lemma for each field and update. -/

namespace Sys2Proof.Machine

@[simp] theorem Device.setReg_pins (d : Device) (r : Reg) (w : Word) : (d.setReg r w).pins = d.pins := by unfold Device.setReg; split <;> rfl
@[simp] theorem Device.setReg_flash (d : Device) (r : Reg) (w : Word) : (d.setReg r w).flash = d.flash := by unfold Device.setReg; split <;> rfl
@[simp] theorem Device.setReg_boot (d : Device) (r : Reg) (w : Word) : (d.setReg r w).boot = d.boot := by unfold Device.setReg; split <;> rfl
@[simp] theorem Device.setReg_now (d : Device) (r : Reg) (w : Word) : (d.setReg r w).now = d.now := by unfold Device.setReg; split <;> rfl
@[simp] theorem Device.setReg_hostMem (d : Device) (r : Reg) (w : Word) : (d.setReg r w).hostMem = d.hostMem := by unfold Device.setReg; split <;> rfl
@[simp] theorem Device.setReg_mem (d : Device) (r : Reg) (w : Word) : (d.setReg r w).mem = d.mem := by unfold Device.setReg; split <;> rfl
@[simp] theorem Device.setReg_side (d : Device) (r : Reg) (w : Word) : (d.setReg r w).side = d.side := by unfold Device.setReg; split <;> rfl
@[simp] theorem Device.setReg_far (d : Device) (r : Reg) (w : Word) : (d.setReg r w).far = d.far := by unfold Device.setReg; split <;> rfl
@[simp] theorem Device.setReg_farSide (d : Device) (r : Reg) (w : Word) : (d.setReg r w).farSide = d.farSide := by unfold Device.setReg; split <;> rfl
@[simp] theorem Device.setReg_hostBad (d : Device) (r : Reg) (w : Word) : (d.setReg r w).hostBad = d.hostBad := by unfold Device.setReg; split <;> rfl
@[simp] theorem Device.setReg_badReads (d : Device) (r : Reg) (w : Word) : (d.setReg r w).badReads = d.badReads := by unfold Device.setReg; split <;> rfl
@[simp] theorem Device.setReg_remoteBad (d : Device) (r : Reg) (w : Word) : (d.setReg r w).remoteBad = d.remoteBad := by unfold Device.setReg; split <;> rfl
@[simp] theorem Device.setReg_tlb (d : Device) (r : Reg) (w : Word) : (d.setReg r w).tlb = d.tlb := by unfold Device.setReg; split <;> rfl
@[simp] theorem Device.setReg_handles (d : Device) (r : Reg) (w : Word) : (d.setReg r w).handles = d.handles := by unfold Device.setReg; split <;> rfl
@[simp] theorem Device.setReg_streams (d : Device) (r : Reg) (w : Word) : (d.setReg r w).streams = d.streams := by unfold Device.setReg; split <;> rfl
@[simp] theorem Device.setReg_injectors (d : Device) (r : Reg) (w : Word) : (d.setReg r w).injectors = d.injectors := by unfold Device.setReg; split <;> rfl
@[simp] theorem Device.setReg_errs (d : Device) (r : Reg) (w : Word) : (d.setReg r w).errs = d.errs := by unfold Device.setReg; split <;> rfl
@[simp] theorem Device.setReg_hist (d : Device) (r : Reg) (w : Word) : (d.setReg r w).hist = d.hist := by unfold Device.setReg; split <;> rfl
@[simp] theorem Device.setReg_events (d : Device) (r : Reg) (w : Word) : (d.setReg r w).events = d.events := by unfold Device.setReg; split <;> rfl
@[simp] theorem Device.setReg_sqs (d : Device) (r : Reg) (w : Word) : (d.setReg r w).sqs = d.sqs := by unfold Device.setReg; split <;> rfl
@[simp] theorem Device.setReg_cqs (d : Device) (r : Reg) (w : Word) : (d.setReg r w).cqs = d.cqs := by unfold Device.setReg; split <;> rfl
@[simp] theorem Device.setReg_queues (d : Device) (r : Reg) (w : Word) : (d.setReg r w).queues = d.queues := by unfold Device.setReg; split <;> rfl
@[simp] theorem Device.setReg_objs (d : Device) (r : Reg) (w : Word) : (d.setReg r w).objs = d.objs := by unfold Device.setReg; split <;> rfl
@[simp] theorem Device.setReg_flows (d : Device) (r : Reg) (w : Word) : (d.setReg r w).flows = d.flows := by unfold Device.setReg; split <;> rfl
@[simp] theorem Device.setReg_layout (d : Device) (r : Reg) (w : Word) : (d.setReg r w).layout = d.layout := by unfold Device.setReg; split <;> rfl
@[simp] theorem Device.setReg_cores (d : Device) (r : Reg) (w : Word) : (d.setReg r w).cores = d.cores := by unfold Device.setReg; split <;> rfl
@[simp] theorem Device.setReg_readyLists (d : Device) (r : Reg) (w : Word) : (d.setReg r w).readyLists = d.readyLists := by unfold Device.setReg; split <;> rfl
@[simp] theorem Device.setReg_rr (d : Device) (r : Reg) (w : Word) : (d.setReg r w).rr = d.rr := by unfold Device.setReg; split <;> rfl
@[simp] theorem Device.setReg_left (d : Device) (r : Reg) (w : Word) : (d.setReg r w).left = d.left := by unfold Device.setReg; split <;> rfl
@[simp] theorem Device.setReg_readyStamp (d : Device) (r : Reg) (w : Word) : (d.setReg r w).readyStamp = d.readyStamp := by unfold Device.setReg; split <;> rfl
@[simp] theorem Device.setReg_pmemHeld (d : Device) (r : Reg) (w : Word) : (d.setReg r w).pmemHeld = d.pmemHeld := by unfold Device.setReg; split <;> rfl
@[simp] theorem Device.setReg_ptmOn (d : Device) (r : Reg) (w : Word) : (d.setReg r w).ptmOn = d.ptmOn := by unfold Device.setReg; split <;> rfl
@[simp] theorem Device.setReg_link (d : Device) (r : Reg) (w : Word) : (d.setReg r w).link = d.link := by unfold Device.setReg; split <;> rfl
@[simp] theorem Device.setReg_unmasked (d : Device) (r : Reg) (w : Word) : (d.setReg r w).unmasked = d.unmasked := by unfold Device.setReg; split <;> rfl
@[simp] theorem Device.setReg_msixPending (d : Device) (r : Reg) (w : Word) : (d.setReg r w).msixPending = d.msixPending := by unfold Device.setReg; split <;> rfl
@[simp] theorem Device.setReg_contribStalled (d : Device) (r : Reg) (w : Word) : (d.setReg r w).contribStalled = d.contribStalled := by unfold Device.setReg; split <;> rfl
@[simp] theorem Device.setReg_waiterEpisode (d : Device) (r : Reg) (w : Word) : (d.setReg r w).waiterEpisode = d.waiterEpisode := by unfold Device.setReg; split <;> rfl
@[simp] theorem Device.setReg_vfs (d : Device) (r : Reg) (w : Word) : (d.setReg r w).vfs = d.vfs := by unfold Device.setReg; split <;> rfl
@[simp] theorem Device.setReg_d3 (d : Device) (r : Reg) (w : Word) : (d.setReg r w).d3 = d.d3 := by unfold Device.setReg; split <;> rfl
@[simp] theorem Device.setReg_ptm (d : Device) (r : Reg) (w : Word) : (d.setReg r w).ptm = d.ptm := by unfold Device.setReg; split <;> rfl
@[simp] theorem Device.setReg_power (d : Device) (r : Reg) (w : Word) : (d.setReg r w).power = d.power := by unfold Device.setReg; split <;> rfl
@[simp] theorem Device.setReg_parts (d : Device) (r : Reg) (w : Word) : (d.setReg r w).parts = d.parts := by unfold Device.setReg; split <;> rfl
@[simp] theorem Device.setReg_flowDone (d : Device) (r : Reg) (w : Word) : (d.setReg r w).flowDone = d.flowDone := by unfold Device.setReg; split <;> rfl
@[simp] theorem Device.setReg_directory (d : Device) (r : Reg) (w : Word) : (d.setReg r w).directory = d.directory := by unfold Device.setReg; split <;> rfl
@[simp] theorem Device.setReg_enable (d : Device) (r : Reg) (w : Word) : (d.setReg r w).enable = d.enable := by unfold Device.setReg; split <;> rfl
@[simp] theorem Device.setReg_enabled (d : Device) (r : Reg) (w : Word) : (d.setReg r w).enabled = d.enabled := by unfold Device.setReg; split <;> rfl
@[simp] theorem Device.setReg_time (d : Device) (r : Reg) (w : Word) : (d.setReg r w).time = d.time := by unfold Device.setReg; split <;> rfl
@[simp] theorem Device.setReg_levelOut (d : Device) (r : Reg) (w : Word) : (d.setReg r w).levelOut = d.levelOut := by unfold Device.setReg; split <;> rfl
@[simp] theorem Device.setReg_ports (d : Device) (r : Reg) (w : Word) : (d.setReg r w).ports = d.ports := by unfold Device.setReg; split <;> rfl
@[simp] theorem Device.setReg_txWait (d : Device) (r : Reg) (w : Word) : (d.setReg r w).txWait = d.txWait := by unfold Device.setReg; split <;> rfl
@[simp] theorem Device.setReg_reqs (d : Device) (r : Reg) (w : Word) : (d.setReg r w).reqs = d.reqs := by unfold Device.setReg; split <;> rfl
@[simp] theorem Device.setReg_nextReq (d : Device) (r : Reg) (w : Word) : (d.setReg r w).nextReq = d.nextReq := by unfold Device.setReg; split <;> rfl
@[simp] theorem Device.setReg_outFlows (d : Device) (r : Reg) (w : Word) : (d.setReg r w).outFlows = d.outFlows := by unfold Device.setReg; split <;> rfl
@[simp] theorem Device.setReg_landing (d : Device) (r : Reg) (w : Word) : (d.setReg r w).landing = d.landing := by unfold Device.setReg; split <;> rfl
@[simp] theorem Device.setReg_heldReads (d : Device) (r : Reg) (w : Word) : (d.setReg r w).heldReads = d.heldReads := by unfold Device.setReg; split <;> rfl
@[simp] theorem Device.setReg_groups (d : Device) (r : Reg) (w : Word) : (d.setReg r w).groups = d.groups := by unfold Device.setReg; split <;> rfl
@[simp] theorem Device.setReg_collData (d : Device) (r : Reg) (w : Word) : (d.setReg r w).collData = d.collData := by unfold Device.setReg; split <;> rfl
@[simp] theorem Device.setReg_heldSignals (d : Device) (r : Reg) (w : Word) : (d.setReg r w).heldSignals = d.heldSignals := by unfold Device.setReg; split <;> rfl
@[simp] theorem Device.setReg_resets (d : Device) (r : Reg) (w : Word) : (d.setReg r w).resets = d.resets := by unfold Device.setReg; split <;> rfl
@[simp] theorem Device.setReg_groupsKept (d : Device) (r : Reg) (w : Word) : (d.setReg r w).groupsKept = d.groupsKept := by unfold Device.setReg; split <;> rfl
@[simp] theorem Device.setReg_groupsDropped (d : Device) (r : Reg) (w : Word) : (d.setReg r w).groupsDropped = d.groupsDropped := by unfold Device.setReg; split <;> rfl
@[simp] theorem Device.setReg_saves (d : Device) (r : Reg) (w : Word) : (d.setReg r w).saves = d.saves := by unfold Device.setReg; split <;> rfl
@[simp] theorem Device.setReg_saving (d : Device) (r : Reg) (w : Word) : (d.setReg r w).saving = d.saving := by unfold Device.setReg; split <;> rfl
@[simp] theorem Device.setReg_mgmt (d : Device) (r : Reg) (w : Word) : (d.setReg r w).mgmt = d.mgmt := by unfold Device.setReg; split <;> rfl
@[simp] theorem Device.setReg_out (d : Device) (r : Reg) (w : Word) : (d.setReg r w).out = d.out := by unfold Device.setReg; split <;> rfl
@[simp] theorem Device.setReg_free (d : Device) (r : Reg) (w : Word) : (d.setReg r w).free = d.free := by unfold Device.setReg; split <;> rfl

@[simp] theorem Device.setFld_pins (d : Device) (r : Reg) (f : RegField) (v : Nat) : (d.setFld r f v).pins = d.pins := Device.setReg_pins d r _
@[simp] theorem Device.setFld_flash (d : Device) (r : Reg) (f : RegField) (v : Nat) : (d.setFld r f v).flash = d.flash := Device.setReg_flash d r _
@[simp] theorem Device.setFld_boot (d : Device) (r : Reg) (f : RegField) (v : Nat) : (d.setFld r f v).boot = d.boot := Device.setReg_boot d r _
@[simp] theorem Device.setFld_now (d : Device) (r : Reg) (f : RegField) (v : Nat) : (d.setFld r f v).now = d.now := Device.setReg_now d r _
@[simp] theorem Device.setFld_hostMem (d : Device) (r : Reg) (f : RegField) (v : Nat) : (d.setFld r f v).hostMem = d.hostMem := Device.setReg_hostMem d r _
@[simp] theorem Device.setFld_mem (d : Device) (r : Reg) (f : RegField) (v : Nat) : (d.setFld r f v).mem = d.mem := Device.setReg_mem d r _
@[simp] theorem Device.setFld_side (d : Device) (r : Reg) (f : RegField) (v : Nat) : (d.setFld r f v).side = d.side := Device.setReg_side d r _
@[simp] theorem Device.setFld_far (d : Device) (r : Reg) (f : RegField) (v : Nat) : (d.setFld r f v).far = d.far := Device.setReg_far d r _
@[simp] theorem Device.setFld_farSide (d : Device) (r : Reg) (f : RegField) (v : Nat) : (d.setFld r f v).farSide = d.farSide := Device.setReg_farSide d r _
@[simp] theorem Device.setFld_hostBad (d : Device) (r : Reg) (f : RegField) (v : Nat) : (d.setFld r f v).hostBad = d.hostBad := Device.setReg_hostBad d r _
@[simp] theorem Device.setFld_badReads (d : Device) (r : Reg) (f : RegField) (v : Nat) : (d.setFld r f v).badReads = d.badReads := Device.setReg_badReads d r _
@[simp] theorem Device.setFld_remoteBad (d : Device) (r : Reg) (f : RegField) (v : Nat) : (d.setFld r f v).remoteBad = d.remoteBad := Device.setReg_remoteBad d r _
@[simp] theorem Device.setFld_tlb (d : Device) (r : Reg) (f : RegField) (v : Nat) : (d.setFld r f v).tlb = d.tlb := Device.setReg_tlb d r _
@[simp] theorem Device.setFld_handles (d : Device) (r : Reg) (f : RegField) (v : Nat) : (d.setFld r f v).handles = d.handles := Device.setReg_handles d r _
@[simp] theorem Device.setFld_streams (d : Device) (r : Reg) (f : RegField) (v : Nat) : (d.setFld r f v).streams = d.streams := Device.setReg_streams d r _
@[simp] theorem Device.setFld_injectors (d : Device) (r : Reg) (f : RegField) (v : Nat) : (d.setFld r f v).injectors = d.injectors := Device.setReg_injectors d r _
@[simp] theorem Device.setFld_errs (d : Device) (r : Reg) (f : RegField) (v : Nat) : (d.setFld r f v).errs = d.errs := Device.setReg_errs d r _
@[simp] theorem Device.setFld_hist (d : Device) (r : Reg) (f : RegField) (v : Nat) : (d.setFld r f v).hist = d.hist := Device.setReg_hist d r _
@[simp] theorem Device.setFld_events (d : Device) (r : Reg) (f : RegField) (v : Nat) : (d.setFld r f v).events = d.events := Device.setReg_events d r _
@[simp] theorem Device.setFld_sqs (d : Device) (r : Reg) (f : RegField) (v : Nat) : (d.setFld r f v).sqs = d.sqs := Device.setReg_sqs d r _
@[simp] theorem Device.setFld_cqs (d : Device) (r : Reg) (f : RegField) (v : Nat) : (d.setFld r f v).cqs = d.cqs := Device.setReg_cqs d r _
@[simp] theorem Device.setFld_queues (d : Device) (r : Reg) (f : RegField) (v : Nat) : (d.setFld r f v).queues = d.queues := Device.setReg_queues d r _
@[simp] theorem Device.setFld_objs (d : Device) (r : Reg) (f : RegField) (v : Nat) : (d.setFld r f v).objs = d.objs := Device.setReg_objs d r _
@[simp] theorem Device.setFld_flows (d : Device) (r : Reg) (f : RegField) (v : Nat) : (d.setFld r f v).flows = d.flows := Device.setReg_flows d r _
@[simp] theorem Device.setFld_layout (d : Device) (r : Reg) (f : RegField) (v : Nat) : (d.setFld r f v).layout = d.layout := Device.setReg_layout d r _
@[simp] theorem Device.setFld_cores (d : Device) (r : Reg) (f : RegField) (v : Nat) : (d.setFld r f v).cores = d.cores := Device.setReg_cores d r _
@[simp] theorem Device.setFld_readyLists (d : Device) (r : Reg) (f : RegField) (v : Nat) : (d.setFld r f v).readyLists = d.readyLists := Device.setReg_readyLists d r _
@[simp] theorem Device.setFld_rr (d : Device) (r : Reg) (f : RegField) (v : Nat) : (d.setFld r f v).rr = d.rr := Device.setReg_rr d r _
@[simp] theorem Device.setFld_left (d : Device) (r : Reg) (f : RegField) (v : Nat) : (d.setFld r f v).left = d.left := Device.setReg_left d r _
@[simp] theorem Device.setFld_readyStamp (d : Device) (r : Reg) (f : RegField) (v : Nat) : (d.setFld r f v).readyStamp = d.readyStamp := Device.setReg_readyStamp d r _
@[simp] theorem Device.setFld_pmemHeld (d : Device) (r : Reg) (f : RegField) (v : Nat) : (d.setFld r f v).pmemHeld = d.pmemHeld := Device.setReg_pmemHeld d r _
@[simp] theorem Device.setFld_ptmOn (d : Device) (r : Reg) (f : RegField) (v : Nat) : (d.setFld r f v).ptmOn = d.ptmOn := Device.setReg_ptmOn d r _
@[simp] theorem Device.setFld_link (d : Device) (r : Reg) (f : RegField) (v : Nat) : (d.setFld r f v).link = d.link := Device.setReg_link d r _
@[simp] theorem Device.setFld_unmasked (d : Device) (r : Reg) (f : RegField) (v : Nat) : (d.setFld r f v).unmasked = d.unmasked := Device.setReg_unmasked d r _
@[simp] theorem Device.setFld_msixPending (d : Device) (r : Reg) (f : RegField) (v : Nat) : (d.setFld r f v).msixPending = d.msixPending := Device.setReg_msixPending d r _
@[simp] theorem Device.setFld_contribStalled (d : Device) (r : Reg) (f : RegField) (v : Nat) : (d.setFld r f v).contribStalled = d.contribStalled := Device.setReg_contribStalled d r _
@[simp] theorem Device.setFld_waiterEpisode (d : Device) (r : Reg) (f : RegField) (v : Nat) : (d.setFld r f v).waiterEpisode = d.waiterEpisode := Device.setReg_waiterEpisode d r _
@[simp] theorem Device.setFld_vfs (d : Device) (r : Reg) (f : RegField) (v : Nat) : (d.setFld r f v).vfs = d.vfs := Device.setReg_vfs d r _
@[simp] theorem Device.setFld_d3 (d : Device) (r : Reg) (f : RegField) (v : Nat) : (d.setFld r f v).d3 = d.d3 := Device.setReg_d3 d r _
@[simp] theorem Device.setFld_ptm (d : Device) (r : Reg) (f : RegField) (v : Nat) : (d.setFld r f v).ptm = d.ptm := Device.setReg_ptm d r _
@[simp] theorem Device.setFld_power (d : Device) (r : Reg) (f : RegField) (v : Nat) : (d.setFld r f v).power = d.power := Device.setReg_power d r _
@[simp] theorem Device.setFld_parts (d : Device) (r : Reg) (f : RegField) (v : Nat) : (d.setFld r f v).parts = d.parts := Device.setReg_parts d r _
@[simp] theorem Device.setFld_flowDone (d : Device) (r : Reg) (f : RegField) (v : Nat) : (d.setFld r f v).flowDone = d.flowDone := Device.setReg_flowDone d r _
@[simp] theorem Device.setFld_directory (d : Device) (r : Reg) (f : RegField) (v : Nat) : (d.setFld r f v).directory = d.directory := Device.setReg_directory d r _
@[simp] theorem Device.setFld_enable (d : Device) (r : Reg) (f : RegField) (v : Nat) : (d.setFld r f v).enable = d.enable := Device.setReg_enable d r _
@[simp] theorem Device.setFld_enabled (d : Device) (r : Reg) (f : RegField) (v : Nat) : (d.setFld r f v).enabled = d.enabled := Device.setReg_enabled d r _
@[simp] theorem Device.setFld_time (d : Device) (r : Reg) (f : RegField) (v : Nat) : (d.setFld r f v).time = d.time := Device.setReg_time d r _
@[simp] theorem Device.setFld_levelOut (d : Device) (r : Reg) (f : RegField) (v : Nat) : (d.setFld r f v).levelOut = d.levelOut := Device.setReg_levelOut d r _
@[simp] theorem Device.setFld_ports (d : Device) (r : Reg) (f : RegField) (v : Nat) : (d.setFld r f v).ports = d.ports := Device.setReg_ports d r _
@[simp] theorem Device.setFld_txWait (d : Device) (r : Reg) (f : RegField) (v : Nat) : (d.setFld r f v).txWait = d.txWait := Device.setReg_txWait d r _
@[simp] theorem Device.setFld_reqs (d : Device) (r : Reg) (f : RegField) (v : Nat) : (d.setFld r f v).reqs = d.reqs := Device.setReg_reqs d r _
@[simp] theorem Device.setFld_nextReq (d : Device) (r : Reg) (f : RegField) (v : Nat) : (d.setFld r f v).nextReq = d.nextReq := Device.setReg_nextReq d r _
@[simp] theorem Device.setFld_outFlows (d : Device) (r : Reg) (f : RegField) (v : Nat) : (d.setFld r f v).outFlows = d.outFlows := Device.setReg_outFlows d r _
@[simp] theorem Device.setFld_landing (d : Device) (r : Reg) (f : RegField) (v : Nat) : (d.setFld r f v).landing = d.landing := Device.setReg_landing d r _
@[simp] theorem Device.setFld_heldReads (d : Device) (r : Reg) (f : RegField) (v : Nat) : (d.setFld r f v).heldReads = d.heldReads := Device.setReg_heldReads d r _
@[simp] theorem Device.setFld_groups (d : Device) (r : Reg) (f : RegField) (v : Nat) : (d.setFld r f v).groups = d.groups := Device.setReg_groups d r _
@[simp] theorem Device.setFld_collData (d : Device) (r : Reg) (f : RegField) (v : Nat) : (d.setFld r f v).collData = d.collData := Device.setReg_collData d r _
@[simp] theorem Device.setFld_heldSignals (d : Device) (r : Reg) (f : RegField) (v : Nat) : (d.setFld r f v).heldSignals = d.heldSignals := Device.setReg_heldSignals d r _
@[simp] theorem Device.setFld_resets (d : Device) (r : Reg) (f : RegField) (v : Nat) : (d.setFld r f v).resets = d.resets := Device.setReg_resets d r _
@[simp] theorem Device.setFld_groupsKept (d : Device) (r : Reg) (f : RegField) (v : Nat) : (d.setFld r f v).groupsKept = d.groupsKept := Device.setReg_groupsKept d r _
@[simp] theorem Device.setFld_groupsDropped (d : Device) (r : Reg) (f : RegField) (v : Nat) : (d.setFld r f v).groupsDropped = d.groupsDropped := Device.setReg_groupsDropped d r _
@[simp] theorem Device.setFld_saves (d : Device) (r : Reg) (f : RegField) (v : Nat) : (d.setFld r f v).saves = d.saves := Device.setReg_saves d r _
@[simp] theorem Device.setFld_saving (d : Device) (r : Reg) (f : RegField) (v : Nat) : (d.setFld r f v).saving = d.saving := Device.setReg_saving d r _
@[simp] theorem Device.setFld_mgmt (d : Device) (r : Reg) (f : RegField) (v : Nat) : (d.setFld r f v).mgmt = d.mgmt := Device.setReg_mgmt d r _
@[simp] theorem Device.setFld_out (d : Device) (r : Reg) (f : RegField) (v : Nat) : (d.setFld r f v).out = d.out := Device.setReg_out d r _
@[simp] theorem Device.setFld_free (d : Device) (r : Reg) (f : RegField) (v : Nat) : (d.setFld r f v).free = d.free := Device.setReg_free d r _

@[simp] theorem Device.bump_pins (d : Device) (r : Reg) (f : RegField) (n : Nat) : (d.bump r f n).pins = d.pins := Device.setReg_pins d r _
@[simp] theorem Device.bump_flash (d : Device) (r : Reg) (f : RegField) (n : Nat) : (d.bump r f n).flash = d.flash := Device.setReg_flash d r _
@[simp] theorem Device.bump_boot (d : Device) (r : Reg) (f : RegField) (n : Nat) : (d.bump r f n).boot = d.boot := Device.setReg_boot d r _
@[simp] theorem Device.bump_now (d : Device) (r : Reg) (f : RegField) (n : Nat) : (d.bump r f n).now = d.now := Device.setReg_now d r _
@[simp] theorem Device.bump_hostMem (d : Device) (r : Reg) (f : RegField) (n : Nat) : (d.bump r f n).hostMem = d.hostMem := Device.setReg_hostMem d r _
@[simp] theorem Device.bump_mem (d : Device) (r : Reg) (f : RegField) (n : Nat) : (d.bump r f n).mem = d.mem := Device.setReg_mem d r _
@[simp] theorem Device.bump_side (d : Device) (r : Reg) (f : RegField) (n : Nat) : (d.bump r f n).side = d.side := Device.setReg_side d r _
@[simp] theorem Device.bump_far (d : Device) (r : Reg) (f : RegField) (n : Nat) : (d.bump r f n).far = d.far := Device.setReg_far d r _
@[simp] theorem Device.bump_farSide (d : Device) (r : Reg) (f : RegField) (n : Nat) : (d.bump r f n).farSide = d.farSide := Device.setReg_farSide d r _
@[simp] theorem Device.bump_hostBad (d : Device) (r : Reg) (f : RegField) (n : Nat) : (d.bump r f n).hostBad = d.hostBad := Device.setReg_hostBad d r _
@[simp] theorem Device.bump_badReads (d : Device) (r : Reg) (f : RegField) (n : Nat) : (d.bump r f n).badReads = d.badReads := Device.setReg_badReads d r _
@[simp] theorem Device.bump_remoteBad (d : Device) (r : Reg) (f : RegField) (n : Nat) : (d.bump r f n).remoteBad = d.remoteBad := Device.setReg_remoteBad d r _
@[simp] theorem Device.bump_tlb (d : Device) (r : Reg) (f : RegField) (n : Nat) : (d.bump r f n).tlb = d.tlb := Device.setReg_tlb d r _
@[simp] theorem Device.bump_handles (d : Device) (r : Reg) (f : RegField) (n : Nat) : (d.bump r f n).handles = d.handles := Device.setReg_handles d r _
@[simp] theorem Device.bump_streams (d : Device) (r : Reg) (f : RegField) (n : Nat) : (d.bump r f n).streams = d.streams := Device.setReg_streams d r _
@[simp] theorem Device.bump_injectors (d : Device) (r : Reg) (f : RegField) (n : Nat) : (d.bump r f n).injectors = d.injectors := Device.setReg_injectors d r _
@[simp] theorem Device.bump_errs (d : Device) (r : Reg) (f : RegField) (n : Nat) : (d.bump r f n).errs = d.errs := Device.setReg_errs d r _
@[simp] theorem Device.bump_hist (d : Device) (r : Reg) (f : RegField) (n : Nat) : (d.bump r f n).hist = d.hist := Device.setReg_hist d r _
@[simp] theorem Device.bump_events (d : Device) (r : Reg) (f : RegField) (n : Nat) : (d.bump r f n).events = d.events := Device.setReg_events d r _
@[simp] theorem Device.bump_sqs (d : Device) (r : Reg) (f : RegField) (n : Nat) : (d.bump r f n).sqs = d.sqs := Device.setReg_sqs d r _
@[simp] theorem Device.bump_cqs (d : Device) (r : Reg) (f : RegField) (n : Nat) : (d.bump r f n).cqs = d.cqs := Device.setReg_cqs d r _
@[simp] theorem Device.bump_queues (d : Device) (r : Reg) (f : RegField) (n : Nat) : (d.bump r f n).queues = d.queues := Device.setReg_queues d r _
@[simp] theorem Device.bump_objs (d : Device) (r : Reg) (f : RegField) (n : Nat) : (d.bump r f n).objs = d.objs := Device.setReg_objs d r _
@[simp] theorem Device.bump_flows (d : Device) (r : Reg) (f : RegField) (n : Nat) : (d.bump r f n).flows = d.flows := Device.setReg_flows d r _
@[simp] theorem Device.bump_layout (d : Device) (r : Reg) (f : RegField) (n : Nat) : (d.bump r f n).layout = d.layout := Device.setReg_layout d r _
@[simp] theorem Device.bump_cores (d : Device) (r : Reg) (f : RegField) (n : Nat) : (d.bump r f n).cores = d.cores := Device.setReg_cores d r _
@[simp] theorem Device.bump_readyLists (d : Device) (r : Reg) (f : RegField) (n : Nat) : (d.bump r f n).readyLists = d.readyLists := Device.setReg_readyLists d r _
@[simp] theorem Device.bump_rr (d : Device) (r : Reg) (f : RegField) (n : Nat) : (d.bump r f n).rr = d.rr := Device.setReg_rr d r _
@[simp] theorem Device.bump_left (d : Device) (r : Reg) (f : RegField) (n : Nat) : (d.bump r f n).left = d.left := Device.setReg_left d r _
@[simp] theorem Device.bump_readyStamp (d : Device) (r : Reg) (f : RegField) (n : Nat) : (d.bump r f n).readyStamp = d.readyStamp := Device.setReg_readyStamp d r _
@[simp] theorem Device.bump_pmemHeld (d : Device) (r : Reg) (f : RegField) (n : Nat) : (d.bump r f n).pmemHeld = d.pmemHeld := Device.setReg_pmemHeld d r _
@[simp] theorem Device.bump_ptmOn (d : Device) (r : Reg) (f : RegField) (n : Nat) : (d.bump r f n).ptmOn = d.ptmOn := Device.setReg_ptmOn d r _
@[simp] theorem Device.bump_link (d : Device) (r : Reg) (f : RegField) (n : Nat) : (d.bump r f n).link = d.link := Device.setReg_link d r _
@[simp] theorem Device.bump_unmasked (d : Device) (r : Reg) (f : RegField) (n : Nat) : (d.bump r f n).unmasked = d.unmasked := Device.setReg_unmasked d r _
@[simp] theorem Device.bump_msixPending (d : Device) (r : Reg) (f : RegField) (n : Nat) : (d.bump r f n).msixPending = d.msixPending := Device.setReg_msixPending d r _
@[simp] theorem Device.bump_contribStalled (d : Device) (r : Reg) (f : RegField) (n : Nat) : (d.bump r f n).contribStalled = d.contribStalled := Device.setReg_contribStalled d r _
@[simp] theorem Device.bump_waiterEpisode (d : Device) (r : Reg) (f : RegField) (n : Nat) : (d.bump r f n).waiterEpisode = d.waiterEpisode := Device.setReg_waiterEpisode d r _
@[simp] theorem Device.bump_vfs (d : Device) (r : Reg) (f : RegField) (n : Nat) : (d.bump r f n).vfs = d.vfs := Device.setReg_vfs d r _
@[simp] theorem Device.bump_d3 (d : Device) (r : Reg) (f : RegField) (n : Nat) : (d.bump r f n).d3 = d.d3 := Device.setReg_d3 d r _
@[simp] theorem Device.bump_ptm (d : Device) (r : Reg) (f : RegField) (n : Nat) : (d.bump r f n).ptm = d.ptm := Device.setReg_ptm d r _
@[simp] theorem Device.bump_power (d : Device) (r : Reg) (f : RegField) (n : Nat) : (d.bump r f n).power = d.power := Device.setReg_power d r _
@[simp] theorem Device.bump_parts (d : Device) (r : Reg) (f : RegField) (n : Nat) : (d.bump r f n).parts = d.parts := Device.setReg_parts d r _
@[simp] theorem Device.bump_flowDone (d : Device) (r : Reg) (f : RegField) (n : Nat) : (d.bump r f n).flowDone = d.flowDone := Device.setReg_flowDone d r _
@[simp] theorem Device.bump_directory (d : Device) (r : Reg) (f : RegField) (n : Nat) : (d.bump r f n).directory = d.directory := Device.setReg_directory d r _
@[simp] theorem Device.bump_enable (d : Device) (r : Reg) (f : RegField) (n : Nat) : (d.bump r f n).enable = d.enable := Device.setReg_enable d r _
@[simp] theorem Device.bump_enabled (d : Device) (r : Reg) (f : RegField) (n : Nat) : (d.bump r f n).enabled = d.enabled := Device.setReg_enabled d r _
@[simp] theorem Device.bump_time (d : Device) (r : Reg) (f : RegField) (n : Nat) : (d.bump r f n).time = d.time := Device.setReg_time d r _
@[simp] theorem Device.bump_levelOut (d : Device) (r : Reg) (f : RegField) (n : Nat) : (d.bump r f n).levelOut = d.levelOut := Device.setReg_levelOut d r _
@[simp] theorem Device.bump_ports (d : Device) (r : Reg) (f : RegField) (n : Nat) : (d.bump r f n).ports = d.ports := Device.setReg_ports d r _
@[simp] theorem Device.bump_txWait (d : Device) (r : Reg) (f : RegField) (n : Nat) : (d.bump r f n).txWait = d.txWait := Device.setReg_txWait d r _
@[simp] theorem Device.bump_reqs (d : Device) (r : Reg) (f : RegField) (n : Nat) : (d.bump r f n).reqs = d.reqs := Device.setReg_reqs d r _
@[simp] theorem Device.bump_nextReq (d : Device) (r : Reg) (f : RegField) (n : Nat) : (d.bump r f n).nextReq = d.nextReq := Device.setReg_nextReq d r _
@[simp] theorem Device.bump_outFlows (d : Device) (r : Reg) (f : RegField) (n : Nat) : (d.bump r f n).outFlows = d.outFlows := Device.setReg_outFlows d r _
@[simp] theorem Device.bump_landing (d : Device) (r : Reg) (f : RegField) (n : Nat) : (d.bump r f n).landing = d.landing := Device.setReg_landing d r _
@[simp] theorem Device.bump_heldReads (d : Device) (r : Reg) (f : RegField) (n : Nat) : (d.bump r f n).heldReads = d.heldReads := Device.setReg_heldReads d r _
@[simp] theorem Device.bump_groups (d : Device) (r : Reg) (f : RegField) (n : Nat) : (d.bump r f n).groups = d.groups := Device.setReg_groups d r _
@[simp] theorem Device.bump_collData (d : Device) (r : Reg) (f : RegField) (n : Nat) : (d.bump r f n).collData = d.collData := Device.setReg_collData d r _
@[simp] theorem Device.bump_heldSignals (d : Device) (r : Reg) (f : RegField) (n : Nat) : (d.bump r f n).heldSignals = d.heldSignals := Device.setReg_heldSignals d r _
@[simp] theorem Device.bump_resets (d : Device) (r : Reg) (f : RegField) (n : Nat) : (d.bump r f n).resets = d.resets := Device.setReg_resets d r _
@[simp] theorem Device.bump_groupsKept (d : Device) (r : Reg) (f : RegField) (n : Nat) : (d.bump r f n).groupsKept = d.groupsKept := Device.setReg_groupsKept d r _
@[simp] theorem Device.bump_groupsDropped (d : Device) (r : Reg) (f : RegField) (n : Nat) : (d.bump r f n).groupsDropped = d.groupsDropped := Device.setReg_groupsDropped d r _
@[simp] theorem Device.bump_saves (d : Device) (r : Reg) (f : RegField) (n : Nat) : (d.bump r f n).saves = d.saves := Device.setReg_saves d r _
@[simp] theorem Device.bump_saving (d : Device) (r : Reg) (f : RegField) (n : Nat) : (d.bump r f n).saving = d.saving := Device.setReg_saving d r _
@[simp] theorem Device.bump_mgmt (d : Device) (r : Reg) (f : RegField) (n : Nat) : (d.bump r f n).mgmt = d.mgmt := Device.setReg_mgmt d r _
@[simp] theorem Device.bump_out (d : Device) (r : Reg) (f : RegField) (n : Nat) : (d.bump r f n).out = d.out := Device.setReg_out d r _
@[simp] theorem Device.bump_free (d : Device) (r : Reg) (f : RegField) (n : Nat) : (d.bump r f n).free = d.free := Device.setReg_free d r _

@[simp] theorem Device.resetReg_pins (d : Device) (r : Reg) : (d.resetReg r).pins = d.pins := Device.setReg_pins d r _
@[simp] theorem Device.resetReg_flash (d : Device) (r : Reg) : (d.resetReg r).flash = d.flash := Device.setReg_flash d r _
@[simp] theorem Device.resetReg_boot (d : Device) (r : Reg) : (d.resetReg r).boot = d.boot := Device.setReg_boot d r _
@[simp] theorem Device.resetReg_now (d : Device) (r : Reg) : (d.resetReg r).now = d.now := Device.setReg_now d r _
@[simp] theorem Device.resetReg_hostMem (d : Device) (r : Reg) : (d.resetReg r).hostMem = d.hostMem := Device.setReg_hostMem d r _
@[simp] theorem Device.resetReg_mem (d : Device) (r : Reg) : (d.resetReg r).mem = d.mem := Device.setReg_mem d r _
@[simp] theorem Device.resetReg_side (d : Device) (r : Reg) : (d.resetReg r).side = d.side := Device.setReg_side d r _
@[simp] theorem Device.resetReg_far (d : Device) (r : Reg) : (d.resetReg r).far = d.far := Device.setReg_far d r _
@[simp] theorem Device.resetReg_farSide (d : Device) (r : Reg) : (d.resetReg r).farSide = d.farSide := Device.setReg_farSide d r _
@[simp] theorem Device.resetReg_hostBad (d : Device) (r : Reg) : (d.resetReg r).hostBad = d.hostBad := Device.setReg_hostBad d r _
@[simp] theorem Device.resetReg_badReads (d : Device) (r : Reg) : (d.resetReg r).badReads = d.badReads := Device.setReg_badReads d r _
@[simp] theorem Device.resetReg_remoteBad (d : Device) (r : Reg) : (d.resetReg r).remoteBad = d.remoteBad := Device.setReg_remoteBad d r _
@[simp] theorem Device.resetReg_tlb (d : Device) (r : Reg) : (d.resetReg r).tlb = d.tlb := Device.setReg_tlb d r _
@[simp] theorem Device.resetReg_handles (d : Device) (r : Reg) : (d.resetReg r).handles = d.handles := Device.setReg_handles d r _
@[simp] theorem Device.resetReg_streams (d : Device) (r : Reg) : (d.resetReg r).streams = d.streams := Device.setReg_streams d r _
@[simp] theorem Device.resetReg_injectors (d : Device) (r : Reg) : (d.resetReg r).injectors = d.injectors := Device.setReg_injectors d r _
@[simp] theorem Device.resetReg_errs (d : Device) (r : Reg) : (d.resetReg r).errs = d.errs := Device.setReg_errs d r _
@[simp] theorem Device.resetReg_hist (d : Device) (r : Reg) : (d.resetReg r).hist = d.hist := Device.setReg_hist d r _
@[simp] theorem Device.resetReg_events (d : Device) (r : Reg) : (d.resetReg r).events = d.events := Device.setReg_events d r _
@[simp] theorem Device.resetReg_sqs (d : Device) (r : Reg) : (d.resetReg r).sqs = d.sqs := Device.setReg_sqs d r _
@[simp] theorem Device.resetReg_cqs (d : Device) (r : Reg) : (d.resetReg r).cqs = d.cqs := Device.setReg_cqs d r _
@[simp] theorem Device.resetReg_queues (d : Device) (r : Reg) : (d.resetReg r).queues = d.queues := Device.setReg_queues d r _
@[simp] theorem Device.resetReg_objs (d : Device) (r : Reg) : (d.resetReg r).objs = d.objs := Device.setReg_objs d r _
@[simp] theorem Device.resetReg_flows (d : Device) (r : Reg) : (d.resetReg r).flows = d.flows := Device.setReg_flows d r _
@[simp] theorem Device.resetReg_layout (d : Device) (r : Reg) : (d.resetReg r).layout = d.layout := Device.setReg_layout d r _
@[simp] theorem Device.resetReg_cores (d : Device) (r : Reg) : (d.resetReg r).cores = d.cores := Device.setReg_cores d r _
@[simp] theorem Device.resetReg_readyLists (d : Device) (r : Reg) : (d.resetReg r).readyLists = d.readyLists := Device.setReg_readyLists d r _
@[simp] theorem Device.resetReg_rr (d : Device) (r : Reg) : (d.resetReg r).rr = d.rr := Device.setReg_rr d r _
@[simp] theorem Device.resetReg_left (d : Device) (r : Reg) : (d.resetReg r).left = d.left := Device.setReg_left d r _
@[simp] theorem Device.resetReg_readyStamp (d : Device) (r : Reg) : (d.resetReg r).readyStamp = d.readyStamp := Device.setReg_readyStamp d r _
@[simp] theorem Device.resetReg_pmemHeld (d : Device) (r : Reg) : (d.resetReg r).pmemHeld = d.pmemHeld := Device.setReg_pmemHeld d r _
@[simp] theorem Device.resetReg_ptmOn (d : Device) (r : Reg) : (d.resetReg r).ptmOn = d.ptmOn := Device.setReg_ptmOn d r _
@[simp] theorem Device.resetReg_link (d : Device) (r : Reg) : (d.resetReg r).link = d.link := Device.setReg_link d r _
@[simp] theorem Device.resetReg_unmasked (d : Device) (r : Reg) : (d.resetReg r).unmasked = d.unmasked := Device.setReg_unmasked d r _
@[simp] theorem Device.resetReg_msixPending (d : Device) (r : Reg) : (d.resetReg r).msixPending = d.msixPending := Device.setReg_msixPending d r _
@[simp] theorem Device.resetReg_contribStalled (d : Device) (r : Reg) : (d.resetReg r).contribStalled = d.contribStalled := Device.setReg_contribStalled d r _
@[simp] theorem Device.resetReg_waiterEpisode (d : Device) (r : Reg) : (d.resetReg r).waiterEpisode = d.waiterEpisode := Device.setReg_waiterEpisode d r _
@[simp] theorem Device.resetReg_vfs (d : Device) (r : Reg) : (d.resetReg r).vfs = d.vfs := Device.setReg_vfs d r _
@[simp] theorem Device.resetReg_d3 (d : Device) (r : Reg) : (d.resetReg r).d3 = d.d3 := Device.setReg_d3 d r _
@[simp] theorem Device.resetReg_ptm (d : Device) (r : Reg) : (d.resetReg r).ptm = d.ptm := Device.setReg_ptm d r _
@[simp] theorem Device.resetReg_power (d : Device) (r : Reg) : (d.resetReg r).power = d.power := Device.setReg_power d r _
@[simp] theorem Device.resetReg_parts (d : Device) (r : Reg) : (d.resetReg r).parts = d.parts := Device.setReg_parts d r _
@[simp] theorem Device.resetReg_flowDone (d : Device) (r : Reg) : (d.resetReg r).flowDone = d.flowDone := Device.setReg_flowDone d r _
@[simp] theorem Device.resetReg_directory (d : Device) (r : Reg) : (d.resetReg r).directory = d.directory := Device.setReg_directory d r _
@[simp] theorem Device.resetReg_enable (d : Device) (r : Reg) : (d.resetReg r).enable = d.enable := Device.setReg_enable d r _
@[simp] theorem Device.resetReg_enabled (d : Device) (r : Reg) : (d.resetReg r).enabled = d.enabled := Device.setReg_enabled d r _
@[simp] theorem Device.resetReg_time (d : Device) (r : Reg) : (d.resetReg r).time = d.time := Device.setReg_time d r _
@[simp] theorem Device.resetReg_levelOut (d : Device) (r : Reg) : (d.resetReg r).levelOut = d.levelOut := Device.setReg_levelOut d r _
@[simp] theorem Device.resetReg_ports (d : Device) (r : Reg) : (d.resetReg r).ports = d.ports := Device.setReg_ports d r _
@[simp] theorem Device.resetReg_txWait (d : Device) (r : Reg) : (d.resetReg r).txWait = d.txWait := Device.setReg_txWait d r _
@[simp] theorem Device.resetReg_reqs (d : Device) (r : Reg) : (d.resetReg r).reqs = d.reqs := Device.setReg_reqs d r _
@[simp] theorem Device.resetReg_nextReq (d : Device) (r : Reg) : (d.resetReg r).nextReq = d.nextReq := Device.setReg_nextReq d r _
@[simp] theorem Device.resetReg_outFlows (d : Device) (r : Reg) : (d.resetReg r).outFlows = d.outFlows := Device.setReg_outFlows d r _
@[simp] theorem Device.resetReg_landing (d : Device) (r : Reg) : (d.resetReg r).landing = d.landing := Device.setReg_landing d r _
@[simp] theorem Device.resetReg_heldReads (d : Device) (r : Reg) : (d.resetReg r).heldReads = d.heldReads := Device.setReg_heldReads d r _
@[simp] theorem Device.resetReg_groups (d : Device) (r : Reg) : (d.resetReg r).groups = d.groups := Device.setReg_groups d r _
@[simp] theorem Device.resetReg_collData (d : Device) (r : Reg) : (d.resetReg r).collData = d.collData := Device.setReg_collData d r _
@[simp] theorem Device.resetReg_heldSignals (d : Device) (r : Reg) : (d.resetReg r).heldSignals = d.heldSignals := Device.setReg_heldSignals d r _
@[simp] theorem Device.resetReg_resets (d : Device) (r : Reg) : (d.resetReg r).resets = d.resets := Device.setReg_resets d r _
@[simp] theorem Device.resetReg_groupsKept (d : Device) (r : Reg) : (d.resetReg r).groupsKept = d.groupsKept := Device.setReg_groupsKept d r _
@[simp] theorem Device.resetReg_groupsDropped (d : Device) (r : Reg) : (d.resetReg r).groupsDropped = d.groupsDropped := Device.setReg_groupsDropped d r _
@[simp] theorem Device.resetReg_saves (d : Device) (r : Reg) : (d.resetReg r).saves = d.saves := Device.setReg_saves d r _
@[simp] theorem Device.resetReg_saving (d : Device) (r : Reg) : (d.resetReg r).saving = d.saving := Device.setReg_saving d r _
@[simp] theorem Device.resetReg_mgmt (d : Device) (r : Reg) : (d.resetReg r).mgmt = d.mgmt := Device.setReg_mgmt d r _
@[simp] theorem Device.resetReg_out (d : Device) (r : Reg) : (d.resetReg r).out = d.out := Device.setReg_out d r _
@[simp] theorem Device.resetReg_free (d : Device) (r : Reg) : (d.resetReg r).free = d.free := Device.setReg_free d r _

@[simp] theorem Device.emit_regs (d : Device) (o : Out) : (d.emit o).regs = d.regs := rfl
@[simp] theorem Device.emit_pins (d : Device) (o : Out) : (d.emit o).pins = d.pins := rfl
@[simp] theorem Device.emit_flash (d : Device) (o : Out) : (d.emit o).flash = d.flash := rfl
@[simp] theorem Device.emit_boot (d : Device) (o : Out) : (d.emit o).boot = d.boot := rfl
@[simp] theorem Device.emit_now (d : Device) (o : Out) : (d.emit o).now = d.now := rfl
@[simp] theorem Device.emit_hostMem (d : Device) (o : Out) : (d.emit o).hostMem = d.hostMem := rfl
@[simp] theorem Device.emit_mem (d : Device) (o : Out) : (d.emit o).mem = d.mem := rfl
@[simp] theorem Device.emit_side (d : Device) (o : Out) : (d.emit o).side = d.side := rfl
@[simp] theorem Device.emit_far (d : Device) (o : Out) : (d.emit o).far = d.far := rfl
@[simp] theorem Device.emit_farSide (d : Device) (o : Out) : (d.emit o).farSide = d.farSide := rfl
@[simp] theorem Device.emit_hostBad (d : Device) (o : Out) : (d.emit o).hostBad = d.hostBad := rfl
@[simp] theorem Device.emit_badReads (d : Device) (o : Out) : (d.emit o).badReads = d.badReads := rfl
@[simp] theorem Device.emit_remoteBad (d : Device) (o : Out) : (d.emit o).remoteBad = d.remoteBad := rfl
@[simp] theorem Device.emit_tlb (d : Device) (o : Out) : (d.emit o).tlb = d.tlb := rfl
@[simp] theorem Device.emit_handles (d : Device) (o : Out) : (d.emit o).handles = d.handles := rfl
@[simp] theorem Device.emit_streams (d : Device) (o : Out) : (d.emit o).streams = d.streams := rfl
@[simp] theorem Device.emit_injectors (d : Device) (o : Out) : (d.emit o).injectors = d.injectors := rfl
@[simp] theorem Device.emit_errs (d : Device) (o : Out) : (d.emit o).errs = d.errs := rfl
@[simp] theorem Device.emit_hist (d : Device) (o : Out) : (d.emit o).hist = d.hist := rfl
@[simp] theorem Device.emit_events (d : Device) (o : Out) : (d.emit o).events = d.events := rfl
@[simp] theorem Device.emit_sqs (d : Device) (o : Out) : (d.emit o).sqs = d.sqs := rfl
@[simp] theorem Device.emit_cqs (d : Device) (o : Out) : (d.emit o).cqs = d.cqs := rfl
@[simp] theorem Device.emit_queues (d : Device) (o : Out) : (d.emit o).queues = d.queues := rfl
@[simp] theorem Device.emit_objs (d : Device) (o : Out) : (d.emit o).objs = d.objs := rfl
@[simp] theorem Device.emit_flows (d : Device) (o : Out) : (d.emit o).flows = d.flows := rfl
@[simp] theorem Device.emit_layout (d : Device) (o : Out) : (d.emit o).layout = d.layout := rfl
@[simp] theorem Device.emit_cores (d : Device) (o : Out) : (d.emit o).cores = d.cores := rfl
@[simp] theorem Device.emit_readyLists (d : Device) (o : Out) : (d.emit o).readyLists = d.readyLists := rfl
@[simp] theorem Device.emit_rr (d : Device) (o : Out) : (d.emit o).rr = d.rr := rfl
@[simp] theorem Device.emit_left (d : Device) (o : Out) : (d.emit o).left = d.left := rfl
@[simp] theorem Device.emit_readyStamp (d : Device) (o : Out) : (d.emit o).readyStamp = d.readyStamp := rfl
@[simp] theorem Device.emit_pmemHeld (d : Device) (o : Out) : (d.emit o).pmemHeld = d.pmemHeld := rfl
@[simp] theorem Device.emit_ptmOn (d : Device) (o : Out) : (d.emit o).ptmOn = d.ptmOn := rfl
@[simp] theorem Device.emit_link (d : Device) (o : Out) : (d.emit o).link = d.link := rfl
@[simp] theorem Device.emit_unmasked (d : Device) (o : Out) : (d.emit o).unmasked = d.unmasked := rfl
@[simp] theorem Device.emit_msixPending (d : Device) (o : Out) : (d.emit o).msixPending = d.msixPending := rfl
@[simp] theorem Device.emit_contribStalled (d : Device) (o : Out) : (d.emit o).contribStalled = d.contribStalled := rfl
@[simp] theorem Device.emit_waiterEpisode (d : Device) (o : Out) : (d.emit o).waiterEpisode = d.waiterEpisode := rfl
@[simp] theorem Device.emit_vfs (d : Device) (o : Out) : (d.emit o).vfs = d.vfs := rfl
@[simp] theorem Device.emit_d3 (d : Device) (o : Out) : (d.emit o).d3 = d.d3 := rfl
@[simp] theorem Device.emit_ptm (d : Device) (o : Out) : (d.emit o).ptm = d.ptm := rfl
@[simp] theorem Device.emit_power (d : Device) (o : Out) : (d.emit o).power = d.power := rfl
@[simp] theorem Device.emit_parts (d : Device) (o : Out) : (d.emit o).parts = d.parts := rfl
@[simp] theorem Device.emit_flowDone (d : Device) (o : Out) : (d.emit o).flowDone = d.flowDone := rfl
@[simp] theorem Device.emit_directory (d : Device) (o : Out) : (d.emit o).directory = d.directory := rfl
@[simp] theorem Device.emit_enable (d : Device) (o : Out) : (d.emit o).enable = d.enable := rfl
@[simp] theorem Device.emit_enabled (d : Device) (o : Out) : (d.emit o).enabled = d.enabled := rfl
@[simp] theorem Device.emit_time (d : Device) (o : Out) : (d.emit o).time = d.time := rfl
@[simp] theorem Device.emit_levelOut (d : Device) (o : Out) : (d.emit o).levelOut = d.levelOut := rfl
@[simp] theorem Device.emit_ports (d : Device) (o : Out) : (d.emit o).ports = d.ports := rfl
@[simp] theorem Device.emit_txWait (d : Device) (o : Out) : (d.emit o).txWait = d.txWait := rfl
@[simp] theorem Device.emit_reqs (d : Device) (o : Out) : (d.emit o).reqs = d.reqs := rfl
@[simp] theorem Device.emit_nextReq (d : Device) (o : Out) : (d.emit o).nextReq = d.nextReq := rfl
@[simp] theorem Device.emit_outFlows (d : Device) (o : Out) : (d.emit o).outFlows = d.outFlows := rfl
@[simp] theorem Device.emit_landing (d : Device) (o : Out) : (d.emit o).landing = d.landing := rfl
@[simp] theorem Device.emit_heldReads (d : Device) (o : Out) : (d.emit o).heldReads = d.heldReads := rfl
@[simp] theorem Device.emit_groups (d : Device) (o : Out) : (d.emit o).groups = d.groups := rfl
@[simp] theorem Device.emit_collData (d : Device) (o : Out) : (d.emit o).collData = d.collData := rfl
@[simp] theorem Device.emit_heldSignals (d : Device) (o : Out) : (d.emit o).heldSignals = d.heldSignals := rfl
@[simp] theorem Device.emit_resets (d : Device) (o : Out) : (d.emit o).resets = d.resets := rfl
@[simp] theorem Device.emit_groupsKept (d : Device) (o : Out) : (d.emit o).groupsKept = d.groupsKept := rfl
@[simp] theorem Device.emit_groupsDropped (d : Device) (o : Out) : (d.emit o).groupsDropped = d.groupsDropped := rfl
@[simp] theorem Device.emit_saves (d : Device) (o : Out) : (d.emit o).saves = d.saves := rfl
@[simp] theorem Device.emit_saving (d : Device) (o : Out) : (d.emit o).saving = d.saving := rfl
@[simp] theorem Device.emit_mgmt (d : Device) (o : Out) : (d.emit o).mgmt = d.mgmt := rfl
@[simp] theorem Device.emit_free (d : Device) (o : Out) : (d.emit o).free = d.free := rfl

@[simp] theorem Device.hostWrite_regs (d : Device) (a : Nat) (bs : List Byte) : (d.hostWrite a bs).regs = d.regs := rfl
@[simp] theorem Device.hostWrite_pins (d : Device) (a : Nat) (bs : List Byte) : (d.hostWrite a bs).pins = d.pins := rfl
@[simp] theorem Device.hostWrite_flash (d : Device) (a : Nat) (bs : List Byte) : (d.hostWrite a bs).flash = d.flash := rfl
@[simp] theorem Device.hostWrite_boot (d : Device) (a : Nat) (bs : List Byte) : (d.hostWrite a bs).boot = d.boot := rfl
@[simp] theorem Device.hostWrite_now (d : Device) (a : Nat) (bs : List Byte) : (d.hostWrite a bs).now = d.now := rfl
@[simp] theorem Device.hostWrite_mem (d : Device) (a : Nat) (bs : List Byte) : (d.hostWrite a bs).mem = d.mem := rfl
@[simp] theorem Device.hostWrite_side (d : Device) (a : Nat) (bs : List Byte) : (d.hostWrite a bs).side = d.side := rfl
@[simp] theorem Device.hostWrite_far (d : Device) (a : Nat) (bs : List Byte) : (d.hostWrite a bs).far = d.far := rfl
@[simp] theorem Device.hostWrite_farSide (d : Device) (a : Nat) (bs : List Byte) : (d.hostWrite a bs).farSide = d.farSide := rfl
@[simp] theorem Device.hostWrite_hostBad (d : Device) (a : Nat) (bs : List Byte) : (d.hostWrite a bs).hostBad = d.hostBad := rfl
@[simp] theorem Device.hostWrite_badReads (d : Device) (a : Nat) (bs : List Byte) : (d.hostWrite a bs).badReads = d.badReads := rfl
@[simp] theorem Device.hostWrite_remoteBad (d : Device) (a : Nat) (bs : List Byte) : (d.hostWrite a bs).remoteBad = d.remoteBad := rfl
@[simp] theorem Device.hostWrite_tlb (d : Device) (a : Nat) (bs : List Byte) : (d.hostWrite a bs).tlb = d.tlb := rfl
@[simp] theorem Device.hostWrite_handles (d : Device) (a : Nat) (bs : List Byte) : (d.hostWrite a bs).handles = d.handles := rfl
@[simp] theorem Device.hostWrite_streams (d : Device) (a : Nat) (bs : List Byte) : (d.hostWrite a bs).streams = d.streams := rfl
@[simp] theorem Device.hostWrite_injectors (d : Device) (a : Nat) (bs : List Byte) : (d.hostWrite a bs).injectors = d.injectors := rfl
@[simp] theorem Device.hostWrite_errs (d : Device) (a : Nat) (bs : List Byte) : (d.hostWrite a bs).errs = d.errs := rfl
@[simp] theorem Device.hostWrite_hist (d : Device) (a : Nat) (bs : List Byte) : (d.hostWrite a bs).hist = d.hist := rfl
@[simp] theorem Device.hostWrite_events (d : Device) (a : Nat) (bs : List Byte) : (d.hostWrite a bs).events = d.events := rfl
@[simp] theorem Device.hostWrite_sqs (d : Device) (a : Nat) (bs : List Byte) : (d.hostWrite a bs).sqs = d.sqs := rfl
@[simp] theorem Device.hostWrite_cqs (d : Device) (a : Nat) (bs : List Byte) : (d.hostWrite a bs).cqs = d.cqs := rfl
@[simp] theorem Device.hostWrite_queues (d : Device) (a : Nat) (bs : List Byte) : (d.hostWrite a bs).queues = d.queues := rfl
@[simp] theorem Device.hostWrite_objs (d : Device) (a : Nat) (bs : List Byte) : (d.hostWrite a bs).objs = d.objs := rfl
@[simp] theorem Device.hostWrite_flows (d : Device) (a : Nat) (bs : List Byte) : (d.hostWrite a bs).flows = d.flows := rfl
@[simp] theorem Device.hostWrite_layout (d : Device) (a : Nat) (bs : List Byte) : (d.hostWrite a bs).layout = d.layout := rfl
@[simp] theorem Device.hostWrite_cores (d : Device) (a : Nat) (bs : List Byte) : (d.hostWrite a bs).cores = d.cores := rfl
@[simp] theorem Device.hostWrite_readyLists (d : Device) (a : Nat) (bs : List Byte) : (d.hostWrite a bs).readyLists = d.readyLists := rfl
@[simp] theorem Device.hostWrite_rr (d : Device) (a : Nat) (bs : List Byte) : (d.hostWrite a bs).rr = d.rr := rfl
@[simp] theorem Device.hostWrite_left (d : Device) (a : Nat) (bs : List Byte) : (d.hostWrite a bs).left = d.left := rfl
@[simp] theorem Device.hostWrite_readyStamp (d : Device) (a : Nat) (bs : List Byte) : (d.hostWrite a bs).readyStamp = d.readyStamp := rfl
@[simp] theorem Device.hostWrite_pmemHeld (d : Device) (a : Nat) (bs : List Byte) : (d.hostWrite a bs).pmemHeld = d.pmemHeld := rfl
@[simp] theorem Device.hostWrite_ptmOn (d : Device) (a : Nat) (bs : List Byte) : (d.hostWrite a bs).ptmOn = d.ptmOn := rfl
@[simp] theorem Device.hostWrite_link (d : Device) (a : Nat) (bs : List Byte) : (d.hostWrite a bs).link = d.link := rfl
@[simp] theorem Device.hostWrite_unmasked (d : Device) (a : Nat) (bs : List Byte) : (d.hostWrite a bs).unmasked = d.unmasked := rfl
@[simp] theorem Device.hostWrite_msixPending (d : Device) (a : Nat) (bs : List Byte) : (d.hostWrite a bs).msixPending = d.msixPending := rfl
@[simp] theorem Device.hostWrite_contribStalled (d : Device) (a : Nat) (bs : List Byte) : (d.hostWrite a bs).contribStalled = d.contribStalled := rfl
@[simp] theorem Device.hostWrite_waiterEpisode (d : Device) (a : Nat) (bs : List Byte) : (d.hostWrite a bs).waiterEpisode = d.waiterEpisode := rfl
@[simp] theorem Device.hostWrite_vfs (d : Device) (a : Nat) (bs : List Byte) : (d.hostWrite a bs).vfs = d.vfs := rfl
@[simp] theorem Device.hostWrite_d3 (d : Device) (a : Nat) (bs : List Byte) : (d.hostWrite a bs).d3 = d.d3 := rfl
@[simp] theorem Device.hostWrite_ptm (d : Device) (a : Nat) (bs : List Byte) : (d.hostWrite a bs).ptm = d.ptm := rfl
@[simp] theorem Device.hostWrite_power (d : Device) (a : Nat) (bs : List Byte) : (d.hostWrite a bs).power = d.power := rfl
@[simp] theorem Device.hostWrite_parts (d : Device) (a : Nat) (bs : List Byte) : (d.hostWrite a bs).parts = d.parts := rfl
@[simp] theorem Device.hostWrite_flowDone (d : Device) (a : Nat) (bs : List Byte) : (d.hostWrite a bs).flowDone = d.flowDone := rfl
@[simp] theorem Device.hostWrite_directory (d : Device) (a : Nat) (bs : List Byte) : (d.hostWrite a bs).directory = d.directory := rfl
@[simp] theorem Device.hostWrite_enable (d : Device) (a : Nat) (bs : List Byte) : (d.hostWrite a bs).enable = d.enable := rfl
@[simp] theorem Device.hostWrite_enabled (d : Device) (a : Nat) (bs : List Byte) : (d.hostWrite a bs).enabled = d.enabled := rfl
@[simp] theorem Device.hostWrite_time (d : Device) (a : Nat) (bs : List Byte) : (d.hostWrite a bs).time = d.time := rfl
@[simp] theorem Device.hostWrite_levelOut (d : Device) (a : Nat) (bs : List Byte) : (d.hostWrite a bs).levelOut = d.levelOut := rfl
@[simp] theorem Device.hostWrite_ports (d : Device) (a : Nat) (bs : List Byte) : (d.hostWrite a bs).ports = d.ports := rfl
@[simp] theorem Device.hostWrite_txWait (d : Device) (a : Nat) (bs : List Byte) : (d.hostWrite a bs).txWait = d.txWait := rfl
@[simp] theorem Device.hostWrite_reqs (d : Device) (a : Nat) (bs : List Byte) : (d.hostWrite a bs).reqs = d.reqs := rfl
@[simp] theorem Device.hostWrite_nextReq (d : Device) (a : Nat) (bs : List Byte) : (d.hostWrite a bs).nextReq = d.nextReq := rfl
@[simp] theorem Device.hostWrite_outFlows (d : Device) (a : Nat) (bs : List Byte) : (d.hostWrite a bs).outFlows = d.outFlows := rfl
@[simp] theorem Device.hostWrite_landing (d : Device) (a : Nat) (bs : List Byte) : (d.hostWrite a bs).landing = d.landing := rfl
@[simp] theorem Device.hostWrite_heldReads (d : Device) (a : Nat) (bs : List Byte) : (d.hostWrite a bs).heldReads = d.heldReads := rfl
@[simp] theorem Device.hostWrite_groups (d : Device) (a : Nat) (bs : List Byte) : (d.hostWrite a bs).groups = d.groups := rfl
@[simp] theorem Device.hostWrite_collData (d : Device) (a : Nat) (bs : List Byte) : (d.hostWrite a bs).collData = d.collData := rfl
@[simp] theorem Device.hostWrite_heldSignals (d : Device) (a : Nat) (bs : List Byte) : (d.hostWrite a bs).heldSignals = d.heldSignals := rfl
@[simp] theorem Device.hostWrite_resets (d : Device) (a : Nat) (bs : List Byte) : (d.hostWrite a bs).resets = d.resets := rfl
@[simp] theorem Device.hostWrite_groupsKept (d : Device) (a : Nat) (bs : List Byte) : (d.hostWrite a bs).groupsKept = d.groupsKept := rfl
@[simp] theorem Device.hostWrite_groupsDropped (d : Device) (a : Nat) (bs : List Byte) : (d.hostWrite a bs).groupsDropped = d.groupsDropped := rfl
@[simp] theorem Device.hostWrite_saves (d : Device) (a : Nat) (bs : List Byte) : (d.hostWrite a bs).saves = d.saves := rfl
@[simp] theorem Device.hostWrite_saving (d : Device) (a : Nat) (bs : List Byte) : (d.hostWrite a bs).saving = d.saving := rfl
@[simp] theorem Device.hostWrite_mgmt (d : Device) (a : Nat) (bs : List Byte) : (d.hostWrite a bs).mgmt = d.mgmt := rfl
@[simp] theorem Device.hostWrite_free (d : Device) (a : Nat) (bs : List Byte) : (d.hostWrite a bs).free = d.free := rfl

@[simp] theorem Device.memWrite_regs (d : Device) (a : Nat) (bs : List Byte) : (d.memWrite a bs).regs = d.regs := rfl
@[simp] theorem Device.memWrite_pins (d : Device) (a : Nat) (bs : List Byte) : (d.memWrite a bs).pins = d.pins := rfl
@[simp] theorem Device.memWrite_flash (d : Device) (a : Nat) (bs : List Byte) : (d.memWrite a bs).flash = d.flash := rfl
@[simp] theorem Device.memWrite_boot (d : Device) (a : Nat) (bs : List Byte) : (d.memWrite a bs).boot = d.boot := rfl
@[simp] theorem Device.memWrite_now (d : Device) (a : Nat) (bs : List Byte) : (d.memWrite a bs).now = d.now := rfl
@[simp] theorem Device.memWrite_hostMem (d : Device) (a : Nat) (bs : List Byte) : (d.memWrite a bs).hostMem = d.hostMem := rfl
@[simp] theorem Device.memWrite_side (d : Device) (a : Nat) (bs : List Byte) : (d.memWrite a bs).side = d.side := rfl
@[simp] theorem Device.memWrite_far (d : Device) (a : Nat) (bs : List Byte) : (d.memWrite a bs).far = d.far := rfl
@[simp] theorem Device.memWrite_farSide (d : Device) (a : Nat) (bs : List Byte) : (d.memWrite a bs).farSide = d.farSide := rfl
@[simp] theorem Device.memWrite_hostBad (d : Device) (a : Nat) (bs : List Byte) : (d.memWrite a bs).hostBad = d.hostBad := rfl
@[simp] theorem Device.memWrite_badReads (d : Device) (a : Nat) (bs : List Byte) : (d.memWrite a bs).badReads = d.badReads := rfl
@[simp] theorem Device.memWrite_remoteBad (d : Device) (a : Nat) (bs : List Byte) : (d.memWrite a bs).remoteBad = d.remoteBad := rfl
@[simp] theorem Device.memWrite_tlb (d : Device) (a : Nat) (bs : List Byte) : (d.memWrite a bs).tlb = d.tlb := rfl
@[simp] theorem Device.memWrite_handles (d : Device) (a : Nat) (bs : List Byte) : (d.memWrite a bs).handles = d.handles := rfl
@[simp] theorem Device.memWrite_streams (d : Device) (a : Nat) (bs : List Byte) : (d.memWrite a bs).streams = d.streams := rfl
@[simp] theorem Device.memWrite_injectors (d : Device) (a : Nat) (bs : List Byte) : (d.memWrite a bs).injectors = d.injectors := rfl
@[simp] theorem Device.memWrite_errs (d : Device) (a : Nat) (bs : List Byte) : (d.memWrite a bs).errs = d.errs := rfl
@[simp] theorem Device.memWrite_hist (d : Device) (a : Nat) (bs : List Byte) : (d.memWrite a bs).hist = d.hist := rfl
@[simp] theorem Device.memWrite_events (d : Device) (a : Nat) (bs : List Byte) : (d.memWrite a bs).events = d.events := rfl
@[simp] theorem Device.memWrite_sqs (d : Device) (a : Nat) (bs : List Byte) : (d.memWrite a bs).sqs = d.sqs := rfl
@[simp] theorem Device.memWrite_cqs (d : Device) (a : Nat) (bs : List Byte) : (d.memWrite a bs).cqs = d.cqs := rfl
@[simp] theorem Device.memWrite_queues (d : Device) (a : Nat) (bs : List Byte) : (d.memWrite a bs).queues = d.queues := rfl
@[simp] theorem Device.memWrite_objs (d : Device) (a : Nat) (bs : List Byte) : (d.memWrite a bs).objs = d.objs := rfl
@[simp] theorem Device.memWrite_flows (d : Device) (a : Nat) (bs : List Byte) : (d.memWrite a bs).flows = d.flows := rfl
@[simp] theorem Device.memWrite_layout (d : Device) (a : Nat) (bs : List Byte) : (d.memWrite a bs).layout = d.layout := rfl
@[simp] theorem Device.memWrite_cores (d : Device) (a : Nat) (bs : List Byte) : (d.memWrite a bs).cores = d.cores := rfl
@[simp] theorem Device.memWrite_readyLists (d : Device) (a : Nat) (bs : List Byte) : (d.memWrite a bs).readyLists = d.readyLists := rfl
@[simp] theorem Device.memWrite_rr (d : Device) (a : Nat) (bs : List Byte) : (d.memWrite a bs).rr = d.rr := rfl
@[simp] theorem Device.memWrite_left (d : Device) (a : Nat) (bs : List Byte) : (d.memWrite a bs).left = d.left := rfl
@[simp] theorem Device.memWrite_readyStamp (d : Device) (a : Nat) (bs : List Byte) : (d.memWrite a bs).readyStamp = d.readyStamp := rfl
@[simp] theorem Device.memWrite_pmemHeld (d : Device) (a : Nat) (bs : List Byte) : (d.memWrite a bs).pmemHeld = d.pmemHeld := rfl
@[simp] theorem Device.memWrite_ptmOn (d : Device) (a : Nat) (bs : List Byte) : (d.memWrite a bs).ptmOn = d.ptmOn := rfl
@[simp] theorem Device.memWrite_link (d : Device) (a : Nat) (bs : List Byte) : (d.memWrite a bs).link = d.link := rfl
@[simp] theorem Device.memWrite_unmasked (d : Device) (a : Nat) (bs : List Byte) : (d.memWrite a bs).unmasked = d.unmasked := rfl
@[simp] theorem Device.memWrite_msixPending (d : Device) (a : Nat) (bs : List Byte) : (d.memWrite a bs).msixPending = d.msixPending := rfl
@[simp] theorem Device.memWrite_contribStalled (d : Device) (a : Nat) (bs : List Byte) : (d.memWrite a bs).contribStalled = d.contribStalled := rfl
@[simp] theorem Device.memWrite_waiterEpisode (d : Device) (a : Nat) (bs : List Byte) : (d.memWrite a bs).waiterEpisode = d.waiterEpisode := rfl
@[simp] theorem Device.memWrite_vfs (d : Device) (a : Nat) (bs : List Byte) : (d.memWrite a bs).vfs = d.vfs := rfl
@[simp] theorem Device.memWrite_d3 (d : Device) (a : Nat) (bs : List Byte) : (d.memWrite a bs).d3 = d.d3 := rfl
@[simp] theorem Device.memWrite_ptm (d : Device) (a : Nat) (bs : List Byte) : (d.memWrite a bs).ptm = d.ptm := rfl
@[simp] theorem Device.memWrite_power (d : Device) (a : Nat) (bs : List Byte) : (d.memWrite a bs).power = d.power := rfl
@[simp] theorem Device.memWrite_parts (d : Device) (a : Nat) (bs : List Byte) : (d.memWrite a bs).parts = d.parts := rfl
@[simp] theorem Device.memWrite_flowDone (d : Device) (a : Nat) (bs : List Byte) : (d.memWrite a bs).flowDone = d.flowDone := rfl
@[simp] theorem Device.memWrite_directory (d : Device) (a : Nat) (bs : List Byte) : (d.memWrite a bs).directory = d.directory := rfl
@[simp] theorem Device.memWrite_enable (d : Device) (a : Nat) (bs : List Byte) : (d.memWrite a bs).enable = d.enable := rfl
@[simp] theorem Device.memWrite_enabled (d : Device) (a : Nat) (bs : List Byte) : (d.memWrite a bs).enabled = d.enabled := rfl
@[simp] theorem Device.memWrite_time (d : Device) (a : Nat) (bs : List Byte) : (d.memWrite a bs).time = d.time := rfl
@[simp] theorem Device.memWrite_levelOut (d : Device) (a : Nat) (bs : List Byte) : (d.memWrite a bs).levelOut = d.levelOut := rfl
@[simp] theorem Device.memWrite_ports (d : Device) (a : Nat) (bs : List Byte) : (d.memWrite a bs).ports = d.ports := rfl
@[simp] theorem Device.memWrite_txWait (d : Device) (a : Nat) (bs : List Byte) : (d.memWrite a bs).txWait = d.txWait := rfl
@[simp] theorem Device.memWrite_reqs (d : Device) (a : Nat) (bs : List Byte) : (d.memWrite a bs).reqs = d.reqs := rfl
@[simp] theorem Device.memWrite_nextReq (d : Device) (a : Nat) (bs : List Byte) : (d.memWrite a bs).nextReq = d.nextReq := rfl
@[simp] theorem Device.memWrite_outFlows (d : Device) (a : Nat) (bs : List Byte) : (d.memWrite a bs).outFlows = d.outFlows := rfl
@[simp] theorem Device.memWrite_landing (d : Device) (a : Nat) (bs : List Byte) : (d.memWrite a bs).landing = d.landing := rfl
@[simp] theorem Device.memWrite_heldReads (d : Device) (a : Nat) (bs : List Byte) : (d.memWrite a bs).heldReads = d.heldReads := rfl
@[simp] theorem Device.memWrite_groups (d : Device) (a : Nat) (bs : List Byte) : (d.memWrite a bs).groups = d.groups := rfl
@[simp] theorem Device.memWrite_collData (d : Device) (a : Nat) (bs : List Byte) : (d.memWrite a bs).collData = d.collData := rfl
@[simp] theorem Device.memWrite_heldSignals (d : Device) (a : Nat) (bs : List Byte) : (d.memWrite a bs).heldSignals = d.heldSignals := rfl
@[simp] theorem Device.memWrite_resets (d : Device) (a : Nat) (bs : List Byte) : (d.memWrite a bs).resets = d.resets := rfl
@[simp] theorem Device.memWrite_groupsKept (d : Device) (a : Nat) (bs : List Byte) : (d.memWrite a bs).groupsKept = d.groupsKept := rfl
@[simp] theorem Device.memWrite_groupsDropped (d : Device) (a : Nat) (bs : List Byte) : (d.memWrite a bs).groupsDropped = d.groupsDropped := rfl
@[simp] theorem Device.memWrite_saves (d : Device) (a : Nat) (bs : List Byte) : (d.memWrite a bs).saves = d.saves := rfl
@[simp] theorem Device.memWrite_saving (d : Device) (a : Nat) (bs : List Byte) : (d.memWrite a bs).saving = d.saving := rfl
@[simp] theorem Device.memWrite_mgmt (d : Device) (a : Nat) (bs : List Byte) : (d.memWrite a bs).mgmt = d.mgmt := rfl
@[simp] theorem Device.memWrite_out (d : Device) (a : Nat) (bs : List Byte) : (d.memWrite a bs).out = d.out := rfl
@[simp] theorem Device.memWrite_free (d : Device) (a : Nat) (bs : List Byte) : (d.memWrite a bs).free = d.free := rfl

@[simp] theorem Device.setErrRing_regs (d : Device) (k : Nat) (e : ErrRing) : (d.setErrRing k e).regs = d.regs := rfl
@[simp] theorem Device.setErrRing_pins (d : Device) (k : Nat) (e : ErrRing) : (d.setErrRing k e).pins = d.pins := rfl
@[simp] theorem Device.setErrRing_flash (d : Device) (k : Nat) (e : ErrRing) : (d.setErrRing k e).flash = d.flash := rfl
@[simp] theorem Device.setErrRing_boot (d : Device) (k : Nat) (e : ErrRing) : (d.setErrRing k e).boot = d.boot := rfl
@[simp] theorem Device.setErrRing_now (d : Device) (k : Nat) (e : ErrRing) : (d.setErrRing k e).now = d.now := rfl
@[simp] theorem Device.setErrRing_hostMem (d : Device) (k : Nat) (e : ErrRing) : (d.setErrRing k e).hostMem = d.hostMem := rfl
@[simp] theorem Device.setErrRing_mem (d : Device) (k : Nat) (e : ErrRing) : (d.setErrRing k e).mem = d.mem := rfl
@[simp] theorem Device.setErrRing_side (d : Device) (k : Nat) (e : ErrRing) : (d.setErrRing k e).side = d.side := rfl
@[simp] theorem Device.setErrRing_far (d : Device) (k : Nat) (e : ErrRing) : (d.setErrRing k e).far = d.far := rfl
@[simp] theorem Device.setErrRing_farSide (d : Device) (k : Nat) (e : ErrRing) : (d.setErrRing k e).farSide = d.farSide := rfl
@[simp] theorem Device.setErrRing_hostBad (d : Device) (k : Nat) (e : ErrRing) : (d.setErrRing k e).hostBad = d.hostBad := rfl
@[simp] theorem Device.setErrRing_badReads (d : Device) (k : Nat) (e : ErrRing) : (d.setErrRing k e).badReads = d.badReads := rfl
@[simp] theorem Device.setErrRing_remoteBad (d : Device) (k : Nat) (e : ErrRing) : (d.setErrRing k e).remoteBad = d.remoteBad := rfl
@[simp] theorem Device.setErrRing_tlb (d : Device) (k : Nat) (e : ErrRing) : (d.setErrRing k e).tlb = d.tlb := rfl
@[simp] theorem Device.setErrRing_handles (d : Device) (k : Nat) (e : ErrRing) : (d.setErrRing k e).handles = d.handles := rfl
@[simp] theorem Device.setErrRing_streams (d : Device) (k : Nat) (e : ErrRing) : (d.setErrRing k e).streams = d.streams := rfl
@[simp] theorem Device.setErrRing_injectors (d : Device) (k : Nat) (e : ErrRing) : (d.setErrRing k e).injectors = d.injectors := rfl
@[simp] theorem Device.setErrRing_hist (d : Device) (k : Nat) (e : ErrRing) : (d.setErrRing k e).hist = d.hist := rfl
@[simp] theorem Device.setErrRing_events (d : Device) (k : Nat) (e : ErrRing) : (d.setErrRing k e).events = d.events := rfl
@[simp] theorem Device.setErrRing_sqs (d : Device) (k : Nat) (e : ErrRing) : (d.setErrRing k e).sqs = d.sqs := rfl
@[simp] theorem Device.setErrRing_cqs (d : Device) (k : Nat) (e : ErrRing) : (d.setErrRing k e).cqs = d.cqs := rfl
@[simp] theorem Device.setErrRing_queues (d : Device) (k : Nat) (e : ErrRing) : (d.setErrRing k e).queues = d.queues := rfl
@[simp] theorem Device.setErrRing_objs (d : Device) (k : Nat) (e : ErrRing) : (d.setErrRing k e).objs = d.objs := rfl
@[simp] theorem Device.setErrRing_flows (d : Device) (k : Nat) (e : ErrRing) : (d.setErrRing k e).flows = d.flows := rfl
@[simp] theorem Device.setErrRing_layout (d : Device) (k : Nat) (e : ErrRing) : (d.setErrRing k e).layout = d.layout := rfl
@[simp] theorem Device.setErrRing_cores (d : Device) (k : Nat) (e : ErrRing) : (d.setErrRing k e).cores = d.cores := rfl
@[simp] theorem Device.setErrRing_readyLists (d : Device) (k : Nat) (e : ErrRing) : (d.setErrRing k e).readyLists = d.readyLists := rfl
@[simp] theorem Device.setErrRing_rr (d : Device) (k : Nat) (e : ErrRing) : (d.setErrRing k e).rr = d.rr := rfl
@[simp] theorem Device.setErrRing_left (d : Device) (k : Nat) (e : ErrRing) : (d.setErrRing k e).left = d.left := rfl
@[simp] theorem Device.setErrRing_readyStamp (d : Device) (k : Nat) (e : ErrRing) : (d.setErrRing k e).readyStamp = d.readyStamp := rfl
@[simp] theorem Device.setErrRing_pmemHeld (d : Device) (k : Nat) (e : ErrRing) : (d.setErrRing k e).pmemHeld = d.pmemHeld := rfl
@[simp] theorem Device.setErrRing_ptmOn (d : Device) (k : Nat) (e : ErrRing) : (d.setErrRing k e).ptmOn = d.ptmOn := rfl
@[simp] theorem Device.setErrRing_link (d : Device) (k : Nat) (e : ErrRing) : (d.setErrRing k e).link = d.link := rfl
@[simp] theorem Device.setErrRing_unmasked (d : Device) (k : Nat) (e : ErrRing) : (d.setErrRing k e).unmasked = d.unmasked := rfl
@[simp] theorem Device.setErrRing_msixPending (d : Device) (k : Nat) (e : ErrRing) : (d.setErrRing k e).msixPending = d.msixPending := rfl
@[simp] theorem Device.setErrRing_contribStalled (d : Device) (k : Nat) (e : ErrRing) : (d.setErrRing k e).contribStalled = d.contribStalled := rfl
@[simp] theorem Device.setErrRing_waiterEpisode (d : Device) (k : Nat) (e : ErrRing) : (d.setErrRing k e).waiterEpisode = d.waiterEpisode := rfl
@[simp] theorem Device.setErrRing_vfs (d : Device) (k : Nat) (e : ErrRing) : (d.setErrRing k e).vfs = d.vfs := rfl
@[simp] theorem Device.setErrRing_d3 (d : Device) (k : Nat) (e : ErrRing) : (d.setErrRing k e).d3 = d.d3 := rfl
@[simp] theorem Device.setErrRing_ptm (d : Device) (k : Nat) (e : ErrRing) : (d.setErrRing k e).ptm = d.ptm := rfl
@[simp] theorem Device.setErrRing_power (d : Device) (k : Nat) (e : ErrRing) : (d.setErrRing k e).power = d.power := rfl
@[simp] theorem Device.setErrRing_parts (d : Device) (k : Nat) (e : ErrRing) : (d.setErrRing k e).parts = d.parts := rfl
@[simp] theorem Device.setErrRing_flowDone (d : Device) (k : Nat) (e : ErrRing) : (d.setErrRing k e).flowDone = d.flowDone := rfl
@[simp] theorem Device.setErrRing_directory (d : Device) (k : Nat) (e : ErrRing) : (d.setErrRing k e).directory = d.directory := rfl
@[simp] theorem Device.setErrRing_enable (d : Device) (k : Nat) (e : ErrRing) : (d.setErrRing k e).enable = d.enable := rfl
@[simp] theorem Device.setErrRing_enabled (d : Device) (k : Nat) (e : ErrRing) : (d.setErrRing k e).enabled = d.enabled := rfl
@[simp] theorem Device.setErrRing_time (d : Device) (k : Nat) (e : ErrRing) : (d.setErrRing k e).time = d.time := rfl
@[simp] theorem Device.setErrRing_levelOut (d : Device) (k : Nat) (e : ErrRing) : (d.setErrRing k e).levelOut = d.levelOut := rfl
@[simp] theorem Device.setErrRing_ports (d : Device) (k : Nat) (e : ErrRing) : (d.setErrRing k e).ports = d.ports := rfl
@[simp] theorem Device.setErrRing_txWait (d : Device) (k : Nat) (e : ErrRing) : (d.setErrRing k e).txWait = d.txWait := rfl
@[simp] theorem Device.setErrRing_reqs (d : Device) (k : Nat) (e : ErrRing) : (d.setErrRing k e).reqs = d.reqs := rfl
@[simp] theorem Device.setErrRing_nextReq (d : Device) (k : Nat) (e : ErrRing) : (d.setErrRing k e).nextReq = d.nextReq := rfl
@[simp] theorem Device.setErrRing_outFlows (d : Device) (k : Nat) (e : ErrRing) : (d.setErrRing k e).outFlows = d.outFlows := rfl
@[simp] theorem Device.setErrRing_landing (d : Device) (k : Nat) (e : ErrRing) : (d.setErrRing k e).landing = d.landing := rfl
@[simp] theorem Device.setErrRing_heldReads (d : Device) (k : Nat) (e : ErrRing) : (d.setErrRing k e).heldReads = d.heldReads := rfl
@[simp] theorem Device.setErrRing_groups (d : Device) (k : Nat) (e : ErrRing) : (d.setErrRing k e).groups = d.groups := rfl
@[simp] theorem Device.setErrRing_collData (d : Device) (k : Nat) (e : ErrRing) : (d.setErrRing k e).collData = d.collData := rfl
@[simp] theorem Device.setErrRing_heldSignals (d : Device) (k : Nat) (e : ErrRing) : (d.setErrRing k e).heldSignals = d.heldSignals := rfl
@[simp] theorem Device.setErrRing_resets (d : Device) (k : Nat) (e : ErrRing) : (d.setErrRing k e).resets = d.resets := rfl
@[simp] theorem Device.setErrRing_groupsKept (d : Device) (k : Nat) (e : ErrRing) : (d.setErrRing k e).groupsKept = d.groupsKept := rfl
@[simp] theorem Device.setErrRing_groupsDropped (d : Device) (k : Nat) (e : ErrRing) : (d.setErrRing k e).groupsDropped = d.groupsDropped := rfl
@[simp] theorem Device.setErrRing_saves (d : Device) (k : Nat) (e : ErrRing) : (d.setErrRing k e).saves = d.saves := rfl
@[simp] theorem Device.setErrRing_saving (d : Device) (k : Nat) (e : ErrRing) : (d.setErrRing k e).saving = d.saving := rfl
@[simp] theorem Device.setErrRing_mgmt (d : Device) (k : Nat) (e : ErrRing) : (d.setErrRing k e).mgmt = d.mgmt := rfl
@[simp] theorem Device.setErrRing_out (d : Device) (k : Nat) (e : ErrRing) : (d.setErrRing k e).out = d.out := rfl
@[simp] theorem Device.setErrRing_free (d : Device) (k : Nat) (e : ErrRing) : (d.setErrRing k e).free = d.free := rfl

@[simp] theorem Device.setCq_regs (d : Device) (p c : Nat) (x : CqState) : (d.setCq p c x).regs = d.regs := rfl
@[simp] theorem Device.setCq_pins (d : Device) (p c : Nat) (x : CqState) : (d.setCq p c x).pins = d.pins := rfl
@[simp] theorem Device.setCq_flash (d : Device) (p c : Nat) (x : CqState) : (d.setCq p c x).flash = d.flash := rfl
@[simp] theorem Device.setCq_boot (d : Device) (p c : Nat) (x : CqState) : (d.setCq p c x).boot = d.boot := rfl
@[simp] theorem Device.setCq_now (d : Device) (p c : Nat) (x : CqState) : (d.setCq p c x).now = d.now := rfl
@[simp] theorem Device.setCq_hostMem (d : Device) (p c : Nat) (x : CqState) : (d.setCq p c x).hostMem = d.hostMem := rfl
@[simp] theorem Device.setCq_mem (d : Device) (p c : Nat) (x : CqState) : (d.setCq p c x).mem = d.mem := rfl
@[simp] theorem Device.setCq_side (d : Device) (p c : Nat) (x : CqState) : (d.setCq p c x).side = d.side := rfl
@[simp] theorem Device.setCq_far (d : Device) (p c : Nat) (x : CqState) : (d.setCq p c x).far = d.far := rfl
@[simp] theorem Device.setCq_farSide (d : Device) (p c : Nat) (x : CqState) : (d.setCq p c x).farSide = d.farSide := rfl
@[simp] theorem Device.setCq_hostBad (d : Device) (p c : Nat) (x : CqState) : (d.setCq p c x).hostBad = d.hostBad := rfl
@[simp] theorem Device.setCq_badReads (d : Device) (p c : Nat) (x : CqState) : (d.setCq p c x).badReads = d.badReads := rfl
@[simp] theorem Device.setCq_remoteBad (d : Device) (p c : Nat) (x : CqState) : (d.setCq p c x).remoteBad = d.remoteBad := rfl
@[simp] theorem Device.setCq_tlb (d : Device) (p c : Nat) (x : CqState) : (d.setCq p c x).tlb = d.tlb := rfl
@[simp] theorem Device.setCq_handles (d : Device) (p c : Nat) (x : CqState) : (d.setCq p c x).handles = d.handles := rfl
@[simp] theorem Device.setCq_streams (d : Device) (p c : Nat) (x : CqState) : (d.setCq p c x).streams = d.streams := rfl
@[simp] theorem Device.setCq_injectors (d : Device) (p c : Nat) (x : CqState) : (d.setCq p c x).injectors = d.injectors := rfl
@[simp] theorem Device.setCq_errs (d : Device) (p c : Nat) (x : CqState) : (d.setCq p c x).errs = d.errs := rfl
@[simp] theorem Device.setCq_hist (d : Device) (p c : Nat) (x : CqState) : (d.setCq p c x).hist = d.hist := rfl
@[simp] theorem Device.setCq_events (d : Device) (p c : Nat) (x : CqState) : (d.setCq p c x).events = d.events := rfl
@[simp] theorem Device.setCq_sqs (d : Device) (p c : Nat) (x : CqState) : (d.setCq p c x).sqs = d.sqs := rfl
@[simp] theorem Device.setCq_queues (d : Device) (p c : Nat) (x : CqState) : (d.setCq p c x).queues = d.queues := rfl
@[simp] theorem Device.setCq_objs (d : Device) (p c : Nat) (x : CqState) : (d.setCq p c x).objs = d.objs := rfl
@[simp] theorem Device.setCq_flows (d : Device) (p c : Nat) (x : CqState) : (d.setCq p c x).flows = d.flows := rfl
@[simp] theorem Device.setCq_layout (d : Device) (p c : Nat) (x : CqState) : (d.setCq p c x).layout = d.layout := rfl
@[simp] theorem Device.setCq_cores (d : Device) (p c : Nat) (x : CqState) : (d.setCq p c x).cores = d.cores := rfl
@[simp] theorem Device.setCq_readyLists (d : Device) (p c : Nat) (x : CqState) : (d.setCq p c x).readyLists = d.readyLists := rfl
@[simp] theorem Device.setCq_rr (d : Device) (p c : Nat) (x : CqState) : (d.setCq p c x).rr = d.rr := rfl
@[simp] theorem Device.setCq_left (d : Device) (p c : Nat) (x : CqState) : (d.setCq p c x).left = d.left := rfl
@[simp] theorem Device.setCq_readyStamp (d : Device) (p c : Nat) (x : CqState) : (d.setCq p c x).readyStamp = d.readyStamp := rfl
@[simp] theorem Device.setCq_pmemHeld (d : Device) (p c : Nat) (x : CqState) : (d.setCq p c x).pmemHeld = d.pmemHeld := rfl
@[simp] theorem Device.setCq_ptmOn (d : Device) (p c : Nat) (x : CqState) : (d.setCq p c x).ptmOn = d.ptmOn := rfl
@[simp] theorem Device.setCq_link (d : Device) (p c : Nat) (x : CqState) : (d.setCq p c x).link = d.link := rfl
@[simp] theorem Device.setCq_unmasked (d : Device) (p c : Nat) (x : CqState) : (d.setCq p c x).unmasked = d.unmasked := rfl
@[simp] theorem Device.setCq_msixPending (d : Device) (p c : Nat) (x : CqState) : (d.setCq p c x).msixPending = d.msixPending := rfl
@[simp] theorem Device.setCq_contribStalled (d : Device) (p c : Nat) (x : CqState) : (d.setCq p c x).contribStalled = d.contribStalled := rfl
@[simp] theorem Device.setCq_waiterEpisode (d : Device) (p c : Nat) (x : CqState) : (d.setCq p c x).waiterEpisode = d.waiterEpisode := rfl
@[simp] theorem Device.setCq_vfs (d : Device) (p c : Nat) (x : CqState) : (d.setCq p c x).vfs = d.vfs := rfl
@[simp] theorem Device.setCq_d3 (d : Device) (p c : Nat) (x : CqState) : (d.setCq p c x).d3 = d.d3 := rfl
@[simp] theorem Device.setCq_ptm (d : Device) (p c : Nat) (x : CqState) : (d.setCq p c x).ptm = d.ptm := rfl
@[simp] theorem Device.setCq_power (d : Device) (p c : Nat) (x : CqState) : (d.setCq p c x).power = d.power := rfl
@[simp] theorem Device.setCq_parts (d : Device) (p c : Nat) (x : CqState) : (d.setCq p c x).parts = d.parts := rfl
@[simp] theorem Device.setCq_flowDone (d : Device) (p c : Nat) (x : CqState) : (d.setCq p c x).flowDone = d.flowDone := rfl
@[simp] theorem Device.setCq_directory (d : Device) (p c : Nat) (x : CqState) : (d.setCq p c x).directory = d.directory := rfl
@[simp] theorem Device.setCq_enable (d : Device) (p c : Nat) (x : CqState) : (d.setCq p c x).enable = d.enable := rfl
@[simp] theorem Device.setCq_enabled (d : Device) (p c : Nat) (x : CqState) : (d.setCq p c x).enabled = d.enabled := rfl
@[simp] theorem Device.setCq_time (d : Device) (p c : Nat) (x : CqState) : (d.setCq p c x).time = d.time := rfl
@[simp] theorem Device.setCq_levelOut (d : Device) (p c : Nat) (x : CqState) : (d.setCq p c x).levelOut = d.levelOut := rfl
@[simp] theorem Device.setCq_ports (d : Device) (p c : Nat) (x : CqState) : (d.setCq p c x).ports = d.ports := rfl
@[simp] theorem Device.setCq_txWait (d : Device) (p c : Nat) (x : CqState) : (d.setCq p c x).txWait = d.txWait := rfl
@[simp] theorem Device.setCq_reqs (d : Device) (p c : Nat) (x : CqState) : (d.setCq p c x).reqs = d.reqs := rfl
@[simp] theorem Device.setCq_nextReq (d : Device) (p c : Nat) (x : CqState) : (d.setCq p c x).nextReq = d.nextReq := rfl
@[simp] theorem Device.setCq_outFlows (d : Device) (p c : Nat) (x : CqState) : (d.setCq p c x).outFlows = d.outFlows := rfl
@[simp] theorem Device.setCq_landing (d : Device) (p c : Nat) (x : CqState) : (d.setCq p c x).landing = d.landing := rfl
@[simp] theorem Device.setCq_heldReads (d : Device) (p c : Nat) (x : CqState) : (d.setCq p c x).heldReads = d.heldReads := rfl
@[simp] theorem Device.setCq_groups (d : Device) (p c : Nat) (x : CqState) : (d.setCq p c x).groups = d.groups := rfl
@[simp] theorem Device.setCq_collData (d : Device) (p c : Nat) (x : CqState) : (d.setCq p c x).collData = d.collData := rfl
@[simp] theorem Device.setCq_heldSignals (d : Device) (p c : Nat) (x : CqState) : (d.setCq p c x).heldSignals = d.heldSignals := rfl
@[simp] theorem Device.setCq_resets (d : Device) (p c : Nat) (x : CqState) : (d.setCq p c x).resets = d.resets := rfl
@[simp] theorem Device.setCq_groupsKept (d : Device) (p c : Nat) (x : CqState) : (d.setCq p c x).groupsKept = d.groupsKept := rfl
@[simp] theorem Device.setCq_groupsDropped (d : Device) (p c : Nat) (x : CqState) : (d.setCq p c x).groupsDropped = d.groupsDropped := rfl
@[simp] theorem Device.setCq_saves (d : Device) (p c : Nat) (x : CqState) : (d.setCq p c x).saves = d.saves := rfl
@[simp] theorem Device.setCq_saving (d : Device) (p c : Nat) (x : CqState) : (d.setCq p c x).saving = d.saving := rfl
@[simp] theorem Device.setCq_mgmt (d : Device) (p c : Nat) (x : CqState) : (d.setCq p c x).mgmt = d.mgmt := rfl
@[simp] theorem Device.setCq_out (d : Device) (p c : Nat) (x : CqState) : (d.setCq p c x).out = d.out := rfl
@[simp] theorem Device.setCq_free (d : Device) (p c : Nat) (x : CqState) : (d.setCq p c x).free = d.free := rfl

@[simp] theorem Device.setQueue_pins (d : Device) (p q : Nat) (cs : List Cmd) : (d.setQueue p q cs).pins = d.pins := Device.setReg_pins _ _ _
@[simp] theorem Device.setQueue_flash (d : Device) (p q : Nat) (cs : List Cmd) : (d.setQueue p q cs).flash = d.flash := Device.setReg_flash _ _ _
@[simp] theorem Device.setQueue_boot (d : Device) (p q : Nat) (cs : List Cmd) : (d.setQueue p q cs).boot = d.boot := Device.setReg_boot _ _ _
@[simp] theorem Device.setQueue_now (d : Device) (p q : Nat) (cs : List Cmd) : (d.setQueue p q cs).now = d.now := Device.setReg_now _ _ _
@[simp] theorem Device.setQueue_hostMem (d : Device) (p q : Nat) (cs : List Cmd) : (d.setQueue p q cs).hostMem = d.hostMem := Device.setReg_hostMem _ _ _
@[simp] theorem Device.setQueue_mem (d : Device) (p q : Nat) (cs : List Cmd) : (d.setQueue p q cs).mem = d.mem := Device.setReg_mem _ _ _
@[simp] theorem Device.setQueue_side (d : Device) (p q : Nat) (cs : List Cmd) : (d.setQueue p q cs).side = d.side := Device.setReg_side _ _ _
@[simp] theorem Device.setQueue_far (d : Device) (p q : Nat) (cs : List Cmd) : (d.setQueue p q cs).far = d.far := Device.setReg_far _ _ _
@[simp] theorem Device.setQueue_farSide (d : Device) (p q : Nat) (cs : List Cmd) : (d.setQueue p q cs).farSide = d.farSide := Device.setReg_farSide _ _ _
@[simp] theorem Device.setQueue_hostBad (d : Device) (p q : Nat) (cs : List Cmd) : (d.setQueue p q cs).hostBad = d.hostBad := Device.setReg_hostBad _ _ _
@[simp] theorem Device.setQueue_badReads (d : Device) (p q : Nat) (cs : List Cmd) : (d.setQueue p q cs).badReads = d.badReads := Device.setReg_badReads _ _ _
@[simp] theorem Device.setQueue_remoteBad (d : Device) (p q : Nat) (cs : List Cmd) : (d.setQueue p q cs).remoteBad = d.remoteBad := Device.setReg_remoteBad _ _ _
@[simp] theorem Device.setQueue_tlb (d : Device) (p q : Nat) (cs : List Cmd) : (d.setQueue p q cs).tlb = d.tlb := Device.setReg_tlb _ _ _
@[simp] theorem Device.setQueue_handles (d : Device) (p q : Nat) (cs : List Cmd) : (d.setQueue p q cs).handles = d.handles := Device.setReg_handles _ _ _
@[simp] theorem Device.setQueue_streams (d : Device) (p q : Nat) (cs : List Cmd) : (d.setQueue p q cs).streams = d.streams := Device.setReg_streams _ _ _
@[simp] theorem Device.setQueue_injectors (d : Device) (p q : Nat) (cs : List Cmd) : (d.setQueue p q cs).injectors = d.injectors := Device.setReg_injectors _ _ _
@[simp] theorem Device.setQueue_errs (d : Device) (p q : Nat) (cs : List Cmd) : (d.setQueue p q cs).errs = d.errs := Device.setReg_errs _ _ _
@[simp] theorem Device.setQueue_hist (d : Device) (p q : Nat) (cs : List Cmd) : (d.setQueue p q cs).hist = d.hist := Device.setReg_hist _ _ _
@[simp] theorem Device.setQueue_events (d : Device) (p q : Nat) (cs : List Cmd) : (d.setQueue p q cs).events = d.events := Device.setReg_events _ _ _
@[simp] theorem Device.setQueue_sqs (d : Device) (p q : Nat) (cs : List Cmd) : (d.setQueue p q cs).sqs = d.sqs := Device.setReg_sqs _ _ _
@[simp] theorem Device.setQueue_cqs (d : Device) (p q : Nat) (cs : List Cmd) : (d.setQueue p q cs).cqs = d.cqs := Device.setReg_cqs _ _ _
@[simp] theorem Device.setQueue_objs (d : Device) (p q : Nat) (cs : List Cmd) : (d.setQueue p q cs).objs = d.objs := Device.setReg_objs _ _ _
@[simp] theorem Device.setQueue_flows (d : Device) (p q : Nat) (cs : List Cmd) : (d.setQueue p q cs).flows = d.flows := Device.setReg_flows _ _ _
@[simp] theorem Device.setQueue_layout (d : Device) (p q : Nat) (cs : List Cmd) : (d.setQueue p q cs).layout = d.layout := Device.setReg_layout _ _ _
@[simp] theorem Device.setQueue_cores (d : Device) (p q : Nat) (cs : List Cmd) : (d.setQueue p q cs).cores = d.cores := Device.setReg_cores _ _ _
@[simp] theorem Device.setQueue_readyLists (d : Device) (p q : Nat) (cs : List Cmd) : (d.setQueue p q cs).readyLists = d.readyLists := Device.setReg_readyLists _ _ _
@[simp] theorem Device.setQueue_rr (d : Device) (p q : Nat) (cs : List Cmd) : (d.setQueue p q cs).rr = d.rr := Device.setReg_rr _ _ _
@[simp] theorem Device.setQueue_left (d : Device) (p q : Nat) (cs : List Cmd) : (d.setQueue p q cs).left = d.left := Device.setReg_left _ _ _
@[simp] theorem Device.setQueue_readyStamp (d : Device) (p q : Nat) (cs : List Cmd) : (d.setQueue p q cs).readyStamp = d.readyStamp := Device.setReg_readyStamp _ _ _
@[simp] theorem Device.setQueue_pmemHeld (d : Device) (p q : Nat) (cs : List Cmd) : (d.setQueue p q cs).pmemHeld = d.pmemHeld := Device.setReg_pmemHeld _ _ _
@[simp] theorem Device.setQueue_ptmOn (d : Device) (p q : Nat) (cs : List Cmd) : (d.setQueue p q cs).ptmOn = d.ptmOn := Device.setReg_ptmOn _ _ _
@[simp] theorem Device.setQueue_link (d : Device) (p q : Nat) (cs : List Cmd) : (d.setQueue p q cs).link = d.link := Device.setReg_link _ _ _
@[simp] theorem Device.setQueue_unmasked (d : Device) (p q : Nat) (cs : List Cmd) : (d.setQueue p q cs).unmasked = d.unmasked := Device.setReg_unmasked _ _ _
@[simp] theorem Device.setQueue_msixPending (d : Device) (p q : Nat) (cs : List Cmd) : (d.setQueue p q cs).msixPending = d.msixPending := Device.setReg_msixPending _ _ _
@[simp] theorem Device.setQueue_contribStalled (d : Device) (p q : Nat) (cs : List Cmd) : (d.setQueue p q cs).contribStalled = d.contribStalled := Device.setReg_contribStalled _ _ _
@[simp] theorem Device.setQueue_waiterEpisode (d : Device) (p q : Nat) (cs : List Cmd) : (d.setQueue p q cs).waiterEpisode = d.waiterEpisode := Device.setReg_waiterEpisode _ _ _
@[simp] theorem Device.setQueue_vfs (d : Device) (p q : Nat) (cs : List Cmd) : (d.setQueue p q cs).vfs = d.vfs := Device.setReg_vfs _ _ _
@[simp] theorem Device.setQueue_d3 (d : Device) (p q : Nat) (cs : List Cmd) : (d.setQueue p q cs).d3 = d.d3 := Device.setReg_d3 _ _ _
@[simp] theorem Device.setQueue_ptm (d : Device) (p q : Nat) (cs : List Cmd) : (d.setQueue p q cs).ptm = d.ptm := Device.setReg_ptm _ _ _
@[simp] theorem Device.setQueue_power (d : Device) (p q : Nat) (cs : List Cmd) : (d.setQueue p q cs).power = d.power := Device.setReg_power _ _ _
@[simp] theorem Device.setQueue_parts (d : Device) (p q : Nat) (cs : List Cmd) : (d.setQueue p q cs).parts = d.parts := Device.setReg_parts _ _ _
@[simp] theorem Device.setQueue_flowDone (d : Device) (p q : Nat) (cs : List Cmd) : (d.setQueue p q cs).flowDone = d.flowDone := Device.setReg_flowDone _ _ _
@[simp] theorem Device.setQueue_directory (d : Device) (p q : Nat) (cs : List Cmd) : (d.setQueue p q cs).directory = d.directory := Device.setReg_directory _ _ _
@[simp] theorem Device.setQueue_enable (d : Device) (p q : Nat) (cs : List Cmd) : (d.setQueue p q cs).enable = d.enable := Device.setReg_enable _ _ _
@[simp] theorem Device.setQueue_enabled (d : Device) (p q : Nat) (cs : List Cmd) : (d.setQueue p q cs).enabled = d.enabled := Device.setReg_enabled _ _ _
@[simp] theorem Device.setQueue_time (d : Device) (p q : Nat) (cs : List Cmd) : (d.setQueue p q cs).time = d.time := Device.setReg_time _ _ _
@[simp] theorem Device.setQueue_levelOut (d : Device) (p q : Nat) (cs : List Cmd) : (d.setQueue p q cs).levelOut = d.levelOut := Device.setReg_levelOut _ _ _
@[simp] theorem Device.setQueue_ports (d : Device) (p q : Nat) (cs : List Cmd) : (d.setQueue p q cs).ports = d.ports := Device.setReg_ports _ _ _
@[simp] theorem Device.setQueue_txWait (d : Device) (p q : Nat) (cs : List Cmd) : (d.setQueue p q cs).txWait = d.txWait := Device.setReg_txWait _ _ _
@[simp] theorem Device.setQueue_reqs (d : Device) (p q : Nat) (cs : List Cmd) : (d.setQueue p q cs).reqs = d.reqs := Device.setReg_reqs _ _ _
@[simp] theorem Device.setQueue_nextReq (d : Device) (p q : Nat) (cs : List Cmd) : (d.setQueue p q cs).nextReq = d.nextReq := Device.setReg_nextReq _ _ _
@[simp] theorem Device.setQueue_outFlows (d : Device) (p q : Nat) (cs : List Cmd) : (d.setQueue p q cs).outFlows = d.outFlows := Device.setReg_outFlows _ _ _
@[simp] theorem Device.setQueue_landing (d : Device) (p q : Nat) (cs : List Cmd) : (d.setQueue p q cs).landing = d.landing := Device.setReg_landing _ _ _
@[simp] theorem Device.setQueue_heldReads (d : Device) (p q : Nat) (cs : List Cmd) : (d.setQueue p q cs).heldReads = d.heldReads := Device.setReg_heldReads _ _ _
@[simp] theorem Device.setQueue_groups (d : Device) (p q : Nat) (cs : List Cmd) : (d.setQueue p q cs).groups = d.groups := Device.setReg_groups _ _ _
@[simp] theorem Device.setQueue_collData (d : Device) (p q : Nat) (cs : List Cmd) : (d.setQueue p q cs).collData = d.collData := Device.setReg_collData _ _ _
@[simp] theorem Device.setQueue_heldSignals (d : Device) (p q : Nat) (cs : List Cmd) : (d.setQueue p q cs).heldSignals = d.heldSignals := Device.setReg_heldSignals _ _ _
@[simp] theorem Device.setQueue_resets (d : Device) (p q : Nat) (cs : List Cmd) : (d.setQueue p q cs).resets = d.resets := Device.setReg_resets _ _ _
@[simp] theorem Device.setQueue_groupsKept (d : Device) (p q : Nat) (cs : List Cmd) : (d.setQueue p q cs).groupsKept = d.groupsKept := Device.setReg_groupsKept _ _ _
@[simp] theorem Device.setQueue_groupsDropped (d : Device) (p q : Nat) (cs : List Cmd) : (d.setQueue p q cs).groupsDropped = d.groupsDropped := Device.setReg_groupsDropped _ _ _
@[simp] theorem Device.setQueue_saves (d : Device) (p q : Nat) (cs : List Cmd) : (d.setQueue p q cs).saves = d.saves := Device.setReg_saves _ _ _
@[simp] theorem Device.setQueue_saving (d : Device) (p q : Nat) (cs : List Cmd) : (d.setQueue p q cs).saving = d.saving := Device.setReg_saving _ _ _
@[simp] theorem Device.setQueue_mgmt (d : Device) (p q : Nat) (cs : List Cmd) : (d.setQueue p q cs).mgmt = d.mgmt := Device.setReg_mgmt _ _ _
@[simp] theorem Device.setQueue_out (d : Device) (p q : Nat) (cs : List Cmd) : (d.setQueue p q cs).out = d.out := Device.setReg_out _ _ _
@[simp] theorem Device.setQueue_free (d : Device) (p q : Nat) (cs : List Cmd) : (d.setQueue p q cs).free = d.free := Device.setReg_free _ _ _

@[simp] theorem Device.emit_out (d : Device) (o : Out) : (d.emit o).out = d.out ++ [o] := rfl
@[simp] theorem Device.memWrite_mem (d : Device) (a : Nat) (bs : List Byte) :
    (d.memWrite a bs).mem = SMap.setList zeroByte d.mem a bs := rfl
@[simp] theorem Device.hostWrite_hostMem (d : Device) (a : Nat) (bs : List Byte) :
    (d.hostWrite a bs).hostMem = SMap.setList zeroByte d.hostMem a bs := rfl
@[simp] theorem Device.hostWrite_out (d : Device) (a : Nat) (bs : List Byte) :
    (d.hostWrite a bs).out = d.out ++ [.hostWrite a bs] := rfl
@[simp] theorem Device.setErrRing_errs (d : Device) (k : Nat) (e : ErrRing) :
    (d.setErrRing k e).errs = SMap.set (fun _ => {}) d.errs k e := rfl
@[simp] theorem Device.setCq_cqs (d : Device) (p c : Nat) (x : CqState) :
    (d.setCq p c x).cqs = SMap.set (fun _ => {}) d.cqs (qkey p c) x := rfl
@[simp] theorem Device.setQueue_queues (d : Device) (p q : Nat) (cs : List Cmd) :
    (d.setQueue p q cs).queues = SMap.set (fun _ => []) d.queues (qkey p q) cs := Device.setReg_queues _ _ _

end Sys2Proof.Machine
end

