-- ==== Sys2Proof/Laws/Ops.lean ====
section
/-! SUPPORT. What registers, fields and the wrappers of a command give. -/

namespace Sys2Proof.Machine

/-! ### Registers and fields -/

/-- Registers depend on the register map alone. -/
theorem Device.reg_congr {d e : Device} (h : d.regs = e.regs) (r : Reg) : d.reg r = e.reg r := by
  simp only [Device.reg, h]

theorem Device.fld_congr {d e : Device} (h : d.regs = e.regs) (r : Reg) (f : RegField) : d.fld r f = e.fld r f := by
  simp only [Device.fld, Device.reg_congr h]

@[simp] theorem Device.reg_emit (d : Device) (o : Out) (r : Reg) : (d.emit o).reg r = d.reg r := rfl
@[simp] theorem Device.fld_emit (d : Device) (o : Out) (r : Reg) (f : RegField) : (d.emit o).fld r f = d.fld r f := rfl
@[simp] theorem Device.reg_hostWrite (d : Device) (a : Nat) (bs : List Byte) (r : Reg) :
    (d.hostWrite a bs).reg r = d.reg r := rfl
@[simp] theorem Device.reg_memWrite (d : Device) (a : Nat) (bs : List Byte) (r : Reg) :
    (d.memWrite a bs).reg r = d.reg r := rfl
@[simp] theorem Device.reg_setErrRing (d : Device) (k : Nat) (e : ErrRing) (r : Reg) :
    (d.setErrRing k e).reg r = d.reg r := rfl
@[simp] theorem Device.reg_setCq (d : Device) (p c : Nat) (x : CqState) (r : Reg) :
    (d.setCq p c x).reg r = d.reg r := rfl

/-- A register reads what was put into it. -/
@[simp] theorem Device.reg_setReg_self (d : Device) (r : Reg) (w : Word) (h : r.inRange = true) :
    (d.setReg r w).reg r = w := by
  simp [Device.setReg, Device.reg, h]

/-- A write leaves registers at other offsets alone. -/
theorem Device.reg_setReg_ne (d : Device) (r r' : Reg) (w : Word) (h : r'.offset ≠ r.offset) :
    (d.setReg r w).reg r' = d.reg r' := by
  unfold Device.setReg
  split
  · simp only [Device.reg]
    split
    · have key : ∀ m : SMap Word, SMap.get (fun _ => r'.resetValue) (SMap.set (fun _ => r.resetValue) m r.offset w) r'.offset
          = SMap.get (fun _ => r'.resetValue) m r'.offset := fun m => SMap.get_set_other _ _ m r.offset r'.offset w h
      exact key _
    · rfl
  · rfl

/-- A field reads what was put there. -/
theorem Device.fld_setFld_self (d : Device) (r : Reg) (f : RegField) (v : Nat) (h : r.inRange = true)
    (h1 : f.lo ≤ f.hi) (h2 : f.hi < 64) : (d.setFld r f v).fld r f = v % 2 ^ (f.hi + 1 - f.lo) := by
  rw [Device.fld, Device.setFld, Device.reg_setReg_self _ _ _ h, fieldOf_withField_self _ _ _ _ h1 h2]

/-- Another field of the register reads as before. -/
theorem Device.fld_setFld_field (d : Device) (r : Reg) (f g : RegField) (v : Nat) (h1 : f.lo ≤ f.hi) (h2 : f.hi < 64)
    (h3 : g.lo ≤ g.hi) (hd : f.hi < g.lo ∨ g.hi < f.lo) : (d.setFld r f v).fld r g = d.fld r g := by
  rw [Device.fld, Device.fld, Device.setFld]
  cases h : r.inRange with
  | false => simp [Device.reg, h]
  | true =>
    rw [Device.reg_setReg_self _ _ _ h]
    rcases hd with hd | hd
    · exact fieldOf_withField_above _ _ _ _ _ _ h1 h2 hd
    · exact fieldOf_withField_below _ _ _ _ _ _ h1 h2 h3 hd

/-- Fields of registers at other offsets read as before. -/
theorem Device.fld_setFld_ne (d : Device) (r r' : Reg) (f g : RegField) (v : Nat) (h : r'.offset ≠ r.offset) :
    (d.setFld r f v).fld r' g = d.fld r' g := by
  rw [Device.fld, Device.fld, Device.setFld, Device.reg_setReg_ne _ _ _ _ h]

theorem Device.fld_setReg_ne (d : Device) (r r' : Reg) (g : RegField) (w : Word) (h : r'.offset ≠ r.offset) :
    (d.setReg r w).fld r' g = d.fld r' g := by
  rw [Device.fld, Device.fld, Device.reg_setReg_ne _ _ _ _ h]

/-! ### Memory -/

/-- What a byte of module memory reads after a write of bytes. -/
theorem Device.get_memWrite (d : Device) (off a : Nat) (bs : List Byte) :
    SMap.get zeroByte (d.memWrite off bs).mem a =
      if off ≤ a ∧ a < off + bs.length then bs.getD (a - off) 0 else SMap.get zeroByte d.mem a :=
  SMap.get_setList zeroByte d.mem off a bs 0

/-- What a byte of host memory reads after a write of bytes. -/
theorem Device.get_hostWrite (d : Device) (off a : Nat) (bs : List Byte) :
    SMap.get zeroByte (d.hostWrite off bs).hostMem a =
      if off ≤ a ∧ a < off + bs.length then bs.getD (a - off) 0 else SMap.get zeroByte d.hostMem a :=
  SMap.get_setList zeroByte d.hostMem off a bs 0

/-! ### Folds -/

/-- What every step of a fold leaves alone, the fold leaves alone. -/
theorem Device.foldl_frame {α β : Type} (g : Device → α) (f : Device → β → Device) (h : ∀ d b, g (f d b) = g d) (l : List β)
    (d : Device) : g (l.foldl f d) = g d := by
  induction l generalizing d with
  | nil => rfl
  | cons b l ih => simp [ih, h]

/-- The counts of active time write registers alone. -/
theorem Device.fold_setReg_frame {α β : Type} (g : Device → α) (h : ∀ d r w, g (d.setReg r w) = g d) (c : Device → β → Bool)
    (r : β → Reg) (w : Device → β → Word) (l : List β) (d : Device) :
    g (l.foldl (fun d b => if c d b then d.setReg (r b) (w d b) else d) d) = g d := by
  apply Device.foldl_frame
  intro d b; split <;> simp [h]

/-- e is d but for its registers. -/
def Device.OnlyRegs (d e : Device) : Prop := e = { d with regs := e.regs }

theorem Device.OnlyRegs.refl (d : Device) : d.OnlyRegs d := rfl

theorem Device.OnlyRegs.trans {a b c : Device} (h : a.OnlyRegs b) (g : b.OnlyRegs c) : a.OnlyRegs c := by
  unfold Device.OnlyRegs at *
  rw [g]
  generalize c.regs = r
  rw [h]

theorem Device.onlyRegs_setReg (d : Device) (r : Reg) (w : Word) : d.OnlyRegs (d.setReg r w) := by
  unfold Device.OnlyRegs Device.setReg
  split <;> rfl

theorem Device.onlyRegs_foldl {β : Type} (f : Device → β → Device) (h : ∀ (d : Device) (b : β), d.OnlyRegs (f d b)) (l : List β) (d : Device) :
    d.OnlyRegs (l.foldl f d) := by
  induction l generalizing d with
  | nil => exact .refl d
  | cons b l ih => exact (h d b).trans (ih _)

/-! ### The wrappers of a command -/

/-- Nothing waits to be released: settling changes nothing. -/
theorem Device.settleFlows_nil (d : Device) (h : d.flowDone = []) : d.settleFlows = d := by
  unfold Device.settleFlows Device.flowsGo
  simp [h]

/-- A command of the running module. -/
theorem live_awake (f : Device → Device) (s : State) (h : s.dev.awake = true) :
    live f s = .next { s with dev := (f { s.dev with out := [] }).settleFlows } := by
  have : ({ s.dev with out := [] } : Device).awake = true := h
  simp [live, act, this]

/-- A command of the running module where it is without power or in reset. -/
theorem live_asleep (f : Device → Device) (s : State) (h : s.dev.awake = false) :
    live f s = .next { s with dev := { s.dev with out := [] } } := by
  have : ({ s.dev with out := [] } : Device).awake = false := h
  simp [live, act, this]

/-- A command of the running module after which no flow item waits for its release. -/
theorem live_settled (f : Device → Device) (s : State) (h : s.dev.awake = true) (hf : (f { s.dev with out := [] }).flowDone = []) :
    live f s = .next { s with dev := f { s.dev with out := [] } } := by
  rw [live_awake _ _ h, Device.settleFlows_nil _ hf]

/-- A command of the module in service. -/
theorem run_ready (f : Device → Device) (s : State) (h : s.dev.awake = true) (h2 : s.dev.ready = true) :
    run f s = .next { s with dev := (f { s.dev with out := [] }).settleFlows } := by
  have : ({ s.dev with out := [] } : Device).ready = true := h2
  simp only [run]
  rw [live_awake _ _ h]
  simp [this]

end Sys2Proof.Machine
end

