-- ==== Sys2Proof/Laws/Log.lean ====
section
/-! SUPPORT. What logging a record leaves alone: everything but the error rings, the history buffer, the platform events, host
memory, interrupts that pend, what is sent outside, and three kinds of register. -/

namespace Sys2Proof.Machine

/-- The registers that logging may write: RAS_CLASS_COUNT, RAS_STATUS and HIF_PART_STATUS. -/
def logRegs : List Reg := Reg.rasStatus :: ((List.range 8).map Reg.rasClassCount ++ (List.range 8).map Reg.hifPartStatus)

/-- e is d but for what logging may change. -/
structure Device.LogSame (d e : Device) : Prop where
  frame : { e with
    regs := d.regs, errs := d.errs, hist := d.hist, events := d.events, hostMem := d.hostMem, msixPending := d.msixPending, out := d.out } = d
  regs : ∀ r : Reg, r.offset ∉ logRegs.map Reg.offset → e.reg r = d.reg r
  status : ∀ (p : Nat) (f : RegField), f.lo ≤ f.hi → (f.hi < 32 ∨ 47 < f.lo) → e.fld (.hifPartStatus p) f = d.fld (.hifPartStatus p) f

theorem Device.LogSame.refl (d : Device) : d.LogSame d := ⟨rfl, fun _ _ => rfl, fun _ _ _ _ => rfl⟩

theorem Device.LogSame.trans {a b c : Device} (h : a.LogSame b) (g : b.LogSame c) : a.LogSame c := by
  refine ⟨?_, fun r hr => (g.regs r hr).trans (h.regs r hr), fun p f h1 h2 => (g.status p f h1 h2).trans (h.status p f h1 h2)⟩
  have h1 := h.frame
  have h2 := g.frame
  cases a; cases b; cases c
  simp only [Device.mk.injEq, true_and] at h1 h2 ⊢
  simp_all

/-- A step of logging that changes no register and only the parts that logging may change. -/
theorem Device.LogSame.of {d e : Device}
    (h : { e with errs := d.errs, hist := d.hist, events := d.events, hostMem := d.hostMem, msixPending := d.msixPending, out := d.out } =
      d) : d.LogSame e := by
  have hr : e.regs = d.regs := by have := congrArg Device.regs h; exact this
  refine ⟨?_, fun r _ => Device.reg_congr hr r, fun p f _ _ => Device.fld_congr hr _ f⟩
  rw [← hr]; exact h

theorem Device.logSame_setErrRing (d : Device) (k : Nat) (e : ErrRing) : d.LogSame (d.setErrRing k e) := .of rfl
theorem Device.logSame_emit (d : Device) (o : Out) : d.LogSame (d.emit o) := .of rfl
theorem Device.logSame_raise (d : Device) (fn v : Nat) : d.LogSame (d.raise fn v) := by
  unfold Device.raise; split
  · exact .of rfl
  · exact .of rfl
theorem Device.logSame_hostWrite (d : Device) (a : Nat) (bs : List Byte) : d.LogSame (d.hostWrite a bs) := .of rfl

/-- A register outside HIF_PART_STATUS that logging may write. -/
theorem Device.logSame_setReg (d : Device) (r : Reg) (w : Word) (h : r.offset ∈ logRegs.map Reg.offset ∨ r.inRange = false)
    (hs : ∀ p, p < 8 → (Reg.hifPartStatus p).offset ≠ r.offset ∨ r.inRange = false) : d.LogSame (d.setReg r w) := by
  rcases h with h | h
  · refine ⟨?_, fun r' hr => Device.reg_setReg_ne _ _ _ _ fun e => hr (e ▸ h), fun p f _ _ => ?_⟩
    · unfold Device.setReg; split <;> rfl
    · by_cases hp : p < 8
      · rcases hs p hp with hs | hs
        · exact Device.fld_setReg_ne _ _ _ _ _ hs
        · simp [Device.setReg, hs]
      · have : (Reg.hifPartStatus p).inRange = false := by simp [Reg.inRange]; omega
        simp [Device.fld, Device.reg, this]
  · simp only [Device.setReg, h]; exact .refl d

/-- The count of dropped records. -/
theorem Device.logSame_dropped (d : Device) (k v : Nat) : d.LogSame (d.setFld (.hifPartStatus k) Fd.hifPartStatusErrDropped v) := by
  by_cases hk : k < 8
  · have h : (Reg.hifPartStatus k).offset ∈ logRegs.map Reg.offset := by
      simp only [logRegs, List.map_cons, List.mem_cons, List.map_append, List.mem_append, List.map_map]
      right; right; exact List.mem_map.2 ⟨k, List.mem_range.2 hk, rfl⟩
    refine ⟨?_, fun r' hr => Device.reg_setReg_ne _ _ _ _ fun e => hr (e ▸ h), fun p f h1 h2 => ?_⟩
    · unfold Device.setFld Device.setReg; split <;> rfl
    · by_cases e : p = k
      · subst e
        refine Device.fld_setFld_field _ _ _ _ _ (by decide) (by decide) h1 ?_
        rcases h2 with h2 | h2
        · right; simp only [Fd.hifPartStatusErrDropped]; omega
        · left; simp only [Fd.hifPartStatusErrDropped]; omega
      · exact Device.fld_setFld_ne _ _ _ _ _ _ (by simp [Reg.offset]; omega)
  · have : (Reg.hifPartStatus k).inRange = false := by simp [Reg.inRange]; omega
    simp only [Device.setFld, Device.setReg, this]; exact .refl d

theorem logRegs_count (c : Nat) : (Reg.rasClassCount c).offset ∈ logRegs.map Reg.offset ∨ (Reg.rasClassCount c).inRange = false := by
  by_cases h : c < 8
  · left; simp only [logRegs, List.map_cons, List.mem_cons, List.map_append, List.mem_append, List.map_map]
    right; left; exact List.mem_map.2 ⟨c, List.mem_range.2 h, rfl⟩
  · right; simp [Reg.inRange]; omega

theorem logRegs_ras : (Reg.rasStatus).offset ∈ logRegs.map Reg.offset ∨ Reg.rasStatus.inRange = false := by
  left; simp [logRegs]

theorem status_ne_count (c : Nat) : ∀ p, p < 8 → (Reg.hifPartStatus p).offset ≠ (Reg.rasClassCount c).offset ∨ (Reg.rasClassCount c).inRange = false := by
  intro p hp
  by_cases h : c < 8
  · left; simp [Reg.offset]; omega
  · right; simp [Reg.inRange]; omega

theorem status_ne_ras : ∀ p, p < 8 → (Reg.hifPartStatus p).offset ≠ Reg.rasStatus.offset ∨ Reg.rasStatus.inRange = false := by
  intro p hp; left; simp [Reg.offset]; omega

theorem Device.logSame_errRefreshHead (d : Device) (k : Nat) : d.LogSame (d.errRefreshHead k) := by
  unfold Device.errRefreshHead
  dsimp only
  split
  · exact .refl d
  · split
    · exact d.logSame_setErrRing _ _
    · exact .refl d

theorem Device.logSame_errWrite (d : Device) (k : Nat) (r : LogRec) : d.LogSame (d.errWrite k r) := by
  unfold Device.errWrite
  refine (d.logSame_errRefreshHead k).trans ?_
  generalize d.errRefreshHead k = d
  dsimp only
  split
  · exact (((Device.logSame_hostWrite _ _ _).trans (Device.logSame_hostWrite _ _ _)).trans (Device.logSame_setErrRing _ _ _)).trans
      (Device.logSame_raise _ _ _)
  · split
    · exact Device.logSame_dropped _ _ _
    · exact .refl d

theorem Device.logSame_histPush (d : Device) (r : LogRec) (w : Bool) : d.LogSame (d.histPush r w).1 := by
  have h1 : ∀ (d : Device) (l : List HistRec), d.LogSame ({ d with hist := l } : Device).countWaiting := fun d l =>
    (Device.LogSame.of (d := d) (e := { d with hist := l }) rfl).trans (Device.logSame_setReg _ _ _ logRegs_ras status_ne_ras)
  unfold Device.histPush
  dsimp only
  split
  · exact h1 _ _
  · exact (h1 _ _).trans (Device.logSame_setReg _ _ _ logRegs_ras status_ne_ras)

theorem Device.logSame_platformEvent (d : Device) (r : LogRec) : d.LogSame (d.platformEvent r) := by
  unfold Device.platformEvent
  split
  · exact .of rfl
  · exact .refl d

theorem Device.logSame_deliver (d : Device) (k : Nat) (r : LogRec) : d.LogSame (d.deliver k r).1 := by
  unfold Device.deliver
  dsimp only
  split
  · split
    · exact (d.logSame_errWrite k r).trans (Device.logSame_histPush _ _ _)
    · exact d.logSame_errWrite k r
  · split
    · exact d.logSame_histPush _ _
    · split
      · exact d.logSame_histPush _ _
      · exact .refl d

theorem Device.logSame_setStorm (d : Device) (k c : Nat) (s : Storm) : d.LogSame (d.setStorm k c s) := d.logSame_setErrRing _ _

theorem Device.logSame_delivered (d : Device) (k : Nat) (r : LogRec) (s : Storm) : d.LogSame (d.delivered k r s).1 := by
  unfold Device.delivered
  dsimp only
  split
  · exact d.logSame_deliver k r
  · exact (d.logSame_deliver k r).trans (Device.logSame_setStorm _ _ _ _)

theorem Device.logSame_logFuel (n k : Nat) (r : LogRec) (d : Device) : d.LogSame (Device.logFuel n k r d) := by
  induction n generalizing k r d with
  | zero => exact .refl d
  | succ n ih =>
    unfold Device.logFuel
    have h0 : d.LogSame ((d.setReg (.rasClassCount r.cls) (d.reg (.rasClassCount r.cls) + 1)).platformEvent r) :=
      (Device.logSame_setReg _ _ _ (logRegs_count _) (status_ne_count _)).trans (Device.logSame_platformEvent _ _)
    dsimp only
    generalize (d.setReg (.rasClassCount r.cls) (d.reg (.rasClassCount r.cls) + 1)).platformEvent r = e at *
    refine h0.trans ?_
    split
    · have h1 := e.logSame_delivered k r (SMap.at' ({} : Storm) (e.errRing k).storms r.code)
      refine h1.trans ?_
      clear h1
      generalize Device.delivered _ k r _ = x
      obtain ⟨f, o⟩ := x
      cases o with
      | none => exact .refl _
      | some l =>
        dsimp only
        split
        · exact .refl _
        · exact ih _ _ _
    · exact e.logSame_setStorm _ _ _

theorem Device.logSame_log (d : Device) (k : Nat) (r : LogRec) : d.LogSame (d.log k r) := Device.logSame_logFuel _ _ _ _

theorem Device.logSame_logModule (d : Device) (code cls : Nat) (body : List Word) (die part : Nat) :
    d.LogSame (d.logModule code cls body die part) := d.logSame_log _ _

theorem Device.logSame_logPart (d : Device) (p code cls : Nat) (body : List Word) (die : Nat) :
    d.LogSame (d.logPart p code cls body die) := d.logSame_log _ _

theorem Device.logSame_stormEnd (d : Device) (k code : Nat) : d.LogSame (d.stormEnd k code) := by
  unfold Device.stormEnd
  have h0 := d.logSame_setStorm k code {}
  dsimp only
  generalize d.setStorm k code {} = e at *
  refine h0.trans ?_
  cases (SMap.at' ({} : Storm) (d.errRing k).storms code).last with
  | none => exact .refl _
  | some r =>
    dsimp only
    have h1 := e.logSame_deliver k { r with suppressed := (SMap.at' ({} : Storm) (d.errRing k).storms code).suppressed - 1 }
    generalize e.deliver k _ = x at *
    obtain ⟨f, o⟩ := x
    cases o with
    | none => exact h1
    | some l =>
      refine h1.trans ?_
      dsimp only
      split
      · exact .refl _
      · exact Device.logSame_logModule _ _ _ _ _ _

/-! ### The frame, field by field -/

theorem Device.LogSame.pins {d e : Device} (h : d.LogSame e) : e.pins = d.pins := (congrArg Device.pins h.frame : _)
theorem Device.LogSame.flash {d e : Device} (h : d.LogSame e) : e.flash = d.flash := (congrArg Device.flash h.frame : _)
theorem Device.LogSame.boot {d e : Device} (h : d.LogSame e) : e.boot = d.boot := (congrArg Device.boot h.frame : _)
theorem Device.LogSame.now {d e : Device} (h : d.LogSame e) : e.now = d.now := (congrArg Device.now h.frame : _)
theorem Device.LogSame.mem {d e : Device} (h : d.LogSame e) : e.mem = d.mem := (congrArg Device.mem h.frame : _)
theorem Device.LogSame.side {d e : Device} (h : d.LogSame e) : e.side = d.side := (congrArg Device.side h.frame : _)
theorem Device.LogSame.far {d e : Device} (h : d.LogSame e) : e.far = d.far := (congrArg Device.far h.frame : _)
theorem Device.LogSame.farSide {d e : Device} (h : d.LogSame e) : e.farSide = d.farSide := (congrArg Device.farSide h.frame : _)
theorem Device.LogSame.hostBad {d e : Device} (h : d.LogSame e) : e.hostBad = d.hostBad := (congrArg Device.hostBad h.frame : _)
theorem Device.LogSame.badReads {d e : Device} (h : d.LogSame e) : e.badReads = d.badReads := (congrArg Device.badReads h.frame : _)
theorem Device.LogSame.remoteBad {d e : Device} (h : d.LogSame e) : e.remoteBad = d.remoteBad := (congrArg Device.remoteBad h.frame : _)
theorem Device.LogSame.tlb {d e : Device} (h : d.LogSame e) : e.tlb = d.tlb := (congrArg Device.tlb h.frame : _)
theorem Device.LogSame.handles {d e : Device} (h : d.LogSame e) : e.handles = d.handles := (congrArg Device.handles h.frame : _)
theorem Device.LogSame.streams {d e : Device} (h : d.LogSame e) : e.streams = d.streams := (congrArg Device.streams h.frame : _)
theorem Device.LogSame.injectors {d e : Device} (h : d.LogSame e) : e.injectors = d.injectors := (congrArg Device.injectors h.frame : _)
theorem Device.LogSame.sqs {d e : Device} (h : d.LogSame e) : e.sqs = d.sqs := (congrArg Device.sqs h.frame : _)
theorem Device.LogSame.cqs {d e : Device} (h : d.LogSame e) : e.cqs = d.cqs := (congrArg Device.cqs h.frame : _)
theorem Device.LogSame.queues {d e : Device} (h : d.LogSame e) : e.queues = d.queues := (congrArg Device.queues h.frame : _)
theorem Device.LogSame.objs {d e : Device} (h : d.LogSame e) : e.objs = d.objs := (congrArg Device.objs h.frame : _)
theorem Device.LogSame.flows {d e : Device} (h : d.LogSame e) : e.flows = d.flows := (congrArg Device.flows h.frame : _)
theorem Device.LogSame.layout {d e : Device} (h : d.LogSame e) : e.layout = d.layout := (congrArg Device.layout h.frame : _)
theorem Device.LogSame.cores {d e : Device} (h : d.LogSame e) : e.cores = d.cores := (congrArg Device.cores h.frame : _)
theorem Device.LogSame.readyLists {d e : Device} (h : d.LogSame e) : e.readyLists = d.readyLists := (congrArg Device.readyLists h.frame : _)
theorem Device.LogSame.rr {d e : Device} (h : d.LogSame e) : e.rr = d.rr := (congrArg Device.rr h.frame : _)
theorem Device.LogSame.left {d e : Device} (h : d.LogSame e) : e.left = d.left := (congrArg Device.left h.frame : _)
theorem Device.LogSame.readyStamp {d e : Device} (h : d.LogSame e) : e.readyStamp = d.readyStamp := (congrArg Device.readyStamp h.frame : _)
theorem Device.LogSame.pmemHeld {d e : Device} (h : d.LogSame e) : e.pmemHeld = d.pmemHeld := (congrArg Device.pmemHeld h.frame : _)
theorem Device.LogSame.ptmOn {d e : Device} (h : d.LogSame e) : e.ptmOn = d.ptmOn := (congrArg Device.ptmOn h.frame : _)
theorem Device.LogSame.link {d e : Device} (h : d.LogSame e) : e.link = d.link := (congrArg Device.link h.frame : _)
theorem Device.LogSame.unmasked {d e : Device} (h : d.LogSame e) : e.unmasked = d.unmasked := (congrArg Device.unmasked h.frame : _)
theorem Device.LogSame.contribStalled {d e : Device} (h : d.LogSame e) : e.contribStalled = d.contribStalled := (congrArg Device.contribStalled h.frame : _)
theorem Device.LogSame.waiterEpisode {d e : Device} (h : d.LogSame e) : e.waiterEpisode = d.waiterEpisode := (congrArg Device.waiterEpisode h.frame : _)
theorem Device.LogSame.vfs {d e : Device} (h : d.LogSame e) : e.vfs = d.vfs := (congrArg Device.vfs h.frame : _)
theorem Device.LogSame.d3 {d e : Device} (h : d.LogSame e) : e.d3 = d.d3 := (congrArg Device.d3 h.frame : _)
theorem Device.LogSame.ptm {d e : Device} (h : d.LogSame e) : e.ptm = d.ptm := (congrArg Device.ptm h.frame : _)
theorem Device.LogSame.power {d e : Device} (h : d.LogSame e) : e.power = d.power := (congrArg Device.power h.frame : _)
theorem Device.LogSame.parts {d e : Device} (h : d.LogSame e) : e.parts = d.parts := (congrArg Device.parts h.frame : _)
theorem Device.LogSame.flowDone {d e : Device} (h : d.LogSame e) : e.flowDone = d.flowDone := (congrArg Device.flowDone h.frame : _)
theorem Device.LogSame.directory {d e : Device} (h : d.LogSame e) : e.directory = d.directory := (congrArg Device.directory h.frame : _)
theorem Device.LogSame.enable {d e : Device} (h : d.LogSame e) : e.enable = d.enable := (congrArg Device.enable h.frame : _)
theorem Device.LogSame.enabled {d e : Device} (h : d.LogSame e) : e.enabled = d.enabled := (congrArg Device.enabled h.frame : _)
theorem Device.LogSame.time {d e : Device} (h : d.LogSame e) : e.time = d.time := (congrArg Device.time h.frame : _)
theorem Device.LogSame.levelOut {d e : Device} (h : d.LogSame e) : e.levelOut = d.levelOut := (congrArg Device.levelOut h.frame : _)
theorem Device.LogSame.ports {d e : Device} (h : d.LogSame e) : e.ports = d.ports := (congrArg Device.ports h.frame : _)
theorem Device.LogSame.txWait {d e : Device} (h : d.LogSame e) : e.txWait = d.txWait := (congrArg Device.txWait h.frame : _)
theorem Device.LogSame.reqs {d e : Device} (h : d.LogSame e) : e.reqs = d.reqs := (congrArg Device.reqs h.frame : _)
theorem Device.LogSame.nextReq {d e : Device} (h : d.LogSame e) : e.nextReq = d.nextReq := (congrArg Device.nextReq h.frame : _)
theorem Device.LogSame.outFlows {d e : Device} (h : d.LogSame e) : e.outFlows = d.outFlows := (congrArg Device.outFlows h.frame : _)
theorem Device.LogSame.landing {d e : Device} (h : d.LogSame e) : e.landing = d.landing := (congrArg Device.landing h.frame : _)
theorem Device.LogSame.heldReads {d e : Device} (h : d.LogSame e) : e.heldReads = d.heldReads := (congrArg Device.heldReads h.frame : _)
theorem Device.LogSame.groups {d e : Device} (h : d.LogSame e) : e.groups = d.groups := (congrArg Device.groups h.frame : _)
theorem Device.LogSame.collData {d e : Device} (h : d.LogSame e) : e.collData = d.collData := (congrArg Device.collData h.frame : _)
theorem Device.LogSame.heldSignals {d e : Device} (h : d.LogSame e) : e.heldSignals = d.heldSignals := (congrArg Device.heldSignals h.frame : _)
theorem Device.LogSame.resets {d e : Device} (h : d.LogSame e) : e.resets = d.resets := (congrArg Device.resets h.frame : _)
theorem Device.LogSame.groupsKept {d e : Device} (h : d.LogSame e) : e.groupsKept = d.groupsKept := (congrArg Device.groupsKept h.frame : _)
theorem Device.LogSame.groupsDropped {d e : Device} (h : d.LogSame e) : e.groupsDropped = d.groupsDropped := (congrArg Device.groupsDropped h.frame : _)
theorem Device.LogSame.saves {d e : Device} (h : d.LogSame e) : e.saves = d.saves := (congrArg Device.saves h.frame : _)
theorem Device.LogSame.saving {d e : Device} (h : d.LogSame e) : e.saving = d.saving := (congrArg Device.saving h.frame : _)
theorem Device.LogSame.mgmt {d e : Device} (h : d.LogSame e) : e.mgmt = d.mgmt := (congrArg Device.mgmt h.frame : _)
theorem Device.LogSame.free {d e : Device} (h : d.LogSame e) : e.free = d.free := (congrArg Device.free h.frame : _)

@[simp] theorem Device.log_pins (d : Device) (k : Nat) (r : LogRec) : (d.log k r).pins = d.pins := (d.logSame_log k r).pins
@[simp] theorem Device.log_flash (d : Device) (k : Nat) (r : LogRec) : (d.log k r).flash = d.flash := (d.logSame_log k r).flash
@[simp] theorem Device.log_boot (d : Device) (k : Nat) (r : LogRec) : (d.log k r).boot = d.boot := (d.logSame_log k r).boot
@[simp] theorem Device.log_now (d : Device) (k : Nat) (r : LogRec) : (d.log k r).now = d.now := (d.logSame_log k r).now
@[simp] theorem Device.log_mem (d : Device) (k : Nat) (r : LogRec) : (d.log k r).mem = d.mem := (d.logSame_log k r).mem
@[simp] theorem Device.log_side (d : Device) (k : Nat) (r : LogRec) : (d.log k r).side = d.side := (d.logSame_log k r).side
@[simp] theorem Device.log_far (d : Device) (k : Nat) (r : LogRec) : (d.log k r).far = d.far := (d.logSame_log k r).far
@[simp] theorem Device.log_farSide (d : Device) (k : Nat) (r : LogRec) : (d.log k r).farSide = d.farSide := (d.logSame_log k r).farSide
@[simp] theorem Device.log_hostBad (d : Device) (k : Nat) (r : LogRec) : (d.log k r).hostBad = d.hostBad := (d.logSame_log k r).hostBad
@[simp] theorem Device.log_badReads (d : Device) (k : Nat) (r : LogRec) : (d.log k r).badReads = d.badReads := (d.logSame_log k r).badReads
@[simp] theorem Device.log_remoteBad (d : Device) (k : Nat) (r : LogRec) : (d.log k r).remoteBad = d.remoteBad := (d.logSame_log k r).remoteBad
@[simp] theorem Device.log_tlb (d : Device) (k : Nat) (r : LogRec) : (d.log k r).tlb = d.tlb := (d.logSame_log k r).tlb
@[simp] theorem Device.log_handles (d : Device) (k : Nat) (r : LogRec) : (d.log k r).handles = d.handles := (d.logSame_log k r).handles
@[simp] theorem Device.log_streams (d : Device) (k : Nat) (r : LogRec) : (d.log k r).streams = d.streams := (d.logSame_log k r).streams
@[simp] theorem Device.log_injectors (d : Device) (k : Nat) (r : LogRec) : (d.log k r).injectors = d.injectors := (d.logSame_log k r).injectors
@[simp] theorem Device.log_sqs (d : Device) (k : Nat) (r : LogRec) : (d.log k r).sqs = d.sqs := (d.logSame_log k r).sqs
@[simp] theorem Device.log_cqs (d : Device) (k : Nat) (r : LogRec) : (d.log k r).cqs = d.cqs := (d.logSame_log k r).cqs
@[simp] theorem Device.log_queues (d : Device) (k : Nat) (r : LogRec) : (d.log k r).queues = d.queues := (d.logSame_log k r).queues
@[simp] theorem Device.log_objs (d : Device) (k : Nat) (r : LogRec) : (d.log k r).objs = d.objs := (d.logSame_log k r).objs
@[simp] theorem Device.log_flows (d : Device) (k : Nat) (r : LogRec) : (d.log k r).flows = d.flows := (d.logSame_log k r).flows
@[simp] theorem Device.log_layout (d : Device) (k : Nat) (r : LogRec) : (d.log k r).layout = d.layout := (d.logSame_log k r).layout
@[simp] theorem Device.log_cores (d : Device) (k : Nat) (r : LogRec) : (d.log k r).cores = d.cores := (d.logSame_log k r).cores
@[simp] theorem Device.log_readyLists (d : Device) (k : Nat) (r : LogRec) : (d.log k r).readyLists = d.readyLists := (d.logSame_log k r).readyLists
@[simp] theorem Device.log_rr (d : Device) (k : Nat) (r : LogRec) : (d.log k r).rr = d.rr := (d.logSame_log k r).rr
@[simp] theorem Device.log_left (d : Device) (k : Nat) (r : LogRec) : (d.log k r).left = d.left := (d.logSame_log k r).left
@[simp] theorem Device.log_readyStamp (d : Device) (k : Nat) (r : LogRec) : (d.log k r).readyStamp = d.readyStamp := (d.logSame_log k r).readyStamp
@[simp] theorem Device.log_pmemHeld (d : Device) (k : Nat) (r : LogRec) : (d.log k r).pmemHeld = d.pmemHeld := (d.logSame_log k r).pmemHeld
@[simp] theorem Device.log_ptmOn (d : Device) (k : Nat) (r : LogRec) : (d.log k r).ptmOn = d.ptmOn := (d.logSame_log k r).ptmOn
@[simp] theorem Device.log_link (d : Device) (k : Nat) (r : LogRec) : (d.log k r).link = d.link := (d.logSame_log k r).link
@[simp] theorem Device.log_unmasked (d : Device) (k : Nat) (r : LogRec) : (d.log k r).unmasked = d.unmasked := (d.logSame_log k r).unmasked
@[simp] theorem Device.log_contribStalled (d : Device) (k : Nat) (r : LogRec) : (d.log k r).contribStalled = d.contribStalled := (d.logSame_log k r).contribStalled
@[simp] theorem Device.log_waiterEpisode (d : Device) (k : Nat) (r : LogRec) : (d.log k r).waiterEpisode = d.waiterEpisode := (d.logSame_log k r).waiterEpisode
@[simp] theorem Device.log_vfs (d : Device) (k : Nat) (r : LogRec) : (d.log k r).vfs = d.vfs := (d.logSame_log k r).vfs
@[simp] theorem Device.log_d3 (d : Device) (k : Nat) (r : LogRec) : (d.log k r).d3 = d.d3 := (d.logSame_log k r).d3
@[simp] theorem Device.log_ptm (d : Device) (k : Nat) (r : LogRec) : (d.log k r).ptm = d.ptm := (d.logSame_log k r).ptm
@[simp] theorem Device.log_power (d : Device) (k : Nat) (r : LogRec) : (d.log k r).power = d.power := (d.logSame_log k r).power
@[simp] theorem Device.log_parts (d : Device) (k : Nat) (r : LogRec) : (d.log k r).parts = d.parts := (d.logSame_log k r).parts
@[simp] theorem Device.log_flowDone (d : Device) (k : Nat) (r : LogRec) : (d.log k r).flowDone = d.flowDone := (d.logSame_log k r).flowDone
@[simp] theorem Device.log_directory (d : Device) (k : Nat) (r : LogRec) : (d.log k r).directory = d.directory := (d.logSame_log k r).directory
@[simp] theorem Device.log_enable (d : Device) (k : Nat) (r : LogRec) : (d.log k r).enable = d.enable := (d.logSame_log k r).enable
@[simp] theorem Device.log_enabled (d : Device) (k : Nat) (r : LogRec) : (d.log k r).enabled = d.enabled := (d.logSame_log k r).enabled
@[simp] theorem Device.log_time (d : Device) (k : Nat) (r : LogRec) : (d.log k r).time = d.time := (d.logSame_log k r).time
@[simp] theorem Device.log_levelOut (d : Device) (k : Nat) (r : LogRec) : (d.log k r).levelOut = d.levelOut := (d.logSame_log k r).levelOut
@[simp] theorem Device.log_ports (d : Device) (k : Nat) (r : LogRec) : (d.log k r).ports = d.ports := (d.logSame_log k r).ports
@[simp] theorem Device.log_txWait (d : Device) (k : Nat) (r : LogRec) : (d.log k r).txWait = d.txWait := (d.logSame_log k r).txWait
@[simp] theorem Device.log_reqs (d : Device) (k : Nat) (r : LogRec) : (d.log k r).reqs = d.reqs := (d.logSame_log k r).reqs
@[simp] theorem Device.log_nextReq (d : Device) (k : Nat) (r : LogRec) : (d.log k r).nextReq = d.nextReq := (d.logSame_log k r).nextReq
@[simp] theorem Device.log_outFlows (d : Device) (k : Nat) (r : LogRec) : (d.log k r).outFlows = d.outFlows := (d.logSame_log k r).outFlows
@[simp] theorem Device.log_landing (d : Device) (k : Nat) (r : LogRec) : (d.log k r).landing = d.landing := (d.logSame_log k r).landing
@[simp] theorem Device.log_heldReads (d : Device) (k : Nat) (r : LogRec) : (d.log k r).heldReads = d.heldReads := (d.logSame_log k r).heldReads
@[simp] theorem Device.log_groups (d : Device) (k : Nat) (r : LogRec) : (d.log k r).groups = d.groups := (d.logSame_log k r).groups
@[simp] theorem Device.log_collData (d : Device) (k : Nat) (r : LogRec) : (d.log k r).collData = d.collData := (d.logSame_log k r).collData
@[simp] theorem Device.log_heldSignals (d : Device) (k : Nat) (r : LogRec) : (d.log k r).heldSignals = d.heldSignals := (d.logSame_log k r).heldSignals
@[simp] theorem Device.log_resets (d : Device) (k : Nat) (r : LogRec) : (d.log k r).resets = d.resets := (d.logSame_log k r).resets
@[simp] theorem Device.log_groupsKept (d : Device) (k : Nat) (r : LogRec) : (d.log k r).groupsKept = d.groupsKept := (d.logSame_log k r).groupsKept
@[simp] theorem Device.log_groupsDropped (d : Device) (k : Nat) (r : LogRec) : (d.log k r).groupsDropped = d.groupsDropped := (d.logSame_log k r).groupsDropped
@[simp] theorem Device.log_saves (d : Device) (k : Nat) (r : LogRec) : (d.log k r).saves = d.saves := (d.logSame_log k r).saves
@[simp] theorem Device.log_saving (d : Device) (k : Nat) (r : LogRec) : (d.log k r).saving = d.saving := (d.logSame_log k r).saving
@[simp] theorem Device.log_mgmt (d : Device) (k : Nat) (r : LogRec) : (d.log k r).mgmt = d.mgmt := (d.logSame_log k r).mgmt
@[simp] theorem Device.log_free (d : Device) (k : Nat) (r : LogRec) : (d.log k r).free = d.free := (d.logSame_log k r).free

@[simp] theorem Device.logModule_pins (d : Device) (c l : Nat) (b : List Word) (x p : Nat) : (d.logModule c l b x p).pins = d.pins := (d.logSame_logModule c l b x p).pins
@[simp] theorem Device.logModule_flash (d : Device) (c l : Nat) (b : List Word) (x p : Nat) : (d.logModule c l b x p).flash = d.flash := (d.logSame_logModule c l b x p).flash
@[simp] theorem Device.logModule_boot (d : Device) (c l : Nat) (b : List Word) (x p : Nat) : (d.logModule c l b x p).boot = d.boot := (d.logSame_logModule c l b x p).boot
@[simp] theorem Device.logModule_now (d : Device) (c l : Nat) (b : List Word) (x p : Nat) : (d.logModule c l b x p).now = d.now := (d.logSame_logModule c l b x p).now
@[simp] theorem Device.logModule_mem (d : Device) (c l : Nat) (b : List Word) (x p : Nat) : (d.logModule c l b x p).mem = d.mem := (d.logSame_logModule c l b x p).mem
@[simp] theorem Device.logModule_side (d : Device) (c l : Nat) (b : List Word) (x p : Nat) : (d.logModule c l b x p).side = d.side := (d.logSame_logModule c l b x p).side
@[simp] theorem Device.logModule_far (d : Device) (c l : Nat) (b : List Word) (x p : Nat) : (d.logModule c l b x p).far = d.far := (d.logSame_logModule c l b x p).far
@[simp] theorem Device.logModule_farSide (d : Device) (c l : Nat) (b : List Word) (x p : Nat) : (d.logModule c l b x p).farSide = d.farSide := (d.logSame_logModule c l b x p).farSide
@[simp] theorem Device.logModule_hostBad (d : Device) (c l : Nat) (b : List Word) (x p : Nat) : (d.logModule c l b x p).hostBad = d.hostBad := (d.logSame_logModule c l b x p).hostBad
@[simp] theorem Device.logModule_badReads (d : Device) (c l : Nat) (b : List Word) (x p : Nat) : (d.logModule c l b x p).badReads = d.badReads := (d.logSame_logModule c l b x p).badReads
@[simp] theorem Device.logModule_remoteBad (d : Device) (c l : Nat) (b : List Word) (x p : Nat) : (d.logModule c l b x p).remoteBad = d.remoteBad := (d.logSame_logModule c l b x p).remoteBad
@[simp] theorem Device.logModule_tlb (d : Device) (c l : Nat) (b : List Word) (x p : Nat) : (d.logModule c l b x p).tlb = d.tlb := (d.logSame_logModule c l b x p).tlb
@[simp] theorem Device.logModule_handles (d : Device) (c l : Nat) (b : List Word) (x p : Nat) : (d.logModule c l b x p).handles = d.handles := (d.logSame_logModule c l b x p).handles
@[simp] theorem Device.logModule_streams (d : Device) (c l : Nat) (b : List Word) (x p : Nat) : (d.logModule c l b x p).streams = d.streams := (d.logSame_logModule c l b x p).streams
@[simp] theorem Device.logModule_injectors (d : Device) (c l : Nat) (b : List Word) (x p : Nat) : (d.logModule c l b x p).injectors = d.injectors := (d.logSame_logModule c l b x p).injectors
@[simp] theorem Device.logModule_sqs (d : Device) (c l : Nat) (b : List Word) (x p : Nat) : (d.logModule c l b x p).sqs = d.sqs := (d.logSame_logModule c l b x p).sqs
@[simp] theorem Device.logModule_cqs (d : Device) (c l : Nat) (b : List Word) (x p : Nat) : (d.logModule c l b x p).cqs = d.cqs := (d.logSame_logModule c l b x p).cqs
@[simp] theorem Device.logModule_queues (d : Device) (c l : Nat) (b : List Word) (x p : Nat) : (d.logModule c l b x p).queues = d.queues := (d.logSame_logModule c l b x p).queues
@[simp] theorem Device.logModule_objs (d : Device) (c l : Nat) (b : List Word) (x p : Nat) : (d.logModule c l b x p).objs = d.objs := (d.logSame_logModule c l b x p).objs
@[simp] theorem Device.logModule_flows (d : Device) (c l : Nat) (b : List Word) (x p : Nat) : (d.logModule c l b x p).flows = d.flows := (d.logSame_logModule c l b x p).flows
@[simp] theorem Device.logModule_layout (d : Device) (c l : Nat) (b : List Word) (x p : Nat) : (d.logModule c l b x p).layout = d.layout := (d.logSame_logModule c l b x p).layout
@[simp] theorem Device.logModule_cores (d : Device) (c l : Nat) (b : List Word) (x p : Nat) : (d.logModule c l b x p).cores = d.cores := (d.logSame_logModule c l b x p).cores
@[simp] theorem Device.logModule_readyLists (d : Device) (c l : Nat) (b : List Word) (x p : Nat) : (d.logModule c l b x p).readyLists = d.readyLists := (d.logSame_logModule c l b x p).readyLists
@[simp] theorem Device.logModule_rr (d : Device) (c l : Nat) (b : List Word) (x p : Nat) : (d.logModule c l b x p).rr = d.rr := (d.logSame_logModule c l b x p).rr
@[simp] theorem Device.logModule_left (d : Device) (c l : Nat) (b : List Word) (x p : Nat) : (d.logModule c l b x p).left = d.left := (d.logSame_logModule c l b x p).left
@[simp] theorem Device.logModule_readyStamp (d : Device) (c l : Nat) (b : List Word) (x p : Nat) : (d.logModule c l b x p).readyStamp = d.readyStamp := (d.logSame_logModule c l b x p).readyStamp
@[simp] theorem Device.logModule_pmemHeld (d : Device) (c l : Nat) (b : List Word) (x p : Nat) : (d.logModule c l b x p).pmemHeld = d.pmemHeld := (d.logSame_logModule c l b x p).pmemHeld
@[simp] theorem Device.logModule_ptmOn (d : Device) (c l : Nat) (b : List Word) (x p : Nat) : (d.logModule c l b x p).ptmOn = d.ptmOn := (d.logSame_logModule c l b x p).ptmOn
@[simp] theorem Device.logModule_link (d : Device) (c l : Nat) (b : List Word) (x p : Nat) : (d.logModule c l b x p).link = d.link := (d.logSame_logModule c l b x p).link
@[simp] theorem Device.logModule_unmasked (d : Device) (c l : Nat) (b : List Word) (x p : Nat) : (d.logModule c l b x p).unmasked = d.unmasked := (d.logSame_logModule c l b x p).unmasked
@[simp] theorem Device.logModule_contribStalled (d : Device) (c l : Nat) (b : List Word) (x p : Nat) : (d.logModule c l b x p).contribStalled = d.contribStalled := (d.logSame_logModule c l b x p).contribStalled
@[simp] theorem Device.logModule_waiterEpisode (d : Device) (c l : Nat) (b : List Word) (x p : Nat) : (d.logModule c l b x p).waiterEpisode = d.waiterEpisode := (d.logSame_logModule c l b x p).waiterEpisode
@[simp] theorem Device.logModule_vfs (d : Device) (c l : Nat) (b : List Word) (x p : Nat) : (d.logModule c l b x p).vfs = d.vfs := (d.logSame_logModule c l b x p).vfs
@[simp] theorem Device.logModule_d3 (d : Device) (c l : Nat) (b : List Word) (x p : Nat) : (d.logModule c l b x p).d3 = d.d3 := (d.logSame_logModule c l b x p).d3
@[simp] theorem Device.logModule_ptm (d : Device) (c l : Nat) (b : List Word) (x p : Nat) : (d.logModule c l b x p).ptm = d.ptm := (d.logSame_logModule c l b x p).ptm
@[simp] theorem Device.logModule_power (d : Device) (c l : Nat) (b : List Word) (x p : Nat) : (d.logModule c l b x p).power = d.power := (d.logSame_logModule c l b x p).power
@[simp] theorem Device.logModule_parts (d : Device) (c l : Nat) (b : List Word) (x p : Nat) : (d.logModule c l b x p).parts = d.parts := (d.logSame_logModule c l b x p).parts
@[simp] theorem Device.logModule_flowDone (d : Device) (c l : Nat) (b : List Word) (x p : Nat) : (d.logModule c l b x p).flowDone = d.flowDone := (d.logSame_logModule c l b x p).flowDone
@[simp] theorem Device.logModule_directory (d : Device) (c l : Nat) (b : List Word) (x p : Nat) : (d.logModule c l b x p).directory = d.directory := (d.logSame_logModule c l b x p).directory
@[simp] theorem Device.logModule_enable (d : Device) (c l : Nat) (b : List Word) (x p : Nat) : (d.logModule c l b x p).enable = d.enable := (d.logSame_logModule c l b x p).enable
@[simp] theorem Device.logModule_enabled (d : Device) (c l : Nat) (b : List Word) (x p : Nat) : (d.logModule c l b x p).enabled = d.enabled := (d.logSame_logModule c l b x p).enabled
@[simp] theorem Device.logModule_time (d : Device) (c l : Nat) (b : List Word) (x p : Nat) : (d.logModule c l b x p).time = d.time := (d.logSame_logModule c l b x p).time
@[simp] theorem Device.logModule_levelOut (d : Device) (c l : Nat) (b : List Word) (x p : Nat) : (d.logModule c l b x p).levelOut = d.levelOut := (d.logSame_logModule c l b x p).levelOut
@[simp] theorem Device.logModule_ports (d : Device) (c l : Nat) (b : List Word) (x p : Nat) : (d.logModule c l b x p).ports = d.ports := (d.logSame_logModule c l b x p).ports
@[simp] theorem Device.logModule_txWait (d : Device) (c l : Nat) (b : List Word) (x p : Nat) : (d.logModule c l b x p).txWait = d.txWait := (d.logSame_logModule c l b x p).txWait
@[simp] theorem Device.logModule_reqs (d : Device) (c l : Nat) (b : List Word) (x p : Nat) : (d.logModule c l b x p).reqs = d.reqs := (d.logSame_logModule c l b x p).reqs
@[simp] theorem Device.logModule_nextReq (d : Device) (c l : Nat) (b : List Word) (x p : Nat) : (d.logModule c l b x p).nextReq = d.nextReq := (d.logSame_logModule c l b x p).nextReq
@[simp] theorem Device.logModule_outFlows (d : Device) (c l : Nat) (b : List Word) (x p : Nat) : (d.logModule c l b x p).outFlows = d.outFlows := (d.logSame_logModule c l b x p).outFlows
@[simp] theorem Device.logModule_landing (d : Device) (c l : Nat) (b : List Word) (x p : Nat) : (d.logModule c l b x p).landing = d.landing := (d.logSame_logModule c l b x p).landing
@[simp] theorem Device.logModule_heldReads (d : Device) (c l : Nat) (b : List Word) (x p : Nat) : (d.logModule c l b x p).heldReads = d.heldReads := (d.logSame_logModule c l b x p).heldReads
@[simp] theorem Device.logModule_groups (d : Device) (c l : Nat) (b : List Word) (x p : Nat) : (d.logModule c l b x p).groups = d.groups := (d.logSame_logModule c l b x p).groups
@[simp] theorem Device.logModule_collData (d : Device) (c l : Nat) (b : List Word) (x p : Nat) : (d.logModule c l b x p).collData = d.collData := (d.logSame_logModule c l b x p).collData
@[simp] theorem Device.logModule_heldSignals (d : Device) (c l : Nat) (b : List Word) (x p : Nat) : (d.logModule c l b x p).heldSignals = d.heldSignals := (d.logSame_logModule c l b x p).heldSignals
@[simp] theorem Device.logModule_resets (d : Device) (c l : Nat) (b : List Word) (x p : Nat) : (d.logModule c l b x p).resets = d.resets := (d.logSame_logModule c l b x p).resets
@[simp] theorem Device.logModule_groupsKept (d : Device) (c l : Nat) (b : List Word) (x p : Nat) : (d.logModule c l b x p).groupsKept = d.groupsKept := (d.logSame_logModule c l b x p).groupsKept
@[simp] theorem Device.logModule_groupsDropped (d : Device) (c l : Nat) (b : List Word) (x p : Nat) : (d.logModule c l b x p).groupsDropped = d.groupsDropped := (d.logSame_logModule c l b x p).groupsDropped
@[simp] theorem Device.logModule_saves (d : Device) (c l : Nat) (b : List Word) (x p : Nat) : (d.logModule c l b x p).saves = d.saves := (d.logSame_logModule c l b x p).saves
@[simp] theorem Device.logModule_saving (d : Device) (c l : Nat) (b : List Word) (x p : Nat) : (d.logModule c l b x p).saving = d.saving := (d.logSame_logModule c l b x p).saving
@[simp] theorem Device.logModule_mgmt (d : Device) (c l : Nat) (b : List Word) (x p : Nat) : (d.logModule c l b x p).mgmt = d.mgmt := (d.logSame_logModule c l b x p).mgmt
@[simp] theorem Device.logModule_free (d : Device) (c l : Nat) (b : List Word) (x p : Nat) : (d.logModule c l b x p).free = d.free := (d.logSame_logModule c l b x p).free

@[simp] theorem Device.logPart_pins (d : Device) (p c l : Nat) (b : List Word) (x : Nat) : (d.logPart p c l b x).pins = d.pins := (d.logSame_logPart p c l b x).pins
@[simp] theorem Device.logPart_flash (d : Device) (p c l : Nat) (b : List Word) (x : Nat) : (d.logPart p c l b x).flash = d.flash := (d.logSame_logPart p c l b x).flash
@[simp] theorem Device.logPart_boot (d : Device) (p c l : Nat) (b : List Word) (x : Nat) : (d.logPart p c l b x).boot = d.boot := (d.logSame_logPart p c l b x).boot
@[simp] theorem Device.logPart_now (d : Device) (p c l : Nat) (b : List Word) (x : Nat) : (d.logPart p c l b x).now = d.now := (d.logSame_logPart p c l b x).now
@[simp] theorem Device.logPart_mem (d : Device) (p c l : Nat) (b : List Word) (x : Nat) : (d.logPart p c l b x).mem = d.mem := (d.logSame_logPart p c l b x).mem
@[simp] theorem Device.logPart_side (d : Device) (p c l : Nat) (b : List Word) (x : Nat) : (d.logPart p c l b x).side = d.side := (d.logSame_logPart p c l b x).side
@[simp] theorem Device.logPart_far (d : Device) (p c l : Nat) (b : List Word) (x : Nat) : (d.logPart p c l b x).far = d.far := (d.logSame_logPart p c l b x).far
@[simp] theorem Device.logPart_farSide (d : Device) (p c l : Nat) (b : List Word) (x : Nat) : (d.logPart p c l b x).farSide = d.farSide := (d.logSame_logPart p c l b x).farSide
@[simp] theorem Device.logPart_hostBad (d : Device) (p c l : Nat) (b : List Word) (x : Nat) : (d.logPart p c l b x).hostBad = d.hostBad := (d.logSame_logPart p c l b x).hostBad
@[simp] theorem Device.logPart_badReads (d : Device) (p c l : Nat) (b : List Word) (x : Nat) : (d.logPart p c l b x).badReads = d.badReads := (d.logSame_logPart p c l b x).badReads
@[simp] theorem Device.logPart_remoteBad (d : Device) (p c l : Nat) (b : List Word) (x : Nat) : (d.logPart p c l b x).remoteBad = d.remoteBad := (d.logSame_logPart p c l b x).remoteBad
@[simp] theorem Device.logPart_tlb (d : Device) (p c l : Nat) (b : List Word) (x : Nat) : (d.logPart p c l b x).tlb = d.tlb := (d.logSame_logPart p c l b x).tlb
@[simp] theorem Device.logPart_handles (d : Device) (p c l : Nat) (b : List Word) (x : Nat) : (d.logPart p c l b x).handles = d.handles := (d.logSame_logPart p c l b x).handles
@[simp] theorem Device.logPart_streams (d : Device) (p c l : Nat) (b : List Word) (x : Nat) : (d.logPart p c l b x).streams = d.streams := (d.logSame_logPart p c l b x).streams
@[simp] theorem Device.logPart_injectors (d : Device) (p c l : Nat) (b : List Word) (x : Nat) : (d.logPart p c l b x).injectors = d.injectors := (d.logSame_logPart p c l b x).injectors
@[simp] theorem Device.logPart_sqs (d : Device) (p c l : Nat) (b : List Word) (x : Nat) : (d.logPart p c l b x).sqs = d.sqs := (d.logSame_logPart p c l b x).sqs
@[simp] theorem Device.logPart_cqs (d : Device) (p c l : Nat) (b : List Word) (x : Nat) : (d.logPart p c l b x).cqs = d.cqs := (d.logSame_logPart p c l b x).cqs
@[simp] theorem Device.logPart_queues (d : Device) (p c l : Nat) (b : List Word) (x : Nat) : (d.logPart p c l b x).queues = d.queues := (d.logSame_logPart p c l b x).queues
@[simp] theorem Device.logPart_objs (d : Device) (p c l : Nat) (b : List Word) (x : Nat) : (d.logPart p c l b x).objs = d.objs := (d.logSame_logPart p c l b x).objs
@[simp] theorem Device.logPart_flows (d : Device) (p c l : Nat) (b : List Word) (x : Nat) : (d.logPart p c l b x).flows = d.flows := (d.logSame_logPart p c l b x).flows
@[simp] theorem Device.logPart_layout (d : Device) (p c l : Nat) (b : List Word) (x : Nat) : (d.logPart p c l b x).layout = d.layout := (d.logSame_logPart p c l b x).layout
@[simp] theorem Device.logPart_cores (d : Device) (p c l : Nat) (b : List Word) (x : Nat) : (d.logPart p c l b x).cores = d.cores := (d.logSame_logPart p c l b x).cores
@[simp] theorem Device.logPart_readyLists (d : Device) (p c l : Nat) (b : List Word) (x : Nat) : (d.logPart p c l b x).readyLists = d.readyLists := (d.logSame_logPart p c l b x).readyLists
@[simp] theorem Device.logPart_rr (d : Device) (p c l : Nat) (b : List Word) (x : Nat) : (d.logPart p c l b x).rr = d.rr := (d.logSame_logPart p c l b x).rr
@[simp] theorem Device.logPart_left (d : Device) (p c l : Nat) (b : List Word) (x : Nat) : (d.logPart p c l b x).left = d.left := (d.logSame_logPart p c l b x).left
@[simp] theorem Device.logPart_readyStamp (d : Device) (p c l : Nat) (b : List Word) (x : Nat) : (d.logPart p c l b x).readyStamp = d.readyStamp := (d.logSame_logPart p c l b x).readyStamp
@[simp] theorem Device.logPart_pmemHeld (d : Device) (p c l : Nat) (b : List Word) (x : Nat) : (d.logPart p c l b x).pmemHeld = d.pmemHeld := (d.logSame_logPart p c l b x).pmemHeld
@[simp] theorem Device.logPart_ptmOn (d : Device) (p c l : Nat) (b : List Word) (x : Nat) : (d.logPart p c l b x).ptmOn = d.ptmOn := (d.logSame_logPart p c l b x).ptmOn
@[simp] theorem Device.logPart_link (d : Device) (p c l : Nat) (b : List Word) (x : Nat) : (d.logPart p c l b x).link = d.link := (d.logSame_logPart p c l b x).link
@[simp] theorem Device.logPart_unmasked (d : Device) (p c l : Nat) (b : List Word) (x : Nat) : (d.logPart p c l b x).unmasked = d.unmasked := (d.logSame_logPart p c l b x).unmasked
@[simp] theorem Device.logPart_contribStalled (d : Device) (p c l : Nat) (b : List Word) (x : Nat) : (d.logPart p c l b x).contribStalled = d.contribStalled := (d.logSame_logPart p c l b x).contribStalled
@[simp] theorem Device.logPart_waiterEpisode (d : Device) (p c l : Nat) (b : List Word) (x : Nat) : (d.logPart p c l b x).waiterEpisode = d.waiterEpisode := (d.logSame_logPart p c l b x).waiterEpisode
@[simp] theorem Device.logPart_vfs (d : Device) (p c l : Nat) (b : List Word) (x : Nat) : (d.logPart p c l b x).vfs = d.vfs := (d.logSame_logPart p c l b x).vfs
@[simp] theorem Device.logPart_d3 (d : Device) (p c l : Nat) (b : List Word) (x : Nat) : (d.logPart p c l b x).d3 = d.d3 := (d.logSame_logPart p c l b x).d3
@[simp] theorem Device.logPart_ptm (d : Device) (p c l : Nat) (b : List Word) (x : Nat) : (d.logPart p c l b x).ptm = d.ptm := (d.logSame_logPart p c l b x).ptm
@[simp] theorem Device.logPart_power (d : Device) (p c l : Nat) (b : List Word) (x : Nat) : (d.logPart p c l b x).power = d.power := (d.logSame_logPart p c l b x).power
@[simp] theorem Device.logPart_parts (d : Device) (p c l : Nat) (b : List Word) (x : Nat) : (d.logPart p c l b x).parts = d.parts := (d.logSame_logPart p c l b x).parts
@[simp] theorem Device.logPart_flowDone (d : Device) (p c l : Nat) (b : List Word) (x : Nat) : (d.logPart p c l b x).flowDone = d.flowDone := (d.logSame_logPart p c l b x).flowDone
@[simp] theorem Device.logPart_directory (d : Device) (p c l : Nat) (b : List Word) (x : Nat) : (d.logPart p c l b x).directory = d.directory := (d.logSame_logPart p c l b x).directory
@[simp] theorem Device.logPart_enable (d : Device) (p c l : Nat) (b : List Word) (x : Nat) : (d.logPart p c l b x).enable = d.enable := (d.logSame_logPart p c l b x).enable
@[simp] theorem Device.logPart_enabled (d : Device) (p c l : Nat) (b : List Word) (x : Nat) : (d.logPart p c l b x).enabled = d.enabled := (d.logSame_logPart p c l b x).enabled
@[simp] theorem Device.logPart_time (d : Device) (p c l : Nat) (b : List Word) (x : Nat) : (d.logPart p c l b x).time = d.time := (d.logSame_logPart p c l b x).time
@[simp] theorem Device.logPart_levelOut (d : Device) (p c l : Nat) (b : List Word) (x : Nat) : (d.logPart p c l b x).levelOut = d.levelOut := (d.logSame_logPart p c l b x).levelOut
@[simp] theorem Device.logPart_ports (d : Device) (p c l : Nat) (b : List Word) (x : Nat) : (d.logPart p c l b x).ports = d.ports := (d.logSame_logPart p c l b x).ports
@[simp] theorem Device.logPart_txWait (d : Device) (p c l : Nat) (b : List Word) (x : Nat) : (d.logPart p c l b x).txWait = d.txWait := (d.logSame_logPart p c l b x).txWait
@[simp] theorem Device.logPart_reqs (d : Device) (p c l : Nat) (b : List Word) (x : Nat) : (d.logPart p c l b x).reqs = d.reqs := (d.logSame_logPart p c l b x).reqs
@[simp] theorem Device.logPart_nextReq (d : Device) (p c l : Nat) (b : List Word) (x : Nat) : (d.logPart p c l b x).nextReq = d.nextReq := (d.logSame_logPart p c l b x).nextReq
@[simp] theorem Device.logPart_outFlows (d : Device) (p c l : Nat) (b : List Word) (x : Nat) : (d.logPart p c l b x).outFlows = d.outFlows := (d.logSame_logPart p c l b x).outFlows
@[simp] theorem Device.logPart_landing (d : Device) (p c l : Nat) (b : List Word) (x : Nat) : (d.logPart p c l b x).landing = d.landing := (d.logSame_logPart p c l b x).landing
@[simp] theorem Device.logPart_heldReads (d : Device) (p c l : Nat) (b : List Word) (x : Nat) : (d.logPart p c l b x).heldReads = d.heldReads := (d.logSame_logPart p c l b x).heldReads
@[simp] theorem Device.logPart_groups (d : Device) (p c l : Nat) (b : List Word) (x : Nat) : (d.logPart p c l b x).groups = d.groups := (d.logSame_logPart p c l b x).groups
@[simp] theorem Device.logPart_collData (d : Device) (p c l : Nat) (b : List Word) (x : Nat) : (d.logPart p c l b x).collData = d.collData := (d.logSame_logPart p c l b x).collData
@[simp] theorem Device.logPart_heldSignals (d : Device) (p c l : Nat) (b : List Word) (x : Nat) : (d.logPart p c l b x).heldSignals = d.heldSignals := (d.logSame_logPart p c l b x).heldSignals
@[simp] theorem Device.logPart_resets (d : Device) (p c l : Nat) (b : List Word) (x : Nat) : (d.logPart p c l b x).resets = d.resets := (d.logSame_logPart p c l b x).resets
@[simp] theorem Device.logPart_groupsKept (d : Device) (p c l : Nat) (b : List Word) (x : Nat) : (d.logPart p c l b x).groupsKept = d.groupsKept := (d.logSame_logPart p c l b x).groupsKept
@[simp] theorem Device.logPart_groupsDropped (d : Device) (p c l : Nat) (b : List Word) (x : Nat) : (d.logPart p c l b x).groupsDropped = d.groupsDropped := (d.logSame_logPart p c l b x).groupsDropped
@[simp] theorem Device.logPart_saves (d : Device) (p c l : Nat) (b : List Word) (x : Nat) : (d.logPart p c l b x).saves = d.saves := (d.logSame_logPart p c l b x).saves
@[simp] theorem Device.logPart_saving (d : Device) (p c l : Nat) (b : List Word) (x : Nat) : (d.logPart p c l b x).saving = d.saving := (d.logSame_logPart p c l b x).saving
@[simp] theorem Device.logPart_mgmt (d : Device) (p c l : Nat) (b : List Word) (x : Nat) : (d.logPart p c l b x).mgmt = d.mgmt := (d.logSame_logPart p c l b x).mgmt
@[simp] theorem Device.logPart_free (d : Device) (p c l : Nat) (b : List Word) (x : Nat) : (d.logPart p c l b x).free = d.free := (d.logSame_logPart p c l b x).free

/-- Registers that logging does not write read as before. -/
theorem Device.reg_logPart (d : Device) (p c l : Nat) (b : List Word) (x : Nat) (r : Reg) (h : r.offset ∉ logRegs.map Reg.offset) :
    (d.logPart p c l b x).reg r = d.reg r := (d.logSame_logPart p c l b x).regs r h

theorem Device.fld_logPart (d : Device) (p c l : Nat) (b : List Word) (x : Nat) (r : Reg) (f : RegField) (h : r.offset ∉ logRegs.map Reg.offset) :
    (d.logPart p c l b x).fld r f = d.fld r f := by rw [Device.fld, Device.reg_logPart _ _ _ _ _ _ _ h]; rfl

theorem Device.reg_logModule (d : Device) (c l : Nat) (b : List Word) (x p : Nat) (r : Reg) (h : r.offset ∉ logRegs.map Reg.offset) :
    (d.logModule c l b x p).reg r = d.reg r := (d.logSame_logModule c l b x p).regs r h

theorem Device.fld_logModule (d : Device) (c l : Nat) (b : List Word) (x p : Nat) (r : Reg) (f : RegField) (h : r.offset ∉ logRegs.map Reg.offset) :
    (d.logModule c l b x p).fld r f = d.fld r f := by rw [Device.fld, Device.reg_logModule _ _ _ _ _ _ _ h]; rfl

/-- An offset apart from the rings' and the classes' registers is one that logging does not write. -/
theorem logRegs_apart (o : Nat) (h0 : o ≠ (Reg.rasStatus).offset) (h1 : ∀ k, k < 8 → o ≠ (Reg.rasClassCount k).offset)
    (h2 : ∀ k, k < 8 → o ≠ (Reg.hifPartStatus k).offset) : o ∉ logRegs.map Reg.offset := by
  simp only [logRegs, List.map_cons, List.map_append, List.map_map, List.mem_cons, List.mem_append, List.mem_map, List.mem_range, Function.comp]
  rintro (h | ⟨k, hk, e⟩ | ⟨k, hk, e⟩)
  · exact h0 h
  · exact h1 k hk e.symm
  · exact h2 k hk e.symm

end Sys2Proof.Machine
end

