-- ==== Sys2Proof/Laws/BringUp.lean ====
section
/-! SUPPORT. What the shared operations of bring-up do: boot records, stage reports, the start and the end of a stage. -/

namespace Sys2Proof.Machine

/-! ### Boot records -/

/-- A boot record is a module record after four free values. -/
theorem Device.logBoot_eq (d : Device) (code cls die : Nat) :
    d.logBoot code cls die = ({ d with free := d.free + 4 } : Device).logModule code cls
      [Config.freeWord d.free, Config.freeWord (d.free + 1), Config.freeWord (d.free + 2), Config.freeWord (d.free + 3)] die := rfl

theorem Device.reg_logBoot (d : Device) (code cls die : Nat) (r : Reg) (h : r.offset ∉ logRegs.map Reg.offset) :
    (d.logBoot code cls die).reg r = d.reg r := by
  rw [Device.logBoot_eq]
  exact (Device.logSame_logModule _ _ _ _ _ _).regs r h

theorem Device.fld_logBoot (d : Device) (code cls die : Nat) (r : Reg) (f : RegField) (h : r.offset ∉ logRegs.map Reg.offset) :
    (d.logBoot code cls die).fld r f = d.fld r f := by
  rw [Device.fld, Device.reg_logBoot _ _ _ _ _ h]; rfl

@[simp] theorem Device.logBoot_pins (d : Device) (code cls die : Nat) : (d.logBoot code cls die).pins = d.pins := by rw [Device.logBoot_eq]; simp
@[simp] theorem Device.logBoot_boot (d : Device) (code cls die : Nat) : (d.logBoot code cls die).boot = d.boot := by rw [Device.logBoot_eq]; simp
@[simp] theorem Device.logBoot_flash (d : Device) (code cls die : Nat) : (d.logBoot code cls die).flash = d.flash := by rw [Device.logBoot_eq]; simp
@[simp] theorem Device.logBoot_mem (d : Device) (code cls die : Nat) : (d.logBoot code cls die).mem = d.mem := by rw [Device.logBoot_eq]; simp
@[simp] theorem Device.logBoot_side (d : Device) (code cls die : Nat) : (d.logBoot code cls die).side = d.side := by rw [Device.logBoot_eq]; simp
@[simp] theorem Device.logBoot_now (d : Device) (code cls die : Nat) : (d.logBoot code cls die).now = d.now := by rw [Device.logBoot_eq]; simp
@[simp] theorem Device.logBoot_flowDone (d : Device) (code cls die : Nat) : (d.logBoot code cls die).flowDone = d.flowDone := by rw [Device.logBoot_eq]; simp
@[simp] theorem Device.logBoot_ports (d : Device) (code cls die : Nat) : (d.logBoot code cls die).ports = d.ports := by rw [Device.logBoot_eq]; simp
@[simp] theorem Device.logBoot_layout (d : Device) (code cls die : Nat) : (d.logBoot code cls die).layout = d.layout := by rw [Device.logBoot_eq]; simp

/-! ### The four report registers -/

/-- The registers of a stage's report. -/
def reportRegs (s : Nat) : List Reg := [.bootReportA (s - 1), .bootReportB (s - 1), .bootReportC (s - 1), .bootReportD (s - 1)]

theorem Device.onlyRegs_report (d : Device) (s result code attempts : Nat) (w : Word) :
    d.OnlyRegs (d.report s result code attempts w) :=
  (((Device.onlyRegs_setReg _ _ _).trans (Device.onlyRegs_setReg _ _ _)).trans (Device.onlyRegs_setReg _ _ _)).trans
    (Device.onlyRegs_setReg _ _ _)

theorem Device.reg_report (d : Device) (s result code attempts : Nat) (w : Word) (r : Reg) (h : r.offset ∉ (reportRegs s).map Reg.offset) :
    (d.report s result code attempts w).reg r = d.reg r := by
  simp only [reportRegs, List.map_cons, List.map_nil, List.mem_cons, List.not_mem_nil, or_false, not_or] at h
  unfold Device.report
  simp only []
  rw [Device.reg_setReg_ne _ _ _ _ h.2.2.2, Device.reg_setReg_ne _ _ _ _ h.2.2.1, Device.reg_setReg_ne _ _ _ _ h.2.1,
    Device.reg_setReg_ne _ _ _ _ h.1]

theorem Device.fld_report (d : Device) (s result code attempts : Nat) (w : Word) (r : Reg) (f : RegField)
    (h : r.offset ∉ (reportRegs s).map Reg.offset) : (d.report s result code attempts w).fld r f = d.fld r f := by
  rw [Device.fld, Device.reg_report _ _ _ _ _ _ _ h]; rfl

/-! ### A stage starts -/

/-- What a register reads after a fold whose steps leave it alone. -/
theorem Device.reg_foldl {β : Type} (f : Device → β → Device) (r : Reg) (l : List β) (h : ∀ d, ∀ b ∈ l, (f d b).reg r = d.reg r) (d : Device) :
    (l.foldl f d).reg r = d.reg r := by
  induction l generalizing d with
  | nil => rfl
  | cons b l ih => rw [List.foldl_cons, ih (fun d b hb => h d b (List.mem_cons_of_mem _ hb)), h d b (List.mem_cons_self ..)]

theorem Device.fld_enterStage (d : Device) (s : Nat) (r : Reg) (f : RegField) :
    (d.enterStage s).fld r f = (((d.setFld .bootStatus Fd.bootStatusState 0).setFld .bootStatus Fd.bootStatusStage s).setFld
        (.bootReportA (s - 1)) Fd.bootReportAResult 1).fld r f := rfl

@[simp] theorem Device.enterStage_mem (d : Device) (s : Nat) : (d.enterStage s).mem = d.mem := by simp [Device.enterStage]
@[simp] theorem Device.enterStage_pins (d : Device) (s : Nat) : (d.enterStage s).pins = d.pins := by simp [Device.enterStage]
@[simp] theorem Device.enterStage_flash (d : Device) (s : Nat) : (d.enterStage s).flash = d.flash := by simp [Device.enterStage]
@[simp] theorem Device.enterStage_flowDone (d : Device) (s : Nat) : (d.enterStage s).flowDone = d.flowDone := by simp [Device.enterStage]
@[simp] theorem Device.enterStage_now (d : Device) (s : Nat) : (d.enterStage s).now = d.now := by simp [Device.enterStage]
@[simp] theorem Device.enterStage_boot (d : Device) (s : Nat) : (d.enterStage s).boot = { d.boot with started := d.now } := by
  simp [Device.enterStage]

/-- A stage is entered: STAGE names it and STATE is 0. -/
theorem Device.enterStage_status (d : Device) (s : Nat) (hs : s ≤ 7) :
    (d.enterStage s).stage = s ∧ (d.enterStage s).fld .bootStatus Fd.bootStatusState = 0 := by
  have ho : (Reg.bootStatus).offset ≠ (Reg.bootReportA (s - 1)).offset := by simp [Reg.offset]; omega
  constructor
  · rw [Device.stage, Device.fld_enterStage, Device.fld_setFld_ne _ _ _ _ _ _ ho,
      Device.fld_setFld_self _ _ _ _ (by decide) (by decide) (by decide)]
    exact Nat.mod_eq_of_lt (by simp [Fd.bootStatusStage]; omega)
  · rw [Device.fld_enterStage, Device.fld_setFld_ne _ _ _ _ _ _ ho,
      Device.fld_setFld_field _ _ _ _ _ (by decide) (by decide) (by decide) (by decide),
      Device.fld_setFld_self _ _ _ _ (by decide) (by decide) (by decide)]
    rfl

/-- What the start of a stage leaves alone besides the entry: all but the states of ports and what boot records write. -/
theorem Device.beginStage_keeps {α : Type} (g : Device → α) (h1 : ∀ d n v, n < 28 → g (d.setPortState n v) = g d)
    (h2 : ∀ d c l x, g (d.logBoot c l x) = g d) (d : Device) (s : Nat) (hp : s = 2 → d.boot.pushFirst = false)
    (h3 : ∀ (d : Device) n, g { d with boot := { d.boot with latePorts := n } } = g d := by intros; rfl) :
    g (d.beginStage s) = g (d.enterStage s) := by
  have fold : ∀ (f : Device → Nat → Device) (l : List Nat) (d : Device), (∀ d, ∀ n ∈ l, g (f d n) = g d) → g (l.foldl f d) = g d := by
    intro f l
    induction l with
    | nil => intro d _; rfl
    | cons n l ih => intro d h; rw [List.foldl_cons, ih _ fun d m hm => h d m (List.mem_cons_of_mem _ hm), h d n (List.mem_cons_self ..)]
  unfold Device.beginStage
  simp only [Device.enterStage_boot]
  by_cases c2 : s = 2
  · simp [c2, hp c2]
  · by_cases c4 : s = 4
    · simp only [c4, show ¬ ((4 : Nat) = 2) by omega, ↓reduceIte]
      exact fold _ _ _ fun d n hn => h1 d n _ (List.mem_range.1 hn)
    · by_cases c6 : s = 6
      · simp only [c6, show ¬ ((6 : Nat) = 2) by omega, show ¬ ((6 : Nat) = 4) by omega, ↓reduceIte]
        refine (fold _ _ _ fun d n hn => ?_).trans (h3 _ _)
        split
        · exact h2 _ _ _ _
        · split
          · exact h1 d n _ (by simp only [Device.connected, bitList, List.mem_filter, List.mem_range] at hn; exact hn.1)
          · rfl
      · simp [c2, c4, c6]

theorem Device.fld_setPortState (d : Device) (n v : Nat) (r : Reg) (f : RegField) (h : r.offset ≠ (Reg.lnkPortStatus n).offset) :
    (d.setPortState n v).fld r f = d.fld r f := Device.fld_setFld_ne _ _ _ _ _ _ h

/-- BOOT_STATUS after the start of a stage. -/
theorem Device.beginStage_status (d : Device) (s : Nat) (hs : s ≤ 7) (hp : s = 2 → d.boot.pushFirst = false) :
    (d.beginStage s).stage = s ∧ (d.beginStage s).fld .bootStatus Fd.bootStatusState = 0 := by
  have hk : ∀ f, (d.beginStage s).fld .bootStatus f = (d.enterStage s).fld .bootStatus f := fun f =>
    Device.beginStage_keeps (fun x => x.fld .bootStatus f)
      (fun d n v hn => Device.fld_setPortState _ _ _ _ _ (by simp [Reg.offset]; omega))
      (fun d c l x => Device.fld_logBoot _ _ _ _ _ _ (by decide)) d s hp
  rw [Device.stage, hk, hk]
  exact d.enterStage_status s hs

/-! ### The end of a stage -/

/-- A stage that passes and is not held starts the next. -/
theorem Device.passStage_next (d : Device) (s code attempts : Nat) (w : Word)
    (hh : ¬ (d.fld .bootCtrl Fd.bootCtrlHoldBefore = s + 1 ∧ 2 ≤ s)) :
    d.passStage s code attempts w = (d.report s (if code = 0 then 2 else 3) code attempts w).beginStage (s + 1) := by
  unfold Device.passStage
  simp only []
  rw [Device.fld_report _ _ _ _ _ _ _ _ (by
    simp only [reportRegs, List.map_cons, List.map_nil, List.mem_cons, List.not_mem_nil, or_false, Reg.offset]; omega)]
  simp only [hh, ↓reduceIte]

/-- BOOT_STATUS after a stage has passed. -/
theorem Device.passStage_status (d : Device) (s code attempts : Nat) (w : Word)
    (hh : ¬ (d.fld .bootCtrl Fd.bootCtrlHoldBefore = s + 1 ∧ 2 ≤ s)) (hs : s ≤ 6) (hp : s = 1 → d.boot.pushFirst = false) :
    (d.passStage s code attempts w).stage = s + 1 ∧ (d.passStage s code attempts w).fld .bootStatus Fd.bootStatusState = 0 := by
  rw [Device.passStage_next _ _ _ _ _ hh]
  apply Device.beginStage_status _ _ (by omega)
  intro e
  have : (d.report s (if code = 0 then 2 else 3) code attempts w).boot = d.boot := by
    have := d.onlyRegs_report s (if code = 0 then 2 else 3) code attempts w
    rw [this]
  rw [this]; exact hp (by omega)

/-- BOOT_STATUS after a halting failure. -/
theorem Device.halt_status (d : Device) (s code : Nat) (w : Word) (hc : code < 65536) :
    (d.halt s code w).fld .bootStatus Fd.bootStatusState = 2 ∧ (d.halt s code w).fld .bootStatus Fd.bootStatusFailCode = code ∧
    (d.halt s code w).stage = d.stage := by
  unfold Device.halt
  simp only [Device.stage]
  have ho : (Reg.bootStatus).offset ∉ (reportRegs s).map Reg.offset := by
    simp only [reportRegs, List.map_cons, List.map_nil, List.mem_cons, List.not_mem_nil, or_false, Reg.offset]; omega
  rw [Device.fld_logBoot _ _ _ _ _ _ (by decide), Device.fld_logBoot _ _ _ _ _ _ (by decide),
    Device.fld_logBoot _ _ _ _ _ _ (by decide),
    Device.fld_setFld_field _ _ _ _ _ (by decide) (by decide) (by decide) (by decide),
    Device.fld_setFld_self _ _ _ _ (by decide) (by decide) (by decide),
    Device.fld_setFld_self _ _ _ _ (by decide) (by decide) (by decide),
    Device.fld_setFld_field _ _ _ _ _ (by decide) (by decide) (by decide) (by decide),
    Device.fld_setFld_field _ _ _ _ _ (by decide) (by decide) (by decide) (by decide), Device.fld_report _ _ _ _ _ _ _ _ ho]
  exact ⟨rfl, Nat.mod_eq_of_lt hc, rfl⟩

/-! ### A command that ends a stage -/

theorem State.bringUp_parts {s : State} {k : Nat} (h : s.bringUp k = true) :
    s.dev.awake = true ∧ s.dev.flowDone = [] ∧ s.dev.inStage k = true ∧ s.dev.fld .bootStatus Fd.bootStatusState = 0 ∧ s.dev.stage = k ∧ s.dev.pins.thermHold = false := by
  simp only [State.bringUp, State.running, Bool.and_eq_true, List.isEmpty_iff] at h
  refine ⟨h.1.1, h.1.2, h.2, ?_⟩
  have := h.2
  simp only [Device.inStage, Bool.and_eq_true, beq_iff_eq, Bool.not_eq_true'] at this
  exact ⟨this.1.1, this.1.2, this.2⟩

theorem State.bringUp_of {s : State} {k : Nat} (h1 : s.dev.awake = true) (h2 : s.dev.flowDone = []) (h3 : s.dev.stage = k)
    (h4 : s.dev.fld .bootStatus Fd.bootStatusState = 0) (h5 : s.dev.pins.thermHold = false) : s.bringUp k = true := by
  simp [State.bringUp, State.running, h1, h2, Device.inStage, h3, h4, h5]

theorem Device.awake_congr {d e : Device} (h : e.pins = d.pins) : e.awake = d.awake := by simp [Device.awake, h]

/-- frame g through passStage -/
theorem Device.passStage_keeps {α : Type} (g : Device → α) (hr : ∀ d r w, (∃ i, i < 7 ∧ (r = .bootReportA i ∨ r = .bootReportB i ∨ r = .bootReportC i ∨ r = .bootReportD i)) → g (Device.setReg d r w) = g d)
    (he : ∀ d s, s ≤ 7 → g (Device.enterStage d s) = g d)
    (h1 : ∀ d n v, n < 28 → g (Device.setPortState d n v) = g d)
    (h2 : ∀ d c l x, g (Device.logBoot d c l x) = g d) (d : Device) (s code att : Nat) (w : Word)
    (hh : ¬ (d.fld .bootCtrl Fd.bootCtrlHoldBefore = s + 1 ∧ 2 ≤ s)) (hp : s = 1 → d.boot.pushFirst = false) (hs : s ≤ 6)
    (h3 : ∀ (d : Device) n, g { d with boot := { d.boot with latePorts := n } } = g d := by intros; rfl) :
    g (d.passStage s code att w) = g d := by
  rw [Device.passStage_next _ _ _ _ _ hh, Device.beginStage_keeps g h1 h2 (h3 := h3), he _ _ (by omega)]
  · unfold Device.report
    simp only []
    rw [hr _ _ _ ⟨_, by omega, .inr (.inr (.inr rfl))⟩, hr _ _ _ ⟨_, by omega, .inr (.inr (.inl rfl))⟩, hr _ _ _ ⟨_, by omega, .inr (.inl rfl)⟩, hr _ _ _ ⟨_, by omega, .inl rfl⟩]
  · intro e
    have := d.onlyRegs_report s (if code = 0 then 2 else 3) code att w
    rw [this]; exact hp (by omega)

theorem Device.passStage_mem (d : Device) (s code att : Nat) (w : Word) (hh : ¬ (d.fld .bootCtrl Fd.bootCtrlHoldBefore = s + 1 ∧ 2 ≤ s)) (hp : s = 1 → d.boot.pushFirst = false) (hs : s ≤ 6) :
    (d.passStage s code att w).mem = d.mem ∧ (d.passStage s code att w).side = d.side ∧ (d.passStage s code att w).flash = d.flash ∧ (d.passStage s code att w).pins = d.pins ∧ (d.passStage s code att w).flowDone = d.flowDone
    ∧ (d.passStage s code att w).boot.running = d.boot.running ∧ (d.passStage s code att w).boot.pushed = d.boot.pushed ∧ (d.passStage s code att w).boot.map = d.boot.map ∧ (d.passStage s code att w).boot.pushing = d.boot.pushing := by
  refine ⟨?_, ?_, ?_, ?_, ?_, ?_, ?_, ?_, ?_⟩
  · exact Device.passStage_keeps Device.mem (by simp) (by intros; simp) (by simp [Device.setPortState]) (by simp) _ _ _ _ _ hh hp hs
  · exact Device.passStage_keeps Device.side (by simp) (by intros; simp [Device.enterStage]) (by simp [Device.setPortState]) (by simp) _ _ _ _ _ hh hp hs
  · exact Device.passStage_keeps Device.flash (by simp) (by intros; simp) (by simp [Device.setPortState]) (by simp) _ _ _ _ _ hh hp hs
  · exact Device.passStage_keeps Device.pins (by simp) (by intros; simp) (by simp [Device.setPortState]) (by simp) _ _ _ _ _ hh hp hs
  · exact Device.passStage_keeps Device.flowDone (by simp) (by intros; simp) (by simp [Device.setPortState]) (by simp) _ _ _ _ _ hh hp hs
  · exact Device.passStage_keeps (·.boot.running) (by simp) (by intros; simp) (by simp [Device.setPortState]) (by simp) _ _ _ _ _ hh hp hs
  · exact Device.passStage_keeps (·.boot.pushed) (by simp) (by intros; simp) (by simp [Device.setPortState]) (by simp) _ _ _ _ _ hh hp hs
  · exact Device.passStage_keeps (·.boot.map) (by simp) (by intros; simp) (by simp [Device.setPortState]) (by simp) _ _ _ _ _ hh hp hs
  · exact Device.passStage_keeps (·.boot.pushing) (by simp) (by intros; simp) (by simp [Device.setPortState]) (by simp) _ _ _ _ _ hh hp hs

/-- a register other than the reports, BOOT_STATUS, port states and those of logging -/
theorem Device.passStage_fld (d : Device) (s code att : Nat) (w : Word) (r : Reg) (f : RegField) (hh : ¬ (d.fld .bootCtrl Fd.bootCtrlHoldBefore = s + 1 ∧ 2 ≤ s)) (hp : s = 1 → d.boot.pushFirst = false)
    (hs : s ≤ 6) (h1 : ∀ i < 7, r.offset ≠ (Reg.bootReportA i).offset ∧ r.offset ≠ (Reg.bootReportB i).offset ∧ r.offset ≠ (Reg.bootReportC i).offset ∧ r.offset ≠ (Reg.bootReportD i).offset)
    (h2 : r.offset ≠ (Reg.bootStatus).offset) (h3 : ∀ n < 28, r.offset ≠ (Reg.lnkPortStatus n).offset) (h4 : r.offset ∉ logRegs.map Reg.offset) :
    (d.passStage s code att w).fld r f = d.fld r f := by
  apply Device.passStage_keeps (fun d => d.fld r f) _ _ _ _ _ _ _ _ _ hh hp hs
  · intro d r' w' ⟨i, hi7, hi⟩
    refine Device.fld_setReg_ne _ _ _ _ _ ?_
    rcases hi with rfl | rfl | rfl | rfl
    exacts [(h1 i hi7).1, (h1 i hi7).2.1, (h1 i hi7).2.2.1, (h1 i hi7).2.2.2]
  · intro d s hs
    rw [Device.fld_enterStage, Device.fld_setFld_ne _ _ _ _ _ _ (h1 _ (by omega)).1, Device.fld_setFld_ne _ _ _ _ _ _ h2, Device.fld_setFld_ne _ _ _ _ _ _ h2]
  · intro d n v hn; exact Device.fld_setPortState _ _ _ _ _ (h3 n hn)
  · intro d c l x; exact Device.fld_logBoot _ _ _ _ _ _ h4

theorem live_passStage {f : Device → Device} {s : State} {k code att : Nat} {w : Word} {e : Device} (h : s.bringUp k = true)
    (hf : f { s.dev with out := [] } = e.passStage k code att w) (hk : k ≤ 6)
    (hpins : e.pins = s.dev.pins) (hfl : e.flowDone = s.dev.flowDone)
    (hh : ¬ (e.fld .bootCtrl Fd.bootCtrlHoldBefore = k + 1 ∧ 2 ≤ k)) (hp : k = 1 → e.boot.pushFirst = false) :
    ∃ t : State, live f s = .next t ∧ t.pending = s.pending ∧ t.bringUp (k + 1) = true ∧ t.dev = e.passStage k code att w := by
  obtain ⟨ha, hfd, _, _, _, ht⟩ := State.bringUp_parts h
  obtain ⟨m1, m2, m3, m4, m5, m6, m7, m8, m9⟩ := Device.passStage_mem e k code att w hh hp hk
  have st := Device.passStage_status e k code att w hh hk hp
  refine ⟨_, live_settled f s ha (by rw [hf, m5, hfl, hfd]), rfl, ?_, hf⟩
  apply State.bringUp_of
  · rw [show (State.mk (f { s.dev with out := [] }) s.pending).dev = e.passStage k code att w from hf, Device.awake_congr (m4.trans hpins)]; exact ha
  · show (f _).flowDone = []; rw [hf, m5, hfl, hfd]
  · show (f _).stage = _; rw [hf]; exact st.1
  · show (f _).fld _ _ = _; rw [hf]; exact st.2
  · show (f _).pins.thermHold = _; rw [hf, m4, hpins]; exact ht

theorem Device.emit_fold_keeps {α β : Type} (g : Device → α) (h : ∀ d o, g (Device.emit d o) = g d) (F : β → Out) (l : List β)
    (d : Device) : g (l.foldl (fun (d : Device) b => d.emit (F b)) d) = g d := Device.foldl_frame g _ (fun d _ => h d _) l d

theorem Device.railAll_keeps {α : Type} (g : Device → α) (h : ∀ d o, g (Device.emit d o) = g d) (d : Device) (c : Nat) : g (d.railAll c) = g d :=
  Device.emit_fold_keeps g h _ _ d

theorem Device.fld_out (d : Device) (o : List Out) (r : Reg) (f : RegField) : ({ d with out := o } : Device).fld r f = d.fld r f := rfl

theorem Device.inStage_out (d : Device) (o : List Out) (k : Nat) : ({ d with out := o } : Device).inStage k = d.inStage k := rfl

end Sys2Proof.Machine
end

