-- ==== Sys2Proof/Laws/Links.lean ====
section
/-! SUPPORT. What sending leaves alone: everything but the ports, the packets that wait, what is sent outside and
LNK_PORT_TRAFFIC. g stands for what is looked at. -/

namespace Sys2Proof.Machine

/-- What logging does not touch, logging leaves alone. -/
theorem Device.log_keeps {α : Type} (g : Device → α)
    (h : ∀ d e : Device, d.LogSame e → g e = g d) (d : Device) (k : Nat) (r : LogRec) : g (d.log k r) = g d := h _ _ (d.logSame_log k r)

/-- What sending may touch: g looks at none of it. -/
structure SendBlind {α : Type} (g : Device → α) : Prop where
  port : ∀ d n x, g (Device.setPort d n x) = g d
  emit : ∀ d o, g (Device.emit d o) = g d
  traffic : ∀ d n f v, g (Device.setFld d (.lnkPortTraffic n) f v) = g d
  wait : ∀ (d : Device) l, g { d with txWait := l } = g d

theorem Device.pumpFlits_keeps {α : Type} {g : Device → α} (h : SendBlind g) (d : Device) (n : Nat) : g (d.pumpFlits n) = g d := by
  unfold Device.pumpFlits
  dsimp only
  rw [Device.foldl_frame g _ fun d f => h.emit d _]
  exact h.port _ _ _

theorem Device.sendOn_keeps {α : Type} {g : Device → α} (h : SendBlind g) (d : Device) (n vc : Nat) (k : Packet) :
    g (d.sendOn n vc k) = g d := by
  unfold Device.sendOn Device.countFlits
  simp only [h.traffic, h.port, Device.pumpFlits_keeps h]

theorem Device.sendPacket_keeps {α : Type} {g : Device → α} (h : SendBlind g) (d : Device) (p : Nat) (k : Packet) :
    g (d.sendPacket p k) = g d := by
  unfold Device.sendPacket
  simp only []
  split
  · exact Device.sendOn_keeps h _ _ _ _
  · exact h.wait _ _

theorem Device.drainTx_keeps {α : Type} {g : Device → α} (h : SendBlind g) (d : Device) : g d.drainTx = g d := by
  unfold Device.drainTx
  rw [Device.foldl_frame g _ fun d f => Device.sendPacket_keeps h d _ _]
  exact h.wait _ _

theorem Device.respond_keeps {α : Type} {g : Device → α} (h : SendBlind g) (d : Device) (k : Packet) (t s a : Nat) (x : Packet) :
    g (d.respond k t s a x) = g d := Device.sendPacket_keeps h _ _ _

/-- A register other than LNK_PORT_TRAFFIC. -/
theorem sendBlind_reg (r : Reg) (h : ∀ n, r.offset ≠ (Reg.lnkPortTraffic n).offset ∨ 28 ≤ n) : SendBlind fun d => d.reg r where
  port _ _ _ := rfl
  emit _ _ := rfl
  wait _ _ := rfl
  traffic d n f v := by
    rcases h n with h | h
    · exact Device.reg_setReg_ne _ _ _ _ h
    · have : (Reg.lnkPortTraffic n).inRange = false := by simp [Reg.inRange]; omega
      simp [Device.setFld, Device.setReg, this]

theorem sendBlind_fld (r : Reg) (f : RegField) (h : ∀ n, r.offset ≠ (Reg.lnkPortTraffic n).offset ∨ 28 ≤ n) : SendBlind fun d => d.fld r f where
  port _ _ _ := rfl
  emit _ _ := rfl
  wait _ _ := rfl
  traffic d n f' v := by
    have := (sendBlind_reg r h).traffic d n f' v
    simp only [Device.fld] at this ⊢
    rw [this]

theorem sendBlind_mem : SendBlind Device.mem := ⟨fun _ _ _ => rfl, fun _ _ => rfl, fun _ _ _ _ => by simp, fun _ _ => rfl⟩
theorem sendBlind_side : SendBlind Device.side := ⟨fun _ _ _ => rfl, fun _ _ => rfl, fun _ _ _ _ => by simp, fun _ _ => rfl⟩
theorem sendBlind_pins : SendBlind Device.pins := ⟨fun _ _ _ => rfl, fun _ _ => rfl, fun _ _ _ _ => by simp, fun _ _ => rfl⟩
theorem sendBlind_flowDone : SendBlind Device.flowDone := ⟨fun _ _ _ => rfl, fun _ _ => rfl, fun _ _ _ _ => by simp, fun _ _ => rfl⟩
theorem sendBlind_queues : SendBlind Device.queues := ⟨fun _ _ _ => rfl, fun _ _ => rfl, fun _ _ _ _ => by simp, fun _ _ => rfl⟩
theorem sendBlind_parts : SendBlind Device.parts := ⟨fun _ _ _ => rfl, fun _ _ => rfl, fun _ _ _ _ => by simp, fun _ _ => rfl⟩
theorem sendBlind_now : SendBlind Device.now := ⟨fun _ _ _ => rfl, fun _ _ => rfl, fun _ _ _ _ => by simp, fun _ _ => rfl⟩
theorem sendBlind_time : SendBlind Device.time := ⟨fun _ _ _ => rfl, fun _ _ => rfl, fun _ _ _ _ => by simp, fun _ _ => rfl⟩
theorem sendBlind_objs : SendBlind Device.objs := ⟨fun _ _ _ => rfl, fun _ _ => rfl, fun _ _ _ _ => by simp, fun _ _ => rfl⟩
theorem sendBlind_layout : SendBlind Device.layout := ⟨fun _ _ _ => rfl, fun _ _ => rfl, fun _ _ _ _ => by simp, fun _ _ => rfl⟩
theorem sendBlind_reqs : SendBlind Device.reqs := ⟨fun _ _ _ => rfl, fun _ _ => rfl, fun _ _ _ _ => by simp, fun _ _ => rfl⟩

end Sys2Proof.Machine
end

