-- ==== Sys2Proof/Laws/Commands.lean ====
section
/-! SUPPORT. What a queue gives after one of its commands was changed, and what the wrappers of a command row answer. -/

namespace Sys2Proof.Machine

/-! ### Rows of the module in service -/

theorem State.inService_parts {s : State} (h : s.inService = true) : s.dev.awake = true ∧ s.dev.flowDone = [] ∧ s.dev.ready = true := by
  simpa [State.inService, State.running, and_assoc] using h

theorem State.running_parts {s : State} (h : s.running = true) : s.dev.awake = true ∧ s.dev.flowDone = [] := by
  simpa [State.running] using h

/-- A row of the running module whose operation releases no flow item. -/
theorem live_after {s : State} {f : Device → Device} (h : s.running = true) (hf : (f { s.dev with out := [] }).flowDone = []) :
    live f s = .next (s.after f) := live_settled f s (State.running_parts h).1 hf

/-- A row of the module in service whose operation releases no flow item. -/
theorem run_after {s : State} {f : Device → Device} (h : s.inService = true) (hf : (f { s.dev with out := [] }).flowDone = []) :
    run f s = .next (s.after f) := by
  obtain ⟨h1, h2, h3⟩ := State.inService_parts h
  rw [run_ready f s h1 h3, Device.settleFlows_nil _ hf]; rfl

/-- The row's operation where it is known what it does. -/
theorem run_eq {s : State} {f g : Device → Device} (h : s.inService = true) (hg : f { s.dev with out := [] } = g { s.dev with out := [] })
    (hf : (g { s.dev with out := [] }).flowDone = s.dev.flowDone) : run f s = .next (s.after g) := by
  have h2 := (State.inService_parts h).2.1
  rw [run_after h (by rw [hg, hf, h2])]
  simp only [State.after, hg]

/-- The row where its operation is known to leave the flow items alone. -/
theorem run_keeps {s : State} {f : Device → Device} (h : s.inService = true) (hf : (f { s.dev with out := [] }).flowDone = s.dev.flowDone) :
    run f s = .next (s.after f) := run_after h (by rw [hf, (State.inService_parts h).2.1])

@[simp] theorem State.after_pending (s : State) (f : Device → Device) : (s.after f).pending = s.pending := rfl
@[simp] theorem State.after_dev (s : State) (f : Device → Device) : (s.after f).dev = f { s.dev with out := [] } := rfl

/-! ### Commands -/

theorem Device.queue_setQueue (d : Device) (p q p' q' : Nat) (cs : List Cmd) :
    (d.setQueue p q cs).queue p' q' = if qkey p' q' = qkey p q then cs else d.queue p' q' := by
  simp only [Device.queue, SMap.at', Device.setQueue_queues, SMap.get_set]

theorem Device.queue_congr {d e : Device} (h : d.queues = e.queues) (p q : Nat) : d.queue p q = e.queue p q := by
  simp only [Device.queue, h]

theorem Device.cmd_congr {d e : Device} (h : d.queues = e.queues) (p q i : Nat) : d.cmd? p q i = e.cmd? p q i := by
  simp only [Device.cmd?, Device.queue_congr h]

theorem Device.cmd_idx {d : Device} {p q i : Nat} {c : Cmd} (h : d.cmd? p q i = some c) : c.idx = i := by
  have := List.find?_some h
  simpa using this

theorem find_map_upd (l : List Cmd) (i : Nat) (f : Cmd → Cmd) (hf : ∀ c : Cmd, c.idx = i → (f c).idx = i) :
    (l.map fun c => if c.idx = i then f c else c).find? (·.idx == i) = (l.find? (·.idx == i)).map f := by
  induction l with
  | nil => rfl
  | cons a l ih =>
    simp only [List.map_cons, List.find?_cons]
    by_cases h : a.idx = i
    · simp [h, hf a h]
    · have h1 : (a.idx == i) = false := by simpa using h
      simp [h, h1, ih]

theorem find_map_other (l : List Cmd) (i j : Nat) (f : Cmd → Cmd) (hf : ∀ c : Cmd, c.idx = i → (f c).idx = i) (h : j ≠ i) :
    (l.map fun c => if c.idx = i then f c else c).find? (·.idx == j) = l.find? (·.idx == j) := by
  induction l with
  | nil => rfl
  | cons a l ih =>
    simp only [List.map_cons, List.find?_cons]
    by_cases ha : a.idx = i
    · have h1 : ((f a).idx == j) = false := by rw [hf a ha]; simp; omega
      have h2 : (a.idx == j) = false := by rw [ha]; simp; omega
      simp only [ha, ↓reduceIte, h1, ih]; rw [← ha, h2]
    · simp only [ha, ↓reduceIte, ih]

/-- A command after it was changed. -/
theorem Device.cmd_updCmd (d : Device) (p q i : Nat) (f : Cmd → Cmd) (hf : ∀ c : Cmd, c.idx = i → (f c).idx = i) :
    (d.updCmd p q i f).cmd? p q i = (d.cmd? p q i).map f := by
  simp only [Device.cmd?, Device.updCmd, Device.queue_setQueue, ↓reduceIte]
  exact find_map_upd _ _ _ hf

/-- Another command after one was changed. -/
theorem Device.cmd_updCmd_ne (d : Device) (p q i p' q' j : Nat) (f : Cmd → Cmd) (hf : ∀ c : Cmd, c.idx = i → (f c).idx = i)
    (h : qkey p' q' ≠ qkey p q ∨ j ≠ i) : (d.updCmd p q i f).cmd? p' q' j = d.cmd? p' q' j := by
  simp only [Device.cmd?, Device.updCmd, Device.queue_setQueue]
  split
  · rename_i hk
    rw [find_map_other _ _ _ _ hf (by omega)]
    simp only [Device.queue, hk]
  · rfl

/-- A command that works is the outstanding one with that ring index. -/
theorem Device.runningCmd_cmd {d : Device} {p q i op : Nat} {c : Cmd} (h : d.runningCmd p q i op = some c) : d.cmd? p q i = some c := by
  unfold Device.runningCmd at h
  split at h
  · cases h
  · split at h
    · cases h; assumption
    · cases h

theorem Device.runningCmd_op {d : Device} {p q i op : Nat} {c : Cmd} (h : d.runningCmd p q i op = some c) :
    opcodeOf c.desc = op ∧ c.worked = false ∧ c.parked = none ∧ c.st = .running := by
  unfold Device.runningCmd at h
  split at h
  · cases h
  · split at h
    · rename_i hc
      cases h; exact ⟨hc.2.2.2.1, hc.2.2.2.2.1, hc.2.2.2.2.2.1, hc.2.2.1⟩
    · cases h

theorem Device.runningCmd_out (d : Device) (o : List Out) (p q i op : Nat) :
    ({ d with out := o } : Device).runningCmd p q i op = d.runningCmd p q i op := rfl

/-- One row of an engine's work on a command that works. -/
theorem Device.work_running {d : Device} {p q i op : Nat} {c : Cmd} (h : d.runningCmd p q i op = some c) (f : Cmd → Device → Device) :
    d.work p q i op f = f c d := by
  simp only [Device.work, h]

/-- A row of an engine's work that releases no flow item. -/
theorem run_work {s : State} {p q i op : Nat} {c : Cmd} {f : Cmd → Device → Device} {g : Device → Device} (hs : s.inService = true)
    (h : s.dev.runningCmd p q i op = some c) (hg : f c { s.dev with out := [] } = g { s.dev with out := [] })
    (hf : (g { s.dev with out := [] }).flowDone = s.dev.flowDone) : run (fun d => d.work p q i op f) s = .next (s.after g) :=
  run_eq hs (by rw [Device.work_running (by rw [Device.runningCmd_out]; exact h), hg]) hf

end Sys2Proof.Machine
end

