-- ==== Sys2Proof/Laws/Contexts.lean ====
section
/-! SUPPORT. What a context area that passes its tests gives. -/

namespace Sys2Proof.Machine

/-- A CRC of no bits left to take in, over zero, is zero. -/
theorem crcBits_zero (width poly n : Nat) : crcBits width poly n 0 = 0 := by
  induction n with
  | zero => rfl
  | succ n ih => simpa [crcBits, bitOf] using ih

/-- The CRC-64 of zero bytes is zero. -/
theorem crc64_zeros (bs : List Byte) (h : bs.all (· == 0) = true) : crc64 bs = 0 := by
  unfold crc64
  induction bs with
  | nil => rfl
  | cons b bs ih =>
    simp only [List.all_cons, Bool.and_eq_true, beq_iff_eq] at h
    obtain ⟨rfl, h⟩ := h
    simpa [crcBits_zero] using ih h

/-- R415: an area that can be read, whose sections have the checksums of its header and which its partition may take, is accepted. -/
theorem Device.readContext_accepts (d d1 d2 d3 : Device) (p : Nat) (w : SwitchRun) (first : Bool) (bs : List Byte)
    (recs got : List (Nat × List Byte)) (e : EngineCtx) (h1 : d.readDva (d.ctxUser p) w.area 65536 = (d1, .ok bs))
    (hm : (areaHead bs).magic = true)
    (h2 : d1.readArea (d.ctxUser p) w.area ((List.range 64).map fun q => (queueAt q, 64)) = (d2, .ok recs))
    (hs : d2.savedAs (areaHead bs) = some e)
    (h3 : d2.readArea (d.ctxUser p) w.area (areaSpans recs (areaHead bs) e).flatten = (d3, .ok got))
    (hc : ((areaSpans recs (areaHead bs) e).map fun s => sectionCrc (s.map fun x => (x.1, areaBytes got x.1 x.2))) = (areaHead bs).crcs)
    (hn : (areaHead bs).declared ≤ (d3.partClusters p).length) (hl : (areaHead bs).level ≤ d3.levelOf p)
    (hf : (areaHead bs).flags % 4 = 0) (hr : first = true → d3.restorable p = true)
    (hi : d3.flag (.ctxPartStatus p) Fd.ctxPartStatusSuspended = true →
      d3.fld (.ctxPartStatus p) Fd.ctxPartStatusSuspendedId = (areaHead bs).ctx)
    (hx : w.ctx = (areaHead bs).ctx) : d.readContext p w first = (d3, .ok (areaHead bs, e, got)) := by
  have hi' : ¬ (d3.flag (.ctxPartStatus p) Fd.ctxPartStatusSuspended = true ∧
      d3.fld (.ctxPartStatus p) Fd.ctxPartStatusSuspendedId ≠ (areaHead bs).ctx) := fun h => h.2 (hi h.1)
  have hr' : ¬ (first = true ∧ d3.restorable p = false) := fun h => by simp [hr h.1] at h
  unfold Device.readContext
  simp only [h1, hm, h2, hs, h3, hc, hf, hr', hx, Nat.not_lt.mpr hn, Nat.not_lt.mpr hl, hi', ne_eq, not_true, Bool.not_true,
    if_false, and_false, or_false, Bool.false_eq_true]

end Sys2Proof.Machine
end

