-- ==== Sys2Proof/Laws/Frames.lean ====
section
/-! SUPPORT. What each update of a queue, partition, object, core, stream, port or flow leaves alone: one lemma for each field and
update; and what it gives back. -/

namespace Sys2Proof.Machine

@[simp] theorem Device.updCmd_pins (d : Device) (p q i : Nat) (f : Cmd → Cmd) : (d.updCmd p q i f).pins = d.pins := Device.setQueue_pins _ _ _ _
@[simp] theorem Device.updCmd_flash (d : Device) (p q i : Nat) (f : Cmd → Cmd) : (d.updCmd p q i f).flash = d.flash := Device.setQueue_flash _ _ _ _
@[simp] theorem Device.updCmd_boot (d : Device) (p q i : Nat) (f : Cmd → Cmd) : (d.updCmd p q i f).boot = d.boot := Device.setQueue_boot _ _ _ _
@[simp] theorem Device.updCmd_now (d : Device) (p q i : Nat) (f : Cmd → Cmd) : (d.updCmd p q i f).now = d.now := Device.setQueue_now _ _ _ _
@[simp] theorem Device.updCmd_hostMem (d : Device) (p q i : Nat) (f : Cmd → Cmd) : (d.updCmd p q i f).hostMem = d.hostMem := Device.setQueue_hostMem _ _ _ _
@[simp] theorem Device.updCmd_mem (d : Device) (p q i : Nat) (f : Cmd → Cmd) : (d.updCmd p q i f).mem = d.mem := Device.setQueue_mem _ _ _ _
@[simp] theorem Device.updCmd_side (d : Device) (p q i : Nat) (f : Cmd → Cmd) : (d.updCmd p q i f).side = d.side := Device.setQueue_side _ _ _ _
@[simp] theorem Device.updCmd_far (d : Device) (p q i : Nat) (f : Cmd → Cmd) : (d.updCmd p q i f).far = d.far := Device.setQueue_far _ _ _ _
@[simp] theorem Device.updCmd_farSide (d : Device) (p q i : Nat) (f : Cmd → Cmd) : (d.updCmd p q i f).farSide = d.farSide := Device.setQueue_farSide _ _ _ _
@[simp] theorem Device.updCmd_hostBad (d : Device) (p q i : Nat) (f : Cmd → Cmd) : (d.updCmd p q i f).hostBad = d.hostBad := Device.setQueue_hostBad _ _ _ _
@[simp] theorem Device.updCmd_badReads (d : Device) (p q i : Nat) (f : Cmd → Cmd) : (d.updCmd p q i f).badReads = d.badReads := Device.setQueue_badReads _ _ _ _
@[simp] theorem Device.updCmd_remoteBad (d : Device) (p q i : Nat) (f : Cmd → Cmd) : (d.updCmd p q i f).remoteBad = d.remoteBad := Device.setQueue_remoteBad _ _ _ _
@[simp] theorem Device.updCmd_tlb (d : Device) (p q i : Nat) (f : Cmd → Cmd) : (d.updCmd p q i f).tlb = d.tlb := Device.setQueue_tlb _ _ _ _
@[simp] theorem Device.updCmd_handles (d : Device) (p q i : Nat) (f : Cmd → Cmd) : (d.updCmd p q i f).handles = d.handles := Device.setQueue_handles _ _ _ _
@[simp] theorem Device.updCmd_streams (d : Device) (p q i : Nat) (f : Cmd → Cmd) : (d.updCmd p q i f).streams = d.streams := Device.setQueue_streams _ _ _ _
@[simp] theorem Device.updCmd_injectors (d : Device) (p q i : Nat) (f : Cmd → Cmd) : (d.updCmd p q i f).injectors = d.injectors := Device.setQueue_injectors _ _ _ _
@[simp] theorem Device.updCmd_errs (d : Device) (p q i : Nat) (f : Cmd → Cmd) : (d.updCmd p q i f).errs = d.errs := Device.setQueue_errs _ _ _ _
@[simp] theorem Device.updCmd_hist (d : Device) (p q i : Nat) (f : Cmd → Cmd) : (d.updCmd p q i f).hist = d.hist := Device.setQueue_hist _ _ _ _
@[simp] theorem Device.updCmd_events (d : Device) (p q i : Nat) (f : Cmd → Cmd) : (d.updCmd p q i f).events = d.events := Device.setQueue_events _ _ _ _
@[simp] theorem Device.updCmd_sqs (d : Device) (p q i : Nat) (f : Cmd → Cmd) : (d.updCmd p q i f).sqs = d.sqs := Device.setQueue_sqs _ _ _ _
@[simp] theorem Device.updCmd_cqs (d : Device) (p q i : Nat) (f : Cmd → Cmd) : (d.updCmd p q i f).cqs = d.cqs := Device.setQueue_cqs _ _ _ _
@[simp] theorem Device.updCmd_objs (d : Device) (p q i : Nat) (f : Cmd → Cmd) : (d.updCmd p q i f).objs = d.objs := Device.setQueue_objs _ _ _ _
@[simp] theorem Device.updCmd_flows (d : Device) (p q i : Nat) (f : Cmd → Cmd) : (d.updCmd p q i f).flows = d.flows := Device.setQueue_flows _ _ _ _
@[simp] theorem Device.updCmd_layout (d : Device) (p q i : Nat) (f : Cmd → Cmd) : (d.updCmd p q i f).layout = d.layout := Device.setQueue_layout _ _ _ _
@[simp] theorem Device.updCmd_cores (d : Device) (p q i : Nat) (f : Cmd → Cmd) : (d.updCmd p q i f).cores = d.cores := Device.setQueue_cores _ _ _ _
@[simp] theorem Device.updCmd_readyLists (d : Device) (p q i : Nat) (f : Cmd → Cmd) : (d.updCmd p q i f).readyLists = d.readyLists := Device.setQueue_readyLists _ _ _ _
@[simp] theorem Device.updCmd_rr (d : Device) (p q i : Nat) (f : Cmd → Cmd) : (d.updCmd p q i f).rr = d.rr := Device.setQueue_rr _ _ _ _
@[simp] theorem Device.updCmd_left (d : Device) (p q i : Nat) (f : Cmd → Cmd) : (d.updCmd p q i f).left = d.left := Device.setQueue_left _ _ _ _
@[simp] theorem Device.updCmd_readyStamp (d : Device) (p q i : Nat) (f : Cmd → Cmd) : (d.updCmd p q i f).readyStamp = d.readyStamp := Device.setQueue_readyStamp _ _ _ _
@[simp] theorem Device.updCmd_pmemHeld (d : Device) (p q i : Nat) (f : Cmd → Cmd) : (d.updCmd p q i f).pmemHeld = d.pmemHeld := Device.setQueue_pmemHeld _ _ _ _
@[simp] theorem Device.updCmd_ptmOn (d : Device) (p q i : Nat) (f : Cmd → Cmd) : (d.updCmd p q i f).ptmOn = d.ptmOn := Device.setQueue_ptmOn _ _ _ _
@[simp] theorem Device.updCmd_link (d : Device) (p q i : Nat) (f : Cmd → Cmd) : (d.updCmd p q i f).link = d.link := Device.setQueue_link _ _ _ _
@[simp] theorem Device.updCmd_unmasked (d : Device) (p q i : Nat) (f : Cmd → Cmd) : (d.updCmd p q i f).unmasked = d.unmasked := Device.setQueue_unmasked _ _ _ _
@[simp] theorem Device.updCmd_msixPending (d : Device) (p q i : Nat) (f : Cmd → Cmd) : (d.updCmd p q i f).msixPending = d.msixPending := Device.setQueue_msixPending _ _ _ _
@[simp] theorem Device.updCmd_contribStalled (d : Device) (p q i : Nat) (f : Cmd → Cmd) : (d.updCmd p q i f).contribStalled = d.contribStalled := Device.setQueue_contribStalled _ _ _ _
@[simp] theorem Device.updCmd_waiterEpisode (d : Device) (p q i : Nat) (f : Cmd → Cmd) : (d.updCmd p q i f).waiterEpisode = d.waiterEpisode := Device.setQueue_waiterEpisode _ _ _ _
@[simp] theorem Device.updCmd_vfs (d : Device) (p q i : Nat) (f : Cmd → Cmd) : (d.updCmd p q i f).vfs = d.vfs := Device.setQueue_vfs _ _ _ _
@[simp] theorem Device.updCmd_d3 (d : Device) (p q i : Nat) (f : Cmd → Cmd) : (d.updCmd p q i f).d3 = d.d3 := Device.setQueue_d3 _ _ _ _
@[simp] theorem Device.updCmd_ptm (d : Device) (p q i : Nat) (f : Cmd → Cmd) : (d.updCmd p q i f).ptm = d.ptm := Device.setQueue_ptm _ _ _ _
@[simp] theorem Device.updCmd_power (d : Device) (p q i : Nat) (f : Cmd → Cmd) : (d.updCmd p q i f).power = d.power := Device.setQueue_power _ _ _ _
@[simp] theorem Device.updCmd_parts (d : Device) (p q i : Nat) (f : Cmd → Cmd) : (d.updCmd p q i f).parts = d.parts := Device.setQueue_parts _ _ _ _
@[simp] theorem Device.updCmd_flowDone (d : Device) (p q i : Nat) (f : Cmd → Cmd) : (d.updCmd p q i f).flowDone = d.flowDone := Device.setQueue_flowDone _ _ _ _
@[simp] theorem Device.updCmd_directory (d : Device) (p q i : Nat) (f : Cmd → Cmd) : (d.updCmd p q i f).directory = d.directory := Device.setQueue_directory _ _ _ _
@[simp] theorem Device.updCmd_enable (d : Device) (p q i : Nat) (f : Cmd → Cmd) : (d.updCmd p q i f).enable = d.enable := Device.setQueue_enable _ _ _ _
@[simp] theorem Device.updCmd_enabled (d : Device) (p q i : Nat) (f : Cmd → Cmd) : (d.updCmd p q i f).enabled = d.enabled := Device.setQueue_enabled _ _ _ _
@[simp] theorem Device.updCmd_time (d : Device) (p q i : Nat) (f : Cmd → Cmd) : (d.updCmd p q i f).time = d.time := Device.setQueue_time _ _ _ _
@[simp] theorem Device.updCmd_levelOut (d : Device) (p q i : Nat) (f : Cmd → Cmd) : (d.updCmd p q i f).levelOut = d.levelOut := Device.setQueue_levelOut _ _ _ _
@[simp] theorem Device.updCmd_ports (d : Device) (p q i : Nat) (f : Cmd → Cmd) : (d.updCmd p q i f).ports = d.ports := Device.setQueue_ports _ _ _ _
@[simp] theorem Device.updCmd_txWait (d : Device) (p q i : Nat) (f : Cmd → Cmd) : (d.updCmd p q i f).txWait = d.txWait := Device.setQueue_txWait _ _ _ _
@[simp] theorem Device.updCmd_reqs (d : Device) (p q i : Nat) (f : Cmd → Cmd) : (d.updCmd p q i f).reqs = d.reqs := Device.setQueue_reqs _ _ _ _
@[simp] theorem Device.updCmd_nextReq (d : Device) (p q i : Nat) (f : Cmd → Cmd) : (d.updCmd p q i f).nextReq = d.nextReq := Device.setQueue_nextReq _ _ _ _
@[simp] theorem Device.updCmd_outFlows (d : Device) (p q i : Nat) (f : Cmd → Cmd) : (d.updCmd p q i f).outFlows = d.outFlows := Device.setQueue_outFlows _ _ _ _
@[simp] theorem Device.updCmd_landing (d : Device) (p q i : Nat) (f : Cmd → Cmd) : (d.updCmd p q i f).landing = d.landing := Device.setQueue_landing _ _ _ _
@[simp] theorem Device.updCmd_heldReads (d : Device) (p q i : Nat) (f : Cmd → Cmd) : (d.updCmd p q i f).heldReads = d.heldReads := Device.setQueue_heldReads _ _ _ _
@[simp] theorem Device.updCmd_groups (d : Device) (p q i : Nat) (f : Cmd → Cmd) : (d.updCmd p q i f).groups = d.groups := Device.setQueue_groups _ _ _ _
@[simp] theorem Device.updCmd_collData (d : Device) (p q i : Nat) (f : Cmd → Cmd) : (d.updCmd p q i f).collData = d.collData := Device.setQueue_collData _ _ _ _
@[simp] theorem Device.updCmd_heldSignals (d : Device) (p q i : Nat) (f : Cmd → Cmd) : (d.updCmd p q i f).heldSignals = d.heldSignals := Device.setQueue_heldSignals _ _ _ _
@[simp] theorem Device.updCmd_resets (d : Device) (p q i : Nat) (f : Cmd → Cmd) : (d.updCmd p q i f).resets = d.resets := Device.setQueue_resets _ _ _ _
@[simp] theorem Device.updCmd_groupsKept (d : Device) (p q i : Nat) (f : Cmd → Cmd) : (d.updCmd p q i f).groupsKept = d.groupsKept := Device.setQueue_groupsKept _ _ _ _
@[simp] theorem Device.updCmd_groupsDropped (d : Device) (p q i : Nat) (f : Cmd → Cmd) : (d.updCmd p q i f).groupsDropped = d.groupsDropped := Device.setQueue_groupsDropped _ _ _ _
@[simp] theorem Device.updCmd_saves (d : Device) (p q i : Nat) (f : Cmd → Cmd) : (d.updCmd p q i f).saves = d.saves := Device.setQueue_saves _ _ _ _
@[simp] theorem Device.updCmd_saving (d : Device) (p q i : Nat) (f : Cmd → Cmd) : (d.updCmd p q i f).saving = d.saving := Device.setQueue_saving _ _ _ _
@[simp] theorem Device.updCmd_mgmt (d : Device) (p q i : Nat) (f : Cmd → Cmd) : (d.updCmd p q i f).mgmt = d.mgmt := Device.setQueue_mgmt _ _ _ _
@[simp] theorem Device.updCmd_out (d : Device) (p q i : Nat) (f : Cmd → Cmd) : (d.updCmd p q i f).out = d.out := Device.setQueue_out _ _ _ _
@[simp] theorem Device.updCmd_free (d : Device) (p q i : Nat) (f : Cmd → Cmd) : (d.updCmd p q i f).free = d.free := Device.setQueue_free _ _ _ _

@[simp] theorem Device.updPart_regs (d : Device) (p : Nat) (f : Part → Part) : (d.updPart p f).regs = d.regs := rfl
@[simp] theorem Device.updPart_pins (d : Device) (p : Nat) (f : Part → Part) : (d.updPart p f).pins = d.pins := rfl
@[simp] theorem Device.updPart_flash (d : Device) (p : Nat) (f : Part → Part) : (d.updPart p f).flash = d.flash := rfl
@[simp] theorem Device.updPart_boot (d : Device) (p : Nat) (f : Part → Part) : (d.updPart p f).boot = d.boot := rfl
@[simp] theorem Device.updPart_now (d : Device) (p : Nat) (f : Part → Part) : (d.updPart p f).now = d.now := rfl
@[simp] theorem Device.updPart_hostMem (d : Device) (p : Nat) (f : Part → Part) : (d.updPart p f).hostMem = d.hostMem := rfl
@[simp] theorem Device.updPart_mem (d : Device) (p : Nat) (f : Part → Part) : (d.updPart p f).mem = d.mem := rfl
@[simp] theorem Device.updPart_side (d : Device) (p : Nat) (f : Part → Part) : (d.updPart p f).side = d.side := rfl
@[simp] theorem Device.updPart_far (d : Device) (p : Nat) (f : Part → Part) : (d.updPart p f).far = d.far := rfl
@[simp] theorem Device.updPart_farSide (d : Device) (p : Nat) (f : Part → Part) : (d.updPart p f).farSide = d.farSide := rfl
@[simp] theorem Device.updPart_hostBad (d : Device) (p : Nat) (f : Part → Part) : (d.updPart p f).hostBad = d.hostBad := rfl
@[simp] theorem Device.updPart_badReads (d : Device) (p : Nat) (f : Part → Part) : (d.updPart p f).badReads = d.badReads := rfl
@[simp] theorem Device.updPart_remoteBad (d : Device) (p : Nat) (f : Part → Part) : (d.updPart p f).remoteBad = d.remoteBad := rfl
@[simp] theorem Device.updPart_tlb (d : Device) (p : Nat) (f : Part → Part) : (d.updPart p f).tlb = d.tlb := rfl
@[simp] theorem Device.updPart_handles (d : Device) (p : Nat) (f : Part → Part) : (d.updPart p f).handles = d.handles := rfl
@[simp] theorem Device.updPart_streams (d : Device) (p : Nat) (f : Part → Part) : (d.updPart p f).streams = d.streams := rfl
@[simp] theorem Device.updPart_injectors (d : Device) (p : Nat) (f : Part → Part) : (d.updPart p f).injectors = d.injectors := rfl
@[simp] theorem Device.updPart_errs (d : Device) (p : Nat) (f : Part → Part) : (d.updPart p f).errs = d.errs := rfl
@[simp] theorem Device.updPart_hist (d : Device) (p : Nat) (f : Part → Part) : (d.updPart p f).hist = d.hist := rfl
@[simp] theorem Device.updPart_events (d : Device) (p : Nat) (f : Part → Part) : (d.updPart p f).events = d.events := rfl
@[simp] theorem Device.updPart_sqs (d : Device) (p : Nat) (f : Part → Part) : (d.updPart p f).sqs = d.sqs := rfl
@[simp] theorem Device.updPart_cqs (d : Device) (p : Nat) (f : Part → Part) : (d.updPart p f).cqs = d.cqs := rfl
@[simp] theorem Device.updPart_queues (d : Device) (p : Nat) (f : Part → Part) : (d.updPart p f).queues = d.queues := rfl
@[simp] theorem Device.updPart_objs (d : Device) (p : Nat) (f : Part → Part) : (d.updPart p f).objs = d.objs := rfl
@[simp] theorem Device.updPart_flows (d : Device) (p : Nat) (f : Part → Part) : (d.updPart p f).flows = d.flows := rfl
@[simp] theorem Device.updPart_layout (d : Device) (p : Nat) (f : Part → Part) : (d.updPart p f).layout = d.layout := rfl
@[simp] theorem Device.updPart_cores (d : Device) (p : Nat) (f : Part → Part) : (d.updPart p f).cores = d.cores := rfl
@[simp] theorem Device.updPart_readyLists (d : Device) (p : Nat) (f : Part → Part) : (d.updPart p f).readyLists = d.readyLists := rfl
@[simp] theorem Device.updPart_rr (d : Device) (p : Nat) (f : Part → Part) : (d.updPart p f).rr = d.rr := rfl
@[simp] theorem Device.updPart_left (d : Device) (p : Nat) (f : Part → Part) : (d.updPart p f).left = d.left := rfl
@[simp] theorem Device.updPart_readyStamp (d : Device) (p : Nat) (f : Part → Part) : (d.updPart p f).readyStamp = d.readyStamp := rfl
@[simp] theorem Device.updPart_pmemHeld (d : Device) (p : Nat) (f : Part → Part) : (d.updPart p f).pmemHeld = d.pmemHeld := rfl
@[simp] theorem Device.updPart_ptmOn (d : Device) (p : Nat) (f : Part → Part) : (d.updPart p f).ptmOn = d.ptmOn := rfl
@[simp] theorem Device.updPart_link (d : Device) (p : Nat) (f : Part → Part) : (d.updPart p f).link = d.link := rfl
@[simp] theorem Device.updPart_unmasked (d : Device) (p : Nat) (f : Part → Part) : (d.updPart p f).unmasked = d.unmasked := rfl
@[simp] theorem Device.updPart_msixPending (d : Device) (p : Nat) (f : Part → Part) : (d.updPart p f).msixPending = d.msixPending := rfl
@[simp] theorem Device.updPart_contribStalled (d : Device) (p : Nat) (f : Part → Part) : (d.updPart p f).contribStalled = d.contribStalled := rfl
@[simp] theorem Device.updPart_waiterEpisode (d : Device) (p : Nat) (f : Part → Part) : (d.updPart p f).waiterEpisode = d.waiterEpisode := rfl
@[simp] theorem Device.updPart_vfs (d : Device) (p : Nat) (f : Part → Part) : (d.updPart p f).vfs = d.vfs := rfl
@[simp] theorem Device.updPart_d3 (d : Device) (p : Nat) (f : Part → Part) : (d.updPart p f).d3 = d.d3 := rfl
@[simp] theorem Device.updPart_ptm (d : Device) (p : Nat) (f : Part → Part) : (d.updPart p f).ptm = d.ptm := rfl
@[simp] theorem Device.updPart_power (d : Device) (p : Nat) (f : Part → Part) : (d.updPart p f).power = d.power := rfl
@[simp] theorem Device.updPart_flowDone (d : Device) (p : Nat) (f : Part → Part) : (d.updPart p f).flowDone = d.flowDone := rfl
@[simp] theorem Device.updPart_directory (d : Device) (p : Nat) (f : Part → Part) : (d.updPart p f).directory = d.directory := rfl
@[simp] theorem Device.updPart_enable (d : Device) (p : Nat) (f : Part → Part) : (d.updPart p f).enable = d.enable := rfl
@[simp] theorem Device.updPart_enabled (d : Device) (p : Nat) (f : Part → Part) : (d.updPart p f).enabled = d.enabled := rfl
@[simp] theorem Device.updPart_time (d : Device) (p : Nat) (f : Part → Part) : (d.updPart p f).time = d.time := rfl
@[simp] theorem Device.updPart_levelOut (d : Device) (p : Nat) (f : Part → Part) : (d.updPart p f).levelOut = d.levelOut := rfl
@[simp] theorem Device.updPart_ports (d : Device) (p : Nat) (f : Part → Part) : (d.updPart p f).ports = d.ports := rfl
@[simp] theorem Device.updPart_txWait (d : Device) (p : Nat) (f : Part → Part) : (d.updPart p f).txWait = d.txWait := rfl
@[simp] theorem Device.updPart_reqs (d : Device) (p : Nat) (f : Part → Part) : (d.updPart p f).reqs = d.reqs := rfl
@[simp] theorem Device.updPart_nextReq (d : Device) (p : Nat) (f : Part → Part) : (d.updPart p f).nextReq = d.nextReq := rfl
@[simp] theorem Device.updPart_outFlows (d : Device) (p : Nat) (f : Part → Part) : (d.updPart p f).outFlows = d.outFlows := rfl
@[simp] theorem Device.updPart_landing (d : Device) (p : Nat) (f : Part → Part) : (d.updPart p f).landing = d.landing := rfl
@[simp] theorem Device.updPart_heldReads (d : Device) (p : Nat) (f : Part → Part) : (d.updPart p f).heldReads = d.heldReads := rfl
@[simp] theorem Device.updPart_groups (d : Device) (p : Nat) (f : Part → Part) : (d.updPart p f).groups = d.groups := rfl
@[simp] theorem Device.updPart_collData (d : Device) (p : Nat) (f : Part → Part) : (d.updPart p f).collData = d.collData := rfl
@[simp] theorem Device.updPart_heldSignals (d : Device) (p : Nat) (f : Part → Part) : (d.updPart p f).heldSignals = d.heldSignals := rfl
@[simp] theorem Device.updPart_resets (d : Device) (p : Nat) (f : Part → Part) : (d.updPart p f).resets = d.resets := rfl
@[simp] theorem Device.updPart_groupsKept (d : Device) (p : Nat) (f : Part → Part) : (d.updPart p f).groupsKept = d.groupsKept := rfl
@[simp] theorem Device.updPart_groupsDropped (d : Device) (p : Nat) (f : Part → Part) : (d.updPart p f).groupsDropped = d.groupsDropped := rfl
@[simp] theorem Device.updPart_saves (d : Device) (p : Nat) (f : Part → Part) : (d.updPart p f).saves = d.saves := rfl
@[simp] theorem Device.updPart_saving (d : Device) (p : Nat) (f : Part → Part) : (d.updPart p f).saving = d.saving := rfl
@[simp] theorem Device.updPart_mgmt (d : Device) (p : Nat) (f : Part → Part) : (d.updPart p f).mgmt = d.mgmt := rfl
@[simp] theorem Device.updPart_out (d : Device) (p : Nat) (f : Part → Part) : (d.updPart p f).out = d.out := rfl
@[simp] theorem Device.updPart_free (d : Device) (p : Nat) (f : Part → Part) : (d.updPart p f).free = d.free := rfl
@[simp] theorem Device.reg_updPart (d : Device) (p : Nat) (f : Part → Part) (r : Reg) : (d.updPart p f).reg r = d.reg r := rfl
@[simp] theorem Device.fld_updPart (d : Device) (p : Nat) (f : Part → Part) (r : Reg) (g : RegField) : (d.updPart p f).fld r g = d.fld r g := rfl

@[simp] theorem Device.setObj_regs (d : Device) (n : Nat) (x : SyncObj) : (d.setObj n x).regs = d.regs := rfl
@[simp] theorem Device.setObj_pins (d : Device) (n : Nat) (x : SyncObj) : (d.setObj n x).pins = d.pins := rfl
@[simp] theorem Device.setObj_flash (d : Device) (n : Nat) (x : SyncObj) : (d.setObj n x).flash = d.flash := rfl
@[simp] theorem Device.setObj_boot (d : Device) (n : Nat) (x : SyncObj) : (d.setObj n x).boot = d.boot := rfl
@[simp] theorem Device.setObj_now (d : Device) (n : Nat) (x : SyncObj) : (d.setObj n x).now = d.now := rfl
@[simp] theorem Device.setObj_hostMem (d : Device) (n : Nat) (x : SyncObj) : (d.setObj n x).hostMem = d.hostMem := rfl
@[simp] theorem Device.setObj_mem (d : Device) (n : Nat) (x : SyncObj) : (d.setObj n x).mem = d.mem := rfl
@[simp] theorem Device.setObj_side (d : Device) (n : Nat) (x : SyncObj) : (d.setObj n x).side = d.side := rfl
@[simp] theorem Device.setObj_far (d : Device) (n : Nat) (x : SyncObj) : (d.setObj n x).far = d.far := rfl
@[simp] theorem Device.setObj_farSide (d : Device) (n : Nat) (x : SyncObj) : (d.setObj n x).farSide = d.farSide := rfl
@[simp] theorem Device.setObj_hostBad (d : Device) (n : Nat) (x : SyncObj) : (d.setObj n x).hostBad = d.hostBad := rfl
@[simp] theorem Device.setObj_badReads (d : Device) (n : Nat) (x : SyncObj) : (d.setObj n x).badReads = d.badReads := rfl
@[simp] theorem Device.setObj_remoteBad (d : Device) (n : Nat) (x : SyncObj) : (d.setObj n x).remoteBad = d.remoteBad := rfl
@[simp] theorem Device.setObj_tlb (d : Device) (n : Nat) (x : SyncObj) : (d.setObj n x).tlb = d.tlb := rfl
@[simp] theorem Device.setObj_handles (d : Device) (n : Nat) (x : SyncObj) : (d.setObj n x).handles = d.handles := rfl
@[simp] theorem Device.setObj_streams (d : Device) (n : Nat) (x : SyncObj) : (d.setObj n x).streams = d.streams := rfl
@[simp] theorem Device.setObj_injectors (d : Device) (n : Nat) (x : SyncObj) : (d.setObj n x).injectors = d.injectors := rfl
@[simp] theorem Device.setObj_errs (d : Device) (n : Nat) (x : SyncObj) : (d.setObj n x).errs = d.errs := rfl
@[simp] theorem Device.setObj_hist (d : Device) (n : Nat) (x : SyncObj) : (d.setObj n x).hist = d.hist := rfl
@[simp] theorem Device.setObj_events (d : Device) (n : Nat) (x : SyncObj) : (d.setObj n x).events = d.events := rfl
@[simp] theorem Device.setObj_sqs (d : Device) (n : Nat) (x : SyncObj) : (d.setObj n x).sqs = d.sqs := rfl
@[simp] theorem Device.setObj_cqs (d : Device) (n : Nat) (x : SyncObj) : (d.setObj n x).cqs = d.cqs := rfl
@[simp] theorem Device.setObj_queues (d : Device) (n : Nat) (x : SyncObj) : (d.setObj n x).queues = d.queues := rfl
@[simp] theorem Device.setObj_flows (d : Device) (n : Nat) (x : SyncObj) : (d.setObj n x).flows = d.flows := rfl
@[simp] theorem Device.setObj_layout (d : Device) (n : Nat) (x : SyncObj) : (d.setObj n x).layout = d.layout := rfl
@[simp] theorem Device.setObj_cores (d : Device) (n : Nat) (x : SyncObj) : (d.setObj n x).cores = d.cores := rfl
@[simp] theorem Device.setObj_readyLists (d : Device) (n : Nat) (x : SyncObj) : (d.setObj n x).readyLists = d.readyLists := rfl
@[simp] theorem Device.setObj_rr (d : Device) (n : Nat) (x : SyncObj) : (d.setObj n x).rr = d.rr := rfl
@[simp] theorem Device.setObj_left (d : Device) (n : Nat) (x : SyncObj) : (d.setObj n x).left = d.left := rfl
@[simp] theorem Device.setObj_readyStamp (d : Device) (n : Nat) (x : SyncObj) : (d.setObj n x).readyStamp = d.readyStamp := rfl
@[simp] theorem Device.setObj_pmemHeld (d : Device) (n : Nat) (x : SyncObj) : (d.setObj n x).pmemHeld = d.pmemHeld := rfl
@[simp] theorem Device.setObj_ptmOn (d : Device) (n : Nat) (x : SyncObj) : (d.setObj n x).ptmOn = d.ptmOn := rfl
@[simp] theorem Device.setObj_link (d : Device) (n : Nat) (x : SyncObj) : (d.setObj n x).link = d.link := rfl
@[simp] theorem Device.setObj_unmasked (d : Device) (n : Nat) (x : SyncObj) : (d.setObj n x).unmasked = d.unmasked := rfl
@[simp] theorem Device.setObj_msixPending (d : Device) (n : Nat) (x : SyncObj) : (d.setObj n x).msixPending = d.msixPending := rfl
@[simp] theorem Device.setObj_contribStalled (d : Device) (n : Nat) (x : SyncObj) : (d.setObj n x).contribStalled = d.contribStalled := rfl
@[simp] theorem Device.setObj_waiterEpisode (d : Device) (n : Nat) (x : SyncObj) : (d.setObj n x).waiterEpisode = d.waiterEpisode := rfl
@[simp] theorem Device.setObj_vfs (d : Device) (n : Nat) (x : SyncObj) : (d.setObj n x).vfs = d.vfs := rfl
@[simp] theorem Device.setObj_d3 (d : Device) (n : Nat) (x : SyncObj) : (d.setObj n x).d3 = d.d3 := rfl
@[simp] theorem Device.setObj_ptm (d : Device) (n : Nat) (x : SyncObj) : (d.setObj n x).ptm = d.ptm := rfl
@[simp] theorem Device.setObj_power (d : Device) (n : Nat) (x : SyncObj) : (d.setObj n x).power = d.power := rfl
@[simp] theorem Device.setObj_parts (d : Device) (n : Nat) (x : SyncObj) : (d.setObj n x).parts = d.parts := rfl
@[simp] theorem Device.setObj_flowDone (d : Device) (n : Nat) (x : SyncObj) : (d.setObj n x).flowDone = d.flowDone := rfl
@[simp] theorem Device.setObj_directory (d : Device) (n : Nat) (x : SyncObj) : (d.setObj n x).directory = d.directory := rfl
@[simp] theorem Device.setObj_enable (d : Device) (n : Nat) (x : SyncObj) : (d.setObj n x).enable = d.enable := rfl
@[simp] theorem Device.setObj_enabled (d : Device) (n : Nat) (x : SyncObj) : (d.setObj n x).enabled = d.enabled := rfl
@[simp] theorem Device.setObj_time (d : Device) (n : Nat) (x : SyncObj) : (d.setObj n x).time = d.time := rfl
@[simp] theorem Device.setObj_levelOut (d : Device) (n : Nat) (x : SyncObj) : (d.setObj n x).levelOut = d.levelOut := rfl
@[simp] theorem Device.setObj_ports (d : Device) (n : Nat) (x : SyncObj) : (d.setObj n x).ports = d.ports := rfl
@[simp] theorem Device.setObj_txWait (d : Device) (n : Nat) (x : SyncObj) : (d.setObj n x).txWait = d.txWait := rfl
@[simp] theorem Device.setObj_reqs (d : Device) (n : Nat) (x : SyncObj) : (d.setObj n x).reqs = d.reqs := rfl
@[simp] theorem Device.setObj_nextReq (d : Device) (n : Nat) (x : SyncObj) : (d.setObj n x).nextReq = d.nextReq := rfl
@[simp] theorem Device.setObj_outFlows (d : Device) (n : Nat) (x : SyncObj) : (d.setObj n x).outFlows = d.outFlows := rfl
@[simp] theorem Device.setObj_landing (d : Device) (n : Nat) (x : SyncObj) : (d.setObj n x).landing = d.landing := rfl
@[simp] theorem Device.setObj_heldReads (d : Device) (n : Nat) (x : SyncObj) : (d.setObj n x).heldReads = d.heldReads := rfl
@[simp] theorem Device.setObj_groups (d : Device) (n : Nat) (x : SyncObj) : (d.setObj n x).groups = d.groups := rfl
@[simp] theorem Device.setObj_collData (d : Device) (n : Nat) (x : SyncObj) : (d.setObj n x).collData = d.collData := rfl
@[simp] theorem Device.setObj_heldSignals (d : Device) (n : Nat) (x : SyncObj) : (d.setObj n x).heldSignals = d.heldSignals := rfl
@[simp] theorem Device.setObj_resets (d : Device) (n : Nat) (x : SyncObj) : (d.setObj n x).resets = d.resets := rfl
@[simp] theorem Device.setObj_groupsKept (d : Device) (n : Nat) (x : SyncObj) : (d.setObj n x).groupsKept = d.groupsKept := rfl
@[simp] theorem Device.setObj_groupsDropped (d : Device) (n : Nat) (x : SyncObj) : (d.setObj n x).groupsDropped = d.groupsDropped := rfl
@[simp] theorem Device.setObj_saves (d : Device) (n : Nat) (x : SyncObj) : (d.setObj n x).saves = d.saves := rfl
@[simp] theorem Device.setObj_saving (d : Device) (n : Nat) (x : SyncObj) : (d.setObj n x).saving = d.saving := rfl
@[simp] theorem Device.setObj_mgmt (d : Device) (n : Nat) (x : SyncObj) : (d.setObj n x).mgmt = d.mgmt := rfl
@[simp] theorem Device.setObj_out (d : Device) (n : Nat) (x : SyncObj) : (d.setObj n x).out = d.out := rfl
@[simp] theorem Device.setObj_free (d : Device) (n : Nat) (x : SyncObj) : (d.setObj n x).free = d.free := rfl
@[simp] theorem Device.reg_setObj (d : Device) (n : Nat) (x : SyncObj) (r : Reg) : (d.setObj n x).reg r = d.reg r := rfl
@[simp] theorem Device.fld_setObj (d : Device) (n : Nat) (x : SyncObj) (r : Reg) (g : RegField) : (d.setObj n x).fld r g = d.fld r g := rfl

@[simp] theorem Device.setReady_regs (d : Device) (n : Nat) (l : List ReadyEntry) : (d.setReady n l).regs = d.regs := rfl
@[simp] theorem Device.setReady_pins (d : Device) (n : Nat) (l : List ReadyEntry) : (d.setReady n l).pins = d.pins := rfl
@[simp] theorem Device.setReady_flash (d : Device) (n : Nat) (l : List ReadyEntry) : (d.setReady n l).flash = d.flash := rfl
@[simp] theorem Device.setReady_boot (d : Device) (n : Nat) (l : List ReadyEntry) : (d.setReady n l).boot = d.boot := rfl
@[simp] theorem Device.setReady_now (d : Device) (n : Nat) (l : List ReadyEntry) : (d.setReady n l).now = d.now := rfl
@[simp] theorem Device.setReady_hostMem (d : Device) (n : Nat) (l : List ReadyEntry) : (d.setReady n l).hostMem = d.hostMem := rfl
@[simp] theorem Device.setReady_mem (d : Device) (n : Nat) (l : List ReadyEntry) : (d.setReady n l).mem = d.mem := rfl
@[simp] theorem Device.setReady_side (d : Device) (n : Nat) (l : List ReadyEntry) : (d.setReady n l).side = d.side := rfl
@[simp] theorem Device.setReady_far (d : Device) (n : Nat) (l : List ReadyEntry) : (d.setReady n l).far = d.far := rfl
@[simp] theorem Device.setReady_farSide (d : Device) (n : Nat) (l : List ReadyEntry) : (d.setReady n l).farSide = d.farSide := rfl
@[simp] theorem Device.setReady_hostBad (d : Device) (n : Nat) (l : List ReadyEntry) : (d.setReady n l).hostBad = d.hostBad := rfl
@[simp] theorem Device.setReady_badReads (d : Device) (n : Nat) (l : List ReadyEntry) : (d.setReady n l).badReads = d.badReads := rfl
@[simp] theorem Device.setReady_remoteBad (d : Device) (n : Nat) (l : List ReadyEntry) : (d.setReady n l).remoteBad = d.remoteBad := rfl
@[simp] theorem Device.setReady_tlb (d : Device) (n : Nat) (l : List ReadyEntry) : (d.setReady n l).tlb = d.tlb := rfl
@[simp] theorem Device.setReady_handles (d : Device) (n : Nat) (l : List ReadyEntry) : (d.setReady n l).handles = d.handles := rfl
@[simp] theorem Device.setReady_streams (d : Device) (n : Nat) (l : List ReadyEntry) : (d.setReady n l).streams = d.streams := rfl
@[simp] theorem Device.setReady_injectors (d : Device) (n : Nat) (l : List ReadyEntry) : (d.setReady n l).injectors = d.injectors := rfl
@[simp] theorem Device.setReady_errs (d : Device) (n : Nat) (l : List ReadyEntry) : (d.setReady n l).errs = d.errs := rfl
@[simp] theorem Device.setReady_hist (d : Device) (n : Nat) (l : List ReadyEntry) : (d.setReady n l).hist = d.hist := rfl
@[simp] theorem Device.setReady_events (d : Device) (n : Nat) (l : List ReadyEntry) : (d.setReady n l).events = d.events := rfl
@[simp] theorem Device.setReady_sqs (d : Device) (n : Nat) (l : List ReadyEntry) : (d.setReady n l).sqs = d.sqs := rfl
@[simp] theorem Device.setReady_cqs (d : Device) (n : Nat) (l : List ReadyEntry) : (d.setReady n l).cqs = d.cqs := rfl
@[simp] theorem Device.setReady_queues (d : Device) (n : Nat) (l : List ReadyEntry) : (d.setReady n l).queues = d.queues := rfl
@[simp] theorem Device.setReady_objs (d : Device) (n : Nat) (l : List ReadyEntry) : (d.setReady n l).objs = d.objs := rfl
@[simp] theorem Device.setReady_flows (d : Device) (n : Nat) (l : List ReadyEntry) : (d.setReady n l).flows = d.flows := rfl
@[simp] theorem Device.setReady_layout (d : Device) (n : Nat) (l : List ReadyEntry) : (d.setReady n l).layout = d.layout := rfl
@[simp] theorem Device.setReady_cores (d : Device) (n : Nat) (l : List ReadyEntry) : (d.setReady n l).cores = d.cores := rfl
@[simp] theorem Device.setReady_rr (d : Device) (n : Nat) (l : List ReadyEntry) : (d.setReady n l).rr = d.rr := rfl
@[simp] theorem Device.setReady_left (d : Device) (n : Nat) (l : List ReadyEntry) : (d.setReady n l).left = d.left := rfl
@[simp] theorem Device.setReady_readyStamp (d : Device) (n : Nat) (l : List ReadyEntry) : (d.setReady n l).readyStamp = d.readyStamp := rfl
@[simp] theorem Device.setReady_pmemHeld (d : Device) (n : Nat) (l : List ReadyEntry) : (d.setReady n l).pmemHeld = d.pmemHeld := rfl
@[simp] theorem Device.setReady_ptmOn (d : Device) (n : Nat) (l : List ReadyEntry) : (d.setReady n l).ptmOn = d.ptmOn := rfl
@[simp] theorem Device.setReady_link (d : Device) (n : Nat) (l : List ReadyEntry) : (d.setReady n l).link = d.link := rfl
@[simp] theorem Device.setReady_unmasked (d : Device) (n : Nat) (l : List ReadyEntry) : (d.setReady n l).unmasked = d.unmasked := rfl
@[simp] theorem Device.setReady_msixPending (d : Device) (n : Nat) (l : List ReadyEntry) : (d.setReady n l).msixPending = d.msixPending := rfl
@[simp] theorem Device.setReady_contribStalled (d : Device) (n : Nat) (l : List ReadyEntry) : (d.setReady n l).contribStalled = d.contribStalled := rfl
@[simp] theorem Device.setReady_waiterEpisode (d : Device) (n : Nat) (l : List ReadyEntry) : (d.setReady n l).waiterEpisode = d.waiterEpisode := rfl
@[simp] theorem Device.setReady_vfs (d : Device) (n : Nat) (l : List ReadyEntry) : (d.setReady n l).vfs = d.vfs := rfl
@[simp] theorem Device.setReady_d3 (d : Device) (n : Nat) (l : List ReadyEntry) : (d.setReady n l).d3 = d.d3 := rfl
@[simp] theorem Device.setReady_ptm (d : Device) (n : Nat) (l : List ReadyEntry) : (d.setReady n l).ptm = d.ptm := rfl
@[simp] theorem Device.setReady_power (d : Device) (n : Nat) (l : List ReadyEntry) : (d.setReady n l).power = d.power := rfl
@[simp] theorem Device.setReady_parts (d : Device) (n : Nat) (l : List ReadyEntry) : (d.setReady n l).parts = d.parts := rfl
@[simp] theorem Device.setReady_flowDone (d : Device) (n : Nat) (l : List ReadyEntry) : (d.setReady n l).flowDone = d.flowDone := rfl
@[simp] theorem Device.setReady_directory (d : Device) (n : Nat) (l : List ReadyEntry) : (d.setReady n l).directory = d.directory := rfl
@[simp] theorem Device.setReady_enable (d : Device) (n : Nat) (l : List ReadyEntry) : (d.setReady n l).enable = d.enable := rfl
@[simp] theorem Device.setReady_enabled (d : Device) (n : Nat) (l : List ReadyEntry) : (d.setReady n l).enabled = d.enabled := rfl
@[simp] theorem Device.setReady_time (d : Device) (n : Nat) (l : List ReadyEntry) : (d.setReady n l).time = d.time := rfl
@[simp] theorem Device.setReady_levelOut (d : Device) (n : Nat) (l : List ReadyEntry) : (d.setReady n l).levelOut = d.levelOut := rfl
@[simp] theorem Device.setReady_ports (d : Device) (n : Nat) (l : List ReadyEntry) : (d.setReady n l).ports = d.ports := rfl
@[simp] theorem Device.setReady_txWait (d : Device) (n : Nat) (l : List ReadyEntry) : (d.setReady n l).txWait = d.txWait := rfl
@[simp] theorem Device.setReady_reqs (d : Device) (n : Nat) (l : List ReadyEntry) : (d.setReady n l).reqs = d.reqs := rfl
@[simp] theorem Device.setReady_nextReq (d : Device) (n : Nat) (l : List ReadyEntry) : (d.setReady n l).nextReq = d.nextReq := rfl
@[simp] theorem Device.setReady_outFlows (d : Device) (n : Nat) (l : List ReadyEntry) : (d.setReady n l).outFlows = d.outFlows := rfl
@[simp] theorem Device.setReady_landing (d : Device) (n : Nat) (l : List ReadyEntry) : (d.setReady n l).landing = d.landing := rfl
@[simp] theorem Device.setReady_heldReads (d : Device) (n : Nat) (l : List ReadyEntry) : (d.setReady n l).heldReads = d.heldReads := rfl
@[simp] theorem Device.setReady_groups (d : Device) (n : Nat) (l : List ReadyEntry) : (d.setReady n l).groups = d.groups := rfl
@[simp] theorem Device.setReady_collData (d : Device) (n : Nat) (l : List ReadyEntry) : (d.setReady n l).collData = d.collData := rfl
@[simp] theorem Device.setReady_heldSignals (d : Device) (n : Nat) (l : List ReadyEntry) : (d.setReady n l).heldSignals = d.heldSignals := rfl
@[simp] theorem Device.setReady_resets (d : Device) (n : Nat) (l : List ReadyEntry) : (d.setReady n l).resets = d.resets := rfl
@[simp] theorem Device.setReady_groupsKept (d : Device) (n : Nat) (l : List ReadyEntry) : (d.setReady n l).groupsKept = d.groupsKept := rfl
@[simp] theorem Device.setReady_groupsDropped (d : Device) (n : Nat) (l : List ReadyEntry) : (d.setReady n l).groupsDropped = d.groupsDropped := rfl
@[simp] theorem Device.setReady_saves (d : Device) (n : Nat) (l : List ReadyEntry) : (d.setReady n l).saves = d.saves := rfl
@[simp] theorem Device.setReady_saving (d : Device) (n : Nat) (l : List ReadyEntry) : (d.setReady n l).saving = d.saving := rfl
@[simp] theorem Device.setReady_mgmt (d : Device) (n : Nat) (l : List ReadyEntry) : (d.setReady n l).mgmt = d.mgmt := rfl
@[simp] theorem Device.setReady_out (d : Device) (n : Nat) (l : List ReadyEntry) : (d.setReady n l).out = d.out := rfl
@[simp] theorem Device.setReady_free (d : Device) (n : Nat) (l : List ReadyEntry) : (d.setReady n l).free = d.free := rfl
@[simp] theorem Device.reg_setReady (d : Device) (n : Nat) (l : List ReadyEntry) (r : Reg) : (d.setReady n l).reg r = d.reg r := rfl
@[simp] theorem Device.fld_setReady (d : Device) (n : Nat) (l : List ReadyEntry) (r : Reg) (g : RegField) : (d.setReady n l).fld r g = d.fld r g := rfl

@[simp] theorem Device.setCore_regs (d : Device) (c : Nat) (k : Core) : (d.setCore c k).regs = d.regs := rfl
@[simp] theorem Device.setCore_pins (d : Device) (c : Nat) (k : Core) : (d.setCore c k).pins = d.pins := rfl
@[simp] theorem Device.setCore_flash (d : Device) (c : Nat) (k : Core) : (d.setCore c k).flash = d.flash := rfl
@[simp] theorem Device.setCore_boot (d : Device) (c : Nat) (k : Core) : (d.setCore c k).boot = d.boot := rfl
@[simp] theorem Device.setCore_now (d : Device) (c : Nat) (k : Core) : (d.setCore c k).now = d.now := rfl
@[simp] theorem Device.setCore_hostMem (d : Device) (c : Nat) (k : Core) : (d.setCore c k).hostMem = d.hostMem := rfl
@[simp] theorem Device.setCore_mem (d : Device) (c : Nat) (k : Core) : (d.setCore c k).mem = d.mem := rfl
@[simp] theorem Device.setCore_side (d : Device) (c : Nat) (k : Core) : (d.setCore c k).side = d.side := rfl
@[simp] theorem Device.setCore_far (d : Device) (c : Nat) (k : Core) : (d.setCore c k).far = d.far := rfl
@[simp] theorem Device.setCore_farSide (d : Device) (c : Nat) (k : Core) : (d.setCore c k).farSide = d.farSide := rfl
@[simp] theorem Device.setCore_hostBad (d : Device) (c : Nat) (k : Core) : (d.setCore c k).hostBad = d.hostBad := rfl
@[simp] theorem Device.setCore_badReads (d : Device) (c : Nat) (k : Core) : (d.setCore c k).badReads = d.badReads := rfl
@[simp] theorem Device.setCore_remoteBad (d : Device) (c : Nat) (k : Core) : (d.setCore c k).remoteBad = d.remoteBad := rfl
@[simp] theorem Device.setCore_tlb (d : Device) (c : Nat) (k : Core) : (d.setCore c k).tlb = d.tlb := rfl
@[simp] theorem Device.setCore_handles (d : Device) (c : Nat) (k : Core) : (d.setCore c k).handles = d.handles := rfl
@[simp] theorem Device.setCore_streams (d : Device) (c : Nat) (k : Core) : (d.setCore c k).streams = d.streams := rfl
@[simp] theorem Device.setCore_injectors (d : Device) (c : Nat) (k : Core) : (d.setCore c k).injectors = d.injectors := rfl
@[simp] theorem Device.setCore_errs (d : Device) (c : Nat) (k : Core) : (d.setCore c k).errs = d.errs := rfl
@[simp] theorem Device.setCore_hist (d : Device) (c : Nat) (k : Core) : (d.setCore c k).hist = d.hist := rfl
@[simp] theorem Device.setCore_events (d : Device) (c : Nat) (k : Core) : (d.setCore c k).events = d.events := rfl
@[simp] theorem Device.setCore_sqs (d : Device) (c : Nat) (k : Core) : (d.setCore c k).sqs = d.sqs := rfl
@[simp] theorem Device.setCore_cqs (d : Device) (c : Nat) (k : Core) : (d.setCore c k).cqs = d.cqs := rfl
@[simp] theorem Device.setCore_queues (d : Device) (c : Nat) (k : Core) : (d.setCore c k).queues = d.queues := rfl
@[simp] theorem Device.setCore_objs (d : Device) (c : Nat) (k : Core) : (d.setCore c k).objs = d.objs := rfl
@[simp] theorem Device.setCore_flows (d : Device) (c : Nat) (k : Core) : (d.setCore c k).flows = d.flows := rfl
@[simp] theorem Device.setCore_layout (d : Device) (c : Nat) (k : Core) : (d.setCore c k).layout = d.layout := rfl
@[simp] theorem Device.setCore_readyLists (d : Device) (c : Nat) (k : Core) : (d.setCore c k).readyLists = d.readyLists := rfl
@[simp] theorem Device.setCore_rr (d : Device) (c : Nat) (k : Core) : (d.setCore c k).rr = d.rr := rfl
@[simp] theorem Device.setCore_left (d : Device) (c : Nat) (k : Core) : (d.setCore c k).left = d.left := rfl
@[simp] theorem Device.setCore_readyStamp (d : Device) (c : Nat) (k : Core) : (d.setCore c k).readyStamp = d.readyStamp := rfl
@[simp] theorem Device.setCore_pmemHeld (d : Device) (c : Nat) (k : Core) : (d.setCore c k).pmemHeld = d.pmemHeld := rfl
@[simp] theorem Device.setCore_ptmOn (d : Device) (c : Nat) (k : Core) : (d.setCore c k).ptmOn = d.ptmOn := rfl
@[simp] theorem Device.setCore_link (d : Device) (c : Nat) (k : Core) : (d.setCore c k).link = d.link := rfl
@[simp] theorem Device.setCore_unmasked (d : Device) (c : Nat) (k : Core) : (d.setCore c k).unmasked = d.unmasked := rfl
@[simp] theorem Device.setCore_msixPending (d : Device) (c : Nat) (k : Core) : (d.setCore c k).msixPending = d.msixPending := rfl
@[simp] theorem Device.setCore_contribStalled (d : Device) (c : Nat) (k : Core) : (d.setCore c k).contribStalled = d.contribStalled := rfl
@[simp] theorem Device.setCore_waiterEpisode (d : Device) (c : Nat) (k : Core) : (d.setCore c k).waiterEpisode = d.waiterEpisode := rfl
@[simp] theorem Device.setCore_vfs (d : Device) (c : Nat) (k : Core) : (d.setCore c k).vfs = d.vfs := rfl
@[simp] theorem Device.setCore_d3 (d : Device) (c : Nat) (k : Core) : (d.setCore c k).d3 = d.d3 := rfl
@[simp] theorem Device.setCore_ptm (d : Device) (c : Nat) (k : Core) : (d.setCore c k).ptm = d.ptm := rfl
@[simp] theorem Device.setCore_power (d : Device) (c : Nat) (k : Core) : (d.setCore c k).power = d.power := rfl
@[simp] theorem Device.setCore_parts (d : Device) (c : Nat) (k : Core) : (d.setCore c k).parts = d.parts := rfl
@[simp] theorem Device.setCore_flowDone (d : Device) (c : Nat) (k : Core) : (d.setCore c k).flowDone = d.flowDone := rfl
@[simp] theorem Device.setCore_directory (d : Device) (c : Nat) (k : Core) : (d.setCore c k).directory = d.directory := rfl
@[simp] theorem Device.setCore_enable (d : Device) (c : Nat) (k : Core) : (d.setCore c k).enable = d.enable := rfl
@[simp] theorem Device.setCore_enabled (d : Device) (c : Nat) (k : Core) : (d.setCore c k).enabled = d.enabled := rfl
@[simp] theorem Device.setCore_time (d : Device) (c : Nat) (k : Core) : (d.setCore c k).time = d.time := rfl
@[simp] theorem Device.setCore_levelOut (d : Device) (c : Nat) (k : Core) : (d.setCore c k).levelOut = d.levelOut := rfl
@[simp] theorem Device.setCore_ports (d : Device) (c : Nat) (k : Core) : (d.setCore c k).ports = d.ports := rfl
@[simp] theorem Device.setCore_txWait (d : Device) (c : Nat) (k : Core) : (d.setCore c k).txWait = d.txWait := rfl
@[simp] theorem Device.setCore_reqs (d : Device) (c : Nat) (k : Core) : (d.setCore c k).reqs = d.reqs := rfl
@[simp] theorem Device.setCore_nextReq (d : Device) (c : Nat) (k : Core) : (d.setCore c k).nextReq = d.nextReq := rfl
@[simp] theorem Device.setCore_outFlows (d : Device) (c : Nat) (k : Core) : (d.setCore c k).outFlows = d.outFlows := rfl
@[simp] theorem Device.setCore_landing (d : Device) (c : Nat) (k : Core) : (d.setCore c k).landing = d.landing := rfl
@[simp] theorem Device.setCore_heldReads (d : Device) (c : Nat) (k : Core) : (d.setCore c k).heldReads = d.heldReads := rfl
@[simp] theorem Device.setCore_groups (d : Device) (c : Nat) (k : Core) : (d.setCore c k).groups = d.groups := rfl
@[simp] theorem Device.setCore_collData (d : Device) (c : Nat) (k : Core) : (d.setCore c k).collData = d.collData := rfl
@[simp] theorem Device.setCore_heldSignals (d : Device) (c : Nat) (k : Core) : (d.setCore c k).heldSignals = d.heldSignals := rfl
@[simp] theorem Device.setCore_resets (d : Device) (c : Nat) (k : Core) : (d.setCore c k).resets = d.resets := rfl
@[simp] theorem Device.setCore_groupsKept (d : Device) (c : Nat) (k : Core) : (d.setCore c k).groupsKept = d.groupsKept := rfl
@[simp] theorem Device.setCore_groupsDropped (d : Device) (c : Nat) (k : Core) : (d.setCore c k).groupsDropped = d.groupsDropped := rfl
@[simp] theorem Device.setCore_saves (d : Device) (c : Nat) (k : Core) : (d.setCore c k).saves = d.saves := rfl
@[simp] theorem Device.setCore_saving (d : Device) (c : Nat) (k : Core) : (d.setCore c k).saving = d.saving := rfl
@[simp] theorem Device.setCore_mgmt (d : Device) (c : Nat) (k : Core) : (d.setCore c k).mgmt = d.mgmt := rfl
@[simp] theorem Device.setCore_out (d : Device) (c : Nat) (k : Core) : (d.setCore c k).out = d.out := rfl
@[simp] theorem Device.setCore_free (d : Device) (c : Nat) (k : Core) : (d.setCore c k).free = d.free := rfl
@[simp] theorem Device.reg_setCore (d : Device) (c : Nat) (k : Core) (r : Reg) : (d.setCore c k).reg r = d.reg r := rfl
@[simp] theorem Device.fld_setCore (d : Device) (c : Nat) (k : Core) (r : Reg) (g : RegField) : (d.setCore c k).fld r g = d.fld r g := rfl

@[simp] theorem Device.updCore_regs (d : Device) (c : Nat) (f : Core → Core) : (d.updCore c f).regs = d.regs := rfl
@[simp] theorem Device.updCore_pins (d : Device) (c : Nat) (f : Core → Core) : (d.updCore c f).pins = d.pins := rfl
@[simp] theorem Device.updCore_flash (d : Device) (c : Nat) (f : Core → Core) : (d.updCore c f).flash = d.flash := rfl
@[simp] theorem Device.updCore_boot (d : Device) (c : Nat) (f : Core → Core) : (d.updCore c f).boot = d.boot := rfl
@[simp] theorem Device.updCore_now (d : Device) (c : Nat) (f : Core → Core) : (d.updCore c f).now = d.now := rfl
@[simp] theorem Device.updCore_hostMem (d : Device) (c : Nat) (f : Core → Core) : (d.updCore c f).hostMem = d.hostMem := rfl
@[simp] theorem Device.updCore_mem (d : Device) (c : Nat) (f : Core → Core) : (d.updCore c f).mem = d.mem := rfl
@[simp] theorem Device.updCore_side (d : Device) (c : Nat) (f : Core → Core) : (d.updCore c f).side = d.side := rfl
@[simp] theorem Device.updCore_far (d : Device) (c : Nat) (f : Core → Core) : (d.updCore c f).far = d.far := rfl
@[simp] theorem Device.updCore_farSide (d : Device) (c : Nat) (f : Core → Core) : (d.updCore c f).farSide = d.farSide := rfl
@[simp] theorem Device.updCore_hostBad (d : Device) (c : Nat) (f : Core → Core) : (d.updCore c f).hostBad = d.hostBad := rfl
@[simp] theorem Device.updCore_badReads (d : Device) (c : Nat) (f : Core → Core) : (d.updCore c f).badReads = d.badReads := rfl
@[simp] theorem Device.updCore_remoteBad (d : Device) (c : Nat) (f : Core → Core) : (d.updCore c f).remoteBad = d.remoteBad := rfl
@[simp] theorem Device.updCore_tlb (d : Device) (c : Nat) (f : Core → Core) : (d.updCore c f).tlb = d.tlb := rfl
@[simp] theorem Device.updCore_handles (d : Device) (c : Nat) (f : Core → Core) : (d.updCore c f).handles = d.handles := rfl
@[simp] theorem Device.updCore_streams (d : Device) (c : Nat) (f : Core → Core) : (d.updCore c f).streams = d.streams := rfl
@[simp] theorem Device.updCore_injectors (d : Device) (c : Nat) (f : Core → Core) : (d.updCore c f).injectors = d.injectors := rfl
@[simp] theorem Device.updCore_errs (d : Device) (c : Nat) (f : Core → Core) : (d.updCore c f).errs = d.errs := rfl
@[simp] theorem Device.updCore_hist (d : Device) (c : Nat) (f : Core → Core) : (d.updCore c f).hist = d.hist := rfl
@[simp] theorem Device.updCore_events (d : Device) (c : Nat) (f : Core → Core) : (d.updCore c f).events = d.events := rfl
@[simp] theorem Device.updCore_sqs (d : Device) (c : Nat) (f : Core → Core) : (d.updCore c f).sqs = d.sqs := rfl
@[simp] theorem Device.updCore_cqs (d : Device) (c : Nat) (f : Core → Core) : (d.updCore c f).cqs = d.cqs := rfl
@[simp] theorem Device.updCore_queues (d : Device) (c : Nat) (f : Core → Core) : (d.updCore c f).queues = d.queues := rfl
@[simp] theorem Device.updCore_objs (d : Device) (c : Nat) (f : Core → Core) : (d.updCore c f).objs = d.objs := rfl
@[simp] theorem Device.updCore_flows (d : Device) (c : Nat) (f : Core → Core) : (d.updCore c f).flows = d.flows := rfl
@[simp] theorem Device.updCore_layout (d : Device) (c : Nat) (f : Core → Core) : (d.updCore c f).layout = d.layout := rfl
@[simp] theorem Device.updCore_readyLists (d : Device) (c : Nat) (f : Core → Core) : (d.updCore c f).readyLists = d.readyLists := rfl
@[simp] theorem Device.updCore_rr (d : Device) (c : Nat) (f : Core → Core) : (d.updCore c f).rr = d.rr := rfl
@[simp] theorem Device.updCore_left (d : Device) (c : Nat) (f : Core → Core) : (d.updCore c f).left = d.left := rfl
@[simp] theorem Device.updCore_readyStamp (d : Device) (c : Nat) (f : Core → Core) : (d.updCore c f).readyStamp = d.readyStamp := rfl
@[simp] theorem Device.updCore_pmemHeld (d : Device) (c : Nat) (f : Core → Core) : (d.updCore c f).pmemHeld = d.pmemHeld := rfl
@[simp] theorem Device.updCore_ptmOn (d : Device) (c : Nat) (f : Core → Core) : (d.updCore c f).ptmOn = d.ptmOn := rfl
@[simp] theorem Device.updCore_link (d : Device) (c : Nat) (f : Core → Core) : (d.updCore c f).link = d.link := rfl
@[simp] theorem Device.updCore_unmasked (d : Device) (c : Nat) (f : Core → Core) : (d.updCore c f).unmasked = d.unmasked := rfl
@[simp] theorem Device.updCore_msixPending (d : Device) (c : Nat) (f : Core → Core) : (d.updCore c f).msixPending = d.msixPending := rfl
@[simp] theorem Device.updCore_contribStalled (d : Device) (c : Nat) (f : Core → Core) : (d.updCore c f).contribStalled = d.contribStalled := rfl
@[simp] theorem Device.updCore_waiterEpisode (d : Device) (c : Nat) (f : Core → Core) : (d.updCore c f).waiterEpisode = d.waiterEpisode := rfl
@[simp] theorem Device.updCore_vfs (d : Device) (c : Nat) (f : Core → Core) : (d.updCore c f).vfs = d.vfs := rfl
@[simp] theorem Device.updCore_d3 (d : Device) (c : Nat) (f : Core → Core) : (d.updCore c f).d3 = d.d3 := rfl
@[simp] theorem Device.updCore_ptm (d : Device) (c : Nat) (f : Core → Core) : (d.updCore c f).ptm = d.ptm := rfl
@[simp] theorem Device.updCore_power (d : Device) (c : Nat) (f : Core → Core) : (d.updCore c f).power = d.power := rfl
@[simp] theorem Device.updCore_parts (d : Device) (c : Nat) (f : Core → Core) : (d.updCore c f).parts = d.parts := rfl
@[simp] theorem Device.updCore_flowDone (d : Device) (c : Nat) (f : Core → Core) : (d.updCore c f).flowDone = d.flowDone := rfl
@[simp] theorem Device.updCore_directory (d : Device) (c : Nat) (f : Core → Core) : (d.updCore c f).directory = d.directory := rfl
@[simp] theorem Device.updCore_enable (d : Device) (c : Nat) (f : Core → Core) : (d.updCore c f).enable = d.enable := rfl
@[simp] theorem Device.updCore_enabled (d : Device) (c : Nat) (f : Core → Core) : (d.updCore c f).enabled = d.enabled := rfl
@[simp] theorem Device.updCore_time (d : Device) (c : Nat) (f : Core → Core) : (d.updCore c f).time = d.time := rfl
@[simp] theorem Device.updCore_levelOut (d : Device) (c : Nat) (f : Core → Core) : (d.updCore c f).levelOut = d.levelOut := rfl
@[simp] theorem Device.updCore_ports (d : Device) (c : Nat) (f : Core → Core) : (d.updCore c f).ports = d.ports := rfl
@[simp] theorem Device.updCore_txWait (d : Device) (c : Nat) (f : Core → Core) : (d.updCore c f).txWait = d.txWait := rfl
@[simp] theorem Device.updCore_reqs (d : Device) (c : Nat) (f : Core → Core) : (d.updCore c f).reqs = d.reqs := rfl
@[simp] theorem Device.updCore_nextReq (d : Device) (c : Nat) (f : Core → Core) : (d.updCore c f).nextReq = d.nextReq := rfl
@[simp] theorem Device.updCore_outFlows (d : Device) (c : Nat) (f : Core → Core) : (d.updCore c f).outFlows = d.outFlows := rfl
@[simp] theorem Device.updCore_landing (d : Device) (c : Nat) (f : Core → Core) : (d.updCore c f).landing = d.landing := rfl
@[simp] theorem Device.updCore_heldReads (d : Device) (c : Nat) (f : Core → Core) : (d.updCore c f).heldReads = d.heldReads := rfl
@[simp] theorem Device.updCore_groups (d : Device) (c : Nat) (f : Core → Core) : (d.updCore c f).groups = d.groups := rfl
@[simp] theorem Device.updCore_collData (d : Device) (c : Nat) (f : Core → Core) : (d.updCore c f).collData = d.collData := rfl
@[simp] theorem Device.updCore_heldSignals (d : Device) (c : Nat) (f : Core → Core) : (d.updCore c f).heldSignals = d.heldSignals := rfl
@[simp] theorem Device.updCore_resets (d : Device) (c : Nat) (f : Core → Core) : (d.updCore c f).resets = d.resets := rfl
@[simp] theorem Device.updCore_groupsKept (d : Device) (c : Nat) (f : Core → Core) : (d.updCore c f).groupsKept = d.groupsKept := rfl
@[simp] theorem Device.updCore_groupsDropped (d : Device) (c : Nat) (f : Core → Core) : (d.updCore c f).groupsDropped = d.groupsDropped := rfl
@[simp] theorem Device.updCore_saves (d : Device) (c : Nat) (f : Core → Core) : (d.updCore c f).saves = d.saves := rfl
@[simp] theorem Device.updCore_saving (d : Device) (c : Nat) (f : Core → Core) : (d.updCore c f).saving = d.saving := rfl
@[simp] theorem Device.updCore_mgmt (d : Device) (c : Nat) (f : Core → Core) : (d.updCore c f).mgmt = d.mgmt := rfl
@[simp] theorem Device.updCore_out (d : Device) (c : Nat) (f : Core → Core) : (d.updCore c f).out = d.out := rfl
@[simp] theorem Device.updCore_free (d : Device) (c : Nat) (f : Core → Core) : (d.updCore c f).free = d.free := rfl
@[simp] theorem Device.reg_updCore (d : Device) (c : Nat) (f : Core → Core) (r : Reg) : (d.updCore c f).reg r = d.reg r := rfl
@[simp] theorem Device.fld_updCore (d : Device) (c : Nat) (f : Core → Core) (r : Reg) (g : RegField) : (d.updCore c f).fld r g = d.fld r g := rfl

@[simp] theorem Device.setStream_regs (d : Device) (p n : Nat) (x : Stream) : (d.setStream p n x).regs = d.regs := rfl
@[simp] theorem Device.setStream_pins (d : Device) (p n : Nat) (x : Stream) : (d.setStream p n x).pins = d.pins := rfl
@[simp] theorem Device.setStream_flash (d : Device) (p n : Nat) (x : Stream) : (d.setStream p n x).flash = d.flash := rfl
@[simp] theorem Device.setStream_boot (d : Device) (p n : Nat) (x : Stream) : (d.setStream p n x).boot = d.boot := rfl
@[simp] theorem Device.setStream_now (d : Device) (p n : Nat) (x : Stream) : (d.setStream p n x).now = d.now := rfl
@[simp] theorem Device.setStream_hostMem (d : Device) (p n : Nat) (x : Stream) : (d.setStream p n x).hostMem = d.hostMem := rfl
@[simp] theorem Device.setStream_mem (d : Device) (p n : Nat) (x : Stream) : (d.setStream p n x).mem = d.mem := rfl
@[simp] theorem Device.setStream_side (d : Device) (p n : Nat) (x : Stream) : (d.setStream p n x).side = d.side := rfl
@[simp] theorem Device.setStream_far (d : Device) (p n : Nat) (x : Stream) : (d.setStream p n x).far = d.far := rfl
@[simp] theorem Device.setStream_farSide (d : Device) (p n : Nat) (x : Stream) : (d.setStream p n x).farSide = d.farSide := rfl
@[simp] theorem Device.setStream_hostBad (d : Device) (p n : Nat) (x : Stream) : (d.setStream p n x).hostBad = d.hostBad := rfl
@[simp] theorem Device.setStream_badReads (d : Device) (p n : Nat) (x : Stream) : (d.setStream p n x).badReads = d.badReads := rfl
@[simp] theorem Device.setStream_remoteBad (d : Device) (p n : Nat) (x : Stream) : (d.setStream p n x).remoteBad = d.remoteBad := rfl
@[simp] theorem Device.setStream_tlb (d : Device) (p n : Nat) (x : Stream) : (d.setStream p n x).tlb = d.tlb := rfl
@[simp] theorem Device.setStream_handles (d : Device) (p n : Nat) (x : Stream) : (d.setStream p n x).handles = d.handles := rfl
@[simp] theorem Device.setStream_injectors (d : Device) (p n : Nat) (x : Stream) : (d.setStream p n x).injectors = d.injectors := rfl
@[simp] theorem Device.setStream_errs (d : Device) (p n : Nat) (x : Stream) : (d.setStream p n x).errs = d.errs := rfl
@[simp] theorem Device.setStream_hist (d : Device) (p n : Nat) (x : Stream) : (d.setStream p n x).hist = d.hist := rfl
@[simp] theorem Device.setStream_events (d : Device) (p n : Nat) (x : Stream) : (d.setStream p n x).events = d.events := rfl
@[simp] theorem Device.setStream_sqs (d : Device) (p n : Nat) (x : Stream) : (d.setStream p n x).sqs = d.sqs := rfl
@[simp] theorem Device.setStream_cqs (d : Device) (p n : Nat) (x : Stream) : (d.setStream p n x).cqs = d.cqs := rfl
@[simp] theorem Device.setStream_queues (d : Device) (p n : Nat) (x : Stream) : (d.setStream p n x).queues = d.queues := rfl
@[simp] theorem Device.setStream_objs (d : Device) (p n : Nat) (x : Stream) : (d.setStream p n x).objs = d.objs := rfl
@[simp] theorem Device.setStream_flows (d : Device) (p n : Nat) (x : Stream) : (d.setStream p n x).flows = d.flows := rfl
@[simp] theorem Device.setStream_layout (d : Device) (p n : Nat) (x : Stream) : (d.setStream p n x).layout = d.layout := rfl
@[simp] theorem Device.setStream_cores (d : Device) (p n : Nat) (x : Stream) : (d.setStream p n x).cores = d.cores := rfl
@[simp] theorem Device.setStream_readyLists (d : Device) (p n : Nat) (x : Stream) : (d.setStream p n x).readyLists = d.readyLists := rfl
@[simp] theorem Device.setStream_rr (d : Device) (p n : Nat) (x : Stream) : (d.setStream p n x).rr = d.rr := rfl
@[simp] theorem Device.setStream_left (d : Device) (p n : Nat) (x : Stream) : (d.setStream p n x).left = d.left := rfl
@[simp] theorem Device.setStream_readyStamp (d : Device) (p n : Nat) (x : Stream) : (d.setStream p n x).readyStamp = d.readyStamp := rfl
@[simp] theorem Device.setStream_pmemHeld (d : Device) (p n : Nat) (x : Stream) : (d.setStream p n x).pmemHeld = d.pmemHeld := rfl
@[simp] theorem Device.setStream_ptmOn (d : Device) (p n : Nat) (x : Stream) : (d.setStream p n x).ptmOn = d.ptmOn := rfl
@[simp] theorem Device.setStream_link (d : Device) (p n : Nat) (x : Stream) : (d.setStream p n x).link = d.link := rfl
@[simp] theorem Device.setStream_unmasked (d : Device) (p n : Nat) (x : Stream) : (d.setStream p n x).unmasked = d.unmasked := rfl
@[simp] theorem Device.setStream_msixPending (d : Device) (p n : Nat) (x : Stream) : (d.setStream p n x).msixPending = d.msixPending := rfl
@[simp] theorem Device.setStream_contribStalled (d : Device) (p n : Nat) (x : Stream) : (d.setStream p n x).contribStalled = d.contribStalled := rfl
@[simp] theorem Device.setStream_waiterEpisode (d : Device) (p n : Nat) (x : Stream) : (d.setStream p n x).waiterEpisode = d.waiterEpisode := rfl
@[simp] theorem Device.setStream_vfs (d : Device) (p n : Nat) (x : Stream) : (d.setStream p n x).vfs = d.vfs := rfl
@[simp] theorem Device.setStream_d3 (d : Device) (p n : Nat) (x : Stream) : (d.setStream p n x).d3 = d.d3 := rfl
@[simp] theorem Device.setStream_ptm (d : Device) (p n : Nat) (x : Stream) : (d.setStream p n x).ptm = d.ptm := rfl
@[simp] theorem Device.setStream_power (d : Device) (p n : Nat) (x : Stream) : (d.setStream p n x).power = d.power := rfl
@[simp] theorem Device.setStream_parts (d : Device) (p n : Nat) (x : Stream) : (d.setStream p n x).parts = d.parts := rfl
@[simp] theorem Device.setStream_flowDone (d : Device) (p n : Nat) (x : Stream) : (d.setStream p n x).flowDone = d.flowDone := rfl
@[simp] theorem Device.setStream_directory (d : Device) (p n : Nat) (x : Stream) : (d.setStream p n x).directory = d.directory := rfl
@[simp] theorem Device.setStream_enable (d : Device) (p n : Nat) (x : Stream) : (d.setStream p n x).enable = d.enable := rfl
@[simp] theorem Device.setStream_enabled (d : Device) (p n : Nat) (x : Stream) : (d.setStream p n x).enabled = d.enabled := rfl
@[simp] theorem Device.setStream_time (d : Device) (p n : Nat) (x : Stream) : (d.setStream p n x).time = d.time := rfl
@[simp] theorem Device.setStream_levelOut (d : Device) (p n : Nat) (x : Stream) : (d.setStream p n x).levelOut = d.levelOut := rfl
@[simp] theorem Device.setStream_ports (d : Device) (p n : Nat) (x : Stream) : (d.setStream p n x).ports = d.ports := rfl
@[simp] theorem Device.setStream_txWait (d : Device) (p n : Nat) (x : Stream) : (d.setStream p n x).txWait = d.txWait := rfl
@[simp] theorem Device.setStream_reqs (d : Device) (p n : Nat) (x : Stream) : (d.setStream p n x).reqs = d.reqs := rfl
@[simp] theorem Device.setStream_nextReq (d : Device) (p n : Nat) (x : Stream) : (d.setStream p n x).nextReq = d.nextReq := rfl
@[simp] theorem Device.setStream_outFlows (d : Device) (p n : Nat) (x : Stream) : (d.setStream p n x).outFlows = d.outFlows := rfl
@[simp] theorem Device.setStream_landing (d : Device) (p n : Nat) (x : Stream) : (d.setStream p n x).landing = d.landing := rfl
@[simp] theorem Device.setStream_heldReads (d : Device) (p n : Nat) (x : Stream) : (d.setStream p n x).heldReads = d.heldReads := rfl
@[simp] theorem Device.setStream_groups (d : Device) (p n : Nat) (x : Stream) : (d.setStream p n x).groups = d.groups := rfl
@[simp] theorem Device.setStream_collData (d : Device) (p n : Nat) (x : Stream) : (d.setStream p n x).collData = d.collData := rfl
@[simp] theorem Device.setStream_heldSignals (d : Device) (p n : Nat) (x : Stream) : (d.setStream p n x).heldSignals = d.heldSignals := rfl
@[simp] theorem Device.setStream_resets (d : Device) (p n : Nat) (x : Stream) : (d.setStream p n x).resets = d.resets := rfl
@[simp] theorem Device.setStream_groupsKept (d : Device) (p n : Nat) (x : Stream) : (d.setStream p n x).groupsKept = d.groupsKept := rfl
@[simp] theorem Device.setStream_groupsDropped (d : Device) (p n : Nat) (x : Stream) : (d.setStream p n x).groupsDropped = d.groupsDropped := rfl
@[simp] theorem Device.setStream_saves (d : Device) (p n : Nat) (x : Stream) : (d.setStream p n x).saves = d.saves := rfl
@[simp] theorem Device.setStream_saving (d : Device) (p n : Nat) (x : Stream) : (d.setStream p n x).saving = d.saving := rfl
@[simp] theorem Device.setStream_mgmt (d : Device) (p n : Nat) (x : Stream) : (d.setStream p n x).mgmt = d.mgmt := rfl
@[simp] theorem Device.setStream_out (d : Device) (p n : Nat) (x : Stream) : (d.setStream p n x).out = d.out := rfl
@[simp] theorem Device.setStream_free (d : Device) (p n : Nat) (x : Stream) : (d.setStream p n x).free = d.free := rfl
@[simp] theorem Device.reg_setStream (d : Device) (p n : Nat) (x : Stream) (r : Reg) : (d.setStream p n x).reg r = d.reg r := rfl
@[simp] theorem Device.fld_setStream (d : Device) (p n : Nat) (x : Stream) (r : Reg) (g : RegField) : (d.setStream p n x).fld r g = d.fld r g := rfl

@[simp] theorem Device.setPort_regs (d : Device) (n : Nat) (x : Port) : (d.setPort n x).regs = d.regs := rfl
@[simp] theorem Device.setPort_pins (d : Device) (n : Nat) (x : Port) : (d.setPort n x).pins = d.pins := rfl
@[simp] theorem Device.setPort_flash (d : Device) (n : Nat) (x : Port) : (d.setPort n x).flash = d.flash := rfl
@[simp] theorem Device.setPort_boot (d : Device) (n : Nat) (x : Port) : (d.setPort n x).boot = d.boot := rfl
@[simp] theorem Device.setPort_now (d : Device) (n : Nat) (x : Port) : (d.setPort n x).now = d.now := rfl
@[simp] theorem Device.setPort_hostMem (d : Device) (n : Nat) (x : Port) : (d.setPort n x).hostMem = d.hostMem := rfl
@[simp] theorem Device.setPort_mem (d : Device) (n : Nat) (x : Port) : (d.setPort n x).mem = d.mem := rfl
@[simp] theorem Device.setPort_side (d : Device) (n : Nat) (x : Port) : (d.setPort n x).side = d.side := rfl
@[simp] theorem Device.setPort_far (d : Device) (n : Nat) (x : Port) : (d.setPort n x).far = d.far := rfl
@[simp] theorem Device.setPort_farSide (d : Device) (n : Nat) (x : Port) : (d.setPort n x).farSide = d.farSide := rfl
@[simp] theorem Device.setPort_hostBad (d : Device) (n : Nat) (x : Port) : (d.setPort n x).hostBad = d.hostBad := rfl
@[simp] theorem Device.setPort_badReads (d : Device) (n : Nat) (x : Port) : (d.setPort n x).badReads = d.badReads := rfl
@[simp] theorem Device.setPort_remoteBad (d : Device) (n : Nat) (x : Port) : (d.setPort n x).remoteBad = d.remoteBad := rfl
@[simp] theorem Device.setPort_tlb (d : Device) (n : Nat) (x : Port) : (d.setPort n x).tlb = d.tlb := rfl
@[simp] theorem Device.setPort_handles (d : Device) (n : Nat) (x : Port) : (d.setPort n x).handles = d.handles := rfl
@[simp] theorem Device.setPort_streams (d : Device) (n : Nat) (x : Port) : (d.setPort n x).streams = d.streams := rfl
@[simp] theorem Device.setPort_injectors (d : Device) (n : Nat) (x : Port) : (d.setPort n x).injectors = d.injectors := rfl
@[simp] theorem Device.setPort_errs (d : Device) (n : Nat) (x : Port) : (d.setPort n x).errs = d.errs := rfl
@[simp] theorem Device.setPort_hist (d : Device) (n : Nat) (x : Port) : (d.setPort n x).hist = d.hist := rfl
@[simp] theorem Device.setPort_events (d : Device) (n : Nat) (x : Port) : (d.setPort n x).events = d.events := rfl
@[simp] theorem Device.setPort_sqs (d : Device) (n : Nat) (x : Port) : (d.setPort n x).sqs = d.sqs := rfl
@[simp] theorem Device.setPort_cqs (d : Device) (n : Nat) (x : Port) : (d.setPort n x).cqs = d.cqs := rfl
@[simp] theorem Device.setPort_queues (d : Device) (n : Nat) (x : Port) : (d.setPort n x).queues = d.queues := rfl
@[simp] theorem Device.setPort_objs (d : Device) (n : Nat) (x : Port) : (d.setPort n x).objs = d.objs := rfl
@[simp] theorem Device.setPort_flows (d : Device) (n : Nat) (x : Port) : (d.setPort n x).flows = d.flows := rfl
@[simp] theorem Device.setPort_layout (d : Device) (n : Nat) (x : Port) : (d.setPort n x).layout = d.layout := rfl
@[simp] theorem Device.setPort_cores (d : Device) (n : Nat) (x : Port) : (d.setPort n x).cores = d.cores := rfl
@[simp] theorem Device.setPort_readyLists (d : Device) (n : Nat) (x : Port) : (d.setPort n x).readyLists = d.readyLists := rfl
@[simp] theorem Device.setPort_rr (d : Device) (n : Nat) (x : Port) : (d.setPort n x).rr = d.rr := rfl
@[simp] theorem Device.setPort_left (d : Device) (n : Nat) (x : Port) : (d.setPort n x).left = d.left := rfl
@[simp] theorem Device.setPort_readyStamp (d : Device) (n : Nat) (x : Port) : (d.setPort n x).readyStamp = d.readyStamp := rfl
@[simp] theorem Device.setPort_pmemHeld (d : Device) (n : Nat) (x : Port) : (d.setPort n x).pmemHeld = d.pmemHeld := rfl
@[simp] theorem Device.setPort_ptmOn (d : Device) (n : Nat) (x : Port) : (d.setPort n x).ptmOn = d.ptmOn := rfl
@[simp] theorem Device.setPort_link (d : Device) (n : Nat) (x : Port) : (d.setPort n x).link = d.link := rfl
@[simp] theorem Device.setPort_unmasked (d : Device) (n : Nat) (x : Port) : (d.setPort n x).unmasked = d.unmasked := rfl
@[simp] theorem Device.setPort_msixPending (d : Device) (n : Nat) (x : Port) : (d.setPort n x).msixPending = d.msixPending := rfl
@[simp] theorem Device.setPort_contribStalled (d : Device) (n : Nat) (x : Port) : (d.setPort n x).contribStalled = d.contribStalled := rfl
@[simp] theorem Device.setPort_waiterEpisode (d : Device) (n : Nat) (x : Port) : (d.setPort n x).waiterEpisode = d.waiterEpisode := rfl
@[simp] theorem Device.setPort_vfs (d : Device) (n : Nat) (x : Port) : (d.setPort n x).vfs = d.vfs := rfl
@[simp] theorem Device.setPort_d3 (d : Device) (n : Nat) (x : Port) : (d.setPort n x).d3 = d.d3 := rfl
@[simp] theorem Device.setPort_ptm (d : Device) (n : Nat) (x : Port) : (d.setPort n x).ptm = d.ptm := rfl
@[simp] theorem Device.setPort_power (d : Device) (n : Nat) (x : Port) : (d.setPort n x).power = d.power := rfl
@[simp] theorem Device.setPort_parts (d : Device) (n : Nat) (x : Port) : (d.setPort n x).parts = d.parts := rfl
@[simp] theorem Device.setPort_flowDone (d : Device) (n : Nat) (x : Port) : (d.setPort n x).flowDone = d.flowDone := rfl
@[simp] theorem Device.setPort_directory (d : Device) (n : Nat) (x : Port) : (d.setPort n x).directory = d.directory := rfl
@[simp] theorem Device.setPort_enable (d : Device) (n : Nat) (x : Port) : (d.setPort n x).enable = d.enable := rfl
@[simp] theorem Device.setPort_enabled (d : Device) (n : Nat) (x : Port) : (d.setPort n x).enabled = d.enabled := rfl
@[simp] theorem Device.setPort_time (d : Device) (n : Nat) (x : Port) : (d.setPort n x).time = d.time := rfl
@[simp] theorem Device.setPort_levelOut (d : Device) (n : Nat) (x : Port) : (d.setPort n x).levelOut = d.levelOut := rfl
@[simp] theorem Device.setPort_txWait (d : Device) (n : Nat) (x : Port) : (d.setPort n x).txWait = d.txWait := rfl
@[simp] theorem Device.setPort_reqs (d : Device) (n : Nat) (x : Port) : (d.setPort n x).reqs = d.reqs := rfl
@[simp] theorem Device.setPort_nextReq (d : Device) (n : Nat) (x : Port) : (d.setPort n x).nextReq = d.nextReq := rfl
@[simp] theorem Device.setPort_outFlows (d : Device) (n : Nat) (x : Port) : (d.setPort n x).outFlows = d.outFlows := rfl
@[simp] theorem Device.setPort_landing (d : Device) (n : Nat) (x : Port) : (d.setPort n x).landing = d.landing := rfl
@[simp] theorem Device.setPort_heldReads (d : Device) (n : Nat) (x : Port) : (d.setPort n x).heldReads = d.heldReads := rfl
@[simp] theorem Device.setPort_groups (d : Device) (n : Nat) (x : Port) : (d.setPort n x).groups = d.groups := rfl
@[simp] theorem Device.setPort_collData (d : Device) (n : Nat) (x : Port) : (d.setPort n x).collData = d.collData := rfl
@[simp] theorem Device.setPort_heldSignals (d : Device) (n : Nat) (x : Port) : (d.setPort n x).heldSignals = d.heldSignals := rfl
@[simp] theorem Device.setPort_resets (d : Device) (n : Nat) (x : Port) : (d.setPort n x).resets = d.resets := rfl
@[simp] theorem Device.setPort_groupsKept (d : Device) (n : Nat) (x : Port) : (d.setPort n x).groupsKept = d.groupsKept := rfl
@[simp] theorem Device.setPort_groupsDropped (d : Device) (n : Nat) (x : Port) : (d.setPort n x).groupsDropped = d.groupsDropped := rfl
@[simp] theorem Device.setPort_saves (d : Device) (n : Nat) (x : Port) : (d.setPort n x).saves = d.saves := rfl
@[simp] theorem Device.setPort_saving (d : Device) (n : Nat) (x : Port) : (d.setPort n x).saving = d.saving := rfl
@[simp] theorem Device.setPort_mgmt (d : Device) (n : Nat) (x : Port) : (d.setPort n x).mgmt = d.mgmt := rfl
@[simp] theorem Device.setPort_out (d : Device) (n : Nat) (x : Port) : (d.setPort n x).out = d.out := rfl
@[simp] theorem Device.setPort_free (d : Device) (n : Nat) (x : Port) : (d.setPort n x).free = d.free := rfl
@[simp] theorem Device.reg_setPort (d : Device) (n : Nat) (x : Port) (r : Reg) : (d.setPort n x).reg r = d.reg r := rfl
@[simp] theorem Device.fld_setPort (d : Device) (n : Nat) (x : Port) (r : Reg) (g : RegField) : (d.setPort n x).fld r g = d.fld r g := rfl

@[simp] theorem Device.setFlow_pins (d : Device) (p f : Nat) (x : Flow) : (d.setFlow p f x).pins = d.pins := Device.setFld_pins _ _ _ _
@[simp] theorem Device.setFlow_flash (d : Device) (p f : Nat) (x : Flow) : (d.setFlow p f x).flash = d.flash := Device.setFld_flash _ _ _ _
@[simp] theorem Device.setFlow_boot (d : Device) (p f : Nat) (x : Flow) : (d.setFlow p f x).boot = d.boot := Device.setFld_boot _ _ _ _
@[simp] theorem Device.setFlow_now (d : Device) (p f : Nat) (x : Flow) : (d.setFlow p f x).now = d.now := Device.setFld_now _ _ _ _
@[simp] theorem Device.setFlow_hostMem (d : Device) (p f : Nat) (x : Flow) : (d.setFlow p f x).hostMem = d.hostMem := Device.setFld_hostMem _ _ _ _
@[simp] theorem Device.setFlow_mem (d : Device) (p f : Nat) (x : Flow) : (d.setFlow p f x).mem = d.mem := Device.setFld_mem _ _ _ _
@[simp] theorem Device.setFlow_side (d : Device) (p f : Nat) (x : Flow) : (d.setFlow p f x).side = d.side := Device.setFld_side _ _ _ _
@[simp] theorem Device.setFlow_far (d : Device) (p f : Nat) (x : Flow) : (d.setFlow p f x).far = d.far := Device.setFld_far _ _ _ _
@[simp] theorem Device.setFlow_farSide (d : Device) (p f : Nat) (x : Flow) : (d.setFlow p f x).farSide = d.farSide := Device.setFld_farSide _ _ _ _
@[simp] theorem Device.setFlow_hostBad (d : Device) (p f : Nat) (x : Flow) : (d.setFlow p f x).hostBad = d.hostBad := Device.setFld_hostBad _ _ _ _
@[simp] theorem Device.setFlow_badReads (d : Device) (p f : Nat) (x : Flow) : (d.setFlow p f x).badReads = d.badReads := Device.setFld_badReads _ _ _ _
@[simp] theorem Device.setFlow_remoteBad (d : Device) (p f : Nat) (x : Flow) : (d.setFlow p f x).remoteBad = d.remoteBad := Device.setFld_remoteBad _ _ _ _
@[simp] theorem Device.setFlow_tlb (d : Device) (p f : Nat) (x : Flow) : (d.setFlow p f x).tlb = d.tlb := Device.setFld_tlb _ _ _ _
@[simp] theorem Device.setFlow_handles (d : Device) (p f : Nat) (x : Flow) : (d.setFlow p f x).handles = d.handles := Device.setFld_handles _ _ _ _
@[simp] theorem Device.setFlow_streams (d : Device) (p f : Nat) (x : Flow) : (d.setFlow p f x).streams = d.streams := Device.setFld_streams _ _ _ _
@[simp] theorem Device.setFlow_injectors (d : Device) (p f : Nat) (x : Flow) : (d.setFlow p f x).injectors = d.injectors := Device.setFld_injectors _ _ _ _
@[simp] theorem Device.setFlow_errs (d : Device) (p f : Nat) (x : Flow) : (d.setFlow p f x).errs = d.errs := Device.setFld_errs _ _ _ _
@[simp] theorem Device.setFlow_hist (d : Device) (p f : Nat) (x : Flow) : (d.setFlow p f x).hist = d.hist := Device.setFld_hist _ _ _ _
@[simp] theorem Device.setFlow_events (d : Device) (p f : Nat) (x : Flow) : (d.setFlow p f x).events = d.events := Device.setFld_events _ _ _ _
@[simp] theorem Device.setFlow_sqs (d : Device) (p f : Nat) (x : Flow) : (d.setFlow p f x).sqs = d.sqs := Device.setFld_sqs _ _ _ _
@[simp] theorem Device.setFlow_cqs (d : Device) (p f : Nat) (x : Flow) : (d.setFlow p f x).cqs = d.cqs := Device.setFld_cqs _ _ _ _
@[simp] theorem Device.setFlow_queues (d : Device) (p f : Nat) (x : Flow) : (d.setFlow p f x).queues = d.queues := Device.setFld_queues _ _ _ _
@[simp] theorem Device.setFlow_objs (d : Device) (p f : Nat) (x : Flow) : (d.setFlow p f x).objs = d.objs := Device.setFld_objs _ _ _ _
@[simp] theorem Device.setFlow_layout (d : Device) (p f : Nat) (x : Flow) : (d.setFlow p f x).layout = d.layout := Device.setFld_layout _ _ _ _
@[simp] theorem Device.setFlow_cores (d : Device) (p f : Nat) (x : Flow) : (d.setFlow p f x).cores = d.cores := Device.setFld_cores _ _ _ _
@[simp] theorem Device.setFlow_readyLists (d : Device) (p f : Nat) (x : Flow) : (d.setFlow p f x).readyLists = d.readyLists := Device.setFld_readyLists _ _ _ _
@[simp] theorem Device.setFlow_rr (d : Device) (p f : Nat) (x : Flow) : (d.setFlow p f x).rr = d.rr := Device.setFld_rr _ _ _ _
@[simp] theorem Device.setFlow_left (d : Device) (p f : Nat) (x : Flow) : (d.setFlow p f x).left = d.left := Device.setFld_left _ _ _ _
@[simp] theorem Device.setFlow_readyStamp (d : Device) (p f : Nat) (x : Flow) : (d.setFlow p f x).readyStamp = d.readyStamp := Device.setFld_readyStamp _ _ _ _
@[simp] theorem Device.setFlow_pmemHeld (d : Device) (p f : Nat) (x : Flow) : (d.setFlow p f x).pmemHeld = d.pmemHeld := Device.setFld_pmemHeld _ _ _ _
@[simp] theorem Device.setFlow_ptmOn (d : Device) (p f : Nat) (x : Flow) : (d.setFlow p f x).ptmOn = d.ptmOn := Device.setFld_ptmOn _ _ _ _
@[simp] theorem Device.setFlow_link (d : Device) (p f : Nat) (x : Flow) : (d.setFlow p f x).link = d.link := Device.setFld_link _ _ _ _
@[simp] theorem Device.setFlow_unmasked (d : Device) (p f : Nat) (x : Flow) : (d.setFlow p f x).unmasked = d.unmasked := Device.setFld_unmasked _ _ _ _
@[simp] theorem Device.setFlow_msixPending (d : Device) (p f : Nat) (x : Flow) : (d.setFlow p f x).msixPending = d.msixPending := Device.setFld_msixPending _ _ _ _
@[simp] theorem Device.setFlow_contribStalled (d : Device) (p f : Nat) (x : Flow) : (d.setFlow p f x).contribStalled = d.contribStalled := Device.setFld_contribStalled _ _ _ _
@[simp] theorem Device.setFlow_waiterEpisode (d : Device) (p f : Nat) (x : Flow) : (d.setFlow p f x).waiterEpisode = d.waiterEpisode := Device.setFld_waiterEpisode _ _ _ _
@[simp] theorem Device.setFlow_vfs (d : Device) (p f : Nat) (x : Flow) : (d.setFlow p f x).vfs = d.vfs := Device.setFld_vfs _ _ _ _
@[simp] theorem Device.setFlow_d3 (d : Device) (p f : Nat) (x : Flow) : (d.setFlow p f x).d3 = d.d3 := Device.setFld_d3 _ _ _ _
@[simp] theorem Device.setFlow_ptm (d : Device) (p f : Nat) (x : Flow) : (d.setFlow p f x).ptm = d.ptm := Device.setFld_ptm _ _ _ _
@[simp] theorem Device.setFlow_power (d : Device) (p f : Nat) (x : Flow) : (d.setFlow p f x).power = d.power := Device.setFld_power _ _ _ _
@[simp] theorem Device.setFlow_parts (d : Device) (p f : Nat) (x : Flow) : (d.setFlow p f x).parts = d.parts := Device.setFld_parts _ _ _ _
@[simp] theorem Device.setFlow_flowDone (d : Device) (p f : Nat) (x : Flow) : (d.setFlow p f x).flowDone = d.flowDone := Device.setFld_flowDone _ _ _ _
@[simp] theorem Device.setFlow_directory (d : Device) (p f : Nat) (x : Flow) : (d.setFlow p f x).directory = d.directory := Device.setFld_directory _ _ _ _
@[simp] theorem Device.setFlow_enable (d : Device) (p f : Nat) (x : Flow) : (d.setFlow p f x).enable = d.enable := Device.setFld_enable _ _ _ _
@[simp] theorem Device.setFlow_enabled (d : Device) (p f : Nat) (x : Flow) : (d.setFlow p f x).enabled = d.enabled := Device.setFld_enabled _ _ _ _
@[simp] theorem Device.setFlow_time (d : Device) (p f : Nat) (x : Flow) : (d.setFlow p f x).time = d.time := Device.setFld_time _ _ _ _
@[simp] theorem Device.setFlow_levelOut (d : Device) (p f : Nat) (x : Flow) : (d.setFlow p f x).levelOut = d.levelOut := Device.setFld_levelOut _ _ _ _
@[simp] theorem Device.setFlow_ports (d : Device) (p f : Nat) (x : Flow) : (d.setFlow p f x).ports = d.ports := Device.setFld_ports _ _ _ _
@[simp] theorem Device.setFlow_txWait (d : Device) (p f : Nat) (x : Flow) : (d.setFlow p f x).txWait = d.txWait := Device.setFld_txWait _ _ _ _
@[simp] theorem Device.setFlow_reqs (d : Device) (p f : Nat) (x : Flow) : (d.setFlow p f x).reqs = d.reqs := Device.setFld_reqs _ _ _ _
@[simp] theorem Device.setFlow_nextReq (d : Device) (p f : Nat) (x : Flow) : (d.setFlow p f x).nextReq = d.nextReq := Device.setFld_nextReq _ _ _ _
@[simp] theorem Device.setFlow_outFlows (d : Device) (p f : Nat) (x : Flow) : (d.setFlow p f x).outFlows = d.outFlows := Device.setFld_outFlows _ _ _ _
@[simp] theorem Device.setFlow_landing (d : Device) (p f : Nat) (x : Flow) : (d.setFlow p f x).landing = d.landing := Device.setFld_landing _ _ _ _
@[simp] theorem Device.setFlow_heldReads (d : Device) (p f : Nat) (x : Flow) : (d.setFlow p f x).heldReads = d.heldReads := Device.setFld_heldReads _ _ _ _
@[simp] theorem Device.setFlow_groups (d : Device) (p f : Nat) (x : Flow) : (d.setFlow p f x).groups = d.groups := Device.setFld_groups _ _ _ _
@[simp] theorem Device.setFlow_collData (d : Device) (p f : Nat) (x : Flow) : (d.setFlow p f x).collData = d.collData := Device.setFld_collData _ _ _ _
@[simp] theorem Device.setFlow_heldSignals (d : Device) (p f : Nat) (x : Flow) : (d.setFlow p f x).heldSignals = d.heldSignals := Device.setFld_heldSignals _ _ _ _
@[simp] theorem Device.setFlow_resets (d : Device) (p f : Nat) (x : Flow) : (d.setFlow p f x).resets = d.resets := Device.setFld_resets _ _ _ _
@[simp] theorem Device.setFlow_groupsKept (d : Device) (p f : Nat) (x : Flow) : (d.setFlow p f x).groupsKept = d.groupsKept := Device.setFld_groupsKept _ _ _ _
@[simp] theorem Device.setFlow_groupsDropped (d : Device) (p f : Nat) (x : Flow) : (d.setFlow p f x).groupsDropped = d.groupsDropped := Device.setFld_groupsDropped _ _ _ _
@[simp] theorem Device.setFlow_saves (d : Device) (p f : Nat) (x : Flow) : (d.setFlow p f x).saves = d.saves := Device.setFld_saves _ _ _ _
@[simp] theorem Device.setFlow_saving (d : Device) (p f : Nat) (x : Flow) : (d.setFlow p f x).saving = d.saving := Device.setFld_saving _ _ _ _
@[simp] theorem Device.setFlow_mgmt (d : Device) (p f : Nat) (x : Flow) : (d.setFlow p f x).mgmt = d.mgmt := Device.setFld_mgmt _ _ _ _
@[simp] theorem Device.setFlow_out (d : Device) (p f : Nat) (x : Flow) : (d.setFlow p f x).out = d.out := Device.setFld_out _ _ _ _
@[simp] theorem Device.setFlow_free (d : Device) (p f : Nat) (x : Flow) : (d.setFlow p f x).free = d.free := Device.setFld_free _ _ _ _

@[simp] theorem Device.hostStores_regs (d : Device) (l : List (Nat × Byte)) : (d.hostStores l).regs = d.regs := rfl
@[simp] theorem Device.hostStores_pins (d : Device) (l : List (Nat × Byte)) : (d.hostStores l).pins = d.pins := rfl
@[simp] theorem Device.hostStores_flash (d : Device) (l : List (Nat × Byte)) : (d.hostStores l).flash = d.flash := rfl
@[simp] theorem Device.hostStores_boot (d : Device) (l : List (Nat × Byte)) : (d.hostStores l).boot = d.boot := rfl
@[simp] theorem Device.hostStores_now (d : Device) (l : List (Nat × Byte)) : (d.hostStores l).now = d.now := rfl
@[simp] theorem Device.hostStores_mem (d : Device) (l : List (Nat × Byte)) : (d.hostStores l).mem = d.mem := rfl
@[simp] theorem Device.hostStores_side (d : Device) (l : List (Nat × Byte)) : (d.hostStores l).side = d.side := rfl
@[simp] theorem Device.hostStores_far (d : Device) (l : List (Nat × Byte)) : (d.hostStores l).far = d.far := rfl
@[simp] theorem Device.hostStores_farSide (d : Device) (l : List (Nat × Byte)) : (d.hostStores l).farSide = d.farSide := rfl
@[simp] theorem Device.hostStores_hostBad (d : Device) (l : List (Nat × Byte)) : (d.hostStores l).hostBad = d.hostBad := rfl
@[simp] theorem Device.hostStores_badReads (d : Device) (l : List (Nat × Byte)) : (d.hostStores l).badReads = d.badReads := rfl
@[simp] theorem Device.hostStores_remoteBad (d : Device) (l : List (Nat × Byte)) : (d.hostStores l).remoteBad = d.remoteBad := rfl
@[simp] theorem Device.hostStores_tlb (d : Device) (l : List (Nat × Byte)) : (d.hostStores l).tlb = d.tlb := rfl
@[simp] theorem Device.hostStores_handles (d : Device) (l : List (Nat × Byte)) : (d.hostStores l).handles = d.handles := rfl
@[simp] theorem Device.hostStores_streams (d : Device) (l : List (Nat × Byte)) : (d.hostStores l).streams = d.streams := rfl
@[simp] theorem Device.hostStores_injectors (d : Device) (l : List (Nat × Byte)) : (d.hostStores l).injectors = d.injectors := rfl
@[simp] theorem Device.hostStores_errs (d : Device) (l : List (Nat × Byte)) : (d.hostStores l).errs = d.errs := rfl
@[simp] theorem Device.hostStores_hist (d : Device) (l : List (Nat × Byte)) : (d.hostStores l).hist = d.hist := rfl
@[simp] theorem Device.hostStores_events (d : Device) (l : List (Nat × Byte)) : (d.hostStores l).events = d.events := rfl
@[simp] theorem Device.hostStores_sqs (d : Device) (l : List (Nat × Byte)) : (d.hostStores l).sqs = d.sqs := rfl
@[simp] theorem Device.hostStores_cqs (d : Device) (l : List (Nat × Byte)) : (d.hostStores l).cqs = d.cqs := rfl
@[simp] theorem Device.hostStores_queues (d : Device) (l : List (Nat × Byte)) : (d.hostStores l).queues = d.queues := rfl
@[simp] theorem Device.hostStores_objs (d : Device) (l : List (Nat × Byte)) : (d.hostStores l).objs = d.objs := rfl
@[simp] theorem Device.hostStores_flows (d : Device) (l : List (Nat × Byte)) : (d.hostStores l).flows = d.flows := rfl
@[simp] theorem Device.hostStores_layout (d : Device) (l : List (Nat × Byte)) : (d.hostStores l).layout = d.layout := rfl
@[simp] theorem Device.hostStores_cores (d : Device) (l : List (Nat × Byte)) : (d.hostStores l).cores = d.cores := rfl
@[simp] theorem Device.hostStores_readyLists (d : Device) (l : List (Nat × Byte)) : (d.hostStores l).readyLists = d.readyLists := rfl
@[simp] theorem Device.hostStores_rr (d : Device) (l : List (Nat × Byte)) : (d.hostStores l).rr = d.rr := rfl
@[simp] theorem Device.hostStores_left (d : Device) (l : List (Nat × Byte)) : (d.hostStores l).left = d.left := rfl
@[simp] theorem Device.hostStores_readyStamp (d : Device) (l : List (Nat × Byte)) : (d.hostStores l).readyStamp = d.readyStamp := rfl
@[simp] theorem Device.hostStores_pmemHeld (d : Device) (l : List (Nat × Byte)) : (d.hostStores l).pmemHeld = d.pmemHeld := rfl
@[simp] theorem Device.hostStores_ptmOn (d : Device) (l : List (Nat × Byte)) : (d.hostStores l).ptmOn = d.ptmOn := rfl
@[simp] theorem Device.hostStores_link (d : Device) (l : List (Nat × Byte)) : (d.hostStores l).link = d.link := rfl
@[simp] theorem Device.hostStores_unmasked (d : Device) (l : List (Nat × Byte)) : (d.hostStores l).unmasked = d.unmasked := rfl
@[simp] theorem Device.hostStores_msixPending (d : Device) (l : List (Nat × Byte)) : (d.hostStores l).msixPending = d.msixPending := rfl
@[simp] theorem Device.hostStores_contribStalled (d : Device) (l : List (Nat × Byte)) : (d.hostStores l).contribStalled = d.contribStalled := rfl
@[simp] theorem Device.hostStores_waiterEpisode (d : Device) (l : List (Nat × Byte)) : (d.hostStores l).waiterEpisode = d.waiterEpisode := rfl
@[simp] theorem Device.hostStores_vfs (d : Device) (l : List (Nat × Byte)) : (d.hostStores l).vfs = d.vfs := rfl
@[simp] theorem Device.hostStores_d3 (d : Device) (l : List (Nat × Byte)) : (d.hostStores l).d3 = d.d3 := rfl
@[simp] theorem Device.hostStores_ptm (d : Device) (l : List (Nat × Byte)) : (d.hostStores l).ptm = d.ptm := rfl
@[simp] theorem Device.hostStores_power (d : Device) (l : List (Nat × Byte)) : (d.hostStores l).power = d.power := rfl
@[simp] theorem Device.hostStores_parts (d : Device) (l : List (Nat × Byte)) : (d.hostStores l).parts = d.parts := rfl
@[simp] theorem Device.hostStores_flowDone (d : Device) (l : List (Nat × Byte)) : (d.hostStores l).flowDone = d.flowDone := rfl
@[simp] theorem Device.hostStores_directory (d : Device) (l : List (Nat × Byte)) : (d.hostStores l).directory = d.directory := rfl
@[simp] theorem Device.hostStores_enable (d : Device) (l : List (Nat × Byte)) : (d.hostStores l).enable = d.enable := rfl
@[simp] theorem Device.hostStores_enabled (d : Device) (l : List (Nat × Byte)) : (d.hostStores l).enabled = d.enabled := rfl
@[simp] theorem Device.hostStores_time (d : Device) (l : List (Nat × Byte)) : (d.hostStores l).time = d.time := rfl
@[simp] theorem Device.hostStores_levelOut (d : Device) (l : List (Nat × Byte)) : (d.hostStores l).levelOut = d.levelOut := rfl
@[simp] theorem Device.hostStores_ports (d : Device) (l : List (Nat × Byte)) : (d.hostStores l).ports = d.ports := rfl
@[simp] theorem Device.hostStores_txWait (d : Device) (l : List (Nat × Byte)) : (d.hostStores l).txWait = d.txWait := rfl
@[simp] theorem Device.hostStores_reqs (d : Device) (l : List (Nat × Byte)) : (d.hostStores l).reqs = d.reqs := rfl
@[simp] theorem Device.hostStores_nextReq (d : Device) (l : List (Nat × Byte)) : (d.hostStores l).nextReq = d.nextReq := rfl
@[simp] theorem Device.hostStores_outFlows (d : Device) (l : List (Nat × Byte)) : (d.hostStores l).outFlows = d.outFlows := rfl
@[simp] theorem Device.hostStores_landing (d : Device) (l : List (Nat × Byte)) : (d.hostStores l).landing = d.landing := rfl
@[simp] theorem Device.hostStores_heldReads (d : Device) (l : List (Nat × Byte)) : (d.hostStores l).heldReads = d.heldReads := rfl
@[simp] theorem Device.hostStores_groups (d : Device) (l : List (Nat × Byte)) : (d.hostStores l).groups = d.groups := rfl
@[simp] theorem Device.hostStores_collData (d : Device) (l : List (Nat × Byte)) : (d.hostStores l).collData = d.collData := rfl
@[simp] theorem Device.hostStores_heldSignals (d : Device) (l : List (Nat × Byte)) : (d.hostStores l).heldSignals = d.heldSignals := rfl
@[simp] theorem Device.hostStores_resets (d : Device) (l : List (Nat × Byte)) : (d.hostStores l).resets = d.resets := rfl
@[simp] theorem Device.hostStores_groupsKept (d : Device) (l : List (Nat × Byte)) : (d.hostStores l).groupsKept = d.groupsKept := rfl
@[simp] theorem Device.hostStores_groupsDropped (d : Device) (l : List (Nat × Byte)) : (d.hostStores l).groupsDropped = d.groupsDropped := rfl
@[simp] theorem Device.hostStores_saves (d : Device) (l : List (Nat × Byte)) : (d.hostStores l).saves = d.saves := rfl
@[simp] theorem Device.hostStores_saving (d : Device) (l : List (Nat × Byte)) : (d.hostStores l).saving = d.saving := rfl
@[simp] theorem Device.hostStores_mgmt (d : Device) (l : List (Nat × Byte)) : (d.hostStores l).mgmt = d.mgmt := rfl
@[simp] theorem Device.hostStores_out (d : Device) (l : List (Nat × Byte)) : (d.hostStores l).out = d.out := rfl
@[simp] theorem Device.hostStores_free (d : Device) (l : List (Nat × Byte)) : (d.hostStores l).free = d.free := rfl
@[simp] theorem Device.reg_hostStores (d : Device) (l : List (Nat × Byte)) (r : Reg) : (d.hostStores l).reg r = d.reg r := rfl
@[simp] theorem Device.fld_hostStores (d : Device) (l : List (Nat × Byte)) (r : Reg) (g : RegField) : (d.hostStores l).fld r g = d.fld r g := rfl

@[simp] theorem Device.endIo_regs (d : Device) : (d.endIo).regs = d.regs := rfl
@[simp] theorem Device.endIo_pins (d : Device) : (d.endIo).pins = d.pins := rfl
@[simp] theorem Device.endIo_flash (d : Device) : (d.endIo).flash = d.flash := rfl
@[simp] theorem Device.endIo_boot (d : Device) : (d.endIo).boot = d.boot := rfl
@[simp] theorem Device.endIo_now (d : Device) : (d.endIo).now = d.now := rfl
@[simp] theorem Device.endIo_hostMem (d : Device) : (d.endIo).hostMem = d.hostMem := rfl
@[simp] theorem Device.endIo_mem (d : Device) : (d.endIo).mem = d.mem := rfl
@[simp] theorem Device.endIo_side (d : Device) : (d.endIo).side = d.side := rfl
@[simp] theorem Device.endIo_far (d : Device) : (d.endIo).far = d.far := rfl
@[simp] theorem Device.endIo_farSide (d : Device) : (d.endIo).farSide = d.farSide := rfl
@[simp] theorem Device.endIo_tlb (d : Device) : (d.endIo).tlb = d.tlb := rfl
@[simp] theorem Device.endIo_handles (d : Device) : (d.endIo).handles = d.handles := rfl
@[simp] theorem Device.endIo_streams (d : Device) : (d.endIo).streams = d.streams := rfl
@[simp] theorem Device.endIo_injectors (d : Device) : (d.endIo).injectors = d.injectors := rfl
@[simp] theorem Device.endIo_errs (d : Device) : (d.endIo).errs = d.errs := rfl
@[simp] theorem Device.endIo_hist (d : Device) : (d.endIo).hist = d.hist := rfl
@[simp] theorem Device.endIo_events (d : Device) : (d.endIo).events = d.events := rfl
@[simp] theorem Device.endIo_sqs (d : Device) : (d.endIo).sqs = d.sqs := rfl
@[simp] theorem Device.endIo_cqs (d : Device) : (d.endIo).cqs = d.cqs := rfl
@[simp] theorem Device.endIo_queues (d : Device) : (d.endIo).queues = d.queues := rfl
@[simp] theorem Device.endIo_objs (d : Device) : (d.endIo).objs = d.objs := rfl
@[simp] theorem Device.endIo_flows (d : Device) : (d.endIo).flows = d.flows := rfl
@[simp] theorem Device.endIo_layout (d : Device) : (d.endIo).layout = d.layout := rfl
@[simp] theorem Device.endIo_cores (d : Device) : (d.endIo).cores = d.cores := rfl
@[simp] theorem Device.endIo_readyLists (d : Device) : (d.endIo).readyLists = d.readyLists := rfl
@[simp] theorem Device.endIo_rr (d : Device) : (d.endIo).rr = d.rr := rfl
@[simp] theorem Device.endIo_left (d : Device) : (d.endIo).left = d.left := rfl
@[simp] theorem Device.endIo_readyStamp (d : Device) : (d.endIo).readyStamp = d.readyStamp := rfl
@[simp] theorem Device.endIo_pmemHeld (d : Device) : (d.endIo).pmemHeld = d.pmemHeld := rfl
@[simp] theorem Device.endIo_ptmOn (d : Device) : (d.endIo).ptmOn = d.ptmOn := rfl
@[simp] theorem Device.endIo_link (d : Device) : (d.endIo).link = d.link := rfl
@[simp] theorem Device.endIo_unmasked (d : Device) : (d.endIo).unmasked = d.unmasked := rfl
@[simp] theorem Device.endIo_msixPending (d : Device) : (d.endIo).msixPending = d.msixPending := rfl
@[simp] theorem Device.endIo_contribStalled (d : Device) : (d.endIo).contribStalled = d.contribStalled := rfl
@[simp] theorem Device.endIo_waiterEpisode (d : Device) : (d.endIo).waiterEpisode = d.waiterEpisode := rfl
@[simp] theorem Device.endIo_vfs (d : Device) : (d.endIo).vfs = d.vfs := rfl
@[simp] theorem Device.endIo_d3 (d : Device) : (d.endIo).d3 = d.d3 := rfl
@[simp] theorem Device.endIo_ptm (d : Device) : (d.endIo).ptm = d.ptm := rfl
@[simp] theorem Device.endIo_power (d : Device) : (d.endIo).power = d.power := rfl
@[simp] theorem Device.endIo_parts (d : Device) : (d.endIo).parts = d.parts := rfl
@[simp] theorem Device.endIo_flowDone (d : Device) : (d.endIo).flowDone = d.flowDone := rfl
@[simp] theorem Device.endIo_directory (d : Device) : (d.endIo).directory = d.directory := rfl
@[simp] theorem Device.endIo_enable (d : Device) : (d.endIo).enable = d.enable := rfl
@[simp] theorem Device.endIo_enabled (d : Device) : (d.endIo).enabled = d.enabled := rfl
@[simp] theorem Device.endIo_time (d : Device) : (d.endIo).time = d.time := rfl
@[simp] theorem Device.endIo_levelOut (d : Device) : (d.endIo).levelOut = d.levelOut := rfl
@[simp] theorem Device.endIo_ports (d : Device) : (d.endIo).ports = d.ports := rfl
@[simp] theorem Device.endIo_txWait (d : Device) : (d.endIo).txWait = d.txWait := rfl
@[simp] theorem Device.endIo_reqs (d : Device) : (d.endIo).reqs = d.reqs := rfl
@[simp] theorem Device.endIo_nextReq (d : Device) : (d.endIo).nextReq = d.nextReq := rfl
@[simp] theorem Device.endIo_outFlows (d : Device) : (d.endIo).outFlows = d.outFlows := rfl
@[simp] theorem Device.endIo_landing (d : Device) : (d.endIo).landing = d.landing := rfl
@[simp] theorem Device.endIo_heldReads (d : Device) : (d.endIo).heldReads = d.heldReads := rfl
@[simp] theorem Device.endIo_groups (d : Device) : (d.endIo).groups = d.groups := rfl
@[simp] theorem Device.endIo_collData (d : Device) : (d.endIo).collData = d.collData := rfl
@[simp] theorem Device.endIo_heldSignals (d : Device) : (d.endIo).heldSignals = d.heldSignals := rfl
@[simp] theorem Device.endIo_resets (d : Device) : (d.endIo).resets = d.resets := rfl
@[simp] theorem Device.endIo_groupsKept (d : Device) : (d.endIo).groupsKept = d.groupsKept := rfl
@[simp] theorem Device.endIo_groupsDropped (d : Device) : (d.endIo).groupsDropped = d.groupsDropped := rfl
@[simp] theorem Device.endIo_saves (d : Device) : (d.endIo).saves = d.saves := rfl
@[simp] theorem Device.endIo_saving (d : Device) : (d.endIo).saving = d.saving := rfl
@[simp] theorem Device.endIo_mgmt (d : Device) : (d.endIo).mgmt = d.mgmt := rfl
@[simp] theorem Device.endIo_out (d : Device) : (d.endIo).out = d.out := rfl
@[simp] theorem Device.endIo_free (d : Device) : (d.endIo).free = d.free := rfl
@[simp] theorem Device.reg_endIo (d : Device) (r : Reg) : (d.endIo).reg r = d.reg r := rfl
@[simp] theorem Device.fld_endIo (d : Device) (r : Reg) (g : RegField) : (d.endIo).fld r g = d.fld r g := rfl

@[simp] theorem Device.withIo_regs (d : Device) (io : MemIo) : (d.withIo io).regs = d.regs := rfl
@[simp] theorem Device.withIo_pins (d : Device) (io : MemIo) : (d.withIo io).pins = d.pins := rfl
@[simp] theorem Device.withIo_flash (d : Device) (io : MemIo) : (d.withIo io).flash = d.flash := rfl
@[simp] theorem Device.withIo_boot (d : Device) (io : MemIo) : (d.withIo io).boot = d.boot := rfl
@[simp] theorem Device.withIo_now (d : Device) (io : MemIo) : (d.withIo io).now = d.now := rfl
@[simp] theorem Device.withIo_mem (d : Device) (io : MemIo) : (d.withIo io).mem = d.mem := rfl
@[simp] theorem Device.withIo_side (d : Device) (io : MemIo) : (d.withIo io).side = d.side := rfl
@[simp] theorem Device.withIo_tlb (d : Device) (io : MemIo) : (d.withIo io).tlb = d.tlb := rfl
@[simp] theorem Device.withIo_handles (d : Device) (io : MemIo) : (d.withIo io).handles = d.handles := rfl
@[simp] theorem Device.withIo_streams (d : Device) (io : MemIo) : (d.withIo io).streams = d.streams := rfl
@[simp] theorem Device.withIo_injectors (d : Device) (io : MemIo) : (d.withIo io).injectors = d.injectors := rfl
@[simp] theorem Device.withIo_errs (d : Device) (io : MemIo) : (d.withIo io).errs = d.errs := rfl
@[simp] theorem Device.withIo_hist (d : Device) (io : MemIo) : (d.withIo io).hist = d.hist := rfl
@[simp] theorem Device.withIo_events (d : Device) (io : MemIo) : (d.withIo io).events = d.events := rfl
@[simp] theorem Device.withIo_sqs (d : Device) (io : MemIo) : (d.withIo io).sqs = d.sqs := rfl
@[simp] theorem Device.withIo_cqs (d : Device) (io : MemIo) : (d.withIo io).cqs = d.cqs := rfl
@[simp] theorem Device.withIo_queues (d : Device) (io : MemIo) : (d.withIo io).queues = d.queues := rfl
@[simp] theorem Device.withIo_objs (d : Device) (io : MemIo) : (d.withIo io).objs = d.objs := rfl
@[simp] theorem Device.withIo_flows (d : Device) (io : MemIo) : (d.withIo io).flows = d.flows := rfl
@[simp] theorem Device.withIo_layout (d : Device) (io : MemIo) : (d.withIo io).layout = d.layout := rfl
@[simp] theorem Device.withIo_cores (d : Device) (io : MemIo) : (d.withIo io).cores = d.cores := rfl
@[simp] theorem Device.withIo_readyLists (d : Device) (io : MemIo) : (d.withIo io).readyLists = d.readyLists := rfl
@[simp] theorem Device.withIo_rr (d : Device) (io : MemIo) : (d.withIo io).rr = d.rr := rfl
@[simp] theorem Device.withIo_left (d : Device) (io : MemIo) : (d.withIo io).left = d.left := rfl
@[simp] theorem Device.withIo_readyStamp (d : Device) (io : MemIo) : (d.withIo io).readyStamp = d.readyStamp := rfl
@[simp] theorem Device.withIo_pmemHeld (d : Device) (io : MemIo) : (d.withIo io).pmemHeld = d.pmemHeld := rfl
@[simp] theorem Device.withIo_ptmOn (d : Device) (io : MemIo) : (d.withIo io).ptmOn = d.ptmOn := rfl
@[simp] theorem Device.withIo_link (d : Device) (io : MemIo) : (d.withIo io).link = d.link := rfl
@[simp] theorem Device.withIo_unmasked (d : Device) (io : MemIo) : (d.withIo io).unmasked = d.unmasked := rfl
@[simp] theorem Device.withIo_msixPending (d : Device) (io : MemIo) : (d.withIo io).msixPending = d.msixPending := rfl
@[simp] theorem Device.withIo_contribStalled (d : Device) (io : MemIo) : (d.withIo io).contribStalled = d.contribStalled := rfl
@[simp] theorem Device.withIo_waiterEpisode (d : Device) (io : MemIo) : (d.withIo io).waiterEpisode = d.waiterEpisode := rfl
@[simp] theorem Device.withIo_vfs (d : Device) (io : MemIo) : (d.withIo io).vfs = d.vfs := rfl
@[simp] theorem Device.withIo_d3 (d : Device) (io : MemIo) : (d.withIo io).d3 = d.d3 := rfl
@[simp] theorem Device.withIo_ptm (d : Device) (io : MemIo) : (d.withIo io).ptm = d.ptm := rfl
@[simp] theorem Device.withIo_power (d : Device) (io : MemIo) : (d.withIo io).power = d.power := rfl
@[simp] theorem Device.withIo_parts (d : Device) (io : MemIo) : (d.withIo io).parts = d.parts := rfl
@[simp] theorem Device.withIo_flowDone (d : Device) (io : MemIo) : (d.withIo io).flowDone = d.flowDone := rfl
@[simp] theorem Device.withIo_directory (d : Device) (io : MemIo) : (d.withIo io).directory = d.directory := rfl
@[simp] theorem Device.withIo_enable (d : Device) (io : MemIo) : (d.withIo io).enable = d.enable := rfl
@[simp] theorem Device.withIo_enabled (d : Device) (io : MemIo) : (d.withIo io).enabled = d.enabled := rfl
@[simp] theorem Device.withIo_time (d : Device) (io : MemIo) : (d.withIo io).time = d.time := rfl
@[simp] theorem Device.withIo_levelOut (d : Device) (io : MemIo) : (d.withIo io).levelOut = d.levelOut := rfl
@[simp] theorem Device.withIo_ports (d : Device) (io : MemIo) : (d.withIo io).ports = d.ports := rfl
@[simp] theorem Device.withIo_txWait (d : Device) (io : MemIo) : (d.withIo io).txWait = d.txWait := rfl
@[simp] theorem Device.withIo_reqs (d : Device) (io : MemIo) : (d.withIo io).reqs = d.reqs := rfl
@[simp] theorem Device.withIo_nextReq (d : Device) (io : MemIo) : (d.withIo io).nextReq = d.nextReq := rfl
@[simp] theorem Device.withIo_outFlows (d : Device) (io : MemIo) : (d.withIo io).outFlows = d.outFlows := rfl
@[simp] theorem Device.withIo_landing (d : Device) (io : MemIo) : (d.withIo io).landing = d.landing := rfl
@[simp] theorem Device.withIo_heldReads (d : Device) (io : MemIo) : (d.withIo io).heldReads = d.heldReads := rfl
@[simp] theorem Device.withIo_groups (d : Device) (io : MemIo) : (d.withIo io).groups = d.groups := rfl
@[simp] theorem Device.withIo_collData (d : Device) (io : MemIo) : (d.withIo io).collData = d.collData := rfl
@[simp] theorem Device.withIo_heldSignals (d : Device) (io : MemIo) : (d.withIo io).heldSignals = d.heldSignals := rfl
@[simp] theorem Device.withIo_resets (d : Device) (io : MemIo) : (d.withIo io).resets = d.resets := rfl
@[simp] theorem Device.withIo_groupsKept (d : Device) (io : MemIo) : (d.withIo io).groupsKept = d.groupsKept := rfl
@[simp] theorem Device.withIo_groupsDropped (d : Device) (io : MemIo) : (d.withIo io).groupsDropped = d.groupsDropped := rfl
@[simp] theorem Device.withIo_saves (d : Device) (io : MemIo) : (d.withIo io).saves = d.saves ++ io.areas := rfl
@[simp] theorem Device.withIo_saving (d : Device) (io : MemIo) : (d.withIo io).saving = d.saving := rfl
@[simp] theorem Device.withIo_mgmt (d : Device) (io : MemIo) : (d.withIo io).mgmt = d.mgmt := rfl
@[simp] theorem Device.withIo_out (d : Device) (io : MemIo) : (d.withIo io).out = d.out := rfl
@[simp] theorem Device.withIo_free (d : Device) (io : MemIo) : (d.withIo io).free = d.free := rfl
@[simp] theorem Device.reg_withIo (d : Device) (io : MemIo) (r : Reg) : (d.withIo io).reg r = d.reg r := rfl
@[simp] theorem Device.fld_withIo (d : Device) (io : MemIo) (r : Reg) (g : RegField) : (d.withIo io).fld r g = d.fld r g := rfl

theorem Device.reg_setQueue (d : Device) (p q : Nat) (cs : List Cmd) (r : Reg) (h : r.offset ≠ (Reg.cmdQStatus p q).offset) :
    (d.setQueue p q cs).reg r = d.reg r := Device.reg_setReg_ne _ _ _ _ h

theorem Device.fld_setQueue (d : Device) (p q : Nat) (cs : List Cmd) (r : Reg) (g : RegField) (h : r.offset ≠ (Reg.cmdQStatus p q).offset) :
    (d.setQueue p q cs).fld r g = d.fld r g := by
  simp only [Device.fld, Device.reg_setQueue _ _ _ _ _ h]

theorem Device.reg_updCmd (d : Device) (p q i : Nat) (f : Cmd → Cmd) (r : Reg) (h : r.offset ≠ (Reg.cmdQStatus p q).offset) :
    (d.updCmd p q i f).reg r = d.reg r := Device.reg_setQueue _ _ _ _ _ h

theorem Device.fld_updCmd (d : Device) (p q i : Nat) (f : Cmd → Cmd) (r : Reg) (g : RegField) (h : r.offset ≠ (Reg.cmdQStatus p q).offset) :
    (d.updCmd p q i f).fld r g = d.fld r g := Device.fld_setQueue _ _ _ _ _ _ h

@[simp] theorem Device.part_updPart_self (d : Device) (p : Nat) (f : Part → Part) : (d.updPart p f).part p = f (d.part p) := by
  simp [Device.part, Device.updPart, SMap.at']

theorem Device.part_updPart_ne (d : Device) (p q : Nat) (f : Part → Part) (h : q ≠ p) : (d.updPart p f).part q = d.part q := by
  simp [Device.part, Device.updPart, SMap.at', SMap.get_set, h]

@[simp] theorem Device.obj_setObj_self (d : Device) (n : Nat) (x : SyncObj) : (d.setObj n x).obj n = x := by
  simp [Device.obj, Device.setObj, SMap.at']

theorem Device.obj_setObj_ne (d : Device) (n m : Nat) (x : SyncObj) (h : m ≠ n) : (d.setObj n x).obj m = d.obj m := by
  simp [Device.obj, Device.setObj, SMap.at', SMap.get_set, h]

@[simp] theorem Device.core_setCore_self (d : Device) (c : Nat) (k : Core) : (d.setCore c k).core c = k := by
  simp [Device.core, Device.setCore, SMap.at']

theorem Device.core_setCore_ne (d : Device) (c e : Nat) (k : Core) (h : e ≠ c) : (d.setCore c k).core e = d.core e := by
  simp [Device.core, Device.setCore, SMap.at', SMap.get_set, h]

@[simp] theorem Device.core_updCore_self (d : Device) (c : Nat) (f : Core → Core) : (d.updCore c f).core c = f (d.core c) :=
  Device.core_setCore_self _ _ _

@[simp] theorem Device.readyOf_setReady_self (d : Device) (n : Nat) (l : List ReadyEntry) : (d.setReady n l).readyOf n = l := by
  simp [Device.readyOf, Device.setReady, SMap.at']

theorem Device.readyOf_setReady_ne (d : Device) (n m : Nat) (l : List ReadyEntry) (h : m ≠ n) : (d.setReady n l).readyOf m = d.readyOf m := by
  simp [Device.readyOf, Device.setReady, SMap.at', SMap.get_set, h]

end Sys2Proof.Machine
end

