-- ==== Sys2Proof/Laws/Memory.lean ====
section
/-! SUPPORT. What reads and writes of memory leave alone: a read may log, count checksum and injection events, cache translations, use
free values and send requests to other chips; a write also changes memory and marks watched tiles. g stands for what is looked at. -/

namespace Sys2Proof.Machine

/-- What a read of memory may touch: g looks at none of it. -/
structure ReadBlind {α : Type} (g : Device → α) : Prop extends SendBlind g where
  log : ∀ d k r, g (Device.log d k r) = g d
  cksum : ∀ d f v, g (Device.setFld d .memCksumStats f v) = g d
  inj : ∀ d k f v, k < 4 → g (Device.setFld d (.tstInject k) f v) = g d
  injector : ∀ (d : Device) x, g { d with injectors := x } = g d
  tlb : ∀ (d : Device) x, g { d with tlb := x } = g d
  free : ∀ (d : Device) n, g { d with free := n } = g d

/-- What a write of memory may touch besides. -/
structure WriteBlind {α : Type} (g : Device → α) : Prop extends ReadBlind g where
  mem : ∀ (d : Device) x y, g { d with mem := x, side := y } = g d
  streams : ∀ (d : Device) x, g { d with streams := x } = g d
  host : ∀ d a bs, g (Device.hostWrite d a bs) = g d

theorem foldl_fst_keeps {α β γ : Type} (g : Device → γ) (f : Device × α → β → Device × α) (l : List β)
    (h : ∀ a, ∀ b ∈ l, g (f a b).1 = g a.1) (a : Device × α) : g (l.foldl f a).1 = g a.1 := by
  induction l generalizing a with
  | nil => rfl
  | cons b l ih =>
    rw [List.foldl_cons, ih (fun a b hb => h a b (List.mem_cons_of_mem _ hb)), h _ _ (List.mem_cons_self ..)]

variable {α : Type} {g : Device → α}

theorem Device.inject_keeps (h : ReadBlind g) (d : Device) (k : Nat) (t p : Option Nat) : g (d.inject k t p).1 = g d := by
  unfold Device.inject
  simp only []
  refine (foldl_fst_keeps g _ _ (fun a b hb => ?_) _).trans rfl
  repeat' split
  all_goals first
    | rfl
    | exact h.injector _ _
    | exact (h.inj _ _ _ _ (by simpa using hb)).trans (h.injector _ _)

theorem Device.logMem_keeps (h : ReadBlind g) (d : Device) (u : MemUser) (c l k n a x : Nat) (b : Bool) :
    g (d.logMem u c l k n a x b) = g d := (h.log _ _ _).trans (h.free _ _)

theorem Device.bumpCksum_keeps (h : ReadBlind g) (d : Device) (f : RegField) (n : Nat) : g (d.bump .memCksumStats f n) = g d := h.cksum _ _ _

theorem Device.remoteFault_keeps (h : ReadBlind g) (d : Device) (u : MemUser) (t a : Nat) : g (d.remoteFault u t a).1 = g d := by
  have hi := Device.inject_keeps h d 5 (some u.die) u.tstPart
  unfold Device.remoteFault
  split
  · rename_i hx
    rw [hx] at hi
    split
    · exact hi
    · split
      · exact hi
      · split
        · exact hi
        · exact (h.log _ _ _).trans hi

theorem Device.roundTrip_keeps (h : ReadBlind g) (d : Device) (u : MemUser) (t a n : Nat) (ks : List Packet) :
    g (d.roundTrip u t a n ks).1 = g d := by
  unfold Device.roundTrip
  split
  · exact h.log _ _ _
  · dsimp only
    split
    · rfl
    · split
      · rfl
      · exact (Device.remoteFault_keeps h _ _ _ _).trans
          (Device.foldl_frame g _ (fun d _ => Device.sendPacket_keeps h.toSendBlind d _ _) _ _)

theorem Device.reach_keeps (h : ReadBlind g) (d : Device) (u : MemUser) (a n : Nat) : g (d.reach u a n).1 = g d := by
  unfold Device.reach
  split
  · rfl
  · exact (Device.roundTrip_keeps h _ _ _ _ _ _).trans (h.emit _ _)

theorem Device.fetchCopy_keeps (h : ReadBlind g) (d : Device) (u : MemUser) (a : Nat) : g (d.fetchCopy u a).1 = g d := by
  have hr := Device.reach_keeps h d u a 4096
  unfold Device.fetchCopy
  split <;> (rename_i hx; rw [hx] at hr; exact hr)

theorem Device.takeIn_keeps (h : ReadBlind g) (d : Device) (u : MemUser) (a : Nat) (t : TileRec) (s : List Byte) (r : Option Nat) (c : Nat) :
    g (d.takeIn u a t s r c).1 = g d := by
  have hi := Device.inject_keeps h d 1 none u.tstPart
  unfold Device.takeIn
  simp only []
  split
  · exact hi
  · split
    · rw [Device.logMem_keeps h, Device.bumpCksum_keeps h, hi]
    · split
      · rw [Device.logMem_keeps h, Device.bumpCksum_keeps h, hi]
      · rename_i c
        have hc := Device.fetchCopy_keeps h (d.inject 1 none u.tstPart).1 u c
        split <;> (rename_i hx; rw [hx] at hc)
        · exact hc.trans hi
        · rw [Device.logMem_keeps h, Device.bumpCksum_keeps h]; exact hc.trans hi
        · split
          · rw [Device.logMem_keeps h, Device.bumpCksum_keeps h]; exact hc.trans hi
          · rw [Device.logMem_keeps h, Device.bumpCksum_keeps h]; exact hc.trans hi

theorem Device.readRec_keeps (h : ReadBlind g) (d : Device) (u : MemUser) (a n : Nat) (r : Option Nat) : g (d.readRec u a n r).1 = g d := by
  have hr := Device.reach_keeps h d u a n
  unfold Device.readRec
  split
  · rename_i hx; rw [hx] at hr; exact hr
  · rename_i hx; rw [hx] at hr; exact (Device.takeIn_keeps h _ _ _ _ _ _ _).trans hr

theorem Device.readPart_keeps (h : ReadBlind g) (d : Device) (u : MemUser) (a n : Nat) (r : Option Nat) : g (d.readPart u a n r).1 = g d :=
  Device.readRec_keeps h d u a n r

theorem Device.readScl_keeps (h : ReadBlind g) (d : Device) (u : MemUser) (t : TileRec) (a : Nat) (r : Option Nat) : g (d.readScl u t a r).1 = g d := by
  unfold Device.readScl
  split
  · exact Device.readPart_keeps h _ _ _ _ _
  · rfl

theorem Device.readTile_keeps (h : ReadBlind g) (d : Device) (u : MemUser) (a : Nat) (r : Option Nat) : g (d.readTile u a r).1 = g d := by
  have hr := Device.reach_keeps h d u a 4096
  unfold Device.readTile
  split
  · rename_i hx; rw [hx] at hr; exact hr
  · rename_i e hx; rw [hx] at hr
    have hs := Device.readScl_keeps h e u (e.recOf a) a r
    simp only []
    split
    · rename_i hy; rw [hy] at hs; exact (Device.takeIn_keeps h _ _ _ _ _ _ _).trans (hs.trans hr)
    · rename_i hy; rw [hy] at hs; exact hs.trans hr

theorem Device.cacheLeaf_keeps (h : ReadBlind g) (d : Device) (n : Nat) (e : TlbEntry) : g (d.cacheLeaf n e) = g d := by
  unfold Device.cacheLeaf Device.freeValue
  simp only []
  split
  · exact h.tlb _ _
  · have := h.tlb { d with free := d.free + 1 }
    exact (this _).trans (h.free _ _)

theorem Device.takeHere_keeps (h : ReadBlind g) (d : Device) (u : MemUser) (a c : Nat) : g (d.takeHere u a c).1 = g d :=
  Device.takeIn_keeps h _ _ _ _ _ _ _

theorem walkStep_keeps (h : ReadBlind g) (u : MemUser) (a : Nat) (s : Device × Except MemErr ((Word × Nat) ⊕ Nat)) (l : Nat) :
    g (walkStep u a s l).1 = g s.1 := by
  unfold walkStep
  split
  · rename_i d t
    have ht := Device.takeHere_keeps h d u (d.ownAt t) 3
    split
    · rfl
    · split <;> (rename_i hx; rw [hx] at ht; exact ht)
  · rfl

theorem Device.walk_keeps (h : ReadBlind g) (d : Device) (u : MemUser) (a t : Nat) : g (d.walk u a t).1 = g d := by
  have hw := foldl_fst_keeps g (walkStep u a) (List.range 4) (fun s l _ => walkStep_keeps h u a s l) (d, .ok (.inr t))
  unfold Device.walk
  split <;> (rename_i hx; rw [hx] at hw; exact hw)

theorem Device.leafOf_keeps (h : ReadBlind g) (d : Device) (u : MemUser) (a : Nat) : g (d.leafOf u a).1 = g d := by
  have hw := Device.walk_keeps h d u a (d.fld (.memPartPtBase u.part) Fd.memPartPtBaseOffset * 4096)
  unfold Device.leafOf
  split
  · rfl
  · split <;> (rename_i hx; rw [hx] at hw)
    · exact hw
    · exact (Device.cacheLeaf_keeps h _ _ _).trans hw

theorem Device.dvaPlace_keeps (h : ReadBlind g) (d : Device) (u : MemUser) (a : Nat) (w : Bool) : g (d.dvaPlace u a w).1 = g d := by
  have hl := Device.leafOf_keeps h d u a
  unfold Device.dvaPlace
  split
  · rfl
  · split
    · rfl
    · rfl
    · split
      · rfl
      · split <;> (rename_i hx; rw [hx] at hl; exact hl)

theorem Device.translate_keeps (h : ReadBlind g) (d : Device) (u : MemUser) (a : Nat) (w : Bool) : g (d.translate u a w).1 = g d := by
  have hi := Device.inject_keeps h d 6 none u.tstPart
  unfold Device.translate
  split <;> (rename_i hx; rw [hx] at hi)
  · exact hi
  · exact (Device.dvaPlace_keeps h _ _ _ _).trans hi

theorem Device.byDva_keeps {β : Type} (a : Nat) (r : Device × Except MemErr β) : g (byDva a r).1 = g r.1 := rfl

theorem Device.readPlace_keeps (h : ReadBlind g) (d : Device) (u : MemUser) (x : Place) (n : Nat) : g (d.readPlace u x n).1 = g d := by
  unfold Device.readPlace
  split
  · exact Device.readPart_keeps h _ _ _ _ _
  · exact h.emit _ _

theorem Device.readDva_keeps (h : ReadBlind g) (d : Device) (u : MemUser) (a n : Nat) : g (d.readDva u a n).1 = g d := by
  unfold Device.readDva
  refine (foldl_fst_keeps g _ _ (fun acc b _ => ?_) _).trans rfl
  obtain ⟨e, r⟩ := acc
  cases r with
  | error x => rfl
  | ok bs =>
    simp only []
    have ht := Device.translate_keeps h e u b.1 false
    split
    · rename_i hx; rw [hx] at ht; exact ht
    · rename_i x y hx
      rw [hx] at ht
      have hp : g (byDva b.1 (x.readPlace u y b.2)).1 = g x := Device.readPlace_keeps h x u y b.2
      split
      · rename_i hy; rw [hy] at hp; exact hp.trans ht
      · rename_i hy; rw [hy] at hp; exact hp.trans ht

theorem Device.translateAll_keeps (h : ReadBlind g) (d : Device) (u : MemUser) (a n : Nat) (w : Bool) : g (d.translateAll u a n w).1 = g d := by
  unfold Device.translateAll
  refine (foldl_fst_keeps g _ _ (fun acc b _ => ?_) _).trans rfl
  obtain ⟨e, r⟩ := acc
  cases r with
  | error x => rfl
  | ok bs =>
    simp only []
    have ht := Device.translate_keeps h e u b.1 w
    split <;> (rename_i hx; rw [hx] at ht; exact ht)

theorem Device.readPlaces_keeps (h : ReadBlind g) (d : Device) (u : MemUser) (l : List Span) : g (d.readPlaces u l).1 = g d := by
  unfold Device.readPlaces
  refine (foldl_fst_keeps g _ _ (fun acc b _ => ?_) _).trans rfl
  obtain ⟨e, r⟩ := acc
  cases r with
  | error x => rfl
  | ok bs =>
    simp only []
    have ht : g (byDva b.dva (e.readPlace u b.place b.len)).1 = g e := Device.readPlace_keeps h e u b.place b.len
    split <;> (rename_i hx; rw [hx] at ht; exact ht)

theorem Device.readTileAt_keeps (h : ReadBlind g) (d : Device) (u : MemUser) (x : Place) (f : Nat) : g (d.readTileAt u x f).1 = g d := by
  unfold Device.readTileAt
  split
  · exact Device.readTile_keeps h _ _ _ _
  · exact h.emit _ _

theorem Device.takeTile_keeps (h : ReadBlind g) (d : Device) (u : MemUser) (x : Place) (a f : Nat) : g (d.takeTile u x a f).1 = g d := by
  unfold Device.takeTile
  split
  · exact Device.readTileAt_keeps h _ _ _ _
  · rename_i p
    have hr := Device.reach_keeps h d u p 4096
    split
    · rename_i hx; rw [hx] at hr; exact hr
    · rename_i e hx; rw [hx] at hr
      simp only []
      split
      · have ht := Device.translate_keeps h e u (scaleRecAt (e.recOf p) a) false
        split
        · rename_i hy; rw [hy] at ht; exact ht.trans hr
        · rename_i k s hy; rw [hy] at ht
          have hp : g (byDva (scaleRecAt (e.recOf p) a) (k.readPlace u s 256)).1 = g k := Device.readPlace_keeps h k u s 256
          split
          · rename_i hz; rw [hz] at hp; exact hp.trans (ht.trans hr)
          · rename_i hz; rw [hz] at hp; exact (Device.takeIn_keeps h _ _ _ _ _ _ _).trans (hp.trans (ht.trans hr))
      · exact (Device.takeIn_keeps h _ _ _ _ _ _ _).trans hr

/-! ### Writes -/

theorem Device.touched_keeps (h : WriteBlind g) (d : Device) (o n : Nat) : g (d.touched o n) = g d := h.streams _ _

theorem Device.putRec_keeps (h : WriteBlind g) (d : Device) (o : Nat) (a b c : List Byte) (f : Nat) (x : Bool) (m : Nat) :
    g (d.putRec o a b c f x m) = g d := h.mem _ _ _

theorem Device.mergeWrite_keeps (h : WriteBlind g) (d : Device) (u : MemUser) (o : Nat) (bs : List Byte) (l : Bool) :
    g (d.mergeWrite u o bs l).1 = g d := by
  unfold Device.mergeWrite
  simp only []
  have ht := Device.takeHere_keeps h.toReadBlind d u (d.ownAt o) 2
  split
  · rename_i hx; rw [hx] at ht
    exact (Device.bumpCksum_keeps h.toReadBlind _ _ _).trans ht
  · rename_i hx; rw [hx] at ht
    split
    · exact (Device.logMem_keeps h.toReadBlind _ _ _ _ _ _ _ _ _).trans ((Device.bumpCksum_keeps h.toReadBlind _ _ _).trans ht)
    · simp only []
      split
      · exact (Device.touched_keeps h _ _ _).trans ((Device.putRec_keeps h _ _ _ _ _ _ _ _).trans ht)
      · exact (Device.putRec_keeps h _ _ _ _ _ _ _ _).trans ht

theorem Device.writePart_keeps (h : WriteBlind g) (d : Device) (u : MemUser) (a : Nat) (bs : List Byte) : g (d.writePart u a bs).1 = g d := by
  unfold Device.writePart
  split
  · exact Device.mergeWrite_keeps h _ _ _ _ _
  · have hr := Device.roundTrip_keeps h.toReadBlind (d.emit (.remoteWrite a bs)) u 2 a bs.length ((d.emit (.remoteWrite a bs)).writePackets u a bs)
    have hr' : g ((d.emit (.remoteWrite a bs)).roundTrip u 2 a bs.length (d.writePackets u a bs)).1 = g (d.emit (.remoteWrite a bs)) := hr
    split <;> (rename_i hx; rw [hx] at hr'; exact hr'.trans (h.emit _ _))

theorem Device.writeTile_keeps (h : WriteBlind g) (d : Device) (u : MemUser) (a : Nat) (x y z : List Byte) : g (d.writeTile u a x y z).1 = g d := by
  unfold Device.writeTile
  simp only []
  split
  · have hp := (Device.touched_keeps h (d.putRec (offOf a) x y z (TileRec.fmt { hdr := leBytes 8 0 ++ x, data := y }) (TileRec.dense { hdr := leBytes 8 0 ++ x, data := y })
      (TileRec.mask { hdr := leBytes 8 0 ++ x, data := y })) (offOf a) 4096).trans (Device.putRec_keeps h _ _ _ _ _ _ _ _)
    split
    · exact (Device.writePart_keeps h _ _ _ _).trans hp
    · exact hp
  · have hw := Device.writePart_keeps h d u a (TileRec.view { hdr := leBytes 8 0 ++ x, data := y })
    split
    · rename_i hx; rw [hx] at hw; exact hw
    · rename_i hx; rw [hx] at hw
      split
      · exact (Device.writePart_keeps h _ _ _ _).trans hw
      · exact hw

theorem Device.writePlace_keeps (h : WriteBlind g) (d : Device) (u : MemUser) (x : Place) (bs : List Byte) (f : Nat) :
    g (d.writePlace u x bs f).1 = g d := by
  unfold Device.writePlace
  split
  · exact h.host _ _ _
  · split
    · exact Device.writeTile_keeps h _ _ _ _ _ _
    · exact Device.writePart_keeps h _ _ _ _

theorem Device.writeTileAt_keeps (h : WriteBlind g) (d : Device) (u : MemUser) (p : Place) (x y z : List Byte) : g (d.writeTileAt u p x y z).1 = g d := by
  unfold Device.writeTileAt
  split
  · exact Device.writeTile_keeps h _ _ _ _ _ _
  · exact h.host _ _ _

theorem Device.putTile_keeps (h : WriteBlind g) (d : Device) (u : MemUser) (p : Place) (a : Nat) (x y z : List Byte) :
    g (d.putTile u p a x y z).1 = g d := by
  unfold Device.putTile
  simp only []
  split
  · exact Device.writeTileAt_keeps h _ _ _ _ _ _
  · rename_i o
    split
    · have ht := Device.translate_keeps h.toReadBlind d u (scaleRecAt { hdr := leBytes 8 0 ++ x, data := y } a) true
      split
      · rename_i hx; rw [hx] at ht; exact ht
      · rename_i e s hx; rw [hx] at ht
        have first : ∀ r : Device × Except MemErr Unit, g r.1 = g e → g (match r with
            | (d, .error k) => (d, .error k)
            | (d, .ok ()) => byDva (scaleRecAt { hdr := leBytes 8 0 ++ x, data := y } a) (d.writePlace u s (z.take 256) 0) :
              Device × Except MemErr Unit).1 = g e := by
          intro r hr
          obtain ⟨f, k⟩ := r
          cases k with
          | error _ => exact hr
          | ok _ => exact (Device.writePlace_keeps h _ _ _ _ _).trans hr
        refine (first _ ?_).trans ht
        split
        · exact (Device.touched_keeps h _ _ _).trans (Device.putRec_keeps h _ _ _ _ _ _ _ _)
        · exact Device.writePart_keeps h _ _ _ _
    · exact Device.writeTile_keeps h _ _ _ _ _ _

theorem Device.writePlaces_keeps (h : WriteBlind g) (d : Device) (u : MemUser) (l : List Span) (bs : List Byte) (f : Nat) :
    g (d.writePlaces u l bs f).1 = g d := by
  unfold Device.writePlaces
  simp only []
  refine (foldl_fst_keeps g _ _ (fun acc b _ => ?_) _).trans rfl
  obtain ⟨e, r, bs'⟩ := acc
  cases r with
  | error x => rfl
  | ok _ => exact Device.writePlace_keeps h _ _ _ _ _

theorem Device.dmaTile_keeps (h : WriteBlind g) (d : Device) (u : MemUser) (x : Desc) (i : Nat) : g (d.dmaTile u x i).1 = g d := by
  unfold Device.dmaTile
  simp only []
  have h1 := Device.translate_keeps h.toReadBlind d u (x.q4.toNat + 4096 * i) false
  split
  · rename_i hx; rw [hx] at h1; exact h1
  · rename_i a s hx; rw [hx] at h1
    have h2 := Device.translate_keeps h.toReadBlind a u (x.q5.toNat + 4096 * i) true
    split
    · rename_i hy; rw [hy] at h2; exact h2.trans h1
    · rename_i b t hy; rw [hy] at h2
      have h3 := Device.takeTile_keeps h.toReadBlind b u s (x.q4.toNat + 4096 * i) (fieldOf x.q6 19 16)
      split
      · rename_i hz; rw [hz] at h3; exact h3.trans (h2.trans h1)
      · rename_i hz; rw [hz] at h3
        exact (Device.putTile_keeps h _ _ _ _ _ _ _).trans (h3.trans (h2.trans h1))

theorem Device.dmaRaw_keeps (h : WriteBlind g) (d : Device) (u : MemUser) (x : Desc) (i : Nat) : g (d.dmaRaw u x i).1 = g d := by
  unfold Device.dmaRaw
  simp only []
  have dest : ∀ (e : Device) (l : List Span), g (match e.translateAll u (rawDest x + (rawUnit x i).1) (rawUnit x i).2 true with
      | (d, .error k) => (d, .error k)
      | (d, .ok dest) =>
        match if (opcodeOf x == 0x21) = true then (d, Except.ok ((List.range ((rawUnit x i).2 / 8)).flatMap fun _ => leBytes 8 x.q5.toNat))
          else d.readPlaces u l with
        | (d, .error k) => (d, .error k)
        | (d, .ok bytes) => d.writePlaces u dest bytes (if (opcodeOf x == 0x21) = true then 0 else fieldOf x.q6 19 16) :
        Device × Except MemErr Unit).1 = g e := by
    intro e l
    have ht := Device.translateAll_keeps h.toReadBlind e u (rawDest x + (rawUnit x i).1) (rawUnit x i).2 true
    split
    · rename_i hx; rw [hx] at ht; exact ht
    · rename_i a sp hx; rw [hx] at ht
      have hr : g (if (opcodeOf x == 0x21) = true then (a, Except.ok ((List.range ((rawUnit x i).2 / 8)).flatMap fun _ => leBytes 8 x.q5.toNat))
          else a.readPlaces u l : Device × Except MemErr (List Byte)).1 = g a := by
        split
        · rfl
        · exact Device.readPlaces_keeps h.toReadBlind _ _ _
      split
      · rename_i hy; rw [hy] at hr; exact hr.trans ht
      · rename_i hy; rw [hy] at hr; exact (Device.writePlaces_keeps h _ _ _ _ _).trans (hr.trans ht)
  have hf : g (if (opcodeOf x == 0x21) = true then (d, Except.ok [])
      else d.translateAll u (x.q4.toNat + (rawUnit x i).1) (rawUnit x i).2 false : Device × Except MemErr (List Span)).1 = g d := by
    split
    · rfl
    · exact Device.translateAll_keeps h.toReadBlind _ _ _ _ _
  split
  · rename_i hx; rw [hx] at hf; exact hf
  · rename_i hx; rw [hx] at hf; exact (dest _ _).trans hf

/-! ### What is looked at -/

/-- A part of the device that is none of those a read may touch. -/
theorem ReadBlind.of (h : ∀ (d : Device) regs errs hist events hostMem pend out injectors tlb free ports wait, g { d with
    regs := regs, errs := errs, hist := hist, events := events, hostMem := hostMem, msixPending := pend, out := out
    injectors := injectors, tlb := tlb, free := free, ports := ports, txWait := wait } = g d) : ReadBlind g := by
  have hs : ∀ (d : Device) (r : Reg) (w : Word), g (d.setReg r w) = g d := fun d r w => by
    unfold Device.setReg; split
    · exact h d _ _ _ _ _ _ _ _ _ _ _ _
    · rfl
  exact
    { port := fun d _ _ => h d _ _ _ _ _ _ _ _ _ _ _ _
      emit := fun d _ => h d _ _ _ _ _ _ _ _ _ _ _ _
      traffic := fun d _ _ _ => hs d _ _
      wait := fun d _ => h d _ _ _ _ _ _ _ _ _ _ _ _
      log := fun d k r => by
        rw [← h (d.log k r) d.regs d.errs d.hist d.events d.hostMem d.msixPending d.out (d.log k r).injectors (d.log k r).tlb (d.log k r).free
          (d.log k r).ports (d.log k r).txWait]
        exact congrArg g (d.logSame_log k r).frame
      cksum := fun d _ _ => hs d _ _
      inj := fun d _ _ _ _ => hs d _ _
      injector := fun d _ => h d _ _ _ _ _ _ _ _ _ _ _ _
      tlb := fun d _ => h d _ _ _ _ _ _ _ _ _ _ _ _
      free := fun d _ => h d _ _ _ _ _ _ _ _ _ _ _ _ }

/-- A part of the device that is none of those a write may touch. -/
theorem WriteBlind.of (h : ∀ (d : Device) regs errs hist events hostMem pend out injectors tlb free ports wait mem side streams, g { d with
    regs := regs, errs := errs, hist := hist, events := events, hostMem := hostMem, msixPending := pend, out := out
    injectors := injectors, tlb := tlb, free := free, ports := ports, txWait := wait, mem := mem, side := side, streams := streams } = g d) :
    WriteBlind g :=
  { ReadBlind.of fun d _ _ _ _ _ _ _ _ _ _ _ _ => h d _ _ _ _ _ _ _ _ _ _ _ _ d.mem d.side d.streams with
    mem := fun d _ _ => h d _ _ _ _ _ _ _ _ _ _ _ _ _ _ _
    streams := fun d _ => h d _ _ _ _ _ _ _ _ _ _ _ _ _ _ _
    host := fun d _ _ => h d _ _ _ _ _ _ _ _ _ _ _ _ _ _ _ }

theorem writeBlind_pins : WriteBlind Device.pins := .of fun _ _ _ _ _ _ _ _ _ _ _ _ _ _ _ _ => rfl
theorem writeBlind_flash : WriteBlind Device.flash := .of fun _ _ _ _ _ _ _ _ _ _ _ _ _ _ _ _ => rfl
theorem writeBlind_boot : WriteBlind Device.boot := .of fun _ _ _ _ _ _ _ _ _ _ _ _ _ _ _ _ => rfl
theorem writeBlind_now : WriteBlind Device.now := .of fun _ _ _ _ _ _ _ _ _ _ _ _ _ _ _ _ => rfl
theorem writeBlind_far : WriteBlind Device.far := .of fun _ _ _ _ _ _ _ _ _ _ _ _ _ _ _ _ => rfl
theorem writeBlind_farSide : WriteBlind Device.farSide := .of fun _ _ _ _ _ _ _ _ _ _ _ _ _ _ _ _ => rfl
theorem writeBlind_hostBad : WriteBlind Device.hostBad := .of fun _ _ _ _ _ _ _ _ _ _ _ _ _ _ _ _ => rfl
theorem writeBlind_badReads : WriteBlind Device.badReads := .of fun _ _ _ _ _ _ _ _ _ _ _ _ _ _ _ _ => rfl
theorem writeBlind_remoteBad : WriteBlind Device.remoteBad := .of fun _ _ _ _ _ _ _ _ _ _ _ _ _ _ _ _ => rfl
theorem writeBlind_handles : WriteBlind Device.handles := .of fun _ _ _ _ _ _ _ _ _ _ _ _ _ _ _ _ => rfl
theorem writeBlind_sqs : WriteBlind Device.sqs := .of fun _ _ _ _ _ _ _ _ _ _ _ _ _ _ _ _ => rfl
theorem writeBlind_cqs : WriteBlind Device.cqs := .of fun _ _ _ _ _ _ _ _ _ _ _ _ _ _ _ _ => rfl
theorem writeBlind_queues : WriteBlind Device.queues := .of fun _ _ _ _ _ _ _ _ _ _ _ _ _ _ _ _ => rfl
theorem writeBlind_objs : WriteBlind Device.objs := .of fun _ _ _ _ _ _ _ _ _ _ _ _ _ _ _ _ => rfl
theorem writeBlind_flows : WriteBlind Device.flows := .of fun _ _ _ _ _ _ _ _ _ _ _ _ _ _ _ _ => rfl
theorem writeBlind_layout : WriteBlind Device.layout := .of fun _ _ _ _ _ _ _ _ _ _ _ _ _ _ _ _ => rfl
theorem writeBlind_cores : WriteBlind Device.cores := .of fun _ _ _ _ _ _ _ _ _ _ _ _ _ _ _ _ => rfl
theorem writeBlind_pmemHeld : WriteBlind Device.pmemHeld := .of fun _ _ _ _ _ _ _ _ _ _ _ _ _ _ _ _ => rfl
theorem writeBlind_readyLists : WriteBlind Device.readyLists := .of fun _ _ _ _ _ _ _ _ _ _ _ _ _ _ _ _ => rfl
theorem writeBlind_rr : WriteBlind Device.rr := .of fun _ _ _ _ _ _ _ _ _ _ _ _ _ _ _ _ => rfl
theorem writeBlind_left : WriteBlind Device.left := .of fun _ _ _ _ _ _ _ _ _ _ _ _ _ _ _ _ => rfl
theorem writeBlind_readyStamp : WriteBlind Device.readyStamp := .of fun _ _ _ _ _ _ _ _ _ _ _ _ _ _ _ _ => rfl
theorem writeBlind_waiterEpisode : WriteBlind Device.waiterEpisode := .of fun _ _ _ _ _ _ _ _ _ _ _ _ _ _ _ _ => rfl
theorem writeBlind_vfs : WriteBlind Device.vfs := .of fun _ _ _ _ _ _ _ _ _ _ _ _ _ _ _ _ => rfl
theorem writeBlind_d3 : WriteBlind Device.d3 := .of fun _ _ _ _ _ _ _ _ _ _ _ _ _ _ _ _ => rfl
theorem writeBlind_ptmOn : WriteBlind Device.ptmOn := .of fun _ _ _ _ _ _ _ _ _ _ _ _ _ _ _ _ => rfl
theorem writeBlind_ptm : WriteBlind Device.ptm := .of fun _ _ _ _ _ _ _ _ _ _ _ _ _ _ _ _ => rfl
theorem writeBlind_link : WriteBlind Device.link := .of fun _ _ _ _ _ _ _ _ _ _ _ _ _ _ _ _ => rfl
theorem writeBlind_unmasked : WriteBlind Device.unmasked := .of fun _ _ _ _ _ _ _ _ _ _ _ _ _ _ _ _ => rfl
theorem writeBlind_power : WriteBlind Device.power := .of fun _ _ _ _ _ _ _ _ _ _ _ _ _ _ _ _ => rfl
theorem writeBlind_parts : WriteBlind Device.parts := .of fun _ _ _ _ _ _ _ _ _ _ _ _ _ _ _ _ => rfl
theorem writeBlind_flowDone : WriteBlind Device.flowDone := .of fun _ _ _ _ _ _ _ _ _ _ _ _ _ _ _ _ => rfl
theorem writeBlind_directory : WriteBlind Device.directory := .of fun _ _ _ _ _ _ _ _ _ _ _ _ _ _ _ _ => rfl
theorem writeBlind_enable : WriteBlind Device.enable := .of fun _ _ _ _ _ _ _ _ _ _ _ _ _ _ _ _ => rfl
theorem writeBlind_enabled : WriteBlind Device.enabled := .of fun _ _ _ _ _ _ _ _ _ _ _ _ _ _ _ _ => rfl
theorem writeBlind_time : WriteBlind Device.time := .of fun _ _ _ _ _ _ _ _ _ _ _ _ _ _ _ _ => rfl
theorem writeBlind_levelOut : WriteBlind Device.levelOut := .of fun _ _ _ _ _ _ _ _ _ _ _ _ _ _ _ _ => rfl
theorem writeBlind_reqs : WriteBlind Device.reqs := .of fun _ _ _ _ _ _ _ _ _ _ _ _ _ _ _ _ => rfl
theorem writeBlind_nextReq : WriteBlind Device.nextReq := .of fun _ _ _ _ _ _ _ _ _ _ _ _ _ _ _ _ => rfl
theorem writeBlind_outFlows : WriteBlind Device.outFlows := .of fun _ _ _ _ _ _ _ _ _ _ _ _ _ _ _ _ => rfl
theorem writeBlind_landing : WriteBlind Device.landing := .of fun _ _ _ _ _ _ _ _ _ _ _ _ _ _ _ _ => rfl
theorem writeBlind_heldReads : WriteBlind Device.heldReads := .of fun _ _ _ _ _ _ _ _ _ _ _ _ _ _ _ _ => rfl
theorem writeBlind_contribStalled : WriteBlind Device.contribStalled := .of fun _ _ _ _ _ _ _ _ _ _ _ _ _ _ _ _ => rfl
theorem writeBlind_groups : WriteBlind Device.groups := .of fun _ _ _ _ _ _ _ _ _ _ _ _ _ _ _ _ => rfl
theorem writeBlind_collData : WriteBlind Device.collData := .of fun _ _ _ _ _ _ _ _ _ _ _ _ _ _ _ _ => rfl
theorem writeBlind_heldSignals : WriteBlind Device.heldSignals := .of fun _ _ _ _ _ _ _ _ _ _ _ _ _ _ _ _ => rfl
theorem writeBlind_resets : WriteBlind Device.resets := .of fun _ _ _ _ _ _ _ _ _ _ _ _ _ _ _ _ => rfl
theorem writeBlind_groupsKept : WriteBlind Device.groupsKept := .of fun _ _ _ _ _ _ _ _ _ _ _ _ _ _ _ _ => rfl
theorem writeBlind_groupsDropped : WriteBlind Device.groupsDropped := .of fun _ _ _ _ _ _ _ _ _ _ _ _ _ _ _ _ => rfl
theorem writeBlind_saves : WriteBlind Device.saves := .of fun _ _ _ _ _ _ _ _ _ _ _ _ _ _ _ _ => rfl
theorem writeBlind_saving : WriteBlind Device.saving := .of fun _ _ _ _ _ _ _ _ _ _ _ _ _ _ _ _ => rfl
theorem writeBlind_mgmt : WriteBlind Device.mgmt := .of fun _ _ _ _ _ _ _ _ _ _ _ _ _ _ _ _ => rfl
theorem readBlind_mem : ReadBlind Device.mem := .of fun _ _ _ _ _ _ _ _ _ _ _ _ _ => rfl
theorem readBlind_side : ReadBlind Device.side := .of fun _ _ _ _ _ _ _ _ _ _ _ _ _ => rfl
theorem readBlind_streams : ReadBlind Device.streams := .of fun _ _ _ _ _ _ _ _ _ _ _ _ _ => rfl

/-- Registers that memory work does not write. -/
theorem writeBlind_reg (r : Reg) (h1 : r.offset ∉ logRegs.map Reg.offset) (h2 : r.offset ≠ (Reg.memCksumStats).offset)
    (h3 : ∀ k, k < 4 → r.offset ≠ (Reg.tstInject k).offset) (h4 : ∀ n, r.offset ≠ (Reg.lnkPortTraffic n).offset ∨ 28 ≤ n) :
    WriteBlind fun d => d.reg r :=
  { sendBlind_reg r h4 with
    log := fun d k x => (d.logSame_log k x).regs r h1
    cksum := fun _ _ _ => Device.reg_setReg_ne _ _ _ _ h2
    inj := fun _ k _ _ hk => Device.reg_setReg_ne _ _ _ _ (h3 k hk)
    injector := fun _ _ => rfl
    tlb := fun _ _ => rfl
    free := fun _ _ => rfl
    mem := fun _ _ _ => rfl
    streams := fun _ _ => rfl
    host := fun _ _ _ => rfl }

theorem writeBlind_fld (r : Reg) (f : RegField) (h1 : r.offset ∉ logRegs.map Reg.offset) (h2 : r.offset ≠ (Reg.memCksumStats).offset)
    (h3 : ∀ k, k < 4 → r.offset ≠ (Reg.tstInject k).offset) (h4 : ∀ n, r.offset ≠ (Reg.lnkPortTraffic n).offset ∨ 28 ≤ n) :
    WriteBlind fun d => d.fld r f :=
  { sendBlind_fld r f h4 with
    log := fun d k x => by simp only [Device.fld, (d.logSame_log k x).regs r h1]
    cksum := fun _ _ _ => Device.fld_setReg_ne _ _ _ _ _ h2
    inj := fun _ k _ _ hk => Device.fld_setReg_ne _ _ _ _ _ (h3 k hk)
    injector := fun _ _ => rfl
    tlb := fun _ _ => rfl
    free := fun _ _ => rfl
    mem := fun _ _ _ => rfl
    streams := fun _ _ => rfl
    host := fun _ _ _ => rfl }

end Sys2Proof.Machine
end

