-- ==== Sys2Proof/Laws/Pools.lean ====
section
/-! SUPPORT. Storage taken from a pool (R379): where a pool has a place, firmware finds one, whatever the free value that chooses it. -/

namespace Sys2Proof.Machine

/-- R379: how many places of a length at an alignment a pool of a partition has free, besides ranges already chosen. -/
def Device.places (d : Device) (p die : Nat) (far : Bool) (len align : Nat) (besides : List (Nat × Nat)) : List (Nat × Nat) :=
  (gapsOf ((d.pool p die far).1 + (d.pool p die far).2) (d.pool p die far).1
    ((d.taken ++ besides).foldl (fun l x => if x.2 = 0 then l else insertRange x l) [])).map (gapSlots len align)

/-- A number of places is the number of those before it and of the rest. -/
theorem foldl_add_start (l : List Nat) : ∀ n : Nat, l.foldl (· + ·) n = n + l.foldl (· + ·) 0 := by
  induction l with
  | nil => simp
  | cons x l ih => intro n; rw [List.foldl_cons, List.foldl_cons, ih, ih (0 + x)]; omega

/-- There is a place of each number below the number of places. -/
theorem nthSlot_isSome (align : Nat) (l : List (Nat × Nat)) :
    ∀ k : Nat, k < (l.map Prod.snd).foldl (· + ·) 0 → (nthSlot align k l).isSome = true := by
  induction l with
  | nil => simp
  | cons g l ih =>
    intro k h
    obtain ⟨a, n⟩ := g
    rw [List.map_cons, List.foldl_cons, foldl_add_start] at h
    unfold nthSlot
    split
    · rfl
    · exact ih _ (by simp only at h; omega)

/-- R379: a pool with a free place gives one. -/
theorem Device.allot_isSome (d : Device) (p die : Nat) (far : Bool) (len align : Nat) (besides : List (Nat × Nat))
    (h : ((d.places p die far len align besides).map Prod.snd).foldl (· + ·) 0 ≠ 0) :
    (d.allot p die far len align besides).2.isSome = true := by
  have hn := nthSlot_isSome align (d.places p die far len align besides)
    (d.freeValue.1.toNat % ((d.places p die far len align besides).map Prod.snd).foldl (· + ·) 0) (Nat.mod_lt _ (Nat.pos_of_ne_zero h))
  unfold Device.places at h hn
  unfold Device.allot
  simp only [h, if_false]
  exact hn

/-- R380: the map of an epoch of a bound table finds its place where the far pool has one. -/
theorem Device.allotMap_snd (d : Device) (p h epoch : Nat) (t : Table) (ht : d.table p h = some t)
    (hp : ((d.places p (d.homeDie p) true ((32 * t.unitCount + 4095) / 4096 * 4096) 4096 []).map Prod.snd).foldl (· + ·) 0 ≠ 0) :
    (d.allotMap p h epoch).2 = true := by
  have ha := Device.allot_isSome _ _ _ _ _ _ _ hp
  unfold Device.allotMap
  rw [ht]
  simp only
  split
  · next e => rw [e] at ha; cases ha
  · rfl

/-- R380: what a map that finds its place leaves: the table with that place, and nothing else but the free value used. -/
theorem Device.allotMap_eq (d : Device) (p h epoch : Nat) (t : Table) (ht : d.table p h = some t)
    (hp : ((d.places p (d.homeDie p) true ((32 * t.unitCount + 4095) / 4096 * 4096) 4096 []).map Prod.snd).foldl (· + ·) 0 ≠ 0) :
    ∃ o : Nat, d.allotMap p h epoch =
      (d.freeValue.2.setTable p h (some { t with maps := SMap.set (fun _ => 0) t.maps epoch o }), true) := by
  have ha := Device.allot_isSome _ _ _ _ _ _ _ hp
  have hd : (d.allot p (d.homeDie p) true ((32 * t.unitCount + 4095) / 4096 * 4096) 4096).1 = d.freeValue.2 := by
    unfold Device.places at hp
    unfold Device.allot
    simp only [hp, if_false]
  unfold Device.allotMap
  rw [ht]
  simp only
  split
  · next e => rw [e] at ha; cases ha
  · next d' o e => rw [e] at hd; exact ⟨o, by rw [← hd]⟩

@[simp] theorem Device.setTable_partDies (d : Device) (p h q : Nat) (t : Option Table) : (d.setTable p h t).partDies q = d.partDies q := rfl
@[simp] theorem Device.setTable_fld (d : Device) (p h : Nat) (t : Option Table) (r : Reg) (f : RegField) :
    (d.setTable p h t).fld r f = d.fld r f := rfl
@[simp] theorem Device.freeValue_partDies (d : Device) (q : Nat) : d.freeValue.2.partDies q = d.partDies q := rfl
@[simp] theorem Device.freeValue_fld (d : Device) (r : Reg) (f : RegField) : d.freeValue.2.fld r f = d.fld r f := rfl

/-- R266: logs that are long enough on every die of the partition stay. -/
theorem Device.growLogs_fits (d : Device) (p : Nat)
    (h : ∀ die ∈ d.partDies p, d.logSize p ≤ d.fld (.gthPartLog die p) Fd.gthPartLogSize) : d.growLogs p = (d, true) := by
  unfold Device.growLogs
  generalize hl : d.partDies p = l at h
  clear hl
  induction l with
  | nil => rfl
  | cons x l ih =>
    rw [List.foldl_cons, if_pos (h x (List.mem_cons_self ..))]
    exact ih fun y hy => h y (List.mem_cons_of_mem _ hy)

/-- R314: an entry of one piece is taken where the segment may hold it and the pool it goes to has a place. -/
theorem Device.pushEntry_one (d : Device) (p i die off op idx step : Nat)
    (hs : ¬ (d.pieceCap die p - ((d.part p).covered die + d.promised p die) <
      ((d.part p).seg i).held die + 1 - max (if bitOf ((d.part p).seg i).dies die then ((d.part p).seg i).reserve else 0) (((d.part p).seg i).held die)))
    (hp : ((d.places p die (decide (d.nearCap die p ≤ ((d.part p).piecesOn die false).length)) 65536 65536 []).map Prod.snd).foldl
      (· + ·) 0 ≠ 0) :
    (d.pushEntry p i die off 1 op idx step).2 = true := by
  have ha := Device.allot_isSome _ _ _ _ _ _ _ hp
  unfold Device.pushEntry
  simp only [hs, if_false, Device.takePieces, List.filter_nil, List.append_nil, List.map_nil]
  split
  · next e =>
    split at e
    · next e' => rw [e'] at ha; cases ha
    · cases e
  · rfl

end Sys2Proof.Machine
end

