-- ==== Sys2Proof/WellFormed.lean ====
section
/-! DEFINITION. Which commands are well formed: every operand within the range the spec gives it. -/

namespace Sys2Proof

/-- The operands of a command lie within their ranges. -/
def Instr.wf : Instr → Bool
  | .powerOn => true
  | .perstRelease => true
  | .perstAssert => true
  | .snowdrop good _ => decide (good < 2 ^ 15)
  | .primrose => true
  | .celandine _ _ => true
  | .cowslip grades => decide (grades < 2 ^ 32) && (List.range 16).all fun k => decide (grades / 4 ^ k % 4 < 3)
  | .memInterfaceTrained i => decide (i < 32)
  | .portLanesLocked n mask => decide (n < 28 ∧ mask < 512)
  | .laneLockTimeout n => decide (n < 28)
  | .campion _ _ => true
  | .qualificationWindowEnd n _ lanes => decide (n < 28 ∧ lanes.length = 9)
  | .qualificationRetrainEnd n => decide (n < 28)
  | .yarrow => true
  | .teasel _ _ _ => true
  | .stageTimeout => true
  | .bootHoldRelease _ => true
  | .bootPushGo _ => true
  | .bootPushComplete _ _ => true
  | .imageFlashWrite => true
  | .imageFlashWriteComplete => true
  | .bootPolicyWrite _ => true
  | .configRequest fn _ => decide (fn ≤ 8)
  | .pcieLinkTrained _ _ _ => true
  | .bar4Read fn _ _ _ => decide (fn ≤ 8)
  | .bar4Write fn _ _ _ => decide (fn ≤ 8)
  | .registerWrite fn off _ _ => decide (fn ≤ 8 ∧ off % 8 = 0 ∧ off < 2 ^ 26)
  | .ownerWrite p owner => decide (p < 8 ∧ owner < 2)
  | .producerPoll p line _ => decide (p < 8 ∧ line < 8)
  | .descriptorFetch p q _ _ => decide (p < 8 ∧ q < 64)
  | .ringIdleTimeout p q => decide (p < 8 ∧ q < 64)
  | .sleepCheckComplete p q _ => decide (p < 8 ∧ q < 64)
  | .wakeDoorbell fn _ _ => decide (fn ≤ 8)
  | .sqEnable fn p q _ _ => decide (fn ≤ 8 ∧ p < 8 ∧ q < 64)
  | .sqDisable fn p q _ => decide (fn ≤ 8 ∧ p < 8 ∧ q < 64)
  | .cqEnable fn p c _ => decide (fn ≤ 8 ∧ p < 8 ∧ c < 64)
  | .cqDisable fn p c _ => decide (fn ≤ 8 ∧ p < 8 ∧ c < 64)
  | .errRingEnable fn k _ _ => decide (fn ≤ 8 ∧ k ≤ 8)
  | .headWordRead p c _ => decide (p < 8 ∧ c < 64)
  | .cqFullTimeout p c => decide (p < 8 ∧ c < 64)
  | .coalesceTimeout p c => decide (p < 8 ∧ c < 64)
  | .heartbeat p => decide (p < 8)
  | .partitionResetRequest p => decide (p < 8)
  | .vfFlr n => decide (1 ≤ n ∧ n ≤ 8)
  | .pfReset => true
  | .nop p q idx => decide (p < 8 ∧ q < 64 ∧ idx < 2 ^ 32)
  | .sync p q idx => decide (p < 8 ∧ q < 64 ∧ idx < 2 ^ 32)
  | .hostSignal p q idx => decide (p < 8 ∧ q < 64 ∧ idx < 2 ^ 32)
  | .progLoad p q idx _ => decide (p < 8 ∧ q < 64 ∧ idx < 2 ^ 32)
  | .progStart p q idx => decide (p < 8 ∧ q < 64 ∧ idx < 2 ^ 32)
  | .progStop p q idx => decide (p < 8 ∧ q < 64 ∧ idx < 2 ^ 32)
  | .copy p q idx _ => decide (p < 8 ∧ q < 64 ∧ idx < 2 ^ 32)
  | .fill p q idx _ => decide (p < 8 ∧ q < 64 ∧ idx < 2 ^ 32)
  | .compress p q idx _ => decide (p < 8 ∧ q < 64 ∧ idx < 2 ^ 32)
  | .expand p q idx _ => decide (p < 8 ∧ q < 64 ∧ idx < 2 ^ 32)
  | .arm p q idx _ => decide (p < 8 ∧ q < 64 ∧ idx < 2 ^ 32)
  | .rearm p q idx => decide (p < 8 ∧ q < 64 ∧ idx < 2 ^ 32)
  | .release p q idx => decide (p < 8 ∧ q < 64 ∧ idx < 2 ^ 32)
  | .sample p q idx _ => decide (p < 8 ∧ q < 64 ∧ idx < 2 ^ 32)
  | .traceReservationGrant p q idx _ => decide (p < 8 ∧ q < 64 ∧ idx < 2 ^ 32)
  | .gather p q idx _ => decide (p < 8 ∧ q < 64 ∧ idx < 2 ^ 32)
  | .gatherDelivery p q idx => decide (p < 8 ∧ q < 64 ∧ idx < 2 ^ 32)
  | .rowArrive p q idx _ _ => decide (p < 8 ∧ q < 64 ∧ idx < 2 ^ 32)
  | .scatter p q idx _ => decide (p < 8 ∧ q < 64 ∧ idx < 2 ^ 32)
  | .contribLogWaitTimeout p q idx => decide (p < 8 ∧ q < 64 ∧ idx < 2 ^ 32)
  | .merge p q idx _ => decide (p < 8 ∧ q < 64 ∧ idx < 2 ^ 32)
  | .mergePairDelivery p q idx _ => decide (p < 8 ∧ q < 64 ∧ idx < 2 ^ 32)
  | .predictBind p q idx => decide (p < 8 ∧ q < 64 ∧ idx < 2 ^ 32)
  | .predictReport p q idx _ => decide (p < 8 ∧ q < 64 ∧ idx < 2 ^ 32)
  | .predictUnbind p q idx => decide (p < 8 ∧ q < 64 ∧ idx < 2 ^ 32)
  | .stepOpen p q idx _ => decide (p < 8 ∧ q < 64 ∧ idx < 2 ^ 32)
  | .stepClose p q idx _ => decide (p < 8 ∧ q < 64 ∧ idx < 2 ^ 32)
  | .stepExchangeComplete p q idx _ _ => decide (p < 8 ∧ q < 64 ∧ idx < 2 ^ 32)
  | .stepExchangeTimeout p q idx _ => decide (p < 8 ∧ q < 64 ∧ idx < 2 ^ 32)
  | .cisternSetup p q idx => decide (p < 8 ∧ q < 64 ∧ idx < 2 ^ 32)
  | .cisternOpen p q idx => decide (p < 8 ∧ q < 64 ∧ idx < 2 ^ 32)
  | .cisternPush p q idx => decide (p < 8 ∧ q < 64 ∧ idx < 2 ^ 32)
  | .cisternPop p q idx => decide (p < 8 ∧ q < 64 ∧ idx < 2 ^ 32)
  | .cisternClose p q idx => decide (p < 8 ∧ q < 64 ∧ idx < 2 ^ 32)
  | .evalSlotOpen p q idx => decide (p < 8 ∧ q < 64 ∧ idx < 2 ^ 32)
  | .evalSlotClose p q idx => decide (p < 8 ∧ q < 64 ∧ idx < 2 ^ 32)
  | .updateBind p q idx _ => decide (p < 8 ∧ q < 64 ∧ idx < 2 ^ 32)
  | .updateUnbind p q idx => decide (p < 8 ∧ q < 64 ∧ idx < 2 ^ 32)
  | .updateSchedule p q idx _ => decide (p < 8 ∧ q < 64 ∧ idx < 2 ^ 32)
  | .checkpoint p q idx _ => decide (p < 8 ∧ q < 64 ∧ idx < 2 ^ 32)
  | .tableBind p q idx _ => decide (p < 8 ∧ q < 64 ∧ idx < 2 ^ 32)
  | .tableUnbind p q idx => decide (p < 8 ∧ q < 64 ∧ idx < 2 ^ 32)
  | .epochPublish p q idx _ => decide (p < 8 ∧ q < 64 ∧ idx < 2 ^ 32)
  | .ctxSave p q idx => decide (p < 8 ∧ q < 64 ∧ idx < 2 ^ 32)
  | .ctxRestore p q idx _ _ => decide (p < 8 ∧ q < 64 ∧ idx < 2 ^ 32)
  | .collForm p q idx _ => decide (p < 8 ∧ q < 64 ∧ idx < 2 ^ 32)
  | .collDisband p q idx => decide (p < 8 ∧ q < 64 ∧ idx < 2 ^ 32)
  | .allreduce p q idx _ => decide (p < 8 ∧ q < 64 ∧ idx < 2 ^ 32)
  | .broadcast p q idx _ => decide (p < 8 ∧ q < 64 ∧ idx < 2 ^ 32)
  | .allgather p q idx _ => decide (p < 8 ∧ q < 64 ∧ idx < 2 ^ 32)
  | .put p q idx _ => decide (p < 8 ∧ q < 64 ∧ idx < 2 ^ 32)
  | .commandStart p q => decide (p < 8 ∧ q < 64)
  | .commandTimeout p q => decide (p < 8 ∧ q < 64)
  | .commandComplete p q idx => decide (p < 8 ∧ q < 64 ∧ idx < 2 ^ 32)
  | .commandRetire p q => decide (p < 8 ∧ q < 64)
  | .leaseLapse c => decide (c < 256)
  | .programWriteLand c => decide (c < 256)
  | .cmdPmemData _ => true
  | .wait c => decide (c < 256)
  | .signal c => decide (c < 256)
  | .loop c => decide (c < 256)
  | .branch c => decide (c < 256)
  | .set c => decide (c < 256)
  | .add c => decide (c < 256)
  | .halt c => decide (c < 256)
  | .pollingWaiterRetest n => decide (n < 131072)
  | .coreWaitTimeout c => decide (c < 256)
  | .readyGrant die k => decide (die < 4 ∧ k < 9)
  | .readyAge die p q idx => decide (die < 4 ∧ p < 8 ∧ q < 64 ∧ idx < 2 ^ 32)
  | .flowOpen p f _ => decide (p < 8 ∧ f < 1024)
  | .flowClose p f _ => decide (p < 8 ∧ f < 1024)
  | .flowStall p f => decide (p < 8 ∧ f < 1024)
  | .synDbgSel _ => true
  | .mma c => decide (c < 256)
  | .drain c => decide (c < 256)
  | .drainCreditGrant c => decide (c < 256)
  | .slotClear c => decide (c < 256)
  | .arraySync c => decide (c < 256)
  | .mxaClearCounts c => decide (c < 256)
  | .vload c => decide (c < 256)
  | .vstore c => decide (c < 256)
  | .vop c => decide (c < 256)
  | .vmask c => decide (c < 256)
  | .vchainLoad c => decide (c < 256)
  | .vchain c => decide (c < 256)
  | .vsync c => decide (c < 256)
  | .vgen c => decide (c < 256)
  | .vreduce c => decide (c < 256)
  | .vmovs c => decide (c < 256)
  | .vecClearCounts c => decide (c < 256)
  | .swait c => decide (c < 256)
  | .sfree c => decide (c < 256)
  | .copyIn c _ => decide (c < 256)
  | .copyOut c _ => decide (c < 256)
  | .csync c => decide (c < 256)
  | .streamWaitTimeout c => decide (c < 256)
  | .streamTileArrive p n _ => decide (p < 8 ∧ n < 4096)
  | .watchReread p n granule _ => decide (p < 8 ∧ n < 4096 ∧ granule < 8)
  | .pageFillComplete p handle _ => decide (p < 8 ∧ handle < 2 ^ 32)
  | .faultResumeRetry p handle _ => decide (p < 8 ∧ handle < 2 ^ 32)
  | .faultResumeAbandon p handle => decide (p < 8 ∧ handle < 2 ^ 32)
  | .parkTimeout p handle => decide (p < 8 ∧ handle < 2 ^ 32)
  | .tlbInval _ => true
  | .tlbInvalComplete => true
  | .tagFree die => decide (die < 4)
  | .lpddr6Recalibrate => true
  | .sramScrub _ => true
  | .smpClearCounts die => decide (die < 4)
  | .gthClearCounts die => decide (die < 4)
  | .sprClearCounts die => decide (die < 4)
  | .cisClearCounts die => decide (die < 4)
  | .updClearCounts die => decide (die < 4)
  | .lnkClearCounts => true
  | .domainEnableRequest n => decide (n < 403)
  | .domainDisableRequest n => decide (n < 403)
  | .powerUpComplete n => decide (n < 403)
  | .domainDrainComplete n => decide (n < 403)
  | .retentionSaveComplete n => decide (n < 403)
  | .isolationComplete n => decide (n < 403)
  | .railDownComplete n => decide (n < 403)
  | .pwrDomCtrlWrite n _ => decide (n < 403)
  | .lendEntry c => decide (c < 256)
  | .lendExit c => decide (c < 256)
  | .railGrant c v => decide ((c < 256 ∧ 60 ≤ v ∧ v ≤ 95) ∨ (256 ≤ c ∧ c < 260 ∧ 80 ≤ v ∧ v ≤ 95))
  | .railSlewComplete c => decide (c < 256)
  | .powerEstimate n _ => decide (n < 403)
  | .railMeasure powers => decide (powers.length = 15)
  | .emergencyHoldEnd => true
  | .railSlowPoll answered => decide (answered.length = 15)
  | .railAlert stage status => decide (stage < 15 ∧ status.length = 15)
  | .thermalLimit die _ _ => decide (die < 4)
  | .thermalStep die _ => decide (die < 4)
  | .thermalCrit die _ _ => decide (die < 4)
  | .thermtripAnalog => true
  | .fabricStall n _ => decide (n < 403)
  | .ref25Loss => true
  | .controlFlitSend n => decide (n < 28)
  | .controlFlitReceive n flit => decide (n < 28 ∧ flit.bytes.length = 256)
  | .dataFlitReceive n flit _ _ => decide (n < 28 ∧ flit.length = 256)
  | .controlSilenceTimeout n => decide (n < 28)
  | .portRetrain n trigger _ => decide (n < 28 ∧ 1 ≤ trigger ∧ trigger ≤ 3)
  | .retrainCheckWindowEnd n _ => decide (n < 28)
  | .retrainTimeout n => decide (n < 28)
  | .portRetrainNow n => decide (n < 28)
  | .portRestart n => decide (n < 28)
  | .read => true
  | .write => true
  | .contrib _ => true
  | .signalPacket => true
  | .coll p g _ _ _ _ => decide (p < 8 ∧ g < 64)
  | .readResp => true
  | .ack => true
  | .param n _ _ level _ _ _ => decide (n < 28 ∧ level < 2 ^ 16)
  | .qual n _ lanes => decide (n < 28 ∧ lanes.length = 9)
  | .seqQuery n => decide (n < 28)
  | .seqReply n _ => decide (n < 28)
  | .feature => true
  | .time => true
  | .group _ => true
  | .final p _ _ => decide (p < 8)
  | .misroutedPacket => true
  | .retryResend tag _ => decide (tag.die < 4)
  | .landTimeout die _ _ _ => decide (die < 4)
  | .remoteTimeout die _ => decide (die < 4)
  | .heldTimeout die _ => decide (die < 4)
  | .collFormTimeout p q idx => decide (p < 8 ∧ q < 64 ∧ idx < 2 ^ 32)
  | .directoryFill p idx _ _ _ => decide (p < 8 ∧ idx < 2 ^ 32)
  | .moveCopyComplete p _ _ _ _ => decide (p < 8)
  | .timeExchange _ => true
  | .timeHoldover => true
  | .featureEnableGo level => decide (level < 2 ^ 16)
  | .ctxSaveRequest p _ => decide (p < 8)
  | .ctxRestoreRequest p _ _ _ => decide (p < 8)
  | .ctxDiscard p _ => decide (p < 8)
  | .switchPointReached p _ => decide (p < 8)
  | .saveAreaWritten p _ => decide (p < 8)
  | .saveWaitTimeout p => decide (p < 8)
  | .restoreComplete p _ _ => decide (p < 8)
  | .coreReset c => decide (c < 256)
  | .clusterReset c => decide (c < 32)
  | .partitionReset p => decide (p < 8)
  | .computeReset => true
  | .deviceReset => true
  | .resetDrainEnd scope _ => decide (1 ≤ scope ∧ scope ≤ 4)
  | .controlFault die core => decide (die < 4 ∧ core < 4)
  | .controlRestart => true
  | .controlRestartComplete => true
  | .stormWindowEnd ring code => decide (ring ≤ 8 ∧ code < 2 ^ 16)
  | .tstSettingsWrite off _ => decide (off % 8 = 0 ∧ off < 2 ^ 26)
  | .tokenSubmit _ _ => true
  | .relock => true
  | .getVersion => true
  | .getCapabilities => true
  | .negotiateAlgorithms _ => true
  | .getDigests => true
  | .getCertificate _ _ => true
  | .challenge _ => true
  | .getMeasurements _ => true
  | .i3cDynamicAddress _ addr => decide (addr < 128)
  | .mctpSetEndpointId ids => decide (ids.eid < 256)
  | .pldmDiscovery => true
  | .pldmGetFru => true
  | .getSensorReading n => decide (1 ≤ n ∧ n ≤ 12)
  | .pollForPlatformEvent => true
  | .sensorRefresh n _ => decide (1 ≤ n ∧ n ≤ 12)
  | .requestUpdate component => decide ((component = 1 ∨ component = 2))
  | .verifyComplete _ => true
  | .applyComplete => true
  | .activateFirmware => true
  | .debugRead64 off => decide (off % 8 = 0 ∧ off < 2 ^ 26)
  | .debugWrite64 off _ _ => decide (off % 8 = 0 ∧ off < 2 ^ 26)
  | .powerOff => true
  | .lendEntryComplete c => decide (c < 256)
  | .pcieCompletionTimeout p q _ => decide (p < 8 ∧ q < 64)
  | .ptmExchange _ => true
  | .firmwareImageTransfer _ _ => true
  | .tableBindTimeout p q idx => decide (p < 8 ∧ q < 64 ∧ idx < 2 ^ 32)
  | .illegalWord c => decide (c < 256)

end Sys2Proof
end

