-- ==== Sys2Proof/Tests/Slice0.lean ====
section
/-! SUPPORT. Tests. WellFormed refuses an ill-formed term for each of its checks; steps and named operations give the numbers of
the spec's worked examples; and one theorem for each statement that has hypotheses shows states and operands that meet all
hypotheses of each of its clauses together. Where a hypothesis names the result of an operation, the operation is written in its
place; an answer that is not an error, whatever it brings, is written through toOption, an error through witErr. -/

open Sys2Proof Sys2Proof.Machine

set_option maxRecDepth 10000
set_option Elab.async false

/-! ### Well-formed commands: each check passes a command and refuses one -/

theorem test_wf_1 : ([
    ((Instr.snowdrop 0 true).wf && !(Instr.snowdrop (2 ^ 15) true).wf),
    ((Instr.cowslip 2).wf && !(Instr.cowslip (2 ^ 32)).wf && !(Instr.cowslip 3).wf && !(Instr.cowslip (3 * 4 ^ 15)).wf),
    ((Instr.memInterfaceTrained 0).wf && !(Instr.memInterfaceTrained 32).wf),
    ((Instr.portLanesLocked 0 0).wf && !(Instr.portLanesLocked 28 0).wf && !(Instr.portLanesLocked 0 512).wf),
    (([.laneLockTimeout, .qualificationRetrainEnd, .controlFlitSend, .controlSilenceTimeout, .retrainTimeout, .portRetrainNow,
      .portRestart, .seqQuery] : List (Nat → Instr)).all fun f => (f 0).wf && !(f 28).wf),
    (([.qualificationWindowEnd, .qual] : List (Nat → Nat → List Nat → Instr)).all fun f => (f 0 0 (List.replicate 9 0)).wf && !(f 28 0
      (List.replicate 9 0)).wf && !(f 0 0 (List.replicate 8 0)).wf),
    ((Instr.configRequest 0 .read).wf && !(Instr.configRequest 9 .read).wf),
    ((Instr.bar4Read 0 0 0 {}).wf && !(Instr.bar4Read 9 0 0 {}).wf)] : List Bool).all id = true := by decide +kernel

theorem test_wf_2 : ([
    ((Instr.bar4Write 0 0 [] {}).wf && !(Instr.bar4Write 9 0 [] {}).wf),
    ((Instr.registerWrite 0 8 0 {}).wf && !(Instr.registerWrite 9 8 0 {}).wf && !(Instr.registerWrite 0 4 0 {}).wf &&
      !(Instr.registerWrite 0 (2 ^ 26) 0 {}).wf),
    ((Instr.ownerWrite 0 0).wf && !(Instr.ownerWrite 8 0).wf && !(Instr.ownerWrite 0 2).wf),
    ((Instr.producerPoll 0 0 []).wf && !(Instr.producerPoll 8 0 []).wf && !(Instr.producerPoll 0 8 []).wf),
    ((Instr.descriptorFetch 0 0 0 []).wf && !(Instr.descriptorFetch 8 0 0 []).wf && !(Instr.descriptorFetch 0 64 0 []).wf),
    (([.ringIdleTimeout, .commandStart, .commandTimeout, .commandRetire] : List (Nat → Nat → Instr)).all fun f => (f 0 0).wf && !(f 8
      0).wf && !(f 0 64).wf),
    ((Instr.sleepCheckComplete 0 0 []).wf && !(Instr.sleepCheckComplete 8 0 []).wf && !(Instr.sleepCheckComplete 0 64 []).wf)] : List Bool).all id = true := by decide +kernel

theorem test_wf_3 : ([
    ((Instr.wakeDoorbell 0 0 []).wf && !(Instr.wakeDoorbell 9 0 []).wf),
    ((Instr.sqEnable 0 0 0 0 []).wf && !(Instr.sqEnable 9 0 0 0 []).wf && !(Instr.sqEnable 0 8 0 0 []).wf && !(Instr.sqEnable 0 0 64 0
      []).wf),
    ((Instr.sqDisable 0 0 0 0).wf && !(Instr.sqDisable 9 0 0 0).wf && !(Instr.sqDisable 0 8 0 0).wf && !(Instr.sqDisable 0 0 64 0).wf),
    (([.cqEnable, .cqDisable] : List (Nat → Nat → Nat → Word → Instr)).all fun f => (f 0 0 0 0).wf && !(f 9 0 0 0).wf && !(f 0 8 0 0).wf
      && !(f 0 0 64 0).wf),
    ((Instr.errRingEnable 0 0 0 []).wf && !(Instr.errRingEnable 9 0 0 []).wf && !(Instr.errRingEnable 0 9 0 []).wf),
    ((Instr.headWordRead 0 0 []).wf && !(Instr.headWordRead 8 0 []).wf && !(Instr.headWordRead 0 64 []).wf),
    (([.cqFullTimeout, .coalesceTimeout] : List (Nat → Nat → Instr)).all fun f => (f 0 0).wf && !(f 8 0).wf && !(f 0 64).wf)] : List Bool).all id = true := by decide +kernel

theorem test_wf_4 : ([
    (([.heartbeat, .partitionResetRequest, .saveWaitTimeout, .partitionReset] : List (Nat → Instr)).all fun f => (f 0).wf && !(f 8).wf),
    ((Instr.vfFlr 1).wf && !(Instr.vfFlr 0).wf && !(Instr.vfFlr 9).wf),
    (([.nop, .sync, .hostSignal, .progStart, .progStop, .rearm, .release, .gatherDelivery, .contribLogWaitTimeout, .predictBind,
      .predictUnbind, .cisternSetup, .cisternOpen, .cisternPush, .cisternPop, .cisternClose, .evalSlotOpen, .evalSlotClose, .updateUnbind,
      .tableUnbind, .ctxSave, .collDisband, .commandComplete, .collFormTimeout, .tableBindTimeout] : List (Nat → Nat → Nat → Instr)).all
      fun f => (f 0 0 0).wf && !(f 8 0 0).wf && !(f 0 64 0).wf && !(f 0 0 (2 ^ 32)).wf),
    (([.progLoad, .copy, .fill, .compress, .expand, .arm, .sample, .traceReservationGrant, .gather, .scatter, .merge, .mergePairDelivery,
      .predictReport, .stepOpen, .stepClose, .stepExchangeTimeout, .updateBind, .updateSchedule, .checkpoint, .tableBind, .epochPublish,
      .collForm, .allreduce, .broadcast, .allgather, .put] : List (Nat → Nat → Nat → MemIo → Instr)).all fun f => (f 0 0 0 {}).wf && !(f 8
      0 0 {}).wf && !(f 0 64 0 {}).wf && !(f 0 0 (2 ^ 32) {}).wf),
    ((Instr.rowArrive 0 0 0 0 {}).wf && !(Instr.rowArrive 8 0 0 0 {}).wf && !(Instr.rowArrive 0 64 0 0 {}).wf && !(Instr.rowArrive 0 0 (2
      ^ 32) 0 {}).wf),
    ((Instr.stepExchangeComplete 0 0 0 [] {}).wf && !(Instr.stepExchangeComplete 8 0 0 [] {}).wf && !(Instr.stepExchangeComplete 0 64 0 []
      {}).wf && !(Instr.stepExchangeComplete 0 0 (2 ^ 32) [] {}).wf),
    ((Instr.ctxRestore 0 0 0 {} []).wf && !(Instr.ctxRestore 8 0 0 {} []).wf && !(Instr.ctxRestore 0 64 0 {} []).wf &&
      !(Instr.ctxRestore 0 0 (2 ^ 32) {} []).wf)] : List Bool).all id = true := by decide +kernel

theorem test_wf_5 : ([
    (([.leaseLapse, .programWriteLand, .wait, .signal, .loop, .branch, .set, .add, .halt, .coreWaitTimeout, .mma, .drain,
      .drainCreditGrant, .slotClear, .arraySync, .mxaClearCounts, .vload, .vstore, .vop, .vmask, .vchainLoad, .vchain, .vsync, .vgen,
      .vreduce, .vmovs, .vecClearCounts, .swait, .sfree, .csync, .streamWaitTimeout, .lendEntry, .lendExit, .railSlewComplete, .coreReset,
      .lendEntryComplete, .illegalWord] : List (Nat → Instr)).all fun f => (f 0).wf && !(f 256).wf),
    ((Instr.pollingWaiterRetest 0).wf && !(Instr.pollingWaiterRetest 131072).wf),
    ((Instr.readyGrant 0 0).wf && !(Instr.readyGrant 4 0).wf && !(Instr.readyGrant 0 9).wf),
    ((Instr.readyAge 0 0 0 0).wf && !(Instr.readyAge 4 0 0 0).wf && !(Instr.readyAge 0 8 0 0).wf && !(Instr.readyAge 0 0 64 0).wf &&
      !(Instr.readyAge 0 0 0 (2 ^ 32)).wf),
    (([.flowOpen, .flowClose] : List (Nat → Nat → Word → Instr)).all fun f => (f 0 0 0).wf && !(f 8 0 0).wf && !(f 0 1024 0).wf),
    ((Instr.flowStall 0 0).wf && !(Instr.flowStall 8 0).wf && !(Instr.flowStall 0 1024).wf),
    (([.copyIn, .copyOut] : List (Nat → MemIo → Instr)).all fun f => (f 0 {}).wf && !(f 256 {}).wf)] : List Bool).all id = true := by decide +kernel

theorem test_wf_6 : ([
    ((Instr.streamTileArrive 0 0 {}).wf && !(Instr.streamTileArrive 8 0 {}).wf && !(Instr.streamTileArrive 0 4096 {}).wf),
    ((Instr.watchReread 0 0 0 {}).wf && !(Instr.watchReread 8 0 0 {}).wf && !(Instr.watchReread 0 4096 0 {}).wf && !(Instr.watchReread 0 0
      8 {}).wf),
    (([.pageFillComplete, .faultResumeRetry] : List (Nat → Nat → MemIo → Instr)).all fun f => (f 0 0 {}).wf && !(f 8 0 {}).wf && !(f 0 (2
      ^ 32) {}).wf),
    (([.faultResumeAbandon, .parkTimeout] : List (Nat → Nat → Instr)).all fun f => (f 0 0).wf && !(f 8 0).wf && !(f 0 (2 ^ 32)).wf),
    (([.tagFree, .smpClearCounts, .gthClearCounts, .sprClearCounts, .cisClearCounts, .updClearCounts] : List (Nat → Instr)).all fun f =>
      (f 0).wf && !(f 4).wf),
    (([.domainEnableRequest, .domainDisableRequest, .powerUpComplete, .domainDrainComplete, .retentionSaveComplete, .isolationComplete,
      .railDownComplete] : List (Nat → Instr)).all fun f => (f 0).wf && !(f 403).wf),
    ((Instr.pwrDomCtrlWrite 0 0).wf && !(Instr.pwrDomCtrlWrite 403 0).wf)] : List Bool).all id = true := by decide +kernel

theorem test_wf_7 : ([
    ((Instr.railGrant 0 60).wf && (Instr.railGrant 259 80).wf && !(Instr.railGrant 260 80).wf && !(Instr.railGrant 256 60).wf && !(Instr.railGrant 0 59).wf && !(Instr.railGrant 0 96).wf),
    ((Instr.powerEstimate 0 0).wf && !(Instr.powerEstimate 403 0).wf),
    ((Instr.railMeasure (List.replicate 15 none)).wf && !(Instr.railMeasure (List.replicate 14 none)).wf),
    ((Instr.railSlowPoll (List.replicate 15 true)).wf && !(Instr.railSlowPoll (List.replicate 14 true)).wf),
    ((Instr.railAlert 0 (List.replicate 15 none)).wf && !(Instr.railAlert 15 (List.replicate 15 none)).wf && !(Instr.railAlert 0
      (List.replicate 14 none)).wf),
    (([.thermalLimit, .thermalCrit] : List (Nat → Nat → Nat → Instr)).all fun f => (f 0 0 0).wf && !(f 4 0 0).wf),
    ((Instr.thermalStep 0 0).wf && !(Instr.thermalStep 4 0).wf)] : List Bool).all id = true := by decide +kernel

theorem test_wf_8 : ([
    ((Instr.fabricStall 0 0).wf && !(Instr.fabricStall 403 0).wf),
    ((Instr.controlFlitReceive 0 ⟨List.replicate 256 0, none⟩).wf && !(Instr.controlFlitReceive 28 ⟨List.replicate 256 0, none⟩).wf &&
      !(Instr.controlFlitReceive 0 ⟨List.replicate 255 0, none⟩).wf),
    ((Instr.dataFlitReceive 0 (List.replicate 256 0) true 0).wf && !(Instr.dataFlitReceive 28 (List.replicate 256 0) true 0).wf &&
      !(Instr.dataFlitReceive 0 (List.replicate 255 0) true 0).wf),
    ((Instr.portRetrain 0 1 0).wf && !(Instr.portRetrain 28 1 0).wf && !(Instr.portRetrain 0 0 0).wf && !(Instr.portRetrain 0 4 0).wf),
    ((Instr.retrainCheckWindowEnd 0 0).wf && !(Instr.retrainCheckWindowEnd 28 0).wf),
    ((Instr.coll 0 0 0 0 0 0).wf && !(Instr.coll 8 0 0 0 0 0).wf && !(Instr.coll 0 64 0 0 0 0).wf),
    ((Instr.param 0 0 ⟨0, 0⟩ 0 0 [] 0).wf && !(Instr.param 28 0 ⟨0, 0⟩ 0 0 [] 0).wf && !(Instr.param 0 0 ⟨0, 0⟩ (2 ^ 16) 0 [] 0).wf)] : List Bool).all id = true := by decide +kernel

theorem test_wf_9 : ([
    ((Instr.seqReply 0 0).wf && !(Instr.seqReply 28 0).wf),
    ((Instr.final 0 0 0).wf && !(Instr.final 8 0 0).wf),
    (([.remoteTimeout, .heldTimeout] : List (Nat → Nat → Instr)).all fun f => (f 0 0).wf && !(f 4 0).wf),
    ((Instr.retryResend ⟨0, 0⟩ {}).wf && !(Instr.retryResend ⟨4, 0⟩ {}).wf),
    ((Instr.landTimeout 0 0 0 0).wf && !(Instr.landTimeout 4 0 0 0).wf),
    ((Instr.directoryFill 0 0 0 0 0).wf && !(Instr.directoryFill 8 0 0 0 0).wf && !(Instr.directoryFill 0 (2 ^ 32) 0 0 0).wf),
    ((Instr.moveCopyComplete 0 0 0 0 {}).wf && !(Instr.moveCopyComplete 8 0 0 0 {}).wf),
    ((Instr.featureEnableGo 0).wf && !(Instr.featureEnableGo (2 ^ 16)).wf)] : List Bool).all id = true := by decide +kernel

theorem test_wf_10 : ([
    (([.ctxSaveRequest, .ctxDiscard] : List (Nat → Word → Instr)).all fun f => (f 0 0).wf && !(f 8 0).wf),
    ((Instr.ctxRestoreRequest 0 0 {} []).wf && !(Instr.ctxRestoreRequest 8 0 {} []).wf),
    (([.switchPointReached, .saveAreaWritten] : List (Nat → MemIo → Instr)).all fun f => (f 0 {}).wf && !(f 8 {}).wf),
    ((Instr.restoreComplete 0 {} []).wf && !(Instr.restoreComplete 8 {} []).wf),
    ((Instr.clusterReset 0).wf && !(Instr.clusterReset 32).wf),
    ((Instr.resetDrainEnd 1 0).wf && !(Instr.resetDrainEnd 0 0).wf && !(Instr.resetDrainEnd 5 0).wf),
    ((Instr.controlFault 0 0).wf && !(Instr.controlFault 4 0).wf && !(Instr.controlFault 0 4).wf)] : List Bool).all id = true := by decide +kernel

theorem test_wf_11 : ([
    ((Instr.stormWindowEnd 0 0).wf && !(Instr.stormWindowEnd 9 0).wf && !(Instr.stormWindowEnd 0 (2 ^ 16)).wf),
    ((Instr.tstSettingsWrite 8 0).wf && !(Instr.tstSettingsWrite 4 0).wf && !(Instr.tstSettingsWrite (2 ^ 26) 0).wf),
    ((Instr.i3cDynamicAddress none 0).wf && !(Instr.i3cDynamicAddress none 128).wf),
    ((Instr.mctpSetEndpointId ⟨0, 64⟩).wf && !(Instr.mctpSetEndpointId ⟨256, 64⟩).wf),
    ((Instr.getSensorReading 1).wf && !(Instr.getSensorReading 0).wf && !(Instr.getSensorReading 13).wf),
    ((Instr.sensorRefresh 1 0).wf && !(Instr.sensorRefresh 0 0).wf && !(Instr.sensorRefresh 13 0).wf),
    ((Instr.requestUpdate 1).wf && !(Instr.requestUpdate 3).wf)] : List Bool).all id = true := by decide +kernel

theorem test_wf_12 : ([
    ((Instr.debugRead64 8).wf && !(Instr.debugRead64 4).wf && !(Instr.debugRead64 (2 ^ 26)).wf),
    ((Instr.debugWrite64 8 0 {}).wf && !(Instr.debugWrite64 4 0 {}).wf && !(Instr.debugWrite64 (2 ^ 26) 0 {}).wf),
    ((Instr.pcieCompletionTimeout 0 0 none).wf && !(Instr.pcieCompletionTimeout 8 0 none).wf && !(Instr.pcieCompletionTimeout 0 64
      none).wf)] : List Bool).all id = true := by decide +kernel

/-! ### The spec's worked examples -/

/-- Chapter 1, under R18: the base of the VEC_ registers of logical core 147. -/
theorem test_vec_base : (Reg.vecStatus 147).offset = 0x03B26000 := by decide

/-- Chapter 2, under R46: a core draws about 8.8 W at 0.92 V and 9.7 W at 0.95 V, and beats at 2.6 G beats/s there. -/
theorem test_array_draw : arrayDraw 92 / 100 = 87 ∧ (arrayDraw 95 + 50) / 100 = 97 ∧ beatRate 95 = 2600 := by decide

/-- Chapter 7, under R149: four elements of a block of MXFP4 whose greatest magnitude is 0.375. -/
theorem test_mxfp4 :
    (quantBlock 7 (List.replicate 4 {}) [.fin false 3 (-3), .fin true 5 (-4), .fin false 7 (-6), .fin false 3 (-7)]).1 = 0x7B ∧
    (quantBlock 7 (List.replicate 4 {}) [.fin false 3 (-3), .fin true 5 (-4), .fin false 7 (-6), .fin false 3 (-7)]).2.map Prod.fst =
      [0x7, 0xE, 0x4, 0x1] := by decide +kernel

/-- Chapter 7, R158: the check value of the checksum. -/
theorem test_crc64 : crc64 ([0x31, 0x32, 0x33, 0x34, 0x35, 0x36, 0x37, 0x38, 0x39].map (BitVec.ofNat 8)) = 0x6C40DF5F0B497347 := by
  decide +kernel

/-- FIPS 180-4: the first bytes of SHA-512 of "abc" (R439). -/
theorem test_sha512 : (sha512 [0x61, 0x62, 0x63]).take 8 = [0xDD, 0xAF, 0x35, 0xA1, 0x93, 0x61, 0x7A, 0xBA] := by decide +kernel

/-- Chapter 8, under R171: a group sum of 129,032 at shift 8, and the combination of four parts, out of range at shift 0. -/
theorem test_int8_shift : shiftRne 8 129032 = 504 ∧ inAcc (4 * 1057030144) = false ∧
    combineInt (List.replicate 4 { i0 := 1057030144, i8 := 4128768 }) (·.i8) = 16515072 := by decide +kernel

/-- Chapter 9, under R194: MULSHR_SAT of a count of 1,000. -/
theorem test_mulshr : (mulShr 1000 1717 12).1 = 419 := by decide

/-- Chapter 11, under R243: three draws of a parent with 11 eligible edges of types 0 and 2. -/
theorem test_sample_draws : [0x20000000, 0xC0000000, 0xE0000000].map (fun w => edgeAt (w * 11 / 2 ^ 32) [(0, 100, 108), (2, 138, 141)]) =
    [some (0, 101), some (2, 138), some (2, 139)] := by decide

/-- Chapter 12, under R267: the sum of three contributions in key order, and in another order. -/
theorem test_keyed_sum : (addF32 (addF32 0x33800000 0x3F800000).1 0x33800000).1 = 0x3F800000 ∧
    (addF32 (addF32 0x33800000 0x33800000).1 0x3F800000).1 = 0x3F800001 := by decide +kernel

/-- A merge tile of bf16 with these block columns. -/
def testTile (cols : List Nat) : MergeTile := { fmt := 1, mask := (cols.map fun j => 2 ^ j).foldl (· + ·) 0 }

/-- Chapter 13, under R281: the 22 kept groups of an output tile. -/
theorem test_kept_groups :
    keptGroups ([List.range 8, [0, 2, 7], [], [1, 5], List.range 8, [], [4], []].map testTile) (List.replicate 8 (testTile (List.range 8))) =
      (List.range 8).map (0, ·) ++ [(1, 0), (1, 2), (1, 7), (3, 1), (3, 5)] ++ (List.range 8).map (4, ·) ++ [(6, 4)] := by decide +kernel

/-- Chapter 15, under R338: the factors of the example's cosine schedule. -/
theorem test_schedule : [999, 11000, 21000, 41000].map (fun u => factor0 { start := 0, warmup := 1000, period := 20000, peak := 0x3B800000, floor := 0x39800000, gamma := 0, beta1 := 0, beta2 := 0, shape := 2, mult := 2, decay := 0x3F000000 } u 0) =
    [0x3B800000, 0x3B080000, 0x3B000000, 0x3A900000] := by decide +kernel

/-- A word of an update program, laid out as R190 lays out a VOP. -/
def testVop (op kind b c vd va : Nat) : Word :=
  wordOf (0x42 * 2 ^ 56 + op * 2 ^ 49 + kind * 2 ^ 46 + b * 2 ^ 41 + c * 2 ^ 36 + vd * 2 ^ 23 + va * 2 ^ 18)

/-- The rule of chapter 15's example: its constants K0 to K4. -/
def testRule : Rule :=
  { handle := 0, words := [0, 0, 0, 0, 0x3E0000003F600000, 0x3F7E00003E000000, 0x3C000000] }

/-- The slots before its program: G = 0.25, P = 1.0, S0 = 0.5, F0 = 2^-8, GSI = 1.0. -/
def testSlots : UpdRun :=
  { slots := [[0x3E800000], [0x3F800000], [0x3F000000], [], [], [], [], [0x3B800000], [], [], [], [0x3F800000], [], [], [], []] ++
      List.replicate 16 [0]
    masks := [[true]] }

/-- Chapter 15, under R336: the words of the sign rule write P = 0.99560546875 and S0 = 0.498046875. -/
theorem test_sign_rule :
    let run := [testVop 4 1 11 0 16 0, testVop 4 2 0 0 17 2, testVop 5 2 1 17 17 16, testVop 0x30 0 0 0 17 17, testVop 5 2 2 17 17 1,
      testVop 4 1 7 0 17 17, testVop 2 1 17 0 1 1, testVop 4 2 3 0 2 2, testVop 5 2 4 2 2 16].foldl (fun r w => r.word testRule 1 w) testSlots
    run.slots.getD 1 [] = [0x3F7EE000] ∧ run.slots.getD 2 [] = [0x3EFF0000] := by decide +kernel

/-- A row of the table carries no bits, so no word spells a command. -/
theorem test_no_word (n w : Nat) : decodeTableWord n w = none := rfl

/-- A NOP of an idle module at reset changes nothing. -/
theorem test_step_at_reset : (match step { State.reset with pending := [.nop 0 0 0] } with
    | .next t => decide (t = State.reset)
    | _ => false) = true := by decide +kernel

/-- The module with its rails raised, before SEC_NONCE takes its values. -/
def testPowered : State := { State.reset with dev := { State.reset.dev with pins := { powered := true }, boot := { cold := true } } }

/-- R451: the rails raised at reset: PERST# is still asserted, and SEC_NONCE takes new values. -/
theorem test_power_on : exec .powerOn State.reset = .next { testPowered with dev := testPowered.dev.newNonce } := rfl

/-- R59: PERST# released, and the power good signals take the module to Primrose. -/
theorem test_first_stages : (match exec .perstRelease testPowered with
    | .next s => match exec (.snowdrop 0x7FFF true) s with
      | .next s => s.bringUp 2
      | _ => false
    | _ => false) = true := by decide +kernel

/-! ### Witnesses -/

/-- A module in service: partition 0 of clusters 0 and 1 is formed and ACTIVE with objects 0 to 1023, its cores are ON. -/
def witDev : Device :=
  let d : Device := { flash := resetFlash, pins := { powered := true, perst := false }, layout := [(0, 0), (1, 0)], tlb := [(0,
    [{ part := 0, base := 0, size := 21, leaf := 0x1F }, { part := 0, base := 0x200000, size := 21, leaf := 0x20000F }])] }
  let d := (d.setFld .bootStatus Fd.bootStatusState 1).setFld .bootStatus Fd.bootStatusStage 7
  let d := (d.setFld (.hifPartStatus 0) Fd.hifPartStatusFormed 1).setFld (.ctxPartStatus 0) Fd.ctxPartStatusState 1
  let d := (d.setFld (.synPartCfg 0) Fd.synPartCfgSyncBase 0).setFld (.synPartCfg 0) Fd.synPartCfgSyncCount 1
  let d := d.setFld (.memPartPtBase 0) Fd.memPartPtBaseEnable 1
  (List.range 16).foldl (fun (d : Device) c => d.setFld (.pwrDomStatus c) Fd.pwrDomStatusState 2) d

/-- The module with a device, and no command waiting. -/
def witOf (d : Device) : State := { dev := d, pending := [] }

/-- A command of an opcode, with its quadwords 1 to 7 and the lower part of quadword 0. -/
def witCmd (op : Nat) (qs : List Nat) (st : CmdState := .running) (low : Nat := 0) : Cmd :=
  let g := fun i => wordOf (qs.getD i 0)
  { idx := 0, st := st, desc := { q0 := wordOf (op * 2 ^ 56 + low), q1 := g 0, q2 := g 1, q3 := g 2, q4 := g 3, q5 := g 4, q6 := g 5, q7 := g 6 } }

/-- A device with a command on queue 0 of partition 0, all its engines granted. -/
def witPut (d : Device) (c : Cmd) : Device :=
  { d with
    queues := [(0, [c])]
    readyLists := (List.range 4).filterMap fun die =>
      if (d.engineNeeds 0 c.desc).any (·.1 == die) then
        some (die, ((d.engineNeeds 0 c.desc).filter (·.1 == die)).map fun n => ReadyEntry.mk 0 0 0 n.2 1 0 true)
      else none }

/-- The module in service with a command on queue 0 of partition 0, all its engines granted. -/
def witRun (c : Cmd) : State := witOf (witPut witDev c)

/-- The error of an answer that is one. -/
def witErr {a b : Type} : Except a b → Option a
  | .error e => some e
  | .ok _ => none

/-- An answer whose value is known. -/
theorem witOk {a b e : Type} (x : a × Except e b) (v : b) (h : x.2.toOption = some v) : x = (x.1, .ok v) := by
  obtain ⟨y, r⟩ := x
  cases r with
  | error z => cases h
  | ok z => injection h with h; subst h; rfl

/-- Where one command waits, on queue 0 of partition 0, every queue holds it alone or nothing. -/
theorem witQueue (d : Device) (c : Cmd) (h : d.queues = [(0, [c])]) (p q : Nat) (x : Cmd) (hx : x ∈ d.queue p q) : x = c := by
  unfold Device.queue SMap.at' at hx
  rw [h] at hx
  simp only [SMap.get] at hx
  split at hx
  · simpa using hx
  · simp at hx

/-- An image of the greatest major version stands above every floor of the boot ROM. -/
theorem witPush (i : Image) (h : imageMajor i = 65535)
    (h2 : i.sigOk = true ∧ i.digestOk = true ∧ i.stepping = 0xA1 ∧ i.length ≤ 2 ^ 26) : pushResult false i = 2 := by
  have h3 := Config.romFloor.isLt
  obtain ⟨a, b, c, e⟩ := h2
  have h4 : ¬ 2 ^ 26 < i.length := by omega
  have h5 : ¬ 65535 < Config.romFloor.toNat := by omega
  simp [pushResult, a, b, c, h, h5]
  omega

/-- What a map that lists one value for each key of a list reads there. -/
theorem witAt {a : Type} (z v : a) (l : List Nat) (k : Nat) (h : k ∈ l) : SMap.at' z (l.map fun i => (i, v)) k = v := by
  unfold SMap.at'
  induction l with
  | nil => simp at h
  | cons j l ih =>
    simp only [List.map_cons, SMap.get]
    split
    · rfl
    · rename_i hj
      exact ih ((List.mem_cons.mp h).resolve_left fun e => hj e.symm)

/-- Where every delivery flow of die 0 is in use, none is left. -/
theorem witFlows (d : Device) (die p q idx : Nat) (hd : die = 0)
    (h : d.outFlows = (List.range 4096).map fun i => (i, some (0, 0, 9))) : (d.takeFlow die p q idx).2 = none := by
  have hn : ((List.range 4096).find? fun f => (SMap.at' none d.outFlows (4096 * die + f)).isNone) = none := by
    rw [List.find?_eq_none]
    intro f hf
    rw [h, hd, Nat.mul_zero, Nat.zero_add, witAt none (some (0, 0, 9)) _ _ hf]
    simp
  unfold Device.takeFlow
  rw [hn]

/-! ### Chapter file 01 -/

theorem test_witness_EmptyQueueStepTicks : ((witOf witDev).pending = [] ∧ (witOf witDev).dev.awake = true ∧
    (witOf witDev).dev.enable = none) ∧ (State.reset.pending = [] ∧ State.reset.dev.awake = false) := by
  and_intros <;> decide +kernel

theorem test_witness_UnpoweredModuleStays : State.reset.unpowered := by
  unfold State.unpowered
  decide

theorem test_witness_PowerOffHoldsNothing :
    (∀ c ∈ ({ witOf witDev with pending := [.nop 0 0 0] } : State).pending, c ≠ .powerOn) ∧
    ∃ t : State, exec .powerOn State.reset = .next t := ⟨by decide +kernel, _, rfl⟩

theorem test_witness_HeldInResetNothingComes : State.reset.dev.awake = false ∧
    Instr.nop 0 0 0 ∉ [.powerOn, .powerOff, .perstRelease, .perstAssert, .thermtripAnalog] := by decide +kernel

theorem test_witness_PowerAndResetPins : State.reset.dev.pins.powered = false ∧
    (({ powered := true } : Pins).powered = true ∧ ({ powered := true } : Pins).perst = true ∧
      ({ powered := true } : Pins).thermtrip = false ∧
      (witOf { witDev with pins := { powered := true } }).dev.boot.pushFirst = false) ∧
    ((witOf witDev).dev.pins.powered = true ∧ (witOf witDev).dev.pins.perst = false) := by
  and_intros <;> decide +kernel

/-! ### Chapter file 02 -/

def b2_02 (k : Nat) (f : Device → Device := id) : State := witOf (f
  (({witDev with boot := {running := some resetImage, map := some (parseMap resetMap), board := resetBoard}}.setFld .bootStatus Fd.bootStatusState
  0).setFld .bootStatus Fd.bootStatusStage k))
def s02x1 : State := (b2_02 1)
def s02x2 : State := (b2_02 2)
def s02x3 : State := (b2_02 4)
def s02x4 : State := (b2_02 4 fun d => {d with boot := {d.boot with memTrained := 0xFFFFFFFF}})
def s02x5 : State := (b2_02 5)
def s02x7 : State := (b2_02 6)
def s02x8 : State := (b2_02 3)
def s02x9 : State := (b2_02 3 fun d => {d with flash := {d.flash with mapSig := false}})
def s02x10 : State := (b2_02 2 fun d => {d with flash := {d.flash with image := {d.flash.image with sigOk := false}}})
def s02x11 : State := (b2_02 7 fun d => {d with layout := []})
def s02x15 : State := (b2_02 3 fun d => d.setFld .bootStatus Fd.bootStatusState 4)
def s02x16 : State := (b2_02 2 fun d => (d.setFld .bootStatus Fd.bootStatusState 3).setFld .bootPushList Fd.bootPushListEntries 1)
def s02x17 : State := (b2_02 2 fun d => {d.setFld .bootStatus Fd.bootStatusState 3 with boot := {d.boot with pushing := true}})
def s02x18 : State := (witOf {witDev with boot := {pushed := true}})
def s02x19 : State := (witOf
  {witDev with boot := {pushed := true, running := some resetImage}, flash := {resetFlash with writing := true}})
def s02x20 : State := (witOf witDev)
def s02x6 : State := (b2_02 1 fun d => {d with boot := {d.boot with pushFirst := true}})
def s02x12 : State := (b2_02 3 fun d => {d with flash := {d.flash with fieldSig := false}})
def s02x13 : State := (witOf {witDev with boot := {map := some (parseMap resetMap)}})
def s02x14 : State := (witOf {witDev with boot := {map := some (parseMap resetMap)}, flash := {resetFlash with writing := true}})

theorem test_witness_BringUpStagesPass :
    (s02x1.bringUp 1 = true ∧ 32767 % 32768 = 32767 ∧ s02x1.dev.boot.pushFirst = false) ∧
    (s02x6.bringUp 1 = true ∧ s02x6.dev.boot.pushFirst = true) ∧
    (s02x2.bringUp 2 = true ∧ s02x2.dev.flash.dirOk = true ∧ s02x2.dev.flash.image.sigOk = true ∧
      s02x2.dev.flash.image.digestOk = true ∧ s02x2.dev.flash.image.stepping = 161 ∧ s02x2.dev.flash.image.length ≤ 67108864 ∧
      Config.romFloor.toNat ≤ imageMajor s02x2.dev.flash.image) ∧
    (s02x3.bringUp 4 = true ∧ 31 < 32) ∧
    (s02x4.bringUp 4 = true ∧ s02x4.dev.boot.memTrained % 4294967296 = 4294967295) ∧
    s02x5.bringUp 5 = true ∧ (s02x7.bringUp 6 = true ∧ s02x7.dev.boot.newRepairs = []) := by
  and_intros <;> first
    | decide +kernel
    | exact Nat.le_trans (Nat.le_of_lt_succ (n := 65535) Config.romFloor.isLt) (by decide +kernel)

theorem test_witness_BringUpFailures :
    (s02x1.bringUp 1 = true ∧ 32766 % 32768 ≠ 32767) ∧ s02x8.bringUp 3 = true ∧
    (s02x9.bringUp 3 = true ∧ s02x9.dev.flash.mapSig = false) ∧
    (s02x3.bringUp 4 = true ∧ s02x3.dev.boot.memTrained % 4294967296 ≠ 4294967295) ∧ s02x5.bringUp 5 = true ∧
    (s02x10.bringUp 2 = true ∧ s02x10.dev.flash.dirOk = true ∧ s02x10.dev.flash.image.sigOk = false) ∧ s02x2.bringUp 2 = true := by
  and_intros <;> decide +kernel

theorem test_witness_CelandinePasses : ∀ s ∈ [s02x8, s02x12], s.bringUp 3 = true ∧ s.dev.flash.mapSig = true ∧
    (parseMap s.dev.flash.map).whole = true ∧ (parseMap s.dev.flash.map).serial = s.dev.flash.idSerial ∧
    (parseMap s.dev.flash.map).stepping = 0xA1 ∧ mapConsistent (parseMap s.dev.flash.map) = true ∧ s.dev.boot.policyWritten = none ∧
    fieldValid (parseMap s.dev.flash.map) s.dev.flash.fieldSig (parseField s.dev.flash.field) = s.dev.flash.fieldSig := by
  decide +kernel

theorem test_witness_TeaselReachesReady : s02x11.bringUp 7 = true ∧ 0 < boardParts s02x11.dev.boot.board := by
  and_intros <;> decide +kernel

theorem test_witness_PushAndPolicy :
    (s02x15.answering = true ∧ s02x15.dev.fld .bootStatus Fd.bootStatusState = 4 ∧ s02x15.dev.pins.thermHold = false ∧
      s02x15.dev.stage ≤ 6 ∧ fieldOf 256 3 0 = 0) ∧
    (s02x16.answering = true ∧ bitOf (0x100000000001 : Word).toNat 0 = true ∧ s02x16.dev.waitsPush = true ∧
      s02x16.dev.boot.pushing = false ∧ 1 ≤ s02x16.dev.fld .bootPushList Fd.bootPushListEntries ∧
      s02x16.dev.fld .bootPushList Fd.bootPushListEntries ≤ 1024 ∧ 1 ≤ fieldOf 0x100000000001 63 32 ∧
      fieldOf 0x100000000001 63 32 ≤ 65536 * s02x16.dev.fld .bootPushList Fd.bootPushListEntries) ∧
    (s02x17.answering = true ∧ s02x17.dev.boot.pushing = true) ∧ (s02x20.answering = true ∧ s02x20.dev.waitsPush = false) ∧
    (s02x17.running = true ∧ s02x17.dev.waitsPush = true ∧ s02x17.dev.boot.pushing = true ∧ s02x17.dev.stage = 2 ∧
      s02x17.dev.pins.thermHold = false ∧ pushResult false resetImage = 2 ∧ pushResult true resetImage ≠ 2) ∧
    (s02x18.inService = true ∧ s02x18.dev.boot.pushed = true ∧ s02x18.dev.flash.writing = false) ∧
    (s02x19.running = true ∧ s02x19.dev.halted = false ∧ s02x19.dev.flash.writing = true ∧ s02x19.dev.boot.running = some resetImage) ∧
    (s02x20.answering = true ∧ s02x20.dev.halted = false ∧ s02x20.dev.boot.map = none) ∧
    (s02x13.answering = true ∧ s02x13.dev.halted = false ∧ s02x13.dev.boot.map.isSome = true ∧ s02x13.dev.flash.writing = false) ∧
    (s02x14.answering = true ∧ s02x14.dev.halted = false ∧ s02x14.dev.boot.map.isSome = true ∧ s02x14.dev.flash.writing = true) := by
  and_intros <;> first
    | decide +kernel
    | exact witPush _ (by decide +kernel) (by decide +kernel)

/-! ### Chapter file 03 -/

def c3_03 : Cmd := {witCmd 0 [] with worked := true}
def ready3_03 : Device := {witDev with readyLists := [(0,[⟨0,0,0,4,1,3,false⟩,⟨0,1,0,4,1,2,false⟩,⟨1,1,0,4,2,2,false⟩])]}
def s03x1 : State := (witRun (witCmd 0 []))
def c03x2 : Cmd := (witCmd 0 [])
def s03x3 : State := (witRun (witCmd 1 []))
def c03x4 : Cmd := (witCmd 1 [])
def s03x5 : State := (witRun (witCmd 2 [0,0,0,0x1000,7,0]))
def c03x6 : Cmd := (witCmd 2 [0,0,0,0x1000,7,0])
def s03x7 : State := (witRun (witCmd 2 [0,0,0,0x1000,7,0x8000000000000000]))
def c03x8 : Cmd := (witCmd 2 [0,0,0,0x1000,7,0x8000000000000000])
def s03x9 : State := (witRun (witCmd 2 [0,0,0,0x1000,7,0xC000000000000000]))
def c03x10 : Cmd := (witCmd 2 [0,0,0,0x1000,7,0xC000000000000000])
def s03x11 : State := (witRun c3_03)
def s03x12 : State := (witRun {c3_03 with desc := {q0:=0x2000000000000000}})
def c03x13 : Cmd := {c3_03 with desc := {q0:=0x2000000000000000}}
def s03x14 : State := (witRun (witCmd 0 [] .waiting))
def c03x15 : Cmd := (witCmd 0 [] .waiting)
def s03x16 : State := (witRun (witCmd 0 [0x60000,1] .waiting))
def c03x17 : Cmd := (witCmd 0 [0x60000,1] .waiting)
def s03x18 : State := (witOf ready3_03)
def s03x19 : State := (witRun (witCmd 0 [] .done))
def c03x20 : Cmd := (witCmd 0 [] .done)
def c3s_03 : Cmd := {witCmd 0 [0,0,0x500020007] .done with value := 3}
def s03x21 : State := (witRun c3s_03)

theorem test_witness_ControlCommandsComplete :
    (s03x1.inService = true ∧
      s03x1.dev.runningCmd 0 0 0 0 = some c03x2) ∧
    (s03x3.inService = true ∧
      s03x3.dev.runningCmd 0 0 0 1 = some c03x4) ∧
    (s03x5.inService = true ∧
      s03x5.dev.runningCmd 0 0 0 2 = some c03x6 ∧
      (7 = c03x6.desc.q5 ∧ bitOf (BitVec.toNat c03x6.desc.q6) 63 = false ∨ bitOf (BitVec.toNat c03x6.desc.q6) 63 = true ∧ ∃ n,
        s03x5.dev.syncOf 0 (fieldOf c03x6.desc.q6 16 0) = some n ∧ 7 = (s03x5.dev.obj n).value)) ∧
    (s03x7.inService = true ∧
      s03x7.dev.runningCmd 0 0 0 2 = some c03x8 ∧
      (0 = c03x8.desc.q5 ∧ bitOf (BitVec.toNat c03x8.desc.q6) 63 = false ∨ bitOf (BitVec.toNat c03x8.desc.q6) 63 = true ∧ ∃ n,
        s03x7.dev.syncOf 0 (fieldOf c03x8.desc.q6 16 0) = some n ∧ 0 = (s03x7.dev.obj n).value)) ∧
    (s03x9.inService = true ∧
      s03x9.dev.runningCmd 0 0 0 2 = some c03x10 ∧
      (0 = c03x10.desc.q5 ∧ bitOf (BitVec.toNat c03x10.desc.q6) 63 = false ∨ bitOf (BitVec.toNat c03x10.desc.q6) 63 = true ∧ ∃ n,
        s03x9.dev.syncOf 0 (fieldOf c03x10.desc.q6 16 0) = some n ∧ 0 = (s03x9.dev.obj n).value)) ∧
    (s03x11.inService = true ∧
      s03x11.dev.cmd? 0 0 0 = some c3_03 ∧
      c3_03.st = CmdState.running ∧
      s03x11.dev.frozen 0 = false ∧
      c3_03.worked = true ∧
      c3_03.item = false ∧
      opcodeOf c3_03.desc ∉ [16, 17, 18] ∧
      s03x11.dev.flag (Reg.cmdQCfg 0 0) Fd.cmdQCfgStopOnTimeout = false) ∧
    (s03x12.inService = true ∧
      s03x12.dev.cmd? 0 0 0 = some c03x13 ∧
      c03x13.st = CmdState.running ∧
      s03x12.dev.frozen 0 = false ∧
      c03x13.worked = true ∧
      c03x13.item = false ∧
      opcodeOf c03x13.desc ∉ [16, 17, 18] ∧
      s03x12.dev.flag (Reg.cmdQCfg 0 0) Fd.cmdQCfgStopOnTimeout = false) := by
  refine ⟨⟨?_, ?_⟩, ⟨?_, ?_⟩, ⟨?_, ?_, ?_⟩, ⟨?_, ?_, ?_⟩, ⟨?_, ?_, ?_⟩, ⟨?_, ?_, ?_, ?_, ?_, ?_, ?_, ?_⟩, ⟨?_, ?_, ?_, ?_, ?_, ?_, ?_,
    ?_⟩⟩ <;> decide +kernel

theorem test_witness_CommandsStartAndAge :
    (0 < 8 ∧
      0 < 64 ∧
      s03x14.inService = true ∧
      s03x14.dev.waitingCmd 0 0 = some c03x15 ∧
      c03x15.skip = none ∧
      opcodeOf c03x15.desc ≤ 2 ∧
      waitOpOf c03x15.desc = 0 ∧
      s03x14.dev.ctxState 0 = 1 ∧
      s03x14.dev.cmd? 0 0 c03x15.idx = some c03x15 ∧
      (s03x14.dev.earlier 0 0 c03x15.idx).all Cmd.left = true ∧
      (fenceOf c03x15.desc = true → ((s03x14.dev.earlier 0 0 c03x15.idx).all fun b => b.st == CmdState.retired) = true)) ∧
    (s03x16.inService = true ∧
      s03x16.dev.waitingCmd 0 0 = some c03x17 ∧
      c03x17.skip = none ∧
      s03x16.dev.frozen 0 = false ∧
      s03x16.dev.cmd? 0 0 c03x17.idx = some c03x17 ∧
      s03x16.dev.startFate 0 0 c03x17 = .stays ∧
      s03x16.dev.flag (Reg.cmdQCfg 0 0) Fd.cmdQCfgStopOnTimeout = false ∧
      0 < 8 ∧
      0 < 64) ∧
    (s03x18.inService = true ∧
      s03x18.dev.engineFree 0 4 = true ∧
      s03x18.dev.waitingEntries 0 4 ≠ [] ∧
      (∀ e ∈ s03x18.dev.waitingEntries 0 4, e.part < 8)) ∧
    (s03x18.inService = true) := by
  refine ⟨⟨?_, ?_, ?_, ?_, ?_, ?_, ?_, ?_, ?_, ?_, ?_⟩, ⟨?_, ?_, ?_, ?_, ?_, ?_, ?_, ?_, ?_⟩, ⟨?_, ?_, ?_, ?_⟩, ?_⟩ <;> decide +kernel

theorem test_witness_CommandsRetireInOrder :
    (s03x19.inService = true ∧
      s03x19.dev.retirable 0 0 = some c03x20 ∧
      0 < 8 ∧
      0 < 64 ∧
      c03x20.status = 0 ∧
      completeOf c03x20.desc = false ∧
      signalOpOf c03x20.desc = 0) ∧
    (s03x21.inService = true ∧
      s03x21.dev.retirable 0 0 = some c3s_03 ∧
      0 < 8 ∧
      0 < 64 ∧
      c3s_03.status = 0 ∧
      completeOf c3s_03.desc = false ∧
      signalOpOf c3s_03.desc = 1 ∧
      s03x21.dev.syncOf 0 (signalSyncOf c3s_03.desc) = some 7 ∧
      (s03x21.dev.obj 7).waiters = [] ∧
      BitVec.toNat (s03x21.dev.obj 7).value + signalAmountOf c3s_03.desc ≤ s03x21.dev.objBound 7) := by
  refine ⟨⟨?_, ?_, ?_, ?_, ?_, ?_, ?_⟩, ⟨?_, ?_, ?_, ?_, ?_, ?_, ?_, ?_, ?_, ?_⟩⟩ <;> decide +kernel

/-! ### Chapter file 04 -/

def k4_04 (w : Nat) (f : Core → Core := id) : Core := f {st := .running, pmem := [(0, wordOf w)], sregs := [(1, 5)]}
def s4_04 (w : Nat) (f : Core → Core := id) : State := witOf {witDev with cores := [(0, k4_04 w f)]}
def s04x1 : State := (s4_04 0x0530000080000001)
def k04x2 : Core := (k4_04 0x0530000080000001)
def s04x3 : State := (s4_04 0x063100007FFFFFFF)
def k04x4 : Core := (k4_04 0x063100007FFFFFFF)
def s04x5 : State := (s4_04 0x0530000080000001 fun k => {k with loops := [⟨0,0,3⟩], lease := some 0})
def k04x6 : Core := (k4_04 0x0530000080000001 fun k => {k with loops := [⟨0,0,3⟩], lease := some 0})
def x04x7 : LoopFrame := ⟨0,0,3⟩
def s04x8 : State := (s4_04 0x0530000080000001 fun k => {k with loops := [⟨0,0,3⟩]})
def k04x9 : Core := (k4_04 0x0530000080000001 fun k => {k with loops := [⟨0,0,3⟩]})
def s04x10 : State := (s4_04 0x0310000300000000)
def k04x11 : Core := (k4_04 0x0310000300000000)
def s04x12 : State := (s4_04 0x0320000300000000)
def k04x12 : Core := (k4_04 0x0310000300000000 (fun k => {k with loops := [⟨0,9,2⟩]}))
def s04x13 : State := (s4_04 0x0310000300000000 (fun k => {k with loops := [⟨0,9,2⟩]}))
def k04x13 : Core := (k4_04 0x0320000300000000)
def s04x14 : State := (s4_04 0x0410000000001FFF)
def k04x15 : Core := (k4_04 0x0410000000001FFF)
def s04x16 : State := (s4_04 0x0410000000000005 (fun k => {k with loops := [⟨0,2,3⟩,⟨0,6,1⟩]}))
def k04x17 : Core := (k4_04 0x0410000000000005 (fun k => {k with loops := [⟨0,2,3⟩,⟨0,6,1⟩]}))
def s04x18 : State := (s4_04 0x0411000000000005)
def k04x19 : Core := (k4_04 0x0411000000000005)
def w4_04 (f : Core → Core) (o : SyncObj) (w : Nat) : State := witOf {witDev with cores := [(0, k4_04 w f)], objs := [(3,o)]}
def s04x20 : State := (w4_04 id {value := 5} 0x0110000000020003)
def k04x21 : Core := (k4_04 0x0110000000020003)
def s04x22 : State := (w4_04 id {value := 4} 0x0110000000020003)
def s04x23 : State := (w4_04 id {value := 4} 0x0210000000020003)
def k04x24 : Core := (k4_04 0x0210000000020003)
def s04x25 : State := (w4_04 (fun k => {k with st := .waiting}) {value := 5, waiters := [⟨true,0,0,0,1,5,true⟩]} 0)
def x04x26 : Waiter := ⟨true,0,0,0,1,5,true⟩
def s04x27 : State := (w4_04 (fun k => {k with st := .waiting}) {value := 4, waiters := [⟨true,0,0,0,1,5,false⟩]} 0)
def x04x28 : Waiter := ⟨true,0,0,0,1,5,false⟩
def f4_04 : State := witOf (({witDev with flows := [(2,{items := [{seq := 1, completed := true}]})]}.setFld (.synFlowCfg 0 2)
  Fd.synFlowCfgStallUs 1).setFld (.synFlowStatus 0 2) Fd.synFlowStatusState 1)
def p4_04 : Cmd := witCmd 0x10 [0,0,0,0x1000,0x00020005] .running 0x10300
def s04x29 : State := (witRun p4_04)
def x04x30 : MemIo := {host := [(0x1000,7)]}
def st4_04 : Cmd := {witCmd 0x11 [] .running 0x10300 with aux := [2,0,0]}
def s04x33 : State := (witOf (witPut
  {witDev with cores := [(0,{job := some (0,0,0)}),(1,{job := some (0,0,0), rank := 1, st := .running})]} st4_04))
def sp4_04 : Cmd := {witCmd 0x12 [] .running 0x10300 with aux := []}
def s04x34 : State := (witOf (witPut
  {witDev with cores := [(0,{job := some (0,0,0)}),(1,{job := some (0,0,0), rank := 1, st := .running})]} sp4_04))
def s04x35 : State := (witOf (witDev.setFld .cmdPmemAddr Fd.cmdPmemAddrWord 8191))
def k04x36 : Core := {}
def s04x37 : State := (witOf {witDev with cores := [(0,{lease := some 0, parts := [⟨3,[1],some (0,0)⟩]})]})
def s04x40 : State := (witOf {witDev with cores := [(1,{lease := some 0, parts := [⟨3,[1],none⟩]})]})
def x04x38 : PmemPart := ⟨3,[1],some (0,0)⟩
def s04x39 : State := (witOf {witDev with cores := [(0,{lease := some 1, parts := [⟨3,[1],some (0,0)⟩]})]})
def k04x40 : Core := {lease := some 1, parts := [⟨3,[1],some (0,0)⟩]}
def h4_04 (w : Nat) : State := witOf (witPut {witDev with cores := [(0,k4_04 w fun k => {k with job := some (0,0,0)})]}
  {st4_04 with begun := true})
def s04x41 : State := (h4_04 0x0700000000000000)
def k04x42 : Core := (k4_04 0x0700000000000000 fun k => {k with job := some (0,0,0)})
def s04x43 : State := (h4_04 0)
def k04x44 : Core := (k4_04 0 fun k => {k with job := some (0,0,0)})

theorem test_witness_SequencerMovesOn :
    (s04x1.inService = true ∧
      k04x2 = s04x1.dev.core 0 ∧
      0x530000080000001 = s04x1.dev.coreWord 0 ∧
      s04x1.dev.atControl 0 5 = true ∧
      k04x2.loops = [] ∧
      k04x2.pc % 512 ≠ 511) ∧
    (s04x3.inService = true ∧
      k04x4 = s04x3.dev.core 0 ∧
      0x63100007fffffff = s04x3.dev.coreWord 0 ∧
      s04x3.dev.atControl 0 6 = true ∧
      k04x4.loops = [] ∧
      k04x4.pc % 512 ≠ 511) ∧
    (s04x5.inService = true ∧
      k04x6 = s04x5.dev.core 0 ∧
      0x530000080000001 = s04x5.dev.coreWord 0 ∧
      s04x5.dev.atControl 0 5 = true ∧
      k04x6.loops = [x04x7] ∧
      k04x6.pc = x04x7.last ∧
      1 < x04x7.left ∧
      x04x7.first ≠ 8192 ∧
      k04x6.lapsed = none ∧
      k04x6.st = SeqState.running) ∧
    (s04x8.inService = true ∧
      k04x9 = s04x8.dev.core 0 ∧
      0x530000080000001 = s04x8.dev.coreWord 0 ∧
      s04x8.dev.atControl 0 5 = true ∧
      k04x9.loops = [x04x7] ∧
      k04x9.pc = x04x7.last ∧
      1 < x04x7.left ∧
      x04x7.first ≠ 8192 ∧
      k04x9.lapsed = none ∧
      k04x9.st = SeqState.running) ∧
    (s04x10.inService = true ∧
      k04x11 = s04x10.dev.core 0 ∧
      0x310000300000000 = s04x10.dev.coreWord 0 ∧
      s04x10.dev.atControl 0 3 = true ∧
      k04x11.loops = [] ∧
      k04x11.lapsed = none ∧
      k04x11.st = SeqState.running ∧
      fieldOf (k04x11.sreg (fieldOf 0x310000300000000 55 52)) 63 32 = 0 ∧
      regionOf (k04x11.pc + fieldOf 0x310000300000000 41 32) = regionOf k04x11.pc ∧
      BitVec.toNat (k04x11.sreg (fieldOf 0x310000300000000 55 52)) ≠ 0) ∧
    (s04x13.inService = true ∧
      k04x12 = s04x13.dev.core 0 ∧
      0x310000300000000 = s04x13.dev.coreWord 0 ∧
      s04x13.dev.atControl 0 3 = true ∧
      k04x12.loops.length < 4 ∧
      (∀ f ∈ k04x12.loops, k04x12.pc + fieldOf 0x310000300000000 41 32 ≤ f.last) ∧
      k04x12.lapsed = none ∧
      k04x12.st = SeqState.running ∧
      fieldOf (k04x12.sreg (fieldOf 0x310000300000000 55 52)) 63 32 = 0 ∧
      regionOf (k04x12.pc + fieldOf 0x310000300000000 41 32) = regionOf k04x12.pc ∧
      BitVec.toNat (k04x12.sreg (fieldOf 0x310000300000000 55 52)) ≠ 0) ∧
    (s04x12.inService = true ∧
      k04x13 = s04x12.dev.core 0 ∧
      0x320000300000000 = s04x12.dev.coreWord 0 ∧
      s04x12.dev.atControl 0 3 = true ∧
      k04x13.loops = [] ∧
      regionOf (k04x13.pc + fieldOf 0x320000300000000 41 32) = regionOf k04x13.pc ∧
      k04x13.sreg (fieldOf 0x320000300000000 55 52) = 0 ∧
      (k04x13.pc + fieldOf 0x320000300000000 41 32) % 512 ≠ 511) ∧
    (s04x14.inService = true ∧
      k04x15 = s04x14.dev.core 0 ∧
      0x410000000001fff = s04x14.dev.coreWord 0 ∧
      s04x14.dev.atControl 0 4 = true ∧
      k04x15.lapsed = none ∧
      k04x15.st = SeqState.running ∧
      branchTaken (fieldOf 0x410000000001fff 51 48) (k04x15.sreg (fieldOf 0x410000000001fff 55 52)) = true) ∧
    (s04x16.inService = true ∧
      k04x17 = s04x16.dev.core 0 ∧
      0x410000000000005 = s04x16.dev.coreWord 0 ∧
      s04x16.dev.atControl 0 4 = true ∧
      k04x17.lapsed = none ∧
      k04x17.st = SeqState.running ∧
      branchTaken (fieldOf 0x410000000000005 51 48) (k04x17.sreg (fieldOf 0x410000000000005 55 52)) = true) ∧
    (s04x18.inService = true ∧
      k04x19 = s04x18.dev.core 0 ∧
      0x411000000000005 = s04x18.dev.coreWord 0 ∧
      s04x18.dev.atControl 0 4 = true ∧
      k04x19.lapsed = none ∧
      k04x19.st = SeqState.running ∧
      k04x19.loops = [] ∧
      k04x19.pc ≠ 8191 ∧
      branchTaken (fieldOf 0x411000000000005 51 48) (k04x19.sreg (fieldOf 0x411000000000005 55 52)) = false) := by
  and_intros <;> decide +kernel

theorem test_witness_CoresWaitAndSignal :
    (s04x20.inService = true ∧
      k04x21 = s04x20.dev.core 0 ∧
      0x110000000020003 = s04x20.dev.coreWord 0 ∧
      s04x20.dev.atControl 0 1 = true ∧
      k04x21.loops = [] ∧
      k04x21.pc ≠ 8191 ∧
      k04x21.lapsed = none ∧
      k04x21.st = SeqState.running ∧
      fieldOf 0x110000000020003 19 17 = 1 ∧
      s04x20.dev.syncOf (s04x20.dev.corePart 0) (fieldOf 0x110000000020003 16 0) = some 3 ∧
      (s04x20.dev.obj 3).waiters = [] ∧
      5 = k04x21.sreg (fieldOf 0x110000000020003 55 52)) ∧
    (s04x22.inService = true ∧
      k04x21 = s04x22.dev.core 0 ∧
      0x110000000020003 = s04x22.dev.coreWord 0 ∧
      s04x22.dev.atControl 0 1 = true ∧
      k04x21.loops = [] ∧
      k04x21.pc ≠ 8191 ∧
      k04x21.lapsed = none ∧
      k04x21.st = SeqState.running ∧
      fieldOf 0x110000000020003 19 17 = 1 ∧
      s04x22.dev.syncOf (s04x22.dev.corePart 0) (fieldOf 0x110000000020003 16 0) = some 3 ∧
      (s04x22.dev.obj 3).waiters = [] ∧
      5 = k04x21.sreg (fieldOf 0x110000000020003 55 52)) ∧
    (s04x23.inService = true ∧
      k04x24 = s04x23.dev.core 0 ∧
      0x210000000020003 = s04x23.dev.coreWord 0 ∧
      s04x23.dev.atControl 0 2 = true ∧
      k04x24.loops = [] ∧
      k04x24.pc % 512 ≠ 511 ∧
      fieldOf 0x210000000020003 19 17 = 1 ∧
      s04x23.dev.syncOf (s04x23.dev.corePart 0) (fieldOf 0x210000000020003 16 0) = some 3 ∧
      (s04x23.dev.obj 3).waiters = [] ∧
      BitVec.toNat (s04x23.dev.obj 3).value + BitVec.toNat (k04x24.sreg (fieldOf 0x210000000020003 55 52)) ≤ s04x23.dev.objBound 3) ∧
    (s04x25.inService = true ∧
      (s04x25.dev.obj 3).waiters = [x04x26] ∧
      x04x26.polling = true ∧
      x04x26.isCore = true ∧
      x04x26.op = 1 ∧
      BitVec.toNat x04x26.value ≤ BitVec.toNat (s04x25.dev.obj 3).value ∧
      (s04x25.dev.core x04x26.who).loops = [] ∧
      (s04x25.dev.core x04x26.who).pc % 512 ≠ 511) ∧
    (s04x27.inService = true ∧
      0 < 256 ∧
      s04x27.dev.corePart 0 < 8 ∧
      (s04x27.dev.core 0).st = SeqState.waiting ∧
      s04x27.dev.coreWaiter 0 = some (3, x04x28) ∧
      waitHolds x04x28.op (s04x27.dev.obj 3).value x04x28.value = false ∧
      (s04x27.dev.core 0).aq = [] ∧
      (s04x27.dev.core 0).vq = [] ∧
      (s04x27.dev.core 0).lapsed = none) ∧
    (f4_04.inService = true ∧
      0 < 8 ∧
      2 < 1024 ∧
      f4_04.dev.flowState 0 2 = 1 ∧
      f4_04.dev.fld (Reg.synFlowCfg 0 2) Fd.synFlowCfgStallUs ≠ 0 ∧
      ((f4_04.dev.flow 0 2).items.any fun i => i.completed && i.seq != f4_04.dev.flowNext 0 2) = true ∧
      ((f4_04.dev.flow 0 2).items.any fun i => i.completed && i.seq == f4_04.dev.flowNext 0 2) = false) := by
  and_intros <;> decide +kernel

theorem test_witness_ProgramsLoadStartStop :
    (s04x29.inService = true ∧
      s04x29.dev.runningCmd 0 0 0 16 = some p4_04 ∧
      p4_04.unit = 0 ∧
      1 ≤ fieldOf p4_04.desc.q5 31 16 ∧
      fieldOf p4_04.desc.q5 15 0 % 512 + fieldOf p4_04.desc.q5 31 16 ≤ 512 ∧
      (((s04x29.quiet.dev.withIo x04x30).readDva (s04x29.dev.userOf 0 p4_04 0) (BitVec.toNat p4_04.desc.q4) (8 * fieldOf p4_04.desc.q5 31
        16)).2).toOption.isSome = true ∧
      (∀ k ∈ s04x29.dev.targets 0 p4_04.desc, (s04x29.dev.core k).lease = none ∧ (s04x29.dev.core k).parts = [] ∧ (s04x29.dev.core
        k).lapsed = none)) ∧
    (s04x33.inService = true ∧
      s04x33.dev.runningCmd 0 0 0 17 = some st4_04 ∧
      st4_04.begun = false) ∧
    (s04x34.inService = true ∧
      s04x34.dev.runningCmd 0 0 0 18 = some sp4_04 ∧
      (∀ i < 64, ∀ b ∈ s04x34.dev.queue 0 i, s04x34.dev.waitsFree 0 i b = false) ∧
      (∀ k ∈ s04x34.dev.targets 0 sp4_04.desc, (s04x34.dev.core k).st ≠ SeqState.waiting ∧ s04x34.dev.stallsOn k = false)) ∧
    (s04x35.inService = true ∧
      0 = s04x35.dev.fld Reg.cmdPmemAddr Fd.cmdPmemAddrCore ∧
      k04x36 = s04x35.dev.core 0 ∧
      s04x35.dev.pmemHeld = [] ∧
      s04x35.dev.pmemWaits = false ∧
      k04x36.lease ≠ some (regionOf 8191) ∧
      (∀ y ∈ k04x36.parts, regionOf y.word ≠ regionOf 8191) ∧
      k04x36.lapsed = none) ∧
    (s04x40.inService = true ∧
      s04x40.dev.pmemHeld = [] ∧
      s04x40.dev.pmemWaits = true) ∧
    (s04x37.inService = true ∧
      s04x37.dev.pmemHeld = [] ∧
      s04x37.dev.pmemWaits = false ∧
      (s04x37.dev.core 0).lease = some (regionOf (s04x37.dev.fld Reg.cmdPmemAddr Fd.cmdPmemAddrWord))) ∧
    (s04x37.inService = true ∧
      s04x37.dev.pmemHeld = [] ∧
      (s04x37.dev.core 0).lease = some 0 ∧
      (s04x37.dev.core 0).lapsed = none ∧
      List.find? (fun x => regionOf x.word == 0) (s04x37.dev.core 0).parts = some x04x38) ∧
    (s04x39.inService = true ∧
      s04x39.dev.pmemHeld = [] ∧
      k04x40 = s04x39.dev.core 0 ∧
      k04x40.parts = [x04x38] ∧
      k04x40.lease ≠ some (regionOf x04x38.word) ∧
      k04x40.lapsed = none) := by
  and_intros <;> decide +kernel

theorem test_witness_CoresHaltAndFault :
    (s04x41.inService = true ∧
      k04x42 = s04x41.dev.core 0 ∧
      k04x42.aq = [] ∧
      k04x42.vq = [] ∧
      k04x42.lapsed = none ∧
      k04x42.st = SeqState.running ∧
      s04x41.dev.atControl 0 7 = true) ∧
    (s04x43.inService = true ∧
      k04x44 = s04x43.dev.core 0 ∧
      k04x44.aq = [] ∧
      k04x44.vq = [] ∧
      k04x44.lapsed = none ∧
      k04x44.st = SeqState.running ∧
      s04x43.dev.canRun 0 = true ∧
      wordLegal (s04x43.dev.coreWord 0) = false) := by
  and_intros <;> decide +kernel

/-! ### Chapter file 05 -/

def p5_05 (st : Nat) (f : Device → Device := id) (x : Port := {}) : State := witOf (f
  {witDev.setFld (.lnkPortStatus 3) Fd.lnkPortStatusState st |>.setFld (.lnkPortStatus 3) Fd.lnkPortStatusRepaired 15 with ports := [(3,x)]})
def s05x1 : State := (p5_05 1)
def s05x2 : State := (p5_05 1 fun d => d.setFld (.lnkPortStatus 3) Fd.lnkPortStatusLocked 0x17F)
def s05x3 : State := (p5_05 1 fun d => d.setFld (.lnkPortStatus 3) Fd.lnkPortStatusLocked 0x7F)
def s05x4 : State := (p5_05 3)
def s05x6 : State := (p5_05 3 id {peer := some (0,[0,1249999])})
def x05x7 : List Nat := [0,1249999]
def x05x8 : Nat × List Nat := (0,[0,1249999])
def s05x9 : State := (p5_05 3 id {between := true})
def rf_05 : TxFlit := {seq := 5, vc := 0, sop := 1, slots := [7,8]}
def s05x10 : State := (p5_05 5 (fun d => d.setFld (.lnkPortStatus 3) Fd.lnkPortStatusLocked 0xFF) {replay := [rf_05]})
def s05x11 : State := (p5_05 2 id {expSeq := 4095, nak := true, freed := [(1,3)]})
def s05x12 : State := (p5_05 5)
def x05x13 : List Byte := (List.replicate 256 0)
def cf_05 : List Byte := flitBytes (0x200000000000000000000000 + 5 * 0x100000000000000000000) (leBytes 8 9 ++
  [1,0,0,0,2,0,0,0,0,0,0,0,9,0,0,0])
def s05x14 : State := (p5_05 4 id {counted := [(1,1)], credit := [(0,4)]})
def s05x15 : State := (p5_05 4 id {expSeq := 5})
def x05x16 : List Byte := rf_05.bytes
def s05x18 : State := (p5_05 4)
def s05x19 : State := (p5_05 6 id {nextSeq := 4, replay := [rf_05]})
def s05x20 : State := (p5_05 5 fun d => (d.setFld (.lnkPortStatus 3) Fd.lnkPortStatusLocked 0x7F).setFld (.lnkPortStatus 3)
  Fd.lnkPortStatusRepaired 2)
def s05x21 : State := (p5_05 4 id {replay := [rf_05, {rf_05 with seq := 6}], nextSeq := 7})
def nf_05 : List Byte := flitBytes (0x200000000000000000000000 + 6 * 0x100000000000000000000 + 0x80000000000000000000) (leBytes 8 9)
def s05x22 : State := (p5_05 4 id {retrains := [0, 0], replays := 8})
def s05x23 : State := (p5_05 4 id {badWords := List.replicate 1001 0})
def s05x24 : State := (p5_05 4 id {replays := 8})
def cw_05 (s : State) (word : Option Nat) : Device × Bool := s.quiet.dev.codeword 3 word

theorem test_witness_PortsTrainAndPassFlits :
    (s05x1.going = true ∧ 3 < 28 ∧ 0xFF < 512 ∧ s05x1.dev.portState 3 = 1) ∧ (s05x12.going = true ∧ s05x12.dev.portState 3 = 5) ∧
    (∀ s ∈ [s05x2, s05x3], s.going = true ∧ s.dev.portState 3 = 1 ∧ s.dev.repaired 3 = 15 ∧ s.dev.openLanes 3 = [7]) ∧
    (∀ s ∈ [s05x1, s05x20], s.going = true ∧ (s.dev.portState 3 = 1 ∨ s.dev.portState 3 = 5) ∧ s.dev.openLanes 3 ≠ [] ∧
      (s.dev.repaired 3 ≠ 15 ∨ 2 ≤ (s.dev.openLanes 3).length)) ∧
    (s05x4.going = true ∧ s05x4.dev.portState 3 = 3 ∧ (s05x4.dev.port 3).between = false ∧ (s05x4.dev.port 3).peer = none) ∧
    (s05x6.going = true ∧ s05x6.dev.portState 3 = 3 ∧ (s05x6.dev.port 3).between = false ∧ (s05x6.dev.port 3).peer = some x05x8 ∧
      windowOk (0, x05x7) = true ∧ windowOk x05x8 = true ∧ s05x6.dev.txWait = [] ∧ windowOk (0, [1250000]) = false ∧
      (s05x6.dev.port 3).window = 0) ∧
    (s05x9.going = true ∧ s05x9.dev.portState 3 = 3) ∧
    (s05x10.going = true ∧ s05x10.dev.portState 3 = 5 ∧ s05x10.dev.openLanes 3 = [] ∧ s05x10.dev.txWait = []) ∧
    (s05x11.going = true ∧ s05x11.dev.flitsPass 3 = true) ∧
    (s05x11.going = true ∧ s05x11.dev.flitsPass 3 = true ∧
      (∀ w ∈ [none, some 0], (cw_05 s05x11 w).2 = w.isNone ∧ (cw_05 s05x11 w).1.wordsLost 3 = false) ∧
      (flitGood x05x13 = false ∨ flitBits x05x13 127 124 ≠ 2)) ∧
    (s05x14.going = true ∧ s05x14.dev.flitsPass 3 = true ∧ (cw_05 s05x14 (some 0)).2 = false ∧
      (cw_05 s05x14 (some 0)).1.wordsLost 3 = false ∧ flitGood cf_05 = true ∧ flitBits cf_05 127 124 = 2 ∧ s05x14.dev.txWait = [] ∧
      (s05x14.dev.port 3).mgmt = [] ∧ flitBits cf_05 111 111 = 0) ∧
    (s05x21.going = true ∧ s05x21.dev.flitsPass 3 = true ∧ (cw_05 s05x21 (some 0)).2 = false ∧
      (cw_05 s05x21 (some 0)).1.wordsLost 3 = false ∧ flitGood nf_05 = true ∧ flitBits nf_05 127 124 = 2 ∧ s05x21.dev.txWait = [] ∧
      (s05x21.dev.port 3).mgmt = [] ∧ flitBits nf_05 111 111 = 1 ∧ seqAfter 5 (flitBits nf_05 123 112) = 1 ∧
      (s05x21.dev.port 3).replay.drop 1 ≠ [] ∧ (s05x21.dev.port 3).replays < 7) ∧
    (s05x15.going = true ∧ s05x15.dev.flitsPass 3 = true ∧ (cw_05 s05x15 (some 0)).1.wordsLost 3 = false ∧ (cw_05 s05x15 (some 0)).2 = false ∧
      flitGood x05x16 = true ∧ flitBits x05x16 127 124 = 1 ∧ flitBits x05x16 123 112 = (s05x15.dev.port 3).expSeq ∧
      (s05x15.dev.port 3).rxUsed (flitBits x05x16 111 110) + flitBits x05x16 94 91 ≤ rxSlots (flitBits x05x16 111 110)) ∧
    ((cw_05 s05x15 none).1.wordsLost 3 = false ∧ (cw_05 s05x15 none).2 = true) ∧
    (flitGood (flitBytes 0 []) = true ∧ flitBits (flitBytes 0 []) 127 124 = 0) ∧
    (s05x23.going = true ∧ s05x23.dev.flitsPass 3 = true ∧ (cw_05 s05x23 (some 0)).1.wordsLost 3 = true ∧ s05x23.dev.portState 3 = 4 ∧
      s05x23.dev.recentRetrains 3 < 2) ∧
    (s05x24.going = true ∧ s05x24.dev.portState 3 = 4 ∧ s05x24.dev.retrainDue 3 2 0 = true ∧ s05x24.dev.recentRetrains 3 < 2 ∧
      s05x22.dev.retrainDue 3 2 0 = true ∧ s05x18.dev.retrainDue 3 2 0 = false) ∧
    (s05x18.dev.portState 3 = 4 ∧ s05x18.going = true ∧ s05x18.inService = true ∧ s05x18.dev.recentRetrains 3 < 2) ∧
    (s05x22.dev.portState 3 = 4 ∧ s05x22.going = true ∧ s05x22.inService = true ∧ 2 ≤ s05x22.dev.recentRetrains 3) ∧
    (s05x19.inService = true ∧ s05x19.dev.portState 3 = 6) := by
  and_intros <;> decide +kernel

/-! ### Chapter file 06 -/

def pk_06 (typ : Nat) (addr : Nat) (flow : Option Nat := none) (body : List (BitVec 128) := []) (rd : Nat := 0) (st : Nat := 0) (src : Nat
  := 9) : Packet := pktHeader typ 0 src 1 (1+body.length) 77 st 0 flow rd addr :: body
def s6_06 (k : Packet) (f : Device → Device := id) (vc : Nat := 0) : State := witOf (f
  {witDev.setFld (.lnkPortStatus 3) Fd.lnkPortStatusState 4 with ports := [(3,{rx := [(vc,k)]})]})
def s06x1 : State := (s6_06 (pk_06 0xE 1) (fun d => {(d.setFld (.lnkPortStatus 3) Fd.lnkPortStatusState 2).setFld .bootStatus
  Fd.bootStatusState 0 with boot := {running := some resetImage}}) 3)
def s06x3 : State := (s6_06 (pk_06 0xE 1) (fun d => {d.setFld (.lnkPortStatus 3) Fd.lnkPortStatusState 3 with
  boot := {running := some resetImage}}) 3)
def s06x4 : State := (s6_06 (pk_06 0xE 2) (fun d => d.setFld (.lnkPortStatus 3) Fd.lnkPortStatusState 3) 3)
def x06x6 : Packet := (pk_06 0xE 2)
def s06x7 : State := (s6_06 (pk_06 0xE 3) (vc := 3))
def x06x8 : Packet := (pk_06 0xE 3)
def s06x9 : State := (s6_06 (pk_06 0xE 4) (vc := 3))
def x06x10 : Packet := (pk_06 0xE 4)
def s06x11 : State := (s6_06 (pk_06 0xE 7) (vc := 3))
def x06x12 : Packet := (pk_06 0xE 7)
def x06x15 : MemberBind := {placed := true}
def s06x16 : State := (s6_06 (pk_06 0xE 7) (fun d => d.updPart 0 fun x => {x with holding := [(3,4)]}) 3)
def cr_06 (d : Device) : Device := {d with resets := [{scope := 4, target := 0, byReg := true}]}
def s06x17 : State := (s6_06 (pk_06 1 5) cr_06)
def x06x18 : Packet := (pk_06 1 5)
def s06x19 : State := (s6_06 (pk_06 1 0x300000000))
def x06x20 : Packet := (pk_06 1 0x300000000)
def s06x21 : State := (s6_06 (pk_06 2 5) cr_06)
def x06x22 : Packet := (pk_06 2 5)
def s06x23 : State := (s6_06 (pk_06 2 0x300000000))
def x06x24 : Packet := (pk_06 2 0x300000000)
def wk_06 : Packet := pk_06 2 0x102 none [0x1234,0x5678]
def s06x25 : State := (s6_06 wk_06)
def s06x27 : State := (s6_06 (pk_06 3 5) cr_06)
def x06x28 : Packet := (pk_06 3 5)
def s06x29 : State := (s6_06 (pk_06 4 5 none [0x20001]) (fun d => {d with layout := []}))
def x06x30 : Packet := (pk_06 4 5 none [0x20001])
def s06x31 : State := (s6_06 (pk_06 4 5 (some 6) [0x300020001 * 2^32]))
def x06x32 : Packet := (pk_06 4 5 (some 6) [0x300020001 * 2^32])
def s06x33 : State := (s6_06 (pk_06 5 5) cr_06)
def x06x34 : Packet := (pk_06 5 5)
def s06x35 : State := (s6_06 (pk_06 5 5 none [1,2]))
def x06x36 : Packet := (pk_06 5 5 none [1,2])
def mk'_06 : Packet := pktHeader 2 5 9 1 2 77 0 0 none 0 0 :: [1]
def mk3_06 : Packet := pktHeader 3 5 9 1 2 77 0 0 none 0 0 :: [1]
def s06x37 : State := (s6_06 mk'_06 )
def s06x38 : State := (s6_06 mk3_06 (fun d => {d with levelOut := true}))
def rq_06 (typ : Nat) : Request := {part := 0, q := 0, idx := 0, die := 1, tag := some 77, pkt := pk_06 typ 5}
def s6r_06 (k : Packet) (r : Request) (vc : Nat := 1) : State := s6_06 k (fun d => {d with reqs := [(4, some r)]}) vc
def s06x39 : State := (s6_06 (pk_06 8 5) (vc := 1))
def x06x40 : Packet := (pk_06 8 5)
def s06x41 : State := (s6r_06 (pk_06 8 5 none [] 0 10) (rq_06 1))
def x06x42 : Packet := (pk_06 8 5 none [] 0 10)
def x06x43 : Request := (rq_06 1)
def s06x45 : State := (s6r_06 (pk_06 9 5 none [] 0 5) (rq_06 2))
def x06x46 : Packet := (pk_06 9 5 none [] 0 5)
def x06x47 : Request := (rq_06 2)
/-- A PUT of 32 bytes whose WRITE is to be sent again. -/
def c06x50 : Cmd := witCmd 0xA4 [0, 0, 0, 0, 0x1000]
def x06x50 : Request := {part := 0, q := 0, idx := 0, die := 1, tag := some 77, pkt := pk_06 2 5 none [1, 2], retry := true}
def s06x49 : State := (s6_06 (pk_06 9 5 none [] 0 5) (fun d => {witPut d c06x50 with reqs := [(4, some x06x50)]}) 1)
def s06x51 : State := (s6r_06 (pk_06 9 5 none [] 0 5) {rq_06 1 with held := true})
def x06x52 : Request := {rq_06 1 with held := true}
def s06x53 : State := (s6r_06 (pk_06 9 5 none [] 0 5) (rq_06 1))
def le6_06 : LandEntry := {src := 3, srcDie := 2, flow := 9, count := 5, signal := some (pk_06 4 5 (some 9) [0x300020001 * 2^32])}
def s06x54 : State := (witOf {witDev with landing := [(1,[le6_06])]})
def x06x55 : Packet := (pk_06 4 5 (some 9) [0x300020001 * 2^32])
def s06x56 : State := (witOf {witDev with ports := [(2,{txFlits := 5})]})
def s06x2 (b : Nat × List Nat) : State := (s6_06 (pk_06 0xE 2) (fun d => {d.setFld (.lnkPortStatus 3) Fd.lnkPortStatusState 3 with
  ports := [(3, {rx := [(3, pk_06 0xE 2)], own := some b})]}) 3)
def um_06 : UnitMap := {valid := true, owner := 0, read := 0, alt := 0, copies := [0], offset := 0x300000, tiles := 4}
def tb_06 : Table :=
  {graph := false, rowLog2 := 0, fmt := 0xA, group := 0, n := 100, scale := f32One, contribMax := 1, versions := [(1,[(0,um_06)])]}
/-- A contribution to row 3 of table 5 from chip 9, keyed or in arrival order. -/
def x06x64 : Packet := (pk_06 3 5 none [3 + 9 * 2 ^ 48 + 7 * 2 ^ 64, 0x3F800000])
def x06x65 : Packet := (pk_06 3 (5 + 2 ^ 32) none [3 + 9 * 2 ^ 48 + 7 * 2 ^ 64, 0x3F800000])
def s06x64 (k : Packet) : State := (s6_06 k fun d => {d.setFld (.gthPartLog 0 0) Fd.gthPartLogSize 1 with
  parts := [(0, {tables := [(5, some tb_06)]})]})
def s06x66 : State := (s6_06 (pk_06 4 5 none [0x20001]) cr_06)
/-- A tile slot of this chip verifies; and whether its format has a scale slot. -/
def ok_06 (d : Device) (off : Nat) : Bool × Bool :=
  let x := d.recOf (d.ownAt off)
  (x.ok (d.sclOf x (d.ownAt off)), isMx x.fmt)
def x06x57 : Packet := (pk_06 1 0x30000)
def s06x57 : State := (s6_06 x06x57 fun d => {d with parts := [(0, {tables := [(5, some tb_06)], holding := [(5, 0)]})]})
def x06x58 : Packet := (pk_06 1 0x102)
def s06x58 : State := (s6_06 x06x58)
def s06x59 : State := (s6_06 (pk_06 4 5 none [0x20001]))
def le_06 : LandEntry := {src := 9, srcDie := 1, flow := 6, count := 1}
def s06x60 : State := (s6_06 (pk_06 4 5 (some 6) [0x300020001 * 2^32]) fun d => {d with landing := [(2, [le_06])]})
def x06x61 : Packet := (pk_06 8 5 none [7])
def s06x61 : State := (s6r_06 x06x61 (rq_06 1))
def x06x62 : Packet := (pk_06 9 5)
def s06x62 : State := (s6_06 x06x62 (fun d => {d with reqs := [(4, some (rq_06 2)), (5, some {rq_06 2 with tag := some 3})]}) 1)
def x06x63 : Request := {rq_06 2 with tag := none}
def s06x63 : State := (witOf {witDev with reqs := [(4, some x06x63)]})
/-- A packet of a type from a source chip, with its flow. -/
def lk_06 (typ src : Nat) : Packet := pk_06 typ 0x102 (some 6) [0x300020001 * 2^32] (src := src)
/-- Eight entries of each of n chips but one. -/
def le8_06 (n i : Nat) : List LandEntry :=
  (((List.range n).filter (· != i)).map fun j => List.replicate 8 { src := j, srcDie := 1, flow := 6, count := 1 }).flatten
/-- A module in service with little more than a packet of its port 3 and a landing table. -/
def ld_06 : Device := ({flash := resetFlash, pins := {powered := true, perst := false}} : Device).setFld .bootStatus Fd.bootStatusState 1
def le_dev (k : Packet) (l : List LandEntry) : Device := {ld_06 with ports := [(3, {rx := [(0, k)]})], landing := [(2, l)]}

theorem witArrived (k : Packet) (l : List LandEntry) (t : Nat) (ht : t = 2 ∨ t = 4) (hk : pktType k = t) (hd : pktDest k = 0) :
    (le_dev k l).arrived t = some (3, 0, k) ∧ (witOf (le_dev k l)).inService = true ∧ (le_dev k l).land 2 = l := by
  have hc : ∀ (d : Device) ps ls, ({d with ports := ps, landing := ls} : Device).chip = d.chip := fun _ _ _ => by
    simp only [Device.chip, Device.fld, Device.reg]
  have hi : ∀ (d : Device) ps ls, (witOf {d with ports := ps, landing := ls}).inService = (witOf d).inService := fun _ _ _ => by
    simp only [State.inService, State.running, Device.awake, Device.ready, Device.fld, Device.reg, witOf]
  have hl : ∀ (d : Device) ps (ls : List LandEntry), ({d with ports := ps, landing := [(2, ls)]} : Device).land 2 = ls :=
    fun _ _ _ => by simp [Device.land, SMap.at', SMap.get]
  have hp : ∀ n, (le_dev k l).port n = if n = 3 then {rx := [(0, k)]} else {} := fun n => by
    unfold Device.port le_dev
    by_cases h : n = 3 <;> simp [SMap.at', SMap.get, h, eq_comm]
  have hm : (le_dev k l).misrouted k = false := by
    have h0 : ld_06.chip = 0 := by decide +kernel
    simp only [Device.misrouted, hd, le_dev, hc, h0, hk]
    rcases ht with rfl | rfl <;> decide
  refine ⟨?_, (hi ld_06 _ _).trans (by decide +kernel), hl ld_06 _ l⟩
  unfold Device.arrived Device.nextPacket
  rw [show List.range 28 = [0, 1, 2, 3] ++ (List.range 24).map (· + 4) from rfl, List.findSome?_append]
  rcases ht with rfl | rfl <;> simp [hp, hk, hm]

theorem witLand (d : Device) (n i j : Nat) (hj : j < n) (hij : j ≠ i) (hs : Config.landSet j 1 6 = Config.landSet i 1 6)
    (hl : d.land 2 = le8_06 n i) : d.landRoom 2 i 1 6 = false := by
  have hall : ∀ e ∈ le8_06 n i, e.lost = 0 ∧ e.is i 1 6 = false := by
    intro e he
    simp only [le8_06, List.mem_flatten, List.mem_map, List.mem_filter] at he
    obtain ⟨_, ⟨k, ⟨_, hk⟩, rfl⟩, he⟩ := he
    obtain rfl := List.eq_of_mem_replicate he
    simpa [LandEntry.is] using hk
  have hsub : List.Sublist (List.replicate 8 { src := j, srcDie := 1, flow := 6, count := 1 }) (le8_06 n i) :=
    List.sublist_flatten_of_mem (List.mem_map.mpr ⟨j, List.mem_filter.mpr ⟨List.mem_range.mpr hj, by simpa using hij⟩, rfl⟩)
  have hlive : (le8_06 n i).filter (fun e => e.lost == 0) = le8_06 n i := List.filter_eq_self.mpr fun e he => by simp [(hall e he).1]
  have hany : ((le8_06 n i).any fun e => e.is i 1 6) = false := List.any_eq_false.mpr fun e he => by simp [(hall e he).2]
  have h8 : 8 ≤ (le8_06 n i).length := by simpa using hsub.length_le
  have h9 := (hsub.filter fun e => Config.landSet e.src e.srcDie e.flow == Config.landSet i 1 6).length_le
  simp [hs] at h9
  simp only [Device.landRoom, hl, hlive, hany, Bool.false_or, Bool.or_eq_false_iff, decide_eq_false_iff_not, Nat.not_lt]
  exact ⟨h8, h9⟩

theorem test_witness_ManagementPacketsActs :
    (s06x1.going = true ∧ 3 < 28 ∧ 2 ≤ s06x1.dev.portState 3 ∧ s06x1.dev.portState 3 ≤ 3 ∧ s06x1.dev.mgmtAt 3 1 = some (3, pk_06 0xE 1) ∧
      s06x1.dev.ready = false ∧ 65535 < 65536 ∧ 255 < 256) ∧
    (s06x3.going = true ∧ 2 ≤ s06x3.dev.portState 3 ∧ s06x3.dev.portState 3 ≤ 3 ∧ s06x3.dev.mgmtAt 3 1 = some (3, pk_06 0xE 1) ∧
      s06x3.dev.ready = true) ∧
    (s06x4.going = true ∧ s06x4.dev.portState 3 = 3 ∧ (s06x4.dev.port 3).between = false ∧ s06x4.dev.mgmtAt 3 2 = some (3, x06x6) ∧
      (s06x4.dev.port 3).own = none) ∧
    (∀ b ∈ [(0, [1249999]), (0, [1250000])], (s06x2 b).going = true ∧ (s06x2 b).dev.portState 3 = 3 ∧
      ((s06x2 b).dev.port 3).between = false ∧ (s06x2 b).dev.mgmtAt 3 2 = some (3, x06x6) ∧ ((s06x2 b).dev.port 3).own = some b ∧
      (s06x2 b).dev.txWait = [] ∧ ((s06x2 b).dev.port 3).window = 0) ∧
    (windowOk (0, [1249999]) = true ∧ windowOk (0, [1250000]) = false) ∧
    (s06x7.inService = true ∧ s06x7.dev.arrived 14 3 = some (3, 3, x06x8)) ∧
    (s06x9.inService = true ∧ s06x9.dev.arrived 14 4 = some (3, 3, x06x10)) ∧
    (s06x11.inService = true ∧ s06x11.dev.arrived 14 7 = some (3, 3, x06x12) ∧ x06x15.fail = 0 ∧
      (s06x11.dev.part 0).holding.contains (3, 4) = false) ∧
    (s06x16.inService = true ∧ s06x16.dev.arrived 14 7 = some (3, 3, x06x12) ∧ (s06x16.dev.part 0).holding.contains (3, 4) = true ∧
      s06x16.dev.heldReads = []) := by
  and_intros <;> decide +kernel

theorem test_witness_RequestPacketsServed :
    (s06x17.inService = true ∧ s06x17.dev.arrived 1 = some (3, 0, x06x18) ∧ s06x17.dev.computeResetting = true) ∧
    (s06x19.inService = true ∧ s06x19.dev.arrived 1 = some (3, 0, x06x20) ∧ s06x19.dev.computeResetting = false ∧
      s06x19.dev.heldAt (pktAddr x06x20 * 16) = false ∧ offsetMapped (pktAddr x06x20 * 16) = false) ∧
    (s06x57.inService = true ∧ s06x57.dev.arrived 1 = some (3, 0, x06x57) ∧ s06x57.dev.computeResetting = false ∧
      s06x57.dev.heldAt (pktAddr x06x57 * 16) = true) ∧
    (s06x58.inService = true ∧ s06x58.dev.arrived 1 = some (3, 0, x06x58) ∧ s06x58.dev.computeResetting = false ∧
      s06x58.dev.heldAt 0x1020 = false ∧ pktAddr x06x58 * 16 = 0x1020 ∧ offsetMapped 0x1020 = true ∧ pktRdlen x06x58 = 0 ∧
      0x1020 % 4096 + 16 * 1 ≤ 4096 ∧ 1 ≤ 16 ∧ ((s06x58.quiet.dev.consume 3 0 x06x58).inject 1 none none).2 = none ∧
      s06x58.dev.badReads = [] ∧ (ok_06 s06x58.dev 0x1020).1 = true) ∧
    (s06x21.inService = true ∧ s06x21.dev.arrived 2 = some (3, 0, x06x22) ∧ s06x21.dev.computeResetting = true) ∧
    (s06x23.inService = true ∧ s06x23.dev.arrived 2 = some (3, 0, x06x24) ∧ s06x23.dev.computeResetting = false ∧
      offsetMapped (pktAddr x06x24 * 16) = false) ∧
    (s06x25.inService = true ∧ s06x25.dev.arrived 2 = some (3, 0, wk_06) ∧ s06x25.dev.computeResetting = false ∧
      offsetMapped (pktAddr wk_06 * 16) = true ∧ s06x25.dev.suspendedAt (pktAddr wk_06 * 16) = false ∧ s06x25.dev.noLand wk_06 = false ∧
      2 ≤ wk_06.length ∧ pktAddr wk_06 * 16 % 4096 + (slotBytes (wk_06.drop 1)).length ≤ 4096 ∧
      ((s06x25.quiet.dev.consume 3 0 wk_06).inject 1 none none).2 = none ∧ s06x25.dev.badReads = [] ∧
      ok_06 s06x25.dev (pktAddr wk_06 * 16) = (true, false)) ∧
    (s06x27.inService = true ∧ s06x27.dev.contribs.head? = some (3, 0, x06x28) ∧ s06x27.dev.computeResetting = true) ∧
    (∀ k ∈ [x06x64, x06x65], (s06x64 k).inService = true ∧ (s06x64 k).dev.contribs.head? = some (3, 0, k) ∧
      (s06x64 k).dev.computeResetting = false ∧ (s06x64 k).dev.resetting (pktPart k) = false ∧ (s06x64 k).dev.formed (pktPart k) = true ∧
      (s06x64 k).dev.ctxState (pktPart k) = 1 ∧ (s06x64 k).dev.table (pktPart k) (pktAddr k % 2 ^ 32) = some tb_06 ∧
      tb_06.graph = false ∧ tb_06.current ≠ 0 ∧ bitsOf (k.getD 1 0).toNat 47 0 = 3 ∧ 3 < tb_06.n ∧
      (tb_06.unitAt tb_06.current (tb_06.unitOfRow 3)).valid = true ∧
      (tb_06.unitAt tb_06.current (tb_06.unitOfRow 3)).owner = (s06x64 k).dev.chip ∧ (s06x64 k).dev.noLand k = false) ∧
    ((s06x64 x06x64).quiet.dev.appendPart 0 5 tb_06 3 9 7 0 [1]).2 = true ∧
    ((s06x64 x06x65).quiet.dev.addArrival 0 5 tb_06 { chip := 9, row := 3 } 0 [1]).2 = true ∧
    (bitOf (pktAddr x06x64) 32 = false ∧ bitOf (pktAddr x06x65) 32 = true) ∧
    (s06x66.inService = true ∧ s06x66.dev.arrived 4 = some (3, 0, x06x30) ∧ s06x66.dev.computeResetting = true) ∧
    (s06x59.inService = true ∧ s06x59.dev.arrived 4 = some (3, 0, x06x30) ∧ s06x59.dev.resetting (pktPart x06x30) = false ∧
      s06x59.dev.computeResetting = false ∧ pktFlow x06x30 = none) ∧
    (s06x29.inService = true ∧ s06x29.dev.arrived 4 = some (3, 0, x06x30) ∧ s06x29.dev.resetting (pktPart x06x30) = false ∧
      s06x29.dev.computeResetting = false ∧ s06x29.dev.formed (pktPart x06x30) = false) ∧
    (s06x31.dev.resetting (pktPart x06x32) = false ∧ s06x31.dev.computeResetting = false ∧
      s06x60.dev.resetting (pktPart x06x32) = false ∧ s06x60.dev.computeResetting = false) ∧
    (s06x31.inService = true ∧ s06x31.dev.arrived 4 = some (3, 0, x06x32) ∧ pktFlow x06x32 = some 6 ∧ sigBits x06x32 95 64 ≠ 0 ∧
      s06x31.dev.noLand x06x32 = false ∧
      ((s06x31.dev.land (countingDie 6)).find? fun e => e.is (pktSrc x06x32) (pktDie x06x32) 6 && e.lost == 0) = none) ∧
    (s06x60.inService = true ∧ s06x60.dev.arrived 4 = some (3, 0, x06x32) ∧ s06x60.dev.noLand x06x32 = false ∧
      ((s06x60.dev.land (countingDie 6)).find? fun e => e.is (pktSrc x06x32) (pktDie x06x32) 6 && e.lost == 0) = some le_06 ∧
      le_06.count < sigBits x06x32 95 64) ∧
    (s06x33.inService = true ∧ s06x33.dev.arrived 5 = some (3, 0, x06x34) ∧ s06x33.dev.computeResetting = true) ∧
    (s06x35.inService = true ∧ s06x35.dev.arrived 5 = some (3, 0, x06x36) ∧ s06x35.dev.computeResetting = false ∧
      s06x35.dev.resetting (8 % 8) = false) ∧
    (s06x37.inService = true ∧ s06x37.dev.nextPacket s06x37.dev.misrouted = some (3, 0, mk'_06)) ∧
    (s06x38.inService = true ∧ s06x38.dev.nextPacket s06x38.dev.misrouted = some (3, 0, mk3_06)) := by
  and_intros <;> decide +kernel

theorem witNoLand (d : Device) (k : Packet) (i : Nat) (hf : pktFlow k = some 6) (hs : pktSrc k = i) (hd : pktDie k = 1)
    (h : d.landRoom 2 i 1 6 = false) : d.noLand k = true := by
  simp [Device.noLand, hf, hs, hd, show countingDie 6 = 2 from rfl, h]

theorem witRefuses (n i j : Nat) (hi : i < 2049) (hj : j < n) (hij : j ≠ i) (hs : Config.landSet j 1 6 = Config.landSet i 1 6) (t : Nat)
    (ht : t = 2 ∨ t = 4) : ∃ d : Device, (witOf d).inService = true ∧
    d.arrived t = some (3, 0, lk_06 t i) ∧ pktFlow (lk_06 t i) = some 6 ∧ d.noLand (lk_06 t i) = true ∧
    sigBits (lk_06 t i) 95 64 ≠ 0 ∧ d.resetting (pktPart (lk_06 t i)) = false ∧ d.computeResetting = false ∧ offsetMapped (pktAddr (lk_06 t i) * 16) = true ∧
    d.suspendedAt (pktAddr (lk_06 t i) * 16) = false := by
  refine ⟨le_dev (lk_06 t i) (le8_06 n i), ?_⟩
  have hw : ∀ f : Nat → Nat, (f ((lk_06 t i).headD 0).toNat) = f (t * 2 ^ 124 + i % 2 ^ 14 * 2 ^ 96 + 2 ^ 94 + 2 * 2 ^ 89 + 77 * 2 ^ 72 +
      2 ^ 64 + 6 * 2 ^ 52 + 0x102) := fun f => congrArg f (by
    simp only [lk_06, pk_06, pktHeader, List.headD_cons, BitVec.toNat_ofNat, List.length_cons, List.length_nil]
    omega)
  have hb : ∀ hi lo, hbits (lk_06 t i) hi lo = bitsOf (t * 2 ^ 124 + i % 2 ^ 14 * 2 ^ 96 + 2 ^ 94 + 2 * 2 ^ 89 + 77 * 2 ^ 72 +
      2 ^ 64 + 6 * 2 ^ 52 + 0x102) hi lo := fun hi lo => hw fun w => bitsOf w hi lo
  have h1 : pktType (lk_06 t i) = t := by simp only [pktType, hb, bitsOf, Nat.shiftRight_eq_div_pow]; omega
  have h2 : pktDest (lk_06 t i) = 0 := by simp only [pktDest, hb, bitsOf, Nat.shiftRight_eq_div_pow]; omega
  have h3 : pktSrc (lk_06 t i) = i := by simp only [pktSrc, hb, bitsOf, Nat.shiftRight_eq_div_pow]; omega
  have h4 : pktDie (lk_06 t i) = 1 := by simp only [pktDie, hb, bitsOf, Nat.shiftRight_eq_div_pow]; omega
  have h5 : pktAddr (lk_06 t i) = 0x102 := by simp only [pktAddr, hb, bitsOf, Nat.shiftRight_eq_div_pow]; omega
  have h6 : pktFlow (lk_06 t i) = some 6 := by
    have a : hbits (lk_06 t i) 64 64 = 1 := by simp only [hb, bitsOf, Nat.shiftRight_eq_div_pow]; omega
    have b : hbits (lk_06 t i) 63 52 = 6 := by simp only [hb, bitsOf, Nat.shiftRight_eq_div_pow]; omega
    simp [pktFlow, a, b]
  obtain ⟨ha, hin, hl⟩ := witArrived (lk_06 t i) (le8_06 n i) t ht h1 h2
  refine ⟨hin, ha, h6, ?_, ?_, ?_, ?_, ?_, ?_⟩
  · have h7 := witLand _ n i j hj hij hs hl
    exact witNoLand _ _ _ h6 h3 h4 h7
  · simp [sigBits, lk_06, pk_06, bitsOf]
  · have h8 : pktPart (lk_06 t i) = 0 := by simp only [pktPart, hb, bitsOf, Nat.shiftRight_eq_div_pow]; omega
    have h9 : ∀ (d : Device) ps ls, ({d with ports := ps, landing := ls} : Device).resetting 0 = d.resetting 0 := fun _ _ _ => by
      simp only [Device.resetting, Device.ctxState, Device.fld, Device.reg]
    rw [h8, le_dev, h9]
    decide +kernel
  · simp [Device.computeResetting, le_dev, show ld_06.resets = [] from by decide +kernel]
  · rw [h5]; decide
  · simp [Device.suspendedAt, Device.unitAtOffset, le_dev, show ld_06.parts = [] from by decide +kernel, show List.range 8 = [0, 1, 2, 3, 4, 5, 6, 7] from rfl, Device.part, SMap.at', SMap.get]

theorem test_witness_LandingRefuses : ∃ i : Nat, ∀ t, t = 2 ∨ t = 4 → ∃ d : Device, (witOf d).inService = true ∧
    d.arrived t = some (3, 0, lk_06 t i) ∧ pktFlow (lk_06 t i) = some 6 ∧ d.noLand (lk_06 t i) = true ∧
    sigBits (lk_06 t i) 95 64 ≠ 0 ∧ d.resetting (pktPart (lk_06 t i)) = false ∧ d.computeResetting = false ∧ offsetMapped (pktAddr (lk_06 t i) * 16) = true ∧
    d.suspendedAt (pktAddr (lk_06 t i) * 16) = false := by
  obtain ⟨i, j, hne, h⟩ := Fintype.exists_ne_map_eq_of_card_lt (fun i : Fin 2049 => (Config.landSet i 1 6).toFin) (by simp)
  exact ⟨i, fun t ht => witRefuses 2049 i j i.isLt j.isLt (fun e => hne (Fin.ext e.symm)) (BitVec.toFin_inj.mp h).symm t ht⟩

theorem test_witness_RequestsEnd :
    (s06x39.inService = true ∧ s06x39.dev.arrived 8 = some (3, 1, x06x40) ∧
      s06x39.dev.reqByTag (pktDie x06x40) (pktTag x06x40) = none) ∧
    (∀ x ∈ s06x39.dev.reqs, ∀ r : Request, x.2 = some r → r.die = pktDie x06x40 → r.tag.isSome = true ∨ r.status.isSome = true) ∧
    (∀ y ∈ [(s06x41, x06x42, 10), (s06x61, x06x61, 0)], y.1.inService = true ∧ y.1.dev.arrived 8 = some (3, 1, y.2.1) ∧
      y.1.dev.reqByTag (pktDie y.2.1) (pktTag y.2.1) = some (4, x06x43) ∧
      ((y.1.quiet.dev.consume 3 1 y.2.1).inject 5 (some x06x43.die) (if x06x43.part < 8 then some x06x43.part else none)).2 = none ∧
      pktStatus y.2.1 = y.2.2 ∧
      ∀ x ∈ y.1.dev.reqs, ∀ r : Request, x.2 = some r → r.die = pktDie y.2.1 → r.tag.isSome = true ∨ r.status.isSome = true) ∧
    (pktType x06x43.pkt = 1 ∧ x06x43.part ≠ 0xFF ∧ x06x43.got = [] ∧ x06x61.length = pktRdlen x06x43.pkt + 2) ∧
    (∀ y ∈ [(s06x45, x06x46, 5), (s06x62, x06x62, 0)], y.1.inService = true ∧ y.1.dev.arrived 9 = some (3, 1, y.2.1) ∧
      y.1.dev.reqByTag (pktDie y.2.1) (pktTag y.2.1) = some (4, x06x47) ∧
      ((y.1.quiet.dev.consume 3 1 y.2.1).inject 5 (some x06x47.die) (some x06x47.part)).2 = none ∧ pktStatus y.2.1 = y.2.2 ∧
      ∀ x ∈ y.1.dev.reqs, ∀ r : Request, x.2 = some r → r.die = x06x47.die → r.tag.isSome = true ∨ r.status.isSome = true) ∧
    (pktType x06x47.pkt ≠ 1 ∧ x06x47.part < 8 ∧ ∃ x ∈ s06x62.dev.cmdReqs x06x47.part x06x47.q x06x47.idx, x.1 ≠ 4) ∧
    (s06x49.inService = true ∧ s06x49.dev.reqByTag 1 77 = some (4, x06x50) ∧ x06x50.retry = true ∧
      s06x49.dev.cmd? x06x50.part x06x50.q x06x50.idx = some c06x50 ∧ c06x50.parked = none ∧
      ((s06x49.quiet.dev.withIo {}).rereadPkt x06x50 c06x50).2.toOption.isSome = true) ∧
    (s06x51.inService = true ∧ s06x51.dev.reqByTag 1 77 = some (4, x06x52) ∧ x06x52.held = true ∧ pktType x06x52.pkt = 1 ∧
      x06x52.part ≠ 0xFF ∧ ∀ x ∈ s06x51.dev.reqs, ∀ r : Request, x.2 = some r → r.die = 1 → r.tag.isSome = true) ∧
    (s06x53.inService = true ∧ s06x53.dev.reqByTag 1 77 = some (4, x06x43) ∧ x06x43.held = false) ∧
    (s06x54.inService = true ∧ 1 < 4 ∧ ((s06x54.dev.land 1).find? fun e => e.is 3 2 9) = some le6_06 ∧ le6_06.signal = some x06x55) ∧
    (s06x54.dev.reqs = [] ∧ s06x54.dev.heldReads = [] ∧ s06x54.dev.cores = []) ∧
    (s06x63.inService = true ∧ s06x63.dev.heldReads = [] ∧ s06x63.dev.cores = [] ∧ s06x63.dev.reqs = [(4, some x06x63)] ∧
      x06x63.tag = none ∧ x06x63.status = none ∧ s06x63.dev.threadHeld x06x63 = false ∧
      s06x63.dev.freeTag x06x63.die (pktDest x06x63.pkt) = some 0) ∧
    s06x56.inService = true := by
  and_intros <;> decide +kernel

/-! ### Chapter file 07 -/

def s07x1 : State := (witOf witDev)
def cq7_07 (st : Nat) (f : Device → Device := id) : State := witOf (f (((({witDev with link := (32, 4)}.setFld (.hifCqCfg 0 2) Fd.hifCqCfgEnable 1).setFld
  (.hifCqCfg 0 2) Fd.hifCqCfgSizeLog2 6).setFld (.hifCqStatus 0 2) Fd.hifCqStatusState st).setFld (.hifCqStatus 0 2) Fd.hifCqStatusTail
  5))
def s07x2 : State := (cq7_07 1)
def x07x3 : List Host.Cell := [(1024+16,5),(1024+20,3)]
def s07x4 : State := (cq7_07 2 fun d => d.setCq 0 2 {waiting := [{typ := 0, status := 0, queue := 1, index := 2, value := 3}]})
def x07x5 : List Host.Cell := [(1024+16,6),(1024+20,3)]
def s07x6 : State := (cq7_07 2)
def s07x7 : State := (cq7_07 1 fun d => d.setCq 0 2 {armRead := 1})
def hb_07 (st : Nat) : State := cq7_07 st fun d => ((d.setFld (.hifPartCtrl 0) Fd.hifPartCtrlEnable 1).setFld (.hifPartCtrl 0)
  Fd.hifPartCtrlHbCq 2).setFld (.hifSqStatus 0 5) Fd.hifSqStatusState 1
def s07x8 : State := (hb_07 1)
def s07x9 : State := (hb_07 2)
def sq7_07 (st : Nat) (f : Device → Device := id) : State := witOf (f ((((({witDev with link := (32, 4)}.setFld (.hifSqCfg 0 5) Fd.hifSqCfgEnable 1).setFld
  (.hifSqCfg 0 5) Fd.hifSqCfgSizeLog2 6).setFld (.hifSqStatus 0 5) Fd.hifSqStatusState st).setFld (.hifSqStatus 0 5)
  Fd.hifSqStatusConsumed 0xFFFFFFFF).setFld (.hifPartCtrl 0) Fd.hifPartCtrlEnable 1))
def s07x10 : State := (sq7_07 1)
def x07x11 : List Host.Cell := [(40,1)]
def x07x12 : List Host.Cell := [(40,64)]
def s07x13 : State := (sq7_07 1 fun d => d.setSq 0 5 {seen := 0})
def x07x14 : List Host.Cell := [(0x107,0)]
def s07x15 : State := (sq7_07 1 fun d => d.setSq 0 5 {seen := 0xFFFFFFFF})
def s07x16 : State := (sq7_07 1 fun d => d.setSq 0 5 {seen := 0xFFFFFFFF, checking := true})
def x07x17 : List Host.Cell := [(40,0xFF),(41,0xFF),(42,0xFF),(43,0xFF)]
def s07x18 : State := (sq7_07 2)
def pc7_07 : Cmd := {witCmd 0x20 [] with begun := true, unit := 3}
def s07x19 : State := (witRun pc7_07)
def s07x20 : State := (witOf {witDev with msixPending := [(vecKey 0 3, true)], ptmOn := true})
def s07x21 : State := (cq7_07 1 fun d => {d.setCq 0 2 {armRead := 1} with unmasked := [(vecKey 0 0, true)]})

theorem test_witness_HostPortServes :
    (s07x20.running = true ∧ (s07x20.dev.errEnabled 8 = false ∧ ∀ p, p < 8 → ∀ c, c < 64 → s07x20.dev.flag (.hifCqCfg p c) Fd.hifCqCfgEnable = false) ∧ 8 ≤ 8 ∧ s07x20.dev.ptmOn = true ∧ 0 ≤ s07x20.dev.vfs ∧ vectorOk 0 3 = true ∧ 255 < 256 ∧ 63 < 64) ∧
    (∀ s ∈ [s07x2, s07x4, s07x6, s07x7, s07x21, s07x8, s07x9], s.dev.linkOk = true) ∧
    (s07x2.inService = true ∧ s07x2.dev.flag (.hifCqCfg 0 2) Fd.hifCqCfgEnable = true ∧
      (fieldOf ((s07x2.quiet.dev.hostStores x07x3).hostWord (s07x2.dev.wordPage 0 + 1024 + 8 * 2)) 31 0 + 4294967296 -
        (s07x2.dev.cq 0 2).head) % 4294967296 ≤ s07x2.dev.cqUsed 0 2) ∧
    (s07x4.inService = true ∧ s07x4.dev.flag (.hifCqCfg 0 2) Fd.hifCqCfgEnable = true ∧
      (fieldOf ((s07x4.quiet.dev.hostStores x07x3).hostWord (s07x4.dev.wordPage 0 + 1024 + 8 * 2)) 31 0 + 4294967296 -
        (s07x4.dev.cq 0 2).head) % 4294967296 ≤ s07x4.dev.cqUsed 0 2) ∧
    ((s07x2.dev.cq 0 2).headLogged = false ∧ s07x2.dev.cqUsed 0 2 < (fieldOf ((s07x2.quiet.dev.hostStores x07x5).hostWord
      (s07x2.dev.wordPage 0 + 1024 + 8 * 2)) 31 0 + 4294967296 - (s07x2.dev.cq 0 2).head) % 4294967296) ∧
    (s07x6.inService = true ∧ s07x6.dev.fld (.hifCqStatus 0 2) Fd.hifCqStatusState = 2 ∧ (s07x6.dev.cq 0 2).fullLogged = false) ∧
    (∀ y ∈ [(s07x7, false), (s07x21, true)], y.1.inService = true ∧ y.1.dev.flag (.hifCqCfg 0 2) Fd.hifCqCfgEnable = true ∧
      (y.1.dev.cq 0 2).armRead ≠ (y.1.dev.cq 0 2).armServed ∧ 1 ≤ y.1.dev.cqUsed 0 2 ∧ SMap.get (fun _ => false) y.1.dev.unmasked
        (vecKey (y.1.dev.ownerOf 0) (y.1.dev.fld (.hifCqCfg 0 2) Fd.hifCqCfgVector)) = y.2) ∧
    (s07x8.inService = true ∧ s07x8.dev.partActive 0 = true ∧ 2 = s07x8.dev.fld (.hifPartCtrl 0) Fd.hifPartCtrlHbCq ∧
      s07x8.dev.fld (.hifCqStatus 0 2) Fd.hifCqStatusState = 1) ∧
    (s07x9.inService = true ∧ s07x9.dev.partActive 0 = true ∧
      s07x9.dev.fld (.hifCqStatus 0 (s07x9.dev.fld (.hifPartCtrl 0) Fd.hifPartCtrlHbCq)) Fd.hifCqStatusState ≠ 1) := by
  and_intros <;> decide +kernel

theorem test_witness_RingsFetchAndSleep :
    (s07x10.inService = true ∧ 0 < 8 ∧ 5 < 64 ∧ ((List.range 8).map fun i => 8 * 0 + i).filter (fun r => s07x10.dev.sqState 0 r == 1) = [5] ∧
      s07x10.dev.served 0 = true) ∧
    ((s07x10.quiet.dev.hostStores x07x11).producer 0 5 + 4294967296 - (s07x10.quiet.dev.hostStores x07x11).consumed 0 5) % 4294967296 ≤
      2 ^ (s07x10.quiet.dev.hostStores x07x11).fld (.hifSqCfg 0 5) Fd.hifSqCfgSizeLog2 ∧
    2 ^ (s07x10.quiet.dev.hostStores x07x12).fld (.hifSqCfg 0 5) Fd.hifSqCfgSizeLog2 <
      ((s07x10.quiet.dev.hostStores x07x12).producer 0 5 + 4294967296 - (s07x10.quiet.dev.hostStores x07x12).consumed 0 5) % 4294967296 ∧
    (s07x13.inService = true ∧ s07x13.dev.sqState 0 5 = 1 ∧ s07x13.dev.served 0 = true ∧ s07x13.dev.ctxState 0 ≠ 5 ∧
      (s07x13.dev.sq 0 5).checking = false ∧ s07x13.dev.runLength 0 5 = 1 ∧ s07x13.dev.queue 0 5 = []) ∧
    (let e := s07x13.quiet.dev.hostStores x07x14
      let x := e.descAt (e.fld (.hifSqBase 0 5) Fd.hifSqBaseAddr * 4096 + 64 * (e.consumed 0 5 % 2 ^ e.fld (.hifSqCfg 0 5) Fd.hifSqCfgSizeLog2))
      e.decodeFault 0 x = none ∧ waitOpOf x = 0) ∧
    (s07x15.inService = true ∧ s07x15.dev.sqState 0 5 = 1 ∧ s07x15.dev.served 0 = true ∧ (s07x15.dev.sq 0 5).checking = false) ∧
    (s07x16.inService = true ∧ s07x16.dev.sqState 0 5 = 1 ∧ s07x16.dev.linkOk = true ∧ (s07x16.dev.sq 0 5).checking = true ∧
      (s07x16.quiet.dev.hostStores x07x17).producer 0 5 = s07x16.dev.consumed 0 5 ∧
      (s07x16.quiet.dev.hostStores x07x11).producer 0 5 ≠ s07x16.dev.consumed 0 5 ∧
      ((s07x16.quiet.dev.hostStores x07x11).producer 0 5 + 4294967296 - (s07x16.quiet.dev.hostStores x07x11).consumed 0 5) % 4294967296 ≤
        2 ^ (s07x16.quiet.dev.hostStores x07x11).fld (.hifSqCfg 0 5) Fd.hifSqCfgSizeLog2) ∧
    (s07x18.inService = true ∧ s07x18.dev.linkOk = true ∧ s07x10.dev.linkOk = true ∧ bar2Ring 0 20480 = some (0, 5) ∧ 0 ≤ s07x18.dev.vfs ∧ s07x18.dev.sqState 0 5 = 2 ∧
      ((s07x18.quiet.dev.hostStores x07x17).producer 0 5 + 4294967296 - (s07x18.quiet.dev.hostStores x07x17).consumed 0 5) % 4294967296 ≤
        2 ^ (s07x18.quiet.dev.hostStores x07x17).fld (.hifSqCfg 0 5) Fd.hifSqCfgSizeLog2 ∧ s07x18.dev.served 0 = true) ∧
    s07x10.dev.sqState 0 5 ≠ 2 ∧
    (s07x19.inService = true ∧ s07x19.dev.cmd? 0 0 0 = some pc7_07 ∧ pc7_07.st = .running ∧ pc7_07.begun = true ∧ pc7_07.worked = false ∧
      pc7_07.parked = none ∧ s07x19.dev.stopped (s07x19.dev.workDie 0 pc7_07.unit) = false) := by
  and_intros <;> decide +kernel

/-! ### Chapter file 08 -/

def f4_08 : State := witOf (({witDev with flows := [(2,{items := [{seq := 1, completed := true}]})]}.setFld (.synFlowCfg 0 2)
  Fd.synFlowCfgOpen 1).setFld (.synFlowStatus 0 2) Fd.synFlowStatusState 1)
def r8_08 (f : Device → Device := id) : State := witOf (f (({witDev with link := (32, 4)}.setFld (.hifPartCtrl 0)
  Fd.hifPartCtrlEnable 1).setFld (.hifSqBase 0 5) Fd.hifSqBaseAddr 256 |>.setFld (.hifCqBase 0 5)
  Fd.hifCqBaseAddr 512 |>.setFld (errBaseReg 0) Fd.hifErrBaseAddr 777))
def x08x1 : List Host.Cell := [(512+40,9)]
def s08x2 : State := (r8_08 fun d => d.setFld (.hifPartCtrl 0) Fd.hifPartCtrlEnable 0)
def s08x3 : State := (r8_08 fun d => {d with vfs := 8})
def s08x4 : State := (r8_08 fun d => d.setFld (.hifSqStatus 0 5) Fd.hifSqStatusState 3)
def s08x5 : State := (r8_08 fun d => (d.setFld (.hifCqCfg 0 5) Fd.hifCqCfgEnable 1).setCq 0 5
  {waiting := [{typ := 0, status := 0, queue := 1, index := 2, value := 3}], head := 4})
def x08x6 : Nat := (Reg.memQuota).offset
def x08x7 : Reg := .memQuota
def x08x8 : Nat := (Reg.cmdPmemAddr).offset
def x08x9 : Reg := .cmdPmemAddr
def x08x10 : Nat := (Reg.hifPoll).offset
def x08x11 : Reg := .hifPoll
def x08x12 : Nat := (Reg.bootPushList).offset
def x08x13 : Reg := .bootPushList
def s08x14 : State := (r8_08 fun d => d.setFld .tstStatus Fd.tstStatusUnlocked 2)
def s08x15 : State := (r8_08 fun d => d.setFld .tstStatus Fd.tstStatusUnlocked 5)
def s08x16 : State := (r8_08 fun d => d.setFld .tstStatus Fd.tstStatusUnlocked 3)
def s08x17 : State := (r8_08 fun d => d.setFld .tstStatus Fd.tstStatusUnlocked 4)
def s08x18 : State := (r8_08 fun d => d.setFld .tstStatus Fd.tstStatusUnlocked 1)
def x08x19 : Nat := (Reg.tstSeed).offset
def s08x20 : State := (r8_08 fun d =>
  {d.setFld .tstStatus Fd.tstStatusUnlocked 1 |>.setFld (.tstInject 2) Fd.tstInjectKind 3 with injectors := [(2,{seen := 3})]})
def s08x21 : State := (witOf {witDev with flows := [(7,{items := [{seq := 1, completed := true}]})]})
def s08x22 : State := (witOf (witDev.setFld (.synFlowStatus 0 2) Fd.synFlowStatusState 1))
def s08x23 : State := (witOf {witDev with objs := [(5,{value := 7, lastSrc := 9, lastIndex := 11, waiters := [⟨true,0,0,0,1,5,true⟩]})]})
def cc8_08 : State := witOf ([(Reg.mxaSatCount 3),.mxaRepeats 3,.vecSatCount 3,.vecPasses 3,.smpDraws 3,.smpSlots 3,.smpErrors 3,.gthRows
  3,.gthServed 3,.gthContrib 3,.gthErrors 3,.cisSpilled 3,.sprGroups 3,.sprStatus 3,.updRows 3,.updStatus 3].foldl (fun (d:Device) r =>
  d.setReg r 0xFFFFFFFFFFFFFFFF) {witDev with groupsKept := [(3,5)], groupsDropped := [(3,7)]})
def s08x24 : State := (r8_08 fun d => (d.setFld .bootStatus Fd.bootStatusState 0).setFld .bootStatus Fd.bootStatusStage 4)
def s08x25 : State := (r8_08 fun d => d.setFld .tstStatus Fd.tstStatusUnlocked 4)
def s08x26 : State := (r8_08 fun d => d.setFld .bootStatus Fd.bootStatusState 2)

theorem test_witness_RingsEnableAndDisable :
    (r8_08.inService = true ∧ 0 < 8 ∧ 5 < 64 ∧ r8_08.dev.hasFn 0 = true ∧ 0 = r8_08.dev.ownerOf 0 ∧ r8_08.dev.sqState 0 5 = 0) ∧
    (∀ y ∈ [(r8_08, 6, none), (r8_08, 5, some 3), (s08x2, 6, some 2)],
      let e := (y.1.quiet.dev.hostStores x08x1).writeBut (.hifSqCfg 0 5) Fd.hifSqCfgEnable (withField (wordOf y.2.1) 8 8 1)
      let size := e.fld (.hifSqCfg 0 5) Fd.hifSqCfgSizeLog2
      y.1.inService = true ∧ y.1.dev.hasFn 0 = true ∧ y.1.dev.sqState 0 5 = 0 ∧ e.enableFault (some 0) (decide (6 ≤ size ∧ size ≤ 16))
        (e.fld (.hifSqBase 0 5) Fd.hifSqBaseAddr * 4096) (64 * 2 ^ size) none = y.2.2) ∧
    (s08x3.inService = true ∧ s08x3.dev.hasFn 1 = true ∧ (1 = 0 ∨ 1 = 0 + 1) ∧ 1 ≠ s08x3.dev.ownerOf 0) ∧
    (s08x4.inService = true ∧ s08x4.dev.hasFn 0 = true ∧ 0 = s08x4.dev.ownerOf 0 ∧ s08x4.dev.sqState 0 5 ≠ 0) ∧
    (r8_08.dev.flag (.hifCqCfg 0 5) Fd.hifCqCfgEnable = false ∧ (r8_08.dev.cq 0 5).waiting = [] ∧
      let e := r8_08.quiet.dev.writeBut (.hifCqCfg 0 5) Fd.hifCqCfgEnable (withField 16 8 8 1)
      let size := e.fld (.hifCqCfg 0 5) Fd.hifCqCfgSizeLog2
      e.enableFault (some 0) (decide (6 ≤ size ∧ size ≤ 16)) (e.fld (.hifCqBase 0 5) Fd.hifCqBaseAddr * 4096) (32 * 2 ^ size)
        (some (e.fld (.hifCqCfg 0 5) Fd.hifCqCfgVector)) = none) ∧
    (s08x5.inService = true ∧ s08x5.dev.hasFn 0 = true ∧ 0 = s08x5.dev.ownerOf 0 ∧ s08x5.dev.flag (.hifCqCfg 0 5) Fd.hifCqCfgEnable = true) ∧
    (r8_08.dev.errEnabled 0 = false ∧
      let e := (r8_08.quiet.dev.hostStores []).writeBut (errCfgReg 0) Fd.hifErrCfgEnable (withField 6 16 16 1)
      let size := e.fld (errCfgReg 0) Fd.hifErrCfgSizeLog2
      e.enableFault (some 0) (decide (6 ≤ size ∧ size ≤ 12)) (e.errBase 0) (64 * 2 ^ size)
        (some (e.fld (errCfgReg 0) Fd.hifErrCfgVector)) = none) ∧
    (r8_08.dev.errEnabled 8 = false ∧ (∀ h ∈ r8_08.dev.hist, h.waiting = false) ∧
      let e := (r8_08.quiet.dev.hostStores []).writeBut .hifModErrCfg Fd.hifErrCfgEnable (withField 6 16 16 1)
      let size := e.fld .hifModErrCfg Fd.hifErrCfgSizeLog2
      e.enableFault none (decide (6 ≤ size ∧ size ≤ 12)) (e.errBase 8) (64 * 2 ^ size) none = none) := by
  and_intros <;> decide +kernel

theorem test_witness_RegisterWritesAndDebug :
    r8_08.answering = true ∧
    (∀ y ∈ [(x08x6, x08x7), (x08x8, x08x9), (x08x10, x08x11), (x08x12, x08x13)], y.1 % 8 = 0 ∧ r8_08.dev.regAt 0 y.1 = some y.2 ∧
      y.2 ∈ plainRegs) ∧
    (∀ x ∈ plainRegs, s08x25.dev.regAt 0 x.offset = some x ∧ x.offset % 8 = 0) ∧ s08x25.serves = true ∧
    (4 % 8 ≠ 0 ∧ 15 % 8 ≠ 0) ∧
    (s08x24.answering = true ∧ s08x24.dev.ready = false ∧ fieldOf 0x100000000000000 58 56 = 1 ∧ fieldOf 0x500000000000000 58 56 = 5) ∧
    (0x3fffff8 % 8 = 0 ∧ r8_08.dev.ready = true ∧ r8_08.dev.regAt 0 0x3fffff8 = none) ∧
    (s08x14.serves = true ∧ bitOf (s08x14.dev.fld .tstStatus Fd.tstStatusUnlocked) 1 = true) ∧
    (s08x15.serves = true ∧ bitOf (s08x15.dev.fld .tstStatus Fd.tstStatusUnlocked) 1 = false) ∧
    (s08x16.serves = true ∧ bitOf (s08x16.dev.fld .tstStatus Fd.tstStatusUnlocked) 2 = false) ∧
    (s08x17.serves = true ∧ bitOf (s08x17.dev.fld .tstStatus Fd.tstStatusUnlocked) 2 = true ∧
      s08x17.dev.regAt 0 x08x6 = some .memQuota) ∧
    (s08x18.answering = true ∧ s08x18.dev.ready = true ∧ Reg.tstSeed ∈ tstRegs ∧ x08x19 = Reg.tstSeed.offset ∧ s08x18.dev.perturbs = true) ∧
    r8_08.dev.perturbs = false ∧ s08x20.serves = true ∧ (s08x26.answering = true ∧ s08x26.serves = false) := by
  and_intros <;> decide +kernel

theorem test_witness_FlowsDebugAndClearCounts :
    (s08x21.inService = true ∧ 0 < 8 ∧ 7 < 1024 ∧ s08x21.dev.flowState 0 7 = 0 ∧ s08x21.dev.syncOf 0 (fieldOf 1023 16 0) = some 1023) ∧
    (∀ s ∈ [f4_08, s08x22], s.inService = true ∧ s.dev.flowState 0 2 = 1 ∧ (∀ q < 64, s.dev.waitingCmd 0 q = none) ∧
      ∀ c < 256, s.dev.corePart c = 0 → s.dev.heldItem c = none) ∧
    s08x23.inService = true ∧ cc8_08.inService = true := by
  and_intros <;> decide +kernel

/-! ### Chapter file 09 -/

def r9_09 (f : Device → Device := id) : State := witOf (f
  {witDev with queues := [(0,[witCmd 0 []])], vfs := 8, mem := [(5,1)], cores := [(3,{st := .running, pc := 4})]})
def r9b_09 (scope target : Nat) : State := witOf
  {witDev with mem := [(5,1)], cores := [(2,{pc := 9}),(3,{st := .running, pc := 4, job := some (0,0,0), loops := [⟨0,1,2⟩]})], resets := [{scope := scope, target := target, byReg := true}]}

theorem test_witness_ResetsBeginAndEnd :
    (r9_09.inService = true ∧ r9_09.answering = true ∧ r9_09.dev.resets = [] ∧ 0 < 8 ∧ r9_09.dev.formed 0 = true ∧
      (r9_09.dev.part 0).switch = none ∧ 0 + 1 ≤ r9_09.dev.vfs) ∧
    r9_09.dev.formedParts.all (fun p => (r9_09.dev.part p).switch.isNone) = true ∧
    (15 < 256 ∧ r9_09.dev.formed (r9_09.dev.corePart 15) = true ∧ r9_09.dev.ctxState (r9_09.dev.corePart 15) = 1) ∧
    (1 < 32 ∧ r9_09.dev.formed (SMap.at' 0xFF r9_09.dev.layout 1) = true ∧ r9_09.dev.ctxState (SMap.at' 0xFF r9_09.dev.layout 1) = 1) ∧
    (r9_09.dev.formed 1 = false ∧ r9_09.dev.formed 9 = false) ∧
    ((r9b_09 1 3).inService = true ∧ (r9b_09 1 3).dev.domState 3 = 2 ∧
      (r9b_09 1 3).dev.resets = [{ scope := 1, target := 3, byReg := true }] ∧
      (∀ q < 64, (r9b_09 1 3).dev.queue ((r9b_09 1 3).dev.corePart 3) q = []) ∧ ((r9b_09 1 3).dev.core 3).aq = [] ∧
      ((r9b_09 1 3).dev.core 3).vq = []) ∧
    ((r9b_09 3 0).inService = true ∧ (r9b_09 3 0).dev.resets = [{ scope := 3, target := 0, byReg := true }] ∧
      (r9b_09 3 0).dev.mgmt.held = false) := by
  and_intros <;> decide +kernel

/-! ### Chapter file 10 -/

def fi_10 : Cmd := witCmd 0x21 [0,0,0,0x200040,0x1122334455667788,3*2^32]
def cp_10 : Cmd := witCmd 0x20 [0,0,0,0x200000,0x1000,1*2^32]
def cpt_10 : Cmd := witCmd 0x20 [0,0,0,0x200000,0x202000,1*2^32+2^31]
def ex_10 : Cmd := witCmd 0x23 [0,0,0,0x200000,0x202000,1*2^32]
def noTlb_10 (c : Cmd) : State := let s := witRun c; {s with dev := {s.dev with tlb := []}}
def badM_10 (c : Cmd) : State := let s := witRun c; {s with dev := {s.dev with mem := [(0x200000,1)], side := [(0x200000/64,1)]}}
def s10x1 : State := (witRun fi_10)
def s10x4 : State := (witRun cp_10)
def s10x7 : State := (witRun cpt_10)
def s10x12 : State := (witRun ex_10)
def s10x15 : State := (noTlb_10 ex_10)
def s10x17 : State := (noTlb_10 fi_10)
def s10x19 : State := (badM_10 ex_10)
def w10_10 (f : Device → Device := id) : State := witOf (f {witDev with vfs := 8})
def s10x21 : State := (witOf (witDev.setFld .bootStatus Fd.bootStatusState 0))
def wu_10 (s : State) : MemUser := { part := 8, cls := fieldOf (Config.freeWord s.dev.free) 7 0 }
def x10x24 : List Byte := [1,2,3]
def pk10_10 (op : Nat) (f : Device → Device := id) : State := witOf (f
  ({witPut witDev {witCmd op [0,0,0,0x200000,0x202000,1*2^32] with parked := some 0, handle := 5} with handles := 5}))
def pc10_10 (op : Nat) : Cmd := {witCmd op [0,0,0,0x200000,0x202000,1*2^32] with parked := some 0, handle := 5}
def s10x25 : State := (pk10_10 0x23)
def s10x26 : State := (pk10_10 0x23 fun d => d.setFld .rasStatus Fd.rasStatusCtrlFault 15)
def c10x26 : Cmd := (pc10_10 0x23)
def s10x28 : State := (pk10_10 0x20 fun d => {d with tlb := []})
def c10x29 : Cmd := (pc10_10 0x20)
def wbs_10 (l : List Nat) : List Byte := l.flatMap (leBytes 8)
def ar_10 : Cmd := witCmd 0x30 [0,0,0,7,0x1000]
def dsc_10 : List (Nat × Byte) := (List.range 64).zip (wbs_10 [0x200000, 0, 0x0002000000001000, 0x0001000000000000, 0x20003, 2, 0, 0])
  |>.map fun x => (x.1+0x1000, x.2)
def s10_10 (f : Device → Device := id) : State :=
  {witRun ar_10 with dev := f ((witRun ar_10).dev.setFld (.memPartStreams 0) Fd.memPartStreamsPerDie 16)}
def st10_10 : Stream := ((s10_10.dev).streamOf 0 [0x200000, 0, 0x0002000000001000, 0x0001000000000000, 0x20003, 2, 0, 0]).getD {}
def x10x30 : MemIo := {host := dsc_10}
def x10x32 : List Byte := (wbs_10 [0x200000, 0, 0x0002000000001000, 0x0001000000000000, 0x20003, 2, 0, 0])
def ra_10 : Cmd := witCmd 0x31 [0,0,0,7,3]
def rl_10 : Cmd := witCmd 0x32 [0,0,0,7,3]
def sr_10 (c : Cmd) : State := let s := witRun c; {s with dev := s.dev.setStream 0 7 {st10_10 with visible := [0,1]}}
def s10x33 : State := (sr_10 ra_10)
def s10x34 : State := (sr_10 rl_10)
def land_10 (f : Stream → Stream) (g : Core → Core := id) : State := witOf ({witDev with cores := [(2, g {st := .running})]}.setStream 0 7
  (f st10_10))
def s10x35 : State := (land_10 id)
def stS_10 : Stream := {st10_10 with watch := true, next := 1, landed := [{t := 0, source := some 0x200000, stale := [0x200000/512]}]}
def lS_10 : State := land_10 (fun _ => stS_10)
def x10x41 : PumpTile := {t := 0, source := some 0x200000, stale := [0x200000/512]}
def pmp_10 (w : Nat) (f : Core → Core := id) (g : Device → Device := id) : State := witOf (g
  {witDev with cores := [(2, f {st := .running, pmem := [(0,wordOf w)], sregs := [(1,1),(2,4096),(3,0x200000)]})]})
def kp_10 (s : State) : Core := s.dev.core 2
def swv_10 : State := pmp_10 0x7000740000000000 id fun d => d.setStream 0 7 {st10_10 with next := 1, landed := [{t := 0, source := none}]}
def k10x42 : Core := (kp_10 swv_10)
def x10x43 : Machine.Stream := {st10_10 with next := 1, landed := [{t := 0, source := none}]}
def x10x44 : PumpTile := {t := 0, source := none}
def sfv_10 : State := pmp_10 0x7100710000000000 id fun d => d.setStream 0 7 {st10_10 with next := 2, visible := [0,1]}
def k10x45 : Core := (kp_10 sfv_10)
def x10x46 : Machine.Stream := {st10_10 with next := 2, visible := [0,1]}
def ccx_10 (i : Bool) : CoreCopy := {group := 0, inward := i, flag := false, fmt := 0, frame := 1, dva := 0x200000, count := 1, idx := 0}
def s10x47 : State := (pmp_10 0x7223100000000000)
def k10x48 : Core := (kp_10 (pmp_10 0x7223100000000000))
def d10x49 : Device := (((pmp_10 0x7223100000000000).quiet.dev.withIo {}).takeLease 2 |>.copyTile 2 (ccx_10 true)).1
def x10x50 : CoreCopy := (ccx_10 true)
def s10x51 : State := (pmp_10 0x7323100000000000)
def k10x52 : Core := (kp_10 (pmp_10 0x7323100000000000))
def d10x53 : Device := (((pmp_10 0x7323100000000000).quiet.dev.withIo {}).takeLease 2 |>.copyTile 2 (ccx_10 false)).1
def x10x54 : CoreCopy := (ccx_10 false)
def csy_10 (f : Core → Core := id) : State := pmp_10 0x7403000000000000 f
def k10x55 : Core := (kp_10 csy_10)
def s10x56 : State := (csy_10 fun k => {k with copies := [ccx_10 true]})
def k10x57 : Core := (kp_10 (csy_10 fun k => {k with copies := [ccx_10 true]}))
def swt_10 : State := pmp_10 0 (fun k => {k with st := .waiting, pumpWait := some (.tile 7 4), job := some (0,0,0)})
def k10x58 : Core := (kp_10 swt_10)
def d10_10 : Device := witDev
def x10x61 : MemUser := (wu_10 (witOf d10_10))
def d10b_10 : Device := {d10_10 with side := [(0x5*64+8,1)]}
def x10x79 : MemErr := (.cksum 0x5010)
def dma_10 (s : State) (c : Cmd) : Device × Except MemErr Unit :=
  let d := s.quiet.dev.withIo {}
  if dmaTiles c.desc = true then d.dmaTile (d.userOf 0 c c.unit) c.desc c.unit else d.dmaRaw (d.userOf 0 c c.unit) c.desc c.unit
def ex2_10 : Cmd := witCmd 0x23 [0,0,0,0x200000,0x202000,2*2^32]
/-- The page of the DVAs lies on chip 9, to which this die's remote pool has no tag left. -/
def far_10 (c : Cmd) : State := let s := witRun c; {s with dev := {(s.dev.setFld .memQuota Fd.memQuotaRemoteShift 5).setFld
  (.lnkPortStatus 3) Fd.lnkPortStatusState 4 with
    tlb := [(0, [{part := 0, base := 0x200000, size := 21, leaf := wordOf (9 * 2^50 + 0x20000F)}])]
    reqs := (List.range 1024).map fun i => (i, some {part := 0, q := 0, idx := 1, die := 0, tag := some i, pkt := [wordOf 0 ++ wordOf 0 ||| (9 : BitVec 128) <<< 110]})}}
def bu_10 : Device × MemUser := (w10_10.quiet.dev.withIo {}).bar4User 1
def d10x2 : Device := (bu_10.1.translate bu_10.2 0x200010 false).1
def ccn_10 : CoreCopy := {ccx_10 true with count := 2}
def s10x57 : State := (pmp_10 0x7223100000000000 fun k => {k with sregs := [(1,2),(2,4096),(3,0x200000)]})
def d10c_10 : Device := d10_10.putRec 0x5000 (hdrBody 7 false 0 0 0 1 0) [] (List.replicate 256 0) 7 false 0

theorem test_witness_DmaMovesUnits :
    (∀ y ∈ [(s10x1, fi_10, 0x21), (s10x4, cp_10, 0x20), (s10x7, cpt_10, 0x20), (s10x12, ex_10, 0x23)], y.1.inService = true ∧
      y.1.dev.runningCmd 0 0 0 y.2.2 = some y.2.1 ∧ y.2.1.unit < dmaUnits y.2.1.desc ∧ (dma_10 y.1 y.2.1).2.toOption = some () ∧
      y.2.1.unit + 1 = dmaUnits y.2.1.desc) ∧
    ((witRun ex2_10).inService = true ∧ (witRun ex2_10).dev.runningCmd 0 0 0 0x23 = some ex2_10 ∧ ex2_10.unit + 1 < dmaUnits ex2_10.desc ∧
      (dma_10 (witRun ex2_10) ex2_10).2.toOption = some ()) ∧
    (∀ y ∈ [(s10x15, ex_10, 0x23, 0x200000), (s10x17, fi_10, 0x21, 0x200040)], y.1.inService = true ∧
      y.1.dev.runningCmd 0 0 0 y.2.2.1 = some y.2.1 ∧ witErr (dma_10 y.1 y.2.1).2 = some (.xlate 2 y.2.2.2) ∧
      (dma_10 y.1 y.2.1).1.stopped ((dma_10 y.1 y.2.1).1.workDie 0 y.2.1.unit) = false) ∧
    ((far_10 cpt_10).inService = true ∧ (far_10 cpt_10).dev.runningCmd 0 0 0 0x20 = some cpt_10 ∧
      witErr (dma_10 (far_10 cpt_10) cpt_10).2 = some .waits) ∧
    (s10x19.inService = true ∧ s10x19.dev.runningCmd 0 0 0 0x23 = some ex_10 ∧
      witErr (dma_10 s10x19 ex_10).2 = some (.cksum 0x200000)) := by
  and_intros <;> decide +kernel

theorem test_witness_WindowsAndTranslation :
    (s10x21.running = true ∧ s10x21.dev.hasFn 0 = true ∧ s10x21.dev.ready = false) ∧
    (w10_10.inService = true ∧ 0x200010 < 68719476736 ∧ spans (8 / 4096 + 2) 0x200010 8 = [(0x200010, 8)] ∧
      offsetMapped (w10_10.dev.fld .hifWinBase Fd.hifWinBaseBase * 68719476736 + 0x200010) = true ∧
      w10_10.dev.chip * 1125899906842624 + (w10_10.dev.fld .hifWinBase Fd.hifWinBaseBase * 68719476736 + 0x200010) = 0x200010 ∧
      (({ w10_10.quiet.dev.withIo {} with free := w10_10.dev.free + 1 } : Device).bar4Get (wu_10 w10_10) (.device 0x200010) 8).2.toOption.isSome
        = true) ∧
    (w10_10.dev.hasFn 1 = true ∧ 1 ≤ 1 ∧ 0x200010 < 8589934592 ∧
      w10_10.dev.fld (.hifPartWin (1 - 1)) Fd.hifPartWinBase * 8589934592 + 0x200010 = 0x200010 ∧
      (bu_10.1.translate bu_10.2 0x200010 false).2.toOption = some (.device 0x200010) ∧
      (d10x2.bar4Get bu_10.2 (.device 0x200010) 8).2.toOption.isSome = true) ∧
    (spans (8 / 4096 + 2) 0x40000000 8 = [(0x40000000, 8)] ∧
      witErr (bu_10.1.translate bu_10.2 0x40000000 false).2 = some (.xlate 2 0x40000000)) ∧
    (spans (x10x24.length / 4096 + 2) 0x200010 x10x24.length = [(0x200010, x10x24.length)] ∧
      (bu_10.1.translate bu_10.2 0x200010 true).2.toOption = some (.device 0x200010)) ∧
    (s10x25.inService = true ∧ s10x25.dev.parkedAs 0 5 = some (0, c10x26) ∧ s10x25.dev.cmd? 0 0 c10x26.idx = some c10x26 ∧
      ((s10x25.quiet.dev.withIo {}).unitFault 0 c10x26).2 = none ∧
      s10x25.dev.stopped (s10x25.dev.workDie 0 c10x26.unit) = false) ∧
    (s10x26.inService = true ∧ s10x26.dev.parkedAs 0 5 = some (0, c10x26) ∧ s10x26.dev.cmd? 0 0 c10x26.idx = some c10x26 ∧
      ((s10x26.quiet.dev.withIo {}).unitFault 0 c10x26).2 = none ∧
      s10x26.dev.stopped (s10x26.dev.workDie 0 c10x26.unit) = true) ∧
    (∀ y ∈ [(s10x25, c10x26), (s10x28, c10x29)], y.1.inService = true ∧ y.1.dev.parkedAs 0 5 = some (0, y.2) ∧
      y.1.dev.cmd? 0 0 y.2.idx = some y.2 ∧ y.2.item = false ∧ opcodeOf y.2.desc ∉ [0x70, 0x71, 0x81]) := by
  and_intros <;> decide +kernel

theorem test_witness_StreamsArmAndLand :
    (s10_10.inService = true ∧ s10_10.dev.runningCmd 0 0 0 0x30 = some ar_10 ∧
      (((s10_10.quiet.dev.withIo x10x30).readDva (s10_10.dev.userOf 0 ar_10 0) ar_10.desc.q5.toNat 64).2).toOption = some x10x32 ∧
      s10_10.dev.streamOf 0 (wordsOf 8 x10x32) = some st10_10 ∧ (s10_10.dev.stream 0 (fieldOf ar_10.desc.q4 11 0)).armed = false ∧
      s10_10.dev.slotFree 0 st10_10.core = true) ∧
    (s10x33.inService = true ∧ s10x33.dev.runningCmd 0 0 0 0x31 = some ra_10 ∧ (s10x33.dev.stream 0 (fieldOf ra_10.desc.q4 11 0)).landed = []) ∧
    (s10x34.inService = true ∧ s10x34.dev.runningCmd 0 0 0 0x32 = some rl_10 ∧ (s10x34.dev.stream 0 (fieldOf rl_10.desc.q4 11 0)).landed = []) ∧
    (s10x35.inService = true ∧ st10_10 = s10x35.dev.stream 0 7 ∧ (s10x35.dev.core st10_10.core).st ≠ .waiting ∧
      s10x35.dev.mayFetch st10_10 = true ∧ ((s10x35.quiet.dev.withIo {}).fetchTile 0 st10_10 st10_10.next).2.toOption.isSome = true) ∧
    (lS_10.inService = true ∧ stS_10 = lS_10.dev.stream 0 7 ∧ (lS_10.dev.core stS_10.core).st ≠ .waiting ∧
      (stS_10.landed.find? fun t => t.stale.contains 4096) = some x10x41 ∧ stS_10.parked = none ∧
      ((lS_10.quiet.dev.withIo {}).fetchTile 0 stS_10 x10x41.t).2.toOption.isSome = true) := by
  and_intros <;> decide +kernel

/-- What COPY_IN and COPY_OUT ask of the core, its word and its copy. -/
def copies_10 (s : State) (k : Core) (w : Word) (inward : Bool) (x : CoreCopy) (n : Nat) : Bool :=
  s.inService && decide (k = s.dev.core 2) && decide (w = s.dev.coreWord 2) && s.dev.atPump 2 (if inward then 0x72 else 0x73) &&
  decide (n = (k.sreg (fieldOf w 47 44)).toNat) && decide (1 ≤ n) && decide ((k.sreg (fieldOf w 55 52)).toNat % 4096 = 0) &&
  decide ((k.sreg (fieldOf w 51 48)).toNat % 4096 = 0) && decide ((k.sreg (fieldOf w 55 52)).toNat / 4096 + n ≤ 1024) &&
  !bitOf w.toNat 40 && decide (x = {
    group := fieldOf w 43 41, inward := inward, flag := bitOf w.toNat 40, fmt := fieldOf w 39 36
    frame := (k.sreg (fieldOf w 55 52)).toNat / 4096, dva := (k.sreg (fieldOf w 51 48)).toNat, count := n, idx := (s.dev.jobOf 2).2.1 }) &&
  (((s.quiet.dev.withIo {}).takeLease 2).copyTile 2 x).2.toOption.isSome

theorem test_witness_PumpInstructions :
    (swv_10.inService = true ∧ k10x42 = swv_10.dev.core 2 ∧ 0x7000740000000000 = swv_10.dev.coreWord 2 ∧ swv_10.dev.atPump 2 0x70 = true ∧
      x10x43 = swv_10.dev.stream (swv_10.dev.corePart 2) (fieldOf 0x7000740000000000 55 44) ∧ x10x43.landed = [x10x44] ∧
      x10x43.armed = true ∧ x10x43.core = 2 ∧ x10x44.stale = [] ∧ k10x42.loops = [] ∧ k10x42.pc % 512 ≠ 511) ∧
    (sfv_10.inService = true ∧ k10x45 = sfv_10.dev.core 2 ∧ 0x7100710000000000 = sfv_10.dev.coreWord 2 ∧ sfv_10.dev.atPump 2 0x71 = true ∧
      x10x46 = sfv_10.dev.stream (sfv_10.dev.corePart 2) (fieldOf 0x7100710000000000 55 44) ∧ x10x46.armed = true ∧ x10x46.core = 2 ∧
      1 ≤ (k10x45.sreg (fieldOf 0x7100710000000000 43 40)).toNat ∧ (k10x45.sreg (fieldOf 0x7100710000000000 43 40)).toNat ≤ 256 ∧
      k10x45.loops = [] ∧ k10x45.pc % 512 ≠ 511) ∧
    (copies_10 s10x47 k10x48 0x7223100000000000 true x10x50 1 = true ∧ (d10x49.core 2).loops = [] ∧ (d10x49.core 2).pc % 512 ≠ 511) ∧
    (copies_10 s10x51 k10x52 0x7323100000000000 false x10x54 1 = true ∧ (d10x53.core 2).loops = [] ∧ (d10x53.core 2).pc % 512 ≠ 511) ∧
    copies_10 s10x57 (kp_10 s10x57) 0x7223100000000000 true ccn_10 2 = true ∧
    (csy_10.inService = true ∧ k10x55 = csy_10.dev.core 2 ∧ 0x7403000000000000 = csy_10.dev.coreWord 2 ∧ csy_10.dev.atPump 2 0x74 = true ∧
      (k10x55.copies.any fun x => bitOf (fieldOf 0x7403000000000000 55 48) x.group) = false ∧ k10x55.loops = [] ∧ k10x55.pc % 512 ≠ 511) ∧
    (s10x56.inService = true ∧ k10x57 = s10x56.dev.core 2 ∧ 0x7403000000000000 = s10x56.dev.coreWord 2 ∧ s10x56.dev.atPump 2 0x74 = true ∧
      (k10x57.copies.any fun x => bitOf (fieldOf 0x7403000000000000 55 48) x.group) = true ∧ k10x57.st = .running) ∧
    (swt_10.inService = true ∧ k10x58 = swt_10.dev.core 2 ∧ k10x58.st = .waiting ∧ k10x58.pumpWait = some (.tile 7 4) ∧
      (swt_10.dev.stream (swt_10.dev.corePart 2) 7).landed = [] ∧ k10x58.aq = [] ∧ k10x58.vq = [] ∧ k10x58.lapsed = none) := by
  and_intros <;> decide +kernel

theorem test_witness_TilesVerifyAndMerge :
    (0x5010 < 2 ^ 50 ∧ 0x5010 % 4096 + x10x24.length ≤ 4096 ∧ d10_10.chip = 0) ∧
    (d10_10.takeHere x10x61 0x5010 2).2.toOption.isSome = true ∧ isMx (d10_10.recOf 0x5010).fmt = false ∧
    ((d10c_10.takeHere x10x61 0x5010 2).2.toOption.map fun x => isMx x.1.fmt) = some true ∧
    witErr (d10b_10.takeHere x10x61 0x5010 2).2 = some x10x79 := by
  and_intros <;> decide +kernel

/-! ### Chapter file 11 -/

def wbs_11 (l : List Nat) : List Byte := l.flatMap (leBytes 8)
def hb_11 (a : Nat) (l : List Nat) : List (Nat × Byte) := (List.range (8*l.length)).zip (wbs_11 l) |>.map fun x => (x.1+a, x.2)
def um_11 : UnitMap := {valid := true, owner := 0, read := 0, alt := 0, copies := [0], offset := 0x300000, tiles := 4}
def tb_11 (graph : Bool) : Table :=
  {graph := graph, rowLog2 := 0, fmt := 0xA, group := 0, n := 100, scale := f32One, contribMax := 1, versions := [(1,[(0,um_11)])]}
def pt_11 (t : Table) : Part := {binds := [(0,[(5,1)])], tables := [(5,some t)]}
def smc_11 : Cmd := witCmd 0x40 [0,0,0,0x1000,0x2000,0x10000010000]
def i11_11 : MemIo := {host := hb_11 0x1000 [0x500000000,0,2,1,0,0,0,0] ++ hb_11 0x2000 [0,7]}
def i11b_11 : MemIo := {host := hb_11 0x1000 [0x500000000,0,0,1,0,0,0,0] ++ hb_11 0x2000 [0,7]}
def s11_11 (c : Cmd) (f : Part → Part := id) (g : Device → Device := id) : State := let s := witRun c; {s with dev := g {s.dev with parts := [(0, f (pt_11 (tb_11 (opcodeOf c.desc == 0x40))))]}}
def u11_11 (c : Cmd) : MemUser := { (s11_11 c).dev.userOf 0 c 0 with die := 0}
def e11_11 (c : Cmd) (io : MemIo) : Device := ((s11_11 c).quiet.dev.withIo io |>.readDva (u11_11 c) c.desc.q4.toNat 64).1
def f11_11 (c : Cmd) (io : MemIo) : Device := ((e11_11 c io).readDva (u11_11 c) c.desc.q5.toNat 16).1
def b11_11 (c : Cmd) (io : MemIo) : List Byte := (Except.toOption ((s11_11 c).quiet.dev.withIo io |>.readDva (u11_11 c) c.desc.q4.toNat
  64).2).getD []
def s11x1 : State := (s11_11 smc_11)
def d11x2 : Device := (e11_11 smc_11 i11b_11)
def d11x3 : Device := (f11_11 smc_11 i11b_11)
def x11x4 : List Byte := (b11_11 smc_11 i11b_11)
def d11x6 : Device := (e11_11 smc_11 i11_11)
def d11x7 : Device := (f11_11 smc_11 i11_11)
def x11x8 : List Byte := (b11_11 smc_11 i11_11)
def smw_11 : Cmd := {smc_11 with begun := true, got := [(0, wbs_11 [0x500000000,0,2,1,0,0,0,0]), (1, wbs_11 [0,7])]}
def segd_11 : Segment := {isOpen := true, mb := 0, dies := 1, reserve := 4}
def cis_11 (d : Device) : Device := ((((d.setFld (.cisPartWindow 0) Fd.cisPartWindowConfigured 1).setFld (.cisPartWindow 0)
  Fd.cisPartWindowBase 1).setFld (.cisPartWindow 0) Fd.cisPartWindowSegLog2 26).setFld (.cisPartWindow 0) Fd.cisPartWindowDepth 1).setFld
  (.plcPoolNear 0 0) Fd.plcPoolNearSize 1 |>.setFld (.cisPartCfg 0 0) Fd.cisPartCfgNearCap 16 |>.setFld (.cisPartCfg 0 0)
  Fd.cisPartCfgFarCap 16
def sw11_11 (g : Device → Device) : State := s11_11 smw_11 (fun p => p.setSeg 0 segd_11) (fun d => cis_11 (g d))
def s11x9 : State := (sw11_11 id)
def x11x12 : Table := (tb_11 true)
def gc_11 (f : Cmd → Cmd := id) : Cmd := f (witCmd 0x50 [0,0,0,0x500000340,0x1000,0x0000001000000000 + 2^40] .running 0x10300)
def gg_11 (s : State) (c : Cmd) : Gth := (s.dev.gthOf 0 0 c).getD {p:=0,q:=0,c:=c,h:=5,t:=tb_11 false,epoch:=1,u:=u11_11 c}
def ig_11 : MemIo := {host := hb_11 0x1000 [3,5,2^64-1,200]}
def ps11_11 (s : State) (io : MemIo) (c : Cmd) := (s.quiet.dev.withIo io).positions (gg_11 s c).u c.desc
def psl_11 (s : State) (io : MemIo) (c : Cmd) := (Except.toOption (ps11_11 s io c).2).getD []
def ps11_gcodes (s : State) (io : MemIo) (c : Cmd) : Bool := (ps11_11 s io c).1.codesWait (gg_11 s c) ((ps11_11 s io c).1.gthCodes (gg_11 s c) (psl_11 s io c)).2
def gm_11 : Cmd := witCmd 0x50 [0,0,0,0x500000200,0x1000,0x200000]
def gb_11 : Cmd := gc_11 fun c => {c with begun := true, aux := [4,6,0]}
def row_11 (d : Device) : Device := (d.writeTile (u11_11 smc_11) 0x300000 (hdrBody 0xA true (2^64-1) f32One 0 0 1) (List.replicate 4096 0)
  []).1
def sgr_11 (c : Cmd) : State := s11_11 c id row_11
def lk_11 (c : Cmd) := ((sgr_11 c).quiet.dev.withIo {}).lookup 0 0 5 1 0
def gd_11 (n : Nat) : Cmd := gc_11 fun c => {c with begun := true, aux := List.replicate n 0, got := [(0,[1])]}
def gmd_11 : Cmd := {gm_11 with begun := true, aux := [4], got := [(0, List.replicate 128 1)]}
def sc_11 : Cmd := witCmd 0x51 [0,0,0,0x500000210,0x1000,0x2000]
def fx_11 (g : Device → Device) := ((ps11_11 (s11_11 sc_11 id g) ig_11 sc_11).1.gradTranslates (gg_11 (s11_11 sc_11 id g) sc_11) 1)
def allf_11 (d : Device) : Device := {d with outFlows := (List.range 4096).map fun i => (i, some (0,0,9))}
def sch_11 : Cmd := {sc_11 with begun := true, held := [{row := 3},{row := 4}]}
def smwBad_11 : Cmd := {smw_11 with got := [(0, wbs_11 [0x500000000,0,2,1,0,0,0,0]), (1, wbs_11 [500,700])]}
def swc_11 (c : Cmd) : State := s11_11 c (fun p => p.setSeg 0 segd_11) cis_11
def seg_11 (c : Cmd) : Nat := (swc_11 c).dev.segOf 0 (fieldOf c.desc.q6 15 0)
def smp_11 (c : Cmd) : Smp := (swc_11 c).dev.smpOf 0 c (wordsOf 8 (SMap.at' [] c.got 0)) (tb_11 true)
def hop0_11 (c : Cmd) := seedSlots (smp_11 c).t.n (SMap.at' [] c.got 1) (fieldOf c.desc.q6 31 16 + 1)
def push_11 (c : Cmd) := ((swc_11 c).quiet.dev.withIo {}).pushEntry 0 (seg_11 c) (lowestDie (((swc_11 c).dev.part 0).seg (seg_11 c)).dies) 0
  ((64 + 16 * (hopSizes (fieldOf c.desc.q6 31 16 + 1) (smp_11 c).x).foldl (· + ·) 0 + 65535) / 65536) 0 0 c.stepNo
def start_11 (c : Cmd) (e : Device) := match (hop0_11 c).zipIdx.find? fun x => x.1.err with
  | none => (e, (smp_11 c).seeded (hop0_11 c))
  | some x => ((smp_11 c).seeded (hop0_11 c)).fault ((smp_11 c).at x.2) 0x0B04 0 x.2 x.2
      (ofLeBytes (((SMap.at' [] c.got 1).drop (8 * x.2)).take 8)) e
/-- A SAMPLE that holds a reservation of piece 3, its rows on chip 9, to which this die's remote pool has no tag left. -/
def smh_11 : Cmd := {smw_11 with aux := [3]}
def far_11 (s : State) : State := {s with dev := {(s.dev.setFld .memQuota Fd.memQuotaRemoteShift 5).setFld
  (.lnkPortStatus 3) Fd.lnkPortStatusState 4 with
    parts := [(0, {s.dev.part 0 with tables := [(5, some {tb_11 true with versions := [(1, [(0, {um_11 with owner := 9, read := 9, copies := [9]})])]})]})]
    reqs := (List.range 1024).map fun i => (i, some {part := 0, q := 0, idx := 1, die := 0, tag := some i, pkt := [wordOf 0 ++ wordOf 0 ||| (9 : BitVec 128) <<< 110]})}}
def walkH_11 (s : State) : Device × Walk := Walk.hops (smp_11 smh_11) (smp_11 smh_11).x.hops 1 (hop0_11 smh_11)
  ((smp_11 smh_11).seeded (hop0_11 smh_11)) (s.quiet.dev.withIo {})
def walk_11 (c : Cmd) := Walk.hops (smp_11 c) (smp_11 c).x.hops 1 (hop0_11 c) (start_11 c (push_11 c).1).2 (start_11 c (push_11 c).1).1

theorem test_witness_SamplesReadAndWalk :
    (∀ io ∈ [i11_11, i11b_11],
      (s11_11 smc_11).inService = true ∧ (s11_11 smc_11).dev.runningCmd 0 0 0 0x40 = some smc_11 ∧ smc_11.begun = false ∧ smc_11.aux = [] ∧
      lowestDie (fieldOf smc_11.desc.q6 43 40) < 4 ∧
      (((s11_11 smc_11).quiet.dev.withIo io).readDva (u11_11 smc_11) smc_11.desc.q4.toNat 64).2.toOption.isSome = true ∧
      ((e11_11 smc_11 io).readDva (u11_11 smc_11) smc_11.desc.q5.toNat (8 * (fieldOf smc_11.desc.q6 31 16 + 1))).2.toOption.isSome = true ∧
      (f11_11 smc_11 io).table 0 (smpDesc (wordsOf 8 (b11_11 smc_11 io))).handle = some (tb_11 true) ∧
      ((f11_11 smc_11 io).part 0).epochOf smc_11.gen (smpDesc (wordsOf 8 (b11_11 smc_11 io))).handle = 1 ∧
      smpFault (wordsOf 8 (b11_11 smc_11 io)) (fieldOf smc_11.desc.q6 31 16 + 1) (some (tb_11 true)) = (if io = i11_11 then none else some 2) ∧
      (((f11_11 smc_11 io).part 0).seg ((f11_11 smc_11 io).segOf 0 (fieldOf smc_11.desc.q6 15 0))).isOpen = false) ∧
    (∀ c ∈ [smw_11, smwBad_11],
      (swc_11 c).inService = true ∧ (swc_11 c).dev.runningCmd 0 0 0 0x40 = some c ∧ c.begun = true ∧ c.aux = [] ∧ (swc_11 c).dev.cisOn 0 = true ∧
      (((swc_11 c).dev.part 0).seg (seg_11 c)).isOpen = true ∧ (((swc_11 c).dev.part 0).seg (seg_11 c)).mb = fieldOf c.desc.q6 15 0 ∧
      (((swc_11 c).dev.part 0).seg (seg_11 c)).entries = [] ∧
      (swc_11 c).dev.table 0 (smpDesc (wordsOf 8 (SMap.at' [] c.got 0))).handle = some (tb_11 true) ∧
      ((hop0_11 c).any fun x => x.err) = decide (c = smwBad_11)) ∧
    (∀ c ∈ [smw_11, smwBad_11], (push_11 c).2 = true) ∧ (walk_11 smwBad_11).2.waits = false ∧
    (∀ y ∈ [(swc_11 smh_11, false), (far_11 (swc_11 smh_11), true)], y.1.inService = true ∧
      y.1.dev.runningCmd 0 0 0 0x40 = some smh_11 ∧ smh_11.begun = true ∧ smh_11.aux = [3] ∧ (hop0_11 smh_11).any (·.err) = false ∧
      (y.1.dev.table 0 (smpDesc (wordsOf 8 (SMap.at' [] smh_11.got 0))).handle).isSome = true ∧ (walkH_11 y.1).2.waits = y.2) := by
  refine ⟨by decide +kernel, by decide +kernel, ?_, by decide +kernel, by decide +kernel⟩
  intro c hc
  have hn : (64 + 16 * (hopSizes (fieldOf c.desc.q6 31 16 + 1) (smp_11 c).x).foldl (· + ·) 0 + 65535) / 65536 = 1 := by
    revert c; decide +kernel
  unfold push_11
  rw [hn]
  refine Device.pushEntry_one _ _ _ _ _ _ _ _ ?_ ?_ <;> (revert c; decide +kernel)

set_option maxRecDepth 1000000 in
theorem test_witness_GathersPlaceAndDeliver :
    (∀ c ∈ [gc_11, gm_11],
      (s11_11 c).inService = true ∧ (s11_11 c).dev.runningCmd 0 0 0 0x50 = some c ∧ ((s11_11 c).dev.gthOf 0 0 c).isSome = true ∧
      bitOf c.desc.q4.toNat 8 = decide (c = gc_11) ∧ c.begun = false ∧
      ((s11_11 c).quiet.dev.withIo ig_11 |>.positions (gg_11 (s11_11 c) c).u c.desc).2.toOption.isSome = true ∧
      ps11_gcodes (s11_11 c) ig_11 c = false ∧ ((psl_11 (s11_11 c) ig_11 c).length + 63) / 64 > c.unit) ∧
    (∀ c ∈ [gb_11],
      (sgr_11 c).inService = true ∧ (sgr_11 c).dev.runningCmd 0 0 0 0x50 = some c ∧ ((sgr_11 c).dev.gthOf 0 0 c).isSome = true ∧
      c.begun = true ∧ (sgr_11 c).dev.posDie 0 c 0 < 4 ∧ c.aux.getD 0 0 ≠ 0 ∧ 64 * c.unit ≤ 0 ∧ (c.got.any fun x => x.1 == 0) = false ∧
      ((sgr_11 c).quiet.dev.withIo {}).codesWait (gg_11 (sgr_11 c) c) [c.aux.getD 0 0] = false ∧
      (((sgr_11 c).quiet.dev.withIo {}).lookup 0 0 (gg_11 (sgr_11 c) c).h (gg_11 (sgr_11 c) c).epoch
        ((gg_11 (sgr_11 c) c).t.unitOfRow (c.aux.getD 0 0 - 1))).2 = some um_11 ∧
      um_11.read = (sgr_11 c).dev.chip ∧
      ({ c with got := SMap.set (fun _ => []) c.got 0 [] } : Cmd).groupIn c.unit = false) ∧
    (∀ c ∈ [gb_11], ((lk_11 c).1.readPlaced { (gg_11 (sgr_11 c) c).u with unit := 0 / 64, die := (sgr_11 c).dev.posDie 0 c 0 } (gg_11 (sgr_11 c) c).h
        ((gg_11 (sgr_11 c) c).t.rowAt (c.aux.getD 0 0 - 1)).1 um_11 ((gg_11 (sgr_11 c) c).t.rowAt (c.aux.getD 0 0 - 1)).2.1).2.toOption.map
        (fun r => (gg_11 (sgr_11 c) c).tileFault r.1) = some none) ∧
   (∀ c ∈ [gd_11 65, gd_11 64],
      (s11_11 c).inService = true ∧ (s11_11 c).dev.runningCmd 0 0 0 0x50 = some c ∧ ((s11_11 c).dev.gthOf 0 0 c).isSome = true ∧
      bitOf c.desc.q4.toNat 8 = true ∧ c.begun = true ∧ c.unit < groupsOf c.aux ∧ decide (c.unit + 1 < groupsOf c.aux) = decide (c = gd_11 65) ∧
      c.groupIn c.unit = true ∧ (s11_11 c).dev.gatherMay (gg_11 (s11_11 c) c) c = true ∧
      (s11_11 c).dev.syncOf 0 (pacingBase c.desc + 2 * (c.unit % max 1 ((s11_11 c).dev.targets 0 c.desc).length)) = some 0 ∧
      ((s11_11 c).dev.obj 0).waiters = [] ∧ ((s11_11 c).dev.obj 0).value.toNat < (s11_11 c).dev.objBound 0) ∧
    ((s11_11 gmd_11).inService = true ∧ (s11_11 gmd_11).dev.runningCmd 0 0 0 0x50 = some gmd_11 ∧
      ((s11_11 gmd_11).dev.gthOf 0 0 gmd_11).isSome = true ∧ bitOf gmd_11.desc.q4.toNat 8 = false ∧
      gmd_11.begun = true ∧ gmd_11.unit + 1 = groupsOf gmd_11.aux ∧ gmd_11.groupIn gmd_11.unit = true ∧
      (((s11_11 gmd_11).quiet.dev.withIo {}).writeGroup (gg_11 (s11_11 gmd_11) gmd_11) gmd_11 gmd_11.unit).2.toOption = some ()) := by
  and_intros <;> decide +kernel

theorem test_witness_ScattersAndDroppedContributions :
    (∀ g ∈ [id, allf_11],
      (s11_11 sc_11 id g).inService = true ∧ (s11_11 sc_11 id g).dev.runningCmd 0 0 0 0x51 = some sc_11 ∧
      ((s11_11 sc_11 id g).dev.gthOf 0 0 sc_11).isSome = true ∧ sc_11.begun = false ∧
      (ps11_11 (s11_11 sc_11 id g) ig_11 sc_11).2.toOption.isSome = true ∧ (psl_11 (s11_11 sc_11 id g) ig_11 sc_11).length = 3 ∧
      (fx_11 g).2.toOption = some ()) ∧
    ((fx_11 id).1.takeFlow (gg_11 (s11_11 sc_11) sc_11).u.die 0 0 0).2 = some 0 ∧
    ((fx_11 allf_11).1.takeFlow (gg_11 (s11_11 sc_11 id allf_11) sc_11).u.die 0 0 0).2 = none ∧
    ((s11_11 sch_11).inService = true ∧ (s11_11 sch_11).dev.runningCmd 0 0 0 0x51 = some sch_11 ∧
      sch_11.held = [{ row := 3 }, { row := 4 }] ∧ (s11_11 sch_11).dev.homeDie 0 < 4) := by
  refine ⟨?_, by decide +kernel, witFlows _ _ _ _ _ (by decide +kernel) (by rfl), by decide +kernel, by decide +kernel, by decide +kernel,
    by decide +kernel⟩
  intro g hg
  simp only [List.mem_cons, List.not_mem_nil, or_false] at hg
  rcases hg with rfl | rfl <;> decide +kernel
/-! ### Chapter file 12 -/

def wbs_12 (l : List Nat) : List Byte := l.flatMap (leBytes 8)
def hb_12 (a : Nat) (l : List Nat) : List (Nat × Byte) := (List.range (8*l.length)).zip (wbs_12 l) |>.map fun x => (x.1+a, x.2)
def mc_12 : Cmd := witCmd 0x60 [0,0,0,0x1000,0,0x0004000000000000 + 2^40] .running 0x10300
def md_12 (a b : Nat) (x : Nat := 0) : List Nat := [a,b,x,0,0,0,0,0]
def s12_12 (c : Cmd) (f : Part → Part := id) (g : Device → Device := id) : State := let s := witRun c; {s with dev := g {s.dev with parts := [(0, f {})]}}
def io12_12 (l : List Nat) : MemIo := {host := hb_12 0x1000 l}
def s12x1 : State := (s12_12 mc_12)
def x12x2 : MemIo := (io12_12 (md_12 1 0))
def x12x4 : List Byte := (wbs_12 (md_12 1 0))
def x12x5 : MemIo := (io12_12 (md_12 0x200000 0x201000))
def x12x7 : List Byte := (wbs_12 (md_12 0x200000 0x201000))
def s12x8 : State := (s12_12 mc_12 id fun d => {d with tlb := [(0,[{ part := 0, base := 0, size := 21, leaf := 0x1F }])]})
def mb_12 : Cmd := {mc_12 with begun := true, got := [(keyDesc, wbs_12 (md_12 0x200000 0x201000))], aux := [0,0,0,0,0,0,0,0,0]}
def smb0_12 : State := s12_12 mb_12
def mr0_12 := (smb0_12.quiet.dev.withIo {}).mergeRow (smb0_12.dev.userOf 0 mb_12 0) mb_12 0
def mra0_12 := (Except.toOption mr0_12.2).getD []
def mbb0_12 := forAll (fun k d => d.mergeB (smb0_12.dev.userOf 0 mb_12 0) mb_12 0 k) (List.range 1) mr0_12.1
def mbba0_12 := (Except.toOption mbb0_12.2).getD []
def d12x11 : Device := mr0_12.1
def mdv_12 : Cmd :=
  {mc_12 with begun := true, got := [(0,List.replicate 8704 1),(1,List.replicate 8704 2),(keyDesc, wbs_12 (md_12 0x200000 0x201000))], aux := [0,0,0,0,2,0,0,0,0]}
def s12x13 : State := (s12_12 mdv_12)
def pb_12 (op : Nat) (q5 : Nat) (q6 : Nat := 0) : Cmd := witCmd 0x61 [0,0,0,op*2^62 + 3*2^56 + 77, q5, q6]
def sp_12 (c : Cmd) (bound : Bool) : State := s12_12 c (fun p => if bound then
  {p with layers := [(3,{n := 128, missLimit := 5, denseHold := 6})]} else p) (fun d => if bound then d.setReg (.sprLayerState 0 3)
  0x4D00000001 else d)
def s12x14 : State := (sp_12 (pb_12 0 128) false)
def c12x15 : Cmd := (pb_12 0 128)
def s12x16 : State := (sp_12 (pb_12 0 (128+5*2^32+9*2^48)) false)
def c12x17 : Cmd := (pb_12 0 (128+5*2^32+9*2^48))
def rp_12 : Cmd := pb_12 1 0x1000 (64*2^32 + 64)
def irp_12 : MemIo := {host := hb_12 0x1000 [0,0,0,0xFF,0,0x1F3]}
def b1_12 := ((sp_12 rp_12 true).quiet.dev.withIo irp_12).bitsIn ((sp_12 rp_12 true).dev.userOf 0 rp_12 0) 0x1010 64 64
def s12x18 : State := (sp_12 rp_12 true)
def d12x19 : Device := b1_12.1
def s12x23 : State := (sp_12 (pb_12 2 0) true)
def c12x24 : Cmd := (pb_12 2 0)
def mcp_12 : Cmd := witCmd 0x60 [0,0,0,0x1000,0x3000,0x0004000000000000 + 2^40] .running 0x10300
def mdp_12 (pred : Nat) : List Nat := [0x200000,0x201000,0,4*3+pred,0,0,0,0]
def iop_12 (pred : Nat) : MemIo := {host := hb_12 0x1000 (mdp_12 pred) ++ hb_12 0x3000 [0xF0,3,0x0F,4]}
def smp_12 : State := s12_12 mcp_12 (fun p => {p with layers := [(3,{n := 128})]}) (fun d => d.setReg (.sprLayerState 0 3) 0x4D00000001)
def erp_12 (pred : Nat) := (smp_12.quiet.dev.withIo (iop_12 pred)).readDva (smp_12.dev.userOf 0 mcp_12 0) mcp_12.desc.q4.toNat 64
def mdl_12 : Cmd := {mdv_12 with unit := 0, aux := [0,0,0,0,2,1,0,1,0]}

theorem test_witness_MergesPackAndDeliver :
    (s12x1.inService = true ∧
      0 < 8 ∧
      s12x1.dev.runningCmd 0 0 0 96 = some mc_12 ∧
      mc_12.begun = false ∧
      (((s12x1.quiet.dev.withIo x12x2).readDva (s12x1.dev.userOf 0 mc_12 0) (BitVec.toNat mc_12.desc.q4) 64).2).toOption.isSome = true ∧
      (mergeDescFault (wordsOf 8 x12x4) (s12x1.dev.layerMode 0 (mergeDesc (wordsOf 8 x12x4)).layer != 0) mc_12.desc.q5).isSome = true) ∧
    (s12x1.inService = true ∧
      0 < 8 ∧
      s12x1.dev.runningCmd 0 0 0 96 = some mc_12 ∧
      mc_12.begun = false ∧
      (((s12x1.quiet.dev.withIo x12x5).readDva (s12x1.dev.userOf 0 mc_12 0) (BitVec.toNat mc_12.desc.q4) 64).2).toOption.isSome = true ∧
      mergeDescFault (wordsOf 8 x12x7) (s12x1.dev.layerMode 0 (mergeDesc (wordsOf 8 x12x7)).layer != 0) mc_12.desc.q5 = none ∧
      (mergeDesc (wordsOf 8 x12x7)).pred = 0 ∧ mc_12.desc.q5 = 0) ∧
    (s12x8.inService = true ∧
      0 < 8 ∧
      s12x8.dev.runningCmd 0 0 0 96 = some mc_12 ∧
      mc_12.begun = false ∧
      (((s12x8.quiet.dev.withIo x12x5).readDva (s12x8.dev.userOf 0 mc_12 0) (BitVec.toNat mc_12.desc.q4) 64).2).toOption.isSome = true ∧
      mergeDescFault (wordsOf 8 x12x7) (s12x8.dev.layerMode 0 (mergeDesc (wordsOf 8 x12x7)).layer != 0) mc_12.desc.q5 = none ∧
      (mergeDesc (wordsOf 8 x12x7)).pred = 0) ∧
    (smb0_12.inService = true ∧
      0 < 8 ∧
      smb0_12.dev.runningCmd 0 0 0 96 = some mb_12 ∧
      mb_12.begun = true ∧
      smb0_12.dev.drains 0 mb_12.desc = false ∧
      (List.any mb_12.got fun x => decide (x.1 < 2 ^ 40)) = false ∧
      (((smb0_12.quiet.dev.withIo { }).mergeRow (smb0_12.dev.userOf 0 mb_12 mb_12.unit) mb_12 (mb_12.unit /
        mb_12.mergeDesc.nt)).2).toOption = some mra0_12 ∧
      ((forAll (fun k d => d.mergeB (smb0_12.dev.userOf 0 mb_12 mb_12.unit) mb_12 (mb_12.unit % mb_12.mergeDesc.nt) k) (List.range
        mb_12.mergeDesc.kt) d12x11).2).toOption = some mbba0_12 ∧
      rowDiffers mra0_12 = none ∧
      rowDiffers (List.filterMap id mbba0_12) = none) ∧
    (s12x13.inService = true ∧
      0 < 8 ∧
      s12x13.dev.runningCmd 0 0 0 96 = some mdv_12 ∧
      mdv_12.begun = true ∧
      (s12x13.dev.userOf 0 mdv_12 mdv_12.unit).die < 4 ∧
      SMap.at' [] mdv_12.got (mdv_12.aux.getD 5 0) ≠ [] ∧
      mdv_12.aux.getD (7 + mdv_12.unit % max 1 (s12x13.dev.targets 0 mdv_12.desc).length) 0 + 1 ≤ 2 ^ fieldOf mdv_12.desc.q6 53 50 +
        s12x13.dev.relValue 0 (pacingBase mdv_12.desc + 2 * (mdv_12.unit % max 1 (s12x13.dev.targets 0 mdv_12.desc).length) + 1) ∧
      mdv_12.aux.getD 5 0 + 1 < mdv_12.aux.getD 4 0 ∧
      s12x13.dev.syncOf 0 (pacingBase mdv_12.desc + 2 * (mdv_12.unit % max 1 (s12x13.dev.targets 0 mdv_12.desc).length)) = some 0 ∧
      (s12x13.dev.obj 0).waiters = [] ∧
      BitVec.toNat (s12x13.dev.obj 0).value < s12x13.dev.objBound 0) ∧
    (∀ s ∈ [s12_12 mdl_12],
      s.inService = true ∧ s.dev.runningCmd 0 0 0 96 = some mdl_12 ∧ mdl_12.begun = true ∧ (s.dev.userOf 0 mdl_12 mdl_12.unit).die < 4 ∧
      SMap.at' [] mdl_12.got (mdl_12.aux.getD 5 0) ≠ [] ∧
      mdl_12.aux.getD (7 + mdl_12.unit % max 1 (s.dev.targets 0 mdl_12.desc).length) 0 + 1 ≤ 2 ^ fieldOf mdl_12.desc.q6 53 50 +
        s.dev.relValue 0 (pacingBase mdl_12.desc + 2 * (mdl_12.unit % max 1 (s.dev.targets 0 mdl_12.desc).length) + 1) ∧
      ¬ mdl_12.aux.getD 5 0 + 1 < mdl_12.aux.getD 4 0 ∧ mdl_12.mergeDesc.mt * mdl_12.mergeDesc.nt ≤ mdl_12.unit + 1 ∧
      s.dev.syncOf 0 (pacingBase mdl_12.desc + 2 * (mdl_12.unit % max 1 (s.dev.targets 0 mdl_12.desc).length)) = some 0 ∧
      (s.dev.obj 0).waiters = [] ∧ (s.dev.obj 0).value.toNat < s.dev.objBound 0) ∧
    (∀ pred ∈ [1, 2, 3],
      smp_12.inService = true ∧ smp_12.dev.runningCmd 0 0 0 96 = some mcp_12 ∧ mcp_12.begun = false ∧
      (erp_12 pred).2.toOption = some (wbs_12 (mdp_12 pred)) ∧
      mergeDescFault (wordsOf 8 (wbs_12 (mdp_12 pred))) (smp_12.dev.layerMode 0 (mergeDesc (wordsOf 8 (wbs_12 (mdp_12 pred)))).layer != 0)
        mcp_12.desc.q5 = none ∧
      (mergeDesc (wordsOf 8 (wbs_12 (mdp_12 pred)))).pred = pred ∧
      (erp_12 pred).1.layerMode 0 (mergeDesc (wordsOf 8 (wbs_12 (mdp_12 pred)))).layer ≠ 2 ∧
      ((erp_12 pred).1.computedWords (smp_12.dev.userOf 0 mcp_12 0) mcp_12 (mergeDesc (wordsOf 8 (wbs_12 (mdp_12 pred))))
        (SMap.at' {} (smp_12.dev.part 0).layers (mergeDesc (wordsOf 8 (wbs_12 (mdp_12 pred)))).layer).n
        ((mergeDesc (wordsOf 8 (wbs_12 (mdp_12 pred)))).neurons 4)).2.toOption.isSome = true) := by
  and_intros <;> decide +kernel

theorem test_witness_PredictorLayersBindAndReport :
    (s12x14.inService = true ∧
      0 < 8 ∧
      s12x14.dev.runningCmd 0 0 0 97 = some c12x15 ∧
      s12x14.dev.startFault 0 c12x15.desc = none ∧
      fieldOf c12x15.desc.q4 63 62 = 0) ∧
    (s12x16.inService = true ∧
      0 < 8 ∧
      s12x16.dev.runningCmd 0 0 0 97 = some c12x17 ∧
      s12x16.dev.startFault 0 c12x17.desc = none ∧
      fieldOf c12x17.desc.q4 63 62 = 0) ∧
    (s12x18.inService = true ∧
      0 < 8 ∧
      s12x18.dev.runningCmd 0 0 0 97 = some rp_12 ∧
      s12x18.dev.startFault 0 rp_12.desc = none ∧
      fieldOf rp_12.desc.q4 63 62 = 1 ∧
      (((s12x18.quiet.dev.withIo irp_12).bitsIn (s12x18.dev.userOf 0 rp_12 0) (BitVec.toNat rp_12.desc.q5 + 8 * ((SMap.at' { }
        (s12x18.dev.part 0).layers (fieldOf rp_12.desc.q4 61 56)).n / 64)) (fieldOf rp_12.desc.q6 63 32) (fieldOf rp_12.desc.q6 31
        0)).2).toOption.isSome = true ∧
      ((d12x19.bitsIn (s12x18.dev.userOf 0 rp_12 0) (BitVec.toNat rp_12.desc.q5 + 16 * ((SMap.at' { } (s12x18.dev.part 0).layers (fieldOf
        rp_12.desc.q4 61 56)).n / 64)) (fieldOf rp_12.desc.q6 63 32) (fieldOf rp_12.desc.q6 31 0)).2).toOption.isSome = true) ∧
    (s12x23.inService = true ∧
      0 < 8 ∧
      s12x23.dev.runningCmd 0 0 0 97 = some c12x24 ∧
      s12x23.dev.startFault 0 c12x24.desc = none ∧
      fieldOf c12x24.desc.q4 63 62 = 2) := by
  refine ⟨⟨?_, ?_, ?_, ?_, ?_⟩, ⟨?_, ?_, ?_, ?_, ?_⟩, ⟨?_, ?_, ?_, ?_, ?_, ?_, ?_⟩, ⟨?_, ?_, ?_, ?_, ?_⟩⟩ <;> decide +kernel

/-! ### Chapter file 13 -/

def wbs_13 (l : List Nat) : List Byte := l.flatMap (leBytes 8)
def hb_13 (a : Nat) (l : List Nat) : List (Nat × Byte) := (List.range (8*l.length)).zip (wbs_13 l) |>.map fun x => (x.1+a, x.2)
def um_13 : UnitMap := {valid := true, owner := 0, read := 0, alt := 0, copies := [0], offset := 0x300000, tiles := 4}
def tb_13 (graph : Bool) : Table :=
  {graph := graph, rowLog2 := 0, fmt := 0xA, group := 0, n := 100, scale := f32One, contribMax := 1, versions := [(1,[(0,um_13)])]}
def so_13 : Cmd := witCmd 0x70 [0,0,0,7+2^33+2^32,99,0,0x1000]
def so2_13 : Cmd := witCmd 0x70 [0,0,0,8,99,0,0x1000]
def sd_13 (x : Nat) : MemIo := {host := hb_13 0x1000 [0x100000500,x,0,1,0,0,0,0]}
def s13_13 (c : Cmd) (f : Part → Part := id) (g : Device → Device := id) : State := let s := witRun c; {s with dev := g {s.dev with parts := [(0, f {})]}}
def r13_13 (s : State) (c : Cmd) (io : MemIo) := (s.quiet.dev.withIo io).readDva (s.dev.userOf 0 c 0) 0x1000 64
def rb_13 (s : State) (c : Cmd) (io : MemIo) := (Except.toOption (r13_13 s c io).2).getD []
def s13x1 : State := (s13_13 so_13)
def x13x2 : MemIo := (sd_13 0)
def x13x4 : List Byte := (rb_13 (s13_13 so_13) so_13 (sd_13 0))
def stpd_13 : State := s13_13 so2_13 (fun p => {p with stepped := true, tables := [(5,some (tb_13 false))], seed := 4}) fun d => d.setReg
  (.cisPartStep 0) (wordOf (3*2^40 + 7))
def x13x6 : List Byte := (rb_13 stpd_13 so2_13 (sd_13 0))
def x13x7 : MemIo := (sd_13 0x10)
def x13x9 : List Byte := (rb_13 (s13_13 so_13) so_13 (sd_13 0x10))
def ev_13 (b : Nat) : Cmd := witCmd 0x73 [0,0,0,b]
def s13x10 : State := (s13_13 (ev_13 0))
def c13x11 : Cmd := (ev_13 0)
def sev_13 : State := s13_13 (ev_13 1) (fun p => {p with gen := 1, binds := [(1,[(5,1)])], tables := [(5,some (tb_13 false))]}) fun d =>
  d.setStepState 0 4
def c13x12 : Cmd := (ev_13 1)
def scl_13 : Cmd := witCmd 0x71 [0,0,0,0x1000]
def op13_13 (d : Device) : Device := d.setReg (.cisPartStep 0) (wordOf (2*2^60+3*2^40 + 7))
def s13x13 : State := (s13_13 scl_13 id op13_13)
def scl1_13 : Cmd := {scl_13 with begun := true, aux := [0], got := []}
def tt_13 : Part → Part := fun p => {p with stepped := true, totals := [(0,{step := 7, sat := 0})]}
def ssel_13 (c : Cmd) : State := s13_13 c
def selIo_13 : MemIo := { host := hb_13 0x1000 [0x100000500, 1 + 2 ^ 16, 0x3000, 1, 0x4000, 0, 0, 0] ++ hb_13 0x3000 [41] }
def selWs_13 : List Byte := rb_13 (ssel_13 so_13) so_13 selIo_13
def selC_13 : Cmd := { so_13 with begun := true, got := [(0, selWs_13)] }
def selD_13 : Device := (((r13_13 (ssel_13 so_13) so_13 selIo_13).1.updCmd 0 0 0 fun _ => selC_13).commitStep 0 selC_13 (wordsOf 8 selWs_13))
def smpWaits_13 : Cmd := { (witCmd 0x40 [0,0,0,0x1000,0x2000,0x10000010000]) with begun := true }
def sample13 : State := let s := s13_13 scl_13 id op13_13
  { s with dev := { s.dev with queues := [(0, [scl_13]), (1, [smpWaits_13])] } }
def s13x14 : State := (s13_13 scl1_13 tt_13 op13_13)
def op2_13 (d : Device) : Device := ((op13_13 d).setFld (.lnkGroup 0 0) Fd.lnkGroupFormed 1)
def tog_13 : Device → Device := fun d => {op2_13 d with groups := [(0,{members := [0,9]})]}
def s13x15 : State := (s13_13 scl1_13 tt_13 tog_13)
def ts2_13 : Part → Part := fun p =>
  {p with stepped := true, totals := [(0,{step := 7, sat := 3}),(9,{step := 7, sat := 1})], tables := [(5,some (tb_13 false))]}
def s13x16 : State := (s13_13 scl1_13 ts2_13 tog_13)
def grow_13 (c : Bool) : Part → Part := fun p => { tt_13 p with step := { p.step with growInterval := 3, evalOnly := c } }
def clean_13 (d : Device) : Device := (op13_13 d).setFld (.cisPartStep 0) Fd.cisPartStepCleanSteps 2
def noT_13 (d : Device) : Device := {op13_13 d with tlb := []}
def s13x17 : State := (s13_13 scl1_13 tt_13 noT_13)
def scl2_13 : Cmd := {scl_13 with begun := true, aux := [0,4,9], got := [(0,[1,2,3])], unit := 1}
def s13x18 : State := (s13_13 scl2_13 tt_13 op13_13)
def sum_13 (s : State) : List Byte := (SMap.at' [] scl2_13.got 0).take 16 ++ leBytes 8 s.dev.now.toNat ++ (SMap.at' [] scl2_13.got 0).drop 24
def farT_13 : Table :=
  { tb_13 false with
    versions := [(1, [(0, { um_13 with owner := 9, read := 9, copies := [9] })])], arrivals := [(0, (1, List.replicate 64 0))] }
def far_13 : Part → Part := fun p =>
  { tt_13 p with
    rules := [(0, some { handle := 5, words := List.replicate 44 0 })], gen := 1, binds := [(1, [(5, 1)])], tables := [(5, some farT_13)] }
def cis_13 (d : Device) : Device := ((((d.setFld (.cisPartWindow 0) Fd.cisPartWindowConfigured 1).setFld (.cisPartWindow 0)
  Fd.cisPartWindowBase 1).setFld (.cisPartWindow 0) Fd.cisPartWindowSegLog2 26).setFld (.cisPartWindow 0) Fd.cisPartWindowDepth 4).setFld
  (.plcPoolNear 0 0) Fd.plcPoolNearSize 1 |>.setFld (.cisPartCfg 0 0) Fd.cisPartCfgNearCap 16 |>.setFld (.cisPartCfg 0 0)
  Fd.cisPartCfgFarCap 16
def cc_13 (op q4 q5 : Nat) (q6 : Nat := 0) : Cmd := witCmd 0x72 [0,0,0,op*2^61 + q4, q5, q6]
def sc_13 (c : Cmd) (sg_13 : List (Nat × Segment)) (b : Bool := true) : State := s13_13 c (fun p => {p with segs := sg_13}) fun d => if b
  then (cis_13 d).setStepState 0 2 else d
def cset_13 : Cmd := cc_13 0 0 0x8000000 (26*2^32+4*2^24+9)
def s13x20 : State := (sc_13 cset_13 [] false)
def copn_13 : Cmd := cc_13 1 (2^24 + 5) 8
def s13x21 : State := (sc_13 copn_13 [(2,{isOpen := true, mb := 2})])
def cpu_13 (n : Nat) : Cmd := cc_13 2 5 n
def sg_13 : Segment := {isOpen := true, mb := 5, dies := 1, reserve := 2}
def s13x22 : State := (sc_13 (cpu_13 3) [(1,sg_13)])
def c13x23 : Cmd := (cpu_13 3)
def s13x25 : State := (sc_13 (cpu_13 1024) [(1,sg_13)])
def c13x26 : Cmd := (cpu_13 1024)
def scn_13 : State := let s := sc_13 (cpu_13 3) [(1,sg_13)]; {s with dev := s.dev.setFld (.plcPoolNear 0 0) Fd.plcPoolNearSize 0}
def sge_13 : Segment := {sg_13 with entries := [⟨0,2,0,[0x10000,0x20000]⟩,⟨2,1,0,[0x30000]⟩]}
def s13x29 : State := (sc_13 (cc_13 3 (2^16+5) 0) [(1,sge_13)])
def c13x30 : Cmd := (cc_13 3 (2^16+5) 0)
def s13x31 : State := (sc_13 (cc_13 4 5 0) [(1,sge_13)])
def c13x32 : Cmd := (cc_13 4 5 0)

theorem test_witness_StepsOpenAndClose :
    (s13x1.inService = true ∧
      0 < 8 ∧
      s13x1.dev.runningCmd 0 0 0 112 = some so_13 ∧
      (((s13x1.quiet.dev.withIo x13x2).readDva (s13x1.dev.userOf 0 so_13 0) (BitVec.toNat so_13.desc.q7) 64).2).toOption.isSome = true ∧
      stepDescFault (wordsOf 8 x13x4) = none ∧
      bitOf (BitVec.toNat ((wordsOf 8 x13x4).getD 1 0)) 0 = false) ∧
    (stpd_13.inService = true ∧
      0 < 8 ∧
      stpd_13.dev.runningCmd 0 0 0 112 = some so2_13 ∧
      (((stpd_13.quiet.dev.withIo x13x2).readDva (stpd_13.dev.userOf 0 so2_13 0) (BitVec.toNat so2_13.desc.q7) 64).2).toOption.isSome =
        true ∧
      stepDescFault (wordsOf 8 x13x6) = none ∧
      bitOf (BitVec.toNat ((wordsOf 8 x13x6).getD 1 0)) 0 = false) ∧
    (s13x1.inService = true ∧
      0 < 8 ∧
      s13x1.dev.runningCmd 0 0 0 112 = some so_13 ∧
      (((s13x1.quiet.dev.withIo x13x7).readDva (s13x1.dev.userOf 0 so_13 0) (BitVec.toNat so_13.desc.q7) 64).2).toOption.isSome = true ∧
      (stepDescFault (wordsOf 8 x13x9)).isSome = true) ∧
    (s13x10.inService = true ∧
      0 < 8 ∧
      s13x10.dev.runningCmd 0 0 0 115 = some c13x11 ∧
      s13x10.dev.startFault 0 c13x11.desc = none ∧
      bitOf (BitVec.toNat c13x11.desc.q4) 0 = false) ∧
    (sev_13.inService = true ∧
      0 < 8 ∧
      sev_13.dev.runningCmd 0 0 0 115 = some c13x12 ∧
      sev_13.dev.startFault 0 c13x12.desc = none ∧
      bitOf (BitVec.toNat c13x12.desc.q4) 0 = true) ∧
    (s13x13.inService = true ∧
      0 < 8 ∧
      s13x13.dev.runningCmd 0 0 0 113 = some scl_13 ∧
      scl_13.begun = false ∧
      (∀ q', q' < 64 → ∀ x ∈ s13x13.dev.queue 0 q', ¬ s13x13.dev.awaitsSegment 0 x = true) ∧
      s13x13.dev.drained 0 scl_13 = true) ∧
    (s13x14.inService = true ∧
      0 < 8 ∧
      s13x14.dev.runningCmd 0 0 0 113 = some scl1_13 ∧
      scl1_13.begun = true ∧
      scl1_13.got = [] ∧
      (∀ x ∈ s13x14.dev.queue 0 0, x.idx = 0 → x.held = [])) ∧
    (s13x15.inService = true ∧
      0 < 8 ∧
      s13x15.dev.runningCmd 0 0 0 113 = some scl1_13 ∧
      scl1_13.begun = true ∧
      scl1_13.got = [] ∧
      (∀ x ∈ s13x15.dev.queue 0 0, x.idx = 0 → x.held = [])) ∧
    (s13x16.inService = true ∧
      0 < 8 ∧
      s13x16.dev.runningCmd 0 0 0 113 = some scl1_13 ∧
      scl1_13.begun = true ∧
      scl1_13.got = [] ∧
      (∀ x ∈ s13x16.dev.queue 0 0, x.idx = 0 → x.held = [])) ∧
    (s13x17.inService = true ∧
      0 < 8 ∧
      s13x17.dev.runningCmd 0 0 0 113 = some scl1_13 ∧
      scl1_13.begun = true ∧
      scl1_13.got = [] ∧
      (∀ x ∈ s13x17.dev.queue 0 0, x.idx = 0 → x.held = [])) ∧
    (s13x18.inService = true ∧
      0 < 8 ∧
      s13x18.dev.runningCmd 0 0 0 113 = some scl2_13 ∧
      scl2_13.begun = true ∧
      scl2_13.got ≠ [] ∧
      (((s13x18.quiet.dev.withIo { }).writeDva (s13x18.dev.userOf 0 scl2_13 1) (BitVec.toNat scl2_13.desc.q4) (sum_13 s13x18)).2).toOption =
        some ()) ∧
    -- a descriptor that selects seeds, as it is read and as its command resumes
    (so_13.begun = false ∧ so2_13.begun = false ∧ (r13_13 (ssel_13 so_13) so_13 selIo_13).2.toOption.isSome = true ∧
      stepDescFault (wordsOf 8 selWs_13) = none ∧ bitOf ((wordsOf 8 selWs_13).getD 1 0).toNat 0 = true ∧
      (Device.seedLists (selD_13.userOf 0 selC_13 0) (selD_13.part 0).seed (wordsOf 8 selWs_13) (fieldOf so_13.desc.q4 31 0)
        (fieldOf ((wordsOf 8 selWs_13).getD 0 0) 47 32) 0 selD_13).2.toOption = some ()) ∧
    ((ssel_13 selC_13).inService = true ∧ (ssel_13 selC_13).dev.runningCmd 0 0 0 0x70 = some selC_13 ∧ selC_13.begun = true ∧
      (Device.seedLists ((ssel_13 selC_13).dev.userOf 0 selC_13 0) ((ssel_13 selC_13).dev.part 0).seed
        (wordsOf 8 (SMap.at' [] selC_13.got 0)) (fieldOf selC_13.desc.q4 31 0)
        (fieldOf ((wordsOf 8 (SMap.at' [] selC_13.got 0)).getD 0 0) 47 32) 0 ((ssel_13 selC_13).quiet.dev.withIo selIo_13)).2.toOption =
        some ()) ∧
    -- a SAMPLE that waits for its segment
    (sample13.inService = true ∧ sample13.dev.runningCmd 0 0 0 0x71 = some scl_13 ∧ scl_13.begun = false ∧
      sample13.dev.cmd? 0 1 0 = some smpWaits_13 ∧ sample13.dev.awaitsSegment 0 smpWaits_13 = true) ∧
    -- a summary that does not translate
    (∀ s ∈ [s13_13 scl2_13 tt_13 noT_13], s.inService = true ∧ s.dev.runningCmd 0 0 0 0x71 = some scl2_13 ∧ scl2_13.begun = true ∧
      scl2_13.got ≠ [] ∧ s.dev.stopped (s.dev.workDie 0 1) = false ∧
      ((witErr ((s.quiet.dev.withIo {}).writeDva (s.dev.userOf 0 scl2_13 1) scl2_13.desc.q4.toNat (sum_13 s)).2).any
        fun e => match e with | .xlate _ _ => true | _ => false) = true) ∧
    -- an exchange that is complete: without saturation, where the scale grows, in an evaluation interval, and saturated; and one given up
    (∀ y ∈ [(s13x14, true), (s13_13 scl1_13 (grow_13 false) clean_13, true), (s13_13 scl1_13 (grow_13 true) clean_13, true), (s13x16, true),
        (s13x15, false)],
      y.1.inService = true ∧ y.1.dev.runningCmd 0 0 0 0x71 = some scl1_13 ∧ scl1_13.begun = true ∧ scl1_13.got = [] ∧
      (∀ x ∈ y.1.dev.queue 0 0, x.idx = 0 → x.held = []) ∧ (List.range 4).any y.1.dev.stopped = false ∧
      ((y.1.dev.stepMembers 0).all fun m => (y.1.dev.stepTotals 0).any fun x => x.1 == m) = y.2 ∧
      (y.1.quiet.dev.closeUpdates 0 scl1_13 (y.1.dev.stepTotals 0) true).2 ≠ .waits) ∧
    -- an exchange that is complete, whose update has to wait for another chip's copy
    (∀ y ∈ [s13_13 scl1_13 far_13 fun d => (op13_13 d).setFld (.lnkPortStatus 3) Fd.lnkPortStatusState 4], y.inService = true ∧ y.dev.runningCmd 0 0 0 0x71 = some scl1_13 ∧ scl1_13.begun = true ∧
      scl1_13.got = [] ∧ (∀ x ∈ y.dev.queue 0 0, x.idx = 0 → x.held = []) ∧ (List.range 4).any y.dev.stopped = false ∧
      ((y.dev.stepMembers 0).all fun m => (y.dev.stepTotals 0).any fun x => x.1 == m) = true ∧
      (y.quiet.dev.closeUpdates 0 scl1_13 (y.dev.stepTotals 0) true).2 = .waits) := by
  and_intros <;> first
    | exact fun _ _ x h => by rw [witQueue _ _ rfl 0 _ x h]; decide +kernel
    | decide +kernel

theorem test_witness_CisternOperations :
    (s13x20.inService = true ∧
      0 < 8 ∧
      s13x20.dev.runningCmd 0 0 0 114 = some cset_13 ∧
      s13x20.dev.cisternTurn 0 0 cset_13 = true ∧ s13x20.dev.stackHolds 0 cset_13.desc = true ∧
      fieldOf cset_13.desc.q4 63 61 = 0 ∧
      BitVec.toNat cset_13.desc.q5 < 2 ^ 48) ∧
    (s13x21.inService = true ∧
      0 < 8 ∧
      s13x21.dev.runningCmd 0 0 0 114 = some copn_13 ∧
      s13x21.dev.cisternTurn 0 0 copn_13 = true ∧ s13x21.dev.stackHolds 0 copn_13.desc = true ∧
      fieldOf copn_13.desc.q4 63 61 = 1) ∧
    (s13x22.inService = true ∧
      0 < 8 ∧
      s13x22.dev.runningCmd 0 0 0 114 = some c13x23 ∧
      s13x22.dev.cisternTurn 0 0 c13x23 = true ∧ s13x22.dev.stackHolds 0 c13x23.desc = true ∧
      fieldOf c13x23.desc.q4 63 61 = 2 ∧
      (∃ e ok, s13x22.quiet.dev.pushEntry 0 (s13x22.dev.segOf 0 (fieldOf c13x23.desc.q4 15 0)) (fieldOf c13x23.desc.q4 25 24) (fieldOf
        c13x23.desc.q5 63 32) (fieldOf c13x23.desc.q5 31 0) 2 0 c13x23.stepNo = (e, ok))) ∧
    (s13x25.inService = true ∧
      0 < 8 ∧
      s13x25.dev.runningCmd 0 0 0 114 = some c13x26 ∧
      s13x25.dev.cisternTurn 0 0 c13x26 = true ∧ s13x25.dev.stackHolds 0 c13x26.desc = true ∧
      fieldOf c13x26.desc.q4 63 61 = 2 ∧
      (∃ e ok, s13x25.quiet.dev.pushEntry 0 (s13x25.dev.segOf 0 (fieldOf c13x26.desc.q4 15 0)) (fieldOf c13x26.desc.q4 25 24) (fieldOf
        c13x26.desc.q5 63 32) (fieldOf c13x26.desc.q5 31 0) 2 0 c13x23.stepNo = (e, ok))) ∧
    (scn_13.inService = true ∧
      0 < 8 ∧
      scn_13.dev.runningCmd 0 0 0 114 = some c13x23 ∧
      scn_13.dev.cisternTurn 0 0 c13x23 = true ∧ scn_13.dev.stackHolds 0 c13x23.desc = true ∧
      fieldOf c13x23.desc.q4 63 61 = 2 ∧
      (scn_13.quiet.dev.pushEntry 0 (scn_13.dev.segOf 0 (fieldOf c13x23.desc.q4 15 0)) (fieldOf c13x23.desc.q4 25 24) (fieldOf
        c13x23.desc.q5 63 32) (fieldOf c13x23.desc.q5 31 0) 2 0 c13x23.stepNo).2 = false) ∧
    (s13x29.inService = true ∧
      0 < 8 ∧
      s13x29.dev.runningCmd 0 0 0 114 = some c13x30 ∧
      s13x29.dev.cisternTurn 0 0 c13x30 = true ∧ s13x29.dev.stackHolds 0 c13x30.desc = true ∧
      fieldOf c13x30.desc.q4 63 61 = 3) ∧
    (s13x31.inService = true ∧
      0 < 8 ∧
      s13x31.dev.runningCmd 0 0 0 114 = some c13x32 ∧
      s13x31.dev.cisternTurn 0 0 c13x32 = true ∧ s13x31.dev.stackHolds 0 c13x32.desc = true ∧
      fieldOf c13x32.desc.q4 63 61 = 4) ∧
    ((sc_13 (cpu_13 1) [(1,sg_13)]).inService = true ∧ (sc_13 (cpu_13 1) [(1,sg_13)]).dev.runningCmd 0 0 0 114 = some (cpu_13 1) ∧
      (sc_13 (cpu_13 1) [(1,sg_13)]).dev.cisternTurn 0 0 (cpu_13 1) = true ∧
      (sc_13 (cpu_13 1) [(1,sg_13)]).dev.stackHolds 0 (cpu_13 1).desc = true ∧ fieldOf (cpu_13 1).desc.q4 63 61 = 2 ∧
      ((sc_13 (cpu_13 1) [(1,sg_13)]).quiet.dev.pushEntry 0 1 0 0 1 2 0 0).2 = true) ∧
    -- each operation that breaks the stack rule: its segment is closed
    (∀ c ∈ [(cpu_13 1, 2), (c13x30, 3), (c13x32, 4)], (sc_13 c.1 []).inService = true ∧ (sc_13 c.1 []).dev.runningCmd 0 0 0 114 = some c.1 ∧
      (sc_13 c.1 []).dev.cisternTurn 0 0 c.1 = true ∧ (sc_13 c.1 []).dev.stackHolds 0 c.1.desc = false ∧ fieldOf c.1.desc.q4 63 61 = c.2) := by
  and_intros <;> first
    | exact ⟨_, _, rfl⟩
    | exact Device.pushEntry_one _ _ _ _ _ _ _ _ (by decide +kernel) (by decide +kernel)
    | decide +kernel
/-! ### Chapter file 15 -/

def wbs_15 (l : List Nat) : List Byte := l.flatMap (leBytes 8)
def hb_15 (a : Nat) (l : List Nat) : List (Nat × Byte) := (List.range (8*l.length)).zip (wbs_15 l) |>.map fun x => (x.1+a, x.2)
def um_15 : UnitMap := {valid := true, owner := 0, read := 0, alt := 0, copies := [0], offset := 0x300000, tiles := 4}
def tb_15 (graph : Bool) : Table :=
  {graph := graph, rowLog2 := 0, fmt := 0xA, group := 0, n := 100, scale := f32One, contribMax := 1, versions := [(1,[(0,um_15)])]}
def pt_15 (t : Table) : Part := {binds := [(0,[(5,1)])], tables := [(5,some t)]}
def tp_15 : Table := {tb_15 false with fmt := 0, n := 64}
def ub_15 (op : Nat) (q4 : Nat := 5) : Cmd := witCmd 0x80 [0,0,0,op*2^62 + 3*2^57 + q4, 0x1000]
def s15_15 (c : Cmd) (f : Part → Part := id) (g : Device → Device := id) : State := let s := witRun c; {s with dev := g {s.dev with parts := [(0, f (pt_15 tp_15))]}}
def rule_15 (n : Nat) : List Nat := [n*2^56+2^50] ++ List.replicate 11 0 ++ [0x4200000000000000 + 1*2^23 + 0*2^18] ++ List.replicate 31 0
def io15_15 (l : List Nat) : MemIo := {host := hb_15 0x1000 l}
def r15_15 (c : Cmd) (l : List Nat) := ((s15_15 c).quiet.dev.withIo (io15_15 l)).readDva ((s15_15 c).dev.userOf 0 c 0) 0x1000 (8*l.length)
def rl_15 (_ : Cmd) (l : List Nat) : Rule := {handle := 5, words := wordsOf 44 (wbs_15 l)}
def s15x1 : State := (s15_15 (ub_15 0))
def c15x2 : Cmd := (ub_15 0)
def x15x3 : MemIo := (io15_15 (rule_15 1))
def d15x4 : Device := (r15_15 (ub_15 0) (rule_15 1)).1
def x15x5 : List Byte := (wbs_15 (rule_15 1))
def x15x6 : MemIo := (io15_15 (rule_15 33))
def d15x7 : Device := (r15_15 (ub_15 0) (rule_15 33)).1
def x15x8 : List Byte := (wbs_15 (rule_15 33))
def sun_15 : State := s15_15 (ub_15 1) (fun p => {p with rules := [(3,some (rl_15 (ub_15 1) (rule_15 1)))]}) fun d => d.setReg (.updBind 0
  3) 0x500000001
def c15x9 : Cmd := (ub_15 1)
def sch_15 : List Nat := [0x500000002, 0x640000003F800000, 0, 0x3F000000_3F000000, 0x0101000000000000,0,0,0]
def schb_15 : List Nat := [0x500000002, 0x640000003F800000, 0, 0x3F000000_3F000000, 0x0501000000000000,0,0,0]
def us_15 : Cmd := ub_15 2 (6*2^56)
def s15x10 : State := (s15_15 us_15)
def x15x11 : MemIo := (io15_15 sch_15)
def x15x13 : List Byte := (wbs_15 sch_15)
def x15x14 : MemIo := (io15_15 schb_15)
def x15x16 : List Byte := (wbs_15 schb_15)
def ck_15 (n : Nat) : Cmd := witCmd 0x81 [0,0,0,5*2^32,0x1000,n]
def snp_15 : Snapshot := {handle := 5, epoch := 1, step := 4, units := [0]}
def um2_15 : UnitMap := {um_15 with tiles := 1}
def tpc_15 : Table := {tp_15 with versions := [(1,[(0,um2_15)])]}
def sck_15 (n : Nat) : State := s15_15 (ck_15 n) (fun p =>
  {p with tables := [(5,some tpc_15)], snapshots := [(snapKey 0 0, some snp_15)]})
def s15x17 : State := (sck_15 0x2FFF)
def c15x18 : Cmd := (ck_15 0x2FFF)
def tls_15 := ((sck_15 0x3000).quiet.dev.withIo {}).snapTiles ((sck_15 0x3000).dev.userOf 0 (ck_15 0x3000) 0) snp_15 0 um2_15
def tlo_15 := (Except.toOption tls_15.2).getD []
/-- A snapshot of one unit, and one of a column statistic alone: each makes one record. -/
def snc_15 : Snapshot := { snp_15 with units := [], col := [1, 2] }
def scn_15 (n : Snapshot) : State := s15_15 (ck_15 0x3000) fun p => { p with tables := [(5, some tpc_15)], snapshots := [(snapKey 0 0, some n)] }
def st0_15 (n : Snapshot) : Device := (scn_15 n).quiet.dev.withIo {}
def read_15 (n : Snapshot) : Device × Except MemErr (List (List Byte)) :=
  if n.col = [] then (st0_15 n).snapTiles ((st0_15 n).userOf 0 (ck_15 0x3000) 0) n 0 um2_15
  else (st0_15 n, .ok ((List.range 1).map fun k =>
    let bs := (n.col.flatMap fun v => leBytes 4 v.toNat).drop (4096 * k) |>.take 4096
    bs ++ List.replicate (4096 - bs.length) 0))
def tiles_15 (n : Snapshot) : List (List Byte) := (Except.toOption (read_15 n).2).getD []
def wrote_15 (n : Snapshot) : Device × Except MemErr Unit :=
  (read_15 n).1.writeDva ((st0_15 n).userOf 0 (ck_15 0x3000) 0) ((ck_15 0x3000).desc.q5.toNat + 0)
    (recordHeader n.handle n.step n.epoch (if n.col = [] then 0 else 0xFFFFFFFF) 1 (read_15 n).1.chip (if n.col = [] then tpc_15.fmt else 0)
      (if n.col = [] then tpc_15.scale else f32One) ((tiles_15 n).map crc64) ++ (tiles_15 n).flatten)
def ds_15 (n : Snapshot) (i : Nat) : Device :=
  if i = 0 then st0_15 n else (wrote_15 n).1.updPart 0 fun x => { x with
    snapshots := SMap.upd none x.snapshots (snapKey 0 0) fun s => s.map fun s => { s with done := 0 + 1 } }

theorem test_witness_UpdatesBindAndCheckpoint :
    (s15x1.inService = true ∧
      0 < 8 ∧
      s15x1.dev.runningCmd 0 0 0 128 = some c15x2 ∧
      s15x1.dev.slotBlocked 0 c15x2.desc = false ∧
      fieldOf c15x2.desc.q4 63 62 = 0 ∧
      (((s15x1.quiet.dev.withIo x15x3).readDva (s15x1.dev.userOf 0 c15x2 0) (BitVec.toNat c15x2.desc.q5) 352).2).toOption.isSome = true ∧
      d15x4.table 0 (fieldOf c15x2.desc.q4 31 0) = some tp_15 ∧
      d15x4.ruleFault 0 tp_15 { handle := fieldOf c15x2.desc.q4 31 0, words := wordsOf 44 x15x5 } = none) ∧
    (s15x1.inService = true ∧
      0 < 8 ∧
      s15x1.dev.runningCmd 0 0 0 128 = some c15x2 ∧
      s15x1.dev.slotBlocked 0 c15x2.desc = false ∧
      fieldOf c15x2.desc.q4 63 62 = 0 ∧
      (((s15x1.quiet.dev.withIo x15x6).readDva (s15x1.dev.userOf 0 c15x2 0) (BitVec.toNat c15x2.desc.q5) 352).2).toOption.isSome = true ∧
      d15x7.table 0 (fieldOf c15x2.desc.q4 31 0) = some tp_15 ∧
      (d15x7.ruleFault 0 tp_15 { handle := fieldOf c15x2.desc.q4 31 0, words := wordsOf 44 x15x8 }).isSome = true) ∧
    (sun_15.inService = true ∧
      0 < 8 ∧
      sun_15.dev.runningCmd 0 0 0 128 = some c15x9 ∧
      sun_15.dev.slotBlocked 0 c15x9.desc = false ∧
      fieldOf c15x9.desc.q4 63 62 = 1) ∧
    (s15x10.inService = true ∧
      0 < 8 ∧
      s15x10.dev.runningCmd 0 0 0 128 = some us_15 ∧
      s15x10.dev.slotBlocked 0 us_15.desc = false ∧
      fieldOf us_15.desc.q4 63 62 = 2 ∧
      (((s15x10.quiet.dev.withIo x15x11).readDva (s15x10.dev.userOf 0 us_15 0) (BitVec.toNat us_15.desc.q5) 64).2).toOption.isSome = true ∧
      schedFault (wordsOf 8 x15x13) = none) ∧
    (s15x10.inService = true ∧
      0 < 8 ∧
      s15x10.dev.runningCmd 0 0 0 128 = some us_15 ∧
      s15x10.dev.slotBlocked 0 us_15.desc = false ∧
      fieldOf us_15.desc.q4 63 62 = 2 ∧
      (((s15x10.quiet.dev.withIo x15x14).readDva (s15x10.dev.userOf 0 us_15 0) (BitVec.toNat us_15.desc.q5) 64).2).toOption.isSome = true ∧
      (schedFault (wordsOf 8 x15x16)).isSome = true) ∧
    (s15x17.inService = true ∧
      0 < 8 ∧
      s15x17.dev.runningCmd 0 0 0 129 = some c15x18 ∧
      SMap.at' none (s15x17.dev.part 0).snapshots (snapKey 0 0) = some snp_15 ∧
      s15x17.dev.table 0 snp_15.handle = some tpc_15 ∧
      fieldOf c15x18.desc.q6 47 0 < (fun l => List.foldl (fun x1 x2 => x1 + x2) 0 (List.map (fun r => recordSize r.2) l)) (snapRecords
        snp_15 tpc_15)) := by
  and_intros <;> decide +kernel

theorem test_witness_CheckpointOneRecord (n : Snapshot) (hn : n = snp_15 ∨ n = snc_15) :
    (scn_15 n).inService = true ∧ (scn_15 n).dev.runningCmd 0 0 0 129 = some (ck_15 0x3000) ∧
      SMap.at' none ((scn_15 n).dev.part 0).snapshots (snapKey 0 0) = some n ∧ (scn_15 n).dev.table 0 n.handle = some tpc_15 ∧
      let rs := snapRecords n tpc_15
      let size := fun (l : List (Nat × Nat)) => (l.map fun r => recordSize r.2).foldl (· + ·) 0
      size rs ≤ fieldOf (ck_15 0x3000).desc.q6 47 0 ∧ ds_15 n 0 = (scn_15 n).quiet.dev.withIo {} ∧
      ∀ i, (ck_15 0x3000).unit ≤ i → i < rs.length → ∃ (e f : Device) (ts : List (List Byte)),
        let r := rs.getD i (0, 0)
        let isCol := n.col ≠ [] ∧ i + 1 = rs.length
        (isCol → e = ds_15 n i ∧ ts = (List.range r.2).map fun k =>
          let bs := (n.col.flatMap fun v => leBytes 4 v.toNat).drop (4096 * k) |>.take 4096
          bs ++ List.replicate (4096 - bs.length) 0) ∧
        (¬ isCol → (ds_15 n i).snapTiles ((ds_15 n i).userOf 0 (ck_15 0x3000) i) n r.1 (tpc_15.unitAt n.epoch r.1) = (e, .ok ts)) ∧
        e.writeDva ((ds_15 n i).userOf 0 (ck_15 0x3000) i) ((ck_15 0x3000).desc.q5.toNat + size (rs.take i))
          (recordHeader n.handle n.step n.epoch r.1 r.2 e.chip (if isCol then 0 else tpc_15.fmt) (if isCol then f32One else tpc_15.scale)
            (ts.map crc64) ++ ts.flatten) = (f, .ok ()) ∧
        ds_15 n (i + 1) = f.updPart 0 fun x => { x with
          snapshots := SMap.upd none x.snapshots (snapKey 0 0) fun s => s.map fun s => { s with done := i + 1 } } := by
  have h : ((read_15 n).2.toOption = some (tiles_15 n)) ∧ (wrote_15 n).2.toOption = some () := by
    rcases hn with rfl | rfl <;> decide +kernel
  have hw : wrote_15 n = ((wrote_15 n).1, .ok ()) := witOk _ _ h.2
  have hr : read_15 n = ((read_15 n).1, .ok (tiles_15 n)) := witOk _ _ h.1
  rcases hn with rfl | rfl
  · refine ⟨by decide +kernel, by decide +kernel, by decide +kernel, by decide +kernel, by decide +kernel, rfl, fun i _ hi => ?_⟩
    obtain rfl : i = 0 := by have : (snapRecords snp_15 tpc_15).length = 1 := by decide +kernel
                             omega
    refine ⟨_, _, _, fun hc => absurd rfl hc.1, fun _ => hr, ?_, rfl⟩
    simp only [show ¬ (snp_15.col ≠ [] ∧ 0 + 1 = (snapRecords snp_15 tpc_15).length) from fun h => h.1 rfl, if_false]
    exact hw
  · refine ⟨by decide +kernel, by decide +kernel, by decide +kernel, by decide +kernel, by decide +kernel, rfl, fun i _ hi => ?_⟩
    obtain rfl : i = 0 := by have : (snapRecords snc_15 tpc_15).length = 1 := by decide +kernel
                             omega
    have hc : snc_15.col ≠ [] ∧ 0 + 1 = (snapRecords snc_15 tpc_15).length := ⟨by decide, by decide +kernel⟩
    refine ⟨(read_15 snc_15).1, _, tiles_15 snc_15, fun _ => ⟨rfl, rfl⟩, fun h => absurd hc h, ?_, rfl⟩
    simp only [if_pos hc]
    exact hw
/-! ### Chapter file 16 -/

def wbs_16 (l : List Nat) : List Byte := l.flatMap (leBytes 8)
def hb_16 (a : Nat) (l : List Nat) : List (Nat × Byte) := (List.range (8*l.length)).zip (wbs_16 l) |>.map fun x => (x.1+a, x.2)
def um_16 : UnitMap := {valid := true, owner := 0, read := 0, alt := 0, copies := [0], offset := 0x300000, tiles := 4}
def tb_16 (graph : Bool) : Table :=
  {graph := graph, rowLog2 := 0, fmt := 0xA, group := 0, n := 100, scale := f32One, contribMax := 1, versions := [(1,[(0,um_16)])]}
def pk_16 (typ : Nat) (addr : Nat) (flow : Option Nat := none) (body : List (BitVec 128) := []) (rd : Nat := 0) (st : Nat := 0) (src : Nat
  := 9) : Packet := pktHeader typ 0 src 1 (1+body.length) 77 st 0 flow rd addr :: body
def s6_16 (k : Packet) (f : Device → Device := id) (vc : Nat := 0) : State := witOf (f
  {witDev.setFld (.lnkPortStatus 3) Fd.lnkPortStatusState 4 with ports := [(3,{rx := [(vc,k)]})]})
def bc_16 (q7 : Nat := 0) (f : Cmd → Cmd := id) : Cmd := f (witCmd 0x90 [0,0,0,5*2^32 + 3*2^17, 100, f32One*2^32+1, q7])
def grp_16 (ms : List Nat) (d : Device) : Device := {d.setFld (.lnkGroup 0 3) Fd.lnkGroupFormed 1 with groups := [(3,{members := ms})]}
def pool_16 (d : Device) : Device := ((d.setFld (.plcPoolNear 0 0) Fd.plcPoolNearSize 1).setFld (.plcPoolFar 0 0) Fd.plcPoolFarSize
  4).setFld (.plcPoolFar 0 0) Fd.plcPoolFarBase (2^40/2^26)
def s16_16 (c : Cmd) (ms : List Nat) (f : Part → Part := id) (g : Device → Device := id) : State := let s := witRun c; {s with dev := g (pool_16 (grp_16 ms {s.dev with parts := [(0, f {})]}))}
def badIm_16 : MemIo := {host := hb_16 0x1000 [0x54B435957]}
def bc2_16 : Cmd := bc_16 0 fun c => {c with begun := true, aux := [2]}
def t2_16 : Table := tableOf bc2_16.desc
def toldp_16 : Part → Part := fun p =>
  {p with tables := [(5,some t2_16)], confirms := [(9,5,{placed := true, units := [(1,0x300000,4)]})]}
/-- A TABLE_BIND whose image is read: on its first stage, and on its second. -/
def bc1_16 : Cmd := bc_16 0 fun c => {c with begun := true, aux := [1]}
def heard_16 : Part → Part := fun p => {p with tables := [(5,some t2_16)], confirms := [(9,5,{})]}
def noPool_16 (d : Device) : Device := (d.setFld (.plcPoolNear 0 0) Fd.plcPoolNearSize 0).setFld (.plcPoolFar 0 0) Fd.plcPoolFarSize 0
def bigLog_16 (d : Device) : Device := d.setFld (.gthPartLog 0 0) Fd.gthPartLogSize 100
/-- The other members of a binding, what they told, and who was heard. -/
def oth_16 (s : State) (g : Nat) : List Nat := (s.dev.groupMembers 0 g).filter (· != s.dev.chip)
def told_16 (s : State) (e m : Nat) : MemberBind := (s.dev.part 0).told 5 e m
def hd_16 (s : State) (e m : Nat) : Bool := (s.dev.part 0).heard 5 e m
def img_16 (s : State) (c : Cmd) (io : MemIo) (t : Table) (a : Nat) :=
  ((s.quiet.dev.withIo io).imageOf (s.dev.userOf 0 c 0) t 5 a).2.toOption
def put_16 (s : State) (c : Cmd) := (s.quiet.dev.withIo {}).placeUnits 0 (s.dev.userOf 0 c 0) 5 c.ownRecords (s.dev.groupMembers 0 3)
def sPut_16 : State := s16_16 bc1_16 [9,0] heard_16 bigLog_16
def s16x6 : State := (s16_16 bc2_16 [0,9] toldp_16)
def ubc_16 : Cmd := witCmd 0x90 [0,0,0,5*2^32 + 2^31]
def s16x7 : State := (s16_16 ubc_16 [0,9] (fun p => {p with tables := [(5,some (tb_16 false))]}))
def s16x8 : State := (s16_16 ubc_16 [0,9] (fun p => {p with tables := [(5,some (tb_16 false))], gen := 1, binds := [(1,[(5,1)])]}))
def epc_16 : Cmd := {witCmd 0x91 [0,0,0,5*2^32,0,0,77] with begun := true}
def tp_16 : Table :=
  {tb_16 false with publish := some {switchNs := 77}, group := 3, fmt := 0, versions := [(1,[(0,{um_16 with owner := 9})])]}
def sep_16 : State := s16_16 epc_16 [0,9] (fun p => {p with tables := [(5,some tp_16)], confirms := [(9,5,{epoch := 2})]})
/-- An EPOCH_PUBLISH not yet begun, and one whose table has a unit of this chip and whose pools have no room. -/
def epn_16 (a : Nat) : Cmd := witCmd 0x91 [0,0,0,5*2^32,a,0,77]
def sen_16 (a : Nat) : State := s16_16 (epn_16 a) [0,9] (fun p => {p with tables := [(5,some {tp_16 with publish := none})]})
/-- An EPOCH_PUBLISH at a stage, of a table, as another member has told it. -/
def pst_16 (stage : Nat) : Cmd := {epc_16 with aux := [stage]}
def tp1_16 : Table := {tp_16 with versions := [(1,[(0,um_16)])]}
def sps_16 (stage : Nat) (t : Table) (m : MemberBind) (g : Device → Device := id) : State :=
  s16_16 (pst_16 stage) [0,9] (fun p => {p with tables := [(5,some t)], confirms := [(9,5,m)]}) g
/-- A table with a unit of one tile on this chip, the next version of which has its copy on another. -/
def tpw_16 : Table :=
  {tp_16 with versions := [(1,[(0,{um_16 with tiles := 1})]),(2,[(0,{um_16 with tiles := 1, copies := [9], offset := 0x400000})])]}
def pubs_16 (s : State) := (s.quiet.dev.withIo {}).publishUnits 0 (s.dev.userOf 0 (pst_16 3) 0) 5 (pst_16 3).ownRecords (s.dev.groupMembers 0 3)
def pubp_16 (s : State) := (s.quiet.dev.withIo {}).publishPlaces 0 5 (pst_16 1).ownRecords (s.dev.groupMembers 0 3)
/-- A table of which another member offers a copy of a unit, in a pool of this chip or beyond. -/
def tpo_16 : Table := {tp_16 with versions := [(1,[(0,{um_16 with owner := 9, copies := [9,0], tiles := 1})])]}
def live_16 (d : Device) : Device := d.setFld (.lnkPortStatus 3) Fd.lnkPortStatusState 4
def dir_16 (f : Part → Part := id) (l : List DirEntry := []) : State := witOf
  {witDev with parts := [(0, f {tables := [(5,some (tb_16 false))]})], directory := if l = [] then [] else [(dirKey 5 0, l)]}
def x16x11 : Table := (tb_16 false)
def de_16 : DirEntry := {handle := 5, epoch := 1, part := 0, unit := 0, map := um_16}
def s16x12 : State := (dir_16 id [{de_16 with unit := 9}, de_16])
def um1_16 : UnitMap := {um_16 with tiles := 1}
def mv_16 : Move := {handle := 5, unit := 0, src := 0, dst := 9, offset := 0x400000, kind := .move}
def x16x13 : Table := {tb_16 false with versions := [(1,[(0,um1_16)])]}
def s16x18 : State := (witOf witDev)
def x16x19 : List Nat := [9,3]
def c17_16 (f : Device → Device := id) : State := witOf (f (witDev.setFld .glbChip Fd.glbChipChip 17))
def x16x20 : List Nat := [9,3,16]
def x16x21 : List Nat := [9,3,200]
def sm_16 (θ : Nat) : State := c17_16 fun d => {d with time := {samples := [(1000, wordOf (1000+θ), wordOf (1000+θ), 1000)]}}
def s16x22 : State := (sm_16 5)
def s16x23 : State := (sm_16 500)
def s16x24 : State := (sm_16 5000)
def s16x25 : State := (sm_16 (2^64-5000))
def x16x26 : Int := (-5000)
def sixteenth_16 : State := s6_16 (pk_16 0xE 6 none [5, BitVec.ofNat 128 (2^80)])
  (fun d => {d with time := {samples := List.replicate 15 (1000, 1005, 1005, 1000)}}) (vc := 3)
def tq_16 : Packet := pk_16 0xE 6 none [5, 0]
def tr_16 : Packet := pk_16 0xE 6 none [5, BitVec.ofNat 128 (2^80)]
def s16x27 : State := (s6_16 tq_16 (vc := 3))
def s16x28 : State := (s6_16 tr_16 (vc := 3))
def s16x29 : State := (witOf (witDev.setFld .timStatus Fd.timStatusState 2))
def fk_16 (b : Nat) : Packet := pk_16 0xE 5 none [BitVec.ofNat 128 b]
def s16x30 : State := (s6_16 (fk_16 (1+3*2^16)) (vc := 3))
def x16x31 : Packet := (fk_16 (1+3*2^16))
def s16x32 : State := (s6_16 (fk_16 (2^63+2*2^32+2^70)) (fun d =>
  {(d.setFld .plcFeature Fd.plcFeatureBase 1).setFld .plcFeature Fd.plcFeatureAdvertised 3 with levelOut := true, time := {census := [(8,(1,1,3))]}})
  (vc := 3))
def x16x33 : Packet := (fk_16 (2^63+2*2^32+2^70))
def fe_16 (f : Device → Device := id) : State := witOf (f ((witDev.setFld .plcFeature Fd.plcFeatureBase 1).setFld .plcFeature
  Fd.plcFeatureAdvertised 3))
def s16x34 : State := (fe_16 fun d => d.setFld .timStatus Fd.timStatusState 5)
def s16x35 : State := (fe_16 fun d => (d.setFld .timStatus Fd.timStatusState 5).setFld .plcCfg Fd.plcCfgMachineChipsM1 3)

/-- A copy on this chip and one to another: one tile is read and written. -/
def mvs_16 (dst : Nat) : Move := {mv_16 with dst := dst, entry := some 7}
def granted_16 (d : Device) : Device :=
  { d with
    ports := [(3, { credit := (List.range 4).map fun v => (v, 4096) })], readyLists := [(0, [ReadyEntry.mk 0 moveQueue 7 4 15 7 true])] }
def smvs_16 (dst : Nat) : State :=
  let s := dir_16 (fun p => {p with tables := [(5,some {tb_16 false with versions := [(1,[(0,um1_16)])]})], moves := [mvs_16 dst]})
  { s with dev := granted_16 (live_16 s.dev) }
def smvw_16 : State := { smvs_16 9 with dev := { (smvs_16 9).dev with readyLists := [] } }
def mvu_16 : MemUser := { part := 0, cls := 1, die := 0 }
def mvd0_16 (dst : Nat) : Device :=
  let d0 := (smvs_16 dst).quiet.dev.withIo {}
  if dst = (smvs_16 dst).dev.chip then d0.clearScales x16x13 0x400000 1 else d0
def mvr_16 (dst : Nat) := (mvd0_16 dst).readCopy mvu_16 5 0 { um1_16 with read := (mvd0_16 dst).chip } 0
def mvt_16 (dst : Nat) := ((mvr_16 dst).2.toOption).getD (⟨[],[]⟩,[])
def mvw_16 (dst : Nat) := (mvr_16 dst).1.writeTile mvu_16 (dst * 2 ^ 50 + 0x400000 + 4096 * 0) ((mvt_16 dst).1.hdr.drop 8) (mvt_16 dst).1.data (mvt_16 dst).2

set_option maxRecDepth 1000000 in
theorem test_witness_TablesBindAndPublish :
    -- a member that has failed
    (∀ s ∈ [s16_16 (bc_16 0x1000) [0,9] (fun p => {p with confirms := [(9,5,{fail := 1})]})],
      s.inService = true ∧ s.dev.runningCmd 0 0 0 0x90 = some (bc_16 0x1000) ∧ bitOf (bc_16 0x1000).desc.q4.toNat 31 = false ∧
      s.dev.startFault 0 (bc_16 0x1000).desc = none ∧ ((oth_16 s 3).any fun m => (told_16 s 1 m).fail != 0) = true) ∧
    -- an image that is broken, and one without records that waits for the others
    (∀ y ∈ ([(bc_16 0x1000, badIm_16, none), (bc_16, {}, some [])] : List (Cmd × MemIo × Option (List UnitRecord))), ∀ s ∈ [s16_16 y.1 [0,9]],
      s.inService = true ∧ s.dev.runningCmd 0 0 0 0x90 = some y.1 ∧ bitOf y.1.desc.q4.toNat 31 = false ∧ y.1.begun = false ∧
      s.dev.startFault 0 y.1.desc = none ∧ ((oth_16 s 3).all fun m => (told_16 s 1 m).fail == 0) = true ∧
      img_16 s y.1 y.2.1 (tableOf y.1.desc) y.1.desc.q7.toNat = some y.2.2 ∧ (oth_16 s 3).all (hd_16 s 1) = false) ∧
    -- units that find no room
    (∀ s ∈ [s16_16 bc1_16 [0,9] heard_16 noPool_16],
      s.inService = true ∧ s.dev.runningCmd 0 0 0 0x90 = some bc1_16 ∧ bitOf bc1_16.desc.q4.toNat 31 = false ∧ bc1_16.begun = true ∧
      bc1_16.aux = [1] ∧ ((oth_16 s 3).all fun m => (told_16 s 1 m).fail == 0) = true ∧ (oth_16 s 3).all (hd_16 s 1) = true ∧
      s.dev.table 0 5 = some t2_16 ∧ (put_16 s bc1_16).2 = false) ∧
    -- units that are placed, of which the others have not told theirs
    (sPut_16.inService = true ∧ sPut_16.dev.runningCmd 0 0 0 0x90 = some bc1_16 ∧ (oth_16 sPut_16 3).all (hd_16 sPut_16 1) = true ∧
      ((oth_16 sPut_16 3).all fun m => (told_16 sPut_16 1 m).fail == 0) = true ∧ sPut_16.dev.table 0 5 = some t2_16 ∧
      (put_16 sPut_16 bc1_16).2 = true ∧ ((oth_16 sPut_16 3).all fun m => (told_16 sPut_16 1 m).placed) = false) ∧
    (∃ f g : Device, (put_16 sPut_16 bc1_16).1.allotMap 0 5 1 = (f, true) ∧ f.growLogs 0 = (g, true)) ∧
    -- all placed
    (s16x6.inService = true ∧ s16x6.dev.runningCmd 0 0 0 0x90 = some bc2_16 ∧ bitOf bc2_16.desc.q4.toNat 31 = false ∧
      ((oth_16 s16x6 3).all fun m => (told_16 s16x6 1 m).fail == 0) = true ∧ bc2_16.begun = true ∧ bc2_16.aux = [2] ∧
      s16x6.dev.table 0 5 = some t2_16 ∧ ((oth_16 s16x6 3).all fun m => (told_16 s16x6 1 m).placed) = true) ∧
    -- UNBIND
    (∀ s ∈ [s16x7, s16x8], s.inService = true ∧ s.dev.runningCmd 0 0 0 0x90 = some ubc_16 ∧ bitOf ubc_16.desc.q4.toNat 31 = true ∧
      ubc_16.begun = false ∧ s.dev.startFault 0 ubc_16.desc = none) ∧
    -- EPOCH_PUBLISH
    (∀ y ∈ ([(0x1000, badIm_16, none), (0, {}, some [])] : List (Nat × MemIo × Option (List UnitRecord))), ∀ s ∈ [sen_16 y.1],
      s.inService = true ∧ s.dev.runningCmd 0 0 0 0x91 = some (epn_16 y.1) ∧ (epn_16 y.1).begun = false ∧
      s.dev.startFault 0 (epn_16 y.1).desc = none ∧ s.dev.table 0 5 = some {tp_16 with publish := none} ∧
      ((oth_16 s 3).all fun m => (told_16 s 2 m).fail == 0) = true ∧
      img_16 s (epn_16 y.1) y.2.1 {tp_16 with publish := none} (epn_16 y.1).desc.q5.toNat = some y.2.2 ∧
      (oth_16 s 3).all (hd_16 s 2) = false) ∧
    -- its units find no room
    (∀ y ∈ [sps_16 1 tp1_16 {epoch := 2} noPool_16],
      y.inService = true ∧ y.dev.runningCmd 0 0 0 0x91 = some (pst_16 1) ∧ (pst_16 1).begun = true ∧ (pst_16 1).aux = [1] ∧
      y.dev.table 0 5 = some tp1_16 ∧ ((oth_16 y 3).all fun m => (told_16 y 2 m).fail == 0) = true ∧ (oth_16 y 3).all (hd_16 y 2) = true ∧
      tp1_16.current + 1 = 2 ∧ (pubp_16 y).2 = false) ∧
    -- they have places, and the others have offered none
    (∀ y ∈ [sps_16 1 tp_16 {epoch := 2}],
      y.inService = true ∧ y.dev.runningCmd 0 0 0 0x91 = some (pst_16 1) ∧ y.dev.table 0 5 = some tp_16 ∧
      ((oth_16 y 3).all fun m => (told_16 y 2 m).fail == 0) = true ∧ (oth_16 y 3).all (hd_16 y 2) = true ∧ tp_16.current + 1 = 2 ∧
      (pubp_16 y).2 = true ∧ ((oth_16 y 3).all fun m => (told_16 y 2 m).offered) = false) ∧
    ((pubp_16 (sps_16 1 tp_16 {epoch := 2})).1.allotMap 0 5 2).2 = true ∧
    -- every place is offered: one that does not fit, and one that does, to which the others have not agreed
    (∀ x ∈ [(0x7000000, false), (0x400000, true)], ∀ y ∈ [sps_16 2 tpo_16 {epoch := 2, offered := true, units := [(0,x.1,1)]}],
      y.inService = true ∧ y.dev.runningCmd 0 0 0 0x91 = some (pst_16 2) ∧ (pst_16 2).begun = true ∧ (pst_16 2).aux = [2] ∧
      y.dev.table 0 5 = some tpo_16 ∧ tpo_16.current + 1 = 2 ∧ ((oth_16 y 3).all fun m => (told_16 y 2 m).fail == 0) = true ∧
      ((oth_16 y 3).all fun m => (told_16 y 2 m).offered) = true ∧ y.dev.offersFit 0 = x.2 ∧
      ((oth_16 y 3).all fun m => (told_16 y 2 m).agreed) = false) ∧
    -- every member agrees: the tiles are written, the copy's chip cannot be reached, and the link has no credit for it
    (∀ x ∈ ([(tp_16, id, 0), (tpw_16, id, 1), (tpw_16, live_16, 2)] : List (Table × (Device → Device) × Nat)),
      ∀ y ∈ [sps_16 3 x.1 {epoch := 2, agreed := true} x.2.1],
      y.inService = true ∧ y.dev.runningCmd 0 0 0 0x91 = some (pst_16 3) ∧ (pst_16 3).begun = true ∧ (pst_16 3).aux = [3] ∧
      y.dev.table 0 5 = some x.1 ∧ x.1.current + 1 = 2 ∧ ((oth_16 y 3).all fun m => (told_16 y 2 m).fail == 0) = true ∧
      ((oth_16 y 3).all fun m => (told_16 y 2 m).agreed) = true ∧
      (match (pubs_16 y).2 with | .ok _ => 0 | .error .waits => 2 | .error _ => 1) = x.2.2) ∧
    -- a control complex is stopped
    (∀ y ∈ [s16_16 (bc_16 0x1000) [0,9] id (fun d => d.setFld .rasStatus Fd.rasStatusCtrlFault 2)],
      y.inService = true ∧ (List.range 4).any y.dev.stopped = true) := by
  refine ⟨by decide +kernel, by decide +kernel, by decide +kernel, by decide +kernel, ?_, by decide +kernel, by decide +kernel,
    by decide +kernel, by decide +kernel, by decide +kernel, Device.allotMap_snd _ _ _ _ tp_16 (by decide +kernel) (by decide +kernel),
    by decide +kernel, by decide +kernel, by decide +kernel⟩
  obtain ⟨o, ho⟩ := Device.allotMap_eq (put_16 sPut_16 bc1_16).1 0 5 1 t2_16 (by decide +kernel) (by decide +kernel)
  refine ⟨_, _, ho, Device.growLogs_fits _ _ fun die hd => ?_⟩
  rw [Device.setTable_partDies, Device.freeValue_partDies] at hd
  rw [Device.setTable_fld, Device.freeValue_fld]
  have h2 : ∀ die ∈ (put_16 sPut_16 bc1_16).1.partDies 0, 100 ≤ (put_16 sPut_16 bc1_16).1.fld (.gthPartLog die 0) Fd.gthPartLogSize := by
    decide +kernel
  refine Nat.le_trans ?_ (h2 die hd)
  have hp : ((put_16 sPut_16 bc1_16).1.freeValue.2.part 0).tables = [(5, some t2_16)] := by decide +kernel
  unfold Device.logSize Device.setTable
  rw [Device.part_updPart_self]
  simp only [hp, SMap.set, Nat.le_refl, if_true, reduceCtorEq, if_false]
  change (0 + (if t2_16.graph = true then 0 else 4096 * t2_16.contribMax * t2_16.entryBytes) + 2 ^ 24 - 1) / 2 ^ 24 ≤ 100
  decide +kernel

theorem test_witness_DirectoryAndMoves :
    (∀ y ∈ [(1, true), (2, false)],
      dir_16.inService = true ∧ dir_16.dev.stopped (0 % 4) = false ∧
      (SMap.at' [] dir_16.dev.directory (dirKey 5 0)).find? (fun e => e.isFor 0 5 y.1 0) = none ∧
      dir_16.dev.table 0 5 = some x16x11 ∧ y.1 ≠ 0 ∧ (x16x11.unitAt y.1 0).valid = y.2) ∧
    -- a table that is not bound, and a look-up under no epoch
    (∀ y ∈ [(dir_16 fun p => {p with tables := []}, 1), (dir_16, 0)],
      y.1.inService = true ∧ y.1.dev.stopped (0 % 4) = false ∧ (y.2 = 0 ∨ y.1.dev.table 0 5 = none)) ∧
    (s16x12.inService = true ∧ (s16x12.dev.table 0 5).isSome = true ∧
      (SMap.at' [] s16x12.dev.directory (dirKey 5 0)).find? (fun e => e.isFor 0 5 1 0) = some de_16) ∧
    (∀ dst ∈ [0, 9],
      (smvs_16 dst).inService = true ∧
      (((smvs_16 dst).dev.part 0).moves.find? fun v => v.handle == 5 && v.unit == 0 && v.dst == dst && v.src == (smvs_16 dst).dev.chip && !v.copied) =
        some (mvs_16 dst) ∧
      (smvs_16 dst).dev.table 0 5 = some x16x13 ∧ x16x13.unitAt x16x13.current 0 = um1_16 ∧ dieOfOffset um1_16.offset = 0 ∧
      (smvs_16 dst).dev.stopped 0 = false ∧ ((mvs_16 dst).entry.any fun n => ((smvs_16 dst).dev.readyOf um1_16.die).any fun e =>
        e.part == 0 && e.queue == moveQueue && e.idx == n && e.granted) = true ∧
      (mvr_16 dst).2.toOption = some (mvt_16 dst) ∧ (mvw_16 dst).2.toOption = some ()) ∧
    -- a move that no DMA group has been granted to
    (smvw_16.inService = true ∧ (smvw_16.dev.part 0).moves = [mvs_16 9] ∧ smvw_16.dev.table 0 5 = some x16x13 ∧ smvw_16.dev.stopped 0 = false ∧
      smvw_16.dev.readyOf um1_16.die = []) := by
  and_intros <;> decide +kernel

theorem test_witness_TimeAndFeatures :
    (s16x18.inService = true ∧
      s16x18.dev.time.samples = [] ∧
      s16x18.dev.chip < 16384 ∧
      parentOf [] s16x18.dev.chip = none) ∧
    (s16x18.inService = true ∧
      s16x18.dev.time.samples = [] ∧
      s16x18.dev.chip < 16384 ∧
      (∀ r ∈ x16x19, r < 16384) ∧
      parentOf x16x19 s16x18.dev.chip = none) ∧
    (c17_16.inService = true ∧
      c17_16.dev.time.samples = [] ∧
      c17_16.dev.chip < 16384 ∧
      (∀ r ∈ x16x20, r < 16384) ∧
      parentOf x16x20 c17_16.dev.chip = some 16) ∧
    (c17_16.inService = true ∧
      c17_16.dev.time.samples = [] ∧
      c17_16.dev.chip < 16384 ∧
      (∀ r ∈ x16x21, r < 16384) ∧
      parentOf x16x21 c17_16.dev.chip = some 3) ∧
    (s16x22.inService = true ∧
      thetaOf s16x22.dev.time.samples = some 5 ∧
      parentOf x16x20 s16x22.dev.chip = some 16) ∧
    (s16x23.inService = true ∧
      thetaOf s16x23.dev.time.samples = some 500 ∧
      parentOf x16x20 s16x23.dev.chip = some 16) ∧
    (s16x24.inService = true ∧
      thetaOf s16x24.dev.time.samples = some 5000 ∧
      parentOf x16x20 s16x24.dev.chip = some 16) ∧
    (s16x25.inService = true ∧
      thetaOf s16x25.dev.time.samples = some x16x26 ∧
      parentOf x16x20 s16x25.dev.chip = some 16) ∧
    (s16x27.inService = true ∧
      s16x27.dev.arrived 14 6 = some (3, 3, tq_16) ∧
      bitOf (List.getD tq_16 2 0).toNat 80 = false) ∧
    (s16x28.inService = true ∧
      s16x28.dev.arrived 14 6 = some (3, 3, tr_16) ∧
      bitOf (List.getD tr_16 2 0).toNat 80 = true ∧
      s16x28.dev.time.samples.length + 1 ≠ 16) ∧
    (s16x29.inService = true ∧
      s16x29.dev.fld Reg.timStatus Fd.timStatusState ≠ 5 ∧
      s16x29.dev.fld Reg.timStatus Fd.timStatusState ≠ 3) ∧
    (s16x30.inService = true ∧
      s16x30.dev.arrived 14 5 = some (3, 3, x16x31) ∧
      bitsOf (List.getD x16x31 1 0).toNat 63 62 = 0) ∧
    (s16x32.inService = true ∧
      s16x32.dev.arrived 14 5 = some (3, 3, x16x33) ∧
      bitsOf (List.getD x16x33 1 0).toNat 63 62 = 2 ∧
      s16x32.dev.fld Reg.plcFeature Fd.plcFeatureBase ≤ bitsOf (List.getD x16x33 1 0).toNat 47 32 ∧
      bitsOf (List.getD x16x33 1 0).toNat 47 32 ≤ s16x32.dev.fld Reg.plcFeature Fd.plcFeatureAdvertised) ∧
    (fe_16.inService = true ∧
      2 < 0x10000) ∧
    (s16x34.inService = true ∧
      2 < 0x10000) ∧
    (s16x35.inService = true ∧
      2 < 0x10000) ∧
    (s16x34.inService = true ∧
      65535 < 0x10000) ∧
    -- a census of a subtree, an enable out of range, a FEATURE of kind 3
    (∀ y ∈ [(2 ^ 62 + 1 + 3 * 2 ^ 16, 1), (2 ^ 63 + 9 * 2 ^ 32, 2), (2 ^ 63 + 2 ^ 62, 3)], ∀ s ∈ [s6_16 (fk_16 y.1) (vc := 3)],
      s.inService = true ∧ s.dev.arrived 14 5 = some (3, 3, fk_16 y.1) ∧ bitsOf (List.getD (fk_16 y.1) 1 0).toNat 63 62 = y.2 ∧
      (y.2 = 2 → s.dev.fld .plcFeature Fd.plcFeatureAdvertised < bitsOf (List.getD (fk_16 y.1) 1 0).toNat 47 32)) ∧
    -- the sixteenth reply
    (sixteenth_16.inService = true ∧ sixteenth_16.dev.arrived 14 6 = some (3, 3, tr_16) ∧ bitOf (List.getD tr_16 2 0).toNat 80 = true ∧
      sixteenth_16.dev.time.samples.length + 1 = 16 ∧ (thetaOf (sixteenth_16.dev.time.samples ++
        [(wordOf (tr_16.getD 1 0).toNat, wordOf ((tr_16.getD 1 0).toNat / 2 ^ 64), wordOf (tr_16.getD 2 0).toNat, sixteenth_16.dev.now)])).isSome = true) ∧
    -- HOLDOVER of a master, and again
    (∀ v ∈ [5, 3], (witOf (witDev.setFld .timStatus Fd.timStatusState v)).inService = true ∧
      (witOf (witDev.setFld .timStatus Fd.timStatusState v)).dev.fld .timStatus Fd.timStatusState = v) := by
  and_intros <;> decide +kernel
/-! ### Chapter file 17 -/

def two_17 (d : Device) : Device := let d := (d.setFld (.hifPartStatus 1) Fd.hifPartStatusFormed 1).setFld (.ctxPartStatus 1) Fd.ctxPartStatusState 1; let d := (d.setFld (.memPartPtBase 1) Fd.memPartPtBaseEnable 1); {d with layout := [(0, 0), (1, 0), (2, 1)], tlb := [(0, (SMap.at' [] d.tlb 0) ++ [{ part := 1, base := 0, size := 40, leaf := 0x1F }])]}
def cs_17 (op : Nat) (f : Device → Device := id) : State := let s := witRun (witCmd op [0,0,0,77*2^32+1,0x10000]); {s with dev := f (two_17 s.dev)}
def csc_17 (op : Nat) : Cmd := witCmd op [0,0,0,77*2^32+1,0x10000]
def s17x1 : State := (cs_17 0xA0)
def c17x2 : Cmd := (csc_17 0xA0)
def rq_17 (f : Device → Device := id) : State := witOf (f (two_17 witDev))
def s17x3 : State := (rq_17 fun d => (d.setFld (.hifSqStatus 1 3) Fd.hifSqStatusState 1).setFld (.hifSqCfg 1 3) Fd.hifSqCfgEnable 1)
def swr_17 : SwitchRun := {save := true, ctx := 77, area := 0x10000, rings := [(3,1)]}
def rs_17 (f : SwitchRun → SwitchRun := id) (g : Device → Device := id) (_ : Nat := 1) : State := rq_17 fun d => g ((d.setFld
  (.ctxPartStatus 1) Fd.ctxPartStatusState 2).updPart 1 fun x => {x with switch := some (f swr_17), ctxId := 77})
def rs2_17 : State := rs_17 (fun w => {w with crcs := some [5,6,7]}) fun d => {d with saving := [(1,some {})]}
def x17x4 : SwitchRun := {swr_17 with crcs := some [5,6,7]}
def x17x5 : List Word := [5,6,7]
def x17x6 : EngineCtx := {}
def qk_17 : Nat := qkey 1 0
def rsc_17 : State := rs_17 id fun d => {d with queues := [(qk_17,[witCmd 0 []])]}
def emp_17 (f : Device → Device := id) : State := rq_17 fun d => f ((((d.setFld (.ctxPartStatus 1) Fd.ctxPartStatusState 3).setFld
  (.ctxPartStatus 1) Fd.ctxPartStatusSuspended 1).setFld (.ctxPartStatus 1) Fd.ctxPartStatusSuspendedId 77).updPart 1 fun x =>
  {x with ctxId := 77, tables := [(5,none)], segs := [(1,{isOpen := true})]})
def s17x7 : State := (emp_17 fun d =>
  {d with heldSignals := [{part := 1, ctx := 77, die := 0, rel := 1, op := 1, amount := 1, src := 2}]})
def hm_17 : SMap Byte := [(0x10000, 0x57)]
def sv_17 : SavedCtx := {stamp := 5, crcs := [5,6,7], engine := {}}
def rc_17 (f : Device → Device := id) : State := cs_17 0xA1 fun d => f {d with hostMem := hm_17, saves := [sv_17]}
def rr_17 (f : Device → Device := id) : State := emp_17 fun d => f ({d with hostMem := hm_17, saves := [sv_17]}.setFld (.ctxPartArea 1)
  Fd.ctxPartAreaAddr 1)
def swo_17 : SwitchRun := {save := false, ctx := 77, area := 0x10000, prev := 3}
def rk_17 (f : Device → Device := id) : State := rr_17 fun d => f ((d.setFld (.ctxPartStatus 1) Fd.ctxPartStatusState 4).updPart 1 fun x
  => {x with switch := some swo_17})
def s17x8 : State := (rc_17 fun d => {d with hostMem := []})
def c17x9 : Cmd := (csc_17 0xA1)
def s17x10 : State := (rr_17 fun d => {d with saves := []})
def s17x11 : State := (rk_17 fun d => {d with saves := []})
/-- A partition whose area does not translate; one whose context goes beyond the one cluster declared; areas to restore. -/
def noMap_17 (d : Device) : Device := { d with tlb := [] }
def held_17 : HeldSignal := {part := 1, ctx := 78, die := 0, rel := 1, op := 1, amount := 1, src := 2}
def area_17 (s : State) (w : SwitchRun) (l : List (Nat × List Byte)) := (s.quiet.dev.withIo {}).writeArea (s.dev.ctxUser 1) w.area l
def wrote_17 (s : State) (w : SwitchRun) : Device × Except MemErr Unit :=
  let d0 := s.quiet.dev.withIo {}
  let e0 := d0.ctxOf 1 w.declared
  let e : EngineCtx := { e0 with length := (e0.section (d0.free + 1)).length }
  ({ d0 with free := d0.free + 1 + e.records.length } : Device).writeArea (s.dev.ctxUser 1) w.area (d0.sections 1 w e0 d0.free).flatten

theorem test_witness_ContextsSaveAndDiscard :
    (s17x1.inService = true ∧
      0 < 8 ∧
      s17x1.dev.runningCmd 0 0 0 160 = some c17x2 ∧
      c17x2.begun = false ∧
      s17x1.dev.startFault 0 c17x2.desc = none ∧
      s17x1.dev.resetCovers (fieldOf c17x2.desc.q4 2 0) = false) ∧
    (s17x3.inService = true ∧
      1 < 8 ∧
      s17x3.dev.ctxState 1 = 1 ∧
      s17x3.dev.resetCovers 1 = false) ∧
    (rs_17.inService = true ∧
      1 < 8 ∧
      (rs_17.dev.part 1).switch = some swr_17 ∧
      rs_17.dev.ctxState 1 = 2 ∧
      swr_17.crcs = none ∧
      rs_17.dev.switchPoint 1 = true ∧
      rs_17.dev.beyond 1 swr_17.declared = false) ∧
    (rs2_17.inService = true ∧
      1 < 8 ∧
      (rs2_17.dev.part 1).switch = some x17x4 ∧
      rs2_17.dev.ctxState 1 = 2 ∧
      x17x4.crcs = some x17x5 ∧
      SMap.at' none rs2_17.dev.saving 1 = some x17x6) ∧
    (rsc_17.inService = true ∧
      1 < 8 ∧
      (rsc_17.dev.part 1).switch = some swr_17 ∧
      rsc_17.dev.ctxState 1 = 2 ∧
      swr_17.crcs = none ∧
      rsc_17.dev.switchPoint 1 = false ∧
      rsc_17.dev.heldSignals = []) ∧
    (s17x7.inService = true ∧
      1 < 8 ∧
      s17x7.dev.ctxState 1 = 3) ∧
    (rq_17.inService = true ∧
      1 < 8 ∧
      rq_17.dev.ctxState 1 ≠ 3) ∧
    -- a header that is written, and one whose area does not translate
    (∀ y ∈ [(rs2_17, true), (rs_17 (fun w => {w with crcs := some [5,6,7]}) (fun d => noMap_17 {d with saving := [(1,some {})]}), false)],
      y.1.inService = true ∧ (y.1.dev.part 1).switch = some x17x4 ∧ y.1.dev.ctxState 1 = 2 ∧ SMap.at' none y.1.dev.saving 1 = some x17x6 ∧
      (∀ h ∈ y.1.dev.heldSignals, h.ctx ≠ x17x4.ctx) ∧
      (area_17 y.1 x17x4 [(0, y.1.dev.areaHeader 1 x17x4 x17x5)]).2.toOption.isSome = y.2) ∧
    -- an area that does not translate at the switch point
    ((rs_17 id noMap_17).inService = true ∧ ((rs_17 id noMap_17).dev.part 1).switch = some swr_17 ∧ (rs_17 id noMap_17).dev.ctxState 1 = 2 ∧
      (rs_17 id noMap_17).dev.switchPoint 1 = true ∧ (rs_17 id noMap_17).dev.beyond 1 swr_17.declared = false ∧
      (wrote_17 (rs_17 id noMap_17) swr_17).2.toOption.isNone = true) ∧
    -- a context beyond DECLARED
    (∀ s ∈ [rs_17 id fun d => {d with layout := [(0, 0), (2, 1), (3, 1)], streams := [(4096, {armed := true, core := 24})]}],
      s.inService = true ∧ (s.dev.part 1).switch = some swr_17 ∧ s.dev.ctxState 1 = 2 ∧ swr_17.crcs = none ∧ s.dev.switchPoint 1 = true ∧
      s.dev.beyond 1 swr_17.declared = true ∧ (∀ h ∈ s.dev.heldSignals, h.ctx ≠ swr_17.ctx)) ∧
    -- a request in a state that accepts none
    (emp_17.inService = true ∧ emp_17.dev.ctxState 1 ≠ 1) := by
  and_intros <;> decide +kernel

theorem test_witness_ContextsRestore :
    (s17x8.inService = true ∧
      0 < 8 ∧
      s17x8.dev.runningCmd 0 0 0 161 = some c17x9 ∧
      c17x9.begun = false ∧
      s17x8.dev.startFault 0 c17x9.desc = none ∧
      s17x8.dev.resetCovers (fieldOf c17x9.desc.q4 2 0) = false) ∧
    (s17x10.inService = true ∧
      1 < 8 ∧
      (s17x10.dev.ctxState 1 = 1 ∨ s17x10.dev.ctxState 1 = 3) ∧
      s17x10.dev.resetCovers 1 = false) ∧
    (s17x11.inService = true ∧
      1 < 8 ∧
      (s17x11.dev.part 1).switch = some swo_17 ∧
      s17x11.dev.ctxState 1 = 4 ∧
      swo_17.prev < 16 ∧
      s17x11.dev.heldSignals = []) ∧
    -- areas that are refused
    (∀ s ∈ [rk_17 fun d => noMap_17 {d with saves := []}],
      s.inService = true ∧ (s.dev.part 1).switch = some swo_17 ∧ s.dev.ctxState 1 = 4 ∧ swo_17.prev < 16 ∧
      ((s.quiet.dev.withIo {}).readContext 1 swo_17 false).2.toOption.isNone) ∧
    (∀ s ∈ [rr_17 noMap_17],
      s.inService = true ∧ s.dev.ctxState 1 = 3 ∧ s.dev.resetCovers 1 = false ∧
      (((s.quiet.dev.withIo {}).ctxCtrl 1 0).readContext 1 (((s.quiet.dev.withIo {}).ctxCtrl 1 0).ctxRequest 1) true).2.toOption.isNone) := by
  and_intros <;> decide +kernel

/-- An area whose header is that of context 77 and whose sections are zeros, and the save that wrote it. -/
def good_17 (d : Device) : Device :=
  { d with
    hostMem := [(0x10000, 0x57), (0x10001, 0x59), (0x10002, 0x43), (0x10003, 0x58), (0x10004, 1), (0x10008, 77)]
    saves := [{ stamp := 0, crcs := [0, 0, 0], engine := {} }] }
/-- What a device reads of that area: its header, its queue records and its sections. -/
def okHead_17 (d : Device) := d.readDva (d.ctxUser 1) 0x10000 65536
def okBytes_17 (d : Device) : List Byte := (okHead_17 d).2.toOption.getD []
def okRecs_17 (d : Device) := (okHead_17 d).1.readArea (d.ctxUser 1) 0x10000 ((List.range 64).map fun q => (queueAt q, 64))
def okSpans_17 (d : Device) : List (List (Nat × Nat)) := areaSpans ((okRecs_17 d).2.toOption.getD []) (areaHead (okBytes_17 d)) {}
def okGot_17 (d : Device) := (okRecs_17 d).1.readArea (d.ctxUser 1) 0x10000 (okSpans_17 d).flatten
/-- An answer that is one, whatever it is. -/
theorem witGot {a b e : Type} (x : a × Except e b) (v : b) (h : x.2.toOption.isSome = true) : x = (x.1, .ok (x.2.toOption.getD v)) := by
  obtain ⟨y, r⟩ := x
  cases r with
  | error z => simp [Except.toOption] at h
  | ok z => rfl

/-- The pieces of a read lie in host memory, beyond every byte it lists; the device after it. -/
def beyond_17 (u : MemUser) : List (Nat × Nat) → Device → Option Device
  | [], d => some d
  | s :: l, d =>
    match d.translate u s.1 false with
    | (e, .ok (.host a)) => if e.hostMem.all (fun k => decide (k.1 < a)) then beyond_17 u l (e.emit (.hostRead a s.2)) else none
    | _ => none
def beyondAll_17 (u : MemUser) (area : Nat) : List (Nat × Nat) → Device → Option Device
  | [], d => some d
  | x :: l, d => (beyond_17 u (spans (x.2 / 4096 + 2) (area + x.1) x.2) d).bind (beyondAll_17 u area l)

theorem witZeros (d : Device) (a n : Nat) (h : d.hostMem.all (fun k => decide (k.1 < a)) = true) : (d.hostBytes a n).all (· == 0) = true := by
  have hg : ∀ (m : SMap Byte) (k : Nat), a ≤ k → m.all (fun k => decide (k.1 < a)) = true → SMap.get zeroByte m k = 0 := by
    intro m k hk hm
    induction m with
    | nil => rfl
    | cons x m ih =>
      simp only [List.all_cons, Bool.and_eq_true, decide_eq_true_eq] at hm
      simp only [SMap.get]
      rw [if_neg (by omega)]
      exact ih hm.2
  unfold Device.hostBytes SMap.getList
  simp only [List.all_map, List.all_eq_true, Function.comp_apply, beq_iff_eq]
  exact fun i _ => hg _ _ (by omega) h

theorem witBeyond (u : MemUser) (l : List (Nat × Nat)) : ∀ (d e : Device) (bs : List Byte), bs.all (· == 0) = true →
    beyond_17 u l d = some e → ∃ bs' : List Byte, bs'.all (· == 0) = true ∧
      l.foldl (fun (acc : Device × Except MemErr (List Byte)) s =>
        match acc with
        | (d, .error e) => (d, .error e)
        | (d, .ok bs) =>
          match d.translate u s.1 false with
          | (d, .error e) => (d, .error e)
          | (d, .ok x) =>
            match byDva s.1 (d.readPlace u x s.2) with
            | (d, .error e) => (d, .error e)
            | (d, .ok b) => (d, .ok (bs ++ b))) (d, .ok bs) = (e, .ok bs') := by
  induction l with
  | nil => exact fun d e bs hb h => ⟨bs, hb, by cases h; rfl⟩
  | cons s l ih =>
    intro d e bs hb h
    simp only [beyond_17] at h
    split at h
    · rename_i f a ht
      split at h
      · rename_i hm
        obtain ⟨bs', hz, hf⟩ := ih _ _ (bs ++ f.hostBytes a s.2)
          (by rw [List.all_append, hb, witZeros _ _ _ hm]; rfl) h
        refine ⟨bs', hz, ?_⟩
        simp only [List.foldl_cons, ht]
        exact hf
      · cases h
    · cases h

theorem witBeyondAll (u : MemUser) (area : Nat) (l : List (Nat × Nat)) : ∀ (d e : Device) (got : List (Nat × List Byte)),
    (∀ x ∈ got, x.2.all (· == 0) = true) → beyondAll_17 u area l d = some e → ∃ got' : List (Nat × List Byte),
      (∀ x ∈ got', x.2.all (· == 0) = true) ∧
      l.foldl (fun (a : Device × Except MemErr (List (Nat × List Byte))) x =>
        match a with
        | (d, .error e) => (d, .error e)
        | (d, .ok got) =>
          match d.readDva u (area + x.1) x.2 with
          | (d, .error e) => (d, .error e)
          | (d, .ok bs) => (d, .ok (got ++ [(x.1, bs)]))) (d, .ok got) = (e, .ok got') := by
  induction l with
  | nil => exact fun d e got hg h => ⟨got, hg, by cases h; rfl⟩
  | cons x l ih =>
    intro d e got hg h
    simp only [beyondAll_17, Option.bind_eq_some_iff] at h
    obtain ⟨f, hf, h⟩ := h
    obtain ⟨bs, hz, hr⟩ := witBeyond u _ d f [] rfl hf
    obtain ⟨got', hg', hl⟩ := ih f e (got ++ [(x.1, bs)]) (fun y hy => by
      rcases List.mem_append.mp hy with hy | hy
      · exact hg y hy
      · rw [List.mem_singleton.mp hy]; exact hz) h
    refine ⟨got', hg', ?_⟩
    have hr' : d.readDva u (area + x.1) x.2 = (f, .ok bs) := hr
    simp only [List.foldl_cons, hr']
    exact hl

/-- The tests that the area passes, as a kernel computes them: of its header, and of the device that has read it. -/
def okTests_17 (d : Device) : Bool :=
  (okHead_17 d).2.toOption.isSome && (areaHead (okBytes_17 d)).magic && (areaHead (okBytes_17 d)).crcs == [0, 0, 0] &&
    (areaHead (okBytes_17 d)).declared == 0 && (areaHead (okBytes_17 d)).level == 0 && (areaHead (okBytes_17 d)).flags == 0 &&
    (areaHead (okBytes_17 d)).ctx == 77 && (okRecs_17 d).2.toOption.isSome && (okSpans_17 d).length == 3
def okAfter_17 (d : Device) : Option Device := beyondAll_17 (d.ctxUser 1) 0x10000 (okSpans_17 d).flatten (okRecs_17 d).1
def okDevice_17 (first : Bool) (e : Device) : Bool :=
  (!first || e.restorable 1) && (!e.flag (.ctxPartStatus 1) Fd.ctxPartStatusSuspended ||
    e.fld (.ctxPartStatus 1) Fd.ctxPartStatusSuspendedId == 77)

/-- A device that reads the area accepts it. -/
theorem witAccepts (d : Device) (w : SwitchRun) (first : Bool) (hw : w.area = 0x10000 ∧ w.ctx = 77) (ht : okTests_17 d = true)
    (hs : (okRecs_17 d).1.savedAs (areaHead (okBytes_17 d)) = some {}) (hd : (okAfter_17 d).any (okDevice_17 first) = true) :
    (d.readContext 1 w first).2.toOption.isSome = true := by
  rw [Option.any_eq_true] at hd
  obtain ⟨e, he, hd⟩ := hd
  simp only [okTests_17, okDevice_17, Bool.and_eq_true, Bool.or_eq_true, Bool.not_eq_true', beq_iff_eq] at ht hd
  obtain ⟨⟨⟨⟨⟨⟨⟨⟨h1, hm⟩, hc⟩, hn⟩, hl⟩, hf⟩, hx⟩, h2⟩, h3⟩ := ht
  obtain ⟨got, hg, hr⟩ := witBeyondAll _ _ _ (okRecs_17 d).1 e [] (by simp) he
  have hcrc : ((okSpans_17 d).map fun s => sectionCrc (s.map fun x => (x.1, areaBytes got x.1 x.2))) = [0, 0, 0] := by
    have h0 : ∀ s ∈ okSpans_17 d, sectionCrc (s.map fun x => (x.1, areaBytes got x.1 x.2)) = 0 := fun s _ => by
      unfold sectionCrc
      rw [crc64_zeros]
      · rfl
      · rw [List.all_eq_true]
        intro b hb
        obtain ⟨y, hy, hb⟩ := List.mem_flatMap.mp hb
        obtain ⟨x, -, rfl⟩ := List.mem_map.mp hy
        simp only [areaBytes] at hb
        split at hb
        · simp at hb
        · rename_i z hz
          exact List.all_eq_true.mp (hg z (List.mem_of_find?_eq_some hz)) b (List.mem_of_mem_drop (List.mem_of_mem_take hb))
    rw [List.map_congr_left h0, List.map_const', h3]
    rfl
  have h := Device.readContext_accepts d (okHead_17 d).1 (okRecs_17 d).1 e 1 w first (okBytes_17 d)
    ((okRecs_17 d).2.toOption.getD []) got {} (by rw [hw.1]; exact witGot _ [] h1) hm
    (by rw [hw.1]; exact witGot _ [] h2) hs (by rw [hw.1]; exact hr) (hcrc.trans hc.symm) (by omega) (by omega)
    (by omega) (fun h => hd.1.resolve_left (by simp [h])) (fun h => (hd.2.resolve_left (by simp [h])).trans hx.symm)
    (hw.2.trans hx.symm)
  rw [h]
  rfl

/-- The device as a request, a command and the completion of a restore read the area. -/
def okReq_17 : Device := ((rr_17 good_17).quiet.dev.withIo {}).ctxCtrl 1 (wordOf (77 * 2 ^ 32))
def okCmd_17 : Device := ((rc_17 good_17).quiet.dev.withIo {}).updCmd 0 0 0 fun y => { y with begun := true }

set_option maxRecDepth 1000000 in
theorem test_witness_RestoreAccepted :
    (((rk_17 good_17).inService = true ∧ ((rk_17 good_17).dev.part 1).switch = some swo_17 ∧ (rk_17 good_17).dev.ctxState 1 = 4 ∧
      swo_17.prev < 16 ∧ (rk_17 good_17).dev.heldSignals = []) ∧
      (((rk_17 good_17).quiet.dev.withIo {}).readContext 1 swo_17 false).2.toOption.isSome = true) ∧
    (((rr_17 good_17).inService = true ∧ (rr_17 good_17).dev.ctxState 1 = 3 ∧ (rr_17 good_17).dev.resetCovers 1 = false) ∧
      (okReq_17.readContext 1 (okReq_17.ctxRequest 1) true).2.toOption.isSome = true) ∧
    (((rc_17 good_17).inService = true ∧ (rc_17 good_17).dev.runningCmd 0 0 0 0xA1 = some c17x9 ∧ c17x9.begun = false ∧
      ((rc_17 good_17).quiet.dev.withIo {}).startFault 0 c17x9.desc = none ∧ fieldOf c17x9.desc.q4 2 0 = 1 ∧
      (rc_17 good_17).dev.resetCovers 1 = false) ∧
      (okCmd_17.readContext 1 (ctxCommand 0 0 c17x9) true).2.toOption.isSome = true) := by
  refine ⟨⟨by decide +kernel, ?_⟩, ⟨by decide +kernel, ?_⟩, ⟨by decide +kernel, ?_⟩⟩ <;>
    exact witAccepts _ _ _ (by decide +kernel) (by decide +kernel) (by decide +kernel) (by decide +kernel)
/-! ### Chapter file 18 -/

def wbs_18 (l : List Nat) : List Byte := l.flatMap (leBytes 8)
def hb_18 (a : Nat) (l : List Nat) : List (Nat × Byte) := (List.range (8*l.length)).zip (wbs_18 l) |>.map fun x => (x.1+a, x.2)
def le2_18 (l : List Nat) : List Byte := l.flatMap (leBytes 2)
def hh_18 (a : Nat) (l : List Byte) : List (Nat × Byte) := (List.range l.length).zip l |>.map fun x => (x.1+a, x.2)
def cf_18 (n : Nat) (lvl : Nat := 2) : Cmd := witCmd 0xB0 [0,0,0,3*2^54 + lvl*2^32 + (n-1), 0x1000]
def feat_18 (d : Device) : Device := ((d.setFld .plcFeature Fd.plcFeatureAdvertised 3).setFld .plcFeature Fd.plcFeatureEnabled 2)
def s18_18 (c : Cmd) (f : Device → Device := id) : State := let s := witRun c; {s with dev := f (feat_18 s.dev)}
def fio_18 (l : List Nat) : MemIo := {host := hh_18 0x1000 (le2_18 l)}
def s18x1 : State := (s18_18 (cf_18 2))
def c18x2 : Cmd := (cf_18 2)
def x18x3 : MemIo := (fio_18 [5,3])
def x18x5 : List Byte := (le2_18 [5,3])
def s18x6 : State := (s18_18 (cf_18 1))
def c18x7 : Cmd := (cf_18 1)
def x18x8 : MemIo := (fio_18 [0])
def x18x10 : List Byte := (le2_18 [0])
def x18x11 : MemIo := (fio_18 [0,9])
def x18x13 : List Byte := (le2_18 [0,9])
def cfb_18 : Cmd := {cf_18 2 with begun := true, got := [(0, le2_18 [0,9])]}
def vt_18 : FormVote := {chip := 0, members := [0,9], level := 2, advertised := 3, enabled := 2}
def s18x14 : State := (s18_18 cfb_18 fun d => {d with groups := [(3,{votes := [vt_18]})]})
def cd_18 : Cmd := witCmd 0xB0 [0,0,0,2^60 + 3*2^54]
def formed_18 (d : Device) : Device := {d with groups := [(3,{members := [0,9], seq := 4})]}.setReg (.lnkGroup 0 3) 0x8000000200040000
def s18x15 : State := (s18_18 cd_18 fun d =>
  {formed_18 d with collData := [{part := 0, group := 3, seq := 1, chunk := 0, rank := 1, off := 0, data := [1]}]})
def cr_18 (op : Nat) (n : Nat) (hi : Nat := 0) (dst : Nat := 0x2000) : Cmd := witCmd 0xB0 [0,0,0,op*2^60 + 3*2^54 + hi + n, 0x1000, dst]
def i18_18 : MemIo := {host := hb_18 0x1000 [0x3F8000003F800000,2]}
def s18x16 : State := (s18_18 (cr_18 2 2) formed_18)
def c18x18 : Cmd := (cr_18 2 2)
def s18x21 : State := (s18_18 (cr_18 3 16) formed_18)
def c18x23 : Cmd := (cr_18 3 16)
def s18x26 : State := (s18_18 (cr_18 3 16 (2^34)) formed_18)
def c18x27 : Cmd := (cr_18 3 16 (2^34))
def s18x29 : State := (s18_18 (cr_18 4 16) formed_18)
def c18x31 : Cmd := (cr_18 4 16)
def cb_18 (c : Cmd) (n : Nat) : Cmd := {c with begun := true, aux := [5], got := if n = 0 then [] else [(0, List.replicate n 1)]}
def told_18 (c : Cmd) (n : Nat) (d : Device) : Device :=
  {d with groups := [(3,{members := [0,9], seq := 5, told := [(9,5,collWhat c.desc)]})], collData := if n = 0 then [] else [{part := 0, group := 3, seq := 5, chunk := 0, rank := 1, off := 0, data := List.replicate n 2}]}.setReg
  (.lnkGroup 0 3) 0x8000000200040000
def s18x34 : State := (s18_18 (cb_18 (cr_18 2 2) 8) (told_18 (cr_18 2 2) 8))
def c18x36 : Cmd := (cb_18 (cr_18 2 2) 8)
def s18x38 : State := (s18_18 (cb_18 (cr_18 4 16 0 0x200010) 16) (told_18 (cr_18 4 16 0 0x200010) 16))
def c18x40 : Cmd := (cb_18 (cr_18 4 16 0 0x200010) 16)
def s18x42 : State := (s18_18 (cb_18 (cr_18 3 16 (2^34)) 0) (told_18 (cr_18 3 16 (2^34)) 16))
def c18x44 : Cmd := (cb_18 (cr_18 3 16 (2^34)) 0)
def pu_18 : Cmd := cr_18 5 16 0 0x200010
def pu'_18 : Cmd := {pu_18 with desc := {pu_18.desc with q4 := wordOf (5*2^60 + 16)}}
def pr_18 := ((s18_18 pu'_18).quiet.dev.withIo i18_18).readDva ((s18_18 pu'_18).dev.userOf 0 pu'_18 0) 0x1000 16
def prb_18 := (Except.toOption pr_18.2).getD []
def s18x46 : State := (s18_18 pu'_18)
def d18x48 : Device := pr_18.1
/-- The votes of both members: they agree on level 2, or member 9 is below it. -/
def votes_18 (enabled : Nat) (d : Device) : Device := {d with groups := [(3,{votes := [vt_18, {vt_18 with chip := 9, enabled := enabled}]})]}
/-- PUT commands: to this chip with a signal, to chip 9 without one, and with one. -/
def pus_18 (addr sig : Nat) : Cmd := witCmd 0xB0 [0,0,0,5*2^60 + 16, 0x1000, addr, sig * 2 ^ 20 + 2 ^ 32 + 7]
def pur_18 (c : Cmd) := ((s18_18 c).quiet.dev.withIo i18_18).readDva ((s18_18 c).dev.userOf 0 c 0) 0x1000 16
def puw_18 (c : Cmd) := (pur_18 c).1.mergeWrite ((s18_18 c).dev.userOf 0 c 0) (offOf 0x200010 + 0) (((wbs_18 [0x3F8000003F800000,2]).drop 0).take 16) true

theorem test_witness_GroupsFormAndDisband :
    (s18x1.inService = true ∧
      0 < 8 ∧
      s18x1.dev.runningCmd 0 0 0 176 = some c18x2 ∧
      fieldOf c18x2.desc.q4 63 60 = 0 ∧
      c18x2.begun = false ∧
      (s18x1.quiet.dev.withIo x18x3).startFault 0 c18x2.desc = none ∧
      (((s18x1.quiet.dev.withIo x18x3).readDva (s18x1.dev.userOf 0 c18x2 0) (BitVec.toNat c18x2.desc.q5) (2 * (fieldOf c18x2.desc.q4 13 0
        + 1))).2).toOption.isSome = true ∧
      s18x1.dev.listOk { c18x2 with begun := true, got := [(0, x18x5)] }.formList = false) ∧
    (s18x6.inService = true ∧
      0 < 8 ∧
      s18x6.dev.runningCmd 0 0 0 176 = some c18x7 ∧
      fieldOf c18x7.desc.q4 63 60 = 0 ∧
      c18x7.begun = false ∧
      (s18x6.quiet.dev.withIo x18x8).startFault 0 c18x7.desc = none ∧
      (((s18x6.quiet.dev.withIo x18x8).readDva (s18x6.dev.userOf 0 c18x7 0) (BitVec.toNat c18x7.desc.q5) (2 * (fieldOf c18x7.desc.q4 13 0
        + 1))).2).toOption.isSome = true ∧
      { c18x7 with begun := true, got := [(0, x18x10)] }.formList = [s18x6.dev.chip] ∧
      s18x6.dev.listOk { c18x7 with begun := true, got := [(0, x18x10)] }.formList = true ∧
      fieldOf c18x7.desc.q4 47 32 ≤ s18x6.dev.fld Reg.plcFeature Fd.plcFeatureAdvertised ∧
      fieldOf c18x7.desc.q4 47 32 ≤ s18x6.dev.fld Reg.plcFeature Fd.plcFeatureEnabled ∧
      s18x6.dev.levelOut = false) ∧
    (s18x1.inService = true ∧
      0 < 8 ∧
      s18x1.dev.runningCmd 0 0 0 176 = some c18x2 ∧
      fieldOf c18x2.desc.q4 63 60 = 0 ∧
      c18x2.begun = false ∧
      (s18x1.quiet.dev.withIo x18x11).startFault 0 c18x2.desc = none ∧
      (((s18x1.quiet.dev.withIo x18x11).readDva (s18x1.dev.userOf 0 c18x2 0) (BitVec.toNat c18x2.desc.q5) (2 * (fieldOf c18x2.desc.q4 13 0
        + 1))).2).toOption.isSome = true ∧
      s18x1.dev.listOk { c18x2 with begun := true, got := [(0, x18x13)] }.formList = true ∧
      9 ≠ s18x1.dev.chip ∧
      s18x1.dev.voteOf 0 (fieldOf c18x2.desc.q4 59 54) 9 = none) ∧
    (s18x14.inService = true ∧
      0 < 8 ∧
      s18x14.dev.runningCmd 0 0 0 176 = some cfb_18 ∧
      fieldOf cfb_18.desc.q4 63 60 = 0 ∧
      cfb_18.begun = true) ∧
    (s18x15.inService = true ∧
      0 < 8 ∧
      s18x15.dev.runningCmd 0 0 0 176 = some cd_18 ∧
      fieldOf cd_18.desc.q4 63 60 = 1 ∧
      cd_18.begun = false ∧
      s18x15.dev.startFault 0 cd_18.desc = none) ∧
    (∀ y ∈ [(2, true), (1, false)], ∀ s ∈ [s18_18 cfb_18 (votes_18 y.1)],
      s.inService = true ∧ s.dev.runningCmd 0 0 0 176 = some cfb_18 ∧ fieldOf cfb_18.desc.q4 63 60 = 0 ∧ cfb_18.begun = true ∧
      cfb_18.formList = [0, 9] ∧
      (∀ m ∈ cfb_18.formList, (s.dev.voteOf 0 3 m).any (fun v => v.members == cfb_18.formList && v.level == fieldOf cfb_18.desc.q4 47 32) = true) ∧
      (cfb_18.formList.all fun m => (s.dev.voteOf 0 3 m).all fun v =>
        decide (fieldOf cfb_18.desc.q4 47 32 ≤ v.advertised) && decide (fieldOf cfb_18.desc.q4 47 32 ≤ v.enabled)) = y.2 ∧
      s.dev.levelOut = false) ∧
    -- a list in this chip's own memory, of zeros: its start check fails
    (∀ c ∈ [witCmd 0xB0 [0,0,0,3*2^54 + 2*2^32 + 1, 0x200000]], (s18_18 c).inService = true ∧ (s18_18 c).dev.runningCmd 0 0 0 176 = some c ∧
      fieldOf c.desc.q4 63 60 = 0 ∧ c.begun = false ∧ (((s18_18 c).quiet.dev.withIo {}).startFault 0 c.desc).isSome = true) := by
  and_intros <;> decide +kernel

/-- A PUT to another chip while every delivery flow of its die is in use. -/
def pux_18 : Cmd := pus_18 (9 * 2 ^ 50 + 0x200010) 3
def sx_18 : State := s18_18 pux_18 fun d => { d with outFlows := (List.range 4096).map fun i => (i, some (0, 0, 9)) }
def purx_18 := (sx_18.quiet.dev.withIo i18_18).readDva (sx_18.dev.userOf 0 pux_18 0) 0x1000 16

set_option maxRecDepth 1000000 in
theorem test_witness_PutWithoutFlow :
    (sx_18.inService = true ∧ sx_18.dev.runningCmd 0 0 0 176 = some pux_18 ∧ fieldOf pux_18.desc.q4 63 60 = 5 ∧ pux_18.begun = false ∧
      sx_18.dev.startFault 0 pux_18.desc = none ∧ sx_18.dev.own pux_18.desc.q6.toNat = false ∧
      purx_18.2.toOption = some (wbs_18 [0x3F8000003F800000,2])) ∧
    (purx_18.1.takeFlow (sx_18.dev.userOf 0 pux_18 0).die 0 0 0).2 = none :=
  ⟨by decide +kernel, witFlows _ _ _ _ _ (by decide +kernel) (by decide +kernel)⟩

theorem test_witness_CollectivesCombine :
    (s18x16.inService = true ∧
      0 < 8 ∧
      s18x16.dev.runningCmd 0 0 0 176 = some c18x18 ∧
      fieldOf c18x18.desc.q4 63 60 = 2 ∧
      c18x18.begun = false ∧
      s18x16.dev.startFault 0 c18x18.desc = none ∧
      ((((if (collWhat c18x18.desc).op ≠ 3 ∨ List.idxOf s18x16.dev.chip (s18x16.dev.groupMembers 0 (fieldOf c18x18.desc.q4 59 54)) =
        (collWhat c18x18.desc).root then (s18x16.quiet.dev.withIo i18_18).readDva (s18x16.dev.userOf 0 c18x18 0) (BitVec.toNat
        c18x18.desc.q5) (whatBytes (collWhat c18x18.desc)) else (s18x16.quiet.dev.withIo i18_18, Except.ok []))).2).toOption.isSome =
        true)) ∧
    (s18x21.inService = true ∧
      0 < 8 ∧
      s18x21.dev.runningCmd 0 0 0 176 = some c18x23 ∧
      fieldOf c18x23.desc.q4 63 60 = 3 ∧
      c18x23.begun = false ∧
      s18x21.dev.startFault 0 c18x23.desc = none ∧
      ((((if (collWhat c18x23.desc).op ≠ 3 ∨ List.idxOf s18x21.dev.chip (s18x21.dev.groupMembers 0 (fieldOf c18x23.desc.q4 59 54)) =
        (collWhat c18x23.desc).root then (s18x21.quiet.dev.withIo i18_18).readDva (s18x21.dev.userOf 0 c18x23 0) (BitVec.toNat
        c18x23.desc.q5) (whatBytes (collWhat c18x23.desc)) else (s18x21.quiet.dev.withIo i18_18, Except.ok []))).2).toOption.isSome =
        true)) ∧
    (s18x26.inService = true ∧
      0 < 8 ∧
      s18x26.dev.runningCmd 0 0 0 176 = some c18x27 ∧
      fieldOf c18x27.desc.q4 63 60 = 3 ∧
      c18x27.begun = false ∧
      s18x26.dev.startFault 0 c18x27.desc = none ∧
      ((((if (collWhat c18x27.desc).op ≠ 3 ∨ List.idxOf s18x26.dev.chip (s18x26.dev.groupMembers 0 (fieldOf c18x27.desc.q4 59 54)) =
        (collWhat c18x27.desc).root then (s18x26.quiet.dev.withIo i18_18).readDva (s18x26.dev.userOf 0 c18x27 0) (BitVec.toNat
        c18x27.desc.q5) (whatBytes (collWhat c18x27.desc)) else (s18x26.quiet.dev.withIo i18_18, Except.ok []))).2).toOption = some [])) ∧
    (s18x29.inService = true ∧
      0 < 8 ∧
      s18x29.dev.runningCmd 0 0 0 176 = some c18x31 ∧
      fieldOf c18x31.desc.q4 63 60 = 4 ∧
      c18x31.begun = false ∧
      s18x29.dev.startFault 0 c18x31.desc = none ∧
      ((((if (collWhat c18x31.desc).op ≠ 3 ∨ List.idxOf s18x29.dev.chip (s18x29.dev.groupMembers 0 (fieldOf c18x31.desc.q4 59 54)) =
        (collWhat c18x31.desc).root then (s18x29.quiet.dev.withIo i18_18).readDva (s18x29.dev.userOf 0 c18x31 0) (BitVec.toNat
        c18x31.desc.q5) (whatBytes (collWhat c18x31.desc)) else (s18x29.quiet.dev.withIo i18_18, Except.ok []))).2).toOption.isSome =
        true)) ∧
    (s18x34.inService = true ∧
      0 < 8 ∧
      s18x34.dev.runningCmd 0 0 0 176 = some c18x36 ∧
      fieldOf c18x36.desc.q4 63 60 = 2 ∧
      c18x36.begun = true ∧
      ((List.filter (fun x => x != s18x34.dev.chip) (s18x34.dev.groupMembers 0 (fieldOf c18x36.desc.q4 59 54))).all fun m => Option.any
        (fun x => x.2.2 == collWhat c18x36.desc) ((fun m => List.find? (fun x => x.1 == m && x.2.1 == c18x36.aux.getD 0 0)
        (s18x34.dev.group 0 (fieldOf c18x36.desc.q4 59 54)).told) m)) = true ∧
      (((List.map (fun m => if m.1 = s18x34.dev.chip then SMap.at' [] c18x36.got 0 else s18x34.dev.collBytes 0 (fieldOf c18x36.desc.q4 59
        54) (c18x36.aux.getD 0 0) m.2 (collWhat c18x36.desc)) (s18x34.dev.groupMembers 0 (fieldOf c18x36.desc.q4 59
        54)).zipIdx).zipIdx.all fun b => b.1.length == if (collWhat c18x36.desc).op = 3 ∧ b.2 ≠ (collWhat c18x36.desc).root then 0 else
        whatBytes (collWhat c18x36.desc)) = true) ∧
      (((s18x34.quiet.dev.withIo { }).writeDva (s18x34.dev.userOf 0 c18x36 0) (BitVec.toNat c18x36.desc.q6) (if 2 = 2 then reduceBytes
        (collWhat c18x36.desc) (List.map (fun m => if m.1 = s18x34.dev.chip then SMap.at' [] c18x36.got 0 else s18x34.dev.collBytes 0
        (fieldOf c18x36.desc.q4 59 54) (c18x36.aux.getD 0 0) m.2 (collWhat c18x36.desc)) (s18x34.dev.groupMembers 0 (fieldOf
        c18x36.desc.q4 59 54)).zipIdx) else (List.map (fun m => if m.1 = s18x34.dev.chip then SMap.at' [] c18x36.got 0 else
        s18x34.dev.collBytes 0 (fieldOf c18x36.desc.q4 59 54) (c18x36.aux.getD 0 0) m.2 (collWhat c18x36.desc)) (s18x34.dev.groupMembers 0
        (fieldOf c18x36.desc.q4 59 54)).zipIdx).flatten)).2).toOption = some ()) ∧
    (s18x38.inService = true ∧
      0 < 8 ∧
      s18x38.dev.runningCmd 0 0 0 176 = some c18x40 ∧
      fieldOf c18x40.desc.q4 63 60 = 4 ∧
      c18x40.begun = true ∧
      ((List.filter (fun x => x != s18x38.dev.chip) (s18x38.dev.groupMembers 0 (fieldOf c18x40.desc.q4 59 54))).all fun m => Option.any
        (fun x => x.2.2 == collWhat c18x40.desc) ((fun m => List.find? (fun x => x.1 == m && x.2.1 == c18x40.aux.getD 0 0)
        (s18x38.dev.group 0 (fieldOf c18x40.desc.q4 59 54)).told) m)) = true ∧
      (((List.map (fun m => if m.1 = s18x38.dev.chip then SMap.at' [] c18x40.got 0 else s18x38.dev.collBytes 0 (fieldOf c18x40.desc.q4 59
        54) (c18x40.aux.getD 0 0) m.2 (collWhat c18x40.desc)) (s18x38.dev.groupMembers 0 (fieldOf c18x40.desc.q4 59
        54)).zipIdx).zipIdx.all fun b => b.1.length == if (collWhat c18x40.desc).op = 3 ∧ b.2 ≠ (collWhat c18x40.desc).root then 0 else
        whatBytes (collWhat c18x40.desc)) = true) ∧
      (((s18x38.quiet.dev.withIo { }).writeDva (s18x38.dev.userOf 0 c18x40 0) (BitVec.toNat c18x40.desc.q6) (if 4 = 2 then reduceBytes
        (collWhat c18x40.desc) (List.map (fun m => if m.1 = s18x38.dev.chip then SMap.at' [] c18x40.got 0 else s18x38.dev.collBytes 0
        (fieldOf c18x40.desc.q4 59 54) (c18x40.aux.getD 0 0) m.2 (collWhat c18x40.desc)) (s18x38.dev.groupMembers 0 (fieldOf
        c18x40.desc.q4 59 54)).zipIdx) else (List.map (fun m => if m.1 = s18x38.dev.chip then SMap.at' [] c18x40.got 0 else
        s18x38.dev.collBytes 0 (fieldOf c18x40.desc.q4 59 54) (c18x40.aux.getD 0 0) m.2 (collWhat c18x40.desc)) (s18x38.dev.groupMembers 0
        (fieldOf c18x40.desc.q4 59 54)).zipIdx).flatten)).2).toOption = some ()) ∧
    (s18x42.inService = true ∧
      0 < 8 ∧
      s18x42.dev.runningCmd 0 0 0 176 = some c18x44 ∧
      fieldOf c18x44.desc.q4 63 60 = 3 ∧
      c18x44.begun = true ∧
      ((List.filter (fun x => x != s18x42.dev.chip) (s18x42.dev.groupMembers 0 (fieldOf c18x44.desc.q4 59 54))).all fun m => Option.any
        (fun x => x.2.2 == collWhat c18x44.desc) ((fun m => List.find? (fun x => x.1 == m && x.2.1 == c18x44.aux.getD 0 0)
        (s18x42.dev.group 0 (fieldOf c18x44.desc.q4 59 54)).told) m)) = true ∧
      (((List.map (fun m => if m.1 = s18x42.dev.chip then SMap.at' [] c18x44.got 0 else s18x42.dev.collBytes 0 (fieldOf c18x44.desc.q4 59
        54) (c18x44.aux.getD 0 0) m.2 (collWhat c18x44.desc)) (s18x42.dev.groupMembers 0 (fieldOf c18x44.desc.q4 59
        54)).zipIdx).zipIdx.all fun b => b.1.length == if (collWhat c18x44.desc).op = 3 ∧ b.2 ≠ (collWhat c18x44.desc).root then 0 else
        whatBytes (collWhat c18x44.desc)) = true) ∧
      (((s18x42.quiet.dev.withIo { }).writeDva (s18x42.dev.userOf 0 c18x44 0) (BitVec.toNat c18x44.desc.q6) (if 3 = 2 then reduceBytes
        (collWhat c18x44.desc) (List.map (fun m => if m.1 = s18x42.dev.chip then SMap.at' [] c18x44.got 0 else s18x42.dev.collBytes 0
        (fieldOf c18x44.desc.q4 59 54) (c18x44.aux.getD 0 0) m.2 (collWhat c18x44.desc)) (s18x42.dev.groupMembers 0 (fieldOf
        c18x44.desc.q4 59 54)).zipIdx) else (List.map (fun m => if m.1 = s18x42.dev.chip then SMap.at' [] c18x44.got 0 else
        s18x42.dev.collBytes 0 (fieldOf c18x44.desc.q4 59 54) (c18x44.aux.getD 0 0) m.2 (collWhat c18x44.desc)) (s18x42.dev.groupMembers 0
        (fieldOf c18x44.desc.q4 59 54)).zipIdx).flatten)).2).toOption = some ()) ∧
    (s18x46.inService = true ∧
      0 < 8 ∧
      s18x46.dev.runningCmd 0 0 0 176 = some pu'_18 ∧
      fieldOf pu'_18.desc.q4 63 60 = 5 ∧
      5 = 5 ∧
      pu'_18.begun = false ∧
      s18x46.dev.startFault 0 pu'_18.desc = none ∧
      (((s18x46.quiet.dev.withIo i18_18).readDva (s18x46.dev.userOf 0 pu'_18 0) (BitVec.toNat pu'_18.desc.q5) (fieldOf pu'_18.desc.q4 31
        0)).2).toOption = some prb_18 ∧
      s18x46.dev.own (BitVec.toNat pu'_18.desc.q6) = true ∧
      putPieces (BitVec.toNat pu'_18.desc.q6) prb_18.length = [(0, prb_18.length)] ∧
      offsetMapped (offOf (BitVec.toNat pu'_18.desc.q6)) = true ∧
      fieldOf pu'_18.desc.q7 22 20 = 0 ∧
      ((d18x48.mergeWrite (s18x46.dev.userOf 0 pu'_18 0) (offOf (BitVec.toNat pu'_18.desc.q6)) prb_18 true).2).toOption = some ()) ∧
    (∀ y ∈ [(0x200010, 3), (9 * 2 ^ 50 + 0x200010, 0), (9 * 2 ^ 50 + 0x200010, 3)], ∀ c ∈ [pus_18 y.1 y.2],
      (s18_18 c).inService = true ∧ (s18_18 c).dev.runningCmd 0 0 0 176 = some c ∧ fieldOf c.desc.q4 63 60 = 5 ∧ c.begun = false ∧
      (s18_18 c).dev.startFault 0 c.desc = none ∧ fieldOf c.desc.q7 22 20 = y.2 ∧ (s18_18 c).dev.own y.1 = decide (y.1 = 0x200010) ∧
      c.desc.q6.toNat = y.1 ∧ fieldOf c.desc.q4 31 0 = 16 ∧ c.desc.q5.toNat = 0x1000 ∧
      (pur_18 c).2.toOption = some (wbs_18 [0x3F8000003F800000,2]) ∧
      ((pur_18 c).1.takeFlow ((s18_18 c).dev.userOf 0 c 0).die 0 0 0).2 = some 0) ∧
    (∃ ds : Nat → Device, ds 0 = (pur_18 (pus_18 0x200010 3)).1 ∧ putPieces 0x200010 16 = [(0, 16)] ∧
      ∀ i, i < (putPieces 0x200010 16).length → offsetMapped (offOf 0x200010 + ((putPieces 0x200010 16).getD i (0, 0)).1) = true ∧
        (ds i).mergeWrite ((s18_18 (pus_18 0x200010 3)).dev.userOf 0 (pus_18 0x200010 3) 0) (offOf 0x200010 + ((putPieces 0x200010 16).getD i (0, 0)).1)
          (((wbs_18 [0x3F8000003F800000,2]).drop ((putPieces 0x200010 16).getD i (0, 0)).1).take ((putPieces 0x200010 16).getD i (0, 0)).2) true =
          (ds (i + 1), .ok ())) := by
  refine ⟨?_, ?_, ?_, ?_, ?_, ?_, ?_, ?_, ?_, fun i => if i = 0 then (pur_18 (pus_18 0x200010 3)).1 else (puw_18 (pus_18 0x200010 3)).1, rfl, by decide +kernel, ?_⟩
  rotate_right
  · intro i hi
    have hp : putPieces 0x200010 16 = [(0, 16)] := by decide +kernel
    rw [hp] at hi ⊢
    obtain rfl : i = 0 := by simpa using hi
    exact ⟨by decide +kernel, witOk (puw_18 (pus_18 0x200010 3)) () (by decide +kernel)⟩
  all_goals decide +kernel
/-! ### Chapter file 19 -/

def k9_19 (w : Nat) (f : Core → Core := id) : Core := f {st := .running, pmem := [(0, wordOf w)], sregs := [(1, 5)]}
def s9_19 (w : Nat) (f : Core → Core := id) : State := witOf {witDev with cores := [(0, k9_19 w f), (3, {pc := 7})]}
def hd9_19 (b : Nat) (k : Core) : Core := {k with scratch := [(2^22+8, BitVec.ofNat 8 b)]}
def fl9_19 (k : Core) : Core := {k with slots := [(0, {mode := .float, n := 4, sA := 0x3F800000, sB := 0x3F800000})]}
def il9_19 (k : Core) : Core := {k with slots := [(0, {mode := .integer, n := 4}),(1,{mode := .shadow}),(2,{mode := .shadow})]}
def a9_19 (k : Core) : Core := {fl9_19 k with aq := [{word := wordOf 0x1100000000000000, pc := 3, sregs := []}]}
def v9_19 (k : Core) : Core := {k with masks := [(1, 0xF0F), (2, 0x0FF)], vregs := [(3, List.replicate 256 7)]}
def p9_19 (k : Core) : Core := {k with vregs := [(3, List.replicate 256 7)], sregs := [(2, 0x8001)]}
def w9_19 (m : Nat) : Nat := 0x49*2^56 + m*2^54 + 3*2^49 + 5*2^45 + 2*2^37 + 1*2^34
def wbs_19 (l : List Nat) : List Byte := l.flatMap (leBytes 8)
def hh_19 (a : Nat) (l : List Byte) : List (Nat × Byte) := (List.range l.length).zip l |>.map fun x => (x.1+a, x.2)
def c9_19 (k : Core) : Core :=
  {k with chains := [(0, [wordOf (1*2^49)])], scratch := hh_19 0 (wbs_19 [300*2^32+16*2^16+4, 0x1000, 0x2000])}
def d9_19 (k : Core) : Core :=
  {k with tq := [{fmt := 0, scale := 0x3F800000, flags := 0, tensor := 1, row := 0, col := 0, cols := 16, codes := List.replicate 1024 5, scales := []}], chains := [(0, [wordOf (1*2^49)])], scratch := hh_19 0 (wbs_19 [300*2^32+16*2^16, 0x1000, 0x2000])}
def q9_19 (k : Core) : Core := {k with vq := [{word := wordOf 0x4500000000000000, pc := 3, sregs := []}]}
def sf9_19 (s : State) : State := {s with dev := s.dev.setReg (.vecFlags 0) 0x15}
/-- The instruction of a class stands at core 0, which can run it and whose program goes on to the next word. -/
def ready_19 (s : State) (cls : Nat) : Bool :=
  let k := s.dev.core 0
  let it := s.dev.itemAt 0
  s.inService && (k.aq ++ k.vq).all (fun w => w.flow.isNone) && s.dev.canRun 0 && (s.dev.itemFlow 0 it).isNone && !s.dev.stallsOn 0 &&
    wordClass it.word == cls && k.loops.isEmpty && decide (k.pc % 512 ≠ 511)
/-- The device in which core 0's instruction takes effect, with nothing queued. -/
def now_19 (s : State) : Device := s.quiet.dev.takeLease 0
def idle_19 (s : State) : Bool := (s.dev.core 0).aq.isEmpty && (s.dev.core 0).vq.isEmpty

theorem test_witness_ArrayInstructions :
    (∀ s ∈ [s9_19 0x1000200000000000 (hd9_19 0x18), s9_19 0x1000000000000000 (hd9_19 0x11 ∘ fl9_19)],
      ready_19 s 0x10 = true ∧ idle_19 s = true ∧ ((now_19 s).mma 0 (s.dev.itemAt 0)).2 = none) ∧
    (∀ s ∈ [s9_19 0x1000000000000000 (hd9_19 0x1F ∘ fl9_19)],
      ready_19 s 0x10 = true ∧ idle_19 s = true ∧ ((now_19 s).mma 0 (s.dev.itemAt 0)).2.isSome = true) ∧
    (∀ s ∈ [s9_19 0x1104400000000000 fl9_19, s9_19 0x1104400000000010 fl9_19, s9_19 0x1100000000000000 il9_19],
      ready_19 s 0x11 = true ∧ idle_19 s = true ∧
      drainFault (s.dev.core 0) ((s.dev.core 0).view UnitId.array s.dev.free) (s.dev.itemAt 0) = none ∧
      (fieldOf (s.dev.itemAt 0).word 51 50 = 1 ∨ (s.dev.core 0).tq.length < 8)) ∧
    (∀ s ∈ [s9_19 0x1200000000000000 il9_19, s9_19 0x1200000000000000],
      ready_19 s 0x12 = true ∧ idle_19 s = true ∧ ((now_19 s).slotClear 0 (s.dev.itemAt 0)).2 = none) ∧
    (∀ s ∈ [s9_19 0x1300000000000000 il9_19], ready_19 s 0x13 = true ∧ fieldOf (s.dev.itemAt 0).word 55 0 = 0) ∧
    (∀ x ∈ [(0x10, 0x1000000000000000), (0x11, 0x1100000000000000), (0x12, 0x1200000000000000)], ∀ s ∈ [s9_19 x.2 a9_19],
      ready_19 s x.1 = true ∧ (s.dev.core 0).aq ≠ []) ∧
    (∀ s ∈ [s9_19 0 a9_19],
      s.inService = true ∧ s.dev.domState 0 = 2 ∧ (s.dev.core 0).aq = [{word := wordOf 0x1100000000000000, pc := 3, sregs := []}] ∧
      (s.dev.core 0).vq = [] ∧ (s.dev.core 0).tq.length < 8 ∧
      drainFault (s.dev.core 0) ((s.dev.core 0).view UnitId.array s.dev.free) {word := wordOf 0x1100000000000000, pc := 3, sregs := []} = none) := by
  and_intros <;> decide +kernel

theorem test_witness_VectorInstructions :
    (∀ x ∈ [(0x40, s9_19 0x4000008000000000), (0x40, s9_19 0x4000000000000000), (0x41, s9_19 0x4100400000000000),
        (0x41, s9_19 0x4100000000000000), (0x42, s9_19 0x4200400000000000), (0x43, s9_19 0x4324800000000000 v9_19),
        (0x44, s9_19 0x4400000000000000 v9_19), (0x47, s9_19 0x4700080000000000 p9_19), (0x48, s9_19 0x4800C00000000000 v9_19),
        (0x45, s9_19 0x4500000000000000 c9_19), (0x45, s9_19 0x4500000000000000 d9_19)],
      ready_19 x.2 x.1 = true ∧ idle_19 x.2 = true ∧ (now_19 x.2).lacksEntry 0 (x.2.dev.itemAt 0) = false ∧
      ((now_19 x.2).vectorRun 0 (x.2.dev.itemAt 0)).2 = none) ∧
    (∀ x ∈ [(0x40, 0x4000008000000001), (0x41, 0x4100400000000001), (0x42, 0x42004000000003FF), (0x43, 0x4324F00000000000),
        (0x44, 0x44000000000000FF), (0x45, 0x4500000000000001), (0x47, 0x47000F0000000001), (0x48, 0x4800FF0000000001)],
      ∀ s ∈ [s9_19 x.2 v9_19], ready_19 s x.1 = true ∧ idle_19 s = true ∧ (now_19 s).lacksEntry 0 (s.dev.itemAt 0) = false ∧
      ((now_19 s).vectorRun 0 (s.dev.itemAt 0)).2.isSome = true) ∧
    (∀ x ∈ [(0x40, 0x4000000000000000), (0x41, 0x4100000000000000), (0x42, 0x4200400000000000), (0x43, 0x4324800000000000),
        (0x44, 0x4400000000000000), (0x45, 0x4500000000000000), (0x47, 0x4700080000000000), (0x48, 0x4800C00000000000)],
      ∀ s ∈ [s9_19 x.2 q9_19], ready_19 s x.1 = true ∧ (s.dev.core 0).vq ≠ []) ∧
    (∀ x ∈ [(0, 0x4324800000000000), (1, 0x4325100000000000), (2, 0x4325200000000000), (3, 0x4325300000000000), (4, 0x4320400000000000)],
      ∀ s ∈ [s9_19 x.2 v9_19], ready_19 s 0x43 = true ∧ ((now_19 s).vmask 0 (s.dev.itemAt 0)).2 = none ∧
      fieldOf (s.dev.itemAt 0).word 46 44 = x.1) ∧
    (∀ m ∈ [0, 1, 2, 3], ∀ s ∈ [sf9_19 (s9_19 (w9_19 m) v9_19)],
      ready_19 s 0x49 = true ∧ fieldOf (s.dev.itemAt 0).word 33 0 = 0 ∧ fieldOf (s.dev.itemAt 0).word 55 54 = m ∧ idle_19 s = true) ∧
    (∀ s ∈ [s9_19 0x4600000000000000 v9_19], ready_19 s 0x46 = true ∧ fieldOf (s.dev.itemAt 0).word 55 0 = 0) := by
  and_intros <;> decide +kernel
/-! ### Chapter file 20 -/

def x20_20 (p : SramPlace) (b : Nat) : SramRead := {place := p, cls := 2, bits := b}
def s20_1 : State := witOf witDev
def job_20 : State := witOf
  {witDev with cores := [(0, {st := .running, job := some (0,0,0), lease := some 1, loops := [⟨0,0,3⟩]}), (1, {st := .waiting, job := some (0,0,0)})]}
def cmd_20 : Cmd := {witCmd 0x11 [] .running 0x10300 with begun := true}
def own_20 : State := witOf (witPut
  {witDev with cores := [(0, {st := .running, job := some (0,0,0), lease := some 1, loops := [⟨0,0,3⟩]}), (1, {st := .idle, rank := 1})]}
  cmd_20)
/-- The pump of stream 3 works for an ARM. -/
def arm_20 : Cmd := {witCmd 0x30 [0,0,0,3] with begun := true}
def pump_20 : State := witRun arm_20
def fatal_20 : State := witOf (witDev.setFld .rasCfg Fd.rasCfgFatalAction 1)
def reset_20 : State := witOf (witDev.setFld .rasCfg Fd.rasCfgFatalAction 0)
def fault_20 (m : Mgmt := {}) : State := witOf {witDev.setFld .rasStatus Fd.rasStatusCtrlFault 5 with mgmt := m}
def lr20_20 : LogRec := {code := 0x305, cls := 2, body := [7]}
def storm_20 (n : Nat) : State := witOf ((({witDev with link := (32, 4)}.setFld (.hifErrCfg 0) Fd.hifErrCfgEnable 1).setStorm 0 0x305
  {last := some lr20_20, suppressed := n}).setStorm 8 0x305 {last := some lr20_20, suppressed := n})
/-- Whether the injectors of kinds 2 and 3 flip bits of the word read. -/
def hit1_20 (s : State) (x : SramRead) := s.quiet.dev.inject 2 (some x.cls) (s.dev.sramPart x.place)
def hit2_20 (s : State) (x : SramRead) := (hit1_20 s x).1.inject 3 (some x.cls) (s.dev.sramPart x.place)

theorem test_witness_SramWords :
    (∀ y ∈ [(SramPlace.core 3, 0), (.core 3, 1), (.pump 0 3, 1), (.other 3, 1)], ∀ x ∈ [x20_20 y.1 y.2],
      s20_1.inService = true ∧ x.bits = y.2 ∧ (hit1_20 s20_1 x).2 = none ∧ (hit2_20 s20_1 x).2 = none) ∧
    (∀ y ∈ [(s20_1, SramPlace.core 255), (s20_1, .core 256), (job_20, .core 0), (s20_1, .pump 0 3), (s20_1, .pump 9 300), (s20_1, .directory 3 5 1),
        (s20_1, .translation 0 1)], y.1.inService = true ∧ 2 ≤ (x20_20 y.2 2).bits ∧ (y.1.dev.core 0).aq = [] ∧ (y.1.dev.core 0).vq = []) ∧
    (own_20.inService = true ∧ own_20.dev.cmd? 0 0 0 = some cmd_20 ∧ cmd_20.st = .running ∧ cmd_20.worked = false ∧
      (x20_20 (.engine 0 5 0 0 0) 2).place = .engine 0 5 0 0 0) ∧
    (pump_20.inService = true ∧ pump_20.dev.cmd? 0 0 0 = some arm_20 ∧ opcodeOf arm_20.desc = 0x30 ∧ fieldOf arm_20.desc.q4 11 0 = 3 ∧
      arm_20.st = .running ∧ arm_20.worked = false) ∧
    (s20_1.dev.formed 0 = true ∧ (s20_1.dev.part 0).switch = none ∧ s20_1.dev.resets = [] ∧ (x20_20 (.table 0 1) 2).place = .table 0 1) ∧
    (reset_20.inService = true ∧ reset_20.dev.flag .rasCfg Fd.rasCfgFatalAction = false ∧ fatal_20.inService = true ∧
      fatal_20.dev.flag .rasCfg Fd.rasCfgFatalAction = true ∧ fatal_20.dev.resets = [] ∧
      fatal_20.dev.formedParts.all (fun p => (fatal_20.dev.part p).switch.isNone) = true ∧ fatal_20.dev.formedParts = [0]) := by
  and_intros <;> decide +kernel

theorem test_witness_ControlFaultsAndStorms :
    (∀ die ∈ [0, 3], s20_1.running = true ∧ s20_1.dev.ready = true ∧ die < 4 ∧
      bitOf (s20_1.dev.fld Reg.rasStatus Fd.rasStatusCtrlFault) die = false ∧ s20_1.dev.mgmt.restarted = none) ∧
    (∀ s ∈ [witOf {(fatal_20.dev) with mgmt := {restarted := some 5}, now := wordOf 9999999999}],
      s.running = true ∧ s.dev.ready = true ∧ bitOf (s.dev.fld Reg.rasStatus Fd.rasStatusCtrlFault) 2 = false ∧
      s.dev.mgmt.restarted = some 5 ∧ (s.dev.now - 5).toNat < 10000000000 ∧ s.dev.flag .rasCfg Fd.rasCfgFatalAction = true ∧
      s.dev.resets = [] ∧ s.dev.formedParts.all (fun p => (s.dev.part p).switch.isNone) = true) ∧
    (fault_20.running = true ∧ fault_20.dev.ready = true ∧ fault_20.dev.fld Reg.rasStatus Fd.rasStatusCtrlFault ≠ 0 ∧
      fault_20.dev.mgmt.restarting = false ∧ fault_20.dev.resets = [] ∧
      fault_20.dev.formedParts.all (fun p => (fault_20.dev.part p).switch.isNone) = true) ∧
    ((fault_20 {restarting := true}).running = true ∧ (fault_20 {restarting := true}).dev.ready = true ∧
      (fault_20 {restarting := true}).dev.mgmt.restarting = true) ∧
    (s20_1.running = true ∧ (SMap.at' ({} : Storm) (s20_1.dev.errRing 8).storms 0x305).last = none) ∧
    ((storm_20 5).running = true ∧ (SMap.at' ({} : Storm) ((storm_20 5).dev.errRing 0).storms 0x305).last = some lr20_20 ∧ lr20_20.cls < 3 ∧
      (storm_20 5).dev.errRuns 0 = true) := by
  and_intros <;> decide +kernel
/-! ### Chapter file 21 -/

def dm_21 (n st fl pol : Nat) (f : Device → Device := id) : State := witOf (f ((((((witDev.setDom n st).setFld (.pwrDomStatus n)
  Fd.pwrDomStatusPendingEnable (fl%2)).setFld (.pwrDomStatus n) Fd.pwrDomStatusPendingDisable (fl/2)).setRail n 55).setFld (.pwrDomCtrl n)
  Fd.pwrDomCtrlPolicy pol).setFld .pwrLend Fd.pwrLendLendEn 1))
def lv_21 (n : Nat) (d : Device) : Device := {d with cores := [(n,{st := .waiting})]}
def en_21 (n e : Nat) (d : Device) : Device := {d with power := {d.power with entering := [(n,e)], grants := [(n,80),(5,95)]}}
def hold_21 (d : Device) : Device := {d with power := {d.power with hold := true}}
def thr_21 (d : Device) : Device := {d with power := {d.power with throttle := 1}}
def stop_21 (d : Device) : Device := d.setFld .rasStatus Fd.rasStatusCtrlFault 15
def used_21 (n : Nat) (d : Device) : Device := {d with cores := [(n,{st := .running, job := some (0,0,0)})]}
def need_21 (d : Device) : Device := {d with power := {d.power with estimates := (List.range 16).map fun n => (n, 100000)}}

theorem test_witness_DomainStateMachine :
    (∀ y ∈ [(255, 0, true), (399, 2, true), (256, 0, false), (402, 2, false)], ∀ s ∈ [dm_21 y.1 y.2.1 0 0],
      s.managed = true ∧ y.1 < 403 ∧ s.dev.stopped (domDie y.1) = false ∧ s.dev.domState y.1 = y.2.1 ∧ s.dev.switchedDom y.1 = y.2.2 ∧
      s.dev.domLive y.1 = false ∧ s.dev.fld (.pwrDomCtrl y.1) Fd.pwrDomCtrlPolicy = 0) ∧
    -- a domain to be powered, where the budgets have room for it
    (∀ y ∈ [(9, 0, 0, true), (9, 7, 1, true), (305, 7, 1, true)],
      ∀ s ∈ [dm_21 y.1 y.2.1 y.2.2.1 0 (if y.2.2.2 then id else need_21)],
      s.managed = true ∧ s.dev.stopped (domDie y.1) = false ∧ s.dev.domState y.1 = y.2.1 ∧ (y.2.1 = 0 → s.dev.switchedDom y.1 = true) ∧
      s.dev.fld (.pwrDomCtrl y.1) Fd.pwrDomCtrlPolicy = 0 ∧ s.dev.roomFor y.1 = y.2.2.2 ∧
      s.dev.flag (.pwrDomStatus y.1) Fd.pwrDomStatusPendingEnable = decide (y.2.2.1 = 1)) ∧
    (∀ y ∈ [(0, 1, 0), (0, 1, 1), (305, 4, 0), (305, 5, 0), (305, 6, 0), (305, 7, 0), (305, 7, 1), (305, 8, 0), (9, 3, 0), (9, 0, 0)],
      ∀ s ∈ [dm_21 y.1 y.2.1 y.2.2 0],
      s.managed = true ∧ s.dev.stopped (domDie y.1) = false ∧ s.dev.domState y.1 = y.2.1 ∧ s.dev.fld (.pwrDomCtrl y.1) Fd.pwrDomCtrlPolicy = 0 ∧
      s.dev.domLive y.1 = false ∧ s.dev.domBusy y.1 = false ∧
      s.dev.flag (.pwrDomStatus y.1) Fd.pwrDomStatusPendingEnable = decide (y.2.2 = 1)) ∧
    (∀ s ∈ [dm_21 0 1 2 0], s.managed = true ∧ s.dev.domState 0 = 1 ∧ s.dev.flag (.pwrDomStatus 0) Fd.pwrDomStatusPendingDisable = true ∧
      (s.dev.core 0).used = false) ∧
    ((dm_21 272 1 2 0).managed = true ∧ (dm_21 272 1 2 0).dev.domState 272 = 1 ∧ (dm_21 272 1 2 0).dev.domLive 272 = false) ∧
    (∀ y ∈ [(2, true), (2, false), (3, true), (3, false)], ∀ s ∈ [dm_21 0 y.1 0 0 (if y.2 then lv_21 0 else id)],
      s.managed = true ∧ s.dev.stopped (domDie 0) = false ∧ s.dev.domState 0 = y.1 ∧ s.dev.flag .pwrLend Fd.pwrLendLendEn = true ∧
      s.dev.fld (.pwrDomCtrl 0) Fd.pwrDomCtrlPolicy ≠ 1 ∧ s.dev.coreWaits 0 = y.2 ∧ SMap.at' 0 s.dev.power.entering 0 = 0) := by
  and_intros <;> decide +kernel

theorem test_witness_ModuleBudget :
    ∀ w ∈ [999, 1000, 3200, 3201], (witOf (witDev.setFld .pwrBudget Fd.pwrBudgetModuleW w)).dev.fld .pwrBudget Fd.pwrBudgetModuleW = w := by
  decide +kernel

theorem test_witness_GrantsAndHeat :
    (∀ n ∈ [0, 272, 402], (dm_21 n 2 0 0 stop_21).managed = true ∧ (dm_21 n 2 0 0 stop_21).dev.stopped (domDie n) = true) ∧
    (∀ s ∈ [dm_21 0 2 0 0 (used_21 0)], s.managed = true ∧ s.dev.stopped (domDie 0) = false ∧ s.dev.domState 0 = 2 ∧ s.dev.domLive 0 = true) ∧
    -- a domain that is held off
    (∀ y ∈ [(272, 0), (0, 1), (305, 4), (305, 7)], ∀ s ∈ [dm_21 y.1 y.2 0 2],
      s.managed = true ∧ s.dev.stopped (domDie y.1) = false ∧ s.dev.domState y.1 = y.2 ∧ s.dev.fld (.pwrDomCtrl y.1) Fd.pwrDomCtrlPolicy = 2) ∧
    -- a domain to be powered, where the budgets have no room
    (∀ y ∈ [(9, 0, 0, false), (9, 7, 1, false)],
      ∀ s ∈ [dm_21 y.1 y.2.1 y.2.2.1 0 (if y.2.2.2 then id else need_21)],
      s.managed = true ∧ s.dev.stopped (domDie y.1) = false ∧ s.dev.domState y.1 = y.2.1 ∧ (y.2.1 = 0 → s.dev.switchedDom y.1 = true) ∧
      s.dev.fld (.pwrDomCtrl y.1) Fd.pwrDomCtrlPolicy = 0 ∧ s.dev.roomFor y.1 = y.2.2.2 ∧
      s.dev.flag (.pwrDomStatus y.1) Fd.pwrDomStatusPendingEnable = decide (y.2.2.1 = 1)) ∧
    (∀ y ∈ [(272, 2), (0, 1), (305, 4)], ∀ s ∈ [dm_21 y.1 y.2 0 1],
      s.managed = true ∧ s.dev.stopped (domDie y.1) = false ∧ s.dev.domState y.1 = y.2 ∧ s.dev.fld (.pwrDomCtrl y.1) Fd.pwrDomCtrlPolicy = 1) ∧
    (∀ s ∈ [dm_21 0 1 2 0 (used_21 0), dm_21 0 4 0 0 (used_21 0)], s.managed = true ∧ (s.dev.core 0).used = true ∧ s.dev.domBusy 0 = true) ∧
    -- requests that find nothing to do, and a lend exit of a core held on
    (∀ y ∈ [(256, 0), (402, 2), (9, 0), (9, 2), (9, 3)], ∀ s ∈ [dm_21 y.1 y.2 0 0],
      s.managed = true ∧ s.dev.stopped (domDie y.1) = false ∧ s.dev.domState y.1 = y.2 ∧ (y.1 ≠ 9 → s.dev.switchedDom y.1 = false)) ∧
    (∀ s ∈ [dm_21 0 3 0 1], s.managed = true ∧ s.dev.stopped (domDie 0) = false ∧ s.dev.domState 0 = 3 ∧
      s.dev.fld (.pwrDomCtrl 0) Fd.pwrDomCtrlPolicy = 1 ∧ SMap.at' 0 s.dev.power.entering 0 = 0) ∧
    (∀ e ∈ [1, 2], ∀ s ∈ [dm_21 255 3 0 0 (en_21 255 e)],
      s.managed = true ∧ s.dev.stopped (255 / 64) = false ∧ s.dev.domState 255 = 3 ∧ s.dev.coreWaits 255 = false ∧
      SMap.at' 0 s.dev.power.entering 255 = e) ∧
    -- a raise that fits, one that is withheld, one that does not fit
    (∀ y ∈ [(dm_21 0 2 0 0 (en_21 0 0), 95, false, true), (dm_21 0 2 0 0 (hold_21 ∘ en_21 0 0), 81, true, true),
        (dm_21 0 2 0 0 need_21, 80, false, false), (dm_21 0 2 0 0 need_21, 81, false, false)],
      y.1.managed = true ∧ y.1.dev.domState 0 = 2 ∧ y.1.dev.stopped 0 = false ∧ y.1.dev.grantOf 0 < y.2.1 ∧ y.1.dev.raisesHeld 0 = y.2.2.1 ∧
      (y.1.dev.setGrant 0 y.2.1).fits 0 = y.2.2.2) ∧
    ((dm_21 0 3 0 0).managed = true ∧ (dm_21 0 3 0 0).dev.domState 0 ≠ 2) ∧
    (∀ s ∈ [dm_21 0 2 0 0 thr_21], s.managed = true ∧ s.dev.stopped 3 = false ∧ bitOf s.dev.power.throttle 0 = true ∧ s.dev.tjLimit = 95 ∧
      s.dev.stopped 0 = false ∧ (∀ k, k < 4 → (if k = 0 then max 96 (SMap.at' 0 s.dev.power.hottest k) else SMap.at' 0 s.dev.power.hottest k) < 256)) ∧
    ((dm_21 0 2 0 0 stop_21).managed = true ∧ (dm_21 0 2 0 0 stop_21).dev.stopped 0 = true) := by
  and_intros <;> decide +kernel
/-! ### Chapter file 22 -/

def dm_22 (n st asg : Nat) : State := witOf ((witDev.setDom n st).setFld (.pwrDomStatus n) Fd.pwrDomStatusAssigned asg)
def boot_22 : State := witOf ((({witDev with boot := {running := some resetImage}}).setFld .bootStatus Fd.bootStatusState 0).setFld
  .bootStatus Fd.bootStatusStage 1)
def miss_22 : State := witOf {witDev with power := {witDev.power with missed := [(14, 2)]}}
def pow_22 (a b : Nat) : List (Option Nat) := some a :: some b :: List.replicate 13 (some 0)

theorem test_witness_RailsAndSupplies :
    -- a POLICY that is applied, and two that are not
    (∀ y ∈ [(402, 2, 0, 0), (402, 2, 0, 2), (402, 2, 0, 3), (402, 2, 0, 1)], ∀ s ∈ [dm_22 y.1 y.2.1 y.2.2.1],
      s.running = true ∧ s.dev.ready = true ∧ y.1 < 403 ∧ s.dev.domState y.1 ≠ 8 ∧ fieldOf (wordOf y.2.2.2) 1 0 = y.2.2.2 ∧
      s.dev.flag (.pwrDomStatus y.1) Fd.pwrDomStatusAssigned = false) ∧
    (∀ y ∈ [(402, 2, 1, 2), (402, 8, 0, 1)], ∀ s ∈ [dm_22 y.1 y.2.1 y.2.2.1],
      s.running = true ∧ s.dev.ready = true ∧ fieldOf (wordOf y.2.2.2) 1 0 = y.2.2.2 ∧
      (s.dev.domState y.1 = 8 ∨ s.dev.flag (.pwrDomStatus y.1) Fd.pwrDomStatusAssigned = true)) ∧
    -- measurements within the budgets, above that of a die, above the module's, and above it by more than 10 %
    (∀ y ∈ [(700, 700), (701, 0), (1700, 1800), (1700, 1900)], (dm_22 0 2 0).running = true ∧ (dm_22 0 2 0).dev.managed = true ∧ (dm_22 0 2 0).dev.stopped 0 = false ∧
      (dm_22 0 2 0).dev.moduleBudget = 3200 ∧ (pow_22 y.1 y.2).length = 15 ∧ (pow_22 y.1 y.2).all (·.isSome) = true ∧
      (pow_22 y.1 y.2).foldl (fun n x => n + x.getD 0) 0 = y.1 + y.2) ∧
    (List.replicate 15 true).length = 15 ∧ (List.replicate 15 true).all id = true ∧
    (miss_22.running = true ∧ miss_22.dev.managed = true ∧ miss_22.dev.stopped 0 = false ∧ 2 ≤ SMap.at' 0 miss_22.dev.power.missed 14 ∧
      ([] : List (Option Nat)).getD 14 none = none ∧ (List.replicate 14 true).getD 14 false = false) ∧
    ((List.replicate 7 (some true) ++ [some false]).getD 7 none = some false ∧ (dm_22 0 2 0).dev.ready = true ∧ 2 ≤ (dm_22 0 2 0).dev.stage ∧
      boot_22.bringUp 1 = true ∧ boot_22.running = true ∧ boot_22.dev.stopped 0 = false) ∧
    -- the control complex of die 0 is stopped
    (∀ s ∈ [witOf (witDev.setFld .rasStatus Fd.rasStatusCtrlFault 1)], s.running = true ∧ s.dev.stopped 0 = true) := by
  and_intros <;> decide +kernel
/-! ### Chapter file 23 -/

def m23_23 (m : Mgmt) (f : Device → Device := id) : State := witOf (f {witDev with mgmt := m})
def img_23 (ok : Bool) : Image := { resetImage with sigOk := ok, digestOk := true, stepping := 0xA1, version := 0xFFFF0000, length := 100 }
def alias_23 : Mgmt := { spdm := 3, aliasKey := some 5 }
def stg_23 (n : Nat) (d : Device) : Device := (d.setFld .mgtStageList Fd.mgtStageListEntries n).setFld .mgtStatus Fd.mgtStatusUpdateBusy 1
def upd_23 (u : UpdateRun) : State := m23_23 {update := some u} (stg_23 1)
def rec_23 (n : Nat) : LogRec := {code := n, cls := 2}

theorem test_witness_ManagementAnswers :
    (∀ n ∈ [0, 1, 2, 3], (m23_23 {spdm := n}).serves = true ∧ (m23_23 {spdm := n}).dev.mgmt.spdm = n) ∧
    (∀ y ∈ [(alias_23, some 5), ({spdm := 3}, none)], (m23_23 y.1).serves = true ∧ (m23_23 y.1).dev.mgmt.spdm = 3 ∧
      (m23_23 y.1).dev.mgmt.aliasKey = y.2) ∧
    -- a module whose bring-up has HALTED, and one whose die 0 is stopped
    (∀ s ∈ [m23_23 {} (·.setFld .bootStatus Fd.bootStatusState 2), m23_23 {} (·.setFld .rasStatus Fd.rasStatusCtrlFault 1)],
      s.answering = true ∧ s.serves = false) ∧
    -- a token too soon after the last, one without a signature, one that is this module's, and one that is not
    ((m23_23 {token := some 0}).serves = true ∧ ((0 : Word) - 0).toNat < 100000000 ∧ (m23_23 {}).dev.mgmt.token = none ∧
      (∀ tok ∈ [List.replicate 8 0 ++ leBytes 16 (m23_23 {}).dev.flash.idSerial ++ (m23_23 {}).dev.nonce ++ [7, 1]],
        (tok.drop 8).take 16 = leBytes 16 (m23_23 {}).dev.flash.idSerial ∧ (tok.drop 24).take 32 = (m23_23 {}).dev.nonce.take 32)) ∧
    (m23_23 {}).dev.events = [] ∧ (m23_23 {} fun d => {d with events := [rec_23 1, rec_23 2]}).dev.events = [rec_23 1, rec_23 2] ∧
    (m23_23 {} fun d => {d with events := [rec_23 1, rec_23 2]}).serves = true := by
  and_intros <;> decide +kernel

theorem test_witness_FirmwareUpdates :
    (∀ n ∈ [1, 1024, 0, 1025], (m23_23 {} (stg_23 n)).serves = true ∧ (m23_23 {} (stg_23 n)).dev.mgmt.update = none ∧
      (m23_23 {} (stg_23 n)).dev.fld Reg.mgtStageList Fd.mgtStageListEntries = n) ∧
    (∀ u ∈ [({component := 1} : UpdateRun), {component := 2}, {component := 1, verified := true}, {component := 2, verified := true},
        {component := 1, verified := true, applied := true}, {component := 2, board := resetFlash.board}],
      (upd_23 u).serves = true ∧ (upd_23 u).dev.mgmt.update = some u ∧ u.length < 2 ^ 32 ∧
      (upd_23 u).dev.fld Reg.mgtStageList Fd.mgtStageListEntries = 1) ∧
    (65535 + [(1 : Byte)].length ≤ 1 * 65536 ∧ 55 + [(1 : Byte)].length ≤ 56 ∧ 1 * 65536 < 65535 + [(1 : Byte), 2].length ∧
      56 < 56 + [(1 : Byte)].length) ∧
    (boardOk resetFlash.board = true ∧ boardOk [] = false ∧ pushResult false (img_23 false) ≠ 2 ∧ pushResult false (img_23 true) = 2) := by
  refine ⟨by decide +kernel, by decide +kernel, by decide +kernel, by decide +kernel, by decide +kernel, by decide +kernel, ?_⟩
  exact witPush _ (by decide +kernel) (by decide +kernel)
end

section
/-! PROOF. The wrappers of a command: what every command gives, and those of the blocks that answer from the end of Snowdrop. -/

namespace Sys2Proof.Machine

/-! ### Every command goes on -/

theorem act_writes_device (f : Device → Device) (s : State) : ∃ d : Device, act f s = .next { s with dev := d } := ⟨_, rfl⟩

/-- Every row of the table is an action on the device: it goes on, and the queue stays. -/
theorem exec_writes_device (c : Instr) (s : State) : ∃ d : Device, exec c s = .next { s with dev := d } := by
  cases c <;> exact act_writes_device _ s

/-- Settles O3: a command writes the device alone, so it goes on and the queue stays. -/
theorem everyCommandGoesOn : Obligations.EveryCommandGoesOn := by
  intro c s
  obtain ⟨d, h⟩ := exec_writes_device c s
  exact ⟨_, h, rfl⟩

/-! ### Commands of the blocks that answer early, and of firmware of die 0 -/

theorem State.answering_parts {s : State} (h : s.answering = true) : s.running = true ∧ s.dev.answers = true := by
  simpa [State.answering] using h

theorem State.serves_parts {s : State} (h : s.serves = true) :
    s.answering = true ∧ s.dev.halted = false ∧ s.dev.stopped 0 = false := by
  simpa [State.serves, and_assoc] using h

theorem State.answering_flowDone {s : State} (h : s.answering = true) : s.dev.flowDone = [] :=
  (State.running_parts (State.answering_parts h).1).2

theorem State.inService_of_answering {s : State} (h : s.answering = true) (hr : s.dev.ready = true) : s.inService = true := by
  simp [State.inService, (State.answering_parts h).1, hr]

/-- R58: a command of a block that answers. -/
theorem early_answering {s : State} (f : Device → Device) (h : s.answering = true) :
    early f s = .next { s with dev := (f s.quiet.dev).settleFlows } := by
  obtain ⟨hrun, hans⟩ := State.answering_parts h
  have hans' : ({ s.dev with out := [] } : Device).answers = true := hans
  rw [early, live_awake _ _ (State.running_parts hrun).1, if_pos hans']
  rfl

/-- A command of a block that answers, where it is known what it does and that it releases no flow item. -/
theorem early_eq {s : State} {f g : Device → Device} (h : s.answering = true) (hg : f s.quiet.dev = g s.quiet.dev)
    (hf : (g s.quiet.dev).flowDone = s.dev.flowDone) : early f s = .next (s.after g) := by
  rw [early_answering f h, hg, Device.settleFlows_nil _ (hf.trans (State.answering_flowDone h))]
  rfl

/-- R23: what firmware of die 0 serves, where it serves. -/
theorem serving_serves {s : State} (f : Device → Device) (h : s.serves = true) : serving f s = early f s := by
  obtain ⟨ha, hh, hs⟩ := State.serves_parts h
  have hh' : s.quiet.dev.halted = false := hh
  have hs' : s.quiet.dev.stopped 0 = false := hs
  rw [serving, early_answering _ ha, early_answering _ ha]
  simp [hh', hs']

/-- R24, R57: what firmware of die 0 does not serve has no effect. -/
theorem serving_withheld {s : State} (f : Device → Device) (ha : s.answering = true) (h : s.serves = false) :
    serving f s = .next s.quiet := by
  have hc : (s.dev.halted || s.dev.stopped 0) = true := by
    simpa [State.serves, ha, or_iff_not_imp_left] using h
  exact early_eq (g := id) ha (if_pos hc) rfl

end Sys2Proof.Machine
end

section
/-! PROOF. O28: register writes, the debug port and the perturbation registers. -/

namespace Sys2Proof.Machine

/-! ### What a register write by access codes gives -/

theorem plainRegs_inRange : ∀ r ∈ plainRegs, r.inRange = true := by decide +kernel

/-- R9: a plain register is written by its access codes alone. -/
theorem Device.regEffect_plain (d : Device) (fn off : Nat) (w : Word) {r : Reg} (h : r ∈ plainRegs) :
    d.regEffect fn off w r = d.writePlain r w := by
  simp only [plainRegs, List.mem_append, List.mem_cons, List.mem_flatMap, List.mem_map, List.mem_range, List.not_mem_nil, or_false] at h
  rcases h with (((h | ⟨p, -, h⟩) | ⟨d, -, h⟩) | ⟨d, -, p, -, h⟩) | ⟨c, -, rfl⟩
  · rcases h with rfl | rfl | rfl | rfl | rfl | rfl | rfl | rfl | rfl | rfl | rfl | rfl <;> rfl
  · rcases h with rfl | rfl | rfl | rfl | rfl | rfl <;> rfl
  · rcases h with rfl | rfl <;> rfl
  · rcases h with rfl | rfl | rfl <;> rfl
  · rfl

/-- R9: what registers read after a write of a plain register, in a device with the same registers. -/
theorem Device.reads_writePlain {d e : Device} {r : Reg} (w : Word) (hp : r ∈ plainRegs) (he : e.regs = (d.writePlain r w).regs) :
    e.reg r = writtenPlain r (d.reg r) w ∧ d.sameRegs e [r] := by
  constructor
  · rw [Device.reg_congr he]
    exact Device.reg_setReg_self _ _ _ (plainRegs_inRange r hp)
  · intro x hx
    rw [Device.reg_congr he]
    exact Device.reg_setReg_ne _ _ _ _ (by simpa using hx)

/-- What an access brings from outside does not change which register answers. -/
theorem State.regAt_withIo (s : State) (io : MemIo) (fn off : Nat) : (s.quiet.dev.withIo io).regAt fn off = s.dev.regAt fn off := rfl

/-! ### REGISTER_WRITE -/

/-- R8: an aligned write of a block that answers. -/
theorem exec_registerWrite_aligned {s : State} {fn off : Nat} (w : Word) (io : MemIo) (ha : s.answering = true) (h8 : off % 8 = 0) :
    exec (.registerWrite fn off w io) s =
      .next { s with dev := (((s.quiet.dev.withIo io).regWrite fn off w).endIo).settleFlows } := by
  change execRegisterWrite fn off w io s = _
  rw [execRegisterWrite, early_answering _ ha, Device.when, if_pos (by simpa using h8)]

/-- A write that is not aligned reaches no register. -/
theorem exec_registerWrite_unaligned {s : State} {fn off : Nat} (w : Word) (io : MemIo) (ha : s.answering = true) (h8 : off % 8 ≠ 0) :
    exec (.registerWrite fn off w io) s = .next s.quiet :=
  early_eq (g := id) ha (if_neg (by simpa using h8)) rfl

/-- R8, R9: a write has the effect of the register that answers. -/
theorem Device.regWrite_some {d : Device} {fn off : Nat} (w : Word) {r : Reg} (h : d.regAt fn off = some r) :
    d.regWrite fn off w = d.regEffect fn off w r := by
  simp only [Device.regWrite, h]

/-- R8: a write in service at an offset where no register answers has no effect. -/
theorem Device.regWrite_none {d : Device} {fn off : Nat} (w : Word) (hr : d.ready = true) (h : d.regAt fn off = none) :
    d.regWrite fn off w = d := by
  simp [Device.regWrite, h, Device.earlyReset, hr]

/-- R9: a write of a plain register changes that register by its access codes, and no other. -/
theorem exec_registerWrite_plain {s : State} {fn off : Nat} (w : Word) (io : MemIo) {r : Reg} (ha : s.answering = true)
    (h8 : off % 8 = 0) (hr : s.dev.regAt fn off = some r) (hp : r ∈ plainRegs) :
    exec (.registerWrite fn off w io) s = .next (s.after fun d => ((d.withIo io).writePlain r w).endIo) := by
  have hw : (s.quiet.dev.withIo io).regWrite fn off w = (s.quiet.dev.withIo io).writePlain r w :=
    (Device.regWrite_some w ((s.regAt_withIo io _ _).trans hr)).trans (Device.regEffect_plain _ _ _ _ hp)
  have hf : ((s.quiet.dev.withIo io).writePlain r w).endIo.flowDone = [] :=
    (Device.setReg_flowDone _ _ _).trans (State.answering_flowDone ha)
  rw [exec_registerWrite_aligned w io ha h8, hw, Device.settleFlows_nil _ hf]
  rfl

theorem exec_registerWrite_none {s : State} {fn off : Nat} (w : Word) (io : MemIo) (ha : s.answering = true) (h8 : off % 8 = 0)
    (hr : s.dev.ready = true) (h : s.dev.regAt fn off = none) :
    exec (.registerWrite fn off w io) s = .next (s.after fun d => (d.withIo io).endIo) := by
  have hw : (s.quiet.dev.withIo io).regWrite fn off w = s.quiet.dev.withIo io :=
    Device.regWrite_none w hr ((s.regAt_withIo io fn off).trans h)
  have hf : (s.quiet.dev.withIo io).endIo.flowDone = [] := State.answering_flowDone ha
  rw [exec_registerWrite_aligned w io ha h8, hw, Device.settleFlows_nil _ hf]
  rfl

/-! ### A reset requested by CTX_RESET before READY (R58) -/

@[simp] theorem Device.ready_withIo (d : Device) (io : MemIo) : (d.withIo io).ready = d.ready := rfl
@[simp] theorem Device.ready_endIo (d : Device) : d.endIo.ready = d.ready := rfl
@[simp] theorem Device.ready_out (d : Device) (o : List Out) : ({ d with out := o } : Device).ready = d.ready := rfl

/-- R58: what a reset request by register before READY does: RESULT 3 and a record whose code is open. -/
def Device.ignoredReset (d : Device) : Device :=
  (d.freeValue.2.showReset true false 3).logModule (fieldOf d.freeValue.1 15 0) 0 []

theorem Device.requestReset_early {d : Device} (scope target : Nat) (hr : d.ready = false) :
    d.requestReset scope target true false = d.ignoredReset := by
  simp [Device.requestReset, hr, Device.ignoredReset]

/-- R421: every scope that CTX_RESET names is requested; before READY the device reset as well. -/
theorem Device.ctxResetWrite_early {d : Device} {w : Word} (hr : d.ready = false) (h1 : 1 ≤ fieldOf w 58 56) (h5 : fieldOf w 58 56 ≤ 5) :
    d.ctxResetWrite w = d.ignoredReset := by
  have scopes : fieldOf w 58 56 = 1 ∨ fieldOf w 58 56 = 2 ∨ fieldOf w 58 56 = 3 ∨ fieldOf w 58 56 = 4 ∨ fieldOf w 58 56 = 5 := by omega
  rcases scopes with h | h | h | h | h <;>
    simp [Device.ctxResetWrite, h, Device.requestDevice, hr, Device.requestReset_early]

theorem ctxReset_not_logged : Reg.ctxReset.offset ∉ logRegs.map Reg.offset := by decide
theorem bootStatus_not_logged : Reg.bootStatus.offset ∉ logRegs.map Reg.offset := by decide

@[simp] theorem Device.ignoredReset_resets (d : Device) : d.ignoredReset.resets = d.resets := by
  simp [Device.ignoredReset, Device.showReset, Device.freeValue]
@[simp] theorem Device.ignoredReset_mem (d : Device) : d.ignoredReset.mem = d.mem := by
  simp [Device.ignoredReset, Device.showReset, Device.freeValue]
@[simp] theorem Device.ignoredReset_queues (d : Device) : d.ignoredReset.queues = d.queues := by
  simp [Device.ignoredReset, Device.showReset, Device.freeValue]
@[simp] theorem Device.ignoredReset_flowDone (d : Device) : d.ignoredReset.flowDone = d.flowDone := by
  simp [Device.ignoredReset, Device.showReset, Device.freeValue]

@[simp] theorem Device.ignoredReset_ready (d : Device) : d.ignoredReset.ready = d.ready := by
  rw [Device.ready, Device.ignoredReset, Device.fld_logModule _ _ _ _ _ _ _ _ bootStatus_not_logged, Device.showReset, if_pos rfl,
    Device.fld_setFld_ne _ _ _ _ _ _ (by decide), Device.fld_setFld_ne _ _ _ _ _ _ (by decide), Device.freeValue_fld]
  rfl

@[simp] theorem Device.ignoredReset_result (d : Device) : d.ignoredReset.fld .ctxReset Fd.ctxResetResult = 3 := by
  rw [Device.ignoredReset, Device.fld_logModule _ _ _ _ _ _ _ _ ctxReset_not_logged]
  exact Device.fld_setFld_self _ _ _ _ rfl (by decide) (by decide)

theorem ofOffset_ctxReset : Reg.ofOffset Reg.ctxReset.offset = some .ctxReset := rfl

/-- R58: before READY the physical function's write at CTX_RESET reaches the reset request alone. -/
theorem Device.regWrite_ctxReset_early {d : Device} (w : Word) (ha : d.answers = true) (hr : d.ready = false) :
    d.regWrite 0 Reg.ctxReset.offset w = d.ctxResetWrite w := by
  have hb : earlyBlock Reg.ctxReset.offset = false := by decide
  have hn : d.regAt 0 Reg.ctxReset.offset = none := by simp [Device.regAt, hr, hb]
  simp [Device.regWrite, hn, Device.earlyReset, ha, hr, ofOffset_ctxReset, Device.when]

/-- R58: a reset that CTX_RESET requests before READY is ignored, with RESULT 3 and a record. -/
theorem exec_registerWrite_ctxReset_early {s : State} {w : Word} (ha : s.answering = true) (hr : s.dev.ready = false)
    (h1 : 1 ≤ fieldOf w 58 56) (h5 : fieldOf w 58 56 ≤ 5) :
    exec (.registerWrite 0 Reg.ctxReset.offset w {}) s = .next (s.after fun d => ((d.withIo {}).ignoredReset).endIo) := by
  have ha' : (s.quiet.dev.withIo {}).answers = true := (State.answering_parts ha).2
  have hr' : (s.quiet.dev.withIo {}).ready = false := hr
  have hw : (s.quiet.dev.withIo {}).regWrite 0 Reg.ctxReset.offset w = (s.quiet.dev.withIo {}).ignoredReset := by
    rw [Device.regWrite_ctxReset_early w ha' hr', Device.ctxResetWrite_early hr' h1 h5]
  have hf : (s.quiet.dev.withIo {}).ignoredReset.endIo.flowDone = [] := by
    rw [Device.endIo_flowDone, Device.ignoredReset_flowDone, Device.withIo_flowDone]
    exact State.answering_flowDone ha
  rw [exec_registerWrite_aligned w {} ha (by decide), hw, Device.settleFlows_nil _ hf]
  rfl

/-! ### The debug port (R441) -/

@[simp] theorem Device.freeValue_flowDone (d : Device) : d.freeValue.2.flowDone = d.flowDone := rfl

/-- What a register shows may use up free values, and changes nothing else. -/
theorem Device.regView_flowDone (d : Device) (r : Reg) : (d.regView r).2.flowDone = d.flowDone := by
  unfold Device.regView
  split <;> simp only [apply_ite Prod.snd, apply_ite Device.flowDone, Device.freeValue_flowDone, ite_self]

theorem Device.regRead_flowDone (d : Device) (fn off : Nat) : (d.regRead fn off).2.flowDone = d.flowDone := by
  unfold Device.regRead
  split
  · rfl
  · exact Device.regView_flowDone _ _

theorem exec_debugRead64_unlocked {s : State} {off : Nat} (hs : s.serves = true) (h8 : off % 8 = 0)
    (hu : bitOf (s.dev.fld .tstStatus Fd.tstStatusUnlocked) 1 = true) :
    exec (.debugRead64 off) s = .next (s.after fun d =>
      (d.regRead 0 off).2.debugAnswer "DEBUG_READ64" 0 (leBytes 8 (d.regRead 0 off).1.toNat)) := by
  change execDebugRead64 off s = _
  rw [execDebugRead64, serving_serves _ hs]
  exact early_eq (State.serves_parts hs).1 (if_pos ⟨hu, h8⟩) (Device.regRead_flowDone _ _ _)

theorem exec_debugRead64_locked {s : State} {off : Nat} (hs : s.serves = true)
    (hu : bitOf (s.dev.fld .tstStatus Fd.tstStatusUnlocked) 1 = false) :
    exec (.debugRead64 off) s = .next (s.after fun d => d.debugAnswer "DEBUG_READ64" 1 []) := by
  change execDebugRead64 off s = _
  rw [execDebugRead64, serving_serves _ hs]
  exact early_eq (State.serves_parts hs).1 (if_neg fun h => Bool.false_ne_true (hu.symm.trans h.1)) rfl

theorem exec_debugWrite64_locked {s : State} {off : Nat} (w : Word) (io : MemIo) (hs : s.serves = true)
    (hu : bitOf (s.dev.fld .tstStatus Fd.tstStatusUnlocked) 2 = false) :
    exec (.debugWrite64 off w io) s = .next (s.after fun d => d.debugAnswer "DEBUG_WRITE64" 1 []) := by
  change execDebugWrite64 off w io s = _
  rw [execDebugWrite64, serving_serves _ hs]
  exact early_eq (State.serves_parts hs).1 (if_neg fun h => Bool.false_ne_true (hu.symm.trans h.1)) rfl

/-- R441: an unlocked aligned write has the effect of the register that answers the physical function, and is answered. -/
theorem exec_debugWrite64_unlocked {s : State} {off : Nat} (w : Word) (io : MemIo) {r : Reg} (hs : s.serves = true) (h8 : off % 8 = 0)
    (hu : bitOf (s.dev.fld .tstStatus Fd.tstStatusUnlocked) 2 = true) (hr : s.dev.regAt 0 off = some r) :
    exec (.debugWrite64 off w io) s = .next { s with
      dev := ((((s.quiet.dev.withIo io).regEffect 0 off w r).endIo).debugAnswer "DEBUG_WRITE64" 0 []).settleFlows } := by
  have hu' : bitOf (s.quiet.dev.fld .tstStatus Fd.tstStatusUnlocked) 2 = true := hu
  have hw : (s.quiet.dev.withIo io).regWrite 0 off w = (s.quiet.dev.withIo io).regEffect 0 off w r :=
    Device.regWrite_some w ((s.regAt_withIo io _ _).trans hr)
  change execDebugWrite64 off w io s = _
  rw [execDebugWrite64, serving_serves _ hs, early_answering _ (State.serves_parts hs).1, if_pos ⟨hu', h8⟩, hw]

/-- R441: an answer without data is one reply without packets. -/
theorem Device.debugAnswer_nil (d : Device) (name : String) (code : Nat) :
    d.debugAnswer name code [] = d.emit (.mgmtReply 0x7E name code []) := by
  have h : d.mgmt.unit = 0 ∨ ([] : List Byte).length + d.mgmt.unit - 1 < d.mgmt.unit := by simp only [List.length_nil]; omega
  rw [Device.debugAnswer, Device.answer, Mgmt.packets, Nat.div_eq_zero_iff.2 h]
  rfl

theorem exec_debugWrite64_plain {s : State} {off : Nat} (w : Word) (io : MemIo) {r : Reg} (hs : s.serves = true) (h8 : off % 8 = 0)
    (hu : bitOf (s.dev.fld .tstStatus Fd.tstStatusUnlocked) 2 = true) (hr : s.dev.regAt 0 off = some r) (hp : r ∈ plainRegs) :
    exec (.debugWrite64 off w io) s =
      .next (s.after fun d => (((d.withIo io).writePlain r w).endIo).emit (.mgmtReply 0x7E "DEBUG_WRITE64" 0 [])) := by
  rw [exec_debugWrite64_unlocked w io hs h8 hu hr, Device.regEffect_plain _ _ _ _ hp, Device.debugAnswer_nil, Device.settleFlows_nil]
  · rfl
  · exact (Device.setReg_flowDone _ _ _).trans (State.answering_flowDone (State.serves_parts hs).1)

/-! ### The perturbation registers (R434) -/

theorem tstRegs_inRange : ∀ r ∈ tstRegs, r.inRange = true := by decide
theorem tstRegs_apart : ∀ r ∈ tstRegs, ∀ x ∈ tstRegs, x ≠ r → x.offset ≠ r.offset := by decide
theorem tstRegs_not_logged : ∀ r ∈ tstRegs, r.offset ∉ logRegs.map Reg.offset := by decide
theorem tstRegs_ne_status : ∀ r ∈ tstRegs, r.offset ≠ Reg.tstStatus.offset := by decide
theorem tstStatus_not_logged : Reg.tstStatus.offset ∉ logRegs.map Reg.offset := by decide
theorem ofOffset_tstRegs : ∀ r ∈ tstRegs, Reg.ofOffset r.offset = some r := by decide +kernel

theorem Device.reg_logTst (d : Device) (r : Reg) (h : r.offset ∉ logRegs.map Reg.offset) : d.logTst.reg r = d.reg r :=
  Device.reg_logModule _ _ _ _ _ _ _ h
@[simp] theorem Device.logTst_mem (d : Device) : d.logTst.mem = d.mem := Device.logModule_mem _ _ _ _ _ _
@[simp] theorem Device.logTst_flowDone (d : Device) : d.logTst.flowDone = d.flowDone := Device.logModule_flowDone _ _ _ _ _ _
@[simp] theorem Device.logTst_injectors (d : Device) : d.logTst.injectors = d.injectors := Device.logModule_injectors _ _ _ _ _ _

/-- R434: a write of a perturbation register while PERTURB is unlocked finds its value there already, or sets it, with a record; the
write of an injector may change the injectors. -/
theorem Device.tstWrite_cases (d : Device) {r : Reg} (w : Word) (hr : r ∈ tstRegs) (hp : d.perturbs = true) :
    (d.tstWrite r w = d ∧ writtenRw r (d.reg r) w = d.reg r) ∨
      ∃ inj, d.tstWrite r w = ({ d.setReg r (writtenRw r (d.reg r) w) with injectors := inj } : Device).logTst ∧
        ((∀ k, r ≠ .tstInject k) → inj = d.injectors) := by
  by_cases hv : writtenRw r (d.reg r) w = d.reg r
  · exact .inl ⟨if_neg fun h => h.2.2 hv, hv⟩
  · right
    rw [Device.tstWrite, if_pos ⟨hp, by simpa using hr, hv⟩]
    split
    · exact ⟨_, rfl, fun hk => absurd rfl (hk _)⟩
    · exact ⟨_, rfl, fun _ => Device.setReg_injectors _ _ _⟩

theorem Device.tstWrite_locked (d : Device) (r : Reg) (w : Word) (hp : d.perturbs = false) : d.tstWrite r w = d := by
  simp [Device.tstWrite, hp]

theorem Device.reg_tstWrite_self (d : Device) {r : Reg} (w : Word) (hr : r ∈ tstRegs) (hp : d.perturbs = true) :
    (d.tstWrite r w).reg r = writtenRw r (d.reg r) w := by
  rcases d.tstWrite_cases w hr hp with ⟨h, hv⟩ | ⟨inj, h, -⟩
  · rw [h, hv]
  · rw [h, Device.reg_logTst _ _ (tstRegs_not_logged r hr)]
    exact Device.reg_setReg_self _ _ _ (tstRegs_inRange r hr)

theorem Device.reg_tstWrite_ne (d : Device) {r x : Reg} (w : Word) (hr : r ∈ tstRegs) (hx : x ∈ tstRegs) (hne : x ≠ r)
    (hp : d.perturbs = true) : (d.tstWrite r w).reg x = d.reg x := by
  rcases d.tstWrite_cases w hr hp with ⟨h, -⟩ | ⟨inj, h, -⟩
  · rw [h]
  · rw [h, Device.reg_logTst _ _ (tstRegs_not_logged x hx)]
    exact Device.reg_setReg_ne _ _ _ _ (tstRegs_apart r hr x hx hne)

theorem Device.tstWrite_mem (d : Device) {r : Reg} (w : Word) (hr : r ∈ tstRegs) (hp : d.perturbs = true) :
    (d.tstWrite r w).mem = d.mem := by
  rcases d.tstWrite_cases w hr hp with ⟨h, -⟩ | ⟨inj, h, -⟩ <;> simp [h]

theorem Device.tstWrite_flowDone (d : Device) {r : Reg} (w : Word) (hr : r ∈ tstRegs) (hp : d.perturbs = true) :
    (d.tstWrite r w).flowDone = d.flowDone := by
  rcases d.tstWrite_cases w hr hp with ⟨h, -⟩ | ⟨inj, h, -⟩ <;> simp [h]

theorem Device.tstWrite_injectors (d : Device) {r : Reg} (w : Word) (hr : r ∈ tstRegs) (hp : d.perturbs = true)
    (hk : ∀ k, r ≠ .tstInject k) : (d.tstWrite r w).injectors = d.injectors := by
  rcases d.tstWrite_cases w hr hp with ⟨h, -⟩ | ⟨inj, h, hi⟩
  · rw [h]
  · rw [h, Device.logTst_injectors, hi hk]

theorem exec_tstSettingsWrite_unlocked {s : State} {r : Reg} (w : Word) (hs : s.inService = true) (hr : r ∈ tstRegs)
    (hp : s.dev.perturbs = true) : exec (.tstSettingsWrite r.offset w) s = .next (s.after (·.tstWrite r w)) := by
  change execTstSettingsWrite r.offset w s = _
  rw [execTstSettingsWrite]
  exact run_eq hs (by rw [ofOffset_tstRegs r hr]) (Device.tstWrite_flowDone s.quiet.dev w hr hp)

theorem exec_tstSettingsWrite_locked {s : State} (off : Nat) (w : Word) (hs : s.inService = true) (hp : s.dev.perturbs = false) :
    exec (.tstSettingsWrite off w) s = .next s.quiet := by
  change execTstSettingsWrite off w s = _
  rw [execTstSettingsWrite]
  refine run_eq (g := id) hs ?_ rfl
  split
  · exact Device.tstWrite_locked s.quiet.dev _ w hp
  · rfl

/-! ### RELOCK -/

/-- Registers that are reset read their values after reset. -/
theorem Device.reg_resetRegs_mem (d : Device) (rs : List Reg) {r : Reg} (hin : r.inRange = true)
    (hap : ∀ x ∈ rs, x ≠ r → r.offset ≠ x.offset) (h : r ∈ rs ∨ d.reg r = r.resetValue) : (d.resetRegs rs).reg r = r.resetValue := by
  induction rs generalizing d with
  | nil => exact h.resolve_left List.not_mem_nil
  | cons x rs ih =>
    refine ih (d.resetReg x) (fun y hy => hap y (List.mem_cons_of_mem _ hy)) ?_
    by_cases hx : x = r
    · exact .inr (by rw [hx]; exact Device.reg_setReg_self _ _ _ hin)
    · rcases h with h | h
      · exact .inl ((List.mem_cons.1 h).resolve_left (Ne.symm hx))
      · exact .inr ((Device.reg_setReg_ne _ _ _ _ (hap x List.mem_cons_self hx)).trans h)

theorem Device.resetRegs_mem (d : Device) (rs : List Reg) : (d.resetRegs rs).mem = d.mem :=
  Device.foldl_frame Device.mem _ (fun d r => d.setReg_mem r r.resetValue) rs d
theorem Device.resetRegs_flowDone (d : Device) (rs : List Reg) : (d.resetRegs rs).flowDone = d.flowDone :=
  Device.foldl_frame Device.flowDone _ (fun d r => d.setReg_flowDone r r.resetValue) rs d

/-- The device as RELOCK leaves it but for its record. -/
def Device.tstCleared (d : Device) : Device := ({ d.resetRegs tstRegs with injectors := [] } : Device).resetReg .tstStatus

theorem Device.reg_clearInjectors (d : Device) {r : Reg} (h : r.offset ≠ Reg.tstStatus.offset) :
    (({ d with injectors := [] } : Device).resetReg .tstStatus).reg r = d.reg r := Device.reg_setReg_ne _ _ _ _ h

theorem Device.relock_cases (d : Device) : d.relock = d.tstCleared.logTst ∨ d.relock = d.tstCleared := by
  unfold Device.relock
  exact ite_eq_or_eq _ _ _

/-- A register that logging does not write reads as RELOCK leaves it. -/
theorem Device.reg_relock (d : Device) {r : Reg} (h : r.offset ∉ logRegs.map Reg.offset) : d.relock.reg r = d.tstCleared.reg r := by
  rcases d.relock_cases with e | e
  · rw [e, Device.reg_logTst _ _ h]
  · rw [e]

theorem Device.tstCleared_mem (d : Device) : d.tstCleared.mem = d.mem := by
  rw [Device.tstCleared, Device.resetReg, Device.setReg_mem]
  exact d.resetRegs_mem tstRegs

theorem Device.tstCleared_flowDone (d : Device) : d.tstCleared.flowDone = d.flowDone := by
  rw [Device.tstCleared, Device.resetReg, Device.setReg_flowDone]
  exact d.resetRegs_flowDone tstRegs

theorem Device.tstCleared_injectors (d : Device) : d.tstCleared.injectors = [] := Device.setReg_injectors _ _ _

theorem Device.relock_mem (d : Device) : d.relock.mem = d.mem := by
  rcases d.relock_cases with e | e <;> simp [e, Device.tstCleared_mem]

theorem Device.relock_flowDone (d : Device) : d.relock.flowDone = d.flowDone := by
  rcases d.relock_cases with e | e <;> simp [e, Device.tstCleared_flowDone]

theorem Device.relock_injectors (d : Device) : d.relock.injectors = [] := by
  rcases d.relock_cases with e | e <;> simp [e, Device.tstCleared_injectors]

/-- R434: RELOCK returns the perturbation registers to their values after reset. -/
theorem Device.relock_reg (d : Device) {r : Reg} (hr : r ∈ tstRegs) : d.relock.reg r = r.resetValue := by
  rw [Device.reg_relock _ (tstRegs_not_logged r hr), Device.tstCleared, Device.reg_clearInjectors _ (tstRegs_ne_status r hr)]
  exact Device.reg_resetRegs_mem d tstRegs (tstRegs_inRange r hr) (fun x hx hne => tstRegs_apart x hx r hr (Ne.symm hne)) (.inl hr)

/-- R434: RELOCK locks PERTURB again. -/
theorem Device.relock_perturbs (d : Device) : d.relock.perturbs = false := by
  have h : d.relock.reg .tstStatus = Reg.tstStatus.resetValue := by
    rw [Device.reg_relock _ tstStatus_not_logged]
    exact Device.reg_setReg_self _ .tstStatus _ rfl
  rw [Device.perturbs, Device.fld, h]
  decide

theorem exec_relock_serves {s : State} (hs : s.serves = true) : exec .relock s = .next (s.after Device.relock) := by
  change execRelock s = _
  rw [execRelock, serving_serves _ hs]
  exact early_eq (State.serves_parts hs).1 rfl (Device.relock_flowDone _)

/-! ### O28 -/

/-- Settles O28, clause by clause: what the row does (an equation for `exec`), then what that operation leaves in the device. -/
theorem registerWritesAndDebug : Obligations.RegisterWritesAndDebug := by
  intro s off ha
  have inService := State.inService_of_answering ha
  refine ⟨fun fn w io r h8 hr => ⟨?_, fun hp => ?_⟩, fun fn w io h8 => exec_registerWrite_unaligned w io ha h8, ?_, ?_,
    fun hs h8 hu => exec_debugRead64_unlocked hs h8 hu, fun hs _ hu => exec_debugRead64_locked hs hu,
    fun w io hs _ hu => exec_debugWrite64_locked w io hs hu,
    fun w io r hs h8 hu hr => ⟨exec_debugWrite64_unlocked w io hs h8 hu hr, fun hp => ?_⟩, ?_,
    fun w hr hp => exec_tstSettingsWrite_locked off w (inService hr) hp, ?_, ?_⟩
  · rw [exec_registerWrite_aligned w io ha h8, Device.regWrite_some w ((s.regAt_withIo io _ _).trans hr)]
  · obtain ⟨hreg, hsame⟩ := Device.reads_writePlain (d := s.quiet.dev.withIo io)
      (e := ((s.quiet.dev.withIo io).writePlain r w).endIo) w hp rfl
    exact ⟨_, exec_registerWrite_plain w io ha h8 hr hp, rfl, hreg, hsame, Device.setReg_mem _ _ _, Device.setReg_queues _ _ _⟩
  · rintro w hr rfl h1 h5
    refine ⟨_, exec_registerWrite_ctxReset_early ha hr h1 h5, ?_⟩
    simp [hr]
  · intro fn w h8 hr h
    exact ⟨_, exec_registerWrite_none w {} ha h8 hr h, rfl, rfl, rfl, rfl, rfl⟩
  · obtain ⟨hreg, hsame⟩ := Device.reads_writePlain (d := s.quiet.dev.withIo io)
      (e := ((s.quiet.dev.withIo io).writePlain r w).endIo) w hp rfl
    refine ⟨_, exec_debugWrite64_plain w io hs h8 hu hr hp, rfl, ?_, hreg, hsame, Device.setReg_mem _ _ _⟩
    simp [Device.writePlain]
  · rintro w r hrdy hr rfl hp
    have hp' : s.quiet.dev.perturbs = true := hp
    exact ⟨_, exec_tstSettingsWrite_unlocked w (inService hrdy) hr hp, rfl, Device.reg_tstWrite_self _ w hr hp',
      fun x hx hne => Device.reg_tstWrite_ne _ w hr hx hne hp', Device.tstWrite_mem _ w hr hp',
      fun hk => Device.tstWrite_injectors _ w hr hp' hk⟩
  · intro hs
    exact ⟨_, exec_relock_serves hs, rfl, Device.relock_perturbs _, Device.relock_injectors _, fun r hr => Device.relock_reg _ hr,
      Device.relock_mem _⟩
  · intro hs w io i hi
    simp only [List.mem_cons, List.not_mem_nil, or_false] at hi
    rcases hi with rfl | rfl | rfl
    · change execDebugRead64 off s = _
      exact serving_withheld _ ha hs
    · change execDebugWrite64 off w io s = _
      exact serving_withheld _ ha hs
    · exact serving_withheld _ ha hs

end Sys2Proof.Machine
end

section
/-! PROOF. The power manager: what its rows give, what its operations leave alone, grants, and domains. -/

namespace Sys2Proof.Machine

/-! ### Rows of the power manager -/

theorem State.managed_parts {s : State} (h : s.managed = true) : s.running = true ∧ s.dev.managed = true := by
  simpa [State.managed] using h

/-- A row of the power manager does what its operation does to the device it starts from. -/
theorem manage_congr {s : State} {f g : Device → Device} (h : f s.quiet.dev = g s.quiet.dev) : manage f s = manage g s := by
  have h' : f { s.dev with out := [] } = g { s.dev with out := [] } := h
  simp only [manage, live, act, h']

/-- A row of the power manager whose operation releases no flow item. -/
theorem manage_after {s : State} {f : Device → Device} (h : s.managed = true) (hf : (f s.quiet.dev).flowDone = s.dev.flowDone) :
    manage f s = .next (s.after f) := by
  obtain ⟨hr, hm⟩ := State.managed_parts h
  have hm' : ({ s.dev with out := [] } : Device).managed = true := hm
  have hf' : (f { s.dev with out := [] }).flowDone = [] := hf.trans (State.running_parts hr).2
  rw [manage, live_after hr (by simpa [hm'] using hf')]
  simp [State.after, hm']

/-- A row of the power manager whose operation gives e. -/
theorem manage_row {s : State} {i : Instr} {f : Device → Device} {e : Device} (hm : s.managed = true) (hi : exec i s = manage f s)
    (hf : f s.quiet.dev = e) (hd : e.flowDone = s.dev.flowDone) : exec i s = .next { s with dev := e } := by
  subst hf
  exact hi.trans (manage_after hm hd)

/-- A row whose operation finds nothing to do. -/
theorem manage_idle {s : State} {f : Device → Device} (h : s.running = true) (hf : f s.quiet.dev = s.quiet.dev) :
    manage f s = .next s.quiet := by
  have hid : manage (fun d => d) s = .next (s.after fun d => d) := by
    rw [manage, live_after h (by simpa using (State.running_parts h).2)]
    simp [State.after]
  exact (manage_congr hf).trans hid

/-- R24: what needs the control complex of a die goes on where it runs. -/
theorem manage_runs {s : State} {k : Nat} (f : Device → Device) (h : s.dev.stopped k = false) :
    manage (fun d => if d.stopped k then d else f d) s = manage f s := by
  have h' : s.quiet.dev.stopped k = false := h
  exact manage_congr (if_neg (by simp [h']))

/-- R24: where the control complex is stopped it waits. -/
theorem manage_waits {s : State} {k : Nat} (f : Device → Device) (hr : s.running = true) (h : s.dev.stopped k = true) :
    manage (fun d => if d.stopped k then d else f d) s = .next s.quiet :=
  manage_idle hr (if_pos h)

theorem exec_domainEnableRequest (n : Nat) (s : State) : exec (.domainEnableRequest n) s = request n (·.domEnable n) s := rfl
theorem exec_domainDisableRequest (n : Nat) (s : State) : exec (.domainDisableRequest n) s = request n (·.domDisable n) s := rfl
theorem exec_powerUpComplete (n : Nat) (s : State) : exec (.powerUpComplete n) s = manage (·.domUp n) s := rfl
theorem exec_domainDrainComplete (n : Nat) (s : State) : exec (.domainDrainComplete n) s = manage (·.domDrained n) s := rfl
theorem exec_retentionSaveComplete (n : Nat) (s : State) : exec (.retentionSaveComplete n) s = manage (·.domStep n 5 6) s := rfl
theorem exec_isolationComplete (n : Nat) (s : State) : exec (.isolationComplete n) s = manage (·.domIsolated n) s := rfl
theorem exec_railDownComplete (n : Nat) (s : State) : exec (.railDownComplete n) s = manage (·.domDown n) s := rfl
theorem exec_lendEntry (c : Nat) (s : State) : exec (.lendEntry c) s = request c (·.lendEntry c) s := rfl
theorem exec_lendExit (c : Nat) (s : State) : exec (.lendExit c) s = request c (·.lendExit c) s := rfl
theorem exec_lendEntryComplete (c : Nat) (s : State) : exec (.lendEntryComplete c) s = manage (·.lendEntered c) s := rfl
theorem exec_railGrant (c v : Nat) (s : State) : exec (.railGrant c v) s = request c (·.railGrant c v) s := rfl
theorem exec_railSlewComplete (c : Nat) (s : State) : exec (.railSlewComplete c) s = manage (·.railSlewed c) s := rfl

/-- R24: a request for a domain of a die whose control complex runs. -/
theorem request_runs {s : State} {n : Nat} (f : Device → Device) (h : s.dev.stopped (domDie n) = false) :
    request n f s = manage f s := manage_runs f h

theorem request_waits {s : State} {n : Nat} (f : Device → Device) (hr : s.running = true) (h : s.dev.stopped (domDie n) = true) :
    request n f s = .next s.quiet := manage_waits f hr h

/-! ### Registers that stay -/

theorem Device.sameRegs.trans {d e e' : Device} {rs : List Reg} (h : d.sameRegs e rs) (g : e.sameRegs e' rs) : d.sameRegs e' rs :=
  fun r hr => (g r hr).trans (h r hr)

theorem Device.sameRegs_of_regs {d e : Device} (rs : List Reg) (h : e.regs = d.regs) : d.sameRegs e rs :=
  fun r _ => Device.reg_congr h r

theorem Device.sameRegs_setFld (d : Device) (r : Reg) (f : RegField) (v : Nat) {rs : List Reg} (h : r ∈ rs) :
    d.sameRegs (d.setFld r f v) rs :=
  fun _ hx => Device.reg_setReg_ne _ _ _ _ fun e => hx (e ▸ List.mem_map_of_mem h)

theorem Device.sameRegs_showGrants (d : Device) {rs : List Reg} (h : Reg.pwrMeasure ∈ rs) : d.sameRegs d.showGrants rs :=
  (d.sameRegs_setFld _ _ _ h).trans (Device.sameRegs_setFld _ _ _ _ h)

/-- Two fields of a register lie apart. -/
def RegField.apart (f g : RegField) : Bool :=
  decide (f.lo ≤ f.hi ∧ f.hi < 64 ∧ g.lo ≤ g.hi) && (decide (f.hi < g.lo) || decide (g.hi < f.lo))

/-- A field apart from the one that is set reads as before. -/
theorem Device.fld_setFld_apart (d : Device) (r : Reg) {f g : RegField} (v : Nat) (h : f.apart g = true) :
    (d.setFld r f v).fld r g = d.fld r g := by
  simp only [RegField.apart, Bool.and_eq_true, Bool.or_eq_true, decide_eq_true_eq] at h
  obtain ⟨⟨h1, h2, h3⟩, hd⟩ := h
  exact Device.fld_setFld_field d r f g v h1 h2 h3 hd

theorem Device.flag_setFld_apart (d : Device) (r : Reg) {f g : RegField} (v : Nat) (h : f.apart g = true) :
    (d.setFld r f v).flag r g = d.flag r g := congrArg (· == 1) (d.fld_setFld_apart r v h)

/-- A one-bit field reads what was put there. -/
theorem Device.flag_setFld_self (d : Device) (r : Reg) (f : RegField) (b : Bool) (h : r.inRange = true) (h1 : f.lo ≤ f.hi)
    (h2 : f.hi < 64) : (d.setFld r f b.toNat).flag r f = b := by
  have hw : 2 ≤ 2 ^ (f.hi + 1 - f.lo) := by
    calc 2 = 2 ^ 1 := rfl
      _ ≤ _ := Nat.pow_le_pow_right (by decide) (by omega)
  have hb : b.toNat < 2 := Bool.toNat_lt b
  rw [Device.flag, Device.fld_setFld_self _ _ _ _ h h1 h2, Nat.mod_eq_of_lt (by omega)]
  cases b <;> rfl

/-! ### What the power manager's operations leave alone -/

/-- d with what the power manager and logging may change taken from x. -/
def Device.withPower (d x : Device) : Device :=
  { d with
    regs := x.regs, power := x.power, errs := x.errs, hist := x.hist, events := x.events, hostMem := x.hostMem
    msixPending := x.msixPending, out := x.out, free := x.free }

/-- e is d but for its registers, the data of the power manager, and what logging a record may change. -/
def Device.PowerSame (d e : Device) : Prop := e = d.withPower e

namespace Device.PowerSame

variable {d e e' : Device}

theorem refl (d : Device) : d.PowerSame d := rfl

theorem trans (h : d.PowerSame e) (g : e.PowerSame e') : d.PowerSame e' :=
  calc e' = e.withPower e' := g
    _ = (d.withPower e).withPower e' := congrArg (·.withPower e') h
    _ = d.withPower e' := rfl

theorem eq (h : d.PowerSame e) : e = d.withPower e := h

theorem cores (h : d.PowerSame e) : e.cores = d.cores := (congrArg Device.cores h.eq :)
theorem mem (h : d.PowerSame e) : e.mem = d.mem := (congrArg Device.mem h.eq :)
theorem side (h : d.PowerSame e) : e.side = d.side := (congrArg Device.side h.eq :)
theorem queues (h : d.PowerSame e) : e.queues = d.queues := (congrArg Device.queues h.eq :)
theorem flash (h : d.PowerSame e) : e.flash = d.flash := (congrArg Device.flash h.eq :)
theorem pins (h : d.PowerSame e) : e.pins = d.pins := (congrArg Device.pins h.eq :)
theorem flowDone (h : d.PowerSame e) : e.flowDone = d.flowDone := (congrArg Device.flowDone h.eq :)

theorem core (h : d.PowerSame e) (c : Nat) : e.core c = d.core c := by
  rw [Device.core, Device.core, h.cores]

theorem setReg (h : d.PowerSame e) (r : Reg) (w : Word) : d.PowerSame (e.setReg r w) :=
  h.trans (by unfold Device.PowerSame Device.setReg; split <;> rfl)

theorem setFld (h : d.PowerSame e) (r : Reg) (f : RegField) (v : Nat) : d.PowerSame (e.setFld r f v) := h.setReg _ _

theorem power (h : d.PowerSame e) (p : Power) : d.PowerSame { e with power := p } := h.trans rfl

theorem emit (h : d.PowerSame e) (o : Out) : d.PowerSame (e.emit o) := h.trans rfl

theorem setGrant (h : d.PowerSame e) (c v : Nat) : d.PowerSame (e.setGrant c v) := h.trans rfl

theorem showGrants (h : d.PowerSame e) : d.PowerSame e.showGrants := (h.setFld _ _ _).setFld _ _ _

theorem of_logSame (h : d.LogSame e) : d.PowerSame e := (congrArg (·.withPower e) h.frame :)

theorem logModule (h : d.PowerSame e) (code cls : Nat) (body : List Word) (die part : Nat) :
    d.PowerSame (e.logModule code cls body die part) := h.trans (of_logSame (e.logSame_logModule _ _ _ _ _))

theorem foldl {β : Type} {f : Device → β → Device} (hf : ∀ (a : Device) (b : β), a.PowerSame (f a b)) (l : List β) (d : Device) :
    d.PowerSame (l.foldl f d) := by
  induction l generalizing d with
  | nil => exact refl d
  | cons b l ih => exact (hf d b).trans (ih _)

theorem ite {p : Prop} [Decidable p] {a b : Device} (ha : d.PowerSame a) (hb : d.PowerSame b) : d.PowerSame (if p then a else b) := by
  split
  · exact ha
  · exact hb

end Device.PowerSame

theorem Device.powerSame_railAll (d : Device) (code : Nat) : d.PowerSame (d.railAll code) :=
  .foldl (fun a _ => (Device.PowerSame.refl a).emit _) _ d

theorem Device.powerSame_mapGrants (d : Device) (cs : List Nat) (f : Nat → Nat) : d.PowerSame (d.mapGrants cs f) :=
  .foldl (fun a _ => .ite ((Device.PowerSame.refl a).setGrant _ _) (.refl a)) cs d

theorem Device.powerSame_mapRails (d : Device) (cs : List Nat) (f : Nat → Nat) : d.PowerSame (d.mapRails cs f) :=
  .showGrants (.foldl (fun a _ => .ite (((Device.PowerSame.refl a).setGrant _ _).setFld _ _ _) (.refl a)) cs d)

theorem Device.powerSame_stepDown (d : Device) (die : Nat) : d.PowerSame (d.stepDown die) :=
  .ite (.refl d) (d.powerSame_mapGrants _ _)

theorem Device.powerSame_reclaim (d : Device) : d.PowerSame d.reclaim :=
  .showGrants (.foldl Device.powerSame_stepDown _ d)

theorem Device.powerSame_railOn (d : Device) (n : Nat) : d.PowerSame (d.railOn n) :=
  have h : d.PowerSame ((d.setDom n 1).setRail n 60) := ((Device.PowerSame.refl d).setFld _ _ _).setFld _ _ _
  .showGrants (.ite (h.setGrant n 60) h)

theorem Device.powerSame_domPowerOn (d : Device) (n : Nat) : d.PowerSame (d.domPowerOn n) :=
  .ite (d.powerSame_railOn n) (.showGrants ((Device.PowerSame.refl d).power _))

theorem Device.powerSame_rejectDom (d : Device) (n policy : Nat) : d.PowerSame (d.rejectDom n policy) :=
  ((Device.PowerSame.refl d).setFld _ _ _).logModule _ _ _ _ _

theorem Device.powerSame_rejectUnused (d : Device) (n : Nat) : d.PowerSame (d.rejectUnused n) :=
  Device.PowerSame.trans (d := d) (e := d.freeValue.2) rfl (Device.powerSame_rejectDom _ _ _)

theorem Device.powerSame_emergencyDrop (d : Device) (measured source : Nat) : d.PowerSame (d.emergencyDrop measured source) :=
  (((d.powerSame_mapRails _ _).power _).setFld _ _ _).logModule _ _ _ _ _

theorem Device.powerSame_budgetCheck (d : Device) (w : Nat) : d.PowerSame (d.budgetCheck w) := by
  have h : d.PowerSame (d.setFld .pwrMeasure Fd.pwrMeasureModuleW w) := (Device.PowerSame.refl d).setFld _ _ _
  have hb := Device.PowerSame.ite (p := (d.setFld .pwrMeasure Fd.pwrMeasureModuleW w).moduleBudget < w)
    ((((h.trans (Device.powerSame_mapGrants _ (List.range 256) fun v => max 60 (v - 1))).showGrants).setFld .pwrEvent
      Fd.pwrEventBudgetExceed 1).logModule 0x0301 0 [wordOf (d.setFld .pwrMeasure Fd.pwrMeasureModuleW w).moduleBudget, wordOf w,
        (d.setFld .pwrMeasure Fd.pwrMeasureModuleW w).now] 0xFF 0xFF) h
  exact .ite (hb.trans (Device.powerSame_emergencyDrop _ _ _)) hb

theorem Device.powerSame_junction (d : Device) (die temp : Nat) : d.PowerSame (d.junction die temp) :=
  ((Device.PowerSame.refl d).power _).setFld _ _ _

/-! ### Registers and grants after an operation -/

@[simp] theorem Device.regs_setGrant (d : Device) (c v : Nat) : (d.setGrant c v).regs = d.regs := rfl
@[simp] theorem Device.power_showGrants (d : Device) : d.showGrants.power = d.power := by simp [Device.showGrants]
@[simp] theorem Device.power_setDom (d : Device) (n v : Nat) : (d.setDom n v).power = d.power := by simp [Device.setDom]
@[simp] theorem Device.power_setRail (d : Device) (n v : Nat) : (d.setRail n v).power = d.power := by simp [Device.setRail]

theorem Device.grantOf_congr {d e : Device} (h : e.power.grants = d.power.grants) (x : Nat) : e.grantOf x = d.grantOf x := by
  simp only [Device.grantOf, h]

@[simp] theorem Device.grantOf_showGrants (d : Device) (x : Nat) : d.showGrants.grantOf x = d.grantOf x :=
  Device.grantOf_congr (by simp) x

theorem Device.grantOf_setGrant (d : Device) (c v x : Nat) : (d.setGrant c v).grantOf x = if x = c then v else d.grantOf x := by
  simp [Device.grantOf, Device.setGrant, SMap.at', SMap.get_set]

/-- STATE of every domain, through a change of another register. -/
theorem Device.domState_setFld_ne (d : Device) {r : Reg} (f : RegField) (v x : Nat) (h : (Reg.pwrDomStatus x).offset ≠ r.offset) :
    (d.setFld r f v).domState x = d.domState x := Device.fld_setFld_ne _ _ _ _ _ _ h

@[simp] theorem Device.domState_setGrant (d : Device) (c v x : Nat) : (d.setGrant c v).domState x = d.domState x := rfl

theorem domStatus_offset_ne (n : Nat) : (Reg.pwrDomStatus n).offset ≠ Reg.pwrMeasure.offset ∧
    (Reg.pwrDomStatus n).offset ≠ Reg.pwrEvent.offset := by
  simp only [Reg.offset]; omega

@[simp] theorem Device.domState_showGrants (d : Device) (x : Nat) : d.showGrants.domState x = d.domState x := by
  rw [Device.showGrants, Device.domState_setFld_ne _ _ _ _ (domStatus_offset_ne x).1,
    Device.domState_setFld_ne _ _ _ _ (domStatus_offset_ne x).1]

@[simp] theorem Device.domState_setRail (d : Device) (n v x : Nat) : (d.setRail n v).domState x = d.domState x := by
  by_cases h : x = n
  · subst h
    exact d.fld_setFld_apart _ _ rfl
  · exact Device.domState_setFld_ne _ _ _ _ (by simp only [Reg.offset]; omega)

/-- Grants after a pass over a list whose step at b sets the grant of the cores that belong to b and are chosen. -/
theorem Device.grantOf_foldl {step : Device → Nat → Device} {key : Nat → Nat} {p : Device → Nat → Bool} {f : Nat → Nat}
    (hp : ∀ e b x, p (step e b) x = p e x)
    (hg : ∀ e b x, (step e b).grantOf x = if key x = b ∧ p e x = true then f (e.grantOf x) else e.grantOf x)
    (l : List Nat) (hl : l.Nodup) (d : Device) (x : Nat) :
    (l.foldl step d).grantOf x = if key x ∈ l ∧ p d x = true then f (d.grantOf x) else d.grantOf x := by
  induction l generalizing d with
  | nil => simp
  | cons b l ih =>
    obtain ⟨hb, hl⟩ := List.nodup_cons.1 hl
    rw [List.foldl_cons, ih hl, hp, hg]
    by_cases hx : key x = b
    · simp [hx, hb]
    · simp [hx]

/-- R50, R51: of a list of cores, those that are ON have their grants set. -/
theorem Device.grantOf_mapGrants (d : Device) {cs : List Nat} (h : cs.Nodup) (f : Nat → Nat) (x : Nat) :
    (d.mapGrants cs f).grantOf x = if x ∈ cs ∧ d.domState x = 2 then f (d.grantOf x) else d.grantOf x := by
  have key := Device.grantOf_foldl (key := id) (p := fun e x => e.domState x == 2) (f := f)
    (step := fun d c => if d.domState c = 2 then d.setGrant c (f (d.grantOf c)) else d)
    (fun e b x => by split <;> rfl) (fun e b x => ?_) cs h d x
  · simpa only [Device.mapGrants, id, beq_iff_eq] using key
  · by_cases hx : x = b
    · subst hx
      by_cases hs : e.domState x = 2 <;> simp [hs, Device.grantOf_setGrant]
    · split <;> simp [hx, Device.grantOf_setGrant]

/-- What a pass over grants leaves alone: what setting one grant leaves alone. -/
theorem Device.mapGrants_keeps {α : Type} (g : Device → α) (hg : ∀ d c v, g (Device.setGrant d c v) = g d) (d : Device) (cs : List Nat)
    (f : Nat → Nat) : g (d.mapGrants cs f) = g d := by
  refine Device.foldl_frame g _ (fun d c => ?_) cs d
  split
  · exact hg _ _ _
  · rfl

theorem Device.regs_mapGrants (d : Device) (cs : List Nat) (f : Nat → Nat) : (d.mapGrants cs f).regs = d.regs :=
  Device.mapGrants_keeps Device.regs (fun _ _ _ => rfl) d cs f

@[simp] theorem Device.domState_mapGrants (d : Device) (cs : List Nat) (f : Nat → Nat) (x : Nat) :
    (d.mapGrants cs f).domState x = d.domState x := Device.fld_congr (d.regs_mapGrants cs f) _ _

/-- What a pass over rails leaves alone: what setting one grant, showing one rail and showing the grants leave alone. -/
theorem Device.mapRails_keeps {α : Type} (g : Device → α) (hg : ∀ d c v, g (Device.setGrant d c v) = g d)
    (hr : ∀ d c v, g (Device.setRail d c v) = g d) (hs : ∀ d, g (Device.showGrants d) = g d) (d : Device) (cs : List Nat) (f : Nat → Nat) :
    g (d.mapRails cs f) = g d := by
  rw [Device.mapRails, hs, Device.foldl_frame g]
  intro d c
  split
  · rw [hr, hg]
  · rfl

@[simp] theorem Device.domState_mapRails (d : Device) (cs : List Nat) (f : Nat → Nat) (x : Nat) :
    (d.mapRails cs f).domState x = d.domState x :=
  Device.mapRails_keeps (·.domState x) (fun _ _ _ => rfl) (fun d c v => d.domState_setRail c v x) (fun d => d.domState_showGrants x) d cs f

/-- R51: of a list of cores, those whose rails stand at a setting have their grants set. -/
theorem Device.grantOf_mapRails (d : Device) {cs : List Nat} (h : cs.Nodup) (f : Nat → Nat) (x : Nat) :
    (d.mapRails cs f).grantOf x = if x ∈ cs ∧ drawsByGrant (d.domState x) = true then f (d.grantOf x) else d.grantOf x := by
  rw [Device.mapRails, Device.grantOf_showGrants]
  refine Device.grantOf_foldl (key := id) (p := fun e x => drawsByGrant (e.domState x)) (f := f) (fun e b x => ?_) (fun e b x => ?_) cs h d x
  · split <;> simp
  · have hr : ∀ (a : Device) v, (a.setRail b v).grantOf x = a.grantOf x := fun a v => Device.grantOf_congr (by simp) x
    by_cases hx : x = b
    · subst hx
      by_cases hs : drawsByGrant (e.domState x) = true <;> simp [hs, hr, Device.grantOf_setGrant]
    · split <;> simp [hx, hr, Device.grantOf_setGrant]

theorem mem_dieCores {die x : Nat} : x ∈ dieCores die ↔ x / 64 = die := by
  simp only [dieCores, List.mem_map, List.mem_range]
  exact ⟨by rintro ⟨i, hi, rfl⟩; omega, fun h => ⟨x % 64, by omega, by omega⟩⟩

theorem nodup_dieCores (die : Nat) : (dieCores die).Nodup :=
  List.nodup_range.map fun _ _ h => by simpa using h

theorem Device.stepDown_keeps {α : Type} (g : Device → α) (hg : ∀ d c v, g (Device.setGrant d c v) = g d) (d : Device) (die : Nat) :
    g (d.stepDown die) = g d := by
  unfold Device.stepDown
  split
  · rfl
  · exact Device.mapGrants_keeps g hg _ _ _

theorem Device.regs_stepDown (d : Device) (die : Nat) : (d.stepDown die).regs = d.regs :=
  Device.stepDown_keeps Device.regs (fun _ _ _ => rfl) d die

theorem Device.reclaim_keeps {α : Type} (g : Device → α) (hg : ∀ d c v, g (Device.setGrant d c v) = g d)
    (hs : ∀ d, g (Device.showGrants d) = g d) (d : Device) : g d.reclaim = g d :=
  (hs _).trans (Device.foldl_frame g _ (Device.stepDown_keeps g hg) _ d)

/-- R46: stepping a die down raises no grant. -/
theorem Device.grantOf_stepDown_le (d : Device) (die x : Nat) : (d.stepDown die).grantOf x ≤ d.grantOf x := by
  unfold Device.stepDown
  split
  · exact le_rfl
  · rw [Device.grantOf_mapGrants _ (nodup_dieCores die)]
    split
    · exact min_le_right _ _
    · exact le_rfl

/-- R46: stepping a die down leaves the grants of other dies. -/
theorem Device.grantOf_stepDown_other (d : Device) {die x : Nat} (h : x / 64 ≠ die) : (d.stepDown die).grantOf x = d.grantOf x := by
  unfold Device.stepDown
  split
  · rfl
  · rw [Device.grantOf_mapGrants _ (nodup_dieCores die), if_neg fun hx => h (mem_dieCores.1 hx.1)]

/-- R47: reclaiming raises no grant. -/
theorem Device.grantOf_reclaim_le (d : Device) (x : Nat) : d.reclaim.grantOf x ≤ d.grantOf x := by
  rw [Device.reclaim, Device.grantOf_showGrants]
  generalize List.range 4 = dies
  induction dies generalizing d with
  | nil => exact le_rfl
  | cons die dies ih => exact (ih (d.stepDown die)).trans (d.grantOf_stepDown_le die x)

theorem Device.sameRegs_reclaim (d : Device) : d.sameRegs d.reclaim [.pwrMeasure] :=
  (Device.sameRegs_of_regs _ (Device.foldl_frame Device.regs _ Device.regs_stepDown (List.range 4) d)).trans
    (Device.sameRegs_showGrants _ (by simp))

/-! ### The budgets depend on registers and the power manager's data alone -/

section
variable {d e : Device}

theorem Device.domState_congr (h : e.regs = d.regs) (x : Nat) : e.domState x = d.domState x := Device.fld_congr h _ _

theorem Device.moduleBudget_congr (h : e.regs = d.regs) : e.moduleBudget = d.moduleBudget := by
  simp only [Device.moduleBudget, Device.fld_congr h]

theorem Device.estimateOf_congr (h : e.regs = d.regs) (hp : e.power = d.power) : e.estimateOf = d.estimateOf := by
  funext n
  simp only [Device.estimateOf, Device.domState_congr h, hp]

theorem Device.coreHolds_congr (h : e.regs = d.regs) (hp : e.power = d.power) : e.coreHolds = d.coreHolds := by
  funext c
  simp only [Device.coreHolds, Device.domState_congr h, Device.grantOf, Device.railOf, Device.fld_congr h, hp]

theorem Device.coreGrant_congr (h : e.regs = d.regs) (hp : e.power = d.power) : e.coreGrant = d.coreGrant := by
  funext c
  simp only [Device.coreGrant, Device.domState_congr h, Device.grantOf, hp]

theorem Device.dieBudget_congr (h : e.regs = d.regs) (hp : e.power = d.power) (die : Nat) : e.dieBudget die = d.dieBudget die := by
  simp only [Device.dieBudget, Device.dieOther, Device.allOther, Device.estimateOf_congr h hp, Device.moduleBudget_congr h]

theorem Device.allOther_congr (h : e.regs = d.regs) (hp : e.power = d.power) : e.allOther = d.allOther := by
  rw [Device.allOther, Device.allOther, Device.estimateOf_congr h hp]

theorem Device.fits_congr (h : e.regs = d.regs) (hp : e.power = d.power) (die : Nat) : e.fits die = d.fits die := by
  rw [Device.fits, Device.fits, Device.coreHolds_congr h hp, Device.dieBudget_congr h hp, Device.allOther_congr h hp,
    Device.moduleBudget_congr h]

theorem Device.regs_setFld_congr (h : e.regs = d.regs) (r : Reg) (f : RegField) (v : Nat) :
    (e.setFld r f v).regs = (d.setFld r f v).regs := by
  simp only [Device.setFld, Device.setReg, Device.reg_congr h]
  split <;> simp only [h]

theorem Device.regs_showGrants_congr (h : e.regs = d.regs) (hp : e.power = d.power) : e.showGrants.regs = d.showGrants.regs := by
  have hg : e.moduleGrant = d.moduleGrant := by
    have hd : e.dieGrant = d.dieGrant := by
      funext die
      simp only [Device.dieGrant, Device.coreGrant_congr h hp]
    simp only [Device.moduleGrant, Device.allOther, hd, Device.estimateOf_congr h hp]
  have hl : e.lentDraw = d.lentDraw := by
    simp only [Device.lentDraw, Device.domState_congr h, Device.dieBudget_congr h hp]
  rw [Device.showGrants, Device.showGrants, hg, hl]
  exact Device.regs_setFld_congr (Device.regs_setFld_congr h _ _ _) _ _ _

theorem Device.fits_showGrants_congr (h : e.regs = d.regs) (hp : e.power = d.power) (die : Nat) :
    e.showGrants.fits die = d.showGrants.fits die :=
  Device.fits_congr (Device.regs_showGrants_congr h hp) (by simpa using hp) die

theorem Device.roomFor_congr (h : e.regs = d.regs) (hp : e.power = d.power) (n : Nat) : e.roomFor n = d.roomFor n := by
  have hr : ((e.setDom n 1).setRail n 60).regs = ((d.setDom n 1).setRail n 60).regs :=
    Device.regs_setFld_congr (Device.regs_setFld_congr h _ _ _) _ _ _
  have hq : ((e.setDom n 1).setRail n 60).power = ((d.setDom n 1).setRail n 60).power := by simpa using hp
  unfold Device.roomFor Device.railOn
  refine Device.fits_showGrants_congr ?_ ?_ _
  · split
    · exact hr
    · exact hr
  · split
    · simp only [Device.setGrant, hq]
    · exact hq

end

theorem State.roomFor_quiet (s : State) (n : Nat) : s.quiet.dev.roomFor n = s.dev.roomFor n := by
  have hr : s.quiet.dev.regs = s.dev.regs := rfl
  have hp : s.quiet.dev.power = s.dev.power := rfl
  exact Device.roomFor_congr hr hp n

end Sys2Proof.Machine
end

section
/-! PROOF. O55 and O56: the state machine of power domains, and the module budget. -/

namespace Sys2Proof.Machine

/-! ### A domain moves -/

/-- R42: an enable request waits in a domain. -/
abbrev Device.pendEnable (d : Device) (n : Nat) : Bool := d.flag (.pwrDomStatus n) Fd.pwrDomStatusPendingEnable

/-- R42: a disable request waits in a domain. -/
abbrev Device.pendDisable (d : Device) (n : Nat) : Bool := d.flag (.pwrDomStatus n) Fd.pwrDomStatusPendingDisable

/-- R42: e is d with domain n's STATE, pending flags and RAIL_SET as given; registers beside its status and PWR_MEASURE, the cores of other
domains and memory are as in d. -/
structure Device.DomMoved (d e : Device) (n st : Nat) (pe pd : Bool) (rail : Nat) : Prop where
  state : e.domState n = st
  enable : e.pendEnable n = pe
  disable : e.pendDisable n = pd
  rail : e.railOf n = rail
  regs : d.sameRegs e [.pwrDomStatus n, .pwrMeasure]
  cores : ∀ c, c ≠ n → e.core c = d.core c
  mem : e.mem = d.mem
  side : e.side = d.side
  flowDone : e.flowDone = d.flowDone

theorem domStatus_inRange {n : Nat} (hn : n < 403) : (Reg.pwrDomStatus n).inRange = true := by simpa [Reg.inRange] using hn

namespace Device.DomMoved

variable {d e : Device} {n st rail : Nat} {pe pd : Bool}

/-- A domain that has not moved. -/
theorem refl (d : Device) (n : Nat) :
    d.DomMoved d n (d.domState n) (d.pendEnable n) (d.pendDisable n) (d.railOf n) :=
  ⟨rfl, rfl, rfl, rfl, fun _ _ => rfl, fun _ _ => rfl, rfl, rfl, rfl⟩

/-- What follows leaves the domain's status as it is. -/
theorem next {e' : Device} (h : d.DomMoved e n st pe pd rail) (hr : e'.reg (.pwrDomStatus n) = e.reg (.pwrDomStatus n))
    (regs : e.sameRegs e' [.pwrDomStatus n, .pwrMeasure]) (same : e.PowerSame e') : d.DomMoved e' n st pe pd rail := by
  have hf : ∀ f, e'.fld (.pwrDomStatus n) f = e.fld (.pwrDomStatus n) f := fun f => by rw [Device.fld, hr]; rfl
  exact ⟨(hf _).trans h.state, (congrArg (· == 1) (hf _)).trans h.enable, (congrArg (· == 1) (hf _)).trans h.disable, (hf _).trans h.rail,
    h.regs.trans regs, fun c hc => (same.core c).trans (h.cores c hc), same.mem.trans h.mem, same.side.trans h.side,
    same.flowDone.trans h.flowDone⟩

theorem power (h : d.DomMoved e n st pe pd rail) (p : Power) : d.DomMoved { e with power := p } n st pe pd rail :=
  h.next rfl (fun _ _ => rfl) rfl

theorem setGrant (h : d.DomMoved e n st pe pd rail) (c v : Nat) : d.DomMoved (e.setGrant c v) n st pe pd rail := h.power _

theorem showGrants (h : d.DomMoved e n st pe pd rail) : d.DomMoved e.showGrants n st pe pd rail :=
  have ho : (Reg.pwrDomStatus n).offset ∉ [Reg.pwrMeasure].map Reg.offset := by simpa using (domStatus_offset_ne n).1
  h.next (e.sameRegs_showGrants (rs := [.pwrMeasure]) (by simp) _ ho) (e.sameRegs_showGrants (by simp)) (.showGrants (.refl e))

theorem setCore (h : d.DomMoved e n st pe pd rail) (k : Core) : d.DomMoved (e.setCore n k) n st pe pd rail :=
  ⟨h.state, h.enable, h.disable, h.rail, h.regs, fun c hc => (Device.core_setCore_ne _ _ _ _ hc).trans (h.cores c hc), h.mem, h.side,
    h.flowDone⟩

/-- A field of the domain's status is set: its status reads as it then does. -/
theorem setFld (h : d.DomMoved e n st pe pd rail) (f : RegField) (v : Nat) :
    d.DomMoved (e.setFld (.pwrDomStatus n) f v) n ((e.setFld (.pwrDomStatus n) f v).domState n)
      ((e.setFld (.pwrDomStatus n) f v).pendEnable n) ((e.setFld (.pwrDomStatus n) f v).pendDisable n)
      ((e.setFld (.pwrDomStatus n) f v).railOf n) := by
  have same := (Device.PowerSame.refl e).setFld (.pwrDomStatus n) f v
  exact ⟨rfl, rfl, rfl, rfl, h.regs.trans (e.sameRegs_setFld _ _ _ (by simp)), fun c hc => (same.core c).trans (h.cores c hc),
    same.mem.trans h.mem, same.side.trans h.side, same.flowDone.trans h.flowDone⟩

theorem setDom (h : d.DomMoved e n st pe pd rail) (hn : n < 403) {v : Nat} (hv : v < 16) : d.DomMoved (e.setDom n v) n v pe pd rail :=
  { h.setFld Fd.pwrDomStatusState v with
    state := (Device.fld_setFld_self _ _ _ _ (domStatus_inRange hn) (by decide) (by decide)).trans (Nat.mod_eq_of_lt hv)
    enable := (e.flag_setFld_apart _ _ rfl).trans h.enable
    disable := (e.flag_setFld_apart _ _ rfl).trans h.disable
    rail := (e.fld_setFld_apart _ _ rfl).trans h.rail }

theorem setRail (h : d.DomMoved e n st pe pd rail) (hn : n < 403) {v : Nat} (hv : v < 256) : d.DomMoved (e.setRail n v) n st pe pd v :=
  { h.setFld Fd.pwrDomStatusRailSet v with
    state := (e.fld_setFld_apart _ _ rfl).trans h.state
    enable := (e.flag_setFld_apart _ _ rfl).trans h.enable
    disable := (e.flag_setFld_apart _ _ rfl).trans h.disable
    rail := (Device.fld_setFld_self _ _ _ _ (domStatus_inRange hn) (by decide) (by decide)).trans (Nat.mod_eq_of_lt hv) }

theorem setPendingEnable (h : d.DomMoved e n st pe pd rail) (hn : n < 403) (b : Bool) :
    d.DomMoved (e.setFld (.pwrDomStatus n) Fd.pwrDomStatusPendingEnable b.toNat) n st b pd rail :=
  { h.setFld Fd.pwrDomStatusPendingEnable b.toNat with
    state := (e.fld_setFld_apart _ _ rfl).trans h.state
    enable := Device.flag_setFld_self _ _ _ b (domStatus_inRange hn) (by decide) (by decide)
    disable := (e.flag_setFld_apart _ _ rfl).trans h.disable
    rail := (e.fld_setFld_apart _ _ rfl).trans h.rail }

theorem setPendingDisable (h : d.DomMoved e n st pe pd rail) (hn : n < 403) (b : Bool) :
    d.DomMoved (e.setFld (.pwrDomStatus n) Fd.pwrDomStatusPendingDisable b.toNat) n st pe b rail :=
  { h.setFld Fd.pwrDomStatusPendingDisable b.toNat with
    state := (e.fld_setFld_apart _ _ rfl).trans h.state
    enable := (e.flag_setFld_apart _ _ rfl).trans h.enable
    disable := Device.flag_setFld_self _ _ _ b (domStatus_inRange hn) (by decide) (by decide)
    rail := (e.fld_setFld_apart _ _ rfl).trans h.rail }

theorem setLending (h : d.DomMoved e n st pe pd rail) (v : Nat) :
    d.DomMoved (e.setFld (.pwrDomStatus n) Fd.pwrDomStatusLending v) n st pe pd rail :=
  { h.setFld Fd.pwrDomStatusLending v with
    state := (e.fld_setFld_apart _ _ rfl).trans h.state
    enable := (e.flag_setFld_apart _ _ rfl).trans h.enable
    disable := (e.flag_setFld_apart _ _ rfl).trans h.disable
    rail := (e.fld_setFld_apart _ _ rfl).trans h.rail }

/-- The domain's rail goes on. -/
theorem railOn (h : d.DomMoved e n st pe pd rail) (hn : n < 403) : d.DomMoved (e.railOn n) n 1 pe pd 60 := by
  have hr := (h.setDom hn (v := 1) (by decide)).setRail hn (v := 60) (by decide)
  unfold Device.railOn
  dsimp only
  split
  · exact (hr.setGrant _ _).showGrants
  · exact hr.showGrants

end Device.DomMoved

/-! ### The operations on a domain, state by state -/

section
variable {d : Device} {n : Nat}

theorem Device.holdOn_iff : d.holdOn n = true ↔ d.fld (.pwrDomCtrl n) Fd.pwrDomCtrlPolicy = 1 := beq_iff_eq
theorem Device.holdOff_iff : d.holdOff n = true ↔ d.fld (.pwrDomCtrl n) Fd.pwrDomCtrlPolicy = 2 := beq_iff_eq

/-- The four states of a domain on its way down. -/
theorem domState_down {st : Nat} (h4 : 4 ≤ st) (h7 : st ≤ 7) : st = 4 ∨ st = 5 ∨ st = 6 ∨ st = 7 := by omega

theorem Device.domEnable_off (h : d.domState n = 0) :
    d.domEnable n = if d.switchedDom n && !d.holdOff n then d.domPowerOn n else d := by simp only [Device.domEnable, h]
theorem Device.domEnable_up (h : d.domState n = 1) :
    d.domEnable n = if d.holdOff n then d else d.setFld (.pwrDomStatus n) Fd.pwrDomStatusPendingDisable false.toNat := by
  simp only [Device.domEnable, h, Bool.toNat_false]
theorem Device.domEnable_on (h : d.domState n = 2 ∨ d.domState n = 3) : d.domEnable n = d := by
  rcases h with h | h <;> simp only [Device.domEnable, h]
theorem Device.domEnable_down (h4 : 4 ≤ d.domState n) (h7 : d.domState n ≤ 7) :
    d.domEnable n = if d.holdOff n then d else d.setFld (.pwrDomStatus n) Fd.pwrDomStatusPendingEnable true.toNat := by
  rcases domState_down h4 h7 with h | h | h | h <;> simp only [Device.domEnable, h, Bool.toNat_true]
theorem Device.domEnable_unused (h : d.domState n = 8) : d.domEnable n = d.rejectUnused n := by simp only [Device.domEnable, h]

theorem Device.domDisable_off (h : d.domState n = 0 ∨ d.domState n = 3) : d.domDisable n = d := by
  rcases h with h | h <;> simp only [Device.domDisable, h]
theorem Device.domDisable_up (h : d.domState n = 1) :
    d.domDisable n = if d.holdOn n then d else d.setFld (.pwrDomStatus n) Fd.pwrDomStatusPendingDisable true.toNat := by
  simp only [Device.domDisable, h, Bool.toNat_true]
theorem Device.domDisable_on (h : d.domState n = 2) :
    d.domDisable n = if d.switchedDom n && !d.domLive n && !d.holdOn n then (d.setDom n 4).showGrants else d := by
  simp only [Device.domDisable, h]
theorem Device.domDisable_down (h4 : 4 ≤ d.domState n) (h7 : d.domState n ≤ 7) :
    d.domDisable n = if d.holdOn n then d else d.setFld (.pwrDomStatus n) Fd.pwrDomStatusPendingEnable false.toNat := by
  rcases domState_down h4 h7 with h | h | h | h <;> simp only [Device.domDisable, h, Bool.toNat_false]
theorem Device.domDisable_unused (h : d.domState n = 8) : d.domDisable n = d.rejectUnused n := by simp only [Device.domDisable, h]

/-- R47, R50: without room in the budgets a domain waits to be powered. -/
theorem Device.domMoved_domPowerOn_waits (h : d.roomFor n = false) :
    d.DomMoved (d.domPowerOn n) n (d.domState n) (d.pendEnable n) (d.pendDisable n) (d.railOf n) := by
  rw [Device.domPowerOn, if_neg (by simp [h])]
  exact ((Device.DomMoved.refl d n).power _).showGrants

/-- R40: at the end of power-up the local memories of a core that no program uses are cleared. -/
def Device.upCleared (d : Device) (n : Nat) : Device := if n < 256 ∧ (d.core n).used = false then d.setCore n {} else d

/-- R40: a domain that has just powered up has live state where a program is bound for the core, or work for the domain. -/
theorem Device.domLive_upCleared (d : Device) (n : Nat) :
    (d.upCleared n).domLive n = if n < 256 then (d.core n).used else d.domLive n := by
  by_cases hn : n < 256
  · cases hu : (d.core n).used
    · have hused : Core.used {} = false := rfl
      have hholds : Core.holds {} = false := rfl
      simp [Device.upCleared, hn, hu, Device.domLive, hused, hholds]
    · simp [Device.upCleared, hn, hu, Device.domLive]
  · simp [Device.upCleared, hn]

theorem Device.domUp_up (h : d.domState n = 1) :
    d.domUp n = ((((d.upCleared n).setFld (.pwrDomStatus n) Fd.pwrDomStatusPendingDisable 0).setDom n
      (if d.pendDisable n && !(d.upCleared n).domLive n then 4 else 2))).showGrants := by
  have hp : d.pendDisable n = (d.upCleared n).pendDisable n := by
    unfold Device.upCleared
    split <;> rfl
  rw [hp, Device.domUp, if_pos h]
  rfl

theorem Device.DomMoved.upCleared (d : Device) (n : Nat) :
    d.DomMoved (d.upCleared n) n (d.domState n) (d.pendEnable n) (d.pendDisable n) (d.railOf n) := by
  unfold Device.upCleared
  split
  · exact (Device.DomMoved.refl d n).setCore {}
  · exact .refl d n

/-- R40, R42: power-up ends in ON, or in DRAINING where a disable waits and nothing is live. -/
theorem Device.domMoved_domUp (hn : n < 403) (h : d.domState n = 1) :
    d.DomMoved (d.domUp n) n (if d.pendDisable n && !(if n < 256 then (d.core n).used else d.domLive n) then 4 else 2) (d.pendEnable n) false
      (d.railOf n) := by
  rw [Device.domUp_up h, Device.domLive_upCleared]
  exact (((Device.DomMoved.upCleared d n).setPendingDisable hn false).setDom hn (by split_ifs <;> decide)).showGrants

/-- R42: a shut-down step takes the domain to its next state. -/
theorem Device.domMoved_domStep (hn : n < 403) {src dst : Nat} (h : d.domState n = src) (hd : dst < 16) :
    d.DomMoved (d.domStep n src dst) n dst (d.pendEnable n) (d.pendDisable n) (d.railOf n) := by
  rw [Device.domStep, if_pos h]
  exact ((Device.DomMoved.refl d n).setDom hn hd).showGrants

theorem Device.domMoved_domIsolated (hn : n < 403) (h : d.domState n = 6) :
    d.DomMoved (d.domIsolated n) n 7 (d.pendEnable n) (d.pendDisable n) 0 := by
  rw [Device.domIsolated, if_pos h]
  dsimp only
  split
  · exact (((((Device.DomMoved.refl d n).setCore {}).setGrant n 60).setDom hn (by decide)).setRail hn (by decide)).showGrants
  · exact (((Device.DomMoved.refl d n).setDom hn (by decide)).setRail hn (by decide)).showGrants

theorem Device.domDown_off (h : d.domState n = 7) (hp : d.pendEnable n = false) : d.domDown n = (d.setDom n 0).showGrants := by
  rw [Device.domDown, if_pos h, if_neg (by simp [hp])]

theorem Device.domDown_again (h : d.domState n = 7) (hp : d.pendEnable n = true) :
    d.domDown n = if d.roomFor n then (d.setFld (.pwrDomStatus n) Fd.pwrDomStatusPendingEnable false.toNat).railOn n else d.domPowerOn n := by
  rw [Device.domDown, if_pos h, if_pos hp]
  rfl

theorem Device.domMoved_domEnable_off (hn : n < 403) (h : d.domState n = 0) (hs : d.switchedDom n = true) (ho : d.holdOff n = false)
    (hr : d.roomFor n = true) : d.DomMoved (d.domEnable n) n 1 (d.pendEnable n) (d.pendDisable n) 60 := by
  rw [Device.domEnable_off h, if_pos (by simp [hs, ho]), Device.domPowerOn, if_pos hr]
  exact (Device.DomMoved.refl d n).railOn hn

theorem Device.domMoved_domEnable_waits (h : d.domState n = 0) (hs : d.switchedDom n = true) (ho : d.holdOff n = false)
    (hr : d.roomFor n = false) : d.DomMoved (d.domEnable n) n 0 (d.pendEnable n) (d.pendDisable n) (d.railOf n) := by
  rw [Device.domEnable_off h, if_pos (by simp [hs, ho]), ← h]
  exact Device.domMoved_domPowerOn_waits hr

theorem Device.domMoved_domEnable_up (hn : n < 403) (h : d.domState n = 1) (ho : d.holdOff n = false) :
    d.DomMoved (d.domEnable n) n 1 (d.pendEnable n) false (d.railOf n) := by
  rw [Device.domEnable_up h, if_neg (by simp [ho]), ← h]
  exact (Device.DomMoved.refl d n).setPendingDisable hn false

theorem Device.domMoved_domEnable_down (hn : n < 403) (h4 : 4 ≤ d.domState n) (h7 : d.domState n ≤ 7) (ho : d.holdOff n = false) :
    d.DomMoved (d.domEnable n) n (d.domState n) true (d.pendDisable n) (d.railOf n) := by
  rw [Device.domEnable_down h4 h7, if_neg (by simp [ho])]
  exact (Device.DomMoved.refl d n).setPendingEnable hn true

theorem Device.domMoved_domDisable_on (hn : n < 403) (h : d.domState n = 2) (hs : d.switchedDom n = true) (hl : d.domLive n = false)
    (hh : d.holdOn n = false) : d.DomMoved (d.domDisable n) n 4 (d.pendEnable n) (d.pendDisable n) (d.railOf n) := by
  rw [Device.domDisable_on h, if_pos (by simp [hs, hl, hh])]
  exact ((Device.DomMoved.refl d n).setDom hn (by decide)).showGrants

theorem Device.domMoved_domDisable_up (hn : n < 403) (h : d.domState n = 1) (hh : d.holdOn n = false) :
    d.DomMoved (d.domDisable n) n 1 (d.pendEnable n) true (d.railOf n) := by
  rw [Device.domDisable_up h, if_neg (by simp [hh]), ← h]
  exact (Device.DomMoved.refl d n).setPendingDisable hn true

theorem Device.domMoved_domDisable_down (hn : n < 403) (h4 : 4 ≤ d.domState n) (h7 : d.domState n ≤ 7) (hh : d.holdOn n = false) :
    d.DomMoved (d.domDisable n) n (d.domState n) false (d.pendDisable n) (d.railOf n) := by
  rw [Device.domDisable_down h4 h7, if_neg (by simp [hh])]
  exact (Device.DomMoved.refl d n).setPendingEnable hn false

theorem Device.domMoved_domDrained (hn : n < 403) (h : d.domState n = 4) (hb : d.domBusy n = false) :
    d.DomMoved (d.domDrained n) n 5 (d.pendEnable n) (d.pendDisable n) (d.railOf n) := by
  rw [Device.domDrained, if_neg (by simp [hb])]
  exact Device.domMoved_domStep hn h (by decide)

theorem Device.domMoved_domDown_off (hn : n < 403) (h : d.domState n = 7) (hp : d.pendEnable n = false) :
    d.DomMoved (d.domDown n) n 0 false (d.pendDisable n) (d.railOf n) := by
  rw [Device.domDown_off h hp, ← hp]
  exact ((Device.DomMoved.refl d n).setDom hn (by decide)).showGrants

theorem Device.domMoved_domDown_again (hn : n < 403) (h : d.domState n = 7) (hp : d.pendEnable n = true) (hr : d.roomFor n = true) :
    d.DomMoved (d.domDown n) n 1 false (d.pendDisable n) 60 := by
  rw [Device.domDown_again h hp, if_pos hr]
  exact ((Device.DomMoved.refl d n).setPendingEnable hn false).railOn hn

theorem Device.domMoved_domDown_waits (h : d.domState n = 7) (hp : d.pendEnable n = true) (hr : d.roomFor n = false) :
    d.DomMoved (d.domDown n) n 7 true (d.pendDisable n) (d.railOf n) := by
  rw [Device.domDown_again h hp, if_neg (by simp [hr]), ← h, ← hp]
  exact Device.domMoved_domPowerOn_waits hr

/-- R45: an idle core that waits is lent, and its rail drops to retention. -/
theorem Device.domMoved_lendEntry (hn : n < 403) (h : n < 256 ∧ d.domState n = 2 ∧ d.flag .pwrLend Fd.pwrLendLendEn ∧ d.holdOn n = false ∧
    d.coreWaits n = true) : d.DomMoved (d.lendEntry n) n 3 (d.pendEnable n) (d.pendDisable n) 50 := by
  rw [Device.lendEntry, if_pos h]
  exact ((((Device.DomMoved.refl d n).setDom hn (by decide)).setRail hn (by decide)).setLending 1 |>.power _).showGrants

theorem Device.domMoved_lendReturn (hn : n < 403) : d.DomMoved (d.lendReturn n) n 2 (d.pendEnable n) (d.pendDisable n) 60 :=
  ((((((Device.DomMoved.refl d n).setDom hn (by decide)).setRail hn (by decide)).setLending 0).setGrant n 60).setCore _ |>.power _).showGrants

/-- R45: a core that no longer waits, or is held on, goes back, once its entry is complete. -/
theorem Device.domMoved_lendExit (hn : n < 403) (h3 : d.domState n = 3) (hw : d.coreWaits n = false ∨ d.holdOn n = true)
    (he : SMap.at' 0 d.power.entering n = 0) : d.DomMoved (d.lendExit n) n 2 (d.pendEnable n) (d.pendDisable n) 60 := by
  rw [Device.lendExit, if_pos ⟨h3, hw⟩, if_pos he]
  exact Device.domMoved_lendReturn hn

end

/-! ### Rows that move a domain -/

/-- R42: what a row leaves of domain n: its status as given, and beside it and PWR_MEASURE nothing changed but its core. -/
def State.moves (s : State) (i : Instr) (n st : Nat) (pe pd : Bool) (rail : Nat) : Prop :=
  ∃ t : State, exec i s = .next t ∧ t.pending = s.pending ∧ t.dev.domState n = st ∧ t.dev.pendEnable n = pe ∧ t.dev.pendDisable n = pd ∧
    t.dev.railOf n = rail ∧ s.dev.sameRegs t.dev [.pwrDomStatus n, .pwrMeasure] ∧ (∀ c, c ≠ n → t.dev.core c = s.dev.core c) ∧
    t.dev.mem = s.dev.mem ∧ t.dev.side = s.dev.side

section
variable {s : State} {n st rail : Nat} {pe pd : Bool} {i : Instr} {f : Device → Device}

theorem manage_moves (hm : s.managed = true) (hi : exec i s = manage f s) (h : s.quiet.dev.DomMoved (f s.quiet.dev) n st pe pd rail) :
    s.moves i n st pe pd rail :=
  ⟨s.after f, hi.trans (manage_after hm h.flowDone), rfl, h.state, h.enable, h.disable, h.rail, h.regs, h.cores, h.mem, h.side⟩

theorem request_moves (hm : s.managed = true) (hup : s.dev.stopped (domDie n) = false) (hi : exec i s = request n f s)
    (h : s.quiet.dev.DomMoved (f s.quiet.dev) n st pe pd rail) : s.moves i n st pe pd rail :=
  manage_moves hm (hi.trans (request_runs f hup)) h

theorem request_idle (hm : s.managed = true) (hup : s.dev.stopped (domDie n) = false) (hi : exec i s = request n f s)
    (h : f s.quiet.dev = s.quiet.dev) : exec i s = .next s.quiet :=
  (hi.trans (request_runs f hup)).trans (manage_idle (State.managed_parts hm).1 h)

end

/-! ### Requests to an UNUSED domain -/

theorem pwrEvent_not_logged : Reg.pwrEvent.offset ∉ logRegs.map Reg.offset := by decide

theorem domStatus_not_logged (n : Nat) (hn : n < 403) : (Reg.pwrDomStatus n).offset ∉ logRegs.map Reg.offset :=
  logRegs_apart _ (by simp only [Reg.offset]; omega) (fun k hk => by simp only [Reg.offset]; omega) fun k hk => by
    simp only [Reg.offset]; omega

/-- A request that is ignored sets CTRL_REJECT. -/
theorem Device.rejectDom_sets (d : Device) (n policy : Nat) : (d.rejectDom n policy).flag .pwrEvent Fd.pwrEventCtrlReject = true := by
  rw [Device.rejectDom, Device.flag, Device.fld_logModule _ _ _ _ _ _ _ _ pwrEvent_not_logged]
  exact d.flag_setFld_self .pwrEvent Fd.pwrEventCtrlReject true rfl (by decide) (by decide)

/-- A request that is ignored changes PWR_EVENT and what logging writes. -/
theorem Device.reg_rejectDom (d : Device) (n policy : Nat) {r : Reg} (h : r.offset ∉ logRegs.map Reg.offset)
    (he : r.offset ≠ Reg.pwrEvent.offset) : (d.rejectDom n policy).reg r = d.reg r := by
  rw [Device.rejectDom, Device.reg_logModule _ _ _ _ _ _ _ h]
  exact Device.reg_setReg_ne _ _ _ _ he

theorem Device.domState_rejectDom (d : Device) (n policy : Nat) {x : Nat} (hx : x < 403) :
    (d.rejectDom n policy).domState x = d.domState x := by
  simp only [Device.domState, Device.fld, d.reg_rejectDom n policy (domStatus_not_logged x hx) (domStatus_offset_ne x).2]

theorem Device.rejectUnused_eq (d : Device) (n : Nat) :
    d.rejectUnused n = d.freeValue.2.rejectDom n (fieldOf d.freeValue.1 1 0) := rfl

theorem Device.domState_rejectUnused (d : Device) {n : Nat} (hn : n < 403) : (d.rejectUnused n).domState n = d.domState n := by
  rw [Device.rejectUnused_eq, Device.domState_rejectDom _ _ _ hn]
  rfl

/-- R42, R52: a request to an UNUSED domain is ignored. -/
theorem request_unused {s : State} {n : Nat} {i : Instr} {f : Device → Device} (hm : s.managed = true) (hn : n < 403)
    (hup : s.dev.stopped (domDie n) = false) (h8 : s.quiet.dev.domState n = 8) (hi : exec i s = request n f s)
    (hf : f s.quiet.dev = s.quiet.dev.rejectUnused n) :
    ∃ t : State, exec i s = .next t ∧ t.pending = s.pending ∧ t.dev.domState n = 8 ∧ t.dev.flag .pwrEvent Fd.pwrEventCtrlReject = true ∧
      t.dev.cores = s.dev.cores ∧ t.dev.mem = s.dev.mem := by
  have same : s.quiet.dev.PowerSame (s.quiet.dev.rejectUnused n) := s.quiet.dev.powerSame_rejectUnused n
  refine ⟨_, manage_row hm (hi.trans (request_runs f hup)) hf same.flowDone, rfl, (Device.domState_rejectUnused _ hn).trans h8, ?_, same.cores, same.mem⟩
  exact Device.rejectDom_sets _ n _

/-! ### O55 -/

/-- Settles O55, row by row: a row of the table is one equation of its request or step, after which the domain has moved as
`Device.DomMoved` says. -/
theorem domainStateMachine : Obligations.DomainStateMachine := by
  intro s n hm hn R st pe pd rail held off lives goes
  have notHeld : ¬ held → s.quiet.dev.holdOn n = false := fun h => Bool.eq_false_iff.2 (mt Device.holdOn_iff.1 h)
  have notOff : ¬ off → s.quiet.dev.holdOff n = false := fun h => Bool.eq_false_iff.2 (mt Device.holdOff_iff.1 h)
  refine ⟨fun hup => ⟨fun hsw => ⟨fun h0 ho hr => ?_, fun h2 hl hh => ?_⟩, fun h1 hh => ?_, fun h4 h7 => ⟨fun ho => ?_, fun hh => ?_⟩,
    fun h8 i hi => ?_, fun hc => ⟨fun h2 he hh hw => ?_, fun h3 hw he => ?_⟩⟩, fun h1 => ⟨fun hp => ?_, fun hp hl => ?_⟩, fun h4 hb => ?_,
    fun h5 => ?_, fun h6 => ?_, fun h7 => ⟨fun hp => ?_, fun hp hr => ?_⟩⟩
  · exact request_moves hm hup (exec_domainEnableRequest n s) (Device.domMoved_domEnable_off hn h0 hsw (notOff ho) ((State.roomFor_quiet s n).trans hr))
  · exact request_moves hm hup (exec_domainDisableRequest n s) (Device.domMoved_domDisable_on hn h2 hsw hl (notHeld hh))
  · exact request_moves hm hup (exec_domainDisableRequest n s) (Device.domMoved_domDisable_up hn h1 (notHeld hh))
  · exact request_moves hm hup (exec_domainEnableRequest n s) (Device.domMoved_domEnable_down hn h4 h7 (notOff ho))
  · exact request_moves hm hup (exec_domainDisableRequest n s) (Device.domMoved_domDisable_down hn h4 h7 (notHeld hh))
  · rcases List.mem_pair.1 hi with rfl | rfl
    · exact request_unused hm hn hup h8 (exec_domainEnableRequest n s) (Device.domEnable_unused h8)
    · exact request_unused hm hn hup h8 (exec_domainDisableRequest n s) (Device.domDisable_unused h8)
  · exact request_moves hm hup (exec_lendEntry n s) (Device.domMoved_lendEntry hn ⟨hc, h2, he, notHeld hh, hw⟩)
  · exact request_moves hm hup (exec_lendExit n s) (Device.domMoved_lendExit hn h3 (.inl hw) he)
  · have h := manage_moves hm (exec_powerUpComplete n s) (Device.domMoved_domUp hn h1)
    rwa [show s.quiet.dev.pendDisable n = false from hp, Bool.false_and, if_neg Bool.false_ne_true] at h
  · have h := manage_moves hm (exec_powerUpComplete n s) (Device.domMoved_domUp hn h1)
    have hl' : (if n < 256 then (s.quiet.dev.core n).used else s.quiet.dev.domLive n) = false :=
      Bool.eq_false_iff.2 fun hx => hl ((apply_ite (· = true) _ _ _).mp hx)
    rwa [show s.quiet.dev.pendDisable n = true from hp, hl'] at h
  · exact manage_moves hm (exec_domainDrainComplete n s) (Device.domMoved_domDrained hn h4 hb)
  · exact manage_moves hm (exec_retentionSaveComplete n s) (Device.domMoved_domStep hn h5 (by decide))
  · exact manage_moves hm (exec_isolationComplete n s) (Device.domMoved_domIsolated hn h6)
  · exact manage_moves hm (exec_railDownComplete n s) (Device.domMoved_domDown_off hn h7 hp)
  · exact manage_moves hm (exec_railDownComplete n s) (Device.domMoved_domDown_again hn h7 hp ((State.roomFor_quiet s n).trans hr))

/-! ### O56 -/

/-- Settles O56: the module budget in force is PWR_BUDGET.MODULE_W brought between its bounds. -/
theorem moduleBudget : Obligations.ModuleBudget := by
  refine ⟨by decide, fun s => ⟨fun h => ?_, fun h => ?_, fun h1 h2 => ?_⟩⟩ <;> rw [Device.moduleBudget, clampTo]
  · rw [min_eq_right (by omega), max_eq_left h.le]
  · rw [min_eq_left h.le, max_eq_right (by decide)]
  · rw [min_eq_right h2, max_eq_right h1]

end Sys2Proof.Machine
end

section
/-! PROOF. O57: other requests to domains, lending, rail grants, the fabric rail, heat and stalls. -/

namespace Sys2Proof.Machine

/-! ### Requests that find nothing to do -/

section
variable {d : Device} {n : Nat}

theorem Device.domEnable_off_idle (h : d.domState n = 0) (hi : d.switchedDom n = false ∨ d.holdOff n = true) : d.domEnable n = d := by
  rw [Device.domEnable_off h, if_neg]
  rcases hi with hi | hi <;> simp [hi]

theorem Device.domEnable_up_idle (h : d.domState n = 1) (ho : d.holdOff n = true) : d.domEnable n = d := by
  rw [Device.domEnable_up h, if_pos ho]

theorem Device.domEnable_down_idle (h4 : 4 ≤ d.domState n) (h7 : d.domState n ≤ 7) (ho : d.holdOff n = true) : d.domEnable n = d := by
  rw [Device.domEnable_down h4 h7, if_pos ho]

theorem Device.domDisable_on_idle (h : d.domState n = 2) (hi : d.switchedDom n = false ∨ d.domLive n = true ∨ d.holdOn n = true) :
    d.domDisable n = d := by
  rw [Device.domDisable_on h, if_neg]
  rcases hi with hi | hi | hi <;> simp [hi]

theorem Device.domDisable_up_idle (h : d.domState n = 1) (hh : d.holdOn n = true) : d.domDisable n = d := by
  rw [Device.domDisable_up h, if_pos hh]

theorem Device.domDisable_down_idle (h4 : 4 ≤ d.domState n) (h7 : d.domState n ≤ 7) (hh : d.holdOn n = true) : d.domDisable n = d := by
  rw [Device.domDisable_down h4 h7, if_pos hh]

theorem Device.lendEntry_idle (h : d.domState n ≠ 2 ∨ d.flag .pwrLend Fd.pwrLendLendEn = false ∨ d.holdOn n = true ∨ d.coreWaits n = false) :
    d.lendEntry n = d := by
  rw [Device.lendEntry, if_neg]
  rintro ⟨-, h2, he, hh, hw⟩
  rcases h with h | h | h | h
  · exact h h2
  · exact Bool.false_ne_true (h.symm.trans he)
  · exact Bool.false_ne_true (hh.symm.trans h)
  · exact Bool.false_ne_true (h.symm.trans hw)

theorem Device.lendExit_idle (h : d.domState n ≠ 3 ∨ (d.coreWaits n = true ∧ d.holdOn n = false)) : d.lendExit n = d := by
  rw [Device.lendExit, if_neg]
  rintro ⟨h3, hw⟩
  rcases h with h | ⟨h1, h2⟩
  · exact h h3
  · rcases hw with hw | hw
    · exact Bool.false_ne_true (hw.symm.trans h1)
    · exact Bool.false_ne_true (h2.symm.trans hw)

theorem Device.domDrained_busy (h : d.domBusy n = true) : d.domDrained n = d := if_pos h

end

/-! ### Lending -/

/-- The device with the switch of a core's rail to retention noted. -/
def Device.setEntering (d : Device) (c v : Nat) : Device :=
  { d with power := { d.power with entering := SMap.set (fun _ => 0) d.power.entering c v } }

theorem Device.entering_setEntering (d : Device) (c v : Nat) : SMap.at' 0 (d.setEntering c v).power.entering c = v :=
  SMap.get_set_self _ _ _ _

section
variable {d : Device} {c : Nat}

theorem Device.lendExit_entering (h3 : d.domState c = 3) (hw : d.coreWaits c = false ∨ d.holdOn c = true)
    (he : SMap.at' 0 d.power.entering c = 1) : d.lendExit c = d.setEntering c 2 := by
  rw [Device.lendExit, if_pos ⟨h3, hw⟩, if_neg (by simp [he])]
  rfl

theorem Device.lendEntered_returns (h3 : d.domState c = 3) (he : SMap.at' 0 d.power.entering c = 2) : d.lendEntered c = d.lendReturn c := by
  rw [Device.lendEntered, if_pos h3, if_pos he]

theorem Device.lendEntered_stays (h3 : d.domState c = 3) (he : SMap.at' 0 d.power.entering c = 1) : d.lendEntered c = d.setEntering c 0 := by
  rw [Device.lendEntered, if_pos h3, if_neg (by simp [he])]
  rfl

end

/-- R48: the next work of a core begins an activity ramp. -/
def Core.rampAgain (k : Core) : Core := { k with ramp := none, rampDue := true }

/-- R45: what a return from lending changes beside the status of the domain. -/
def Device.backFromLending (d : Device) (c : Nat) : Device := ((d.setGrant c 60).updCore c Core.rampAgain).setEntering c 0

theorem Device.lendReturn_eq (d : Device) (c : Nat) : d.lendReturn c =
    ((((d.setDom c 2).setRail c 60).setFld (.pwrDomStatus c) Fd.pwrDomStatusLending 0).backFromLending c).showGrants := rfl

theorem Device.grantOf_backFromLending (d : Device) (c : Nat) : (d.backFromLending c).grantOf c = 60 := by
  change (d.setGrant c 60).grantOf c = 60
  rw [Device.grantOf_setGrant, if_pos rfl]

theorem Device.core_backFromLending (d : Device) (c : Nat) : (d.backFromLending c).core c = (d.core c).rampAgain :=
  Device.core_updCore_self (d.setGrant c 60) c Core.rampAgain

theorem Device.grantOf_lendReturn (d : Device) (c : Nat) : (d.lendReturn c).grantOf c = 60 := by
  rw [Device.lendReturn_eq, Device.grantOf_showGrants, Device.grantOf_backFromLending]

theorem Device.entering_lendReturn (d : Device) (c : Nat) : SMap.at' 0 (d.lendReturn c).power.entering c = 0 := by
  rw [Device.lendReturn_eq, Device.power_showGrants, Device.backFromLending, Device.entering_setEntering]

theorem Device.reg_domStatus_showGrants (d : Device) (c : Nat) : d.showGrants.reg (.pwrDomStatus c) = d.reg (.pwrDomStatus c) :=
  d.sameRegs_showGrants (rs := [.pwrMeasure]) (by simp) _ (by simpa using (domStatus_offset_ne c).1)

theorem Device.lending_lendReturn (d : Device) {c : Nat} (hc : c < 403) :
    (d.lendReturn c).flag (.pwrDomStatus c) Fd.pwrDomStatusLending = false := by
  have hr : ∀ e : Device, (e.backFromLending c).reg (.pwrDomStatus c) = e.reg (.pwrDomStatus c) := fun _ => rfl
  rw [Device.lendReturn_eq, Device.flag, Device.fld, Device.reg_domStatus_showGrants, hr]
  exact Device.flag_setFld_self _ (.pwrDomStatus c) Fd.pwrDomStatusLending false (domStatus_inRange hc) (by decide) (by decide)

theorem Device.core_lendReturn (d : Device) (c : Nat) : (d.lendReturn c).core c = (d.core c).rampAgain := by
  have h : d.PowerSame (((d.setDom c 2).setRail c 60).setFld (.pwrDomStatus c) Fd.pwrDomStatusLending 0) :=
    (((Device.PowerSame.refl d).setFld _ _ _).setFld _ _ _).setFld _ _ _
  rw [Device.lendReturn_eq, (Device.PowerSame.refl _).showGrants.core, Device.core_backFromLending, h.core]

/-! ### Rail grants -/

/-- R47: the device once a die's borrowers have stepped down for a raise of a core that is not given yet. -/
def Device.steppedDown (d : Device) (c v : Nat) : Device :=
  (((d.setGrant c v).stepDown (c / 64)).setGrant c (d.grantOf c)).showGrants

section
variable {d : Device} {c v : Nat}

theorem Device.railGrant_core (hc : c < 256) (h2 : d.domState c = 2) (hl : 60 ≤ v) (hv : v ≤ 95) :
    d.railGrant c v = if v ≤ d.grantOf c then (d.setGrant c v).showGrants
      else if d.raisesHeld (c / 64) then d
      else if (d.setGrant c v).fits (c / 64) then (d.setGrant c v).showGrants
      else if v ≤ 80 then d.steppedDown c v
      else d := by
  rw [Device.railGrant, if_pos ⟨hc, h2, hl, hv⟩, Device.steppedDown]

/-- R35, R42: no grant comes of a core that is not ON, or outside the settings of its rail. -/
theorem Device.railGrant_none (hc : c < 256) (h : d.domState c ≠ 2 ∨ v < 60 ∨ 95 < v) : d.railGrant c v = d := by
  rw [Device.railGrant, if_neg (by omega), if_neg (by omega)]

/-- R47: a grant that lowers a rail, or that fits while nothing withholds it, is given. -/
theorem Device.railGrant_given (hc : c < 256) (h2 : d.domState c = 2) (hl : 60 ≤ v) (hv : v ≤ 95)
    (h : v ≤ d.grantOf c ∨ (d.raisesHeld (c / 64) = false ∧ (d.setGrant c v).fits (c / 64) = true)) :
    d.railGrant c v = (d.setGrant c v).showGrants := by
  rw [Device.railGrant_core hc h2 hl hv]
  by_cases hg : v ≤ d.grantOf c
  · rw [if_pos hg]
  · obtain ⟨hh, hf⟩ := h.resolve_left hg
    rw [if_neg hg, if_neg (by simp [hh]), if_pos hf]

/-- R47, R51: a raise that is withheld, or one above 0.80 V that finds no room, is not given. -/
theorem Device.railGrant_refused (hc : c < 256) (hg : d.grantOf c < v)
    (h : d.raisesHeld (c / 64) = true ∨ ((d.setGrant c v).fits (c / 64) = false ∧ 80 < v)) : d.railGrant c v = d := by
  by_cases hr : d.domState c ≠ 2 ∨ v < 60 ∨ 95 < v
  · exact Device.railGrant_none hc hr
  · rw [Device.railGrant_core hc (by omega) (by omega) (by omega), if_neg (by omega)]
    cases hh : d.raisesHeld (c / 64)
    · obtain ⟨hf, hv⟩ := h.resolve_left (by simp [hh])
      rw [if_neg Bool.false_ne_true, if_neg (by simp [hf]), if_neg (by omega)]
    · rfl

/-- R46, R47: a raise within the core's own share that finds no room makes the borrowers of its die step down. -/
theorem Device.railGrant_stepsDown (hc : c < 256) (h2 : d.domState c = 2) (hl : 60 ≤ v) (hg : d.grantOf c < v) (hv : v ≤ 80)
    (hh : d.raisesHeld (c / 64) = false) (hf : (d.setGrant c v).fits (c / 64) = false) :
    d.railGrant c v = d.steppedDown c v := by
  rw [Device.railGrant_core hc h2 hl (by omega), if_neg (by omega), if_neg (by simp [hh]), if_neg (by simp [hf]), if_pos hv]

end

theorem State.fits_setGrant_quiet (s : State) (c v k : Nat) : (s.quiet.dev.setGrant c v).fits k = (s.dev.setGrant c v).fits k := by
  have hr : (s.quiet.dev.setGrant c v).regs = (s.dev.setGrant c v).regs := rfl
  have hp : (s.quiet.dev.setGrant c v).power = (s.dev.setGrant c v).power := rfl
  exact Device.fits_congr hr hp k

/-- What a grant that is given changes. -/
theorem Device.sameRegs_setGrant_show (d : Device) (c v : Nat) : d.sameRegs (d.setGrant c v).showGrants [.pwrMeasure] :=
  Device.sameRegs_showGrants (d.setGrant c v) (by simp)

theorem Device.grantOf_setGrant_show (d : Device) (c v x : Nat) :
    (d.setGrant c v).showGrants.grantOf x = if x = c then v else d.grantOf x :=
  (Device.grantOf_showGrants _ x).trans (Device.grantOf_setGrant d c v x)

theorem Device.powerSame_steppedDown (d : Device) (c v : Nat) : d.PowerSame (d.steppedDown c v) :=
  ((((Device.PowerSame.refl d).setGrant c v).trans (Device.powerSame_stepDown _ _)).setGrant _ _).showGrants

theorem Device.sameRegs_steppedDown (d : Device) (c v : Nat) : d.sameRegs (d.steppedDown c v) [.pwrMeasure] :=
  (Device.sameRegs_of_regs (e := (d.setGrant c v).stepDown (c / 64)) _ (Device.regs_stepDown _ _)).trans
    (Device.sameRegs_setGrant_show _ _ _)

theorem Device.grantOf_steppedDown (d : Device) (c v x : Nat) :
    (d.steppedDown c v).grantOf x = if x = c then d.grantOf c else ((d.setGrant c v).stepDown (c / 64)).grantOf x :=
  Device.grantOf_setGrant_show _ _ _ _

theorem Device.grantOf_steppedDown_le (d : Device) (c v x : Nat) : (d.steppedDown c v).grantOf x ≤ d.grantOf x := by
  rw [Device.grantOf_steppedDown]
  split
  · next h => rw [h]
  · next h => exact (Device.grantOf_stepDown_le _ _ x).trans_eq ((Device.grantOf_setGrant d c v x).trans (if_neg h))

theorem Device.grantOf_steppedDown_other (d : Device) {c x : Nat} (v : Nat) (h : x / 64 ≠ c / 64) :
    (d.steppedDown c v).grantOf x = d.grantOf x := by
  have hx : x ≠ c := fun e => h (e ▸ rfl)
  rw [Device.grantOf_steppedDown, if_neg hx, Device.grantOf_stepDown_other _ h, Device.grantOf_setGrant, if_neg hx]

theorem domDie_core {c : Nat} (hc : c < 256) : domDie c = c / 64 := by rw [domDie, if_pos hc]

/-- R29: the fabric rail of a die goes by 256 + d. -/
theorem domDie_fabric {die : Nat} (h : die < 4) : domDie (256 + die) = die := by
  rw [domDie, if_neg (by omega), if_pos (by omega)]
  omega

theorem Device.railGrant_fabric (d : Device) {die v : Nat} (h : die < 4) (hl : 80 ≤ v) (hv : v ≤ 95) :
    d.railGrant (256 + die) v = d.setFabric die v := by
  rw [Device.railGrant, if_neg (by omega), if_pos (by omega), Nat.add_sub_cancel_left]

/-! ### Estimates -/

/-- The device with the estimate of a domain's draw kept. -/
def Device.setEstimate (d : Device) (n mw : Nat) : Device :=
  { d with power := { d.power with estimates := SMap.set (fun _ => 0) d.power.estimates n mw } }

/-- R50: an estimate is kept, and grants are reclaimed where die 0's complex runs. -/
def Device.estimated (d : Device) (n mw : Nat) : Device :=
  if (d.setEstimate n mw).stopped 0 then d.setEstimate n mw else (d.setEstimate n mw).reclaim

theorem exec_powerEstimate (n mw : Nat) (s : State) : exec (.powerEstimate n mw) s = manage (·.estimated n mw) s := rfl

theorem Device.powerSame_estimated (d : Device) (n mw : Nat) : d.PowerSame (d.estimated n mw) :=
  have h : d.PowerSame (d.setEstimate n mw) := rfl
  .ite h (h.trans (Device.powerSame_reclaim _))

theorem Device.estimates_estimated (d : Device) (n mw : Nat) :
    (d.estimated n mw).power.estimates = SMap.set (fun _ => 0) d.power.estimates n mw := by
  unfold Device.estimated
  split
  · rfl
  · exact Device.reclaim_keeps (·.power.estimates) (fun _ _ _ => rfl) (fun e => congrArg Power.estimates e.power_showGrants) _

theorem Device.grantOf_estimated_le (d : Device) (n mw x : Nat) : (d.estimated n mw).grantOf x ≤ d.grantOf x := by
  unfold Device.estimated
  split
  · exact le_rfl
  · exact Device.grantOf_reclaim_le (d.setEstimate n mw) x

theorem Device.sameRegs_estimated (d : Device) (n mw : Nat) : d.sameRegs (d.estimated n mw) [.pwrMeasure] := by
  unfold Device.estimated
  split
  · exact fun _ _ => rfl
  · exact Device.sameRegs_reclaim (d.setEstimate n mw)

/-! ### Bits of a mask -/

theorem bitOf_eq_testBit (m i : Nat) : bitOf m i = m.testBit i := by
  rw [bitOf, Nat.testBit_eq_decide_div_mod_eq, Nat.shiftRight_eq_div_pow]
  rfl

theorem bitOf_or_bit (m i : Nat) : bitOf (m ||| 1 <<< i) i = true := by
  rw [bitOf_eq_testBit, Nat.testBit_or, Nat.one_shiftLeft, Nat.testBit_two_pow_self, Bool.or_true]

theorem bitOf_putBit_false (m i : Nat) : bitOf (putBit m i false) i = false := by
  cases h : bitOf m i
  · simp [putBit, h]
  · have hm : m / 2 ^ i % 2 = 1 := by simpa [bitOf, Nat.shiftRight_eq_div_pow] using h
    have hs : (m - 2 ^ i) / 2 ^ i = m / 2 ^ i - 1 := by simpa using Nat.sub_mul_div m (2 ^ i) 1
    rw [putBit, if_pos h, if_neg Bool.false_ne_true, bitOf, Nat.one_shiftLeft, Nat.shiftRight_eq_div_pow, hs, beq_eq_false_iff_ne]
    omega

/-! ### Heat -/

theorem pwrMeasure_not_logged : Reg.pwrMeasure.offset ∉ logRegs.map Reg.offset := by decide

theorem exec_thermalLimit (die sensor temp : Nat) (s : State) :
    exec (.thermalLimit die sensor temp) s = manage (fun d => if d.stopped die then d else d.thermalLimit die sensor temp) s := rfl
theorem exec_thermalStep (die temp : Nat) (s : State) :
    exec (.thermalStep die temp) s = manage (fun d => if d.stopped die then d else d.thermalStep die temp) s := rfl
theorem exec_emergencyHoldEnd (s : State) : exec .emergencyHoldEnd s =
    manage (fun d => if d.stopped 0 then d else { d with power := { d.power with hold := false } }) s := rfl
theorem exec_fabricStall (n cls : Nat) (s : State) : exec (.fabricStall n cls) s = manage (·.fabricStall n cls) s := rfl

section
variable (d : Device) (die temp : Nat)

theorem Device.power_junction :
    (d.junction die temp).power = { d.power with hottest := SMap.set (fun _ => 0) d.power.hottest die temp } := by
  simp [Device.junction]

theorem Device.grants_junction : (d.junction die temp).power.grants = d.power.grants := by rw [Device.power_junction]

theorem Device.grantOf_junction (x : Nat) : (d.junction die temp).grantOf x = d.grantOf x :=
  Device.grantOf_congr (d.grants_junction die temp) x

theorem Device.sameRegs_junction : d.sameRegs (d.junction die temp) [.pwrMeasure] :=
  Device.sameRegs_setFld { d with power := { d.power with hottest := SMap.set (fun _ => 0) d.power.hottest die temp } } _ _ _ (by simp)

theorem Device.domState_junction (x : Nat) : (d.junction die temp).domState x = d.domState x := by
  simp only [Device.domState, Device.fld, d.sameRegs_junction die temp (.pwrDomStatus x) (by simpa using (domStatus_offset_ne x).1)]

theorem Device.tjLimit_junction : (d.junction die temp).tjLimit = d.tjLimit := by
  simp only [Device.tjLimit, Device.fld, d.sameRegs_junction die temp .pwrThermal (by decide)]

/-- R54: TJ_MAX_C shows the hottest junction of the module. -/
theorem Device.tjMax_junction (h : ∀ k, k < 4 → (if k = die then temp else SMap.at' 0 d.power.hottest k) < 256) :
    let r := fun k => if k = die then temp else SMap.at' 0 d.power.hottest k
    (d.junction die temp).fld .pwrMeasure Fd.pwrMeasureTjMaxC = max (max (r 0) (r 1)) (max (r 2) (r 3)) := by
  have hread : ∀ k, SMap.at' 0 (SMap.set (fun _ => 0) d.power.hottest die temp) k = if k = die then temp else SMap.at' 0 d.power.hottest k :=
    fun k => SMap.get_set _ _ _ _ _
  have hmax : (List.range 4).foldl (fun m k => max m (SMap.at' 0 (SMap.set (fun _ => 0) d.power.hottest die temp) k)) 0 =
      max (max (if 0 = die then temp else SMap.at' 0 d.power.hottest 0) (if 1 = die then temp else SMap.at' 0 d.power.hottest 1))
        (max (if 2 = die then temp else SMap.at' 0 d.power.hottest 2) (if 3 = die then temp else SMap.at' 0 d.power.hottest 3)) := by
    simp only [show List.range 4 = [0, 1, 2, 3] from rfl, List.foldl_cons, List.foldl_nil, hread, Nat.zero_max, max_assoc]
  refine (Device.fld_setFld_self _ _ _ _ rfl (by decide) (by decide)).trans ?_
  change List.foldl _ _ _ % 256 = _
  rw [hmax]
  have h0 := h 0 (by decide); have h1 := h 1 (by decide); have h2 := h 2 (by decide); have h3 := h 3 (by decide)
  exact Nat.mod_eq_of_lt (max_lt (max_lt h0 h1) (max_lt h2 h3))

end

/-- R51: the device once a die throttles, and its sensor has been read. -/
def Device.throttled (d : Device) (die temp : Nat) : Device :=
  ({ d with power := { d.power with throttle := d.power.throttle ||| 1 <<< die } } : Device).junction die
    (max temp (SMap.at' 0 d.power.hottest die))

theorem Device.thermalLimit_hot {d : Device} {die temp : Nat} (sensor : Nat) (h : die < 4) (ht : d.tjLimit < temp) :
    d.thermalLimit die sensor temp = ((d.throttled die temp).setFld .pwrEvent Fd.pwrEventThermalLimit 1).logModule 0x0303 0
      [wordOf die, wordOf sensor, wordOf temp] die := by
  rw [Device.thermalLimit, if_pos ⟨h, ht⟩]
  rfl

theorem Device.thermalLimit_cool {d : Device} {temp : Nat} (die sensor : Nat) (ht : temp ≤ d.tjLimit) :
    d.thermalLimit die sensor temp = d := if_neg fun h => absurd h.2 (by omega)

theorem Device.thermalStep_ends {d : Device} {die temp : Nat} (h : die < 4) (hb : bitOf d.power.throttle die = true)
    (ht : temp + 2 ≤ d.tjLimit) : d.thermalStep die temp = { d.junction die temp with
      power := { (d.junction die temp).power with throttle := putBit (d.junction die temp).power.throttle die false } } := by
  rw [Device.thermalStep, if_pos ⟨h, hb⟩]
  exact if_pos (by rwa [Device.tjLimit_junction])

theorem Device.thermalStep_lowers {d : Device} {die temp : Nat} (h : die < 4) (hb : bitOf d.power.throttle die = true)
    (ht : d.tjLimit < temp + 2) : d.thermalStep die temp = (d.junction die temp).mapRails (dieCores die) fun v => max 60 (v - 1) := by
  rw [Device.thermalStep, if_pos ⟨h, hb⟩]
  exact if_neg (by rw [Device.tjLimit_junction]; omega)

theorem Device.powerSame_thermalLimit (d : Device) (die sensor temp : Nat) : d.PowerSame (d.thermalLimit die sensor temp) :=
  .ite ((Device.PowerSame.trans ((Device.PowerSame.refl d).power _) (Device.powerSame_junction _ _ _)).setFld _ _ _ |>.logModule _ _ _ _ _)
    (.refl d)

theorem Device.powerSame_thermalStep (d : Device) (die temp : Nat) : d.PowerSame (d.thermalStep die temp) :=
  have h := d.powerSame_junction die temp
  .ite (.ite (h.power _) (h.trans (Device.powerSame_mapRails _ _ _))) (.refl d)

section
variable {d : Device} {die temp : Nat} (sensor : Nat)

theorem Device.power_thermalLimit (h : die < 4) (ht : d.tjLimit < temp) : (d.thermalLimit die sensor temp).power =
    { d.power with
      throttle := d.power.throttle ||| 1 <<< die
      hottest := SMap.set (fun _ => 0) d.power.hottest die (max temp (SMap.at' 0 d.power.hottest die)) } := by
  rw [Device.thermalLimit_hot sensor h ht, Device.logModule_power, Device.setFld_power, Device.throttled, Device.power_junction]

theorem Device.grants_thermalLimit (h : die < 4) (ht : d.tjLimit < temp) : (d.thermalLimit die sensor temp).power.grants = d.power.grants := by
  rw [Device.power_thermalLimit sensor h ht]

theorem Device.throttle_thermalLimit (h : die < 4) (ht : d.tjLimit < temp) :
    bitOf (d.thermalLimit die sensor temp).power.throttle die = true := by
  rw [Device.power_thermalLimit sensor h ht]
  exact bitOf_or_bit _ die

theorem Device.flag_thermalLimit (h : die < 4) (ht : d.tjLimit < temp) :
    (d.thermalLimit die sensor temp).flag .pwrEvent Fd.pwrEventThermalLimit = true := by
  rw [Device.thermalLimit_hot sensor h ht, Device.flag, Device.fld_logModule _ _ _ _ _ _ _ _ pwrEvent_not_logged]
  exact Device.flag_setFld_self _ .pwrEvent Fd.pwrEventThermalLimit true rfl (by decide) (by decide)

theorem Device.tjMax_thermalLimit (h : die < 4) (ht : d.tjLimit < temp)
    (h256 : ∀ k, k < 4 → (if k = die then max temp (SMap.at' 0 d.power.hottest k) else SMap.at' 0 d.power.hottest k) < 256) :
    let r := fun k => if k = die then max temp (SMap.at' 0 d.power.hottest k) else SMap.at' 0 d.power.hottest k
    (d.thermalLimit die sensor temp).fld .pwrMeasure Fd.pwrMeasureTjMaxC = max (max (r 0) (r 1)) (max (r 2) (r 3)) := by
  have hr : ∀ k, (if k = die then max temp (SMap.at' 0 d.power.hottest k) else SMap.at' 0 d.power.hottest k) =
      if k = die then max temp (SMap.at' 0 d.power.hottest die) else SMap.at' 0 d.power.hottest k := fun k => by
    split
    · next hk => rw [hk]
    · rfl
  simp only [hr] at h256 ⊢
  rw [Device.thermalLimit_hot sensor h ht, Device.fld_logModule _ _ _ _ _ _ _ _ pwrMeasure_not_logged,
    Device.fld_setFld_ne _ _ _ _ _ _ (by decide)]
  exact Device.tjMax_junction { d with power := { d.power with throttle := d.power.throttle ||| 1 <<< die } } die _ h256

/-- R51: each step while a die throttles lowers the grants of its cores by one setting. -/
theorem Device.grantOf_thermalStep (h : die < 4) (hb : bitOf d.power.throttle die = true) (ht : d.tjLimit < temp + 2) (c : Nat) :
    (d.thermalStep die temp).grantOf c =
      if c / 64 = die ∧ drawsByGrant (d.domState c) = true then max 60 (d.grantOf c - 1) else d.grantOf c := by
  rw [Device.thermalStep_lowers h hb ht, Device.grantOf_mapRails _ (nodup_dieCores die), Device.domState_junction, Device.grantOf_junction]
  simp only [mem_dieCores]

theorem Device.throttle_thermalStep (h : die < 4) (hb : bitOf d.power.throttle die = true) (ht : d.tjLimit < temp + 2) :
    (d.thermalStep die temp).power.throttle = d.power.throttle := by
  rw [Device.thermalStep_lowers h hb ht,
    Device.mapRails_keeps (·.power.throttle) (fun _ _ _ => rfl) (fun e c v => congrArg Power.throttle (e.power_setRail c v))
      (fun e => congrArg Power.throttle e.power_showGrants), Device.power_junction]

end

/-! ### Stalls, and counts of records -/

section
variable {c : Nat}

/-- Writing a record into an error ring counts in no class. -/
theorem Device.classCount_errWrite (d : Device) (k : Nat) (r : LogRec) : (d.errWrite k r).reg (.rasClassCount c) = d.reg (.rasClassCount c) := by
  have hraise : ∀ (e : Device) fn v, (e.raise fn v).reg (.rasClassCount c) = e.reg (.rasClassCount c) := fun e fn v => by
    unfold Device.raise
    split <;> rfl
  have hhead : (d.errRefreshHead k).reg (.rasClassCount c) = d.reg (.rasClassCount c) := by
    unfold Device.errRefreshHead
    dsimp only
    split_ifs <;> rfl
  rw [← hhead]
  unfold Device.errWrite
  dsimp only
  split
  · rw [hraise, Device.reg_setErrRing, Device.hostWriteWord, Device.reg_hostWrite, Device.reg_hostWrite]
  · split
    · exact Device.reg_setReg_ne _ _ _ _ (by simp only [Reg.offset]; omega)
    · rfl

theorem Device.classCount_histPush (d : Device) (r : LogRec) (w : Bool) :
    (d.histPush r w).1.reg (.rasClassCount c) = d.reg (.rasClassCount c) := by
  have hne : (Reg.rasClassCount c).offset ≠ Reg.rasStatus.offset := by simp only [Reg.offset]; omega
  have hcount : ∀ l, ({ d with hist := l } : Device).countWaiting.reg (.rasClassCount c) = d.reg (.rasClassCount c) := fun l =>
    Device.reg_setReg_ne { d with hist := l } _ _ _ hne
  unfold Device.histPush
  dsimp only
  split
  · exact hcount _
  · exact (Device.reg_setReg_ne _ _ _ _ hne).trans (hcount _)

theorem Device.classCount_delivered (d : Device) (k : Nat) (r : LogRec) (s : Storm) :
    (d.delivered k r s).1.reg (.rasClassCount c) = d.reg (.rasClassCount c) := by
  have hd : (d.deliver k r).1.reg (.rasClassCount c) = d.reg (.rasClassCount c) := by
    unfold Device.deliver
    dsimp only
    split_ifs
    · exact (Device.classCount_histPush _ _ _).trans (d.classCount_errWrite k r)
    · exact d.classCount_errWrite k r
    · exact d.classCount_histPush r true
    · exact d.classCount_histPush r false
    · rfl
  unfold Device.delivered
  dsimp only
  split
  · exact hd
  · exact hd

theorem Device.classCount_counted (d : Device) (r : LogRec) (hc : c < 7) :
    ((d.setReg (.rasClassCount r.cls) (d.reg (.rasClassCount r.cls) + 1)).platformEvent r).reg (.rasClassCount c) =
      if r.cls = c then d.reg (.rasClassCount c) + 1 else d.reg (.rasClassCount c) := by
  have hp : ∀ e : Device, (e.platformEvent r).reg (.rasClassCount c) = e.reg (.rasClassCount c) := fun e => by
    unfold Device.platformEvent
    split <;> rfl
  rw [hp]
  split
  · next h =>
    rw [h]
    exact Device.reg_setReg_self _ _ _ (by simpa [Reg.inRange] using hc)
  · next h => exact Device.reg_setReg_ne _ _ _ _ (by simp only [Reg.offset]; omega)

/-- One record, where the records of lost history records that may follow it count in another class. -/
theorem Device.classCount_logFuel_succ (hc : c < 7) {fuel : Nat}
    (hlost : ∀ (r : LogRec) (d : Device), r.cls = 0 → (Device.logFuel fuel moduleRing r d).reg (.rasClassCount c) = d.reg (.rasClassCount c))
    (k : Nat) (r : LogRec) (d : Device) : (Device.logFuel (fuel + 1) k r d).reg (.rasClassCount c) =
      if r.cls = c then d.reg (.rasClassCount c) + 1 else d.reg (.rasClassCount c) := by
  rw [← d.classCount_counted r hc]
  unfold Device.logFuel
  dsimp only
  generalize (d.setReg (.rasClassCount r.cls) (d.reg (.rasClassCount r.cls) + 1)).platformEvent r = e
  split
  · have hd := e.classCount_delivered (c := c) k r (SMap.at' ({} : Storm) (e.errRing k).storms r.code)
    generalize Device.delivered _ k r _ = x at hd ⊢
    obtain ⟨f, o⟩ := x
    cases o with
    | none => exact hd
    | some l =>
      dsimp only
      split
      · exact hd
      · exact (hlost _ f rfl).trans hd
  · rfl

theorem Device.classCount_logFuel_lost (hc : c < 7) (h0 : c ≠ 0) (fuel k : Nat) (r : LogRec) (d : Device) (hr : r.cls = 0) :
    (Device.logFuel fuel k r d).reg (.rasClassCount c) = d.reg (.rasClassCount c) := by
  induction fuel generalizing k r d with
  | zero => rfl
  | succ fuel ih =>
    rw [Device.classCount_logFuel_succ hc fun r d h => ih moduleRing r d h, if_neg (by rw [hr]; exact h0.symm)]

/-- R426: a module record counts once in its class, if that is not the class 0 of the records that may follow it. -/
theorem Device.classCount_logModule (d : Device) (code : Nat) (body : List Word) (die part : Nat) (hc : c < 7) (h0 : c ≠ 0) :
    (d.logModule code c body die part).reg (.rasClassCount c) = d.reg (.rasClassCount c) + 1 :=
  (Device.classCount_logFuel_succ hc (fun r e h => Device.classCount_logFuel_lost hc h0 299 moduleRing r e h) moduleRing
    { code := code, cls := c, body := body, die := die, part := part, time := d.now, chip := d.chip } d).trans (if_pos rfl)

end

/-- R38, R52: a stall sets FABRIC_STALL, and its record counts in class 3. -/
theorem Device.flag_fabricStall (d : Device) (n cls : Nat) : (d.fabricStall n cls).flag .pwrEvent Fd.pwrEventFabricStall = true := by
  rw [Device.fabricStall, Device.flag, Device.fld_logModule _ _ _ _ _ _ _ _ pwrEvent_not_logged]
  exact d.flag_setFld_self .pwrEvent Fd.pwrEventFabricStall true rfl (by decide) (by decide)

theorem fieldOf_all (w : Word) : fieldOf w 63 0 = w.toNat := by
  rw [fieldOf, bitsOf, Nat.shiftRight_zero]
  exact Nat.mod_eq_of_lt w.isLt

theorem Device.classCount_fabricStall (d : Device) (n cls : Nat) :
    (d.fabricStall n cls).fld (.rasClassCount 3) Fd.rasClassCountCount = (d.reg (.rasClassCount 3) + 1).toNat := by
  rw [Device.fabricStall, Device.fld, Device.classCount_logModule _ _ _ _ _ (by decide) (by decide)]
  exact (fieldOf_all _).trans (congrArg (fun w : Word => (w + 1).toNat) (Device.reg_setReg_ne _ _ _ _ (by decide)))

/-! ### O57 -/

/-- Settles O57, row by row: each clause is an equation of the row's operation, and what its result reads. -/
theorem grantsAndHeat : Obligations.GrantsAndHeat := by
  refine ⟨fun s n hm hn => ?_, fun s c hm hc => ?_, fun s hm => ?_⟩
  · intro R st pe pd rail held off lives goes stays
    have hrun := (State.managed_parts hm).1
    have notHeld : ¬ held → s.quiet.dev.holdOn n = false := fun h => Bool.eq_false_iff.2 (mt Device.holdOn_iff.1 h)
    have notOff : ¬ off → s.quiet.dev.holdOff n = false := fun h => Bool.eq_false_iff.2 (mt Device.holdOff_iff.1 h)
    have isHeld : held → s.quiet.dev.holdOn n = true := Device.holdOn_iff.2
    have isOff : off → s.quiet.dev.holdOff n = true := Device.holdOff_iff.2
    refine ⟨fun hst i hi => ?_, fun hup => ⟨fun hsw h0 ho hr => ?_, fun hi h0 => ?_, fun h2 hi => ?_, fun h0 => ?_, fun h2 => ?_,
      fun h1 => ⟨fun ho => ?_, fun ho => ?_, fun hh => ?_⟩, fun h3 => ⟨?_, ?_⟩, fun h4 h7 => ⟨fun ho => ?_, fun hh => ?_⟩,
      fun hc => ⟨fun hi => ?_, fun h3 hh he => ?_, fun hi => ?_⟩⟩, fun h1 hl => ?_, fun h4 hb => ?_, fun h7 hp hr => ?_⟩
    · simp only [List.mem_cons, List.not_mem_nil, or_false] at hi
      rcases hi with rfl | rfl | rfl | rfl
      · exact (exec_domainEnableRequest n s).trans (request_waits _ hrun hst)
      · exact (exec_domainDisableRequest n s).trans (request_waits _ hrun hst)
      · exact (exec_lendEntry n s).trans (request_waits _ hrun hst)
      · exact (exec_lendExit n s).trans (request_waits _ hrun hst)
    · exact request_moves hm hup (exec_domainEnableRequest n s)
        (Device.domMoved_domEnable_waits h0 hsw (notOff ho) ((State.roomFor_quiet s n).trans hr))
    · exact request_idle hm hup (exec_domainEnableRequest n s) (Device.domEnable_off_idle h0 (hi.imp id isOff))
    · exact request_idle hm hup (exec_domainDisableRequest n s) (Device.domDisable_on_idle h2 (hi.imp id (Or.imp id isHeld)))
    · exact request_idle hm hup (exec_domainDisableRequest n s) (Device.domDisable_off (.inl h0))
    · exact request_idle hm hup (exec_domainEnableRequest n s) (Device.domEnable_on (.inl h2))
    · exact request_moves hm hup (exec_domainEnableRequest n s) (Device.domMoved_domEnable_up hn h1 (notOff ho))
    · exact request_idle hm hup (exec_domainEnableRequest n s) (Device.domEnable_up_idle h1 (isOff ho))
    · exact request_idle hm hup (exec_domainDisableRequest n s) (Device.domDisable_up_idle h1 (isHeld hh))
    · exact request_idle hm hup (exec_domainEnableRequest n s) (Device.domEnable_on (.inr h3))
    · exact request_idle hm hup (exec_domainDisableRequest n s) (Device.domDisable_off (.inr h3))
    · exact request_idle hm hup (exec_domainEnableRequest n s) (Device.domEnable_down_idle h4 h7 (isOff ho))
    · exact request_idle hm hup (exec_domainDisableRequest n s) (Device.domDisable_down_idle h4 h7 (isHeld hh))
    · exact request_idle hm hup (exec_lendEntry n s) (Device.lendEntry_idle (hi.imp id (Or.imp id (Or.imp isHeld id))))
    · exact request_moves hm hup (exec_lendExit n s) (Device.domMoved_lendExit hn h3 (.inr (isHeld hh)) he)
    · exact request_idle hm hup (exec_lendExit n s) (Device.lendExit_idle (hi.imp id (And.imp id notHeld)))
    · have h := manage_moves hm (exec_powerUpComplete n s) (Device.domMoved_domUp hn h1)
      have hl' : (if n < 256 then (s.quiet.dev.core n).used else s.quiet.dev.domLive n) = true :=
        (apply_ite (· = true) _ _ _).mpr hl
      rwa [hl', Bool.not_true, Bool.and_false, if_neg Bool.false_ne_true] at h
    · exact (exec_domainDrainComplete n s).trans (manage_idle hrun (Device.domDrained_busy hb))
    · exact manage_moves hm (exec_railDownComplete n s) (Device.domMoved_domDown_waits h7 hp ((State.roomFor_quiet s n).trans hr))
  · have hn : c < 403 := by omega
    have hrun := (State.managed_parts hm).1
    have up : s.dev.stopped (c / 64) = false → s.dev.stopped (domDie c) = false := fun h => domDie_core hc ▸ h
    refine ⟨fun hst h3 hw he => ?_, fun h3 he => ?_, fun h3 he => ?_, fun v h2 hst => ⟨fun hl hv h => ?_, fun h => ?_,
      fun hl hg hv hh hf => ?_, ?_⟩, fun h2 => ⟨?_, fun v => ?_⟩⟩
    · have hq := Device.lendExit_entering (d := s.quiet.dev) h3 (hw.imp id Device.holdOn_iff.2) he
      exact ⟨_, manage_row hm ((exec_lendExit c s).trans (request_runs _ (up hst))) hq rfl, rfl, h3, Device.entering_setEntering _ c 2, rfl, rfl,
        rfl⟩
    · have hq := Device.lendEntered_returns (d := s.quiet.dev) h3 he
      have h := Device.domMoved_lendReturn (d := s.quiet.dev) hn
      exact ⟨_, manage_row hm (exec_lendEntryComplete c s) hq h.flowDone, rfl, h.state, h.rail, Device.lending_lendReturn _ hn,
        Device.grantOf_lendReturn _ c, Device.entering_lendReturn _ c, Device.core_lendReturn _ c, h.cores, h.regs, h.mem⟩
    · have hq := Device.lendEntered_stays (d := s.quiet.dev) h3 he
      exact ⟨_, manage_row hm (exec_lendEntryComplete c s) hq rfl, rfl, h3, Device.entering_setEntering _ c 0, rfl, rfl, rfl⟩
    · have hq := Device.railGrant_given (d := s.quiet.dev) hc h2 hl hv (h.imp id (And.imp id ((State.fits_setGrant_quiet s c v _).trans ·)))
      have same := ((Device.PowerSame.refl s.quiet.dev).setGrant c v).showGrants
      exact ⟨_, manage_row hm ((exec_railGrant c v s).trans (request_runs _ (up hst))) hq same.flowDone, rfl,
        (Device.grantOf_setGrant_show s.quiet.dev c v c).trans (if_pos rfl), fun x hx => (Device.grantOf_setGrant_show s.quiet.dev c v x).trans (if_neg hx),
        Device.sameRegs_setGrant_show s.quiet.dev c v, same.cores, same.mem⟩
    · refine request_idle hm (up hst) (exec_railGrant c v s) ?_
      rcases h with h | h | ⟨hg, h⟩
      · exact Device.railGrant_none hc (.inr (.inl h))
      · exact Device.railGrant_none hc (.inr (.inr h))
      · exact Device.railGrant_refused hc hg (h.imp id (And.imp ((State.fits_setGrant_quiet s c v _).trans ·) id))
    · have hq := Device.railGrant_stepsDown (d := s.quiet.dev) hc h2 hl hg hv hh ((State.fits_setGrant_quiet s c v _).trans hf)
      have same := s.quiet.dev.powerSame_steppedDown c v
      exact ⟨_, manage_row hm ((exec_railGrant c v s).trans (request_runs _ (up hst))) hq same.flowDone, rfl,
        (Device.grantOf_steppedDown s.quiet.dev c v c).trans (if_pos rfl), Device.grantOf_steppedDown_le s.quiet.dev c v,
        fun x hx => Device.grantOf_steppedDown_other s.quiet.dev v hx, Device.sameRegs_steppedDown s.quiet.dev c v, same.cores, same.mem⟩
    · exact manage_row hm (exec_railSlewComplete c s) (if_pos ⟨hc, h2⟩) (Device.setFld_flowDone _ _ _ _)
    · exact (exec_railSlewComplete c s).trans (manage_idle hrun (if_neg fun h => h2 h.2))
    · have hq := Device.railGrant_none (d := s.quiet.dev) (v := v) hc (.inl h2)
      cases hst : s.dev.stopped (domDie c)
      · exact request_idle hm hst (exec_railGrant c v s) hq
      · exact (exec_railGrant c v s).trans (request_waits _ hrun hst)
  · have hrun := (State.managed_parts hm).1
    refine ⟨fun die v hd hl hv hup => ?_, fun n mw => ?_, fun hup => ?_, fun hst => ?_, fun die sensor temp hst => ⟨?_, ?_⟩,
      fun die sensor temp hd hup ht _ => ?_, fun die sensor temp ht => ?_,
      fun die temp hd hup hb => ⟨fun ht => ?_, fun ht => ?_⟩, fun n cls => ?_⟩
    · have hq := s.quiet.dev.railGrant_fabric hd hl hv
      have hup' : s.dev.stopped (domDie (256 + die)) = false := (domDie_fabric hd).symm ▸ hup
      exact ⟨_, manage_row hm ((exec_railGrant (256 + die) v s).trans (request_runs _ hup')) hq rfl, rfl, SMap.get_set_self _ _ _ _, rfl, rfl,
        rfl, rfl⟩
    · have same := s.quiet.dev.powerSame_estimated n mw
      have hest : ∀ m, SMap.at' 0 (s.quiet.dev.estimated n mw).power.estimates m = if m = n then mw else SMap.at' 0 s.dev.power.estimates m :=
        fun m => by rw [Device.estimates_estimated]; exact SMap.get_set _ _ _ _ _
      exact ⟨_, manage_row hm (exec_powerEstimate n mw s) rfl same.flowDone, rfl, (hest n).trans (if_pos rfl),
        fun m h => (hest m).trans (if_neg h), Device.grantOf_estimated_le s.quiet.dev n mw, Device.sameRegs_estimated s.quiet.dev n mw,
        same.cores, same.mem⟩
    · exact manage_row hm ((exec_emergencyHoldEnd s).trans (manage_runs _ hup)) rfl rfl
    · exact (exec_emergencyHoldEnd s).trans (manage_waits _ hrun hst)
    · exact (exec_thermalLimit die sensor temp s).trans (manage_waits _ hrun hst)
    · exact (exec_thermalStep die temp s).trans (manage_waits _ hrun hst)
    · intro h hh
      have same := s.quiet.dev.powerSame_thermalLimit die sensor temp
      exact ⟨_, manage_row hm ((exec_thermalLimit die sensor temp s).trans (manage_runs _ hup)) rfl same.flowDone, rfl,
        Device.throttle_thermalLimit (d := s.quiet.dev) sensor hd ht, Device.flag_thermalLimit (d := s.quiet.dev) sensor hd ht,
        Device.tjMax_thermalLimit (d := s.quiet.dev) sensor hd ht hh, Device.grants_thermalLimit (d := s.quiet.dev) sensor hd ht, same.cores,
        same.mem⟩
    · have hq := Device.thermalLimit_cool (d := s.quiet.dev) die sensor ht
      cases hst : s.dev.stopped die
      · exact ((exec_thermalLimit die sensor temp s).trans (manage_runs _ hst)).trans (manage_idle hrun hq)
      · exact (exec_thermalLimit die sensor temp s).trans (manage_waits _ hrun hst)
    · have same := s.quiet.dev.powerSame_thermalStep die temp
      exact ⟨_, manage_row hm ((exec_thermalStep die temp s).trans (manage_runs _ hup)) rfl same.flowDone, rfl,
        fun c _ => Device.grantOf_thermalStep (d := s.quiet.dev) hd hb ht c, Device.throttle_thermalStep (d := s.quiet.dev) hd hb ht, same.cores,
        same.mem⟩
    · have same := s.quiet.dev.powerSame_junction die temp
      have hq := Device.thermalStep_ends (d := s.quiet.dev) hd hb ht
      exact ⟨_, manage_row hm ((exec_thermalStep die temp s).trans (manage_runs _ hup)) hq same.flowDone, rfl, bitOf_putBit_false _ die,
        s.quiet.dev.grants_junction die temp, s.quiet.dev.sameRegs_junction die temp, same.cores, same.mem⟩
    · have same : s.quiet.dev.PowerSame (s.quiet.dev.fabricStall n cls) := ((Device.PowerSame.refl _).setFld _ _ _).logModule _ _ _ _ _
      exact ⟨_, manage_row hm (exec_fabricStall n cls s) rfl same.flowDone, rfl, Device.flag_fabricStall _ n cls,
        Device.classCount_fabricStall s.quiet.dev n cls, by simp [Device.fabricStall, State.quiet], same.cores, same.mem⟩

end Sys2Proof.Machine
end

section
/-! PROOF. Device reset, loss of a supply, and reads of the rail groups. -/

namespace Sys2Proof.Machine

/-! ### What a device reset leaves -/

theorem Device.LogSame.foldl {β : Type} {f : Device → β → Device} (hf : ∀ (a : Device) (b : β), a.LogSame (f a b)) (l : List β) (d : Device) :
    d.LogSame (l.foldl f d) := by
  induction l generalizing d with
  | nil => exact .refl d
  | cons b l ih => exact (hf d b).trans (ih _)

theorem Device.logSame_logDiscarded (d : Device) (held : List HeldSignal) (p action idx : Nat) :
    d.LogSame (d.logDiscarded held p action idx) := .foldl (fun a _ => a.logSame_log _ _) _ d

/-- The records of a device reset change what logging changes. -/
theorem Device.logSame_logReset (n d : Device) : n.LogSame (n.logReset d) := by
  have hheld : n.LogSame (((d.heldSignals.map (·.part)).eraseDups).foldl (fun (n : Device) p =>
      n.logDiscarded (d.heldSignals.filter fun h => h.part == p) p 5 0xFFFFFFFF) n) :=
    .foldl (fun a _ => a.logSame_logDiscarded _ _ _ _) _ n
  unfold Device.logReset
  dsimp only
  split
  · exact (hheld.trans (Device.logSame_logModule _ _ _ _ _ _)).trans (Device.logSame_log _ _ _)
  · exact hheld.trans (Device.logSame_log _ _ _)

/-- A device that holds what outlasts a device reset, and no register. -/
def Device.blank (d : Device) : Device :=
  { flash := d.flash.interrupted, pins := d.pins, hist := d.hist, events := d.events, hostMem := d.hostMem, far := d.far
    farSide := d.farSide, saves := d.saves, out := d.out, free := d.free
    boot := { cold := false, pushFirst := d.flag .bootCtrl Fd.bootCtrlNextPush || d.flag .mgtStageCtrl Fd.mgtStageCtrlValid } }

/-- The registers that a device reset writes. -/
def clearRegs : List Reg := [.bootCtrl, .mgtStageList, .mgtStageCtrl, .mgtStatus, .rasStatus, .secNonce 0, .secNonce 1, .secNonce 2, .secNonce 3]

theorem Device.newNonce_keeps {α : Type} (g : Device → α) (hr : ∀ d r w, r ∈ clearRegs → g (Device.setReg d r w) = g d)
    (hf : ∀ (d : Device) n, g { d with free := n } = g d) (d : Device) : g d.newNonce = g d := by
  have step : ∀ (d : Device) q, q < 4 → g (d.freeValue.2.setReg (.secNonce q) d.freeValue.1) = g d := fun d q hq => by
    rw [hr _ _ _ (by interval_cases q <;> simp [clearRegs])]
    exact hf d _
  have h0 := step d 0 (by decide)
  simp only [Device.newNonce, show List.range 4 = [0, 1, 2, 3] from rfl, List.foldl_cons, List.foldl_nil]
  rw [step _ 3 (by decide), step _ 2 (by decide), step _ 1 (by decide), step _ 0 (by decide)]

/-- What a device reset leaves of a device is what it leaves of a blank one, but for the registers it writes and what logging changes. -/
theorem Device.cleared_keeps {α : Type} (g : Device → α) (hr : ∀ d r w, r ∈ clearRegs → g (Device.setReg d r w) = g d)
    (hl : ∀ {d e : Device}, d.LogSame e → g e = g d) (hn : ∀ (d : Device) n, g { d with now := n } = g d)
    (hf : ∀ (d : Device) n, g { d with free := n } = g d) (d : Device) : g d.cleared = g d.blank := by
  unfold Device.cleared
  rw [Device.newNonce_keeps g hr hf, Device.countWaiting, Device.setFld, hr _ _ _ (by simp [clearRegs]), hn, hl (Device.logSame_logReset _ _), hn]
  simp only [Device.setFld, Device.keepReg]
  rw [hr _ _ _ (by simp [clearRegs]), hr _ _ _ (by simp [clearRegs]), hr _ _ _ (by simp [clearRegs]), hr _ _ _ (by simp [clearRegs]),
    hr _ _ _ (by simp [clearRegs])]
  rfl

@[simp] theorem Device.cleared_pins (d : Device) : d.cleared.pins = d.pins :=
  d.cleared_keeps Device.pins (fun _ _ _ _ => by simp) (·.pins) (fun _ _ => rfl) (fun _ _ => rfl)
@[simp] theorem Device.cleared_flash (d : Device) : d.cleared.flash = d.flash.interrupted :=
  d.cleared_keeps Device.flash (fun _ _ _ _ => by simp) (·.flash) (fun _ _ => rfl) (fun _ _ => rfl)
@[simp] theorem Device.cleared_mem (d : Device) : d.cleared.mem = [] :=
  d.cleared_keeps Device.mem (fun _ _ _ _ => by simp) (·.mem) (fun _ _ => rfl) (fun _ _ => rfl)
@[simp] theorem Device.cleared_queues (d : Device) : d.cleared.queues = [] :=
  d.cleared_keeps Device.queues (fun _ _ _ _ => by simp) (·.queues) (fun _ _ => rfl) (fun _ _ => rfl)
@[simp] theorem Device.cleared_flowDone (d : Device) : d.cleared.flowDone = [] :=
  d.cleared_keeps Device.flowDone (fun _ _ _ _ => by simp) (·.flowDone) (fun _ _ => rfl) (fun _ _ => rfl)

theorem clearRegs_ne_bootStatus : ∀ r ∈ clearRegs, Reg.bootStatus.offset ≠ r.offset := by decide

/-- After a device reset bring-up has not reached READY. -/
theorem Device.cleared_ready (d : Device) : d.cleared.ready = false := by
  have h : d.cleared.fld .bootStatus Fd.bootStatusState = d.blank.fld .bootStatus Fd.bootStatusState :=
    d.cleared_keeps (·.fld .bootStatus Fd.bootStatusState) (fun d r w hr => d.fld_setReg_ne _ _ _ _ (clearRegs_ne_bootStatus r hr))
      (fun h => by simp only [Device.fld, h.regs _ bootStatus_not_logged]) (fun _ _ => rfl) (fun _ _ => rfl)
  have h0 : d.blank.fld .bootStatus Fd.bootStatusState = 0 := by
    change fieldOf Reg.bootStatus.resetValue Fd.bootStatusState.hi Fd.bootStatusState.lo = 0
    decide
  rw [Device.ready, h, h0]
  rfl

/-- R454, R457: a device that a lost rail or heat holds in reset does not start bring-up. -/
theorem Device.deviceReset_held {d : Device} (h : d.awake = false ∨ d.pins.thermHold = true) : d.deviceReset = d.cleared := by
  refine if_neg fun hs => ?_
  have ha : d.cleared.awake = d.awake := Device.awake_congr d.cleared_pins
  rw [ha, Device.cleared_pins] at hs
  rcases h with h | h <;> simp [h] at hs

/-! ### Loss of a supply -/

theorem Device.domainsOff_keeps {α : Type} (g : Device → α) (hc : ∀ d c k, g (Device.setCore d c k) = g d)
    (hg : ∀ d c v, g (Device.setGrant d c v) = g d) (hr : ∀ d r f v, g (Device.setFld d r f v) = g d) (d : Device) : g d.domainsOff = g d := by
  unfold Device.domainsOff Device.showGrants
  rw [hr, hr, Device.foldl_frame g]
  intro d n
  split
  · unfold Device.setRail Device.setDom
    rw [hr, hr]
    split
    · rw [hg, hc]
    · rfl
  · rfl

theorem Device.domainsOff_pins (d : Device) : d.domainsOff.pins = d.pins :=
  d.domainsOff_keeps Device.pins (fun _ _ _ => rfl) (fun _ _ _ => rfl) (fun _ _ _ _ => by simp)
theorem Device.domainsOff_flash (d : Device) : d.domainsOff.flash = d.flash :=
  d.domainsOff_keeps Device.flash (fun _ _ _ => rfl) (fun _ _ _ => rfl) (fun _ _ _ _ => by simp)

/-- R454, R455: e is a device that the loss of a supply has put into reset, with the flash of d as the reset leaves it. -/
structure Device.Lost (d e : Device) : Prop where
  awake : e.awake = false
  hold : e.pins.railHold = true
  mem : e.mem = []
  queues : e.queues = []
  flash : e.flash = d.flash.interrupted
  flowDone : e.flowDone = []

/-- R454: the module is held in reset until PERST# is asserted and released. -/
def Device.railHeld (d : Device) : Device := { d with pins := { d.pins with railHold := true } }

theorem Device.supplyLost_eq (d : Device) (code : Nat) (detail : Word) :
    d.supplyLost code detail = (d.logModule code 6 [detail, 0, 0, 0]).domainsOff.railHeld.deviceReset := rfl

theorem Device.awake_railHeld (d : Device) : d.railHeld.awake = false := by simp [Device.awake, Device.railHeld]

theorem Device.lost_supplyLost {d e : Device} (h : e.flash = d.flash) (code : Nat) (detail : Word) : d.Lost (e.supplyLost code detail) := by
  have hflash : ∀ a : Device, a.railHeld.flash = a.flash := fun _ => rfl
  have hpins : ∀ a : Device, a.railHeld.pins.railHold = true := fun _ => rfl
  rw [Device.supplyLost_eq, Device.deviceReset_held (.inl (Device.awake_railHeld _))]
  refine ⟨(Device.awake_congr (Device.cleared_pins _)).trans (Device.awake_railHeld _), ?_, Device.cleared_mem _, Device.cleared_queues _, ?_,
    Device.cleared_flowDone _⟩
  · rw [Device.cleared_pins, hpins]
  · rw [Device.cleared_flash, hflash, Device.domainsOff_flash, Device.logModule_flash, h]

/-! ### Reads of the rail groups -/

/-- What a pass of writes over a list of keys leaves at a key, where the value written does not depend on the map. -/
theorem SMap.at_foldl_set (v : SMap Nat → Nat → Nat) (n : Nat → Nat) {l : List Nat} (hl : l.Nodup) (hv : ∀ m, ∀ k ∈ l, v m k = n k) (m : SMap Nat)
    (k : Nat) : SMap.at' 0 (l.foldl (fun m j => SMap.set (fun _ => 0) m j (v m j)) m) k = if k ∈ l then n k else SMap.at' 0 m k := by
  induction l generalizing m with
  | nil => rfl
  | cons j l ih =>
    obtain ⟨hj, hl⟩ := List.nodup_cons.1 hl
    have hset : SMap.at' 0 (SMap.set (fun _ => 0) m j (v m j)) k = if k = j then v m j else SMap.at' 0 m k := SMap.get_set _ _ _ _ _
    rw [List.foldl_cons, ih hl fun m k hk => hv m k (List.mem_cons_of_mem _ hk), hset]
    by_cases hk : k = j
    · simp [hk, hj, hv m j List.mem_cons_self]
    · simp [hk]

/-- R454: the failed reads in succession of every rail group, after one read. -/
def missedAfter (missed : SMap Nat) (answered : Nat → Bool) : SMap Nat :=
  (List.range 15).foldl (fun m g => SMap.set (fun _ => 0) m g (if answered g then 0 else SMap.at' 0 missed g + 1)) missed

theorem at_missedAfter (missed : SMap Nat) (answered : Nat → Bool) {g : Nat} (hg : g < 15) :
    SMap.at' 0 (missedAfter missed answered) g = if answered g then 0 else SMap.at' 0 missed g + 1 := by
  unfold missedAfter
  rw [SMap.at_foldl_set (fun _ g => if answered g then 0 else SMap.at' 0 missed g + 1)
    (fun g => if answered g then 0 else SMap.at' 0 missed g + 1) List.nodup_range fun _ _ _ => rfl]
  exact if_pos (List.mem_range.2 hg)

/-- R454: the device once the rail groups have been read. -/
def Device.countMissed (d : Device) (answered : Nat → Bool) : Device :=
  { d with power := { d.power with missed := missedAfter d.power.missed answered } }

theorem Device.missed_countMissed (d : Device) (answered : Nat → Bool) {g : Nat} (hg : g < 15) :
    SMap.at' 0 (d.countMissed answered).power.missed g = if answered g then 0 else SMap.at' 0 d.power.missed g + 1 := by
  rw [← at_missedAfter d.power.missed answered hg, Device.countMissed]

/-- R454: the first group that has failed three reads in succession is lost. -/
theorem Device.railReads_eq (d : Device) (answered : Nat → Bool) : d.railReads answered =
    ((List.range 15).find? fun g => decide (3 ≤ SMap.at' 0 (d.countMissed answered).power.missed g)).elim (d.countMissed answered)
      fun g => (d.countMissed answered).supplyLost 0x1401 (wordOf g) := by
  unfold Device.railReads Device.countMissed missedAfter
  dsimp only
  generalize List.find? _ (List.range 15) = found
  cases found with
  | none => rfl
  | some g => simp only [Option.elim_some]

/-- R454: where every group answers, nothing is lost. -/
theorem Device.railReads_answered (d : Device) {answered : Nat → Bool} (h : ∀ g, g < 15 → answered g = true) :
    d.railReads answered = d.countMissed answered := by
  rw [Device.railReads_eq, List.find?_eq_none.2]
  · rfl
  · intro g hg
    have hg' := List.mem_range.1 hg
    simp [d.missed_countMissed answered hg', h g hg']

/-- R454: a third failed read in succession of a group ends in the loss of a supply. -/
theorem Device.lost_railReads {d e : Device} {answered : Nat → Bool} {g : Nat} (hg : g < 15) (ha : answered g = false)
    (hm : 2 ≤ SMap.at' 0 e.power.missed g) (h : e.flash = d.flash) : d.Lost (e.railReads answered) := by
  have hs : ((List.range 15).find? fun g => decide (3 ≤ SMap.at' 0 (e.countMissed answered).power.missed g)).isSome = true := by
    refine List.find?_isSome.2 ⟨g, List.mem_range.2 hg, decide_eq_true ?_⟩
    have hg' := e.missed_countMissed answered hg
    rw [ha, if_neg Bool.false_ne_true] at hg'
    rw [hg']
    omega
  obtain ⟨k, hk⟩ := Option.isSome_iff_exists.1 hs
  rw [Device.railReads_eq, hk, Option.elim_some]
  exact Device.lost_supplyLost (e := e.countMissed answered) h _ _

end Sys2Proof.Machine
end

section
/-! PROOF. A write of POLICY. -/

namespace Sys2Proof.Machine

theorem domCtrl_offset_ne (n : Nat) (hn : n < 403) : (Reg.pwrDomCtrl n).offset ∉ [Reg.pwrDomStatus n, .pwrMeasure].map Reg.offset := by
  simp only [List.map_cons, List.map_nil, List.mem_cons, List.not_mem_nil, or_false, Reg.offset]
  omega

theorem domCtrl_not_logged (n : Nat) (hn : n < 403) : (Reg.pwrDomCtrl n).offset ∉ logRegs.map Reg.offset :=
  logRegs_apart _ (by simp only [Reg.offset]; omega) (fun k hk => by simp only [Reg.offset]; omega) fun k hk => by
    simp only [Reg.offset]; omega

/-- e is d but for the status of domain n, PWR_MEASURE, and the data of the power manager. -/
structure Device.DomTouched (d e : Device) (n : Nat) : Prop where
  same : d.PowerSame e
  regs : d.sameRegs e [.pwrDomStatus n, .pwrMeasure]

namespace Device.DomTouched

variable {d e : Device} {n : Nat}

theorem refl (d : Device) (n : Nat) : d.DomTouched d n := ⟨.refl d, fun _ _ => rfl⟩

theorem setFld (h : d.DomTouched e n) (f : RegField) (v : Nat) : d.DomTouched (e.setFld (.pwrDomStatus n) f v) n :=
  ⟨h.same.setFld _ _ _, h.regs.trans (e.sameRegs_setFld _ _ _ (by simp))⟩

theorem power (h : d.DomTouched e n) (p : Power) : d.DomTouched { e with power := p } n :=
  ⟨h.same.power p, h.regs.trans (Device.sameRegs_of_regs _ rfl)⟩

theorem setGrant (h : d.DomTouched e n) (c v : Nat) : d.DomTouched (e.setGrant c v) n := h.power _

theorem showGrants (h : d.DomTouched e n) : d.DomTouched e.showGrants n :=
  ⟨h.same.showGrants, h.regs.trans (e.sameRegs_showGrants (by simp))⟩

theorem ite {p : Prop} [Decidable p] {a b : Device} (ha : d.DomTouched a n) (hb : d.DomTouched b n) : d.DomTouched (if p then a else b) n := by
  split
  · exact ha
  · exact hb

theorem railOn (d : Device) (n : Nat) : d.DomTouched (d.railOn n) n :=
  have h : d.DomTouched ((d.setDom n 1).setRail n 60) n := ((refl d n).setFld _ _).setFld _ _
  .showGrants (.ite (h.setGrant n 60) h)

theorem domPowerOn (d : Device) (n : Nat) : d.DomTouched (d.domPowerOn n) n :=
  .ite (railOn d n) (.showGrants ((refl d n).power _))

/-- R42: an enable request changes the status of its domain. -/
theorem domEnable (h : d.domState n ≠ 8) : d.DomTouched (d.domEnable n) n := by
  have down : d.DomTouched (if d.holdOff n then d else d.setFld (.pwrDomStatus n) Fd.pwrDomStatusPendingEnable 1) n :=
    .ite (refl d n) ((refl d n).setFld _ _)
  unfold Device.domEnable
  split
  · contradiction
  · exact .ite (domPowerOn d n) (refl d n)
  · exact .ite (refl d n) ((refl d n).setFld _ _)
  · exact down
  · exact down
  · exact down
  · exact down
  · exact refl d n

/-- R42: a disable request changes the status of its domain. -/
theorem domDisable (h : d.domState n ≠ 8) : d.DomTouched (d.domDisable n) n := by
  have down : d.DomTouched (if d.holdOn n then d else d.setFld (.pwrDomStatus n) Fd.pwrDomStatusPendingEnable 0) n :=
    .ite (refl d n) ((refl d n).setFld _ _)
  unfold Device.domDisable
  split
  · contradiction
  · exact .ite (refl d n) ((refl d n).setFld _ _)
  · exact .ite ((refl d n).setFld _ _).showGrants (refl d n)
  · exact down
  · exact down
  · exact down
  · exact down
  · exact refl d n

end Device.DomTouched

theorem fieldOf_policy_lt (w : Word) : fieldOf w 1 0 < 4 := Nat.mod_lt _ (by decide)

/-- R44: the POLICY that a write puts in force; 3 is taken as 0. -/
def policyTaken (v : Nat) : Nat := if v = 3 then 0 else v

/-- R44: the device with a POLICY in force, before firmware's request. -/
def Device.policySet (d : Device) (n v : Nat) : Device := d.setFld (.pwrDomCtrl n) Fd.pwrDomCtrlPolicy (policyTaken v)

section
variable {d : Device} {n v : Nat}

theorem Device.policyWrite_eq (hn : n < 403) (hv : v < 4) : d.policyWrite n v =
    if d.domState n = 8 ∨ (v = 2 ∧ d.flag (.pwrDomStatus n) Fd.pwrDomStatusAssigned) then d.rejectDom n (policyTaken v)
    else if (d.policySet n v).stopped (domDie n) then d.policySet n v
    else if v = 1 then (d.policySet n v).domEnable n
    else if v = 2 then (d.policySet n v).domDisable n
    else d.policySet n v := by
  have h1 : policyTaken v = 1 ↔ v = 1 := by unfold policyTaken; split <;> omega
  have h2 : policyTaken v = 2 ↔ v = 2 := by unfold policyTaken; split <;> omega
  rw [Device.policyWrite, if_pos hn, Nat.mod_eq_of_lt hv]
  change (if d.domState n = 8 ∨ (policyTaken v = 2 ∧ _) then d.rejectDom n (policyTaken v) else
    if (d.policySet n v).stopped (domDie n) then d.policySet n v
    else if policyTaken v = 1 then (d.policySet n v).domEnable n
    else if policyTaken v = 2 then (d.policySet n v).domDisable n
    else d.policySet n v) = _
  simp only [h1, h2]

theorem Device.policyWrite_rejects (hn : n < 403) (hv : v < 4)
    (h : d.domState n = 8 ∨ (v = 2 ∧ d.flag (.pwrDomStatus n) Fd.pwrDomStatusAssigned = true)) :
    d.policyWrite n v = d.rejectDom n (policyTaken v) := by rw [Device.policyWrite_eq hn hv, if_pos h]

theorem Device.domState_policySet : (d.policySet n v).domState n = d.domState n :=
  Device.domState_setFld_ne _ _ _ _ (by simp only [Reg.offset]; omega)

/-- R44: a POLICY that is applied is followed by firmware's request, at most. -/
theorem Device.domTouched_policyWrite (hn : n < 403) (hv : v < 4) (h8 : d.domState n ≠ 8)
    (h : v ≠ 2 ∨ d.flag (.pwrDomStatus n) Fd.pwrDomStatusAssigned = false) : (d.policySet n v).DomTouched (d.policyWrite n v) n := by
  have h8' : (d.policySet n v).domState n ≠ 8 := by rwa [Device.domState_policySet]
  rw [Device.policyWrite_eq hn hv, if_neg (by rcases h with h | h <;> simp [h8, h])]
  exact .ite (.refl _ n) (.ite (.domEnable h8') (.ite (.domDisable h8') (.refl _ n)))

/-- R44: firmware requests nothing of a domain whose POLICY leaves it free. -/
theorem Device.policyWrite_free (hn : n < 403) (hv : v < 4) (h8 : d.domState n ≠ 8) (h : v = 0 ∨ v = 3) :
    d.policyWrite n v = d.policySet n v := by
  rw [Device.policyWrite_eq hn hv, if_neg (by omega), if_neg (by omega : ¬v = 1), if_neg (by omega : ¬v = 2), ite_self]

theorem Device.policy_policyWrite (hn : n < 403) (hv : v < 4) (h8 : d.domState n ≠ 8)
    (h : v ≠ 2 ∨ d.flag (.pwrDomStatus n) Fd.pwrDomStatusAssigned = false) :
    (d.policyWrite n v).fld (.pwrDomCtrl n) Fd.pwrDomCtrlPolicy = policyTaken v := by
  have hr : (d.policyWrite n v).reg (.pwrDomCtrl n) = (d.policySet n v).reg (.pwrDomCtrl n) :=
    (Device.domTouched_policyWrite hn hv h8 h).regs _ (domCtrl_offset_ne n hn)
  have ht : policyTaken v < 4 := by unfold policyTaken; split <;> omega
  rw [Device.fld, hr]
  exact (Device.fld_setFld_self _ _ _ _ (by simpa [Reg.inRange] using hn) (by decide) (by decide)).trans (Nat.mod_eq_of_lt ht)

end

theorem exec_pwrDomCtrlWrite (n : Nat) (w : Word) (s : State) :
    exec (.pwrDomCtrlWrite n w) s = run (·.policyWrite n (fieldOf w 1 0)) s := rfl

/-- A row of the module in service whose operation gives e. -/
theorem run_row {s : State} {i : Instr} {f : Device → Device} {e : Device} (hs : s.inService = true) (hi : exec i s = run f s)
    (hf : f s.quiet.dev = e) (hd : e.flowDone = s.dev.flowDone) : exec i s = .next { s with dev := e } := by
  subst hf
  exact hi.trans (run_keeps hs hd)

end Sys2Proof.Machine
end

section
/-! PROOF. Measurements of the rail groups, and the emergency drop. -/

namespace Sys2Proof.Machine

/-! ### Measurements -/

/-- R50: the readings of READ_POUT that are kept. -/
def poutAfter (pout : SMap Nat) (powers : List (Option Nat)) : SMap Nat :=
  (List.range 15).foldl (fun m g => SMap.set (fun _ => 0) m g ((powers.getD g none).getD (SMap.at' 0 m g))) pout

theorem at_poutAfter (pout : SMap Nat) {powers : List (Option Nat)} (h : ∀ g, g < 15 → (powers.getD g none).isSome = true) {g : Nat}
    (hg : g < 15) : SMap.at' 0 (poutAfter pout powers) g = (powers.getD g none).getD 0 := by
  have hv : ∀ m : SMap Nat, ∀ k ∈ List.range 15, (powers.getD k none).getD (SMap.at' 0 m k) = (powers.getD k none).getD 0 := fun m k hk => by
    obtain ⟨p, hp⟩ := Option.isSome_iff_exists.1 (h k (List.mem_range.1 hk))
    rw [hp, Option.getD_some, Option.getD_some]
  unfold poutAfter
  rw [SMap.at_foldl_set (fun m g => (powers.getD g none).getD (SMap.at' 0 m g)) (fun g => (powers.getD g none).getD 0) List.nodup_range hv]
  exact if_pos (List.mem_range.2 hg)

/-- R51: a grant that falls by one setting, where it does. -/
def lowered (above : Bool) (v : Nat) : Nat := if above then max 60 (v - 1) else v

/-- R50: the cores of the dies of a list whose rail reads above 700 W fall by one setting. -/
def Device.diesOver (d : Device) (dies : List Nat) : Device :=
  dies.foldl (fun (d : Device) die =>
    if 700 < SMap.at' 0 d.power.pout die then d.mapGrants (dieCores die) fun v => max 60 (v - 1) else d) d

/-- The device with the readings of READ_POUT kept. -/
def Device.keepPout (d : Device) (powers : List (Option Nat)) : Device :=
  { d with power := { d.power with pout := poutAfter d.power.pout powers } }

theorem Device.regs_keepPout (d : Device) (powers : List (Option Nat)) : (d.keepPout powers).regs = d.regs := by rw [Device.keepPout]
theorem Device.missed_keepPout (d : Device) (powers : List (Option Nat)) : (d.keepPout powers).power.missed = d.power.missed := by
  rw [Device.keepPout]
theorem Device.grants_keepPout (d : Device) (powers : List (Option Nat)) : (d.keepPout powers).power.grants = d.power.grants := by
  rw [Device.keepPout]
theorem Device.pout_keepPout (d : Device) (powers : List (Option Nat)) : (d.keepPout powers).power.pout = poutAfter d.power.pout powers := by
  rw [Device.keepPout]

theorem Device.railOver_eq (d : Device) (powers : List (Option Nat)) :
    d.railOver powers = ((d.keepPout powers).diesOver (List.range 4)).showGrants := rfl

theorem Device.diesOver_keeps {α : Type} (g : Device → α) (hg : ∀ d c v, g (Device.setGrant d c v) = g d) (d : Device) (dies : List Nat) :
    g (d.diesOver dies) = g d := by
  refine Device.foldl_frame g _ (fun d die => ?_) dies d
  split
  · exact Device.mapGrants_keeps g hg _ _ _
  · rfl

theorem Device.powerSame_railOver (d : Device) (powers : List (Option Nat)) : d.PowerSame (d.railOver powers) := by
  have h : d.PowerSame (d.keepPout powers) := (Device.PowerSame.refl d).power _
  rw [Device.railOver_eq]
  exact (h.trans (.foldl (fun a die => .ite (a.powerSame_mapGrants _ _) (.refl a)) _ _)).showGrants

theorem Device.sameRegs_railOver (d : Device) (powers : List (Option Nat)) : d.sameRegs (d.railOver powers) [.pwrMeasure] := by
  have h : ((d.keepPout powers).diesOver (List.range 4)).regs = d.regs := by
    rw [Device.diesOver_keeps Device.regs (fun _ _ _ => rfl), Device.regs_keepPout]
  rw [Device.railOver_eq]
  exact (Device.sameRegs_of_regs _ h).trans (Device.sameRegs_showGrants _ (by simp))

/-- What an operation that changes PWR_MEASURE alone of the registers leaves of the domains' states and of the module budget. -/
theorem Device.domState_of_measure {d e : Device} (h : d.sameRegs e [.pwrMeasure]) (x : Nat) : e.domState x = d.domState x := by
  simp only [Device.domState, Device.fld, h (.pwrDomStatus x) (by simpa using (domStatus_offset_ne x).1)]

theorem Device.moduleBudget_of_measure {d e : Device} (h : d.sameRegs e [.pwrMeasure]) : e.moduleBudget = d.moduleBudget := by
  simp only [Device.moduleBudget, Device.fld, h .pwrBudget (by decide)]

theorem Device.pout_railOver (d : Device) (powers : List (Option Nat)) :
    (d.railOver powers).power.pout = poutAfter d.power.pout powers := by
  rw [← Device.pout_keepPout d powers, Device.railOver_eq, Device.power_showGrants]
  exact Device.diesOver_keeps (·.power.pout) (fun _ _ _ => rfl) (d.keepPout powers) _

theorem Device.missed_railOver (d : Device) (powers : List (Option Nat)) : (d.railOver powers).power.missed = d.power.missed := by
  rw [← Device.missed_keepPout d powers, Device.railOver_eq, Device.power_showGrants]
  exact Device.diesOver_keeps (·.power.missed) (fun _ _ _ => rfl) (d.keepPout powers) _

/-- R50: the ON cores of a die whose rail reads above 700 W fall by one setting. -/
theorem Device.grantOf_diesOver (d : Device) {dies : List Nat} (hd : dies.Nodup) (x : Nat) : (d.diesOver dies).grantOf x =
    if x / 64 ∈ dies ∧ (decide (700 < SMap.at' 0 d.power.pout (x / 64)) && d.domState x == 2) = true then max 60 (d.grantOf x - 1)
    else d.grantOf x := by
  refine Device.grantOf_foldl (key := (· / 64)) (f := fun v => max 60 (v - 1))
    (p := fun e x => decide (700 < SMap.at' 0 e.power.pout (x / 64)) && e.domState x == 2) (fun e die x => ?_) (fun e die x => ?_) dies hd d x
  · split
    · have hp : (e.mapGrants (dieCores die) fun v => max 60 (v - 1)).power.pout = e.power.pout :=
        Device.mapGrants_keeps (·.power.pout) (fun _ _ _ => rfl) _ _ _
      rw [hp, Device.domState_mapGrants]
    · rfl
  · by_cases hx : x / 64 = die
    · subst hx
      by_cases ho : 700 < SMap.at' 0 e.power.pout (x / 64) <;> simp [ho, Device.grantOf_mapGrants _ (nodup_dieCores _), mem_dieCores]
    · split
      · rw [Device.grantOf_mapGrants _ (nodup_dieCores die), if_neg fun h => hx (mem_dieCores.1 h.1), if_neg fun h => hx h.1]
      · rw [if_neg fun h => hx h.1]

theorem Device.grantOf_railOver (d : Device) {powers : List (Option Nat)} (h : ∀ g, g < 15 → (powers.getD g none).isSome = true) {x : Nat}
    (hx : x < 256) : (d.railOver powers).grantOf x =
      if d.domState x = 2 then lowered (decide (700 < (powers.getD (x / 64) none).getD 0)) (d.grantOf x) else d.grantOf x := by
  have hs : (d.keepPout powers).domState x = d.domState x := Device.domState_congr (d.regs_keepPout powers) x
  have hg : (d.keepPout powers).grantOf x = d.grantOf x := Device.grantOf_congr (d.grants_keepPout powers) x
  have hp : SMap.at' 0 (d.keepPout powers).power.pout (x / 64) = (powers.getD (x / 64) none).getD 0 := by
    rw [Device.pout_keepPout, at_poutAfter _ h (by omega)]
  rw [Device.railOver_eq, Device.grantOf_showGrants, Device.grantOf_diesOver _ List.nodup_range, hs, hg, hp, lowered]
  have hm : x / 64 ∈ List.range 4 := List.mem_range.2 (by omega)
  by_cases h2 : d.domState x = 2 <;> simp [hm, h2]

/-! ### The emergency drop -/

/-- R51: the device with raises withheld. -/
def Device.raisesOff (d : Device) : Device := { d with power := { d.power with hold := true } }

@[simp] theorem Device.grantOf_raisesOff (d : Device) (x : Nat) : d.raisesOff.grantOf x = d.grantOf x := rfl

section
variable (d : Device) (measured source : Nat)

/-- R51: the device with every core rail at 0.60 V, and raises withheld. -/
def Device.dropped : Device := (d.mapRails (List.range 256) fun _ => 60).raisesOff

theorem Device.emergencyDrop_eq : d.emergencyDrop measured source =
    (d.dropped.setFld .pwrEvent Fd.pwrEventEmergency 1).logModule 0x0302 0 [wordOf measured, wordOf source] := rfl

theorem Device.power_emergencyDrop : (d.emergencyDrop measured source).power = d.dropped.power := by
  rw [Device.emergencyDrop_eq, Device.logModule_power, Device.setFld_power]

theorem Device.hold_emergencyDrop : (d.emergencyDrop measured source).power.hold = true := by rw [Device.power_emergencyDrop]; rfl

theorem Device.grantOf_emergencyDrop {x : Nat} (hx : x < 256) :
    (d.emergencyDrop measured source).grantOf x = if drawsByGrant (d.domState x) = true then 60 else d.grantOf x := by
  rw [Device.grantOf_congr (congrArg Power.grants (d.power_emergencyDrop measured source)), Device.dropped, Device.grantOf_raisesOff,
    Device.grantOf_mapRails _ List.nodup_range]
  simp [hx]

theorem Device.emergency_emergencyDrop : (d.emergencyDrop measured source).flag .pwrEvent Fd.pwrEventEmergency = true := by
  rw [Device.emergencyDrop_eq, Device.flag, Device.fld_logModule _ _ _ _ _ _ _ _ pwrEvent_not_logged]
  exact Device.flag_setFld_self _ .pwrEvent Fd.pwrEventEmergency true rfl (by decide) (by decide)

/-- What the emergency drop leaves alone. -/
theorem Device.emergencyDrop_keeps {α : Type} (g : Device → α) (hg : ∀ d c v, g (Device.setGrant d c v) = g d)
    (hr : ∀ d c v, g (Device.setRail d c v) = g d) (hs : ∀ d, g (Device.showGrants d) = g d)
    (hh : ∀ d, g (Device.raisesOff d) = g d)
    (hf : ∀ d : Device, g (d.setFld .pwrEvent Fd.pwrEventEmergency 1) = g d) (hl : ∀ {d e : Device}, d.LogSame e → g e = g d) :
    g (d.emergencyDrop measured source) = g d := by
  rw [Device.emergencyDrop_eq, hl (Device.logSame_logModule _ _ _ _ _ _), hf, Device.dropped, hh]
  exact Device.mapRails_keeps g hg hr hs _ _ _

theorem Device.missed_emergencyDrop : (d.emergencyDrop measured source).power.missed = d.power.missed :=
  d.emergencyDrop_keeps measured source (·.power.missed) (fun _ _ _ => rfl) (fun d c v => congrArg Power.missed (d.power_setRail c v))
    (fun d => congrArg Power.missed d.power_showGrants) (fun _ => rfl) (fun d => congrArg Power.missed (d.setFld_power _ _ _))
    (fun h => congrArg Power.missed h.power)

theorem Device.pout_emergencyDrop : (d.emergencyDrop measured source).power.pout = d.power.pout :=
  d.emergencyDrop_keeps measured source (·.power.pout) (fun _ _ _ => rfl) (fun d c v => congrArg Power.pout (d.power_setRail c v))
    (fun d => congrArg Power.pout d.power_showGrants) (fun _ => rfl) (fun d => congrArg Power.pout (d.setFld_power _ _ _))
    (fun h => congrArg Power.pout h.power)

end

end Sys2Proof.Machine
end

section
/-! PROOF. The check of the measured draw against the module budget. -/

namespace Sys2Proof.Machine

/-! ### The budget check -/

section
variable (d : Device) (w : Nat)

/-- The device with the mean draw measured. -/
def Device.measuredW : Device := d.setFld .pwrMeasure Fd.pwrMeasureModuleW w

/-- R51: the device once a mean draw above the budget has lowered the grants of its ON cores. -/
def Device.overBudget : Device :=
  ((d.mapGrants (List.range 256) fun v => max 60 (v - 1)).showGrants.setFld .pwrEvent Fd.pwrEventBudgetExceed 1).logModule 0x0301 0
    [wordOf d.moduleBudget, wordOf w, d.now]

theorem Device.sameRegs_measuredW : d.sameRegs (d.measuredW w) [.pwrMeasure] := d.sameRegs_setFld _ _ _ (by simp)

theorem Device.grantOf_measuredW (x : Nat) : (d.measuredW w).grantOf x = d.grantOf x :=
  Device.grantOf_congr (congrArg Power.grants (d.setFld_power _ _ _)) x

/-- R51: the device once its grants have been lowered, where the mean draw lies above the budget. -/
def Device.budgeted : Device := if d.moduleBudget < w then d.overBudget w else d

theorem Device.moduleBudget_measuredW : (d.measuredW w).moduleBudget = d.moduleBudget :=
  Device.moduleBudget_of_measure (d.sameRegs_measuredW w)

theorem Device.budgetCheck_eq : d.budgetCheck w =
    if 11 * d.moduleBudget < 10 * w then ((d.measuredW w).budgeted w).emergencyDrop w 0 else (d.measuredW w).budgeted w := by
  rw [← d.moduleBudget_measuredW w]
  rfl

theorem Device.power_overBudget : (d.overBudget w).power = (d.mapGrants (List.range 256) fun v => max 60 (v - 1)).power := by
  rw [Device.overBudget, Device.logModule_power, Device.setFld_power, Device.power_showGrants]

theorem Device.grantOf_overBudget {x : Nat} (hx : x < 256) :
    (d.overBudget w).grantOf x = if d.domState x = 2 then max 60 (d.grantOf x - 1) else d.grantOf x := by
  rw [Device.grantOf_congr (congrArg Power.grants (d.power_overBudget w)), Device.grantOf_mapGrants _ List.nodup_range]
  simp [hx]

theorem Device.budgetExceed_overBudget : (d.overBudget w).flag .pwrEvent Fd.pwrEventBudgetExceed = true := by
  rw [Device.overBudget, Device.flag, Device.fld_logModule _ _ _ _ _ _ _ _ pwrEvent_not_logged]
  exact Device.flag_setFld_self _ .pwrEvent Fd.pwrEventBudgetExceed true rfl (by decide) (by decide)

/-- What the budget check leaves alone: what setting a grant or a rail, showing the grants, its two flags and logging leave alone. -/
theorem Device.budgetCheck_keeps {α : Type} (g : Device → α) (hg : ∀ d c v, g (Device.setGrant d c v) = g d)
    (hr : ∀ d c v, g (Device.setRail d c v) = g d) (hs : ∀ d, g (Device.showGrants d) = g d)
    (hh : ∀ d, g (Device.raisesOff d) = g d) (hf : ∀ (d : Device) f v, g (d.setFld .pwrEvent f v) = g d)
    (hl : ∀ {d e : Device}, d.LogSame e → g e = g d) : g (d.budgetCheck w) = g (d.measuredW w) := by
  have he : ∀ e : Device, g (e.budgeted w) = g e := fun e => by
    unfold Device.budgeted
    split
    · rw [Device.overBudget, hl (Device.logSame_logModule _ _ _ _ _ _), hf, hs, Device.mapGrants_keeps g hg]
    · rfl
  rw [Device.budgetCheck_eq]
  split
  · rw [Device.emergencyDrop_keeps _ _ _ g hg hr hs hh (fun e => hf e _ _) hl, he]
  · exact he _

theorem Device.missed_budgetCheck : (d.budgetCheck w).power.missed = d.power.missed :=
  (d.budgetCheck_keeps w (·.power.missed) (fun _ _ _ => rfl) (fun d c v => congrArg Power.missed (d.power_setRail c v))
    (fun d => congrArg Power.missed d.power_showGrants) (fun _ => rfl) (fun d _ _ => congrArg Power.missed (d.setFld_power _ _ _))
    (fun h => congrArg Power.missed h.power)).trans (congrArg Power.missed (d.setFld_power _ _ _))

theorem Device.pout_budgetCheck : (d.budgetCheck w).power.pout = d.power.pout :=
  (d.budgetCheck_keeps w (·.power.pout) (fun _ _ _ => rfl) (fun d c v => congrArg Power.pout (d.power_setRail c v))
    (fun d => congrArg Power.pout d.power_showGrants) (fun _ => rfl) (fun d _ _ => congrArg Power.pout (d.setFld_power _ _ _))
    (fun h => congrArg Power.pout h.power)).trans (congrArg Power.pout (d.setFld_power _ _ _))

theorem Device.moduleW_showGrants (d : Device) : d.showGrants.fld .pwrMeasure Fd.pwrMeasureModuleW = d.fld .pwrMeasure Fd.pwrMeasureModuleW := by
  rw [Device.showGrants, Device.fld_setFld_apart _ _ _ rfl, Device.fld_setFld_apart _ _ _ rfl]

/-- R51, R54: the mean draw that was measured shows. -/
theorem Device.moduleW_budgetCheck (hw : w < 65536) : (d.budgetCheck w).fld .pwrMeasure Fd.pwrMeasureModuleW = w := by
  rw [d.budgetCheck_keeps w (·.fld .pwrMeasure Fd.pwrMeasureModuleW) (fun _ _ _ => rfl)
    (fun d c v => d.fld_setFld_ne _ _ _ _ _ (domStatus_offset_ne c).1.symm) Device.moduleW_showGrants (fun _ => rfl)
    (fun d f v => d.fld_setFld_ne _ _ _ _ _ (by decide)) (fun h => by simp only [Device.fld, h.regs _ pwrMeasure_not_logged])]
  exact (Device.fld_setFld_self _ _ _ _ rfl (by decide) (by decide)).trans (Nat.mod_eq_of_lt hw)

theorem Device.budgetExceed_emergencyDrop (measured source : Nat) :
    (d.emergencyDrop measured source).flag .pwrEvent Fd.pwrEventBudgetExceed = d.flag .pwrEvent Fd.pwrEventBudgetExceed :=
  d.emergencyDrop_keeps measured source (·.flag .pwrEvent Fd.pwrEventBudgetExceed) (fun _ _ _ => rfl)
    (fun d c v => congrArg (· == 1) (d.fld_setFld_ne _ _ _ _ _ (domStatus_offset_ne c).2.symm))
    (fun d => congrArg (· == 1) (congrArg (fieldOf · _ _) (d.sameRegs_showGrants (rs := [.pwrMeasure]) (by simp) .pwrEvent (by decide))))
    (fun _ => rfl) (fun d => d.flag_setFld_apart _ _ rfl)
    (fun h => by simp only [Device.flag, Device.fld, h.regs _ pwrEvent_not_logged])

end

section
variable {d : Device} {w : Nat}

/-- R51: a mean draw within the budget changes nothing else. -/
theorem Device.budgetCheck_within (h : w ≤ d.moduleBudget) : d.budgetCheck w = d.measuredW w := by
  rw [Device.budgetCheck_eq, if_neg (by omega), Device.budgeted, Device.moduleBudget_measuredW, if_neg (by omega)]

theorem Device.budgeted_measuredW (h : d.moduleBudget < w) : (d.measuredW w).budgeted w = (d.measuredW w).overBudget w := by
  rw [Device.budgeted, Device.moduleBudget_measuredW, if_pos h]

theorem Device.budgetExceed_budgetCheck (h : d.moduleBudget < w) : (d.budgetCheck w).flag .pwrEvent Fd.pwrEventBudgetExceed = true := by
  rw [Device.budgetCheck_eq, Device.budgeted_measuredW h]
  split
  · rw [Device.budgetExceed_emergencyDrop, Device.budgetExceed_overBudget]
  · rw [Device.budgetExceed_overBudget]

/-- R51: above the budget by more than 10 % the emergency drop follows. -/
theorem Device.budgetCheck_drops (h : 11 * d.moduleBudget < 10 * w) :
    d.budgetCheck w = ((d.measuredW w).budgeted w).emergencyDrop w 0 := by
  rw [Device.budgetCheck_eq, if_pos h]

theorem Device.domState_overBudget (d : Device) (w : Nat) {x : Nat} (hx : x < 403) : (d.overBudget w).domState x = d.domState x := by
  rw [Device.overBudget, Device.domState, Device.fld_logModule _ _ _ _ _ _ _ _ (domStatus_not_logged x hx)]
  exact (Device.domState_setFld_ne _ _ _ _ (domStatus_offset_ne x).2).trans
    ((Device.domState_showGrants _ x).trans (Device.domState_mapGrants _ _ _ x))

theorem Device.domState_budgeted (d : Device) (w : Nat) {x : Nat} (hx : x < 403) : (d.budgeted w).domState x = d.domState x := by
  unfold Device.budgeted
  split
  · exact d.domState_overBudget w hx
  · rfl

theorem Device.grantOf_budgeted (d : Device) (w : Nat) {x : Nat} (hx : x < 256) :
    (d.budgeted w).grantOf x = if d.domState x = 2 then lowered (decide (d.moduleBudget < w)) (d.grantOf x) else d.grantOf x := by
  unfold Device.budgeted lowered
  split
  · next h => simp [h, d.grantOf_overBudget w hx]
  · next h => simp [h]

/-- R51: the grants after a mean draw has been measured. -/
theorem Device.grantOf_budgetCheck (d : Device) (w : Nat) {x : Nat} (hx : x < 256) : (d.budgetCheck w).grantOf x =
    if 11 * d.moduleBudget < 10 * w ∧ drawsByGrant (d.domState x) = true then 60
    else if d.domState x = 2 then lowered (decide (d.moduleBudget < w)) (d.grantOf x) else d.grantOf x := by
  have hs : (d.measuredW w).domState x = d.domState x := Device.domState_of_measure (d.sameRegs_measuredW w) x
  have hg := (d.measuredW w).grantOf_budgeted w hx
  rw [hs, Device.moduleBudget_measuredW, Device.grantOf_measuredW] at hg
  rw [Device.budgetCheck_eq]
  split
  · next h => rw [Device.grantOf_emergencyDrop _ _ _ hx, Device.domState_budgeted _ _ (by omega), hs, hg]; simp [h]
  · next h => exact hg.trans (if_neg fun h' => h h'.1).symm

end

end Sys2Proof.Machine
end

section
/-! PROOF. Reads of the rail groups, and alerts. -/

namespace Sys2Proof.Machine

/-! ### Reads of the rail groups, as rows -/

@[simp] theorem Device.regs_railAll (d : Device) (code : Nat) : (d.railAll code).regs = d.regs :=
  d.railAll_keeps Device.regs (fun _ _ => rfl) code
@[simp] theorem Device.power_railAll (d : Device) (code : Nat) : (d.railAll code).power = d.power :=
  d.railAll_keeps Device.power (fun _ _ => rfl) code

theorem Device.powerSame_countMissed (d : Device) (answered : Nat → Bool) : d.PowerSame (d.countMissed answered) :=
  (Device.PowerSame.refl d).power _

theorem Device.regs_countMissed (d : Device) (answered : Nat → Bool) : (d.countMissed answered).regs = d.regs := by rw [Device.countMissed]
theorem Device.grants_countMissed (d : Device) (answered : Nat → Bool) : (d.countMissed answered).power.grants = d.power.grants := by
  rw [Device.countMissed]

/-- The entries of a list whose entries all satisfy p, up to its length. -/
theorem getD_of_all {α : Type} {l : List α} {p : α → Bool} (h : l.all p = true) {g : Nat} (hg : g < l.length) (x : α) : p (l.getD g x) = true := by
  rw [List.getD_eq_getElem _ _ hg]
  exact List.all_eq_true.1 h _ (List.getElem_mem hg)

/-- R453: the device once READ_POUT of every group has been answered. -/
def Device.pouted (d : Device) (powers : List (Option Nat)) : Device :=
  ((d.railAll 0x96).countMissed fun g => (powers.getD g none).isSome).railOver powers

section
variable {d : Device} {powers : List (Option Nat)}

theorem Device.powerSame_pouted (d : Device) (powers : List (Option Nat)) : d.PowerSame (d.pouted powers) :=
  ((d.powerSame_railAll _).trans (Device.powerSame_countMissed _ _)).trans (Device.powerSame_railOver _ _)

theorem Device.sameRegs_pouted (d : Device) (powers : List (Option Nat)) : d.sameRegs (d.pouted powers) [.pwrMeasure] :=
  (Device.sameRegs_of_regs _ ((Device.regs_countMissed _ _).trans (d.regs_railAll _))).trans (Device.sameRegs_railOver _ _)

theorem Device.missed_pouted (h : ∀ g, g < 15 → (powers.getD g none).isSome = true) {g : Nat} (hg : g < 15) :
    SMap.at' 0 (d.pouted powers).power.missed g = 0 := by
  rw [Device.pouted, Device.missed_railOver, Device.missed_countMissed _ _ hg, if_pos (h g hg)]

theorem Device.pout_pouted (h : ∀ g, g < 15 → (powers.getD g none).isSome = true) {g : Nat} (hg : g < 15) :
    SMap.at' 0 (d.pouted powers).power.pout g = (powers.getD g none).getD 0 := by
  rw [Device.pouted, Device.pout_railOver, at_poutAfter _ h hg]

theorem Device.grantOf_pouted (h : ∀ g, g < 15 → (powers.getD g none).isSome = true) {x : Nat} (hx : x < 256) :
    (d.pouted powers).grantOf x =
      if d.domState x = 2 then lowered (decide (700 < (powers.getD (x / 64) none).getD 0)) (d.grantOf x) else d.grantOf x := by
  have hr := (Device.regs_countMissed (d.railAll 0x96) fun g => (powers.getD g none).isSome).trans (d.regs_railAll _)
  have hp : ((d.railAll 0x96).countMissed fun g => (powers.getD g none).isSome).power.grants = d.power.grants := by
    rw [Device.grants_countMissed, Device.power_railAll]
  rw [Device.pouted, Device.grantOf_railOver _ h hx, Device.domState_congr hr, Device.grantOf_congr hp]

/-- R453: where every group answers, the readings are kept and their sum is the mean draw measured. -/
theorem Device.railMeasure_answered (hl : powers.length = 15) (h : ∀ g, g < 15 → (powers.getD g none).isSome = true) (ha : d.awake = true) :
    d.railMeasure powers = (d.pouted powers).budgetCheck (powers.foldl (fun n x => n + x.getD 0) 0) := by
  have same : d.PowerSame ((d.railAll 0x96).countMissed fun g => (powers.getD g none).isSome) :=
    (d.powerSame_railAll _).trans (Device.powerSame_countMissed _ _)
  rw [Device.railMeasure, Device.railReads_answered _ h]
  rw [if_pos ((Device.awake_congr same.pins).trans ha), List.take_of_length_le hl.le]
  rfl

/-- R454: after a reset for a lost group nothing is measured. -/
theorem Device.lost_railMeasure {g : Nat} (hg : g < 15) (h : powers.getD g none = none) (hm : 2 ≤ SMap.at' 0 d.power.missed g) :
    d.Lost (d.railMeasure powers) := by
  have hl : d.Lost ((d.railAll 0x96).railReads fun g => (powers.getD g none).isSome) :=
    Device.lost_railReads hg (by rw [h]; rfl) (by rwa [Device.power_railAll]) (d.powerSame_railAll _).flash
  rw [Device.railMeasure]
  rwa [if_neg (by rw [hl.awake]; exact Bool.false_ne_true)]

end

/-- R453: the device once the other values of every rail group have been asked for. -/
def Device.polled (d : Device) : Device := ((d.railAll 0x8B).railAll 0x8C).railAll 0x8D

theorem Device.powerSame_polled (d : Device) : d.PowerSame d.polled :=
  ((d.powerSame_railAll _).trans (Device.powerSame_railAll _ _)).trans (Device.powerSame_railAll _ _)

theorem Device.regs_polled (d : Device) : d.polled.regs = d.regs := by simp [Device.polled]
theorem Device.power_polled (d : Device) : d.polled.power = d.power := by simp [Device.polled]

theorem Device.railPoll_eq (d : Device) (answered : List Bool) : d.railPoll answered = d.polled.railReads fun g => answered.getD g false := rfl

/-! ### Alerts -/

section
variable {d : Device} (stage : Nat) (status : List (Option Bool))

/-- R459: the device once STATUS_WORD of every group has been read, the emergency drop has followed and CLEAR_FAULTS is written. -/
def Device.alerted (d : Device) (stage : Nat) : Device :=
  ((d.railAll 0x79).emergencyDrop ((d.railAll 0x79).fld .pwrMeasure Fd.pwrMeasureModuleW) 1).emit (.railCommand (0x10 + stage) 0x03 0)

/-- The groups that report power good. -/
def goodGroups (status : List (Option Bool)) : List Nat := (List.range 15).filter fun g => status.getD g none == some true

/-- R454: the device during Snowdrop, once STATUS_WORD of every group has been read and CLEAR_FAULTS is written. -/
def Device.alertRead (d : Device) (stage : Nat) : Device := (d.railAll 0x79).emit (.railCommand (0x10 + stage) 0x03 0)

theorem Device.powerSame_alerted (d : Device) (stage : Nat) : d.PowerSame (d.alerted stage) :=
  ((d.powerSame_railAll _).trans (Device.powerSame_emergencyDrop _ _ _)).emit _

theorem Device.powerSame_alertRead (d : Device) (stage : Nat) : d.PowerSame (d.alertRead stage) := (d.powerSame_railAll _).emit _

theorem Device.inStage_congr {d e : Device} (hr : e.regs = d.regs) (hp : e.pins = d.pins) (k : Nat) : e.inStage k = d.inStage k := by
  simp only [Device.inStage, Device.stage, Device.fld_congr hr, hp]

theorem Device.inStage_railAll (d : Device) (code k : Nat) : (d.railAll code).inStage k = d.inStage k :=
  Device.inStage_congr (d.regs_railAll _) (d.powerSame_railAll _).pins k

/-- In service bring-up runs no stage. -/
theorem Device.inStage_of_ready (h : d.ready = true) (k : Nat) : d.inStage k = false := by
  have h1 : d.fld .bootStatus Fd.bootStatusState = 1 := by simpa [Device.ready] using h
  simp [Device.inStage, h1]

theorem Device.railAlert_service (h : d.inStage 1 = false) : d.railAlert stage status =
    ((List.range 15).find? fun g => status.getD g none == some false).elim
      ((d.alerted stage).railReads fun g => (status.getD g none).isSome) fun g => (d.alerted stage).supplyLost 0x1401 (wordOf g) := by
  rw [Device.railAlert, Device.alerted]
  dsimp only
  rw [if_neg (by rw [Device.inStage_railAll, h]; exact Bool.false_ne_true)]
  generalize List.find? _ (List.range 15) = found
  cases found with
  | none => simp only [Option.elim_none]
  | some g => simp only [Option.elim_some]

theorem Device.railAlert_snowdrop (h : d.inStage 1 = true) : d.railAlert stage status =
    if maskOf (goodGroups status) = 2 ^ 15 - 1 then d.alertRead stage
    else (d.alertRead stage).halt 1 0x0111 (wordOf (maskOf (goodGroups status))) := by
  rw [Device.railAlert]
  dsimp only
  rw [if_pos (by rw [Device.inStage_railAll, h])]
  rfl

end

end Sys2Proof.Machine
end

section
/-! PROOF. O58: POLICY, measurements, alerts, loss of a rail or reference, and over-temperature. -/

namespace Sys2Proof.Machine

/-! ### Masks of groups -/

theorem testBit_maskOf (l : List Nat) (i : Nat) : (maskOf l).testBit i = decide (i ∈ l) := by
  have key : ∀ m : Nat, (l.foldl (fun m i => m ||| 1 <<< i) m).testBit i = (m.testBit i || decide (i ∈ l)) := by
    induction l with
    | nil => simp
    | cons j l ih =>
      intro m
      rw [List.foldl_cons, ih, Nat.testBit_or, Nat.one_shiftLeft, Nat.testBit_two_pow]
      simp [Bool.or_assoc, eq_comm]
  rw [maskOf, key, Nat.zero_testBit, Bool.false_or]

/-- R454: a group that reports no power good is missing from the groups that do. -/
theorem maskOf_goodGroups_ne {status : List (Option Bool)} {g : Nat} (hg : g < 15) (h : status.getD g none = some false) :
    maskOf (goodGroups status) ≠ 2 ^ 15 - 1 := fun he => by
  have hb := testBit_maskOf (goodGroups status) g
  have hn : g ∉ goodGroups status := fun hm => by
    have h2 := (List.mem_filter.1 hm).2
    rw [h] at h2
    exact Bool.false_ne_true h2
  rw [he, Nat.testBit_two_pow_sub_one, decide_eq_true hg, decide_eq_false hn] at hb
  exact absurd hb (by decide)

theorem goodGroups_all : maskOf (goodGroups (List.replicate 15 (some true))) = 2 ^ 15 - 1 := by decide

/-! ### Halting failures -/

theorem Device.PowerSame.report {d e : Device} (h : d.PowerSame e) (s result code attempts : Nat) (detail : Word) :
    d.PowerSame (e.report s result code attempts detail) := (((h.setReg _ _).setReg _ _).setReg _ _).setReg _ _

theorem Device.PowerSame.logBoot {d e : Device} (h : d.PowerSame e) (code cls die : Nat) : d.PowerSame (e.logBoot code cls die) := by
  have hfree : e.PowerSame { e with free := e.free + 4 } := rfl
  rw [Device.logBoot_eq]
  exact (h.trans hfree).logModule _ _ _ _ _

theorem Device.powerSame_halt (d : Device) (s code : Nat) (detail : Word) : d.PowerSame (d.halt s code detail) :=
  (((Device.PowerSame.refl d).report _ _ _ _ _).setFld _ _ _ |>.setFld _ _ _).logBoot _ _ _

theorem exec_railMeasure (powers : List (Option Nat)) (s : State) :
    exec (.railMeasure powers) s = manage (fun d => if d.stopped 0 then d else d.railMeasure powers) s := rfl
theorem exec_railSlowPoll (answered : List Bool) (s : State) :
    exec (.railSlowPoll answered) s = manage (fun d => if d.stopped 0 then d else d.railPoll answered) s := rfl
theorem exec_thermalCrit (die sensor temp : Nat) (s : State) :
    exec (.thermalCrit die sensor temp) s = manage (fun d => if d.stopped 0 then d else d.thermalCrit die sensor temp) s := rfl
theorem exec_railAlert (stage : Nat) (status : List (Option Bool)) (s : State) :
    exec (.railAlert stage status) s = live (fun d => if d.stopped 0 then d else d.railAlert stage status) s := rfl
theorem exec_ref25Loss (s : State) : exec .ref25Loss s = live (·.refLost) s := rfl

section
variable {s : State} {i : Instr} {e : Device}

/-- A row of the running module whose operation gives e. -/
theorem live_row {f : Device → Device} (hs : s.running = true) (hi : exec i s = live f s) (hf : f s.quiet.dev = e)
    (hd : e.flowDone = s.dev.flowDone) : exec i s = .next { s with dev := e } := by
  subst hf
  exact hi.trans (live_after hs (hd.trans (State.running_parts hs).2))

theorem Device.Lost.flowDone_eq (hs : s.running = true) (h : s.quiet.dev.Lost e) : e.flowDone = s.dev.flowDone :=
  h.flowDone.trans (State.running_parts hs).2.symm

/-- R454, R455: a row after which a supply is lost. -/
theorem lost_row (hi : exec i s = .next { s with dev := e }) (h : s.quiet.dev.Lost e) : ∃ t : State, exec i s = .next t ∧ t.pending = s.pending ∧
    t.dev.awake = false ∧ t.dev.pins.railHold = true ∧ t.dev.mem = [] ∧ t.dev.queues = [] ∧ t.dev.flash = s.dev.flash.interrupted :=
  ⟨_, hi, rfl, h.awake, h.hold, h.mem, h.queues, h.flash⟩

/-- R57: a row in which Snowdrop halts. -/
theorem halt_row {code : Nat} {detail : Word} (hc : code < 65536) (hi : exec i s = .next { s with dev := e.halt 1 code detail })
    (h : s.quiet.dev.PowerSame e) (h1 : e.stage = 1) : ∃ t : State, exec i s = .next t ∧ t.pending = s.pending ∧
      t.dev.fld .bootStatus Fd.bootStatusState = 2 ∧ t.dev.fld .bootStatus Fd.bootStatusFailCode = code ∧ t.dev.stage = 1 ∧
      t.dev.mem = s.dev.mem := by
  obtain ⟨hst, hcode, hstage⟩ := e.halt_status 1 code detail hc
  have hmem : (e.halt 1 code detail).mem = s.dev.mem := (h.trans (e.powerSame_halt _ _ _)).mem
  rw [h1] at hstage
  generalize e.halt 1 code detail = a at hi hst hcode hstage hmem
  exact ⟨_, hi, rfl, hst, hcode, hstage, hmem⟩

end

/-! ### Over-temperature -/

/-- R457: THERMTRIP_N is driven low, and the module is held. -/
def Device.tripped (d : Device) : Device := { d with pins := { d.pins with thermtrip := true, thermHold := true } }

/-- R52: the device once the over-temperature is shown and its record written. -/
def Device.critical (d : Device) (die sensor temp : Nat) : Device :=
  (d.setFld .pwrEvent Fd.pwrEventThermalCrit 1).logModule 0x0304 6 [wordOf die, wordOf sensor, wordOf temp] die

section
variable {d : Device} {die temp : Nat} (sensor : Nat)

theorem Device.powerSame_critical (d : Device) (die sensor temp : Nat) : d.PowerSame (d.critical die sensor temp) :=
  ((Device.PowerSame.refl d).setFld _ _ _).logModule _ _ _ _ _

/-- R51, R457: a junction at TJ_CRIT_C resets the module, which the heat then holds. -/
theorem Device.thermalCrit_hot (hd : die < 4) (ht : 105 ≤ temp) :
    d.thermalCrit die sensor temp = (d.critical die sensor temp).tripped.domainsOff.cleared := by
  have hpins : ∀ a : Device, a.tripped.pins.thermHold = true := fun _ => rfl
  have heq : d.thermalCrit die sensor temp = (d.critical die sensor temp).tripped.domainsOff.deviceReset := if_pos ⟨hd, ht⟩
  rw [heq, Device.deviceReset_held (.inr _)]
  rw [Device.domainsOff_pins, hpins]

theorem Device.thermalCrit_cool (die : Nat) (ht : temp < 105) : d.thermalCrit die sensor temp = d := if_neg fun h => absurd h.2 (by omega)

theorem Device.pins_tripped (d : Device) : d.tripped.pins = { d.pins with thermtrip := true, thermHold := true } := rfl
theorem Device.flash_tripped (d : Device) : d.tripped.flash = d.flash := rfl

end

/-! ### Alerts, as rows -/

/-- What an alert's status reads say where every group reports power good. -/
def allGood : List (Option Bool) := List.replicate 15 (some true)

/-- R459: with every group good an alert drops the rails in service. -/
theorem Device.railAlert_good {d : Device} (stage : Nat) (h : d.inStage 1 = false) :
    d.railAlert stage allGood = (d.alerted stage).countMissed fun g => (allGood.getD g none).isSome := by
  have hnone : ((List.range 15).find? fun g => allGood.getD g none == some false) = none := by decide
  have hans : ∀ g, g < 15 → (allGood.getD g none).isSome = true := by decide
  rw [Device.railAlert_service stage allGood h, hnone, Option.elim_none, Device.railReads_answered _ hans]

/-- R454: a group that reports no power good is lost. -/
theorem Device.lost_railAlert {d : Device} {g : Nat} {status : List (Option Bool)} (stage : Nat) (h : d.inStage 1 = false) (hg : g < 15)
    (hst : status.getD g none = some false) : d.Lost (d.railAlert stage status) := by
  have hs : ((List.range 15).find? fun g => status.getD g none == some false).isSome = true :=
    List.find?_isSome.2 ⟨g, List.mem_range.2 hg, by rw [hst]; rfl⟩
  obtain ⟨k, hk⟩ := Option.isSome_iff_exists.1 hs
  rw [Device.railAlert_service stage status h, hk, Option.elim_some]
  exact Device.lost_supplyLost (d.powerSame_alerted stage).flash _ _

/-- R24: what firmware of die 0 takes goes on where its control complex runs. -/
theorem live_runs {s : State} (f : Device → Device) (h : s.dev.stopped 0 = false) :
    live (fun d => if d.stopped 0 then d else f d) s = live f s := by
  have h' : ({ s.dev with out := [] } : Device).stopped 0 = false := h
  simp only [live, act, h', Bool.false_eq_true, if_false]

theorem Device.flag_countMissed (d : Device) (answered : Nat → Bool) (r : Reg) (f : RegField) : (d.countMissed answered).flag r f = d.flag r f :=
  congrArg (· == 1) (Device.fld_congr (d.regs_countMissed answered) r f)

theorem Device.hold_countMissed (d : Device) (answered : Nat → Bool) : (d.countMissed answered).power.hold = d.power.hold := by
  rw [Device.countMissed]

section
variable (d : Device) (stage : Nat)

theorem Device.power_alerted : (d.alerted stage).power =
    ((d.railAll 0x79).emergencyDrop ((d.railAll 0x79).fld .pwrMeasure Fd.pwrMeasureModuleW) 1).power := by rw [Device.alerted, Device.emit]

theorem Device.regs_alerted : (d.alerted stage).regs =
    ((d.railAll 0x79).emergencyDrop ((d.railAll 0x79).fld .pwrMeasure Fd.pwrMeasureModuleW) 1).regs := by rw [Device.alerted, Device.emit]

theorem Device.emergency_alerted : (d.alerted stage).flag .pwrEvent Fd.pwrEventEmergency = true :=
  (congrArg (· == 1) (Device.fld_congr (d.regs_alerted stage) _ _)).trans (Device.emergency_emergencyDrop _ _ _)

theorem Device.hold_alerted : (d.alerted stage).power.hold = true := by rw [Device.power_alerted, Device.hold_emergencyDrop]

theorem Device.grantOf_alerted {x : Nat} (hx : x < 256) :
    (d.alerted stage).grantOf x = if drawsByGrant (d.domState x) = true then 60 else d.grantOf x := by
  rw [Device.grantOf_congr (congrArg Power.grants (d.power_alerted stage)), Device.grantOf_emergencyDrop _ _ _ hx,
    Device.domState_congr (d.regs_railAll _), Device.grantOf_congr (congrArg Power.grants (d.power_railAll _))]

theorem Device.stage_alertRead : (d.alertRead stage).stage = d.stage := by
  have hemit : ∀ (a : Device) o, (a.emit o).stage = a.stage := fun _ _ => rfl
  rw [Device.alertRead, hemit]
  exact Device.fld_congr (d.regs_railAll 0x79) _ _

/-- R459: an alert during Snowdrop only talks to the rail groups. -/
theorem Device.out_alertRead (o : List Out) : { d.alertRead stage with out := o } = { d with out := o } :=
  d.railAll_keeps (fun e => { e with out := o }) (fun _ _ => rfl) 0x79

end

section
variable {d : Device} (stage : Nat)

theorem Device.railAlert_bad {g : Nat} {status : List (Option Bool)} (h : d.inStage 1 = true) (hg : g < 15)
    (hst : status.getD g none = some false) :
    d.railAlert stage status = (d.alertRead stage).halt 1 0x0111 (wordOf (maskOf (goodGroups status))) := by
  rw [Device.railAlert_snowdrop stage status h, if_neg (maskOf_goodGroups_ne hg hst)]

theorem Device.railAlert_snowdrop_good (h : d.inStage 1 = true) : d.railAlert stage allGood = d.alertRead stage := by
  rw [Device.railAlert_snowdrop stage allGood h]
  exact if_pos goodGroups_all

/-- R455: past Snowdrop a reference that is lost ends in the loss of a supply. -/
theorem Device.lost_refLost (h : d.inStage 1 = false) (h2 : 2 ≤ d.stage) : d.Lost d.refLost := by
  rw [Device.refLost, if_neg (by rw [h]; exact Bool.false_ne_true), if_pos h2]
  exact Device.lost_supplyLost rfl _ _

end

/-! ### O58 -/

/-- Settles O58, row by row: each clause is an equation of the row's operation, and what its result reads. -/
theorem railsAndSupplies : Obligations.RailsAndSupplies := by
  intro s hr up lost halts
  have managed : s.dev.managed = true → s.managed = true := fun h => by simp [State.managed, hr, h]
  refine ⟨fun n w hready hn => ⟨fun h8 hu => ?_, fun h => ?_⟩, fun powers hup hm hl hall => ?_, fun answered hup hm hl hall => ?_,
    fun g hup hm hg h2 => ⟨fun powers hp => ?_, fun answered hp => ?_⟩, fun stage hup hready => ?_,
    fun stage g status hup hg hst => ⟨fun hready => ?_, fun hb => ?_⟩, fun stage hup hb => ?_, fun hready hstage => ?_, fun hb => ?_,
    fun hstop powers answered stage status die sensor temp i hi => ?_, fun die sensor temp hup hm hd => ⟨fun ht => ?_, fun ht => ?_⟩⟩
  · have hs : s.inService = true := by simp [State.inService, hr, hready]
    have hv := fieldOf_policy_lt w
    have touched := Device.domTouched_policyWrite (d := s.quiet.dev) hn hv h8 hu
    have same : s.quiet.dev.PowerSame (s.quiet.dev.policyWrite n (fieldOf w 1 0)) := ((Device.PowerSame.refl _).setFld _ _ _).trans touched.same
    refine ⟨_, run_row hs (exec_pwrDomCtrlWrite n w s) rfl same.flowDone, rfl, Device.policy_policyWrite (d := s.quiet.dev) hn hv h8 hu, ?_, ?_,
      same.cores, same.mem, same.queues⟩
    · have hset : s.dev.sameRegs (s.quiet.dev.policySet n (fieldOf w 1 0)) [.pwrDomCtrl n, .pwrDomStatus n, .pwrMeasure] :=
        s.quiet.dev.sameRegs_setFld _ _ _ (by simp)
      exact hset.trans fun r h => touched.regs r fun h' => h (List.mem_cons_of_mem _ h')
    · intro hfree
      rw [Device.policyWrite_free (d := s.quiet.dev) hn hv h8 hfree]
      exact Device.reg_setReg_ne _ _ _ _ (by simp only [Reg.offset]; omega)
  · have hs : s.inService = true := by simp [State.inService, hr, hready]
    have hq := Device.policyWrite_rejects (d := s.quiet.dev) hn (fieldOf_policy_lt w) h
    have same := s.quiet.dev.powerSame_rejectDom n (policyTaken (fieldOf w 1 0))
    exact ⟨_, run_row hs (exec_pwrDomCtrlWrite n w s) hq same.flowDone, rfl, Device.rejectDom_sets _ _ _,
      Device.reg_rejectDom s.quiet.dev _ _ (domCtrl_not_logged n hn) (by simp only [Reg.offset]; omega),
      Device.domState_rejectDom s.quiet.dev _ _ hn, same.cores, same.mem⟩
  · intro w b lower hw
    have hans : ∀ g, g < 15 → (powers.getD g none).isSome = true := fun g hg => getD_of_all hall (by omega) none
    have hq := Device.railMeasure_answered (d := s.quiet.dev) hl hans (State.running_parts hr).1
    have hmeasure := s.quiet.dev.sameRegs_pouted powers
    have hb : (s.quiet.dev.pouted powers).moduleBudget = b := Device.moduleBudget_of_measure hmeasure
    have same := (s.quiet.dev.powerSame_pouted powers).trans (Device.powerSame_budgetCheck _ w)
    refine ⟨_, manage_row (managed hm) ((exec_railMeasure powers s).trans (manage_runs _ hup)) hq same.flowDone, rfl,
      Device.moduleW_budgetCheck _ w hw, fun g hg => ?_, fun g hg => ?_, fun c hc => ?_, fun hwb => ?_, fun hwb => ?_, fun hwb => ?_,
      same.cores, same.mem⟩
    · exact (congrArg (SMap.at' 0 · g) (Device.missed_budgetCheck _ w)).trans (Device.missed_pouted hans hg)
    · exact (congrArg (SMap.at' 0 · g) (Device.pout_budgetCheck _ w)).trans (Device.pout_pouted hans hg)
    · have hs : (s.quiet.dev.pouted powers).domState c = s.dev.domState c := Device.domState_of_measure hmeasure c
      have hg : (s.quiet.dev.pouted powers).grantOf c = if s.dev.domState c = 2 then
        lowered (decide (700 < (powers.getD (c / 64) none).getD 0)) (s.dev.grantOf c) else s.dev.grantOf c := Device.grantOf_pouted hans hc
      refine (Device.grantOf_budgetCheck _ w hc).trans ?_
      rw [hs, hb, hg]
      by_cases h2 : s.dev.domState c = 2
      · rw [if_pos h2, if_pos h2, if_neg (not_not.2 h2)]
        rfl
      · rw [if_neg h2, if_neg h2, if_pos h2]
    · have hq := Device.budgetCheck_within (hwb.trans_eq hb.symm)
      exact (hmeasure.trans (hq ▸ Device.sameRegs_measuredW _ w) :)
    · exact Device.budgetExceed_budgetCheck (hb.trans_lt hwb)
    · have hq := Device.budgetCheck_drops (d := s.quiet.dev.pouted powers) (hb.symm ▸ hwb)
      exact ⟨(congrArg (Device.flag · .pwrEvent Fd.pwrEventEmergency) hq).trans (Device.emergency_emergencyDrop _ _ _),
        (congrArg (·.power.hold) hq).trans (Device.hold_emergencyDrop _ _ _)⟩
  · have hans : ∀ g, g < 15 → answered.getD g false = true := fun g hg => getD_of_all hall (by omega) false
    have hq : s.quiet.dev.railPoll answered = s.quiet.dev.polled.countMissed fun g => answered.getD g false :=
      Device.railReads_answered _ hans
    have same := s.quiet.dev.powerSame_polled.trans (Device.powerSame_countMissed _ fun g => answered.getD g false)
    refine ⟨_, manage_row (managed hm) ((exec_railSlowPoll answered s).trans (manage_runs _ hup)) hq same.flowDone, rfl, fun g hg => ?_, ?_, ?_,
      same.cores, same.mem⟩
    · exact (Device.missed_countMissed _ _ hg).trans (if_pos (hans g hg))
    · exact (Device.regs_countMissed _ _).trans s.quiet.dev.regs_polled
    · exact (Device.grants_countMissed _ _).trans (congrArg Power.grants s.quiet.dev.power_polled)
  · have hl := Device.lost_railMeasure (d := s.quiet.dev) hg hp h2
    exact lost_row (manage_row (managed hm) ((exec_railMeasure powers s).trans (manage_runs _ hup)) rfl (hl.flowDone_eq hr)) hl
  · have hl : s.quiet.dev.Lost (s.quiet.dev.railPoll answered) := by
      rw [Device.railPoll_eq]
      exact Device.lost_railReads hg hp (by rwa [Device.power_polled]) s.quiet.dev.powerSame_polled.flash
    exact lost_row (manage_row (managed hm) ((exec_railSlowPoll answered s).trans (manage_runs _ hup)) rfl (hl.flowDone_eq hr)) hl
  · have hq := Device.railAlert_good (d := s.quiet.dev) stage (Device.inStage_of_ready hready 1)
    have same := (s.quiet.dev.powerSame_alerted stage).trans (Device.powerSame_countMissed _ fun g => (allGood.getD g none).isSome)
    refine ⟨_, live_row hr ((exec_railAlert stage allGood s).trans (live_runs _ hup)) hq same.flowDone, rfl, ?_, ?_,
      fun c hc => ?_, same.cores, same.mem⟩
    · exact (Device.flag_countMissed _ _ _ _).trans (s.quiet.dev.emergency_alerted stage)
    · exact (Device.hold_countMissed _ _).trans (s.quiet.dev.hold_alerted stage)
    · exact (Device.grantOf_congr (Device.grants_countMissed _ _) c).trans (s.quiet.dev.grantOf_alerted stage hc)
  · have hl := Device.lost_railAlert (d := s.quiet.dev) stage (Device.inStage_of_ready hready 1) hg hst
    exact lost_row (live_row hr ((exec_railAlert stage status s).trans (live_runs _ hup)) rfl (hl.flowDone_eq hr)) hl
  · obtain ⟨-, -, hin, -, hstage, -⟩ := State.bringUp_parts hb
    have hq := Device.railAlert_bad (d := s.quiet.dev) stage hin hg hst
    have same := s.quiet.dev.powerSame_alertRead stage
    exact halt_row (by decide) (live_row hr ((exec_railAlert stage status s).trans (live_runs _ hup)) hq
      (same.trans (Device.powerSame_halt _ _ _ _)).flowDone) same ((s.quiet.dev.stage_alertRead stage).trans hstage)
  · obtain ⟨-, -, hin, -⟩ := State.bringUp_parts hb
    have hq := Device.railAlert_snowdrop_good (d := s.quiet.dev) stage hin
    exact ⟨_, live_row hr ((exec_railAlert stage allGood s).trans (live_runs _ hup)) hq (s.quiet.dev.powerSame_alertRead stage).flowDone, rfl,
      s.quiet.dev.out_alertRead stage s.dev.out⟩
  · have hl := Device.lost_refLost (d := s.quiet.dev) (Device.inStage_of_ready hready 1) hstage
    exact lost_row (live_row hr (exec_ref25Loss s) rfl (hl.flowDone_eq hr)) hl
  · obtain ⟨-, -, hin, -, hstage, -⟩ := State.bringUp_parts hb
    have hq : s.quiet.dev.refLost = s.quiet.dev.halt 1 0x0112 (wordOf (2 ^ 15 - 1)) := if_pos hin
    exact halt_row (by decide) (live_row hr (exec_ref25Loss s) hq (s.quiet.dev.powerSame_halt _ _ _).flowDone) (.refl _) hstage
  · simp only [List.mem_cons, List.not_mem_nil, or_false] at hi
    rcases hi with rfl | rfl | rfl | rfl
    · exact (exec_railMeasure powers s).trans (manage_waits _ hr hstop)
    · exact (exec_railSlowPoll answered s).trans (manage_waits _ hr hstop)
    · exact live_row hr (exec_railAlert stage status s) (if_pos hstop) rfl
    · exact (exec_thermalCrit die sensor temp s).trans (manage_waits _ hr hstop)
  · have hq := Device.thermalCrit_hot (d := s.quiet.dev) sensor hd ht
    have same := s.quiet.dev.powerSame_critical die sensor temp
    refine ⟨_, manage_row (managed hm) ((exec_thermalCrit die sensor temp s).trans (manage_runs _ hup)) hq
      ((Device.cleared_flowDone _).trans (State.running_parts hr).2.symm), rfl, ?_, Device.cleared_ready _, Device.cleared_mem _,
      Device.cleared_queues _, ?_⟩
    · refine (Device.cleared_pins _).trans ?_
      rw [Device.domainsOff_pins, Device.pins_tripped, same.pins]
      rfl
    · refine (Device.cleared_flash _).trans ?_
      rw [Device.domainsOff_flash, Device.flash_tripped, same.flash]
      rfl
  · exact (exec_thermalCrit die sensor temp s).trans
      ((manage_runs _ hup).trans (manage_idle hr (Device.thermalCrit_cool (d := s.quiet.dev) sensor die ht)))

end Sys2Proof.Machine
end

section
/-! PROOF. The stages of bring-up: what a stage's start and its end leave alone, and what a row that ends a stage gives. -/

namespace Sys2Proof.Machine

/-! ### Lists of registers that may change -/

theorem Device.sameRegs.refl (d : Device) (rs : List Reg) : d.sameRegs d rs := fun _ _ => rfl

theorem Device.sameRegs.mono {d e : Device} {rs rs' : List Reg} (h : d.sameRegs e rs) (hs : rs ⊆ rs') : d.sameRegs e rs' :=
  fun r hr => h r fun hm => hr (List.map_subset _ hs hm)

theorem Device.sameRegs_setReg (d : Device) (r : Reg) (w : Word) {rs : List Reg} (h : r ∈ rs) : d.sameRegs (d.setReg r w) rs :=
  fun _ hx => Device.reg_setReg_ne _ _ _ _ fun e => hx (e ▸ List.mem_map_of_mem h)

theorem Device.sameRegs.fld {d e : Device} {rs : List Reg} (h : d.sameRegs e rs) {r : Reg} (hr : r.offset ∉ rs.map Reg.offset)
    (f : RegField) : e.fld r f = d.fld r f := by
  rw [Device.fld, Device.fld, h r hr]

theorem Device.sameRegs_of_logSame {d e : Device} (h : d.LogSame e) {rs : List Reg} (hl : logRegs ⊆ rs) : d.sameRegs e rs :=
  fun r hr => h.regs r fun hm => hr (List.map_subset _ hl hm)

theorem Device.sameRegs_logBoot (d : Device) (code cls die : Nat) {rs : List Reg} (hl : logRegs ⊆ rs) :
    d.sameRegs (d.logBoot code cls die) rs :=
  fun _ hr => Device.reg_logBoot _ _ _ _ _ fun hm => hr (List.map_subset _ hl hm)

theorem Device.sameRegs_foldl {β : Type} {rs : List Reg} {f : Device → β → Device} {l : List β}
    (hf : ∀ (d : Device), ∀ b ∈ l, d.sameRegs (f d b) rs) (d : Device) : d.sameRegs (l.foldl f d) rs :=
  fun _ hr => Device.reg_foldl f _ l (fun d b hb => hf d b hb _ hr) d

/-! ### What the work of bring-up and of the ports leaves alone -/

/-- d with what stages of bring-up, ports and logging may change taken from x. -/
def Device.withWork (d x : Device) : Device :=
  { d.withPower x with
    boot := { d.boot with started := x.boot.started, latePorts := x.boot.latePorts }
    now := x.now, ports := x.ports, txWait := x.txWait, injectors := x.injectors, enabled := x.enabled, levelOut := x.levelOut }

/-- The work between d and e stays within registers of a list, the ports and what waits for them, power, logging, free values, the machine
counter, feature levels, injectors, and, of what bring-up keeps, the start of its stage and the ports that are late. -/
structure Device.Within (rs : List Reg) (d e : Device) : Prop where
  frame : e = d.withWork e
  regs : d.sameRegs e rs

namespace Device.Within

variable {rs : List Reg} {d e e' : Device}

theorem refl (rs : List Reg) (d : Device) : Within rs d d := ⟨rfl, .refl d rs⟩

theorem trans (h : Within rs d e) (g : Within rs e e') : Within rs d e' where
  frame :=
    calc e' = e.withWork e' := g.frame
      _ = (d.withWork e).withWork e' := congrArg (·.withWork e') h.frame
      _ = d.withWork e' := rfl
  regs := h.regs.trans g.regs

theorem mono {rs' : List Reg} (h : Within rs d e) (hs : rs ⊆ rs') : Within rs' d e := ⟨h.frame, h.regs.mono hs⟩

theorem of_powerSame (h : d.PowerSame e) (hr : d.sameRegs e rs) : Within rs d e where
  frame :=
    calc e = d.withPower e := h
      _ = d.withWork (d.withPower e) := rfl
      _ = d.withWork e := congrArg d.withWork h.symm
  regs := hr

theorem setFld (h : Within rs d e) {r : Reg} (f : RegField) (v : Nat) (hr : r ∈ rs) : Within rs d (e.setFld r f v) :=
  h.trans (of_powerSame ((Device.PowerSame.refl e).setFld _ _ _) (e.sameRegs_setFld _ _ _ hr))

theorem setReg (h : Within rs d e) {r : Reg} (w : Word) (hr : r ∈ rs) : Within rs d (e.setReg r w) :=
  h.trans (of_powerSame ((Device.PowerSame.refl e).setReg _ _) (e.sameRegs_setReg _ _ hr))

theorem logBoot (h : Within rs d e) (code cls die : Nat) (hl : logRegs ⊆ rs) : Within rs d (e.logBoot code cls die) :=
  h.trans (of_powerSame ((Device.PowerSame.refl e).logBoot _ _ _) (e.sameRegs_logBoot _ _ _ hl))

theorem foldl {β : Type} {f : Device → β → Device} {l : List β} (hf : ∀ (a : Device), ∀ b ∈ l, Within rs a (f a b)) (d : Device) :
    Within rs d (l.foldl f d) := by
  induction l generalizing d with
  | nil => exact refl rs d
  | cons b l ih => exact (hf d b List.mem_cons_self).trans (ih (fun a c hc => hf a c (List.mem_cons_of_mem _ hc)) _)

theorem mem (h : Within rs d e) : e.mem = d.mem := (congrArg Device.mem h.frame :)
theorem side (h : Within rs d e) : e.side = d.side := (congrArg Device.side h.frame :)
theorem flash (h : Within rs d e) : e.flash = d.flash := (congrArg Device.flash h.frame :)
theorem pins (h : Within rs d e) : e.pins = d.pins := (congrArg Device.pins h.frame :)
theorem flowDone (h : Within rs d e) : e.flowDone = d.flowDone := (congrArg Device.flowDone h.frame :)
theorem boot (h : Within rs d e) : e.boot = { d.boot with started := e.boot.started, latePorts := e.boot.latePorts } :=
  (congrArg Device.boot h.frame :)

end Device.Within

/-! ### The start and the end of a stage -/

/-- The registers that the start of stage s may write. -/
def beginRegs (s : Nat) : List Reg := .bootStatus :: .bootReportA (s - 1) :: ((List.range 28).map Reg.lnkPortStatus ++ logRegs)

/-- The registers that the end of stage s may write. -/
def passRegs (s : Nat) : List Reg := reportRegs s ++ beginRegs (s + 1)

theorem portStatus_mem_beginRegs {n : Nat} (s : Nat) (hn : n < 28) : Reg.lnkPortStatus n ∈ beginRegs s := by
  simp only [beginRegs, List.mem_cons, List.mem_append, List.mem_map, List.mem_range]
  exact .inr (.inr (.inl ⟨n, hn, rfl⟩))

theorem logRegs_subset_beginRegs (s : Nat) : logRegs ⊆ beginRegs s := fun _ hr =>
  List.mem_cons_of_mem _ (List.mem_cons_of_mem _ (List.mem_append_right _ hr))

theorem Device.connected_lt {d : Device} {n : Nat} (h : n ∈ d.connected) : n < 28 :=
  List.mem_range.1 (List.mem_filter.1 h).1

theorem Device.within_enterStage (d : Device) (s : Nat) : Within (beginRegs s) d (d.enterStage s) := by
  have h := (((Within.refl (beginRegs s) d).setFld Fd.bootStatusState 0 List.mem_cons_self).setFld Fd.bootStatusStage s
    List.mem_cons_self).setFld (r := .bootReportA (s - 1)) Fd.bootReportAResult 1 (List.mem_cons_of_mem _ List.mem_cons_self)
  have hs : ∀ (e : Device) (t : Word), Within (beginRegs s) e { e with boot := { e.boot with started := t } } :=
    fun e t => ⟨rfl, Device.sameRegs_of_regs _ rfl⟩
  exact h.trans (hs _ _)

/-- The start of a stage, but for Primrose after a reset made for a push. -/
theorem Device.within_beginStage (d : Device) (s : Nat) (hp : s = 2 → d.boot.pushFirst = false) :
    Within (beginRegs s) d (d.beginStage s) := by
  have port : ∀ (e : Device) (n v : Nat), n < 28 → Within (beginRegs s) e (e.setPortState n v) := fun e n v hn =>
    (Within.refl _ e).setFld _ _ (portStatus_mem_beginRegs s hn)
  have late : ∀ (e : Device) (m : Nat), Within (beginRegs s) e { e with boot := { e.boot with latePorts := m } } :=
    fun e m => ⟨rfl, Device.sameRegs_of_regs _ rfl⟩
  refine (d.within_enterStage s).trans ?_
  have hpush : s = 2 → (d.enterStage s).boot.pushFirst = false := by simpa using hp
  unfold Device.beginStage
  generalize d.enterStage s = e at hpush ⊢
  dsimp only
  split
  · next h2 => rw [hpush h2, if_neg Bool.false_ne_true]; exact .refl _ e
  · split
    · exact .foldl (fun a n hn => port a n _ (List.mem_range.1 hn)) e
    · split
      · refine (late e _).trans (.foldl (fun a n hn => ?_) _)
        split
        · exact (Within.refl _ a).logBoot _ _ _ (logRegs_subset_beginRegs s)
        · split
          · exact port a n _ (Device.connected_lt hn)
          · exact .refl _ a
      · exact .refl _ e

theorem Device.within_report (d : Device) (s result code attempts : Nat) (w : Word) :
    Within (reportRegs s) d (d.report s result code attempts w) :=
  .of_powerSame ((Device.PowerSame.refl d).report _ _ _ _ _) fun _ hr => Device.reg_report _ _ _ _ _ _ _ hr

/-- R55, R75: what follows the report at the end of a stage from Primrose on, held or not. -/
theorem Device.within_afterReport (d : Device) {s : Nat} (code attempts : Nat) (w : Word) (h2 : 2 ≤ s) :
    Within (beginRegs (s + 1)) (d.report s (if code = 0 then 2 else 3) code attempts w) (d.passStage s code attempts w) := by
  unfold Device.passStage
  generalize d.report s (if code = 0 then 2 else 3) code attempts w = e
  dsimp only
  split
  · exact (Within.refl _ e).setFld _ _ List.mem_cons_self
  · exact e.within_beginStage _ (by omega)

theorem Device.within_passStage (d : Device) {s : Nat} (code attempts : Nat) (w : Word) (h2 : 2 ≤ s) :
    Within (passRegs s) d (d.passStage s code attempts w) :=
  ((d.within_report s _ code attempts w).mono (List.subset_append_left _ _)).trans
    ((d.within_afterReport code attempts w h2).mono (List.subset_append_right _ _))

theorem bootStatus_not_report (s : Nat) : Reg.bootStatus.offset ∉ (reportRegs s).map Reg.offset := by
  simp only [reportRegs, List.map_cons, List.map_nil, List.mem_cons, List.not_mem_nil, or_false, Reg.offset]; omega

theorem bootCtrl_not_report (s : Nat) : Reg.bootCtrl.offset ∉ (reportRegs s).map Reg.offset := by
  simp only [reportRegs, List.map_cons, List.map_nil, List.mem_cons, List.not_mem_nil, or_false, Reg.offset]; omega

/-- A stage that HOLD_BEFORE names the next of ends HELD. -/
theorem Device.passStage_held (d : Device) (s code attempts : Nat) (w : Word)
    (hh : d.fld .bootCtrl Fd.bootCtrlHoldBefore = s + 1) (hs : 2 ≤ s) :
    d.passStage s code attempts w =
      (d.report s (if code = 0 then 2 else 3) code attempts w).setFld .bootStatus Fd.bootStatusState 4 := by
  exact if_pos ⟨(Device.fld_report _ _ _ _ _ _ _ _ (bootCtrl_not_report s)).trans hh, hs⟩

theorem Device.passStage_held_status (d : Device) (s code attempts : Nat) (w : Word)
    (hh : d.fld .bootCtrl Fd.bootCtrlHoldBefore = s + 1) (hs : 2 ≤ s) :
    (d.passStage s code attempts w).stage = d.stage ∧ (d.passStage s code attempts w).fld .bootStatus Fd.bootStatusState = 4 := by
  rw [Device.passStage_held _ _ _ _ _ hh hs]
  constructor
  · exact (Device.fld_setFld_apart _ _ _ (by decide)).trans (Device.fld_report _ _ _ _ _ _ _ _ (bootStatus_not_report s))
  · exact Device.fld_setFld_self _ _ _ _ rfl (by decide) (by decide)

/-! ### Rows that end a stage -/

/-- R55, R75: where a row ends stage k of e, a device that differs from the state's in nothing the end of the stage looks at, bring-up
has passed the stage. -/
theorem State.passed_of {s : State} {e : Device} {k : Nat} (code attempts : Nat) (w : Word) (hr : s.running = true)
    (hpins : e.pins = s.dev.pins) (hflow : e.flowDone = s.dev.flowDone)
    (hhold : e.fld .bootCtrl Fd.bootCtrlHoldBefore = s.dev.fld .bootCtrl Fd.bootCtrlHoldBefore) (hstage : e.stage = k)
    (hcool : s.dev.pins.thermHold = false) (h2 : 2 ≤ k) (h6 : k ≤ 6) :
    s.passed { s with dev := e.passStage k code attempts w } k := by
  have same := e.within_passStage code attempts w h2
  obtain ⟨hawake, hflow'⟩ := State.running_parts hr
  have hp := same.pins.trans hpins
  have hf := (same.flowDone.trans hflow).trans hflow'
  have ha := (Device.awake_congr hp).trans hawake
  constructor
  · intro hne
    obtain ⟨hst, hzero⟩ := e.passStage_status k code attempts w (fun h => hne (hhold ▸ h.1)) h6 (by omega)
    exact State.bringUp_of ha hf hst hzero ((congrArg Pins.thermHold hp).trans hcool)
  · intro heq
    obtain ⟨hst, hheld⟩ := e.passStage_held_status k code attempts w (hhold.trans heq) h2
    exact ⟨by simp [State.running, ha, hf], hst.trans hstage, hheld⟩

theorem State.bringUp_running {s : State} {k : Nat} (h : s.bringUp k = true) : s.running = true := by
  simp only [State.bringUp, Bool.and_eq_true] at h
  exact h.1

theorem State.bringUp_inStage {s : State} {k : Nat} (h : s.bringUp k = true) : s.quiet.dev.inStage k = true :=
  (State.bringUp_parts h).2.2.1

/-- A row of stage k that ends it with the device e. -/
theorem pass_row {s : State} {i : Instr} {f : Device → Device} {e : Device} {k : Nat} (code attempts : Nat) (w : Word)
    (hb : s.bringUp k = true) (hi : exec i s = live f s) (hf : f s.quiet.dev = e.passStage k code attempts w)
    (hpins : e.pins = s.dev.pins) (hflow : e.flowDone = s.dev.flowDone)
    (hctrl : e.reg .bootCtrl = s.dev.reg .bootCtrl) (hstatus : e.reg .bootStatus = s.dev.reg .bootStatus) (h2 : 2 ≤ k) (h6 : k ≤ 6) :
    exec i s = .next { s with dev := e.passStage k code attempts w } ∧ s.passed { s with dev := e.passStage k code attempts w } k := by
  obtain ⟨-, -, -, -, hstage, hcool⟩ := State.bringUp_parts hb
  have hr := State.bringUp_running hb
  refine ⟨live_row hr hi hf ((e.within_passStage code attempts w h2).flowDone.trans hflow), ?_⟩
  refine State.passed_of code attempts w hr hpins hflow (congrArg (fieldOf · _ _) hctrl) ?_ hcool h2 h6
  exact (congrArg (fieldOf · _ _) hstatus).trans hstage

end Sys2Proof.Machine
end

section
/-! PROOF. O9: the stages of bring-up pass. -/

namespace Sys2Proof.Machine

theorem exec_snowdrop (good : Nat) (refOk : Bool) (s : State) : exec (.snowdrop good refOk) s = live (·.snowdrop good refOk) s := rfl
theorem exec_primrose (s : State) : exec .primrose s = live (·.primrose) s := rfl
theorem exec_memInterfaceTrained (i : Nat) (s : State) : exec (.memInterfaceTrained i) s = live (·.memTrained i) s := rfl
theorem exec_cowslip (grades : Nat) (s : State) : exec (.cowslip grades) s = live (·.cowslip grades) s := rfl
theorem exec_campion (rows : List Repair) (ok : Bool) (s : State) : exec (.campion rows ok) s = live (·.campion rows ok) s := rfl
theorem exec_yarrow (s : State) : exec .yarrow s = live (·.yarrow) s := rfl

/-! ### Waiting for a push -/

/-- e is d but for BOOT_PUSH_CTRL, MGT_STAGE_CTRL and what bring-up keeps of pushes. -/
structure Device.PushSame (d e : Device) : Prop where
  frame : e = { d with regs := e.regs, boot := e.boot }
  regs : d.sameRegs e [.bootPushCtrl, .mgtStageCtrl]

namespace Device.PushSame

variable {d e e' : Device}

theorem refl (d : Device) : d.PushSame d := ⟨rfl, .refl d _⟩

theorem trans (h : d.PushSame e) (g : e.PushSame e') : d.PushSame e' where
  frame :=
    calc e' = { e with regs := e'.regs, boot := e'.boot } := g.frame
      _ = { { d with regs := e.regs, boot := e.boot } with regs := e'.regs, boot := e'.boot } :=
          congrArg (fun x : Device => { x with regs := e'.regs, boot := e'.boot }) h.frame
  regs := h.regs.trans g.regs

theorem setFld (h : d.PushSame e) {r : Reg} (f : RegField) (v : Nat) (hr : r ∈ [Reg.bootPushCtrl, .mgtStageCtrl]) :
    d.PushSame (e.setFld r f v) :=
  h.trans ⟨by unfold Device.setFld Device.setReg; split <;> rfl, e.sameRegs_setFld _ _ _ hr⟩

theorem setBoot (h : d.PushSame e) (b : Boot) : d.PushSame { e with boot := b } := h.trans ⟨rfl, Device.sameRegs_of_regs _ rfl⟩

theorem mem (h : d.PushSame e) : e.mem = d.mem := (congrArg Device.mem h.frame :)
theorem flash (h : d.PushSame e) : e.flash = d.flash := (congrArg Device.flash h.frame :)
theorem pins (h : d.PushSame e) : e.pins = d.pins := (congrArg Device.pins h.frame :)
theorem flowDone (h : d.PushSame e) : e.flowDone = d.flowDone := (congrArg Device.flowDone h.frame :)
theorem stage (h : d.PushSame e) : e.stage = d.stage := h.regs.fld (by decide) _
theorem waitsPush (h : d.PushSame e) : e.waitsPush = d.waitsPush := by
  rw [Device.waitsPush, Device.waitsPush, h.regs.fld (by decide)]

end Device.PushSame

theorem Device.pushSame_startPush (d : Device) (entries length : Nat) : d.PushSame (d.startPush entries length) := by
  unfold Device.startPush
  split
  · exact ((PushSame.refl d).setFld _ _ (by simp)).setBoot _
  · exact (PushSame.refl d).setFld _ _ (by simp)

/-- R62: WAIT_PUSH shows its code, and the stage stays. -/
theorem Device.waitPush_status (d : Device) {code : Nat} (hc : code < 65536) :
    (d.waitPush code).waitsPush = true ∧ (d.waitPush code).fld .bootStatus Fd.bootStatusFailCode = code ∧ (d.waitPush code).stage = d.stage := by
  refine ⟨?_, ?_, ?_⟩
  · rw [Device.waitsPush, Device.waitPush, Device.fld_setFld_apart _ _ _ (by decide), Device.fld_setFld_self _ _ _ _ rfl (by decide) (by decide)]
    rfl
  · rw [Device.waitPush, Device.fld_setFld_self _ _ _ _ rfl (by decide) (by decide)]
    exact Nat.mod_eq_of_lt hc
  · rw [Device.stage, Device.waitPush, Device.fld_setFld_apart _ _ _ (by decide), Device.fld_setFld_apart _ _ _ (by decide)]
    rfl

theorem Device.within_waitPush (d : Device) (code : Nat) : Within [.bootStatus] d (d.waitPush code) :=
  ((Within.refl _ d).setFld _ _ List.mem_cons_self).setFld _ _ List.mem_cons_self

/-- R63: after its reset Primrose waits, whether or not a staged push starts. -/
theorem Device.pushSame_primroseWait (d : Device) : (d.waitPush 0).PushSame d.primroseWait := by
  unfold Device.primroseWait
  generalize d.waitPush 0 = e
  dsimp only
  split
  · split
    · exact (e.pushSame_startPush _ _).setBoot _
    · exact (e.pushSame_startPush _ _).setFld _ _ (by simp)
  · exact .refl e

theorem Device.beginStage_primrose (d : Device) :
    d.beginStage 2 = if d.boot.pushFirst then (d.enterStage 2).primroseWait else d.enterStage 2 := by
  rw [Device.beginStage, if_pos rfl, Device.enterStage_boot]

/-- What the start of Primrose gives, whether or not it waits for a push. -/
structure Device.PrimroseStarts (d e : Device) : Prop where
  mem : e.mem = d.mem
  flash : e.flash = d.flash
  pins : e.pins = d.pins
  flowDone : e.flowDone = d.flowDone
  stage : e.stage = 2
  result : e.fld (.bootReportA 0) Fd.bootReportAResult = d.fld (.bootReportA 0) Fd.bootReportAResult
  detail : e.reg (.bootReportD 0) = d.reg (.bootReportD 0)

theorem reportA0_not_begin : (Reg.bootReportA 0).offset ∉ (beginRegs 2).map Reg.offset := by decide
theorem reportD0_not_begin : (Reg.bootReportD 0).offset ∉ (beginRegs 2).map Reg.offset := by decide

theorem Device.primroseStarts_enterStage (d : Device) : d.PrimroseStarts (d.enterStage 2) :=
  have same := d.within_enterStage 2
  { mem := same.mem, flash := same.flash, pins := same.pins, flowDone := same.flowDone, stage := (d.enterStage_status 2 (by decide)).1
    result := same.regs.fld reportA0_not_begin _, detail := same.regs _ reportD0_not_begin }

theorem Device.primroseStarts_wait (d : Device) : d.PrimroseStarts (d.enterStage 2).primroseWait :=
  have h := d.primroseStarts_enterStage
  have w := (d.enterStage 2).within_waitPush 0
  have p := (d.enterStage 2).pushSame_primroseWait
  { mem := p.mem.trans (w.mem.trans h.mem), flash := p.flash.trans (w.flash.trans h.flash), pins := p.pins.trans (w.pins.trans h.pins)
    flowDone := p.flowDone.trans (w.flowDone.trans h.flowDone)
    stage := p.stage.trans (((d.enterStage 2).waitPush_status (by decide)).2.2.trans h.stage)
    result := (p.regs.fld (by decide) _).trans ((w.regs.fld (by decide) _).trans h.result)
    detail := (p.regs _ (by decide)).trans ((w.regs _ (by decide)).trans h.detail) }

theorem Device.primroseStarts (d : Device) : d.PrimroseStarts (d.beginStage 2) := by
  rw [Device.beginStage_primrose]
  split
  · exact d.primroseStarts_wait
  · exact d.primroseStarts_enterStage

/-! ### Snowdrop -/

/-- R453: the commands that Snowdrop sends to the rail groups. -/
def Device.railsRead (d : Device) : Device :=
  (railAmps.zipIdx).foldl (fun (d : Device) a => d.emit (.railCommand (0x10 + a.2) 0x4A a.1)) (d.railAll 0x79)

/-- R59, R437: the device at the end of a Snowdrop that passes. -/
def Device.identified (d : Device) : Device := (d.railsRead.setFld .secStatus Fd.secStatusDrbgOk 1).identify

theorem Device.railsRead_keeps {α : Type} (g : Device → α) (h : ∀ d o, g (Device.emit d o) = g d) (d : Device) : g d.railsRead = g d :=
  (Device.emit_fold_keeps g h _ _ _).trans (Device.railAll_keeps g h d _)

theorem Device.powerSame_railsRead (d : Device) : d.PowerSame d.railsRead :=
  (d.powerSame_railAll _).trans (.foldl (fun a _ => (Device.PowerSame.refl a).emit _) _ _)

theorem Device.identified_keeps {α : Type} (g : Device → α) (he : ∀ d o, g (Device.emit d o) = g d)
    (hr : ∀ d f v, g (Device.setFld d .secStatus f v) = g d) (hm : ∀ (d : Device) m, g { d with mgmt := m } = g d) (d : Device) :
    g d.identified = g d := (hr _ _ _).trans ((hm _ _).trans ((hr _ _ _).trans (d.railsRead_keeps g he)))

section
variable {d : Device} {good : Nat}

theorem Device.snowdrop_passes (h : d.inStage 1 = true) (hg : good % 32768 = 32767) :
    d.snowdrop good true = d.identified.passStage 1 0 0 (wordOf 32767) := by
  rw [Device.snowdrop, if_pos h]
  simp [hg, Device.identified, Device.railsRead]

theorem Device.snowdrop_fails (refOk : Bool) (h : d.inStage 1 = true) (hg : good % 32768 ≠ 32767) :
    d.snowdrop good refOk = d.railsRead.halt 1 0x0111 (wordOf (good % 32768)) := by
  rw [Device.snowdrop, if_pos h]
  simp [hg, Device.railsRead]

theorem Device.snowdrop_noReference (h : d.inStage 1 = true) (hg : good % 32768 = 32767) :
    d.snowdrop good false = d.railsRead.halt 1 0x0112 (wordOf 32767) := by
  rw [Device.snowdrop, if_pos h]
  simp [hg, Device.railsRead]

end

/-- R56: the first register of a stage's report. -/
theorem Device.reg_reportA (d : Device) {s : Nat} (result code attempts : Nat) (w : Word) (h1 : 1 ≤ s) (h7 : s ≤ 7) :
    (d.report s result code attempts w).reg (.bootReportA (s - 1)) =
      wordOf (code % 2 ^ 16 * 2 ^ 48 + min 255 attempts * 2 ^ 40 + result * 16 + s) := by
  have hin : (Reg.bootReportA (s - 1)).inRange = true := by simp [Reg.inRange]; omega
  unfold Device.report
  dsimp only
  rw [Device.reg_setReg_ne _ _ _ _ (by simp [Reg.offset]), Device.reg_setReg_ne _ _ _ _ (by simp [Reg.offset]),
    Device.reg_setReg_ne _ _ _ _ (by simp [Reg.offset]), Device.reg_setReg_self _ _ _ hin]

/-- R56: what a report shows of its stage's result. -/
theorem Device.report_result (d : Device) {s result : Nat} (code attempts : Nat) (w : Word) (h1 : 1 ≤ s) (h7 : s ≤ 7) (hr : result < 16) :
    (d.report s result code attempts w).fld (.bootReportA (s - 1)) Fd.bootReportAResult = result := by
  rw [Device.fld, Device.reg_reportA _ _ _ _ _ h1 h7]
  simp only [fieldOf, bitsOf, wordOf, Fd.bootReportAResult, BitVec.toNat_ofNat, Nat.shiftRight_eq_div_pow]
  omega

/-- R56: what a report shows of its stage's failure. -/
theorem Device.report_code (d : Device) {s result code : Nat} (attempts : Nat) (w : Word) (h1 : 1 ≤ s) (h7 : s ≤ 7) (hr : result < 16)
    (hc : code < 65536) :
    (d.report s result code attempts w).fld (.bootReportA (s - 1)) Fd.bootReportAFailCode = code := by
  rw [Device.fld, Device.reg_reportA _ _ _ _ _ h1 h7]
  simp only [fieldOf, bitsOf, wordOf, Fd.bootReportAFailCode, BitVec.toNat_ofNat, Nat.shiftRight_eq_div_pow]
  omega

theorem Device.report_detail (d : Device) {s : Nat} (result code attempts : Nat) (w : Word) (h1 : 1 ≤ s) (h7 : s ≤ 7) :
    (d.report s result code attempts w).reg (.bootReportD (s - 1)) = w :=
  Device.reg_setReg_self _ _ _ (by simp [Reg.inRange]; omega)

/-- R59: Snowdrop ends with all power stages good. -/
theorem snowdrop_row {s : State} {good : Nat} (hb : s.bringUp 1 = true) (hg : good % 32768 = 32767) :
    ∃ t : State, exec (.snowdrop good true) s = .next t ∧ t.pending = s.pending ∧ t.running = true ∧ t.dev.stage = 2 ∧
      (s.dev.boot.pushFirst = false → t.bringUp 2 = true) ∧ (s.dev.boot.pushFirst = true → t.dev.waitsPush = true) ∧
      t.dev.fld (.bootReportA 0) Fd.bootReportAResult = 2 ∧ t.dev.reg (.bootReportD 0) = wordOf 32767 ∧
      t.dev.flash = s.dev.flash ∧ t.dev.mem = s.dev.mem := by
  obtain ⟨hawake, hflow, -, -, -, hcool⟩ := State.bringUp_parts hb
  have keeps : ∀ {α : Type} (g : Device → α), (∀ d o, g (Device.emit d o) = g d) → (∀ d f v, g (Device.setFld d .secStatus f v) = g d) →
      (∀ (d : Device) m, g { d with mgmt := m } = g d) → g s.quiet.dev.identified = g s.quiet.dev :=
    fun g he hr hm => Device.identified_keeps g he hr hm _
  generalize he : s.quiet.dev.identified = e at keeps
  have hq : s.quiet.dev.snowdrop good true = (e.report 1 2 0 0 (wordOf 32767)).beginStage 2 := by
    rw [Device.snowdrop_passes (State.bringUp_inStage hb) hg, he]
    exact Device.passStage_next _ _ _ _ _ fun h => absurd h.2 (by decide)
  have hr := e.within_report 1 2 0 0 (wordOf 32767)
  have hresult := e.report_result (s := 1) (result := 2) 0 0 (wordOf 32767) (by decide) (by decide) (by decide)
  have hdetail := e.report_detail (s := 1) 2 0 0 (wordOf 32767) (by decide) (by decide)
  generalize e.report 1 2 0 0 (wordOf 32767) = r at hq hr hresult hdetail
  have hp := r.primroseStarts
  have hpins : r.pins = s.dev.pins := hr.pins.trans (keeps Device.pins (by simp) (by simp) (by simp))
  have hboot : r.boot.pushFirst = s.dev.boot.pushFirst := by
    rw [hr.boot]
    exact keeps (·.boot.pushFirst) (by intros; rfl) (by simp) (by simp)
  have hdone : r.flowDone = s.dev.flowDone := hr.flowDone.trans (keeps Device.flowDone (by simp) (by simp) (by simp))
  have ha : (r.beginStage 2).awake = true := (Device.awake_congr (hp.pins.trans hpins)).trans hawake
  have hf : (r.beginStage 2).flowDone = [] := (hp.flowDone.trans hdone).trans hflow
  refine ⟨_, live_row (State.bringUp_running hb) (exec_snowdrop good true s) hq (hf.trans hflow.symm), rfl, ?_, hp.stage, fun hpush => ?_,
    fun hpush => ?_, hp.result.trans hresult, hp.detail.trans hdetail, ?_, ?_⟩
  · simp [State.running, ha, hf]
  · refine State.bringUp_of ha hf hp.stage ?_ ((congrArg Pins.thermHold (hp.pins.trans hpins)).trans hcool)
    exact (r.beginStage_status 2 (by decide) fun _ => hboot.trans hpush).2
  · have hw : r.beginStage 2 = (r.enterStage 2).primroseWait := by rw [Device.beginStage_primrose, hboot, hpush, if_pos rfl]
    exact (congrArg Device.waitsPush hw).trans ((r.enterStage 2).pushSame_primroseWait.waitsPush.trans
      ((r.enterStage 2).waitPush_status (by decide)).1)
  · exact hp.flash.trans (hr.flash.trans (keeps Device.flash (by simp) (by simp) (by simp)))
  · exact hp.mem.trans (hr.mem.trans (keeps Device.mem (by simp) (by simp) (by simp)))

/-! ### Primrose -/

/-- R60, R61: the boot ROM accepts the image. -/
theorem Device.imageFault_accepts {d : Device} {i : Image} (hdir : d.flash.dirOk = true) (hsig : i.sigOk = true) (hdigest : i.digestOk = true)
    (hstep : i.stepping = 0xA1) (hlen : i.length ≤ 67108864) (hmajor : Config.romFloor.toNat ≤ imageMajor i) :
    d.imageFault i = (none, d) := by
  simp [Device.imageFault, hdir, hsig, hdigest, hstep, hlen, Nat.not_lt.2 hmajor]

/-- R61, R62: an accepted image is in control memory, from flash (0) or from a push (1). -/
def Device.imageTaken (d : Device) (i : Image) (source : Nat) : Device :=
  let d := d.setFld .bootImage Fd.bootImageRunningVersion i.version.toNat
  let d := d.setFld .bootImage Fd.bootImageSource source
  let d := d.setFld .bootImage Fd.bootImageFlashSynced (ofBool (decide (d.flash.image = i)))
  { d with boot := { d.boot with running := some i, pushed := source == 1 } }

theorem Device.runImage_eq (d : Device) (i : Image) (source code attempts : Nat) : d.runImage i source code attempts =
    (d.imageTaken i source).passStage 2 code attempts (wordOf (i.version.toNat * 2 ^ 32 + i.length % 2 ^ 26)) := rfl

section
variable (d : Device) (i : Image) (source : Nat)

theorem Device.sameRegs_imageTaken : d.sameRegs (d.imageTaken i source) [.bootImage] :=
  ((d.sameRegs_setFld _ _ _ List.mem_cons_self).trans (Device.sameRegs_setFld _ _ _ _ List.mem_cons_self)).trans
    (Device.sameRegs_setFld _ _ _ _ List.mem_cons_self)

@[simp] theorem Device.imageTaken_boot : (d.imageTaken i source).boot = { d.boot with running := some i, pushed := source == 1 } := by
  simp [Device.imageTaken]
@[simp] theorem Device.imageTaken_pins : (d.imageTaken i source).pins = d.pins := by simp [Device.imageTaken]
@[simp] theorem Device.imageTaken_flash : (d.imageTaken i source).flash = d.flash := by simp [Device.imageTaken]
@[simp] theorem Device.imageTaken_mem : (d.imageTaken i source).mem = d.mem := by simp [Device.imageTaken]
@[simp] theorem Device.imageTaken_flowDone : (d.imageTaken i source).flowDone = d.flowDone := by simp [Device.imageTaken]

end

theorem Device.primrose_accepts {d : Device} (h : d.inStage 2 = true) (hi : d.imageFault d.flash.image = (none, d)) :
    d.primrose = d.runImage d.flash.image 0 0 0 := by
  rw [Device.primrose, if_pos h, hi]

/-- R61: Primrose ends with the image of flash. -/
theorem primrose_row {s : State} (hb : s.bringUp 2 = true) (hi : s.quiet.dev.imageFault s.dev.flash.image = (none, s.quiet.dev)) :
    ∃ t : State, exec .primrose s = .next t ∧ t.pending = s.pending ∧ s.passed t 2 ∧
      t.dev.boot.running = some s.dev.flash.image ∧ t.dev.boot.pushed = false ∧ t.dev.flash = s.dev.flash ∧ t.dev.mem = s.dev.mem := by
  have same := s.quiet.dev.sameRegs_imageTaken s.dev.flash.image 0
  have hq := (Device.primrose_accepts (State.bringUp_inStage hb) hi).trans (Device.runImage_eq _ _ _ _ _)
  obtain ⟨hrow, hpassed⟩ := pass_row 0 0 _ hb (exec_primrose s) hq (by simp; rfl) (by simp; rfl) (same _ (by decide)) (same _ (by decide))
    (by decide) (by decide)
  have hs := (s.quiet.dev.imageTaken s.dev.flash.image 0).within_passStage (s := 2) 0 0
    (wordOf (s.dev.flash.image.version.toNat * 2 ^ 32 + s.dev.flash.image.length % 2 ^ 26)) (by decide)
  have hboot := hs.boot
  refine ⟨_, hrow, rfl, hpassed, (congrArg Boot.running hboot).trans ?_, (congrArg Boot.pushed hboot).trans ?_, hs.flash.trans ?_,
    hs.mem.trans ?_⟩
  · simp
  · simp
  · simp; rfl
  · simp; rfl

/-! ### Memory training and Cowslip -/

/-- R68: an interface's training is noted. -/
theorem memInterfaceTrained_row {s : State} {i : Nat} (hb : s.bringUp 4 = true) (hi : i < 32) :
    exec (.memInterfaceTrained i) s = .next { s with dev := { s.dev with
      boot := { s.dev.boot with memTrained := s.dev.boot.memTrained ||| 1 <<< i }, out := [] } } :=
  live_row (State.bringUp_running hb) (exec_memInterfaceTrained i s) (if_pos ⟨State.bringUp_inStage hb, hi⟩) rfl

/-- The least of a number and of a function's values on a list. -/
theorem foldl_min_spec (f : Nat → Nat) (l : List Nat) (a : Nat) :
    l.foldl (fun m k => min m (f k)) a ≤ a ∧ (∀ k ∈ l, l.foldl (fun m k => min m (f k)) a ≤ f k) ∧
      (l.foldl (fun m k => min m (f k)) a = a ∨ ∃ k ∈ l, l.foldl (fun m k => min m (f k)) a = f k) := by
  induction l generalizing a with
  | nil => simp
  | cons b l ih =>
    obtain ⟨hle, hall, hex⟩ := ih (min a (f b))
    refine ⟨hle.trans (Nat.min_le_left _ _), fun k hk => ?_, ?_⟩
    · rcases List.mem_cons.1 hk with rfl | hk
      · exact hle.trans (Nat.min_le_right _ _)
      · exact hall k hk
    · rcases hex with h | ⟨k, hk, h⟩
      · rcases Nat.le_total a (f b) with hab | hab
        · exact .inl (h.trans (Nat.min_eq_left hab))
        · exact .inr ⟨b, List.mem_cons_self, h.trans (Nat.min_eq_right hab)⟩
      · exact .inr ⟨k, List.mem_cons_of_mem _ hk, h⟩

theorem farGrades_mono {a b : Nat} (h : a ≤ b) (hb : b ≤ 2) : farGrades.getD a 0 ≤ farGrades.getD b 0 := by
  have all : ∀ y < 3, ∀ x < 3, x ≤ y → farGrades.getD x 0 ≤ farGrades.getD y 0 := by decide
  exact all b (by omega) a (by omega) h

theorem farGrades_getD_mem {a : Nat} (h : a ≤ 2) : farGrades.getD a 0 ∈ farGrades := by
  have all : ∀ x < 3, farGrades.getD x 0 ∈ farGrades := by decide
  exact all a (by omega)

/-- R212: the grade shown is the highest at which every device trained. -/
theorem farGrade_spec (grades : Nat) : farGrade grades ∈ farGrades ∧
    (∀ k, k < 16 → farGrade grades ≤ farGrades.getD (min 2 (bitsOf grades (2 * k + 1) (2 * k))) 0) ∧
    (farGrade grades = 14400 ∨ ∃ k, k < 16 ∧ farGrade grades = farGrades.getD (bitsOf grades (2 * k + 1) (2 * k)) 0) := by
  obtain ⟨hle, hall, hex⟩ := foldl_min_spec (fun k => bitsOf grades (2 * k + 1) (2 * k)) (List.range 16) 2
  refine ⟨farGrades_getD_mem hle, fun k hk => farGrades_mono (Nat.le_min.2 ⟨hle, hall k (List.mem_range.2 hk)⟩) (Nat.min_le_left _ _), ?_⟩
  rcases hex with h | ⟨k, hk, h⟩
  · exact .inl (congrArg (farGrades.getD · 0) h)
  · exact .inr ⟨k, List.mem_range.1 hk, congrArg (farGrades.getD · 0) h⟩

/-- R68, R69, R212: the device at the end of a Cowslip that passes: the grade shown, and a record for each port that is late. -/
def Device.gradeShown (d : Device) (grades : Nat) : Device :=
  (d.connected.filter fun n => (d.setFld .memCap Fd.memCapFarMts (farGrade grades)).portState n == 1).foldl
    (fun (d : Device) n => d.logBoot 0x0142 0 (n / 7)) (d.setFld .memCap Fd.memCapFarMts (farGrade grades))

theorem Device.within_gradeShown (d : Device) (grades : Nat) :
    Within (logRegs) (d.setFld .memCap Fd.memCapFarMts (farGrade grades)) (d.gradeShown grades) :=
  .foldl (fun a _ _ => (Within.refl _ a).logBoot _ _ _ (List.Subset.refl _)) _

theorem Device.connected_setFld (d : Device) (r : Reg) (f : RegField) (v : Nat) (h : Reg.bootBoard.offset ≠ r.offset) :
    (d.setFld r f v).connected = d.connected := by
  rw [Device.connected, Device.connected, Device.fld_setFld_ne _ _ _ _ _ _ h]

theorem Device.cowslip_passes {d : Device} (grades : Nat) (h : d.inStage 4 = true) (ht : d.boot.memTrained % 4294967296 = 4294967295) :
    ∃ code w, d.cowslip grades = (d.gradeShown grades).passStage 4 code 0 w := by
  have ht' : ¬ d.boot.memTrained % 2 ^ 32 ≠ 2 ^ 32 - 1 := by simpa using ht
  rw [Device.cowslip, if_pos h]
  dsimp only
  rw [if_neg ht', Device.connected_setFld _ _ _ _ (by decide)]
  exact ⟨_, _, rfl⟩

/-- R68, R212: Cowslip ends with every interface trained. -/
theorem cowslip_row {s : State} (grades : Nat) (hb : s.bringUp 4 = true) (ht : s.dev.boot.memTrained % 4294967296 = 4294967295) :
    ∃ t : State, exec (.cowslip grades) s = .next t ∧ t.pending = s.pending ∧ s.passed t 4 ∧ t.dev.mem = s.dev.mem ∧
      t.dev.fld .memCap Fd.memCapFarMts = farGrade grades := by
  obtain ⟨code, w, hq⟩ := Device.cowslip_passes grades (State.bringUp_inStage hb) ht
  have hg := s.quiet.dev.within_gradeShown grades
  generalize s.quiet.dev.gradeShown grades = e at hq hg
  have hs := e.within_passStage (s := 4) code 0 w (by decide)
  have hfld : ∀ r : Reg, r.offset ≠ Reg.memCap.offset → r.offset ∉ logRegs.map Reg.offset → e.reg r = s.dev.reg r := fun r h1 h2 =>
    (hg.regs r h2).trans (Device.reg_setReg_ne _ _ _ _ h1)
  obtain ⟨hrow, hpassed⟩ := pass_row code 0 w hb (exec_cowslip grades s) hq (hg.pins.trans (by simp; rfl)) (hg.flowDone.trans (by simp; rfl))
    (hfld _ (by decide) (by decide)) (hfld _ (by decide) (by decide)) (by decide) (by decide)
  refine ⟨_, hrow, rfl, hpassed, hs.mem.trans (hg.mem.trans (by simp; rfl)), ?_⟩
  have hlt : farGrade grades % 2 ^ 16 = farGrade grades := by
    have all : ∀ x ∈ farGrades, x % 2 ^ 16 = x := by decide
    exact all _ (farGrade_spec grades).1
  calc (e.passStage 4 code 0 w).fld .memCap Fd.memCapFarMts = e.fld .memCap Fd.memCapFarMts := hs.regs.fld (by decide) _
    _ = (s.quiet.dev.setFld .memCap Fd.memCapFarMts (farGrade grades)).fld .memCap Fd.memCapFarMts := hg.regs.fld (by decide) _
    _ = farGrade grades % 2 ^ 16 := Device.fld_setFld_self _ _ _ _ rfl (by decide) (by decide)
    _ = farGrade grades := hlt

/-! ### Campion and Yarrow -/

/-- R70, R71: the device at the end of a Campion that passes, but for the field repair record: memory reads zero. -/
def Device.memoryTested (d : Device) (rows : List Repair) : Device :=
  { d with mem := [], side := [], boot := { d.boot with newRepairs := d.boot.newRepairs ++ rows } }

theorem Device.campion_passes {d : Device} (rows : List Repair) (h : d.inStage 5 = true) :
    ∃ w, d.campion rows true = (d.memoryTested rows).writeField.passStage 5 0 0 w :=
  ⟨_, by rw [Device.campion, if_pos h]; exact if_neg (by decide)⟩

section
variable (d : Device)

theorem Device.sameRegs_writeField : d.sameRegs d.writeField [.bootDefect] :=
  Device.sameRegs_setFld _ _ _ _ List.mem_cons_self

@[simp] theorem Device.writeField_pins : d.writeField.pins = d.pins := by simp [Device.writeField]
@[simp] theorem Device.writeField_mem : d.writeField.mem = d.mem := by simp [Device.writeField]
@[simp] theorem Device.writeField_side : d.writeField.side = d.side := by simp [Device.writeField]
@[simp] theorem Device.writeField_flowDone : d.writeField.flowDone = d.flowDone := by simp [Device.writeField]
@[simp] theorem Device.writeField_boot :
    d.writeField.boot = { d.boot with field := d.boot.field ++ d.boot.newRepairs, newRepairs := [] } := by simp [Device.writeField]

/-- R67, R71: the record that goes to flash, with 132 bytes of signature. -/
theorem Device.writeField_flash : d.writeField.flash = { d.flash with
    fieldSig := true
    field := fieldBytes ((d.boot.map.map (·.serial)).getD 0) ((d.boot.field ++ d.boot.newRepairs).take 1024) ++
      (List.range 132).map (Config.freeByte d.free) } := by simp [Device.writeField]

end

/-- R70, R71: Campion ends with the repairs that its rows need. -/
theorem campion_row {s : State} (rows : List Repair) (hb : s.bringUp 5 = true) :
    ∃ (t : State) (sig : List Byte), exec (.campion rows true) s = .next t ∧ t.pending = s.pending ∧ s.passed t 5 ∧
      t.dev.mem = [] ∧ t.dev.side = [] ∧ t.dev.boot.field = s.dev.boot.field ++ (s.dev.boot.newRepairs ++ rows) ∧
      t.dev.flash.field = fieldBytes ((s.dev.boot.map.map (·.serial)).getD 0) (t.dev.boot.field.take 1024) ++ sig ∧ sig.length = 132 ∧
      t.dev.flash.fieldSig = true := by
  obtain ⟨w, hq⟩ := Device.campion_passes (d := s.quiet.dev) rows (State.bringUp_inStage hb)
  have same := (s.quiet.dev.memoryTested rows).sameRegs_writeField
  have hs := (s.quiet.dev.memoryTested rows).writeField.within_passStage (s := 5) 0 0 w (by decide)
  obtain ⟨hrow, hpassed⟩ := pass_row 0 0 w hb (exec_campion rows true s) hq (by simp; rfl) (by simp; rfl) (same _ (by decide))
    (same _ (by decide)) (by decide) (by decide)
  have hfield : (((s.quiet.dev.memoryTested rows).writeField).passStage 5 0 0 w).boot.field =
      s.dev.boot.field ++ (s.dev.boot.newRepairs ++ rows) :=
    (congrArg Boot.field hs.boot).trans (by rw [Device.writeField_boot]; rfl)
  have hflash := hs.flash.trans (s.quiet.dev.memoryTested rows).writeField_flash
  refine ⟨_, (List.range 132).map (Config.freeByte (s.quiet.dev.memoryTested rows).free), hrow, rfl, hpassed, hs.mem.trans (by simp; rfl),
    hs.side.trans (by simp; rfl), hfield, ?_, ?_, ?_⟩
  · dsimp only
    rw [hflash, hfield]
    rfl
  · simp
  · dsimp only
    rw [hflash]

/-- R67, R72: the repairs that Yarrow's ports needed go to flash, where it needed any. -/
def Device.repairsKept (d : Device) : Device := if d.boot.newRepairs = [] then d else d.writeField

theorem Device.repairsKept_keeps {α : Type} (g : Device → α) (h : g d.writeField = g d) : g (Device.repairsKept d) = g d := by
  unfold Device.repairsKept
  split
  · rfl
  · exact h

/-- R72: how many attempts Yarrow counts is open where a window failed: a free value. -/
theorem Device.yarrow_passes {d : Device} (h : d.inStage 6 = true) :
    ∃ free code attempts w, d.yarrow = ({ d.repairsKept with free := free } : Device).passStage 6 code attempts w := by
  rw [Device.yarrow, if_pos h]
  dsimp only
  by_cases hw : d.connected.any fun n => decide (0 < (d.port n).window)
  · rw [if_pos hw]
    exact ⟨_, _, _, _, rfl⟩
  · rw [if_neg hw]
    exact ⟨d.repairsKept.free, _, _, _, rfl⟩

/-- R72: Yarrow ends. -/
theorem yarrow_row {s : State} (hb : s.bringUp 6 = true) :
    ∃ t : State, exec .yarrow s = .next t ∧ t.pending = s.pending ∧ s.passed t 6 ∧ t.dev.mem = s.dev.mem ∧
      (s.dev.boot.newRepairs = [] → t.dev.flash = s.dev.flash) := by
  obtain ⟨free, code, attempts, w, hq⟩ := Device.yarrow_passes (State.bringUp_inStage hb)
  have hk : ∀ {α : Type} (g : Device → α), g s.quiet.dev.writeField = g s.quiet.dev → g s.quiet.dev.repairsKept = g s.quiet.dev :=
    fun g h => Device.repairsKept_keeps g h
  have same := s.quiet.dev.sameRegs_writeField
  have hs := Device.within_passStage (d := { s.quiet.dev.repairsKept with free := free }) (s := 6) code attempts w (by decide)
  obtain ⟨hrow, hpassed⟩ := pass_row code attempts w hb (exec_yarrow s) hq (hk Device.pins (by simp)) (hk Device.flowDone (by simp))
    (hk (·.reg .bootCtrl) (same _ (by decide))) (hk (·.reg .bootStatus) (same _ (by decide))) (by decide) (by decide)
  refine ⟨_, hrow, rfl, hpassed, hs.mem.trans (hk Device.mem (by simp)), fun hnone => hs.flash.trans ?_⟩
  have hkept : s.quiet.dev.repairsKept = s.quiet.dev := if_pos hnone
  exact (congrArg Device.flash hkept :)

/-- Settles O9, a row for each stage. -/
theorem bringUpStagesPass : Obligations.BringUpStagesPass := by
  refine ⟨fun s good hb hg => snowdrop_row hb hg, fun s hb hdir hsig hdigest hstep hlen hmajor => ?_,
    fun s i hb hi => memInterfaceTrained_row hb hi, fun s grades hb ht => ?_, fun s rows hb => campion_row rows hb,
    fun s hb => yarrow_row hb⟩
  · exact primrose_row hb (Device.imageFault_accepts (d := s.quiet.dev) hdir hsig hdigest hstep hlen hmajor)
  · obtain ⟨t, hrow, hpending, hpassed, hmem, hshown⟩ := cowslip_row grades hb ht
    exact ⟨t, hrow, hpending, hpassed, hmem, hshown ▸ farGrade_spec grades⟩

end Sys2Proof.Machine
end

section
/-! PROOF. O10: bring-up fails, halted or waiting for a push. -/

namespace Sys2Proof.Machine

theorem exec_celandine (selfTest cold : Bool) (s : State) : exec (.celandine selfTest cold) s = live (·.celandine selfTest cold) s := rfl
theorem exec_stageTimeout (s : State) : exec .stageTimeout s = live (·.stageTimeout) s := rfl

/-! ### What each stage does where it fails -/

section
variable {d : Device}

theorem Device.inStage_parts {k : Nat} (h : d.inStage k = true) :
    d.fld .bootStatus Fd.bootStatusState = 0 ∧ d.stage = k ∧ d.pins.thermHold = false := by
  simpa [Device.inStage, and_assoc] using h

theorem Device.inStage_other {k j : Nat} (h : d.inStage k = true) (hj : k ≠ j) : d.inStage j = false := by
  simp [Device.inStage, (Device.inStage_parts h).2.1, hj]

theorem Device.celandine_selfTest (cold : Bool) (h : d.inStage 3 = true) : ∃ w, d.celandine false cold = d.halt 3 0x0134 w :=
  ⟨_, by rw [Device.celandine, if_pos h]; exact if_pos rfl⟩

theorem Device.celandine_unsigned (cold : Bool) (h : d.inStage 3 = true) (hs : d.flash.mapSig = false) :
    ∃ w, d.celandine true cold = d.halt 3 0x0131 w :=
  ⟨_, by
    rw [Device.celandine, if_pos h]
    dsimp only
    rw [if_neg (by decide)]
    exact if_pos (by simp [hs])⟩

theorem Device.cowslip_untrained (grades : Nat) (h : d.inStage 4 = true) (ht : d.boot.memTrained % 4294967296 ≠ 4294967295) :
    ∃ w, d.cowslip grades = d.halt 4 0x0141 w :=
  ⟨_, by rw [Device.cowslip, if_pos h]; exact if_pos ht⟩

theorem Device.campion_unrepairable (rows : List Repair) (h : d.inStage 5 = true) : ∃ w, d.campion rows false = d.halt 5 0x0151 w :=
  ⟨_, by rw [Device.campion, if_pos h]; exact if_pos rfl⟩

theorem Device.stageTimeout_snowdrop (h : d.inStage 1 = true) : d.stageTimeout = d.freeValue.2.halt 1 0x0113 d.freeValue.1 := if_pos h

theorem Device.stageTimeout_primrose (h : d.inStage 2 = true) : d.stageTimeout = d.waitPush 0x0125 :=
  (if_neg (by rw [Device.inStage_other h (by decide)]; exact Bool.false_ne_true)).trans (if_pos h)

/-- R57, R61: an image whose signature does not verify leads to WAIT_PUSH. -/
theorem Device.primrose_unsigned (h : d.inStage 2 = true) (hdir : d.flash.dirOk = true) (hsig : d.flash.image.sigOk = false) :
    d.primrose = d.waitPush 0x0122 := by
  have hf : d.imageFault d.flash.image = (some 0x0122, d) := by simp [Device.imageFault, hdir, hsig]
  rw [Device.primrose, if_pos h, hf]

end

/-! ### Rows that fail -/

/-- R57: a row that halts bring-up in its stage. -/
theorem halts_row {s : State} {i : Instr} {f : Device → Device} {e : Device} {k : Nat} {code : Nat} {w : Word} (hb : s.bringUp k = true)
    (hi : exec i s = live f s) (hf : f s.quiet.dev = e.halt k code w) (hc : code < 65536) (same : s.quiet.dev.PowerSame e)
    (hst : e.stage = s.dev.stage) : ∃ t : State, exec i s = .next t ∧ t.pending = s.pending ∧
      t.dev.fld .bootStatus Fd.bootStatusState = 2 ∧ t.dev.fld .bootStatus Fd.bootStatusFailCode = code ∧ t.dev.stage = k ∧
      t.dev.mem = s.dev.mem ∧ t.dev.flash = s.dev.flash := by
  obtain ⟨-, -, -, -, hstage, -⟩ := State.bringUp_parts hb
  obtain ⟨hstate, hcode, hkeep⟩ := e.halt_status k code w hc
  have all := same.trans (e.powerSame_halt k code w)
  exact ⟨_, live_row (State.bringUp_running hb) hi hf all.flowDone, rfl, hstate, hcode, hkeep.trans (hst.trans hstage), all.mem, all.flash⟩

theorem Device.sameButRegs_waitPush (d : Device) (code : Nat) (o : List Out) : d.sameButRegs (({ d with out := o } : Device).waitPush code) := by
  unfold Device.sameButRegs Device.waitPush Device.setFld Device.setReg
  simp only [show Reg.bootStatus.inRange = true from rfl, if_true]

/-- R57, R62: a row of Primrose that leads to WAIT_PUSH. -/
theorem waits_row {s : State} {i : Instr} {f : Device → Device} {code : Nat} (hb : s.bringUp 2 = true)
    (hi : exec i s = live f s) (hf : f s.quiet.dev = s.quiet.dev.waitPush code) (hc : code < 65536) :
    ∃ t : State, exec i s = .next t ∧ t.pending = s.pending ∧ t.dev.waitsPush = true ∧
      t.dev.fld .bootStatus Fd.bootStatusFailCode = code ∧ s.dev.sameButRegs t.dev := by
  obtain ⟨hwaits, hcode, -⟩ := s.quiet.dev.waitPush_status hc
  exact ⟨_, live_row (State.bringUp_running hb) hi hf (s.quiet.dev.within_waitPush code).flowDone, rfl, hwaits, hcode,
    s.dev.sameButRegs_waitPush code []⟩

/-- Settles O10, a row for each failure. -/
theorem bringUpFailures : Obligations.BringUpFailures := by
  have rails : ∀ s : State, s.quiet.dev.railsRead.stage = s.dev.stage := fun s =>
    Device.railsRead_keeps Device.stage (fun _ _ => rfl) s.quiet.dev
  refine ⟨fun s good refOk hb hg => ?_, fun s good hb hg => ?_, fun s cold hb => ?_, fun s cold hb hs => ?_, fun s grades hb ht => ?_,
    fun s rows hb => ?_, fun s hb => ?_, fun s hb hdir hsig => ?_, fun s hb => ?_⟩
  · exact halts_row hb (exec_snowdrop good refOk s) (Device.snowdrop_fails refOk (State.bringUp_inStage hb) hg) (by decide)
      (Device.powerSame_railsRead _) (rails s)
  · exact halts_row hb (exec_snowdrop good false s) (Device.snowdrop_noReference (State.bringUp_inStage hb) hg) (by decide)
      (Device.powerSame_railsRead _) (rails s)
  · obtain ⟨w, hq⟩ := Device.celandine_selfTest cold (State.bringUp_inStage hb)
    exact halts_row hb (exec_celandine false cold s) hq (by decide) (.refl _) rfl
  · obtain ⟨w, hq⟩ := Device.celandine_unsigned cold (State.bringUp_inStage hb) hs
    exact halts_row hb (exec_celandine true cold s) hq (by decide) (.refl _) rfl
  · obtain ⟨w, hq⟩ := Device.cowslip_untrained grades (State.bringUp_inStage hb) ht
    exact halts_row hb (exec_cowslip grades s) hq (by decide) (.refl _) rfl
  · obtain ⟨w, hq⟩ := Device.campion_unrepairable rows (State.bringUp_inStage hb)
    exact halts_row hb (exec_campion rows false s) hq (by decide) (.refl _) rfl
  · exact halts_row hb (exec_stageTimeout s) (Device.stageTimeout_snowdrop (State.bringUp_inStage hb)) (by decide) rfl rfl
  · exact waits_row hb (exec_primrose s) (Device.primrose_unsigned (State.bringUp_inStage hb) hdir hsig) (by decide)
  · exact waits_row hb (exec_stageTimeout s) (Device.stageTimeout_primrose (State.bringUp_inStage hb)) (by decide)

end Sys2Proof.Machine
end

section
/-! PROOF. O11: Celandine passes. -/

namespace Sys2Proof.Machine

/-! ### Lanes and domains -/

/-- The registers in which the lanes of the ports and the power domains show. -/
def mapRegs : List Reg := .bootDefect :: .pwrMeasure :: ((List.range 28).map Reg.lnkPortStatus ++ (List.range 403).map Reg.pwrDomStatus)

theorem bootDefect_mem_mapRegs : Reg.bootDefect ∈ mapRegs := by simp [mapRegs]
theorem pwrMeasure_mem_mapRegs : Reg.pwrMeasure ∈ mapRegs := by simp [mapRegs]

theorem portStatus_mem_mapRegs {n : Nat} (hn : n < 28) : Reg.lnkPortStatus n ∈ mapRegs := by
  simp only [mapRegs, List.mem_cons, List.mem_append, List.mem_map, List.mem_range]
  exact .inr (.inr (.inl ⟨n, hn, rfl⟩))

theorem domStatus_mem_mapRegs {n : Nat} (hn : n < 403) : Reg.pwrDomStatus n ∈ mapRegs := by
  simp only [mapRegs, List.mem_cons, List.mem_append, List.mem_map, List.mem_range]
  exact .inr (.inr (.inr ⟨n, hn, rfl⟩))

theorem Device.Within.of_power {rs : List Reg} (d : Device) (p : Power) : Within rs d { d with power := p } :=
  .of_powerSame ((Device.PowerSame.refl d).power p) (Device.sameRegs_of_regs _ rfl)

theorem Device.within_lanes (d : Device) (f : Device → Nat → Nat) : Within mapRegs d
    ((List.range 28).foldl (fun (d : Device) n => d.setFld (.lnkPortStatus n) Fd.lnkPortStatusRepaired (f d n)) d) :=
  .foldl (fun a _ hn => (Within.refl _ a).setFld _ _ (portStatus_mem_mapRegs (List.mem_range.1 hn))) d

theorem Device.within_countLanes (d : Device) : Within mapRegs d d.countLanes := (Within.refl _ d).setFld _ _ bootDefect_mem_mapRegs

theorem Device.within_assignLanes (d : Device) (m : DefectMap) : Within mapRegs d (d.assignLanes m) := by
  unfold Device.assignLanes
  exact (d.within_lanes _).trans (Device.within_countLanes _)

/-- R39, R54: one domain at the start of the power manager. -/
def Device.domainStarted (d : Device) (m : DefectMap) (cold : Bool) (n : Nat) : Device :=
  let st := d.domainAtStart m cold n
  let d := d.setDom n st
  let d := if st = 2 ∧ switched n then d.setRail n 60 else d
  if st = 2 ∧ 304 ≤ n ∧ switched n = false then d.setFld (.pwrDomStatus n) Fd.pwrDomStatusAssigned 1 else d

theorem Device.powerDomains_eq (d : Device) (m : DefectMap) (cold : Bool) : d.powerDomains m cold =
    ((List.range 403).foldl (fun (d : Device) n => d.domainStarted m cold n)
      ((List.range 4).foldl (fun (d : Device) die => d.setFabric die 80) d)).showGrants := by
  unfold Device.powerDomains Device.domainStarted
  rfl

theorem Device.within_domainStarted (d : Device) (m : DefectMap) (cold : Bool) {n : Nat} (hn : n < 403) :
    Within mapRegs d (d.domainStarted m cold n) := by
  have hm := domStatus_mem_mapRegs hn
  have hdom : Within mapRegs d (d.setDom n (d.domainAtStart m cold n)) := (Within.refl _ d).setFld _ _ hm
  unfold Device.domainStarted
  dsimp only
  split <;> split
  · exact (hdom.setFld _ _ hm).setFld _ _ hm
  · exact hdom.setFld _ _ hm
  · exact hdom.setFld _ _ hm
  · exact hdom

theorem Device.within_showGrants (d : Device) : Within mapRegs d d.showGrants :=
  ((Within.refl _ d).setFld _ _ pwrMeasure_mem_mapRegs).setFld _ _ pwrMeasure_mem_mapRegs

theorem Device.within_powerDomains (d : Device) (m : DefectMap) (cold : Bool) : Within mapRegs d (d.powerDomains m cold) := by
  rw [Device.powerDomains_eq]
  exact ((Within.foldl (fun a _ _ => .of_power a _) d).trans
    (.foldl (fun a _ hn => a.within_domainStarted m cold (List.mem_range.1 hn)) _)).trans (Device.within_showGrants _)

/-! ### The device at the end of Celandine -/

/-- R66, R67, R75: Celandine has read the defect map, the field repair record and the policy. -/
def Device.mapRead (d : Device) (m : DefectMap) (field : List Repair) : Device :=
  ({ d with boot := { d.boot with map := some m, field := field, board := d.flash.board } } : Device).takePolicy

/-- R66: what registers show of the defect map, the field entries and the board. -/
def Device.mapShown (d : Device) (m : DefectMap) (entries : Nat) : Device :=
  let d := d.setFld .bootDefect Fd.bootDefectMapVersion m.version.toNat
  let d := d.setFld .bootDefect Fd.bootDefectFieldRepairs (min 255 entries)
  let d := d.setFld .bootDefect Fd.bootDefectSparesD0 (sparesOn m 0)
  let d := d.setFld .bootDefect Fd.bootDefectSparesD1 (sparesOn m 1)
  let d := d.setFld .bootDefect Fd.bootDefectSparesD2 (sparesOn m 2)
  let d := d.setFld .bootDefect Fd.bootDefectSparesD3 (sparesOn m 3)
  let d := d.setFld .bootBoard Fd.bootBoardPortConnected (ofLeBytes ((d.flash.board.drop 8).take 4))
  (d.setReg .glbSerialLo (serialWord m.serial 0)).setReg .glbSerialHi (serialWord m.serial 8)

/-- A field repair record that fails its checks leaves a record. -/
def Device.fieldChecked (d : Device) (good : Bool) : Device := if good then d else d.logBoot 0x0133 0

/-- R39, R66: the power manager starts with the map in force. -/
def Device.mapInForce (d : Device) (m : DefectMap) (field : List Repair) (good cold : Bool) : Device :=
  ((((d.mapRead m field).fieldChecked good).mapShown m field.length).assignLanes m).powerDomains m cold

/-- The entries of a field repair record that are in force. -/
def fieldInForce (m : DefectMap) (sigOk : Bool) (r : FieldRecord) : List Repair := if fieldValid m sigOk r then r.repairs else []

theorem Device.celandine_passes {d : Device} (cold : Bool) (h : d.inStage 3 = true) (hsig : d.flash.mapSig = true)
    (hwhole : (parseMap d.flash.map).whole = true) (hserial : (parseMap d.flash.map).serial = d.flash.idSerial)
    (hstep : (parseMap d.flash.map).stepping = 0xA1) (hm : mapConsistent (parseMap d.flash.map) = true) :
    let m := parseMap d.flash.map
    let good := fieldValid m d.flash.fieldSig (parseField d.flash.field)
    ∃ w, d.celandine true cold =
      (d.mapInForce m (fieldInForce m d.flash.fieldSig (parseField d.flash.field)) good cold).deriveAlias.passStage 3
        (if good then 0 else 0x0133) 0 w := by
  have hbad : (!d.flash.mapSig || !(parseMap d.flash.map).whole || (parseMap d.flash.map).serial != d.flash.idSerial ||
      (parseMap d.flash.map).stepping != 0xA1) = false := by simp [hsig, hwhole, hserial, hstep]
  dsimp only
  rw [Device.celandine, if_pos h]
  dsimp only
  rw [if_neg (by decide), if_neg (by rw [hbad]; decide), if_neg (by rw [hm]; decide)]
  exact ⟨_, rfl⟩

section
variable (d : Device) (m : DefectMap) (field : List Repair) (good cold : Bool)

/-- The registers that show the defect map, the lanes and the domains, and those of logging. -/
def shownRegs : List Reg := .bootBoard :: .glbSerialLo :: .glbSerialHi :: (mapRegs ++ logRegs)

theorem mapRegs_subset_shownRegs : mapRegs ⊆ shownRegs := fun _ h =>
  List.mem_cons_of_mem _ (List.mem_cons_of_mem _ (List.mem_cons_of_mem _ (List.mem_append_left _ h)))

theorem logRegs_subset_shownRegs : logRegs ⊆ shownRegs := fun _ h =>
  List.mem_cons_of_mem _ (List.mem_cons_of_mem _ (List.mem_cons_of_mem _ (List.mem_append_right _ h)))

theorem Device.within_mapShown (n : Nat) : Within shownRegs d (d.mapShown m n) := by
  have hdefect : Reg.bootDefect ∈ shownRegs := mapRegs_subset_shownRegs bootDefect_mem_mapRegs
  exact (((((((((Within.refl _ d).setFld _ _ hdefect).setFld _ _ hdefect).setFld _ _ hdefect).setFld _ _ hdefect).setFld _ _
    hdefect).setFld _ _ hdefect).setFld _ _ (by simp [shownRegs])).setReg _ (by simp [shownRegs])).setReg _ (by simp [shownRegs])

theorem Device.within_fieldChecked : Within shownRegs d (d.fieldChecked good) := by
  unfold Device.fieldChecked
  split
  · exact .refl _ d
  · exact (Within.refl _ d).logBoot _ _ _ logRegs_subset_shownRegs

theorem Device.within_mapInForce : Within shownRegs (d.mapRead m field) (d.mapInForce m field good cold) :=
  (((Device.within_fieldChecked _ good).trans (Device.within_mapShown _ m _)).trans
    ((Device.within_assignLanes _ m).mono mapRegs_subset_shownRegs)).trans
    ((Device.within_powerDomains _ m cold).mono mapRegs_subset_shownRegs)

theorem Device.reg_mapInForce {r : Reg} (h : r.offset ∉ mapRegs.map Reg.offset) : (d.mapInForce m field good cold).reg r =
    (((d.mapRead m field).fieldChecked good).mapShown m field.length).reg r :=
  ((Device.within_powerDomains _ m cold).regs r h).trans ((Device.within_assignLanes _ m).regs r h)

theorem serialLo_not_mapRegs : Reg.glbSerialLo.offset ∉ mapRegs.map Reg.offset := by decide +kernel
theorem serialHi_not_mapRegs : Reg.glbSerialHi.offset ∉ mapRegs.map Reg.offset := by decide +kernel
theorem bootCtrl_not_shownRegs : Reg.bootCtrl.offset ∉ shownRegs.map Reg.offset := by decide +kernel
theorem bootStatus_not_shownRegs : Reg.bootStatus.offset ∉ shownRegs.map Reg.offset := by decide +kernel

/-- R66: the serial number of the map is shown. -/
theorem Device.serial_mapInForce : (d.mapInForce m field good cold).reg .glbSerialLo = serialWord m.serial 0 ∧
    (d.mapInForce m field good cold).reg .glbSerialHi = serialWord m.serial 8 := by
  rw [Device.reg_mapInForce _ _ _ _ _ serialLo_not_mapRegs, Device.reg_mapInForce _ _ _ _ _ serialHi_not_mapRegs]
  exact ⟨(Device.reg_setReg_ne _ _ _ _ (by decide)).trans (Device.reg_setReg_self _ _ _ rfl), Device.reg_setReg_self _ _ _ rfl⟩

theorem Device.reg_mapRead {r : Reg} (h : r.offset ≠ Reg.bootPolicy.offset) : (d.mapRead m field).reg r = d.reg r :=
  Device.reg_setReg_ne _ _ _ _ h

theorem Device.pins_mapRead : (d.mapRead m field).pins = d.pins := by simp [Device.mapRead, Device.takePolicy]
theorem Device.flowDone_mapRead : (d.mapRead m field).flowDone = d.flowDone := by simp [Device.mapRead, Device.takePolicy]
theorem Device.mem_mapRead : (d.mapRead m field).mem = d.mem := by simp [Device.mapRead, Device.takePolicy]

/-- R75: the flash stays where no value of BOOT_POLICY waits to be written. -/
theorem Device.flash_mapRead (h : d.boot.policyWritten = none) : (d.mapRead m field).flash = d.flash := by
  simp [Device.mapRead, Device.takePolicy, h]

/-- What `Device.deriveAlias` leaves alone. -/
theorem Device.deriveAlias_keeps {α : Type} (g : Device → α) (hr : ∀ d v, g (Device.setFld d .secStatus Fd.secStatusAliasValid v) = g d)
    (hm : ∀ (d : Device) n x, g { d with free := n, mgmt := x } = g d) : g d.deriveAlias = g d := (hr _ _).trans (hm _ _ _)

end

/-- R39: the power manager runs once bring-up has passed Celandine. -/
theorem State.managed_of_passed {s t : State} (h : s.passed t 3) (hcool : t.dev.pins.thermHold = false) : t.dev.managed = true := by
  by_cases hhold : s.dev.fld .bootCtrl Fd.bootCtrlHoldBefore = 4
  · obtain ⟨-, hstage, hstate⟩ := h.2 hhold
    have hstage' : t.dev.fld .bootStatus Fd.bootStatusStage = 3 := hstage
    simp [Device.managed, Device.halted, hstage', hstate, hcool]
  · obtain ⟨-, -, -, hstate, hstage, -⟩ := State.bringUp_parts (h.1 hhold)
    have hstage' : t.dev.fld .bootStatus Fd.bootStatusStage = 4 := hstage
    simp [Device.managed, Device.halted, hstage', hstate, hcool]

/-- R56: the report of a stage that has ended, from Primrose on. -/
theorem Device.passStage_report (d : Device) {s : Nat} (code attempts : Nat) (w : Word) (h2 : 2 ≤ s) (h7 : s ≤ 6) (hc : code < 65536) :
    (d.passStage s code attempts w).fld (.bootReportA (s - 1)) Fd.bootReportAResult = (if code = 0 then 2 else 3) ∧
      (d.passStage s code attempts w).fld (.bootReportA (s - 1)) Fd.bootReportAFailCode = code := by
  have hin : (Reg.bootReportA (s - 1)).offset ∉ (beginRegs (s + 1)).map Reg.offset := by
    have all : ∀ k < 6, 1 ≤ k → (Reg.bootReportA k).offset ∉ (beginRegs (k + 2)).map Reg.offset := by decide +kernel
    have := all (s - 1) (by omega) (by omega)
    rwa [show s - 1 + 2 = s + 1 by omega] at this
  have same := (d.within_afterReport code attempts w h2).regs
  rw [same.fld hin, same.fld hin]
  exact ⟨d.report_result code attempts w (by omega) (by omega) (by split <;> decide),
    d.report_code attempts w (by omega) (by omega) (by split <;> decide) hc⟩

/-- The device at the end of Celandine, before its report, by what the stage's end looks at. -/
structure Device.CelandineEnds (d e : Device) (m : DefectMap) (field : List Repair) : Prop where
  pins : e.pins = d.pins
  flowDone : e.flowDone = d.flowDone
  mem : e.mem = d.mem
  map : e.boot.map = some m
  field : e.boot.field = field
  flash : d.boot.policyWritten = none → e.flash = d.flash
  aliasValid : e.fld .secStatus Fd.secStatusAliasValid = 1
  ctrl : e.reg .bootCtrl = d.reg .bootCtrl
  status : e.reg .bootStatus = d.reg .bootStatus
  serialLo : e.reg .glbSerialLo = serialWord m.serial 0
  serialHi : e.reg .glbSerialHi = serialWord m.serial 8

theorem Device.celandineEnds (d : Device) (m : DefectMap) (field : List Repair) (good cold : Bool) :
    d.CelandineEnds (d.mapInForce m field good cold).deriveAlias m field := by
  have h := d.within_mapInForce m field good cold
  obtain ⟨hlo, hhi⟩ := d.serial_mapInForce m field good cold
  generalize d.mapInForce m field good cold = e at h hlo hhi
  have reg : ∀ r : Reg, r.offset ≠ Reg.secStatus.offset → e.deriveAlias.reg r = e.reg r := fun r hr =>
    Device.deriveAlias_keeps e (fun d => d.reg r) (fun _ _ => Device.reg_setReg_ne _ _ _ _ hr) (fun _ _ _ => rfl)
  have kept : ∀ r : Reg, r.offset ≠ Reg.secStatus.offset → r.offset ≠ Reg.bootPolicy.offset → r.offset ∉ shownRegs.map Reg.offset →
      e.deriveAlias.reg r = d.reg r := fun r h1 h2 h3 => (reg r h1).trans ((h.regs r h3).trans (d.reg_mapRead m field h2))
  have boot : e.deriveAlias.boot = e.boot := e.deriveAlias_keeps Device.boot (by simp) (fun _ _ _ => rfl)
  constructor
  case pins => exact (e.deriveAlias_keeps Device.pins (by simp) (fun _ _ _ => rfl)).trans (h.pins.trans (d.pins_mapRead m field))
  case flowDone =>
    exact (e.deriveAlias_keeps Device.flowDone (by simp) (fun _ _ _ => rfl)).trans (h.flowDone.trans (d.flowDone_mapRead m field))
  case mem => exact (e.deriveAlias_keeps Device.mem (by simp) (fun _ _ _ => rfl)).trans (h.mem.trans (d.mem_mapRead m field))
  case map => rw [boot, h.boot]; simp [Device.mapRead, Device.takePolicy]
  case field => rw [boot, h.boot]; simp [Device.mapRead, Device.takePolicy]
  case flash =>
    intro hp
    exact (e.deriveAlias_keeps Device.flash (by simp) (fun _ _ _ => rfl)).trans (h.flash.trans (d.flash_mapRead m field hp))
  case aliasValid => exact Device.fld_setFld_self _ _ _ _ rfl (by decide) (by decide)
  case ctrl => exact kept _ (by decide) (by decide) bootCtrl_not_shownRegs
  case status => exact kept _ (by decide) (by decide) bootStatus_not_shownRegs
  case serialLo => exact (reg _ (by decide)).trans hlo
  case serialHi => exact (reg _ (by decide)).trans hhi

/-- Settles O11: Celandine's checks hold, so it ends with the map in force, and its report follows the field repair record. -/
theorem celandinePasses : Obligations.CelandinePasses := by
  intro s cold hb m r hsig hwhole hserial hstep hm
  obtain ⟨w, hq⟩ := Device.celandine_passes (d := s.quiet.dev) cold (State.bringUp_inStage hb) hsig hwhole hserial hstep hm
  have he := s.quiet.dev.celandineEnds m (fieldInForce m s.dev.flash.fieldSig r) (fieldValid m s.dev.flash.fieldSig r) cold
  generalize hend : (s.quiet.dev.mapInForce m (fieldInForce m s.dev.flash.fieldSig r) (fieldValid m s.dev.flash.fieldSig r) cold).deriveAlias = e
    at he
  have hq' : s.quiet.dev.celandine true cold = e.passStage 3 (if fieldValid m s.dev.flash.fieldSig r then 0 else 0x0133) 0 w :=
    hend ▸ hq
  have hs := e.within_passStage (s := 3) (if fieldValid m s.dev.flash.fieldSig r then 0 else 0x0133) 0 w (by decide)
  have hreport := e.passStage_report (s := 3) (code := if fieldValid m s.dev.flash.fieldSig r then 0 else 0x0133) 0 w (by decide) (by decide)
    (by split <;> decide)
  obtain ⟨hrow, hpassed⟩ := pass_row _ 0 w hb (exec_celandine true cold s) hq' he.pins he.flowDone he.ctrl he.status (by decide) (by decide)
  have hcool := (congrArg Pins.thermHold (hs.pins.trans he.pins)).trans (State.bringUp_parts hb).2.2.2.2.2
  have hboot := hs.boot
  have hfield : (e.passStage 3 (if fieldValid m s.dev.flash.fieldSig r then 0 else 0x0133) 0 w).boot.field =
      fieldInForce m s.dev.flash.fieldSig r := (congrArg Boot.field hboot).trans he.field
  refine ⟨_, hrow, rfl, hpassed, State.managed_of_passed hpassed hcool, (congrArg Boot.map hboot).trans he.map, hs.mem.trans he.mem,
    (hs.regs.fld (by decide) _).trans he.aliasValid, (hs.regs _ (by decide)).trans he.serialLo, (hs.regs _ (by decide)).trans he.serialHi,
    fun hp => hs.flash.trans (he.flash hp), fun hgood => ?_, fun hbad => ?_⟩
  · exact ⟨hreport.1.trans (by simp [hgood]), hfield.trans (by simp [fieldInForce, hgood])⟩
  · exact ⟨hreport.1.trans (by simp [hbad]), hreport.2.trans (by simp [hbad]), hfield.trans (by simp [fieldInForce, hbad])⟩

end Sys2Proof.Machine
end

section
/-! PROOF. O13: the release of a hold, pushes of an image, the flash write and the boot policy. -/

namespace Sys2Proof.Machine

theorem exec_bootHoldRelease (w : Word) (s : State) : exec (.bootHoldRelease w) s = early (·.bootCtrlWrite w) s := rfl
theorem exec_bootPushGo (w : Word) (s : State) : exec (.bootPushGo w) s = early (·.pushGo w) s := rfl
theorem exec_bootPushComplete (i : Image) (readError : Bool) (s : State) :
    exec (.bootPushComplete i readError) s = live (·.pushComplete i readError) s := rfl
theorem exec_imageFlashWrite (s : State) : exec .imageFlashWrite s = going (·.flashWrite) s := rfl
theorem exec_imageFlashWriteComplete (s : State) : exec .imageFlashWriteComplete s = going (·.flashWritten) s := rfl
theorem exec_bootPolicyWrite (w : Word) (s : State) : exec (.bootPolicyWrite w) s = early (·.bootPolicyWrite w) s := rfl

/-! ### Rows of the blocks that answer early, and rows that go on until HALTED -/

section
variable {s : State} {i : Instr} {f : Device → Device} {e : Device}

/-- A row of a block that answers early, whose operation gives e. -/
theorem early_row (hs : s.answering = true) (hi : exec i s = early f s) (hf : f s.quiet.dev = e) (hd : e.flowDone = s.dev.flowDone) :
    exec i s = .next { s with dev := e } := by
  rw [hi, early_answering f hs, hf, Device.settleFlows_nil _ (hd.trans (State.answering_flowDone hs))]

theorem State.going_parts (h : s.going = true) : s.running = true ∧ s.dev.halted = false := by simpa [State.going] using h

/-- A row that goes on until bring-up has HALTED, whose operation gives e. -/
theorem going_row (hs : s.going = true) (hi : exec i s = going f s) (hf : f s.quiet.dev = e) (hd : e.flowDone = s.dev.flowDone) :
    exec i s = .next { s with dev := e } := by
  obtain ⟨hr, hh⟩ := State.going_parts hs
  have hh' : s.quiet.dev.halted = false := hh
  exact live_row hr hi ((if_neg (by rw [hh']; exact Bool.false_ne_true)).trans hf) hd

theorem State.going_of_inService (h : s.inService = true) : s.going = true := by
  obtain ⟨hr, hready⟩ : s.running = true ∧ s.dev.ready = true := by simpa [State.inService] using h
  have hstate : s.dev.fld .bootStatus Fd.bootStatusState = 1 := by simpa [Device.ready] using hready
  simp [State.going, hr, Device.halted, hstate]

end

/-- A field of a word lies below its range. -/
theorem fieldOf_mod (w : Word) (hi lo : Nat) : fieldOf w hi lo % 2 ^ (hi + 1 - lo) = fieldOf w hi lo := Nat.mod_mod _ _

/-! ### The release of a hold -/

/-- R75: BOOT_CTRL takes its fields. -/
def Device.ctrlTaken (d : Device) (w : Word) : Device :=
  (d.setFld .bootCtrl Fd.bootCtrlNextPush (fieldOf w 8 8)).setFld .bootCtrl Fd.bootCtrlHoldBefore (fieldOf w 3 0)

theorem Device.within_ctrlTaken (d : Device) (w : Word) : Within [.bootCtrl] d (d.ctrlTaken w) :=
  ((Within.refl _ d).setFld _ _ List.mem_cons_self).setFld _ _ List.mem_cons_self

theorem Device.bootCtrlWrite_releases {d : Device} {w : Word} (hw : fieldOf w 3 0 = 0) (hstate : d.fld .bootStatus Fd.bootStatusState = 4)
    (hcool : d.pins.thermHold = false) : d.bootCtrlWrite w = (d.ctrlTaken w).beginStage (d.stage + 1) := by
  have same := d.within_ctrlTaken w
  have hst : (d.ctrlTaken w).stage = d.stage := same.regs.fld (by decide) _
  have hstate' := (same.regs.fld (r := .bootStatus) (by decide) Fd.bootStatusState).trans hstate
  have hcool' := (congrArg Pins.thermHold same.pins).trans hcool
  exact (if_pos ⟨hw, hstate', hcool'⟩).trans (by rw [← Device.ctrlTaken, hst])

theorem Device.ctrlTaken_fields (d : Device) (w : Word) : (d.ctrlTaken w).fld .bootCtrl Fd.bootCtrlHoldBefore = fieldOf w 3 0 ∧
    (d.ctrlTaken w).fld .bootCtrl Fd.bootCtrlNextPush = fieldOf w 8 8 := by
  refine ⟨(Device.fld_setFld_self _ _ _ _ rfl (by decide) (by decide)).trans (fieldOf_mod w 3 0), ?_⟩
  exact (Device.fld_setFld_apart _ _ _ (by decide)).trans ((Device.fld_setFld_self _ _ _ _ rfl (by decide) (by decide)).trans (fieldOf_mod w 8 8))

theorem bootCtrl_not_begin {s : Nat} (hs : s ≤ 7) : Reg.bootCtrl.offset ∉ (beginRegs s).map Reg.offset := by
  have all : ∀ k < 8, Reg.bootCtrl.offset ∉ (beginRegs k).map Reg.offset := by decide
  exact all s (by omega)

/-- R75: HOLD_BEFORE 0 releases bring-up. -/
theorem bootHoldRelease_row {s : State} {w : Word} (ha : s.answering = true) (hstate : s.dev.fld .bootStatus Fd.bootStatusState = 4)
    (hcool : s.dev.pins.thermHold = false) (hst : s.dev.stage ≤ 6) (hw : fieldOf w 3 0 = 0) :
    ∃ t : State, exec (.bootHoldRelease w) s = .next t ∧ t.pending = s.pending ∧ t.bringUp (s.dev.stage + 1) = true ∧
      t.dev.fld .bootCtrl Fd.bootCtrlHoldBefore = 0 ∧ t.dev.fld .bootCtrl Fd.bootCtrlNextPush = fieldOf w 8 8 ∧ t.dev.mem = s.dev.mem := by
  obtain ⟨hr, hans⟩ := State.answering_parts ha
  have h2 : 2 ≤ s.dev.stage := by simpa [Device.answers] using hans
  obtain ⟨hawake, hflow⟩ := State.running_parts hr
  have hq := Device.bootCtrlWrite_releases (d := s.quiet.dev) hw hstate hcool
  have ht := s.quiet.dev.within_ctrlTaken w
  obtain ⟨hhold, hpush⟩ := s.quiet.dev.ctrlTaken_fields w
  generalize s.quiet.dev.ctrlTaken w = e at hq ht hhold hpush
  have hs := e.within_beginStage (s.dev.stage + 1) (by omega)
  obtain ⟨hst', hzero⟩ := e.beginStage_status (s.dev.stage + 1) (by omega) (by omega)
  have hpins := hs.pins.trans ht.pins
  have hf := hs.flowDone.trans ht.flowDone
  have hn := bootCtrl_not_begin (s := s.dev.stage + 1) (by omega)
  refine ⟨_, early_row ha (exec_bootHoldRelease w s) hq hf, rfl, ?_, ((hs.regs.fld hn _).trans hhold).trans hw, (hs.regs.fld hn _).trans hpush,
    hs.mem.trans ht.mem⟩
  exact State.bringUp_of ((Device.awake_congr hpins).trans hawake) (hf.trans hflow) hst' hzero ((congrArg Pins.thermHold hpins).trans hcool)

/-! ### GO -/

/-- R62, R75: BOOT_PUSH_CTRL takes the length of an image. -/
def Device.lengthTaken (d : Device) (w : Word) : Device := d.setFld .bootPushCtrl Fd.bootPushCtrlLength (fieldOf w 63 32)

theorem Device.pushSame_lengthTaken (d : Device) (w : Word) : d.PushSame (d.lengthTaken w) :=
  (PushSame.refl d).setFld _ _ List.mem_cons_self

theorem Device.length_lengthTaken (d : Device) (w : Word) : (d.lengthTaken w).fld .bootPushCtrl Fd.bootPushCtrlLength = fieldOf w 63 32 :=
  (Device.fld_setFld_self _ _ _ _ rfl (by decide) (by decide)).trans (fieldOf_mod w 63 32)

section
variable {d : Device} {w : Word}

theorem Device.pushGo_starts (hgo : bitOf w.toNat 0 = true) (hw : d.waitsPush = true) (hp : d.boot.pushing = false) :
    d.pushGo w = (d.lengthTaken w).startPush (d.fld .bootPushList Fd.bootPushListEntries) (fieldOf w 63 32) := by
  have same := d.pushSame_lengthTaken w
  have hlist : (d.lengthTaken w).fld .bootPushList Fd.bootPushListEntries = d.fld .bootPushList Fd.bootPushListEntries :=
    same.regs.fld (by decide) _
  have hboot : (d.lengthTaken w).boot = d.boot := Device.setFld_boot _ _ _ _
  refine (if_pos hgo).trans ((if_pos ⟨same.waitsPush.trans hw, ?_⟩).trans (by rw [← Device.lengthTaken, hlist]))
  exact (congrArg Boot.pushing hboot).trans hp

theorem Device.pushGo_ignored (hgo : bitOf w.toNat 0 = true) (h : d.waitsPush = false ∨ d.boot.pushing = true) :
    d.pushGo w = (d.lengthTaken w).setFld .bootPushCtrl Fd.bootPushCtrlResult 8 := by
  have same := d.pushSame_lengthTaken w
  have hboot : (d.lengthTaken w).boot = d.boot := Device.setFld_boot _ _ _ _
  have hno : ¬ ((d.lengthTaken w).waitsPush = true ∧ (d.lengthTaken w).boot.pushing = false) := by
    rw [same.waitsPush, hboot]
    rcases h with h | h <;> simp [h]
  exact (if_pos hgo).trans (if_neg hno)

/-- R62: a push of a valid length starts. -/
theorem Device.startPush_valid {entries length : Nat} (h1 : 1 ≤ entries) (h2 : entries ≤ 1024) (h3 : 1 ≤ length)
    (h4 : length ≤ 65536 * entries) : d.startPush entries length =
      { d.setFld .bootPushCtrl Fd.bootPushCtrlResult 1 with boot := { d.boot with pushing := true, pushes := d.boot.pushes + 1 } } :=
  if_pos ⟨h1, h2, h3, h4⟩

end

/-- R62: WAIT_PUSH accepts GO. -/
theorem bootPushGo_accepts {s : State} {w : Word} (ha : s.answering = true) (hgo : bitOf w.toNat 0 = true) (hw : s.dev.waitsPush = true)
    (hp : s.dev.boot.pushing = false) (h1 : 1 ≤ s.dev.fld .bootPushList Fd.bootPushListEntries)
    (h2 : s.dev.fld .bootPushList Fd.bootPushListEntries ≤ 1024) (h3 : 1 ≤ fieldOf w 63 32)
    (h4 : fieldOf w 63 32 ≤ 65536 * s.dev.fld .bootPushList Fd.bootPushListEntries) :
    ∃ t : State, exec (.bootPushGo w) s = .next t ∧ t.pending = s.pending ∧ t.dev.boot.pushing = true ∧
      t.dev.boot.pushes = s.dev.boot.pushes + 1 ∧ t.dev.fld .bootPushCtrl Fd.bootPushCtrlResult = 1 ∧
      t.dev.fld .bootPushCtrl Fd.bootPushCtrlLength = fieldOf w 63 32 ∧ t.dev.flash = s.dev.flash ∧ t.dev.mem = s.dev.mem := by
  have hq := (Device.pushGo_starts (d := s.quiet.dev) hgo hw hp).trans (Device.startPush_valid h1 h2 h3 h4)
  refine ⟨_, early_row ha (exec_bootPushGo w s) hq ?_, rfl, rfl, ?_, ?_, ?_, ?_, ?_⟩
  · simp [Device.lengthTaken, State.quiet]
  · simp [Device.lengthTaken, State.quiet]
  · exact Device.fld_setFld_self _ _ _ _ rfl (by decide) (by decide)
  · exact (Device.fld_setFld_apart _ _ _ (by decide)).trans (s.quiet.dev.length_lengthTaken w)
  · simp [Device.lengthTaken, State.quiet]
  · simp [Device.lengthTaken, State.quiet]

/-- R62: any other GO is ignored. -/
theorem bootPushGo_ignores {s : State} {w : Word} (ha : s.answering = true) (hgo : bitOf w.toNat 0 = true)
    (h : s.dev.waitsPush = false ∨ s.dev.boot.pushing = true) :
    ∃ t : State, exec (.bootPushGo w) s = .next t ∧ t.pending = s.pending ∧ t.dev.fld .bootPushCtrl Fd.bootPushCtrlResult = 8 ∧
      t.dev.boot = s.dev.boot ∧ t.dev.flash = s.dev.flash ∧ t.dev.mem = s.dev.mem ∧ s.dev.sameRegs t.dev [.bootPushCtrl] := by
  have hq := Device.pushGo_ignored (d := s.quiet.dev) hgo h
  refine ⟨_, early_row ha (exec_bootPushGo w s) hq ?_, rfl, ?_, ?_, ?_, ?_, ?_⟩
  · simp [Device.lengthTaken, State.quiet]
  · exact Device.fld_setFld_self _ _ _ _ rfl (by decide) (by decide)
  · simp [Device.lengthTaken, State.quiet]
  · simp [Device.lengthTaken, State.quiet]
  · simp [Device.lengthTaken, State.quiet]
  · exact (s.quiet.dev.sameRegs_setFld _ _ _ List.mem_cons_self).trans (Device.sameRegs_setFld _ _ _ _ List.mem_cons_self)

/-! ### The end of a push -/

/-- R62, R443: the pages of a push have been read, with a result. -/
def Device.pushEnded (d : Device) (r : Nat) : Device :=
  let d := if d.fld .bootPushCtrl Fd.bootPushCtrlResult = 1 then d.setFld .bootPushCtrl Fd.bootPushCtrlResult r else d
  let d := if d.boot.stagedPush then d.setFld .mgtStageCtrl Fd.mgtStageCtrlValid 0 else d
  { d with boot := { d.boot with pushing := false, stagedPush := false } }

theorem Device.pushSame_pushEnded (d : Device) (r : Nat) : d.PushSame (d.pushEnded r) := by
  unfold Device.pushEnded
  dsimp only
  refine PushSame.setBoot ?_ _
  split <;> split
  · exact ((PushSame.refl d).setFld _ _ (by simp)).setFld _ _ (by simp)
  · exact (PushSame.refl d).setFld _ _ (by simp)
  · exact (PushSame.refl d).setFld _ _ (by simp)
  · exact .refl d

theorem Device.boot_pushEnded (d : Device) (r : Nat) : (d.pushEnded r).boot = { d.boot with pushing := false, stagedPush := false } := by
  unfold Device.pushEnded
  dsimp only
  split <;> split <;> simp

section
variable {d : Device} {i : Image} {readError : Bool}

theorem Device.pushComplete_passes (hw : d.waitsPush = true) (hp : d.boot.pushing = true) (hr : pushResult readError i = 2) :
    ∃ code attempts, d.pushComplete i readError = (((d.pushEnded 2).setFld .bootCtrl Fd.bootCtrlNextPush 0).imageTaken i 1).passStage 2
      code attempts (wordOf (i.version.toNat * 2 ^ 32 + i.length % 2 ^ 26)) := by
  rw [Device.pushComplete, if_pos ⟨hw, hp⟩, hr]
  exact ⟨_, _, if_pos rfl⟩

theorem Device.pushComplete_waits (hw : d.waitsPush = true) (hp : d.boot.pushing = true) (hr : pushResult readError i ≠ 2) :
    d.pushComplete i readError = d.pushEnded (pushResult readError i) :=
  (if_pos ⟨hw, hp⟩).trans (if_neg hr)

end

/-- R61, R62: a pushed image that passes runs, and Primrose has passed. -/
theorem bootPushComplete_passes {s : State} {i : Image} {readError : Bool} (hrun : s.running = true) (hw : s.dev.waitsPush = true)
    (hp : s.dev.boot.pushing = true) (hst : s.dev.stage = 2) (hcool : s.dev.pins.thermHold = false) (hr : pushResult readError i = 2) :
    ∃ t : State, exec (.bootPushComplete i readError) s = .next t ∧ t.pending = s.pending ∧ s.passed t 2 ∧
      t.dev.boot.running = some i ∧ t.dev.boot.pushed = true ∧ t.dev.boot.pushing = false ∧ t.dev.flash = s.dev.flash := by
  obtain ⟨code, attempts, hq⟩ := Device.pushComplete_passes (d := s.quiet.dev) hw hp hr
  have same := s.quiet.dev.pushSame_pushEnded 2
  have hboot := s.quiet.dev.boot_pushEnded 2
  generalize s.quiet.dev.pushEnded 2 = p at hq same hboot
  have img := (p.setFld .bootCtrl Fd.bootCtrlNextPush 0).sameRegs_imageTaken i 1
  have hend : (p.setFld .bootCtrl Fd.bootCtrlNextPush 0).boot = p.boot := Device.setFld_boot _ _ _ _
  have hs := ((p.setFld .bootCtrl Fd.bootCtrlNextPush 0).imageTaken i 1).within_passStage (s := 2) code attempts
    (wordOf (i.version.toNat * 2 ^ 32 + i.length % 2 ^ 26)) (by decide)
  have hflow : ((p.setFld .bootCtrl Fd.bootCtrlNextPush 0).imageTaken i 1).flowDone = s.dev.flowDone :=
    (Device.imageTaken_flowDone _ _ _).trans ((Device.setFld_flowDone _ _ _ _).trans same.flowDone)
  have hpins : ((p.setFld .bootCtrl Fd.bootCtrlNextPush 0).imageTaken i 1).pins = s.dev.pins :=
    (Device.imageTaken_pins _ _ _).trans ((Device.setFld_pins _ _ _ _).trans same.pins)
  refine ⟨_, live_row hrun (exec_bootPushComplete i readError s) hq (hs.flowDone.trans hflow), rfl,
    State.passed_of code attempts _ hrun hpins hflow ?_ ?_ hcool (by decide) (by decide), (congrArg Boot.running hs.boot).trans ?_,
    (congrArg Boot.pushed hs.boot).trans ?_, (congrArg Boot.pushing hs.boot).trans ?_, hs.flash.trans ?_⟩
  · exact (img.fld (by decide) _).trans ((Device.fld_setFld_apart _ _ _ (by decide)).trans (same.regs.fld (by decide) _))
  · exact (img.fld (by decide) _).trans ((Device.fld_setFld_ne _ _ _ _ _ _ (by decide)).trans (same.stage.trans hst))
  · simp
  · simp
  · simp [hboot]
  · exact (Device.imageTaken_flash _ _ _).trans ((Device.setFld_flash _ _ _ _).trans same.flash)

/-- R62: bring-up waits on where the pushed image does not pass. -/
theorem bootPushComplete_waits {s : State} {i : Image} {readError : Bool} (hrun : s.running = true) (hw : s.dev.waitsPush = true)
    (hp : s.dev.boot.pushing = true) (hr : pushResult readError i ≠ 2) :
    ∃ t : State, exec (.bootPushComplete i readError) s = .next t ∧ t.pending = s.pending ∧
      t.dev.waitsPush = true ∧ t.dev.boot.pushing = false ∧ t.dev.boot.running = s.dev.boot.running ∧ t.dev.flash = s.dev.flash := by
  have same := s.quiet.dev.pushSame_pushEnded (pushResult readError i)
  have hboot := s.quiet.dev.boot_pushEnded (pushResult readError i)
  exact ⟨_, live_row hrun (exec_bootPushComplete i readError s) (Device.pushComplete_waits (d := s.quiet.dev) hw hp hr) same.flowDone, rfl,
    same.waitsPush.trans hw, (congrArg Boot.pushing hboot :), (congrArg Boot.running hboot :), same.flash⟩

/-! ### The flash write -/

section
variable {d : Device}

theorem Device.flashWrite_starts (hr : d.ready = true) (hp : d.boot.pushed = true) (hw : d.flash.writing = false) :
    d.flashWrite = { d with flash := { d.flash with writing := true } }.setFld .bootImage Fd.bootImageFlashWriteBusy 1 :=
  if_pos ⟨hr, hp, hw⟩

/-- R64: flash holds the image that runs, and a boot policy that waited. -/
def Device.imageStored (d : Device) (i : Image) : Device :=
  { d with
    flash := { d.flash with
      writing := false, image := i, policy := d.flash.policyWaiting.getD d.flash.policy, policyWaiting := none }
    boot := { d.boot with pushed := false } }

theorem Device.flashWritten_ends {i : Image} (hw : d.flash.writing = true) (hi : d.boot.running = some i) :
    d.flashWritten = ((d.imageStored i).setFld .bootImage Fd.bootImageFlashWriteBusy 0).setFld .bootImage Fd.bootImageFlashSynced 1 := by
  rw [Device.flashWritten, hw, hi]
  rfl

end

/-- R64: after READY a pushed image is written to flash. -/
theorem imageFlashWrite_row {s : State} (hs : s.inService = true) (hp : s.dev.boot.pushed = true) (hw : s.dev.flash.writing = false) :
    ∃ t : State, exec .imageFlashWrite s = .next t ∧ t.pending = s.pending ∧ t.dev.flash = { s.dev.flash with writing := true } ∧
      t.dev.fld .bootImage Fd.bootImageFlashWriteBusy = 1 ∧ t.dev.boot = s.dev.boot ∧ t.dev.mem = s.dev.mem := by
  obtain ⟨-, -, hready⟩ := State.inService_parts hs
  refine ⟨_, going_row (State.going_of_inService hs) (exec_imageFlashWrite s) (Device.flashWrite_starts (d := s.quiet.dev) hready hp hw) ?_, rfl,
    ?_, ?_, ?_, ?_⟩
  · exact Device.setFld_flowDone _ _ _ _
  · exact Device.setFld_flash _ _ _ _
  · exact Device.fld_setFld_self _ _ _ _ rfl (by decide) (by decide)
  · exact Device.setFld_boot _ _ _ _
  · exact Device.setFld_mem _ _ _ _

/-- R64: the write ends with flash holding the image. -/
theorem imageFlashWriteComplete_row {s : State} {i : Image} (hr : s.running = true) (hh : s.dev.halted = false)
    (hw : s.dev.flash.writing = true) (hi : s.dev.boot.running = some i) :
    ∃ t : State, exec .imageFlashWriteComplete s = .next t ∧ t.pending = s.pending ∧ t.dev.flash.image = i ∧
      t.dev.flash.writing = false ∧ t.dev.flash.policy = s.dev.flash.policyWaiting.getD s.dev.flash.policy ∧
      t.dev.flash.map = s.dev.flash.map ∧ t.dev.fld .bootImage Fd.bootImageFlashWriteBusy = 0 ∧
      t.dev.fld .bootImage Fd.bootImageFlashSynced = 1 ∧ t.dev.boot.pushed = false ∧ t.dev.mem = s.dev.mem := by
  have hgoing : s.going = true := by simp [State.going, hr, hh]
  have hq := Device.flashWritten_ends (d := s.quiet.dev) hw hi
  have hflash : s.quiet.dev.flashWritten.flash = (s.dev.imageStored i).flash := by rw [hq]; simp; rfl
  refine ⟨_, going_row hgoing (exec_imageFlashWriteComplete s) rfl ?_, rfl, ?_, ?_, ?_, ?_, ?_, ?_, ?_, ?_⟩
  · rw [hq]; simp; rfl
  · exact (congrArg Flash.image hflash :)
  · exact (congrArg Flash.writing hflash :)
  · exact (congrArg Flash.policy hflash :)
  · exact (congrArg Flash.map hflash :)
  · dsimp only
    rw [hq, Device.fld_setFld_apart _ _ _ (by decide)]
    exact Device.fld_setFld_self _ _ _ _ rfl (by decide) (by decide)
  · dsimp only
    rw [hq]
    exact Device.fld_setFld_self _ _ _ _ rfl (by decide) (by decide)
  · dsimp only
    rw [hq]; simp [Device.imageStored]
  · dsimp only
    rw [hq]; simp; rfl

/-! ### The boot policy -/

/-- R60, R64, R75: where a value of BOOT_POLICY goes. -/
def Device.policyTaken (d : Device) (v : Nat) : Device :=
  if d.boot.map.isNone then { d with boot := { d.boot with policyWritten := some v } }
  else if d.flash.writing then { d with flash := { d.flash with policyWaiting := some v } }
  else { d with flash := { d.flash with policy := v } }

section
variable {d : Device} (v : Nat)

theorem Device.policyTaken_waits (h : d.boot.map = none) : d.policyTaken v = { d with boot := { d.boot with policyWritten := some v } } :=
  if_pos (by rw [h]; rfl)

theorem Device.policyTaken_flash (h : d.boot.map.isSome = true) : d.policyTaken v = { d with
    flash := if d.flash.writing = true then { d.flash with policyWaiting := some v } else { d.flash with policy := v } } := by
  have hn : ¬ d.boot.map.isNone = true := by
    rw [Option.isNone_iff_eq_none]
    intro hnone
    rw [hnone] at h
    exact Bool.false_ne_true h
  rw [Device.policyTaken, if_neg hn]
  split <;> rfl

theorem Device.policyTaken_keeps {α : Type} (g : Device → α) (hb : ∀ (d : Device) b, g { d with boot := b } = g d)
    (hf : ∀ (d : Device) f, g { d with flash := f } = g d) : g (d.policyTaken v) = g d := by
  unfold Device.policyTaken
  split
  · exact hb _ _
  · split
    · exact hf _ _
    · exact hf _ _

theorem Device.bootPolicyWrite_eq {w : Word} (h : d.halted = false) :
    d.bootPolicyWrite w = (d.setReg .bootPolicy (wordOf (fieldOf w 3 0))).policyTaken (fieldOf w 3 0) := by
  have hh : (d.setReg .bootPolicy (wordOf (fieldOf w 3 0))).halted = false := by
    rw [Device.halted, Device.fld_setReg_ne _ _ _ _ _ (by decide)]
    exact h
  exact if_neg (by rw [hh]; exact Bool.false_ne_true)

end

/-- R75: a write of BOOT_POLICY goes to flash, or waits until Celandine has read it. -/
theorem bootPolicyWrite_row {s : State} (w : Word) (ha : s.answering = true) (hh : s.dev.halted = false) :
    ∃ t : State, exec (.bootPolicyWrite w) s = .next t ∧ t.pending = s.pending ∧ t.dev.reg .bootPolicy = wordOf (fieldOf w 3 0) ∧
      s.dev.sameRegs t.dev [.bootPolicy] ∧ t.dev.mem = s.dev.mem ∧
      (s.dev.boot.map = none → t.dev.flash = s.dev.flash ∧ t.dev.boot = { s.dev.boot with policyWritten := some (fieldOf w 3 0) }) ∧
      (s.dev.boot.map.isSome = true → t.dev.boot = s.dev.boot ∧ t.dev.flash = (if s.dev.flash.writing = true then
        { s.dev.flash with policyWaiting := some (fieldOf w 3 0) } else { s.dev.flash with policy := fieldOf w 3 0 })) := by
  have hq := Device.bootPolicyWrite_eq (d := s.quiet.dev) (w := w) hh
  have hboot : (s.quiet.dev.setReg .bootPolicy (wordOf (fieldOf w 3 0))).boot = s.dev.boot := Device.setReg_boot _ _ _
  have hflash : (s.quiet.dev.setReg .bootPolicy (wordOf (fieldOf w 3 0))).flash = s.dev.flash := Device.setReg_flash _ _ _
  have hmem : (s.quiet.dev.setReg .bootPolicy (wordOf (fieldOf w 3 0))).mem = s.dev.mem := Device.setReg_mem _ _ _
  have hflow : (s.quiet.dev.setReg .bootPolicy (wordOf (fieldOf w 3 0))).flowDone = s.dev.flowDone := Device.setReg_flowDone _ _ _
  have hself := s.quiet.dev.reg_setReg_self .bootPolicy (wordOf (fieldOf w 3 0)) rfl
  have hregs := s.quiet.dev.sameRegs_setReg .bootPolicy (wordOf (fieldOf w 3 0)) (rs := [.bootPolicy]) List.mem_cons_self
  generalize s.quiet.dev.setReg .bootPolicy (wordOf (fieldOf w 3 0)) = e at hq hboot hflash hmem hflow hself hregs
  have regs : (e.policyTaken (fieldOf w 3 0)).regs = e.regs := Device.policyTaken_keeps _ Device.regs (fun _ _ => rfl) (fun _ _ => rfl)
  refine ⟨_, early_row ha (exec_bootPolicyWrite w s) hq ?_, rfl, (Device.reg_congr regs _).trans hself,
    hregs.trans (Device.sameRegs_of_regs _ regs), ?_, fun hnone => ?_, fun hsome => ?_⟩
  · exact (Device.policyTaken_keeps _ Device.flowDone (fun _ _ => rfl) (fun _ _ => rfl)).trans hflow
  · exact (Device.policyTaken_keeps _ Device.mem (fun _ _ => rfl) (fun _ _ => rfl)).trans hmem
  · dsimp only
    rw [Device.policyTaken_waits _ (by rw [hboot]; exact hnone), ← hboot]
    exact ⟨hflash, rfl⟩
  · dsimp only
    rw [Device.policyTaken_flash _ (by rw [hboot]; exact hsome), ← hflash]
    exact ⟨hboot, rfl⟩

/-- Settles O13, a row for each kind of write and for the end of each. -/
theorem pushAndPolicy : Obligations.PushAndPolicy := by
  refine ⟨fun s w ha hstate hcool hst hw => bootHoldRelease_row ha hstate hcool hst hw,
    fun s w ha hgo => ⟨fun hw hp h1 h2 h3 h4 => bootPushGo_accepts ha hgo hw hp h1 h2 h3 h4, fun h => bootPushGo_ignores ha hgo h⟩,
    fun s i readError hrun hw hp hst hcool => ⟨fun hr => bootPushComplete_passes hrun hw hp hst hcool hr,
      fun hr => bootPushComplete_waits hrun hw hp hr⟩,
    fun s hs hp hw => imageFlashWrite_row hs hp hw, fun s i hr hh hw hi => imageFlashWriteComplete_row hr hh hw hi,
    fun s w ha hh => bootPolicyWrite_row w ha hh⟩

end Sys2Proof.Machine
end

section
/-! PROOF. O12: Teasel brings the module to READY. -/

namespace Sys2Proof.Machine

theorem exec_teasel (exchanges : List Exchange) (level : Option Nat) (ready : List Nat) (s : State) :
    exec (.teasel exchanges level ready) s = live (·.teasel exchanges level ready) s := rfl

/-! ### The work of logging, of ports and of sending -/

namespace Device.Within

variable {rs : List Reg} {d e e' : Device}

theorem ite {p : Prop} [Decidable p] {a b : Device} (ha : Within rs d a) (hb : Within rs d b) : Within rs d (if p then a else b) := by
  split
  · exact ha
  · exact hb

theorem of_logSame (h : d.LogSame e) (hl : logRegs ⊆ rs) : Within rs d e :=
  .of_powerSame (.of_logSame h) (Device.sameRegs_of_logSame h hl)

theorem log (h : Within rs d e) (k : Nat) (r : LogRec) (hl : logRegs ⊆ rs) : Within rs d (e.log k r) :=
  h.trans (of_logSame (e.logSame_log k r) hl)

theorem logModule (h : Within rs d e) (code cls : Nat) (body : List Word) (die part : Nat) (hl : logRegs ⊆ rs) :
    Within rs d (e.logModule code cls body die part) :=
  h.trans (of_logSame (e.logSame_logModule _ _ _ _ _) hl)

/-- A change of parts that the work may change, and of no register. -/
theorem of_regs (h : e = d.withWork e) (hr : e.regs = d.regs) : Within rs d e := ⟨h, Device.sameRegs_of_regs _ hr⟩

theorem layout (h : Within rs d e) : e.layout = d.layout := (congrArg Device.layout h.frame :)
theorem time (h : Within rs d e) : e.time = d.time := (congrArg Device.time h.frame :)

end Device.Within

theorem Device.withWork_setReg (d : Device) (r : Reg) (w : Word) (x : Device) : (d.setReg r w).withWork x = d.withWork x := by
  unfold Device.setReg
  split <;> rfl

theorem Device.frame_of_withWork {d e : Device} (h : e.withWork d = d) : e = d.withWork e := (congrArg (·.withWork e) h :)

/-- What is not part of the work of ports, sending leaves alone. -/
theorem Device.sendBlind_withWork (x : Device) : SendBlind (·.withWork x) where
  port _ _ _ := rfl
  emit _ _ := rfl
  traffic d _ _ _ := d.withWork_setReg _ _ x
  wait _ _ := rfl

theorem Device.within_sendPacket (d : Device) (plane : Nat) (k : Packet) : Within trafficRegs d (d.sendPacket plane k) where
  frame := Device.frame_of_withWork (Device.sendPacket_keeps (Device.sendBlind_withWork d) _ _ _)
  regs r hr := by
    refine Device.sendPacket_keeps (sendBlind_reg r fun n => ?_) _ _ _
    by_cases hn : n < 28
    · exact .inl fun e => hr (e ▸ List.mem_map_of_mem (List.mem_map_of_mem (List.mem_range.2 hn)))
    · exact .inr (by omega)

/-! ### Partitions -/

/-- The registers in which formed partitions show, and those of logging. -/
def formRegs : List Reg := (List.range 8).map Reg.ctxPartStatus ++ (mapRegs ++ logRegs)

theorem partStatus_mem_formRegs {p : Nat} (hp : p < 8) : Reg.ctxPartStatus p ∈ formRegs :=
  List.mem_append_left _ (List.mem_map_of_mem (List.mem_range.2 hp))

theorem logRegs_subset_formRegs : logRegs ⊆ formRegs := fun _ h => List.mem_append_right _ (List.mem_append_right _ h)

theorem mapRegs_subset_formRegs : mapRegs ⊆ formRegs := fun _ h => List.mem_append_right _ (List.mem_append_left _ h)

theorem Device.within_markAssigned (d : Device) {n : Nat} (hn : n < 403) :
    Within mapRegs d (d.setFld (.pwrDomStatus n) Fd.pwrDomStatusAssigned 1) :=
  (Within.refl _ d).setFld _ _ (domStatus_mem_mapRegs hn)

theorem Device.within_assignDomains (d : Device) : Within mapRegs d d.assignDomains := by
  have used : ∀ c ∈ (List.range 32).filter fun c => SMap.at' 0xFF d.layout c < 8, c < 32 := fun c hc =>
    List.mem_range.1 (List.mem_filter.1 hc).1
  unfold Device.assignDomains
  generalize (List.range 32).filter (fun c => SMap.at' 0xFF d.layout c < 8) = l at used
  refine .trans (.trans (.foldl (fun a c hc => ?_) d) (.foldl (fun a n hn => ?_) _)) (.foldl (fun a die hd => ?_) _)
  · have hc := used c hc
    refine .trans (.foldl (fun a i hi => a.within_markAssigned ?_) a) (Device.within_markAssigned _ (by omega))
    have := List.mem_range.1 hi
    omega
  · refine .ite (a.within_markAssigned ?_) (.refl _ a)
    rcases List.mem_pair.1 hn with rfl | rfl <;> decide
  · obtain ⟨c, hc, rfl⟩ := List.mem_map.1 (List.mem_eraseDups.1 hd)
    refine .foldl (fun a k hk => a.within_markAssigned ?_) a
    have := used c hc
    have := List.mem_range.1 hk
    omega

/-- R444: the board record forms at most eight partitions, and lays clusters out for each. -/
theorem boardOk_parts {b : List Byte} (h : boardOk b = true) : boardParts b ≤ 8 ∧
    ∀ p < boardParts b, ∃ c < 32, (b.getD (16 + c) 0xFF).toNat = p := by
  have hn : boardParts b = (b.getD 14 0).toNat := if_pos h
  simp only [boardOk, Bool.and_eq_true, decide_eq_true_eq, List.all_eq_true, List.any_eq_true, List.mem_range, beq_iff_eq] at h
  obtain ⟨⟨⟨⟨-, hmax⟩, -⟩, hclusters⟩, -⟩ := h
  exact ⟨hn ▸ hmax, fun p hp => hclusters p (hn ▸ hp)⟩

theorem boardParts_le (b : List Byte) : boardParts b ≤ 8 := by
  by_cases h : boardOk b = true
  · exact (boardOk_parts h).1
  · simp [boardParts, h]

theorem get_boardLayout (b : List Byte) {c : Nat} (hc : c < 32) :
    SMap.get (fun _ => 0xFF) (boardLayout b) c = if boardOk b then (b.getD (16 + c) 0xFF).toNat else 0 := by
  rw [boardLayout, SMap.get_entries _ _ _ _ 0 (Nat.zero_le c) (by simpa using hc)]
  simp [hc]

/-- R73: each partition of the board's layout has a cluster. -/
theorem Device.formed_boardLayout {d : Device} {b : List Byte} (h : d.layout = boardLayout b) {p : Nat} (hp : p < boardParts b) :
    d.formed p = true := by
  have hcluster : ∃ c < 32, SMap.get (fun _ => 0xFF) d.layout c = p := by
    rw [h]
    by_cases hb : boardOk b = true
    · obtain ⟨c, hc, hpart⟩ := (boardOk_parts hb).2 p hp
      exact ⟨c, hc, by rw [get_boardLayout b hc, if_pos hb, hpart]⟩
    · have h0 : p = 0 := by simpa [boardParts, hb] using hp
      exact ⟨0, by decide, by rw [get_boardLayout b (by decide), if_neg hb, h0]⟩
  have h8 := boardParts_le b
  simp only [Device.formed, Bool.and_eq_true, decide_eq_true_eq, List.any_eq_true, List.mem_range, beq_iff_eq]
  exact ⟨by omega, hcluster⟩

/-- The partitions of a list made ACTIVE. -/
def Device.activatePartitions (d : Device) (l : List Nat) : Device :=
  l.foldl (fun (d : Device) p => d.setFld (.ctxPartStatus p) Fd.ctxPartStatusState 1) d

theorem Device.ctxState_activatePartitions (d : Device) (l : List Nat) {p : Nat} (hp : p < 8) (h : p ∈ l ∨ d.ctxState p = 1) :
    (d.activatePartitions l).ctxState p = 1 := by
  induction l generalizing d with
  | nil => exact h.resolve_left List.not_mem_nil
  | cons q l ih =>
    refine ih (d.setFld (.ctxPartStatus q) Fd.ctxPartStatusState 1) ?_
    by_cases hq : p = q
    · subst hq
      exact .inr (Device.fld_setFld_self _ _ _ _ (by simpa [Reg.inRange] using hp) (by decide) (by decide))
    · refine h.imp (fun hm => (List.mem_cons.1 hm).resolve_left hq) fun h1 => (Device.fld_setFld_ne _ _ _ _ _ _ ?_).trans h1
      simp only [Reg.offset]
      omega

theorem Device.formPartitions_eq (d : Device) : d.formPartitions =
    if boardOk d.boot.board then
      (({ d with layout := boardLayout d.boot.board } : Device).activatePartitions (List.range (boardParts d.boot.board))).assignDomains
    else (({ d with layout := boardLayout d.boot.board } : Device).activatePartitions
      (List.range (boardParts d.boot.board))).assignDomains.logBoot 0x0171 0 := rfl

/-- R73: what the forming of partitions does. -/
theorem Device.formPartitions_spec (d : Device) :
    Within formRegs { d with layout := boardLayout d.boot.board } d.formPartitions ∧
      ∀ p < boardParts d.boot.board, d.formPartitions.ctxState p = 1 := by
  have h8 := boardParts_le d.boot.board
  rw [Device.formPartitions_eq]
  generalize ({ d with layout := boardLayout d.boot.board } : Device) = d0
  have hactive : Within formRegs d0 (d0.activatePartitions (List.range (boardParts d.boot.board))) :=
    .foldl (fun a p hp => (Within.refl _ a).setFld _ _ (partStatus_mem_formRegs (by have := List.mem_range.1 hp; omega))) _
  have hstate : ∀ p < boardParts d.boot.board, (d0.activatePartitions (List.range (boardParts d.boot.board))).ctxState p = 1 := fun p hp =>
    d0.ctxState_activatePartitions _ (by omega) (.inl (List.mem_range.2 hp))
  generalize d0.activatePartitions (List.range (boardParts d.boot.board)) = d1 at hactive hstate
  have hlogged : Within (mapRegs ++ logRegs) d1
      (if boardOk d.boot.board then d1.assignDomains else d1.assignDomains.logBoot 0x0171 0) := by
    have h := d1.within_assignDomains.mono (List.subset_append_left _ logRegs)
    exact .ite h (h.logBoot _ _ _ (List.subset_append_right _ _))
  refine ⟨hactive.trans (hlogged.mono (List.subset_append_right _ _)), fun p hp => (hlogged.regs.fld ?_ _).trans (hstate p hp)⟩
  have hall : ∀ p < 8, (Reg.ctxPartStatus p).offset ∉ (mapRegs ++ logRegs).map Reg.offset := by decide +kernel
  exact hall p (by omega)

/-! ### Time, levels and reports -/

/-- The registers that show what Teasel finds, and those of logging. -/
def joinRegs : List Reg :=
  [.lnkIdent, .plcFeature, .timStatus, .timOffset] ++ ((List.range 64).map Reg.plcFeatureTab ++ (reportRegs 7 ++ logRegs))

/-- The registers of the ports' states and traffic, and of the census. -/
def censusRegs : List Reg := .plcCensus :: ((List.range 28).map Reg.lnkPortStatus ++ trafficRegs)

theorem logRegs_subset_joinRegs : logRegs ⊆ joinRegs := fun _ h =>
  List.mem_append_right _ (List.mem_append_right _ (List.mem_append_right _ h))

theorem reportRegs_subset_joinRegs : reportRegs 7 ⊆ joinRegs := fun _ h =>
  List.mem_append_right _ (List.mem_append_right _ (List.mem_append_left _ h))

theorem featureTab_mem_joinRegs {i : Nat} (hi : i < 64) : Reg.plcFeatureTab i ∈ joinRegs :=
  List.mem_append_right _ (List.mem_append_left _ (List.mem_map_of_mem (List.mem_range.2 hi)))

theorem lnkIdent_mem_joinRegs : Reg.lnkIdent ∈ joinRegs := by simp [joinRegs]
theorem plcFeature_mem_joinRegs : Reg.plcFeature ∈ joinRegs := by simp [joinRegs]
theorem timStatus_mem_joinRegs : Reg.timStatus ∈ joinRegs := by simp [joinRegs]
theorem timOffset_mem_joinRegs : Reg.timOffset ∈ joinRegs := by simp [joinRegs]

section
variable (d : Device)

theorem Device.within_logLevelOut (v : Nat) : Within joinRegs d (d.logLevelOut v) := by
  have hout : Within joinRegs d { d with levelOut := true } := .of_regs rfl rfl
  exact hout.trans (.foldl (fun a _ _ => (Within.refl _ a).log _ _ logRegs_subset_joinRegs) _)

theorem Device.within_takeLevels (level : Option Nat) : Within joinRegs d (d.takeLevels level) := by
  have hen : ∀ (e : Device) (l : List (Nat × Word)), Within joinRegs e { e with enabled := l } := fun _ _ => .of_regs rfl rfl
  have htab : ∀ (t : List Word) (e : Device),
      Within joinRegs e (((t.take 64).zipIdx).foldl (fun (d : Device) x => d.setFields (.plcFeatureTab x.2) x.1) e) := fun t =>
    .foldl fun a x hx => (Within.refl _ a).setReg _ (featureTab_mem_joinRegs (by
      have := List.snd_lt_of_mem_zipIdx hx
      simp only [List.length_take] at this
      omega))
  unfold Device.takeLevels
  split
  · exact .refl _ d
  · next i _ =>
    dsimp only
    have shown := (Within.refl joinRegs d).setFld Fd.plcFeatureAdvertised i.featAdvertised plcFeature_mem_joinRegs |>.setFld
      Fd.plcFeatureBase i.featBase plcFeature_mem_joinRegs
    have enabled := fun l v => ((shown.trans (hen _ l)).setFld Fd.plcFeatureEnabled v plcFeature_mem_joinRegs).setFld
      Fd.lnkIdentFeature i.featAdvertised lnkIdent_mem_joinRegs
    have table := fun l v => (enabled l v).trans (htab i.featTable _)
    exact .ite (table _ _) ((table _ _).trans (Device.within_logLevelOut _ _))

theorem Device.within_now (t : Word) : Within joinRegs d { d with now := t } := .of_regs rfl rfl

theorem Device.within_advertiseLevel : Within joinRegs d d.advertiseLevel :=
  .foldl (fun a n _ => .of_regs (e := a.emit (.advertise n (a.fld .plcFeature Fd.plcFeatureAdvertised))) rfl rfl) d

theorem Device.within_showParent (chain : List Nat) : Within joinRegs d (d.showParent chain) :=
  (((Within.refl _ d).setFld _ _ timStatus_mem_joinRegs).setFld _ _ timStatus_mem_joinRegs).setFld _ _ timStatus_mem_joinRegs

theorem Device.within_copyReports : Within joinRegs d d.copyReports :=
  .foldl (fun a _ _ => (Within.refl _ a).logModule _ _ _ _ _ logRegs_subset_joinRegs) d

theorem Device.within_setTimeState (st : Nat) (θ : Int) : Within joinRegs d (d.setTimeState st θ) := by
  have h := (Within.refl _ d).setFld Fd.timStatusState st timStatus_mem_joinRegs
  exact .ite (h.log _ _ logRegs_subset_joinRegs) h

theorem Device.within_takeTheta (θ : Int) : Within joinRegs d (d.takeTheta θ) := by
  have hfree : Within joinRegs d d.freeValue.2.freeValue.2 := .of_regs rfl rfl
  exact ((hfree.setFld _ _ timOffset_mem_joinRegs).setFld _ _ timOffset_mem_joinRegs).trans (Device.within_setTimeState _ _ _)

theorem portStatus_mem_censusRegs {n : Nat} (hn : n < 28) : Reg.lnkPortStatus n ∈ censusRegs :=
  List.mem_cons_of_mem _ (List.mem_append_left _ (List.mem_map_of_mem (List.mem_range.2 hn)))

theorem Device.within_qualifyLate : Within censusRegs d d.qualifyLate :=
  .foldl (fun a _ hn => .ite ((Within.refl _ a).setFld _ _ (portStatus_mem_censusRegs (Device.connected_lt hn))) (.refl _ a)) d

theorem Device.within_showCensus : Within censusRegs d d.showCensus := by
  have send : ∀ (e : Device) (k : Packet), Within censusRegs e (e.sendPacket 0 k) := fun e k =>
    (e.within_sendPacket 0 k).mono fun _ h => List.mem_cons_of_mem _ (List.mem_append_right _ h)
  have shown := fun w => (Within.refl censusRegs d).setReg w (r := .plcCensus) List.mem_cons_self
  exact .ite (shown _) (((shown _).trans (send _ _)).trans (send _ _))

end

/-! ### Teasel -/

/-- R73: partitions are formed, and the chip has its number. -/
def Device.numbered (d : Device) : Device :=
  (d.formPartitions.setFld .glbChip Fd.glbChipChip (ofLeBytes ((d.boot.board.drop 12).take 2) % 2 ^ 14)).setFld .glbChip
    Fd.glbChipValid 1

/-- R73: whatever Teasel finds, it ends with STATE 1. -/
theorem Device.teasel_ends {d : Device} (exchanges : List Exchange) (level : Option Nat) (ready : List Nat) (h : d.inStage 7 = true) :
    ∃ e, Within joinRegs d.numbered e ∧
      Within censusRegs (e.setFld .bootStatus Fd.bootStatusState 1) (d.teasel exchanges level ready) := by
  rw [Device.teasel, if_pos h]
  extract_lets chip formed numbered named linked others told offsets aligned failed checked code parts
    reported stepped chain shown settled
  refine ⟨settled, ?_, (Device.within_qualifyLate _).trans (Device.within_showCensus _)⟩
  have hnamed : Within joinRegs d.numbered named := (Within.refl _ d.numbered).setFld _ _ lnkIdent_mem_joinRegs
  have htold : Within joinRegs named told := (named.within_takeLevels _).trans (Device.within_advertiseLevel _)
  have hchecked : Within joinRegs told checked := .ite ((Within.refl _ told).logBoot _ _ _ logRegs_subset_joinRegs) (.refl _ told)
  have hreported : Within joinRegs checked reported := (checked.within_report _ _ _ _ _).mono reportRegs_subset_joinRegs
  have hstepped : Within joinRegs reported stepped := .ite (reported.within_now _) (.refl _ reported)
  have hshown : Within joinRegs stepped shown := (stepped.within_showParent _).trans (Device.within_copyReports _)
  have hsettled : Within joinRegs shown settled := by
    refine .ite ((Within.refl _ shown).setFld _ _ timStatus_mem_joinRegs) ?_
    split
    · exact shown.within_takeTheta _
    · exact shown.within_setTimeState _ _
  exact (((hnamed.trans htold).trans (hchecked.trans hreported)).trans (hstepped.trans hshown)).trans hsettled

/-- The registers that Teasel may write. -/
def teaselRegs : List Reg := .glbChip :: .bootStatus :: (formRegs ++ (joinRegs ++ censusRegs))

theorem formRegs_subset_teaselRegs : formRegs ⊆ teaselRegs := fun _ h =>
  List.mem_cons_of_mem _ (List.mem_cons_of_mem _ (List.mem_append_left _ h))

theorem joinRegs_subset_teaselRegs : joinRegs ⊆ teaselRegs := fun _ h =>
  List.mem_cons_of_mem _ (List.mem_cons_of_mem _ (List.mem_append_right _ (List.mem_append_left _ h)))

theorem censusRegs_subset_teaselRegs : censusRegs ⊆ teaselRegs := fun _ h =>
  List.mem_cons_of_mem _ (List.mem_cons_of_mem _ (List.mem_append_right _ (List.mem_append_right _ h)))

/-- What Teasel leaves the device as. -/
structure Device.TeaselEnds (d e : Device) : Prop where
  work : Within teaselRegs { d with layout := boardLayout d.boot.board } e
  ready : e.ready = true
  chipValid : e.fld .glbChip Fd.glbChipValid = 1
  chip : e.chip = ofLeBytes ((d.boot.board.drop 12).take 2) % 16384
  active : ∀ p < boardParts d.boot.board, e.ctxState p = 1

theorem Device.teaselEnds {d : Device} (exchanges : List Exchange) (level : Option Nat) (ready : List Nat) (h : d.inStage 7 = true) :
    d.TeaselEnds (d.teasel exchanges level ready) := by
  obtain ⟨e, hjoin, hcensus⟩ := Device.teasel_ends exchanges level ready h
  obtain ⟨hform, hactive⟩ := d.formPartitions_spec
  have kept : ∀ {r : Reg}, r.offset ∉ (joinRegs ++ censusRegs).map Reg.offset → r.offset ≠ Reg.bootStatus.offset →
      (d.teasel exchanges level ready).reg r = d.numbered.reg r := by
    intro r hr hne
    rw [List.map_append, List.mem_append, not_or] at hr
    exact (hcensus.regs r hr.2).trans ((Device.reg_setReg_ne _ _ _ _ hne).trans (hjoin.regs r hr.1))
  have hchip : (d.teasel exchanges level ready).reg .glbChip = d.numbered.reg .glbChip := kept (by decide +kernel) (by decide)
  constructor
  case work =>
    have hnumbered : Within teaselRegs d.formPartitions d.numbered :=
      ((Within.refl _ d.formPartitions).setFld _ _ List.mem_cons_self).setFld _ _ List.mem_cons_self
    have hready : Within teaselRegs d.numbered (e.setFld .bootStatus Fd.bootStatusState 1) :=
      (hjoin.mono joinRegs_subset_teaselRegs).setFld _ _ (List.mem_cons_of_mem _ List.mem_cons_self)
    exact (((hform.mono formRegs_subset_teaselRegs).trans hnumbered).trans hready).trans (hcensus.mono censusRegs_subset_teaselRegs)
  case ready =>
    rw [Device.ready, hcensus.regs.fld (by decide +kernel), Device.fld_setFld_self _ _ _ _ rfl (by decide) (by decide)]
    decide
  case chipValid =>
    rw [Device.fld, hchip]
    exact Device.fld_setFld_self _ _ _ _ rfl (by decide) (by decide)
  case chip =>
    rw [Device.chip, Device.fld, hchip]
    refine (Device.fld_setFld_apart _ _ _ (by decide)).trans ((Device.fld_setFld_self _ _ _ _ rfl (by decide) (by decide)).trans ?_)
    exact Nat.mod_mod _ _
  case active =>
    intro p hp
    have hp8 := boardParts_le d.boot.board
    have hall : ∀ p < 8, (Reg.ctxPartStatus p).offset ∉ (joinRegs ++ censusRegs).map Reg.offset ∧
        (Reg.ctxPartStatus p).offset ≠ Reg.bootStatus.offset ∧ (Reg.ctxPartStatus p).offset ≠ Reg.glbChip.offset := by decide +kernel
    obtain ⟨hjc, hboot, hglb⟩ := hall p (by omega)
    rw [Device.ctxState, Device.fld, kept hjc hboot]
    exact (Device.fld_setFld_ne _ _ _ _ _ _ hglb).trans ((Device.fld_setFld_ne _ _ _ _ _ _ hglb).trans (hactive p hp))

/-- Settles O12: whatever Teasel finds, the layout is the board's, each of its partitions is ACTIVE, and the state is READY. -/
theorem teaselReachesReady : Obligations.TeaselReachesReady := by
  intro s exchanges level ready hb
  have h := Device.teaselEnds exchanges level ready (State.bringUp_inStage hb)
  exact ⟨_, live_row (State.bringUp_running hb) (exec_teasel exchanges level ready s) rfl h.work.flowDone, rfl, h.ready, h.chipValid, h.chip,
    h.work.layout, fun p hp _ => ⟨Device.formed_boardLayout h.work.layout hp, h.active p hp⟩, h.work.mem, h.work.flash⟩

end Sys2Proof.Machine
end

section
/-! PROOF. Ports: a port's registers and data, and what sending on one port does. -/

namespace Sys2Proof.Machine

/-! ### A port's data and its registers -/

section
variable (d : Device) (n m : Nat) (x : Port)

@[simp] theorem Device.port_setPort_self : (d.setPort n x).port n = x := SMap.get_set_self _ _ _ _

theorem Device.port_setPort_ne {m : Nat} (h : m ≠ n) : (d.setPort n x).port m = d.port m := SMap.get_set_ne _ _ _ _ _ h

theorem Device.port_congr {d e : Device} (h : e.ports = d.ports) (m : Nat) : e.port m = d.port m := by
  rw [Device.port, Device.port, h]

@[simp] theorem Device.port_emit (o : Out) : (d.emit o).port m = d.port m := rfl
@[simp] theorem Device.port_setFld (r : Reg) (f : RegField) (v : Nat) : (d.setFld r f v).port m = d.port m :=
  Device.port_congr (by simp) m
@[simp] theorem Device.port_bump (r : Reg) (f : RegField) (v : Nat) : (d.bump r f v).port m = d.port m := d.port_setFld _ _ _ _
@[simp] theorem Device.port_setPortState (v : Nat) : (d.setPortState n v).port m = d.port m := d.port_setFld _ _ _ _
@[simp] theorem Device.port_log (k : Nat) (r : LogRec) : (d.log k r).port m = d.port m := Device.port_congr (by simp) m
@[simp] theorem Device.port_logBoot (code cls die : Nat) : (d.logBoot code cls die).port m = d.port m := Device.port_congr (by simp) m

@[simp] theorem Device.portState_setPort : (d.setPort n x).portState m = d.portState m := rfl

theorem Device.portState_setPortState {n v : Nat} (hn : n < 28) (hv : v < 16) : (d.setPortState n v).portState n = v :=
  (Device.fld_setFld_self _ _ _ _ (by simpa [Reg.inRange] using hn) (by decide) (by decide)).trans (Nat.mod_eq_of_lt hv)

end

section
variable (m n : Nat)

theorem portStatus_ne_traffic : (Reg.lnkPortStatus m).offset ≠ (Reg.lnkPortTraffic n).offset := by simp only [Reg.offset]; omega
theorem portStatus_ne_retry : (Reg.lnkPortStatus m).offset ≠ (Reg.lnkPortRetry n).offset := by simp only [Reg.offset]; omega
theorem portRetry_ne_traffic : (Reg.lnkPortRetry m).offset ≠ (Reg.lnkPortTraffic n).offset := by simp only [Reg.offset]; omega

end

theorem portStatus_not_logRegs {n : Nat} (hn : n < 28) : (Reg.lnkPortStatus n).offset ∉ logRegs.map Reg.offset := by
  have all : ∀ k < 28, (Reg.lnkPortStatus k).offset ∉ logRegs.map Reg.offset := by decide +kernel
  exact all n hn

theorem portRetry_not_logRegs {n : Nat} (hn : n < 28) : (Reg.lnkPortRetry n).offset ∉ logRegs.map Reg.offset := by
  have all : ∀ k < 28, (Reg.lnkPortRetry k).offset ∉ logRegs.map Reg.offset := by decide +kernel
  exact all n hn

/-! ### Sending on one port -/

/-- What sending may change of a port's data, taken from y. -/
def Port.withSent (x y : Port) : Port :=
  { x with
    replay := y.replay, later := y.later, frame := y.frame, nextSeq := y.nextSeq, credit := y.credit, mgmt := y.mgmt
    txFlits := y.txFlits, rxFlits := y.rxFlits }

/-- What sending may change of the device, taken from x. -/
def Device.withLink (d x : Device) : Device := { d with regs := x.regs, ports := x.ports, out := x.out, free := x.free }

/-- Flits and packets have left by port n between d and e, or have been counted there. -/
structure Device.Sends (n : Nat) (d e : Device) : Prop where
  frame : e = d.withLink e
  regs : d.sameRegs e [.lnkPortTraffic n]
  port : e.port n = (d.port n).withSent (e.port n)
  others : ∀ m, m ≠ n → e.port m = d.port m

namespace Device.Sends

variable {n : Nat} {d e e' : Device}

theorem refl (n : Nat) (d : Device) : Sends n d d := ⟨rfl, .refl d _, rfl, fun _ _ => rfl⟩

theorem trans (h : Sends n d e) (g : Sends n e e') : Sends n d e' where
  frame :=
    calc e' = e.withLink e' := g.frame
      _ = (d.withLink e).withLink e' := congrArg (·.withLink e') h.frame
      _ = d.withLink e' := rfl
  regs := h.regs.trans g.regs
  port :=
    calc e'.port n = (e.port n).withSent (e'.port n) := g.port
      _ = ((d.port n).withSent (e.port n)).withSent (e'.port n) := congrArg (Port.withSent · (e'.port n)) h.port
      _ = (d.port n).withSent (e'.port n) := rfl
  others m hm := (g.others m hm).trans (h.others m hm)

theorem mem (h : Sends n d e) : e.mem = d.mem := (congrArg Device.mem h.frame :)
theorem flowDone (h : Sends n d e) : e.flowDone = d.flowDone := (congrArg Device.flowDone h.frame :)
theorem txWait (h : Sends n d e) : e.txWait = d.txWait := (congrArg Device.txWait h.frame :)
theorem now (h : Sends n d e) : e.now = d.now := (congrArg Device.now h.frame :)

theorem fld_portStatus (h : Sends n d e) (f : RegField) : e.fld (.lnkPortStatus n) f = d.fld (.lnkPortStatus n) f :=
  h.regs.fld (by simpa using portStatus_ne_traffic n n) f

theorem portState (h : Sends n d e) : e.portState n = d.portState n := h.fld_portStatus _

theorem own (h : Sends n d e) : (e.port n).own = (d.port n).own := (congrArg Port.own h.port :)
theorem peer (h : Sends n d e) : (e.port n).peer = (d.port n).peer := (congrArg Port.peer h.port :)
theorem window (h : Sends n d e) : (e.port n).window = (d.port n).window := (congrArg Port.window h.port :)
theorem between (h : Sends n d e) : (e.port n).between = (d.port n).between := (congrArg Port.between h.port :)

theorem setPort (d : Device) (n : Nat) {x : Port} (hx : x = (d.port n).withSent x) : Sends n d (d.setPort n x) where
  frame := rfl
  regs := Device.sameRegs_of_regs _ rfl
  port := by rw [Device.port_setPort_self]; exact hx
  others m hm := d.port_setPort_ne n x hm

theorem emit (d : Device) (n : Nat) (o : Out) : Sends n d (d.emit o) := ⟨rfl, Device.sameRegs_of_regs _ rfl, rfl, fun _ _ => rfl⟩

theorem freeValue (d : Device) (n : Nat) : Sends n d d.freeValue.2 := ⟨rfl, Device.sameRegs_of_regs _ rfl, rfl, fun _ _ => rfl⟩

theorem traffic (d : Device) (n : Nat) (f : RegField) (v : Nat) : Sends n d (d.setFld (.lnkPortTraffic n) f v) where
  frame := by unfold Device.setFld Device.setReg; split <;> rfl
  regs := d.sameRegs_setFld _ _ _ (List.mem_singleton.2 rfl)
  port := by rw [Device.port_setFld]; rfl
  others m _ := d.port_setFld m _ _ _

theorem foldl {β : Type} {f : Device → β → Device} (hf : ∀ (a : Device) (b : β), Sends n a (f a b)) (l : List β) (d : Device) :
    Sends n d (l.foldl f d) := by
  induction l generalizing d with
  | nil => exact refl n d
  | cons b l ih => exact (hf d b).trans (ih _)

end Device.Sends

section
variable (d : Device) (n : Nat)

/-- The data flits that wait on a port and have room in its frame. -/
def Port.goes (x : Port) : List TxFlit := x.later.take (frameFlits - x.frame)

/-- R350: a port once the data flits that have room in its frame have left. -/
def Port.pumped (x : Port) : Port := { x with later := x.later.drop (frameFlits - x.frame), frame := x.frame + x.goes.length }

theorem Device.foldl_emit {β : Type} (F : β → Out) (l : List β) (d : Device) :
    l.foldl (fun (d : Device) b => d.emit (F b)) d = { d with out := d.out ++ l.map F } := by
  induction l generalizing d with
  | nil => simp
  | cons b l ih => rw [List.foldl_cons, ih]; simp [Device.emit]

/-- R350: what leaves, and what stays. -/
theorem Device.pumpFlits_eq : d.pumpFlits n =
    { d.setPort n (d.port n).pumped with out := d.out ++ (d.port n).goes.map fun f => .flit n f.bytes } :=
  Device.foldl_emit (fun f : TxFlit => .flit n f.bytes) _ _

theorem Device.out_pumpFlits : (d.pumpFlits n).out = d.out ++ (d.port n).goes.map fun f => Out.flit n f.bytes := by
  rw [Device.pumpFlits_eq]

theorem Device.regs_pumpFlits : (d.pumpFlits n).regs = d.regs := by rw [Device.pumpFlits_eq]; rfl

theorem Device.port_pumpFlits : (d.pumpFlits n).port n = (d.port n).pumped := by
  rw [Device.pumpFlits_eq]
  exact d.port_setPort_self n _

theorem Device.sends_pumpFlits : Sends n d (d.pumpFlits n) :=
  (Device.Sends.setPort d n (x := (d.port n).pumped) rfl).trans (.foldl (fun a _ => .emit a n _) _ _)

theorem Device.sends_countFlits (tx rx : Nat) : Sends n d (d.countFlits n tx rx) :=
  ((Device.Sends.setPort d n rfl).trans (.traffic _ n _ _)).trans (.traffic _ n _ _)

theorem Device.sends_sendOn (vc : Nat) (k : Packet) : Sends n d (d.sendOn n vc k) :=
  ((Device.Sends.setPort d n rfl).trans (Device.sends_pumpFlits _ n)).trans (Device.sends_countFlits _ n _ _)

theorem Device.sends_mgmtGo (l : List Packet) : Sends n d (Device.mgmtGo n l d) := by
  induction l generalizing d with
  | nil => exact .setPort d n rfl
  | cons k l ih =>
    unfold Device.mgmtGo
    split
    · exact (d.sends_sendOn n 3 k).trans (ih _)
    · exact .setPort d n rfl

/-- R348: a management packet leaves, or waits for credit. -/
theorem Device.sends_mgmtOn (sub : Nat) (msg : MgmtMsg) : Sends n d (d.mgmtOn n sub msg) := by
  have h := (Device.Sends.freeValue d n).trans (.emit _ n (.mgmt (n / 7) msg))
  unfold Device.mgmtOn
  dsimp only
  split
  · exact h.trans (Device.sends_sendOn _ _ _ _)
  · exact h.trans (Device.sends_mgmtGo _ _ _)

/-- Nothing that waits leaves where nothing waits. -/
theorem Device.drainTx_of_empty {d : Device} (h : d.txWait = []) : d.drainTx = d := by
  unfold Device.drainTx
  rw [h]
  exact (congrArg (fun l => { d with txWait := l }) h.symm :)

end

end Sys2Proof.Machine
end

section
/-! PROOF. Ports in training: lanes, the repair lane, and ports that have FAILED. -/

namespace Sys2Proof.Machine

theorem exec_portLanesLocked (n mask : Nat) (s : State) : exec (.portLanesLocked n mask) s = going (·.lanesLocked n mask) s := rfl
theorem exec_laneLockTimeout (n : Nat) (s : State) : exec (.laneLockTimeout n) s = going (·.laneTimeout n) s := rfl

theorem Device.Sends.within {n : Nat} {d e : Device} (h : d.Sends n e) : Within [.lnkPortTraffic n] d e where
  frame :=
    calc e = d.withLink e := h.frame
      _ = d.withWork (d.withLink e) := rfl
      _ = d.withWork e := congrArg d.withWork h.frame.symm
  regs := h.regs

theorem fieldOf_lt_two_pow (w : Word) (hi lo : Nat) : fieldOf w hi lo < 2 ^ (hi + 1 - lo) := by
  unfold fieldOf bitsOf
  exact Nat.mod_lt _ (Nat.two_pow_pos _)

theorem Device.fld_bump_self (d : Device) (r : Reg) (f : RegField) (k : Nat) (hr : r.inRange = true) (h1 : f.lo ≤ f.hi) (h2 : f.hi < 64) :
    (d.bump r f k).fld r f = satAdd f.width (d.fld r f) k := by
  rw [Device.bump, Device.fld_setFld_self _ _ _ _ hr h1 h2]
  have hw : f.width = f.hi + 1 - f.lo := by unfold RegField.width; omega
  rw [hw]
  refine Nat.mod_eq_of_lt ((Nat.min_le_right _ _).trans_lt ?_)
  exact Nat.sub_lt (Nat.two_pow_pos _) Nat.one_pos

/-! ### Lanes lock -/

theorem Device.openLanes_congr {d e : Device} {n : Nat} (hl : e.locked n = d.locked n) (hr : e.repaired n = d.repaired n) :
    e.openLanes n = d.openLanes n := by
  rw [Device.openLanes, Device.openLanes, hl, hr]

theorem Device.lt_of_mem_openLanes {d : Device} {n k : Nat} (h : k ∈ d.openLanes n) : k < 8 := List.mem_range.1 (List.mem_filter.1 h).1

section
variable {d : Device} {n mask : Nat}

/-- The device with more lanes of a port locked. -/
def Device.lanesShown (d : Device) (n mask : Nat) : Device := d.setFld (.lnkPortStatus n) Fd.lnkPortStatusLocked (d.locked n ||| mask)

/-- R69, R348: PARAM goes to the other end of a port that is TRAINED. -/
def Device.trained (d : Device) (n : Nat) : Device := (d.setPortState n 2).mgmtOn n 1 (d.ownParam n)

theorem Device.lanesLocked_eq (hn : n < 28) (hstate : d.portState n = 1 ∨ d.portState n = 5) : d.lanesLocked n mask =
    if (d.lanesShown n mask).portState n = 1 ∧ (d.lanesShown n mask).openLanes n = [] then (d.lanesShown n mask).trained n
    else d.lanesShown n mask := if_pos ⟨hn, hstate⟩

theorem Device.lanesShown_spec (hn : n < 28) (hm : mask < 512) : (d.lanesShown n mask).locked n = (d.locked n ||| mask) ∧
    (d.lanesShown n mask).portState n = d.portState n ∧ (∀ m, (d.lanesShown n mask).port m = d.port m) ∧
    Within [.lnkPortStatus n, .lnkPortTraffic n] d (d.lanesShown n mask) := by
  refine ⟨?_, Device.fld_setFld_apart _ _ _ (by decide), fun m => d.port_setFld m _ _ _, (Within.refl _ d).setFld _ _ List.mem_cons_self⟩
  refine (Device.fld_setFld_self _ _ _ _ (by simpa [Reg.inRange] using hn) (by decide) (by decide)).trans (Nat.mod_eq_of_lt ?_)
  exact Nat.or_lt_two_pow (n := 9) (fieldOf_lt_two_pow _ 15 7) hm

theorem Device.trained_spec (d : Device) (hn : n < 28) : (d.trained n).locked n = d.locked n ∧ (d.trained n).repaired n = d.repaired n ∧
    (d.trained n).portState n = 2 ∧ (∀ m, m ≠ n → (d.trained n).port m = d.port m) ∧
    Within [.lnkPortStatus n, .lnkPortTraffic n] d (d.trained n) := by
  have hsent := Device.sends_mgmtOn (d.setPortState n 2) n 1 (d.ownParam n)
  refine ⟨(hsent.fld_portStatus _).trans (Device.fld_setFld_apart _ _ _ (by decide)),
    (hsent.fld_portStatus _).trans (Device.fld_setFld_apart _ _ _ (by decide)),
    hsent.portState.trans (Device.portState_setPortState d hn (by decide)),
    fun m hm => (hsent.others m hm).trans (d.port_setPortState n m 2), ?_⟩
  exact ((Within.refl _ d).setFld _ _ List.mem_cons_self).trans (hsent.within.mono (List.subset_cons_self _ _))

/-- R69, R353: lanes of a port that lock are shown; the last makes it TRAINED. -/
theorem Device.lanesLocked_spec (hn : n < 28) (hm : mask < 512) (hstate : d.portState n = 1 ∨ d.portState n = 5) :
    (d.lanesLocked n mask).locked n = (d.locked n ||| mask) ∧
      Within [.lnkPortStatus n, .lnkPortTraffic n] d (d.lanesLocked n mask) ∧
      (d.lanesLocked n mask).portState n =
        (if d.portState n = 1 ∧ (d.lanesLocked n mask).openLanes n = [] then 2 else d.portState n) ∧
      ∀ m, m ≠ n → (d.lanesLocked n mask).port m = d.port m := by
  obtain ⟨hlocked, hst, hports, hwork⟩ := Device.lanesShown_spec (d := d) hn hm
  rw [Device.lanesLocked_eq hn hstate]
  generalize d.lanesShown n mask = a at hlocked hst hports hwork
  by_cases h : a.portState n = 1 ∧ a.openLanes n = []
  · obtain ⟨hlocked', hrepaired, htrained, hothers, hwork'⟩ := a.trained_spec hn
    rw [if_pos h, if_pos ⟨hst ▸ h.1, (Device.openLanes_congr hlocked' hrepaired).trans h.2⟩]
    exact ⟨hlocked'.trans hlocked, hwork.trans hwork', htrained, fun m hm => (hothers m hm).trans (hports m)⟩
  · rw [if_neg h, if_neg (hst ▸ h)]
    exact ⟨hlocked, hwork, hst, fun m _ => hports m⟩

/-- R69, R353: the repair lane takes the one lane that did not lock in time. -/
theorem Device.laneTimeout_repairs {k : Nat} (hn : n < 28) (hstate : d.portState n = 1 ∨ d.portState n = 5) (hfree : d.repaired n = 15)
    (hopen : d.openLanes n = [k]) : d.laneTimeout n = d.repairLane n k := by
  rw [Device.laneTimeout]
  simp only [if_pos (And.intro hn hstate), hopen, hfree, beq_self_eq_true]

theorem Device.repairLane_spec {k : Nat} (hn : n < 28) (hk : k < 8) :
    (d.repairLane n k).repaired n = k ∧ (d.repairLane n k).portState n = d.portState n ∧
      d.sameRegs (d.repairLane n k) [.lnkPortStatus n, .bootDefect] ∧ (d.repairLane n k).ports = d.ports ∧
      (d.repairLane n k).mem = d.mem ∧ (d.repairLane n k).flowDone = d.flowDone := by
  have hrange : (Reg.lnkPortStatus n).inRange = true := by simpa [Reg.inRange] using hn
  have hne : (Reg.lnkPortStatus n).offset ≠ Reg.bootDefect.offset := by simp only [Reg.offset]; omega
  have work : Within [.lnkPortStatus n, .bootDefect] d ((d.setFld (.lnkPortStatus n) Fd.lnkPortStatusRepaired k).countLanes) :=
    ((Within.refl _ d).setFld _ _ List.mem_cons_self).setFld _ _ (List.mem_cons_of_mem _ List.mem_cons_self)
  have hports : ((d.setFld (.lnkPortStatus n) Fd.lnkPortStatusRepaired k).countLanes).ports = d.ports := by simp [Device.countLanes]
  have hrepaired : ((d.setFld (.lnkPortStatus n) Fd.lnkPortStatusRepaired k).countLanes).repaired n = k :=
    (Device.fld_setFld_ne _ _ _ _ _ _ hne).trans
      ((Device.fld_setFld_self _ _ _ _ hrange (by decide) (by decide)).trans (Nat.mod_eq_of_lt (show k < 16 by omega)))
  have hstate : ((d.setFld (.lnkPortStatus n) Fd.lnkPortStatusRepaired k).countLanes).portState n = d.portState n :=
    (Device.fld_setFld_ne _ _ _ _ _ _ hne).trans (Device.fld_setFld_apart _ _ _ (by decide))
  unfold Device.repairLane
  generalize (d.setFld (.lnkPortStatus n) Fd.lnkPortStatusRepaired k).countLanes = a at work hports hrepaired hstate
  dsimp only
  split
  · exact ⟨hrepaired, hstate, work.regs, hports, work.mem, work.flowDone⟩
  · exact ⟨hrepaired, hstate, work.regs, hports, work.mem, work.flowDone⟩

/-! ### Ports that have FAILED -/

/-- A port that is not READY sends no packet. -/
theorem Device.port_sendPacket (hn : d.portState n ≠ 4) (plane : Nat) (k : Packet) : (d.sendPacket plane k).port n = d.port n := by
  unfold Device.sendPacket
  dsimp only
  split
  · next m hm =>
    obtain ⟨-, htakes⟩ := Option.filter_eq_some_iff.1 hm
    have hready : d.portState m = 4 := by
      simp only [Device.portTakes, Bool.and_eq_true, beq_iff_eq] at htakes
      exact htakes.1.1
    exact (d.sends_sendOn m _ k).others n fun e => hn (e ▸ hready)
  · rfl

/-- The registers of logging and of the ports' traffic. -/
def lossRegs : List Reg := logRegs ++ trafficRegs

theorem portStatus_not_lossRegs (hn : n < 28) : (Reg.lnkPortStatus n).offset ∉ lossRegs.map Reg.offset := by
  have all : ∀ k < 28, (Reg.lnkPortStatus k).offset ∉ lossRegs.map Reg.offset := by decide +kernel
  exact all n hn

theorem portRetry_not_lossRegs (hn : n < 28) : (Reg.lnkPortRetry n).offset ∉ lossRegs.map Reg.offset := by
  have all : ∀ k < 28, (Reg.lnkPortRetry k).offset ∉ lossRegs.map Reg.offset := by decide +kernel
  exact all n hn

theorem logRegs_subset_lossRegs : logRegs ⊆ lossRegs := List.subset_append_left _ _
theorem trafficRegs_subset_lossRegs : trafficRegs ⊆ lossRegs := List.subset_append_right _ _

theorem Device.within_emit (d : Device) (rs : List Reg) (o : Out) : Within rs d (d.emit o) := .of_regs rfl rfl

theorem Device.within_mgmtOpen (d : Device) (plane sub : Nat) (msg : MgmtMsg) : Within lossRegs d (d.mgmtOpen plane sub msg) :=
  (((Within.of_regs rfl rfl : Within lossRegs d d.freeValue.2).trans (d.freeValue.2.within_emit _ _))).trans
    ((Device.within_sendPacket _ _ _).mono trafficRegs_subset_lossRegs)

theorem Device.port_mgmtOpen (hn : d.portState n ≠ 4) (plane sub : Nat) (msg : MgmtMsg) : (d.mgmtOpen plane sub msg).port n = d.port n :=
  Device.port_sendPacket (d := d.freeValue.2.emit (.mgmt plane msg)) hn _ _

theorem Device.within_setPort (d : Device) (rs : List Reg) (n : Nat) (x : Port) : Within rs d (d.setPort n x) := .of_regs rfl rfl

/-- The registers that a port's failure may write. -/
def failRegs (n : Nat) : List Reg := .lnkPortStatus n :: .lnkPortRetry n :: lossRegs

theorem lossRegs_subset_failRegs (n : Nat) : lossRegs ⊆ failRegs n := fun _ h => List.mem_cons_of_mem _ (List.mem_cons_of_mem _ h)

theorem logRegs_subset_failRegs : logRegs ⊆ failRegs n := List.Subset.trans logRegs_subset_lossRegs (lossRegs_subset_failRegs n)

/-- A port that has FAILED, as far as it is seen. -/
structure Device.Failed (n : Nat) (d e : Device) : Prop where
  work : Within (failRegs n) d e
  state : e.portState n = 6
  failovers : e.fld (.lnkPortRetry n) Fd.lnkPortRetryFailovers =
    satAdd Fd.lnkPortRetryFailovers.width (d.fld (.lnkPortRetry n) Fd.lnkPortRetryFailovers) 1
  replay : (e.port n).replay = []

/-- R353, R354: what a port's failure does. -/
theorem Device.failed_portFail (hn : n < 28) : d.Failed n (d.portFail n) := by
  unfold Device.portFail
  extract_lets x failed logged counted asked lost dropped y cleared
  have hlogged : Within logRegs failed logged := (Within.refl _ failed).log _ _ (List.Subset.refl _)
  have hcounted : Within (failRegs n) d counted := by
    have hfailed : Within (failRegs n) d failed := (Within.refl _ d).setFld _ _ List.mem_cons_self
    exact (hfailed.trans (hlogged.mono logRegs_subset_failRegs)).setFld _ _ (List.mem_cons_of_mem _ List.mem_cons_self)
  have hstate : counted.portState n = 6 :=
    (Device.fld_setFld_ne _ _ _ _ _ _ (portStatus_ne_retry n n)).trans
      ((hlogged.regs.fld (portStatus_not_logRegs hn) _).trans (Device.portState_setPortState d hn (by decide)))
  have hfail : counted.fld (.lnkPortRetry n) Fd.lnkPortRetryFailovers =
      satAdd Fd.lnkPortRetryFailovers.width (d.fld (.lnkPortRetry n) Fd.lnkPortRetryFailovers) 1 := by
    have hkept : logged.fld (.lnkPortRetry n) Fd.lnkPortRetryFailovers = d.fld (.lnkPortRetry n) Fd.lnkPortRetryFailovers :=
      (hlogged.regs.fld (portRetry_not_logRegs hn) _).trans (Device.fld_setFld_ne _ _ _ _ _ _ (portStatus_ne_retry n n).symm)
    exact (Device.fld_bump_self _ _ _ _ (by simpa [Reg.inRange] using hn) (by decide) (by decide)).trans (congrArg (satAdd _ · 1) hkept)
  have ends : ∀ e : Device, Within lossRegs counted e → (e.port n).replay = [] → d.Failed n e := fun e h hr =>
    ⟨hcounted.trans (h.mono (lossRegs_subset_failRegs n)), (h.regs.fld (portStatus_not_lossRegs hn) _).trans hstate,
      (h.regs.fld (portRetry_not_lossRegs hn) _).trans hfail, hr⟩
  split
  · refine ends _ ((counted.within_setPort _ _ _).trans (Device.within_mgmtOpen _ _ _ _)) ?_
    have hready : counted.portState n ≠ 4 := hstate ▸ by decide
    rw [Device.port_mgmtOpen (by exact hready), Device.port_setPort_self]
  · have hcleared : Within lossRegs counted cleared :=
      (Within.foldl (fun a m _ => .ite (.refl _ a) (a.within_setPort _ m _)) counted).trans (Device.within_setPort _ _ n _)
    have hreplay : (cleared.port n).replay = [] := by rw [Device.port_setPort_self]
    split
    · exact ends _ hcleared hreplay
    · exact ends _ (hcleared.log _ _ logRegs_subset_lossRegs) ((congrArg Port.replay (cleared.port_log n _ _)).trans hreplay)

/-- R69: a port whose lanes do not lock in time has FAILED where the repair lane cannot serve them. -/
theorem Device.laneTimeout_fails (hn : n < 28) (hstate : d.portState n = 1 ∨ d.portState n = 5) (hopen : d.openLanes n ≠ [])
    (hrepair : d.repaired n ≠ 15 ∨ 2 ≤ (d.openLanes n).length) :
    Within (failRegs n) d (d.laneTimeout n) ∧ (d.laneTimeout n).portState n = 6 := by
  have heq : d.laneTimeout n = if d.portState n = 5 then d.portFail n else (d.setPortState n 6).logBoot 0x0143 3 (n / 7) := by
    rw [Device.laneTimeout]
    simp only [if_pos (And.intro hn hstate)]
    split
    · next h => exact absurd h hopen
    · next k hopen' hfree => exact absurd hrepair (by simp [hopen', eq_of_beq hfree])
    · rfl
  rw [heq]
  split
  · exact ⟨(Device.failed_portFail hn).work, (Device.failed_portFail hn).state⟩
  · refine ⟨((Within.refl _ d).setFld _ _ List.mem_cons_self).logBoot _ _ _ logRegs_subset_failRegs, ?_⟩
    exact (Device.fld_logBoot _ _ _ _ _ _ (portStatus_not_logRegs hn)).trans (Device.portState_setPortState d hn (by decide))

end

end Sys2Proof.Machine
end

section
/-! PROOF. Ports that qualify, come back from a retrain, or restart as new links. -/

namespace Sys2Proof.Machine

theorem exec_qualificationWindowEnd (n errors : Nat) (lanes : List Nat) (s : State) :
    exec (.qualificationWindowEnd n errors lanes) s = going (·.windowCounts n true (errors, lanes)) s := rfl
theorem exec_qualificationRetrainEnd (n : Nat) (s : State) : exec (.qualificationRetrainEnd n) s =
    going (fun d => if n < 28 ∧ d.portState n = 3 then d.setPort n { d.port n with between := false } else d) s := rfl
theorem exec_retrainCheckWindowEnd (n errors : Nat) (s : State) :
    exec (.retrainCheckWindowEnd n errors) s = going (·.checkWindow n errors) s := rfl
theorem exec_retrainTimeout (n : Nat) (s : State) :
    exec (.retrainTimeout n) s = going (fun d => if n < 28 ∧ d.portState n = 5 then d.portFail n else d) s := rfl
theorem exec_portRestart (n : Nat) (s : State) : exec (.portRestart n) s = run (·.portRestart n) s := rfl

section
variable {d : Device} {n : Nat}

/-! ### Qualification -/

/-- R72: this end's counts of a window are kept, and QUAL tells the switch of them. -/
def Device.counted (d : Device) (n : Nat) (counts : Nat × List Nat) : Device :=
  (d.setPort n { d.port n with own := some counts }).mgmtOn n 2 (.qual n counts.1 counts.2)

theorem Device.windowCounts_eq (counts : Nat × List Nat) (hn : n < 28) (hstate : d.portState n = 3) (hb : (d.port n).between = false) :
    d.windowCounts n true counts = (d.counted n counts).windowEnd n := if_pos ⟨hn, hstate, hb⟩

/-- What is known of a port once its counts are kept. -/
structure Device.Counted (n : Nat) (counts : Nat × List Nat) (d e : Device) : Prop where
  work : Within [.lnkPortTraffic n] d e
  state : e.portState n = d.portState n
  own : (e.port n).own = some counts
  peer : (e.port n).peer = (d.port n).peer
  window : (e.port n).window = (d.port n).window
  others : ∀ m, m ≠ n → e.port m = d.port m
  txWait : e.txWait = d.txWait

theorem Device.counted_spec (d : Device) (n : Nat) (counts : Nat × List Nat) : d.Counted n counts (d.counted n counts) := by
  have hset := d.port_setPort_self n { d.port n with own := some counts }
  have hsent := Device.sends_mgmtOn (d.setPort n { d.port n with own := some counts }) n 2 (.qual n counts.1 counts.2)
  exact ⟨(d.within_setPort _ n _).trans hsent.within, hsent.portState, hsent.own.trans (congrArg Port.own hset),
    hsent.peer.trans (by rw [hset]), hsent.window.trans (by rw [hset]),
    fun m hm => (hsent.others m hm).trans (d.port_setPort_ne n _ hm), hsent.txWait⟩

theorem Device.windowEnd_waits (h : (d.port n).peer = none) : d.windowEnd n = d := by
  unfold Device.windowEnd
  dsimp only
  rw [h]
  cases (d.port n).own <;> rfl

/-- R72: the counts of a window are used up. -/
def Port.judged (x : Port) : Port := { x with own := none, peer := none }

/-- R69, R72: two windows' counts that pass. -/
theorem Device.windowEnd_passes {a b : Nat × List Nat} (ho : (d.port n).own = some a) (hp : (d.port n).peer = some b)
    (ha : windowOk a = true) (hb : windowOk b = true) (hw : d.txWait = []) :
    d.windowEnd n = (d.setPort n (d.port n).judged).setPortState n 4 := by
  unfold Device.windowEnd
  simp only [ho, hp, ha, hb, Bool.and_self, if_true]
  exact Device.drainTx_of_empty (by simpa [Device.setPortState] using hw)

/-- R69: a first window whose counts do not pass is followed by a retrain. -/
theorem Device.windowEnd_retrains {a b : Nat × List Nat} (ho : (d.port n).own = some a) (hp : (d.port n).peer = some b)
    (hbad : windowOk a = false ∨ windowOk b = false) (h0 : (d.port n).window = 0) :
    d.windowEnd n = d.setPort n { d.port n with own := none, peer := none, window := (d.port n).window + 1, between := true } := by
  unfold Device.windowEnd
  have hand : (windowOk a && windowOk b) = false := Bool.and_eq_false_iff.2 hbad
  simp only [ho, hp, hand, if_neg Bool.false_ne_true, if_pos h0]

theorem Device.judged_spec (d : Device) (hn : n < 28) :
    ((d.setPort n (d.port n).judged).setPortState n 4).portState n = 4 ∧
      ((d.setPort n (d.port n).judged).setPortState n 4).port n = (d.port n).judged ∧
      Within [.lnkPortStatus n, .lnkPortTraffic n] d ((d.setPort n (d.port n).judged).setPortState n 4) :=
  ⟨Device.portState_setPortState _ hn (by decide), (Device.port_setPortState _ n n 4).trans (d.port_setPort_self n _),
    (d.within_setPort _ n _).setFld _ _ List.mem_cons_self⟩

/-! ### The end of a retrain -/

/-- R351, R353: what a port that comes back has to send again. -/
def Port.resent (x : Port) : Port := { x with later := x.replay }

theorem Device.checkWindow_eq (hn : n < 28) (hstate : d.portState n = 5) (hopen : d.openLanes n = []) :
    d.checkWindow n 0 = (((d.setPortState n 4).setPort n ((d.setPortState n 4).port n).resent).pumpFlits n).drainTx :=
  if_pos ⟨hn, hstate, rfl, hopen⟩

/-- R351 to R353: a port that comes back is READY, and the flits not acknowledged leave again. -/
theorem Device.checkWindow_spec (hn : n < 28) (hstate : d.portState n = 5) (hopen : d.openLanes n = []) (hw : d.txWait = []) :
    (d.checkWindow n 0).portState n = 4 ∧
      (d.checkWindow n 0).out = d.out ++ ((d.port n).replay.take (frameFlits - (d.port n).frame)).map (fun f => Out.flit n f.bytes) ∧
      ((d.checkWindow n 0).port n).replay = (d.port n).replay ∧
      ((d.checkWindow n 0).port n).later = (d.port n).replay.drop (frameFlits - (d.port n).frame) ∧
      (∀ m, m ≠ n → (d.checkWindow n 0).port m = d.port m) ∧ Within [.lnkPortStatus n] d (d.checkWindow n 0) := by
  have hport : (d.setPortState n 4).port n = d.port n := d.port_setPortState n n 4
  have hready : Within [.lnkPortStatus n] d (d.setPortState n 4) := (Within.refl _ d).setFld _ _ List.mem_cons_self
  have hout : (d.setPortState n 4).out = d.out := Device.setFld_out _ _ _ _
  have hst : (d.setPortState n 4).portState n = 4 := Device.portState_setPortState d hn (by decide)
  have hwait : (d.setPortState n 4).txWait = [] := (Device.setFld_txWait _ _ _ _).trans hw
  have hports : ∀ m, (d.setPortState n 4).port m = d.port m := fun m => d.port_setPortState n m 4
  rw [Device.checkWindow_eq hn hstate hopen]
  generalize d.setPortState n 4 = a at hready hout hst hwait hports
  have hself := a.port_setPort_self n (d.port n).resent
  have hsent := (a.setPort n (d.port n).resent).sends_pumpFlits n
  rw [hports n, Device.drainTx_of_empty (hsent.txWait.trans hwait)]
  refine ⟨hsent.portState.trans hst, ?_, ?_, ?_, fun m hm => ?_, ?_⟩
  · rw [Device.out_pumpFlits, hself]
    exact congrArg (· ++ _) hout
  · rw [Device.port_pumpFlits, hself]
    rfl
  · rw [Device.port_pumpFlits, hself]
    rfl
  · exact (hsent.others m hm).trans ((a.port_setPort_ne n _ hm).trans (hports m))
  · exact (hready.trans (a.within_setPort _ n _)).trans (.of_regs hsent.within.frame (Device.regs_pumpFlits _ n))

/-! ### Restart -/

/-- R353: a port of a new link. -/
def Port.fresh (x : Port) : Port :=
  { retrains := x.retrains, txFlits := x.txFlits, rxFlits := x.rxFlits, rx := x.rx, unsent := x.unsent }

theorem Device.portRestart_eq (hn : n < 28) (hstate : d.portState n = 6) : d.portRestart n =
    (((d.setPort n (d.port n).fresh).setFld (.lnkPortStatus n) Fd.lnkPortStatusLocked 0).setPortState n 1) := if_pos ⟨hn, hstate⟩

theorem Device.portRestart_spec (hn : n < 28) (hstate : d.portState n = 6) :
    (d.portRestart n).portState n = 1 ∧ (d.portRestart n).locked n = 0 ∧ (d.portRestart n).port n = (d.port n).fresh ∧
      Within [.lnkPortStatus n] d (d.portRestart n) ∧ ∀ m, m ≠ n → (d.portRestart n).port m = d.port m := by
  have hrange : (Reg.lnkPortStatus n).inRange = true := by simpa [Reg.inRange] using hn
  rw [Device.portRestart_eq hn hstate]
  refine ⟨Device.portState_setPortState _ hn (by decide), ?_, by simp, ?_, fun m hm => ?_⟩
  · exact (Device.fld_setFld_apart _ _ _ (by decide)).trans (Device.fld_setFld_self _ _ _ _ hrange (by decide) (by decide))
  · exact ((d.within_setPort _ n _).setFld _ _ List.mem_cons_self).setFld _ _ List.mem_cons_self
  · simpa using d.port_setPort_ne n _ hm

end

end Sys2Proof.Machine
end

section
/-! PROOF. Retrains of a READY port. -/

namespace Sys2Proof.Machine

theorem exec_controlSilenceTimeout (n : Nat) (s : State) :
    exec (.controlSilenceTimeout n) s = going (fun d => if n < 28 then d.portRetrain n 4 else d) s := rfl
theorem exec_portRetrainNow (n : Nat) (s : State) : exec (.portRetrainNow n) s = run (·.retrainNow n) s := rfl

/-- R352: the trigger of lost lanes shows which lanes stay locked. -/
def Device.lockLost (d : Device) (n trigger lost : Nat) : Device :=
  if trigger = 1 then d.setFld (.lnkPortStatus n) Fd.lnkPortStatusLocked (maskOf ((bitList 9 (d.locked n)).filter fun k => !bitOf lost k))
  else d

theorem exec_portRetrain (n trigger lost : Nat) (s : State) : exec (.portRetrain n trigger lost) s =
    going (fun d => if n < 28 ∧ d.portState n = 4 ∧ d.retrainDue n trigger lost = true then
      (d.lockLost n trigger lost).portRetrain n trigger else d) s := rfl

section
variable {d : Device} {n : Nat}

/-- R352: a port with one more retrain. -/
def Port.retrained (x : Port) (now : Word) : Port := { x with replays := 0, retrains := now :: x.retrains }

/-- A READY port's retrain, as far as it is seen: RETRAINING, or FAILED with the third in 60 s. -/
structure Device.Retrained (n : Nat) (d e : Device) : Prop where
  work : Within (failRegs n) d e
  retraining : d.recentRetrains n < 2 → e.portState n = 5 ∧ e.port n = (d.port n).retrained d.now ∧
    e.fld (.lnkPortRetry n) Fd.lnkPortRetryRetrains =
      satAdd Fd.lnkPortRetryRetrains.width (d.fld (.lnkPortRetry n) Fd.lnkPortRetryRetrains) 1
  failed : 2 ≤ d.recentRetrains n → e.portState n = 6

/-- R353: a retrain counts among those of the last 60 s. -/
theorem Device.recentRetrains_succ {e : Device} (hp : e.port n = (d.port n).retrained d.now) (hnow : e.now = d.now) :
    e.recentRetrains n = d.recentRetrains n + 1 := by
  rw [Device.recentRetrains, Device.recentRetrains, hp, hnow, Port.retrained, List.filter_cons_of_pos (by simp),
    List.length_cons]

theorem Device.retrained_portRetrain (hn : n < 28) (hstate : d.portState n = 4) (trigger : Nat) : d.Retrained n (d.portRetrain n trigger) := by
  have hrange : (Reg.lnkPortRetry n).inRange = true := by simpa [Reg.inRange] using hn
  rw [Device.portRetrain, if_pos hstate]
  extract_lets x started logged
  have hstarted : Within (failRegs n) d started := (d.within_setPort _ n _).setFld _ _ List.mem_cons_self
  have hbumped : Within (failRegs n) d (started.bump (.lnkPortRetry n) Fd.lnkPortRetryRetrains) :=
    hstarted.setFld _ _ (List.mem_cons_of_mem _ List.mem_cons_self)
  have hlog : Within logRegs (started.bump (.lnkPortRetry n) Fd.lnkPortRetryRetrains) logged :=
    (Within.refl _ _).log _ _ (List.Subset.refl _)
  have hwork : Within (failRegs n) d logged := hbumped.trans (hlog.mono logRegs_subset_failRegs)
  have hport : logged.port n = (d.port n).retrained d.now := by
    refine (Device.port_log _ n _ _).trans ((Device.port_bump _ n _ _ _).trans ((Device.port_setPortState _ n n 5).trans ?_))
    exact d.port_setPort_self n _
  have hnow : logged.now = d.now :=
    (Device.log_now _ _ _).trans ((Device.bump_now _ _ _ _).trans ((Device.setFld_now _ _ _ _).trans (Device.setPort_now _ _ _)))
  have hretraining : logged.portState n = 5 := by
    refine (hlog.regs.fld (portStatus_not_logRegs hn) _).trans ((Device.fld_setFld_ne _ _ _ _ _ _ (portStatus_ne_retry n n)).trans ?_)
    exact Device.portState_setPortState _ hn (by decide)
  have hcount : logged.fld (.lnkPortRetry n) Fd.lnkPortRetryRetrains =
      satAdd Fd.lnkPortRetryRetrains.width (d.fld (.lnkPortRetry n) Fd.lnkPortRetryRetrains) 1 := by
    have hkept : started.fld (.lnkPortRetry n) Fd.lnkPortRetryRetrains = d.fld (.lnkPortRetry n) Fd.lnkPortRetryRetrains :=
      Device.fld_setFld_ne _ _ _ _ _ _ (portStatus_ne_retry n n).symm
    refine (hlog.regs.fld (portRetry_not_logRegs hn) _).trans ((Device.fld_bump_self _ _ _ _ hrange (by decide) (by decide)).trans ?_)
    exact congrArg (satAdd _ · 1) hkept
  have hrecent := Device.recentRetrains_succ hport hnow
  split
  · next h =>
    have hfailed := Device.failed_portFail (d := logged) hn
    exact ⟨hwork.trans hfailed.work, fun h2 => absurd h (by omega), fun _ => hfailed.state⟩
  · next h => exact ⟨hwork, fun _ => ⟨hretraining, hport, hcount⟩, fun h2 => absurd h2 (by omega)⟩

end

/-! ### Rows -/

/-- The row c retrains port n, or has it fail with the third retrain within 60 s. -/
def State.Retrains (s : State) (n : Nat) (c : Instr) : Prop :=
  (s.dev.recentRetrains n < 2 → ∃ t : State, exec c s = .next t ∧ t.pending = s.pending ∧ t.dev.portState n = 5 ∧
    t.dev.port n = { s.dev.port n with replays := 0, retrains := s.dev.now :: (s.dev.port n).retrains } ∧
    t.dev.fld (.lnkPortRetry n) Fd.lnkPortRetryRetrains =
      satAdd Fd.lnkPortRetryRetrains.width (s.dev.fld (.lnkPortRetry n) Fd.lnkPortRetryRetrains) 1 ∧ t.dev.mem = s.dev.mem) ∧
  (2 ≤ s.dev.recentRetrains n → ∃ t : State, exec c s = .next t ∧ t.pending = s.pending ∧ t.dev.portState n = 6 ∧ t.dev.mem = s.dev.mem)

section
variable {s : State} {n : Nat}

/-- A row that starts a retrain of a device like the state's. -/
theorem State.retrains_of {c : Instr} {a : Device} {trigger : Nat} (hn : n < 28)
    (hrow : (a.portRetrain n trigger).flowDone = s.dev.flowDone → exec c s = .next { s with dev := a.portRetrain n trigger })
    (hstate : a.portState n = 4) (hport : a.port n = s.dev.port n) (hnow : a.now = s.dev.now)
    (hretry : a.fld (.lnkPortRetry n) Fd.lnkPortRetryRetrains = s.dev.fld (.lnkPortRetry n) Fd.lnkPortRetryRetrains)
    (hmem : a.mem = s.dev.mem) (hflow : a.flowDone = s.dev.flowDone) : s.Retrains n c := by
  have h := Device.retrained_portRetrain hn hstate trigger
  have hrecent : a.recentRetrains n = s.dev.recentRetrains n := by rw [Device.recentRetrains, Device.recentRetrains, hport, hnow]
  have hnext := hrow (h.work.flowDone.trans hflow)
  constructor
  · intro h2
    obtain ⟨hst, hp, hcount⟩ := h.retraining (hrecent ▸ h2)
    exact ⟨_, hnext, rfl, hst, hp.trans (by rw [hport, hnow, Port.retrained]), hcount.trans (congrArg (satAdd _ · 1) hretry),
      h.work.mem.trans hmem⟩
  · intro h2
    exact ⟨_, hnext, rfl, h.failed (hrecent ▸ h2), h.work.mem.trans hmem⟩

/-- R352, trigger 4: no control flit has come for too long. -/
theorem State.controlSilence_retrains (hs : s.going = true) (hn : n < 28) (hstate : s.dev.portState n = 4) :
    s.Retrains n (.controlSilenceTimeout n) :=
  State.retrains_of (a := s.quiet.dev) hn (going_row hs (exec_controlSilenceTimeout n s) (if_pos hn)) hstate rfl rfl rfl rfl rfl

theorem Device.lockLost_spec (d : Device) (n trigger lost : Nat) : Within [.lnkPortStatus n] d (d.lockLost n trigger lost) ∧
    (d.lockLost n trigger lost).portState n = d.portState n ∧ (d.lockLost n trigger lost).ports = d.ports ∧
    (d.lockLost n trigger lost).now = d.now := by
  unfold Device.lockLost
  split
  · exact ⟨(Within.refl _ d).setFld _ _ List.mem_cons_self, Device.fld_setFld_apart _ _ _ (by decide), Device.setFld_ports _ _ _ _,
      Device.setFld_now _ _ _ _⟩
  · exact ⟨.refl _ d, rfl, rfl, rfl⟩

/-- R352: a trigger that holds. -/
theorem State.portRetrain_retrains {trigger lost : Nat} (hs : s.going = true) (hn : n < 28) (hstate : s.dev.portState n = 4)
    (hdue : s.dev.retrainDue n trigger lost = true) : s.Retrains n (.portRetrain n trigger lost) := by
  obtain ⟨hwork, hst, hports, hnow⟩ := s.quiet.dev.lockLost_spec n trigger lost
  have hretry : (Reg.lnkPortRetry n).offset ∉ [Reg.lnkPortStatus n].map Reg.offset := by simpa using (portStatus_ne_retry n n).symm
  exact State.retrains_of hn (going_row hs (exec_portRetrain n trigger lost s) (if_pos ⟨hn, hstate, hdue⟩)) (hst.trans hstate)
    (Device.port_congr hports n) hnow (hwork.regs.fld hretry _) hwork.mem hwork.flowDone

/-- R352: a trigger that does not hold does nothing. -/
theorem State.portRetrain_stays {trigger lost : Nat} (hs : s.going = true) (hdue : s.dev.retrainDue n trigger lost = false) :
    exec (.portRetrain n trigger lost) s = .next s.quiet := by
  refine going_row hs (exec_portRetrain n trigger lost s) (if_neg fun h => ?_) rfl
  exact absurd (h.2.2.symm.trans hdue) (by decide)

/-- R353: a retrain that software asks for. -/
theorem State.retrainNow_retrains (hs : s.inService = true) (hn : n < 28) (hstate : s.dev.portState n = 4) :
    s.Retrains n (.portRetrainNow n) :=
  State.retrains_of (a := s.quiet.dev.freeValue.2) (trigger := s.quiet.dev.freeValue.1.toNat) hn
    (run_row hs (exec_portRetrainNow n s) (if_pos ⟨hn, hstate⟩)) hstate rfl rfl rfl rfl rfl

end

end Sys2Proof.Machine
end

section
/-! PROOF. Flits that arrive on a port or leave by it. -/

namespace Sys2Proof.Machine

theorem exec_controlFlitSend (n : Nat) (s : State) :
    exec (.controlFlitSend n) s = going (fun d => if d.flitsPass n then d.controlSend n else d) s := rfl
theorem exec_controlFlitReceive (n : Nat) (flit : RxFlit) (s : State) : exec (.controlFlitReceive n flit) s =
    going (fun d => if d.flitsPass n then d.onFlit n flit.word fun d failed => d.takeControl n flit.bytes failed else d) s := rfl
theorem exec_dataFlitReceive (n : Nat) (flit : List Byte) (u : Bool) (bits : Nat) (s : State) : exec (.dataFlitReceive n flit u bits) s =
    going (fun d => if d.flitsPass n then d.onFlit n (codewordEnd u bits) fun d failed => d.takeFlit n flit failed else d) s := rfl

theorem Device.lt_of_flitsPass {d : Device} {n : Nat} (h : d.flitsPass n = true) : n < 28 := by
  simp only [Device.flitsPass, Bool.and_eq_true, decide_eq_true_eq] at h
  exact h.1.1

/-! ### A frame begins -/

/-- R350: a port's next frame, once a number of the data flits that waited have left in it. -/
def Port.framed (x : Port) (sent : Nat) : Port := { x with frame := sent, later := x.later.drop sent }

/-- R350: the control flit of a port. -/
def Device.controlFlit (d : Device) (n : Nat) : Out :=
  .flit n (flitBytes (2 * 2 ^ 92 + (d.port n).expSeq * 2 ^ 80 + ofBool (d.port n).nak * 2 ^ 79)
    (leBytes 8 d.now.toNat ++ (List.range 4).flatMap fun vc => leBytes 4 (SMap.at' 0 (d.port n).freed vc)))

/-- R350: idle flits for the rest of a frame. -/
def idleRest (n : Nat) (x : Port) : List Out := if x.frame < frameFlits then [.idle n (frameFlits - x.frame)] else []

section
variable (d : Device) (n : Nat)

/-- The device with the control flit of a port sent. -/
def Device.controlSent : Device :=
  { d.setPort n ((d.port n).framed 0) with out := d.out ++ idleRest n (d.port n) ++ [d.controlFlit n] }

theorem Device.controlSend_eq : d.controlSend n = if d.portState n = 5 then d.controlSent n else (d.controlSent n).pumpFlits n := by
  unfold Device.controlSend Device.controlSent idleRest
  by_cases h : (d.port n).frame < frameFlits
  · simp only [if_pos h]
    rfl
  · simp only [if_neg h, List.append_nil]
    rfl

/-- R350: the flits that leave in a port's next frame. -/
def Device.framed (d : Device) (n : Nat) : List TxFlit := if d.portState n = 5 then [] else (d.port n).later.take frameFlits

theorem Port.pumped_framed (x : Port) : (x.framed 0).pumped = x.framed (x.later.take frameFlits).length := by
  have hdrop : x.later.drop (x.later.take frameFlits).length = x.later.drop frameFlits := by
    rw [List.length_take]
    rcases Nat.le_total frameFlits x.later.length with h | h
    · rw [Nat.min_eq_left h]
    · rw [Nat.min_eq_right h, List.drop_length, List.drop_eq_nil_of_le h]
  calc (x.framed 0).pumped = { x with later := x.later.drop frameFlits, frame := 0 + (x.later.take frameFlits).length } := rfl
    _ = x.framed (x.later.take frameFlits).length := by rw [Port.framed, hdrop, Nat.zero_add]

end

/-! ### A codeword ends -/

/-- The registers that an injector's event may write. -/
def injectRegs : List Reg := (List.range 4).map Reg.tstInject

/-- Injectors have counted an event between d and e, and registers of a list have changed. -/
structure Device.Injected (rs : List Reg) (d e : Device) : Prop where
  frame : e = { d with regs := e.regs, injectors := e.injectors }
  regs : d.sameRegs e rs

namespace Device.Injected

variable {rs : List Reg} {d e e' : Device}

theorem refl (rs : List Reg) (d : Device) : Injected rs d d := ⟨rfl, .refl d _⟩

theorem trans (h : Injected rs d e) (g : Injected rs e e') : Injected rs d e' where
  frame :=
    calc e' = { e with regs := e'.regs, injectors := e'.injectors } := g.frame
      _ = { d with regs := e'.regs, injectors := e'.injectors } :=
        (congrArg (fun a : Device => { a with regs := e'.regs, injectors := e'.injectors }) h.frame :)
  regs := h.regs.trans g.regs

theorem mono {rs' : List Reg} (h : Injected rs d e) (hs : rs ⊆ rs') : Injected rs' d e := ⟨h.frame, h.regs.mono hs⟩

theorem ite {p : Prop} [Decidable p] {a b : Device} (ha : Injected rs d a) (hb : Injected rs d b) : Injected rs d (if p then a else b) := by
  split
  · exact ha
  · exact hb

theorem setFld (h : Injected rs d e) (r : Reg) (f : RegField) (v : Nat) (hr : r ∈ rs) : Injected rs d (e.setFld r f v) :=
  h.trans ⟨by unfold Device.setFld Device.setReg; split <;> rfl, e.sameRegs_setFld _ _ _ hr⟩

theorem injectors (h : Injected rs d e) (m : SMap Injector) : Injected rs d { e with injectors := m } :=
  h.trans ⟨rfl, Device.sameRegs_of_regs _ rfl⟩

theorem ports (h : Injected rs d e) : e.ports = d.ports := (congrArg Device.ports h.frame :)

end Device.Injected

theorem Device.injected_inject (d : Device) (kind : Nat) (target part : Option Nat) : Injected injectRegs d (d.inject kind target part).1 := by
  unfold Device.inject
  extract_lets mask allowed
  refine List.foldlRecOn (motive := fun acc : Device × Option Nat => Injected injectRegs d acc.1) _ _ (.refl _ d) fun acc h k hk => ?_
  have hr : Reg.tstInject k ∈ injectRegs := List.mem_map_of_mem hk
  simp only [apply_ite Prod.fst]
  exact .ite (.ite (h.injectors _) (.ite (h.injectors _) ((h.injectors _).setFld _ _ _ hr))) h

/-- The registers that a flit's arrival may write before the flit is looked at. -/
def arriveRegs (n : Nat) : List Reg := .lnkPortFec n :: injectRegs

/-- A flit has arrived on port n, with its codeword, between d and e. -/
structure Device.Arrived (n : Nat) (d e : Device) : Prop where
  frame : e = { d with regs := e.regs, ports := e.ports, injectors := e.injectors }
  regs : d.sameRegs e (arriveRegs n)
  port : e.port n = { d.port n with cwFlit := (e.port n).cwFlit, cwBad := (e.port n).cwBad, badWords := (e.port n).badWords }
  others : ∀ m, m ≠ n → e.port m = d.port m

theorem Device.Injected.arrived {n : Nat} {d e : Device} (h : Injected (arriveRegs n) d e) {x : Port}
    (hx : x = { d.port n with cwFlit := x.cwFlit, cwBad := x.cwBad, badWords := x.badWords }) : d.Arrived n (e.setPort n x) where
  frame := (congrArg (fun b : Device => { b with ports := (e.setPort n x).ports }) h.frame :)
  regs := h.regs
  port := by rw [Device.port_setPort_self]; exact hx
  others m hm := (e.port_setPort_ne n x hm).trans (Device.port_congr h.ports m)

/-- R349: what a codeword's end may change. -/
theorem Device.arrived_codeword (d : Device) (n : Nat) (word : Option Nat) : d.Arrived n (d.codeword n word).1 := by
  unfold Device.codeword
  extract_lets x fresh r bits lost a
  have hr : Injected (arriveRegs n) d r.1 := by
    have h : Injected injectRegs d r.1 := by
      rw [show r.1 = if fresh = true then (d.inject 4 (some n) none).1 else d from apply_ite Prod.fst _ _ _]
      exact .ite (d.injected_inject _ _ _) (.refl _ d)
    exact h.mono (List.subset_cons_self _ _)
  exact Injected.arrived (e := a) (.ite (hr.setFld _ _ _ List.mem_cons_self) (.ite (hr.setFld _ _ _ List.mem_cons_self) hr)) rfl

end Sys2Proof.Machine
end

section
/-! PROOF. What a control flit and a data flit do to the port they arrive on. -/

namespace Sys2Proof.Machine

/-! ### Acknowledgement and credit -/

section
variable (x : Port) (bs : List Byte)

/-- R351: how many flits of the replay buffer a control flit acknowledges. -/
def Port.acked : Nat := seqAfter ((x.replay.map (·.seq)).headD x.nextSeq) (flitBits bs 123 112)

/-- R351: a control flit acknowledges flits of the replay buffer. -/
def Port.told : Bool := decide (0 < x.acked bs) && decide (x.acked bs ≤ x.replay.length)

/-- R351, R354: a port once flits are acknowledged. -/
def Port.afterAck : Port :=
  if x.told bs then { x with replay := x.replay.drop (x.acked bs),
                             kept := keptFlits (x.kept ++ x.replay.take (x.acked bs)) (x.replay.drop (x.acked bs)), replays := 0 }
  else x

/-- R356: the count of freed slots of a channel that a control flit carries. -/
def freedCount (vc : Nat) : Nat := ofLeBytes ((bs.drop (24 + 4 * vc)).take 4)

/-- R356: the credit that a control flit gives back on a channel. -/
def Port.gained (vc : Nat) : Nat := (freedCount bs vc + 2 ^ 32 - SMap.at' 0 x.counted vc) % 2 ^ 32

/-- R356: a port once credit of a channel is given back. -/
def Port.credited (vc : Nat) : Port :=
  { x with
    credit := SMap.set (fun _ => 0) x.credit vc (x.creditOf vc + x.gained bs vc)
    counted := SMap.set (fun _ => 0) x.counted vc (freedCount bs vc) }

/-- R351, R356: a port once a control flit is taken. -/
def Port.controlled : Port := (List.range 4).foldl (fun (x : Port) vc => x.credited bs vc) (x.afterAck bs)

/-- R351: a port whose flits not acknowledged are to be sent again. -/
def Port.again : Port := { x with replays := x.replays + 1, later := x.replay }

/-- R351: a control flit asks for a resend, and there is something to send. -/
def Port.asks : Bool := flitBits bs 111 111 == 1 && !x.replay.isEmpty

theorem Port.creditOf_foldl (l : List Nat) (hl : l.Nodup) (vc : Nat) :
    (l.foldl (fun (x : Port) v => x.credited bs v) x).creditOf vc = x.creditOf vc + if vc ∈ l then x.gained bs vc else 0 := by
  induction l generalizing x with
  | nil => simp
  | cons v l ih =>
    obtain ⟨hv, hl'⟩ := List.nodup_cons.1 hl
    rw [List.foldl_cons, ih _ hl']
    by_cases h : vc = v
    · subst h
      rw [if_neg hv, if_pos List.mem_cons_self]
      exact SMap.get_set_self _ _ _ _
    · have hcredit : (x.credited bs v).creditOf vc = x.creditOf vc := SMap.get_set_ne _ _ _ _ _ h
      have hcounted : SMap.at' 0 (x.credited bs v).counted vc = SMap.at' 0 x.counted vc := SMap.get_set_ne _ _ _ _ _ h
      rw [hcredit, Port.gained, Port.gained, hcounted]
      simp [h]

theorem Port.afterAck_frame : x.afterAck bs =
    { x with replay := (x.afterAck bs).replay, kept := (x.afterAck bs).kept, replays := (x.afterAck bs).replays } := by
  unfold Port.afterAck
  split <;> rfl

/-- R351, R356: what a control flit changes of a port. -/
theorem Port.controlled_frame : x.controlled bs =
    { x with
      replay := (x.afterAck bs).replay, kept := (x.afterAck bs).kept, replays := (x.afterAck bs).replays
      credit := (x.controlled bs).credit, counted := (x.controlled bs).counted } :=
  calc x.controlled bs = { x.afterAck bs with credit := (x.controlled bs).credit, counted := (x.controlled bs).counted } := rfl
    _ = _ := (congrArg (fun y : Port => { y with credit := (x.controlled bs).credit, counted := (x.controlled bs).counted })
      (x.afterAck_frame bs) :)

theorem Port.creditOf_controlled {vc : Nat} (hvc : vc < 4) : (x.controlled bs).creditOf vc = x.creditOf vc + x.gained bs vc := by
  have hcredit : (x.afterAck bs).creditOf vc = x.creditOf vc := (congrArg (Port.creditOf · vc) (x.afterAck_frame bs) :)
  have hgained : (x.afterAck bs).gained bs vc = x.gained bs vc := (congrArg (Port.gained · bs vc) (x.afterAck_frame bs) :)
  rw [Port.controlled, Port.creditOf_foldl _ _ _ List.nodup_range, if_pos (List.mem_range.2 hvc), hcredit, hgained]

theorem Port.replay_controlled : (x.controlled bs).replay = if x.told bs then x.replay.drop (x.acked bs) else x.replay := by
  rw [Port.controlled_frame, Port.afterAck]
  split <;> rfl

theorem Port.replays_controlled : (x.controlled bs).replays = if x.told bs then 0 else x.replays := by
  rw [Port.controlled_frame, Port.afterAck]
  split <;> rfl

end

section
variable {d : Device} {n : Nat} {bs : List Byte}

theorem Device.takeControl_ignores {failed : Bool} (h : failed = true ∨ flitGood bs = false ∨ flitBits bs 127 124 ≠ 2) :
    d.takeControl n bs failed = d := if_pos h

theorem Device.takeControl_eq (hgood : flitGood bs = true) (htyp : flitBits bs 127 124 = 2) : d.takeControl n bs false =
    let y := (d.port n).controlled bs
    let z := if y.asks bs then y.again else y
    let a := Device.mgmtGo n z.mgmt (d.setPort n z)
    if y.asks bs then
      if 8 ≤ z.replays then ((a.pumpFlits n).bump (.lnkPortRetry n) Fd.lnkPortRetryReplays).portRetrain n 2
      else ((a.pumpFlits n).bump (.lnkPortRetry n) Fd.lnkPortRetryReplays).drainTx
    else a.drainTx := if_neg (by simp [hgood, htyp])

theorem Device.mgmtGo_none {z : Port} (h : z.mgmt = []) : Device.mgmtGo n z.mgmt (d.setPort n z) = (d.setPort n z).setPort n z := by
  have hz : { (d.setPort n z).port n with mgmt := [] } = z := by rw [Device.port_setPort_self, ← h]
  rw [h, Device.mgmtGo, hz]

theorem Port.mgmt_controlled (x : Port) (bs : List Byte) : (x.controlled bs).mgmt = x.mgmt := (congrArg Port.mgmt (x.controlled_frame bs) :)

theorem Port.badWords_controlled (x : Port) (bs : List Byte) : (x.controlled bs).badWords = x.badWords :=
  (congrArg Port.badWords (x.controlled_frame bs) :)

/-- R351, R356: a control flit that asks for no resend. -/
theorem Device.takeControl_acks (hgood : flitGood bs = true) (htyp : flitBits bs 127 124 = 2) (hm : (d.port n).mgmt = []) (hw : d.txWait = [])
    (hno : ((d.port n).controlled bs).asks bs = false) :
    d.takeControl n bs false = (d.setPort n ((d.port n).controlled bs)).setPort n ((d.port n).controlled bs) := by
  rw [Device.takeControl_eq hgood htyp]
  dsimp only
  rw [if_neg (by rw [hno]; decide), if_neg (by rw [hno]; decide), Device.mgmtGo_none ((Port.mgmt_controlled _ _).trans hm)]
  exact Device.drainTx_of_empty hw

/-- R351: the flits not acknowledged leave again. -/
def Device.resends (d : Device) (n : Nat) (x : Port) : Device :=
  (((d.setPort n x.again).setPort n x.again).pumpFlits n).bump (.lnkPortRetry n) Fd.lnkPortRetryReplays

theorem Device.drainTx_resends {y : Port} (hw : d.txWait = []) (hm : y.mgmt = []) :
    (((Device.mgmtGo n y.again.mgmt (d.setPort n y.again)).pumpFlits n).bump (.lnkPortRetry n) Fd.lnkPortRetryReplays).drainTx =
      d.resends n y := by
  have hz : y.again.mgmt = [] := hm
  rw [Device.mgmtGo_none hz]
  refine Device.drainTx_of_empty ?_
  rw [Device.bump_txWait, (Device.sends_pumpFlits _ n).txWait, Device.setPort_txWait, Device.setPort_txWait, hw]

theorem Port.replays_again (y : Port) : y.again.replays = y.replays + 1 := rfl

/-- R351, R352: a control flit that asks for a resend, not the eighth from one SEQ. -/
theorem Device.takeControl_resends (hgood : flitGood bs = true) (htyp : flitBits bs 127 124 = 2) (hm : (d.port n).mgmt = [])
    (hw : d.txWait = []) (hasks : ((d.port n).controlled bs).asks bs = true) (h7 : ((d.port n).controlled bs).replays < 7) :
    d.takeControl n bs false = d.resends n ((d.port n).controlled bs) := by
  rw [Device.takeControl_eq hgood htyp]
  dsimp only
  rw [if_pos hasks, if_pos hasks, if_neg (by rw [Port.replays_again]; omega)]
  exact Device.drainTx_resends hw ((Port.mgmt_controlled _ _).trans hm)

end

/-! ### Data flits -/

theorem Port.takeSlots_frame (vc sop : Nat) (l : List (Nat × BitVec 128)) (x : Port) :
    Port.takeSlots vc sop l x = { x with part := (Port.takeSlots vc sop l x).part, rx := (Port.takeSlots vc sop l x).rx } := by
  induction l generalizing x with
  | nil => rfl
  | cons s l ih =>
    unfold Port.takeSlots
    extract_lets k y
    have hy : y = { x with part := y.part, rx := y.rx } := by
      by_cases h : k.length = max 1 (pktLen k)
      · rw [show y = _ from if_pos h]
      · rw [show y = _ from if_neg h]
    calc Port.takeSlots vc sop l y = { y with part := (Port.takeSlots vc sop l y).part, rx := (Port.takeSlots vc sop l y).rx } := ih y
      _ = { x with part := (Port.takeSlots vc sop l y).part, rx := (Port.takeSlots vc sop l y).rx } :=
        (congrArg (fun z : Port => { z with part := (Port.takeSlots vc sop l y).part, rx := (Port.takeSlots vc sop l y).rx }) hy :)

/-- R350, R358: what a data flit's slots make of a port. -/
def Port.slotsTaken (x : Port) (bs : List Byte) : Port :=
  Port.takeSlots (flitBits bs 111 110) (flitBits bs 109 95)
    ((((slotsOf (bs.drop 16)).take (flitBits bs 94 91)).zipIdx).map fun s => (s.2, s.1)) x

/-- R351: a port that has accepted a data flit. -/
def Port.accepted (x : Port) (bs : List Byte) : Port :=
  { x.slotsTaken bs with
    expSeq := ((x.slotsTaken bs).expSeq + 1) % 4096, nak := false
    wholeSeq := if decide (x.rx.length < (x.slotsTaken bs).rx.length) then ((x.slotsTaken bs).expSeq + 1) % 4096
      else (x.slotsTaken bs).wholeSeq }

/-- R351: a flit is whole, and of a type that the ports exchange. -/
def flitWhole (bs : List Byte) (failed : Bool) : Bool := !failed && flitGood bs && decide (flitBits bs 127 124 ≤ 1)

section
variable {d : Device} {n : Nat} {bs : List Byte} {failed : Bool}

theorem Device.takeFlit_eq : d.takeFlit n bs failed =
    if flitWhole bs failed && flitBits bs 127 124 == 0 then d
    else if flitWhole bs failed && flitBits bs 123 112 == (d.port n).expSeq &&
        decide ((d.port n).rxUsed (flitBits bs 111 110) + flitBits bs 94 91 ≤ rxSlots (flitBits bs 111 110)) then
      (d.setPort n ((d.port n).accepted bs)).countFlits n 0 1
    else d.setPort n { d.port n with nak := true } := rfl

/-- R351: idle flits change nothing. -/
theorem Device.takeFlit_idle (hgood : flitGood bs = true) (htyp : flitBits bs 127 124 = 0) : d.takeFlit n bs false = d := by
  rw [Device.takeFlit_eq, if_pos]
  simp [flitWhole, hgood, htyp]

/-- R351: a flit that is not whole asks for a resend. -/
theorem Device.takeFlit_naks (h : failed = true ∨ flitGood bs = false ∨ 1 < flitBits bs 127 124) :
    d.takeFlit n bs failed = d.setPort n { d.port n with nak := true } := by
  have hbad : flitWhole bs failed = false := by
    rcases h with h | h | h
    · simp [flitWhole, h]
    · simp [flitWhole, h]
    · simp [flitWhole, Nat.not_le.2 h]
  rw [Device.takeFlit_eq, hbad]
  simp only [Bool.false_and, if_neg Bool.false_ne_true]

/-- R351: the data flit expected, for which there is room. -/
theorem Device.takeFlit_accepts (hgood : flitGood bs = true) (htyp : flitBits bs 127 124 = 1) (hseq : flitBits bs 123 112 = (d.port n).expSeq)
    (hroom : (d.port n).rxUsed (flitBits bs 111 110) + flitBits bs 94 91 ≤ rxSlots (flitBits bs 111 110)) :
    d.takeFlit n bs false = (d.setPort n ((d.port n).accepted bs)).countFlits n 0 1 := by
  have hwhole : flitWhole bs false = true := by simp [flitWhole, hgood, htyp]
  rw [Device.takeFlit_eq, if_neg (by simp [htyp]), if_pos (by simp [hwhole, hseq, hroom])]

/-- A data flit has been looked at on port n between d and e, as far as retrains look. -/
structure Device.FlitTaken (n : Nat) (d e : Device) : Prop where
  work : Within [.lnkPortTraffic n] d e
  now : e.now = d.now
  badWords : (e.port n).badWords = (d.port n).badWords
  retrains : (e.port n).retrains = (d.port n).retrains

theorem Port.slotsTaken_frame (x : Port) (bs : List Byte) :
    x.slotsTaken bs = { x with part := (x.slotsTaken bs).part, rx := (x.slotsTaken bs).rx } := Port.takeSlots_frame _ _ _ x

theorem Port.accepted_frame (x : Port) (bs : List Byte) : x.accepted bs =
    { x with part := (x.slotsTaken bs).part, rx := (x.slotsTaken bs).rx, expSeq := (x.expSeq + 1) % 4096, nak := false
             wholeSeq := (x.accepted bs).wholeSeq } := by
  have hseq : (x.slotsTaken bs).expSeq = x.expSeq := (congrArg Port.expSeq (x.slotsTaken_frame bs) :)
  calc x.accepted bs = { x.slotsTaken bs with
          expSeq := ((x.slotsTaken bs).expSeq + 1) % 4096, nak := false, wholeSeq := (x.accepted bs).wholeSeq } := rfl
    _ = { x.slotsTaken bs with expSeq := (x.expSeq + 1) % 4096, nak := false, wholeSeq := (x.accepted bs).wholeSeq } := by rw [hseq]
    _ = _ := (congrArg (fun y : Port =>
      { y with expSeq := (x.expSeq + 1) % 4096, nak := false, wholeSeq := (x.accepted bs).wholeSeq }) (x.slotsTaken_frame bs) :)

theorem Device.flitTaken_setPort {x : Port} (hb : x.badWords = (d.port n).badWords) (hr : x.retrains = (d.port n).retrains) :
    d.FlitTaken n (d.setPort n x) :=
  ⟨d.within_setPort _ n x, rfl, by rw [Device.port_setPort_self, hb], by rw [Device.port_setPort_self, hr]⟩

theorem Device.FlitTaken.trans_sends {e e' : Device} (h : d.FlitTaken n e) (g : e.Sends n e') : d.FlitTaken n e' :=
  ⟨h.work.trans g.within, g.now.trans h.now, (congrArg Port.badWords g.port).trans h.badWords,
    (congrArg Port.retrains g.port).trans h.retrains⟩

theorem Device.flitTaken_takeFlit (d : Device) (n : Nat) (bs : List Byte) (failed : Bool) : d.FlitTaken n (d.takeFlit n bs failed) := by
  rw [Device.takeFlit_eq]
  split
  · exact ⟨.refl _ d, rfl, rfl, rfl⟩
  · split
    · refine .trans_sends (Device.flitTaken_setPort ?_ ?_) (Device.sends_countFlits _ _ _ _)
      · exact (congrArg Port.badWords (Port.accepted_frame _ bs) :)
      · exact (congrArg Port.retrains (Port.accepted_frame _ bs) :)
    · exact Device.flitTaken_setPort rfl rfl

end

/-! ### A flit that arrives -/

section
variable {d e : Device} {n : Nat} {word : Option Nat} {failed : Bool} {f : Device → Bool → Device}

/-- R352: what a flit does where few codewords were lost, or many. -/
theorem Device.onFlit_eq (h : d.codeword n word = (e, failed)) :
    d.onFlit n word f = if (f e failed).wordsLost n then (f e failed).portRetrain n 3 else f e failed := by
  unfold Device.onFlit
  rw [h]

theorem Device.wordsLost_congr (hb : (e.port n).badWords = (d.port n).badWords) (hnow : e.now = d.now) : e.wordsLost n = d.wordsLost n := by
  rw [Device.wordsLost, Device.wordsLost, hb, hnow]

theorem Device.onFlit_stays (h : d.codeword n word = (e, failed)) {e' : Device} (hf : f e failed = e') (hlost : e.wordsLost n = false)
    (hb : (e'.port n).badWords = (e.port n).badWords) (hnow : e'.now = e.now) : d.onFlit n word f = e' := by
  rw [Device.onFlit_eq h, hf, if_neg]
  rw [Device.wordsLost_congr hb hnow, hlost]
  decide

end

end Sys2Proof.Machine
end

section
/-! PROOF. O21: ports train, qualify, pass flits, retrain and restart. -/

namespace Sys2Proof.Machine

/-! ### Training and qualification -/

section
variable {s : State} {n : Nat}

/-- R69, R353: lanes of a port in training, or coming back, lock. -/
theorem State.lanesLocked_row {mask : Nat} (hs : s.going = true) (hn : n < 28) (hm : mask < 512)
    (hst : s.dev.portState n = 1 ∨ s.dev.portState n = 5) : ∃ t : State, exec (.portLanesLocked n mask) s = .next t ∧
      t.pending = s.pending ∧ t.dev.locked n = (s.dev.locked n ||| mask) ∧ s.dev.sameRegs t.dev [.lnkPortStatus n, .lnkPortTraffic n] ∧
      t.dev.portState n = (if s.dev.portState n = 1 ∧ t.dev.openLanes n = [] then 2 else s.dev.portState n) ∧
      (∀ m, m ≠ n → t.dev.port m = s.dev.port m) ∧ t.dev.mem = s.dev.mem := by
  obtain ⟨hlocked, hwork, hstate, hothers⟩ := Device.lanesLocked_spec (d := s.quiet.dev) hn hm hst
  exact ⟨_, going_row hs (exec_portLanesLocked n mask s) rfl hwork.flowDone, rfl, hlocked, hwork.regs, hstate, hothers, hwork.mem⟩

/-- R69: the repair lane takes the one lane that did not lock. -/
theorem State.laneRepaired_row {k : Nat} (hs : s.going = true) (hn : n < 28) (hst : s.dev.portState n = 1 ∨ s.dev.portState n = 5)
    (hfree : s.dev.repaired n = 15) (hopen : s.dev.openLanes n = [k]) : ∃ t : State, exec (.laneLockTimeout n) s = .next t ∧
      t.pending = s.pending ∧ t.dev.repaired n = k ∧ t.dev.portState n = s.dev.portState n ∧
      s.dev.sameRegs t.dev [.lnkPortStatus n, .bootDefect] ∧ t.dev.ports = s.dev.ports ∧ t.dev.mem = s.dev.mem := by
  have hk : k < 8 := Device.lt_of_mem_openLanes (d := s.dev) (n := n) (hopen ▸ List.mem_singleton.2 rfl)
  obtain ⟨hrepaired, hstate, hregs, hports, hmem, hflow⟩ := Device.repairLane_spec (d := s.quiet.dev) hn hk
  exact ⟨_, going_row hs (exec_laneLockTimeout n s) (Device.laneTimeout_repairs hn hst hfree hopen) hflow, rfl, hrepaired, hstate, hregs,
    hports, hmem⟩

/-- R69: lanes that did not lock, and that the repair lane cannot serve, fail the port. -/
theorem State.laneFailed_row (hs : s.going = true) (hn : n < 28) (hst : s.dev.portState n = 1 ∨ s.dev.portState n = 5)
    (hopen : s.dev.openLanes n ≠ []) (hrepair : s.dev.repaired n ≠ 15 ∨ 2 ≤ (s.dev.openLanes n).length) :
    ∃ t : State, exec (.laneLockTimeout n) s = .next t ∧ t.pending = s.pending ∧ t.dev.portState n = 6 ∧ t.dev.mem = s.dev.mem := by
  obtain ⟨hwork, hstate⟩ := Device.laneTimeout_fails (d := s.quiet.dev) hn hst hopen hrepair
  exact ⟨_, going_row hs (exec_laneLockTimeout n s) rfl hwork.flowDone, rfl, hstate, hwork.mem⟩

section
variable {errors : Nat} {lanes : List Nat} (hs : s.going = true) (hn : n < 28) (hst : s.dev.portState n = 3)
  (hb : (s.dev.port n).between = false)
include hs hn hst hb

/-- R72: the row of a window's end at this end, by what the window's end gives. -/
theorem State.window_row {e : Device} (he : (s.quiet.dev.counted n (errors, lanes)).windowEnd n = e) (hflow : e.flowDone = s.dev.flowDone) :
    exec (.qualificationWindowEnd n errors lanes) s = .next { s with dev := e } :=
  going_row hs (exec_qualificationWindowEnd n errors lanes s) ((Device.windowCounts_eq (d := s.quiet.dev) _ hn hst hb).trans he) hflow

/-- R72: the counts of a window wait for those of the other end. -/
theorem State.window_waits (hp : (s.dev.port n).peer = none) : ∃ t : State, exec (.qualificationWindowEnd n errors lanes) s = .next t ∧
    t.pending = s.pending ∧ (t.dev.port n).own = some (errors, lanes) ∧ (t.dev.port n).peer = none ∧ t.dev.portState n = 3 ∧
    s.dev.sameRegs t.dev [.lnkPortTraffic n] ∧ (∀ m, m ≠ n → t.dev.port m = s.dev.port m) ∧ t.dev.mem = s.dev.mem := by
  have h := s.quiet.dev.counted_spec n (errors, lanes)
  exact ⟨_, State.window_row hs hn hst hb (Device.windowEnd_waits (h.peer.trans hp)) h.work.flowDone, rfl, h.own, h.peer.trans hp,
    h.state.trans hst, h.work.regs, h.others, h.work.mem⟩

/-- R69, R72: both ends' counts pass. -/
theorem State.window_passes {b : Nat × List Nat} (hp : (s.dev.port n).peer = some b) (ha : windowOk (errors, lanes) = true)
    (hok : windowOk b = true) (hw : s.dev.txWait = []) : ∃ t : State, exec (.qualificationWindowEnd n errors lanes) s = .next t ∧
    t.pending = s.pending ∧ t.dev.portState n = 4 ∧ (t.dev.port n).own = none ∧ (t.dev.port n).peer = none ∧
    s.dev.sameRegs t.dev [.lnkPortStatus n, .lnkPortTraffic n] ∧ t.dev.mem = s.dev.mem := by
  have h := s.quiet.dev.counted_spec n (errors, lanes)
  have he := Device.windowEnd_passes h.own (h.peer.trans hp) ha hok (h.txWait.trans hw)
  obtain ⟨hready, hport, hwork⟩ := (s.quiet.dev.counted n (errors, lanes)).judged_spec hn
  have hall := (h.work.mono (List.subset_cons_self _ _)).trans hwork
  exact ⟨_, State.window_row hs hn hst hb he hall.flowDone, rfl, hready, (congrArg Port.own hport :), (congrArg Port.peer hport :), hall.regs,
    hall.mem⟩

/-- R69: a first window whose counts do not pass. -/
theorem State.window_retrains {b : Nat × List Nat} (hp : (s.dev.port n).peer = some b)
    (hbad : windowOk (errors, lanes) = false ∨ windowOk b = false) (h0 : (s.dev.port n).window = 0) :
    ∃ t : State, exec (.qualificationWindowEnd n errors lanes) s = .next t ∧ t.pending = s.pending ∧
      t.dev.portState n = 3 ∧ (t.dev.port n).window = 1 ∧ (t.dev.port n).between = true ∧ t.dev.mem = s.dev.mem := by
  have h := s.quiet.dev.counted_spec n (errors, lanes)
  have hwindow := h.window.trans h0
  have hport := (s.quiet.dev.counted n (errors, lanes)).port_setPort_self n
    { (s.quiet.dev.counted n (errors, lanes)).port n with
      own := none, peer := none, window := ((s.quiet.dev.counted n (errors, lanes)).port n).window + 1, between := true }
  exact ⟨_, State.window_row hs hn hst hb (Device.windowEnd_retrains h.own (h.peer.trans hp) hbad hwindow) h.work.flowDone, rfl,
    h.state.trans hst, (congrArg Port.window hport).trans (congrArg (· + 1) hwindow), (congrArg Port.between hport :), h.work.mem⟩

end

/-- R69: the retrain between two windows ends. -/
theorem State.qualificationRetrainEnd_row (hs : s.going = true) (hn : n < 28) (hst : s.dev.portState n = 3) :
    exec (.qualificationRetrainEnd n) s = .next (s.after fun d => d.setPort n { d.port n with between := false }) :=
  going_row hs (exec_qualificationRetrainEnd n s) (if_pos ⟨hn, hst⟩) rfl

/-- R351 to R353: a retrain's check window without errors. -/
theorem State.checkWindow_row (hs : s.going = true) (hn : n < 28) (hst : s.dev.portState n = 5) (hopen : s.dev.openLanes n = [])
    (hw : s.dev.txWait = []) : ∃ t : State, exec (.retrainCheckWindowEnd n 0) s = .next t ∧ t.pending = s.pending ∧ t.dev.portState n = 4 ∧
      t.dev.out = ((s.dev.port n).replay.take (frameFlits - (s.dev.port n).frame)).map (fun f => Out.flit n f.bytes) ∧
      (t.dev.port n).replay = (s.dev.port n).replay ∧ (t.dev.port n).later = (s.dev.port n).replay.drop (frameFlits - (s.dev.port n).frame) ∧
      (∀ m, m ≠ n → t.dev.port m = s.dev.port m) ∧ s.dev.sameRegs t.dev [.lnkPortStatus n] ∧ t.dev.mem = s.dev.mem := by
  obtain ⟨hready, hout, hreplay, hlater, hothers, hwork⟩ := Device.checkWindow_spec (d := s.quiet.dev) hn hst hopen hw
  exact ⟨_, going_row hs (exec_retrainCheckWindowEnd n 0 s) rfl hwork.flowDone, rfl, hready, hout, hreplay, hlater, hothers, hwork.regs,
    hwork.mem⟩

/-- R353: a port that does not come back in time. -/
theorem State.retrainTimeout_row (hs : s.going = true) (hn : n < 28) (hst : s.dev.portState n = 5) :
    ∃ t : State, exec (.retrainTimeout n) s = .next t ∧ t.pending = s.pending ∧ t.dev.portState n = 6 ∧
      t.dev.fld (.lnkPortRetry n) Fd.lnkPortRetryFailovers =
        satAdd Fd.lnkPortRetryFailovers.width (s.dev.fld (.lnkPortRetry n) Fd.lnkPortRetryFailovers) 1 ∧
      (t.dev.port n).replay = [] ∧ t.dev.mem = s.dev.mem := by
  have h := Device.failed_portFail (d := s.quiet.dev) hn
  exact ⟨_, going_row hs (exec_retrainTimeout n s) (if_pos ⟨hn, hst⟩) h.work.flowDone, rfl, h.state, h.failovers, h.replay, h.work.mem⟩

/-- R353: a FAILED port restarts. -/
theorem State.portRestart_row (hs : s.inService = true) (hn : n < 28) (hst : s.dev.portState n = 6) : ∃ t : State,
    exec (.portRestart n) s = .next t ∧ t.pending = s.pending ∧ t.dev.portState n = 1 ∧ t.dev.locked n = 0 ∧ (t.dev.port n).replay = [] ∧
      (t.dev.port n).nextSeq = 0 ∧ (t.dev.port n).expSeq = 0 ∧ s.dev.sameRegs t.dev [.lnkPortStatus n] ∧ t.dev.mem = s.dev.mem ∧
      ∀ m, m ≠ n → t.dev.port m = s.dev.port m := by
  obtain ⟨hstate, hlocked, hport, hwork, hothers⟩ := Device.portRestart_spec (d := s.quiet.dev) hn hst
  exact ⟨_, run_row hs (exec_portRestart n s) rfl hwork.flowDone, rfl, hstate, hlocked, (congrArg Port.replay hport :),
    (congrArg Port.nextSeq hport :), (congrArg Port.expSeq hport :), hwork.regs, hwork.mem, hothers⟩

end

end Sys2Proof.Machine
end

section
/-! PROOF. O21, the rows of flits. -/

namespace Sys2Proof.Machine

/-! ### A control flit leaves -/

section
variable {s : State} {n : Nat}

/-- R350: what a device sends at the start of a port's frame, and what becomes of the port. -/
structure Device.Framed (n : Nat) (sent : List TxFlit) (d e : Device) : Prop where
  frame : { e with ports := d.ports, out := d.out } = d
  others : ∀ m, m ≠ n → e.port m = d.port m
  port : e.port n = (d.port n).framed sent.length
  out : e.out = d.out ++ idleRest n (d.port n) ++ [d.controlFlit n] ++ sent.map fun f => .flit n f.bytes

theorem Device.framed_controlSent (d : Device) (n : Nat) : d.Framed n [] (d.controlSent n) :=
  ⟨rfl, fun _ hm => d.port_setPort_ne n _ hm, d.port_setPort_self n _, (List.append_nil _).symm⟩

theorem Port.goes_framed (x : Port) : (x.framed 0).goes = x.later.take frameFlits := rfl

theorem Device.Framed.pumpFlits {n : Nat} {d e : Device} (h : d.Framed n [] e) :
    d.Framed n ((d.port n).later.take frameFlits) (e.pumpFlits n) where
  frame := by
    rw [Device.pumpFlits_eq]
    exact h.frame
  others m hm := ((e.sends_pumpFlits n).others m hm).trans (h.others m hm)
  port := by
    rw [Device.port_pumpFlits, h.port]
    exact Port.pumped_framed _
  out := by
    have hport : (e.port n).goes = (d.port n).later.take frameFlits := by
      rw [h.port]
      exact Port.goes_framed _
    rw [Device.out_pumpFlits, hport, h.out, List.map_nil, List.append_nil]

theorem Device.framed_controlSend (d : Device) (n : Nat) : d.Framed n (d.framed n) (d.controlSend n) := by
  rw [Device.controlSend_eq, Device.framed]
  split
  · exact d.framed_controlSent n
  · exact (d.framed_controlSent n).pumpFlits

/-- R350: a control flit begins a frame. -/
theorem State.controlSend_row (hs : s.going = true) (hf : s.dev.flitsPass n = true) :
    let go := if s.dev.portState n = 5 then [] else (s.dev.port n).later.take frameFlits
    ∃ t : State, exec (.controlFlitSend n) s = .next t ∧ t.pending = s.pending ∧
      { t.dev with ports := s.dev.ports, out := s.dev.out } = s.dev ∧ (∀ m, m ≠ n → t.dev.port m = s.dev.port m) ∧
      t.dev.port n = { s.dev.port n with frame := go.length, later := (s.dev.port n).later.drop go.length } ∧
      t.dev.out = (if (s.dev.port n).frame < frameFlits then [Out.idle n (frameFlits - (s.dev.port n).frame)] else []) ++
        [.flit n (flitBytes (0x200000000000000000000000 + (s.dev.port n).expSeq * 0x100000000000000000000 +
          ofBool (s.dev.port n).nak * 0x80000000000000000000)
          (leBytes 8 s.dev.now.toNat ++ (List.range 4).flatMap fun vc => leBytes 4 (SMap.at' 0 (s.dev.port n).freed vc)))] ++
        go.map fun f => .flit n f.bytes := by
  have h := s.quiet.dev.framed_controlSend n
  have hflow : (s.quiet.dev.controlSend n).flowDone = s.dev.flowDone := (congrArg Device.flowDone h.frame :)
  refine ⟨_, going_row hs (exec_controlFlitSend n s) (if_pos hf) hflow, rfl, ?_, h.others, h.port, h.out⟩
  exact (congrArg (fun a : Device => { a with out := s.dev.out }) h.frame :)

end

/-! ### Flits that arrive -/

section
variable {d e : Device} {n : Nat}

theorem Device.Sends.expSeq (h : d.Sends n e) : (e.port n).expSeq = (d.port n).expSeq := (congrArg Port.expSeq h.port :)
theorem Device.Sends.nak (h : d.Sends n e) : (e.port n).nak = (d.port n).nak := (congrArg Port.nak h.port :)
theorem Device.Sends.rx (h : d.Sends n e) : (e.port n).rx = (d.port n).rx := (congrArg Port.rx h.port :)

theorem Device.Arrived.mem (h : d.Arrived n e) : e.mem = d.mem := (congrArg Device.mem h.frame :)
theorem Device.Arrived.flowDone (h : d.Arrived n e) : e.flowDone = d.flowDone := (congrArg Device.flowDone h.frame :)
theorem Device.Arrived.txWait (h : d.Arrived n e) : e.txWait = d.txWait := (congrArg Device.txWait h.frame :)
theorem Device.Arrived.out (h : d.Arrived n e) : e.out = d.out := (congrArg Device.out h.frame :)
theorem Device.Arrived.now (h : d.Arrived n e) : e.now = d.now := (congrArg Device.now h.frame :)

theorem not_mem_arriveRegs {r : Reg} {n : Nat} (hfec : r.offset ≠ (Reg.lnkPortFec n).offset)
    (hinject : ∀ k < 4, r.offset ≠ (Reg.tstInject k).offset) : r.offset ∉ (arriveRegs n).map Reg.offset := by
  simp only [arriveRegs, injectRegs, List.map_cons, List.map_map, List.mem_cons, List.mem_map, List.mem_range, Function.comp_apply]
  rintro (h | ⟨k, hk, h⟩)
  · exact hfec h
  · exact hinject k hk h.symm

theorem portStatus_not_arriveRegs {m : Nat} (n : Nat) (hm : m < 28) : (Reg.lnkPortStatus m).offset ∉ (arriveRegs n).map Reg.offset :=
  not_mem_arriveRegs (by simp only [Reg.offset]; omega) fun k hk => by simp only [Reg.offset]; omega

theorem portRetry_not_arriveRegs {m : Nat} (n : Nat) (hm : m < 28) : (Reg.lnkPortRetry m).offset ∉ (arriveRegs n).map Reg.offset :=
  not_mem_arriveRegs (by simp only [Reg.offset]; omega) fun k hk => by simp only [Reg.offset]; omega

/-- R351: what a port sends and is owed is as it was when a flit arrives. -/
theorem Device.Arrived.controlled (h : d.Arrived n e) (bs : List Byte) :
    ((e.port n).controlled bs).replay = (if (d.port n).told bs then (d.port n).replay.drop ((d.port n).acked bs) else (d.port n).replay) ∧
      ((e.port n).controlled bs).replays = (if (d.port n).told bs then 0 else (d.port n).replays) ∧
      ((e.port n).controlled bs).frame = (d.port n).frame ∧
      ∀ vc < 4, ((e.port n).controlled bs).creditOf vc = (d.port n).creditOf vc + (d.port n).gained bs vc := by
  rw [Port.replay_controlled, Port.replays_controlled, congrArg Port.frame (Port.controlled_frame (e.port n) bs)]
  have hc : ∀ vc < 4, ((e.port n).controlled bs).creditOf vc = (e.port n).creditOf vc + (e.port n).gained bs vc := fun vc hvc =>
    (e.port n).creditOf_controlled bs hvc
  rw [h.port] at hc ⊢
  exact ⟨rfl, rfl, rfl, hc⟩

end

section
variable {s : State} {n : Nat} {bs : List Byte} {word : Option Nat} {e : Device} {failed : Bool}

theorem State.arrived_of (h : s.quiet.dev.codeword n word = (e, failed)) : s.quiet.dev.Arrived n e := by
  have ha := s.quiet.dev.arrived_codeword n word
  rwa [h] at ha

/-- R351, R352: the row of a control flit, where few codewords were lost. -/
theorem State.controlFlit_row (hs : s.going = true) (hf : s.dev.flitsPass n = true) (h : s.quiet.dev.codeword n word = (e, failed))
    (hlost : e.wordsLost n = false) {e' : Device} (he : e.takeControl n bs failed = e') (hb : (e'.port n).badWords = (e.port n).badWords)
    (hnow : e'.now = e.now) (hflow : e'.flowDone = e.flowDone) :
    exec (.controlFlitReceive n ⟨bs, word⟩) s = .next { s with dev := e' } :=
  going_row hs (exec_controlFlitReceive n ⟨bs, word⟩ s)
    ((if_pos hf).trans (Device.onFlit_stays (f := fun d failed => d.takeControl n bs failed) h he hlost hb hnow))
    (hflow.trans (State.arrived_of h).flowDone)

/-- R351: a control flit that is not whole is ignored. -/
theorem State.controlFlit_ignored (hs : s.going = true) (hf : s.dev.flitsPass n = true) (h : s.quiet.dev.codeword n word = (e, failed))
    (hlost : e.wordsLost n = false) (hbad : failed = true ∨ flitGood bs = false ∨ flitBits bs 127 124 ≠ 2) :
    exec (.controlFlitReceive n ⟨bs, word⟩) s = .next { s with dev := e } :=
  State.controlFlit_row hs hf h hlost (Device.takeControl_ignores hbad) rfl rfl rfl

/-- R351, R356: a control flit that is whole: what it acknowledges leaves the replay buffer, and credit is given back. -/
theorem State.controlFlit_acks (hs : s.going = true) (hf : s.dev.flitsPass n = true) (h : s.quiet.dev.codeword n word = (e, false))
    (hlost : e.wordsLost n = false) (hgood : flitGood bs = true) (htyp : flitBits bs 127 124 = 2) (hw : s.dev.txWait = [])
    (hm : (s.dev.port n).mgmt = []) (hno : ((e.port n).controlled bs).asks bs = false) :
    ∃ t : State, exec (.controlFlitReceive n ⟨bs, word⟩) s = .next t ∧ t.pending = s.pending ∧ t.dev.regs = e.regs ∧ t.dev.out = [] ∧
      t.dev.port n = (e.port n).controlled bs ∧ (∀ m, m ≠ n → t.dev.port m = s.dev.port m) ∧ t.dev.mem = s.dev.mem := by
  have ha := State.arrived_of h
  have hmgmt : (e.port n).mgmt = [] := (congrArg Port.mgmt ha.port :).trans hm
  have he := Device.takeControl_acks (d := e) (n := n) hgood htyp hmgmt (ha.txWait.trans hw) hno
  have hport := (e.setPort n ((e.port n).controlled bs)).port_setPort_self n ((e.port n).controlled bs)
  have hbad := (e.port n).badWords_controlled bs
  refine ⟨_, State.controlFlit_row hs hf h hlost he ((congrArg Port.badWords hport).trans hbad) rfl rfl, rfl, rfl, ha.out, hport,
    fun m hm => ?_, ha.mem⟩
  exact (Device.port_setPort_ne _ n _ hm).trans ((Device.port_setPort_ne _ n _ hm).trans (ha.others m hm))

/-- R351: what a resend does. -/
theorem Device.resends_spec (d : Device) (x : Port) (hn : n < 28) : (d.resends n x).port n = x.again.pumped ∧
    (d.resends n x).out = d.out ++ x.again.goes.map (fun f => Out.flit n f.bytes) ∧ Within [.lnkPortRetry n] d (d.resends n x) ∧
    (d.resends n x).fld (.lnkPortRetry n) Fd.lnkPortRetryReplays =
      satAdd Fd.lnkPortRetryReplays.width (d.fld (.lnkPortRetry n) Fd.lnkPortRetryReplays) 1 ∧
    (∀ m, m ≠ n → (d.resends n x).port m = d.port m) ∧ (d.resends n x).now = d.now := by
  have hself := (d.setPort n x.again).port_setPort_self n x.again
  have hsent := ((d.setPort n x.again).setPort n x.again).sends_pumpFlits n
  have hwork : Within [.lnkPortRetry n] d (((d.setPort n x.again).setPort n x.again).pumpFlits n) :=
    ((d.within_setPort _ n _).trans (Device.within_setPort _ _ n _)).trans (.of_regs hsent.within.frame (Device.regs_pumpFlits _ n))
  refine ⟨?_, ?_, hwork.setFld _ _ List.mem_cons_self, ?_, fun m hm => ?_, ?_⟩
  · rw [Device.resends, Device.port_bump, Device.port_pumpFlits, hself]
  · rw [Device.resends, Device.bump_out, Device.out_pumpFlits, hself]
    rfl
  · rw [Device.resends, Device.fld_bump_self _ _ _ _ (by simpa [Reg.inRange] using hn) (by decide) (by decide),
      Device.fld_congr (Device.regs_pumpFlits _ n)]
    rfl
  · rw [Device.resends, Device.port_bump, hsent.others m hm, Device.port_setPort_ne _ n _ hm, Device.port_setPort_ne _ n _ hm]
  · rw [Device.resends, Device.bump_now, hsent.now]
    rfl

/-- R351: the row of a control flit that has a port send again. -/
theorem State.controlFlit_resends (hs : s.going = true) (hf : s.dev.flitsPass n = true) (h : s.quiet.dev.codeword n word = (e, false))
    (hlost : e.wordsLost n = false) {y : Port} (he : e.takeControl n bs false = e.resends n y) (hbad : y.badWords = (e.port n).badWords) :
    ∃ t : State, exec (.controlFlitReceive n ⟨bs, word⟩) s = .next t ∧ t.pending = s.pending ∧ (t.dev.port n).replay = y.replay ∧
      t.dev.out = (y.replay.take (frameFlits - y.frame)).map (fun f => Out.flit n f.bytes) ∧ e.sameRegs t.dev [.lnkPortRetry n] ∧
      t.dev.fld (.lnkPortRetry n) Fd.lnkPortRetryReplays =
        satAdd Fd.lnkPortRetryReplays.width (s.dev.fld (.lnkPortRetry n) Fd.lnkPortRetryReplays) 1 ∧
      (∀ m, m ≠ n → t.dev.port m = s.dev.port m) ∧ t.dev.mem = s.dev.mem := by
  have hn := Device.lt_of_flitsPass hf
  have ha := State.arrived_of h
  obtain ⟨hport, hout, hwork, hcount, hothers, hnow⟩ := e.resends_spec (n := n) y hn
  refine ⟨_, State.controlFlit_row hs hf h hlost he ((congrArg Port.badWords hport).trans hbad) hnow hwork.flowDone, rfl,
    (congrArg Port.replay hport :), ?_, hwork.regs, ?_, fun m hm => (hothers m hm).trans (ha.others m hm), hwork.mem.trans ha.mem⟩
  · exact hout.trans (congrArg (· ++ _) ha.out)
  · exact hcount.trans (congrArg (satAdd _ · 1) (ha.regs.fld (portRetry_not_arriveRegs n hn) _))

/-- R351: a control flit that asks for a resend, not the eighth from one SEQ. -/
theorem State.controlFlit_asks (hs : s.going = true) (hf : s.dev.flitsPass n = true) (h : s.quiet.dev.codeword n word = (e, false))
    (hlost : e.wordsLost n = false) (hgood : flitGood bs = true) (htyp : flitBits bs 127 124 = 2) (hw : s.dev.txWait = [])
    (hm : (s.dev.port n).mgmt = []) (hasks : ((e.port n).controlled bs).asks bs = true) (h7 : ((e.port n).controlled bs).replays < 7) :
    ∃ t : State, exec (.controlFlitReceive n ⟨bs, word⟩) s = .next t ∧ t.pending = s.pending ∧
      (t.dev.port n).replay = ((e.port n).controlled bs).replay ∧
      t.dev.out = (((e.port n).controlled bs).replay.take (frameFlits - ((e.port n).controlled bs).frame)).map
        (fun f => Out.flit n f.bytes) ∧ e.sameRegs t.dev [.lnkPortRetry n] ∧
      t.dev.fld (.lnkPortRetry n) Fd.lnkPortRetryReplays =
        satAdd Fd.lnkPortRetryReplays.width (s.dev.fld (.lnkPortRetry n) Fd.lnkPortRetryReplays) 1 ∧
      (∀ m, m ≠ n → t.dev.port m = s.dev.port m) ∧ t.dev.mem = s.dev.mem := by
  have ha := State.arrived_of h
  have hmgmt : (e.port n).mgmt = [] := (congrArg Port.mgmt ha.port :).trans hm
  exact State.controlFlit_resends hs hf h hlost (Device.takeControl_resends hgood htyp hmgmt (ha.txWait.trans hw) hasks h7)
    (Port.badWords_controlled _ _)

/-! ### Data flits that arrive -/

section
variable {u : Bool} {bits : Nat}

/-- R351, R352: the row of a data flit, where few codewords were lost. -/
theorem State.dataFlit_row (hs : s.going = true) (hf : s.dev.flitsPass n = true)
    (h : s.quiet.dev.codeword n (codewordEnd u bits) = (e, failed)) (hlost : e.wordsLost n = false) {e' : Device}
    (he : e.takeFlit n bs failed = e') : exec (.dataFlitReceive n bs u bits) s = .next { s with dev := e' } := by
  have ht := e.flitTaken_takeFlit n bs failed
  rw [he] at ht
  exact going_row hs (exec_dataFlitReceive n bs u bits s)
    ((if_pos hf).trans (Device.onFlit_stays (f := fun d failed => d.takeFlit n bs failed) h he hlost ht.badWords ht.now))
    (ht.work.flowDone.trans (State.arrived_of h).flowDone)

/-- R351, R356: the data flit expected, for which there is room. -/
theorem State.dataFlit_accepted (hs : s.going = true) (hf : s.dev.flitsPass n = true)
    (h : s.quiet.dev.codeword n (codewordEnd u bits) = (e, false)) (hlost : e.wordsLost n = false) (hgood : flitGood bs = true)
    (htyp : flitBits bs 127 124 = 1) (hseq : flitBits bs 123 112 = (s.dev.port n).expSeq)
    (hroom : (s.dev.port n).rxUsed (flitBits bs 111 110) + flitBits bs 94 91 ≤ rxSlots (flitBits bs 111 110)) :
    ∃ t : State, exec (.dataFlitReceive n bs u bits) s = .next t ∧ t.pending = s.pending ∧
      (t.dev.port n).expSeq = ((s.dev.port n).expSeq + 1) % 4096 ∧ (t.dev.port n).nak = false ∧
      (t.dev.port n).rx = ((e.port n).slotsTaken bs).rx ∧ t.dev.mem = s.dev.mem := by
  have ha := State.arrived_of h
  have hexp : (e.port n).expSeq = (s.dev.port n).expSeq := (congrArg Port.expSeq ha.port :)
  have hused : (e.port n).rxUsed (flitBits bs 111 110) = (s.dev.port n).rxUsed (flitBits bs 111 110) :=
    (congrArg (Port.rxUsed · (flitBits bs 111 110)) ha.port :)
  have he := Device.takeFlit_accepts (d := e) hgood htyp (hseq.trans hexp.symm) (hused ▸ hroom)
  have hsent := (e.setPort n ((e.port n).accepted bs)).sends_countFlits n 0 1
  have hself := e.port_setPort_self n ((e.port n).accepted bs)
  have hacc := (e.port n).accepted_frame bs
  refine ⟨_, State.dataFlit_row hs hf h hlost he, rfl, ?_, ?_, ?_, hsent.mem.trans ha.mem⟩
  · exact hsent.expSeq.trans ((congrArg Port.expSeq (hself.trans hacc)).trans (congrArg (fun q => (q + 1) % 4096) hexp))
  · exact hsent.nak.trans (congrArg Port.nak (hself.trans hacc))
  · exact hsent.rx.trans ((congrArg Port.rx hself).trans (congrArg Port.rx hacc :))

/-- R352: too many codewords that could not be corrected. -/
theorem State.dataFlit_retrains (hs : s.going = true) (hf : s.dev.flitsPass n = true)
    (h : s.quiet.dev.codeword n (codewordEnd u bits) = (e, failed)) (hlost : e.wordsLost n = true) (hst : s.dev.portState n = 4)
    (hrecent : s.dev.recentRetrains n < 2) :
    ∃ t : State, exec (.dataFlitReceive n bs u bits) s = .next t ∧ t.pending = s.pending ∧ t.dev.portState n = 5 ∧
      t.dev.mem = s.dev.mem := by
  have hn := Device.lt_of_flitsPass hf
  have ha := State.arrived_of h
  have ht := e.flitTaken_takeFlit n bs failed
  have hlost' : (e.takeFlit n bs failed).wordsLost n = true := (Device.wordsLost_congr ht.badWords ht.now).trans hlost
  have hready : (e.takeFlit n bs failed).portState n = 4 :=
    (ht.work.regs.fld (by simpa using portStatus_ne_traffic n n) _).trans
      ((ha.regs.fld (portStatus_not_arriveRegs n hn) _).trans hst)
  have hretrains : ((e.takeFlit n bs failed).port n).retrains = (s.dev.port n).retrains :=
    ht.retrains.trans (congrArg Port.retrains ha.port :)
  have hsame : (e.takeFlit n bs failed).recentRetrains n = s.dev.recentRetrains n := by
    rw [Device.recentRetrains, Device.recentRetrains, hretrains, ht.now.trans ha.now]
    rfl
  have hr := Device.retrained_portRetrain hn hready 3
  have hrow : s.quiet.dev.onFlit n (codewordEnd u bits) (fun d failed => d.takeFlit n bs failed) = (e.takeFlit n bs failed).portRetrain n 3 :=
    (Device.onFlit_eq h).trans (if_pos hlost')
  exact ⟨_, going_row hs (exec_dataFlitReceive n bs u bits s) ((if_pos hf).trans hrow)
    (hr.work.flowDone.trans (ht.work.flowDone.trans ha.flowDone)), rfl, (hr.retraining (hsame ▸ hrecent)).1,
    hr.work.mem.trans (ht.work.mem.trans ha.mem)⟩

end

end

end Sys2Proof.Machine
end

section
/-! PROOF. O21, assembled. -/

namespace Sys2Proof.Machine

section
variable {s : State} {n : Nat} {bs : List Byte} {word : Option Nat} {e : Device}

theorem Port.asks_eq_false {x : Port} (h : flitBits bs 111 111 = 0 ∨ x.replay = []) : x.asks bs = false := by
  rcases h with h | h
  · simp [Port.asks, h]
  · simp [Port.asks, h]

theorem Port.asks_eq_true {x : Port} (h1 : flitBits bs 111 111 = 1) (h2 : x.replay ≠ []) : x.asks bs = true := by
  simp [Port.asks, h1, h2]

/-- The flits of a port that a control flit leaves in its replay buffer. -/
def Port.left (x : Port) (bs : List Byte) : List TxFlit := if x.told bs then x.replay.drop (x.acked bs) else x.replay

/-- R351, R356: a control flit that is whole and asks for no resend, or leaves nothing to send again. -/
theorem State.controlFlit_takes (hs : s.going = true) (hf : s.dev.flitsPass n = true) (h : s.quiet.dev.codeword n word = (e, false))
    (hlost : e.wordsLost n = false) (hgood : flitGood bs = true) (htyp : flitBits bs 127 124 = 2) (hw : s.dev.txWait = [])
    (hm : (s.dev.port n).mgmt = []) (hno : flitBits bs 111 111 = 0 ∨ (s.dev.port n).left bs = []) :
    ∃ t : State, exec (.controlFlitReceive n ⟨bs, word⟩) s = .next t ∧ t.pending = s.pending ∧ t.dev.regs = e.regs ∧ t.dev.out = [] ∧
      (t.dev.port n).replay = (s.dev.port n).left bs ∧
      (∀ vc, vc < 4 → (t.dev.port n).creditOf vc = (s.dev.port n).creditOf vc + (s.dev.port n).gained bs vc) ∧
      (∀ m, m ≠ n → t.dev.port m = s.dev.port m) ∧ t.dev.mem = s.dev.mem := by
  obtain ⟨hreplay, -, -, hcredit⟩ := (State.arrived_of h).controlled bs
  have hasks := Port.asks_eq_false (hno.imp_right hreplay.trans)
  obtain ⟨t, hrow, hpending, hregs, hout, hport, hothers, hmem⟩ := State.controlFlit_acks hs hf h hlost hgood htyp hw hm hasks
  exact ⟨t, hrow, hpending, hregs, hout, hport ▸ hreplay, fun vc hvc => hport ▸ hcredit vc hvc, hothers, hmem⟩

/-- R351: a control flit that is whole and asks for a resend of what is left. -/
theorem State.controlFlit_naks (hs : s.going = true) (hf : s.dev.flitsPass n = true) (h : s.quiet.dev.codeword n word = (e, false))
    (hlost : e.wordsLost n = false) (hgood : flitGood bs = true) (htyp : flitBits bs 127 124 = 2) (hw : s.dev.txWait = [])
    (hm : (s.dev.port n).mgmt = []) (hnak : flitBits bs 111 111 = 1) (hleft : (s.dev.port n).left bs ≠ [])
    (h7 : (if (s.dev.port n).told bs then 0 else (s.dev.port n).replays) < 7) :
    ∃ t : State, exec (.controlFlitReceive n ⟨bs, word⟩) s = .next t ∧ t.pending = s.pending ∧
      (t.dev.port n).replay = (s.dev.port n).left bs ∧
      t.dev.out = (((s.dev.port n).left bs).take (frameFlits - (s.dev.port n).frame)).map (fun f => Out.flit n f.bytes) ∧
      e.sameRegs t.dev [.lnkPortRetry n] ∧
      t.dev.fld (.lnkPortRetry n) Fd.lnkPortRetryReplays =
        satAdd Fd.lnkPortRetryReplays.width (s.dev.fld (.lnkPortRetry n) Fd.lnkPortRetryReplays) 1 ∧
      (∀ m, m ≠ n → t.dev.port m = s.dev.port m) ∧ t.dev.mem = s.dev.mem := by
  obtain ⟨hreplay, hreplays, hframe, -⟩ := (State.arrived_of h).controlled bs
  have hreplay' : ((e.port n).controlled bs).replay = (s.dev.port n).left bs := hreplay
  have hasks := Port.asks_eq_true hnak (hreplay'.trans_ne hleft)
  obtain ⟨t, hrow, hpending, hr, hout, hregs, hcount, hothers, hmem⟩ :=
    State.controlFlit_asks hs hf h hlost hgood htyp hw hm hasks (hreplays.trans_lt h7)
  refine ⟨t, hrow, hpending, hr.trans hreplay', ?_, hregs, hcount, hothers, hmem⟩
  rw [hout, hreplay', hframe]
  rfl

end

/-- Settles O21, row by row: each state of a port, and each kind of flit, has its own lemma above. -/
theorem portsTrainAndPassFlits : Obligations.PortsTrainAndPassFlits := by
  refine ⟨fun s n hs hn => ⟨?_, ?_, ?_, ?_, ?_, ?_, ?_⟩, ⟨fun s n hs hf => ⟨?_, ?_, ?_, ?_⟩, fun s n hn hst => ⟨?_, ?_⟩,
    fun s n hs hn hst => State.portRestart_row hs hn hst⟩⟩
  · exact fun mask hm hst => State.lanesLocked_row hs hn hm hst
  · exact fun k hst hfree hopen => State.laneRepaired_row hs hn hst hfree hopen
  · exact fun hst hopen hrepair => State.laneFailed_row hs hn hst hopen hrepair
  · exact fun errors lanes hst hb => ⟨State.window_waits hs hn hst hb, fun b hp ha hok hw => State.window_passes hs hn hst hb hp ha hok hw,
      fun b hp hbad h0 => State.window_retrains hs hn hst hb hp hbad h0⟩
  · exact fun hst => State.qualificationRetrainEnd_row hs hn hst
  · exact fun hst hopen hw => State.checkWindow_row hs hn hst hopen hw
  · exact fun hst => State.retrainTimeout_row hs hn hst
  · exact State.controlSend_row hs hf
  · exact fun bs word e failed h hlost hbad => State.controlFlit_ignored hs hf h hlost hbad
  · intro bs word e h hlost hgood htyp hw hm
    exact ⟨fun hno => State.controlFlit_takes hs hf h hlost hgood htyp hw hm hno,
      fun hnak hleft h7 => State.controlFlit_naks hs hf h hlost hgood htyp hw hm hnak hleft h7⟩
  · intro bs u bits e failed h
    refine ⟨fun hlost hfailed hgood htyp hseq hroom => ?_, fun hlost hbad => State.dataFlit_row hs hf h hlost (Device.takeFlit_naks hbad),
      fun hlost hfailed hgood htyp => ?_, fun hlost hst hrecent => State.dataFlit_retrains hs hf h hlost hst hrecent⟩
    · subst hfailed
      exact State.dataFlit_accepted hs hf h hlost hgood htyp hseq hroom
    · subst hfailed
      exact State.dataFlit_row hs hf h hlost (Device.takeFlit_idle hgood htyp)
  · exact fun hs => ⟨State.controlSilence_retrains hs hn hst, fun trigger lost => ⟨State.portRetrain_retrains hs hn hst,
      State.portRetrain_stays hs⟩⟩
  · exact fun hs => State.retrainNow_retrains hs hn hst

end Sys2Proof.Machine
end

section
/-! PROOF. O1 and O4: the queue. -/

namespace Sys2Proof.Machine

theorem act_queue (f : Device → Device) (s : State) (l : List Instr) : ∃ d : Device,
    act f s = .next { s with dev := d } ∧ act f { s with pending := l } = .next { dev := d, pending := l } := ⟨_, rfl, rfl⟩

/-- Every row of the table is an action on the device, the same whatever waits behind it. -/
theorem exec_queue (c : Instr) (s : State) (l : List Instr) : ∃ d : Device,
    exec c s = .next { s with dev := d } ∧ exec c { s with pending := l } = .next { dev := d, pending := l } := by
  cases c <;> exact act_queue _ s l

theorem step_cons (s : State) (c : Instr) (rest : List Instr) :
    step { s with pending := c :: rest } = exec c { s with pending := rest } := rfl

/-- Settles O1: `step` matches on the queue. -/
theorem stepRunsFrontCommand : Obligations.StepRunsFrontCommand := step_cons

theorem core_run_succ {M : Host.Core} {k : Nat} {s t : M.State} (h : M.step s = .next t) : M.run (k + 1) s = M.run k t := by
  rw [Host.Core.run, h]

/-- What the commands of a list do to the device one after the other, `runAll` does with an empty queue, and as many steps with the
list as the queue. -/
theorem queue_runs (cs : List Instr) (s : State) : ∃ d : Device,
    runAll cs { s with pending := [] } = .next { s with dev := d, pending := [] } ∧
    Host.Core.run Sys2Proof.core cs.length { s with pending := cs } = .next { s with dev := d, pending := [] } := by
  induction cs generalizing s with
  | nil => exact ⟨s.dev, rfl, rfl⟩
  | cons c cs ih =>
    obtain ⟨e, halone, hfront⟩ := exec_queue c { s with pending := [] } cs
    obtain ⟨d, hall, hrun⟩ := ih { s with dev := e }
    refine ⟨d, ?_, ?_⟩
    · rw [runAll, halone]
      exact hall
    · have hstep : Sys2Proof.core.step { s with pending := c :: cs } = .next { s with dev := e, pending := cs } :=
        (step_cons s c cs).trans hfront
      exact (core_run_succ hstep).trans hrun

/-- Settles O4, by induction on the queue: a command's action on the device is the same whatever waits behind it. -/
theorem queueRunsInOrder : Obligations.QueueRunsInOrder := by
  intro cs s
  obtain ⟨d, hall, hrun⟩ := queue_runs cs s
  exact ⟨_, hall, rfl, hrun⟩

end Sys2Proof.Machine
end

section
/-! PROOF. What the work of completion rings and of logging leaves alone, and what a completion ring's parts read. -/

namespace Sys2Proof.Machine

/-! ### A register write that names no register -/

theorem Device.setReg_out_of_range (d : Device) {r : Reg} (w : Word) (h : r.inRange = false) : d.setReg r w = d := by
  simp [Device.setReg, h]

theorem Device.regs_frame_setFld (d : Device) (r : Reg) (f : RegField) (v : Nat) :
    d.setFld r f v = { d with regs := (d.setFld r f v).regs } := d.onlyRegs_setReg r _

/-! ### The frame of completion rings -/

/-- d with what completion rings and logging may change taken from x. -/
def Device.withRings (d x : Device) : Device :=
  { d with
    regs := x.regs, errs := x.errs, hist := x.hist, events := x.events, hostMem := x.hostMem, msixPending := x.msixPending
    out := x.out, queues := x.queues, cqs := x.cqs }

/-- The registers that completion rings and logging may write. -/
def ringRegs : List Reg :=
  logRegs ++ (List.range 8).flatMap fun p => (List.range 64).flatMap fun q => [Reg.hifCqStatus p q, .cmdQStatus p q]

theorem logRegs_subset_ringRegs : logRegs ⊆ ringRegs := List.subset_append_left _ _

theorem mem_ringRegs {p q : Nat} (hp : p < 8) (hq : q < 64) : Reg.hifCqStatus p q ∈ ringRegs ∧ Reg.cmdQStatus p q ∈ ringRegs := by
  constructor <;>
    exact List.mem_append_right _ (List.mem_flatMap.2 ⟨p, List.mem_range.2 hp, List.mem_flatMap.2 ⟨q, List.mem_range.2 hq, by simp⟩⟩)

theorem inRange_cqStatus {p q : Nat} : (Reg.hifCqStatus p q).inRange = true ↔ p < 8 ∧ q < 64 := by simp [Reg.inRange]
theorem inRange_cmdQStatus {p q : Nat} : (Reg.cmdQStatus p q).inRange = true ↔ p < 8 ∧ q < 64 := by simp [Reg.inRange]

/-- An offset outside what the counts, the partitions' status and the rings' status take. -/
theorem ringRegs_apart {o : Nat} (h : o ∉ logRegs.map Reg.offset) (hq : ∀ p, p < 8 → ∀ q, q < 64 → o ≠ (Reg.hifCqStatus p q).offset)
    (hc : ∀ p, p < 8 → ∀ q, q < 64 → o ≠ (Reg.cmdQStatus p q).offset) : o ∉ ringRegs.map Reg.offset := by
  intro hm
  obtain ⟨r, hr, rfl⟩ := List.mem_map.1 hm
  rcases List.mem_append.1 hr with hl | hl
  · exact h (List.mem_map_of_mem hl)
  · simp only [List.mem_flatMap, List.mem_range, List.mem_cons, List.not_mem_nil, or_false] at hl
    obtain ⟨p, hp, q, hq', rfl | rfl⟩ := hl
    · exact hq p hp q hq' rfl
    · exact hc p hp q hq' rfl

/-- e is d but for the completion rings, outstanding commands whose record is written, registers of those, and what logging may change. -/
structure Device.RingSame (d e : Device) : Prop where
  frame : e = d.withRings e
  regs : d.sameRegs e ringRegs

namespace Device.RingSame

variable {d e e' : Device}

theorem refl (d : Device) : d.RingSame d := ⟨rfl, .refl d _⟩

theorem trans (h : d.RingSame e) (g : e.RingSame e') : d.RingSame e' where
  frame :=
    calc e' = e.withRings e' := g.frame
      _ = (d.withRings e).withRings e' := congrArg (·.withRings e') h.frame
      _ = d.withRings e' := rfl
  regs := h.regs.trans g.regs

theorem of_regs (h : e = d.withRings e) (hr : e.regs = d.regs) : d.RingSame e := ⟨h, Device.sameRegs_of_regs _ hr⟩

theorem setFld (h : d.RingSame e) {r : Reg} (f : RegField) (v : Nat) (hr : r.inRange = true → r ∈ ringRegs) : d.RingSame (e.setFld r f v) := by
  refine h.trans ?_
  cases hin : r.inRange with
  | false => rw [Device.setFld, Device.setReg_out_of_range _ _ hin]; exact refl e
  | true => exact ⟨congrArg e.withRings (e.regs_frame_setFld r f v) |>.symm ▸ e.regs_frame_setFld r f v, e.sameRegs_setFld _ _ _ (hr hin)⟩

theorem setCq (h : d.RingSame e) (p c : Nat) (x : CqState) : d.RingSame (e.setCq p c x) := h.trans (of_regs rfl rfl)
theorem hostWrite (h : d.RingSame e) (a : Nat) (bs : List Byte) : d.RingSame (e.hostWrite a bs) := h.trans (of_regs rfl rfl)
theorem emit (h : d.RingSame e) (o : Out) : d.RingSame (e.emit o) := h.trans (of_regs rfl rfl)

theorem of_logSame (h : d.LogSame e) : d.RingSame e where
  frame := (congrArg (·.withRings e) h.frame :)
  regs := Device.sameRegs_of_logSame h logRegs_subset_ringRegs

theorem raise (h : d.RingSame e) (fn v : Nat) : d.RingSame (e.raise fn v) := h.trans (of_logSame (e.logSame_raise fn v))
theorem logPart (h : d.RingSame e) (p code cls : Nat) (body : List Word) (die : Nat) : d.RingSame (e.logPart p code cls body die) :=
  h.trans (of_logSame (e.logSame_logPart _ _ _ _ _))

theorem setQueue (h : d.RingSame e) (p q : Nat) (cs : List Cmd) : d.RingSame (e.setQueue p q cs) :=
  setFld (h.trans (of_regs (e := { e with queues := SMap.set (fun _ => []) e.queues (qkey p q) cs }) rfl rfl)) _ _
    fun hin => (mem_ringRegs (inRange_cmdQStatus.1 hin).1 (inRange_cmdQStatus.1 hin).2).2

theorem setCqStatus (h : d.RingSame e) (p c : Nat) (f : RegField) (v : Nat) : d.RingSame (e.setFld (.hifCqStatus p c) f v) :=
  h.setFld f v fun hin => (mem_ringRegs (inRange_cqStatus.1 hin).1 (inRange_cqStatus.1 hin).2).1

theorem foldl {β : Type} {f : Device → β → Device} (hf : ∀ (a : Device) (b : β), a.RingSame (f a b)) (l : List β) (d : Device) :
    d.RingSame (l.foldl f d) := by
  induction l generalizing d with
  | nil => exact refl d
  | cons b l ih => exact (hf d b).trans (ih _)

theorem ite {b : Prop} [Decidable b] {x y : Device} (hx : d.RingSame x) (hy : d.RingSame y) : d.RingSame (if b then x else y) := by
  split
  · exact hx
  · exact hy

theorem mem (h : d.RingSame e) : e.mem = d.mem := (congrArg Device.mem h.frame :)
theorem flowDone (h : d.RingSame e) : e.flowDone = d.flowDone := (congrArg Device.flowDone h.frame :)
theorem link (h : d.RingSame e) : e.link = d.link := (congrArg Device.link h.frame :)

end Device.RingSame

/-! ### What completion rings do -/

theorem Device.ringSame_cplWrite (d : Device) (p c : Nat) (r : CplRec) : d.RingSame (d.cplWrite p c r) := by
  have h := ((RingSame.refl d).hostWrite (d.fld (.hifCqBase p c) Fd.hifCqBaseAddr * 4096 + 32 * (d.cqTail p c % d.cqSize p c))
    (d.cplBytes p c r)).setCqStatus p c Fd.hifCqStatusTail (d.cqTail p c + 1)
  unfold Device.cplWrite
  dsimp only
  split
  · exact h.setQueue _ _ _
  · exact h

theorem Device.ringSame_cqDrain (p c : Nat) (l : List CplRec) (d : Device) : d.RingSame (Device.cqDrain p c l d) := by
  induction l generalizing d with
  | nil => exact (RingSame.refl d).setCq _ _ _
  | cons r l ih =>
    unfold Device.cqDrain
    split
    · exact (d.ringSame_cplWrite p c r).trans (ih _)
    · exact (RingSame.refl d).setCq _ _ _

theorem Device.ringSame_cqShowState (d : Device) (p c : Nat) : d.RingSame (d.cqShowState p c) :=
  have h := (RingSame.refl d).setCqStatus p c Fd.hifCqStatusState (if decide (d.cqSize p c ≤ d.cqUsed p c) then 2 else 1)
  .ite h (h.setCq _ _ _)

theorem Device.ringSame_cqInterrupt (d : Device) (p c : Nat) : d.RingSame (d.cqInterrupt p c) := by
  unfold Device.cqInterrupt
  dsimp only
  split
  · exact ((RingSame.refl d).setCq _ _ _).raise _ _
  · exact .refl d

theorem Device.ringSame_cqFlush (d : Device) (p c : Nat) : d.RingSame (d.cqFlush p c) := by
  unfold Device.cqFlush
  split
  · exact ((Device.ringSame_cqDrain _ _ _ _).trans (Device.ringSame_cqShowState _ _ _)).trans (Device.ringSame_cqInterrupt _ _ _)
  · exact .refl d

theorem Device.ringSame_cqPost (d : Device) (p c : Nat) (r : CplRec) : d.RingSame (d.cqPost p c r) :=
  ((RingSame.refl d).setCq _ _ _).trans (Device.ringSame_cqFlush _ _ _)

/-- R77: a ring that is not enabled has nothing to write. -/
theorem Device.cqFlush_disabled {d : Device} {p c : Nat} (h : d.flag (.hifCqCfg p c) Fd.hifCqCfgEnable = false) : d.cqFlush p c = d := by
  simp [Device.cqFlush, h]

theorem Device.logSame_countWaiting (d : Device) : d.LogSame d.countWaiting := Device.logSame_setReg _ _ _ logRegs_ras status_ne_ras

/-- R429: one record of the history buffer as the module's error ring is enabled: written where it waits. -/
def replayOne (a : Device × List HistRec) (h : HistRec) : Device × List HistRec :=
  if h.waiting then
    let e := a.1.errWrite moduleRing { h.record with flags := h.record.flags ||| 2 }
    let s := SMap.at' ({} : Storm) (e.errRing moduleRing).storms h.record.code
    let e := if e.seqSince a.1 moduleRing = 0 then e else e.setStorm moduleRing h.record.code { s with written := s.written + 1 }
    (e, HistRec.mk { h.record with seq := e.seqSince a.1 moduleRing } false :: a.2)
  else (a.1, h :: a.2)

/-- The history buffer after the replay of its records. -/
def Device.replayed (d : Device) : Device × List HistRec := d.hist.reverse.foldl replayOne (d, [])

theorem Device.histReplay_eq (d : Device) : d.histReplay = ({ d.replayed.1 with hist := d.replayed.2 } : Device).countWaiting := rfl

theorem logSame_replayOne {d : Device} {a : Device × List HistRec} (h : HistRec) (ha : d.LogSame a.1) : d.LogSame (replayOne a h).1 := by
  unfold replayOne
  split
  · have hw := ha.trans (a.1.logSame_errWrite moduleRing { h.record with flags := h.record.flags ||| 2 })
    dsimp only
    split
    · exact hw
    · exact hw.trans (Device.logSame_setStorm _ _ _ _)
  · exact ha

theorem logSame_replay {d : Device} (l : List HistRec) {a : Device × List HistRec} (ha : d.LogSame a.1) :
    d.LogSame (l.foldl replayOne a).1 := by
  induction l generalizing a with
  | nil => exact ha
  | cons h l ih => exact ih (logSame_replayOne h ha)

theorem Device.logSame_histReplay (d : Device) : d.LogSame d.histReplay := by
  have h : d.LogSame d.replayed.1 := logSame_replay _ (.refl d)
  rw [Device.histReplay_eq]
  generalize d.replayed = a at h ⊢
  exact (h.trans (.of (e := { a.1 with hist := a.2 }) rfl)).trans (Device.logSame_countWaiting _)

theorem Device.ringSame_ringsRun (d : Device) : d.RingSame d.ringsRun := by
  have h := RingSame.foldl (f := fun (d : Device) (x : Nat × Nat) => d.cqFlush x.1 x.2) (fun a b => a.ringSame_cqFlush b.1 b.2)
    ((List.range 8).flatMap fun p => (List.range 64).map fun c => (p, c)) d
  unfold Device.ringsRun
  dsimp only
  split
  · exact h.trans (.of_logSame (Device.logSame_histReplay _))
  · exact h

/-- R77: where no ring is enabled nothing runs again. -/
theorem Device.ringsRun_disabled {d : Device} (he : d.errEnabled 8 = false)
    (hc : ∀ p c, p < 8 → c < 64 → d.flag (.hifCqCfg p c) Fd.hifCqCfgEnable = false) : d.ringsRun = d := by
  have hfold : ∀ l : List (Nat × Nat), (∀ x ∈ l, x.1 < 8 ∧ x.2 < 64) → l.foldl (fun (d : Device) x => d.cqFlush x.1 x.2) d = d := by
    intro l hl
    induction l with
    | nil => rfl
    | cons x l ih =>
      have hx := hl x List.mem_cons_self
      rw [List.foldl_cons, Device.cqFlush_disabled (hc _ _ hx.1 hx.2)]
      exact ih fun y hy => hl y (List.mem_cons_of_mem _ hy)
  have hall := hfold ((List.range 8).flatMap fun p => (List.range 64).map fun c => (p, c)) (by
    intro x hx
    simp only [List.mem_flatMap, List.mem_map, List.mem_range] at hx
    obtain ⟨p, hp, c, hc, rfl⟩ := hx
    exact ⟨hp, hc⟩)
  have hm : d.errEnabled moduleRing = false := he
  unfold Device.ringsRun
  dsimp only
  rw [hall, hm]
  rfl

end Sys2Proof.Machine
end

section
/-! PROOF. O25: the PCIe port. -/

namespace Sys2Proof.Machine

theorem exec_configRequest (fn : Nat) (a : ConfigAccess) (s : State) : exec (.configRequest fn a) s = live (·.configRequest fn a) s := rfl
theorem exec_pcieLinkTrained (rate width : Nat) (flit : Bool) (s : State) :
    exec (.pcieLinkTrained rate width flit) s = live (·.linkTrained rate width flit) s := rfl
theorem exec_ptmExchange (time : Word) (s : State) :
    exec (.ptmExchange time) s = live (fun d => if d.ptmOn then { d with ptm := time } else d) s := rfl
theorem exec_headWordRead (p c : Nat) (cells : List Host.Cell) (s : State) :
    exec (.headWordRead p c cells) s = run (fun d => (d.hostStores cells).readHead p c) s := rfl
theorem exec_cqFullTimeout (p c : Nat) (s : State) : exec (.cqFullTimeout p c) s = run (·.cqFullTimeout p c) s := rfl
theorem exec_coalesceTimeout (p c : Nat) (s : State) : exec (.coalesceTimeout p c) s = run (·.coalesceTimeout p c) s := rfl
theorem exec_heartbeat (p : Nat) (s : State) : exec (.heartbeat p) s = run (·.heartbeat p) s := rfl

/-! ### Configuration requests -/

/-- R76: the answer to a configuration request. -/
def Device.configAnswer (d : Device) : Device := { d with free := d.free + 1, out := d.out ++ [.configReply (Config.freeWord d.free)] }

/-- R76, R78: what a configuration access does before it is answered. -/
def Device.configured (d : Device) (fn : Nat) (a : ConfigAccess) : Device :=
  match a with
  | .read => d
  | .enableVfs n => if fn = 0 ∧ n ≤ 8 then { d with vfs := n } else d
  | .powerState hot => { d with d3 := putBit d.d3 fn hot }
  | .maskVector vec masked => if fn ≤ d.vfs ∧ vectorOk fn vec then d.maskVector fn vec masked else d
  | .enablePtm on => if fn = 0 then { d with ptmOn := on } else d

theorem Device.configRequest_eq (d : Device) (fn : Nat) (a : ConfigAccess) : d.configRequest fn a = (d.configured fn a).configAnswer := by
  cases a <;> rfl

/-- A configuration request that has the device g before its answer. -/
theorem configRequest_row {s : State} {fn : Nat} {a : ConfigAccess} {e : Device} (hs : s.running = true)
    (he : s.quiet.dev.configured fn a = e) (hd : e.flowDone = s.dev.flowDone) :
    exec (.configRequest fn a) s = .next { s with dev := e.configAnswer } :=
  live_row hs (exec_configRequest fn a s) (by rw [Device.configRequest_eq, he]) hd

/-- R76: the mask of a vector and what pends for it, once it has been masked or unmasked. -/
theorem Device.maskVector_spec (d : Device) (fn vec : Nat) (masked : Bool) :
    SMap.get (fun _ => false) (d.maskVector fn vec masked).unmasked (vecKey fn vec) = !masked ∧
    SMap.get (fun _ => false) (d.maskVector fn vec masked).msixPending (vecKey fn vec) =
      (masked && SMap.get (fun _ => false) d.msixPending (vecKey fn vec)) ∧
    (d.maskVector fn vec masked).out = d.out ++
      (if masked = false ∧ SMap.get (fun _ => false) d.msixPending (vecKey fn vec) = true then [.msix fn vec] else []) ∧
    (d.maskVector fn vec masked).regs = d.regs ∧ (d.maskVector fn vec masked).mem = d.mem ∧
    (d.maskVector fn vec masked).flowDone = d.flowDone ∧ (d.maskVector fn vec masked).free = d.free := by
  unfold Device.maskVector
  cases masked with
  | true => simp
  | false =>
    cases hp : SMap.get (fun _ => false) d.msixPending (vecKey fn vec) with
    | true => simp [hp, Device.emit]
    | false => simp [hp]

theorem maskVector_row {s : State} {fn vec : Nat} (masked : Bool) (hs : s.running = true) (hfn : fn ≤ s.dev.vfs)
    (hv : vectorOk fn vec = true) : ∃ t : State,
    exec (.configRequest fn (.maskVector vec masked)) s = .next t ∧ t.pending = s.pending ∧
    SMap.get (fun _ => false) t.dev.unmasked (vecKey fn vec) = !masked ∧
    SMap.get (fun _ => false) t.dev.msixPending (vecKey fn vec) =
      (masked && SMap.get (fun _ => false) s.dev.msixPending (vecKey fn vec)) ∧
    t.dev.out = (if masked = false ∧ SMap.get (fun _ => false) s.dev.msixPending (vecKey fn vec) = true then [.msix fn vec] else []) ++
      [.configReply (Config.freeWord s.dev.free)] ∧ t.dev.regs = s.dev.regs ∧ t.dev.mem = s.dev.mem := by
  obtain ⟨hmask, hpend, hout, hregs, hmem, hflow, hfree⟩ := s.quiet.dev.maskVector_spec fn vec masked
  refine ⟨_, configRequest_row hs (if_pos ⟨hfn, hv⟩) hflow, rfl, hmask, hpend, ?_, hregs, hmem⟩
  change (s.quiet.dev.maskVector fn vec masked).out ++ [.configReply (Config.freeWord (s.quiet.dev.maskVector fn vec masked).free)] = _
  rw [hout, hfree]
  rfl

/-! ### The link -/

/-- R77: HIF_LINK as the link settles. -/
def Device.linkShown (d : Device) (rate width : Nat) (flit : Bool) : Device :=
  (((({ d with link := (rate, width) } : Device).setFld .hifLink Fd.hifLinkRateGt rate).setFld .hifLink Fd.hifLinkWidth width).setFld .hifLink
    Fd.hifLinkFlit (ofBool flit)).setFld .hifLink Fd.hifLinkUnsupported (if 32 ≤ rate ∧ 4 ≤ width then 0 else 1)

theorem Device.linkTrained_eq (d : Device) (rate width : Nat) (flit : Bool) : d.linkTrained rate width flit =
    if 32 ≤ rate ∧ 4 ≤ width then (d.linkShown rate width flit).ringsRun else (d.linkShown rate width flit).emit .aerCorrectable := by
  unfold Device.linkTrained Device.linkShown
  by_cases h : 32 ≤ rate ∧ 4 ≤ width
  · simp [Device.linkOk, h.1, h.2, ofBool]
  · have hb : (decide (32 ≤ rate) && decide (4 ≤ width)) = false := by simpa using h
    simp [Device.linkOk, h, hb, ofBool]

/-- R77: what HIF_LINK shows. -/
theorem Device.linkShown_spec (d : Device) {rate width : Nat} (flit : Bool) (hr : rate < 256) (hw : width < 64) :
    (d.linkShown rate width flit).fld .hifLink Fd.hifLinkRateGt = rate ∧ (d.linkShown rate width flit).fld .hifLink Fd.hifLinkWidth = width ∧
    (d.linkShown rate width flit).fld .hifLink Fd.hifLinkFlit = ofBool flit ∧
    (d.linkShown rate width flit).fld .hifLink Fd.hifLinkUnsupported = (if 32 ≤ rate ∧ 4 ≤ width then 0 else 1) := by
  unfold Device.linkShown
  refine ⟨?_, ?_, ?_, ?_⟩
  · rw [Device.fld_setFld_apart _ _ _ (by decide), Device.fld_setFld_apart _ _ _ (by decide), Device.fld_setFld_apart _ _ _ (by decide),
      Device.fld_setFld_self _ _ _ _ rfl (by decide) (by decide)]
    exact Nat.mod_eq_of_lt hr
  · rw [Device.fld_setFld_apart _ _ _ (by decide), Device.fld_setFld_apart _ _ _ (by decide),
      Device.fld_setFld_self _ _ _ _ rfl (by decide) (by decide)]
    exact Nat.mod_eq_of_lt hw
  · rw [Device.fld_setFld_apart _ _ _ (by decide), Device.fld_setFld_self _ _ _ _ rfl (by decide) (by decide)]
    cases flit <;> rfl
  · rw [Device.fld_setFld_self _ _ _ _ rfl (by decide) (by decide)]
    split <;> rfl

theorem Device.OnlyRegs.setFld {d e : Device} (h : d.OnlyRegs e) (r : Reg) (f : RegField) (v : Nat) : d.OnlyRegs (e.setFld r f v) :=
  h.trans (e.onlyRegs_setReg _ _)

theorem Device.onlyRegs_linkShown (d : Device) (rate width : Nat) (flit : Bool) :
    ({ d with link := (rate, width) } : Device).OnlyRegs (d.linkShown rate width flit) :=
  ((((OnlyRegs.refl _).setFld .hifLink Fd.hifLinkRateGt rate).setFld .hifLink Fd.hifLinkWidth width).setFld .hifLink Fd.hifLinkFlit
    (ofBool flit)).setFld .hifLink Fd.hifLinkUnsupported (if 32 ≤ rate ∧ 4 ≤ width then 0 else 1)

theorem Device.linkShown_frame (d : Device) (rate width : Nat) (flit : Bool) :
    d.linkShown rate width flit = { d with link := (rate, width), regs := (d.linkShown rate width flit).regs } :=
  d.onlyRegs_linkShown rate width flit

theorem Device.sameRegs_linkShown (d : Device) (rate width : Nat) (flit : Bool) : d.sameRegs (d.linkShown rate width flit) [.hifLink] :=
  have h (e : Device) (f : RegField) (v : Nat) : e.sameRegs (e.setFld .hifLink f v) [.hifLink] := e.sameRegs_setFld _ _ _ List.mem_cons_self
  Device.sameRegs.trans (Device.sameRegs.trans (Device.sameRegs.trans (h { d with link := (rate, width) } _ _) (h _ _ _)) (h _ _ _)) (h _ _ _)

theorem hifLink_not_ring : Reg.hifLink.offset ∉ ringRegs.map Reg.offset :=
  ringRegs_apart (by decide) (fun p _ q _ => by simp only [Reg.offset]; omega) (fun p _ q _ => by simp only [Reg.offset]; omega)

theorem Device.ringSame_linkTrained (d : Device) (rate width : Nat) (flit : Bool) :
    (d.linkShown rate width flit).RingSame (d.linkTrained rate width flit) := by
  rw [Device.linkTrained_eq]
  exact .ite (Device.ringSame_ringsRun _) ((RingSame.refl _).emit _)

theorem Device.cqEnable_linkShown (d : Device) (rate width : Nat) (flit : Bool) (p c : Nat) :
    (d.linkShown rate width flit).flag (.hifCqCfg p c) Fd.hifCqCfgEnable = d.flag (.hifCqCfg p c) Fd.hifCqCfgEnable := by
  rw [Device.flag, Device.flag, (d.sameRegs_linkShown rate width flit).fld (by simp [Reg.offset]; omega)]

theorem Device.errEnabled_linkShown (d : Device) (rate width : Nat) (flit : Bool) :
    (d.linkShown rate width flit).errEnabled 8 = d.errEnabled 8 := by
  rw [Device.errEnabled, Device.errEnabled, Device.flag, Device.flag, (d.sameRegs_linkShown rate width flit).fld (by decide)]

/-- R77: where no ring is enabled, or none may run, only HIF_LINK and what is sent change. -/
theorem Device.linkTrained_alone (d : Device) {rate width : Nat} (flit : Bool) (h : rate < 32 ∨ width < 4 ∨ (d.errEnabled 8 = false ∧
      ∀ p c, p < 8 → c < 64 → d.flag (.hifCqCfg p c) Fd.hifCqCfgEnable = false)) :
    d.linkTrained rate width flit = { d.linkShown rate width flit with out := d.out ++ if 32 ≤ rate ∧ 4 ≤ width then [] else [.aerCorrectable] } := by
  have hout : (d.linkShown rate width flit).out = d.out := by rw [Device.linkShown_frame]
  rw [Device.linkTrained_eq]
  by_cases hgood : 32 ≤ rate ∧ 4 ≤ width
  · obtain ⟨he, hc⟩ : d.errEnabled 8 = false ∧ ∀ p c, p < 8 → c < 64 → d.flag (.hifCqCfg p c) Fd.hifCqCfgEnable = false := by
      rcases h with h | h | h
      · omega
      · omega
      · exact h
    rw [if_pos hgood, if_pos hgood, Device.ringsRun_disabled ((d.errEnabled_linkShown _ _ _).trans he)
      fun p c hp hc' => (d.cqEnable_linkShown _ _ _ p c).trans (hc p c hp hc'), List.append_nil, ← hout]
  · rw [if_neg hgood, if_neg hgood, Device.emit, hout]

theorem pcieLinkTrained_row {s : State} {rate width : Nat} (flit : Bool) (hs : s.running = true) (hr : rate < 256) (hw : width < 64) :
    ∃ t : State, exec (.pcieLinkTrained rate width flit) s = .next t ∧
      t.pending = s.pending ∧ t.dev.fld .hifLink Fd.hifLinkRateGt = rate ∧ t.dev.fld .hifLink Fd.hifLinkWidth = width ∧
      t.dev.fld .hifLink Fd.hifLinkFlit = ofBool flit ∧
      t.dev.fld .hifLink Fd.hifLinkUnsupported = (if 32 ≤ rate ∧ 4 ≤ width then 0 else 1) ∧
      t.dev.link = (rate, width) ∧ t.dev.mem = s.dev.mem ∧
      (rate < 32 ∨ width < 4 ∨ (s.dev.errEnabled 8 = false ∧ ∀ p c, p < 8 → c < 64 → s.dev.flag (.hifCqCfg p c) Fd.hifCqCfgEnable = false) →
        t.dev.out = (if 32 ≤ rate ∧ 4 ≤ width then [] else [.aerCorrectable]) ∧ s.dev.sameRegs t.dev [.hifLink] ∧
        s.dev.sameButRegs { t.dev with link := s.dev.link }) := by
  have same := s.quiet.dev.ringSame_linkTrained rate width flit
  have shown := s.quiet.dev.linkShown_frame rate width flit
  obtain ⟨hrate, hwidth, hflit, hbad⟩ := s.quiet.dev.linkShown_spec flit hr hw
  have fld (f : RegField) := same.regs.fld hifLink_not_ring f
  refine ⟨_, live_row hs (exec_pcieLinkTrained rate width flit s) rfl (same.flowDone.trans (congrArg Device.flowDone shown :)), rfl,
    (fld _).trans hrate, (fld _).trans hwidth, (fld _).trans hflit, (fld _).trans hbad, same.link.trans (congrArg Device.link shown :),
    same.mem.trans (congrArg Device.mem shown :), fun h => ?_⟩
  have alone := s.quiet.dev.linkTrained_alone (rate := rate) (width := width) flit h
  refine ⟨congrArg Device.out alone, ?_, ?_⟩
  · intro r hr
    exact (congrArg (Device.reg · r) alone).trans (s.quiet.dev.sameRegs_linkShown rate width flit r hr)
  · rw [Device.sameButRegs, alone, shown]
    rfl

/-! ### Head words, full rings and coalescing -/

theorem Device.readHead_reads {d : Device} {p c : Nat} (he : d.flag (.hifCqCfg p c) Fd.hifCqCfgEnable = true) (hl : d.linkOk = true) :
    d.readHead p c =
      if (fieldOf (d.hostWord (d.wordPage p + 1024 + 8 * c)) 31 0 + 4294967296 - (d.cq p c).head) % 4294967296 ≤ d.cqUsed p c then
        (d.setCq p c { d.cq p c with
          head := fieldOf (d.hostWord (d.wordPage p + 1024 + 8 * c)) 31 0, armRead := fieldOf (d.hostWord (d.wordPage p + 1024 + 8 * c)) 47 32
          headLogged := false }).cqFlush p c
      else if (d.cq p c).headLogged then d
      else (d.setCq p c { d.cq p c with headLogged := true }).logPart p 0x0409 0
        (hostBody c 0 0 (fieldOf (d.hostWord (d.wordPage p + 1024 + 8 * c)) 31 0 + c * 2 ^ 32)) := by
  simp only [Device.readHead, he, hl, Bool.and_self, if_true, Nat.reducePow]

theorem Device.cq_congr {d e : Device} (h : e.cqs = d.cqs) (p c : Nat) : e.cq p c = d.cq p c := by rw [Device.cq, Device.cq, h]

@[simp] theorem Device.cq_setCq_self (d : Device) (p c : Nat) (x : CqState) : (d.setCq p c x).cq p c = x := SMap.get_set_self _ _ _ _

/-- R91: a head word that lies within the records written. -/
theorem headWordRead_accepted {s : State} {p c : Nat} {cells : List Host.Cell} (hs : s.inService = true) (hl : s.dev.linkOk = true)
    (he : s.dev.flag (.hifCqCfg p c) Fd.hifCqCfgEnable = true)
    (hw : (fieldOf ((s.quiet.dev.hostStores cells).hostWord (s.dev.wordPage p + 1024 + 8 * c)) 31 0 + 4294967296 - (s.dev.cq p c).head) %
      4294967296 ≤ s.dev.cqUsed p c) :
    exec (.headWordRead p c cells) s = .next (s.after fun d => ((d.hostStores cells).setCq p c { d.cq p c with
      head := fieldOf ((s.quiet.dev.hostStores cells).hostWord (s.dev.wordPage p + 1024 + 8 * c)) 31 0
      armRead := fieldOf ((s.quiet.dev.hostStores cells).hostWord (s.dev.wordPage p + 1024 + 8 * c)) 47 32
      headLogged := false }).cqFlush p c) :=
  run_row hs (exec_headWordRead p c cells s)
    ((Device.readHead_reads (d := s.quiet.dev.hostStores cells) he hl).trans (if_pos hw)) (Device.ringSame_cqFlush _ _ _).flowDone

theorem headWordRead_ignored {s : State} {p c : Nat} {cells : List Host.Cell} (hs : s.inService = true) (hl : s.dev.linkOk = true)
    (he : s.dev.flag (.hifCqCfg p c) Fd.hifCqCfgEnable = true) (hlog : (s.dev.cq p c).headLogged = false)
    (hw : s.dev.cqUsed p c < (fieldOf ((s.quiet.dev.hostStores cells).hostWord (s.dev.wordPage p + 1024 + 8 * c)) 31 0 + 4294967296 -
      (s.dev.cq p c).head) % 4294967296) :
    ∃ t : State, exec (.headWordRead p c cells) s = .next t ∧ t.pending = s.pending ∧
      t.dev.cq p c = { s.dev.cq p c with headLogged := true } ∧ t.dev.mem = s.dev.mem :=
  have hrow := (Device.readHead_reads (d := s.quiet.dev.hostStores cells) he hl).trans
    ((if_neg (Nat.not_le.mpr hw)).trans (if_neg (hlog ▸ Bool.false_ne_true)))
  ⟨_, run_row hs (exec_headWordRead p c cells s) hrow (Device.logPart_flowDone _ _ _ _ _ _), rfl,
    (Device.cq_congr (Device.logPart_cqs _ _ _ _ _ _) p c).trans (Device.cq_setCq_self _ _ _ _), Device.logPart_mem _ _ _ _ _ _⟩

theorem cqStatus_not_logged {p c : Nat} (_hp : p < 8) (hc : c < 64) : (Reg.hifCqStatus p c).offset ∉ logRegs.map Reg.offset := by
  refine logRegs_apart _ ?_ (fun k hk => ?_) (fun k hk => ?_)
  all_goals simp only [Reg.offset]; omega

theorem cqFullTimeout_row {s : State} {p c : Nat} (hs : s.inService = true) (hp : p < 8) (hc : c < 64)
    (hst : s.dev.fld (.hifCqStatus p c) Fd.hifCqStatusState = 2) (hlog : (s.dev.cq p c).fullLogged = false) : ∃ t : State,
    exec (.cqFullTimeout p c) s = .next t ∧ t.pending = s.pending ∧ t.dev.cq p c = { s.dev.cq p c with fullLogged := true } ∧
    t.dev.fld (.hifCqStatus p c) Fd.hifCqStatusState = 2 ∧ t.dev.mem = s.dev.mem :=
  ⟨_, run_row hs (exec_cqFullTimeout p c s) (if_pos ⟨hst, hlog⟩) (Device.logPart_flowDone _ _ _ _ _ _), rfl,
    (Device.cq_congr (Device.logPart_cqs _ _ _ _ _ _) p c).trans (Device.cq_setCq_self _ _ _ _),
    (Device.fld_logPart _ _ _ _ _ _ _ _ (cqStatus_not_logged hp hc)).trans hst, Device.logPart_mem _ _ _ _ _ _⟩

theorem Device.raise_unmasked {d : Device} {fn vec : Nat} (h : SMap.get (fun _ => false) d.unmasked (vecKey fn vec) = true) :
    d.raise fn vec = d.emit (.msix fn vec) := if_pos h

theorem Device.raise_masked {d : Device} {fn vec : Nat} (h : SMap.get (fun _ => false) d.unmasked (vecKey fn vec) ≠ true) :
    d.raise fn vec = { d with msixPending := SMap.set (fun _ => false) d.msixPending (vecKey fn vec) true } := if_neg h

/-- R92: the coalescing time of an armed ring has passed. -/
theorem coalesceTimeout_row {s : State} {p c : Nat} (hs : s.inService = true) (hl : s.dev.linkOk = true)
    (he : s.dev.flag (.hifCqCfg p c) Fd.hifCqCfgEnable = true) (harm : (s.dev.cq p c).armRead ≠ (s.dev.cq p c).armServed)
    (hu : 1 ≤ s.dev.cqUsed p c) :
    ∃ t : State, exec (.coalesceTimeout p c) s = .next t ∧ t.pending = s.pending ∧
      t.dev.cq p c = { s.dev.cq p c with armServed := (s.dev.cq p c).armRead } ∧ t.dev.regs = s.dev.regs ∧ t.dev.mem = s.dev.mem ∧
      let fn := s.dev.ownerOf p
      let vec := s.dev.fld (.hifCqCfg p c) Fd.hifCqCfgVector
      if SMap.get (fun _ => false) s.dev.unmasked (vecKey fn vec) = true then t.dev.out = [.msix fn vec]
      else t.dev.out = [] ∧ SMap.get (fun _ => false) t.dev.msixPending (vecKey fn vec) = true := by
  have hrow : s.quiet.dev.coalesceTimeout p c = (s.quiet.dev.setCq p c { s.dev.cq p c with armServed := (s.dev.cq p c).armRead }).raise
    (s.dev.ownerOf p) (s.dev.fld (.hifCqCfg p c) Fd.hifCqCfgVector) := if_pos ⟨he, hl, harm, hu⟩
  generalize s.dev.ownerOf p = fn at hrow ⊢
  generalize s.dev.fld (.hifCqCfg p c) Fd.hifCqCfgVector = vec at hrow ⊢
  dsimp only
  split
  · next hm =>
    exact ⟨_, run_row hs (exec_coalesceTimeout p c s) (hrow.trans (Device.raise_unmasked hm)) rfl, rfl, Device.cq_setCq_self _ _ _ _, rfl, rfl,
      rfl⟩
  · next hm =>
    exact ⟨_, run_row hs (exec_coalesceTimeout p c s) (hrow.trans (Device.raise_masked hm)) rfl, rfl, Device.cq_setCq_self _ _ _ _, rfl, rfl,
      rfl, SMap.get_set_self _ _ _ _⟩

/-! ### Heartbeats -/

theorem Device.heartbeat_goes {d : Device} {p : Nat} (ha : d.partActive p = true) (hl : d.linkOk = true)
    (hst : d.fld (.hifCqStatus p (d.fld (.hifPartCtrl p) Fd.hifPartCtrlHbCq)) Fd.hifCqStatusState = 1) : d.heartbeat p =
      (d.setFld (.hifPartStatus p) Fd.hifPartStatusHbBlocked 0).cqPost p (d.fld (.hifPartCtrl p) Fd.hifPartCtrlHbCq)
        { typ := 1, status := 0, queue := 0, index := 0, value := if d.ptmOn then d.ptm else 0, low3 := d.firmwareState p } := by
  unfold Device.heartbeat
  rw [ha, hl]
  exact if_pos hst

theorem Device.heartbeat_withheld {d : Device} {p : Nat} (ha : d.partActive p = true) (hl : d.linkOk = true)
    (hst : d.fld (.hifCqStatus p (d.fld (.hifPartCtrl p) Fd.hifPartCtrlHbCq)) Fd.hifCqStatusState ≠ 1) : d.heartbeat p =
      if d.flag (.hifPartStatus p) Fd.hifPartStatusHbBlocked then d
      else (d.setFld (.hifPartStatus p) Fd.hifPartStatusHbBlocked 1).logPart p 0x0407 0
        (hostBody (d.fld (.hifPartCtrl p) Fd.hifPartCtrlHbCq) 0 0 (d.fld (.hifPartCtrl p) Fd.hifPartCtrlHbCq)) := by
  unfold Device.heartbeat
  rw [ha, hl]
  exact if_neg hst

theorem heartbeat_row {s : State} {p c : Nat} (hs : s.inService = true) (hl : s.dev.linkOk = true) (ha : s.dev.partActive p = true)
    (hc : c = s.dev.fld (.hifPartCtrl p) Fd.hifPartCtrlHbCq) (hst : s.dev.fld (.hifCqStatus p c) Fd.hifCqStatusState = 1) :
    exec (.heartbeat p) s = .next (s.after fun d => (d.setFld (.hifPartStatus p) Fd.hifPartStatusHbBlocked 0).cqPost p c
      { typ := 1, status := 0, queue := 0, index := 0, value := if s.dev.ptmOn then s.dev.ptm else 0, low3 := s.dev.firmwareState p }) := by
  subst hc
  exact run_row hs (exec_heartbeat p s) (Device.heartbeat_goes (d := s.quiet.dev) ha hl hst)
    ((Device.ringSame_cqPost _ _ _ _).flowDone.trans (Device.setFld_flowDone _ _ _ _))

/-- R93: a heartbeat that its ring does not take. -/
theorem heartbeat_blocked {s : State} {p : Nat} (hs : s.inService = true) (hl : s.dev.linkOk = true) (hp : p < 8) (ha : s.dev.partActive p = true)
    (hst : s.dev.fld (.hifCqStatus p (s.dev.fld (.hifPartCtrl p) Fd.hifPartCtrlHbCq)) Fd.hifCqStatusState ≠ 1) :
    ∃ t : State, exec (.heartbeat p) s = .next t ∧ t.pending = s.pending ∧
      t.dev.flag (.hifPartStatus p) Fd.hifPartStatusHbBlocked = true ∧ t.dev.cqs = s.dev.cqs ∧ t.dev.mem = s.dev.mem := by
  have hrow := Device.heartbeat_withheld (d := s.quiet.dev) ha hl hst
  by_cases hb : s.dev.flag (.hifPartStatus p) Fd.hifPartStatusHbBlocked = true
  · exact ⟨_, run_row hs (exec_heartbeat p s) (hrow.trans (if_pos hb)) rfl, rfl, hb, rfl, rfl⟩
  · refine ⟨_, run_row hs (exec_heartbeat p s) (hrow.trans (if_neg hb))
      ((Device.logPart_flowDone _ _ _ _ _ _).trans (Device.setFld_flowDone _ _ _ _)), rfl, ?_,
      (Device.logPart_cqs _ _ _ _ _ _).trans (Device.setFld_cqs _ _ _ _), (Device.logPart_mem _ _ _ _ _ _).trans (Device.setFld_mem _ _ _ _)⟩
    rw [Device.flag, (Device.logSame_logPart _ _ _ _ _ _).status p _ (by decide) (by decide),
      Device.fld_setFld_self _ _ _ _ (by simpa [Reg.inRange] using hp) (by decide) (by decide)]
    rfl

/-- Settles O25, row by row. -/
theorem hostPortServes : Obligations.HostPortServes := by
  refine ⟨fun s hs => ⟨fun fn => ?_, fun n hn => ?_, fun fn hot => ?_, fun on => ?_, fun fn vec masked hfn hv => ?_, fun rate width flit hr hw => ?_,
    fun time hon => ?_⟩, fun s p c hs hl hp hc => ⟨fun cells he => ?_, fun cells he hlog => ?_, fun hst hlog => ?_, fun he harm hu => ?_,
    fun ha hhb hst => ?_, fun ha hst => ?_⟩⟩
  · exact configRequest_row hs rfl rfl
  · exact configRequest_row hs (if_pos ⟨rfl, hn⟩) rfl
  · exact configRequest_row hs rfl rfl
  · exact configRequest_row hs rfl rfl
  · exact maskVector_row masked hs hfn hv
  · exact pcieLinkTrained_row flit hs hr hw
  · exact live_row hs (exec_ptmExchange time s) (if_pos hon) rfl
  · exact fun hw => headWordRead_accepted hs hl he hw
  · exact fun hw => headWordRead_ignored hs hl he hlog hw
  · exact cqFullTimeout_row hs hp hc hst hlog
  · exact coalesceTimeout_row hs hl he harm hu
  · exact heartbeat_row hs hl ha hhb hst
  · exact heartbeat_blocked hs hl hp ha hst

end Sys2Proof.Machine
end

section
/-! PROOF. Submission rings: what a PRODUCER read, a run's read that fails, and the status word change. -/

namespace Sys2Proof.Machine

theorem exec_producerPoll (p line : Nat) (cells : List Host.Cell) (s : State) :
    exec (.producerPoll p line cells) s = run (fun d => (d.hostStores cells).pollLine p line) s := rfl
theorem exec_descriptorFetch (p q status : Nat) (cells : List Host.Cell) (s : State) :
    exec (.descriptorFetch p q status cells) s = run (fun d => (d.hostStores cells).fetchRun p q status) s := rfl
theorem exec_ringIdleTimeout (p q : Nat) (s : State) : exec (.ringIdleTimeout p q) s = run (·.idleTimeout p q) s := rfl
theorem exec_sleepCheckComplete (p q : Nat) (cells : List Host.Cell) (s : State) :
    exec (.sleepCheckComplete p q cells) s = run (fun d => (d.hostStores cells).sleepCheck p q) s := rfl
theorem exec_wakeDoorbell {fn off p q : Nat} (cells : List Host.Cell) (s : State) (h : bar2Ring fn off = some (p, q)) :
    exec (.wakeDoorbell fn off cells) s = run (fun d => if fn ≤ d.vfs then (d.hostStores cells).wake p q else d) s := by
  change execWakeDoorbell fn off cells s = _
  rw [execWakeDoorbell, h]
theorem exec_pcieCompletionTimeout_none (p q : Nat) (s : State) :
    exec (.pcieCompletionTimeout p q none) s = run (·.fetchRun p q 0xFE) s := rfl

/-! ### The ring's own record and its status register -/

@[simp] theorem Device.sq_setSq_self (d : Device) (p q : Nat) (x : SqState) : (d.setSq p q x).sq p q = x := SMap.get_set_self _ _ _ _

theorem Device.sq_congr {d e : Device} (h : e.sqs = d.sqs) (p q : Nat) : e.sq p q = d.sq p q := by rw [Device.sq, Device.sq, h]

theorem inRange_sqStatus {p q : Nat} (hp : p < 8) (hq : q < 64) : (Reg.hifSqStatus p q).inRange = true := by simp [Reg.inRange, hp, hq]

theorem sqStatus_not_logged {p q : Nat} (_hp : p < 8) (hq : q < 64) : (Reg.hifSqStatus p q).offset ∉ logRegs.map Reg.offset := by
  refine logRegs_apart _ ?_ (fun k hk => ?_) (fun k hk => ?_)
  all_goals simp only [Reg.offset]; omega

/-- R88: STATE of a ring that has been set. -/
theorem Device.sqState_setState (d : Device) {p q : Nat} (v : Nat) (hp : p < 8) (hq : q < 64) :
    (d.setFld (.hifSqStatus p q) Fd.hifSqStatusState v).sqState p q = v % 16 :=
  d.fld_setFld_self _ Fd.hifSqStatusState v (inRange_sqStatus hp hq) (by decide) (by decide)

theorem Device.consumed_setState (d : Device) (p q v : Nat) :
    (d.setFld (.hifSqStatus p q) Fd.hifSqStatusState v).consumed p q = d.consumed p q :=
  Device.fld_setFld_apart _ _ _ (by decide)

/-- R88: a ring that stops and is logged is STOPPED, with CONSUMED as it was. -/
theorem Device.sqState_stopped (d : Device) {p q : Nat} (code cls : Nat) (body : List Word) (hp : p < 8) (hq : q < 64) :
    ((d.ringStop p q).logPart p code cls body).sqState p q = 3 :=
  (Device.fld_logPart _ _ _ _ _ _ _ _ (sqStatus_not_logged hp hq)).trans (d.sqState_setState 3 hp hq)

theorem Device.consumed_stopped (d : Device) {p q : Nat} (code cls : Nat) (body : List Word) (hp : p < 8) (hq : q < 64) :
    ((d.ringStop p q).logPart p code cls body).consumed p q = d.consumed p q :=
  (Device.fld_logPart _ _ _ _ _ _ _ _ (sqStatus_not_logged hp hq)).trans (d.consumed_setState p q 3)

/-- What a ring that stops leaves alone. -/
theorem Device.stopped_frame (d : Device) (p q code cls : Nat) (body : List Word) :
    ((d.ringStop p q).logPart p code cls body).sqs = d.sqs ∧ ((d.ringStop p q).logPart p code cls body).mem = d.mem ∧
    ((d.ringStop p q).logPart p code cls body).queues = d.queues ∧ ((d.ringStop p q).logPart p code cls body).flowDone = d.flowDone :=
  ⟨(Device.logPart_sqs _ _ _ _ _ _).trans (Device.setFld_sqs _ _ _ _), (Device.logPart_mem _ _ _ _ _ _).trans (Device.setFld_mem _ _ _ _),
    (Device.logPart_queues _ _ _ _ _ _).trans (Device.setFld_queues _ _ _ _),
    (Device.logPart_flowDone _ _ _ _ _ _).trans (Device.setFld_flowDone _ _ _ _)⟩

/-! ### Producer words -/

/-- R83: a PRODUCER within the ring's size is kept. -/
theorem Device.seeProducer_within {d : Device} {p q : Nat}
    (h : (d.producer p q + 4294967296 - d.consumed p q) % 4294967296 ≤ 2 ^ d.fld (.hifSqCfg p q) Fd.hifSqCfgSizeLog2) :
    d.seeProducer p q = d.setSq p q { d.sq p q with seen := d.producer p q } :=
  if_neg (by simpa only [Nat.reducePow, Nat.not_lt] using h)

/-- R83: a PRODUCER beyond the ring's size stops the ring. -/
theorem Device.seeProducer_beyond {d : Device} {p q : Nat}
    (h : 2 ^ d.fld (.hifSqCfg p q) Fd.hifSqCfgSizeLog2 < (d.producer p q + 4294967296 - d.consumed p q) % 4294967296) :
    d.seeProducer p q = (d.ringStop p q).logPart p 0x0402 3 (hostBody q (d.consumed p q) 0 (d.producer p q)) :=
  if_pos (by simpa only [Nat.reducePow] using h)

/-- R84: the read of a line of which one ring is awake. -/
theorem Device.pollLine_one {d : Device} {p q line : Nat}
    (h : ((List.range 8).map fun i => 8 * line + i).filter (fun r => d.sqState p r == 1) = [q]) (hl : line < 8) (hs : d.served p = true) :
    d.pollLine p line = (d.seeProducer p q).emit (.hostRead (d.wordPage p + 64 * line) 64) := by
  unfold Device.pollLine
  rw [h, if_neg (by simp [hs]; omega), List.foldl_cons, List.foldl_nil]

theorem Device.pollLine_within {d : Device} {p q line : Nat}
    (h : ((List.range 8).map fun i => 8 * line + i).filter (fun r => d.sqState p r == 1) = [q]) (hl : line < 8) (hs : d.served p = true)
    (hw : (d.producer p q + 4294967296 - d.consumed p q) % 4294967296 ≤ 2 ^ d.fld (.hifSqCfg p q) Fd.hifSqCfgSizeLog2) :
    d.pollLine p line = (d.setSq p q { d.sq p q with seen := d.producer p q }).emit (.hostRead (d.wordPage p + 64 * line) 64) := by
  rw [Device.pollLine_one h hl hs, Device.seeProducer_within hw]

theorem Device.pollLine_beyond {d : Device} {p q line : Nat} (hp : p < 8) (hq : q < 64)
    (h : ((List.range 8).map fun i => 8 * line + i).filter (fun r => d.sqState p r == 1) = [q]) (hl : line < 8) (hs : d.served p = true)
    (hw : 2 ^ d.fld (.hifSqCfg p q) Fd.hifSqCfgSizeLog2 < (d.producer p q + 4294967296 - d.consumed p q) % 4294967296) :
    ∃ e : Device, d.pollLine p line = e ∧ e.sqState p q = 3 ∧ e.sqs = d.sqs ∧ e.mem = d.mem ∧ e.flowDone = d.flowDone := by
  obtain ⟨hsqs, hmem, -, hflow⟩ := d.stopped_frame p q 0x0402 3 (hostBody q (d.consumed p q) 0 (d.producer p q))
  have hst := d.sqState_stopped 0x0402 3 (hostBody q (d.consumed p q) 0 (d.producer p q)) hp hq
  rw [Device.pollLine_one h hl hs, Device.seeProducer_beyond hw]
  generalize (d.ringStop p q).logPart p 0x0402 3 (hostBody q (d.consumed p q) 0 (d.producer p q)) = e at hsqs hmem hflow hst ⊢
  exact ⟨_, rfl, hst, hsqs, hmem, hflow⟩

theorem producerPoll_within {s : State} {p q line : Nat} {cells : List Host.Cell} (hs : s.inService = true)
    (h : ((List.range 8).map fun i => 8 * line + i).filter (fun r => s.dev.sqState p r == 1) = [q]) (hl : line < 8) (hv : s.dev.served p = true) :
    let e := s.quiet.dev.hostStores cells
    (e.producer p q + 4294967296 - e.consumed p q) % 4294967296 ≤ 2 ^ e.fld (.hifSqCfg p q) Fd.hifSqCfgSizeLog2 →
    exec (.producerPoll p line cells) s = .next (s.after fun _ =>
      (e.setSq p q { e.sq p q with seen := e.producer p q }).emit (.hostRead (e.wordPage p + 64 * line) 64)) :=
  fun hw =>
    have hrow := Device.pollLine_within (d := s.quiet.dev.hostStores cells) h hl hv hw
    run_row hs (exec_producerPoll p line cells s) hrow rfl

theorem producerPoll_beyond {s : State} {p q line : Nat} {cells : List Host.Cell} (hs : s.inService = true) (hp : p < 8) (hq : q < 64)
    (h : ((List.range 8).map fun i => 8 * line + i).filter (fun r => s.dev.sqState p r == 1) = [q]) (hl : line < 8) (hv : s.dev.served p = true) :
    let e := s.quiet.dev.hostStores cells
    2 ^ e.fld (.hifSqCfg p q) Fd.hifSqCfgSizeLog2 < (e.producer p q + 4294967296 - e.consumed p q) % 4294967296 →
    ∃ t : State, exec (.producerPoll p line cells) s = .next t ∧ t.pending = s.pending ∧ t.dev.sqState p q = 3 ∧
      t.dev.sqs = s.dev.sqs ∧ t.dev.mem = s.dev.mem := by
  intro e hw
  obtain ⟨f, hrow, hst, hsqs, hmem, hflow⟩ := Device.pollLine_beyond (d := s.quiet.dev.hostStores cells) hp hq h hl hv hw
  exact ⟨_, run_row hs (exec_producerPoll p line cells s) hrow hflow, rfl, hst, hsqs, hmem⟩

/-! ### Runs -/

/-- R84, R85: a run arrives. -/
theorem Device.fetchRun_arrives {d : Device} {p q : Nat} (h1 : d.sqState p q = 1) (hv : d.served p = true) (hc : d.ctxState p ≠ 5)
    (hk : (d.sq p q).checking = false) (hn : d.runLength p q ≠ 0) :
    d.fetchRun p q 0 = (Device.fetchMany p q (d.runLength p q) d).writeStatusWord p q false := by
  unfold Device.fetchRun
  rw [if_neg (by simp [h1, hv, hc, hk, hn])]
  exact if_neg (by simp)

/-- R95: a run's read that fails stops the ring. -/
theorem Device.fetchRun_fails {d : Device} {p q status : Nat} (hp : p < 8) (hq : q < 64) (hst : status ≠ 0) (h1 : d.sqState p q = 1)
    (hv : d.served p = true) (hc : d.ctxState p ≠ 5) (hk : (d.sq p q).checking = false) (hn : d.runLength p q ≠ 0) : ∃ e : Device,
    d.fetchRun p q status = e ∧ e.sqState p q = 3 ∧ e.queues = d.queues ∧ e.consumed p q = d.consumed p q ∧ e.mem = d.mem ∧
      e.flowDone = d.flowDone := by
  refine ⟨_, rfl, ?_⟩
  unfold Device.fetchRun
  rw [if_neg (by simp [h1, hv, hc, hk, hn]), if_pos hst]
  obtain ⟨-, hmem, hqueues, hflow⟩ := d.stopped_frame p q 0x0401 3 (hostBody q (d.consumed p q)
    (d.fld (.hifSqBase p q) Fd.hifSqBaseAddr * 4096 + 64 * (d.consumed p q % 2 ^ d.fld (.hifSqCfg p q) Fd.hifSqCfgSizeLog2)) status)
  exact ⟨d.sqState_stopped _ _ _ hp hq, hqueues, d.consumed_stopped _ _ _ hp hq, hmem, hflow⟩

theorem descriptorFetch_run {s : State} {p q : Nat} (cells : List Host.Cell) (hs : s.inService = true) (h1 : s.dev.sqState p q = 1)
    (hv : s.dev.served p = true) (hc : s.dev.ctxState p ≠ 5) (hk : (s.dev.sq p q).checking = false) (hn : s.dev.runLength p q ≠ 0) :
    exec (.descriptorFetch p q 0 cells) s = .next { s with
      dev := ((Device.fetchMany p q (s.dev.runLength p q) (s.quiet.dev.hostStores cells)).writeStatusWord p q false).settleFlows } := by
  obtain ⟨hawake, -, hready⟩ := State.inService_parts hs
  have hrow : (s.quiet.dev.hostStores cells).fetchRun p q 0 =
    (Device.fetchMany p q (s.dev.runLength p q) (s.quiet.dev.hostStores cells)).writeStatusWord p q false := Device.fetchRun_arrives h1 hv hc hk hn
  rw [exec_descriptorFetch, run_ready _ s hawake hready]
  exact congrArg (fun x : Device => (.next { s with dev := x.settleFlows } : Result)) hrow

theorem descriptorFetch_fails {s : State} {p q status : Nat} (cells : List Host.Cell) (hs : s.inService = true) (hp : p < 8) (hq : q < 64)
    (hst : status ≠ 0) (h1 : s.dev.sqState p q = 1) (hv : s.dev.served p = true) (hc : s.dev.ctxState p ≠ 5)
    (hk : (s.dev.sq p q).checking = false) (hn : s.dev.runLength p q ≠ 0) : ∃ t : State,
    exec (.descriptorFetch p q status cells) s = .next t ∧ t.pending = s.pending ∧
      t.dev.sqState p q = 3 ∧ t.dev.queues = s.dev.queues ∧ t.dev.consumed p q = s.dev.consumed p q ∧ t.dev.mem = s.dev.mem := by
  obtain ⟨e, hrow, hstop, hqueues, hcon, hmem, hflow⟩ := Device.fetchRun_fails (d := s.quiet.dev.hostStores cells) hp hq hst h1 hv hc hk hn
  exact ⟨_, run_row hs (exec_descriptorFetch p q status cells s) hrow hflow, rfl, hstop, hqueues, hcon, hmem⟩

theorem pcieCompletionTimeout_fetch {s : State} {p q : Nat} (hs : s.inService = true) (hp : p < 8) (hq : q < 64)
    (h1 : s.dev.sqState p q = 1) (hv : s.dev.served p = true) (hc : s.dev.ctxState p ≠ 5)
    (hk : (s.dev.sq p q).checking = false) (hn : s.dev.runLength p q ≠ 0) : ∃ t : State,
    exec (.pcieCompletionTimeout p q none) s = .next t ∧ t.pending = s.pending ∧
      t.dev.sqState p q = 3 ∧ t.dev.queues = s.dev.queues ∧ t.dev.mem = s.dev.mem := by
  obtain ⟨e, hrow, hstop, hqueues, -, hmem, hflow⟩ := Device.fetchRun_fails (d := s.quiet.dev) (status := 0xFE) hp hq (by decide) h1 hv hc hk hn
  exact ⟨_, run_row hs (exec_pcieCompletionTimeout_none p q s) hrow hflow, rfl, hstop, hqueues, hmem⟩

/-! ### Sleep and wake -/

theorem ringIdleTimeout_row {s : State} {p q : Nat} (hs : s.inService = true) (h1 : s.dev.sqState p q = 1) (hv : s.dev.served p = true)
    (hk : (s.dev.sq p q).checking = false) : exec (.ringIdleTimeout p q) s = .next (s.after fun d =>
      ((d.writeStatusWord p q true).setSq p q { d.sq p q with checking := true }).emit (.hostRead (d.wordPage p + 8 * q) 8)) :=
  run_row hs (exec_ringIdleTimeout p q s) (if_pos ⟨h1, hv, hk⟩) rfl

/-- R85: the look at PRODUCER of a ring that goes to sleep. -/
theorem Device.sleepCheck_looks {d : Device} {p q : Nat} (h1 : d.sqState p q = 1) (hl : d.linkOk = true) (hk : (d.sq p q).checking = true) :
    d.sleepCheck p q =
      let e := d.setSq p q { d.sq p q with checking := false }
      if d.producer p q = d.consumed p q then e.setFld (.hifSqStatus p q) Fd.hifSqStatusState 2
      else (e.writeStatusWord p q false).seeProducer p q := if_pos ⟨h1, hl, hk⟩

theorem sleepCheckComplete_sleeps {s : State} {p q : Nat} (cells : List Host.Cell) (hs : s.inService = true) (h1 : s.dev.sqState p q = 1)
    (hl : s.dev.linkOk = true) (hk : (s.dev.sq p q).checking = true)
    (hw : (s.quiet.dev.hostStores cells).producer p q = s.dev.consumed p q) :
    exec (.sleepCheckComplete p q cells) s = .next (s.after fun d =>
      ((d.hostStores cells).setSq p q { d.sq p q with checking := false }).setFld (.hifSqStatus p q) Fd.hifSqStatusState 2) :=
  run_row hs (exec_sleepCheckComplete p q cells s)
    ((Device.sleepCheck_looks (d := s.quiet.dev.hostStores cells) h1 hl hk).trans (if_pos hw)) (Device.setFld_flowDone _ _ _ _)

/-- A word of host memory that a write does not reach. -/
theorem Device.hostWord_hostWrite_apart (d : Device) {a off : Nat} {bs : List Byte} (h : a + 8 ≤ off ∨ off + bs.length ≤ a) :
    (d.hostWrite off bs).hostWord a = d.hostWord a := by
  have hbytes : (d.hostWrite off bs).hostBytes a 8 = d.hostBytes a 8 := by
    unfold Device.hostBytes SMap.getList
    refine List.map_congr_left fun i hi => ?_
    have := List.mem_range.1 hi
    exact (d.get_hostWrite off (a + i) bs).trans (if_neg (by omega))
  rw [Device.hostWord, Device.hostWord, hbytes]

/-- R82: the status words lie apart from the producer words. -/
theorem Device.producer_writeStatusWord (d : Device) {p q : Nat} (sleep : Bool) (_hq : q < 64) :
    (d.writeStatusWord p q sleep).producer p q = d.producer p q :=
  congrArg (fieldOf · 31 0) (d.hostWord_hostWrite_apart (a := d.wordPage p + 8 * q) (Or.inl (by omega)))

theorem Device.seeProducer_shown {d : Device} {p q : Nat} (sleep : Bool) (hq : q < 64)
    (hw : (d.producer p q + 4294967296 - d.consumed p q) % 4294967296 ≤ 2 ^ d.fld (.hifSqCfg p q) Fd.hifSqCfgSizeLog2) :
    (d.writeStatusWord p q sleep).seeProducer p q =
      (d.writeStatusWord p q sleep).setSq p q { d.sq p q with seen := d.producer p q } := by
  have hprod := d.producer_writeStatusWord sleep hq (p := p)
  rw [Device.seeProducer_within (by rw [hprod]; exact hw), hprod]
  rfl

theorem Device.sleepCheck_stays {d : Device} {p q : Nat} (hq : q < 64) (h1 : d.sqState p q = 1) (hl : d.linkOk = true)
    (hk : (d.sq p q).checking = true) (hne : d.producer p q ≠ d.consumed p q)
    (hw : (d.producer p q + 4294967296 - d.consumed p q) % 4294967296 ≤ 2 ^ d.fld (.hifSqCfg p q) Fd.hifSqCfgSizeLog2) :
    ∃ e : Device, d.sleepCheck p q = e ∧ e.regs = d.regs ∧ e.sq p q = { d.sq p q with checking := false, seen := d.producer p q } ∧
      e.queues = d.queues ∧ e.mem = d.mem ∧ e.flowDone = d.flowDone := by
  have hsee : d.sleepCheck p q = _ := ((Device.sleepCheck_looks h1 hl hk).trans (if_neg hne)).trans
    (Device.seeProducer_shown (d := d.setSq p q { d.sq p q with checking := false }) false hq hw)
  refine ⟨_, hsee, rfl, ?_, rfl, rfl, rfl⟩
  rw [Device.sq_setSq_self, Device.sq_setSq_self]
  rfl

theorem sleepCheckComplete_stays {s : State} {p q : Nat} (cells : List Host.Cell) (hs : s.inService = true) (hq : q < 64)
    (h1 : s.dev.sqState p q = 1) (hl : s.dev.linkOk = true) (hk : (s.dev.sq p q).checking = true) :
    let e := s.quiet.dev.hostStores cells
    e.producer p q ≠ s.dev.consumed p q →
    (e.producer p q + 4294967296 - e.consumed p q) % 4294967296 ≤ 2 ^ e.fld (.hifSqCfg p q) Fd.hifSqCfgSizeLog2 → ∃ t : State,
    exec (.sleepCheckComplete p q cells) s = .next t ∧ t.pending = s.pending ∧ t.dev.regs = s.dev.regs ∧
      t.dev.sq p q = { s.dev.sq p q with checking := false, seen := e.producer p q } ∧ t.dev.queues = s.dev.queues ∧
      t.dev.mem = s.dev.mem := by
  intro e hne hw
  obtain ⟨f, hrow, hregs, hsq, hqueues, hmem, hflow⟩ := Device.sleepCheck_stays (d := s.quiet.dev.hostStores cells) hq h1 hl hk hne hw
  exact ⟨_, run_row hs (exec_sleepCheckComplete p q cells s) hrow hflow, rfl, hregs, hsq, hqueues, hmem⟩

/-- R87: the ring that a wake write wakes, before its producer word is read. -/
def Device.woken (d : Device) (p q : Nat) : Device := (d.setFld (.hifSqStatus p q) Fd.hifSqStatusState 1).writeStatusWord p q false

theorem Device.wake_sleeping {d : Device} {p q : Nat} (hl : d.linkOk = true) (h2 : d.sqState p q = 2) :
    d.wake p q = if (d.woken p q).served p then (d.woken p q).seeProducer p q else d.woken p q := by
  unfold Device.wake
  rw [if_neg (by simp [hl]), if_pos h2]
  rfl

theorem Device.wake_awake {d : Device} {p q : Nat} (hl : d.linkOk = true) (h2 : d.sqState p q ≠ 2) :
    d.wake p q = d.bump (.hifPartStatus p) Fd.hifPartStatusWakeIgnored := by
  unfold Device.wake
  rw [if_neg (by simp [hl]), if_neg h2]

end Sys2Proof.Machine
end

section
/-! PROOF. Wake writes. -/

namespace Sys2Proof.Machine

theorem Device.hostWord_congr {d e : Device} (h : e.hostMem = d.hostMem) (a : Nat) : e.hostWord a = d.hostWord a := by
  rw [Device.hostWord, Device.hostWord, Device.hostBytes, Device.hostBytes, h]

/-- What a change of STATE of a submission ring leaves alone. -/
theorem Device.setState_frame (d : Device) {p q : Nat} (v : Nat) (_hp : p < 8) (hq : q < 64) :
    (d.setFld (.hifSqStatus p q) Fd.hifSqStatusState v).producer p q = d.producer p q ∧
    (d.setFld (.hifSqStatus p q) Fd.hifSqStatusState v).served p = d.served p ∧
    (d.setFld (.hifSqStatus p q) Fd.hifSqStatusState v).fld (.hifSqCfg p q) Fd.hifSqCfgSizeLog2 = d.fld (.hifSqCfg p q) Fd.hifSqCfgSizeLog2 := by
  refine ⟨?_, ?_, ?_⟩
  · rw [Device.producer, Device.producer, Device.hostWord_congr (Device.setFld_hostMem _ _ _ _), Device.wordPage, Device.wordPage,
      Device.fld_setFld_ne _ _ _ _ _ _ (by simp only [Reg.offset]; omega)]
  · rw [Device.served, Device.served, Device.ownerOf, Device.ownerOf, Device.flag, Device.flag,
      Device.fld_setFld_ne _ _ _ _ _ _ (by simp only [Reg.offset]; omega), Device.linkOk, Device.linkOk, Device.setFld_link, Device.setFld_d3]
  · exact Device.fld_setFld_ne _ _ _ _ _ _ (by simp only [Reg.offset]; omega)

theorem Device.wake_wakes {d : Device} {p q : Nat} (hp : p < 8) (hq : q < 64) (hl : d.linkOk = true) (h2 : d.sqState p q = 2)
    (hw : (d.producer p q + 4294967296 - d.consumed p q) % 4294967296 ≤ 2 ^ d.fld (.hifSqCfg p q) Fd.hifSqCfgSizeLog2) :
    ∃ e : Device, d.wake p q = e ∧ e.sqState p q = 1 ∧ e.consumed p q = d.consumed p q ∧
      (d.served p = true → e.sq p q = { d.sq p q with seen := d.producer p q }) ∧ e.queues = d.queues ∧ e.mem = d.mem ∧
      e.flowDone = d.flowDone := by
  have hst := d.sqState_setState 1 hp hq
  have hcon := d.consumed_setState p q 1
  obtain ⟨hprod, hserved, hsize⟩ := d.setState_frame 1 hp hq
  have hqueues := Device.setFld_queues d (.hifSqStatus p q) Fd.hifSqStatusState 1
  have hmem := Device.setFld_mem d (.hifSqStatus p q) Fd.hifSqStatusState 1
  have hflow := Device.setFld_flowDone d (.hifSqStatus p q) Fd.hifSqStatusState 1
  have hsq : (d.setFld (.hifSqStatus p q) Fd.hifSqStatusState 1).sq p q = d.sq p q := Device.sq_congr (Device.setFld_sqs _ _ _ _) p q
  have hwake := Device.wake_sleeping hl h2
  unfold Device.woken at hwake
  generalize d.setFld (.hifSqStatus p q) Fd.hifSqStatusState 1 = e at hst hcon hprod hserved hsize hqueues hmem hflow hsq hwake
  have hsee := Device.seeProducer_shown (d := e) false hq (by rw [hprod, hcon, hsize]; exact hw)
  rw [hsee] at hwake
  have hserves : (e.writeStatusWord p q false).served p = d.served p := hserved
  rw [hserves] at hwake
  cases hd : d.served p with
  | false =>
    rw [hd, if_neg Bool.false_ne_true] at hwake
    exact ⟨_, hwake, hst, hcon, nofun, hqueues, hmem, hflow⟩
  | true =>
    rw [hd, if_pos rfl] at hwake
    refine ⟨_, hwake, hst, hcon, fun _ => ?_, hqueues, hmem, hflow⟩
    rw [Device.sq_setSq_self, hsq, hprod]

theorem wakeDoorbell_wakes {s : State} {fn off p q : Nat} (cells : List Host.Cell) (hs : s.inService = true) (hp : p < 8) (hq : q < 64)
    (hb : bar2Ring fn off = some (p, q)) (hfn : fn ≤ s.dev.vfs) (hl : s.dev.linkOk = true) (h2 : s.dev.sqState p q = 2) :
    let e := s.quiet.dev.hostStores cells
    (e.producer p q + 4294967296 - e.consumed p q) % 4294967296 ≤ 2 ^ e.fld (.hifSqCfg p q) Fd.hifSqCfgSizeLog2 → ∃ t : State,
    exec (.wakeDoorbell fn off cells) s = .next t ∧ t.pending = s.pending ∧ t.dev.sqState p q = 1 ∧ t.dev.consumed p q = s.dev.consumed p q ∧
      (s.dev.served p = true → t.dev.sq p q = { s.dev.sq p q with seen := e.producer p q }) ∧ t.dev.queues = s.dev.queues ∧
      t.dev.mem = s.dev.mem := by
  intro e hw
  obtain ⟨f, hrow, hst, hcon, hsq, hqueues, hmem, hflow⟩ := Device.wake_wakes (d := s.quiet.dev.hostStores cells) hp hq hl h2 hw
  exact ⟨_, run_row hs (exec_wakeDoorbell cells s hb) ((if_pos hfn).trans hrow) hflow, rfl, hst, hcon, hsq, hqueues, hmem⟩

theorem wakeDoorbell_ignored {s : State} {fn off p q : Nat} (cells : List Host.Cell) (hs : s.inService = true)
    (hb : bar2Ring fn off = some (p, q)) (hfn : fn ≤ s.dev.vfs) (hl : s.dev.linkOk = true) (h2 : s.dev.sqState p q ≠ 2) :
    exec (.wakeDoorbell fn off cells) s = .next (s.after fun d =>
      (d.hostStores cells).bump (.hifPartStatus p) Fd.hifPartStatusWakeIgnored) :=
  have hrow := Device.wake_awake (d := s.quiet.dev.hostStores cells) hl h2
  run_row hs (exec_wakeDoorbell cells s hb) ((if_pos hfn).trans hrow) (Device.setFld_flowDone _ _ _ _)

end Sys2Proof.Machine
end

section
/-! PROOF. What decode reads, and the fetch of one descriptor. -/

namespace Sys2Proof.Machine

/-! ### What decode reads -/

/-- e has what decode of a command of partition p reads in d. -/
structure Device.SameDecode (d e : Device) (p : Nat) : Prop where
  layout : e.layout = d.layout
  parts : e.parts = d.parts
  enabled : e.enabled = d.enabled
  syncs : e.reg (.synPartCfg p) = d.reg (.synPartCfg p)
  owner : e.reg (.hifPartCtrl p) = d.reg (.hifPartCtrl p)
  features : ∀ i, e.reg (.plcFeatureTab i) = d.reg (.plcFeatureTab i)
  feature : e.reg .plcFeature = d.reg .plcFeature

namespace Device.SameDecode

variable {d e : Device} {p : Nat}

theorem of_regs {rs : List Reg} (layout : e.layout = d.layout) (parts : e.parts = d.parts) (enabled : e.enabled = d.enabled)
    (h : d.sameRegs e rs) (hsync : (Reg.synPartCfg p).offset ∉ rs.map Reg.offset) (howner : (Reg.hifPartCtrl p).offset ∉ rs.map Reg.offset)
    (htab : ∀ i, i < 64 → (Reg.plcFeatureTab i).offset ∉ rs.map Reg.offset) (hfeature : Reg.plcFeature.offset ∉ rs.map Reg.offset) :
    d.SameDecode e p where
  layout := layout
  parts := parts
  enabled := enabled
  syncs := h _ hsync
  owner := h _ howner
  features i := by
    by_cases hi : i < 64
    · exact h _ (htab i hi)
    · simp [Device.reg, Reg.inRange, hi]
  feature := h _ hfeature

theorem partClusters_eq (h : d.SameDecode e p) : e.partClusters p = d.partClusters p := by rw [Device.partClusters, Device.partClusters, h.layout]

theorem targetOk_eq (h : d.SameDecode e p) (x : Desc) : e.targetOk p x = d.targetOk p x := by
  rw [Device.targetOk, Device.targetOk, h.partClusters_eq]

theorem syncOf_eq (h : d.SameDecode e p) (r : Nat) : e.syncOf p r = d.syncOf p r := by
  have hf (f : RegField) : e.fld (.synPartCfg p) f = d.fld (.synPartCfg p) f := congrArg (fieldOf · f.hi f.lo) h.syncs
  rw [Device.syncOf, Device.syncOf, hf, hf]

theorem part_eq (h : d.SameDecode e p) : e.part p = d.part p := by rw [Device.part, Device.part, h.parts]

theorem gatherFault_eq (h : d.SameDecode e p) (x : Desc) : e.gatherFault p x = d.gatherFault p x := by
  have hn : e.ringNarrow p x = d.ringNarrow p x := by simp only [Device.ringNarrow, Device.table, h.part_eq]
  simp only [Device.gatherFault, hn]

theorem operandFault_eq (h : d.SameDecode e p) (x : Desc) : e.operandFault p x = d.operandFault p x := by
  have ho : e.ownerOf p = d.ownerOf p := by rw [Device.ownerOf, Device.ownerOf, Device.flag, Device.flag, Device.fld, Device.fld, h.owner]
  have hd : e.partDies p = d.partDies p := by simp only [Device.partDies, h.partClusters_eq]
  rw [Device.operandFault, Device.operandFault, ho, hd, h.gatherFault_eq]

theorem levelOf_eq (h : d.SameDecode e p) : e.levelOf p = d.levelOf p := by
  simp only [Device.levelOf, h.part_eq, h.enabled, Device.fld, h.feature]

theorem levelNeeded_eq (h : d.SameDecode e p) (x : Desc) : e.levelNeeded x = d.levelNeeded x := by
  have hm : e.featureMatch x = d.featureMatch x := funext fun i => by simp only [Device.featureMatch, Device.fld, h.features]
  simp only [Device.levelNeeded, hm, Device.fld, h.features, h.feature]

theorem decodeFault_eq (h : d.SameDecode e p) (x : Desc) : e.decodeFault p x = d.decodeFault p x := by
  have hs : (fun r => (e.syncOf p r).isNone) = fun r => (d.syncOf p r).isNone := funext fun r => by rw [h.syncOf_eq]
  rw [Device.decodeFault, Device.decodeFault, h.targetOk_eq, hs, h.operandFault_eq, h.levelOf_eq, h.levelNeeded_eq]

end Device.SameDecode

/-! ### One descriptor -/

theorem Device.consumed_setConsumed (d : Device) {p q : Nat} (v : Nat) (hp : p < 8) (hq : q < 64) :
    (d.setFld (.hifSqStatus p q) Fd.hifSqStatusConsumed v).consumed p q = v % 4294967296 :=
  d.fld_setFld_self _ Fd.hifSqStatusConsumed v (inRange_sqStatus hp hq) (by decide) (by decide)

/-- R84, R100: a descriptor that has arrived, before it is decoded: FETCHED, with CONSUMED past it. -/
def Device.entered (d : Device) (p q : Nat) (c : Cmd) : Device :=
  (d.setQueue p q (d.queue p q ++ [c])).setFld (.hifSqStatus p q) Fd.hifSqStatusConsumed (c.idx + 1)

theorem Device.fetchOne_legal {d : Device} {p q : Nat} {x : Desc} (hx : x = d.descAt
      (d.fld (.hifSqBase p q) Fd.hifSqBaseAddr * 4096 + 64 * (d.consumed p q % 2 ^ d.fld (.hifSqCfg p q) Fd.hifSqCfgSizeLog2)))
    (h : (d.entered p q { idx := d.consumed p q, desc := x }).decodeFault p x = none) :
    d.fetchOne p q = (d.entered p q { idx := d.consumed p q, desc := x }).advanceQueue p q := by
  subst hx
  unfold Device.fetchOne
  unfold Device.entered at h ⊢
  dsimp only at h ⊢
  rw [h]

theorem Device.sameRegs_entered (d : Device) (p q : Nat) (c : Cmd) : d.sameRegs (d.entered p q c) [.cmdQStatus p q, .hifSqStatus p q] :=
  have h : d.sameRegs (d.setQueue p q (d.queue p q ++ [c])) [.cmdQStatus p q, .hifSqStatus p q] :=
    Device.sameRegs_setFld { d with queues := SMap.set (fun _ => []) d.queues (qkey p q) (d.queue p q ++ [c]) } _ _ _ (by simp)
  h.trans (Device.sameRegs_setFld _ _ _ _ (by simp))

theorem Device.sameDecode_entered (d : Device) {p q : Nat} (c : Cmd) (_hp : p < 8) (hq : q < 64) : d.SameDecode (d.entered p q c) p := by
  refine .of_regs ((Device.setFld_layout _ _ _ _).trans (Device.setQueue_layout _ _ _ _))
    ((Device.setFld_parts _ _ _ _).trans (Device.setQueue_parts _ _ _ _))
    ((Device.setFld_enabled _ _ _ _).trans (Device.setQueue_enabled _ _ _ _)) (d.sameRegs_entered p q c) ?_ ?_ (fun i hi => ?_) ?_
  all_goals simp [Reg.offset]; omega

theorem Device.queue_entered (d : Device) (p q : Nat) (c : Cmd) : (d.entered p q c).queue p q = d.queue p q ++ [c] :=
  (Device.queue_congr (Device.setFld_queues _ _ _ _) p q).trans ((Device.queue_setQueue _ _ _ _ _ _).trans (if_pos rfl))

/-- R100: the one FETCHED command of a queue enters WAITING; it waits on no object. -/
theorem Device.advanceQueue_alone {d : Device} {p q : Nat} {c : Cmd} (h : d.queue p q = [c]) (hst : c.st = .fetched) (hw : waitOpOf c.desc = 0) :
    d.advanceQueue p q = d.setQueue p q [{ c with st := .waiting }] := by
  have hany : (d.queue p q).any (fun c => c.st == .waiting) = false := by rw [h]; simp [hst]
  have hfind : (d.queue p q).find? (fun c => c.st == .fetched) = some c := by rw [h]; simp [hst]
  have hobj (e : Device) : e.cmdWaitObj p c = none := if_pos hw
  unfold Device.advanceQueue
  dsimp only
  rw [hany, hfind]
  dsimp only
  rw [hobj, if_neg Bool.false_ne_true, Device.updCmd, h]
  simp

theorem Device.fetchOne_waits {d : Device} {p q : Nat} (hp : p < 8) (hq : q < 64) (hqueue : d.queue p q = []) (h1 : d.sqState p q = 1) :
    let x := d.descAt (d.fld (.hifSqBase p q) Fd.hifSqBaseAddr * 4096 + 64 * (d.consumed p q % 2 ^ d.fld (.hifSqCfg p q) Fd.hifSqCfgSizeLog2))
    d.decodeFault p x = none → waitOpOf x = 0 → ∃ e : Device, d.fetchOne p q = e ∧
      e.queue p q = [{ idx := d.consumed p q, desc := x, st := .waiting }] ∧
      e.consumed p q = (d.consumed p q + 1) % 4294967296 ∧ e.sqState p q = 1 ∧ e.mem = d.mem ∧ e.flowDone = d.flowDone := by
  intro x hx hw
  let c : Cmd := { idx := d.consumed p q, desc := x }
  have hentered : (d.entered p q c).queue p q = [c] := by rw [Device.queue_entered, hqueue]; rfl
  have hfetch : d.fetchOne p q = (d.entered p q c).setQueue p q [{ c with st := .waiting }] :=
    (Device.fetchOne_legal rfl (((d.sameDecode_entered c hp hq).decodeFault_eq x).trans hx)).trans
      (Device.advanceQueue_alone hentered rfl hw)
  have fld (f : RegField) : ((d.entered p q c).setQueue p q [{ c with st := .waiting }]).fld (.hifSqStatus p q) f =
      (d.entered p q c).fld (.hifSqStatus p q) f :=
    Device.fld_setFld_ne _ _ _ _ _ _ (by simp only [Reg.offset]; omega)
  have hconsumed : (d.entered p q c).consumed p q = (d.consumed p q + 1) % 4294967296 := Device.consumed_setConsumed _ _ hp hq
  have hstate : (d.entered p q c).sqState p q = d.sqState p q :=
    (Device.fld_setFld_apart _ _ _ (by decide)).trans (Device.fld_setFld_ne _ _ _ _ _ _ (by simp only [Reg.offset]; omega))
  exact ⟨_, hfetch, (Device.queue_setQueue _ _ _ _ _ _).trans (if_pos rfl), (fld _).trans hconsumed, (fld _).trans (hstate.trans h1),
    (Device.setQueue_mem _ _ _ _).trans ((Device.setFld_mem _ _ _ _).trans (Device.setQueue_mem _ _ _ _)),
    (Device.setQueue_flowDone _ _ _ _).trans ((Device.setFld_flowDone _ _ _ _).trans (Device.setQueue_flowDone _ _ _ _))⟩

theorem descriptorFetch_one {s : State} {p q : Nat} (cells : List Host.Cell) (hs : s.inService = true) (hp : p < 8) (hq : q < 64)
    (h1 : s.dev.sqState p q = 1) (hv : s.dev.served p = true) (hc : s.dev.ctxState p ≠ 5) (hk : (s.dev.sq p q).checking = false)
    (hn : s.dev.runLength p q = 1) (hqueue : s.dev.queue p q = []) :
    let e := s.quiet.dev.hostStores cells
    let x := e.descAt (e.fld (.hifSqBase p q) Fd.hifSqBaseAddr * 4096 + 64 * (e.consumed p q % 2 ^ e.fld (.hifSqCfg p q) Fd.hifSqCfgSizeLog2))
    e.decodeFault p x = none → waitOpOf x = 0 → ∃ t : State, exec (.descriptorFetch p q 0 cells) s = .next t ∧
      t.pending = s.pending ∧ t.dev.queue p q = [{ idx := s.dev.consumed p q, desc := x, st := .waiting }] ∧
      t.dev.consumed p q = (s.dev.consumed p q + 1) % 4294967296 ∧ t.dev.sqState p q = 1 ∧ t.dev.mem = s.dev.mem := by
  intro e x hx hw
  obtain ⟨f, hfetch, hqueue', hcon, hst, hmem, hflow⟩ := Device.fetchOne_waits (d := s.quiet.dev.hostStores cells) hp hq hqueue h1 hx hw
  have hrun := descriptorFetch_run cells hs h1 hv hc hk (hn ▸ Nat.one_ne_zero)
  rw [hn, Device.fetchMany, Device.fetchMany, hfetch, Device.settleFlows_nil (f.writeStatusWord p q false) (hflow.trans (State.inService_parts hs).2.1)] at hrun
  exact ⟨_, hrun, rfl, hqueue', hcon, hst, hmem⟩

end Sys2Proof.Machine
end

section
/-! PROOF. O26: a failed access parks its command, and the family's rings. -/

namespace Sys2Proof.Machine

/-- R95, R215: the time-out of a command's access to a host page. -/
def Device.accessLost (d : Device) (p q idx addr : Nat) : Device :=
  match d.cmd? p q idx with
  | none => d
  | some c =>
    if c.st = .running ∧ c.begun = true ∧ c.worked = false ∧ c.parked = none then d.park p q c c.unit 6 addr false else d

theorem exec_pcieCompletionTimeout_some (p q idx addr : Nat) (s : State) :
    exec (.pcieCompletionTimeout p q (some (idx, addr))) s = run (·.accessLost p q idx addr) s := rfl

theorem Device.accessLost_running {d : Device} {p q idx addr : Nat} {c : Cmd} (hc : d.cmd? p q idx = some c)
    (hrun : c.st = .running ∧ c.begun = true ∧ c.worked = false ∧ c.parked = none) :
    d.accessLost p q idx addr = d.park p q c c.unit 6 addr false := by
  rw [Device.accessLost, hc]
  exact if_pos hrun

/-! ### Ready-list entries returned -/

/-- e is d but for the ready lists, and what partitions hold beyond registers. -/
def Device.EntriesOnly (d e : Device) : Prop := e = { d with parts := e.parts, readyLists := e.readyLists }

theorem Device.EntriesOnly.trans {d e f : Device} (h : d.EntriesOnly e) (g : e.EntriesOnly f) : d.EntriesOnly f :=
  calc f = { e with parts := f.parts, readyLists := f.readyLists } := g
    _ = { ({ d with parts := e.parts, readyLists := e.readyLists } : Device) with parts := f.parts, readyLists := f.readyLists } :=
      congrArg (fun x : Device => { x with parts := f.parts, readyLists := f.readyLists }) h
    _ = { d with parts := f.parts, readyLists := f.readyLists } := rfl

theorem Device.EntriesOnly.foldl {β : Type} {f : Device → β → Device} (hf : ∀ (a : Device) (b : β), a.EntriesOnly (f a b)) (l : List β) (d : Device) :
    d.EntriesOnly (l.foldl f d) := by
  induction l generalizing d with
  | nil => rfl
  | cons b l ih => exact (hf d b).trans (ih _)

/-- R135, R394: the return of a command's entries changes the ready lists, and notes when its partition was busy. -/
theorem Device.entriesOnly_dropEntries (d : Device) (p q idx : Nat) : d.EntriesOnly (d.dropEntries p q idx) := by
  have hbusy : d.EntriesOnly (d.noteBusy p q idx) := by
    unfold Device.noteBusy
    split
    · rfl
    · rfl
  have hdrop (a : Device) (die : Nat) :
      a.EntriesOnly (a.setReady die ((a.readyOf die).filter fun e => !(e.part == p && e.queue == q && e.idx == idx))) := rfl
  exact hbusy.trans (.foldl hdrop _ _)

/-! ### Parking -/

/-- R217: a command with its unit parked under a handle. -/
def Cmd.parkedAt (c : Cmd) (unit handle kind addr : Nat) : Cmd :=
  { c with parked := some unit, unit := unit, handle := handle, fault := (kind, addr) }

/-- R217: the device as a command parks under a new handle, before its entries go back. -/
def Device.handed (d : Device) (p q : Nat) (c : Cmd) (unit kind addr : Nat) : Device :=
  ({ d with handles := d.handles + 1 } : Device).updCmd p q c.idx (·.parkedAt unit ((d.handles + 1) % 2 ^ 32) kind addr)

theorem Device.park_eq {d : Device} {p q : Nat} {c : Cmd} (unit kind addr : Nat) (inj : Bool) (hrun : d.stopped (d.workDie p unit) = false) :
    d.park p q c unit kind addr inj = (((d.handed p q c unit kind addr).dropEntries p q c.idx).logMem
      ((d.handed p q c unit kind addr).userOf p c unit) 0x0A01 0 kind ((d.handles + 1) % 2 ^ 32) addr 0 inj).countParked p := by
  unfold Device.park
  rw [hrun, if_neg Bool.false_ne_true]
  rfl

theorem Device.cmd_handed {d : Device} {p q : Nat} {c : Cmd} (unit kind addr : Nat) (hc : d.cmd? p q c.idx = some c) :
    (d.handed p q c unit kind addr).cmd? p q c.idx = some (c.parkedAt unit ((d.handles + 1) % 4294967296) kind addr) := by
  refine (Device.cmd_updCmd _ p q c.idx (·.parkedAt unit ((d.handles + 1) % 2 ^ 32) kind addr) fun _ h => h).trans ?_
  exact (congrArg (Option.map _) hc).trans (by simp only [Option.map_some, Nat.reducePow])

/-- R217: the end of a park leaves alone what returned entries, a log record and the count of parked commands do. -/
theorem Device.park_keeps {d : Device} {α : Type} {g : Device → α} (hg : ReadBlind g) (he : ∀ a b : Device, a.EntriesOnly b → g b = g a)
    (hf : ∀ (a : Device) p f v, g (a.setFld (.memPartStatus p) f v) = g a) {p q : Nat} {c : Cmd} (unit kind addr : Nat) (inj : Bool)
    (hrun : d.stopped (d.workDie p unit) = false) : g (d.park p q c unit kind addr inj) = g (d.handed p q c unit kind addr) := by
  rw [Device.park_eq _ _ _ _ hrun]
  exact (hf _ _ _ _).trans ((Device.logMem_keeps hg _ _ _ _ _ _ _ _ _).trans (he _ _ (Device.entriesOnly_dropEntries _ _ _ _)))

/-- R217: a command whose unit meets a translation fault parks there under a new handle. -/
theorem Device.park_parks {d : Device} {p q : Nat} {c : Cmd} (unit kind addr : Nat) (inj : Bool) (hc : d.cmd? p q c.idx = some c)
    (hrun : d.stopped (d.workDie p unit) = false) : ∃ e : Device, d.park p q c unit kind addr inj = e ∧
      e.cmd? p q c.idx = some (c.parkedAt unit ((d.handles + 1) % 4294967296) kind addr) ∧
      e.handles = d.handles + 1 ∧ e.mem = d.mem ∧ e.flowDone = d.flowDone := by
  refine ⟨_, rfl, ?_, ?_, ?_, ?_⟩
  · have hq := Device.park_keeps (d := d) (p := p) (q := q) (c := c) writeBlind_queues.toReadBlind (fun _ _ h => (congrArg Device.queues h :))
      (fun _ _ _ _ => Device.setFld_queues _ _ _ _) unit kind addr inj hrun
    exact (Device.cmd_congr hq _ _ _).trans (Device.cmd_handed _ _ _ hc)
  · exact (Device.park_keeps writeBlind_handles.toReadBlind (fun _ _ h => (congrArg Device.handles h :))
      (fun _ _ _ _ => Device.setFld_handles _ _ _ _) _ _ _ _ hrun).trans (Device.updCmd_handles _ _ _ _ _)
  · exact (Device.park_keeps readBlind_mem (fun _ _ h => (congrArg Device.mem h :))
      (fun _ _ _ _ => Device.setFld_mem _ _ _ _) _ _ _ _ hrun).trans (Device.updCmd_mem _ _ _ _ _)
  · exact (Device.park_keeps writeBlind_flowDone.toReadBlind (fun _ _ h => (congrArg Device.flowDone h :))
      (fun _ _ _ _ => Device.setFld_flowDone _ _ _ _) _ _ _ _ hrun).trans (Device.updCmd_flowDone _ _ _ _ _)

theorem pcieCompletionTimeout_parks {s : State} {p q idx addr : Nat} {c : Cmd} (hs : s.inService = true) (hc : s.dev.cmd? p q idx = some c)
    (hst : c.st = .running) (hb : c.begun = true) (hw : c.worked = false) (hp : c.parked = none)
    (hrun : s.dev.stopped (s.dev.workDie p c.unit) = false) : ∃ t : State,
    exec (.pcieCompletionTimeout p q (some (idx, addr))) s = .next t ∧ t.pending = s.pending ∧
      t.dev.cmd? p q idx = some { c with parked := some c.unit, handle := (s.dev.handles + 1) % 4294967296, fault := (6, addr) } ∧
      t.dev.handles = s.dev.handles + 1 ∧ t.dev.mem = s.dev.mem := by
  obtain rfl := Device.cmd_idx hc
  obtain ⟨e, hpark, hcmd, hhandles, hmem, hflow⟩ := Device.park_parks (d := s.quiet.dev) c.unit 6 addr false hc hrun
  exact ⟨_, run_row hs (exec_pcieCompletionTimeout_some p q c.idx addr s)
    ((Device.accessLost_running (d := s.quiet.dev) hc ⟨hst, hb, hw, hp⟩).trans hpark) hflow, rfl, hcmd, hhandles, hmem⟩

/-- Settles O26, row by row. -/
theorem ringsFetchAndSleep : Obligations.RingsFetchAndSleep := by
  refine fun s p q hs hp hq => ⟨fun line cells h hl hv => ⟨?_, ?_⟩, fun cells h1 hv hc hk hn => ?_, fun cells h1 hv hc hk hn hqueue => ?_,
    fun status cells hst h1 hv hc hk hn => ?_, fun h1 hv hk => ?_, fun cells h1 hl hk hw => ?_, fun cells h1 hl hk => ?_,
    fun fn off cells hb hfn hl => ⟨fun h2 => ?_, fun h2 => ?_⟩, fun h1 hv hc hk hn => ?_, fun idx addr c hc hst hb hw hpark hrun => ?_⟩
  · exact producerPoll_within hs h hl hv
  · exact producerPoll_beyond hs hp hq h hl hv
  · exact descriptorFetch_run cells hs h1 hv hc hk hn
  · exact descriptorFetch_one cells hs hp hq h1 hv hc hk hn hqueue
  · exact descriptorFetch_fails cells hs hp hq hst h1 hv hc hk hn
  · exact ringIdleTimeout_row hs h1 hv hk
  · exact sleepCheckComplete_sleeps cells hs h1 hl hk hw
  · exact sleepCheckComplete_stays cells hs hq h1 hl hk
  · exact wakeDoorbell_wakes cells hs hp hq hb hfn hl h2
  · exact wakeDoorbell_ignored cells hs hb hfn hl h2
  · exact pcieCompletionTimeout_fetch hs hp hq h1 hv hc hk hn
  · exact pcieCompletionTimeout_parks hs hc hst hb hw hpark hrun

end Sys2Proof.Machine
end

section
/-! PROOF. Writes of ring registers: who reaches them, and the rings that are enabled and disabled. -/

namespace Sys2Proof.Machine

theorem exec_ownerWrite (p owner : Nat) (s : State) : exec (.ownerWrite p owner) s = run (·.ownerWrite p owner) s := rfl

/-! ### Who writes -/

/-- R79, R81: function fn writes a register of ring q of partition p, where the register is one it sees; f is the write. -/
def Device.ringAccess (d : Device) (fn p q : Nat) (f : Device → Device) : Device :=
  d.when (d.hasFn fn && decide (p < 8) && decide (q < 64) && (fn == 0 || fn == p + 1)) (·.ringWrite fn p q f)

theorem exec_sqEnable (fn p q : Nat) (w : Word) (cells : List Host.Cell) (s : State) : exec (.sqEnable fn p q w cells) s =
    run (fun d => (d.hostStores cells).ringAccess fn p q (·.sqCfgWrite p q (withField w 8 8 1))) s := rfl
theorem exec_sqDisable (fn p q : Nat) (w : Word) (s : State) : exec (.sqDisable fn p q w) s =
    run (·.ringAccess fn p q (·.sqCfgWrite p q (withField w 8 8 0))) s := rfl
theorem exec_cqEnable (fn p c : Nat) (w : Word) (s : State) : exec (.cqEnable fn p c w) s =
    run (·.ringAccess fn p c (·.cqCfgWrite p c (withField w 8 8 1))) s := rfl
theorem exec_cqDisable (fn p c : Nat) (w : Word) (s : State) : exec (.cqDisable fn p c w) s =
    run (·.ringAccess fn p c (·.cqCfgWrite p c (withField w 8 8 0))) s := rfl

theorem Device.ringAccess_seen {d : Device} {fn p q : Nat} (f : Device → Device) (hfn : d.hasFn fn = true) (hp : p < 8) (hq : q < 64)
    (h : fn = 0 ∨ fn = p + 1) : d.ringAccess fn p q f = d.ringWrite fn p q f := by
  have hseen : (fn == 0 || fn == p + 1) = true := by simpa using h
  rw [Device.ringAccess, hfn, hseen, decide_eq_true hp, decide_eq_true hq]
  rfl

theorem Device.ownerOf_cases (d : Device) (p : Nat) : d.ownerOf p = 0 ∨ d.ownerOf p = p + 1 := by
  unfold Device.ownerOf
  split
  · exact .inr rfl
  · exact .inl rfl

/-- R81: the owner of the rings writes their registers. -/
theorem Device.ringAccess_owner {d : Device} {fn p q : Nat} (f : Device → Device) (hfn : d.hasFn fn = true) (hp : p < 8) (hq : q < 64)
    (ho : fn = d.ownerOf p) : d.ringAccess fn p q f = f d := by
  rw [Device.ringAccess_seen f hfn hp hq (ho ▸ d.ownerOf_cases p)]
  exact if_pos ho

/-- R81: another function's write is logged alone. -/
theorem Device.ringAccess_other {d : Device} {fn p q : Nat} (f : Device → Device) (hfn : d.hasFn fn = true) (hp : p < 8) (hq : q < 64)
    (h : fn = 0 ∨ fn = p + 1) (ho : fn ≠ d.ownerOf p) : d.ringAccess fn p q f = d.logPart p 0x0405 0 (hostBody q 0 0 fn) := by
  rw [Device.ringAccess_seen f hfn hp hq h]
  exact if_neg ho

theorem sqCfg_not_logged {p q : Nat} (_hp : p < 8) (hq : q < 64) : (Reg.hifSqCfg p q).offset ∉ logRegs.map Reg.offset := by
  refine logRegs_apart _ ?_ (fun k hk => ?_) (fun k hk => ?_)
  all_goals simp only [Reg.offset]; omega

theorem sqEnable_other {s : State} {fn p q : Nat} (w : Word) (cells : List Host.Cell) (hs : s.inService = true) (hp : p < 8) (hq : q < 64)
    (hfn : s.dev.hasFn fn = true) (h : fn = 0 ∨ fn = p + 1) (ho : fn ≠ s.dev.ownerOf p) : ∃ t : State,
    exec (.sqEnable fn p q w cells) s = .next t ∧ t.pending = s.pending ∧ t.dev.reg (.hifSqCfg p q) = s.dev.reg (.hifSqCfg p q) ∧
      t.dev.sqState p q = s.dev.sqState p q ∧ t.dev.sqs = s.dev.sqs ∧ t.dev.mem = s.dev.mem :=
  have hrow := Device.ringAccess_other (d := s.quiet.dev.hostStores cells) (·.sqCfgWrite p q (withField w 8 8 1)) hfn hp hq h ho
  ⟨_, run_row hs (exec_sqEnable fn p q w cells s) hrow (Device.logPart_flowDone _ _ _ _ _ _), rfl,
    Device.reg_logPart _ _ _ _ _ _ _ (sqCfg_not_logged hp hq), Device.fld_logPart _ _ _ _ _ _ _ _ (sqStatus_not_logged hp hq),
    Device.logPart_sqs _ _ _ _ _ _, Device.logPart_mem _ _ _ _ _ _⟩

/-! ### The ENABLE bit -/

theorem bitOf_withField_one (w : Word) {i : Nat} (hi : i < 64) (v : Nat) : bitOf (withField w i i v).toNat i = (v % 2 == 1) := by
  have h := fieldOf_withField_self w i i v (Nat.le_refl i) hi
  rw [Nat.add_sub_cancel_left, Nat.pow_one] at h
  rw [fieldOf, bitsOf, Nat.add_sub_cancel_left, Nat.pow_one] at h
  rw [bitOf, h]

/-- R9: what a write that leaves one field as it is leaves alone. -/
theorem Device.onlyRegs_writeBut (d : Device) (r : Reg) (f : RegField) (w : Word) : d.OnlyRegs (d.writeBut r f w) := d.onlyRegs_setReg r _

theorem Device.reg_writeBut_ne (d : Device) {r r' : Reg} (f : RegField) (w : Word) (h : r'.offset ≠ r.offset) :
    (d.writeBut r f w).reg r' = d.reg r' := Device.reg_setReg_ne _ _ _ _ h

end Sys2Proof.Machine
end

section
/-! PROOF. Submission rings are enabled and disabled. -/

namespace Sys2Proof.Machine

theorem inRange_sqCfg {p q : Nat} (hp : p < 8) (hq : q < 64) : (Reg.hifSqCfg p q).inRange = true := by simp [Reg.inRange, hp, hq]

theorem Device.sqState_writeCfg (d : Device) {p q : Nat} (f : RegField) (w : Word) (hq : q < 64) :
    (d.writeBut (.hifSqCfg p q) f w).sqState p q = d.sqState p q := by
  rw [Device.sqState, Device.fld, d.reg_writeBut_ne f w (by simp only [Reg.offset]; omega)]
  rfl

theorem Device.sqCfgWrite_on {d : Device} {p q : Nat} (w : Word) (hq : q < 64) (h : d.sqState p q = 0) : d.sqCfgWrite p q (withField w 8 8 1) =
    (d.writeBut (.hifSqCfg p q) Fd.hifSqCfgEnable (withField w 8 8 1)).sqEnable p q := by
  unfold Device.sqCfgWrite
  rw [bitOf_withField_one w (by decide), if_pos (by decide), d.sqState_writeCfg _ _ hq, h]
  rfl

theorem Device.sqCfgWrite_off {d : Device} {p q : Nat} (w : Word) (hq : q < 64) (h : d.sqState p q ≠ 0) : d.sqCfgWrite p q (withField w 8 8 0) =
    (d.writeBut (.hifSqCfg p q) Fd.hifSqCfgEnable (withField w 8 8 0)).sqDisable p q := by
  unfold Device.sqCfgWrite
  rw [bitOf_withField_one w (by decide), if_neg (by decide), d.sqState_writeCfg _ _ hq, bne_iff_ne.2 h]
  rfl

/-! ### A ring that is enabled -/

/-- R88: the registers of a ring that is ACTIVE, with CONSUMED as its status word gives it. -/
def Device.sqActive (d : Device) (p q consumed : Nat) : Device :=
  ((d.setFld (.hifSqCfg p q) Fd.hifSqCfgEnable 1).setFld (.hifSqStatus p q) Fd.hifSqStatusState 1).setFld (.hifSqStatus p q)
    Fd.hifSqStatusConsumed consumed

theorem Device.onlyRegs_sqActive (d : Device) (p q consumed : Nat) : d.OnlyRegs (d.sqActive p q consumed) :=
  (((OnlyRegs.refl d).setFld _ _ _).setFld _ _ _).setFld _ _ _

theorem Device.sqActive_spec (d : Device) {p q : Nat} (w : Word) (hp : p < 8) (hq : q < 64) :
    (d.sqActive p q (fieldOf w 31 0)).sqState p q = 1 ∧ (d.sqActive p q (fieldOf w 31 0)).consumed p q = fieldOf w 31 0 ∧
    (d.sqActive p q (fieldOf w 31 0)).fld (.hifSqCfg p q) Fd.hifSqCfgEnable = 1 := by
  unfold Device.sqActive
  refine ⟨?_, ?_, ?_⟩
  · exact (Device.fld_setFld_apart _ _ _ (by decide)).trans (Device.sqState_setState _ _ hp hq)
  · exact (Device.consumed_setConsumed _ _ hp hq).trans (Nat.mod_eq_of_lt (fieldOf_lt_two_pow w 31 0))
  · rw [Device.fld_setFld_ne _ _ _ _ _ _ (by simp only [Reg.offset]; omega), Device.fld_setFld_ne _ _ _ _ _ _ (by simp only [Reg.offset]; omega),
      Device.fld_setFld_self _ _ _ _ (inRange_sqCfg hp hq) (by decide) (by decide)]
    rfl

/-- R88: CMD_Q_STATUS.RETIRE_INDEX of an empty queue goes with CONSUMED. -/
def Device.sqRetires (d : Device) (p q consumed : Nat) : Device :=
  if d.queue p q = [] then d.setFld (.cmdQStatus p q) Fd.cmdQStatusRetireIndex consumed else d

theorem Device.onlyRegs_sqRetires (d : Device) (p q consumed : Nat) : d.OnlyRegs (d.sqRetires p q consumed) := by
  unfold Device.sqRetires
  split
  · exact d.onlyRegs_setReg _ _
  · exact .refl d

theorem Device.fld_sqRetires (d : Device) {p q consumed : Nat} {r : Reg} (f : RegField) (h : r.offset ≠ (Reg.cmdQStatus p q).offset) :
    (d.sqRetires p q consumed).fld r f = d.fld r f := by
  unfold Device.sqRetires
  split
  · exact Device.fld_setFld_ne _ _ _ _ _ _ h
  · rfl

/-- R88: the ring that is enabled, before its status word is written. -/
def Device.sqStarted (d : Device) (p q consumed : Nat) : Device :=
  { (d.sqActive p q consumed).sqRetires p q consumed with
    sqs := SMap.set (fun _ => {}) ((d.sqActive p q consumed).sqRetires p q consumed).sqs (qkey p q) { seen := consumed } }

/-- The word that a ring takes CONSUMED from as it is enabled. -/
def Device.sqWord (d : Device) (p q : Nat) : Word := d.hostWord (d.wordPage p + 512 + 8 * q)

/-- R460: the test of the enable of a submission ring. -/
def Device.sqFault (d : Device) (p q : Nat) : Option Nat :=
  let size := d.fld (.hifSqCfg p q) Fd.hifSqCfgSizeLog2
  d.enableFault (some p) (decide (6 ≤ size ∧ size ≤ 16)) (d.fld (.hifSqBase p q) Fd.hifSqBaseAddr * 4096) (64 * 2 ^ size) none

theorem Device.sqEnable_eq (d : Device) (p q : Nat) : d.sqEnable p q =
    match d.sqFault p q with
    | some det => (d.setFld (.hifSqCfg p q) Fd.hifSqCfgEnable 0).rejectEnable (some p) q det
    | none =>
      if bitOf (((d.sqActive p q (fieldOf (d.sqWord p q) 31 0)).sqRetires p q (fieldOf (d.sqWord p q) 31 0)).sqWord p q).toNat 62 then
        (d.sqStarted p q (fieldOf (d.sqWord p q) 31 0)).writeStatusWord p q false
      else d.sqStarted p q (fieldOf (d.sqWord p q) 31 0) := rfl

theorem Device.sqStarted_spec (d : Device) {p q : Nat} (w : Word) (hp : p < 8) (hq : q < 64) :
    (d.sqStarted p q (fieldOf w 31 0)).sqState p q = 1 ∧ (d.sqStarted p q (fieldOf w 31 0)).consumed p q = fieldOf w 31 0 ∧
    (d.sqStarted p q (fieldOf w 31 0)).fld (.hifSqCfg p q) Fd.hifSqCfgEnable = 1 ∧
    (d.sqStarted p q (fieldOf w 31 0)).sq p q = { seen := fieldOf w 31 0 } ∧
    d.sqStarted p q (fieldOf w 31 0) = { d with regs := (d.sqStarted p q (fieldOf w 31 0)).regs, sqs := (d.sqStarted p q (fieldOf w 31 0)).sqs } := by
  obtain ⟨hst, hcon, hen⟩ := d.sqActive_spec w hp hq
  have hframe := (d.onlyRegs_sqActive p q (fieldOf w 31 0)).trans (Device.onlyRegs_sqRetires _ p q (fieldOf w 31 0))
  have fld {r : Reg} (f : RegField) (h : r.offset ≠ (Reg.cmdQStatus p q).offset) :
    (d.sqStarted p q (fieldOf w 31 0)).fld r f = (d.sqActive p q (fieldOf w 31 0)).fld r f := Device.fld_sqRetires _ f h
  refine ⟨(fld _ (by simp only [Reg.offset]; omega)).trans hst, (fld _ (by simp only [Reg.offset]; omega)).trans hcon,
    (fld _ (by simp only [Reg.offset]; omega)).trans hen, SMap.get_set_self _ _ _ _, ?_⟩
  exact (congrArg (fun e : Device => { e with sqs := (d.sqStarted p q (fieldOf w 31 0)).sqs }) hframe :)

theorem Device.sqEnable_starts {d : Device} {p q : Nat} (hp : p < 8) (hq : q < 64) (h : d.sqFault p q = none) : ∃ e : Device,
    d.sqEnable p q = e ∧ e.sqState p q = 1 ∧ e.flag (.hifSqCfg p q) Fd.hifSqCfgEnable = true ∧
      e.consumed p q = fieldOf (d.sqWord p q) 31 0 ∧ e.sq p q = { seen := e.consumed p q } ∧ e.queues = d.queues ∧ e.mem = d.mem ∧
      e.flowDone = d.flowDone := by
  obtain ⟨hst, hcon, hen, hsq, hframe⟩ := d.sqStarted_spec (d.sqWord p q) hp hq
  rw [Device.sqEnable_eq, h]
  dsimp only
  have hqueues := congrArg Device.queues hframe
  have hmem := congrArg Device.mem hframe
  have hflow := congrArg Device.flowDone hframe
  generalize d.sqStarted p q (fieldOf (d.sqWord p q) 31 0) = e at hst hcon hen hsq hqueues hmem hflow ⊢
  have hflag : e.flag (.hifSqCfg p q) Fd.hifSqCfgEnable = true := by rw [Device.flag, hen]; rfl
  have hseen : e.sq p q = { seen := e.consumed p q } := by rw [hsq, hcon]
  split
  · exact ⟨_, rfl, hst, hflag, hcon, hseen, hqueues, hmem, hflow⟩
  · exact ⟨_, rfl, hst, hflag, hcon, hseen, hqueues, hmem, hflow⟩

/-- R460: a submission ring whose enable is rejected. -/
theorem Device.sqRejected_spec (d : Device) {p q : Nat} (det : Nat) (hp : p < 8) (hq : q < 64) : ∃ e : Device,
    (d.setFld (.hifSqCfg p q) Fd.hifSqCfgEnable 0).rejectEnable (some p) q det = e ∧ e.sqState p q = d.sqState p q ∧
      e.flag (.hifSqCfg p q) Fd.hifSqCfgEnable = false ∧ e.mem = d.mem ∧ e.flowDone = d.flowDone := by
  refine ⟨_, rfl, ?_, ?_, ?_, ?_⟩
  · rw [Device.rejectEnable, Device.sqState, Device.fld_logPart _ _ _ _ _ _ _ _ (sqStatus_not_logged hp hq),
      Device.fld_setFld_ne _ _ _ _ _ _ (by simp only [Reg.offset]; omega)]
    rfl
  · rw [Device.rejectEnable, Device.flag, Device.fld_logPart _ _ _ _ _ _ _ _ (sqCfg_not_logged hp hq),
      Device.fld_setFld_self _ _ _ _ (inRange_sqCfg hp hq) (by decide) (by decide)]
    rfl
  · exact (Device.logPart_mem _ _ _ _ _ _).trans (Device.setFld_mem _ _ _ _)
  · exact (Device.logPart_flowDone _ _ _ _ _ _).trans (Device.setFld_flowDone _ _ _ _)

theorem Device.sqEnable_rejected {d : Device} {p q det : Nat} (hp : p < 8) (hq : q < 64) (h : d.sqFault p q = some det) : ∃ e : Device,
    d.sqEnable p q = e ∧ e.sqState p q = d.sqState p q ∧ e.flag (.hifSqCfg p q) Fd.hifSqCfgEnable = false ∧ e.mem = d.mem ∧
      e.flowDone = d.flowDone := by
  rw [Device.sqEnable_eq, h]
  exact d.sqRejected_spec det hp hq

theorem sqEnable_access {s : State} {fn p q : Nat} (w : Word) (cells : List Host.Cell) (hp : p < 8) (hq : q < 64)
    (hfn : s.dev.hasFn fn = true) (ho : fn = s.dev.ownerOf p) (hst : s.dev.sqState p q = 0) :
    (s.quiet.dev.hostStores cells).ringAccess fn p q (·.sqCfgWrite p q (withField w 8 8 1)) =
      ((s.quiet.dev.hostStores cells).writeBut (.hifSqCfg p q) Fd.hifSqCfgEnable (withField w 8 8 1)).sqEnable p q :=
  (Device.ringAccess_owner (d := s.quiet.dev.hostStores cells) _ hfn hp hq ho).trans
    (Device.sqCfgWrite_on (d := s.quiet.dev.hostStores cells) w hq hst)

theorem sqEnable_starts {s : State} {fn p q : Nat} {w : Word} {cells : List Host.Cell} (hs : s.inService = true) (hp : p < 8) (hq : q < 64)
    (hfn : s.dev.hasFn fn = true) (ho : fn = s.dev.ownerOf p) (hst : s.dev.sqState p q = 0)
    (h : ((s.quiet.dev.hostStores cells).writeBut (.hifSqCfg p q) Fd.hifSqCfgEnable (withField w 8 8 1)).sqFault p q = none) : ∃ t : State,
    exec (.sqEnable fn p q w cells) s = .next t ∧ t.pending = s.pending ∧ t.dev.sqState p q = 1 ∧
      t.dev.flag (.hifSqCfg p q) Fd.hifSqCfgEnable = true ∧ t.dev.consumed p q = fieldOf
        (((s.quiet.dev.hostStores cells).writeBut (.hifSqCfg p q) Fd.hifSqCfgEnable (withField w 8 8 1)).sqWord p q) 31 0 ∧
      t.dev.sq p q = { seen := t.dev.consumed p q } ∧ t.dev.queues = s.dev.queues ∧ t.dev.mem = s.dev.mem := by
  have hframe := (s.quiet.dev.hostStores cells).onlyRegs_writeBut (.hifSqCfg p q) Fd.hifSqCfgEnable (withField w 8 8 1)
  obtain ⟨f, hf, hst', hen, hcon, hsq, hqueues, hmem, hflow⟩ := Device.sqEnable_starts hp hq h
  exact ⟨_, run_row hs (exec_sqEnable fn p q w cells s) ((sqEnable_access w cells hp hq hfn ho hst).trans hf)
    (hflow.trans (congrArg Device.flowDone hframe :)), rfl, hst', hen, hcon, hsq, hqueues.trans (congrArg Device.queues hframe :),
    hmem.trans (congrArg Device.mem hframe :)⟩

theorem sqEnable_rejected {s : State} {fn p q det : Nat} {w : Word} {cells : List Host.Cell} (hs : s.inService = true) (hp : p < 8) (hq : q < 64)
    (hfn : s.dev.hasFn fn = true) (ho : fn = s.dev.ownerOf p) (hst : s.dev.sqState p q = 0)
    (h : ((s.quiet.dev.hostStores cells).writeBut (.hifSqCfg p q) Fd.hifSqCfgEnable (withField w 8 8 1)).sqFault p q = some det) :
    ∃ t : State, exec (.sqEnable fn p q w cells) s = .next t ∧ t.pending = s.pending ∧ t.dev.sqState p q = 0 ∧
      t.dev.flag (.hifSqCfg p q) Fd.hifSqCfgEnable = false ∧ t.dev.mem = s.dev.mem := by
  have hframe := (s.quiet.dev.hostStores cells).onlyRegs_writeBut (.hifSqCfg p q) Fd.hifSqCfgEnable (withField w 8 8 1)
  obtain ⟨f, hf, hst', hen, hmem, hflow⟩ := Device.sqEnable_rejected hp hq h
  exact ⟨_, run_row hs (exec_sqEnable fn p q w cells s) ((sqEnable_access w cells hp hq hfn ho hst).trans hf)
    (hflow.trans (congrArg Device.flowDone hframe :)), rfl, hst'.trans ((Device.sqState_writeCfg _ _ _ hq).trans hst), hen,
    hmem.trans (congrArg Device.mem hframe :)⟩

/-! ### A ring that is disabled -/

theorem Device.sqDisable_spec (d : Device) {p q : Nat} (hp : p < 8) (hq : q < 64) : ∃ e : Device, d.sqDisable p q = e ∧
    e.sqState p q = 0 ∧ e.flag (.hifSqCfg p q) Fd.hifSqCfgEnable = false ∧ e.queues = d.queues ∧ e.mem = d.mem ∧ e.flowDone = d.flowDone := by
  have hst := (d.setFld (.hifSqCfg p q) Fd.hifSqCfgEnable 0).sqState_setState 0 hp hq
  have hen : ((d.setFld (.hifSqCfg p q) Fd.hifSqCfgEnable 0).setFld (.hifSqStatus p q) Fd.hifSqStatusState 0).flag (.hifSqCfg p q)
      Fd.hifSqCfgEnable = false := by
    rw [Device.flag, Device.fld_setFld_ne _ _ _ _ _ _ (by simp only [Reg.offset]; omega),
      Device.fld_setFld_self _ _ _ _ (inRange_sqCfg hp hq) (by decide) (by decide)]
    rfl
  have hframe : d.OnlyRegs ((d.setFld (.hifSqCfg p q) Fd.hifSqCfgEnable 0).setFld (.hifSqStatus p q) Fd.hifSqStatusState 0) :=
    ((OnlyRegs.refl d).setFld _ _ _).setFld _ _ _
  unfold Device.sqDisable
  dsimp only
  have hqueues := congrArg Device.queues hframe
  have hmem := congrArg Device.mem hframe
  have hflow := congrArg Device.flowDone hframe
  generalize (d.setFld (.hifSqCfg p q) Fd.hifSqCfgEnable 0).setFld (.hifSqStatus p q) Fd.hifSqStatusState 0 = e at hst hen hqueues hmem hflow ⊢
  split
  · exact ⟨_, rfl, hst, hen, hqueues, hmem, hflow⟩
  · exact ⟨_, rfl, hst, hen, hqueues, hmem, hflow⟩

theorem sqDisable_row {s : State} {fn p q : Nat} (w : Word) (hs : s.inService = true) (hp : p < 8) (hq : q < 64)
    (hfn : s.dev.hasFn fn = true) (ho : fn = s.dev.ownerOf p) (hst : s.dev.sqState p q ≠ 0) : ∃ t : State,
    exec (.sqDisable fn p q w) s = .next t ∧ t.pending = s.pending ∧ t.dev.sqState p q = 0 ∧
      t.dev.flag (.hifSqCfg p q) Fd.hifSqCfgEnable = false ∧ t.dev.queues = s.dev.queues ∧ t.dev.mem = s.dev.mem := by
  have hframe := s.quiet.dev.onlyRegs_writeBut (.hifSqCfg p q) Fd.hifSqCfgEnable (withField w 8 8 0)
  obtain ⟨e, he, hst', hen, hqueues, hmem, hflow⟩ :=
    (s.quiet.dev.writeBut (.hifSqCfg p q) Fd.hifSqCfgEnable (withField w 8 8 0)).sqDisable_spec hp hq
  have hrow := (Device.ringAccess_owner (d := s.quiet.dev) (·.sqCfgWrite p q (withField w 8 8 0)) hfn hp hq ho).trans
    ((Device.sqCfgWrite_off (d := s.quiet.dev) w hq hst).trans he)
  exact ⟨_, run_row hs (exec_sqDisable fn p q w s) hrow (hflow.trans (congrArg Device.flowDone hframe :)), rfl, hst', hen,
    hqueues.trans (congrArg Device.queues hframe :), hmem.trans (congrArg Device.mem hframe :)⟩

end Sys2Proof.Machine
end

section
/-! PROOF. Completion rings are enabled and disabled. -/

namespace Sys2Proof.Machine

theorem inRange_cqCfg {p c : Nat} (hp : p < 8) (hc : c < 64) : (Reg.hifCqCfg p c).inRange = true := by simp [Reg.inRange, hp, hc]

theorem Device.cqCfgWrite_on {d : Device} {p c : Nat} (w : Word) (h : d.flag (.hifCqCfg p c) Fd.hifCqCfgEnable = false) :
    d.cqCfgWrite p c (withField w 8 8 1) = (d.writeBut (.hifCqCfg p c) Fd.hifCqCfgEnable (withField w 8 8 1)).cqEnable p c := by
  unfold Device.cqCfgWrite
  rw [bitOf_withField_one w (by decide), if_pos (by decide), h]
  rfl

theorem Device.cqCfgWrite_off {d : Device} {p c : Nat} (w : Word) (h : d.flag (.hifCqCfg p c) Fd.hifCqCfgEnable = true) :
    d.cqCfgWrite p c (withField w 8 8 0) = (d.writeBut (.hifCqCfg p c) Fd.hifCqCfgEnable (withField w 8 8 0)).cqDisable p c := by
  unfold Device.cqCfgWrite
  rw [bitOf_withField_one w (by decide), if_neg (by decide), h]
  rfl

/-! ### A ring that is enabled -/

/-- R460: a ring is enabled only on a link that runs rings. -/
theorem Device.linkOk_of_enableFault {d : Device} {part : Option Nat} {ok : Bool} {base bytes : Nat} {vec : Option Nat}
    (h : d.enableFault part ok base bytes vec = none) : d.linkOk = true := by
  cases hl : d.linkOk with
  | true => rfl
  | false =>
    have hfault : d.enableFault part ok base bytes vec = some 1 := by
      unfold Device.enableFault
      exact if_pos (by rw [hl]; rfl)
    exact nomatch hfault.symm.trans h

/-- R91: the registers of a completion ring with its ENABLE, STATE and TAIL. -/
def Device.cqShown (d : Device) (p c enable state : Nat) : Device :=
  ((d.setFld (.hifCqCfg p c) Fd.hifCqCfgEnable enable).setFld (.hifCqStatus p c) Fd.hifCqStatusState state).setFld (.hifCqStatus p c)
    Fd.hifCqStatusTail 0

theorem Device.onlyRegs_cqShown (d : Device) (p c enable state : Nat) : d.OnlyRegs (d.cqShown p c enable state) :=
  (((OnlyRegs.refl d).setFld _ _ _).setFld _ _ _).setFld _ _ _

theorem Device.cqShown_spec (d : Device) {p c : Nat} (enable state : Nat) (hp : p < 8) (hc : c < 64) :
    (d.cqShown p c enable state).fld (.hifCqCfg p c) Fd.hifCqCfgEnable = enable % 2 ∧ (d.cqShown p c enable state).cqTail p c = 0 ∧
    (d.cqShown p c enable state).cq p c = d.cq p c := by
  unfold Device.cqShown
  refine ⟨?_, ?_, Device.cq_congr (congrArg Device.cqs (d.onlyRegs_cqShown p c enable state) :) p c⟩
  · rw [Device.fld_setFld_ne _ _ _ _ _ _ (by simp only [Reg.offset]; omega), Device.fld_setFld_ne _ _ _ _ _ _ (by simp only [Reg.offset]; omega)]
    exact d.fld_setFld_self _ Fd.hifCqCfgEnable enable (inRange_cqCfg hp hc) (by decide) (by decide)
  · rw [Device.cqTail, Device.fld_setFld_self _ _ _ _ (inRange_cqStatus.2 ⟨hp, hc⟩) (by decide) (by decide)]
    rfl

theorem Device.cqUsed_fresh {d : Device} {p c : Nat} (hcq : d.cq p c = {}) (ht : d.cqTail p c = 0) : d.cqUsed p c = 0 := by
  rw [Device.cqUsed, hcq, ht]
  rfl

/-- R91: a ring that holds no record shows ACTIVE. -/
theorem Device.cqShowState_fresh {d : Device} {p c : Nat} (hcq : d.cq p c = {}) (ht : d.cqTail p c = 0) :
    d.cqShowState p c = (d.setFld (.hifCqStatus p c) Fd.hifCqStatusState 1).setCq p c {} := by
  have hfull : decide (d.cqSize p c ≤ d.cqUsed p c) = false := by
    rw [d.cqUsed_fresh hcq ht]
    exact decide_eq_false (Nat.not_le.2 (Nat.two_pow_pos _))
  have hsame : (d.setFld (.hifCqStatus p c) Fd.hifCqStatusState 1).cq p c = {} := (Device.cq_congr (Device.setFld_cqs _ _ _ _) p c).trans hcq
  unfold Device.cqShowState
  dsimp only
  rw [hfull, if_neg Bool.false_ne_true, if_neg Bool.false_ne_true, hsame]

/-- R92: a ring that has read no ARM raises nothing. -/
theorem Device.cqInterrupt_fresh {d : Device} {p c : Nat} (hcq : d.cq p c = {}) : d.cqInterrupt p c = d := by
  unfold Device.cqInterrupt
  rw [hcq]
  exact if_neg fun h => h.1 rfl

/-- R91: an empty ring at TAIL 0 that runs has nothing to write. -/
theorem Device.cqFlush_fresh {d : Device} {p c : Nat} (he : d.flag (.hifCqCfg p c) Fd.hifCqCfgEnable = true) (hl : d.linkOk = true)
    (hcq : d.cq p c = {}) (ht : d.cqTail p c = 0) :
    d.cqFlush p c = ((d.setCq p c {}).setFld (.hifCqStatus p c) Fd.hifCqStatusState 1).setCq p c {} := by
  have hdrain : Device.cqDrain p c (d.cq p c).waiting d = d.setCq p c {} := by rw [hcq, Device.cqDrain, hcq]
  unfold Device.cqFlush
  rw [he, hl, hdrain, Device.cqShowState_fresh (Device.cq_setCq_self _ _ _ _) ht]
  exact Device.cqInterrupt_fresh (Device.cq_setCq_self _ _ _ _)

/-- R460: the test of the enable of a completion ring. -/
def Device.cqFault (d : Device) (p c : Nat) : Option Nat :=
  let size := d.fld (.hifCqCfg p c) Fd.hifCqCfgSizeLog2
  d.enableFault (some p) (decide (6 ≤ size ∧ size ≤ 16)) (d.fld (.hifCqBase p c) Fd.hifCqBaseAddr * 4096) (32 * 2 ^ size)
    (some (d.fld (.hifCqCfg p c) Fd.hifCqCfgVector))

theorem Device.linkOk_of_cqFault {d : Device} {p c : Nat} (h : d.cqFault p c = none) : d.linkOk = true := by
  unfold Device.cqFault at h
  exact Device.linkOk_of_enableFault h

theorem Device.cqEnable_eq {d : Device} {p c : Nat} (h : d.cqFault p c = none) : d.cqEnable p c =
    ((d.cqShown p c 1 1).setCq p c { waiting := ((d.cqShown p c 1 1).cq p c).waiting }).cqFlush p c := by
  unfold Device.cqFault at h
  unfold Device.cqEnable
  dsimp only at h ⊢
  rw [h]
  rfl

/-- R91: a completion ring is empty at TAIL 0 once it is enabled, where no record waited. -/
theorem Device.cqEnable_starts {d : Device} {p c : Nat} (hp : p < 8) (hc : c < 64) (h : d.cqFault p c = none) (hw : (d.cq p c).waiting = []) :
    ∃ e : Device, d.cqEnable p c = e ∧ e.flag (.hifCqCfg p c) Fd.hifCqCfgEnable = true ∧ e.cqTail p c = 0 ∧
      e.fld (.hifCqStatus p c) Fd.hifCqStatusState = 1 ∧ e.cq p c = {} ∧ e.mem = d.mem ∧ e.flowDone = d.flowDone := by
  obtain ⟨hen, htail, hcq⟩ := d.cqShown_spec 1 1 hp hc
  have hframe := d.onlyRegs_cqShown p c 1 1
  have hlink : (d.cqShown p c 1 1).linkOk = true := 
    (congrArg Device.linkOk hframe :).trans (Device.linkOk_of_cqFault (d := d) h)
  have hmem : (d.cqShown p c 1 1).mem = d.mem := (congrArg Device.mem hframe :)
  have hflow : (d.cqShown p c 1 1).flowDone = d.flowDone := (congrArg Device.flowDone hframe :)
  have heq := Device.cqEnable_eq h
  rw [hcq, hw] at heq
  generalize d.cqShown p c 1 1 = e at hen htail hlink hmem hflow heq
  have hflag : e.flag (.hifCqCfg p c) Fd.hifCqCfgEnable = true := by rw [Device.flag, hen]; rfl
  rw [Device.cqFlush_fresh (d := e.setCq p c {}) hflag hlink (Device.cq_setCq_self _ _ _ _) htail] at heq
  refine ⟨_, heq, ?_, ?_, ?_, Device.cq_setCq_self _ _ _ _, (Device.setFld_mem _ _ _ _).trans hmem, (Device.setFld_flowDone _ _ _ _).trans hflow⟩
  · exact (congrArg (· == 1) (Device.fld_setFld_ne _ _ _ _ _ _ (by simp only [Reg.offset]; omega))).trans hflag
  · exact (Device.fld_setFld_apart _ _ _ (by decide)).trans htail
  · exact Device.fld_setFld_self _ _ Fd.hifCqStatusState 1 (inRange_cqStatus.2 ⟨hp, hc⟩) (by decide) (by decide)

theorem cqEnable_row {s : State} {fn p c : Nat} {w : Word} (hs : s.inService = true) (hp : p < 8) (hc : c < 64)
    (hfn : s.dev.hasFn fn = true) (ho : fn = s.dev.ownerOf p) (hoff : s.dev.flag (.hifCqCfg p c) Fd.hifCqCfgEnable = false)
    (hw : (s.dev.cq p c).waiting = [])
    (h : (s.quiet.dev.writeBut (.hifCqCfg p c) Fd.hifCqCfgEnable (withField w 8 8 1)).cqFault p c = none) : ∃ t : State,
    exec (.cqEnable fn p c w) s = .next t ∧ t.pending = s.pending ∧ t.dev.flag (.hifCqCfg p c) Fd.hifCqCfgEnable = true ∧
      t.dev.cqTail p c = 0 ∧ t.dev.fld (.hifCqStatus p c) Fd.hifCqStatusState = 1 ∧ t.dev.cq p c = {} ∧ t.dev.mem = s.dev.mem := by
  have hframe := s.quiet.dev.onlyRegs_writeBut (.hifCqCfg p c) Fd.hifCqCfgEnable (withField w 8 8 1)
  have hwait : ((s.quiet.dev.writeBut (.hifCqCfg p c) Fd.hifCqCfgEnable (withField w 8 8 1)).cq p c).waiting = [] := by
    rw [Device.cq_congr (congrArg Device.cqs hframe :) p c]; exact hw
  obtain ⟨e, he, hen, htail, hst, hcq, hmem, hflow⟩ := Device.cqEnable_starts hp hc h hwait
  have hrow := (Device.ringAccess_owner (d := s.quiet.dev) (·.cqCfgWrite p c (withField w 8 8 1)) hfn hp hc ho).trans
    ((Device.cqCfgWrite_on (d := s.quiet.dev) w hoff).trans he)
  exact ⟨_, run_row hs (exec_cqEnable fn p c w s) hrow (hflow.trans (congrArg Device.flowDone hframe :)), rfl, hen, htail, hst, hcq,
    hmem.trans (congrArg Device.mem hframe :)⟩

/-! ### A ring that is disabled -/

theorem Device.cqDisable_spec (d : Device) {p c : Nat} (hp : p < 8) (hc : c < 64) : ∃ e : Device, d.cqDisable p c = e ∧
    e.flag (.hifCqCfg p c) Fd.hifCqCfgEnable = false ∧ e.cqTail p c = 0 ∧ e.cq p c = { waiting := (d.cq p c).waiting } ∧
    e.mem = d.mem ∧ e.flowDone = d.flowDone := by
  obtain ⟨hen, htail, hcq⟩ := d.cqShown_spec 0 0 hp hc
  have hframe := d.onlyRegs_cqShown p c 0 0
  have hmem : (d.cqShown p c 0 0).mem = d.mem := (congrArg Device.mem hframe :)
  have hflow : (d.cqShown p c 0 0).flowDone = d.flowDone := (congrArg Device.flowDone hframe :)
  have heq : d.cqDisable p c = (d.cqShown p c 0 0).setCq p c { waiting := ((d.cqShown p c 0 0).cq p c).waiting } := rfl
  rw [hcq] at heq
  generalize d.cqShown p c 0 0 = e at hen htail hmem hflow heq
  have hflag : e.flag (.hifCqCfg p c) Fd.hifCqCfgEnable = false := by rw [Device.flag, hen]; rfl
  exact ⟨_, heq, hflag, htail, Device.cq_setCq_self _ _ _ _, hmem, hflow⟩

theorem cqDisable_row {s : State} {fn p c : Nat} (w : Word) (hs : s.inService = true) (hp : p < 8) (hc : c < 64)
    (hfn : s.dev.hasFn fn = true) (ho : fn = s.dev.ownerOf p) (hon : s.dev.flag (.hifCqCfg p c) Fd.hifCqCfgEnable = true) : ∃ t : State,
    exec (.cqDisable fn p c w) s = .next t ∧ t.pending = s.pending ∧ t.dev.flag (.hifCqCfg p c) Fd.hifCqCfgEnable = false ∧
      t.dev.cqTail p c = 0 ∧ t.dev.cq p c = { waiting := (s.dev.cq p c).waiting } ∧ t.dev.mem = s.dev.mem := by
  have hframe := s.quiet.dev.onlyRegs_writeBut (.hifCqCfg p c) Fd.hifCqCfgEnable (withField w 8 8 0)
  obtain ⟨e, he, hen, htail, hcq, hmem, hflow⟩ :=
    (s.quiet.dev.writeBut (.hifCqCfg p c) Fd.hifCqCfgEnable (withField w 8 8 0)).cqDisable_spec hp hc
  rw [Device.cq_congr (congrArg Device.cqs hframe :) p c] at hcq
  have hrow := (Device.ringAccess_owner (d := s.quiet.dev) (·.cqCfgWrite p c (withField w 8 8 0)) hfn hp hc ho).trans
    ((Device.cqCfgWrite_off (d := s.quiet.dev) w hon).trans he)
  exact ⟨_, run_row hs (exec_cqDisable fn p c w s) hrow (hflow.trans (congrArg Device.flowDone hframe :)), rfl, hen, htail, hcq,
    hmem.trans (congrArg Device.mem hframe :)⟩

end Sys2Proof.Machine
end

section
/-! PROOF. O27: error rings are enabled, and the family's rings. -/

namespace Sys2Proof.Machine

theorem exec_errRingEnable_part {fn p : Nat} (w : Word) (cells : List Host.Cell) (s : State) (hp : p < 8) :
    exec (.errRingEnable fn p w cells) s =
      run (fun d => (d.hostStores cells).ringAccess fn p 0 (·.errCfgWrite p (withField w 16 16 1))) s := by
  have hring : p ≠ moduleRing := Nat.ne_of_lt hp
  change execErrRingEnable fn p w cells s = _
  simp only [execErrRingEnable, if_neg hring, Device.ringAccess, Nat.zero_lt_succ, decide_true, Bool.and_true]

theorem exec_errRingEnable_module (w : Word) (cells : List Host.Cell) (s : State) :
    exec (.errRingEnable 0 8 w cells) s = run (fun d => (d.hostStores cells).errCfgWrite 8 (withField w 16 16 1)) s := rfl

theorem Device.errCfgWrite_on {d : Device} {k : Nat} (w : Word) (h : d.errEnabled k = false) : d.errCfgWrite k (withField w 16 16 1) =
    (d.writeBut (errCfgReg k) Fd.hifErrCfgEnable (withField w 16 16 1)).errEnable k := by
  unfold Device.errCfgWrite
  rw [bitOf_withField_one w (by decide), if_pos (by decide), h]
  rfl

/-- R460: an error ring that is enabled, its counts at 0. -/
def Device.errStarted (d : Device) (k : Nat) : Device :=
  (d.setFld (errCfgReg k) Fd.hifErrCfgEnable 1).setErrRing k { d.errRing k with tail := 0, head := 0 }

theorem inRange_errCfg (k : Nat) : (errCfgReg k).inRange = true := by
  unfold errCfgReg
  split
  · next h => simpa [Reg.inRange] using h
  · rfl

theorem Device.errStarted_spec (d : Device) (k : Nat) : (d.errStarted k).errEnabled k = true ∧ ((d.errStarted k).errRing k).tail = 0 ∧
    ((d.errStarted k).errRing k).head = 0 ∧ (d.errStarted k).hist = d.hist ∧ (d.errStarted k).mem = d.mem ∧
    (d.errStarted k).flowDone = d.flowDone := by
  have hring : (d.errStarted k).errRing k = { d.errRing k with tail := 0, head := 0 } := SMap.get_set_self _ _ _ _
  have hen : (d.errStarted k).fld (errCfgReg k) Fd.hifErrCfgEnable = 1 :=
    d.fld_setFld_self _ Fd.hifErrCfgEnable 1 (inRange_errCfg k) (by decide) (by decide)
  refine ⟨?_, ?_, ?_, Device.setFld_hist _ _ _ _, Device.setFld_mem _ _ _ _, Device.setFld_flowDone _ _ _ _⟩
  · rw [Device.errEnabled, Device.flag, hen]
    rfl
  · rw [hring]
  · rw [hring]

/-- R460: the test of the enable of an error ring. -/
def Device.errFault (d : Device) (k : Nat) (part vec : Option Nat) : Option Nat :=
  let size := d.fld (errCfgReg k) Fd.hifErrCfgSizeLog2
  d.enableFault part (decide (6 ≤ size ∧ size ≤ 12)) (d.errBase k) (64 * 2 ^ size) vec

theorem Device.errEnable_part {d : Device} {p : Nat} (hp : p < 8)
    (h : d.errFault p (some p) (some (d.fld (errCfgReg p) Fd.hifErrCfgVector)) = none) : d.errEnable p = d.errStarted p := by
  unfold Device.errFault at h
  unfold Device.errEnable
  dsimp only at h ⊢
  rw [if_pos hp]
  dsimp only [Option.map_some]
  rw [h]
  dsimp only
  rw [if_pos hp]
  rfl

theorem Device.errEnable_module {d : Device} (h : d.errFault 8 none none = none) : d.errEnable 8 = (d.errStarted 8).histReplay := by
  unfold Device.errFault at h
  unfold Device.errEnable
  dsimp only at h ⊢
  rw [if_neg (by decide)]
  dsimp only [Option.map_none]
  rw [h]
  exact if_neg (by decide)

theorem foldl_replayOne (d : Device) (l acc : List HistRec) (h : ∀ x ∈ l, x.waiting = false) :
    l.foldl replayOne (d, acc) = (d, l.reverse ++ acc) := by
  induction l generalizing acc with
  | nil => rfl
  | cons x l ih =>
    have hx : replayOne (d, acc) x = (d, x :: acc) := if_neg (by rw [h x List.mem_cons_self]; exact Bool.false_ne_true)
    rw [List.foldl_cons, hx, ih _ fun y hy => h y (List.mem_cons_of_mem _ hy), List.reverse_cons, List.append_assoc]
    rfl

/-- R429: where no record waits, the enable of the module's error ring writes none. -/
theorem Device.histReplay_none {d : Device} (h : ∀ x ∈ d.hist, x.waiting = false) : d.histReplay = d.countWaiting := by
  have hr : d.replayed = (d, d.hist) := by
    rw [Device.replayed, foldl_replayOne _ _ _ fun x hx => h x (List.mem_reverse.1 hx), List.reverse_reverse, List.append_nil]
  rw [Device.histReplay_eq, hr]

/-- R429: what the module's error ring shows once it is enabled and no record waits. -/
theorem Device.countWaiting_spec (d : Device) : d.countWaiting.errEnabled 8 = d.errEnabled 8 ∧ d.countWaiting.errRing 8 = d.errRing 8 ∧
    d.countWaiting.hist = d.hist ∧ d.countWaiting.mem = d.mem ∧ d.countWaiting.flowDone = d.flowDone := by
  refine ⟨congrArg (· == 1) (Device.fld_setFld_ne _ _ _ _ _ _ (by decide)), ?_, Device.setFld_hist _ _ _ _, Device.setFld_mem _ _ _ _,
    Device.setFld_flowDone _ _ _ _⟩
  rw [Device.errRing, Device.countWaiting, Device.setFld_errs]
  rfl

theorem errRingEnable_part {s : State} {fn p : Nat} {w : Word} {cells : List Host.Cell} (hs : s.inService = true) (hp : p < 8)
    (hfn : s.dev.hasFn fn = true) (ho : fn = s.dev.ownerOf p) (hoff : s.dev.errEnabled p = false) :
    let e := (s.quiet.dev.hostStores cells).writeBut (errCfgReg p) Fd.hifErrCfgEnable (withField w 16 16 1)
    e.errFault p (some p) (some (e.fld (errCfgReg p) Fd.hifErrCfgVector)) = none → ∃ t : State,
    exec (.errRingEnable fn p w cells) s = .next t ∧ t.pending = s.pending ∧ t.dev.errEnabled p = true ∧
      (t.dev.errRing p).tail = 0 ∧ (t.dev.errRing p).head = 0 ∧ t.dev.mem = s.dev.mem := by
  intro e h
  have hframe := (s.quiet.dev.hostStores cells).onlyRegs_writeBut (errCfgReg p) Fd.hifErrCfgEnable (withField w 16 16 1)
  have hrow := ((Device.ringAccess_owner (d := s.quiet.dev.hostStores cells) (·.errCfgWrite p (withField w 16 16 1)) hfn hp (q := 0)
    (by decide) ho).trans (Device.errCfgWrite_on (d := s.quiet.dev.hostStores cells) w hoff)).trans (Device.errEnable_part hp h)
  obtain ⟨hen, htail, hhead, -, hmem, hflow⟩ := Device.errStarted_spec
    ((s.quiet.dev.hostStores cells).writeBut (errCfgReg p) Fd.hifErrCfgEnable (withField w 16 16 1)) p
  exact ⟨_, run_row hs (exec_errRingEnable_part w cells s hp) hrow (hflow.trans (congrArg Device.flowDone hframe :)), rfl, hen, htail, hhead,
    hmem.trans (congrArg Device.mem hframe :)⟩

theorem errRingEnable_module {s : State} {w : Word} {cells : List Host.Cell} (hs : s.inService = true) (hoff : s.dev.errEnabled 8 = false)
    (hwait : ∀ h ∈ s.dev.hist, h.waiting = false) :
    let e := (s.quiet.dev.hostStores cells).writeBut .hifModErrCfg Fd.hifErrCfgEnable (withField w 16 16 1)
    e.errFault 8 none none = none → ∃ t : State,
    exec (.errRingEnable 0 8 w cells) s = .next t ∧ t.pending = s.pending ∧ t.dev.errEnabled 8 = true ∧
      (t.dev.errRing 8).tail = 0 ∧ (t.dev.errRing 8).head = 0 ∧ t.dev.hist = s.dev.hist ∧ t.dev.mem = s.dev.mem := by
  intro e h
  have hframe := (s.quiet.dev.hostStores cells).onlyRegs_writeBut .hifModErrCfg Fd.hifErrCfgEnable (withField w 16 16 1)
  obtain ⟨hen, htail, hhead, hhist, hmem, hflow⟩ := Device.errStarted_spec
    ((s.quiet.dev.hostStores cells).writeBut .hifModErrCfg Fd.hifErrCfgEnable (withField w 16 16 1)) 8
  have hhist' := hhist.trans (congrArg Device.hist hframe :)
  have hreplay := Device.histReplay_none (d := Device.errStarted
    ((s.quiet.dev.hostStores cells).writeBut .hifModErrCfg Fd.hifErrCfgEnable (withField w 16 16 1)) 8) (hhist' ▸ hwait)
  have hrow := ((Device.errCfgWrite_on (d := s.quiet.dev.hostStores cells) w hoff).trans (Device.errEnable_module h)).trans hreplay
  obtain ⟨hen', hring, hhist'', hmem', hflow'⟩ := Device.countWaiting_spec (Device.errStarted
    ((s.quiet.dev.hostStores cells).writeBut .hifModErrCfg Fd.hifErrCfgEnable (withField w 16 16 1)) 8)
  exact ⟨_, run_row hs (exec_errRingEnable_module w cells s) hrow ((hflow'.trans hflow).trans (congrArg Device.flowDone hframe :)), rfl,
    hen'.trans hen, (congrArg ErrRing.tail hring).trans htail, (congrArg ErrRing.head hring).trans hhead, hhist''.trans hhist',
    (hmem'.trans hmem).trans (congrArg Device.mem hframe :)⟩

theorem ownerWrite_row {s : State} (p owner : Nat) (hs : s.inService = true) : exec (.ownerWrite p owner) s = .next
    (if s.dev.ringsOff p = true then s.after fun d => d.setFld (.hifPartCtrl p) Fd.hifPartCtrlOwner owner else s.quiet) := by
  by_cases h : s.dev.ringsOff p = true
  · rw [if_pos h]
    exact run_row hs (exec_ownerWrite p owner s) (if_pos h) (Device.setFld_flowDone _ _ _ _)
  · rw [if_neg h]
    exact run_row hs (exec_ownerWrite p owner s) (if_neg h) rfl

/-- Settles O27, row by row. -/
theorem ringsEnableAndDisable : Obligations.RingsEnableAndDisable := by
  refine fun s fn p q hs hp hq => ⟨fun w cells hfn ho hst => ⟨fun h => ?_, fun det h => ?_⟩, fun w cells hfn h ho => ?_,
    fun w hfn ho hst => ?_, fun w hfn ho hoff hw h => ?_, fun w hfn ho hon => ?_, fun w cells hfn ho hoff h => ?_,
    fun w cells hoff hwait h => ?_, fun owner => ?_⟩
  · exact sqEnable_starts hs hp hq hfn ho hst h
  · exact sqEnable_rejected hs hp hq hfn ho hst h
  · exact sqEnable_other w cells hs hp hq hfn h ho
  · exact sqDisable_row w hs hp hq hfn ho hst
  · exact cqEnable_row hs hp hq hfn ho hoff hw h
  · exact cqDisable_row w hs hp hq hfn ho hon
  · exact errRingEnable_part hs hp hfn ho hoff h
  · exact errRingEnable_module hs hoff hwait h
  · exact ownerWrite_row p owner hs

end Sys2Proof.Machine
end

section
/-! PROOF. Requests of resets: the resets that begin, and those refused. -/

namespace Sys2Proof.Machine

theorem exec_partitionResetRequest (p : Nat) (s : State) :
    exec (.partitionResetRequest p) s = early (·.requestReset 3 p false false) s := rfl
theorem exec_partitionReset (p : Nat) (s : State) : exec (.partitionReset p) s = early (·.requestReset 3 p true false) s := rfl
theorem exec_vfFlr (p : Nat) (s : State) :
    exec (.vfFlr (p + 1)) s = live (fun d => if 1 ≤ p + 1 ∧ p + 1 ≤ d.vfs then d.requestReset 3 p false true else d) s := rfl
theorem exec_computeReset (s : State) : exec .computeReset s = early (·.requestReset 4 0 true false) s := rfl
theorem exec_pfReset (s : State) : exec .pfReset s = live (fun d => { d.requestReset 4 0 false true with vfs := 0 }) s := rfl
theorem exec_coreReset (c : Nat) (s : State) : exec (.coreReset c) s = early (·.requestReset 1 c true false) s := rfl
theorem exec_clusterReset (c : Nat) (s : State) : exec (.clusterReset c) s = early (·.requestReset 2 c true false) s := rfl
theorem exec_deviceReset (s : State) : exec .deviceReset s = early (·.requestDevice) s := rfl

/-! ### CTX_RESET and CTX_PART_STATUS -/

theorem Device.onlyRegs_showReset (d : Device) (byReg busy : Bool) (result : Nat) : d.OnlyRegs (d.showReset byReg busy result) := by
  unfold Device.showReset
  split
  · exact ((OnlyRegs.refl d).setFld _ _ _).setFld _ _ _
  · exact .refl d

theorem Device.sameRegs_showReset (d : Device) (byReg busy : Bool) (result : Nat) : d.sameRegs (d.showReset byReg busy result) [.ctxReset] := by
  unfold Device.showReset
  split
  · exact (d.sameRegs_setFld _ _ _ List.mem_cons_self).trans (Device.sameRegs_setFld _ _ _ _ List.mem_cons_self)
  · exact .refl d _

/-- R425: what CTX_RESET shows of a request by it. -/
theorem Device.showReset_shows (d : Device) (busy : Bool) {result : Nat} (h : result < 16) :
    (d.showReset true busy result).flag .ctxReset Fd.ctxResetBusy = busy ∧ (d.showReset true busy result).fld .ctxReset Fd.ctxResetResult = result := by
  unfold Device.showReset
  rw [if_pos rfl]
  constructor
  · rw [Device.flag, Device.fld_setFld_apart _ _ _ (by decide), Device.fld_setFld_self _ _ _ _ rfl (by decide) (by decide)]
    cases busy <;> rfl
  · rw [Device.fld_setFld_self _ _ _ _ rfl (by decide) (by decide)]
    exact Nat.mod_eq_of_lt h

/-- STATE of the partitions of a list set. -/
def Device.ctxSetAll (d : Device) (l : List Nat) (v : Nat) : Device := l.foldl (fun d p => d.ctxSet p v) d

theorem Device.ctxSetAll_nil (d : Device) (v : Nat) : d.ctxSetAll [] v = d := List.foldl_nil ..
theorem Device.ctxSetAll_cons (d : Device) (p : Nat) (l : List Nat) (v : Nat) : d.ctxSetAll (p :: l) v = (d.ctxSet p v).ctxSetAll l v :=
  List.foldl_cons ..

theorem Device.onlyRegs_ctxSetAll (d : Device) (l : List Nat) (v : Nat) : d.OnlyRegs (d.ctxSetAll l v) := by
  induction l generalizing d with
  | nil => exact .refl d
  | cons p l ih => exact (d.onlyRegs_setReg _ _).trans (ih _)

theorem Device.ctxState_ctxSet (d : Device) {p : Nat} (q : Nat) {v : Nat} (hp : p < 8) (hv : v < 16) :
    (d.ctxSet q v).ctxState p = if p = q then v else d.ctxState p := by
  by_cases h : p = q
  · subst h
    rw [if_pos rfl, Device.ctxState, Device.ctxSet, Device.fld_setFld_self _ _ _ _ (by simpa [Reg.inRange] using hp) (by decide) (by decide)]
    exact Nat.mod_eq_of_lt hv
  · rw [if_neg h, Device.ctxState, Device.ctxSet, Device.fld_setFld_ne _ _ _ _ _ _ (by simp only [Reg.offset]; omega)]
    rfl

theorem Device.ctxState_ctxSetAll (d : Device) {p : Nat} (l : List Nat) {v : Nat} (hp : p < 8) (hv : v < 16) :
    (d.ctxSetAll l v).ctxState p = if p ∈ l then v else d.ctxState p := by
  induction l generalizing d with
  | nil => rfl
  | cons q l ih =>
    rw [Device.ctxSetAll_cons, ih, Device.ctxState_ctxSet _ _ hp hv]
    by_cases hm : p ∈ l
    · simp [hm]
    · simp [hm]

theorem Device.fld_ctxSetAll (d : Device) (l : List Nat) (v : Nat) {r : Reg} (f : RegField) (h : ∀ p, r.offset ≠ (Reg.ctxPartStatus p).offset) :
    (d.ctxSetAll l v).fld r f = d.fld r f := by
  induction l generalizing d with
  | nil => rfl
  | cons p l ih => exact (ih _).trans (Device.fld_setFld_ne _ _ _ _ _ _ (h p))

/-- R425: RESETTING of HIF_PART_STATUS shows the state of the partition. -/
theorem Device.resetting_view (d : Device) {p : Nat} (h : d.ctxState p = 5) : fieldOf (d.regView (.hifPartStatus p)).1 0 0 = 1 := by
  change fieldOf (withField (withField (withField (d.reg (.hifPartStatus p)) 2 2 (ofBool (d.formed p))) 1 1 (ofBool (d.partActive p))) 0 0
    (ofBool (d.ctxState p == 5))) 0 0 = 1
  rw [fieldOf_withField_self _ _ _ _ (by decide) (by decide), h]
  rfl

/-! ### A reset begins -/

/-- R421, R425: the run of a reset that a request begins. -/
def resetRun (scope target : Nat) (byReg byFn : Bool) : ResetRun :=
  { scope := scope, target := target, byReg := byReg, pf := byFn && scope == 4, flr := if byFn ∧ scope = 3 then [target] else [] }

/-- R423: a request where no reset runs begins one. -/
theorem Device.requestReset_begins {d : Device} {scope target : Nat} (byReg byFn : Bool) (hr : d.ready = true)
    (hv : d.targetValid scope target = true) (h : d.resets = []) :
    d.requestReset scope target byReg byFn = (d.showReset byReg true 1).beginReset (resetRun scope target byReg byFn) := by
  have hresets : (d.showReset byReg true 1).resets = [] := (congrArg Device.resets (d.onlyRegs_showReset byReg true 1) :).trans h
  unfold Device.requestReset
  dsimp only
  rw [hr, hv, hresets, if_neg (by decide), if_neg (by decide), if_neg (by simp)]
  rfl

/-- R425: a request for a target that does not exist. -/
theorem Device.requestReset_refused {d : Device} {scope target : Nat} (hr : d.ready = true) (hv : d.targetValid scope target = false) :
    d.requestReset scope target true false = d.showReset true (d.flag .ctxReset Fd.ctxResetBusy) 4 := by
  unfold Device.requestReset
  dsimp only
  rw [hr, hv, if_neg (by decide), if_pos (by decide)]
  rfl

theorem Device.part_ctxSet (d : Device) (q v p : Nat) : (d.ctxSet q v).part p = d.part p := by
  rw [Device.part, Device.part, Device.ctxSet, Device.setFld_parts]

theorem Device.endSwitch_none {d : Device} {p : Nat} (h : (d.part p).switch = none) : d.endSwitch p = d := by
  unfold Device.endSwitch
  rw [h]

theorem Device.endSwitches_none (l : List Nat) {d : Device} (h : ∀ p ∈ l, (d.part p).switch = none) :
    l.foldl (fun (d : Device) p => (d.endSwitch p).ctxSet p 5) d = d.ctxSetAll l 5 := by
  induction l generalizing d with
  | nil => exact (List.foldl_nil ..).trans (d.ctxSetAll_nil 5).symm
  | cons p l ih =>
    have hp : (d.endSwitch p).ctxSet p 5 = d.ctxSet p 5 := congrArg (·.ctxSet p 5) (Device.endSwitch_none (h p List.mem_cons_self))
    have hl : ∀ q ∈ l, ((d.ctxSet p 5).part q).switch = none := fun q hq =>
      (congrArg Part.switch (d.part_ctxSet p 5 q)).trans (h q (List.mem_cons_of_mem _ hq))
    calc (p :: l).foldl (fun (d : Device) p => (d.endSwitch p).ctxSet p 5) d
        = l.foldl (fun (d : Device) p => (d.endSwitch p).ctxSet p 5) ((d.endSwitch p).ctxSet p 5) := List.foldl_cons ..
      _ = l.foldl (fun (d : Device) p => (d.endSwitch p).ctxSet p 5) (d.ctxSet p 5) := by rw [hp]
      _ = (d.ctxSet p 5).ctxSetAll l 5 := ih hl
      _ = d.ctxSetAll (p :: l) 5 := (d.ctxSetAll_cons p l 5).symm

/-- R423: where no save or restore of its partitions runs, a reset ends none. -/
theorem Device.ended_none {d : Device} {l : List Nat} (hs : ∀ p ∈ l, (d.part p).switch = none) :
    l.filter (fun p => (d.part p).switch.isSome) = [] :=
  List.filter_eq_nil_iff.2 fun p hp => by rw [hs p hp]; exact Bool.false_ne_true

/-- R422: a partition or compute reset begins where no save or restore of its partitions runs. -/
theorem Device.beginReset_parts {d : Device} {r : ResetRun} (hr : 3 ≤ r.scope) (hend : r.ended = [])
    (hs : ∀ p ∈ d.resetParts r.scope r.target, (d.part p).switch = none) :
    d.beginReset r = { d.ctxSetAll (d.resetParts r.scope r.target) 5 with resets := d.resets ++ [r] } := by
  have hresets : (d.ctxSetAll (d.resetParts r.scope r.target) 5).resets = d.resets := (congrArg Device.resets (d.onlyRegs_ctxSetAll _ _) :)
  obtain ⟨scope, target, byReg, pf, flr, absorbed, ended⟩ := r
  dsimp only at hr hend hs hresets ⊢
  subst hend
  unfold Device.beginReset
  dsimp only
  rw [Device.ended_none hs, Device.endSwitches_none _ hs, if_pos hr, hresets]

/-- R422: a core or cluster reset begins where its partition is ACTIVE. -/
theorem Device.beginReset_cores {d : Device} {r : ResetRun} (hr : r.scope < 3) (hend : r.ended = [])
    (hs : d.ctxState (d.scopePart r.scope r.target) = 1) : d.beginReset r = { d with resets := d.resets ++ [r] } := by
  obtain ⟨scope, target, byReg, pf, flr, absorbed, ended⟩ := r
  dsimp only at hr hend hs ⊢
  subst hend
  have hparts : d.resetParts scope target = [] := by
    unfold Device.resetParts
    rw [if_neg (by omega), if_neg (by omega)]
  unfold Device.beginReset
  dsimp only
  rw [hparts, List.filter_nil, List.foldl_nil, if_neg (by omega), hs, if_neg (by decide), if_neg (by decide)]

/-! ### Partition resets -/

theorem Device.onlyRegs_fields {d e : Device} (h : d.OnlyRegs e) : e.mem = d.mem ∧ e.queues = d.queues ∧ e.flowDone = d.flowDone ∧
    e.cores = d.cores ∧ e.vfs = d.vfs ∧ e.layout = d.layout ∧ e.parts = d.parts ∧ e.resets = d.resets :=
  ⟨(congrArg Device.mem h :), (congrArg Device.queues h :), (congrArg Device.flowDone h :), (congrArg Device.cores h :),
    (congrArg Device.vfs h :), (congrArg Device.layout h :), (congrArg Device.parts h :), (congrArg Device.resets h :)⟩

/-- R421, R425: e is d with a partition or compute reset of the partitions of a list begun. -/
structure Device.Begun (d e : Device) (l : List Nat) (byReg : Bool) (r : ResetRun) : Prop where
  state : ∀ p ∈ l, p < 8 → e.ctxState p = 5
  resets : e.resets = [r]
  mem : e.mem = d.mem
  queues : e.queues = d.queues
  vfs : e.vfs = d.vfs
  flowDone : e.flowDone = d.flowDone
  shown : byReg = true → e.flag .ctxReset Fd.ctxResetBusy = true ∧ e.fld .ctxReset Fd.ctxResetResult = 1

theorem Device.requestReset_parts {d : Device} {scope target : Nat} (byReg byFn : Bool) (hr : d.ready = true)
    (hv : d.targetValid scope target = true) (h : d.resets = []) (hscope : 3 ≤ scope)
    (hs : ∀ p ∈ d.resetParts scope target, (d.part p).switch = none) :
    d.Begun (d.requestReset scope target byReg byFn) (d.resetParts scope target) byReg (resetRun scope target byReg byFn) := by
  have hshow := d.onlyRegs_showReset byReg true 1
  obtain ⟨hmem, hqueues, hflow, -, hvfs, hlayout, hparts, hresets⟩ := Device.onlyRegs_fields hshow
  have hsame : (d.showReset byReg true 1).resetParts scope target = d.resetParts scope target := by
    simp only [Device.resetParts, Device.formedParts, show (d.showReset byReg true 1).formed = d.formed from
      funext fun p => by rw [Device.formed, Device.formed, hlayout]]
  have hpart : ∀ p ∈ (d.showReset byReg true 1).resetParts scope target, ((d.showReset byReg true 1).part p).switch = none := by
    intro p hp
    rw [Device.part, hparts]
    exact hs p (hsame ▸ hp)
  rw [Device.requestReset_begins byReg byFn hr hv h, Device.beginReset_parts (r := resetRun scope target byReg byFn) hscope rfl hpart]
  change d.Begun { (d.showReset byReg true 1).ctxSetAll ((d.showReset byReg true 1).resetParts scope target) 5 with
    resets := (d.showReset byReg true 1).resets ++ [resetRun scope target byReg byFn] } _ _ _
  rw [hsame, hresets, h]
  obtain ⟨hmem', hqueues', hflow', -, hvfs', -, -, -⟩ :=
    Device.onlyRegs_fields ((d.showReset byReg true 1).onlyRegs_ctxSetAll (d.resetParts scope target) 5)
  exact {
    state := fun p hp hp8 => ((d.showReset byReg true 1).ctxState_ctxSetAll _ hp8 (by decide)).trans (if_pos hp)
    resets := rfl
    mem := hmem'.trans hmem
    queues := hqueues'.trans hqueues
    vfs := hvfs'.trans hvfs
    flowDone := hflow'.trans hflow
    shown := fun hb => by
      subst hb
      have hreg (f : RegField) : ((d.showReset true true 1).ctxSetAll (d.resetParts scope target) 5).fld .ctxReset f =
        (d.showReset true true 1).fld .ctxReset f := Device.fld_ctxSetAll _ _ _ f (fun p => by simp only [Reg.offset]; omega)
      obtain ⟨hbusy, hres⟩ := d.showReset_shows true (result := 1) (by decide)
      exact ⟨(congrArg (· == 1) (hreg _)).trans hbusy, (hreg _).trans hres⟩ }

end Sys2Proof.Machine
end

section
/-! PROOF. The rows of reset requests. -/

namespace Sys2Proof.Machine

/-! ### Partition and compute resets -/

theorem State.running_of_inService {s : State} (h : s.inService = true) : s.running = true := ((Bool.and_eq_true _ _).mp h).1

theorem resetRun_part (p : Nat) (byReg byFn : Bool) :
    resetRun 3 p byReg byFn = { scope := 3, target := p, byReg := byReg, flr := if byFn then [p] else [] } := by
  cases byFn <;> rfl

theorem Device.requestReset_part {d : Device} {p : Nat} (byReg byFn : Bool) (hr : d.ready = true) (hp : p < 8) (hf : d.formed p = true)
    (h : d.resets = []) (hs : (d.part p).switch = none) :
    d.Begun (d.requestReset 3 p byReg byFn) [p] byReg (resetRun 3 p byReg byFn) := by
  have hv : d.targetValid 3 p = true := by
    change (decide (p < 8) && d.formed p) = true
    rw [decide_eq_true hp, hf]
    rfl
  have hparts : d.resetParts 3 p = [p] := rfl
  have hnone : ∀ q ∈ d.resetParts 3 p, (d.part q).switch = none := fun q hq => by
    obtain rfl : q = p := List.mem_singleton.1 hq
    exact hs
  exact hparts ▸ Device.requestReset_parts byReg byFn hr hv h (by decide) hnone

/-- What a row shows after which a partition reset has begun. -/
theorem begun_row {s : State} {i : Instr} {e : Device} {p : Nat} {byReg byFn : Bool} (hp : p < 8)
    (hi : exec i s = .next { s with dev := e }) (h : s.quiet.dev.Begun e [p] byReg (resetRun 3 p byReg byFn)) : ∃ t : State,
    exec i s = .next t ∧ t.pending = s.pending ∧ t.dev.ctxState p = 5 ∧ fieldOf (t.dev.regView (.hifPartStatus p)).1 0 0 = 1 ∧
      t.dev.resets = [{ scope := 3, target := p, byReg := byReg, flr := if byFn then [p] else [] }] ∧ t.dev.mem = s.dev.mem ∧
      t.dev.queues = s.dev.queues ∧ (byReg = true → t.dev.flag .ctxReset Fd.ctxResetBusy = true ∧ t.dev.fld .ctxReset Fd.ctxResetResult = 1) :=
  have hstate : e.ctxState p = 5 := h.state p List.mem_cons_self hp
  ⟨_, hi, rfl, hstate, e.resetting_view hstate, h.resets.trans (congrArg (fun r => [r]) (resetRun_part p byReg byFn)), h.mem, h.queues, h.shown⟩

theorem Device.requestReset_compute {d : Device} (byReg byFn : Bool) (hr : d.ready = true) (h : d.resets = [])
    (hs : d.formedParts.all (fun p => (d.part p).switch.isNone) = true) :
    d.Begun (d.requestReset 4 0 byReg byFn) d.formedParts byReg (resetRun 4 0 byReg byFn) := by
  have hnone : ∀ q ∈ d.resetParts 4 0, (d.part q).switch = none := fun q hq => Option.isNone_iff_eq_none.1 (List.all_eq_true.1 hs q hq)
  exact Device.requestReset_parts (scope := 4) (target := 0) byReg byFn hr rfl h (by decide) hnone

theorem Device.formedParts_lt {d : Device} {p : Nat} (h : p ∈ d.formedParts) : p < 8 := List.mem_range.1 (List.mem_filter.1 h).1

theorem computeReset_row {s : State} (hs : s.inService = true) (ha : s.answering = true) (h : s.dev.resets = [])
    (hsw : s.dev.formedParts.all (fun p => (s.dev.part p).switch.isNone) = true) : ∃ t : State,
    exec .computeReset s = .next t ∧ t.pending = s.pending ∧ (∀ p ∈ s.dev.formedParts, t.dev.ctxState p = 5) ∧
      t.dev.resets = [{ scope := 4, target := 0, byReg := true, pf := false }] ∧ t.dev.vfs = s.dev.vfs ∧ t.dev.mem = s.dev.mem ∧
      t.dev.queues = s.dev.queues :=
  have b := Device.requestReset_compute (d := s.quiet.dev) true false (State.inService_parts hs).2.2 h hsw
  ⟨_, early_row ha (exec_computeReset s) rfl b.flowDone, rfl, fun p hp => b.state p hp (Device.formedParts_lt hp), b.resets, b.vfs, b.mem, b.queues⟩

theorem pfReset_row {s : State} (hs : s.inService = true) (h : s.dev.resets = [])
    (hsw : s.dev.formedParts.all (fun p => (s.dev.part p).switch.isNone) = true) : ∃ t : State,
    exec .pfReset s = .next t ∧ t.pending = s.pending ∧ (∀ p ∈ s.dev.formedParts, t.dev.ctxState p = 5) ∧
      t.dev.resets = [{ scope := 4, target := 0, byReg := false, pf := true }] ∧ t.dev.vfs = 0 ∧ t.dev.mem = s.dev.mem ∧
      t.dev.queues = s.dev.queues :=
  have b := Device.requestReset_compute (d := s.quiet.dev) false true (State.inService_parts hs).2.2 h hsw
  ⟨_, live_row (State.running_of_inService hs) (exec_pfReset s) rfl b.flowDone, rfl, fun p hp => b.state p hp (Device.formedParts_lt hp),
    b.resets, rfl, b.mem, b.queues⟩

/-! ### Core and cluster resets -/

theorem ctxPartStatus_ne_ctxReset (p : Nat) : (Reg.ctxPartStatus p).offset ∉ [Reg.ctxReset].map Reg.offset := fun hm => by
  have := List.mem_singleton.1 hm
  simp only [Reg.offset] at this
  omega

theorem Device.ctxState_showReset (d : Device) (byReg busy : Bool) (result p : Nat) :
    (d.showReset byReg busy result).ctxState p = d.ctxState p :=
  (d.sameRegs_showReset byReg busy result).fld (ctxPartStatus_ne_ctxReset p) Fd.ctxPartStatusState

theorem Device.scopePart_showReset (d : Device) (byReg busy : Bool) (result scope target : Nat) :
    (d.showReset byReg busy result).scopePart scope target = d.scopePart scope target := by
  obtain ⟨-, -, -, -, -, hlayout, -, -⟩ := Device.onlyRegs_fields (d.onlyRegs_showReset byReg busy result)
  rw [Device.scopePart, Device.scopePart, Device.corePart, Device.corePart, hlayout]

theorem resetRun_cores {scope : Nat} (target : Nat) (byReg : Bool) :
    resetRun scope target byReg false = { scope := scope, target := target, byReg := byReg } := by
  simp only [resetRun, Bool.false_and, Bool.false_eq_true, false_and, if_false]

theorem Device.requestReset_core_begins {d : Device} {scope target : Nat} (hr : d.ready = true) (hscope : scope < 3)
    (hv : d.targetValid scope target = true) (h : d.resets = []) (hst : d.ctxState (d.scopePart scope target) = 1) :
    d.requestReset scope target true false = { d.showReset true true 1 with resets := [{ scope := scope, target := target, byReg := true }] } := by
  obtain ⟨-, -, -, -, -, -, -, hresets⟩ := Device.onlyRegs_fields (d.onlyRegs_showReset true true 1)
  have hstate : (d.showReset true true 1).ctxState ((d.showReset true true 1).scopePart scope target) = 1 := by
    rw [Device.scopePart_showReset, Device.ctxState_showReset]
    exact hst
  have hlist : (d.showReset true true 1).resets ++ [resetRun scope target true false] = [{ scope := scope, target := target, byReg := true }] := by
    rw [hresets, h, resetRun_cores]
    rfl
  exact ((Device.requestReset_begins true false hr hv h).trans (Device.beginReset_cores (r := resetRun scope target true false) hscope rfl
    hstate)).trans (congrArg (fun l => ({ d.showReset true true 1 with resets := l } : Device)) hlist)

theorem Device.withResets_keeps {d x : Device} (l : List ResetRun) (hbusy : x.flag .ctxReset Fd.ctxResetBusy = true)
    (hcores : x.cores = d.cores) (hmem : x.mem = d.mem) (hflow : x.flowDone = d.flowDone) :
    ({ x with resets := l } : Device).resets = l ∧ ({ x with resets := l } : Device).flag .ctxReset Fd.ctxResetBusy = true ∧
      ({ x with resets := l } : Device).cores = d.cores ∧ ({ x with resets := l } : Device).mem = d.mem ∧
      ({ x with resets := l } : Device).flowDone = d.flowDone := ⟨rfl, hbusy, hcores, hmem, hflow⟩

/-- R421, R425: a core or cluster reset begins by CTX_RESET. -/
theorem Device.requestReset_cores {d : Device} {scope target : Nat} (hr : d.ready = true) (hscope : scope < 3)
    (hv : d.targetValid scope target = true) (h : d.resets = []) (hst : d.ctxState (d.scopePart scope target) = 1) : ∃ e : Device,
    d.requestReset scope target true false = e ∧ e.resets = [{ scope := scope, target := target, byReg := true }] ∧
      e.flag .ctxReset Fd.ctxResetBusy = true ∧ e.cores = d.cores ∧ e.mem = d.mem ∧ e.flowDone = d.flowDone := by
  obtain ⟨hmem, -, hflow, hcores, -, -, -, -⟩ := Device.onlyRegs_fields (d.onlyRegs_showReset true true 1)
  have hbusy := (d.showReset_shows true (result := 1) (by decide)).1
  have hbegin := Device.requestReset_core_begins hr hscope hv h hst
  exact ⟨_, hbegin, Device.withResets_keeps _ hbusy hcores hmem hflow⟩

theorem coreReset_row {s : State} {c : Nat} (hs : s.inService = true) (ha : s.answering = true) (h : s.dev.resets = []) (hc : c < 256)
    (hf : s.dev.formed (s.dev.corePart c) = true) (hst : s.dev.ctxState (s.dev.corePart c) = 1) : ∃ t : State,
    exec (.coreReset c) s = .next t ∧ t.pending = s.pending ∧ t.dev.resets = [{ scope := 1, target := c, byReg := true }] ∧
      t.dev.flag .ctxReset Fd.ctxResetBusy = true ∧ t.dev.cores = s.dev.cores ∧ t.dev.mem = s.dev.mem := by
  have hv : s.quiet.dev.targetValid 1 c = true := by
    change (decide (c < 256) && s.dev.formed (s.dev.corePart c)) = true
    rw [decide_eq_true hc, hf]
    rfl
  obtain ⟨e, he, hresets, hbusy, hcores, hmem, hflow⟩ := Device.requestReset_cores (d := s.quiet.dev) (State.inService_parts hs).2.2 (by decide) hv h hst
  exact ⟨_, early_row ha (exec_coreReset c s) he hflow, rfl, hresets, hbusy, hcores, hmem⟩

theorem clusterReset_row {s : State} {c : Nat} (hs : s.inService = true) (ha : s.answering = true) (h : s.dev.resets = []) (hc : c < 32)
    (hf : s.dev.formed (SMap.at' 0xFF s.dev.layout c) = true) (hst : s.dev.ctxState (SMap.at' 0xFF s.dev.layout c) = 1) : ∃ t : State,
    exec (.clusterReset c) s = .next t ∧ t.pending = s.pending ∧ t.dev.resets = [{ scope := 2, target := c, byReg := true }] ∧
      t.dev.flag .ctxReset Fd.ctxResetBusy = true ∧ t.dev.cores = s.dev.cores ∧ t.dev.mem = s.dev.mem := by
  have hv : s.quiet.dev.targetValid 2 c = true := by
    change (decide (c < 32) && s.dev.formed (SMap.at' 0xFF s.dev.layout c)) = true
    rw [decide_eq_true hc, hf]
    rfl
  obtain ⟨e, he, hresets, hbusy, hcores, hmem, hflow⟩ := Device.requestReset_cores (d := s.quiet.dev) (State.inService_parts hs).2.2 (by decide) hv h hst
  exact ⟨_, early_row ha (exec_clusterReset c s) he hflow, rfl, hresets, hbusy, hcores, hmem⟩

/-! ### A request that is refused, and a device reset -/

theorem partitionReset_refused {s : State} {p : Nat} (hs : s.inService = true) (ha : s.answering = true) (h : s.dev.resets = [])
    (hf : s.dev.formed p = false) : ∃ t : State, exec (.partitionReset p) s = .next t ∧ t.pending = s.pending ∧
      t.dev.fld .ctxReset Fd.ctxResetResult = 4 ∧ t.dev.resets = [] ∧ s.dev.sameRegs t.dev [.ctxReset] ∧ s.dev.sameButRegs t.dev := by
  have hv : s.quiet.dev.targetValid 3 p = false := by
    change (decide (p < 8) && s.dev.formed p) = false
    rw [hf, Bool.and_false]
  have hrow := Device.requestReset_refused (d := s.quiet.dev) (scope := 3) (target := p) (State.inService_parts hs).2.2 hv
  have hframe := s.quiet.dev.onlyRegs_showReset true (s.quiet.dev.flag .ctxReset Fd.ctxResetBusy) 4
  obtain ⟨-, -, hflow, -, -, -, -, hresets⟩ := Device.onlyRegs_fields hframe
  exact ⟨_, early_row ha (exec_partitionReset p s) hrow hflow, rfl, (s.quiet.dev.showReset_shows _ (by decide)).2, hresets.trans h,
    s.quiet.dev.sameRegs_showReset _ _ _, (congrArg (fun e : Device => ({ e with regs := s.dev.regs, out := s.dev.out } : Device)) hframe :)⟩

theorem Device.cleared_side (d : Device) : d.cleared.side = [] :=
  d.cleared_keeps Device.side (fun _ _ _ _ => by simp) (fun h => (congrArg Device.side h.frame :)) (fun _ _ => rfl) (fun _ _ => rfl)

/-- R421: what a device reset leaves, whether bring-up starts or is held. -/
theorem Device.deviceReset_spec (d : Device) : d.deviceReset.ready = false ∧ d.deviceReset.mem = [] ∧ d.deviceReset.side = [] ∧
    d.deviceReset.queues = [] ∧ d.deviceReset.flash = d.flash.interrupted ∧ d.deviceReset.flowDone = [] := by
  unfold Device.deviceReset Device.startUp
  split
  · have hone : 1 = 2 → ({ d.cleared with now := 0 } : Device).boot.pushFirst = false := fun h => absurd h (by decide)
    have w := Device.within_beginStage ({ d.cleared with now := 0 } : Device) 1 hone
    refine ⟨?_, w.mem.trans d.cleared_mem, w.side.trans d.cleared_side, (congrArg Device.queues w.frame :).trans d.cleared_queues,
      w.flash.trans d.cleared_flash, w.flowDone.trans d.cleared_flowDone⟩
    rw [Device.ready, (Device.beginStage_status _ 1 (by decide) hone).2]
    rfl
  · exact ⟨d.cleared_ready, d.cleared_mem, d.cleared_side, d.cleared_queues, d.cleared_flash, d.cleared_flowDone⟩

theorem deviceReset_row {s : State} (hs : s.inService = true) (ha : s.answering = true) : ∃ t : State,
    exec .deviceReset s = .next t ∧ t.pending = s.pending ∧ t.dev.ready = false ∧ t.dev.mem = [] ∧ t.dev.side = [] ∧
      t.dev.queues = [] ∧ t.dev.flash = s.dev.flash.interrupted := by
  obtain ⟨hready, hmem, hside, hqueues, hflash, hflow⟩ := s.quiet.dev.deviceReset_spec
  obtain ⟨-, hnone, hr⟩ := State.inService_parts hs
  exact ⟨_, early_row ha (exec_deviceReset s) (if_pos hr) (hflow.trans hnone.symm), rfl, hready, hmem, hside, hqueues, hflash⟩

/-- R421 to R423: the rows of requests where no reset runs. -/
theorem resetRequests_begin {s : State} (hs : s.inService = true) (ha : s.answering = true) (h : s.dev.resets = []) {p : Nat} (hp : p < 8)
    (hf : s.dev.formed p = true) (hsw : (s.dev.part p).switch = none) :
    let begun := fun (i : Instr) (byReg byFn : Bool) => ∃ t : State, exec i s = .next t ∧ t.pending = s.pending ∧
      t.dev.ctxState p = 5 ∧ fieldOf (t.dev.regView (.hifPartStatus p)).1 0 0 = 1 ∧
      t.dev.resets = [{ scope := 3, target := p, byReg := byReg, flr := if byFn then [p] else [] }] ∧ t.dev.mem = s.dev.mem ∧
      t.dev.queues = s.dev.queues ∧ (byReg = true → t.dev.flag .ctxReset Fd.ctxResetBusy = true ∧ t.dev.fld .ctxReset Fd.ctxResetResult = 1)
    begun (.partitionResetRequest p) false false ∧ begun (.partitionReset p) true false ∧ (p + 1 ≤ s.dev.vfs → begun (.vfFlr (p + 1)) false true) := by
  have b (byReg byFn : Bool) := Device.requestReset_part (d := s.quiet.dev) byReg byFn (State.inService_parts hs).2.2 hp hf h hsw
  refine ⟨?_, ?_, fun hv => ?_⟩
  · exact begun_row hp (early_row ha (exec_partitionResetRequest p s) rfl (b false false).flowDone) (b false false)
  · exact begun_row hp (early_row ha (exec_partitionReset p s) rfl (b true false).flowDone) (b true false)
  · exact begun_row hp (live_row (State.running_of_inService hs) (exec_vfFlr p s) (if_pos ⟨Nat.succ_pos p, hv⟩) (b false true).flowDone) (b false true)

end Sys2Proof.Machine
end

section
/-! PROOF. What the clearing of a partition leaves alone: memory, the resets that run, cores, queues, and rings that are DISABLED. -/

namespace Sys2Proof.Machine

/-! ### What is looked at -/

/-- The parts of a device that no clearing of a partition or a core changes. -/
structure Spine where
  mem : SMap Byte
  mgmt : Mgmt
  resets : List ResetRun
  layout : SMap Nat
  flowDone : List (Nat × Word)

def Device.spine (d : Device) : Spine := ⟨d.mem, d.mgmt, d.resets, d.layout, d.flowDone⟩

/-- The states of the submission rings. -/
def Device.sqStates (d : Device) (p : Fin 8) (q : Fin 64) : Nat := d.sqState p q

/-- What most of the clearing leaves alone. -/
def Device.whole (d : Device) : Spine × SMap (List Cmd) × SMap Core × (Fin 8 → Fin 64 → Nat) := (d.spine, d.queues, d.cores, d.sqStates)

/-- r is no status register of a submission ring. -/
def Reg.NotSq (r : Reg) : Prop := ∀ p, p < 8 → ∀ q, q < 64 → (Reg.hifSqStatus p q).offset ≠ r.offset

theorem Device.spine_setReg (d : Device) (r : Reg) (w : Word) : (d.setReg r w).spine = d.spine :=
  (congrArg Device.spine (d.onlyRegs_setReg r w) :)

theorem Device.whole_setReg (d : Device) {r : Reg} (w : Word) (h : r.NotSq) : (d.setReg r w).whole = d.whole := by
  have hsq : (d.setReg r w).sqStates = d.sqStates := funext fun p => funext fun q =>
    Device.fld_setReg_ne _ _ _ _ _ (h p p.isLt q q.isLt)
  rw [Device.whole, Device.whole, Device.spine_setReg, Device.setReg_queues, Device.setReg_cores, hsq]

theorem Device.whole_setFld (d : Device) {r : Reg} (f : RegField) (v : Nat) (h : r.NotSq) : (d.setFld r f v).whole = d.whole :=
  d.whole_setReg _ h

theorem Device.whole_of_logSame {d e : Device} (h : d.LogSame e) : e.whole = d.whole := by
  have hsq : e.sqStates = d.sqStates := funext fun p => funext fun q =>
    congrArg (fieldOf · 35 32) (h.regs _ (sqStatus_not_logged p.isLt q.isLt))
  have hspine : e.spine = d.spine := (congrArg Device.spine h.frame :)
  have hqueues : e.queues = d.queues := (congrArg Device.queues h.frame :)
  have hcores : e.cores = d.cores := (congrArg Device.cores h.frame :)
  rw [Device.whole, Device.whole, hspine, hqueues, hcores, hsq]

theorem lnkPortTraffic_notSq {n : Nat} (h : n < 28) : (Reg.lnkPortTraffic n).NotSq := fun p hp q hq => by
  simp only [Reg.offset]
  omega

/-- Sending leaves all of it alone. -/
theorem sendBlind_whole : SendBlind Device.whole where
  port _ _ _ := rfl
  emit _ _ := rfl
  wait _ _ := rfl
  traffic d n f v := by
    by_cases h : n < 28
    · exact d.whole_setFld f v (lnkPortTraffic_notSq h)
    · rw [Device.setFld, Device.setReg_out_of_range]
      simpa [Reg.inRange] using h

/-! ### What the clearing of a partition's remainder leaves alone -/

/-- e has the memory, resets, queues and cores of d, and a ring that is DISABLED in d is DISABLED in e. -/
structure Device.RestSame (d e : Device) : Prop where
  spine : e.spine = d.spine
  queues : e.queues = d.queues
  cores : e.cores = d.cores
  sq : ∀ p, p < 8 → ∀ q, q < 64 → d.sqState p q = 0 → e.sqState p q = 0

namespace Device.RestSame

variable {d e f : Device}

theorem refl (d : Device) : d.RestSame d := ⟨rfl, rfl, rfl, fun _ _ _ _ h => h⟩

theorem trans (h : d.RestSame e) (g : e.RestSame f) : d.RestSame f where
  spine := g.spine.trans h.spine
  queues := g.queues.trans h.queues
  cores := g.cores.trans h.cores
  sq p hp q hq hz := g.sq p hp q hq (h.sq p hp q hq hz)

theorem of_whole (h : e.whole = d.whole) : d.RestSame e where
  spine := congrArg (·.1) h
  queues := congrArg (·.2.1) h
  cores := congrArg (·.2.2.1) h
  sq p hp q hq hz := (congrFun (congrFun (congrArg (·.2.2.2) h) ⟨p, hp⟩) ⟨q, hq⟩).trans hz

theorem of_logSame (h : d.LogSame e) : d.RestSame e := of_whole (Device.whole_of_logSame h)

theorem setReg (h : d.RestSame e) {r : Reg} (w : Word) (hr : r.NotSq) : d.RestSame (e.setReg r w) := h.trans (of_whole (e.whole_setReg w hr))
theorem setFld (h : d.RestSame e) {r : Reg} (f : RegField) (v : Nat) (hr : r.NotSq) : d.RestSame (e.setFld r f v) := h.setReg _ hr
theorem updPart (h : d.RestSame e) (p : Nat) (f : Part → Part) : d.RestSame (e.updPart p f) := h.trans (of_whole rfl)

theorem foldl {β : Type} {f : Device → β → Device} {l : List β} (hf : ∀ (a : Device), ∀ b ∈ l, a.RestSame (f a b)) (d : Device) :
    d.RestSame (l.foldl f d) := by
  induction l generalizing d with
  | nil => exact refl d
  | cons b l ih => exact (hf d b List.mem_cons_self).trans (ih (fun a c hc => hf a c (List.mem_cons_of_mem _ hc)) _)

theorem ite {b : Prop} [Decidable b] {x y : Device} (hx : d.RestSame x) (hy : d.RestSame y) : d.RestSame (if b then x else y) := by
  split
  · exact hx
  · exact hy

end Device.RestSame

theorem resetValue_sqStatus (p q : Nat) : (Reg.hifSqStatus p q).resetValue = 0 :=
  congrArg (BitVec.ofNat 64) (show fieldsReset [Fd.hifSqStatusState, Fd.hifSqStatusConsumed] = 0 by decide)

/-- R88: a ring's status register after reset shows DISABLED. -/
theorem Device.sqState_resetWhere {d : Device} (P : Reg → Bool) {p q : Nat} (h : d.sqState p q = 0) : (d.resetWhere P).sqState p q = 0 := by
  cases hin : (Reg.hifSqStatus p q).inRange with
  | false =>
    have hreg : (d.resetWhere P).reg (.hifSqStatus p q) = 0 := by rw [Device.reg, hin, if_neg Bool.false_ne_true]
    rw [Device.sqState, Device.fld, hreg]
    rfl
  | true =>
    have hget (x : Device) : x.reg (.hifSqStatus p q) = SMap.get (fun _ => (Reg.hifSqStatus p q).resetValue) x.regs (Reg.hifSqStatus p q).offset :=
      if_pos hin
    cases hP : !((Reg.ofOffset (Reg.hifSqStatus p q).offset).any P) with
    | true =>
      have hsame : (d.resetWhere P).reg (.hifSqStatus p q) = d.reg (.hifSqStatus p q) :=
        (hget _).trans ((SMap.get_filter _ (fun o => !((Reg.ofOffset o).any P)) d.regs _ hP).trans (hget d).symm)
      rw [Device.sqState, Device.fld, hsame]
      exact h
    | false =>
      have hzero : (d.resetWhere P).reg (.hifSqStatus p q) = (Reg.hifSqStatus p q).resetValue :=
        (hget _).trans (SMap.get_filter_not _ (fun o => !((Reg.ofOffset o).any P)) d.regs _ hP)
      rw [Device.sqState, Device.fld, hzero, resetValue_sqStatus]
      rfl

theorem Device.RestSame.resetWhere {d e : Device} (h : d.RestSame e) (P : Reg → Bool) : d.RestSame (e.resetWhere P) :=
  h.trans ⟨rfl, rfl, rfl, fun _ _ _ _ hz => Device.sqState_resetWhere P hz⟩

/-! ### Groups -/

theorem Device.restSame_sendGroup (d : Device) (chip : Nat) (o : Out) : d.RestSame (d.sendGroup chip o) :=
  .of_whole (Device.sendPacket_keeps sendBlind_whole _ _ _)

theorem Device.whole_of_entriesOnly {d e : Device} (h : d.EntriesOnly e) : e.whole = d.whole :=
  (congrArg Device.whole h :)

theorem Device.restSame_dropMove (d : Device) (p : Nat) (v : Move) : d.RestSame (d.dropMove p v) := by
  unfold Device.dropMove
  dsimp only
  split
  · exact (RestSame.refl d).updPart p _
  · exact (RestSame.of_whole (Device.whole_of_entriesOnly (d.entriesOnly_dropEntries _ _ _))).updPart p _

theorem plcStats_notSq : Reg.plcStats.NotSq := fun _ _ _ _ => by simp only [Reg.offset]; omega

theorem Device.restSame_moveAbandoned (d : Device) (p h u dst : Nat) : d.RestSame (d.moveAbandoned p h u dst) := by
  have hlog : d.RestSame (d.logPlace p 0x1103 0 (d.homeDie p) 0 h u (wordOf dst)) := .of_logSame (d.logSame_log _ _)
  exact hlog.setFld Fd.plcStatsAborted _ plcStats_notSq

theorem Device.restSame_dropMoves (d : Device) (p g : Nat) : d.RestSame (d.dropMoves p g) :=
  .foldl (fun a v _ => .ite ((a.restSame_dropMove p v).trans (Device.restSame_moveAbandoned _ _ _ _ _)) (a.restSame_dropMove p v)) d

theorem lnkGroup_notSq {p g : Nat} (_hp : p < 8) (_hg : g < 64) : (Reg.lnkGroup p g).NotSq := fun _ _ _ _ => by simp only [Reg.offset]; omega

theorem Device.restSame_disband (d : Device) {p g : Nat} (hp : p < 8) (hg : g < 64) : d.RestSame (d.disband p g) := by
  have hmoves := d.restSame_dropMoves p g
  unfold Device.disband
  dsimp only
  generalize d.dropMoves p g = e at hmoves ⊢
  have hdata : e.RestSame (({ e with collData := e.collData.filter fun x => !(x.part == p && x.group == g) } : Device).setGroup p g
    { votes := (e.group p g).votes.filter fun v => v.chip != e.chip }) := .of_whole rfl
  exact (hmoves.trans hdata).setReg 0 (lnkGroup_notSq hp hg)

theorem Device.restSame_leaveGroups (d : Device) {p : Nat} (hp : p < 8) : d.RestSame (d.leaveGroups p) :=
  .foldl (fun a _ hg => .ite (.refl a)
    ((Device.RestSame.foldl (fun b c _ => b.restSame_sendGroup c _) a).trans (Device.restSame_disband _ hp (List.mem_range.1 hg)))) d

/-! ### Engines and memory -/

theorem Device.restSame_clearEngines (d : Device) (p : Nat) : d.RestSame (d.clearEngines p) :=
  ((RestSame.refl d).updPart p _).resetWhere _

theorem cisPartTop_notSq (p : Nat) : (Reg.cisPartTop p).NotSq := fun _ _ _ _ => by simp only [Reg.offset]; omega
theorem cisPartUse_notSq {die : Nat} (p : Nat) (_h : die < 4) : (Reg.cisPartUse die p).NotSq := fun _ _ _ _ => by simp only [Reg.offset]; omega

theorem Device.restSame_showCistern (d : Device) (p : Nat) : d.RestSame (d.showCistern p) := by
  unfold Device.showCistern
  dsimp only
  refine ((RestSame.refl d).setReg _ (cisPartTop_notSq p)).trans (.foldl (fun a die hd => ?_) _)
  have huse := cisPartUse_notSq p (List.mem_range.1 hd)
  exact (((RestSame.refl a).setFld _ _ huse).setFld _ _ huse).setFld _ _ huse

theorem Device.restSame_freeMemory (d : Device) (p : Nat) : d.RestSame (d.freeMemory p) := by
  unfold Device.freeMemory
  dsimp only
  have hpart (f : Part → Part) : d.RestSame (d.updPart p f) := (RestSame.refl d).updPart p f
  generalize hf : d.updPart p _ = e
  have hdir : e.RestSame { e with directory := SMap.mapAll (fun _ => []) (fun l => l.filter fun x => x.part != p) e.directory } :=
    .of_whole rfl
  exact (((hf ▸ hpart _ : d.RestSame e).trans hdir).resetWhere _).trans (Device.restSame_showCistern _ p)

/-! ### Signals -/

theorem ctxPartStatus_notSq {p : Nat} (_hp : p < 8) : (Reg.ctxPartStatus p).NotSq := fun _ _ _ _ => by simp only [Reg.offset]; omega
theorem lnkLand_notSq {die : Nat} (_h : die < 4) : (Reg.lnkLand die).NotSq := fun _ _ _ _ => by simp only [Reg.offset]; omega

theorem Device.restSame_discardHeld (d : Device) {p : Nat} (action idx : Nat) (hp : p < 8) : d.RestSame (d.discardHeld p action idx) := by
  have hlog := RestSame.of_logSame (d.logSame_logDiscarded (d.heldSignals.filter fun h => h.part == p) p action idx)
  unfold Device.discardHeld
  dsimp only
  generalize d.logDiscarded (d.heldSignals.filter fun h => h.part == p) p action idx = e at hlog ⊢
  have hheld : e.RestSame { e with heldSignals := e.heldSignals.filter fun h => h.part != p } := .of_whole rfl
  exact (hlog.trans hheld).setFld _ _ (ctxPartStatus_notSq hp)

theorem Device.restSame_setLand (d : Device) {die : Nat} (l : List LandEntry) (h : die < 4) : d.RestSame (d.setLand die l) := by
  have hland : d.RestSame { d with landing := SMap.set (fun _ => []) d.landing die l } := .of_whole rfl
  exact (hland.setFld _ _ (lnkLand_notSq h)).setFld _ _ (lnkLand_notSq h)

theorem Device.restSame_refuseHeld (d : Device) (hit : Nat → Bool) : d.RestSame (d.refuseHeld hit) := by
  refine .foldl (fun a die hd => (a.restSame_setLand _ (List.mem_range.1 hd)).trans (.foldl (fun b e _ => ?_) _)) d
  split
  · exact .refl b
  · exact .of_whole (Device.respond_keeps sendBlind_whole _ _ _ _ _ _)

end Sys2Proof.Machine
end

section
/-! PROOF. R116, R138, R184, R422: clearing a partition empties its queues and cores, and leaves memory, the resets that run and rings that are DISABLED. -/

namespace Sys2Proof.Machine

/-- e has the memory and resets of d, and a ring that is DISABLED in d is DISABLED in e. -/
structure Device.Spared (d e : Device) : Prop where
  spine : e.spine = d.spine
  sq : ∀ p, p < 8 → ∀ q, q < 64 → d.sqState p q = 0 → e.sqState p q = 0

namespace Device.Spared

variable {d e f : Device}

theorem trans (h : d.Spared e) (g : e.Spared f) : d.Spared f where
  spine := g.spine.trans h.spine
  sq p hp q hq hz := g.sq p hp q hq (h.sq p hp q hq hz)

theorem of_regs (hs : e.spine = d.spine) (hr : e.regs = d.regs) : d.Spared e where
  spine := hs
  sq p _ q _ hz := (congrArg (fieldOf · 35 32) (show e.reg (.hifSqStatus p q) = d.reg (.hifSqStatus p q) by rw [Device.reg, Device.reg, hr])).trans hz

theorem refl (d : Device) : d.Spared d := of_regs rfl rfl

theorem foldl {β : Type} {f : Device → β → Device} {l : List β} (hf : ∀ (a : Device), ∀ b ∈ l, a.Spared (f a b)) (d : Device) :
    d.Spared (l.foldl f d) := by
  induction l generalizing d with
  | nil => exact refl d
  | cons b l ih => exact (hf d b List.mem_cons_self).trans (ih (fun a c hc => hf a c (List.mem_cons_of_mem _ hc)) _)

end Device.Spared

theorem Device.RestSame.spared {d e : Device} (h : d.RestSame e) : d.Spared e := ⟨h.spine, h.sq⟩

theorem Device.RestSame.core {d e : Device} (h : d.RestSame e) (c : Nat) : e.core c = d.core c := by rw [Device.core, Device.core, h.cores]

theorem Device.RestSame.queue {d e : Device} (h : d.RestSame e) (p q : Nat) : e.queue p q = d.queue p q := Device.queue_congr h.queues p q

theorem Device.Spared.corePart {d e : Device} (h : d.Spared e) (c : Nat) : e.corePart c = d.corePart c := by
  have hl : e.layout = d.layout := congrArg Spine.layout h.spine
  rw [Device.corePart, Device.corePart, hl]

theorem Device.Spared.partCores {d e : Device} (h : d.Spared e) (p : Nat) : e.partCores p = d.partCores p := by
  have hl : e.layout = d.layout := congrArg Spine.layout h.spine
  rw [Device.partCores, Device.partCores, Device.partClusters, Device.partClusters, hl]

/-! ### Synchronisation -/

theorem Device.restSame_clearSync {d : Device} (p : Nat) (hf : d.flowDone = []) : d.RestSame (d.clearSync p) := by
  unfold Device.clearSync
  dsimp only
  refine RestSame.resetWhere (.of_whole ?_) _
  rw [Device.whole, Device.whole, Device.spine, Device.spine, hf]
  rfl

/-! ### Queues and requests -/

theorem Device.restSame_releaseStreams (d : Device) (p : Nat → Stream → Bool) : d.RestSame (d.releaseStreams p) := .of_whole rfl

theorem Device.restSame_dropRemote (d : Device) (p : Nat) : d.RestSame (d.dropRemote p) := by
  have hreqs : d.RestSame (d.reqs.foldl (fun (d : Device) e =>
      match e.2 with
      | some r => if r.part = p then d.dropReq e.1 r else d
      | none => d) d) := by
    refine .foldl (fun a e _ => ?_) d
    split
    · exact .ite (.of_whole rfl) (.refl a)
    · exact .refl a
  exact hreqs.trans (.of_whole rfl)

theorem memPartStatus_notSq {p : Nat} (_hp : p < 8) : (Reg.memPartStatus p).NotSq := fun _ _ _ _ => by simp only [Reg.offset]; omega

theorem Device.restSame_countParked (d : Device) {p : Nat} (hp : p < 8) : d.RestSame (d.countParked p) :=
  (RestSame.refl d).setFld _ _ (memPartStatus_notSq hp)

/-- R116: the device without the commands of a partition. -/
def Device.withoutQueues (d : Device) (p : Nat) : Device := { d with queues := SMap.keep (fun k => k / 64 != p) d.queues }

theorem Device.queue_withoutQueues (d : Device) (p : Nat) {q : Nat} (hq : q < 64) : (d.withoutQueues p).queue p q = [] :=
  SMap.get_filter_not _ (fun k => k / 64 != p) d.queues _ (by simp only [qkey, bne_eq_false_iff_eq]; omega)

theorem Device.restSame_clearWork (d : Device) {p : Nat} (hp : p < 8) : (d.withoutQueues p).RestSame (d.clearWork p) :=
  (((Device.restSame_releaseStreams _ _).trans (Device.restSame_dropRemote _ p)).resetWhere _).trans (Device.restSame_countParked _ hp)

/-! ### Cores -/

theorem pwrDomStatus_notSq {n : Nat} (_h : n < 403) : (Reg.pwrDomStatus n).NotSq := fun _ _ _ _ => by simp only [Reg.offset]; omega
theorem pwrMeasure_notSq : Reg.pwrMeasure.NotSq := fun _ _ _ _ => by simp only [Reg.offset]; omega

theorem Device.restSame_showGrants (d : Device) : d.RestSame d.showGrants :=
  ((RestSame.refl d).setFld _ _ pwrMeasure_notSq).setFld _ _ pwrMeasure_notSq

theorem Device.spared_backFromLending (d : Device) (c : Nat) : d.Spared (d.backFromLending c) := .of_regs rfl rfl

theorem Device.spared_raiseCore (d : Device) {c : Nat} (hc : c < 256) : d.Spared (d.raiseCore c) ∧ (d.raiseCore c).queues = d.queues := by
  unfold Device.raiseCore
  split
  · have hdom := pwrDomStatus_notSq (n := c) (by omega)
    have hstatus : d.RestSame (((d.setDom c 2).setRail c 60).setFld (.pwrDomStatus c) Fd.pwrDomStatusLending 0) :=
      (((RestSame.refl d).setFld _ 2 hdom).setFld _ 60 hdom).setFld _ 0 hdom
    rw [Device.lendReturn_eq]
    generalize ((d.setDom c 2).setRail c 60).setFld (.pwrDomStatus c) Fd.pwrDomStatusLending 0 = e at hstatus ⊢
    have hback := e.spared_backFromLending c
    have hqueues : (e.backFromLending c).queues = e.queues := rfl
    generalize e.backFromLending c = f at hback hqueues ⊢
    exact ⟨(hstatus.spared.trans hback).trans f.restSame_showGrants.spared,
      (f.restSame_showGrants.queues.trans hqueues).trans hstatus.queues⟩
  · exact ⟨.refl d, rfl⟩

theorem Device.mem_partCores {d : Device} {p c : Nat} : c ∈ d.partCores p ↔ c < 256 ∧ d.corePart c = p := by
  rw [Device.partCores, Device.corePart]
  simp only [Device.partClusters, List.mem_flatMap, List.mem_filter, List.mem_range, List.mem_map, beq_iff_eq]
  constructor
  · rintro ⟨cl, ⟨hcl, hpart⟩, i, hi, rfl⟩
    rw [show (8 * cl + i) / 8 = cl by omega]
    exact ⟨by omega, hpart⟩
  · rintro ⟨hc, hpart⟩
    exact ⟨c / 8, ⟨by omega, hpart⟩, c % 8, by omega, by omega⟩

theorem Device.core_updCore (d : Device) (c x : Nat) (f : Core → Core) :
    (d.updCore c f).core x = if x = c then f (d.core x) else d.core x := by
  split
  next h => rw [h, Device.core_updCore_self]
  next h => exact Device.core_setCore_ne d c x _ h

/-- R184: the cores of a list hold nothing, once each has been emptied. -/
theorem Device.core_foldl_emptied {l : List Nat} {x : Nat} (h : x ∈ l) (d : Device) :
    ((l.foldl (fun (d : Device) c => d.updCore c Core.emptied) d).core x).st = .idle := by
  have stays : ∀ (l : List Nat) (d : Device), (d.core x).st = .idle → ((l.foldl (fun (d : Device) c => d.updCore c Core.emptied) d).core x).st = .idle := by
    intro l
    induction l with
    | nil => exact fun d hd => hd
    | cons c l ih =>
      intro d hd
      refine ih _ ?_
      rw [Device.core_updCore]
      split
      · rfl
      · exact hd
  induction l generalizing d with
  | nil => exact absurd h List.not_mem_nil
  | cons c l ih =>
    rcases List.mem_cons.1 h with hx | hx
    · refine stays l _ ?_
      rw [Device.core_updCore, if_pos hx]
      rfl
    · exact ih hx _

theorem Device.st_partArrives (d : Device) (c : Nat) (w : PmemPart) (x : Nat) : ((d.partArrives c w).core x).st = (d.core x).st := by
  have hset (k : Core) (hk : k.st = (d.core c).st) : ((d.setCore c k).core x).st = (d.core x).st := by
    by_cases h : x = c
    · rw [h, Device.core_setCore_self, hk]
    · rw [Device.core_setCore_ne d c x k h]
  unfold Device.partArrives
  dsimp only
  split
  · exact hset _ rfl
  · exact hset _ rfl

theorem Device.spared_partArrives (d : Device) (c : Nat) (w : PmemPart) :
    d.Spared (d.partArrives c w) ∧ (d.partArrives c w).queues = d.queues := by
  unfold Device.partArrives
  dsimp only
  split
  · exact ⟨.of_regs rfl rfl, rfl⟩
  · exact ⟨.of_regs rfl rfl, rfl⟩

/-- R116: the writes of CMD_PMEM_DATA that go on change no state of a core, and nothing beside cores. -/
theorem Device.pmemGo_spec (l : List (Nat × Nat × Word)) (d : Device) : d.Spared (Device.pmemGo l d) ∧
    (Device.pmemGo l d).queues = d.queues ∧ ∀ x, ((Device.pmemGo l d).core x).st = (d.core x).st := by
  induction l generalizing d with
  | nil => exact ⟨.of_regs rfl rfl, rfl, fun _ => rfl⟩
  | cons a l ih =>
    obtain ⟨c, w, v⟩ := a
    rw [Device.pmemGo]
    split
    · exact ⟨.of_regs rfl rfl, rfl, fun _ => rfl⟩
    · obtain ⟨hspared, hqueues⟩ := d.spared_partArrives c { word := w, data := [v], origin := none }
      obtain ⟨ihs, ihq, ihc⟩ := ih (d.partArrives c { word := w, data := [v], origin := none })
      exact ⟨hspared.trans ihs, ihq.trans hqueues, fun x => (ihc x).trans (d.st_partArrives c _ x)⟩

/-- R116, R184: the cores of a partition are emptied, and nothing beside cores changes. -/
theorem Device.emptyCores_spec (d : Device) (p : Nat) : d.Spared (d.emptyCores p) ∧ (d.emptyCores p).queues = d.queues ∧
    ∀ x, x < 256 → d.corePart x = p → ((d.emptyCores p).core x).st = .idle := by
  have hspared : d.Spared ((d.partCores p).foldl (fun (d : Device) c => d.updCore c Core.emptied) d) :=
    .foldl (fun a c _ => (.of_regs rfl rfl : a.Spared (a.updCore c Core.emptied))) d
  have hqueues := Device.foldl_frame Device.queues (fun d c => d.updCore c Core.emptied) (fun _ _ => rfl) (d.partCores p) d
  have hidle {x : Nat} (hx : x < 256) (hp : d.corePart x = p) := Device.core_foldl_emptied (Device.mem_partCores.2 ⟨hx, hp⟩) d
  unfold Device.emptyCores Device.pmemNext
  generalize (d.partCores p).foldl _ d = e at hspared hqueues hidle ⊢
  obtain ⟨gs, gq, gc⟩ := Device.pmemGo_spec e.pmemHeld e
  exact ⟨hspared.trans gs, gq.trans hqueues, fun x hx hp => (gc x).trans (hidle hx hp)⟩

theorem Device.clearCores_spec (d : Device) (p : Nat) : d.Spared (d.clearCores p) ∧ (d.clearCores p).queues = d.queues ∧
    ∀ x, x < 256 → d.corePart x = p → ((d.clearCores p).core x).st = .idle := by
  have hraise : ∀ (l : List Nat), (∀ c ∈ l, c < 256) → ∀ a : Device, a.Spared (l.foldl Device.raiseCore a) ∧
      (l.foldl Device.raiseCore a).queues = a.queues := by
    intro l
    induction l with
    | nil => exact fun _ a => ⟨.refl a, rfl⟩
    | cons c l ih =>
      intro hl a
      obtain ⟨h1, h2⟩ := a.spared_raiseCore (hl c List.mem_cons_self)
      obtain ⟨i1, i2⟩ := ih (fun x hx => hl x (List.mem_cons_of_mem c hx)) (a.raiseCore c)
      exact ⟨h1.trans i1, i2.trans h2⟩
  obtain ⟨hspared, hqueues⟩ := hraise (d.partCores p) (fun c hc => (Device.mem_partCores.1 hc).1) d
  unfold Device.clearCores
  dsimp only
  generalize (d.partCores p).foldl Device.raiseCore d = e at hspared hqueues ⊢
  obtain ⟨es, eq, ec⟩ := e.emptyCores_spec p
  have hreset := (RestSame.refl (e.emptyCores p)).resetWhere
  refine ⟨(hspared.trans es).trans (hreset _).spared, eq.trans hqueues, fun x hx hp => ?_⟩
  exact ec x hx ((hspared.corePart x).trans hp)

/-! ### A partition -/

theorem memTlbInval_notSq : Reg.memTlbInval.NotSq := fun _ _ _ _ => by simp only [Reg.offset]; omega

/-- What follows the cores of a partition. -/
theorem Device.restSame_clearRest (d : Device) {p : Nat} (action : Nat) (hp : p < 8) :
    d.RestSame (((((((d.leaveGroups p).clearEngines p).freeMemory p).discardHeld p action 0xFFFFFFFF).tlbDrop p fun _ _ => true).refuseHeld
      (· == p)).updPart p fun x => { x with switch := none, ctxId := 0 }) := by
  have hgroups := d.restSame_leaveGroups hp
  have hmemory := (hgroups.trans (Device.restSame_clearEngines _ p)).trans (Device.restSame_freeMemory _ p)
  have hsignals := hmemory.trans (Device.restSame_discardHeld _ action 0xFFFFFFFF hp)
  have htlb (e : Device) : e.RestSame (e.tlbDrop p fun _ _ => true) := .of_whole rfl
  exact ((hsignals.trans (htlb _)).trans (Device.restSame_refuseHeld _ _)).updPart p _

/-- R422: everything of a partition but its rings is cleared. -/
theorem Device.clearPartition_spec {d : Device} {p : Nat} (action : Nat) (hp : p < 8) (hf : d.flowDone = []) : d.Spared (d.clearPartition p action) ∧
    (∀ q, q < 64 → (d.clearPartition p action).queue p q = []) ∧
    ∀ c, c < 256 → d.corePart c = p → ((d.clearPartition p action).core c).st = .idle := by
  have hsync := Device.restSame_clearSync p hf
  have hwork := (d.clearSync p).restSame_clearWork hp
  have hkept : (d.clearSync p).Spared ((d.clearSync p).withoutQueues p) := .of_regs rfl rfl
  have hbefore := (hsync.spared.trans hkept).trans hwork.spared
  have hempty {q : Nat} (hq : q < 64) := (hwork.queue p q).trans ((d.clearSync p).queue_withoutQueues p hq)
  unfold Device.clearPartition
  dsimp only
  generalize (d.clearSync p).clearWork p = e at hbefore hempty ⊢
  obtain ⟨cs, cq, cc⟩ := e.clearCores_spec p
  generalize e.clearCores p = f at cs cq cc ⊢
  have hrest := f.restSame_clearRest action hp
  generalize ((((((f.leaveGroups p).clearEngines p).freeMemory p).discardHeld p action 0xFFFFFFFF).tlbDrop p fun _ _ => true).refuseHeld
    (· == p)).updPart p _ = g at hrest ⊢
  have hlast (P : Reg → Bool) : f.RestSame (((g.resetWhere P).setFld .memTlbInval Fd.memTlbInvalBusy 0).clearCtxStatus p action) :=
    ((hrest.resetWhere P).setFld _ _ memTlbInval_notSq).setReg _ (ctxPartStatus_notSq hp)
  refine ⟨(hbefore.trans cs).trans (hlast _).spared, fun q hq => ?_, fun c hc hpart => ?_⟩
  · exact ((hlast _).queue p q).trans ((Device.queue_congr cq p q).trans (hempty hq))
  · rw [(hlast _).core]
    exact cc c hc ((hbefore.corePart c).trans hpart)

end Sys2Proof.Machine
end

section
/-! PROOF. R422: the window of a reset ends: rings are DISABLED, a partition is cleared, and the reset is over. -/

namespace Sys2Proof.Machine

/-! ### Rings -/

theorem hifSqCfg_notSq {p q : Nat} (_hp : p < 8) (_hq : q < 64) : (Reg.hifSqCfg p q).NotSq := fun _ _ _ _ => by simp only [Reg.offset]; omega

theorem Device.spared_setState_zero (d : Device) {p q : Nat} (_hp : p < 8) (hq : q < 64) :
    d.Spared (d.setFld (.hifSqStatus p q) Fd.hifSqStatusState 0) where
  spine := d.spine_setReg _ _
  sq p' hp' q' hq' hz := by
    by_cases h : p' = p ∧ q' = q
    · obtain ⟨rfl, rfl⟩ := h
      exact d.sqState_setState 0 hp' hq'
    · exact (Device.fld_setFld_ne _ _ _ _ _ _ (by simp only [Reg.offset]; omega)).trans hz

/-- R96: one ring of a partition that is reset. -/
def Device.resetRing (d : Device) (p q : Nat) : Device := if d.sqState p q = 0 then d else (d.sqDisable p q).writeStatusWord p q false

/-- R88, R96: a ring of a partition that is reset is DISABLED. -/
theorem Device.resetRing_spec (d : Device) {p q : Nat} (hp : p < 8) (hq : q < 64) : d.Spared (d.resetRing p q) ∧ (d.resetRing p q).sqState p q = 0 := by
  have hwrite (e : Device) (a : Nat) (bs : List Byte) : e.Spared (e.hostWrite a bs) := .of_regs rfl rfl
  have hcfg := ((RestSame.refl d).setFld Fd.hifSqCfgEnable 0 (hifSqCfg_notSq hp hq)).spared
  have hstate := hcfg.trans (Device.spared_setState_zero _ hp hq)
  have hzero := (d.setFld (.hifSqCfg p q) Fd.hifSqCfgEnable 0).sqState_setState 0 hp hq
  unfold Device.resetRing
  split
  next h => exact ⟨.refl d, h⟩
  next h =>
    unfold Device.sqDisable
    dsimp only
    generalize (d.setFld (.hifSqCfg p q) Fd.hifSqCfgEnable 0).setFld (.hifSqStatus p q) Fd.hifSqStatusState 0 = e at hstate hzero ⊢
    have hforget (f : Device) : f.Spared { f with sqs := SMap.set (fun _ => {}) f.sqs (qkey p q) {} } := .of_regs rfl rfl
    have hend : e.Spared (Device.writeStatusWord { (if d.sqState p q == 3 then e.writeStatusWord p q false else e) with
        sqs := SMap.set (fun _ => {}) (if d.sqState p q == 3 then e.writeStatusWord p q false else e).sqs (qkey p q) {} } p q false) := by
      refine Spared.trans ?_ ((hforget _).trans (hwrite _ _ _))
      split
      · exact hwrite e _ _
      · exact .refl e
    exact ⟨hstate.trans hend, hend.sq p hp q hq hzero⟩

theorem Device.foldl_resetRing {p : Nat} {l : List Nat} (hp : p < 8) (hl : ∀ q ∈ l, q < 64) (d : Device) :
    d.Spared (l.foldl (fun d q => d.resetRing p q) d) ∧ ∀ q ∈ l, (l.foldl (fun d q => d.resetRing p q) d).sqState p q = 0 := by
  induction l generalizing d with
  | nil => exact ⟨.refl d, fun q hq => absurd hq List.not_mem_nil⟩
  | cons a l ih =>
    obtain ⟨hspared, hzero⟩ := d.resetRing_spec hp (hl a List.mem_cons_self)
    obtain ⟨ihs, ihz⟩ := ih (fun q hq => hl q (List.mem_cons_of_mem a hq)) (d.resetRing p a)
    refine ⟨hspared.trans ihs, fun q hq => ?_⟩
    rcases List.mem_cons.1 hq with rfl | hq
    · exact ihs.sq p hp q (hl q List.mem_cons_self) hzero
    · exact ihz q hq

/-- R91, R96: the submission rings of a partition that is reset are DISABLED. -/
theorem Device.resetRings_spec (d : Device) {p : Nat} (hp : p < 8) : d.Spared (d.resetRings p) ∧ ∀ q, q < 64 → (d.resetRings p).sqState p q = 0 := by
  obtain ⟨hspared, hzero⟩ := Device.foldl_resetRing (l := List.range 64) hp (fun _ => List.mem_range.1) d
  have hcqs (e : Device) : e.Spared ((List.range 64).foldl (fun (d : Device) c =>
      if d.flag (.hifCqCfg p c) Fd.hifCqCfgEnable then d else d.setCq p c { d.cq p c with waiting := [] }) e) := by
    refine .foldl (fun a c _ => ?_) e
    split
    · exact .refl a
    · exact .of_regs rfl rfl
  have hring : (fun (d : Device) q => if d.sqState p q = 0 then d else (d.sqDisable p q).writeStatusWord p q false) =
      fun d q => d.resetRing p q := rfl
  unfold Device.resetRings
  dsimp only
  rw [hring]
  generalize (List.range 64).foldl (fun d q => d.resetRing p q) d = e at hspared hzero ⊢
  exact ⟨hspared.trans (hcqs e), fun q hq => (hcqs e).sq p hp q hq (hzero q (List.mem_range.2 hq))⟩

/-! ### What is absorbed -/

theorem Device.RingSame.spine {d e : Device} (h : d.RingSame e) : e.spine = d.spine := (congrArg Device.spine h.frame :)

theorem Device.spine_absorbPart (d : Device) (p : Nat) (records : Bool) : (d.absorbPart p records).1.spine = d.spine := by
  unfold Device.absorbPart
  dsimp only
  split
  · exact (RingSame.foldl (fun a b => a.ringSame_cqPost p _ _) _ d).spine
  · rfl

/-- R422: what the end of its window leaves of a partition that is reset. -/
theorem Device.drainReset_partition {d : Device} {p : Nat} (hp : p < 8) (hf : d.flowDone = []) : ∃ (e : Device) (n : Nat),
    d.drainReset { scope := 3, target := p, byReg := true } = (e, { scope := 3, target := p, byReg := true, absorbed := n }) ∧
    e.spine = d.spine ∧ (∀ q, q < 64 → e.queue p q = [] ∧ e.sqState p q = 0) ∧
    ∀ c, c < 256 → d.corePart c = p → (e.core c).st = .idle := by
  have hposted := d.spine_absorbPart p true
  obtain ⟨hrings, hzero⟩ := (d.absorbPart p true).1.resetRings_spec hp
  have hflow : ((d.absorbPart p true).1.resetRings p).flowDone = [] :=
    (congrArg Spine.flowDone (hrings.spine.trans hposted)).trans hf
  obtain ⟨hcleared, hqueues, hcores⟩ := Device.clearPartition_spec 3 hp hflow
  have hbefore := hrings.spine.trans hposted
  have hlayout : ((d.absorbPart p true).1.resetRings p).layout = d.layout := congrArg Spine.layout hbefore
  refine ⟨_, 0 + (0 + (d.absorbPart p true).2), rfl, hcleared.spine.trans hbefore,
    fun q hq => ⟨hqueues q hq, hcleared.sq p hp q hq (hzero q hq)⟩, fun c hc hpart => hcores c hc ?_⟩
  rw [Device.corePart, hlayout]
  exact hpart

/-! ### A reset is over -/

/-- R433: the partitions of a list are numbered below 8, and no FATAL event holds one. -/
def Device.freeOf (d : Device) (l : List Nat) : Prop := ∀ p ∈ l, p < 8 ∧ d.mgmt.held = false

/-- R422: where no other reset runs, the partitions of a reset that is over are ACTIVE. -/
theorem Device.foldl_active {d : Device} {l : List Nat} (hl : d.freeOf l) (hr : d.resets = []) :
    l.foldl (fun (d : Device) p =>
      if d.mgmt.held || d.resets.any (fun x => x.scope == 4 || (x.scope == 3 && x.target == p)) then d else d.ctxSet p 1) d = d.ctxSetAll l 1 := by
  induction l generalizing d with
  | nil => exact (List.foldl_nil ..).trans (d.ctxSetAll_nil 1).symm
  | cons p l ih =>
    have hheld := (hl p List.mem_cons_self).2
    have hframe : d.OnlyRegs (d.ctxSet p 1) := (OnlyRegs.refl d).setFld _ _ _
    have hmgmt : (d.ctxSet p 1).mgmt = d.mgmt := (congrArg Device.mgmt hframe :)
    have hresets : (d.ctxSet p 1).resets = d.resets := (congrArg Device.resets hframe :)
    have hrest : (d.ctxSet p 1).freeOf l := fun x hx => by
      rw [hmgmt]
      exact hl x (List.mem_cons_of_mem p hx)
    rw [List.foldl_cons, hheld, hr, if_neg (by simp), ih hrest (hresets.trans hr), Device.ctxSetAll_cons]

theorem ctxReset_notSq : Reg.ctxReset.NotSq := fun _ _ _ _ => by simp only [Reg.offset]; omega

theorem Device.restSame_showReset (d : Device) (byReg busy : Bool) (result : Nat) : d.RestSame (d.showReset byReg busy result) := by
  unfold Device.showReset
  exact .ite (((RestSame.refl d).setFld _ _ ctxReset_notSq).setFld _ _ ctxReset_notSq) (.refl d)

theorem ctxPartStatus_not_logged {p : Nat} (_hp : p < 8) : (Reg.ctxPartStatus p).offset ∉ logRegs.map Reg.offset := by
  refine logRegs_apart _ ?_ (fun k hk => ?_) (fun k hk => ?_)
  all_goals simp only [Reg.offset]; omega

/-- R422 step 5, R425: the one reset that runs is over: CTX_RESET shows it, and its partitions are ACTIVE. -/
theorem Device.finishReset_spec {d : Device} {r : ResetRun} (hb : r.byReg = true) (hd : d.resets = [r])
    (hl : d.freeOf (d.resetParts r.scope r.target)) : ∃ e : Device, d.finishReset r = e ∧ ({ d with resets := [] } : Device).RestSame e ∧
    e.flag .ctxReset Fd.ctxResetBusy = false ∧ e.fld .ctxReset Fd.ctxResetResult = 2 ∧
    ∀ p ∈ d.resetParts r.scope r.target, e.ctxState p = 1 := by
  have hnone : (d.resets.filter fun x => !(x.scope == r.scope && x.target == r.target)) = [] := by rw [hd]; simp
  unfold Device.finishReset
  dsimp only
  rw [hnone, if_pos hb]
  have hpart : ({ d with resets := [] } : Device).resetParts r.scope r.target = d.resetParts r.scope r.target := rfl
  have hfree : ({ d with resets := [] } : Device).freeOf (d.resetParts r.scope r.target) := hl
  have hempty : ({ d with resets := [] } : Device).resets = [] := rfl
  rw [hpart]
  generalize d.resetParts r.scope r.target = l at hl hfree
  generalize ({ d with resets := [] } : Device) = a at hfree hempty ⊢
  rw [Device.foldl_active hfree hempty]
  have hset : a.RestSame (a.ctxSetAll l 1) := .foldl (fun b p hp => (RestSame.refl b).setFld _ _ (ctxPartStatus_notSq (hl p hp).1)) a
  have hone {p : Nat} (hp : p ∈ l) : (a.ctxSetAll l 1).ctxState p = 1 := (a.ctxState_ctxSetAll l (hl p hp).1 (by decide)).trans (if_pos hp)
  generalize a.ctxSetAll l 1 = b at hset hone ⊢
  have hlog : b.LogSame (b.logCtx 0x1205 0 (if r.scope = 4 then 0xFF else b.scopePart r.scope r.target) r.scope 0 0xFFFFFFFF
    (wordOf (r.scope + r.target * 2 ^ 8 + r.absorbed % 2 ^ 32 * 2 ^ 16))) := b.logSame_log _ _
  generalize b.logCtx _ _ _ _ _ _ _ = c at hlog ⊢
  have hbusy : c.resets.any (·.byReg) = false := by
    have hresets : c.resets = [] :=
      (congrArg Spine.resets ((RestSame.of_logSame hlog).spine.trans hset.spine)).trans hempty
    rw [hresets]
    rfl
  rw [hbusy]
  obtain ⟨hshown, hresult⟩ := c.showReset_shows false (result := 2) (by decide)
  refine ⟨_, rfl, (hset.trans (.of_logSame hlog)).trans (c.restSame_showReset _ _ _), hshown, hresult, fun p hp => ?_⟩
  exact (c.ctxState_showReset true false 2 p).trans
    ((congrArg (fieldOf · Fd.ctxPartStatusState.hi Fd.ctxPartStatusState.lo) (hlog.regs _ (ctxPartStatus_not_logged (hl p hp).1))).trans (hone hp))

/-- R422: the window of the one reset that runs ends. -/
theorem Device.resetDrained_one {d e : Device} {r x : ResetRun} (hd : d.resets = [r]) (h : d.drainReset r = (e, x)) (he : e.resets = [r])
    (hs : r.scope ≠ 4) : d.resetDrained r.scope r.target = ({ e with resets := [x] } : Device).finishReset x := by
  have hfind : (d.resets.find? fun y => y.scope == r.scope && y.target == r.target) = some r := by rw [hd]; simp
  unfold Device.resetDrained
  rw [hfind]
  dsimp only
  rw [h, if_neg (fun hc => hs hc.2)]
  dsimp only
  rw [he, List.map_cons, List.map_nil, if_pos rfl]

theorem exec_resetDrainEnd (scope target : Nat) (s : State) : exec (.resetDrainEnd scope target) s = run (·.resetDrained scope target) s := rfl

/-- R422: a partition reset that is over. -/
theorem Device.resetDrained_partition {d : Device} {p : Nat} (hp : p < 8) (hf : d.flowDone = [])
    (hr : d.resets = [{ scope := 3, target := p, byReg := true }]) (hm : d.mgmt.held = false) : ∃ t : Device,
    d.resetDrained 3 p = t ∧ t.resets = [] ∧ t.flag .ctxReset Fd.ctxResetBusy = false ∧ t.fld .ctxReset Fd.ctxResetResult = 2 ∧
    t.ctxState p = 1 ∧ (∀ q, q < 64 → t.queue p q = [] ∧ t.sqState p q = 0) ∧
    (∀ c, c < 256 → d.corePart c = p → (t.core c).st = .idle) ∧ t.mem = d.mem ∧ t.flowDone = d.flowDone := by
  obtain ⟨e, n, hdrain, hspine, hrings, hcores⟩ := Device.drainReset_partition hp hf
  have hresets : e.resets = [{ scope := 3, target := p, byReg := true }] := (congrArg Spine.resets hspine).trans hr
  have heq := Device.resetDrained_one hr hdrain hresets (show 3 ≠ 4 by decide)
  have hfree : ({ e with resets := [{ scope := 3, target := p, byReg := true, absorbed := n }] } : Device).freeOf [p] := fun x hx => by
    obtain rfl := List.mem_singleton.1 hx
    exact ⟨hp, (congrArg Mgmt.held (congrArg Spine.mgmt hspine)).trans hm⟩
  obtain ⟨t, ht, hsame, hbusy, hresult, hactive⟩ := Device.finishReset_spec (r := { scope := 3, target := p, byReg := true, absorbed := n }) rfl rfl hfree
  refine ⟨t, heq.trans ht, congrArg Spine.resets hsame.spine, hbusy, hresult, hactive p List.mem_cons_self, fun q hq => ⟨?_, ?_⟩, fun c hc hpart => ?_,
    (congrArg Spine.mem hsame.spine).trans (congrArg Spine.mem hspine), (congrArg Spine.flowDone hsame.spine).trans (congrArg Spine.flowDone hspine)⟩
  · exact (hsame.queue p q).trans (hrings q hq).1
  · exact hsame.sq p hp q hq (hrings q hq).2
  · rw [hsame.core]
    exact hcores c hc hpart

theorem resetDrainEnd_partition_row {s : State} {p : Nat} (hs : s.inService = true) (hp : p < 8)
    (hr : s.dev.resets = [{ scope := 3, target := p, byReg := true }]) (hm : s.dev.mgmt.held = false) : ∃ t : State,
    exec (.resetDrainEnd 3 p) s = .next t ∧ t.pending = s.pending ∧ t.dev.resets = [] ∧
      t.dev.flag .ctxReset Fd.ctxResetBusy = false ∧ t.dev.fld .ctxReset Fd.ctxResetResult = 2 ∧ t.dev.ctxState p = 1 ∧
      (∀ q, q < 64 → t.dev.queue p q = [] ∧ t.dev.sqState p q = 0) ∧ (∀ c, c < 256 → s.dev.corePart c = p → (t.dev.core c).st = .idle) ∧
      t.dev.mem = s.dev.mem := by
  obtain ⟨e, he, hresets, hbusy, hresult, hstate, hrings, hcores, hmem, hflow⟩ :=
    Device.resetDrained_partition (d := s.quiet.dev) hp (State.inService_parts hs).2.1 hr hm
  exact ⟨_, run_row hs (exec_resetDrainEnd 3 p s) he hflow, rfl, hresets, hbusy, hresult, hstate, hrings, hcores, hmem⟩

end Sys2Proof.Machine
end

section
/-! PROOF. R115, R422: a core reset at the end of its window. -/

namespace Sys2Proof.Machine

/-- e has the memory and resets of d, and every core of d but core c. -/
structure Device.CoreOnly (c : Nat) (d e : Device) : Prop where
  spine : e.spine = d.spine
  core : ∀ x, x ≠ c → e.core x = d.core x

namespace Device.CoreOnly

variable {c : Nat} {d e f : Device}

theorem trans (h : d.CoreOnly c e) (g : e.CoreOnly c f) : d.CoreOnly c f where
  spine := g.spine.trans h.spine
  core x hx := (g.core x hx).trans (h.core x hx)

theorem of_cores (hs : e.spine = d.spine) (hc : e.cores = d.cores) : d.CoreOnly c e where
  spine := hs
  core x _ := by rw [Device.core, Device.core, hc]

theorem refl (d : Device) : d.CoreOnly c d := of_cores rfl rfl

theorem of_restSame (h : d.RestSame e) : d.CoreOnly c e := of_cores h.spine h.cores

theorem setReg (h : d.CoreOnly c e) (r : Reg) (w : Word) : d.CoreOnly c (e.setReg r w) := h.trans (of_cores (e.spine_setReg r w) (e.setReg_cores r w))

theorem updCore (h : d.CoreOnly c e) (F : Core → Core) : d.CoreOnly c (e.updCore c F) :=
  h.trans ⟨rfl, fun x hx => Device.core_setCore_ne e c x _ hx⟩

theorem showGrants (h : d.CoreOnly c e) : d.CoreOnly c e.showGrants := h.trans (of_restSame e.restSame_showGrants)

theorem resetWhere (h : d.CoreOnly c e) (P : Reg → Bool) : d.CoreOnly c (e.resetWhere P) := h.trans (of_cores rfl rfl)

end Device.CoreOnly

/-! ### The units of a core that holds nothing -/

theorem Device.vectorPump_empty {d : Device} {c n : Nat} {skip : Bool} (h : (d.core c).vq = []) : Device.vectorPump c skip (n + 1) d = (d, none) := by
  rw [Device.vectorPump, h]

/-- R173, R203: where its queues are empty, ending the units of a core changes the core alone. -/
theorem Device.endUnits_spec {d : Device} {c : Nat} (ha : (d.core c).aq = []) (hv : (d.core c).vq = []) : ∃ e : Device,
    d.endUnits c = (e, none) ∧ d.CoreOnly c e := by
  have hclear : ((d.updCore c fun k => { k with aq := [] }).core c).vq = [] := by rw [Device.core_updCore_self]; exact hv
  have hfirst : d.CoreOnly c (d.updCore c fun k => { k with aq := [] }) := (CoreOnly.refl d).updCore _
  unfold Device.endUnits
  dsimp only
  rw [ha, List.foldl_nil, Device.vectorPump_empty hclear]
  dsimp only
  rw [hclear, List.foldl_nil]
  exact ⟨_, rfl, (hfirst.setReg _ _).updCore _⟩

/-! ### A core reset -/

theorem Device.coreOnly_raiseCore (d : Device) (c : Nat) : d.CoreOnly c (d.raiseCore c) := by
  unfold Device.raiseCore
  split
  · have hstatus : d.CoreOnly c (((d.setDom c 2).setRail c 60).setFld (.pwrDomStatus c) Fd.pwrDomStatusLending 0) :=
      (((CoreOnly.refl d).setReg _ _).setReg _ _).setReg _ _
    rw [Device.lendReturn_eq]
    generalize ((d.setDom c 2).setRail c 60).setFld (.pwrDomStatus c) Fd.pwrDomStatusLending 0 = e at hstatus ⊢
    have hgrant : e.CoreOnly c (e.setGrant c 60) := .of_cores rfl rfl
    have hback : e.CoreOnly c (e.backFromLending c) := (hgrant.updCore Core.rampAgain).trans (.of_cores rfl rfl)
    exact (hstatus.trans hback).showGrants
  · exact .refl d

theorem Device.coreOnly_logStep (d : Device) (c p code cls die op idx mb entry : Nat) (detail : Word) (step : Nat) :
    d.CoreOnly c (d.logStep p code cls die op idx mb entry detail step) := by
  unfold Device.logStep
  exact (CoreOnly.of_restSame (.of_logSame (d.logSame_log _ _))).setReg _ _

theorem Device.coreOnly_dropWaits (d : Device) (c : Nat) : d.CoreOnly c ((d.dropCoreWaiter c).releaseStreams fun _ x => x.core == c) := by
  have hwaiter : d.CoreOnly c (d.dropCoreWaiter c) := .of_cores rfl rfl
  generalize d.dropCoreWaiter c = e at hwaiter ⊢
  exact hwaiter.trans (.of_cores rfl rfl)

/-- R115, R422: a core whose engines hold nothing, after its reset. -/
theorem Device.resetCore_spec {d : Device} {c : Nat} (ha : (d.core c).aq = []) (hv : (d.core c).vq = []) : d.CoreOnly c (d.resetCore c) ∧
    ((d.resetCore c).core c).st = .idle ∧ ((d.resetCore c).core c).job = none ∧ ((d.resetCore c).core c).loops = [] := by
  obtain ⟨e, he, hunits⟩ := Device.endUnits_spec ha hv
  unfold Device.resetCore
  rw [he]
  dsimp only
  have hnorm (p : Nat) (f : Part → Part) : e.CoreOnly c ((e.updPart p f).logStep p 0x0E09 0 (c / 64) 0 0 0 0 (wordOf c)) :=
    (CoreOnly.of_restSame ((RestSame.refl e).updPart p f)).trans (Device.coreOnly_logStep _ c _ _ _ _ _ _ _ _ _ _)
  have hstep : ∀ f : Part → Part, e.CoreOnly c (if (e.core c).stepFrame.isSome = true ∧ d.corePart c < 8 ∧ e.stepState (d.corePart c) ∈ [1, 2, 3] then
      (e.updPart (d.corePart c) f).logStep (d.corePart c) 0x0E09 0 (c / 64) 0 0 0 0 (wordOf c) else e) := fun f => by
    split
    · exact hnorm _ f
    · exact .refl e
  have hbefore := hunits.trans (hstep fun x => { x with normIncomplete := true })
  generalize (if (e.core c).stepFrame.isSome = true ∧ d.corePart c < 8 ∧ e.stepState (d.corePart c) ∈ [1, 2, 3] then _ else e) = f at hbefore ⊢
  have hraised := hbefore.trans (f.coreOnly_raiseCore c)
  generalize f.raiseCore c = g at hraised ⊢
  have hfree : g.CoreOnly c ((g.dropCoreWaiter c).releaseStreams fun _ x => x.core == c) := g.coreOnly_dropWaits c
  have hall := hraised.trans hfree
  generalize (g.dropCoreWaiter c).releaseStreams _ = a at hall ⊢
  refine ⟨CoreOnly.resetWhere (hall.updCore _) _, ?_⟩
  have hcore (b : Device) (P : Reg → Bool) : (b.resetWhere P).core c = b.core c := rfl
  rw [hcore, Device.core_updCore_self]
  exact ⟨rfl, rfl, rfl⟩

/-! ### The window ends -/

/-- R422: the run of a core reset that CTX_RESET asked for. -/
def coreRun (c n : Nat) : ResetRun := { scope := 1, target := c, byReg := true, absorbed := n }

theorem filter_covers {c : Nat} (hc : c < 256) (n : Nat) : (List.range 256).filter (coreRun c n).covers = [c] := by
  have hcovers : (coreRun c n).covers = (· == c) := funext fun x => by
    simp [ResetRun.covers, coreRun, eq_comm]
  rw [hcovers, List.filter_beq, List.count_eq_one_of_mem List.nodup_range (List.mem_range.2 hc)]
  rfl

/-- R422: where no command is outstanding, a core reset absorbs none. -/
theorem Device.absorbCores_none {d : Device} {p : Nat} (hit : Nat → Bool) (hq : ∀ q, q < 64 → d.queue p q = []) : d.absorbCores p hit = (d, 0) := by
  have hnone : ((List.range 64).flatMap fun q => ((d.outstanding p q).filter fun c => takesCores c.desc && (d.targets p c.desc).any hit).map
      fun c => (q, c)) = [] := by
    rw [List.flatMap_eq_nil_iff]
    intro q hmem
    rw [Device.outstanding, hq q (List.mem_range.1 hmem)]
    rfl
  unfold Device.absorbCores
  rw [hnone]
  rfl

theorem Device.drainReset_core {d : Device} {c : Nat} (hc : c < 256) (hq : ∀ q, q < 64 → d.queue (d.corePart c) q = []) :
    d.drainReset (coreRun c 0) = (d.resetCore c, coreRun c 0) := by
  have hnone := Device.absorbCores_none (coreRun c 0).covers hq
  unfold Device.drainReset
  rw [if_neg (show ¬3 ≤ (coreRun c 0).scope from (by decide : ¬3 ≤ 1))]
  dsimp only
  rw [filter_covers hc, show d.scopePart (coreRun c 0).scope (coreRun c 0).target = d.corePart c from rfl, hnone]
  rfl

/-- R422: a core reset that is over. -/
theorem Device.resetDrained_core {d : Device} {c : Nat} (hc : c < 256) (hr : d.resets = [coreRun c 0])
    (hq : ∀ q, q < 64 → d.queue (d.corePart c) q = []) (ha : (d.core c).aq = []) (hv : (d.core c).vq = []) : ∃ t : Device,
    d.resetDrained 1 c = t ∧ t.resets = [] ∧ t.flag .ctxReset Fd.ctxResetBusy = false ∧ t.fld .ctxReset Fd.ctxResetResult = 2 ∧
    (t.core c).st = .idle ∧ (t.core c).job = none ∧ (t.core c).loops = [] ∧ t.mem = d.mem ∧ t.flowDone = d.flowDone ∧
    ∀ x, x ≠ c → t.core x = d.core x := by
  obtain ⟨honly, hidle, hjob, hloops⟩ := Device.resetCore_spec ha hv
  have hresets : (d.resetCore c).resets = [coreRun c 0] := (congrArg Spine.resets honly.spine).trans hr
  have heq := Device.resetDrained_one hr (Device.drainReset_core hc hq) hresets (show 1 ≠ 4 by decide)
  generalize d.resetCore c = e at honly hidle hjob hloops hresets heq
  have hfree : ({ e with resets := [coreRun c 0] } : Device).freeOf [] := fun _ hx => absurd hx List.not_mem_nil
  obtain ⟨t, ht, hsame, hbusy, hresult, -⟩ := Device.finishReset_spec (r := coreRun c 0) rfl rfl hfree
  have hcore (x : Nat) : t.core x = e.core x := hsame.core x
  refine ⟨t, heq.trans ht, congrArg Spine.resets hsame.spine, hbusy, hresult, ?_, ?_, ?_,
    (congrArg Spine.mem hsame.spine).trans (congrArg Spine.mem honly.spine),
    (congrArg Spine.flowDone hsame.spine).trans (congrArg Spine.flowDone honly.spine), fun x hx => (hcore x).trans (honly.core x hx)⟩
  · rw [hcore, hidle]
  · rw [hcore, hjob]
  · rw [hcore, hloops]

theorem resetDrainEnd_core_row {s : State} {c : Nat} (hs : s.inService = true) (hc : c < 256)
    (hr : s.dev.resets = [{ scope := 1, target := c, byReg := true }]) (hq : ∀ q, q < 64 → s.dev.queue (s.dev.corePart c) q = [])
    (ha : (s.dev.core c).aq = []) (hv : (s.dev.core c).vq = []) : ∃ t : State,
    exec (.resetDrainEnd 1 c) s = .next t ∧ t.pending = s.pending ∧ t.dev.resets = [] ∧ t.dev.flag .ctxReset Fd.ctxResetBusy = false ∧
      t.dev.fld .ctxReset Fd.ctxResetResult = 2 ∧ (t.dev.core c).st = .idle ∧ (t.dev.core c).job = none ∧ (t.dev.core c).loops = [] ∧
      t.dev.mem = s.dev.mem ∧ ∀ x, x ≠ c → t.dev.core x = s.dev.core x := by
  obtain ⟨e, he, hresets, hbusy, hresult, hidle, hjob, hloops, hmem, hflow, hothers⟩ :=
    Device.resetDrained_core (d := s.quiet.dev) hc hr hq ha hv
  exact ⟨_, run_row hs (exec_resetDrainEnd 1 c s) he hflow, rfl, hresets, hbusy, hresult, hidle, hjob, hloops, hmem, hothers⟩

end Sys2Proof.Machine
end

section
/-! PROOF. O30: the rows of the resets together. -/

namespace Sys2Proof.Machine

/-- Settles O30: a request for a scope begins its run where none runs (`resetRequests_begin` and the rows of the other scopes); the end of a
window drains the one run there is (`drainReset_core`, `drainReset_partition`) and is over (`finishReset_spec`). -/
theorem resetsBeginAndEnd : Obligations.ResetsBeginAndEnd := by
  unfold Obligations.ResetsBeginAndEnd
  refine ⟨fun s hs ha h => ⟨fun p hp hf hsw => ?_, fun hsw => ?_, fun c hc hf hst => ?_, fun c hc hf hst => ?_, fun p hf => ?_, ?_⟩,
    fun s c hs hc _ hr hq haq hvq => ?_, fun s p hs hp hr hm => ?_⟩
  · exact resetRequests_begin hs ha h hp hf hsw
  · exact ⟨computeReset_row hs ha h hsw, pfReset_row hs h hsw⟩
  · exact coreReset_row hs ha h hc hf hst
  · exact clusterReset_row hs ha h hc hf hst
  · exact partitionReset_refused hs ha h hf
  · exact deviceReset_row hs ha
  · exact resetDrainEnd_core_row hs hc hr hq haq hvq
  · exact resetDrainEnd_partition_row hs hp hr hm

end Sys2Proof.Machine
end

section
/-! PROOF. R79, R80: reads and writes of BAR4 that lie in one slot. -/

namespace Sys2Proof.Machine

/-! ### One slot of BAR4 -/

/-- R80: what a read of BAR4 gives leaves alone whatever a read of memory does. -/
theorem Device.bar4Get_keeps {α : Type} {g : Device → α} (h : ReadBlind g) (d : Device) (u : MemUser) (x : Place) (n : Nat) :
    g (d.bar4Get u x n).1 = g d := by
  unfold Device.bar4Get
  split
  next a => exact h.emit d _
  next a =>
    have htile := Device.readTile_keeps h d u a none
    split
    next hx => rw [hx] at htile; exact htile
    next hx => rw [hx] at htile; exact htile
    next hx => rw [hx] at htile; exact (h.free _ _).trans htile

theorem Device.bar4Put_keeps {α : Type} {g : Device → α} (h : WriteBlind g) (d : Device) (u : MemUser) (x : Place) (bytes : List Byte) :
    g (d.bar4Put u x bytes).1 = g d := by
  unfold Device.bar4Put
  split
  next a => exact h.host d a bytes
  next a =>
    have hpart : g (if d.own a then d.mergeWrite u (offOf a) bytes false else d.writePart u a bytes).1 = g d := by
      split
      · exact Device.mergeWrite_keeps h d u _ bytes false
      · exact Device.writePart_keeps h d u a bytes
    split
    next hx => rw [hx] at hpart; exact hpart
    next hx => rw [hx] at hpart; exact hpart

/-- R80: the record of a fault leaves memory alone. -/
theorem Device.logSame_bar4Fault (d : Device) (fn off k : Nat) : d.LogSame (d.bar4Fault fn off k) := by
  unfold Device.bar4Fault
  dsimp only
  split
  · exact d.logSame_logModule _ _ _ _ _
  · exact d.logSame_logPart _ _ _ _ _

section
variable {d a e f : Device} {u : MemUser} {fn off n k : Nat} {x : Place} {bs bytes : List Byte}

theorem Device.bar4Read_served (hu : d.bar4User fn = (a, u)) (hspan : spans (n / 4096 + 2) off n = [(off, n)])
    (hx : a.bar4Place u fn off false = (e, .ok x)) (hget : e.bar4Get u x n = (f, .ok bs)) :
    d.bar4Read fn off n = f.emit (.readData bs) := by
  unfold Device.bar4Read
  rw [hu, hspan]
  dsimp only
  rw [List.foldl_cons, List.foldl_nil]
  dsimp only
  rw [hx]
  dsimp only
  rw [hget]
  rfl

theorem Device.bar4Read_faults (hu : d.bar4User fn = (a, u)) (hspan : spans (n / 4096 + 2) off n = [(off, n)])
    (hx : a.bar4Place u fn off false = (e, .error k)) : d.bar4Read fn off n = (e.bar4Fault fn off k).emit .unsupported := by
  unfold Device.bar4Read
  rw [hu, hspan]
  dsimp only
  rw [List.foldl_cons, List.foldl_nil]
  dsimp only
  rw [hx]

/-- R80: a write that lies in one slot leaves what the slot's merge does, and at most a record of its fault. -/
theorem Device.bar4Write_spec (hu : d.bar4User fn = (a, u)) (hspan : spans (bytes.length / 4096 + 2) off bytes.length = [(off, bytes.length)])
    (hx : a.bar4Place u fn off true = (e, .ok x)) : ∃ t : Device, d.bar4Write fn off bytes = t ∧ t.mem = (e.bar4Put u x bytes).1.mem ∧
    t.flowDone = (e.bar4Put u x bytes).1.flowDone := by
  unfold Device.bar4Write
  rw [hu, hspan]
  dsimp only
  rw [List.foldl_cons, List.foldl_nil]
  dsimp only
  rw [hx, List.take_length]
  dsimp only
  generalize e.bar4Put u x bytes = r
  obtain ⟨f, res⟩ := r
  cases res with
  | none => exact ⟨f, rfl, rfl, rfl⟩
  | some k =>
    have hlog := f.logSame_bar4Fault fn off k
    exact ⟨f.bar4Lost fn off k, rfl, hlog.mem, hlog.flowDone⟩

end

/-! ### Where an offset leads -/

theorem Device.bar4Place_pf {d : Device} (u : MemUser) {off : Nat} (write : Bool) (ho : off < 68719476736)
    (hm : offsetMapped (d.fld .hifWinBase Fd.hifWinBaseBase * 68719476736 + off) = true) :
    d.bar4Place u 0 off write = (d, .ok (.device (d.chip * 1125899906842624 + (d.fld .hifWinBase Fd.hifWinBaseBase * 68719476736 + off)))) := by
  unfold Device.bar4Place
  rw [if_pos rfl]
  exact if_pos ⟨ho, hm⟩

section
variable {d e : Device} {u : MemUser} {fn off : Nat} {write : Bool}

theorem Device.bar4Place_translated {x : Place} (hfn : 1 ≤ fn) (ho : off < 8589934592)
    (hx : d.translate u (d.fld (.hifPartWin (fn - 1)) Fd.hifPartWinBase * 8589934592 + off) write = (e, .ok x)) :
    d.bar4Place u fn off write = (e, .ok x) := by
  unfold Device.bar4Place
  simp only [if_neg (Nat.one_le_iff_ne_zero.1 hfn), Nat.reducePow, if_neg (Nat.not_le.2 ho), hx]

theorem Device.bar4Place_faulted {kind addr : Nat} {inj : Bool} (hfn : 1 ≤ fn) (ho : off < 8589934592)
    (hx : d.translate u (d.fld (.hifPartWin (fn - 1)) Fd.hifPartWinBase * 8589934592 + off) write = (e, .error (.xlate kind addr inj))) :
    d.bar4Place u fn off write = (e, .error kind) := by
  unfold Device.bar4Place
  simp only [if_neg (Nat.one_le_iff_ne_zero.1 hfn), Nat.reducePow, if_neg (Nat.not_le.2 ho), hx]

end

/-! ### The rows -/

/-- BAR4_READ on a device. -/
def Device.readBar4 (d : Device) (fn off n : Nat) (io : MemIo) : Device :=
  if !d.hasFn fn then d
  else if d.ready then ((d.withIo io).bar4Read fn off n).endIo
  else d.emit (.readData (List.replicate n 0))

/-- BAR4_WRITE on a device. -/
def Device.writeBar4 (d : Device) (fn off : Nat) (bytes : List Byte) (io : MemIo) : Device :=
  if d.hasFn fn then ((d.withIo io).bar4Write fn off bytes).endIo else d

theorem exec_bar4Read (fn off n : Nat) (io : MemIo) (s : State) : exec (.bar4Read fn off n io) s = live (·.readBar4 fn off n io) s := rfl
theorem exec_bar4Write (fn off : Nat) (bytes : List Byte) (io : MemIo) (s : State) :
    exec (.bar4Write fn off bytes io) s = run (·.writeBar4 fn off bytes io) s := rfl

theorem Device.readBar4_ready {d : Device} {fn : Nat} (off n : Nat) (io : MemIo) (hfn : d.hasFn fn = true) (hr : d.ready = true) :
    d.readBar4 fn off n io = ((d.withIo io).bar4Read fn off n).endIo := by
  rw [Device.readBar4, hfn, hr]
  rfl

theorem Device.writeBar4_of {d : Device} {fn : Nat} (off : Nat) (bytes : List Byte) (io : MemIo) (hfn : d.hasFn fn = true) :
    d.writeBar4 fn off bytes io = ((d.withIo io).bar4Write fn off bytes).endIo := if_pos hfn

theorem bar4Read_before_ready {s : State} {fn : Nat} (off n : Nat) (io : MemIo) (hs : s.running = true) (hfn : s.dev.hasFn fn = true)
    (hr : s.dev.ready = false) : exec (.bar4Read fn off n io) s = .next (s.after fun d => d.emit (.readData (List.replicate n 0))) := by
  have hready : s.quiet.dev.ready = false := hr
  have hhas : s.quiet.dev.hasFn fn = true := hfn
  have hrow : s.quiet.dev.readBar4 fn off n io = s.quiet.dev.emit (.readData (List.replicate n 0)) := by
    rw [Device.readBar4, hhas, hready]
    rfl
  exact live_row hs (exec_bar4Read fn off n io s) hrow rfl

section
variable {s : State} {fn off n : Nat} {io : MemIo} {a e f : Device} {u : MemUser} {x : Place} {bs bytes : List Byte}

/-- R80: a read of BAR4 that memory serves. -/
theorem bar4Read_served_row (hs : s.inService = true) (hfn : s.dev.hasFn fn = true) (hspan : spans (n / 4096 + 2) off n = [(off, n)])
    (hu : (s.quiet.dev.withIo io).bar4User fn = (a, u)) (hx : a.bar4Place u fn off false = (e, .ok x)) (hd : e.flowDone = s.dev.flowDone)
    (hget : e.bar4Get u x n = (f, .ok bs)) : ∃ t : State, exec (.bar4Read fn off n io) s = .next t ∧ t.pending = s.pending ∧
      t.dev.out = f.out ++ [.readData bs] ∧ t.dev.mem = f.mem := by
  have hflow := Device.bar4Get_keeps writeBlind_flowDone.toReadBlind e u x n
  rw [hget] at hflow
  have hrow := (Device.readBar4_ready (d := s.quiet.dev) off n io hfn (State.inService_parts hs).2.2).trans
    (congrArg Device.endIo (Device.bar4Read_served hu hspan hx hget))
  exact ⟨_, live_row (State.running_of_inService hs) (exec_bar4Read fn off n io s) hrow (hflow.trans hd), rfl, rfl, rfl⟩

theorem bar4Read_pf {bs : List Byte} (hs : s.inService = true) (ho : off < 68719476736) (hspan : spans (n / 4096 + 2) off n = [(off, n)])
    (hm : offsetMapped (s.dev.fld .hifWinBase Fd.hifWinBaseBase * 68719476736 + off) = true)
    (hget : ({ s.quiet.dev.withIo io with free := s.dev.free + 1 } : Device).bar4Get { part := 8, cls := fieldOf (Config.freeWord s.dev.free) 7 0 }
      (.device (s.dev.chip * 1125899906842624 + (s.dev.fld .hifWinBase Fd.hifWinBaseBase * 68719476736 + off))) n = (e, .ok bs)) : ∃ t : State,
    exec (.bar4Read 0 off n io) s = .next t ∧ t.pending = s.pending ∧ t.dev.out = e.out ++ [.readData bs] ∧ t.dev.mem = e.mem :=
  have hplace := Device.bar4Place_pf (d := { s.quiet.dev.withIo io with free := s.dev.free + 1 })
    { part := 8, cls := fieldOf (Config.freeWord s.dev.free) 7 0 } false ho hm
  bar4Read_served_row hs (decide_eq_true (Nat.zero_le _)) hspan rfl hplace rfl hget

/-- R79: the function's user draws a free value and changes nothing else. -/
theorem Device.flowDone_bar4User (d : Device) (fn : Nat) : (d.bar4User fn).1.flowDone = d.flowDone := rfl

theorem Device.flowDone_translate {d e : Device} {u : MemUser} {dva : Nat} {write : Bool} {r : Except MemErr Place}
    (h : d.translate u dva write = (e, r)) : e.flowDone = d.flowDone := by
  have hkeeps := Device.translate_keeps writeBlind_flowDone.toReadBlind d u dva write
  rwa [h] at hkeeps

theorem bar4Read_vf (hs : s.inService = true) (hfn : s.dev.hasFn fn = true) (h1 : 1 ≤ fn) (ho : off < 8589934592)
    (hspan : spans (n / 4096 + 2) off n = [(off, n)])
    (hx : ((s.quiet.dev.withIo io).bar4User fn).1.translate ((s.quiet.dev.withIo io).bar4User fn).2
      (s.dev.fld (.hifPartWin (fn - 1)) Fd.hifPartWinBase * 8589934592 + off) false = (e, .ok x))
    (hget : e.bar4Get ((s.quiet.dev.withIo io).bar4User fn).2 x n = (f, .ok bs)) : ∃ t : State,
    exec (.bar4Read fn off n io) s = .next t ∧ t.pending = s.pending ∧ t.dev.out = f.out ++ [.readData bs] ∧ t.dev.mem = f.mem := by
  have hplace := Device.bar4Place_translated (d := ((s.quiet.dev.withIo io).bar4User fn).1) h1 ho hx
  exact bar4Read_served_row hs hfn hspan rfl hplace ((Device.flowDone_translate hx).trans (Device.flowDone_bar4User _ fn)) hget

theorem bar4Read_vf_faults {kind addr : Nat} {inj : Bool} (hs : s.inService = true) (hfn : s.dev.hasFn fn = true) (h1 : 1 ≤ fn) (ho : off < 8589934592)
    (hspan : spans (n / 4096 + 2) off n = [(off, n)])
    (hx : ((s.quiet.dev.withIo io).bar4User fn).1.translate ((s.quiet.dev.withIo io).bar4User fn).2
      (s.dev.fld (.hifPartWin (fn - 1)) Fd.hifPartWinBase * 8589934592 + off) false = (e, .error (.xlate kind addr inj))) : ∃ t : State,
    exec (.bar4Read fn off n io) s = .next t ∧ t.pending = s.pending ∧ .unsupported ∈ t.dev.out ∧ t.dev.mem = e.mem := by
  have hplace := Device.bar4Place_faulted (d := ((s.quiet.dev.withIo io).bar4User fn).1) h1 ho hx
  have hlog := e.logSame_bar4Fault fn off kind
  have hflow := (hlog.flowDone.trans (Device.flowDone_translate hx)).trans (Device.flowDone_bar4User _ fn)
  have hrow := (Device.readBar4_ready (d := s.quiet.dev) off n io hfn (State.inService_parts hs).2.2).trans
    (congrArg Device.endIo (Device.bar4Read_faults rfl hspan hplace))
  exact ⟨_, live_row (State.running_of_inService hs) (exec_bar4Read fn off n io s) hrow hflow, rfl,
    List.mem_append_right _ List.mem_cons_self, hlog.mem⟩

/-- R80: a write through BAR4 into one slot. -/
theorem bar4Write_row (hs : s.inService = true) (hfn : s.dev.hasFn fn = true)
    (hspan : spans (bytes.length / 4096 + 2) off bytes.length = [(off, bytes.length)])
    (hu : (s.quiet.dev.withIo io).bar4User fn = (a, u)) (hx : a.bar4Place u fn off true = (e, .ok x)) (hd : e.flowDone = s.dev.flowDone) : ∃ t : State,
    exec (.bar4Write fn off bytes io) s = .next t ∧ t.pending = s.pending ∧ t.dev.mem = (e.bar4Put u x bytes).1.mem := by
  obtain ⟨b, hb, hmem, hflow⟩ := Device.bar4Write_spec hu hspan hx
  have hput := Device.bar4Put_keeps writeBlind_flowDone e u x bytes
  have hrow := (Device.writeBar4_of (d := s.quiet.dev) off bytes io hfn).trans (congrArg Device.endIo hb)
  exact ⟨_, run_row hs (exec_bar4Write fn off bytes io s) hrow ((hflow.trans hput).trans hd), rfl, hmem⟩

theorem bar4Write_pf (hs : s.inService = true) (ho : off < 68719476736)
    (hspan : spans (bytes.length / 4096 + 2) off bytes.length = [(off, bytes.length)])
    (hm : offsetMapped (s.dev.fld .hifWinBase Fd.hifWinBaseBase * 68719476736 + off) = true) : ∃ t : State,
    exec (.bar4Write 0 off bytes io) s = .next t ∧ t.pending = s.pending ∧
      t.dev.mem = (({ s.quiet.dev.withIo io with free := s.dev.free + 1 } : Device).bar4Put { part := 8, cls := fieldOf (Config.freeWord s.dev.free) 7 0 }
        (.device (s.dev.chip * 1125899906842624 + (s.dev.fld .hifWinBase Fd.hifWinBaseBase * 68719476736 + off))) bytes).1.mem :=
  have hplace := Device.bar4Place_pf (d := { s.quiet.dev.withIo io with free := s.dev.free + 1 })
    { part := 8, cls := fieldOf (Config.freeWord s.dev.free) 7 0 } true ho hm
  bar4Write_row hs (decide_eq_true (Nat.zero_le _)) hspan rfl hplace rfl

theorem bar4Write_vf (hs : s.inService = true) (hfn : s.dev.hasFn fn = true) (h1 : 1 ≤ fn) (ho : off < 8589934592)
    (hspan : spans (bytes.length / 4096 + 2) off bytes.length = [(off, bytes.length)])
    (hx : ((s.quiet.dev.withIo io).bar4User fn).1.translate ((s.quiet.dev.withIo io).bar4User fn).2
      (s.dev.fld (.hifPartWin (fn - 1)) Fd.hifPartWinBase * 8589934592 + off) true = (e, .ok x)) : ∃ t : State,
    exec (.bar4Write fn off bytes io) s = .next t ∧ t.pending = s.pending ∧
      t.dev.mem = (e.bar4Put ((s.quiet.dev.withIo io).bar4User fn).2 x bytes).1.mem := by
  have hplace := Device.bar4Place_translated (d := ((s.quiet.dev.withIo io).bar4User fn).1) h1 ho hx
  exact bar4Write_row hs hfn hspan rfl hplace ((Device.flowDone_translate hx).trans (Device.flowDone_bar4User _ fn))

end

end Sys2Proof.Machine
end

section
/-! PROOF. R212, R216, R217, R24: invalidation, recalibration, and parked commands. -/

namespace Sys2Proof.Machine

/-! ### Invalidation -/

/-- What holds of every listed value, and of what is not listed, holds of what a map reads. -/
theorem SMap.at_of_forall {α : Type} {P : α → Prop} {v : α} {m : SMap α} (hv : P v) (hm : ∀ e ∈ m, P e.2) (k : Nat) : P (SMap.at' v m k) := by
  induction m with
  | nil => exact hv
  | cons a m ih =>
    change P (if a.1 = k then a.2 else SMap.at' v m k)
    split
    · exact hm a List.mem_cons_self
    · exact ih fun e he => hm e (List.mem_cons_of_mem a he)

/-- R216: after a drop of all of them, no die holds a translation of the partition. -/
theorem Device.tlbDrop_all {d : Device} {p : Nat} {inRange : Nat → Nat → Bool} (h : ∀ a n, inRange a n = true) (die : Nat) :
    ∀ x ∈ SMap.at' [] (d.tlbDrop p inRange).tlb die, x.part ≠ p := by
  refine SMap.at_of_forall (P := fun l : List TlbEntry => ∀ x ∈ l, x.part ≠ p) (fun x hx => absurd hx List.not_mem_nil) (fun e he => ?_) die
  obtain ⟨a, -, rfl⟩ := List.mem_map.1 (List.mem_of_mem_filter he)
  intro x hx
  have hkept := (List.mem_filter.1 hx).2
  simpa [h] using hkept

theorem exec_tlbInval (w : Word) (s : State) : exec (.tlbInval w) s = run (fun d => d.tlbInval w (fieldOf w 62 60)) s := rfl

theorem Device.tlbInval_spec (d : Device) (w : Word) (p : Nat) : ∃ e : Device, d.tlbInval w p = e ∧
    e.flag .memTlbInval Fd.memTlbInvalBusy = true ∧ d.sameRegs e [.memTlbInval] ∧ e.mem = d.mem ∧ e.flowDone = d.flowDone ∧
    (bitOf w.toNat 59 = true → ∀ die, ∀ x ∈ SMap.at' [] e.tlb die, x.part ≠ p) := by
  have hdrop (f : Nat → Nat → Bool) : d.sameRegs (d.tlbDrop p f) [.memTlbInval] := Device.sameRegs_of_regs _ rfl
  have hall (f : Nat → Nat → Bool) : (∀ a n, f a n = true) → ∀ die, ∀ x ∈ SMap.at' [] (d.tlbDrop p f).tlb die, x.part ≠ p :=
    fun hf => Device.tlbDrop_all hf
  unfold Device.tlbInval
  dsimp only
  have hmem (f : Nat → Nat → Bool) : (d.tlbDrop p f).mem = d.mem ∧ (d.tlbDrop p f).flowDone = d.flowDone := ⟨rfl, rfl⟩
  refine ⟨_, rfl, Device.flag_setFld_self _ _ _ true rfl (by decide) (by decide),
    (hdrop _).trans (Device.sameRegs_setFld _ _ _ _ List.mem_cons_self), (Device.setFld_mem _ _ _ _).trans (hmem _).1,
    (Device.setFld_flowDone _ _ _ _).trans (hmem _).2, fun hbit => ?_⟩
  rw [Device.setFld_tlb]
  exact hall _ fun a n => by rw [hbit, Bool.true_or]

theorem tlbInval_row {s : State} (w : Word) (hs : s.inService = true) : ∃ t : State, exec (.tlbInval w) s = .next t ∧ t.pending = s.pending ∧
    t.dev.flag .memTlbInval Fd.memTlbInvalBusy = true ∧ s.dev.sameRegs t.dev [.memTlbInval] ∧ t.dev.mem = s.dev.mem ∧
    (bitOf w.toNat 59 = true → ∀ die, ∀ x ∈ SMap.at' [] t.dev.tlb die, x.part ≠ fieldOf w 62 60) := by
  obtain ⟨e, he, hbusy, hregs, hmem, hflow, hgone⟩ := s.quiet.dev.tlbInval_spec w (fieldOf w 62 60)
  exact ⟨_, run_row hs (exec_tlbInval w s) he hflow, rfl, hbusy, hregs, hmem, hgone⟩

theorem exec_tlbInvalComplete (s : State) : exec .tlbInvalComplete s = run (·.setFld .memTlbInval Fd.memTlbInvalBusy 0) s := rfl
theorem exec_lpddr6Recalibrate (s : State) : exec .lpddr6Recalibrate s = run (fun d => d) s := rfl

theorem tlbInvalComplete_row {s : State} (hs : s.inService = true) :
    exec .tlbInvalComplete s = .next (s.after fun d => d.setFld .memTlbInval Fd.memTlbInvalBusy 0) :=
  run_row hs (exec_tlbInvalComplete s) rfl (Device.setFld_flowDone _ _ _ _)

theorem lpddr6Recalibrate_row {s : State} (hs : s.inService = true) : exec .lpddr6Recalibrate s = .next s.quiet :=
  run_row hs (exec_lpddr6Recalibrate s) rfl rfl

/-! ### A parked command runs again -/

/-- R217: the translations of a parked command's unit leave alone what any read of memory does. -/
theorem Device.unitFault_keeps {α : Type} {g : Device → α} (h : ReadBlind g) (d : Device) (p : Nat) (c : Cmd) : g (d.unitFault p c).1 = g d := by
  have one (d : Device) (u : MemUser) (a n : Nat) (w : Bool) : g (match d.translateAll u a n w with
      | (d, .error e) => (d, some e)
      | (d, .ok _) => (d, none) : Device × Option MemErr).1 = g d := by
    have ht := Device.translateAll_keeps h d u a n w
    split
    next hx => rw [hx] at ht; exact ht
    next hx => rw [hx] at ht; exact ht
  unfold Device.unitFault
  dsimp only
  split
  case isFalse => rfl
  case isTrue =>
    generalize hsrc : (if opcodeOf c.desc = 0x21 then (d, none) else _ : Device × Option MemErr) = src
    have hfrom : g src.1 = g d := by
      rw [← hsrc]
      split
      · rfl
      · exact one d _ _ _ _
    obtain ⟨e, r⟩ := src
    cases r with
    | some x => exact hfrom
    | none => exact (one e _ _ _ _).trans hfrom

theorem Device.takeEntries_keeps (d : Device) (p q idx : Nat) (needs : List (Nat × Nat)) :
    (d.takeEntries p q idx needs).queues = d.queues ∧ (d.takeEntries p q idx needs).mem = d.mem ∧ (d.takeEntries p q idx needs).flowDone = d.flowDone := by
  unfold Device.takeEntries
  refine ⟨Device.foldl_frame Device.queues _ ?_ needs d, Device.foldl_frame Device.mem _ ?_ needs d, Device.foldl_frame Device.flowDone _ ?_ needs d⟩
  · exact fun _ _ => rfl
  · exact fun _ _ => rfl
  · exact fun _ _ => rfl

/-- R217: a command that is parked no more. -/
def Cmd.unparked (c : Cmd) : Cmd := { c with parked := none }

/-- R217: a command that runs again is parked no more. -/
theorem Device.unpark_spec {d : Device} {p q : Nat} {c : Cmd} (hc : d.cmd? p q c.idx = some c) : ∃ e : Device, d.unpark p q c = e ∧
    e.cmd? p q c.idx = some c.unparked ∧ e.mem = d.mem ∧ e.flowDone = d.flowDone := by
  have hcmd : (d.updCmd p q c.idx Cmd.unparked).cmd? p q c.idx = some c.unparked := by
    rw [Device.cmd_updCmd _ _ _ _ Cmd.unparked (fun _ h => h), hc, Option.map_some]
  have hmem := d.updCmd_mem p q c.idx Cmd.unparked
  have hflow := d.updCmd_flowDone p q c.idx Cmd.unparked
  obtain ⟨tq, tm, tf⟩ := (d.updCmd p q c.idx Cmd.unparked).takeEntries_keeps p q c.idx (d.engineNeeds p c.desc)
  refine ⟨_, rfl, ?_, ?_, ?_⟩
  · exact (Device.cmd_congr ((Device.setFld_queues _ _ _ _).trans tq) p q c.idx).trans hcmd
  · exact (Device.setFld_mem _ _ _ _).trans (tm.trans hmem)
  · exact (Device.setFld_flowDone _ _ _ _).trans (tf.trans hflow)

section
variable {d e : Device} {p q handle : Nat} {c : Cmd}

/-- R217: work parked under a handle runs on where its unit translates. -/
theorem Device.resume_runs (hat : d.parkedAs p handle = some (q, c)) (hf : d.unitFault p c = (e, none)) : d.resume p handle = e.unpark p q c := by
  unfold Device.resume
  rw [hat]
  dsimp only
  unfold Device.retryUnit
  rw [hf]

theorem Device.handleDie_parked (hat : d.parkedAs p handle = some (q, c)) : d.handleDie p handle = d.workDie p c.unit := by
  unfold Device.handleDie
  rw [hat]

/-- R217: where its unit translates, a parked command that is resumed is parked no more, and memory is unchanged. -/
theorem Device.resume_spec (hc : d.cmd? p q c.idx = some c) (hat : d.parkedAs p handle = some (q, c)) (hf : d.unitFault p c = (e, none)) :
    ∃ t : Device, d.resume p handle = t ∧ t.cmd? p q c.idx = some c.unparked ∧ t.mem = d.mem ∧ t.flowDone = d.flowDone := by
  have hqueues := Device.unitFault_keeps writeBlind_queues.toReadBlind d p c
  have hmem := Device.unitFault_keeps readBlind_mem d p c
  have hflow := Device.unitFault_keeps writeBlind_flowDone.toReadBlind d p c
  rw [hf] at hqueues hmem hflow
  obtain ⟨t, ht, tcmd, tmem, tflow⟩ := Device.unpark_spec ((Device.cmd_congr hqueues p q c.idx).trans hc)
  exact ⟨t, (Device.resume_runs hat hf).trans ht, tcmd, tmem.trans hmem, tflow.trans hflow⟩

end

theorem exec_faultResumeRetry (p handle : Nat) (io : MemIo) (s : State) :
    exec (.faultResumeRetry p handle io) s = run (fun d => ((d.withIo io).resume p handle).endIo) s := rfl
theorem exec_pageFillComplete (p handle : Nat) (io : MemIo) (s : State) :
    exec (.pageFillComplete p handle io) s = run (fun d => ((d.withIo io).pageFilled p handle).endIo) s := rfl

section
variable {s : State} {e : Device} {p q handle : Nat} {c : Cmd} {io : MemIo}

theorem faultResumeRetry_row (hs : s.inService = true) (hat : s.dev.parkedAs p handle = some (q, c)) (hc : s.dev.cmd? p q c.idx = some c)
    (hf : (s.quiet.dev.withIo io).unitFault p c = (e, none)) : ∃ t : State, exec (.faultResumeRetry p handle io) s = .next t ∧ t.pending = s.pending ∧
      t.dev.cmd? p q c.idx = some { c with parked := none } ∧ t.dev.mem = s.dev.mem := by
  obtain ⟨t, ht, hcmd, hmem, hflow⟩ := Device.resume_spec (d := s.quiet.dev.withIo io) hc hat hf
  exact ⟨_, run_row hs (exec_faultResumeRetry p handle io s) (congrArg Device.endIo ht) hflow, rfl, hcmd, hmem⟩

theorem pageFillComplete_runs (hs : s.inService = true) (hat : s.dev.parkedAs p handle = some (q, c)) (hc : s.dev.cmd? p q c.idx = some c)
    (hf : (s.quiet.dev.withIo io).unitFault p c = (e, none)) (hrun : s.dev.stopped (s.dev.workDie p c.unit) = false) : ∃ t : State,
    exec (.pageFillComplete p handle io) s = .next t ∧ t.pending = s.pending ∧
      t.dev.cmd? p q c.idx = some { c with parked := none } ∧ t.dev.mem = s.dev.mem := by
  obtain ⟨t, ht, hcmd, hmem, hflow⟩ := Device.resume_spec (d := s.quiet.dev.withIo io) hc hat hf
  have hdie := Device.handleDie_parked (d := s.quiet.dev.withIo io) hat
  have hfilled : (s.quiet.dev.withIo io).pageFilled p handle = t := by
    rw [Device.pageFilled, hdie]
    exact (if_neg (ne_true_of_eq_false hrun)).trans ht
  exact ⟨_, run_row hs (exec_pageFillComplete p handle io s) (congrArg Device.endIo hfilled) hflow, rfl, hcmd, hmem⟩

/-- R24: while the control complex of the die is stopped, firmware of it completes no page. -/
theorem pageFillComplete_stopped (hs : s.inService = true) (hat : s.dev.parkedAs p handle = some (q, c))
    (hstop : s.dev.stopped (s.dev.workDie p c.unit) = true) : ∃ t : State, exec (.pageFillComplete p handle io) s = .next t ∧ t.pending = s.pending ∧
      t.dev.queues = s.dev.queues ∧ t.dev.mem = s.dev.mem := by
  have hdie := Device.handleDie_parked (d := s.quiet.dev.withIo io) hat
  have hfilled : (s.quiet.dev.withIo io).pageFilled p handle = s.quiet.dev.withIo io := by
    rw [Device.pageFilled, hdie]
    exact if_pos hstop
  exact ⟨_, run_row hs (exec_pageFillComplete p handle io s) (congrArg Device.endIo hfilled) rfl, rfl, rfl, rfl⟩

end

/-! ### A parked command is abandoned -/

/-- R102, R217: a command that is DONE with a STATUS. -/
def Cmd.doneWith (c : Cmd) (status : Nat) : Cmd := { c with st := .done, status := status, parked := none }

/-- R102: what a command that is no flow item leaves when it is DONE with a STATUS that is no time-out. -/
theorem Device.cmdDone_spec {d : Device} {p q status : Nat} {c x : Cmd} (hc : d.cmd? p q c.idx = some x) (hi : c.item = false)
    (hst : status ≠ 3 ∧ status ≠ 5) : ∃ e : Device, d.cmdDone p q c status = e ∧
    e.cmd? p q c.idx = some (x.doneWith status) ∧ e.mem = d.mem ∧ e.flowDone = d.flowDone := by
  have hdrop := (d.updCmd p q c.idx (·.doneWith status)).entriesOnly_dropEntries p q c.idx
  have hqueues : ((d.updCmd p q c.idx (·.doneWith status)).dropEntries p q c.idx).queues = (d.updCmd p q c.idx (·.doneWith status)).queues :=
    (congrArg Device.queues hdrop :)
  have hmem : ((d.updCmd p q c.idx (·.doneWith status)).dropEntries p q c.idx).mem = (d.updCmd p q c.idx (·.doneWith status)).mem :=
    (congrArg Device.mem hdrop :)
  have hflow : ((d.updCmd p q c.idx (·.doneWith status)).dropEntries p q c.idx).flowDone = (d.updCmd p q c.idx (·.doneWith status)).flowDone :=
    (congrArg Device.flowDone hdrop :)
  have hcmd : (d.updCmd p q c.idx (·.doneWith status)).cmd? p q c.idx = some (x.doneWith status) := by
    rw [Device.cmd_updCmd _ _ _ _ (·.doneWith status) (fun _ h => h), hc, Option.map_some]
  have heq : d.cmdDone p q c status = (d.updCmd p q c.idx (·.doneWith status)).dropEntries p q c.idx := by
    unfold Device.cmdDone
    rw [hi]
    dsimp only
    exact if_neg fun h => h.1.elim hst.1 hst.2
  exact ⟨_, heq, (Device.cmd_congr hqueues p q c.idx).trans hcmd, hmem.trans (Device.updCmd_mem _ _ _ _ _), hflow.trans (Device.updCmd_flowDone _ _ _ _ _)⟩

section
variable {d : Device} {p q handle : Nat} {c : Cmd}

/-- R217: a command that opens or closes no step, and makes no checkpoint, is abandoned. -/
theorem Device.abandon_spec (hc : d.cmd? p q c.idx = some c) (hi : c.item = false) (hop : opcodeOf c.desc ∉ [0x70, 0x71, 0x81]) :
    ∃ e : Device, d.abandon p q c = e ∧ e.cmd? p q c.idx = some (c.doneWith 4) ∧ e.mem = d.mem ∧ e.flowDone = d.flowDone := by
  have hlogq := Device.logMem_keeps writeBlind_queues.toReadBlind d (d.userOf p c c.unit) 0x0A02 2 c.fault.1 c.handle c.fault.2 0 false
  have hlogm := Device.logMem_keeps readBlind_mem d (d.userOf p c c.unit) 0x0A02 2 c.fault.1 c.handle c.fault.2 0 false
  have hlogf := Device.logMem_keeps writeBlind_flowDone.toReadBlind d (d.userOf p c c.unit) 0x0A02 2 c.fault.1 c.handle c.fault.2 0 false
  unfold Device.abandon
  dsimp only
  generalize d.logMem (d.userOf p c c.unit) 0x0A02 2 c.fault.1 c.handle c.fault.2 0 = a at hlogq hlogm hlogf ⊢
  simp only [List.mem_cons, List.not_mem_nil, or_false, not_or] at hop
  obtain ⟨h70, h71, h81⟩ := hop
  split
  next h => exact absurd h h70
  next h => exact absurd h h71
  next h => exact absurd h h81
  next =>
    obtain ⟨e, he, hcmd, hmem, hflow⟩ := Device.cmdDone_spec (d := a) (c := c.unparked) (status := 4)
      ((Device.cmd_congr hlogq p q c.idx).trans hc) hi (by decide)
    refine ⟨_, congrArg (·.countParked p) he, ?_, (Device.setFld_mem _ _ _ _).trans (hmem.trans hlogm),
      (Device.setFld_flowDone _ _ _ _).trans (hflow.trans hlogf)⟩
    exact (Device.cmd_congr (Device.setFld_queues _ _ _ _) p q c.idx).trans hcmd

theorem Device.abandonHandle_cmd (hat : d.parkedAs p handle = some (q, c)) : d.abandonHandle p handle = d.abandon p q c := by
  unfold Device.abandonHandle
  rw [hat]

end

/-- R217: a row that abandons the command parked under a handle. -/
theorem abandon_row {s : State} {i : Instr} {p q handle : Nat} {c : Cmd} (hs : s.inService = true) (hi : exec i s = run (·.abandonHandle p handle) s)
    (hat : s.dev.parkedAs p handle = some (q, c)) (hc : s.dev.cmd? p q c.idx = some c) (hitem : c.item = false)
    (hop : opcodeOf c.desc ∉ [0x70, 0x71, 0x81]) : ∃ t : State, exec i s = .next t ∧ t.pending = s.pending ∧
      t.dev.cmd? p q c.idx = some { c with st := .done, status := 4, parked := none } ∧ t.dev.mem = s.dev.mem := by
  obtain ⟨e, he, hcmd, hmem, hflow⟩ := Device.abandon_spec (d := s.quiet.dev) hc hitem hop
  exact ⟨_, run_row hs hi ((Device.abandonHandle_cmd (d := s.quiet.dev) hat).trans he) hflow, rfl, hcmd, hmem⟩

theorem exec_faultResumeAbandon (p handle : Nat) (s : State) : exec (.faultResumeAbandon p handle) s = run (·.abandonHandle p handle) s := rfl
theorem exec_parkTimeout (p handle : Nat) (s : State) : exec (.parkTimeout p handle) s = run (·.abandonHandle p handle) s := rfl

/-- Settles O32: BAR4 by the one slot its bytes lie in (`bar4Read_served_row`, `bar4Write_row`), the translations by what a drop leaves
(`tlbInval_row`), a parked command by whether its unit translates (`Device.resume_spec`) or it is abandoned (`Device.abandon_spec`). -/
theorem windowsAndTranslation : Obligations.WindowsAndTranslation := by
  unfold Obligations.WindowsAndTranslation
  refine ⟨fun s fn off n io hs hfn hr => ?_, fun s off n io e bs hs ho hspan hm hget => ?_,
    fun s fn off n io hs hfn h1 ho hspan => ⟨fun e f x bs hx hget => ?_, fun e kind addr inj hx => ?_⟩,
    fun s off bytes io hs ho hspan hm => ?_, fun s fn off bytes io e x hs hfn h1 ho hspan hx => ?_, fun s w hs => ?_, fun s hs => ?_,
    fun s p q handle c hs hat hc => ⟨fun io e hf => ⟨fun hrun => ?_, fun hstop => ?_, ?_⟩, fun hi hop => ⟨?_, ?_⟩⟩⟩
  · exact bar4Read_before_ready off n io hs hfn hr
  · exact bar4Read_pf hs ho hspan hm hget
  · exact bar4Read_vf hs hfn h1 ho hspan hx hget
  · exact bar4Read_vf_faults hs hfn h1 ho hspan hx
  · exact bar4Write_pf hs ho hspan hm
  · exact bar4Write_vf hs hfn h1 ho hspan hx
  · exact tlbInval_row w hs
  · exact ⟨tlbInvalComplete_row hs, lpddr6Recalibrate_row hs⟩
  · exact pageFillComplete_runs hs hat hc hf hrun
  · exact pageFillComplete_stopped hs hat hstop
  · exact faultResumeRetry_row hs hat hc hf
  · exact abandon_row hs (exec_faultResumeAbandon p handle s) hat hc hi hop
  · exact abandon_row hs (exec_parkTimeout p handle s) hat hc hi hop

end Sys2Proof.Machine
end

section
/-! PROOF. What the operations of a sequencer do to their core, and to nothing else. -/

namespace Sys2Proof.Machine

/-- e is d but for core c, which is k. -/
structure Device.CoreIs (d e : Device) (c : Nat) (k : Core) : Prop where
  frame : e = { d with cores := e.cores }
  core : e.core c = k
  others : ∀ x, x ≠ c → e.core x = d.core x

namespace Device.CoreIs

variable {d e : Device} {c : Nat} {k : Core}

theorem refl (d : Device) (c : Nat) : d.CoreIs d c (d.core c) := ⟨rfl, rfl, fun _ _ => rfl⟩

theorem setCore (h : d.CoreIs e c k) (k' : Core) : d.CoreIs (e.setCore c k') c k' where
  frame := congrArg (fun x : Device => { x with cores := (e.setCore c k').cores }) h.frame
  core := Device.core_setCore_self _ _ _
  others x hx := (Device.core_setCore_ne _ _ _ _ hx).trans (h.others x hx)

theorem updCore (h : d.CoreIs e c k) (f : Core → Core) : d.CoreIs (e.updCore c f) c (f k) :=
  h.core ▸ h.setCore (f (e.core c))

theorem frame_out (h : d.CoreIs e c k) : { e with cores := d.cores, out := d.out } = d :=
  congrArg (fun x : Device => { x with cores := d.cores, out := d.out }) h.frame

/-- R108: entering a block takes the lease on its region, unless it is held. -/
theorem takeLease (h : d.CoreIs e c k) : d.CoreIs (e.takeLease c) c k.entered := by
  obtain rfl := h.core
  unfold Device.takeLease Core.entered
  dsimp only
  cases hl : (e.core c).lease with
  | none => exact h.setCore _
  | some r =>
    rw [Option.isSome_some, if_pos rfl, Option.getD_some, ← hl]
    exact h

/-- R107: at the end of a block a core that runs, with no lapsed part, gives up its lease. -/
theorem blockEnd (h : d.CoreIs e c k) (hl : k.lapsed = none) (hst : k.st = .running) : d.CoreIs (e.blockEnd c) c { k with lease := none } := by
  obtain rfl := h.core
  unfold Device.blockEnd
  dsimp only
  rw [hl, hst]
  exact h.setCore _

/-- R112: within a block the sequencer goes on to the successor of word w. -/
theorem advanceFrom (h : d.CoreIs e c k) {w next : Nat} {rest : List LoopFrame} (hn : loopNext w k.loops = (next, rest, false))
    (hp : next ≠ 8192) (hw : w % 512 ≠ 511) : d.CoreIs (e.advanceFrom c w) c { k with pc := next, loops := rest } := by
  obtain rfl := h.core
  unfold Device.advanceFrom
  simp only [hn, hp, decide_false, Bool.false_or, beq_eq_false_iff_ne.2 hw, Bool.false_eq_true, if_false, false_and]
  exact h.setCore _

/-- R107, R112: where the block ends at word w, the core gives up its lease as it goes on. -/
theorem advanceFrom_ends (h : d.CoreIs e c k) {w next : Nat} {rest : List LoopFrame} {ends body : Bool}
    (hn : loopNext w k.loops = (next, rest, body)) (he : (ends || body || w % 512 == 511) = true) (hp : next ≠ 8192) (hl : k.lapsed = none)
    (hst : k.st = .running) : d.CoreIs (e.advanceFrom c w ends) c { k with pc := next, loops := rest, lease := none } := by
  obtain rfl := h.core
  unfold Device.advanceFrom
  simp only [hn, he, hp, decide_false, Bool.false_eq_true, if_false, if_true, false_and]
  exact (h.setCore _).blockEnd hl hst

/-- R112: outside loops and within a region the sequencer goes on to the next word. -/
theorem advance_next (h : d.CoreIs e c k) (hloops : k.loops = []) (hw : k.pc % 512 ≠ 511) : d.CoreIs (e.advance c) c { k with pc := k.pc + 1 } := by
  have hgo := h.advanceFrom (w := k.pc) (next := k.pc + 1) (rest := []) (by rw [hloops]; rfl) (by omega) hw
  obtain rfl := h.core
  rw [← hloops] at hgo
  exact hgo

/-- R107: a word outside loops that ends its block. -/
theorem advance_ends (h : d.CoreIs e c k) (hloops : k.loops = []) (hw : k.pc ≠ 8191) (hl : k.lapsed = none) (hst : k.st = .running) :
    d.CoreIs (e.advance c true) c { k with pc := k.pc + 1, lease := none } := by
  have hgo := h.advanceFrom_ends (w := k.pc) (next := k.pc + 1) (rest := []) (ends := true) (by rw [hloops]; rfl) rfl (by omega) hl hst
  obtain rfl := h.core
  rw [← hloops] at hgo
  exact hgo

end Device.CoreIs

/-! ### A control instruction at a core that can run it -/

theorem Device.control_at {d : Device} {c cls : Nat} (f : Word → Device → Device) (h : d.atControl c cls = true) :
    d.control c cls f = f (d.coreWord c) (d.takeLease c) := by
  simp only [Device.atControl, Bool.and_eq_true, beq_iff_eq] at h
  exact if_pos ⟨h.1.1, h.1.2, h.2⟩

/-- A control instruction that changes its core alone. -/
theorem control_row {s : State} {i : Instr} {c cls : Nat} {f : Word → Device → Device} {k : Core} (hs : s.inService = true)
    (hi : exec i s = run (fun d => d.control c cls f) s) (hat : s.dev.atControl c cls = true)
    (h : s.quiet.dev.CoreIs (f (s.dev.coreWord c) (s.quiet.dev.takeLease c)) c k) :
    ∃ t : State, exec i s = .next t ∧ t.pending = s.pending ∧ s.dev.onlyCore t.dev c ∧ t.dev.core c = k := by
  have hflow := congrArg Device.flowDone h.frame
  exact ⟨_, run_row hs hi (Device.control_at (d := s.quiet.dev) f hat) hflow, rfl,
    ⟨congrArg (fun x : Device => { x with out := s.dev.out }) h.frame_out, h.others⟩, h.core⟩

theorem exec_set (c : Nat) (s : State) : exec (.set c) s = run (fun d => d.control c 0x05 fun w d => d.instrSet c w) s := rfl
theorem exec_add (c : Nat) (s : State) : exec (.add c) s = run (fun d => d.control c 0x06 fun w d => d.instrAdd c w) s := rfl
theorem exec_loop (c : Nat) (s : State) : exec (.loop c) s = run (fun d => d.control c 0x03 fun w d => d.instrLoop c w) s := rfl
theorem exec_branch (c : Nat) (s : State) : exec (.branch c) s = run (fun d => d.control c 0x04 fun w d => d.instrBranch c w) s := rfl

end Sys2Proof.Machine
end

section
/-! PROOF. O17: SET, ADD, LOOP and BRANCH. -/

namespace Sys2Proof.Machine

/-! ### The instructions -/

section
variable {d e : Device} {c : Nat} {k : Core} {w : Word}

theorem Device.CoreIs.instrSet (h : d.CoreIs e c k) (hloops : k.loops = []) (hpc : k.pc % 512 ≠ 511) :
    d.CoreIs (e.instrSet c w) c { k.setSreg (fieldOf w 55 52) (signExt 32 (fieldOf w 31 0)) with pc := k.pc + 1 } :=
  (h.updCore _).advance_next hloops hpc

theorem Device.CoreIs.instrAdd (h : d.CoreIs e c k) (hloops : k.loops = []) (hpc : k.pc % 512 ≠ 511) :
    d.CoreIs (e.instrAdd c w) c
      { k.setSreg (fieldOf w 55 52) (k.sreg (fieldOf w 51 48) + signExt 32 (fieldOf w 31 0)) with pc := k.pc + 1 } :=
  (h.updCore _).advance_next hloops hpc

/-- R112: the last word of a loop that has iterations left is followed by its first. -/
theorem loopNext_again {f : LoopFrame} (fs : List LoopFrame) (h : 1 < f.left) :
    loopNext f.last (f :: fs) = (f.first, { f with left := f.left - 1 } :: fs, true) := by
  rw [loopNext, if_pos rfl, if_pos h]

/-- R112: SET at the last word of a loop that has iterations left. -/
theorem Device.CoreIs.instrSet_again (h : d.CoreIs e c k) {f : LoopFrame} {fs : List LoopFrame} (hloops : k.loops = f :: fs) (hpc : k.pc = f.last)
    (hleft : 1 < f.left) (hfirst : f.first ≠ 8192) (hl : k.lapsed = none) (hst : k.st = .running) :
    d.CoreIs (e.instrSet c w) c { k.setSreg (fieldOf w 55 52) (signExt 32 (fieldOf w 31 0)) with
      pc := f.first, loops := { f with left := f.left - 1 } :: fs, lease := none } := by
  have hset := h.updCore fun k => k.setSreg (fieldOf w 55 52) (signExt 32 (fieldOf w 31 0))
  have hnext : loopNext k.pc k.loops = (f.first, { f with left := f.left - 1 } :: fs, true) := by
    rw [hloops, hpc]
    exact loopNext_again fs hleft
  have hgo := hset.advanceFrom_ends (ends := false) hnext rfl hfirst hl hst
  rw [Device.instrSet, Device.advance, hset.core]
  exact hgo

/-- R111, R113: a LOOP whose nest, count and body are in order has none of the faults of kinds 2 to 4. -/
theorem Device.instrLoop_legal {count : Word} {last : Nat} (hcount : count = (d.core c).sreg (fieldOf w 55 52))
    (hlast : last = (d.core c).pc + fieldOf w 41 32) (hnest : (d.core c).loops.length < 4) (hhigh : fieldOf count 63 32 = 0)
    (hregion : regionOf last = regionOf (d.core c).pc) (hinner : ∀ f ∈ (d.core c).loops, last ≤ f.last) :
    d.instrLoop c w = if count.toNat = 0 then d.advanceFrom c last else
      (d.setCore c { d.core c with
        pc := (d.core c).pc + 1
        loops := { first := (d.core c).pc + 1, last := last, left := count.toNat } :: (d.core c).loops }).blockEnd c := by
  subst hcount hlast
  have hin : ((d.core c).loops.any fun f => decide (f.last < (d.core c).pc + fieldOf w 41 32)) = false := by
    simpa using hinner
  unfold Device.instrLoop
  simp only [if_neg (Nat.not_le.2 hnest), hhigh, hregion, hin, ne_eq, not_true, false_or, Bool.false_eq_true, if_false]

/-- R111: a LOOP with a count enters its body. -/
theorem Device.CoreIs.instrLoop_enters (h : d.CoreIs e c k) (hnest : k.loops.length < 4) (hinner : ∀ f ∈ k.loops, k.pc + fieldOf w 41 32 ≤ f.last)
    (hl : k.lapsed = none) (hst : k.st = .running) (hhigh : fieldOf (k.sreg (fieldOf w 55 52)) 63 32 = 0)
    (hregion : regionOf (k.pc + fieldOf w 41 32) = regionOf k.pc) (hcount : (k.sreg (fieldOf w 55 52)).toNat ≠ 0) :
    d.CoreIs (e.instrLoop c w) c { k with
      pc := k.pc + 1, lease := none
      loops := { first := k.pc + 1, last := k.pc + fieldOf w 41 32, left := (k.sreg (fieldOf w 55 52)).toNat } :: k.loops } := by
  obtain rfl := h.core
  rw [Device.instrLoop_legal rfl rfl hnest hhigh hregion hinner, if_neg hcount]
  exact (h.setCore _).blockEnd hl hst

/-- R111: a LOOP with a count of zero goes on past its body. -/
theorem Device.CoreIs.instrLoop_skips (h : d.CoreIs e c k) (hloops : k.loops = []) (hregion : regionOf (k.pc + fieldOf w 41 32) = regionOf k.pc)
    (hcount : k.sreg (fieldOf w 55 52) = 0) (hlast : (k.pc + fieldOf w 41 32) % 512 ≠ 511) :
    d.CoreIs (e.instrLoop c w) c { k with pc := k.pc + fieldOf w 41 32 + 1 } := by
  obtain rfl := h.core
  have hgo := h.advanceFrom (w := (e.core c).pc + fieldOf w 41 32) (next := (e.core c).pc + fieldOf w 41 32 + 1) (rest := [])
    (by rw [hloops]; rfl) (by omega) hlast
  rw [Device.instrLoop_legal hcount.symm rfl (by rw [hloops]; decide) (by decide) hregion (by simp [hloops]),
    if_pos (show (0 : Word).toNat = 0 from rfl)]
  rw [← hloops] at hgo
  exact hgo

/-- R107, R112: a BRANCH that is taken ends its block, and the loops whose bodies it leaves. -/
theorem Device.CoreIs.instrBranch_taken (h : d.CoreIs e c k) (hl : k.lapsed = none) (hst : k.st = .running)
    (ht : branchTaken (fieldOf w 51 48) (k.sreg (fieldOf w 55 52)) = true) :
    d.CoreIs (e.instrBranch c w) c { k with
      pc := fieldOf w 12 0, lease := none
      loops := k.loops.dropWhile fun f => !(decide (f.first ≤ fieldOf w 12 0) && decide (fieldOf w 12 0 ≤ f.last)) } := by
  obtain rfl := h.core
  rw [Device.instrBranch, if_pos ht]
  exact (h.setCore _).blockEnd hl hst

theorem Device.CoreIs.instrBranch_not_taken (h : d.CoreIs e c k) (hl : k.lapsed = none) (hst : k.st = .running) (hloops : k.loops = [])
    (hpc : k.pc ≠ 8191) (ht : branchTaken (fieldOf w 51 48) (k.sreg (fieldOf w 55 52)) = false) :
    d.CoreIs (e.instrBranch c w) c { k with pc := k.pc + 1, lease := none } := by
  have hgo := h.advance_ends hloops hpc hl hst
  obtain rfl := h.core
  rw [Device.instrBranch, if_neg (by rw [ht]; exact Bool.false_ne_true)]
  exact hgo

end

/-! ### O17 -/

/-- Settles O17, instruction by instruction: each has its own lemma above, and a control instruction that changes its core alone is one row. -/
theorem sequencerMovesOn : Obligations.SequencerMovesOn := by
  unfold Obligations.SequencerMovesOn
  rintro s c _ _ hs rfl rfl
  have hin : s.quiet.dev.CoreIs (s.quiet.dev.takeLease c) c (s.dev.core c).entered := (Device.CoreIs.refl s.quiet.dev c).takeLease
  refine ⟨fun hat hloops hpc => ?_, fun hat hloops hpc => ?_, fun f fs hat hloops hpc hleft hfirst hl hst => ?_,
    fun hat hnest hinner hl hst hhigh hregion hcount => ?_, fun hat hloops hregion hcount hlast => ?_,
    fun hat hl hst ht => ?_, fun hat hl hst hloops hpc ht => ?_⟩
  · exact control_row hs (exec_set c s) hat (hin.instrSet hloops hpc)
  · exact control_row hs (exec_add c s) hat (hin.instrAdd hloops hpc)
  · exact control_row hs (exec_set c s) hat (hin.instrSet_again hloops hpc hleft hfirst hl hst)
  · exact control_row hs (exec_loop c s) hat (hin.instrLoop_enters hnest hinner hl hst hhigh hregion hcount)
  · exact control_row hs (exec_loop c s) hat (hin.instrLoop_skips hloops hregion hcount hlast)
  · exact control_row hs (exec_branch c s) hat (hin.instrBranch_taken hl hst ht)
  · exact control_row hs (exec_branch c s) hat (hin.instrBranch_not_taken hl hst hloops hpc ht)

end Sys2Proof.Machine
end

section
/-! PROOF. What the work of sequencers and of commands leaves alone. -/

namespace Sys2Proof.Machine

/-- d with what the work of sequencers and commands may change taken from x: registers, cores, commands, sync objects, and what logging may
change. -/
def Device.withSeq (d x : Device) : Device :=
  { d with
    regs := x.regs, errs := x.errs, hist := x.hist, events := x.events, hostMem := x.hostMem, msixPending := x.msixPending
    out := x.out, cores := x.cores, queues := x.queues, objs := x.objs, waiterEpisode := x.waiterEpisode }

/-- e is d but for registers, cores, commands, sync objects, and what logging may change. -/
def Device.SeqSame (d e : Device) : Prop := e = d.withSeq e

namespace Device.SeqSame

variable {d e e' : Device}

theorem refl (d : Device) : d.SeqSame d := rfl

theorem trans (h : d.SeqSame e) (g : e.SeqSame e') : d.SeqSame e' :=
  calc e' = e.withSeq e' := g
    _ = (d.withSeq e).withSeq e' := congrArg (·.withSeq e') h
    _ = d.withSeq e' := rfl

theorem eq (h : d.SeqSame e) : e = d.withSeq e := h

theorem mem (h : d.SeqSame e) : e.mem = d.mem := (congrArg Device.mem h.eq :)
theorem flowDone (h : d.SeqSame e) : e.flowDone = d.flowDone := (congrArg Device.flowDone h.eq :)
theorem readyLists (h : d.SeqSame e) : e.readyLists = d.readyLists := (congrArg Device.readyLists h.eq :)

theorem of_logSame (h : d.LogSame e) : d.SeqSame e := (congrArg (·.withSeq e) h.frame :)

theorem setReg (h : d.SeqSame e) (r : Reg) (w : Word) : d.SeqSame (e.setReg r w) :=
  h.trans (by unfold Device.SeqSame Device.setReg; split <;> rfl)

theorem setFld (h : d.SeqSame e) (r : Reg) (f : RegField) (v : Nat) : d.SeqSame (e.setFld r f v) := h.setReg _ _
theorem bump (h : d.SeqSame e) (r : Reg) (f : RegField) (n : Nat) : d.SeqSame (e.bump r f n) := h.setReg _ _
theorem setCore (h : d.SeqSame e) (c : Nat) (k : Core) : d.SeqSame (e.setCore c k) := h.trans rfl
theorem updCore (h : d.SeqSame e) (c : Nat) (f : Core → Core) : d.SeqSame (e.updCore c f) := h.trans rfl
theorem setObj (h : d.SeqSame e) (n : Nat) (o : SyncObj) : d.SeqSame (e.setObj n o) := h.trans rfl
theorem setQueue (h : d.SeqSame e) (p q : Nat) (cs : List Cmd) : d.SeqSame (e.setQueue p q cs) :=
  setFld (e := { e with queues := SMap.set (fun _ => []) e.queues (qkey p q) cs }) (h.trans rfl) _ _ _
theorem updCmd (h : d.SeqSame e) (p q i : Nat) (f : Cmd → Cmd) : d.SeqSame (e.updCmd p q i f) := h.setQueue _ _ _
theorem logPart (h : d.SeqSame e) (p code cls : Nat) (body : List Word) (die : Nat) : d.SeqSame (e.logPart p code cls body die) :=
  h.trans (of_logSame (e.logSame_logPart _ _ _ _ _))

end Device.SeqSame

theorem Device.CoreIs.seqSame {d e : Device} {c : Nat} {k : Core} (h : d.CoreIs e c k) : d.SeqSame e :=
  (congrArg (·.withSeq e) h.frame :)

theorem Device.core_congr {d e : Device} (h : e.cores = d.cores) (c : Nat) : e.core c = d.core c := by rw [Device.core, Device.core, h]
theorem Device.obj_congr {d e : Device} (h : e.objs = d.objs) (n : Nat) : e.obj n = d.obj n := by rw [Device.obj, Device.obj, h]

/-- A write leaves alone a register whose offset is not that of a register of the map. -/
theorem Device.reg_setReg_apart (d : Device) {r r' : Reg} (w : Word) (h : r.inRange = true → r'.offset ≠ r.offset) :
    (d.setReg r w).reg r' = d.reg r' := by
  cases hin : r.inRange with
  | true => exact Device.reg_setReg_ne _ _ _ _ (h hin)
  | false => rw [Device.setReg_out_of_range _ _ hin]

theorem Device.reg_updCmd_apart (d : Device) (p q i : Nat) (f : Cmd → Cmd) {r : Reg}
    (h : (Reg.cmdQStatus p q).inRange = true → r.offset ≠ (Reg.cmdQStatus p q).offset) : (d.updCmd p q i f).reg r = d.reg r :=
  Device.reg_setReg_apart { d with queues := SMap.set (fun _ => []) d.queues (qkey p q) _ } _ h

end Sys2Proof.Machine
end

section
/-! PROOF. R115, R173, R203: a core whose engines hold nothing leaves its program. -/

namespace Sys2Proof.Machine

/-- R110, R115: a core after it has left its program in a state. -/
def Core.stopped (k : Core) (st : SeqState) : Core :=
  { ({ k with aq := [], vq := [], tq := [] } : Core).landLapsed with
    st := st, loops := [], lease := none, job := none, pumpWait := none, stalled := false }

theorem Core.stopped_fields {k : Core} (st : SeqState) (h : k.lapsed = none) : (k.stopped st).st = st ∧ (k.stopped st).job = none ∧
    (k.stopped st).loops = [] ∧ (k.stopped st).lease = none ∧ (k.stopped st).sregs = k.sregs ∧ (k.stopped st).pmem = k.pmem ∧
    (k.stopped st).pc = k.pc := by
  have hland : ({ k with aq := [], vq := [], tq := [] } : Core).landLapsed = { k with aq := [], vq := [], tq := [] } := by
    unfold Core.landLapsed
    dsimp only
    rw [h]
  rw [Core.stopped, hland]
  exact ⟨rfl, rfl, rfl, rfl, rfl, rfl, rfl⟩

/-- The registers that the stop of core c leaves alone: all but its count of discarded tiles and the status of the queues. -/
def Reg.NotStop (r : Reg) (c : Nat) : Prop :=
  r.offset ≠ (Reg.mxaStatus c).offset ∧ ∀ p q, (Reg.cmdQStatus p q).inRange = true → r.offset ≠ (Reg.cmdQStatus p q).offset

/-- e is d after core c has left its program in state st, its command told how by x. -/
structure Device.CoreLeft (d e : Device) (c : Nat) (st : SeqState) (x : CoreEnd) : Prop where
  seq : d.SeqSame e
  core : e.core c = (d.core c).stopped st
  others : ∀ y, y ≠ c → e.core y = d.core y
  regs : ∀ r : Reg, r.NotStop c → e.reg r = d.reg r
  told : ∀ p q i, (d.core c).job = some (p, q, i) →
    e.cmd? p q i = (d.cmd? p q i).map fun y => y.coreEnded (d.core c).rank x ((d.core c).sreg 1)

/-- R173, R203: the units of a core whose queues are empty end with a count of the tiles they discard. -/
def Device.unitsEnded (d : Device) (c : Nat) : Device :=
  ((d.updCore c fun k => { k with aq := [] }).bump (.mxaStatus c) Fd.mxaStatusTqDiscards (d.core c).tq.length).updCore c
    fun k => { k with vq := [], tq := [] }

section
variable {d : Device} {c : Nat}

theorem Device.endUnits_empty (ha : (d.core c).aq = []) (hv : (d.core c).vq = []) : d.endUnits c = (d.unitsEnded c, none) := by
  have hcore : (d.updCore c fun k => { k with aq := [] }).core c = { d.core c with aq := [] } := Device.core_updCore_self _ _ _
  have hempty : ((d.updCore c fun k => { k with aq := [] }).core c).vq = [] := by rw [hcore]; exact hv
  unfold Device.endUnits
  dsimp only
  rw [ha, List.foldl_nil, Device.vectorPump_empty hempty]
  dsimp only
  rw [hempty, List.foldl_nil, hcore]
  rfl

theorem Device.core_bump (d : Device) (r : Reg) (f : RegField) (n x : Nat) : (d.bump r f n).core x = d.core x :=
  Device.core_congr (Device.setFld_cores _ _ _ _) x

theorem Device.core_unitsEnded (d : Device) (c x : Nat) :
    (d.unitsEnded c).core x = if x = c then { d.core c with aq := [], vq := [], tq := [] } else d.core x := by
  rw [Device.unitsEnded, Device.core_updCore, Device.core_bump, Device.core_updCore]
  split
  next h => rw [h]
  next h => rfl

theorem Device.seqSame_unitsEnded (d : Device) (c : Nat) : d.SeqSame (d.unitsEnded c) :=
  (((SeqSame.refl d).updCore c _).bump _ _ _).updCore c _

theorem Device.seqSame_dropCoreWaiter (d : Device) (c : Nat) : d.SeqSame (d.dropCoreWaiter c) := rfl

theorem Device.queues_unitsEnded (d : Device) (c : Nat) : (d.unitsEnded c).queues = d.queues := Device.setFld_queues _ _ _ _

theorem Device.reg_unitsEnded (d : Device) {r : Reg} (h : r.offset ≠ (Reg.mxaStatus c).offset) : (d.unitsEnded c).reg r = d.reg r :=
  Device.reg_setReg_ne _ _ _ _ h

/-- R115: a core leaves its program, but for the word to its command. -/
def Device.parked (d : Device) (c : Nat) (st : SeqState) : Device :=
  ((d.unitsEnded c).dropCoreWaiter c).setCore c ((d.core c).stopped st)

theorem Device.dropCoreWaiter_keeps (d : Device) (c : Nat) : (d.dropCoreWaiter c).regs = d.regs ∧ (d.dropCoreWaiter c).queues = d.queues := ⟨rfl, rfl⟩

theorem Device.parked_keeps (d : Device) (c : Nat) (st : SeqState) :
    (d.parked c st).regs = (d.unitsEnded c).regs ∧ (d.parked c st).queues = (d.unitsEnded c).queues := by
  rw [Device.parked, Device.setCore_regs, Device.setCore_queues]
  exact Device.dropCoreWaiter_keeps _ c

theorem Device.coreStop_empty (st : SeqState) (x : CoreEnd) (ha : (d.core c).aq = []) (hv : (d.core c).vq = []) :
    d.coreStop c st x = match (d.core c).job with
      | none => d.parked c st
      | some (p, q, idx) => (d.parked c st).updCmd p q idx fun y => y.coreEnded (d.core c).rank x ((d.core c).sreg 1) := by
  have hunits : (d.unitsEnded c).core c = { d.core c with aq := [], vq := [], tq := [] } := by
    rw [Device.core_unitsEnded, if_pos rfl]
  unfold Device.coreStop
  rw [Device.endUnits_empty ha hv]
  dsimp only
  rw [hunits]
  rfl

theorem Device.coreLeft_coreStop (st : SeqState) (x : CoreEnd) (ha : (d.core c).aq = []) (hv : (d.core c).vq = []) :
    d.CoreLeft (d.coreStop c st x) c st x := by
  have hwork : d.SeqSame (d.parked c st) := ((d.seqSame_unitsEnded c).trans (Device.seqSame_dropCoreWaiter _ c)).setCore c _
  have hcore : (d.parked c st).core c = (d.core c).stopped st := Device.core_setCore_self _ _ _
  have hothers (y : Nat) (hy : y ≠ c) : (d.parked c st).core y = d.core y :=
    (Device.core_setCore_ne _ _ _ _ hy).trans ((d.core_unitsEnded c y).trans (if_neg hy))
  have hregs (r : Reg) (hr : r.NotStop c) : (d.parked c st).reg r = d.reg r :=
    (Device.reg_congr (d.parked_keeps c st).1 r).trans (d.reg_unitsEnded hr.1)
  have hcmd (p q i : Nat) : (d.parked c st).cmd? p q i = d.cmd? p q i := 
    Device.cmd_congr ((d.parked_keeps c st).2.trans (d.queues_unitsEnded c)) p q i
  rw [Device.coreStop_empty st x ha hv]
  cases hjob : (d.core c).job with
  | none => exact ⟨hwork, hcore, hothers, hregs, fun p q i hj => by rw [hjob] at hj; cases hj⟩
  | some j =>
    obtain ⟨p, q, i⟩ := j
    refine ⟨hwork.updCmd _ _ _ _, (Device.core_congr (Device.updCmd_cores _ _ _ _ _) c).trans hcore,
      fun y hy => (Device.core_congr (Device.updCmd_cores _ _ _ _ _) y).trans (hothers y hy),
      fun r hr => (Device.reg_updCmd_apart _ _ _ _ _ (hr.2 p q)).trans (hregs r hr), fun p' q' i' hj => ?_⟩
    rw [hjob] at hj
    cases hj
    rw [← hcmd]
    exact Device.cmd_updCmd _ _ _ _ _ fun _ h => h

end

end Sys2Proof.Machine
end

section
/-! PROOF. O20: HALT, and words that are not legal. -/

namespace Sys2Proof.Machine

/-- e is d but for what the work of sequencers may change, with the commands and the cores of d, but for core c, which is k. -/
structure Device.CoreAt (d e : Device) (c : Nat) (k : Core) : Prop where
  seq : d.SeqSame e
  core : e.core c = k
  others : ∀ y, y ≠ c → e.core y = d.core y
  queues : e.queues = d.queues

theorem Device.CoreIs.at {d e : Device} {c : Nat} {k : Core} (h : d.CoreIs e c k) : d.CoreAt e c k :=
  ⟨h.seqSame, h.core, h.others, (congrArg Device.queues h.frame :)⟩

namespace Device.CoreAt

variable {d e : Device} {c : Nat} {k : Core}

theorem of_cores {e' : Device} (h : d.CoreAt e c k) (hs : e.SeqSame e') (hc : e'.cores = e.cores) (hq : e'.queues = e.queues) : d.CoreAt e' c k where
  seq := h.seq.trans hs
  core := (Device.core_congr hc c).trans h.core
  others y hy := (Device.core_congr hc y).trans (h.others y hy)
  queues := hq.trans h.queues

theorem logPart (h : d.CoreAt e c k) (p code cls : Nat) (body : List Word) (die : Nat) : d.CoreAt (e.logPart p code cls body die) c k :=
  h.of_cores ((SeqSame.refl e).logPart _ _ _ _ _) (Device.logPart_cores _ _ _ _ _ _) (Device.logPart_queues _ _ _ _ _ _)

theorem bump (h : d.CoreAt e c k) (r : Reg) (f : RegField) (n : Nat) : d.CoreAt (e.bump r f n) c k :=
  h.of_cores ((SeqSame.refl e).bump _ _ _) (Device.setFld_cores _ _ _ _) (Device.setFld_queues _ _ _ _)

end Device.CoreAt

/-- R110, R114, R115: t is d after core c, which was k as it stopped, has left its program in state st. -/
structure Device.ProgramEnded (d t : Device) (c : Nat) (k : Core) (st : SeqState) (x : CoreEnd) : Prop where
  st : (t.core c).st = st
  job : (t.core c).job = none
  loops : (t.core c).loops = []
  lease : (t.core c).lease = none
  sregs : (t.core c).sregs = k.sregs
  pmem : (t.core c).pmem = k.pmem
  pc : (t.core c).pc = k.pc
  mem : t.mem = d.mem
  flowDone : t.flowDone = d.flowDone
  others : ∀ y, y ≠ c → t.core y = d.core y
  told : ∀ p q i, k.job = some (p, q, i) → t.cmd? p q i = (d.cmd? p q i).map fun y => y.coreEnded k.rank x (k.sreg 1)

theorem Device.CoreAt.ended {d e : Device} {c : Nat} {k : Core} (h : d.CoreAt e c k) (st : SeqState) (x : CoreEnd) (ha : k.aq = []) (hv : k.vq = [])
    (hl : k.lapsed = none) : d.ProgramEnded (e.coreStop c st x) c k st x := by
  obtain rfl := h.core
  have hleft := Device.coreLeft_coreStop (d := e) st x ha hv
  obtain ⟨hst, hjob, hloops, hlease, hsregs, hpmem, hpc⟩ := Core.stopped_fields st hl
  rw [← hleft.core] at hst hjob hloops hlease hsregs hpmem hpc
  exact ⟨hst, hjob, hloops, hlease, hsregs, hpmem, hpc, hleft.seq.mem.trans h.seq.mem, hleft.seq.flowDone.trans h.seq.flowDone,
    fun y hy => (hleft.others y hy).trans (h.others y hy),
    fun p q i hj => (hleft.told p q i hj).trans (congrArg (Option.map _) (Device.cmd_congr h.queues p q i))⟩

/-! ### HALT -/

/-- R173, R204: a HALT with nothing left in the array and vector queues does not stall. -/
theorem Device.stallsOn_halt {d : Device} {c : Nat} (hw : wordClass (d.coreWord c) = 0x07) (ha : (d.core c).aq = []) (hv : (d.core c).vq = []) :
    d.stallsOn c = false := by
  have hcls : fieldOf (d.itemAt c).word 63 56 = 0x07 := hw
  unfold Device.stallsOn
  dsimp only
  rw [hcls, ha, hv]
  rfl

theorem Device.CoreIs.instrHalt {d e : Device} {c : Nat} {k : Core} (h : d.CoreIs e c k) (hw : wordClass (k.word k.pc) = 0x07) (ha : k.aq = [])
    (hv : k.vq = []) (hl : k.lapsed = none) (hst : k.st = .running) :
    d.ProgramEnded (e.instrHalt c) c { k with lease := none } .idle .halted := by
  have hend := h.blockEnd hl hst
  obtain rfl := h.core
  have hrun : ((e.blockEnd c).core c).st = .running := by rw [hend.core]; exact hst
  unfold Device.instrHalt
  dsimp only
  rw [Device.stallsOn_halt hw ha hv, if_neg Bool.false_ne_true, if_pos hrun]
  exact hend.at.ended .idle .halted ha hv hl

/-! ### A word that is not legal -/

theorem Device.CoreIs.progFault {d e : Device} {c : Nat} {k : Core} (h : d.CoreIs e c k) (kind : Nat) (ha : k.aq = []) (hv : k.vq = [])
    (hl : k.lapsed = none) : d.ProgramEnded (e.progFault c kind) c k .faulted .faulted :=
  Device.CoreAt.ended (h.at.logPart _ _ _ _ _) .faulted .faulted ha hv hl

theorem Device.illegalWord_eq {d : Device} {c : Nat} (hrun : d.canRun c = true) (hw : wordLegal (d.coreWord c) = false) :
    d.illegalWord c = (d.takeLease c).progFault c 1 := if_pos ⟨hrun, hw⟩

/-! ### O20 -/

theorem exec_halt (c : Nat) (s : State) : exec (.halt c) s = run (fun d => d.control c 0x07 fun _ d => d.instrHalt c) s := rfl
theorem exec_illegalWord (c : Nat) (s : State) : exec (.illegalWord c) s = run (·.illegalWord c) s := rfl

/-- Settles O20: HALT ends its block and then its program (`CoreIs.instrHalt`); a word that is not legal is a program fault, which ends the
program in FAULTED (`CoreIs.progFault`); both ends are one stop of a core whose engines hold nothing (`CoreAt.ended`). -/
theorem coresHaltAndFault : Obligations.CoresHaltAndFault := by
  unfold Obligations.CoresHaltAndFault
  rintro s c _ hs rfl ha hv hl hst
  have hin : s.quiet.dev.CoreIs (s.quiet.dev.takeLease c) c (s.dev.core c).entered := (Device.CoreIs.refl s.quiet.dev c).takeLease
  refine ⟨fun hat => ?_, fun hrun hw => ?_⟩
  · have hclass : wordClass (s.dev.coreWord c) = 0x07 := by
      simp only [Device.atControl, Bool.and_eq_true, beq_iff_eq] at hat
      exact hat.1.2
    have hend := hin.instrHalt hclass ha hv hl hst
    have heq : (s.quiet.dev.control c 0x07 fun _ d => d.instrHalt c) = (s.quiet.dev.takeLease c).instrHalt c :=
      Device.control_at (d := s.quiet.dev) (fun _ d => d.instrHalt c) hat
    generalize (s.quiet.dev.takeLease c).instrHalt c = t at hend heq
    exact ⟨_, run_row hs (exec_halt c s) heq hend.flowDone, rfl, hend.st, hend.job, hend.loops, hend.lease, hend.sregs, hend.pmem, hend.mem,
      hend.others, hend.told⟩
  · have hend := hin.progFault 1 ha hv hl
    have heq : s.quiet.dev.illegalWord c = (s.quiet.dev.takeLease c).progFault c 1 := Device.illegalWord_eq (d := s.quiet.dev) hrun hw
    generalize (s.quiet.dev.takeLease c).progFault c 1 = t at hend heq
    exact ⟨_, run_row hs (exec_illegalWord c s) heq hend.flowDone, rfl, hend.st, hend.job, hend.pc, hend.mem, hend.others, hend.told⟩

end Sys2Proof.Machine
end

section
/-! PROOF. R118 to R122: sync objects on which nothing waits, signals that add to them, and waiters that register. -/

namespace Sys2Proof.Machine

/-! ### An object on which nothing waits -/

/-- R118: where nothing waits on an object, its waiters' test changes nothing. -/
theorem Device.testObj_alone {d : Device} {n : Nat} (h : (d.obj n).waiters = []) : d.testObj n = d := by
  unfold Device.testObj Device.settleObj
  rw [h, Device.testWaiters]
  exact if_pos rfl

/-- R119: a signal that adds within the bound to an object on which nothing waits. -/
theorem Device.signal_adds {d : Device} {p n amount : Nat} (src : Word) (index : Nat) (h : (d.obj n).waiters = [])
    (hb : (d.obj n).value.toNat + amount ≤ d.objBound n) : d.signal p n 1 amount src index =
      (d.setObj n { d.obj n with value := wordOf ((d.obj n).value.toNat + amount), lastSrc := src, lastIndex := index }, true) := by
  have hv : signalValue 1 (d.obj n).value amount (d.objBound n) = some (wordOf ((d.obj n).value.toNat + amount)) := if_pos hb
  unfold Device.signal
  dsimp only
  rw [hv]
  dsimp only
  rw [Device.testObj_alone (by rw [Device.obj_setObj_self]; exact h)]

/-! ### Registration -/

/-- e is d after a waiter has registered on object n. -/
structure Device.Registered (d e : Device) (n : Nat) (w : Waiter) : Prop where
  seq : d.SeqSame e
  cores : e.cores = d.cores
  queues : e.queues = d.queues
  obj : e.obj n = { d.obj n with waiters := (d.obj n).waiters ++ [{ w with polling := !d.waiterFree w.part (objDie n) }] }
  regs : ∀ r : Reg, r.offset ∉ logRegs.map Reg.offset → ((Reg.synDieStatus (objDie n)).inRange = true → r.offset ≠ (Reg.synDieStatus (objDie n)).offset) →
    e.reg r = d.reg r

/-- R122: 0x0606 for a waiter without an entry, once in an episode. -/
def Device.waiterNoted (d : Device) (n : Nat) (w : Waiter) : Device :=
  if SMap.at' false d.waiterEpisode (8 * objDie n + w.part) then d
  else ({ d with waiterEpisode := SMap.set (fun _ => false) d.waiterEpisode (8 * objDie n + w.part) true }).logPart w.part 0x0606 0
    (syncBody (d.relOf w.part n) w.part (waitOpCode w.op) w.value (d.obj n).value
      (sourceWord d.chip w.part (if w.isCore then 2 else 1) w.who)) (objDie n)

theorem Device.waiterNoted_spec (d : Device) (n : Nat) (w : Waiter) : d.SeqSame (d.waiterNoted n w) ∧ (d.waiterNoted n w).cores = d.cores ∧
    (d.waiterNoted n w).queues = d.queues ∧ (d.waiterNoted n w).objs = d.objs ∧
    ∀ r : Reg, r.offset ∉ logRegs.map Reg.offset → (d.waiterNoted n w).reg r = d.reg r := by
  have hepisode (m : SMap Bool) : d.SeqSame { d with waiterEpisode := m } := rfl
  unfold Device.waiterNoted
  split
  · exact ⟨.refl d, rfl, rfl, rfl, fun _ _ => rfl⟩
  · exact ⟨(hepisode _).logPart _ _ _ _ _, Device.logPart_cores _ _ _ _ _ _, Device.logPart_queues _ _ _ _ _ _,
      Device.logPart_objs _ _ _ _ _ _, fun r hr => Device.reg_logPart _ _ _ _ _ _ r hr⟩

theorem Device.registered_register (d : Device) (n : Nat) (w : Waiter) : d.Registered (d.register n w) n w := by
  have hobj (e : Device) (o : SyncObj) (v : Nat) : (((e.setObj n o).bump (.synDieStatus (objDie n)) Fd.synDieStatusCreditStalls v)).obj n = o :=
    (Device.obj_congr (Device.setFld_objs _ _ _ _) n).trans (Device.obj_setObj_self _ _ _)
  cases hfree : d.waiterFree w.part (objDie n) with
  | true =>
    have heq : d.register n w = ({ d with waiterEpisode := SMap.set (fun _ => false) d.waiterEpisode (8 * objDie n + w.part) false }).setObj n
        { d.obj n with waiters := (d.obj n).waiters ++ [{ w with polling := false }] } := if_pos hfree
    rw [heq]
    exact ⟨rfl, rfl, rfl, by rw [Device.obj_setObj_self, hfree]; rfl, fun _ _ _ => rfl⟩
  | false =>
    have heq : d.register n w = ((d.waiterNoted n w).setObj n
        { (d.waiterNoted n w).obj n with waiters := ((d.waiterNoted n w).obj n).waiters ++ [{ w with polling := true }] }).bump
          (.synDieStatus (objDie n)) Fd.synDieStatusCreditStalls := if_neg (by rw [hfree]; exact Bool.false_ne_true)
    obtain ⟨hseq, hcores, hqueues, hobjs, hregs⟩ := d.waiterNoted_spec n w
    rw [heq, Device.obj_congr hobjs]
    refine ⟨(hseq.setObj _ _).bump _ _ _, (Device.setFld_cores _ _ _ _).trans hcores, (Device.setFld_queues _ _ _ _).trans hqueues, ?_,
      fun r hr hs => (Device.reg_setReg_apart _ _ hs).trans (hregs r hr)⟩
    rw [hobj, hfree]
    rfl

end Sys2Proof.Machine
end

section
/-! PROOF. O18: WAIT, SIGNAL, polls, timeouts and stalls. -/

namespace Sys2Proof.Machine

/-! ### WAIT -/

theorem Device.CoreIs.obj {d e : Device} {c : Nat} {k : Core} (h : d.CoreIs e c k) (n : Nat) : e.obj n = d.obj n :=
  Device.obj_congr (congrArg Device.objs h.frame :) n

theorem Device.CoreIs.syncOf {d e : Device} {c : Nat} {k : Core} (h : d.CoreIs e c k) (p r : Nat) : e.syncOf p r = d.syncOf p r :=
  (congrArg (fun x : Device => x.syncOf p r) h.frame :)

theorem Device.CoreIs.corePart {d e : Device} {c : Nat} {k : Core} (h : d.CoreIs e c k) (x : Nat) : e.corePart x = d.corePart x :=
  (congrArg (fun y : Device => y.corePart x) h.frame :)

theorem Device.CoreIs.waiterFree {d e : Device} {c : Nat} {k : Core} (h : d.CoreIs e c k) (p die : Nat) : e.waiterFree p die = d.waiterFree p die :=
  (congrArg (fun x : Device => x.waiterFree p die) h.frame :)

theorem Device.CoreIs.keeps {d e : Device} {c : Nat} {k : Core} (h : d.CoreIs e c k) :
    e.flowDone = d.flowDone ∧ e.mem = d.mem ∧ e.queues = d.queues ∧ e.regs = d.regs :=
  ⟨(congrArg Device.flowDone h.frame :), (congrArg Device.mem h.frame :), (congrArg Device.queues h.frame :), (congrArg Device.regs h.frame :)⟩

section
variable {d e : Device} {c n : Nat} {k : Core} {w : Word}

/-- R106, R118: WAIT at least, where its condition holds, on an object on which nothing waits. -/
theorem Device.CoreIs.instrWait_met (h : d.CoreIs e c k) (hop : fieldOf w 19 17 = 1) (hn : d.syncOf (d.corePart c) (fieldOf w 16 0) = some n)
    (halone : (d.obj n).waiters = []) (hv : (k.sreg (fieldOf w 55 52)).toNat ≤ (d.obj n).value.toNat) :
    e.instrWait c w = e.advance c true := by
  rw [← h.corePart, ← h.syncOf] at hn
  rw [← h.obj] at halone hv
  obtain rfl := h.core
  have hholds : waitHolds 1 (e.obj n).value ((e.core c).sreg (fieldOf w 55 52)) = true := decide_eq_true hv
  have htake (v : Word) : e.takeWait n 1 v = e := if_neg (by decide)
  unfold Device.instrWait
  dsimp only
  rw [hop, if_neg Nat.one_ne_zero, hn]
  dsimp only
  rw [hholds, if_pos rfl, htake, Device.testObj_alone halone]

/-- R106, R118: the waiter of core c at a WAIT at least. -/
def Core.waiter (k : Core) (c part : Nat) (v : Word) : Waiter :=
  { isCore := true, part := part, who := c, index := k.pc, op := 1, value := v }

/-- R106, R107, R118: WAIT at least, where its condition does not hold, ends its block; then the core waits. -/
theorem Device.CoreIs.instrWait_unmet (h : d.CoreIs e c k) (hop : fieldOf w 19 17 = 1)
    (hn : d.syncOf (d.corePart c) (fieldOf w 16 0) = some n) (hv : (d.obj n).value.toNat < (k.sreg (fieldOf w 55 52)).toNat)
    (hl : k.lapsed = none) (hst : k.st = .running) : e.instrWait c w =
      ((e.blockEnd c).updCore c fun k => { k with st := .waiting }).register n (k.waiter c (d.corePart c) (k.sreg (fieldOf w 55 52))) := by
  have hcore := (h.blockEnd hl hst).core
  rw [← h.corePart, ← h.syncOf] at hn
  rw [← h.obj] at hv
  rw [← h.corePart]
  obtain rfl := h.core
  have hholds : waitHolds 1 (e.obj n).value ((e.core c).sreg (fieldOf w 55 52)) = false := decide_eq_false (Nat.not_le.2 hv)
  unfold Device.instrWait
  dsimp only
  rw [hop, if_neg Nat.one_ne_zero, hn]
  dsimp only
  rw [hholds, if_neg Bool.false_ne_true, hcore]
  exact if_pos hst

/-- R115, R118, R122: a core whose WAIT at least is not met waits, with a waiter on the object. -/
theorem Device.CoreIs.waits (h : d.CoreIs e c k) (hl : k.lapsed = none) (hst : k.st = .running) (halone : (d.obj n).waiters = []) (p : Nat) (v : Word) :
    ∃ t : Device, ((e.blockEnd c).updCore c fun k => { k with st := .waiting }).register n (k.waiter c p v) = t ∧ d.SeqSame t ∧
      t.core c = { k with st := .waiting, lease := none } ∧ t.queues = d.queues ∧
      t.obj n = { d.obj n with waiters := [{ k.waiter c p v with polling := !d.waiterFree p (objDie n) }] } := by
  have hwaiting := (h.blockEnd hl hst).updCore fun k => { k with st := .waiting }
  generalize (e.blockEnd c).updCore c _ = a at hwaiting
  have hreg := Device.registered_register a n (k.waiter c p v)
  have hobj := hreg.obj
  rw [hwaiting.obj, hwaiting.waiterFree, halone] at hobj
  exact ⟨_, rfl, hwaiting.seqSame.trans hreg.seq, (Device.core_congr hreg.cores c).trans hwaiting.core,
    hreg.queues.trans (congrArg Device.queues hwaiting.frame :), hobj⟩

end

theorem exec_wait (c : Nat) (s : State) : exec (.wait c) s = run (fun d => d.control c 0x01 fun w d => d.instrWait c w) s := rfl
theorem exec_signal (c : Nat) (s : State) : exec (.signal c) s = run (fun d => d.control c 0x02 fun w d => d.instrSignal c w) s := rfl

/-- A control instruction whose work on the core that has entered its block gives t. -/
theorem control_run {s : State} {i : Instr} {c cls : Nat} {f : Word → Device → Device} {t : Device} (hs : s.inService = true)
    (hi : exec i s = run (fun d => d.control c cls f) s) (hat : s.dev.atControl c cls = true)
    (h : f (s.dev.coreWord c) (s.quiet.dev.takeLease c) = t) (hd : t.flowDone = s.dev.flowDone) : exec i s = .next { s with dev := t } :=
  run_row hs hi ((Device.control_at (d := s.quiet.dev) f hat).trans h) hd

theorem State.entered (s : State) (c : Nat) : s.quiet.dev.CoreIs (s.quiet.dev.takeLease c) c (s.dev.core c).entered :=
  (Device.CoreIs.refl s.quiet.dev c).takeLease

section
variable {s : State} {c n : Nat} {k : Core} {w v : Word}

theorem wait_met_row (hs : s.inService = true) (hk : k = s.dev.core c) (hw : w = s.dev.coreWord c) (hat : s.dev.atControl c 0x01 = true)
    (hloops : k.loops = []) (hpc : k.pc ≠ 8191) (hl : k.lapsed = none) (hst : k.st = .running) (hop : fieldOf w 19 17 = 1)
    (hn : s.dev.syncOf (s.dev.corePart c) (fieldOf w 16 0) = some n) (halone : (s.dev.obj n).waiters = [])
    (hv : (k.sreg (fieldOf w 55 52)).toNat ≤ (s.dev.obj n).value.toNat) : ∃ t : State, exec (.wait c) s = .next t ∧ t.pending = s.pending ∧
      s.dev.onlyCore t.dev c ∧ t.dev.core c = { k with pc := k.pc + 1, lease := none } := by
  subst hk hw
  have hgo := (s.entered c).advance_ends hloops hpc hl hst
  rw [← (s.entered c).instrWait_met hop hn halone hv] at hgo
  exact control_row hs (exec_wait c s) hat hgo

theorem wait_unmet_row (hs : s.inService = true) (hk : k = s.dev.core c) (hw : w = s.dev.coreWord c) (hat : s.dev.atControl c 0x01 = true)
    (hl : k.lapsed = none) (hst : k.st = .running) (hop : fieldOf w 19 17 = 1)
    (hn : s.dev.syncOf (s.dev.corePart c) (fieldOf w 16 0) = some n) (halone : (s.dev.obj n).waiters = []) (hval : v = k.sreg (fieldOf w 55 52))
    (hv : (s.dev.obj n).value.toNat < v.toNat) : ∃ (t : State) (polls : Bool), exec (.wait c) s = .next t ∧ t.pending = s.pending ∧
        t.dev.core c = { k with st := .waiting, lease := none } ∧ t.dev.obj n = { s.dev.obj n with waiters :=
          [{ isCore := true, part := s.dev.corePart c, who := c, index := k.pc, op := 1, value := v, polling := polls }] } ∧
        polls = !s.dev.waiterFree (s.dev.corePart c) (objDie n) ∧ t.dev.mem = s.dev.mem ∧ t.dev.queues = s.dev.queues := by
  subst hk hw hval
  obtain ⟨t, ht, hseq, hcore, hqueues, hobj⟩ := (s.entered c).waits hl hst halone (s.dev.corePart c) ((s.dev.core c).sreg (fieldOf (s.dev.coreWord c) 55 52))
  have heq := ((s.entered c).instrWait_unmet hop hn hv hl hst).trans ht
  exact ⟨_, _, control_run hs (exec_wait c s) hat heq hseq.flowDone, rfl, hcore, hobj, rfl, hseq.mem, hqueues⟩

end

/-! ### SIGNAL -/

section
variable {d e : Device} {c n : Nat} {k : Core} {w : Word}

theorem Device.CoreIs.setObj (h : d.CoreIs e c k) (n : Nat) (o : SyncObj) : (d.setObj n o).CoreIs (e.setObj n o) c k where
  frame := calc e.setObj n o = ({ d with cores := e.cores } : Device).setObj n o := congrArg (·.setObj n o) h.frame
    _ = { d.setObj n o with cores := (e.setObj n o).cores } := rfl
  core := h.core
  others := h.others

/-- R119: an object after a signal that adds. -/
def SyncObj.raised (o : SyncObj) (amount : Nat) (src : Word) (index : Nat) : SyncObj :=
  { o with value := wordOf (o.value.toNat + amount), lastSrc := src, lastIndex := index }

theorem Device.CoreIs.objBound (h : d.CoreIs e c k) (n : Nat) : e.objBound n = d.objBound n :=
  (congrArg (fun x : Device => x.objBound n) h.frame :)

/-- R106, R119: SIGNAL that adds within the bound to an object on which nothing waits. -/
theorem Device.CoreIs.instrSignal (h : d.CoreIs e c k) (hop : fieldOf w 19 17 = 1) (hn : d.syncOf (d.corePart c) (fieldOf w 16 0) = some n)
    (halone : (d.obj n).waiters = []) (hb : (d.obj n).value.toNat + (k.sreg (fieldOf w 55 52)).toNat ≤ d.objBound n) :
    e.instrSignal c w = (e.setObj n ((d.obj n).raised (k.sreg (fieldOf w 55 52)).toNat (sourceWord d.chip (d.corePart c) 2 c) k.pc)).advance c := by
  have hchip : e.chip = d.chip := (congrArg (fun x : Device => x.chip) h.frame :)
  rw [← h.corePart, ← h.syncOf] at hn
  rw [← h.obj] at halone
  rw [← h.obj, ← h.objBound] at hb
  rw [← h.corePart, ← h.obj, ← hchip]
  obtain rfl := h.core
  unfold Device.instrSignal
  dsimp only
  rw [hop, if_neg Nat.one_ne_zero, hn]
  dsimp only
  rw [Device.signal_adds _ _ halone hb]
  rfl

/-- R119: as a sequencer goes on with an object changed, nothing changes but its core and the object. -/
theorem Device.CoreIs.signals (h : d.CoreIs e c k) (hloops : k.loops = []) (hpc : k.pc % 512 ≠ 511) (o : SyncObj) :
    ∃ t : Device, (e.setObj n o).advance c = t ∧ t.flowDone = d.flowDone ∧ t.core c = { k with pc := k.pc + 1 } ∧ t.obj n = o ∧
      t.mem = d.mem ∧ t.queues = d.queues ∧ t.regs = d.regs := by
  have hgo := (h.setObj n o).advance_next hloops hpc
  obtain ⟨hflow, hmem, hqueues, hregs⟩ := hgo.keeps
  exact ⟨_, rfl, hflow, hgo.core, (hgo.obj n).trans (Device.obj_setObj_self _ _ _), hmem, hqueues, hregs⟩

end

theorem signal_row {s : State} {c n : Nat} {k : Core} {w : Word} (hs : s.inService = true) (hk : k = s.dev.core c) (hw : w = s.dev.coreWord c)
    (hat : s.dev.atControl c 0x02 = true) (hloops : k.loops = []) (hpc : k.pc % 512 ≠ 511) (hop : fieldOf w 19 17 = 1)
    (hn : s.dev.syncOf (s.dev.corePart c) (fieldOf w 16 0) = some n) (halone : (s.dev.obj n).waiters = [])
    (hb : (s.dev.obj n).value.toNat + (k.sreg (fieldOf w 55 52)).toNat ≤ s.dev.objBound n) :
    ∃ t : State, exec (.signal c) s = .next t ∧ t.pending = s.pending ∧ t.dev.core c = { k.entered with pc := k.pc + 1 } ∧
      t.dev.obj n = (s.dev.obj n).raised (k.sreg (fieldOf w 55 52)).toNat (sourceWord s.dev.chip (s.dev.corePart c) 2 c) k.pc ∧
      t.dev.mem = s.dev.mem ∧ t.dev.queues = s.dev.queues ∧ t.dev.regs = s.dev.regs := by
  subst hk hw
  obtain ⟨t, ht, hflow, hrest⟩ := (s.entered c).signals (n := n) hloops hpc ((s.dev.obj n).raised
    ((s.dev.core c).sreg (fieldOf (s.dev.coreWord c) 55 52)).toNat (sourceWord s.dev.chip (s.dev.corePart c) 2 c) (s.dev.core c).pc)
  exact ⟨_, control_run hs (exec_signal c s) hat (((s.entered c).instrSignal hop hn halone hb).trans ht) hflow, rfl, hrest⟩

/-! ### Polls -/

section
variable {d : Device} {n : Nat} {x : Waiter}

/-- R122: the test of the registered waiters passes over one that polls, and the other way round. -/
theorem Device.testWaiters_other {polling : Bool} (h : x.polling ≠ polling) : Device.testWaiters n polling [x] d = d := by
  rw [Device.testWaiters, if_neg fun g => h g.1, Device.testWaiters]

theorem Device.testObj_polls (h : (d.obj n).waiters = [x]) (hp : x.polling = true) : d.testObj n = d := by
  unfold Device.testObj Device.settleObj
  rw [h, Device.testWaiters_other (by rw [hp]; exact Bool.true_eq_false_eq_False)]
  exact if_pos rfl

/-- R122: a waiter of a core that polls is released where its condition holds. -/
theorem Device.testWaiters_polls (hp : x.polling = true) (hcore : x.isCore = true) (hop : x.op = 1) (hv : x.value.toNat ≤ (d.obj n).value.toNat) :
    Device.testWaiters n true [x] d = d.releaseCore n x := by
  have hholds : waitHolds x.op (d.obj n).value x.value = true := by rw [hop]; exact decide_eq_true hv
  have hserved : (d.obj n).servedLater x = false := by rw [SyncObj.servedLater, hop]; rfl
  rw [Device.testWaiters, if_pos ⟨hp, hholds, hserved⟩, Device.testWaiters, Device.release, if_pos hcore]

/-- R115: a core whose wait at least is met runs on. -/
theorem Device.releaseCore_runs (hop : x.op = 1) (hloops : (d.core x.who).loops = []) (hpc : (d.core x.who).pc % 512 ≠ 511) :
    (d.dropWaiter n x).CoreIs (d.releaseCore n x) x.who { d.core x.who with st := .running, pc := (d.core x.who).pc + 1 } := by
  have htake (v : Word) : (d.dropWaiter n x).takeWait n x.op v = d.dropWaiter n x := if_neg (by rw [hop]; decide)
  unfold Device.releaseCore
  dsimp only
  rw [htake]
  exact ((Device.CoreIs.refl (d.dropWaiter n x) x.who).updCore fun k => { k with st := .running }).advance_next hloops hpc

/-- R122: an object whose only waiter, a core's, polls and is met. -/
theorem Device.pollWaiters_releases (h : (d.obj n).waiters = [x]) (hp : x.polling = true) (hcore : x.isCore = true) (hop : x.op = 1)
    (hv : x.value.toNat ≤ (d.obj n).value.toNat) (hloops : (d.core x.who).loops = []) (hpc : (d.core x.who).pc % 512 ≠ 511) :
    ∃ t : Device, d.pollWaiters n = t ∧ t.flowDone = d.flowDone ∧ (t.obj n).waiters = [] ∧ (t.obj n).value = (d.obj n).value ∧
      t.core x.who = { d.core x.who with st := .running, pc := (d.core x.who).pc + 1 } := by
  have hrun := Device.releaseCore_runs (n := n) hop hloops hpc
  have hobj : (d.releaseCore n x).obj n = { d.obj n with waiters := [] } := by
    rw [hrun.obj, Device.dropWaiter, Device.obj_setObj_self, h, List.erase_cons_head]
  unfold Device.pollWaiters
  rw [Device.testObj_polls h hp, h, Device.testWaiters_polls hp hcore hop hv, Device.testObj_alone (by rw [hobj])]
  exact ⟨_, rfl, hrun.keeps.1, by rw [hobj], by rw [hobj], hrun.core⟩

end

theorem exec_pollingWaiterRetest (n : Nat) (s : State) : exec (.pollingWaiterRetest n) s = run (·.pollWaiters n) s := rfl

theorem pollingWaiterRetest_row {s : State} {n : Nat} {x : Waiter} (hs : s.inService = true) (h : (s.dev.obj n).waiters = [x]) (hp : x.polling = true)
    (hcore : x.isCore = true) (hop : x.op = 1) (hv : x.value.toNat ≤ (s.dev.obj n).value.toNat) (hloops : (s.dev.core x.who).loops = [])
    (hpc : (s.dev.core x.who).pc % 512 ≠ 511) : ∃ t : State, exec (.pollingWaiterRetest n) s = .next t ∧ t.pending = s.pending ∧
      (t.dev.obj n).waiters = [] ∧ (t.dev.obj n).value = (s.dev.obj n).value ∧
      t.dev.core x.who = { s.dev.core x.who with st := .running, pc := (s.dev.core x.who).pc + 1 } := by
  obtain ⟨t, ht, hflow, hrest⟩ := Device.pollWaiters_releases (d := s.quiet.dev) h hp hcore hop hv hloops hpc
  exact ⟨_, run_row hs (exec_pollingWaiterRetest n s) ht hflow, rfl, hrest⟩

end Sys2Proof.Machine
end

section
/-! PROOF. O18: waits that time out, flows that stall. -/

namespace Sys2Proof.Machine

theorem synPartStatus_not_logged {p : Nat} (hp : p < 8) : (Reg.synPartStatus p).offset ∉ logRegs.map Reg.offset :=
  logRegs_apart _ (by simp only [Reg.offset]; omega) (fun k hk => by simp only [Reg.offset]; omega) fun k hk => by
    simp only [Reg.offset]; omega

theorem synFlowStatus_not_logged {p f : Nat} (hp : p < 8) (hf : f < 1024) : (Reg.synFlowStatus p f).offset ∉ logRegs.map Reg.offset :=
  logRegs_apart _ (by simp only [Reg.offset]; omega) (fun k hk => by simp only [Reg.offset]; omega) fun k hk => by
    simp only [Reg.offset]; omega

theorem synPartStatus_inRange {p : Nat} (hp : p < 8) : (Reg.synPartStatus p).inRange = true := by simpa only [Reg.inRange, decide_eq_true_eq] using hp

/-- The stop of a core leaves the registers of sync objects alone. -/
theorem synPartStatus_notStop {p c : Nat} (hp : p < 8) : (Reg.synPartStatus p).NotStop c := by
  refine ⟨by simp only [Reg.offset]; omega, fun p' q' hin => ?_⟩
  simp only [Reg.inRange, Bool.and_eq_true, decide_eq_true_eq] at hin
  simp only [Reg.offset]
  omega

/-! ### A WAIT that times out -/

/-- The device after the records of a wait of core c that has timed out, its condition not met, in partition p. -/
def Device.waitLogged (d : Device) (p : Nat) (body : List Word) (die : Nat) : Device :=
  (d.bump (.synPartStatus p) Fd.synPartStatusCoreWaitTimeouts).logPart p 0x0603 2 body die

theorem Device.coreWaitTimeout_unmet {d : Device} {c n : Nat} {x : Waiter} (hst : (d.core c).st = .waiting) (hx : d.coreWaiter c = some (n, x))
    (hunmet : waitHolds x.op (d.obj n).value x.value = false) :
    ∃ body die, d.coreWaitTimeout c = (d.waitLogged (d.corePart c) body die).coreStop c .idle .timedOut := by
  unfold Device.coreWaitTimeout
  rw [if_pos hst, hx]
  dsimp only
  rw [hunmet, if_neg Bool.false_ne_true]
  exact ⟨_, _, rfl⟩

theorem Device.fld_waitLogged {d : Device} {p : Nat} (body : List Word) (die : Nat) (hp : p < 8) :
    (d.waitLogged p body die).fld (.synPartStatus p) Fd.synPartStatusCoreWaitTimeouts =
      satAdd Fd.synPartStatusCoreWaitTimeouts.width (d.fld (.synPartStatus p) Fd.synPartStatusCoreWaitTimeouts) 1 :=
  (Device.fld_logPart _ _ _ _ _ _ _ _ (synPartStatus_not_logged hp)).trans
    (Device.fld_bump_self _ _ _ _ (synPartStatus_inRange hp) (by decide) (by decide))

theorem Device.core_waitLogged (d : Device) (p c : Nat) (body : List Word) (die : Nat) : d.CoreAt (d.waitLogged p body die) c (d.core c) :=
  ((Device.CoreIs.refl d c).at.bump _ _ _).logPart _ _ _ _ _

/-- R123, R124: a core whose WAIT times out with its condition not met leaves its program. -/
theorem Device.coreWaitTimeout_ends {d : Device} {c n : Nat} {x : Waiter} (hp : d.corePart c < 8) (hst : (d.core c).st = .waiting)
    (hx : d.coreWaiter c = some (n, x)) (hunmet : waitHolds x.op (d.obj n).value x.value = false) (ha : (d.core c).aq = [])
    (hv : (d.core c).vq = []) (hl : (d.core c).lapsed = none) :
    d.ProgramEnded (d.coreWaitTimeout c) c (d.core c) .idle .timedOut ∧
      (d.coreWaitTimeout c).fld (.synPartStatus (d.corePart c)) Fd.synPartStatusCoreWaitTimeouts =
        satAdd Fd.synPartStatusCoreWaitTimeouts.width (d.fld (.synPartStatus (d.corePart c)) Fd.synPartStatusCoreWaitTimeouts) 1 := by
  obtain ⟨body, die, heq⟩ := Device.coreWaitTimeout_unmet hst hx hunmet
  have hlog := d.core_waitLogged (d.corePart c) c body die
  have hfld := d.fld_waitLogged body die hp
  rw [heq]
  generalize d.waitLogged (d.corePart c) body die = e at hlog hfld
  have hleft := Device.coreLeft_coreStop (d := e) (c := c) .idle .timedOut (by rw [hlog.core]; exact ha) (by rw [hlog.core]; exact hv)
  refine ⟨hlog.ended _ _ ha hv hl, ?_⟩
  rw [← hfld, Device.fld, Device.fld, hleft.regs _ (synPartStatus_notStop hp)]

theorem exec_coreWaitTimeout (c : Nat) (s : State) : exec (.coreWaitTimeout c) s = run (·.coreWaitTimeout c) s := rfl

/-! ### A flow that stalls -/

theorem Device.flowStall_eq {d : Device} {p f : Nat} (hopen : d.flowState p f = 1) (hcfg : d.fld (.synFlowCfg p f) Fd.synFlowCfgStallUs ≠ 0)
    (hlater : ((d.flow p f).items.any fun i => i.completed && i.seq != d.flowNext p f) = true)
    (hhead : ((d.flow p f).items.any fun i => i.completed && i.seq == d.flowNext p f) = false) :
    d.flowStall p f = (d.setFld (.synFlowStatus p f) Fd.synFlowStatusState 2).logFlow p 0x0605 3 f (d.flowNext p f) 0 :=
  if_pos ⟨hopen, hcfg, hlater, hhead⟩

/-- R136: a record about a flow counts in FLOW_FAULTS and leaves the flow as it is. -/
theorem Device.logFlow_spec {d : Device} {p f : Nat} (hp : p < 8) (hf : f < 1024) (code cls seq rsync : Nat) :
    d.SeqSame (d.logFlow p code cls f seq rsync) ∧ (d.logFlow p code cls f seq rsync).flowState p f = d.flowState p f ∧
      (d.logFlow p code cls f seq rsync).fld (.synPartStatus p) Fd.synPartStatusFlowFaults =
        satAdd Fd.synPartStatusFlowFaults.width (d.fld (.synPartStatus p) Fd.synPartStatusFlowFaults) 1 := by
  have hapart : (Reg.synFlowStatus p f).offset ≠ (Reg.synPartStatus p).offset := by simp only [Reg.offset]; omega
  unfold Device.logFlow
  refine ⟨((SeqSame.refl d).logPart _ _ _ _ _).bump _ _ _, ?_, ?_⟩
  · exact (Device.fld_setFld_ne _ _ _ _ _ _ hapart).trans (Device.fld_logPart _ _ _ _ _ _ _ _ (synFlowStatus_not_logged hp hf))
  · rw [Device.fld_bump_self _ _ _ _ (synPartStatus_inRange hp) (by decide) (by decide),
      Device.fld_logPart _ _ _ _ _ _ _ _ (synPartStatus_not_logged hp)]

theorem Device.SeqSame.flow {d e : Device} (h : d.SeqSame e) (p f : Nat) : e.flow p f = d.flow p f := (congrArg (fun x : Device => x.flow p f) h.eq :)

/-- R134: a flow whose head item stays incomplete is STALLED. -/
theorem Device.flowStalled_spec {d : Device} {p f : Nat} (hp : p < 8) (hf : f < 1024) (seq : Nat) :
    ∃ t : Device, (d.setFld (.synFlowStatus p f) Fd.synFlowStatusState 2).logFlow p 0x0605 3 f seq 0 = t ∧ d.SeqSame t ∧ t.flowState p f = 2 ∧
      t.fld (.synPartStatus p) Fd.synPartStatusFlowFaults =
        satAdd Fd.synPartStatusFlowFaults.width (d.fld (.synPartStatus p) Fd.synPartStatusFlowFaults) 1 := by
  have hin : (Reg.synFlowStatus p f).inRange = true := by simp only [Reg.inRange, hp, hf, decide_true, Bool.and_self]
  have hapart : (Reg.synPartStatus p).offset ≠ (Reg.synFlowStatus p f).offset := by simp only [Reg.offset]; omega
  obtain ⟨hseq, hstate, hfaults⟩ :=
    Device.logFlow_spec (d := d.setFld (.synFlowStatus p f) Fd.synFlowStatusState 2) hp hf 0x0605 3 seq 0
  rw [Device.fld_setFld_ne _ _ _ _ _ _ hapart] at hfaults
  exact ⟨_, rfl, ((SeqSame.refl d).setFld _ _ _).trans hseq,
    hstate.trans (Device.fld_setFld_self _ _ _ _ hin (by decide) (by decide)), hfaults⟩

theorem exec_flowStall (p f : Nat) (s : State) : exec (.flowStall p f) s = run (·.flowStall p f) s := rfl

/-! ### O18 -/

/-- Settles O18: WAIT goes on (`wait_met_row`) or registers its waiter (`wait_unmet_row`), SIGNAL is one addition to an object on which nothing
waits (`signal_row`), and the test of an object whose only waiter polls releases it (`pollingWaiterRetest_row`); a WAIT that times out ends its
program as HALT does (`coreWaitTimeout_ends`). -/
theorem coresWaitAndSignal : Obligations.CoresWaitAndSignal := by
  unfold Obligations.CoresWaitAndSignal
  intro s hs
  refine ⟨fun c n k w v hk hw hat hloops hpc hl hst hop hn halone hval => ⟨fun hv => ?_, fun hv => ?_⟩, ?_, ?_, ?_, ?_⟩
  · exact wait_met_row hs hk hw hat hloops hpc hl hst hop hn halone (hval ▸ hv)
  · exact wait_unmet_row hs hk hw hat hl hst hop hn halone hval hv
  · intro c n k w hk hw hat hloops hpc hop hn halone hb
    exact signal_row hs hk hw hat hloops hpc hop hn halone hb
  · intro n x h hp hcore hop hv hloops hpc
    exact pollingWaiterRetest_row hs h hp hcore hop hv hloops hpc
  · intro c n x _ hp hst hx hunmet ha hv hl
    obtain ⟨hend, hcount⟩ := Device.coreWaitTimeout_ends (d := s.quiet.dev) hp hst hx hunmet ha hv hl
    exact ⟨_, run_row hs (exec_coreWaitTimeout c s) rfl hend.flowDone, rfl, hend.st, hend.job, hend.loops, hend.mem, hcount⟩
  · intro p f hp hf hopen hcfg hlater hhead
    obtain ⟨t, ht, hseq, hstate, hfaults⟩ := Device.flowStalled_spec (d := s.quiet.dev) hp hf (s.dev.flowNext p f)
    have heq := (Device.flowStall_eq (d := s.quiet.dev) hopen hcfg hlater hhead).trans ht
    exact ⟨_, run_row hs (exec_flowStall p f s) heq hseq.flowDone, rfl, hstate, hseq.flow p f, hfaults, hseq.mem⟩

end Sys2Proof.Machine
end

section
/-! PROOF. O14: the CONTROL family's work, and commands whose work has ended. -/

namespace Sys2Proof.Machine

/-! ### NOP, SYNC and HOST_SIGNAL -/

theorem exec_nop (p q i : Nat) (s : State) : exec (.nop p q i) s = run (fun d => d.work p q i 0x00 fun _ d => d.workEnds p q i 0) s := rfl
theorem exec_sync (p q i : Nat) (s : State) : exec (.sync p q i) s = run (fun d => d.work p q i 0x01 fun _ d => d.workEnds p q i 0) s := rfl
theorem exec_hostSignal (p q i : Nat) (s : State) :
    exec (.hostSignal p q i) s = run (fun d => d.work p q i 0x02 fun c d => (d.hostSignal p c.desc).workEnds p q i 0) s := rfl

/-- R99: a command that only waits and signals. -/
theorem work_only_ends {s : State} {p q i op : Nat} {c : Cmd} (hs : s.inService = true) (h : s.dev.runningCmd p q i op = some c) :
    run (fun d => d.work p q i op fun _ d => d.workEnds p q i 0) s = .next (s.after fun d => d.updCmd p q i fun x => x.ended 0 0) :=
  run_work hs h rfl (Device.updCmd_flowDone _ _ _ _ _)

/-- R126: v is the word that a HOST_SIGNAL of partition p writes: its own or, with SRC_VALUE, its object's value. -/
def Device.HostWord (d : Device) (p : Nat) (x : Desc) (v : Word) : Prop :=
  v = x.q5 ∧ bitOf x.q6.toNat 63 = false ∨ bitOf x.q6.toNat 63 = true ∧ ∃ n, d.syncOf p (fieldOf x.q6 16 0) = some n ∧ v = (d.obj n).value

theorem Device.hostSignal_eq {d : Device} {p : Nat} {x : Desc} {v : Word} (h : d.HostWord p x v) :
    d.hostSignal p x = if bitOf x.q6.toNat 62 = true then
      (d.hostWriteWord (fieldOf x.q4 63 3 * 8) v).raise (d.ownerOf p) (fieldOf x.q6 39 32) else d.hostWriteWord (fieldOf x.q4 63 3 * 8) v := by
  unfold Device.hostSignal
  rcases h with ⟨rfl, hown⟩ | ⟨hvalue, n, hn, rfl⟩
  · rw [hown]
    rfl
  · rw [hvalue, hn]
    rfl

theorem Device.raise_flowDone (d : Device) (fn vec : Nat) : (d.raise fn vec).flowDone = d.flowDone := by
  unfold Device.raise
  split
  · rfl
  · rfl

theorem hostSignal_row {s : State} {p q i : Nat} {c : Cmd} {v : Word} (hs : s.inService = true) (h : s.dev.runningCmd p q i 0x02 = some c)
    (hv : s.dev.HostWord p c.desc v) :
    (bitOf c.desc.q6.toNat 62 = false → exec (.hostSignal p q i) s = .next (s.after fun d =>
      (d.hostWriteWord (fieldOf c.desc.q4 63 3 * 8) v).updCmd p q i fun x => x.ended 0 0)) ∧
    (bitOf c.desc.q6.toNat 62 = true → exec (.hostSignal p q i) s = .next (s.after fun d =>
      ((d.hostWriteWord (fieldOf c.desc.q4 63 3 * 8) v).raise (s.dev.ownerOf p) (fieldOf c.desc.q6 39 32)).updCmd p q i
        fun x => x.ended 0 0)) := by
  have heq := Device.hostSignal_eq (d := s.quiet.dev) hv
  refine ⟨fun hr => ?_, fun hr => ?_⟩
  · rw [hr, if_neg Bool.false_ne_true] at heq
    exact (exec_hostSignal p q i s).trans (run_work hs h (congrArg (·.workEnds p q i 0) heq) (Device.updCmd_flowDone _ _ _ _ _))
  · rw [if_pos hr] at heq
    exact (exec_hostSignal p q i s).trans (run_work hs h (congrArg (·.workEnds p q i 0) heq)
      ((Device.updCmd_flowDone _ _ _ _ _).trans (Device.raise_flowDone _ _ _)))

/-! ### A command whose work has ended -/

/-- An entry of a ready list is not one of a command. -/
def ReadyEntry.notOf (p q idx : Nat) (e : ReadyEntry) : Bool := !(e.part == p && e.queue == q && e.idx == idx)

theorem Device.readyOf_foldl_filter (f : ReadyEntry → Bool) (dies : List Nat) (d : Device) {die : Nat} :
    (dies.foldl (fun (d : Device) n => d.setReady n ((d.readyOf n).filter f)) d).readyOf die =
      if die ∈ dies then (d.readyOf die).filter f else d.readyOf die := by
  induction dies generalizing d with
  | nil => rfl
  | cons n dies ih =>
    rw [List.foldl_cons, ih]
    by_cases hn : die = n
    · subst hn
      rw [Device.readyOf_setReady_self, List.filter_filter, if_pos List.mem_cons_self]
      simp only [Bool.and_self, ite_self]
    · rw [Device.readyOf_setReady_ne _ _ _ _ hn]
      simp only [List.mem_cons, hn, false_or]

/-- R135: the entries of a command are returned on every die. -/
theorem Device.readyOf_dropEntries (d : Device) (p q idx : Nat) {die : Nat} (h : die < 4) :
    (d.dropEntries p q idx).readyOf die = (d.readyOf die).filter (ReadyEntry.notOf p q idx) := by
  have hbusy : (d.noteBusy p q idx).readyOf die = d.readyOf die := by
    unfold Device.noteBusy
    split
    · rfl
    · rfl
  exact (Device.readyOf_foldl_filter _ _ _).trans ((if_pos (List.mem_range.2 h)).trans (by rw [hbusy]; rfl))

theorem Device.sameRegs_updCmd (d : Device) (p q i : Nat) (f : Cmd → Cmd) : d.sameRegs (d.updCmd p q i f) [.cmdQStatus p q] :=
  fun r hr => Device.reg_updCmd d p q i f r fun h => hr (by rw [h]; exact List.mem_cons_self)

/-- R102: a command that is DONE with a STATUS, its entries returned. -/
def Device.returned (d : Device) (p q idx status : Nat) : Device := (d.updCmd p q idx (·.doneWith status)).dropEntries p q idx

section
variable {d : Device} {p q : Nat}

theorem Device.returned_frame (d : Device) (p q idx status : Nat) : (d.updCmd p q idx (·.doneWith status)).EntriesOnly (d.returned p q idx status) :=
  Device.entriesOnly_dropEntries _ p q idx

theorem Device.returned_queues (d : Device) (p q idx status : Nat) :
    (d.returned p q idx status).queues = (d.updCmd p q idx (·.doneWith status)).queues := (congrArg Device.queues (d.returned_frame p q idx status) :)

theorem Device.returned_regs (d : Device) (p q idx status : Nat) :
    (d.returned p q idx status).regs = (d.updCmd p q idx (·.doneWith status)).regs := (congrArg Device.regs (d.returned_frame p q idx status) :)

/-- What the return of a command's entries leaves as it was. -/
theorem Device.returned_keeps (d : Device) (p q idx status : Nat) {e : Device} (he : d.returned p q idx status = e) :
    e.mem = d.mem ∧ e.hostMem = d.hostMem ∧ e.cores = d.cores ∧ e.objs = d.objs ∧ e.flowDone = d.flowDone := by
  have h := d.returned_frame p q idx status
  rw [he] at h
  refine ⟨(congrArg Device.mem h :).trans ?_, (congrArg Device.hostMem h :).trans ?_, (congrArg Device.cores h :).trans ?_,
    (congrArg Device.objs h :).trans ?_, (congrArg Device.flowDone h :).trans ?_⟩
  · exact Device.updCmd_mem _ _ _ _ _
  · exact Device.updCmd_hostMem _ _ _ _ _
  · exact Device.updCmd_cores _ _ _ _ _
  · exact Device.updCmd_objs _ _ _ _ _
  · exact Device.updCmd_flowDone _ _ _ _ _

theorem Device.sameRegs_returned (d : Device) (p q idx status : Nat) : d.sameRegs (d.returned p q idx status) [.cmdQStatus p q] :=
  (d.sameRegs_updCmd p q idx _).trans (Device.sameRegs_of_regs _ (d.returned_regs p q idx status))

theorem Device.cmd_returned {idx status : Nat} {c : Cmd} (hc : d.cmd? p q idx = some c) :
    (d.returned p q idx status).cmd? p q idx = some (c.doneWith status) := by
  rw [Device.cmd_congr (d.returned_queues p q idx status), Device.cmd_updCmd _ _ _ _ (·.doneWith status) (fun _ h => h), hc, Option.map_some]

theorem Device.readyOf_returned (d : Device) (p q idx status : Nat) {die : Nat} (h : die < 4) :
    (d.returned p q idx status).readyOf die = (d.readyOf die).filter (ReadyEntry.notOf p q idx) := by
  rw [Device.returned, Device.readyOf_dropEntries _ _ _ _ h]
  exact congrArg (List.filter _) (congrArg (fun m => SMap.at' [] m die) (Device.updCmd_readyLists d p q idx _))

/-- R102: the status of a queue is no part of its configuration. -/
theorem Device.flag_returned (d : Device) (p q idx status : Nat) (f : RegField) :
    (d.returned p q idx status).flag (.cmdQCfg p q) f = d.flag (.cmdQCfg p q) f := by
  have hcfg : (Reg.cmdQCfg p q).offset ∉ [Reg.cmdQStatus p q].map Reg.offset := by
    simp only [List.map_cons, List.map_nil, List.mem_singleton, Reg.offset]
    omega
  rw [Device.flag, Device.flag, (d.sameRegs_returned p q idx status).fld hcfg]

/-- R100, R102: a command that is no flow item and does not stop its ring is DONE. -/
theorem Device.cmdDone_eq {c : Cmd} {status : Nat} (hi : c.item = false)
    (hstop : status ≠ 3 ∧ status ≠ 5 ∨ d.flag (.cmdQCfg p q) Fd.cmdQCfgStopOnTimeout = false) :
    d.cmdDone p q c status = d.returned p q c.idx status := by
  have hgo : ¬((status = 3 ∨ status = 5) ∧ (d.returned p q c.idx status).flag (.cmdQCfg p q) Fd.cmdQCfgStopOnTimeout = true) := by
    rw [d.flag_returned p q c.idx status]
    rintro ⟨hst, hflag⟩
    rcases hstop with hne | hoff
    · exact hst.elim hne.1 hne.2
    · exact Bool.false_ne_true (hoff.symm.trans hflag)
  unfold Device.cmdDone
  rw [hi]
  dsimp only
  exact if_neg hgo

/-- R100: a worked command of an opcode other than PROG_*. -/
theorem Device.workDone_eq {c : Cmd} (hop : opcodeOf c.desc ∉ [0x10, 0x11, 0x12]) (hw : c.worked = true) : d.workDone p q c = some c.status := by
  simp only [List.mem_cons, List.not_mem_nil, or_false, not_or] at hop
  obtain ⟨hload, hstart, hstop⟩ := hop
  rw [Device.workDone, if_neg hstart, if_neg hstop, if_neg hload, if_pos hw]

theorem Device.cmdComplete_eq {idx : Nat} {c : Cmd} (hc : d.cmd? p q idx = some c) (hst : c.st = .running) (hf : d.frozen p = false)
    (hw : c.worked = true) (hi : c.item = false) (hop : opcodeOf c.desc ∉ [0x10, 0x11, 0x12])
    (hstop : c.status ≠ 3 ∧ c.status ≠ 5 ∨ d.flag (.cmdQCfg p q) Fd.cmdQCfgStopOnTimeout = false) :
    d.cmdComplete p q idx = d.returned p q idx c.status := by
  unfold Device.cmdComplete
  rw [hc]
  dsimp only
  rw [if_pos ⟨hst, hf⟩, Device.workDone_eq hop hw]
  dsimp only
  rw [Device.cmdDone_eq hi hstop, Device.cmd_idx hc]

end

theorem exec_commandComplete (p q idx : Nat) (s : State) : exec (.commandComplete p q idx) s = run (·.cmdComplete p q idx) s := rfl

/-! ### O14 -/

/-- Settles O14: NOP, SYNC and HOST_SIGNAL are rows of an engine's work that end it (`work_only_ends`, `hostSignal_row`); COMMAND_COMPLETE
returns the entries of a command whose work has ended (`Device.cmdComplete_eq`). -/
theorem controlCommandsComplete : Obligations.ControlCommandsComplete := by
  unfold Obligations.ControlCommandsComplete
  intro s p q idx c hs
  refine ⟨fun h => ?_, fun h => ?_, fun v h hv => ?_, fun hc hst hf hw hi hop hstop => ?_⟩
  · exact (exec_nop p q idx s).trans (work_only_ends hs h)
  · exact (exec_sync p q idx s).trans (work_only_ends hs h)
  · exact hostSignal_row hs h hv
  · have heq := Device.cmdComplete_eq (d := s.quiet.dev) hc hst hf hw hi hop hstop
    have hcmd := Device.cmd_returned (d := s.quiet.dev) (status := c.status) hc
    have hready (die : Nat) (hd : die < 4) := s.quiet.dev.readyOf_returned p q idx c.status hd
    have hregs := s.quiet.dev.sameRegs_returned p q idx c.status
    generalize ht : s.quiet.dev.returned p q idx c.status = t at heq hcmd hready hregs
    obtain ⟨hmem, hhost, hcores, hobjs, hflow⟩ := Device.returned_keeps _ _ _ _ _ ht
    exact ⟨_, run_row hs (exec_commandComplete p q idx s) heq hflow, rfl, hcmd, hready, hmem, hhost, hcores, hobjs, hregs⟩

end Sys2Proof.Machine
end

section
/-! PROOF. O16: the first command of a queue that has not retired retires. -/

namespace Sys2Proof.Machine

/-! ### What is let go as a command retires (R252, R320, R386) -/

/-- e is d but for what partitions hold, the directory, and registers of the Cistern and of the placement units. -/
structure Device.Swept (d e : Device) : Prop where
  frame : e = { d with regs := e.regs, parts := e.parts, directory := e.directory }
  regs : ∀ r : Reg, r.offset < 0x3000000 → e.reg r = d.reg r

namespace Device.Swept

variable {d e f : Device}

theorem refl (d : Device) : d.Swept d := ⟨rfl, fun _ _ => rfl⟩

theorem trans (h : d.Swept e) (g : e.Swept f) : d.Swept f where
  frame := calc f = { e with regs := f.regs, parts := f.parts, directory := f.directory } := g.frame
    _ = { ({ d with regs := e.regs, parts := e.parts, directory := e.directory } : Device) with
          regs := f.regs, parts := f.parts, directory := f.directory } :=
      congrArg (fun x : Device => { x with regs := f.regs, parts := f.parts, directory := f.directory }) h.frame
    _ = { d with regs := f.regs, parts := f.parts, directory := f.directory } := rfl
  regs r hr := (g.regs r hr).trans (h.regs r hr)

theorem updPart (h : d.Swept e) (p : Nat) (g : Part → Part) : d.Swept (e.updPart p g) := h.trans ⟨rfl, fun _ _ => rfl⟩

theorem dirDrop (h : d.Swept e) (g : DirEntry → Bool) : d.Swept (e.dirDrop g) := h.trans ⟨rfl, fun _ _ => rfl⟩

theorem setReg (h : d.Swept e) {r : Reg} (w : Word) (hr : 0x3000000 ≤ r.offset) : d.Swept (e.setReg r w) :=
  h.trans ⟨by unfold Device.setReg; split <;> rfl, fun _ hx => Device.reg_setReg_ne _ _ _ _ (hx.trans_le hr).ne⟩

theorem setFld (h : d.Swept e) {r : Reg} (f : RegField) (v : Nat) (hr : 0x3000000 ≤ r.offset) : d.Swept (e.setFld r f v) := h.setReg _ hr

theorem foldl {β : Type} {f : Device → β → Device} (hf : ∀ (a : Device) (b : β), a.Swept (f a b)) (l : List β) (d : Device) :
    d.Swept (l.foldl f d) := by
  induction l generalizing d with
  | nil => exact refl d
  | cons b l ih => exact (hf d b).trans (ih _)

end Device.Swept

theorem cisPartTop_high (p : Nat) : 0x3000000 ≤ (Reg.cisPartTop p).offset := by simp only [Reg.offset]; omega
theorem cisPartUse_high (die p : Nat) : 0x3000000 ≤ (Reg.cisPartUse die p).offset := by simp only [Reg.offset]; omega
theorem gthPartLog_high (die p : Nat) : 0x3000000 ≤ (Reg.gthPartLog die p).offset := by simp only [Reg.offset]; omega

theorem Device.swept_showCistern (d : Device) (p : Nat) : d.Swept (d.showCistern p) := by
  have huse (a : Device) (die : Nat) (f : RegField) (v : Nat) : a.Swept (a.setFld (.cisPartUse die p) f v) :=
    (Device.Swept.refl a).setFld f v (cisPartUse_high die p)
  exact ((Device.Swept.refl d).setReg _ (cisPartTop_high p)).trans
    (.foldl (fun a die => ((huse a die _ _).trans (huse _ die _ _)).trans (huse _ die _ _)) _ _)

theorem Device.swept_sweepSegments (d : Device) (p : Nat) : d.Swept (d.sweepSegments p) := by
  unfold Device.sweepSegments
  dsimp only
  split
  · exact .refl d
  · exact ((Device.Swept.refl d).updPart p _).trans (Device.swept_showCistern _ p)

theorem Device.swept_sweepBinds (d : Device) (p : Nat) : d.Swept (d.sweepBinds p) := by
  unfold Device.sweepBinds
  exact (Device.Swept.refl d).updPart p _

theorem Device.swept_sweepTables (d : Device) (p : Nat) : d.Swept (d.sweepTables p) := by
  refine .foldl (fun a h => ?_) _ d
  dsimp only
  split
  · exact .refl a
  · split
    · refine (((Device.Swept.refl a).updPart p _).dirDrop _).trans (.foldl (fun b die => ?_) _ _)
      exact (Device.Swept.refl b).setFld _ _ (gthPartLog_high die p)
    · exact .refl a

/-! ### A command retires without a record -/

/-- R101: a command is RETIRED, and RETIRE_INDEX goes past it. -/
def Device.retiring (d : Device) (p q idx : Nat) : Device :=
  (d.updCmd p q idx fun c => { c with st := .retired }).setFld (.cmdQStatus p q) Fd.cmdQStatusRetireIndex (idx + 1)

/-- R101: d after the retirement of a command that leaves no record, with sync objects m. -/
def Device.retiredWith (d : Device) (p q idx : Nat) (m : SMap SyncObj) : Device :=
  ({ d.retiring p q idx with objs := m } : Device).setQueue p q (((d.retiring p q idx).queue p q).filter fun x => x.idx != idx)

section
variable {d : Device} {p q : Nat} {c : Cmd} {m : SMap SyncObj}

theorem Device.cmdRetire_eq (hs : c.status = 0) (hc : completeOf c.desc = false)
    (hsig : (d.retiring p q c.idx).retireSignal p q c = ({ d.retiring p q c.idx with objs := m }, false)) :
    d.cmdRetire p q c = d.retiredWith p q c.idx m := by
  unfold Device.cmdRetire
  dsimp only
  rw [show (d.updCmd p q c.idx fun c => { c with st := .retired }).setFld (.cmdQStatus p q) Fd.cmdQStatusRetireIndex (c.idx + 1) =
    d.retiring p q c.idx from rfl, hsig]
  dsimp only
  rw [hc, hs]
  rfl

/-- What the retirement of a command leaves as it was. -/
theorem Device.retiredWith_keeps (idx : Nat) {e : Device} (he : d.retiredWith p q idx m = e) :
    e.hostMem = d.hostMem ∧ e.mem = d.mem ∧ e.cores = d.cores ∧ e.objs = m ∧ e.flowDone = d.flowDone := by
  subst he
  simp only [Device.retiredWith, Device.retiring, Device.setQueue_hostMem, Device.setQueue_mem, Device.setQueue_cores, Device.setQueue_objs,
    Device.setQueue_flowDone, Device.setFld_hostMem, Device.setFld_mem, Device.setFld_cores, Device.setFld_flowDone, Device.updCmd_hostMem,
    Device.updCmd_mem, Device.updCmd_cores, Device.updCmd_flowDone, and_self]

theorem Device.cmd_retiredWith (idx : Nat) : (d.retiredWith p q idx m).cmd? p q idx = none := by
  rw [Device.cmd?, Device.retiredWith, Device.queue_setQueue, if_pos rfl, List.find?_eq_none]
  intro x hx
  have hne := (List.mem_filter.1 hx).2
  simpa only [beq_iff_eq, bne_iff_ne] using hne

/-- RETIRE_INDEX goes past the command. -/
theorem Device.retireIndex_retiredWith (idx : Nat) (hp : p < 8) (hq : q < 64) :
    (d.retiredWith p q idx m).fld (.cmdQStatus p q) Fd.cmdQStatusRetireIndex = (idx + 1) % 4294967296 := by
  have hin : (Reg.cmdQStatus p q).inRange = true := by simp only [Reg.inRange, hp, hq, decide_true, Bool.and_self]
  refine (Device.fld_setFld_apart _ _ _ (by decide)).trans ?_
  exact Device.fld_setFld_self _ _ _ _ hin (by decide) (by decide)

theorem Device.sameRegs_retiring (idx : Nat) : d.sameRegs (d.retiring p q idx) [.cmdQStatus p q] :=
  (d.sameRegs_updCmd p q idx _).trans (Device.sameRegs_setFld _ _ _ _ List.mem_cons_self)

theorem Device.objs_retiring (idx : Nat) : (d.retiring p q idx).objs = d.objs :=
  (Device.setFld_objs _ _ _ _).trans (Device.updCmd_objs _ _ _ _ _)

/-- What a signal reads of the device is not in the status of a queue. -/
theorem Device.retiring_reads (idx : Nat) (hp : p < 8) (hq : q < 64) : (d.retiring p q idx).chip = d.chip ∧
    (∀ r, (d.retiring p q idx).syncOf p r = d.syncOf p r) ∧ ∀ n, (d.retiring p q idx).objBound n = d.objBound n := by
  have hfld (r : Reg) (f : RegField) (h : r.offset ≠ (Reg.cmdQStatus p q).offset) : (d.retiring p q idx).fld r f = d.fld r f :=
    (Device.sameRegs_retiring idx).fld (by simpa only [List.map_cons, List.map_nil, List.mem_singleton] using h) f
  have hsync (f : RegField) := hfld (.synPartCfg p) f (by simp only [Reg.offset]; omega)
  refine ⟨hfld .glbChip _ (by simp only [Reg.offset]; omega), fun r => ?_, fun n => ?_⟩
  · simp only [Device.syncOf, hsync]
  · simp only [Device.objBound, hfld (.synObjCfg n) _ (by simp only [Reg.offset]; omega)]

theorem Device.retireSignal_none (h : signalOpOf c.desc = 0) : d.retireSignal p q c = (d, false) := if_pos (.inl h)

theorem Device.retireSignal_adds {n : Nat} (hs : c.status = 0) (hop : signalOpOf c.desc = 1) (hn : d.syncOf p (signalSyncOf c.desc) = some n)
    (halone : (d.obj n).waiters = []) (hb : (d.obj n).value.toNat + signalAmountOf c.desc ≤ d.objBound n) :
    d.retireSignal p q c = (d.setObj n ((d.obj n).raised (signalAmountOf c.desc) (sourceWord d.chip p 1 q) c.idx), false) := by
  unfold Device.retireSignal
  rw [if_neg (by rw [hop, hs]; decide), hn]
  dsimp only
  rw [hop, Device.signal_adds _ _ halone hb]
  rfl

end

theorem exec_commandRetire (p q : Nat) (s : State) : exec (.commandRetire p q) s = run (·.retireNext p q) s := rfl

/-- The row of a command that retires without a record. -/
theorem commandRetire_row {s : State} {p q : Nat} {c : Cmd} {m : SMap SyncObj} (hs : s.inService = true) (hp : p < 8) (hq : q < 64)
    (hret : s.dev.retirable p q = some c) (heq : s.quiet.dev.cmdRetire p q c = s.quiet.dev.retiredWith p q c.idx m) :
    ∃ t : State, exec (.commandRetire p q) s = .next t ∧ t.pending = s.pending ∧
      t.dev.fld (.cmdQStatus p q) Fd.cmdQStatusRetireIndex = (c.idx + 1) % 4294967296 ∧ t.dev.cmd? p q c.idx = none ∧
      t.dev.hostMem = s.dev.hostMem ∧ t.dev.objs = m ∧ t.dev.mem = s.dev.mem ∧ t.dev.cores = s.dev.cores := by
  have hidx := Device.retireIndex_retiredWith (d := s.quiet.dev) (m := m) c.idx hp hq
  have hcmd := Device.cmd_retiredWith (d := s.quiet.dev) (p := p) (q := q) (m := m) c.idx
  have hgo : s.quiet.dev.retireNext p q = (((s.quiet.dev.cmdRetire p q c).sweepSegments p).sweepBinds p).sweepTables p := by
    rw [Device.retireNext, show s.quiet.dev.retirable p q = some c from hret]
  generalize ha : s.quiet.dev.retiredWith p q c.idx m = a at heq hidx hcmd
  obtain ⟨hhost, hmem, hcores, hobjs, hflow⟩ := Device.retiredWith_keeps c.idx ha
  have hswept := ((a.swept_sweepSegments p).trans (Device.swept_sweepBinds _ p)).trans (Device.swept_sweepTables _ p)
  rw [heq] at hgo
  generalize ((a.sweepSegments p).sweepBinds p).sweepTables p = t at hswept hgo
  have hf := hswept.frame
  have hreg : t.reg (.cmdQStatus p q) = a.reg (.cmdQStatus p q) := hswept.regs _ (by simp only [Reg.offset]; omega)
  refine ⟨_, run_row hs (exec_commandRetire p q s) hgo ((congrArg Device.flowDone hf :).trans hflow), rfl, ?_,
    (Device.cmd_congr (congrArg Device.queues hf :) p q c.idx).trans hcmd, (congrArg Device.hostMem hf :).trans hhost,
    (congrArg Device.objs hf :).trans hobjs, (congrArg Device.mem hf :).trans hmem, (congrArg Device.cores hf :).trans hcores⟩
  rw [← hidx, Device.fld, Device.fld, hreg]

/-! ### O16 -/

/-- Settles O16: the retirement of a command is its signal, none or one addition (`Device.retireSignal_adds`), and, without a record, its leaving
the queue (`Device.retiredWith`); what it lets go concerns neither (`Device.Swept`). -/
theorem commandsRetireInOrder : Obligations.CommandsRetireInOrder := by
  unfold Obligations.CommandsRetireInOrder
  intro s p q c hs hret hp hq hst hrec
  refine ⟨fun hop => ?_, fun n hop hn halone hb => ?_⟩
  · have heq := Device.cmdRetire_eq (d := s.quiet.dev) hst hrec (m := (s.quiet.dev.retiring p q c.idx).objs) (Device.retireSignal_none hop)
    obtain ⟨t, ht, hpend, hidx, hcmd, hhost, hobjs, hrest⟩ := commandRetire_row hs hp hq hret heq
    exact ⟨t, ht, hpend, hidx, hcmd, hhost, hobjs.trans (Device.objs_retiring c.idx), hrest⟩
  · obtain ⟨hchip, hsync, hbound⟩ := Device.retiring_reads (d := s.quiet.dev) c.idx hp hq
    have hobj := Device.obj_congr (Device.objs_retiring (d := s.quiet.dev) (p := p) (q := q) c.idx)
    have hsig := Device.retireSignal_adds (d := s.quiet.dev.retiring p q c.idx) (p := p) (q := q) hst hop ((hsync _).trans hn)
      ((congrArg SyncObj.waiters (hobj n)).trans halone) (by rw [hobj, hbound]; exact hb)
    obtain ⟨t, ht, hpend, hidx, hcmd, hhost, hobjs, hmem, hcores⟩ := commandRetire_row hs hp hq hret (Device.cmdRetire_eq hst hrec hsig)
    have hset := Device.obj_congr (d := (s.quiet.dev.retiring p q c.idx).setObj n _) hobjs
    refine ⟨t, ht, hpend, hidx, hcmd, ?_, fun x hx => ?_, hhost, hmem⟩
    · rw [hset, Device.obj_setObj_self, hobj, hchip]
      rfl
    · rw [hset, Device.obj_setObj_ne _ _ _ _ hx, hobj]
      rfl

end Sys2Proof.Machine
end

section
/-! PROOF. R114: commands that change their target cores one by one. -/

namespace Sys2Proof.Machine

/-- e is d but for its cores, each of which F gives. -/
structure Device.CoresAre (d e : Device) (F : Nat → Core) : Prop where
  frame : e = { d with cores := e.cores }
  core : ∀ x, e.core x = F x

theorem Device.CoreIs.frame_of {d a e : Device} {c : Nat} {k : Core} (h : a.CoreIs e c k) (ha : a = { d with cores := a.cores }) :
    e = { d with cores := e.cores } := calc
  e = { a with cores := e.cores } := h.frame
  _ = { d with cores := e.cores } := congrArg (fun x : Device => { x with cores := e.cores }) ha

theorem Device.coresAre_foldl_from {d e : Device} {f : Device → Nat → Device} {g : Core → Core} {l : List Nat} (hn : l.Nodup)
    (hf : ∀ a : Device, a = { d with cores := a.cores } → ∀ k ∈ l, a.core k = d.core k → a.CoreIs (f a k) k (g (d.core k)))
    (he : e = { d with cores := e.cores }) (hsame : ∀ k ∈ l, e.core k = d.core k) :
    d.CoresAre (l.foldl f e) fun x => if x ∈ l then g (d.core x) else e.core x := by
  induction l generalizing e with
  | nil => exact ⟨he, fun x => (if_neg List.not_mem_nil).symm⟩
  | cons k l ih =>
    obtain ⟨hk, hl⟩ := List.nodup_cons.1 hn
    have hstep := hf e he k List.mem_cons_self (hsame k List.mem_cons_self)
    have hrest := ih hl (fun a ha y hy => hf a ha y (List.mem_cons_of_mem k hy)) (hstep.frame_of he)
      (fun y hy => (hstep.others y fun h => hk (h ▸ hy)).trans (hsame y (List.mem_cons_of_mem k hy)))
    refine ⟨hrest.frame, fun x => (hrest.core x).trans ?_⟩
    by_cases hx : x = k
    · subst hx
      rw [if_neg hk, if_pos List.mem_cons_self, hstep.core]
    · simp only [List.mem_cons, hx, false_or, hstep.others x hx]

/-- What changes each core of a list alone, by what the core is, changes each of them once. -/
theorem Device.coresAre_foldl {d : Device} {f : Device → Nat → Device} {g : Core → Core} {l : List Nat} (hn : l.Nodup)
    (hf : ∀ a : Device, a = { d with cores := a.cores } → ∀ k ∈ l, a.core k = d.core k → a.CoreIs (f a k) k (g (d.core k))) :
    d.CoresAre (l.foldl f d) fun x => if x ∈ l then g (d.core x) else d.core x :=
  Device.coresAre_foldl_from hn hf rfl fun _ _ => rfl

/-- R98: the target cores of a command are distinct. -/
theorem Device.targets_nodup (d : Device) (p : Nat) (x : Desc) : (d.targets p x).Nodup := by
  have hclusters : (d.partClusters p).Nodup := List.nodup_range.filter _
  have hlt {m k : Nat} (h : k ∈ bitList 8 m) : k < 8 := List.mem_range.1 (List.mem_filter.1 h).1
  refine List.nodup_flatMap.2 ⟨fun cl _ => ?_, ?_⟩
  · exact (List.nodup_range.filter _).map fun _ _ h => Nat.add_left_cancel h
  · refine (hclusters.sublist ((List.take_sublist _ _).trans (List.drop_sublist _ _))).imp fun {a b} hab => ?_
    intro k ha hb
    obtain ⟨i, hi, rfl⟩ := List.mem_map.1 ha
    obtain ⟨j, hj, hij⟩ := List.mem_map.1 hb
    have := hlt hi
    have := hlt hj
    omega

/-- What cores alone change leaves the partitions' clusters, and so the targets of commands. -/
theorem Device.targets_congr {d e : Device} (h : e.layout = d.layout) (p : Nat) (x : Desc) : e.targets p x = d.targets p x := by
  simp only [Device.targets, Device.partClusters, h]

section
variable {d e : Device} {F : Nat → Core} {p q idx : Nat} {c : Cmd}

/-- A command of d, changed once cores have. -/
theorem Device.CoresAre.updCmd (h : d.CoresAre e F) (hc : d.cmd? p q idx = some c) (f : Cmd → Cmd) (hf : ∀ c : Cmd, c.idx = idx → (f c).idx = idx) :
    ∃ t : Device, e.updCmd p q idx f = t ∧ t.flowDone = d.flowDone ∧ t.cmd? p q idx = some (f c) ∧ (∀ x, t.core x = F x) ∧ t.mem = d.mem ∧
      d.sameRegs t [.cmdQStatus p q] := by
  have hqueues : e.queues = d.queues := (congrArg Device.queues h.frame :)
  have hflow : e.flowDone = d.flowDone := (congrArg Device.flowDone h.frame :)
  have hmem : e.mem = d.mem := (congrArg Device.mem h.frame :)
  have hregs : e.regs = d.regs := (congrArg Device.regs h.frame :)
  refine ⟨_, rfl, (Device.updCmd_flowDone _ _ _ _ _).trans hflow, ?_, fun x => (Device.core_congr (Device.updCmd_cores _ _ _ _ _) x).trans (h.core x),
    (Device.updCmd_mem _ _ _ _ _).trans hmem, (Device.sameRegs_of_regs _ hregs).trans (e.sameRegs_updCmd p q idx f)⟩
  rw [Device.cmd_updCmd _ _ _ _ f hf, Device.cmd_congr hqueues, hc, Option.map_some]

/-! ### PROG_START -/

/-- R114: PROG_START starts the idle cores that it has claimed. -/
theorem Device.coresAre_started (d : Device) (p q idx : Nat) (x : Desc) :
    d.CoresAre (((d.targets p x).filter fun k => (d.core k).job == some (p, q, idx) && (d.core k).st == .idle).foldl
      (fun (d : Device) k => d.updCore k (·.start x)) d)
      fun k => if k ∈ d.targets p x ∧ (d.core k).job = some (p, q, idx) ∧ (d.core k).st = .idle then (d.core k).start x else d.core k := by
  have h := Device.coresAre_foldl (d := d) (g := (·.start x)) (f := fun (d : Device) k => d.updCore k (·.start x))
    ((d.targets_nodup p x).filter fun k => (d.core k).job == some (p, q, idx) && (d.core k).st == .idle) fun a _ k _ hk => by
      rw [← hk]
      exact (Device.CoreIs.refl a k).updCore (·.start x)
  simp only [List.mem_filter, Bool.and_eq_true, beq_iff_eq] at h
  exact h

theorem exec_progStart (p q idx : Nat) (s : State) :
    exec (.progStart p q idx) s = run (fun d => d.work p q idx 0x11 fun c d => d.progStart p q c) s := rfl

end

/-- A row of an engine's work that ends as the device t. -/
theorem work_row {s : State} {i : Instr} {p q idx op : Nat} {c : Cmd} {f : Cmd → Device → Device} {t : Device} (hs : s.inService = true)
    (hi : exec i s = run (fun d => d.work p q idx op f) s) (h : s.dev.runningCmd p q idx op = some c) (ht : f c s.quiet.dev = t)
    (hd : t.flowDone = s.dev.flowDone) : exec i s = .next { s with dev := t } :=
  run_row hs hi ((Device.work_running (d := s.quiet.dev) h f).trans ht) hd

theorem progStart_row {s : State} {p q idx : Nat} {c : Cmd} (hs : s.inService = true) (h : s.dev.runningCmd p q idx 0x11 = some c)
    (hb : c.begun = false) : ∃ t : State, exec (.progStart p q idx) s = .next t ∧ t.pending = s.pending ∧
      t.dev.cmd? p q idx = some { c with begun := true } ∧
      (∀ k, t.dev.core k = if k ∈ s.dev.targets p c.desc ∧ (s.dev.core k).job = some (p, q, idx) ∧ (s.dev.core k).st = .idle then
        (s.dev.core k).start c.desc else s.dev.core k) ∧ t.dev.mem = s.dev.mem ∧ s.dev.sameRegs t.dev [.cmdQStatus p q] := by
  have hc := Device.runningCmd_cmd h
  obtain rfl := Device.cmd_idx hc
  obtain ⟨t, ht, hflow, hrest⟩ := (Device.coresAre_started s.quiet.dev p q c.idx c.desc).updCmd (c := c) hc
    (fun x => { x with begun := true }) fun _ h => h
  have heq : s.quiet.dev.progStart p q c = t := (if_neg (by rw [hb]; exact Bool.false_ne_true)).trans ht
  exact ⟨_, work_row hs (exec_progStart p q c.idx s) h heq hflow, rfl, hrest⟩

/-! ### PROG_STOP -/

/-- R114: a core that runs is to stop at its next block end. -/
def Core.stopping (k : Core) : Core := if k.st = .running then { k with st := .stopping } else k

theorem vecWritesMask_congr {k k' : Core} (h : k.chains = k'.chains) (m : Nat) (it : QItem) : vecWritesMask k m it = vecWritesMask k' m it := by
  simp only [vecWritesMask, Core.stages, h]

/-- R197, R199: of the core, whether an instruction of its queue writes a mask depends on its chain table alone. -/
theorem masksPending_congr {m : Nat} {v : SMap Byte} {l : List QItem} {k k' : Core} (h : k.chains = k'.chains) :
    masksPending m v l k = masksPending m v l k' := by
  induction l generalizing k k' with
  | nil => rfl
  | cons it rest ih =>
    have hload : (k.chainLoaded v it).chains = (k'.chainLoaded v it).chains := by
      unfold Core.chainLoaded
      dsimp only
      split
      · exact h
      · rw [h]
    have hnext : (if fieldOf it.word 63 56 = 0x44 then k.chainLoaded v it else k).chains =
        (if fieldOf it.word 63 56 = 0x44 then k'.chainLoaded v it else k').chains := by
      split
      · exact hload
      · exact h
    rw [masksPending, masksPending, vecWritesMask_congr h, ih hnext]

theorem movsWaits_st (k : Core) (st : SeqState) (w : Word) : movsWaits { k with st := st } w = movsWaits k w := by
  unfold movsWaits
  split
  · rfl
  · rfl
  · exact masksPending_congr rfl
  · rfl

section
variable {d a e : Device} {c : Nat}

/-- R115: whether a core stalls depends neither on other cores nor on the state of its sequencer. -/
theorem Device.stallsOn_congr {st : SeqState} (h : a = { d with cores := a.cores }) (hc : a.core c = { d.core c with st := st }) :
    a.stallsOn c = d.stallsOn c := by
  have hitem : a.itemAt c = d.itemAt c := by
    rw [Device.itemAt, Device.itemAt, Device.coreWord, Device.coreWord, hc]
    rfl
  have hfate (w : Word) : a.itemFate (a.corePart c) w = d.itemFate (d.corePart c) w :=
    (congrArg (fun x : Device => x.itemFate (x.corePart c) w) h :)
  have hfree : a.free = d.free := (congrArg Device.free h :)
  have hheld : a.heldItem c = d.heldItem c := by
    simp only [Device.heldItem, Device.itemFlow, hitem, hfate, hfree, hc]
    rfl
  unfold Device.stallsOn
  rw [hitem, hheld, hc]
  dsimp only
  rw [movsWaits_st]

theorem Device.CoreIs.stopCore (ha : a = { d with cores := a.cores }) (hc : a.core c = d.core c) (hwait : (d.core c).st ≠ .waiting)
    (hstall : d.stallsOn c = false) : a.CoreIs (a.stopCore c) c (d.core c).stopping := by
  rw [← hc] at hwait ⊢
  unfold Device.stopCore Core.stopping
  cases hst : (a.core c).st with
  | waiting => exact absurd hst hwait
  | running =>
    have hstop := (Device.CoreIs.refl a c).updCore fun y => { y with st := .stopping }
    have hgo : (a.updCore c fun y => { y with st := .stopping }).stallsOn c = false := by
      rw [← hstall]
      exact Device.stallsOn_congr (hstop.frame_of ha) (hstop.core.trans (by rw [hc]))
    dsimp only
    rw [hgo, if_neg Bool.false_ne_true, if_pos rfl]
    exact hstop
  | idle => exact .refl a c
  | stopping => exact .refl a c
  | faulted => exact .refl a c

theorem foldl_eq_self {α β : Type} {f : α → β → α} {x : α} : ∀ {l : List β}, (∀ b ∈ l, f x b = x) → l.foldl f x = x
  | [], _ => rfl
  | b :: l, h => by
    rw [List.foldl_cons, h b List.mem_cons_self]
    exact foldl_eq_self fun y hy => h y (List.mem_cons_of_mem b hy)

/-- R270, R283: where no command waits on FREE, a stop of cores ends none. -/
theorem Device.stopGathers_none {p : Nat} (cores : List Nat) (h : ∀ q < 64, ∀ b ∈ d.queue p q, d.waitsFree p q b = false) :
    d.stopGathers p cores = d := by
  refine foldl_eq_self fun q hq => foldl_eq_self fun b hb => if_neg ?_
  rintro ⟨-, -, -, hwaits, -⟩
  exact Bool.false_ne_true ((h q (List.mem_range.1 hq) b hb).symm.trans hwaits)

end

theorem exec_progStop (p q idx : Nat) (s : State) :
    exec (.progStop p q idx) s = run (fun d => d.work p q idx 0x12 fun c d => d.progStop p q c) s := rfl

theorem Device.coresAre_stopping {d : Device} {p : Nat} {x : Desc}
    (h : ∀ k ∈ d.targets p x, (d.core k).st ≠ .waiting ∧ d.stallsOn k = false) :
    d.CoresAre ((d.targets p x).foldl Device.stopCore d)
      fun k => if k ∈ d.targets p x ∧ (d.core k).st = .running then { d.core k with st := .stopping } else d.core k := by
  have hcores := Device.coresAre_foldl (g := Core.stopping) (d.targets_nodup p x) fun a ha k hk hc => Device.CoreIs.stopCore ha hc (h k hk).1 (h k hk).2
  refine ⟨hcores.frame, fun k => (hcores.core k).trans ?_⟩
  simp only [Core.stopping, ite_and]

/-- R114: PROG_STOP where no command waits on FREE and no target waits or stalls. -/
theorem Device.progStop_eq {d : Device} {p q : Nat} {c : Cmd} (hfree : ∀ i < 64, ∀ b ∈ d.queue p i, d.waitsFree p i b = false)
    (h : ∀ k ∈ d.targets p c.desc, (d.core k).st ≠ .waiting ∧ d.stallsOn k = false) :
    d.progStop p q c = ((d.targets p c.desc).foldl Device.stopCore d).updCmd p q c.idx fun x => { x with begun := true } := by
  have hframe := (Device.coresAre_stopping h).frame
  unfold Device.progStop
  dsimp only
  generalize (d.targets p c.desc).foldl Device.stopCore d = e at hframe
  rw [Device.stopGathers_none]
  intro i hi b hb
  have hqueue : e.queue p i = d.queue p i := (congrArg (fun x : Device => x.queue p i) hframe :)
  rw [hqueue] at hb
  exact (congrArg (fun x : Device => x.waitsFree p i b) hframe :).trans (hfree i hi b hb)

theorem progStop_row {s : State} {p q idx : Nat} {c : Cmd} (hs : s.inService = true) (h : s.dev.runningCmd p q idx 0x12 = some c)
    (hfree : ∀ i < 64, ∀ b ∈ s.dev.queue p i, s.dev.waitsFree p i b = false)
    (ht : ∀ k ∈ s.dev.targets p c.desc, (s.dev.core k).st ≠ .waiting ∧ s.dev.stallsOn k = false) :
    ∃ t : State, exec (.progStop p q idx) s = .next t ∧ t.pending = s.pending ∧ t.dev.cmd? p q idx = some { c with begun := true } ∧
      (∀ k, t.dev.core k = if k ∈ s.dev.targets p c.desc ∧ (s.dev.core k).st = .running then
        { s.dev.core k with st := .stopping } else s.dev.core k) ∧ t.dev.mem = s.dev.mem ∧ s.dev.sameRegs t.dev [.cmdQStatus p q] := by
  have hc := Device.runningCmd_cmd h
  obtain rfl := Device.cmd_idx hc
  obtain ⟨t, hu, hflow, hrest⟩ := (Device.coresAre_stopping (d := s.quiet.dev) ht).updCmd (c := c) hc (fun x => { x with begun := true }) fun _ h => h
  exact ⟨_, work_row hs (exec_progStop p q c.idx s) h ((Device.progStop_eq (d := s.quiet.dev) hfree ht).trans hu) hflow, rfl, hrest⟩

end Sys2Proof.Machine
end

section
/-! PROOF. O19: program words that land, wait or are held; PROG_LOAD, PROG_START and PROG_STOP. -/

namespace Sys2Proof.Machine

/-! ### A part that reaches a core (R108 to R110) -/

/-- R108 to R110: nothing at a core stands in the way of a write to region r: no lease, no earlier part, no lapsed part. -/
structure Core.Clear (k : Core) (r : Nat) : Prop where
  lease : k.lease ≠ some r
  parts : ∀ y ∈ k.parts, regionOf y.word ≠ r
  lapsed : ∀ y, k.lapsed = some y → regionOf y.word ≠ r

section
variable {d : Device} {c : Nat} {x : PmemPart}

theorem Device.partArrives_lands (h : (d.core c).Clear (regionOf x.word)) : d.partArrives c x = d.setCore c ((d.core c).land x) := by
  have hlapsed : ((d.core c).lapsed.any fun y => regionOf y.word == regionOf x.word) = false := by
    cases hl : (d.core c).lapsed with
    | none => rfl
    | some y => exact beq_eq_false_iff_ne.2 (h.lapsed y hl)
  have hparts : ((d.core c).parts.any fun y => regionOf y.word == regionOf x.word) = false :=
    List.any_eq_false.2 fun y hy => by simpa only [beq_iff_eq] using h.parts y hy
  unfold Device.partArrives
  dsimp only
  rw [hlapsed, hparts, beq_eq_false_iff_ne.2 h.lease]
  rfl

theorem Device.partArrives_waits (h : (d.core c).lease = some (regionOf x.word)) :
    d.partArrives c x = d.setCore c { d.core c with parts := (d.core c).parts ++ [x] } := by
  unfold Device.partArrives
  dsimp only
  rw [h, beq_self_eq_true]
  rfl

/-- A part that reaches a core changes that core alone. -/
theorem Device.partArrives_coreIs (d : Device) (c : Nat) (x : PmemPart) : ∃ k : Core, d.CoreIs (d.partArrives c x) c k := by
  unfold Device.partArrives
  dsimp only
  split
  · exact ⟨_, (Device.CoreIs.refl d c).setCore _⟩
  · exact ⟨_, (Device.CoreIs.refl d c).setCore _⟩

end

/-! ### PROG_LOAD -/

/-- R109: a load of words that lie in one region is one part. -/
theorem loadParts_one {first n : Nat} (hn : 1 ≤ n) (h : first % 512 + n ≤ 512) : loadParts 17 first n = [(first, n)] := by
  have hmin : min n (512 - first % 512) = n := by omega
  rw [loadParts, if_neg (by omega), hmin]
  dsimp only
  rw [Nat.sub_self]
  rfl

/-- R109, R114: the program words that a command's operands name, as read. -/
def loadPart (q : Nat) (c : Cmd) (bs : List Byte) : PmemPart :=
  { word := fieldOf c.desc.q5 15 0, origin := some (q, c.idx)
    data := (List.range (fieldOf c.desc.q5 31 16)).map fun i => wordOf (ofLeBytes ((bs.drop (8 * i)).take 8)) }

section
variable {d e : Device} {p q : Nat} {c : Cmd} {bs : List Byte}

theorem Device.progLoad_one (hu : c.unit = 0) (hn : 1 ≤ fieldOf c.desc.q5 31 16) (h : fieldOf c.desc.q5 15 0 % 512 + fieldOf c.desc.q5 31 16 ≤ 512)
    (hread : d.readDva (d.userOf p c 0) c.desc.q4.toNat (8 * fieldOf c.desc.q5 31 16) = (e, .ok bs)) :
    d.progLoad p q c = ((e.targets p c.desc).foldl (fun (d : Device) k => d.partArrives k (loadPart q c bs)) e).updCmd p q c.idx (·.ended 0 0) := by
  unfold Device.progLoad
  rw [loadParts_one hn h, hu]
  dsimp only
  rw [List.drop_zero, Device.loadGo, Nat.sub_self, Nat.mul_zero, Nat.add_zero, hread]
  rfl

/-- What a read of memory leaves as it was. -/
theorem Device.read_keeps {u : MemUser} {a n : Nat} {r : Except MemErr (List Byte)} (h : d.readDva u a n = (e, r)) :
    e.cores = d.cores ∧ e.queues = d.queues ∧ e.layout = d.layout ∧ e.flowDone = d.flowDone ∧ e.mem = d.mem := by
  have hkeep {α : Type} {g : Device → α} (hg : ReadBlind g) : g e = g d := by
    have := Device.readDva_keeps hg d u a n
    rwa [h] at this
  exact ⟨hkeep writeBlind_cores.toReadBlind, hkeep writeBlind_queues.toReadBlind, hkeep writeBlind_layout.toReadBlind,
    hkeep writeBlind_flowDone.toReadBlind, hkeep readBlind_mem⟩

/-- R109, R114: a part that lands in each of the target cores. -/
theorem Device.coresAre_loaded (x : PmemPart) (h : ∀ k ∈ d.targets p c.desc, (d.core k).Clear (regionOf x.word)) :
    d.CoresAre ((d.targets p c.desc).foldl (fun (d : Device) k => d.partArrives k x) d)
      fun k => if k ∈ d.targets p c.desc then (d.core k).land x else d.core k :=
  Device.coresAre_foldl (g := (·.land x)) (d.targets_nodup p c.desc) fun a _ k hk hc => by
    rw [Device.partArrives_lands (by rw [hc]; exact h k hk), hc]
    exact (Device.CoreIs.refl a k).setCore _

end

theorem exec_progLoad (p q idx : Nat) (io : MemIo) (s : State) : exec (.progLoad p q idx io) s =
    run (fun d => ((d.withIo io).work p q idx 0x10 fun c d => d.progLoad p q c).endIo) s := rfl

theorem progLoad_row {s : State} {p q idx : Nat} {c : Cmd} {io : MemIo} {e : Device} {bs : List Byte} (hs : s.inService = true)
    (hc : s.dev.runningCmd p q idx 0x10 = some c) (hu : c.unit = 0) (hn : 1 ≤ fieldOf c.desc.q5 31 16)
    (h : fieldOf c.desc.q5 15 0 % 512 + fieldOf c.desc.q5 31 16 ≤ 512)
    (hread : (s.quiet.dev.withIo io).readDva (s.dev.userOf p c 0) c.desc.q4.toNat (8 * fieldOf c.desc.q5 31 16) = (e, .ok bs))
    (hclear : ∀ k ∈ s.dev.targets p c.desc, (s.dev.core k).lease = none ∧ (s.dev.core k).parts = [] ∧ (s.dev.core k).lapsed = none) :
    ∃ t : State, exec (.progLoad p q idx io) s = .next t ∧ t.pending = s.pending ∧ t.dev.cmd? p q idx = some (c.ended 0 0) ∧
      (∀ k, t.dev.core k = if k ∈ s.dev.targets p c.desc then (s.dev.core k).land (loadPart q c bs) else s.dev.core k) ∧ t.dev.mem = s.dev.mem := by
  have hcmd := Device.runningCmd_cmd hc
  obtain rfl := Device.cmd_idx hcmd
  obtain ⟨hcores, hqueues, hlayout, hflow, hmem⟩ := Device.read_keeps hread
  have hcore : ∀ k, e.core k = s.dev.core k := Device.core_congr (d := s.dev) hcores
  have htargets : e.targets p c.desc = s.dev.targets p c.desc := Device.targets_congr (d := s.dev) hlayout p c.desc
  have hloaded := Device.coresAre_loaded (d := e) (p := p) (c := c) (loadPart q c bs) fun k hk => by
    obtain ⟨hlease, hparts, hlapsed⟩ := hclear k (htargets ▸ hk)
    rw [hcore]
    exact ⟨by rw [hlease]; exact nofun, by rw [hparts]; exact nofun, by rw [hlapsed]; exact nofun⟩
  obtain ⟨t, ht, htflow, htcmd, htcore, htmem, -⟩ := hloaded.updCmd (c := c) ((Device.cmd_congr hqueues p q c.idx).trans hcmd) (·.ended 0 0) fun _ h => h
  have hgo : ((s.quiet.dev.withIo io).work p q c.idx 0x10 fun c d => d.progLoad p q c) = t :=
    (Device.work_running (d := s.quiet.dev.withIo io) hc _).trans ((Device.progLoad_one hu hn h hread).trans ht)
  refine ⟨_, run_row hs (exec_progLoad p q c.idx io s) (congrArg Device.endIo hgo) (htflow.trans hflow), rfl, htcmd, fun k => ?_, htmem.trans hmem⟩
  exact (htcore k).trans (by rw [htargets, hcore])

/-! ### CMD_PMEM_DATA -/

section
variable {d : Device} {c a : Nat} {w : Word} {k : Core}

theorem Device.pmemGo_one (d : Device) (c a : Nat) (w : Word) : Device.pmemGo [(c, a, w)] d =
    if d.pmemWaits then { d with pmemHeld := [(c, a, w)] }
    else { d.partArrives c { word := a, data := [w], origin := none } with pmemHeld := [] } := by
  rw [Device.pmemGo, Device.pmemGo]

/-- R116: d after a write of CMD_PMEM_DATA, of word a of core c, has gone where it can. -/
def Device.pmemPut (d : Device) (c a : Nat) (w : Word) : Device := Device.pmemGo [(c, a, w)] d

theorem Device.pmemPut_keeps (d : Device) (c a : Nat) (w : Word) : (d.pmemPut c a w).regs = d.regs ∧ (d.pmemPut c a w).mem = d.mem ∧
    (d.pmemPut c a w).flowDone = d.flowDone ∧ ∀ x, x ≠ c → (d.pmemPut c a w).core x = d.core x := by
  rw [Device.pmemPut, Device.pmemGo_one]
  split
  · exact ⟨rfl, rfl, rfl, fun _ _ => rfl⟩
  · obtain ⟨k, hk⟩ := d.partArrives_coreIs c { word := a, data := [w], origin := none }
    obtain ⟨hflow, hmem, -, hregs⟩ := hk.keeps
    exact ⟨hregs, hmem, hflow, hk.others⟩

theorem Device.pmemPut_held (h : d.pmemWaits = true) : (d.pmemPut c a w).pmemHeld = [(c, a, w)] ∧ (d.pmemPut c a w).core c = d.core c := by
  rw [Device.pmemPut, Device.pmemGo_one, if_pos h]
  exact ⟨rfl, rfl⟩

theorem Device.pmemPut_lands (h : d.pmemWaits = false) (hk : (d.core c).Clear (regionOf a)) :
    (d.pmemPut c a w).core c = (d.core c).land { word := a, data := [w], origin := none } ∧ (d.pmemPut c a w).pmemHeld = [] := by
  rw [Device.pmemPut, Device.pmemGo_one, h, if_neg Bool.false_ne_true, Device.partArrives_lands hk]
  exact ⟨Device.core_setCore_self _ _ _, rfl⟩

theorem Device.pmemPut_waits (h : d.pmemWaits = false) (hk : (d.core c).lease = some (regionOf a)) :
    (d.pmemPut c a w).core c = { d.core c with parts := (d.core c).parts ++ [{ word := a, data := [w], origin := none }] } ∧
      (d.pmemPut c a w).pmemHeld = [] := by
  rw [Device.pmemPut, Device.pmemGo_one, h, if_neg Bool.false_ne_true, Device.partArrives_waits hk]
  exact ⟨Device.core_setCore_self _ _ _, rfl⟩

/-- R109: CMD_PMEM_ADDR goes on to the next word of its core. -/
def Device.pmemNextWord (d : Device) (a : Nat) : Device := d.setFld .cmdPmemAddr Fd.cmdPmemAddrWord ((a + 1) % 8192)

theorem Device.pmemNextWord_spec (d : Device) (a : Nat) :
    (d.pmemNextWord a).fld .cmdPmemAddr Fd.cmdPmemAddrWord = (a + 1) % 8192 ∧
      (d.pmemNextWord a).fld .cmdPmemAddr Fd.cmdPmemAddrCore = d.fld .cmdPmemAddr Fd.cmdPmemAddrCore ∧
      d.sameRegs (d.pmemNextWord a) [.cmdPmemAddr] := by
  refine ⟨?_, Device.fld_setFld_apart _ _ _ (by decide), d.sameRegs_setFld _ _ _ List.mem_cons_self⟩
  rw [Device.pmemNextWord, Device.fld_setFld_self _ _ _ _ rfl (by decide) (by decide)]
  exact Nat.mod_eq_of_lt (Nat.mod_lt _ (by decide))

theorem Device.pmemData_eq (h : d.pmemHeld = []) (hc : c = d.fld .cmdPmemAddr Fd.cmdPmemAddrCore) (ha : a = d.fld .cmdPmemAddr Fd.cmdPmemAddrWord) :
    d.pmemData w = (d.pmemPut c a w).pmemNextWord a := by
  subst hc ha
  unfold Device.pmemData
  rw [h]
  rfl

end

theorem exec_cmdPmemData (w : Word) (s : State) : exec (.cmdPmemData w) s = run (·.pmemData w) s := rfl

theorem cmdPmemData_row {s : State} {w : Word} {c a : Nat} {k : Core} (hs : s.inService = true)
    (hc : c = s.dev.fld .cmdPmemAddr Fd.cmdPmemAddrCore) (ha : a = s.dev.fld .cmdPmemAddr Fd.cmdPmemAddrWord) (hk : k = s.dev.core c)
    (hheld : s.dev.pmemHeld = []) : ∃ t : State, exec (.cmdPmemData w) s = .next t ∧ t.pending = s.pending ∧
      t.dev.fld .cmdPmemAddr Fd.cmdPmemAddrWord = (a + 1) % 8192 ∧ t.dev.fld .cmdPmemAddr Fd.cmdPmemAddrCore = c ∧
      s.dev.sameRegs t.dev [.cmdPmemAddr] ∧ t.dev.mem = s.dev.mem ∧ (∀ x, x ≠ c → t.dev.core x = s.dev.core x) ∧
      (s.dev.pmemWaits = true → t.dev.pmemHeld = [(c, a, w)] ∧ t.dev.core c = k) ∧
      (s.dev.pmemWaits = false → k.Clear (regionOf a) →
        t.dev.core c = k.land { word := a, data := [w], origin := none } ∧ t.dev.pmemHeld = []) ∧
      (s.dev.pmemWaits = false → k.lease = some (regionOf a) →
        t.dev.core c = { k with parts := k.parts ++ [{ word := a, data := [w], origin := none }] } ∧ t.dev.pmemHeld = []) := by
  subst hk
  have heq := Device.pmemData_eq (d := s.quiet.dev) (w := w) hheld hc ha
  obtain ⟨hregs, hmem, hflow, hothers⟩ := s.quiet.dev.pmemPut_keeps c a w
  have hhold := Device.pmemPut_held (d := s.quiet.dev) (c := c) (a := a) (w := w)
  have hlands := Device.pmemPut_lands (d := s.quiet.dev) (c := c) (a := a) (w := w)
  have hwaits := Device.pmemPut_waits (d := s.quiet.dev) (c := c) (a := a) (w := w)
  generalize s.quiet.dev.pmemPut c a w = e at heq hregs hmem hflow hothers hhold hlands hwaits
  obtain ⟨hword, hcoreFld, hsame⟩ := e.pmemNextWord_spec a
  have hcore (x : Nat) : (e.pmemNextWord a).core x = e.core x := Device.core_congr (Device.setFld_cores _ _ _ _) x
  have hpmem : (e.pmemNextWord a).pmemHeld = e.pmemHeld := Device.setFld_pmemHeld _ _ _ _
  refine ⟨_, run_row hs (exec_cmdPmemData w s) heq ((Device.setFld_flowDone _ _ _ _).trans hflow), rfl, hword,
    hcoreFld.trans ((Device.fld_congr hregs _ _).trans hc.symm), (Device.sameRegs_of_regs _ hregs).trans hsame,
    (Device.setFld_mem _ _ _ _).trans hmem, fun x hx => (hcore x).trans (hothers x hx), fun h => ?_, fun h hk => ?_, fun h hk => ?_⟩
  · exact ⟨hpmem.trans (hhold h).1, (hcore c).trans (hhold h).2⟩
  · exact ⟨(hcore c).trans (hlands h hk).1, hpmem.trans (hlands h hk).2⟩
  · exact ⟨(hcore c).trans (hwaits h hk).1, hpmem.trans (hwaits h hk).2⟩

/-! ### Parts that waited -/

theorem Device.pmemNext_none {d : Device} (h : d.pmemHeld = []) : d.pmemNext = d := by
  rw [Device.pmemNext, h, Device.pmemGo]
  cases d
  cases h
  rfl

section
variable {d : Device} {c r : Nat} {x : PmemPart}

/-- R110: a part accepted into the pending program buffer of a core. -/
def Core.lapse (k : Core) (x : PmemPart) : Core := { k with lapsed := some x, parts := k.parts.erase x }

theorem Device.leaseLapse_eq (hheld : d.pmemHeld = []) (hlease : (d.core c).lease = some r) (hl : (d.core c).lapsed = none)
    (hx : ((d.core c).parts.find? fun x => regionOf x.word == r) = some x) :
    ∃ p body die, d.leaseLapse c = (d.setCore c ((d.core c).lapse x)).logPart p 0x0502 0 body die := by
  unfold Device.leaseLapse
  dsimp only
  rw [hlease, hl]
  dsimp only
  rw [hx]
  dsimp only
  rw [← hlease, Device.pmemNext_none]
  · exact ⟨_, _, _, rfl⟩
  · exact (Device.logPart_pmemHeld _ _ _ _ _ _).trans hheld

theorem Device.partLand_eq {k : Core} (hheld : d.pmemHeld = []) (hk : k = d.core c) (hp : k.parts = [x]) (hlease : k.lease ≠ some (regionOf x.word))
    (hl : k.lapsed = none) : d.partLand c = d.setCore c ({ k with parts := [] }.land x) := by
  have hfind : (k.parts.find? fun x => k.lease != some (regionOf x.word) && !(k.lapsed.any fun y => regionOf y.word == regionOf x.word)) = some x := by
    rw [hp, hl]
    exact List.find?_cons_of_pos (by simpa using hlease)
  have hrest : k.parts.erase x = [] := by rw [hp, List.erase_cons_head]
  subst hk
  unfold Device.partLand
  dsimp only
  rw [hfind]
  dsimp only
  rw [hrest]
  exact Device.pmemNext_none hheld

end

theorem exec_leaseLapse (c : Nat) (s : State) : exec (.leaseLapse c) s = run (·.leaseLapse c) s := rfl
theorem exec_programWriteLand (c : Nat) (s : State) : exec (.programWriteLand c) s = run (·.partLand c) s := rfl

theorem leaseLapse_row {s : State} {c r : Nat} {x : PmemPart} (hs : s.inService = true) (hheld : s.dev.pmemHeld = [])
    (hlease : (s.dev.core c).lease = some r) (hl : (s.dev.core c).lapsed = none)
    (hx : ((s.dev.core c).parts.find? fun x => regionOf x.word == r) = some x) :
    ∃ t : State, exec (.leaseLapse c) s = .next t ∧ t.pending = s.pending ∧ t.dev.core c = (s.dev.core c).lapse x ∧
      t.dev.mem = s.dev.mem ∧ t.dev.queues = s.dev.queues ∧ ∀ y, y ≠ c → t.dev.core y = s.dev.core y := by
  obtain ⟨p, body, die, heq⟩ := Device.leaseLapse_eq (d := s.quiet.dev) hheld hlease hl hx
  have hat := ((Device.CoreIs.refl s.quiet.dev c).setCore ((s.quiet.dev.core c).lapse x)).at.logPart p 0x0502 0 body die
  generalize Device.logPart _ p 0x0502 0 body die = t at heq hat
  exact ⟨_, run_row hs (exec_leaseLapse c s) heq hat.seq.flowDone, rfl, hat.core, hat.seq.mem, hat.queues, hat.others⟩

/-! ### O19 -/

/-- Settles O19: the targets of a command are distinct, so what changes each of them changes each once (`Device.coresAre_foldl`): a part that lands,
a start, a stop. A word of CMD_PMEM_DATA lands, waits or is held (`Device.pmemPut_lands`, `pmemPut_waits`, `pmemPut_held`). -/
theorem programsLoadStartStop : Obligations.ProgramsLoadStartStop := by
  unfold Obligations.ProgramsLoadStartStop
  intro s hs
  refine ⟨?_, ?_, ?_, ?_, ?_, ?_⟩
  · intro p q idx c io e bs hc hu hn h hread hclear
    obtain rfl := Device.cmd_idx (Device.runningCmd_cmd hc)
    exact progLoad_row hs hc hu hn h hread hclear
  · intro p q idx c hc hb
    exact progStart_row hs hc hb
  · intro p q idx c hc hfree ht
    exact progStop_row hs hc hfree ht
  · intro w c a k hc ha hk hheld
    obtain ⟨t, ht, hpend, hword, hcore, hregs, hmem, hothers, hhold, hlands, hwaits⟩ := cmdPmemData_row (w := w) hs hc ha hk hheld
    exact ⟨t, ht, hpend, hword, hcore, hregs, hmem, hothers, hhold, fun h hl hp hlap => hlands h ⟨hl, hp, hlap⟩, hwaits⟩
  · intro c r x hheld hlease hl hx
    exact leaseLapse_row hs hheld hlease hl hx
  · intro c k x hheld hk hp hlease hl
    exact (exec_programWriteLand c s).trans (run_eq hs (Device.partLand_eq (d := s.quiet.dev) hheld hk hp hlease hl) rfl)

end Sys2Proof.Machine
end

section
/-! PROOF. R100, R101, R123: commands that start, and commands whose wait times out. -/

namespace Sys2Proof.Machine

/-! ### The CONTROL family at its start -/

section
variable {x : Desc} (h : opcodeOf x ≤ 2)
include h

theorem control_opcode : opcodeOf x = 0 ∨ opcodeOf x = 1 ∨ opcodeOf x = 2 := by omega

/-- R103: a CONTROL command takes no cores. -/
theorem takesCores_control : takesCores x = false := by
  unfold takesCores needsCores
  rcases control_opcode h with h | h | h
  all_goals rw [h]; rfl

/-- R131: a CONTROL command carries no flow item. -/
theorem cmdFlow_control : cmdFlow x = none := by
  have hfamily : ¬(opcodeOf x ∈ [0x20, 0x21, 0x22, 0x23, 0x40, 0x50, 0x51, 0x60, 0x81] ∨
      (opcodeOf x = 0xB0 ∧ 2 ≤ fieldOf x.q4 63 60 ∧ fieldOf x.q4 63 60 ≤ 4)) := by
    simp only [List.mem_cons, List.not_mem_nil, or_false]
    omega
  unfold cmdFlow
  rw [if_neg hfamily]
  rfl

/-- R127: a CONTROL command needs no engine. -/
theorem Device.engineNeeds_control (d : Device) (p : Nat) : d.engineNeeds p x = [] := by
  unfold Device.engineNeeds
  rcases control_opcode h with h | h | h
  all_goals rw [h]; rfl

/-- R103: the start checks find nothing of a CONTROL command. -/
theorem Device.startFault_control (d : Device) (p : Nat) : d.startFault p x = none := by
  unfold Device.startFault
  rcases control_opcode h with h | h | h
  all_goals rw [h]; rfl

end

theorem Device.startHeld_control {c : Cmd} (h : opcodeOf c.desc ≤ 2) (d : Device) (p q : Nat) : d.startHeld p q c = false := by
  unfold Device.startHeld
  dsimp only
  rcases control_opcode h with h | h | h
  all_goals rw [h]; rfl

section
variable {d : Device} {p q : Nat} {c : Cmd}

/-- R100, R101: a CONTROL command with no wait starts once those before it have left WAITING and, with FENCE, have retired. -/
theorem Device.startFate_control (hop : opcodeOf c.desc ≤ 2) (hskip : c.skip = none) (hw : waitOpOf c.desc = 0) (hctx : d.ctxState p = 1)
    (hleft : (d.earlier p q c.idx).all Cmd.left = true)
    (hfence : fenceOf c.desc = true → ((d.earlier p q c.idx).all fun b => b.st == .retired) = true) : d.startFate p q c = .starts := by
  have hheld : d.startsHeld p c.desc = false := by rw [Device.startsHeld, hctx, takesCores_control hop]; rfl
  have hmet : d.waitMet p q c = true := by rw [Device.waitMet, Device.cmdWaitObj, if_pos hw, hw]; rfl
  have hwait : (fenceOf c.desc && !((d.earlier p q c.idx).all fun b => b.st == .retired)) = false := by
    cases hf : fenceOf c.desc with
    | false => rfl
    | true => rw [hfence hf]; rfl
  unfold Device.startFate
  rw [hskip]
  dsimp only
  rw [hheld, hleft, hwait, hmet, Device.startHeld_control hop, Device.startFault_control hop, cmdFlow_control hop, Device.engineNeeds_control hop]
  rfl

/-! ### Changing every command of an index -/

/-- What a change makes of each command of an index holds of all of that index in the queue. -/
theorem Device.updCmd_all {i : Nat} {f : Cmd → Cmd} {Q P : Cmd → Prop} (hQ : ∀ b ∈ d.queue p q, b.idx = i → Q b) (hP : ∀ b, Q b → P (f b)) :
    ∀ b ∈ (d.updCmd p q i f).queue p q, b.idx = i → P b := by
  intro b hb hi
  rw [Device.updCmd, Device.queue_setQueue, if_pos rfl] at hb
  obtain ⟨a, ha, rfl⟩ := List.mem_map.1 hb
  by_cases ha' : a.idx = i
  · rw [if_pos ha']
    exact hP a (hQ a ha ha')
  · rw [if_neg ha'] at hi
    exact absurd hi ha'

/-- e is d after the next command of a queue may have entered WAITING, which none of index i does. -/
structure Device.QueueMoved (d e : Device) (p q i : Nat) : Prop where
  seq : d.SeqSame e
  cores : e.cores = d.cores
  cmd : e.cmd? p q i = d.cmd? p q i
  regs : ∀ r : Reg, r.offset ∉ logRegs.map Reg.offset → r.offset ≠ (Reg.cmdQStatus p q).offset → (∀ die, die < 4 → r.offset ≠ (Reg.synDieStatus die).offset) →
    e.reg r = d.reg r

/-- R100: the command that enters WAITING was FETCHED, so none of an index of which no command is FETCHED. -/
theorem Device.queueMoved_advanceQueue {i : Nat} (h : ∀ b ∈ d.queue p q, b.idx = i → b.st ≠ .fetched) : d.QueueMoved (d.advanceQueue p q) p q i := by
  unfold Device.advanceQueue
  dsimp only
  split
  · exact ⟨.refl d, rfl, rfl, fun _ _ _ _ => rfl⟩
  · split
    next => exact ⟨.refl d, rfl, rfl, fun _ _ _ _ => rfl⟩
    next b hb =>
      have hst : b.st = .fetched := by simpa only [beq_iff_eq] using List.find?_some hb
      have hne : b.idx ≠ i := fun hi => h b (List.mem_of_find?_eq_some hb) hi hst
      have hmoved : d.QueueMoved (d.updCmd p q b.idx fun c => { c with st := .waiting }) p q i :=
        ⟨(SeqSame.refl d).updCmd _ _ _ _, Device.updCmd_cores _ _ _ _ _, Device.cmd_updCmd_ne _ _ _ _ _ _ _ _ (fun _ h => h) (.inr hne.symm),
          fun r _ hr _ => Device.reg_updCmd _ _ _ _ _ _ hr⟩
      generalize d.updCmd p q b.idx _ = e at hmoved ⊢
      split
      next => exact hmoved
      next n hn =>
        split
        · exact hmoved
        · have hreg := e.registered_register n (cmdWaiter p q b)
          refine ⟨hmoved.seq.trans hreg.seq, hreg.cores.trans hmoved.cores, (Device.cmd_congr hreg.queues p q i).trans hmoved.cmd,
            fun r hlog hq hdie => (hreg.regs r hlog fun hin => hdie _ ?_).trans (hmoved.regs r hlog hq hdie)⟩
          simpa only [Reg.inRange, decide_eq_true_eq] using hin

/-! ### COMMAND_START -/

/-- R100: a command enters RUNNING. -/
def Device.running (d : Device) (p q idx : Nat) : Device :=
  d.updCmd p q idx fun x => { x with st := .running, item := (cmdFlow x.desc).isSome, stall := 0 }

/-- R252, R320: a command keeps the interval and the step in which it started. -/
def Device.stamped (d : Device) (p q idx gen step : Nat) : Device := d.updCmd p q idx fun x => { x with gen := gen, stepNo := step }

theorem Device.onStart_control (hop : opcodeOf c.desc ≤ 2) : d.onStart p q c = d.stamped p q c.idx (d.part p).gen (d.curStep p) := by
  have hstep : (opcodeOf c.desc == 0x70) = false := beq_eq_false_iff_ne.2 (by omega)
  unfold Device.onStart
  rw [hstep]
  dsimp only
  rcases control_opcode hop with h | h | h
  all_goals rw [h]; rfl

/-- R100: a CONTROL command with no wait that enters RUNNING. -/
theorem Device.enterRunning_control (hop : opcodeOf c.desc ≤ 2) (hw : waitOpOf c.desc = 0) : d.enterRunning p q c =
    ((d.running p q c.idx).stamped p q c.idx ((d.running p q c.idx).part p).gen ((d.running p q c.idx).curStep p)).advanceQueue p q := by
  have hobj (e : Device) : e.cmdWaitObj p c = none := if_pos hw
  have hdrop : d.dropCmdWaiter p q c = d := by rw [Device.dropCmdWaiter, hobj]
  have hnone (e : Device) : e.takeEntries p q c.idx (e.engineNeeds p c.desc) = e := by rw [Device.engineNeeds_control hop]; rfl
  have hrun : (d.updCmd p q c.idx fun x => { x with st := .running, item := (cmdFlow x.desc).isSome, stall := 0 }) = d.running p q c.idx := rfl
  unfold Device.enterRunning
  rw [hdrop]
  dsimp only
  rw [hobj, cmdFlow_control hop]
  dsimp only
  rw [hnone, hrun, if_neg (by omega), Device.onStart_control hop]

theorem cisPartStep_apart {p q : Nat} (hq : q < 64) : (Reg.cisPartStep p).offset ≠ (Reg.cmdQStatus p q).offset := by
  simp only [Reg.offset]
  omega

/-- A command that is in its queue, once changed. -/
theorem Device.cmd_updCmd_some {i : Nat} {f : Cmd → Cmd} (hc : d.cmd? p q i = some c) (hf : ∀ c : Cmd, c.idx = i → (f c).idx = i) :
    (d.updCmd p q i f).cmd? p q i = some (f c) := by
  rw [Device.cmd_updCmd _ _ _ _ _ hf, hc, Option.map_some]

/-- R100: a CONTROL command with no wait, after it has entered RUNNING. -/
theorem Device.enterRunning_spec (hq : q < 64) (hop : opcodeOf c.desc ≤ 2) (hw : waitOpOf c.desc = 0) (hc : d.cmd? p q c.idx = some c) :
    ∃ t : Device, d.enterRunning p q c = t ∧ d.SeqSame t ∧ t.cores = d.cores ∧
      t.cmd? p q c.idx = some { c with st := .running, item := false, stall := 0, gen := (d.part p).gen, stepNo := d.curStep p } := by
  have hgen : ((d.running p q c.idx).part p).gen = (d.part p).gen :=
    congrArg (fun m : SMap Part => (SMap.at' ({} : Part) m p).gen) (Device.updCmd_parts d p q c.idx _)
  have hstep : (d.running p q c.idx).curStep p = d.curStep p := by
    have hfld (f : RegField) : (d.running p q c.idx).fld (.cisPartStep p) f = d.fld (.cisPartStep p) f := Device.fld_updCmd _ _ _ _ _ _ _ (cisPartStep_apart hq)
    rw [Device.curStep, hfld, hfld]
    rfl
  have hrun : (d.running p q c.idx).cmd? p q c.idx = some { c with st := .running, item := false, stall := 0 } := by
    have := Device.cmd_updCmd_some (f := fun x => { x with st := .running, item := (cmdFlow x.desc).isSome, stall := 0 }) hc fun _ h => h
    rwa [cmdFlow_control hop] at this
  have hseq : d.SeqSame ((d.running p q c.idx).stamped p q c.idx (d.part p).gen (d.curStep p)) :=
    ((SeqSame.refl d).updCmd _ _ _ _).updCmd _ _ _ _
  have hcores : ((d.running p q c.idx).stamped p q c.idx (d.part p).gen (d.curStep p)).cores = d.cores :=
    (Device.updCmd_cores _ _ _ _ _).trans (Device.updCmd_cores _ _ _ _ _)
  have hcmd : ((d.running p q c.idx).stamped p q c.idx (d.part p).gen (d.curStep p)).cmd? p q c.idx =
      some { c with st := .running, item := false, stall := 0, gen := (d.part p).gen, stepNo := d.curStep p } :=
    Device.cmd_updCmd_some (f := fun x => { x with gen := (d.part p).gen, stepNo := d.curStep p }) hrun fun _ h => h
  have hnone : ∀ b ∈ ((d.running p q c.idx).stamped p q c.idx (d.part p).gen (d.curStep p)).queue p q, b.idx = c.idx → b.st ≠ .fetched :=
    Device.updCmd_all (Q := fun b => b.st ≠ .fetched)
      (Device.updCmd_all (Q := fun _ => True) (fun _ _ _ => trivial) fun _ _ => CmdState.noConfusion) fun _ h => h
  rw [Device.enterRunning_control hop hw, hgen, hstep]
  generalize (d.running p q c.idx).stamped p q c.idx (d.part p).gen (d.curStep p) = e at hseq hcores hcmd hnone
  have hmoved := Device.queueMoved_advanceQueue hnone
  exact ⟨_, rfl, hseq.trans hmoved.seq, hmoved.cores.trans hcores, hmoved.cmd.trans hcmd⟩

theorem Device.startWaiting_starts (hwait : d.waitingCmd p q = some c) (hw : waitOpOf c.desc = 0) (hfate : d.startFate p q c = .starts) :
    d.startWaiting p q = d.enterRunning p q c := by
  have hobj : d.cmdWaitObj p c = none := if_pos hw
  rw [Device.startWaiting, hwait]
  dsimp only
  rw [Device.tryStart, hobj, Device.leaveWaiting, hfate]

end

theorem exec_commandStart (p q : Nat) (s : State) : exec (.commandStart p q) s = run (·.startWaiting p q) s := rfl

theorem commandStart_row {s : State} {p q : Nat} {c : Cmd} (hq : q < 64) (hs : s.inService = true) (hwait : s.dev.waitingCmd p q = some c) (hskip : c.skip = none)
    (hop : opcodeOf c.desc ≤ 2) (hw : waitOpOf c.desc = 0) (hctx : s.dev.ctxState p = 1) (hc : s.dev.cmd? p q c.idx = some c)
    (hleft : (s.dev.earlier p q c.idx).all Cmd.left = true)
    (hfence : fenceOf c.desc = true → ((s.dev.earlier p q c.idx).all fun b => b.st == .retired) = true) :
    ∃ t : State, exec (.commandStart p q) s = .next t ∧ t.pending = s.pending ∧
      t.dev.cmd? p q c.idx = some { c with st := .running, item := false, stall := 0, gen := (s.dev.part p).gen, stepNo := s.dev.curStep p } ∧
      t.dev.mem = s.dev.mem ∧ t.dev.cores = s.dev.cores ∧ t.dev.readyLists = s.dev.readyLists := by
  obtain ⟨t, ht, hseq, hcores, hcmd⟩ := Device.enterRunning_spec (d := s.quiet.dev) hq hop hw hc
  have hfate := Device.startFate_control (d := s.quiet.dev) (q := q) hop hskip hw hctx hleft hfence
  have heq := (Device.startWaiting_starts (d := s.quiet.dev) hwait hw hfate).trans ht
  exact ⟨_, run_row hs (exec_commandStart p q s) heq hseq.flowDone, rfl, hcmd, hseq.mem, hcores, hseq.readyLists⟩

/-! ### COMMAND_TIMEOUT -/

section
variable {d : Device} {p q : Nat} {c : Cmd}

/-- R100: a command whose wait has timed out is DONE with STATUS 0x03, counted in TIMEOUTS. -/
def Device.timedOut (d : Device) (p q : Nat) (c : Cmd) : Device :=
  ((d.dropCmdWaiter p q c).updCmd p q c.idx fun c => { c with st := .done, status := 3, skip := none }).bump (.cmdPartStatus p)
    Fd.cmdPartStatusTimeouts

/-- R100, R101, R123: what keeps a command in WAITING whatever its family asks: its partition, the commands before it, its wait. -/
def Device.StaysWaiting (d : Device) (p q : Nat) (c : Cmd) : Prop :=
  d.startsHeld p c.desc = true ∨ (!((d.earlier p q c.idx).all Cmd.left) ||
    (fenceOf c.desc && !(d.earlier p q c.idx).all fun b => b.st == .retired)) = true ∨ (!d.waitMet p q c) = true

theorem Device.startFate_stays (hskip : c.skip = none) : d.startFate p q c = .stays ↔ d.StaysWaiting p q c := by
  unfold Device.startFate Device.StaysWaiting
  rw [hskip]
  dsimp only
  split
  next hheld => exact iff_of_true rfl (.inl hheld)
  next hheld =>
    split
    next hbefore => exact iff_of_true rfl (.inr (.inl hbefore))
    next hbefore =>
      split
      next hwait => exact iff_of_true rfl (.inr (.inr hwait))
      next hwait =>
        refine iff_of_false (fun h => ?_) fun h => h.elim hheld fun h => h.elim hbefore hwait
        split at h
        · cases h
        · split at h
          · cases h
          · split at h
            · cases h
            · cases h
            · split at h <;> cases h
          · split at h <;> cases h

theorem Device.tryStart_stays (h : d.startFate p q c = .stays) : d.tryStart p q c = d := by
  rw [Device.tryStart, Device.leaveWaiting, h]
  dsimp only
  split
  · rfl
  · exact if_pos rfl

/-- R118: a command that no longer waits leaves an object. -/
theorem Device.dropCmdWaiter_objs (d : Device) (p q : Nat) (c : Cmd) : ∃ m : SMap SyncObj, d.dropCmdWaiter p q c = { d with objs := m } := by
  unfold Device.dropCmdWaiter
  split
  · exact ⟨d.objs, rfl⟩
  · exact ⟨_, rfl⟩

theorem cmdPartStatus_apart {p q : Nat} : (Reg.cmdPartStatus p).offset ≠ (Reg.cmdQStatus p q).offset := by simp only [Reg.offset]; omega

/-- What the timeout of a command's wait leaves, before the queue goes on. -/
theorem Device.timedOut_spec (hp : p < 8) (hc : d.cmd? p q c.idx = some c) : ∃ t : Device, d.timedOut p q c = t ∧ d.SeqSame t ∧ t.cores = d.cores ∧
    t.cmd? p q c.idx = some { c with st := .done, status := 3, skip := none } ∧ (∀ b ∈ t.queue p q, b.idx = c.idx → b.st ≠ .fetched) ∧
    t.fld (.cmdPartStatus p) Fd.cmdPartStatusTimeouts =
      satAdd Fd.cmdPartStatusTimeouts.width (d.fld (.cmdPartStatus p) Fd.cmdPartStatusTimeouts) 1 ∧
    ∀ f, t.flag (.cmdQCfg p q) f = d.flag (.cmdQCfg p q) f := by
  have hin : (Reg.cmdPartStatus p).inRange = true := by simpa only [Reg.inRange, decide_eq_true_eq] using hp
  have hcfgPart : (Reg.cmdQCfg p q).offset ≠ (Reg.cmdPartStatus p).offset := by simp only [Reg.offset]; omega
  have hcfgQueue : (Reg.cmdQCfg p q).offset ≠ (Reg.cmdQStatus p q).offset := by simp only [Reg.offset]; omega
  obtain ⟨m, hm⟩ := d.dropCmdWaiter_objs p q c
  have hdrop : d.SeqSame { d with objs := m } := rfl
  rw [Device.timedOut, hm]
  refine ⟨_, rfl, (hdrop.updCmd _ _ _ _).bump _ _ _, (Device.setFld_cores _ _ _ _).trans (Device.updCmd_cores _ _ _ _ _), ?_, ?_, ?_, fun f => ?_⟩
  · rw [Device.bump, Device.cmd_congr (Device.setFld_queues _ _ _ _)]
    exact Device.cmd_updCmd_some (d := { d with objs := m }) (f := fun c => { c with st := .done, status := 3, skip := none }) hc fun _ h => h
  · rw [Device.bump, Device.queue_congr (Device.setFld_queues _ _ _ _) p q]
    exact Device.updCmd_all (Q := fun _ => True) (fun _ _ _ => trivial) fun _ _ => CmdState.noConfusion
  · rw [Device.fld_bump_self _ _ _ _ hin (by decide) (by decide), Device.fld_updCmd _ _ _ _ _ _ _ cmdPartStatus_apart]
    rfl
  · rw [Device.flag, Device.bump, Device.fld_setFld_ne _ _ _ _ _ _ hcfgPart, Device.fld_updCmd _ _ _ _ _ _ _ hcfgQueue]
    rfl

theorem Device.stopOnTimeout_off {status : Nat} (h : d.flag (.cmdQCfg p q) Fd.cmdQCfgStopOnTimeout = false) : d.stopOnTimeout p q c status = d :=
  if_neg fun g => Bool.false_ne_true (h.symm.trans g.2)

theorem Device.cmdTimeout_eq (hwait : d.waitingCmd p q = some c) (hf : d.frozen p = false) (hc : d.cmd? p q c.idx = some c)
    (hfate : d.startFate p q c = .stays) : d.cmdTimeout p q = ((d.timedOut p q c).stopOnTimeout p q c 3).advanceQueue p q := by
  have hst : c.st = .waiting := by simpa only [beq_iff_eq] using List.find?_some hwait
  unfold Device.cmdTimeout
  rw [hf, if_neg Bool.false_ne_true, hwait]
  dsimp only
  rw [Device.tryStart_stays hfate, hc]
  dsimp only
  rw [if_pos hst]
  rfl

theorem cmdPartStatus_not_logged {p : Nat} (hp : p < 8) : (Reg.cmdPartStatus p).offset ∉ logRegs.map Reg.offset :=
  logRegs_apart _ (by simp only [Reg.offset]; omega) (fun k hk => by simp only [Reg.offset]; omega) fun k hk => by
    simp only [Reg.offset]; omega

/-- R100, R102, R123: a command whose wait times out while a condition holds it, on a ring that does not stop. -/
theorem Device.cmdTimeout_spec (hp : p < 8) (hwait : d.waitingCmd p q = some c) (hf : d.frozen p = false) (hc : d.cmd? p q c.idx = some c)
    (hfate : d.startFate p q c = .stays) (hoff : d.flag (.cmdQCfg p q) Fd.cmdQCfgStopOnTimeout = false) :
    ∃ t : Device, d.cmdTimeout p q = t ∧ d.SeqSame t ∧ t.cores = d.cores ∧
      t.cmd? p q c.idx = some { c with st := .done, status := 3, skip := none } ∧
      t.fld (.cmdPartStatus p) Fd.cmdPartStatusTimeouts =
        satAdd Fd.cmdPartStatusTimeouts.width (d.fld (.cmdPartStatus p) Fd.cmdPartStatusTimeouts) 1 := by
  obtain ⟨e, he, hseq, hcores, hcmd, hnone, hcount, hflag⟩ := Device.timedOut_spec hp hc
  have heq := Device.cmdTimeout_eq hwait hf hc hfate
  rw [he, Device.stopOnTimeout_off ((hflag _).trans hoff)] at heq
  have hmoved := Device.queueMoved_advanceQueue hnone
  refine ⟨_, heq, hseq.trans hmoved.seq, hmoved.cores.trans hcores, hmoved.cmd.trans hcmd, ?_⟩
  rw [← hcount, Device.fld, Device.fld,
    hmoved.regs _ (cmdPartStatus_not_logged hp) cmdPartStatus_apart fun die _ => by simp only [Reg.offset]; omega]

end

theorem exec_commandTimeout (p q : Nat) (s : State) : exec (.commandTimeout p q) s = run (·.cmdTimeout p q) s := rfl

end Sys2Proof.Machine
end

section
/-! PROOF. O15: starts, time-outs, and the ready lists (R129). -/

namespace Sys2Proof.Machine

/-! ### The oldest entry, the highest level -/

/-- R129: the oldest entry of a list is one of it, and none of it is older. -/
theorem oldest_some {l : List ReadyEntry} {e : ReadyEntry} (h : oldest l = some e) : e ∈ l ∧ ∀ x ∈ l, e.since ≤ x.since := by
  induction l generalizing e with
  | nil => cases h
  | cons y l ih =>
    rw [oldest] at h
    split at h
    next hnone =>
      cases h
      cases l with
      | nil => exact ⟨List.mem_cons_self, fun x hx => by rw [List.mem_singleton.1 hx]⟩
      | cons z l =>
        rw [oldest] at hnone
        split at hnone
        · cases hnone
        · split at hnone <;> cases hnone
    next f hf =>
      obtain ⟨hmem, hle⟩ := ih hf
      split at h
      next hyf =>
        cases h
        exact ⟨List.mem_cons_self, List.forall_mem_cons.2 ⟨le_rfl, fun x hx => hyf.trans (hle x hx)⟩⟩
      next hyf =>
        cases h
        exact ⟨List.mem_cons_of_mem _ hmem, List.forall_mem_cons.2 ⟨(not_le.1 hyf).le, hle⟩⟩

theorem oldest_none {l : List ReadyEntry} (h : oldest l = none) : l = [] := by
  cases l with
  | nil => rfl
  | cons y l =>
    rw [oldest] at h
    split at h
    · cases h
    · split at h <;> cases h

/-- R129: the lowest level of a list is that of an entry of it, and none of it has a lower one. -/
theorem foldl_min_level (es : List ReadyEntry) (m : Nat) :
    (es.foldl (fun m x => min m x.level) m = m ∨ ∃ x ∈ es, x.level = es.foldl (fun m x => min m x.level) m) ∧
      es.foldl (fun m x => min m x.level) m ≤ m ∧ ∀ x ∈ es, es.foldl (fun m x => min m x.level) m ≤ x.level := by
  induction es generalizing m with
  | nil => exact ⟨.inl rfl, le_rfl, fun _ h => absurd h List.not_mem_nil⟩
  | cons e es ih =>
    obtain ⟨hex, hm, hall⟩ := ih (min m e.level)
    rw [List.foldl_cons]
    refine ⟨?_, hm.trans (min_le_left _ _), List.forall_mem_cons.2 ⟨hm.trans (min_le_right _ _), hall⟩⟩
    rcases hex with heq | ⟨x, hx, hlevel⟩
    · rcases min_choice m e.level with h | h
      · exact .inl (heq.trans h)
      · exact .inr ⟨e, List.mem_cons_self, (heq.trans h).symm⟩
    · exact .inr ⟨x, List.mem_cons_of_mem _ hx, hlevel⟩

/-! ### One grant -/

/-- t is d after entry e, which waits on a die at a level, has been granted: the oldest of its partition at that level. -/
structure Device.Grants (d t : Device) (die k lvl : Nat) (e : ReadyEntry) : Prop where
  waits : e ∈ d.waitingEntries die k
  level : e.level = lvl
  oldest : ∀ x ∈ d.waitingEntries die k, x.part = e.part → x.level = e.level → e.since ≤ x.since
  ready : t.readyOf die = (d.readyOf die).map fun x => if x = e then { x with granted := true } else x
  frame : t = { d with rr := t.rr, left := t.left, readyLists := t.readyLists }

/-- R129: the entries of a partition that wait on a die for an engine of a class at a level. -/
def Device.mine (d : Device) (die k lvl p : Nat) : List ReadyEntry :=
  (d.readyOf die).filter fun e => e.part == p && e.cls == k && e.level == lvl && !e.granted

/-- R129: the turn of the next partition, with its share. -/
def Device.nextTurn (d : Device) (die k : Nat) : Device :=
  { d with
    rr := SMap.set (fun _ => 0) d.rr (16 * die + k) ((SMap.at' 0 d.rr (16 * die + k) + 1) % 8)
    left := SMap.set (fun _ => 0) d.left (16 * die + k) (d.share die ((SMap.at' 0 d.rr (16 * die + k) + 1) % 8)) }

section
variable {d : Device} {die k lvl : Nat}

theorem Device.mem_mine {p : Nat} {x : ReadyEntry} : x ∈ d.mine die k lvl p ↔ x ∈ d.waitingEntries die k ∧ x.part = p ∧ x.level = lvl := by
  simp only [Device.mine, Device.waitingEntries, List.mem_filter, Bool.and_eq_true, beq_iff_eq]
  tauto

theorem Device.turn_nextTurn : SMap.at' 0 (d.nextTurn die k).rr (16 * die + k) = (SMap.at' 0 d.rr (16 * die + k) + 1) % 8 :=
  SMap.get_set_self _ _ _ _

/-- R129: a share is at least 1. -/
theorem Device.left_nextTurn : 0 < SMap.at' 0 (d.nextTurn die k).left (16 * die + k) := by
  refine (Nat.lt_of_lt_of_eq ?_ (SMap.get_set_self _ _ _ _).symm)
  exact Nat.one_pos.trans_le (le_max_left _ _)

/-- R129: one turn of the search: the partition whose turn it is has an entry granted, where it has one and some of its share is left;
else the turn goes on. -/
theorem Device.grantLoop_step (fuel : Nat) :
    (∃ e, d.Grants (Device.grantLoop die k lvl (fuel + 1) d) die k lvl e) ∨
      (SMap.at' 0 d.left (16 * die + k) = 0 ∨ d.mine die k lvl (SMap.at' 0 d.rr (16 * die + k)) = []) ∧
        Device.grantLoop die k lvl (fuel + 1) d = Device.grantLoop die k lvl fuel (d.nextTurn die k) := by
  rw [Device.grantLoop]
  dsimp only
  split
  next e hleft he =>
    obtain ⟨hmem, hle⟩ := oldest_some he
    obtain ⟨hwaits, hpart, hlevel⟩ := Device.mem_mine.1 hmem
    exact .inl ⟨e, hwaits, hlevel, fun x hx hp hl => hle x (Device.mem_mine.2 ⟨hx, hp.trans hpart, hl.trans hlevel⟩),
      Device.readyOf_setReady_self _ _ _, rfl⟩
  next hnot =>
    refine .inr ⟨(Nat.eq_zero_or_pos _).imp_right fun hpos => ?_, rfl⟩
    cases ho : oldest (d.mine die k lvl (SMap.at' 0 d.rr (16 * die + k))) with
    | none => exact oldest_none ho
    | some e => exact (hnot e (decide_eq_true hpos) ho).elim

/-- What is granted after the turn has gone on is granted. -/
theorem Device.Grants.of_nextTurn {t : Device} {e : ReadyEntry} (h : (d.nextTurn die k).Grants t die k lvl e) : d.Grants t die k lvl e where
  waits := h.waits
  level := h.level
  oldest := h.oldest
  ready := h.ready
  frame := h.frame

/-- R129: with some of its share left, the partition whose turn it is, j before one that has an entry, or one of those between is granted one. -/
theorem Device.grantLoop_reaches {fuel : Nat} : ∀ {d : Device} {j : Nat}, 0 < SMap.at' 0 d.left (16 * die + k) → j < fuel →
    d.mine die k lvl ((SMap.at' 0 d.rr (16 * die + k) + j) % 8) ≠ [] → SMap.at' 0 d.rr (16 * die + k) < 8 →
    ∃ e, d.Grants (Device.grantLoop die k lvl fuel d) die k lvl e := by
  induction fuel with
  | zero => exact fun _ hj => absurd hj (Nat.not_lt_zero _)
  | succ fuel ih =>
    intro d j hleft hj hmine hturn
    rcases d.grantLoop_step (die := die) (k := k) (lvl := lvl) fuel with hgrants | ⟨hnone, heq⟩
    · exact hgrants
    · have hempty := hnone.resolve_left hleft.ne'
      cases j with
      | zero =>
        rw [Nat.add_zero, Nat.mod_eq_of_lt hturn] at hmine
        exact absurd hempty hmine
      | succ j =>
        have hnext : (SMap.at' 0 (d.nextTurn die k).rr (16 * die + k) + j) % 8 = (SMap.at' 0 d.rr (16 * die + k) + (j + 1)) % 8 := by
          rw [Device.turn_nextTurn]
          omega
        obtain ⟨e, he⟩ := ih (d := d.nextTurn die k) (j := j) Device.left_nextTurn (Nat.lt_of_succ_lt_succ hj) (by rw [hnext]; exact hmine)
          (by rw [Device.turn_nextTurn]; exact Nat.mod_lt _ (by decide))
        exact ⟨e, heq ▸ he.of_nextTurn⟩

/-- R129: nine turns ask every partition with its share. -/
theorem Device.grantLoop_grants {p : Nat} (hp : p < 8) (h : d.mine die k lvl p ≠ []) : ∃ e, d.Grants (Device.grantLoop die k lvl 10 d) die k lvl e := by
  rcases d.grantLoop_step (die := die) (k := k) (lvl := lvl) 9 with hgrants | ⟨-, heq⟩
  · exact hgrants
  · have hturn : SMap.at' 0 (d.nextTurn die k).rr (16 * die + k) < 8 := by
      rw [Device.turn_nextTurn]
      exact Nat.mod_lt _ (by decide)
    have hdist : (SMap.at' 0 (d.nextTurn die k).rr (16 * die + k) + (p + 8 - SMap.at' 0 (d.nextTurn die k).rr (16 * die + k)) % 8) % 8 = p := by
      omega
    obtain ⟨e, he⟩ := Device.grantLoop_reaches (d := d.nextTurn die k) (lvl := lvl) (fuel := 9) Device.left_nextTurn
      ((Nat.mod_lt _ (by decide)).trans (by decide : 8 < 9)) (by rw [hdist]; exact h) hturn
    exact ⟨e, heq ▸ he.of_nextTurn⟩

/-- R129: a free engine is granted at the highest level that holds an entry of its class. -/
theorem Device.readyGrant_grants (hfree : d.engineFree die k = true) (hne : d.waitingEntries die k ≠ [])
    (hparts : ∀ e ∈ d.waitingEntries die k, e.part < 8) :
    ∃ e lvl, d.Grants (d.readyGrant die k) die k lvl e ∧ ∀ x ∈ d.waitingEntries die k, lvl ≤ x.level := by
  unfold Device.readyGrant
  split
  next h => exact absurd h hne
  next e es h =>
    obtain ⟨hex, hle, hall⟩ := foldl_min_level es e.level
    rw [if_pos hfree]
    generalize es.foldl (fun m x => min m x.level) e.level = lvl at hex hle hall
    have hlow : ∃ x ∈ d.waitingEntries die k, x.level = lvl := by
      rw [h]
      rcases hex with heq | ⟨x, hx, hlevel⟩
      · exact ⟨e, List.mem_cons_self, heq.symm⟩
      · exact ⟨x, List.mem_cons_of_mem _ hx, hlevel⟩
    obtain ⟨x, hx, hlevel⟩ := hlow
    obtain ⟨y, hy⟩ := Device.grantLoop_grants (hparts x hx) (List.ne_nil_of_mem (Device.mem_mine.2 ⟨hx, rfl, hlevel⟩))
    exact ⟨y, lvl, hy, by rw [h]; exact List.forall_mem_cons.2 ⟨hle, hall⟩⟩

end

theorem exec_readyGrant (die k : Nat) (s : State) : exec (.readyGrant die k) s = run (·.readyGrant die k) s := rfl
theorem exec_readyAge (die p q idx : Nat) (s : State) : exec (.readyAge die p q idx) s = run (·.readyAge die p q idx) s := rfl

theorem readyGrant_row {s : State} {die k : Nat} (hs : s.inService = true) (hfree : s.dev.engineFree die k = true)
    (hne : s.dev.waitingEntries die k ≠ []) (hparts : ∀ e ∈ s.dev.waitingEntries die k, e.part < 8) :
    ∃ (t : State) (e : ReadyEntry), exec (.readyGrant die k) s = .next t ∧ t.pending = s.pending ∧ e ∈ s.dev.waitingEntries die k ∧
      (∀ x ∈ s.dev.waitingEntries die k, e.level ≤ x.level) ∧
      (∀ x ∈ s.dev.waitingEntries die k, x.part = e.part → x.level = e.level → e.since ≤ x.since) ∧
      t.dev.readyOf die = (s.dev.readyOf die).map (fun x => if x = e then { x with granted := true } else x) ∧
      t.dev.mem = s.dev.mem ∧ t.dev.queues = s.dev.queues ∧ t.dev.cores = s.dev.cores ∧ t.dev.regs = s.dev.regs := by
  obtain ⟨e, lvl, hgrant, hlow⟩ := Device.readyGrant_grants (d := s.quiet.dev) hfree hne hparts
  have hf := hgrant.frame
  have hlevel := hgrant.level
  subst hlevel
  exact ⟨_, e, run_row hs (exec_readyGrant die k s) rfl (congrArg Device.flowDone hf :), rfl, hgrant.waits, hlow, hgrant.oldest, hgrant.ready,
    (congrArg Device.mem hf :), (congrArg Device.queues hf :), (congrArg Device.cores hf :), (congrArg Device.regs hf :)⟩

/-! ### O15 -/

/-- Settles O15: a CONTROL command that nothing holds starts (`Device.startFate_control`), one that stays is timed out (`Device.cmdTimeout_spec`);
the command that follows it is another, since it was FETCHED (`Device.queueMoved_advanceQueue`). The search for a grant asks every partition with
its share (`Device.grantLoop_grants`). -/
theorem commandsStartAndAge : Obligations.CommandsStartAndAge := by
  unfold Obligations.CommandsStartAndAge
  refine ⟨?_, ?_, ?_, ?_⟩
  · intro s p q c _ hq hs hwait hskip hop hw hctx hc hleft hfence
    exact commandStart_row hq hs hwait hskip hop hw hctx hc hleft hfence
  · intro s p q c hs hwait hskip hf hc hfate hoff hp _
    have hstays : s.quiet.dev.StaysWaiting p q c := (s.dev.startFate_stays hskip).1 hfate
    obtain ⟨t, ht, hseq, hcores, hcmd, hcount⟩ := Device.cmdTimeout_spec (d := s.quiet.dev) hp hwait hf hc ((s.quiet.dev.startFate_stays hskip).2 hstays) hoff
    exact ⟨_, run_row hs (exec_commandTimeout p q s) ht hseq.flowDone, rfl, hcmd, hcount, hseq.mem, hcores, hseq.readyLists⟩
  · intro s die k hs hfree hne hparts
    exact readyGrant_row hs hfree hne hparts
  · intro s die p q idx hs
    exact (exec_readyAge die p q idx s).trans (run_eq hs rfl rfl)

end Sys2Proof.Machine
end
